-- ==== Sys2Proof/Word.lean ====
section
/-! DEFINITION. The word types of the part: the 64-bit general register, the byte, the 32-bit control register and
the 256-bit Ply register (00 R9, 05 R152, 07 R219). -/
namespace Sys2Proof

/-- A general register or a virtual address (07 R219). -/
abbrev Word := BitVec 64

/-- One byte of memory. -/
abbrev Byte := BitVec 8

/-- The value of a control register (00 R9). -/
abbrev Reg32 := BitVec 32

/-- A Ply register (05 R152). -/
abbrev VWord := BitVec 256

end Sys2Proof
end

