-- ==== Sys2Proof/Syntax.lean ====
section
/-! DEFINITION. The commands of the block: one constructor per row of spec/opcode_table.json (447 rows; no row has
bits). A core instruction carries its LCN and the fields of its encoding; an event carries what the outside world or
the unit supplies with it. -/
namespace Sys2Proof

/-- Who issues a register access (00 R12, 03 R122). -/
inductive Requester where
  /-- a core, by its LCN -/
  | core (l : Fin 384)
  /-- Distaff's management channel, which also carries Almanac and MCTP -/
  | distaff
  /-- the host, through BAR0 of a function of an endpoint bundle; function 0 is the PF, n the VF n − 1 (14 R442) -/
  | func (bd : Fin 8) (fn : Fin 1025)
  /-- a device behind a root-port bundle -/
  | rootPort (bd : Fin 8)
  deriving DecidableEq, Repr

/-- Where a register lies: in control space (00 R6), in the BAR0 of a function (14 R442), or in its
configuration space (14 R443 to R446). -/
inductive RegAddr where
  | ctl (pa : BitVec 52)
  | bar (bd : Fin 8) (fn : Fin 1025) (off : BitVec 17)
  /-- an access to BAR0 that is neither an aligned 32-bit one nor an aligned 64-bit one of the MSI-X table, which is its
  two words (14 R442) -/
  | barOther (bd : Fin 8) (fn : Fin 1025)
  | cfg (bd : Fin 8) (fn : Fin 1025) (off : BitVec 12)
  deriving DecidableEq, Repr

/-- Through which transport a command of chapter 18 comes. On MCTP and in a mailbox it carries SEQ and a tag, and the
verdict on the tag stands beside it (18 R571). -/
inductive Caller where
  /-- Almanac on UART0 -/
  | almanac
  /-- an MCTP endpoint over I3C, by its endpoint number -/
  | mctp (eid : BitVec 8) (seq : BitVec 32) (tagOk : Bool)
  /-- the DST mailbox of a skein, from a core at K or at SK -/
  | mbx (sk : Fin 16) (secure : Bool) (seq : BitVec 32) (tagOk : Bool)
  deriving DecidableEq, Repr

/-- The result codes of R16. -/
inductive Status where
  | ok | state | denied | conflict | range | busy | flushed | timeout | poison | dead | empty | full | halted
  | integrity | unsupported | domainOff
  deriving DecidableEq, Repr

/-- The operations of R236. -/
inductive AtomKind where
  | swap | add | and | or | xor | min | max | sadd | cas
  deriving DecidableEq, Repr

/-- A far atomic as it reaches the home (R358): the operation, the byte offset in the line, the size, signedness, the
operand and, for CAS, the value compared. -/
structure AtomOp where
  kind : AtomKind
  off : BitVec 6
  dword : Bool
  unsigned : Bool
  operand : BitVec 64
  compare : BitVec 64
  deriving DecidableEq, Repr


/-- The agents of a directory entry, by bit (11 R352): dies 0 to 15, then BQ, RPC, GST0, GST1, DST, HANK. -/
abbrev AgentId := Fin 22

/-- What answers a read or a DEVICE access outside the package (14 R436, 04 R620). -/
inductive Completion where
  /-- successful, with the data of a read -/
  | ok (data : List (BitVec 8))
  /-- Unsupported Request -/
  | ur
  /-- Completer Abort -/
  | ca
  /-- data with EP set -/
  | poisoned
  /-- Request Retry Status -/
  | retry
  deriving DecidableEq, Repr

/-- The types of a Hank message (15 R480). -/
inductive HankType where
  | item | creq | crel | grant | refuse | revoke
  deriving DecidableEq, Repr

/-- A Hank message (15 R480). -/
structure HankMsg where
  mtype : HankType
  status : BitVec 8
  qa : BitVec 32
  grant : BitVec 32
  aux : BitVec 32
  /-- the body, without its padding: the item of an ITEM -/
  body : List (BitVec 8)
  deriving DecidableEq, Repr

/-- A frame as a Hank port receives it (15 R479): the Ethernet fields, and the bytes from VER to the end of its
payload. -/
structure HankFrame where
  dst : BitVec 48
  src : BitVec 48
  ethertype : BitVec 16
  fcsOk : Bool
  payload : List (BitVec 8)
  deriving DecidableEq, Repr

/-- What a HELLO tells (15 R473). -/
structure HelloFrame where
  sys : Fin 2048
  srcPort : Fin 8
  mac : BitVec 48
  incarn : BitVec 32
  deriving DecidableEq, Repr

/-- The DRAM coordinates of a row of one device (13 R406, R413). -/
structure RowAddr where
  dev : Fin 10
  sub : Fin 2
  rank : Fin 4
  cid : Fin 8
  bg : Fin 8
  bank : Fin 4
  row : BitVec 17
  deriving DecidableEq, Repr

/-- What the decoder finds in a burst (13 R410). -/
inductive EccOutcome where
  | clean
  | corrected (dev : Fin 10)
  | uncorrectable
  | poisonCode
  deriving DecidableEq, Repr

/-- What the SPDs of one channel tell (13 R401, R402), and the repair resources its mode registers report. -/
structure SpdChannel where
  dimms : Fin 3
  gibPerDimm : Nat
  ranksPerDimm : Fin 3
  /-- 16 or 32 Gb -/
  densityGb : Nat
  stack : Nat
  /-- the highest speed it allows, in units of 100 MT/s -/
  rate : Nat
  registered : Bool
  x4 : Bool
  ecc : Bool
  softResources : Nat
  hardResources : Nat
  deriving DecidableEq, Repr

/-- What training a channel ends in (13 R421): the values found, by offset in the channel's block. -/
structure DramTrain where
  mc : Fin 16
  ok : Bool
  delays : List (BitVec 16 × BitVec 32)
  /-- the device that still fails, by 2 × rank + subchannel (13 R411) -/
  marks : List (Fin 8 × Fin 10)
  deriving DecidableEq, Repr

/-- What training a die link ends in (12 R394): lanes that fail, by receiving end, module and lane, and modules that
cannot be trained. -/
structure LinkTrain where
  die : Fin 16
  lanes : List (Bool × Fin 2 × Fin 70)
  dead : List (Fin 2)
  deriving DecidableEq, Repr

/-- What a drift check finds for one delay register: its offset in the channel's block and its corrected NEXT value
(13 R422). -/
structure DriftSample where
  off : BitVec 16
  next : BitVec 32
  deriving DecidableEq, Repr

/-- What reading a firmware copy tells the ROM (18 R558). -/
structure FwCheck where
  ok : Bool
  version : Nat
  deriving DecidableEq, Repr

/-- What a start finds outside the device: the firmware copies, the DIMMs, the incarnation number that is drawn, and
whether the audit ring in SRAM still checks (18 R557 to R562, 13 R402, 15 R474). -/
structure BootInputs where
  f0 : FwCheck
  f1 : FwCheck
  spd : List SpdChannel
  incarn : BitVec 32
  ringOk : Bool
  deriving DecidableEq, Repr

/-- What cryptography says of an image: its signature under the slot it names, and the maker's countersignature (02
R55, R52). -/
structure ImgVerdict where
  sig : Bool
  maker : Bool
  /-- every role key unwraps (02 R53) -/
  keys : Bool
  deriving DecidableEq, Repr

/-- What cryptography says of a delta: its tag or signature (02 R63). -/
structure DeltaVerdict where
  auth : Bool
  deriving DecidableEq, Repr

/-- What a guest port's partner answers (12 R396). -/
inductive GuestResult where
  | silent
  | identity (id : BitVec 64)
  | trained (rate modules : Nat) (x64 : Bool)
  deriving DecidableEq, Repr

/-- A request of a device behind a root port (14 R437, 09 R303). -/
structure DmaReq where
  rid : BitVec 16
  addr : BitVec 64
  /-- 0 memory read, 1 memory write, 2 FetchAdd, 3 Swap, 4 CAS, 5 a configuration, I/O or other request -/
  kind : Fin 6
  len : Nat
  /-- data written, or the operand of an atomic and after it the value compared -/
  data : List (BitVec 8)
  /-- the request carries a PASID or a translated address -/
  ats : Bool
  poisoned : Bool
  noSnoop : Bool
  /-- Relaxed Ordering (14 R438) -/
  relaxed : Bool
  deriving DecidableEq, Repr

/-- Hub units without a replacement (16 R502). -/
inductive HubUnit where
  | homeAgent | memoryController | interruptRouter | powerController | timebase | hubRouter
  deriving DecidableEq, Repr

/-- The causes of SAFE (16 R519). -/
inductive SafeCause where
  | distaff | image
  | swdog (sk : Fin 16)
  | thermal | spares | boot | command
  deriving DecidableEq, Repr

/-- What a packet MSG carries (12 R372): a queue instruction of a core, an inbox send, or a delivery of the router. -/
inductive MsgKind where
  | queueInstr (l : Fin 384)
  | inboxSend (l : Fin 384) (vector : BitVec 8) (secure : Bool) (sk : Fin 16)
  | delivery (l : Fin 384) (vector : BitVec 8) (secure : Bool) (sk : Fin 16)
  deriving DecidableEq, Repr

/-- A router port that can be isolated (12 R383). -/
inductive MeshPort where
  | core (site : Fin 16) (n : Fin 28)
  | dieStop (d : Fin 16)
  | rootPort (b : Fin 8)
  | guest (g : Fin 2)
  deriving DecidableEq, Repr

/-- What a reel or a restore finds unreadable (16 R508, R515): the classes lost, and whether the pc or the current
world's bank is among what is lost. -/
structure ReelLoss where
  mask : BitVec 8
  fatal : Bool
  deriving DecidableEq, Repr

/-- An array in which ECC finds an error (16 R502). -/
inductive ArrayUnit where
  | l1i (p : Fin 448)
  | l1d (p : Fin 448)
  | l2 (p : Fin 448)
  | l3 (die : Fin 16) (slice : Fin 28)
  | hc (slice : Fin 32)
  | dirCache (slice : Fin 32)
  | ctxCache
  | distaff
  deriving DecidableEq, Repr

/-- An array error: where, the row and way, whether it was corrected, and the line concerned. -/
structure ArrayError where
  unit : ArrayUnit
  row : Nat
  way : Fin 16
  corrected : Bool
  line : Option Nat
  deriving DecidableEq, Repr

/-- A line with the data of its packet: what a hub agent writes back; a die's caches hold theirs themselves (11 R353, 12 R372). -/
structure LineData where
  line : Nat
  data : List (BitVec 8)
  deriving DecidableEq, Repr

/-- The commands, one per row of the table. -/
inductive Instr where
  /-- REGISTER_WRITE (R12): A write to a control or system register that has no row of its own updates its fields according to their access codes; writes to locked, read-only or claimed fields are ignored or refused. -/
  | registerWrite (q : Requester) (ra : RegAddr) (v : BitVec 32)
  /-- RC_REGISTER_READ (R12): A read of an rc field returns the value and then clears it. -/
  | rcRegisterRead (q : Requester) (ra : RegAddr)
  /-- PAIR_LO_READ (R10): A read of a _LO register returns the low half and copies the high half into the pair's holding latch. -/
  | pairLoRead (q : Requester) (ra : RegAddr)
  /-- PAIR_LO_WRITE (R10): A write to a _LO register is held without taking effect. -/
  | pairLoWrite (q : Requester) (ra : RegAddr) (v : BitVec 32)
  /-- PAIR_HI_WRITE (R10): A write to a _HI register commits the held low half, or the current low half, together with the new high half in one step. -/
  | pairHiWrite (q : Requester) (ra : RegAddr) (v : BitVec 32)
  /-- PWROK_RISE (R601): A rising edge of PWROK starts a COLD reset, or continues a Thaw at its step 3. -/
  | pwrokRise (boot : BootInputs)
  /-- PWROK_FALL (R601): A fall of PWROK outside package OFF is a loss of power; at package OFF entry it has no effect. -/
  | pwrokFall
  /-- DIE_LINK_TRAINING (R394): Distaff trains every die link, repairs failing lanes and retires untrainable modules. -/
  | dieLinkTraining (results : List LinkTrain)
  /-- DRAM_TRAINING (R421): Distaff trains every DRAM channel and records the references for drift. -/
  | dramTraining (results : List DramTrain)
  /-- HPPR_REPAIR (R414): At a reset the reel controller performs hPPR for rows held by sPPR and deferred rows, keeping row data at a PACKAGE reset. -/
  | hpprRepair (mc : Fin 16)
  /-- IMAGE_APPLY (R59): Distaff applies the image in four stages, commits it, sets the image lock, or falls back to the other copy. -/
  | imageApply (va : ImgVerdict) (vb : ImgVerdict)
  /-- SKEIN_RELEASE (R561): Distaff releases every LCN of a skein at its reset vector with the loader arguments in g4 to g6. -/
  | skeinRelease (sk : Fin 16)
  /-- PACKAGE_RESET (R562): A PACKAGE reset re-runs boot with the active copy, keeping DRAM in self-refresh and the state listed as kept. -/
  | packageReset (boot : BootInputs)
  /-- SKEIN_RESET (R563): A SKEIN reset resets the skein's LCNs, queues, functions and root-port bundles and releases the skein afresh. -/
  | skeinReset (sk : Fin 16)
  /-- CORE_RESET (R335): A CORE reset waits up to 10 µs for the store buffer, discards the rest, records any discard and resets one LCN. -/
  | coreReset (l : Fin 384)
  /-- IMG_READ (R68): Returns the running image and its journal. -/
  | imgRead (caller : Caller)
  /-- IMG_CHECK (R68): Runs stages 1 to 3 on a supplied image without committing anything. -/
  | imgCheck (caller : Caller) (verdict : ImgVerdict)
  /-- IMG_STAGE (R68): Checks a supplied image and writes it as NEW to the copy that is not running, with the next sequence number. -/
  | imgStage (caller : Caller) (verdict : ImgVerdict)
  /-- IMG_DELTA (R64): Checks a delta for format, authentication, rights, version, ranges and held resources, and starts its commit. -/
  | imgDelta (caller : Caller) (verdict : DeltaVerdict)
  /-- DELTA_JOURNAL_WRITE_DONE (R65): A non-VOLATILE delta counts as committed when its journal write completes, and IMG_DELTA_SEQ increments. -/
  | deltaJournalWriteDone
  /-- DELTA_SWITCH (R65): At the switch instant every changed tunable takes effect at one timebase value, reservation schedules change and IMG_DELTA is answered OK. -/
  | deltaSwitch
  /-- QPOST (R86): Posts the item at a virtual address to a local or remote QA with release semantics. -/
  | qpost (l : Fin 384) (gd : BitVec 5) (ga : BitVec 5) (gb : BitVec 5)
  /-- QPOSTL (R86): Posts the item held in a landing slot to a local or remote QA. -/
  | qpostl (l : Fin 384) (gd : BitVec 5) (ga : BitVec 5) (slot : BitVec 3)
  /-- QREAD (R89): Reads the selected item of a queue into a landing slot and spill buffer, or blocks while the queue is empty. -/
  | qread (l : Fin 384) (gd : BitVec 5) (ga : BitVec 5) (gb : BitVec 5) (slot : BitVec 3)
  /-- QTRY (R93): Reads the selected item of a queue, or returns EMPTY at once. -/
  | qtry (l : Fin 384) (gd : BitVec 5) (ga : BitVec 5) (gb : BitVec 5) (slot : BitVec 3)
  /-- QWAIT (R99): Reads the selected item across the masked members of a group, or blocks while none holds an item. -/
  | qwait (l : Fin 384) (gd : BitVec 5) (ga : BitVec 5) (gb : BitVec 5) (slot : BitVec 3)
  /-- ITEM_COMMIT (R88): An item's cells are written and linked into its chain, it receives SEQ, FLAGS, TAG and STAMP, and it is offered to the earliest waiter. -/
  | itemCommit (id : Nat)
  /-- WAIT_LIMIT_EXPIRE (R95): The wait limit of a blocked QREAD or QWAIT expires and the read returns EMPTY. -/
  | waitLimitExpire (l : Fin 384)
  /-- WAIT_CANCEL (R96): An interrupt or reel stop of a core blocked in a queue instruction cancels the wait or lets a committed read complete. -/
  | waitCancel (l : Fin 384)
  /-- QCTL_QUERY (R110): Returns the queue's state, the mask of priorities with items and the next SEQ. -/
  | qctlQuery (l : Fin 384) (gd : BitVec 5) (ga : BitVec 5) (gb : BitVec 5)
  /-- QCTL_SETUP (R111): Loads a queue context from a block and empties the chains. -/
  | qctlSetup (l : Fin 384) (gd : BitVec 5) (ga : BitVec 5) (gb : BitVec 5)
  /-- QCTL_ENABLE (R109): Moves a DISABLED queue with a set-up ring to ENABLED. -/
  | qctlEnable (l : Fin 384) (gd : BitVec 5) (ga : BitVec 5) (gb : BitVec 5)
  /-- QCTL_DISABLE (R110): Moves an empty ENABLED queue to DISABLED, ending QREAD waiters with STATE and putting draining channels in ERROR. -/
  | qctlDisable (l : Fin 384) (gd : BitVec 5) (ga : BitVec 5) (gb : BitVec 5)
  /-- QCTL_FLUSH (R103): Sets the queue's FLUSH bit so that the engine reaches a flush point. -/
  | qctlFlush (l : Fin 384) (gd : BitVec 5) (ga : BitVec 5) (gb : BitVec 5)
  /-- FLUSH_POINT (R103): At the flush point every unread item and uncommitted post of the queue is discarded and grant blocks are revoked. -/
  | flushPoint (qn : Fin 1048576)
  /-- FLUSH_COMPLETE (R104): Once its writes to discarded cells complete, the engine frees them, clears FLUSH and completes QCTL FLUSH with OK. -/
  | flushComplete (qn : Fin 1048576)
  /-- QCTL_LIMITS (R110): Sets AGE_LIMIT, WAIT_LIMIT and AGE_EN for reads accepted afterwards. -/
  | qctlLimits (l : Fin 384) (gd : BitVec 5) (ga : BitVec 5) (gb : BitVec 5)
  /-- QCTL_RIGHTS (R107): Writes the six rights fields; waiters deprived of rights end with a queue fault. -/
  | qctlRights (l : Fin 384) (gd : BitVec 5) (ga : BitVec 5) (gb : BitVec 5)
  /-- QCTL_REVIVE (R110): Rewrites the context and link array of a DEAD queue, discarding its items, and leaves it DISABLED. -/
  | qctlRevive (l : Fin 384) (gd : BitVec 5) (ga : BitVec 5) (gb : BitVec 5)
  /-- QCTL_GSET (R98): Writes a group entry for QWAIT instructions accepted afterwards. -/
  | qctlGset (l : Fin 384) (gd : BitVec 5) (ga : BitVec 5) (gb : BitVec 5)
  /-- PIPE_RETIRE (R118): An error retires a Bobbin pipeline; its uncommitted operations end FLUSHED and BQ_PIPE_MAP is rewritten. -/
  | pipeRetire (pipe : Fin 4)
  /-- CH_ENABLE (R128): Checks and latches a DMA channel's rings and drain queue and moves it to ACTIVE. -/
  | chEnable (bd : Fin 8) (fn : Fin 1025) (ch : Fin 8)
  /-- CH_STOP (R127): Moves an ACTIVE channel to STOPPING, with no new fetch or drain. -/
  | chStop (bd : Fin 8) (fn : Fin 1025) (ch : Fin 8)
  /-- CH_STOPPED (R127): A STOPPING channel enters STOPPED once every fetched descriptor and committed drain has completed. -/
  | chStopped (bd : Fin 8) (fn : Fin 1025) (ch : Fin 8)
  /-- CH_RESUME (R127): Moves a STOPPED channel to ACTIVE and acts on recorded doorbells. -/
  | chResume (bd : Fin 8) (fn : Fin 1025) (ch : Fin 8)
  /-- CH_DISABLE (R127): Moves a STOPPED or ERROR channel to DISABLED, clearing ring indices and recorded doorbells. -/
  | chDisable (bd : Fin 8) (fn : Fin 1025) (ch : Fin 8)
  /-- BQ_CH_SQ_DB (R129): A write of the send-ring tail hands descriptors to the device. -/
  | bqChSqDb (bd : Fin 8) (fn : Fin 1025) (ch : Fin 8) (v : BitVec 32)
  /-- BQ_CH_RX_DB (R138): A write of the receive-ring head releases receive slots. -/
  | bqChRxDb (bd : Fin 8) (fn : Fin 1025) (ch : Fin 8) (v : BitVec 32)
  /-- BQ_CH_CQ_DB (R137): A write of the completion-ring head releases entries and, with ARM, re-arms the channel's interrupt. -/
  | bqChCqDb (bd : Fin 8) (fn : Fin 1025) (ch : Fin 8) (v : BitVec 32)
  /-- DESCRIPTOR_FETCH_DONE (R131): A descriptor read completes, is checked and leads to the payload read. -/
  | descriptorFetchDone (bd : Fin 8) (fn : Fin 1025) (ch : Fin 8) (index : Nat) (done : Completion)
  /-- PAYLOAD_FETCH_DONE (R131): A payload read completes and the channel issues the post to the engine. -/
  | payloadFetchDone (bd : Fin 8) (fn : Fin 1025) (ch : Fin 8) (index : Nat) (done : Completion)
  /-- DMA_READ_TIMEOUT (R620): A descriptor or payload read without full completion times out at the PF's Completion Timeout Value. -/
  | dmaReadTimeout (bd : Fin 8) (fn : Fin 1025) (ch : Fin 8) (index : Nat)
  /-- DMA_POST_RETRY (R133): A DMA post refused FULL is retried every 1 µs. -/
  | dmaPostRetry (bd : Fin 8) (fn : Fin 1025) (ch : Fin 8) (index : Nat)
  /-- DMA_FULL_LIMIT_EXPIRE (R133): A post not committed FULL_LIMIT after its first FULL completes its descriptor with FULL. -/
  | dmaFullLimitExpire (bd : Fin 8) (fn : Fin 1025) (ch : Fin 8) (index : Nat)
  /-- DRAIN_TAKE (R138): A drain with a free slot and completion entry takes an item, writes it to a receive slot and writes a RECV record. -/
  | drainTake (bd : Fin 8) (fn : Fin 1025) (ch : Fin 8)
  /-- CREQ_RETRY (R142): An origin repeats a refused credit request after 10 µs. -/
  | creqRetry (qa : BitVec 32)
  /-- CREDIT_BLOCK_IDLE_RELEASE (R143): The origin releases a grant block that has been unused for 1 ms. -/
  | creditBlockIdleRelease (qa : BitVec 32)
  /-- PADDS (R166): Signed saturating vector add. -/
  | padds (l : Fin 384) (vd : BitVec 5) (va : BitVec 5) (vb : BitVec 5) (m : BitVec 3) (g : BitVec 2) (t : BitVec 2)
  /-- PADDU (R166): Unsigned saturating vector add. -/
  | paddu (l : Fin 384) (vd : BitVec 5) (va : BitVec 5) (vb : BitVec 5) (m : BitVec 3) (g : BitVec 2) (t : BitVec 2)
  /-- PSUBS (R166): Signed saturating vector subtract. -/
  | psubs (l : Fin 384) (vd : BitVec 5) (va : BitVec 5) (vb : BitVec 5) (m : BitVec 3) (g : BitVec 2) (t : BitVec 2)
  /-- PSUBU (R166): Unsigned saturating vector subtract. -/
  | psubu (l : Fin 384) (vd : BitVec 5) (va : BitVec 5) (vb : BitVec 5) (m : BitVec 3) (g : BitVec 2) (t : BitVec 2)
  /-- PMULR (R167): Rounding binary-fraction multiply with saturation. -/
  | pmulr (l : Fin 384) (vd : BitVec 5) (va : BitVec 5) (vb : BitVec 5) (m : BitVec 3) (g : BitVec 2) (t : BitVec 2)
  /-- PMIN (R172): Signed element minimum. -/
  | pmin (l : Fin 384) (vd : BitVec 5) (va : BitVec 5) (vb : BitVec 5) (m : BitVec 3) (g : BitVec 2) (t : BitVec 2)
  /-- PMAX (R172): Signed element maximum. -/
  | pmax (l : Fin 384) (vd : BitVec 5) (va : BitVec 5) (vb : BitVec 5) (m : BitVec 3) (g : BitVec 2) (t : BitVec 2)
  /-- PMINU (R172): Unsigned element minimum. -/
  | pminu (l : Fin 384) (vd : BitVec 5) (va : BitVec 5) (vb : BitVec 5) (m : BitVec 3) (g : BitVec 2) (t : BitVec 2)
  /-- PMAXU (R172): Unsigned element maximum. -/
  | pmaxu (l : Fin 384) (vd : BitVec 5) (va : BitVec 5) (vb : BitVec 5) (m : BitVec 3) (g : BitVec 2) (t : BitVec 2)
  /-- PSAD (R171): Adds absolute differences of unsigned elements into d elements, saturating. -/
  | psad (l : Fin 384) (vd : BitVec 5) (va : BitVec 5) (vb : BitVec 5) (m : BitVec 3) (g : BitVec 2) (t : BitVec 2)
  /-- PSEL (R172): Selects each element from va or vb by mask. -/
  | psel (l : Fin 384) (vd : BitVec 5) (va : BitVec 5) (vb : BitVec 5) (m : BitVec 3) (g : BitVec 2) (t : BitVec 2)
  /-- PAND (R172): Bitwise AND of vector groups. -/
  | pand (l : Fin 384) (vd : BitVec 5) (va : BitVec 5) (vb : BitVec 5) (m : BitVec 3) (g : BitVec 2) (t : BitVec 2)
  /-- POR (R172): Bitwise OR of vector groups. -/
  | por (l : Fin 384) (vd : BitVec 5) (va : BitVec 5) (vb : BitVec 5) (m : BitVec 3) (g : BitVec 2) (t : BitVec 2)
  /-- PXOR (R172): Bitwise XOR of vector groups. -/
  | pxor (l : Fin 384) (vd : BitVec 5) (va : BitVec 5) (vb : BitVec 5) (m : BitVec 3) (g : BitVec 2) (t : BitVec 2)
  /-- PWACC (R170): Adds sign-extended d elements into 128-bit accumulators, saturating. -/
  | pwacc (l : Fin 384) (vd : BitVec 5) (va : BitVec 5) (m : BitVec 3) (g : BitVec 2) (t : BitVec 2)
  /-- PWMAC (R170): Adds exact 128-bit products of d elements into accumulators, saturating. -/
  | pwmac (l : Fin 384) (vd : BitVec 5) (va : BitVec 5) (vb : BitVec 5) (m : BitVec 3) (g : BitVec 2) (t : BitVec 2)
  /-- PMULD (R168): Decimal multiply: exact product divided by 10^k under the rounding mode, saturated. -/
  | pmuld (l : Fin 384) (vd : BitVec 5) (va : BitVec 5) (vb : BitVec 5) (m : BitVec 3) (g : BitVec 2) (t : Bool) (k : BitVec 5)
  /-- PLD (R178): Loads the active elements of a unit-stride vector access. -/
  | pld (l : Fin 384) (vd : BitVec 5) (ga : BitVec 5) (imm7 : BitVec 7) (m : BitVec 3) (g : BitVec 2) (t : BitVec 2)
  /-- PST (R181): Stores the active elements of a vector access, entering the store buffer as one unit. -/
  | pst (l : Fin 384) (vd : BitVec 5) (ga : BitVec 5) (imm7 : BitVec 7) (m : BitVec 3) (g : BitVec 2) (t : BitVec 2)
  /-- PBCAST (R188): Writes the low bits of ga into each active element. -/
  | pbcast (l : Fin 384) (vd : BitVec 5) (ga : BitVec 5) (m : BitVec 3) (g : BitVec 2) (t : BitVec 2)
  /-- PMAND (R188): AND of two mask registers. -/
  | pmand (l : Fin 384) (md : BitVec 5) (ma : BitVec 5) (mb : BitVec 3)
  /-- PMOR (R188): OR of two mask registers. -/
  | pmor (l : Fin 384) (md : BitVec 5) (ma : BitVec 5) (mb : BitVec 3)
  /-- PMXOR (R188): XOR of two mask registers. -/
  | pmxor (l : Fin 384) (md : BitVec 5) (ma : BitVec 5) (mb : BitVec 3)
  /-- PMANDN (R188): AND NOT of two mask registers. -/
  | pmandn (l : Fin 384) (md : BitVec 5) (ma : BitVec 5) (mb : BitVec 3)
  /-- PGTOM_L (R188): Writes ga to mask bits [63:0]. -/
  | pgtomL (l : Fin 384) (md : BitVec 5) (ga : BitVec 5)
  /-- PGTOM_H (R188): Writes ga to mask bits [127:64]. -/
  | pgtomH (l : Fin 384) (md : BitVec 5) (ga : BitVec 5)
  /-- PMTOG_L (R188): Reads mask bits [63:0] into gd. -/
  | pmtogL (l : Fin 384) (gd : BitVec 5) (ma : BitVec 5)
  /-- PMTOG_H (R188): Reads mask bits [127:64] into gd. -/
  | pmtogH (l : Fin 384) (gd : BitVec 5) (ma : BitVec 5)
  /-- PSCALE_UP (R169): Multiplies elements by 10^k exactly, saturating. -/
  | pscaleUp (l : Fin 384) (vd : BitVec 5) (va : BitVec 5) (m : BitVec 3) (g : BitVec 2) (t : BitVec 2) (k : BitVec 5)
  /-- PSCALE_DN (R169): Divides elements by 10^k under the rounding mode. -/
  | pscaleDn (l : Fin 384) (vd : BitVec 5) (va : BitVec 5) (m : BitVec 3) (g : BitVec 2) (t : BitVec 2) (k : BitVec 5)
  /-- PCMP_EQ (R172): Writes a mask of active elements that are equal. -/
  | pcmpEq (l : Fin 384) (md : BitVec 5) (va : BitVec 5) (vb : BitVec 5) (m : BitVec 3) (g : BitVec 2) (t : BitVec 2)
  /-- PCMP_NE (R172): Writes a mask of active elements that differ. -/
  | pcmpNe (l : Fin 384) (md : BitVec 5) (va : BitVec 5) (vb : BitVec 5) (m : BitVec 3) (g : BitVec 2) (t : BitVec 2)
  /-- PCMP_LT (R172): Writes a mask of active elements where a is less than b, signed. -/
  | pcmpLt (l : Fin 384) (md : BitVec 5) (va : BitVec 5) (vb : BitVec 5) (m : BitVec 3) (g : BitVec 2) (t : BitVec 2)
  /-- PCMP_LE (R172): Writes a mask of active elements where a is at most b, signed. -/
  | pcmpLe (l : Fin 384) (md : BitVec 5) (va : BitVec 5) (vb : BitVec 5) (m : BitVec 3) (g : BitVec 2) (t : BitVec 2)
  /-- PCMP_LTU (R172): Writes a mask of active elements where a is less than b, unsigned. -/
  | pcmpLtu (l : Fin 384) (md : BitVec 5) (va : BitVec 5) (vb : BitVec 5) (m : BitVec 3) (g : BitVec 2) (t : BitVec 2)
  /-- PCMP_LEU (R172): Writes a mask of active elements where a is at most b, unsigned. -/
  | pcmpLeu (l : Fin 384) (md : BitVec 5) (va : BitVec 5) (vb : BitVec 5) (m : BitVec 3) (g : BitVec 2) (t : BitVec 2)
  /-- PA2B (R174): Converts fields of ASCII digits to binary elements, flagging invalid fields. -/
  | pa2b (l : Fin 384) (vd : BitVec 5) (va : BitVec 5) (aux : BitVec 5) (m : BitVec 3) (g : BitVec 2) (t : BitVec 2)
  /-- PB2A (R175): Converts binary elements to fields of ASCII digits, flagging overflow. -/
  | pb2a (l : Fin 384) (vd : BitVec 5) (va : BitVec 5) (aux : BitVec 5) (m : BitVec 3) (g : BitVec 2) (t : BitVec 2)
  /-- PBCD2B (R176): Converts packed BCD elements to binary. -/
  | pbcd2b (l : Fin 384) (vd : BitVec 5) (va : BitVec 5) (aux : BitVec 5) (m : BitVec 3) (g : BitVec 2) (t : BitVec 2)
  /-- PB2BCD (R176): Converts binary elements to packed BCD. -/
  | pb2bcd (l : Fin 384) (vd : BitVec 5) (va : BitVec 5) (aux : BitVec 5) (m : BitVec 3) (g : BitVec 2) (t : BitVec 2)
  /-- PLUHN (R177): Computes and checks the Luhn check digit of each field. -/
  | pluhn (l : Fin 384) (vd : BitVec 5) (va : BitVec 5) (aux : BitVec 5) (m : BitVec 3) (g : BitVec 2) (t : BitVec 2)
  /-- PINS (R188): Inserts the low bits of ga into one element. -/
  | pins (l : Fin 384) (vd : BitVec 5) (ga : BitVec 5) (i : BitVec 5) (t : BitVec 2)
  /-- PEXT (R188): Extracts one element into gd, sign-extended. -/
  | pext (l : Fin 384) (gd : BitVec 5) (va : BitVec 5) (i : BitVec 5) (t : BitVec 2)
  /-- PFLUSH (R199): Empties the branch predictor and redirects to the next instruction. -/
  | pflush (l : Fin 384)
  /-- PBAR (R200): Writes a prediction bar entry and redirects. -/
  | pbar (l : Fin 384) (ga : BitVec 5) (gb : BitVec 5)
  /-- ISYNC (R213): Waits for earlier stores, discards younger instructions and refetches. -/
  | isync (l : Fin 384)
  /-- ADD (R224): Integer add, with W form. -/
  | add (l : Fin 384) (w : Bool) (gd : BitVec 5) (ga : BitVec 5) (gb : BitVec 5)
  /-- SUB (R224): Integer subtract, with W form. -/
  | sub (l : Fin 384) (w : Bool) (gd : BitVec 5) (ga : BitVec 5) (gb : BitVec 5)
  /-- AND (R224): Bitwise AND. -/
  | and (l : Fin 384) (gd : BitVec 5) (ga : BitVec 5) (gb : BitVec 5)
  /-- OR (R224): Bitwise OR. -/
  | or (l : Fin 384) (gd : BitVec 5) (ga : BitVec 5) (gb : BitVec 5)
  /-- XOR (R224): Bitwise XOR. -/
  | xor (l : Fin 384) (gd : BitVec 5) (ga : BitVec 5) (gb : BitVec 5)
  /-- ANDN (R224): AND with inverted gb. -/
  | andn (l : Fin 384) (gd : BitVec 5) (ga : BitVec 5) (gb : BitVec 5)
  /-- ORN (R224): OR with inverted gb. -/
  | orn (l : Fin 384) (gd : BitVec 5) (ga : BitVec 5) (gb : BitVec 5)
  /-- XNOR (R224): Inverted XOR. -/
  | xnor (l : Fin 384) (gd : BitVec 5) (ga : BitVec 5) (gb : BitVec 5)
  /-- SLL (R224): Logical left shift, with W form. -/
  | sll (l : Fin 384) (w : Bool) (gd : BitVec 5) (ga : BitVec 5) (gb : BitVec 5)
  /-- SRL (R224): Logical right shift, with W form. -/
  | srl (l : Fin 384) (w : Bool) (gd : BitVec 5) (ga : BitVec 5) (gb : BitVec 5)
  /-- SRA (R224): Arithmetic right shift, with W form. -/
  | sra (l : Fin 384) (w : Bool) (gd : BitVec 5) (ga : BitVec 5) (gb : BitVec 5)
  /-- ROR (R224): Rotate right, with W form. -/
  | ror (l : Fin 384) (w : Bool) (gd : BitVec 5) (ga : BitVec 5) (gb : BitVec 5)
  /-- SLT (R224): Signed set-less-than. -/
  | slt (l : Fin 384) (gd : BitVec 5) (ga : BitVec 5) (gb : BitVec 5)
  /-- SLTU (R224): Unsigned set-less-than. -/
  | sltu (l : Fin 384) (gd : BitVec 5) (ga : BitVec 5) (gb : BitVec 5)
  /-- MIN (R224): Signed minimum. -/
  | min (l : Fin 384) (gd : BitVec 5) (ga : BitVec 5) (gb : BitVec 5)
  /-- MAX (R224): Signed maximum. -/
  | max (l : Fin 384) (gd : BitVec 5) (ga : BitVec 5) (gb : BitVec 5)
  /-- MINU (R224): Unsigned minimum. -/
  | minu (l : Fin 384) (gd : BitVec 5) (ga : BitVec 5) (gb : BitVec 5)
  /-- MAXU (R224): Unsigned maximum. -/
  | maxu (l : Fin 384) (gd : BitVec 5) (ga : BitVec 5) (gb : BitVec 5)
  /-- CLZ (R224): Count of leading zeros, with W form. -/
  | clz (l : Fin 384) (w : Bool) (gd : BitVec 5) (ga : BitVec 5)
  /-- CTZ (R224): Count of trailing zeros, with W form. -/
  | ctz (l : Fin 384) (w : Bool) (gd : BitVec 5) (ga : BitVec 5)
  /-- POPC (R224): Count of one bits, with W form. -/
  | popc (l : Fin 384) (w : Bool) (gd : BitVec 5) (ga : BitVec 5)
  /-- REV8 (R224): Reverses the bytes of ga. -/
  | rev8 (l : Fin 384) (gd : BitVec 5) (ga : BitVec 5)
  /-- CSELZ (R224): Writes ga to gd if gb is zero. -/
  | cselz (l : Fin 384) (gd : BitVec 5) (ga : BitVec 5) (gb : BitVec 5)
  /-- CSELNZ (R224): Writes ga to gd if gb is non-zero. -/
  | cselnz (l : Fin 384) (gd : BitVec 5) (ga : BitVec 5) (gb : BitVec 5)
  /-- MUL (R225): Low 64 bits of the product, with W form. -/
  | mul (l : Fin 384) (w : Bool) (gd : BitVec 5) (ga : BitVec 5) (gb : BitVec 5)
  /-- MULH (R225): High 64 bits of the signed product. -/
  | mulh (l : Fin 384) (gd : BitVec 5) (ga : BitVec 5) (gb : BitVec 5)
  /-- MULHU (R225): High 64 bits of the unsigned product. -/
  | mulhu (l : Fin 384) (gd : BitVec 5) (ga : BitVec 5) (gb : BitVec 5)
  /-- MULHSU (R225): High 64 bits of signed by unsigned product. -/
  | mulhsu (l : Fin 384) (gd : BitVec 5) (ga : BitVec 5) (gb : BitVec 5)
  /-- DIV (R225): Signed quotient toward zero, never trapping. -/
  | div (l : Fin 384) (w : Bool) (gd : BitVec 5) (ga : BitVec 5) (gb : BitVec 5)
  /-- DIVU (R225): Unsigned quotient, never trapping. -/
  | divu (l : Fin 384) (w : Bool) (gd : BitVec 5) (ga : BitVec 5) (gb : BitVec 5)
  /-- REM (R225): Signed remainder with the sign of ga. -/
  | rem (l : Fin 384) (w : Bool) (gd : BitVec 5) (ga : BitVec 5) (gb : BitVec 5)
  /-- REMU (R225): Unsigned remainder. -/
  | remu (l : Fin 384) (w : Bool) (gd : BitVec 5) (ga : BitVec 5) (gb : BitVec 5)
  /-- ADDI (R226): Adds a sign-extended immediate. -/
  | addi (l : Fin 384) (gd : BitVec 5) (ga : BitVec 5) (imm : BitVec 16)
  /-- ADDIW (R226): 32-bit add of an immediate, sign-extended. -/
  | addiw (l : Fin 384) (gd : BitVec 5) (ga : BitVec 5) (imm : BitVec 16)
  /-- ANDI (R226): AND with a zero-extended immediate. -/
  | andi (l : Fin 384) (gd : BitVec 5) (ga : BitVec 5) (imm : BitVec 16)
  /-- ORI (R226): OR with a zero-extended immediate. -/
  | ori (l : Fin 384) (gd : BitVec 5) (ga : BitVec 5) (imm : BitVec 16)
  /-- XORI (R226): XOR with a zero-extended immediate. -/
  | xori (l : Fin 384) (gd : BitVec 5) (ga : BitVec 5) (imm : BitVec 16)
  /-- SLTI (R226): Signed compare with an immediate. -/
  | slti (l : Fin 384) (gd : BitVec 5) (ga : BitVec 5) (imm : BitVec 16)
  /-- SLTIU (R226): Unsigned compare with a sign-extended immediate. -/
  | sltiu (l : Fin 384) (gd : BitVec 5) (ga : BitVec 5) (imm : BitVec 16)
  /-- SLLI (R226): Logical left shift by an immediate. -/
  | slli (l : Fin 384) (w : Bool) (gd : BitVec 5) (ga : BitVec 5) (sh : BitVec 6)
  /-- SRLI (R226): Logical right shift by an immediate. -/
  | srli (l : Fin 384) (w : Bool) (gd : BitVec 5) (ga : BitVec 5) (sh : BitVec 6)
  /-- SRAI (R226): Arithmetic right shift by an immediate. -/
  | srai (l : Fin 384) (w : Bool) (gd : BitVec 5) (ga : BitVec 5) (sh : BitVec 6)
  /-- RORI (R226): Rotate right by an immediate. -/
  | rori (l : Fin 384) (w : Bool) (gd : BitVec 5) (ga : BitVec 5) (sh : BitVec 6)
  /-- LUI (R226): Loads a shifted immediate. -/
  | lui (l : Fin 384) (gd : BitVec 5) (imm : BitVec 16)
  /-- SHI (R226): Shifts ga left by 16 and ORs an immediate. -/
  | shi (l : Fin 384) (gd : BitVec 5) (ga : BitVec 5) (imm : BitVec 16)
  /-- AUIPC (R226): Adds a shifted immediate to the PC. -/
  | auipc (l : Fin 384) (gd : BitVec 5) (imm : BitVec 16)
  /-- EXTU (R226): Extracts a bit field zero-extended. -/
  | extu (l : Fin 384) (gd : BitVec 5) (ga : BitVec 5) (pos : BitVec 6) (len1 : BitVec 6)
  /-- EXT (R226): Extracts a bit field sign-extended. -/
  | ext (l : Fin 384) (gd : BitVec 5) (ga : BitVec 5) (pos : BitVec 6) (len1 : BitVec 6)
  /-- INS (R226): Inserts a bit field into gd. -/
  | ins (l : Fin 384) (gd : BitVec 5) (ga : BitVec 5) (pos : BitVec 6) (len1 : BitVec 6)
  /-- SCALAR_LOAD (R227): LB to LD and unsigned forms: loads an aligned scalar with translation and checks. -/
  | scalarLoad (l : Fin 384) (sz : BitVec 2) (u : Bool) (gd : BitVec 5) (ga : BitVec 5) (off : BitVec 13)
  /-- SCALAR_STORE (R227): SB to SD: stores an aligned scalar through the store buffer. -/
  | scalarStore (l : Fin 384) (sz : BitVec 2) (gs : BitVec 5) (ga : BitVec 5) (off : BitVec 13)
  /-- FLW_FLD (R227): FP load of binary32 or binary64 into a v register. -/
  | flwFld (l : Fin 384) (sz : BitVec 2) (fd : BitVec 5) (ga : BitVec 5) (off : BitVec 13)
  /-- FSW_FSD (R227): FP store of binary32 or binary64. -/
  | fswFsd (l : Fin 384) (sz : BitVec 2) (fs : BitVec 5) (ga : BitVec 5) (off : BitVec 13)
  /-- INDEXED_LOAD (R227): Indexed scalar load with scaled index. -/
  | indexedLoad (l : Fin 384) (sz : BitVec 2) (u : Bool) (sc : Bool) (gd : BitVec 5) (ga : BitVec 5) (gb : BitVec 5)
  /-- INDEXED_STORE (R227): Indexed scalar store with scaled index. -/
  | indexedStore (l : Fin 384) (sz : BitVec 2) (sc : Bool) (gs : BitVec 5) (ga : BitVec 5) (gb : BitVec 5)
  /-- PREF (R230): Prefetches a line by hint, or is dropped. -/
  | pref (l : Fin 384) (hint : BitVec 5) (ga : BitVec 5) (off : BitVec 13)
  /-- J (R231): Direct jump. -/
  | jump (l : Fin 384) (disp : BitVec 26)
  /-- JAL (R231): Direct call writing g1. -/
  | jal (l : Fin 384) (disp : BitVec 26)
  /-- JALR (R231): Register-indirect jump, call or return. -/
  | jalr (l : Fin 384) (gd : BitVec 5) (ga : BitVec 5) (imm : BitVec 16)
  /-- BC (R231): Compare-and-branch on two registers. -/
  | bc (l : Fin 384) (cond : BitVec 3) (ga : BitVec 5) (gb : BitVec 5) (disp : BitVec 13)
  /-- BZ (R231): Compare-with-zero branch. -/
  | bz (l : Fin 384) (cond : BitVec 3) (ga : BitVec 5) (disp : BitVec 18)
  /-- FADD (R235): FP add. -/
  | fadd (l : Fin 384) (p : Bool) (rm : BitVec 3) (fd : BitVec 5) (fa : BitVec 5) (fb : BitVec 5)
  /-- FSUB (R235): FP subtract. -/
  | fsub (l : Fin 384) (p : Bool) (rm : BitVec 3) (fd : BitVec 5) (fa : BitVec 5) (fb : BitVec 5)
  /-- FMUL (R235): FP multiply. -/
  | fmul (l : Fin 384) (p : Bool) (rm : BitVec 3) (fd : BitVec 5) (fa : BitVec 5) (fb : BitVec 5)
  /-- FDIV (R235): FP divide. -/
  | fdiv (l : Fin 384) (p : Bool) (rm : BitVec 3) (fd : BitVec 5) (fa : BitVec 5) (fb : BitVec 5)
  /-- FSQRT (R235): FP square root. -/
  | fsqrt (l : Fin 384) (p : Bool) (rm : BitVec 3) (fd : BitVec 5) (fa : BitVec 5)
  /-- FMINNUM (R235): minimumNumber. -/
  | fminnum (l : Fin 384) (p : Bool) (fd : BitVec 5) (fa : BitVec 5) (fb : BitVec 5)
  /-- FMAXNUM (R235): maximumNumber. -/
  | fmaxnum (l : Fin 384) (p : Bool) (fd : BitVec 5) (fa : BitVec 5) (fb : BitVec 5)
  /-- FMIN (R235): IEEE minimum. -/
  | fmin (l : Fin 384) (p : Bool) (fd : BitVec 5) (fa : BitVec 5) (fb : BitVec 5)
  /-- FMAX (R235): IEEE maximum. -/
  | fmax (l : Fin 384) (p : Bool) (fd : BitVec 5) (fa : BitVec 5) (fb : BitVec 5)
  /-- FABS (R235): Magnitude of fa with positive sign. -/
  | fabs (l : Fin 384) (p : Bool) (fd : BitVec 5) (fa : BitVec 5)
  /-- FNEG (R235): fa with inverted sign. -/
  | fneg (l : Fin 384) (p : Bool) (fd : BitVec 5) (fa : BitVec 5)
  /-- FCOPYS (R235): Magnitude of fa with the sign of fb. -/
  | fcopys (l : Fin 384) (p : Bool) (fd : BitVec 5) (fa : BitVec 5) (fb : BitVec 5)
  /-- FNABS (R235): Magnitude of fa with negative sign. -/
  | fnabs (l : Fin 384) (p : Bool) (fd : BitVec 5) (fa : BitVec 5)
  /-- FMA (R235): Fused multiply-add. -/
  | fma (l : Fin 384) (p : Bool) (rm : BitVec 3) (fd : BitVec 5) (fa : BitVec 5) (fb : BitVec 5) (fc : BitVec 5)
  /-- FMS (R235): Fused multiply-subtract. -/
  | fms (l : Fin 384) (p : Bool) (rm : BitVec 3) (fd : BitVec 5) (fa : BitVec 5) (fb : BitVec 5) (fc : BitVec 5)
  /-- FRMS (R235): fc minus fa times fb, rounded once. -/
  | frms (l : Fin 384) (p : Bool) (rm : BitVec 3) (fd : BitVec 5) (fa : BitVec 5) (fb : BitVec 5) (fc : BitVec 5)
  /-- FNMA (R235): Negated fused multiply-add. -/
  | fnma (l : Fin 384) (p : Bool) (rm : BitVec 3) (fd : BitVec 5) (fa : BitVec 5) (fb : BitVec 5) (fc : BitVec 5)
  /-- FCEQ (R235): Quiet FP equality compare. -/
  | fceq (l : Fin 384) (p : Bool) (gd : BitVec 5) (fa : BitVec 5) (fb : BitVec 5)
  /-- FCLT (R235): Signalling FP less-than compare. -/
  | fclt (l : Fin 384) (p : Bool) (gd : BitVec 5) (fa : BitVec 5) (fb : BitVec 5)
  /-- FCLE (R235): Signalling FP less-or-equal compare. -/
  | fcle (l : Fin 384) (p : Bool) (gd : BitVec 5) (fa : BitVec 5) (fb : BitVec 5)
  /-- FCUN (R235): Quiet unordered test. -/
  | fcun (l : Fin 384) (p : Bool) (gd : BitVec 5) (fa : BitVec 5) (fb : BitVec 5)
  /-- FCLTQ (R235): Quiet FP less-than compare. -/
  | fcltq (l : Fin 384) (p : Bool) (gd : BitVec 5) (fa : BitVec 5) (fb : BitVec 5)
  /-- FCLEQ (R235): Quiet FP less-or-equal compare. -/
  | fcleq (l : Fin 384) (p : Bool) (gd : BitVec 5) (fa : BitVec 5) (fb : BitVec 5)
  /-- FKIND (R235): Classifies fa into gd. -/
  | fkind (l : Fin 384) (p : Bool) (gd : BitVec 5) (fa : BitVec 5)
  /-- FCVT (R235): Converts between binary32 and binary64. -/
  | fcvt (l : Fin 384) (p : Bool) (rm : BitVec 3) (fd : BitVec 5) (fa : BitVec 5)
  /-- FTOI64 (R235): FP to signed 64-bit integer, saturating. -/
  | ftoi64 (l : Fin 384) (p : Bool) (rm : BitVec 3) (gd : BitVec 5) (fa : BitVec 5)
  /-- FTOU64 (R235): FP to unsigned 64-bit integer, saturating. -/
  | ftou64 (l : Fin 384) (p : Bool) (rm : BitVec 3) (gd : BitVec 5) (fa : BitVec 5)
  /-- FTOI32 (R235): FP to signed 32-bit integer, saturating. -/
  | ftoi32 (l : Fin 384) (p : Bool) (rm : BitVec 3) (gd : BitVec 5) (fa : BitVec 5)
  /-- FTOU32 (R235): FP to unsigned 32-bit integer, saturating. -/
  | ftou32 (l : Fin 384) (p : Bool) (rm : BitVec 3) (gd : BitVec 5) (fa : BitVec 5)
  /-- I64TOF (R235): Signed 64-bit integer to FP. -/
  | i64tof (l : Fin 384) (p : Bool) (rm : BitVec 3) (fd : BitVec 5) (ga : BitVec 5)
  /-- U64TOF (R235): Unsigned 64-bit integer to FP. -/
  | u64tof (l : Fin 384) (p : Bool) (rm : BitVec 3) (fd : BitVec 5) (ga : BitVec 5)
  /-- I32TOF (R235): Signed 32-bit integer to FP. -/
  | i32tof (l : Fin 384) (p : Bool) (rm : BitVec 3) (fd : BitVec 5) (ga : BitVec 5)
  /-- U32TOF (R235): Unsigned 32-bit integer to FP. -/
  | u32tof (l : Fin 384) (p : Bool) (rm : BitVec 3) (fd : BitVec 5) (ga : BitVec 5)
  /-- FBITS (R235): Moves the bits of fa to gd. -/
  | fbits (l : Fin 384) (p : Bool) (gd : BitVec 5) (fa : BitVec 5)
  /-- GBITS (R235): Moves the bits of ga to fd. -/
  | gbits (l : Fin 384) (p : Bool) (fd : BitVec 5) (ga : BitVec 5)
  /-- FRINT (R235): Rounds to an integral value. -/
  | frint (l : Fin 384) (p : Bool) (rm : BitVec 3) (fd : BitVec 5) (fa : BitVec 5)
  /-- FRINTX (R235): Rounds to an integral value, raising INEXACT. -/
  | frintx (l : Fin 384) (p : Bool) (rm : BitVec 3) (fd : BitVec 5) (fa : BitVec 5)
  /-- ATOMIC_SWAP (R236): Atomic swap returning the old value. -/
  | atomicSwap (l : Fin 384) (d : Bool) (ord : BitVec 2) (gd : BitVec 5) (ga : BitVec 5) (gb : BitVec 5)
  /-- ATOMIC_ADD (R236): Atomic wrapping add. -/
  | atomicAdd (l : Fin 384) (d : Bool) (ord : BitVec 2) (gd : BitVec 5) (ga : BitVec 5) (gb : BitVec 5)
  /-- ATOMIC_AND (R236): Atomic AND. -/
  | atomicAnd (l : Fin 384) (d : Bool) (ord : BitVec 2) (gd : BitVec 5) (ga : BitVec 5) (gb : BitVec 5)
  /-- ATOMIC_OR (R236): Atomic OR. -/
  | atomicOr (l : Fin 384) (d : Bool) (ord : BitVec 2) (gd : BitVec 5) (ga : BitVec 5) (gb : BitVec 5)
  /-- ATOMIC_XOR (R236): Atomic XOR. -/
  | atomicXor (l : Fin 384) (d : Bool) (ord : BitVec 2) (gd : BitVec 5) (ga : BitVec 5) (gb : BitVec 5)
  /-- ATOMIC_MIN (R236): Atomic signed or unsigned minimum. -/
  | atomicMin (l : Fin 384) (d : Bool) (u : Bool) (ord : BitVec 2) (gd : BitVec 5) (ga : BitVec 5) (gb : BitVec 5)
  /-- ATOMIC_MAX (R236): Atomic signed or unsigned maximum. -/
  | atomicMax (l : Fin 384) (d : Bool) (u : Bool) (ord : BitVec 2) (gd : BitVec 5) (ga : BitVec 5) (gb : BitVec 5)
  /-- ATOMIC_SADD (R236): Atomic saturating add. -/
  | atomicSadd (l : Fin 384) (d : Bool) (u : Bool) (ord : BitVec 2) (gd : BitVec 5) (ga : BitVec 5) (gb : BitVec 5)
  /-- CAS (R236): Compare-and-swap. -/
  | cas (l : Fin 384) (d : Bool) (ord : BitVec 2) (gd : BitVec 5) (ga : BitVec 5) (gb : BitVec 5)
  /-- BAR_LL (R323): Orders earlier loads before later loads. -/
  | barLl (l : Fin 384)
  /-- BAR_SS (R324): Marks the store buffer so later stores wait for cumulative global performance. -/
  | barSs (l : Fin 384)
  /-- BAR_FULL (R325): Orders all earlier loads and stores before all later ones, cumulatively. -/
  | barFull (l : Fin 384)
  /-- BAR_DEV (R326): As BAR.FULL, and waits for every earlier DEVICE store's response. -/
  | barDev (l : Fin 384)
  /-- AESE (R239): AES encryption round on two blocks. -/
  | aese (l : Fin 384) (vd : BitVec 5) (va : BitVec 5) (vb : BitVec 5)
  /-- AESEL (R239): AES final encryption round. -/
  | aesel (l : Fin 384) (vd : BitVec 5) (va : BitVec 5) (vb : BitVec 5)
  /-- AESD (R239): AES equivalent-inverse decryption round. -/
  | aesd (l : Fin 384) (vd : BitVec 5) (va : BitVec 5) (vb : BitVec 5)
  /-- AESDL (R239): AES final decryption round. -/
  | aesdl (l : Fin 384) (vd : BitVec 5) (va : BitVec 5) (vb : BitVec 5)
  /-- AESIMC (R239): InvMixColumns for decryption round keys. -/
  | aesimc (l : Fin 384) (vd : BitVec 5) (va : BitVec 5)
  /-- SHA256R (R239): Four SHA-256 rounds. -/
  | sha256r (l : Fin 384) (vd : BitVec 5) (va : BitVec 5) (vb : BitVec 5)
  /-- SHA256M (R239): SHA-256 message schedule step. -/
  | sha256m (l : Fin 384) (vd : BitVec 5) (va : BitVec 5) (vb : BitVec 5)
  /-- SHA512R (R239): Two SHA-512 rounds. -/
  | sha512r (l : Fin 384) (vd : BitVec 5) (va : BitVec 5) (vb : BitVec 5)
  /-- SHA512M (R239): SHA-512 message schedule step. -/
  | sha512m (l : Fin 384) (vd : BitVec 5) (va : BitVec 5)
  /-- CRC32C (R239): Updates a CRC-32C with 1, 2, 4 or 8 bytes. -/
  | crc32c (l : Fin 384) (size : BitVec 2) (gd : BitVec 5) (ga : BitVec 5) (gb : BitVec 5)
  /-- MFS (R245): Reads a system register into gd. -/
  | mfs (l : Fin 384) (gd : BitVec 5) (sr : BitVec 12)
  /-- MTS (R245): Writes a system register that has no row of its own, serialising where marked. -/
  | mts (l : Fin 384) (sr : BitVec 12) (ga : BitVec 5)
  /-- TLBI_VA (R295): Invalidates translations of one address for an ASID, locally or skein-wide. -/
  | tlbiVa (l : Fin 384) (s : Bool) (ga : BitVec 5) (gb : BitVec 5)
  /-- TLBI_ASID (R295): Invalidates every non-global translation of an ASID. -/
  | tlbiAsid (l : Fin 384) (s : Bool) (ga : BitVec 5) (gb : BitVec 5)
  /-- TLBI_ALL (R295): Invalidates every translation. -/
  | tlbiAll (l : Fin 384) (s : Bool) (ga : BitVec 5) (gb : BitVec 5)
  /-- SLBI (R295): Invalidates the segment look-aside. -/
  | slbi (l : Fin 384) (s : Bool) (ga : BitVec 5) (gb : BitVec 5)
  /-- DCZ (R242): Writes zero to a whole line without reading it. -/
  | dcz (l : Fin 384) (ga : BitVec 5)
  /-- DCC (R242): Writes a dirty line back to its home. -/
  | dcc (l : Fin 384) (ga : BitVec 5)
  /-- DCCI (R242): Writes a line back and removes every cached copy. -/
  | dcci (l : Fin 384) (ga : BitVec 5)
  /-- SYS (R240): Raises SYS call exception 0x10 with a code. -/
  | sys (l : Fin 384) (code : BitVec 12)
  /-- BRK (R240): Raises breakpoint exception 0x12 with a code. -/
  | brk (l : Fin 384) (code : BitVec 12)
  /-- WCALL (R258): Enters SK at S_VBASE + 0x200 and empties the predictor. -/
  | wcall (l : Fin 384)
  /-- WRET (R259): Returns to K with the register scrub and predictor flush. -/
  | wret (l : Fin 384)
  /-- ERET (R257): Returns from an exception within the current world. -/
  | eret (l : Fin 384)
  /-- WAITI (R243): Gates the core's clocks until an interrupt is deliverable, starting a held self-request to power down. -/
  | waiti (l : Fin 384)
  /-- WAITI_RESUME (R243): A core gated in WAITI resumes at the next instruction when an interrupt becomes deliverable. -/
  | waitiResume (l : Fin 384)
  /-- STLBW (R300): Writes an STLB entry, invalidating overlapping entries. -/
  | stlbw (l : Fin 384) (ga : BitVec 5) (gb : BitVec 5) (idx : BitVec 6)
  /-- STLBR (R299): Reads one word of an STLB entry. -/
  | stlbr (l : Fin 384) (gd : BitVec 5) (idx : BitVec 6) (h : Bool)
  /-- STLBI (R302): Invalidates one or every STLB entry. -/
  | stlbi (l : Fin 384) (all : Bool) (ga : BitVec 5)
  /-- UNASSIGNED_MAJOR (R223): An unassigned major or field value raises illegal instruction. -/
  | unassignedMajor (l : Fin 384) (word : BitVec 32)
  /-- INTERRUPT_TAKE (R264): At a retirement boundary the core takes the highest deliverable vector of its world. -/
  | interruptTake (l : Fin 384)
  /-- INBOX_CLAIM (R265): An MFS claims the selected vector, clears its pending bit and marks its priority active. -/
  | inboxClaim (l : Fin 384) (gd : BitVec 5)
  /-- INBOX_EOI (R265): An MTS ends the highest active priority of the core's world. -/
  | inboxEoi (l : Fin 384) (ga : BitVec 5)
  /-- INBOX_SEND (R266): An MTS sends a vector to an LCN of the skein with release semantics, or drops it. -/
  | inboxSend (l : Fin 384) (ga : BitVec 5)
  /-- TIMER_EXPIRE (R271): TIME reaches TIMER_CMP with EN set and vector 0xFA becomes pending. -/
  | timerExpire (l : Fin 384)
  /-- S_TIMER_EXPIRE (R271): TIME reaches S_TIMER_CMP with EN set and vector 0xF9 becomes pending. -/
  | sTimerExpire (l : Fin 384)
  /-- SWDOG (R272): An MTS of the key 0x0000_5EC1 reloads the skein's secure countdown. -/
  | swdog (l : Fin 384) (ga : BitVec 5)
  /-- SWDOG_EXPIRE (R272): A secure countdown reaches zero and drives the device into SAFE with cause SWDOG. -/
  | swdogExpire (sk : Fin 16)
  /-- SWDOG_PACKAGE_RESET (R272): 100 ms after SAFE entry by the secure watchdog, a PACKAGE reset is performed. -/
  | swdogPackageReset (sk : Fin 16)
  /-- NDOG_CTL_WRITE (R273): Sets the normal watchdog period, target and enable, ignoring illegal enables. -/
  | ndogCtlWrite (l : Fin 384) (ga : BitVec 5)
  /-- NDOG_SVC (R273): A write restarts the normal watchdog period and clears WARNED. -/
  | ndogSvc (l : Fin 384) (ga : BitVec 5)
  /-- NDOG_WARN (R273): The first expiry of the normal watchdog makes 0xF8 pending and sets WARNED. -/
  | ndogWarn (sk : Fin 16)
  /-- NDOG_EXPIRE (R273): A second expiry without service performs a SKEIN reset. -/
  | ndogExpire (sk : Fin 16)
  /-- REFCLK25_LOSS (R269): Loss of the 25 MHz reference makes the timebase hold over and clears LOCKED. -/
  | refclk25Loss
  /-- REFCLK100_LOSS (R550): Loss of lock of a PLL fed by the 100 MHz reference enters SAFE with cause SPARES. -/
  | refclk100Loss
  /-- MMU_SEGTB_WRITE (R281): An MTS to MMU_SEGTB empties the issuing core's segment look-aside. -/
  | mmuSegtbWrite (l : Fin 384) (ga : BitVec 5)
  /-- INBOUND_DMA_REQUEST (R437): A DMA request through a root port is translated by the IOTU and performed, refused or recorded as a fault. -/
  | inboundDmaRequest (bd : Fin 8) (req : DmaReq)
  /-- IOTU_INV_STREAM (R306): Invalidates IOTU entries of one RID and its stream. -/
  | iotuInvStream (q : Requester) (bd : Fin 8) (id : BitVec 16)
  /-- IOTU_INV_ASID (R306): Invalidates non-global IOTU entries of one ASID. -/
  | iotuInvAsid (q : Requester) (bd : Fin 8) (id : BitVec 16)
  /-- IOTU_INV_VA (R306): Invalidates the leaf and path of one bus address. -/
  | iotuInvVa (q : Requester) (bd : Fin 8)
  /-- IOTU_INV_ALL (R306): Invalidates every IOTU entry of the bundle. -/
  | iotuInvAll (q : Requester) (bd : Fin 8)
  /-- IOTU_INV_DONE (R306): An IOTU invalidation completes once affected requests are performed, and BUSY clears. -/
  | iotuInvDone (bd : Fin 8)
  /-- DEVICE_TIMEOUT (R320): A request unanswered for 100 µs is given TIMEOUT by the requesting core. -/
  | deviceTimeout (l : Fin 384) (tid : Nat)
  /-- GETS (R353): A read request reaches a home, which supplies data, recalling an M copy if needed. -/
  | gets (agent : AgentId) (line : Nat)
  /-- GETM (R353): A write-permission request reaches a home, which invalidates or recalls other holders and grants M. -/
  | getm (agent : AgentId) (line : Nat)
  /-- WFULL (R353): A full-line write reaches the home, which takes ownership without reading. -/
  | wfull (agent : AgentId) (line : Nat) (data : List (BitVec 8))
  /-- PUTS (R353): A holder drops a clean copy at the home. -/
  | puts (agent : AgentId) (line : Nat)
  /-- PUTM (R353): An owner writes a line back to the home. -/
  | putm (agent : AgentId) (line : LineData)
  /-- RDNC (R316): A non-cacheable read reaches the line's home. -/
  | rdnc (agent : AgentId) (line : Nat)
  /-- WRNC (R415): A partial non-cacheable write is merged at the home or controller. -/
  | wrnc (agent : AgentId) (line : Nat) (mask : BitVec 64) (data : List (BitVec 8))
  /-- RDDEV (R318): A DEVICE read reaches its target block or window. -/
  | rddev (l : Fin 384) (tid : Nat)
  /-- WRDEV (R318): A DEVICE write reaches its target block or window. -/
  | wrdev (l : Fin 384) (tid : Nat)
  /-- ATOM (R358): A far atomic reaches the home, which recalls copies, performs it and returns the old value with HOT. -/
  | atom (agent : AgentId) (line : Nat) (op : AtomOp)
  /-- MSG (R372): A queue instruction, inbox send or router delivery arrives at its target. -/
  | msgDeliver (m : MsgKind)
  /-- DATA (R353): Data for a request arrives at the requester. -/
  | dataMsg (agent : AgentId) (line : Nat)
  /-- GRANT (R355): A pending or done grant of M arrives at the requester. -/
  | grantMsg (agent : AgentId) (line : Nat)
  /-- DONE (R355): The home's done arrives and stores under the pending grant become globally performed. -/
  | doneMsg (agent : AgentId) (line : Nat)
  /-- ACK (R355): An invalidation acknowledgement arrives at the home. -/
  | ackMsg (agent : AgentId) (line : Nat)
  /-- CMPL (R320): A completion with status arrives at the requester of a DEVICE access or other request. -/
  | cmpl (l : Fin 384) (tid : Nat) (outside : Completion)
  /-- RDATA (R353): A recall answer with data arrives at the home. -/
  | rdata (agent : AgentId) (line : LineData)
  /-- ALREADY (R354): An already-written-back answer to a recall arrives at the home. -/
  | already (agent : AgentId) (line : Nat)
  /-- INV (R353): An invalidation arrives at a holder, which drops the line and acknowledges. -/
  | invMsg (agent : AgentId) (line : Nat)
  /-- RECALL_S (R353): A recall arrives at an owner, which writes back and keeps S. -/
  | recallS (agent : AgentId) (line : Nat)
  /-- RECALL_I (R353): A recall arrives at an owner, which writes back and invalidates. -/
  | recallI (agent : AgentId) (line : Nat)
  /-- RECALL_D (R353): A recall with data discarded arrives at an owner, which invalidates. -/
  | recallD (agent : AgentId) (line : Nat)
  /-- CREDIT (R397): A credit packet on a guest link returns flit credits per VC. -/
  | creditPacket (port : Fin 2) (counts : List Nat)
  /-- DISTAFF_WINDOW_ACCESS (R555): A Distaff window access travels on VC3 to control space or DRAM, refused DEAD for queue memory and the landing window. -/
  | distaffWindowAccess (write : Bool) (pa : BitVec 52) (data : List (BitVec 8))
  /-- DIR_REBUILD_DONE (R357): The rebuilt directory entries are written and waiting requests proceed. -/
  | dirRebuildDone (line : Nat)
  /-- L3_WAY_DOWN (R362): Starts cleaning and powering down one L3 way in every slice of a die. -/
  | l3WayDown (q : Requester) (die : Fin 16) (way : Fin 16)
  /-- L3_WAY_UP (R363): Powers up one L3 way in every slice of a die. -/
  | l3WayUp (q : Requester) (die : Fin 16) (way : Fin 16)
  /-- HC_WAY_DOWN (R362): Starts cleaning and powering down one home-cache way. -/
  | hcWayDown (q : Requester) (way : Fin 16)
  /-- HC_WAY_UP (R363): Powers up one home-cache way. -/
  | hcWayUp (q : Requester) (way : Fin 16)
  /-- WAY_CLEAN_DONE (R362): Every slice has cleaned and gated the way and the unit returns to IDLE. -/
  | wayCleanDone (unit : Fin 17)
  /-- DEAD_AGENT_DECLARE (R365): An agent is declared dead and reclaimed: its PRES bits clear, its M lines are poisoned and the sweep starts. -/
  | deadAgentDeclare (agent : AgentId)
  /-- RECLAIM_SWEEP_DONE (R365): The background sweep has corrected every directory entry naming a dead agent. -/
  | reclaimSweepDone
  /-- PORT_ISOLATE (R383): Distaff or the hub isolates a router port, which then answers flits for the agent itself. -/
  | portIsolate (p : MeshPort)
  /-- FENCE_ACK (R386): A drained domain's fence acknowledgement arrives and its port enters FENCED. -/
  | fenceAck (dom : Fin 409)
  /-- FENCE_LIMIT_EXPIRE (R386): No acknowledgement arrives within FENCE_LIMIT; the fence lifts and the entry aborts with FENCE_TIMEOUT. -/
  | fenceLimitExpire (dom : Fin 409)
  /-- FENCE_HOLD_EXPIRE (R387): A request held at a fenced port for FENCE_HOLD is answered DOMAIN_OFF. -/
  | fenceHoldExpire (dom : Fin 409)
  /-- DOMAIN_POWER_REMOVE (R386): The power controller removes a fenced domain's power and its port enters OFF. -/
  | domainPowerRemove (dom : Fin 409)
  /-- KEEP_ARRAY_SAVE_DONE (R527): An island's architectural state has moved into the keep array and its power is removed. -/
  | keepArraySaveDone (l : Fin 384)
  /-- WAKE_READY (R388): A waking domain signals ready on VC3 and its port enters OPEN. -/
  | wakeReady (dom : Fin 409) (lost : ReelLoss)
  /-- FLIT_CORRECTED (R391): A die-link flit with a one-lane error is corrected and the lane is scheduled for repair. -/
  | flitCorrected (die : Fin 16) (hub : Bool) (module : Fin 2) (lane : Fin 70)
  /-- LANE_REPAIR (R391): Both ends replace the lane with a spare lane, or retire the module when none is left. -/
  | laneRepair (die : Fin 16) (hub : Bool) (module : Fin 2)
  /-- FLIT_UNCORRECTABLE (R393): A flit with an uncorrectable error is discarded, the die stop is isolated and the die declared dead. -/
  | flitUncorrectable (die : Fin 16)
  /-- DISCOVER (R396): Brings up a guest port's sideband and reads the partner's identity. -/
  | discover (q : Requester) (port : Fin 2) (result : GuestResult)
  /-- GUEST_DISCOVER_TIMEOUT (R396): No guest answers within 10 ms; the port enters ERROR with TIMEOUT. -/
  | guestDiscoverTimeout (port : Fin 2)
  /-- ADMIT (R396): Admits and trains a guest whose identity the image admits. -/
  | guestAdmit (q : Requester) (port : Fin 2) (result : GuestResult)
  /-- GST_RETRAIN (R396): Retrains a guest port. -/
  | gstRetrain (q : Requester) (port : Fin 2) (result : GuestResult)
  /-- GST_DISABLE (R396): Disables a guest port. -/
  | gstDisable (q : Requester) (port : Fin 2) (result : GuestResult)
  /-- GUEST_LINK_FAIL (R396): A guest link-down or an unanswered command moves the port to ERROR, isolates it and declares the guest dead. -/
  | guestLinkFail (port : Fin 2)
  /-- SCRUB_READ (R412): The controller scrubs the next line of its pass. -/
  | scrubRead (mc : Fin 16) (decode : EccOutcome)
  /-- SPPR_REPAIR (R413): After a corrected error the reel controller repairs the row by sPPR, holding its bank up to 50 µs. -/
  | spprRepair (mc : Fin 16) (row : RowAddr)
  /-- REFRESH (R418): The controller refreshes a rank with REFab at its interval. -/
  | refreshRank (mc : Fin 16) (sub : Fin 2) (rank : Fin 4)
  /-- NEIGHBOUR_REFRESH (R419): A randomly queued neighbour refresh activates and precharges the rows adjacent to an activated row. -/
  | neighbourRefresh (mc : Fin 16) (row : RowAddr)
  /-- DRIFT_CHECK (R422): Every 64 s Distaff measures delay drift, writes NEXT values, issues APPLY and notices large drift. -/
  | driftCheck (mc : Fin 16) (drifts : List DriftSample)
  /-- APPLY (R423): Requests that NEXT delay values be copied to LIVE in the next apply window. -/
  | mcApply (q : Requester) (mc : Fin 16)
  /-- CHECK (R422): Runs the DQS interval oscillators and reads their counts. -/
  | mcCheck (q : Requester) (mc : Fin 16)
  /-- APPLY_WINDOW (R423): In its apply window a subchannel refreshes every rank and switches NEXT to LIVE. -/
  | applyWindow (mc : Fin 16) (sub : Fin 2)
  /-- LP_EXIT_FILL_DONE (R426): After a PARTIAL exit the lost ranks are filled with poison and directory state 0b11, and the port enters OPEN. -/
  | lpExitFillDone (mc : Fin 16)
  /-- PCIE_LINK_UP (R439): A bundle's link reaches L0; a DOWN root port enters UP. -/
  | pcieLinkUp (bd : Fin 8) (speed : Fin 7) (width : Fin 17)
  /-- PCIE_LINK_DOWN (R439): A root port's link leaves L0 without RETRAIN and the port enters ISOLATED. -/
  | pcieLinkDown (bd : Fin 8)
  /-- REARM (R439): Lifts a root port's isolation once its link is in L0. -/
  | rearm (q : Requester) (bd : Fin 8)
  /-- PCE_RETRAIN (R439): Retrains a root port's link. -/
  | pceRetrain (q : Requester) (bd : Fin 8)
  /-- VF_ENABLE_SET (R447): Setting VF Enable with a valid NumVFs makes the VFs EMPTY. -/
  | vfEnableSet (bd : Fin 8) (num : BitVec 16)
  /-- VF_ENABLE_CLEAR (R447): Clearing VF Enable resets and destroys every VF, completing within 8 ms. -/
  | vfEnableClear (bd : Fin 8)
  /-- VFM_CREATE (R449): Gives an EMPTY VF channels, vectors, a queue range and slots from its skein's pools. -/
  | vfmCreate (bd : Fin 8)
  /-- VFM_DESTROY (R451): Resets a READY VF, clears rights naming it and returns its resources. -/
  | vfmDestroy (bd : Fin 8)
  /-- VFM_QUERY (R448): Returns a VF's state and resources. -/
  | vfmQuery (bd : Fin 8)
  /-- MSIX_UNMASK (R453): Unmasking a vector or function sends pending messages and clears their bits. -/
  | msixUnmask (bd : Fin 8) (fn : Fin 1025) (vec : Nat)
  /-- BUS_MASTER_ENABLE_CLEAR (R454): Clearing Bus Master Enable stops new requests within 1 µs and holds writes. -/
  | busMasterEnableClear (bd : Fin 8) (fn : Fin 1025)
  /-- BUS_MASTER_ENABLE_SET (R454): Setting Bus Master Enable issues held writes in order and resumes work. -/
  | busMasterEnableSet (bd : Fin 8) (fn : Fin 1025)
  /-- POWERSTATE_D3HOT (R455): A write of D3hot stops the PF's and VFs' channels and enters L1. -/
  | powerstateD3hot (bd : Fin 8)
  /-- POWERSTATE_D0 (R455): A write of D0 restores every function and resumes held work. -/
  | powerstateD0 (bd : Fin 8)
  /-- PME_WAKE (R456): A drain item in D3hot or D3cold sets PME_Status and sends PM_PME or drives PE_WAKE_N low. -/
  | pmeWake (bd : Fin 8)
  /-- PE_PERST_N_ASSERT (R457): Assertion of PE_PERST_N resets an endpoint bundle and enters D3cold. -/
  | pePerstNAssert (bd : Fin 8)
  /-- PE_PERST_N_DEASSERT (R457): Deassertion releases PE_WAKE_N and trains the link to L0. -/
  | pePerstNDeassert (bd : Fin 8)
  /-- HOT_RESET (R459): A hot reset or link-down resets the PF and destroys every VF of the bundle. -/
  | hotReset (bd : Fin 8)
  /-- INITIATE_FUNCTION_LEVEL_RESET (R458): Starts a function-level reset: DMA silence, channel reset, queue flush and mailbox clear. -/
  | initiateFunctionLevelReset (bd : Fin 8) (fn : Fin 1025)
  /-- FLR_COMPLETE (R458): Configuration space and MSI-X table reach reset values and the reset is complete. -/
  | flrComplete (bd : Fin 8) (fn : Fin 1025)
  /-- FN_MBX_SEND (R461): The VF side sends its outbound mailbox message, or a device command the device answers. -/
  | fnMbxSend (bd : Fin 8) (fn : Fin 1025)
  /-- FN_MBX_ACK (R461): The VF side releases its inbound message. -/
  | fnMbxAck (bd : Fin 8) (fn : Fin 1025)
  /-- VFM_MBX_SEND (R461): The PF side sends a message to the selected VF. -/
  | vfmMbxSend (bd : Fin 8)
  /-- VFM_MBX_ACK (R461): The PF side releases the selected VF's inbound message. -/
  | vfmMbxAck (bd : Fin 8)
  /-- DEVICE_MAILBOX_ANSWER (R462): The device answers a VF message addressed to it within 2 µs. -/
  | deviceMailboxAnswer (bd : Fin 8) (fn : Fin 1025)
  /-- DLOG_SWAP (R464): Writes held dirty-log words and switches the active bitmap. -/
  | dlogSwap (bd : Fin 8) (fn : Fin 1025)
  /-- DLOG_SWAP_DONE (R464): A SWAP completes once the held words are written. -/
  | dlogSwapDone (bd : Fin 8) (fn : Fin 1025)
  /-- HANK_PORT_UP (R472): A Hank port gains block lock without fault and enters UP. -/
  | hankPortUp (port : Fin 8)
  /-- HANK_PORT_DOWN (R472): A port loses lock or sees fault sequences for 2 µs, goes DOWN and its streams move. -/
  | hankPortDown (port : Fin 8)
  /-- HELLO_SEND (R473): Every UP port broadcasts a HELLO every HELLO_MS. -/
  | helloSend (port : Fin 8)
  /-- HELLO (R474): A received HELLO updates reachability, incarnation and peer state. -/
  | hello (port : Fin 8) (h : HelloFrame)
  /-- PEER_REACH_LAPSE (R473): Reachability of a peer lapses 3 × HELLO_MS after its last HELLO. -/
  | peerReachLapse (port : Fin 8) (sys : Fin 2048)
  /-- PEER_CONFLICT_CLEAR (R474): A CONFLICT state ends after 3 × HELLO_MS without a conflicting HELLO. -/
  | peerConflictClear (sys : Fin 2048)
  /-- HANK_FRAME_RECEIVE (R482): A received frame is dropped, discarded as duplicate or processed by epoch and SEQ, updating acknowledgements. -/
  | hankFrameReceive (port : Fin 8) (f : HankFrame)
  /-- HANK_ITEM (R493): An arriving item is checked against its grant and queue and committed or refused. -/
  | hankItem (sk : Fin 16) (sys : Fin 2048) (m : HankMsg)
  /-- HANK_CREQ (R142): A credit request arrives at the destination. -/
  | hankCreq (sk : Fin 16) (sys : Fin 2048) (m : HankMsg)
  /-- HANK_CREL (R480): A credit release frees the remainder of a grant block. -/
  | hankCrel (sk : Fin 16) (sys : Fin 2048) (m : HankMsg)
  /-- HANK_GRANT (R492): A grant or failed grant arrives at the origin and serves or ends waiting posts. -/
  | hankGrant (sk : Fin 16) (sys : Fin 2048) (m : HankMsg)
  /-- HANK_REFUSE (R495): A refusal arrives at the origin, which writes a refusal record. -/
  | hankRefuse (sk : Fin 16) (sys : Fin 2048) (m : HankMsg)
  /-- HANK_REVOKE (R494): A revocation arrives and the origin drops the grant block. -/
  | hankRevoke (sk : Fin 16) (sys : Fin 2048) (m : HankMsg)
  /-- HANK_ITEM_ACCEPT (R490): A remote post obtains credit and replay space and the port accepts it. -/
  | hankItemAccept (l : Fin 384)
  /-- CREDIT_WAIT_EXPIRE (R490): A remote post not accepted within CREDIT_WAIT returns FULL. -/
  | creditWaitExpire (l : Fin 384)
  /-- HANK_FRAME_SEND (R489): A port packs pending messages of a stream direction into a frame and transmits it. -/
  | hankFrameSend (sk : Fin 16) (sys : Fin 2048) (dir : Bool)
  /-- HANK_RTO_EXPIRE (R485): Without ACK progress for RTO_US the sender retransmits, holding the stream after RETRY_MAX. -/
  | hankRtoExpire (sk : Fin 16) (sys : Fin 2048) (dir : Bool)
  /-- STREAM_END (R487): A stream held for PEER_HOLD_MS ends, refusing unacknowledged items with TIMEOUT and raising its epoch. -/
  | streamEnd (sk : Fin 16) (sys : Fin 2048) (dir : Bool)
  /-- HNK_RETRAIN (R499): Restarts training of a Hank port. -/
  | hnkRetrain (q : Requester) (port : Fin 8)
  /-- HANK_PORT_RETIRE (R496): A port with an internal error or failed loopback is retired and its streams move. -/
  | hankPortRetire (port : Fin 8)
  /-- HANK_SPARE_SUBSTITUTE (R496): Within 50 ms a spare port takes the retired port's address, mask bit and ALT. -/
  | hankSpareSubstitute (port : Fin 8)
  /-- CORE_ERROR_DETECT (R502): A core logic or Ply residue error found at retirement stops the core and starts a reel. -/
  | coreErrorDetect (l : Fin 384) (ply : Bool)
  /-- ARRAY_ECC_ERROR (R502): An array ECC error retires its row, moving or poisoning the content, or retires a way or core when rows run out. -/
  | arrayEccError (e : ArrayError)
  /-- BUNDLE_RETIRE (R512): A PCIe bundle controller parity error retires the bundle. -/
  | bundleRetire (bd : Fin 8)
  /-- REEL_START (R505): The reel controller chooses a spare spindle, holds deliveries and powers the spare up. -/
  | reelStart (l : Fin 384)
  /-- REEL_DRAIN_DONE (R506): The old core's store buffer has drained and its L2 written back. -/
  | reelDrainDone (l : Fin 384)
  /-- REEL_STATE_MOVE (R508): Architectural state moves to the spare, or the LCN restarts or takes a machine check if state is lost. -/
  | reelStateMove (l : Fin 384) (lost : ReelLoss)
  /-- REEL_RESUME (R506): The units name the new spindle, held deliveries are made and the LCN resumes. -/
  | reelResume (l : Fin 384)
  /-- REEL_STATE_WRITE (R506): Distaff writes the new reel state to boot flash within 1 s. -/
  | reelStateWrite
  /-- WEAR_MEASURE (R510): Daily ring-oscillator measurement raises guard-band steps and may reel early. -/
  | wearMeasure (slow : List Nat) (unacked : List Nat) (warm : Bool)
  /-- EM_READ (R509): Distaff reads the electromigration counters hourly. -/
  | emRead (counts : List Nat)
  /-- SAFE_ENTRY (R520): A SAFE trigger signals every unit, drives FAULT_N and stops cores, controllers and ports. -/
  | safeEntry (cause : SafeCause)
  /-- IMAGE_HASH_CHECK (R519): Every 60 s Distaff checks the image hash and claim registers, entering SAFE on mismatch. -/
  | imageHashCheck (good : Bool)
  /-- LOCKSTEP_MISMATCH (R554): A lockstep mismatch retires the active Distaff pair and the spare takes over within 5 ms. -/
  | lockstepMismatch
  /-- RL_QUERY (R524): Returns the reel state and budgets. -/
  | rlQuery (caller : Caller)
  /-- RL_REEL (R524): Moves an LCN to a spare, the old spindle standing as spare again. -/
  | rlReel (caller : Caller) (l : Fin 384)
  /-- RL_RETIRE (R524): Moves an LCN to a spare and retires the old spindle. -/
  | rlRetire (caller : Caller) (l : Fin 384)
  /-- RL_SAFE (R524): Enters SAFE with cause COMMAND. -/
  | rlSafe (caller : Caller)
  /-- PWR_REQ_SPINDLE (R534): A power request for an LCN's core island is checked and admitted, refused, or held as a self-request. -/
  | pwrReqSpindle (q : Requester) (index : Nat) (target : BitVec 3)
  /-- PWR_REQ_CHANNEL (R534): A power request for a memory channel. -/
  | pwrReqChannel (q : Requester) (index : Nat) (target : BitVec 3)
  /-- PWR_REQ_BUNDLE (R534): A power request for a root-port bundle. -/
  | pwrReqBundle (q : Requester) (index : Nat) (target : BitVec 3)
  /-- PWR_REQ_PACKAGE (R544): Package OFF: links down, caches written back, channels to low power, RAILOFF_N driven low. -/
  | pwrReqPackage (q : Requester) (target : BitVec 3)
  /-- POWER_ENTRY_TIMEOUT (R534): 10 µs after the stop the store buffer or pending snoop still blocks entry and it aborts. -/
  | powerEntryTimeout (l : Fin 384)
  /-- WAKE_EVENT (R529): A pending vector, timer or request to RUN starts exit from SLEEP, RETAIN or OFF. -/
  | wakeEvent (dom : Fin 409)
  /-- THERMAL_SAMPLE (R540): A sensor sample updates thermal and home-cache steps and trips at 110 °C on two samples. -/
  | thermalSample (site : Fin 18) (temp : Int) (under : Int)
  /-- POWER_STEP_UPDATE (R540): Averaged power against the limits raises or lowers skein and package power steps. -/
  | powerStepUpdate (entry : BitVec 8) (watts : Nat)
  /-- TKWAKE_N (R546): TKWAKE_N held low in package OFF starts Thaw by driving RAILOFF_N high. -/
  | tkwakeN
  /-- PMB_ALERT (R612): PMB_ALERT_N low makes Distaff read every regulator's STATUS_WORD and record faults. -/
  | pmbAlert (words : List (Nat × BitVec 16))
  /-- GUARD_STEP_RETRY (R612): Distaff retries an unacknowledged guard-band step once per second. -/
  | guardStepRetry (dom : Fin 18) (ack : Bool)
  /-- CAPTURE_EDGE (R608): A rising edge on a capture pin records the timebase and increments the count. -/
  | captureEdge (unit : Fin 4)
  /-- PULSE_START (R610): At each whole second of the timebase a pulse unit drives its pin high. -/
  | pulseStart (unit : Fin 2)
  /-- PULSE_END (R610): 100 µs later the pulse unit drives its pin low. -/
  | pulseEnd (unit : Fin 2)
  /-- TRC_CTL_WRITE (R607): A write to TRC_CTL starts, stops or retargets tracing, or is refused. -/
  | trcCtlWrite (q : Requester) (v : BitVec 32)
  /-- IRQ_DOORBELL (R267): A doorbell write is admitted and delivers a route entry's vector, or is dropped. -/
  | irqDoorbell (q : Requester) (v : BitVec 32)
  /-- IRQ_ROUTE_WRITE (R268): A route entry write is taken or refused under the route checks. -/
  | irqRouteWrite (q : Requester) (n : Fin 4096) (v : BitVec 32)
  /-- PMU_SK_SNAP (R594): A write copies all seven hub counts of a skein into its read registers at one instant. -/
  | pmuSkSnap (q : Requester) (sk : Fin 16)
  /-- STATUS (R574): Distaff command returning status. -/
  | statusCmd (caller : Caller)
  /-- TIME (R574): Distaff command returning the timebase. -/
  | timeCmd (caller : Caller)
  /-- IDENTITY (R574): Returns SERIAL, device key certificate and every die's stepping and serial. -/
  | identityCmd (caller : Caller)
  /-- AUTH_BEGIN (R569): Starts a session and returns a fresh nonce, or DENIED for a locked or unknown credential. -/
  | authBegin (caller : Caller) (role : Fin 8) (index : Nat)
  /-- AUTH_FINISH (R569): Checks the requester's tag, proves the device and derives the session key. -/
  | authFinish (caller : Caller) (tagOk : Bool)
  /-- LOGOUT (R572): Ends the session. -/
  | logout (caller : Caller)
  /-- SESSION_IDLE_TIMEOUT (R572): A session ends after 900 s without a command. -/
  | sessionIdleTimeout (id : Nat)
  /-- CREDENTIAL_UNLOCK (R572): A credential locked by five failures unlocks after 600 s. -/
  | credentialUnlock (cred : Nat)
  /-- XFER_OPEN (R573): Opens a transfer of a given kind and length. -/
  | xferOpen (caller : Caller) (kind : Nat) (length : Nat)
  /-- XFER_DATA (R573): Carries up to 1,024 bytes of a transfer at an offset. -/
  | xferData (caller : Caller) (offset : Nat) (data : List (BitVec 8)) (crcOk : Bool)
  /-- ENROLL (R567): Burns an installer key hash and fleet secret into a fuse slot under a maker signature. -/
  | enroll (caller : Caller) (slot : Nat) (body : List (BitVec 8)) (sigOk : Bool)
  /-- REVOKE (R567): Sets a slot's REVOKED bit under a maker signature. -/
  | revokeSlot (caller : Caller) (slot : Nat) (sigOk : Bool)
  /-- LOG_READ (R582): Returns audit records from an ASEQ, verifying the chain. -/
  | logRead (caller : Caller) (aseq : BitVec 64)
  /-- FLOOR (R574): Raises IMG_FLOOR to cover the running IMG_VER. -/
  | floorCmd (caller : Caller)
  /-- PWR_REQUEST (R574): Distaff command issuing a power request with the fields of PWR_REQ. -/
  | pwrRequest (caller : Caller) (kind : Nat) (index : Nat) (target : BitVec 3)
  /-- RESET (R565): Requests a PACKAGE, SKEIN or CORE reset. -/
  | resetCmd (caller : Caller) (kind : Nat) (index : Nat)
  /-- FW_STAGE (R574): Verifies transferred firmware and marks its copy current. -/
  | fwStage (caller : Caller) (sigOk : Bool) (version : Nat) (raise : Bool)
  /-- DBG_HALT (R574): Stops an LCN at a retirement boundary. -/
  | dbgHalt (caller : Caller) (l : Fin 384)
  /-- DBG_STEP (R574): Retires exactly one instruction of a halted LCN. -/
  | dbgStep (caller : Caller) (l : Fin 384)
  /-- DBG_RESUME (R574): Resumes a halted LCN. -/
  | dbgResume (caller : Caller) (l : Fin 384)
  /-- DBG_REG (R574): Reads or writes a register of a halted LCN. -/
  | dbgReg (caller : Caller) (l : Fin 384) (write : Bool) (reg : Nat) (v : List (BitVec 8))
  /-- DBG_MEM (R574): Reads or writes memory through a Distaff window. -/
  | dbgMem (caller : Caller) (write : Bool) (pa : BitVec 52) (data : List (BitVec 8)) (length : Nat)
  /-- DBG_SAMPLE (R574): Samples the PC and counters of an LCN. -/
  | dbgSample (caller : Caller) (l : Fin 384)
  /-- BAUD (R576): Sets Almanac's UART0 rate after the response. -/
  | baudSet (caller : Caller) (rate : Nat)
  /-- ALMANAC_BREAK (R576): A break of 10 ms returns the rate to 115,200 and ends the Almanac session. -/
  | almanacBreak
  /-- BAUD_REVERT (R576): After 10 s without a byte at a non-default rate, the rate returns to 115,200. -/
  | baudRevert
  /-- ENTDAA (R578): The I3C controller assigns the device a dynamic address. -/
  | entdaa (addr : BitVec 7)
  /-- DST_MBX_DOORBELL (R580): A doorbell write hands a skein's mailbox request to Distaff, which answers and may signal its route. -/
  | dstMbxDoorbell (q : Requester) (sk : Fin 16) (v : BitVec 32)
  /-- AUDIT_FLUSH (R582): Audit records in the SRAM ring reach the flash log within 1 s, erasing the oldest page when full. -/
  | auditFlush
  /-- SHED_MEASURE (R583): Every 100 ms Distaff measures kept work and changes the shed level. -/
  | shedMeasure (used : Nat)
  /-- HUB_UNIT_ERROR (R502): A parity or residue error in a home agent, memory controller, interrupt router, power controller, timebase or hub router, which has no replacement, enters SAFE with cause SPARES. -/
  | hubUnitError (unit : HubUnit)
  /-- REFCLK25_RESTORE (R269): The 25 MHz reference returns and the timebase counts from it again, setting TB_STATUS.LOCKED. -/
  | refclk25Restore
  /-- VAON_LOSS (R601): Loss of VAON discards the always-on island's package OFF state, so the next PWROK rise starts a COLD reset. -/
  | vaonLoss
  /-- PEER_DOWN_HOLD_EXPIRE (R475): A peer that has been DOWN for PEER_HOLD_MS has its streams ended and the grant blocks held for it released. -/
  | peerDownHoldExpire (sys : Fin 2048)
  /-- SPD_TEMPERATURE_SAMPLE (R418): Every 64 ms the controller samples each DIMM's SPD-hub temperature and switches its refresh interval between 3.9 µs and 1.95 µs at 85 °C. -/
  | spdTemperatureSample (mc : Fin 16) (dimm : Fin 2) (temp : Int)
  /-- TRACE_PACKET_SEND (R606): The trace controller sends the next byte of its packet stream on the UART1 lanes, draining the trace buffer or sending IDLE. -/
  | tracePacketSend
  /-- ROOT_ERROR_STATUS_SET (R439): An error reported by the hierarchy sets the Root Error Status register of a root port's AER capability, and the port signals PCE_RP_ROUTE. -/
  | rootErrorStatusSet (bd : Fin 8)
  /-- SLEEP_ENTRY_DONE (R526): After the store drain, the core island completes SLEEP entry within 2 µs and its domain state becomes SLEEP. -/
  | sleepEntryDone (l : Fin 384)
  /-- SLEEP_EXIT_DONE (R526): Within 2 µs of a wake event a core island in SLEEP returns to RUN and the LCN resumes at its boundary. -/
  | sleepExitDone (l : Fin 384)
  /-- LOCAL_FAULT_END (R497): 10 ms after SAFE entry each Hank port stops sending Local Fault and turns its transmitters off. -/
  | localFaultEnd (port : Fin 8)
  deriving DecidableEq, Repr

end Sys2Proof
end

