-- ==== Sys2Proof/Decode.lean ====
section
/-! DEFINITION. Words. No row of the opcode table has bits, so no word of the table spells a command; the words of TKA-64 spell
the commands that are its instructions, by the encodings of 07 R221 to R240, 05 R187 and R188, and 03 R83 and R110. -/
namespace Sys2Proof

/-- The command that a word of `nbits` bits spells by the table's bits: none, since no row has bits. -/
def decodeTableWord (nbits w : Nat) : Option Instr :=
  match nbits, w with
  | _, _ => none

/-! ### Fields of the formats (07 R222) -/

/-- The register field [25:21]. -/
def fieldD (w : BitVec 32) : BitVec 5 := w.extractLsb' 21 5

/-- The register field [20:16]. -/
def fieldA (w : BitVec 32) : BitVec 5 := w.extractLsb' 16 5

/-- The register field [15:11]. -/
def fieldB (w : BitVec 32) : BitVec 5 := w.extractLsb' 11 5

/-- imm16. -/
def fieldImm (w : BitVec 32) : BitVec 16 := w.extractLsb' 0 16

/-- off13 of format M. -/
def fieldOff (w : BitVec 32) : BitVec 13 := w.extractLsb' 0 13

/-- Bits [lo + n − 1 : lo] as a number. -/
def bitsOf (w : BitVec 32) (lo n : Nat) : Nat := (w.extractLsb' lo n).toNat

/-- An instruction where its zero fields are zero (07 R221). -/
def ifZero (zero : Bool) (i : Instr) : Option Instr := if zero then some i else none

/-! ### Integer majors (07 R224 to R226) -/

/-- Major 0x00: FN[5:0] and W. -/
def decodeInt (l : Fin 384) (w : BitVec 32) : Option Instr :=
  let d := fieldD w
  let a := fieldA w
  let b := fieldB w
  let z := b == 0#5
  if bitsOf w 7 4 ≠ 0 then none
  else match bitsOf w 0 6, w.getLsbD 6 with
    | 0x00, x => some (.add l x d a b)
    | 0x01, x => some (.sub l x d a b)
    | 0x02, false => some (.and l d a b)
    | 0x03, false => some (.or l d a b)
    | 0x04, false => some (.xor l d a b)
    | 0x05, false => some (.andn l d a b)
    | 0x06, false => some (.orn l d a b)
    | 0x07, false => some (.xnor l d a b)
    | 0x08, x => some (.sll l x d a b)
    | 0x09, x => some (.srl l x d a b)
    | 0x0A, x => some (.sra l x d a b)
    | 0x0B, x => some (.ror l x d a b)
    | 0x0C, false => some (.slt l d a b)
    | 0x0D, false => some (.sltu l d a b)
    | 0x0E, false => some (.min l d a b)
    | 0x0F, false => some (.max l d a b)
    | 0x10, false => some (.minu l d a b)
    | 0x11, false => some (.maxu l d a b)
    | 0x12, x => ifZero z (.clz l x d a)
    | 0x13, x => ifZero z (.ctz l x d a)
    | 0x14, x => ifZero z (.popc l x d a)
    | 0x15, false => ifZero z (.rev8 l d a)
    | 0x16, false => some (.cselz l d a b)
    | 0x17, false => some (.cselnz l d a b)
    | _, _ => none

/-- Major 0x01: FN[3:0] and W. -/
def decodeMul (l : Fin 384) (w : BitVec 32) : Option Instr :=
  let d := fieldD w
  let a := fieldA w
  let b := fieldB w
  if bitsOf w 7 4 ≠ 0 ∨ bitsOf w 4 2 ≠ 0 then none
  else match bitsOf w 0 4, w.getLsbD 6 with
    | 0x0, x => some (.mul l x d a b)
    | 0x1, false => some (.mulh l d a b)
    | 0x2, false => some (.mulhu l d a b)
    | 0x3, false => some (.mulhsu l d a b)
    | 0x4, x => some (.div l x d a b)
    | 0x5, x => some (.divu l x d a b)
    | 0x6, x => some (.rem l x d a b)
    | 0x7, x => some (.remu l x d a b)
    | _, _ => none

/-- Major 0x09: kind, W and amount in imm16. -/
def decodeShift (l : Fin 384) (w : BitVec 32) : Option Instr :=
  let d := fieldD w
  let a := fieldA w
  let x := w.getLsbD 12
  let n : BitVec 6 := w.extractLsb' 0 6
  if bitsOf w 13 3 ≠ 0 ∨ bitsOf w 6 4 ≠ 0 then none
  else match bitsOf w 10 2 with
    | 0 => some (.slli l x d a n)
    | 1 => some (.srli l x d a n)
    | 2 => some (.srai l x d a n)
    | _ => some (.rori l x d a n)

/-- Major 0x0D: pos, kind and len − 1 in imm16. -/
def decodeBitField (l : Fin 384) (w : BitVec 32) : Option Instr :=
  let d := fieldD w
  let a := fieldA w
  let p : BitVec 6 := w.extractLsb' 10 6
  let n : BitVec 6 := w.extractLsb' 0 6
  if bitsOf w 6 2 ≠ 0 then none
  else match bitsOf w 8 2 with
    | 0 => some (.extu l d a p n)
    | 1 => some (.ext l d a p n)
    | 2 => some (.ins l d a p n)
    | _ => none

/-- Majors 0x02 to 0x0D. -/
def decodeImm (l : Fin 384) (w : BitVec 32) : Option Instr :=
  let d := fieldD w
  let a := fieldA w
  let i := fieldImm w
  match bitsOf w 26 6 with
  | 0x02 => some (.addi l d a i)
  | 0x03 => some (.addiw l d a i)
  | 0x04 => some (.andi l d a i)
  | 0x05 => some (.ori l d a i)
  | 0x06 => some (.xori l d a i)
  | 0x07 => some (.slti l d a i)
  | 0x08 => some (.sltiu l d a i)
  | 0x09 => decodeShift l w
  | 0x0A => ifZero (a == 0#5) (.lui l d i)
  | 0x0B => some (.shi l d a i)
  | 0x0C => ifZero (a == 0#5) (.auipc l d i)
  | 0x0D => decodeBitField l w
  | _ => none

/-! ### Memory and jumps (07 R227, R231) -/

/-- Majors 0x10 to 0x16. -/
def decodeMem (l : Fin 384) (w : BitVec 32) : Option Instr :=
  let d := fieldD w
  let a := fieldA w
  let off := fieldOff w
  let sz : BitVec 2 := w.extractLsb' 14 2
  let u := w.getLsbD 13
  let szx : BitVec 2 := w.extractLsb' 9 2
  let sc := w.getLsbD 7
  let low := bitsOf w 0 7 == 0
  match bitsOf w 26 6 with
  | 0x10 => some (.scalarLoad l sz u d a off)
  | 0x11 => ifZero (!u) (.scalarStore l sz d a off)
  | 0x12 => ifZero (!u) (.flwFld l sz d a off)
  | 0x13 => ifZero (!u) (.fswFsd l sz d a off)
  | 0x14 => ifZero low (.indexedLoad l szx (w.getLsbD 8) sc d a (fieldB w))
  | 0x15 => ifZero (low && !w.getLsbD 8) (.indexedStore l szx sc d a (fieldB w))
  | 0x16 => ifZero (sz == 0#2 && !u) (.pref l d a off)
  | _ => none

/-- Majors 0x18 to 0x1C. -/
def decodeJump (l : Fin 384) (w : BitVec 32) : Option Instr :=
  match bitsOf w 26 6 with
  | 0x18 => some (.jump l (w.extractLsb' 0 26))
  | 0x19 => some (.jal l (w.extractLsb' 0 26))
  | 0x1A => some (.jalr l (fieldD w) (fieldA w) (fieldImm w))
  | 0x1B => some (.bc l (w.extractLsb' 13 3) (fieldD w) (fieldA w) (fieldOff w))
  | 0x1C => some (.bz l (w.extractLsb' 18 3) (fieldD w) (w.extractLsb' 0 18))
  | _ => none

/-! ### Floating point (07 R235) -/

/-- Major 0x20: RM, P, SGN and OP. -/
def decodeFpArith (l : Fin 384) (w : BitVec 32) : Option Instr :=
  let d := fieldD w
  let a := fieldA w
  let b := fieldB w
  let rm : BitVec 3 := w.extractLsb' 8 3
  let p := w.getLsbD 7
  let sgn := bitsOf w 5 2
  let z := b == 0#5
  let s := sgn == 0
  let q := rm == 0#3 && s
  if w.getLsbD 4 then none
  else match bitsOf w 0 4 with
    | 0 => ifZero s (.fadd l p rm d a b)
    | 1 => ifZero s (.fsub l p rm d a b)
    | 2 => ifZero s (.fmul l p rm d a b)
    | 3 => ifZero s (.fdiv l p rm d a b)
    | 4 => ifZero (s && z) (.fsqrt l p rm d a)
    | 5 => ifZero q (.fminnum l p d a b)
    | 6 => ifZero q (.fmaxnum l p d a b)
    | 7 => ifZero q (.fmin l p d a b)
    | 8 => ifZero q (.fmax l p d a b)
    | 9 =>
      if rm ≠ 0#3 then none
      else match sgn with
        | 0 => ifZero z (.fabs l p d a)
        | 1 => ifZero z (.fneg l p d a)
        | 2 => some (.fcopys l p d a b)
        | _ => ifZero z (.fnabs l p d a)
    | _ => none

/-- Major 0x21, format F4. -/
def decodeFma (l : Fin 384) (w : BitVec 32) : Option Instr :=
  let d := fieldD w
  let a := fieldA w
  let b := fieldB w
  let c : BitVec 5 := w.extractLsb' 6 5
  let p := w.getLsbD 3
  let rm : BitVec 3 := w.extractLsb' 0 3
  match bitsOf w 4 2 with
  | 0 => some (.fma l p rm d a b c)
  | 1 => some (.fms l p rm d a b c)
  | 2 => some (.frms l p rm d a b c)
  | _ => some (.fnma l p rm d a b c)

/-- Major 0x22: P and OP. -/
def decodeFpCmp (l : Fin 384) (w : BitVec 32) : Option Instr :=
  let d := fieldD w
  let a := fieldA w
  let b := fieldB w
  let p := w.getLsbD 7
  if bitsOf w 8 3 ≠ 0 ∨ bitsOf w 4 3 ≠ 0 then none
  else match bitsOf w 0 4 with
    | 0 => some (.fceq l p d a b)
    | 1 => some (.fclt l p d a b)
    | 2 => some (.fcle l p d a b)
    | 3 => some (.fcun l p d a b)
    | 4 => some (.fcltq l p d a b)
    | 5 => some (.fcleq l p d a b)
    | 6 => ifZero (b == 0#5) (.fkind l p d a)
    | _ => none

/-- Major 0x23: RM, OP and P. -/
def decodeFpCvt (l : Fin 384) (w : BitVec 32) : Option Instr :=
  let d := fieldD w
  let a := fieldA w
  let rm : BitVec 3 := w.extractLsb' 8 3
  let p := w.getLsbD 3
  if bitsOf w 0 3 ≠ 0 ∨ bitsOf w 11 5 ≠ 0 then none
  else match bitsOf w 4 4 with
    | 0 => some (.fcvt l p rm d a)
    | 1 => some (.ftoi64 l p rm d a)
    | 2 => some (.ftou64 l p rm d a)
    | 3 => some (.ftoi32 l p rm d a)
    | 4 => some (.ftou32 l p rm d a)
    | 5 => some (.i64tof l p rm d a)
    | 6 => some (.u64tof l p rm d a)
    | 7 => some (.i32tof l p rm d a)
    | 8 => some (.u32tof l p rm d a)
    | 9 => ifZero (rm == 0#3) (.fbits l p d a)
    | 10 => ifZero (rm == 0#3) (.gbits l p d a)
    | 11 => some (.frint l p rm d a)
    | 12 => some (.frintx l p rm d a)
    | _ => none

/-! ### Atomics, barriers, crypto (07 R236, R238, R239) -/

/-- Majors 0x28 and 0x29; U is allowed with MIN, MAX and SADD alone. -/
def decodeAtomic (l : Fin 384) (w : BitVec 32) : Option Instr :=
  let d := fieldD w
  let a := fieldA w
  let b := fieldB w
  let x := w.getLsbD 7
  let ord : BitVec 2 := w.extractLsb' 5 2
  let u := w.getLsbD 4
  if bitsOf w 0 4 ≠ 0 then none
  else if bitsOf w 26 6 = 0x29 then ifZero (!u && bitsOf w 8 3 == 0) (.cas l x ord d a b)
  else match bitsOf w 8 3 with
    | 0 => ifZero (!u) (.atomicSwap l x ord d a b)
    | 1 => ifZero (!u) (.atomicAdd l x ord d a b)
    | 2 => ifZero (!u) (.atomicAnd l x ord d a b)
    | 3 => ifZero (!u) (.atomicOr l x ord d a b)
    | 4 => ifZero (!u) (.atomicXor l x ord d a b)
    | 5 => some (.atomicMin l x u ord d a b)
    | 6 => some (.atomicMax l x u ord d a b)
    | _ => some (.atomicSadd l x u ord d a b)

/-- Major 0x2B: KIND. -/
def decodeBar (l : Fin 384) (w : BitVec 32) : Option Instr :=
  if bitsOf w 4 22 ≠ 0 then none
  else match bitsOf w 0 4 with
    | 0 => some (.barLl l)
    | 1 => some (.barSs l)
    | 2 => some (.barFull l)
    | 3 => some (.barDev l)
    | 4 => some (.isync l)
    | _ => none

/-- Major 0x3C: FN[3:0]. -/
def decodeCrypto (l : Fin 384) (w : BitVec 32) : Option Instr :=
  let d := fieldD w
  let a := fieldA w
  let b := fieldB w
  let z := b == 0#5
  if bitsOf w 4 7 ≠ 0 then none
  else match bitsOf w 0 4 with
    | 0x0 => some (.aese l d a b)
    | 0x1 => some (.aesel l d a b)
    | 0x2 => some (.aesd l d a b)
    | 0x3 => some (.aesdl l d a b)
    | 0x4 => ifZero z (.aesimc l d a)
    | 0x5 => some (.sha256r l d a b)
    | 0x6 => some (.sha256m l d a b)
    | 0x7 => some (.sha512r l d a b)
    | 0x8 => ifZero z (.sha512m l d a)
    | 0x9 => some (.crc32c l 0#2 d a b)
    | 0xA => some (.crc32c l 1#2 d a b)
    | 0xB => some (.crc32c l 2#2 d a b)
    | 0xC => some (.crc32c l 3#2 d a b)
    | _ => none

/-! ### Ply (05 R187, R188) -/

/-- Major 0x30, the vector form. -/
def decodePlyVec (l : Fin 384) (w : BitVec 32) : Option Instr :=
  let d := fieldD w
  let a := fieldA w
  let b := fieldB w
  let m : BitVec 3 := w.extractLsb' 8 3
  let g : BitVec 2 := w.extractLsb' 6 2
  let t : BitVec 2 := w.extractLsb' 4 2
  match bitsOf w 0 4 with
  | 0x0 => some (.padds l d a b m g t)
  | 0x1 => some (.paddu l d a b m g t)
  | 0x2 => some (.psubs l d a b m g t)
  | 0x3 => some (.psubu l d a b m g t)
  | 0x4 => some (.pmulr l d a b m g t)
  | 0x5 => some (.pmin l d a b m g t)
  | 0x6 => some (.pmax l d a b m g t)
  | 0x7 => some (.pminu l d a b m g t)
  | 0x8 => some (.pmaxu l d a b m g t)
  | 0x9 => some (.psad l d a b m g t)
  | 0xA => some (.psel l d a b m g t)
  | 0xB => some (.pand l d a b m g t)
  | 0xC => some (.por l d a b m g t)
  | 0xD => some (.pxor l d a b m g t)
  | 0xE => ifZero (b == 0#5) (.pwacc l d a m g t)
  | _ => some (.pwmac l d a b m g t)

/-- Major 0x32 with OP 0b11, the mask form. -/
def decodePlyMask (l : Fin 384) (w : BitVec 32) : Option Instr :=
  let d := fieldD w
  let a := fieldA w
  let mb : BitVec 3 := w.extractLsb' 13 3
  let z := mb == 0#3
  if bitsOf w 2 7 ≠ 0 then none
  else match bitsOf w 9 4 with
    | 0 => some (.pmand l d a mb)
    | 1 => some (.pmor l d a mb)
    | 2 => some (.pmxor l d a mb)
    | 3 => some (.pmandn l d a mb)
    | 4 => ifZero z (.pgtomL l d a)
    | 5 => ifZero z (.pgtomH l d a)
    | 6 => ifZero z (.pmtogL l d a)
    | 7 => ifZero z (.pmtogH l d a)
    | _ => none

/-- Major 0x32, the memory form. -/
def decodePlyMem (l : Fin 384) (w : BitVec 32) : Option Instr :=
  let d := fieldD w
  let a := fieldA w
  let i : BitVec 7 := w.extractLsb' 9 7
  let m : BitVec 3 := w.extractLsb' 6 3
  let g : BitVec 2 := w.extractLsb' 4 2
  let t : BitVec 2 := w.extractLsb' 2 2
  match bitsOf w 0 2 with
  | 0 => some (.pld l d a i m g t)
  | 1 => some (.pst l d a i m g t)
  | 2 => ifZero (i == 0#7) (.pbcast l d a m g t)
  | _ => decodePlyMask l w

/-- Major 0x33, the unary form. -/
def decodePlyUnary (l : Fin 384) (w : BitVec 32) : Option Instr :=
  let d := fieldD w
  let a := fieldA w
  let x := fieldB w
  let m : BitVec 3 := w.extractLsb' 8 3
  let g : BitVec 2 := w.extractLsb' 6 2
  let t : BitVec 2 := w.extractLsb' 4 2
  let z := m == 0#3 && g == 0#2
  match bitsOf w 0 4 with
  | 0x0 => some (.pscaleUp l d a m g t x)
  | 0x1 => some (.pscaleDn l d a m g t x)
  | 0x2 => some (.pcmpEq l d a x m g t)
  | 0x3 => some (.pcmpNe l d a x m g t)
  | 0x4 => some (.pcmpLt l d a x m g t)
  | 0x5 => some (.pcmpLe l d a x m g t)
  | 0x6 => some (.pcmpLtu l d a x m g t)
  | 0x7 => some (.pcmpLeu l d a x m g t)
  | 0x8 => some (.pa2b l d a x m g t)
  | 0x9 => some (.pb2a l d a x m g t)
  | 0xA => some (.pbcd2b l d a x m g t)
  | 0xB => some (.pb2bcd l d a x m g t)
  | 0xC => some (.pluhn l d a x m g t)
  | 0xD => ifZero z (.pins l d a x t)
  | 0xE => ifZero z (.pext l d a x t)
  | _ => none

/-! ### Queue instructions (03 R83, R110) -/

/-- Major 0x38, the data form. -/
def decodeQueue (l : Fin 384) (w : BitVec 32) : Option Instr :=
  let d := fieldD w
  let a := fieldA w
  let b := fieldB w
  let slot : BitVec 3 := w.extractLsb' 5 3
  if bitsOf w 0 5 ≠ 0 then none
  else match bitsOf w 8 3 with
    | 0 => ifZero (slot == 0#3) (.qpost l d a b)
    | 1 => ifZero (b == 0#5) (.qpostl l d a slot)
    | 2 => some (.qread l d a b slot)
    | 3 => some (.qtry l d a b slot)
    | 4 => some (.qwait l d a b slot)
    | _ => none

/-- Major 0x39, the control form. -/
def decodeQctl (l : Fin 384) (w : BitVec 32) : Option Instr :=
  let d := fieldD w
  let a := fieldA w
  let b := fieldB w
  let z := b == 0#5
  if bitsOf w 0 7 ≠ 0 then none
  else match bitsOf w 7 4 with
    | 0x0 => ifZero z (.qctlQuery l d a b)
    | 0x1 => some (.qctlSetup l d a b)
    | 0x2 => ifZero z (.qctlEnable l d a b)
    | 0x3 => ifZero z (.qctlDisable l d a b)
    | 0x4 => ifZero z (.qctlFlush l d a b)
    | 0x5 => some (.qctlLimits l d a b)
    | 0x6 => some (.qctlRights l d a b)
    | 0x7 => ifZero z (.qctlRevive l d a b)
    | 0x8 => some (.qctlGset l d a b)
    | _ => none

/-! ### System (07 R240) -/

/-- Sub-operation 0x2: translations. -/
def decodeTlbi (l : Fin 384) (w : BitVec 32) : Option Instr :=
  let a := fieldA w
  let b : BitVec 5 := w.extractLsb' 7 5
  let s := w.getLsbD 6
  if fieldD w ≠ 0#5 ∨ bitsOf w 2 4 ≠ 0 then none
  else match bitsOf w 0 2 with
    | 0 => some (.tlbiVa l s a b)
    | 1 => some (.tlbiAsid l s a b)
    | 2 => some (.tlbiAll l s a b)
    | _ => some (.slbi l s a b)

/-- Sub-operations 0x3, 0x4 and 0x7, which X[3:0] selects. -/
def decodeSysOp (l : Fin 384) (w : BitVec 32) : Option Instr :=
  let a := fieldA w
  let b : BitVec 5 := w.extractLsb' 7 5
  let z := fieldD w == 0#5
  let x := bitsOf w 4 8 == 0
  match bitsOf w 12 4, bitsOf w 0 4 with
  | 0x3, 0 => ifZero (z && x) (.dcz l a)
  | 0x3, 1 => ifZero (z && x) (.dcc l a)
  | 0x3, 2 => ifZero (z && x) (.dcci l a)
  | 0x4, 0 => ifZero (z && x && a == 0#5) (.pflush l)
  | 0x4, 1 => ifZero (z && bitsOf w 4 3 == 0) (.pbar l a b)
  | 0x7, 0 => ifZero (z && x && a == 0#5) (.wcall l)
  | 0x7, 1 => ifZero (z && x && a == 0#5) (.wret l)
  | 0x7, 2 => ifZero (z && x && a == 0#5) (.eret l)
  | 0x7, 3 => ifZero (z && x && a == 0#5) (.waiti l)
  | _, _ => none

/-- Major 0x3E: SUB and X. -/
def decodeSys (l : Fin 384) (w : BitVec 32) : Option Instr :=
  let d := fieldD w
  let a := fieldA w
  let b : BitVec 5 := w.extractLsb' 7 5
  let x : BitVec 12 := w.extractLsb' 0 12
  let idx : BitVec 6 := w.extractLsb' 0 6
  let zd := d == 0#5
  let za := a == 0#5
  match bitsOf w 12 4 with
  | 0x0 => ifZero za (.mfs l d x)
  | 0x1 => ifZero zd (.mts l x a)
  | 0x2 => decodeTlbi l w
  | 0x5 => ifZero (zd && za) (.sys l x)
  | 0x6 => ifZero (zd && za) (.brk l x)
  | 0x8 => ifZero (zd && !w.getLsbD 6) (.stlbw l a b idx)
  | 0x9 => ifZero (za && b == 0#5) (.stlbr l d idx (w.getLsbD 6))
  | 0xA =>
    let all := w.getLsbD 0
    ifZero (zd && bitsOf w 1 11 == 0 && (!all || za)) (.stlbi l all a)
  | _ => decodeSysOp l w

/-! ### The major opcode map (07 R223) -/

/-- The instruction of core `l` that a word spells; none for a word that raises illegal instruction (07 R221). -/
def decodeWord (l : Fin 384) (w : BitVec 32) : Option Instr :=
  match bitsOf w 26 6 with
  | 0x00 => decodeInt l w
  | 0x01 => decodeMul l w
  | 0x20 => decodeFpArith l w
  | 0x21 => decodeFma l w
  | 0x22 => decodeFpCmp l w
  | 0x23 => decodeFpCvt l w
  | 0x28 => decodeAtomic l w
  | 0x29 => decodeAtomic l w
  | 0x2B => decodeBar l w
  | 0x30 => decodePlyVec l w
  | 0x31 => some (.pmuld l (fieldD w) (fieldA w) (fieldB w) (w.extractLsb' 8 3) (w.extractLsb' 6 2) (w.getLsbD 5) (w.extractLsb' 0 5))
  | 0x32 => decodePlyMem l w
  | 0x33 => decodePlyUnary l w
  | 0x38 => decodeQueue l w
  | 0x39 => decodeQctl l w
  | 0x3C => decodeCrypto l w
  | 0x3E => decodeSys l w
  | m => if m ≤ 0x0D then decodeImm l w else if m ≤ 0x16 then decodeMem l w else decodeJump l w

end Sys2Proof
end

