-- ==== Sys2Proof/Config.lean ====
section
/-! DEFINITION. What the part fixes, and the values the spec leaves open: opaque constants without a body, so that no
proof can see a value of one. -/
namespace Sys2Proof.Config

/-- The value of a field whose content the spec leaves open, drawn fresh at each use (log entry 6). -/
opaque freeValue : Nat → BitVec 64

/-- A choice the spec leaves to the device ("may", 00 R2), drawn fresh at each use (log entry 6). -/
opaque freeChoice : Nat → Bool

/-- The hash of a tagged table of the branch predictor, by table, branch address and the history it uses: its index in the
low 11 bits and its tag in the next 10 (06 R197 gives no function; log entry 12). -/
opaque predHash : Nat → BitVec 64 → BitVec 160 → BitVec 21

/-- What a word of configuration space reads as beyond the fields the spec fixes: for the PF (0), a VF (1) or a root port's
own header (2), by offset and by the value last written (log entry 47). -/
opaque cfgWord : Nat → Nat → BitVec 32 → BitVec 32

/-- RA_PCI_VID, the vendor number that 14 R443 names and gives no value (log entry 47). -/
opaque raPciVid : BitVec 16

/-- The orientation strap of a Borsil site, 01 R24. -/
def strap (site : Nat) : Nat :=
  match site with
  | 0 | 1 => 0b001
  | 2 | 3 => 0b101
  | 4 | 5 => 0b000
  | 6 | 7 => 0b100
  | 8 | 9 => 0b011
  | 10 | 11 => 0b111
  | 12 | 13 => 0b010
  | 14 | 15 => 0b110
  | _ => 0

end Sys2Proof.Config
end

