-- ==== Sys2Proof/Machine/Bits.lean ====
section
/-! DEFINITION. Bit fields, byte order and canonical sparse maps: the helpers every unit uses. Fields are written
[hi:lo] as in 00 R4; multi-byte fields are little-endian (00 R5). -/
namespace Sys2Proof.Machine

/-- Bits [hi:lo] of a number. -/
def bitsN (x hi lo : Nat) : Nat := (x >>> lo) % 2 ^ (hi + 1 - lo)

/-- Bits [hi:lo] of a bit vector, as a number. -/
def field {w : Nat} (x : BitVec w) (hi lo : Nat) : Nat := bitsN x.toNat hi lo

/-- One bit of a bit vector. -/
def bit {w : Nat} (x : BitVec w) (i : Nat) : Bool := x.getLsbD i

/-- `x` with bits [hi:lo] replaced by the low bits of `v`. -/
def putField {w : Nat} (x : BitVec w) (hi lo v : Nat) : BitVec w :=
  let m : BitVec w := BitVec.ofNat w (2 ^ (hi + 1 - lo) - 1) <<< lo
  (x &&& ~~~m) ||| ((BitVec.ofNat w v <<< lo) &&& m)

/-- A Bool as a number. -/
def b2n (b : Bool) : Nat := if b then 1 else 0

/-- A Bool as a 64-bit register value. -/
def b2w (b : Bool) : Word := if b then 1#64 else 0#64

/-- The low `n` bits of `x`, sign-extended to a word. -/
def sextFrom (n : Nat) (x : Word) : Word := (BitVec.ofNat n x.toNat).signExtend 64

/-- The low `n` bits of `x`, zero-extended. -/
def zextFrom (n : Nat) (x : Word) : Word := BitVec.ofNat 64 (x.toNat % 2 ^ n)

/-- A two's complement value that does not fit is clamped to the bounds (used where a rule saturates). -/
def satInt (lo hi v : Int) : Int := if v < lo then lo else if hi < v then hi else v

/-- The `n` little-endian bytes of a number (00 R5). -/
def leBytes : Nat → Nat → List Byte
  | 0, _ => []
  | n + 1, v => BitVec.ofNat 8 (v % 256) :: leBytes n (v / 256)

/-- The number that little-endian bytes hold (00 R5). -/
def ofLe : List Byte → Nat
  | [] => 0
  | b :: bs => b.toNat + 256 * ofLe bs

/-- `n` bytes of `bs` from offset `o`; bytes past the end read 0. -/
def bytesAt (bs : List Byte) (o n : Nat) : List Byte :=
  (List.range n).map fun i => bs.getD (o + i) 0#8

/-- The little-endian number of `n` bytes at offset `o`. -/
def leAt (bs : List Byte) (o n : Nat) : Nat := ofLe (bytesAt bs o n)

/-- The saturating increment of a 32-bit counter (00 R19). -/
def satInc (x : Reg32) : Reg32 := if x = 0xFFFFFFFF#32 then x else x + 1#32

/-- The saturating sum of a 32-bit counter and a number. -/
def satAdd (x : Reg32) (n : Nat) : Reg32 := BitVec.ofNat 32 (min 0xFFFFFFFF (x.toNat + n))

/-! ### Sparse maps

A sparse map is a list of (key, value) pairs, keys strictly rising, no value equal to the default that an unlisted
key reads as; so equal maps are equal lists. -/

/-- The value of key `k`; `d` where the map lists none. -/
def mget {α : Type} (d : α) : List (Nat × α) → Nat → α
  | [], _ => d
  | (k', v) :: t, k => if k' = k then v else mget d t k

/-- The map without key `k`. -/
def merase {α : Type} : List (Nat × α) → Nat → List (Nat × α)
  | [], _ => []
  | (k', v) :: t, k => if k' = k then merase t k else (k', v) :: merase t k

/-- The map with (k, v) put before the first greater key. -/
def minsert {α : Type} (k : Nat) (v : α) : List (Nat × α) → List (Nat × α)
  | [] => [(k, v)]
  | (k', v') :: t => if k < k' then (k, v) :: (k', v') :: t else (k', v') :: minsert k v t

/-- The map with key `k` at `v`; writing the default removes the key. -/
def mset {α : Type} [DecidableEq α] (d : α) (m : List (Nat × α)) (k : Nat) (v : α) : List (Nat × α) :=
  if v = d then merase m k else minsert k v (merase m k)

/-- The map with key `k` changed by `f`. -/
def mupd {α : Type} [DecidableEq α] (d : α) (m : List (Nat × α)) (k : Nat) (f : α → α) : List (Nat × α) :=
  mset d m k (f (mget d m k))

/-- The canonical form of a sparse map: keys strictly rising, no listed default. -/
def mwf {α : Type} [DecidableEq α] (d : α) : List (Nat × α) → Bool
  | [] => true
  | [(_, v)] => !(decide (v = d))
  | (k, v) :: (k', v') :: t => decide (k < k') && !(decide (v = d)) && mwf d ((k', v') :: t)

/-- The elements of a list, the one at place `i` replaced. -/
def listSet {α : Type} : List α → Nat → α → List α
  | [], _, _ => []
  | _ :: t, 0, v => v :: t
  | h :: t, n + 1, v => h :: listSet t n v

end Sys2Proof.Machine
end

