-- ==== Sys2Proof/Machine/RegTable.lean ====
section
/-! DEFINITION. The control-register tables of every chapter of spec/, row by row: name, physical address (R6), how
the register repeats, who may read it, whether cores may write its rw and wo fields, and its fields with access code
(R12) and Reset value (R11). A dash in a Reset column stands as 0 here (DESIGN CHOICE, log entry 1). -/
namespace Sys2Proof.Machine

/-- The access codes of R12; res0 bits belong to no field. -/
inductive Acc where
  | rw | ro | w1c | w1s | wo | rc | rwL
  deriving DecidableEq, Repr

/-- Which requesters a register answers with its value; the others read 0 and clear nothing. -/
inductive Vis where
  /-- every core -/
  | all
  /-- the group of one skein, R122; its first index is the skein -/
  | skein
  /-- cores whose skein owns or pools the channel, R429 -/
  | mc
  /-- cores whose skein owns the bundle, R467 -/
  | pce
  /-- cores whose skein holds the Hank port, R498 -/
  | port
  /-- cores at K or SK of the skein that owns the root port, R308 -/
  | iotu
  /-- cores at K or SK of the skein of the route entry, R268 -/
  | route
  /-- cores at K or SK of the skein, R268 -/
  | skeinK
  /-- one register per LCN, of its skein, R551 -/
  | lcn
  /-- one register per power domain, R551 -/
  | dom
  /-- one temperature per site, R551 -/
  | temp
  deriving DecidableEq, Repr

/-- One field of a register: its bits, its access code and its Reset value. -/
structure FieldDef where
  hi : Nat
  lo : Nat
  acc : Acc
  reset : Nat
  deriving DecidableEq, Repr

/-- Whether a register is half of a pair (R10); the _HI of a pair lies 4 bytes above its _LO. -/
inductive Half where
  | whole | lo | hi
  deriving DecidableEq, Repr

/-- One row: a register or a family of registers that repeats over (count, stride) pairs. -/
structure RegDef where
  name : String
  base : Nat
  dims : List (Nat × Nat)
  vis : Vis
  coreW : Bool
  half : Half
  fields : List FieldDef
  deriving DecidableEq, Repr

/-- IMG_PART, 02 R71. -/
def Reg.IMG_PART : Nat := 0xF001000100000
/-- IMG_VERSION, 02 R71. -/
def Reg.IMG_VERSION : Nat := 0xF001000100004
/-- IMG_DELTA_SEQ, 02 R71. -/
def Reg.IMG_DELTA_SEQ : Nat := 0xF001000100008
/-- IMG_STATUS, 02 R71. -/
def Reg.IMG_STATUS : Nat := 0xF00100010000C
/-- IMG_COPY_A, 02 R71. -/
def Reg.IMG_COPY_A : Nat := 0xF001000100010
/-- IMG_COPY_B, 02 R71. -/
def Reg.IMG_COPY_B : Nat := 0xF001000100014
/-- IMG_HASH_LO, 02 R71. -/
def Reg.IMG_HASH_LO : Nat := 0xF001000100018
/-- IMG_HASH_HI, 02 R71. -/
def Reg.IMG_HASH_HI : Nat := 0xF00100010001C
/-- IMG_CONFLICT_COUNT, 02 R71. -/
def Reg.IMG_CONFLICT_COUNT : Nat := 0xF001000100020
/-- IMG_CONFLICT_LAST_LO, 02 R71. -/
def Reg.IMG_CONFLICT_LAST_LO : Nat := 0xF001000100024
/-- IMG_CONFLICT_LAST_HI, 02 R71. -/
def Reg.IMG_CONFLICT_LAST_HI : Nat := 0xF001000100028
/-- IMG_STATE_REJECT, 02 R71. -/
def Reg.IMG_STATE_REJECT : Nat := 0xF00100010002C
/-- BQ_ID, 03 R123. -/
def Reg.BQ_ID : Nat := 0xF001002000000
/-- BQ_STATUS, 03 R123. -/
def Reg.BQ_STATUS : Nat := 0xF001002000004
/-- BQ_PIPE_MAP, 03 R123. -/
def Reg.BQ_PIPE_MAP : Nat := 0xF001002000008
/-- BQ_CTX_OCC, 03 R123. -/
def Reg.BQ_CTX_OCC : Nat := 0xF00100200000C
/-- BQ_STATE_REJECT, 03 R123. -/
def Reg.BQ_STATE_REJECT : Nat := 0xF001002000010
/-- BQ_FLUSH_COUNT, 03 R123. -/
def Reg.BQ_FLUSH_COUNT : Nat := 0xF001002000014
/-- BQ_PARTIAL_DISCARD, 03 R123. -/
def Reg.BQ_PARTIAL_DISCARD : Nat := 0xF001002000018
/-- BQ_SK_QFIRST, 03 R123. -/
def Reg.BQ_SK_QFIRST (i : Nat) : Nat := 0xF001002001000 + i * 0x20
/-- BQ_SK_QCOUNT, 03 R123. -/
def Reg.BQ_SK_QCOUNT (i : Nat) : Nat := 0xF001002001004 + i * 0x20
/-- BQ_SK_SHARE, 03 R123. -/
def Reg.BQ_SK_SHARE (i : Nat) : Nat := 0xF001002001008 + i * 0x20
/-- BQ_SK_QFAULT, 03 R123. -/
def Reg.BQ_SK_QFAULT (i : Nat) : Nat := 0xF00100200100C + i * 0x20
/-- BQ_SK_POISON, 03 R123. -/
def Reg.BQ_SK_POISON (i : Nat) : Nat := 0xF001002001010 + i * 0x20
/-- BQ_SK_LASTFAULT, 03 R123. -/
def Reg.BQ_SK_LASTFAULT (i : Nat) : Nat := 0xF001002001014 + i * 0x20
/-- BQ_SK_SLOTWAIT, 03 R123. -/
def Reg.BQ_SK_SLOTWAIT (i : Nat) : Nat := 0xF001002001018 + i * 0x20
/-- BQ_AT_DRAIN_LOST, 04 R151. -/
def Reg.BQ_AT_DRAIN_LOST (i : Nat) : Nat := 0xF001002100000 + i * 0x10
/-- BQ_AT_DMA_FULL, 04 R151. -/
def Reg.BQ_AT_DMA_FULL (i : Nat) : Nat := 0xF001002100004 + i * 0x10
/-- BQ_AT_HANK_REFUSED, 04 R151. -/
def Reg.BQ_AT_HANK_REFUSED (i : Nat) : Nat := 0xF001002100008 + i * 0x10
/-- BQ_AT_CREDIT_OCC, 04 R151. -/
def Reg.BQ_AT_CREDIT_OCC : Nat := 0xF001002100100
/-- PLY_ID, 05 R189. -/
def Reg.PLY_ID : Nat := 0xF001003000000
/-- PLY_SK_CHECK, 05 R189. -/
def Reg.PLY_SK_CHECK (i : Nat) : Nat := 0xF001003000100 + i * 0x4
/-- SEC_MARK, 08 R253. -/
def Reg.SEC_MARK : Nat := 0xF001004200000
/-- SEC_SWDOG_LAST, 08 R253. -/
def Reg.SEC_SWDOG_LAST : Nat := 0xF001004200004
/-- IRQ_ROUTE, 08 R268. -/
def Reg.IRQ_ROUTE (i : Nat) : Nat := 0xF001004000000 + i * 0x4
/-- IRQ_SK_DROP, 08 R268. -/
def Reg.IRQ_SK_DROP (i : Nat) : Nat := 0xF001004004000 + i * 0x4
/-- IRQ_DOORBELL, 08 R268. -/
def Reg.IRQ_DOORBELL : Nat := 0xF001004008000
/-- TB_COUNT_LO, 08 R271. -/
def Reg.TB_COUNT_LO : Nat := 0xF001004100000
/-- TB_COUNT_HI, 08 R271. -/
def Reg.TB_COUNT_HI : Nat := 0xF001004100004
/-- TB_STATUS, 08 R271. -/
def Reg.TB_STATUS : Nat := 0xF001004100008
/-- TB_CAP_LO, 20 R609. -/
def Reg.TB_CAP_LO (i : Nat) : Nat := 0xF001004100100 + i * 0x10
/-- TB_CAP_HI, 20 R609. -/
def Reg.TB_CAP_HI (i : Nat) : Nat := 0xF001004100104 + i * 0x10
/-- TB_CAP_COUNT, 20 R609. -/
def Reg.TB_CAP_COUNT (i : Nat) : Nat := 0xF001004100108 + i * 0x10
/-- MMU_IO_CFG, 09 R310. -/
def Reg.MMU_IO_CFG (i : Nat) : Nat := 0xF001005000000 + i * 0x100
/-- MMU_IO_STB_LO, 09 R310. -/
def Reg.MMU_IO_STB_LO (i : Nat) : Nat := 0xF001005000004 + i * 0x100
/-- MMU_IO_STB_HI, 09 R310. -/
def Reg.MMU_IO_STB_HI (i : Nat) : Nat := 0xF001005000008 + i * 0x100
/-- MMU_IO_INV_CMD, 09 R310. -/
def Reg.MMU_IO_INV_CMD (i : Nat) : Nat := 0xF00100500000C + i * 0x100
/-- MMU_IO_INV_VA_LO, 09 R310. -/
def Reg.MMU_IO_INV_VA_LO (i : Nat) : Nat := 0xF001005000010 + i * 0x100
/-- MMU_IO_INV_VA_HI, 09 R310. -/
def Reg.MMU_IO_INV_VA_HI (i : Nat) : Nat := 0xF001005000014 + i * 0x100
/-- MMU_IO_INV_STATUS, 09 R310. -/
def Reg.MMU_IO_INV_STATUS (i : Nat) : Nat := 0xF001005000018 + i * 0x100
/-- MMU_IO_FAULT_INFO, 09 R310. -/
def Reg.MMU_IO_FAULT_INFO (i : Nat) : Nat := 0xF00100500001C + i * 0x100
/-- MMU_IO_FAULT_ADDR_LO, 09 R310. -/
def Reg.MMU_IO_FAULT_ADDR_LO (i : Nat) : Nat := 0xF001005000020 + i * 0x100
/-- MMU_IO_FAULT_ADDR_HI, 09 R310. -/
def Reg.MMU_IO_FAULT_ADDR_HI (i : Nat) : Nat := 0xF001005000024 + i * 0x100
/-- MMU_IO_STATE_REJECT, 09 R310. -/
def Reg.MMU_IO_STATE_REJECT (i : Nat) : Nat := 0xF001005000028 + i * 0x100
/-- CCH_L3_ID, 11 R370. -/
def Reg.CCH_L3_ID (i : Nat) : Nat := 0xF000006000000 + i * 0x100000000
/-- CCH_L3_WAYS, 11 R370. -/
def Reg.CCH_L3_WAYS (i : Nat) : Nat := 0xF000006000004 + i * 0x100000000
/-- CCH_L3_SPARE, 11 R370. -/
def Reg.CCH_L3_SPARE (i : Nat) : Nat := 0xF000006000008 + i * 0x100000000
/-- CCH_L3_PD_CMD, 11 R370. -/
def Reg.CCH_L3_PD_CMD (i : Nat) : Nat := 0xF00000600000C + i * 0x100000000
/-- CCH_L3_PD_STATUS, 11 R370. -/
def Reg.CCH_L3_PD_STATUS (i : Nat) : Nat := 0xF000006000010 + i * 0x100000000
/-- CCH_L3_STATE_REJECT, 11 R370. -/
def Reg.CCH_L3_STATE_REJECT (i : Nat) : Nat := 0xF000006000014 + i * 0x100000000
/-- CCH_L3_LOST, 11 R370. -/
def Reg.CCH_L3_LOST (i : Nat) : Nat := 0xF000006000018 + i * 0x100000000
/-- CCH_HUB_ID, 11 R371. -/
def Reg.CCH_HUB_ID : Nat := 0xF001006000000
/-- CCH_HC_WAYS, 11 R371. -/
def Reg.CCH_HC_WAYS : Nat := 0xF001006000004
/-- CCH_HC_PD_CMD, 11 R371. -/
def Reg.CCH_HC_PD_CMD : Nat := 0xF001006000008
/-- CCH_HC_PD_STATUS, 11 R371. -/
def Reg.CCH_HC_PD_STATUS : Nat := 0xF00100600000C
/-- CCH_HUB_STATE_REJECT, 11 R371. -/
def Reg.CCH_HUB_STATE_REJECT : Nat := 0xF001006000010
/-- CCH_DEAD, 11 R371. -/
def Reg.CCH_DEAD : Nat := 0xF001006000014
/-- CCH_SWEEP, 11 R371. -/
def Reg.CCH_SWEEP : Nat := 0xF001006000018
/-- CCH_DIR_REBUILD, 11 R371. -/
def Reg.CCH_DIR_REBUILD : Nat := 0xF00100600001C
/-- CCH_POISONED, 11 R371. -/
def Reg.CCH_POISONED : Nat := 0xF001006000020
/-- CCH_SK_POLICY, 11 R371. -/
def Reg.CCH_SK_POLICY (i : Nat) : Nat := 0xF001006000100 + i * 0x10
/-- CCH_SK_POISONED, 11 R371. -/
def Reg.CCH_SK_POISONED (i : Nat) : Nat := 0xF001006000104 + i * 0x10
/-- CCH_SK_FAR, 11 R371. -/
def Reg.CCH_SK_FAR (i : Nat) : Nat := 0xF001006000108 + i * 0x10
/-- MESH_ID, 12 R399. -/
def Reg.MESH_ID (i : Nat) : Nat := 0xF000007000000 + i * 0x100000000
/-- MESH_HUB_ID, 12 R399. -/
def Reg.MESH_HUB_ID : Nat := 0xF001007000000
/-- MESH_ORIENT, 12 R399. -/
def Reg.MESH_ORIENT (i : Nat) : Nat := 0xF000007000004 + i * 0x100000000
/-- MESH_HUB_ORIENT, 12 R399. -/
def Reg.MESH_HUB_ORIENT : Nat := 0xF001007000004
/-- MESH_FENCE_CFG, 12 R399. -/
def Reg.MESH_FENCE_CFG (i : Nat) : Nat := 0xF000007000008 + i * 0x100000000
/-- MESH_HUB_FENCE_CFG, 12 R399. -/
def Reg.MESH_HUB_FENCE_CFG : Nat := 0xF001007000008
/-- MESH_ISO, 12 R399. -/
def Reg.MESH_ISO (i : Nat) : Nat := 0xF00000700000C + i * 0x100000000
/-- MESH_HUB_ISO, 12 R399. -/
def Reg.MESH_HUB_ISO : Nat := 0xF00100700000C
/-- MESH_DEAD_COUNT, 12 R399. -/
def Reg.MESH_DEAD_COUNT (i : Nat) : Nat := 0xF000007000010 + i * 0x100000000
/-- MESH_HUB_DEAD_COUNT, 12 R399. -/
def Reg.MESH_HUB_DEAD_COUNT : Nat := 0xF001007000010
/-- MESH_DOFF_COUNT, 12 R399. -/
def Reg.MESH_DOFF_COUNT (i : Nat) : Nat := 0xF000007000014 + i * 0x100000000
/-- MESH_HUB_DOFF_COUNT, 12 R399. -/
def Reg.MESH_HUB_DOFF_COUNT : Nat := 0xF001007000014
/-- MESH_SK_SHARE_A, 12 R399. -/
def Reg.MESH_SK_SHARE_A (i : Nat) (j : Nat) : Nat := 0xF000007000100 + i * 0x100000000 + j * 0x10
/-- MESH_HUB_SK_SHARE_A, 12 R399. -/
def Reg.MESH_HUB_SK_SHARE_A (i : Nat) : Nat := 0xF001007000100 + i * 0x10
/-- MESH_SK_SHARE_B, 12 R399. -/
def Reg.MESH_SK_SHARE_B (i : Nat) (j : Nat) : Nat := 0xF000007000104 + i * 0x100000000 + j * 0x10
/-- MESH_HUB_SK_SHARE_B, 12 R399. -/
def Reg.MESH_HUB_SK_SHARE_B (i : Nat) : Nat := 0xF001007000104 + i * 0x10
/-- MESH_SK_MAXWAIT, 12 R399. -/
def Reg.MESH_SK_MAXWAIT (i : Nat) (j : Nat) : Nat := 0xF000007000108 + i * 0x100000000 + j * 0x10
/-- MESH_HUB_SK_MAXWAIT, 12 R399. -/
def Reg.MESH_HUB_SK_MAXWAIT (i : Nat) : Nat := 0xF001007000108 + i * 0x10
/-- D2D_LINK, 12 R400. -/
def Reg.D2D_LINK (i : Nat) : Nat := 0xF000007100000 + i * 0x100000000
/-- D2D_HUB_LINK, 12 R400. -/
def Reg.D2D_HUB_LINK (i : Nat) : Nat := 0xF001007100000 + i * 0x20
/-- D2D_REPAIR, 12 R400. -/
def Reg.D2D_REPAIR (i : Nat) : Nat := 0xF000007100004 + i * 0x100000000
/-- D2D_HUB_REPAIR, 12 R400. -/
def Reg.D2D_HUB_REPAIR (i : Nat) : Nat := 0xF001007100004 + i * 0x20
/-- D2D_CORRECTED, 12 R400. -/
def Reg.D2D_CORRECTED (i : Nat) : Nat := 0xF000007100008 + i * 0x100000000
/-- D2D_HUB_CORRECTED, 12 R400. -/
def Reg.D2D_HUB_CORRECTED (i : Nat) : Nat := 0xF001007100008 + i * 0x20
/-- D2D_LAST_LANE, 12 R400. -/
def Reg.D2D_LAST_LANE (i : Nat) : Nat := 0xF00000710000C + i * 0x100000000
/-- D2D_HUB_LAST_LANE, 12 R400. -/
def Reg.D2D_HUB_LAST_LANE (i : Nat) : Nat := 0xF00100710000C + i * 0x20
/-- D2D_GST_CMD, 12 R400. -/
def Reg.D2D_GST_CMD (i : Nat) : Nat := 0xF001007100400 + i * 0x40
/-- D2D_GST_STATUS, 12 R400. -/
def Reg.D2D_GST_STATUS (i : Nat) : Nat := 0xF001007100404 + i * 0x40
/-- D2D_GST_ID_LO, 12 R400. -/
def Reg.D2D_GST_ID_LO (i : Nat) : Nat := 0xF001007100408 + i * 0x40
/-- D2D_GST_ID_HI, 12 R400. -/
def Reg.D2D_GST_ID_HI (i : Nat) : Nat := 0xF00100710040C + i * 0x40
/-- D2D_GST_STATE_REJECT, 12 R400. -/
def Reg.D2D_GST_STATE_REJECT (i : Nat) : Nat := 0xF001007100410 + i * 0x40
/-- MC_ID, 13 R430. -/
def Reg.MC_ID (i : Nat) : Nat := 0xF001008000000 + i * 0x100000
/-- MC_CFG, 13 R430. -/
def Reg.MC_CFG (i : Nat) : Nat := 0xF001008000004 + i * 0x100000
/-- MC_STATUS, 13 R430. -/
def Reg.MC_STATUS (i : Nat) : Nat := 0xF001008000008 + i * 0x100000
/-- MC_CMD, 13 R430. -/
def Reg.MC_CMD (i : Nat) : Nat := 0xF00100800000C + i * 0x100000
/-- MC_SCHED, 13 R430. -/
def Reg.MC_SCHED (i : Nat) : Nat := 0xF001008000010 + i * 0x100000
/-- MC_AGE, 13 R430. -/
def Reg.MC_AGE (i : Nat) : Nat := 0xF001008000014 + i * 0x100000
/-- MC_NREF, 13 R430. -/
def Reg.MC_NREF (i : Nat) : Nat := 0xF001008000018 + i * 0x100000
/-- MC_NREF_COUNT, 13 R430. -/
def Reg.MC_NREF_COUNT (i : Nat) : Nat := 0xF00100800001C + i * 0x100000
/-- MC_LP_CFG, 13 R430. -/
def Reg.MC_LP_CFG (i : Nat) : Nat := 0xF001008000020 + i * 0x100000
/-- MC_SCRUB, 13 R430. -/
def Reg.MC_SCRUB (i : Nat) : Nat := 0xF001008000024 + i * 0x100000
/-- MC_ECC_CE, 13 R430. -/
def Reg.MC_ECC_CE (i : Nat) : Nat := 0xF001008000028 + i * 0x100000
/-- MC_ECC_UE, 13 R430. -/
def Reg.MC_ECC_UE (i : Nat) : Nat := 0xF00100800002C + i * 0x100000
/-- MC_ECC_LAST_LO, 13 R430. -/
def Reg.MC_ECC_LAST_LO (i : Nat) : Nat := 0xF001008000030 + i * 0x100000
/-- MC_ECC_LAST_HI, 13 R430. -/
def Reg.MC_ECC_LAST_HI (i : Nat) : Nat := 0xF001008000034 + i * 0x100000
/-- MC_MARK, 13 R430. -/
def Reg.MC_MARK (i : Nat) : Nat := 0xF001008000038 + i * 0x100000
/-- MC_PPR, 13 R430. -/
def Reg.MC_PPR (i : Nat) : Nat := 0xF00100800003C + i * 0x100000
/-- MC_TRAIN_STATUS, 13 R430. -/
def Reg.MC_TRAIN_STATUS (i : Nat) : Nat := 0xF001008000040 + i * 0x100000
/-- MC_STATE_REJECT, 13 R430. -/
def Reg.MC_STATE_REJECT (i : Nat) : Nat := 0xF001008000044 + i * 0x100000
/-- MC_MAP_RANGE, 13 R431. -/
def Reg.MC_MAP_RANGE (i : Nat) : Nat := 0xF001009000000 + i * 0x10
/-- MC_MAP_SET, 13 R431. -/
def Reg.MC_MAP_SET (i : Nat) : Nat := 0xF001009000004 + i * 0x10
/-- MC_MAP_BASE, 13 R431. -/
def Reg.MC_MAP_BASE (i : Nat) : Nat := 0xF001009000008 + i * 0x10
/-- MC_DQ_DLY, 13 R430. -/
def Reg.MC_DQ_DLY (i : Nat) (j : Nat) : Nat := 0xF001008001000 + i * 0x100000 + j * 0x4
/-- MC_DQS_DLY, 13 R430. -/
def Reg.MC_DQS_DLY (i : Nat) (j : Nat) : Nat := 0xF001008001800 + i * 0x100000 + j * 0x4
/-- MC_CA_DLY, 13 R430. -/
def Reg.MC_CA_DLY (i : Nat) (j : Nat) : Nat := 0xF001008001A00 + i * 0x100000 + j * 0x4
/-- MC_VREF, 13 R430. -/
def Reg.MC_VREF (i : Nat) (j : Nat) : Nat := 0xF001008001C00 + i * 0x100000 + j * 0x4
/-- PCE_STATUS, 14 R468. -/
def Reg.PCE_STATUS (i : Nat) : Nat := 0xF00100A000000 + i * 0x100000
/-- PCE_CMD, 14 R468. -/
def Reg.PCE_CMD (i : Nat) : Nat := 0xF00100A000004 + i * 0x100000
/-- PCE_STATE_REJECT, 14 R468. -/
def Reg.PCE_STATE_REJECT (i : Nat) : Nat := 0xF00100A000008 + i * 0x100000
/-- PCE_FLR_COUNT, 14 R468. -/
def Reg.PCE_FLR_COUNT (i : Nat) : Nat := 0xF00100A00000C + i * 0x100000
/-- PCE_DOWN_COUNT, 14 R468. -/
def Reg.PCE_DOWN_COUNT (i : Nat) : Nat := 0xF00100A000010 + i * 0x100000
/-- PCE_RP_ROUTE, 14 R468. -/
def Reg.PCE_RP_ROUTE (i : Nat) : Nat := 0xF00100A000014 + i * 0x100000
/-- HNK_ID, 15 R500. -/
def Reg.HNK_ID : Nat := 0xF00100B800000
/-- HNK_STATUS, 15 R500. -/
def Reg.HNK_STATUS : Nat := 0xF00100B800004
/-- HNK_INCARN, 15 R500. -/
def Reg.HNK_INCARN : Nat := 0xF00100B800008
/-- HNK_TIMERS, 15 R500. -/
def Reg.HNK_TIMERS : Nat := 0xF00100B80000C
/-- HNK_HOLD, 15 R500. -/
def Reg.HNK_HOLD : Nat := 0xF00100B800010
/-- HNK_SK_CFG, 15 R500. -/
def Reg.HNK_SK_CFG (i : Nat) : Nat := 0xF00100B800100 + i * 0x20
/-- HNK_SK_REFUSEQ, 15 R500. -/
def Reg.HNK_SK_REFUSEQ (i : Nat) : Nat := 0xF00100B800104 + i * 0x20
/-- HNK_SK_REFUSED, 15 R500. -/
def Reg.HNK_SK_REFUSED (i : Nat) : Nat := 0xF00100B800108 + i * 0x20
/-- HNK_SK_REFUSE_LOST, 15 R500. -/
def Reg.HNK_SK_REFUSE_LOST (i : Nat) : Nat := 0xF00100B80010C + i * 0x20
/-- HNK_SK_DEAD, 15 R500. -/
def Reg.HNK_SK_DEAD (i : Nat) : Nat := 0xF00100B800110 + i * 0x20
/-- HNK_PEER, 15 R500. -/
def Reg.HNK_PEER (i : Nat) : Nat := 0xF00100B801000 + i * 0x4
/-- HNK_PORT_STATUS, 15 R500. -/
def Reg.HNK_PORT_STATUS (i : Nat) : Nat := 0xF00100B000000 + i * 0x100000
/-- HNK_PORT_CMD, 15 R500. -/
def Reg.HNK_PORT_CMD (i : Nat) : Nat := 0xF00100B000004 + i * 0x100000
/-- HNK_PORT_MAC_LO, 15 R500. -/
def Reg.HNK_PORT_MAC_LO (i : Nat) : Nat := 0xF00100B000008 + i * 0x100000
/-- HNK_PORT_MAC_HI, 15 R500. -/
def Reg.HNK_PORT_MAC_HI (i : Nat) : Nat := 0xF00100B00000C + i * 0x100000
/-- HNK_PORT_FEC_CORR, 15 R500. -/
def Reg.HNK_PORT_FEC_CORR (i : Nat) : Nat := 0xF00100B000010 + i * 0x100000
/-- HNK_PORT_FEC_UNCORR, 15 R500. -/
def Reg.HNK_PORT_FEC_UNCORR (i : Nat) : Nat := 0xF00100B000014 + i * 0x100000
/-- HNK_PORT_RX_DROP, 15 R500. -/
def Reg.HNK_PORT_RX_DROP (i : Nat) : Nat := 0xF00100B000018 + i * 0x100000
/-- HNK_PORT_RX_DUP, 15 R500. -/
def Reg.HNK_PORT_RX_DUP (i : Nat) : Nat := 0xF00100B00001C + i * 0x100000
/-- HNK_PORT_RETX, 15 R500. -/
def Reg.HNK_PORT_RETX (i : Nat) : Nat := 0xF00100B000020 + i * 0x100000
/-- HNK_PORT_STATE_REJECT, 15 R500. -/
def Reg.HNK_PORT_STATE_REJECT (i : Nat) : Nat := 0xF00100B000024 + i * 0x100000
/-- HNK_PORT_DROP_LAST, 15 R500. -/
def Reg.HNK_PORT_DROP_LAST (i : Nat) : Nat := 0xF00100B000028 + i * 0x100000
/-- RL_ID, 16 R525. -/
def Reg.RL_ID : Nat := 0xF00100C000000
/-- RL_STATUS, 16 R525. -/
def Reg.RL_STATUS : Nat := 0xF00100C000004
/-- RL_SAFE_CAUSE, 16 R525. -/
def Reg.RL_SAFE_CAUSE : Nat := 0xF00100C000008
/-- RL_SAFE_TIME_LO, 16 R525. -/
def Reg.RL_SAFE_TIME_LO : Nat := 0xF00100C00000C
/-- RL_SAFE_TIME_HI, 16 R525. -/
def Reg.RL_SAFE_TIME_HI : Nat := 0xF00100C000010
/-- RL_STATE_REJECT, 16 R525. -/
def Reg.RL_STATE_REJECT : Nat := 0xF00100C000014
/-- RL_DIE_SPARE0, 16 R525. -/
def Reg.RL_DIE_SPARE0 : Nat := 0xF00100C000018
/-- RL_DIE_SPARE1, 16 R525. -/
def Reg.RL_DIE_SPARE1 : Nat := 0xF00100C00001C
/-- RL_GUARD0, 16 R525. -/
def Reg.RL_GUARD0 : Nat := 0xF00100C000020
/-- RL_GUARD1, 16 R525. -/
def Reg.RL_GUARD1 : Nat := 0xF00100C000024
/-- RL_GUARD_HUB, 16 R525. -/
def Reg.RL_GUARD_HUB : Nat := 0xF00100C000028
/-- RL_BUDGET_TOTAL, 16 R525. -/
def Reg.RL_BUDGET_TOTAL (i : Nat) : Nat := 0xF00100C000100 + i * 0x8
/-- RL_BUDGET_USED, 16 R525. -/
def Reg.RL_BUDGET_USED (i : Nat) : Nat := 0xF00100C000104 + i * 0x8
/-- RL_SK_LOG_HEAD, 16 R525. -/
def Reg.RL_SK_LOG_HEAD (i : Nat) : Nat := 0xF00100C000200 + i * 0x20
/-- RL_SK_LOG_TAIL, 16 R525. -/
def Reg.RL_SK_LOG_TAIL (i : Nat) : Nat := 0xF00100C000204 + i * 0x20
/-- RL_SK_LOG_LOST, 16 R525. -/
def Reg.RL_SK_LOG_LOST (i : Nat) : Nat := 0xF00100C000208 + i * 0x20
/-- RL_SK_REELS, 16 R525. -/
def Reg.RL_SK_REELS (i : Nat) : Nat := 0xF00100C00020C + i * 0x20
/-- RL_SK_NOTICE, 16 R525. -/
def Reg.RL_SK_NOTICE (i : Nat) : Nat := 0xF00100C000210 + i * 0x20
/-- PWR_ID, 17 R552. -/
def Reg.PWR_ID : Nat := 0xF00100D000000
/-- PWR_STATUS, 17 R552. -/
def Reg.PWR_STATUS : Nat := 0xF00100D000004
/-- PWR_REQ, 17 R552. -/
def Reg.PWR_REQ : Nat := 0xF00100D000008
/-- PWR_STATE_REJECT, 17 R552. -/
def Reg.PWR_STATE_REJECT : Nat := 0xF00100D00000C
/-- PWR_THERM0, 17 R552. -/
def Reg.PWR_THERM0 : Nat := 0xF00100D000010
/-- PWR_THERM1, 17 R552. -/
def Reg.PWR_THERM1 : Nat := 0xF00100D000014
/-- PWR_THERM_HC, 17 R552. -/
def Reg.PWR_THERM_HC : Nat := 0xF00100D000018
/-- PWR_TEMP, 17 R552. -/
def Reg.PWR_TEMP (i : Nat) : Nat := 0xF00100D000100 + i * 0x4
/-- PWR_RESULT, 17 R552. -/
def Reg.PWR_RESULT (i : Nat) : Nat := 0xF00100D001000 + i * 0x4
/-- PWR_DOM_STATE, 17 R552. -/
def Reg.PWR_DOM_STATE (i : Nat) : Nat := 0xF00100D004000 + i * 0x10
/-- PWR_DOM_REFUSED, 17 R552. -/
def Reg.PWR_DOM_REFUSED (i : Nat) : Nat := 0xF00100D004004 + i * 0x10
/-- PWR_DOM_ABORTED, 17 R552. -/
def Reg.PWR_DOM_ABORTED (i : Nat) : Nat := 0xF00100D004008 + i * 0x10
/-- PWR_DOM_LAST, 17 R552. -/
def Reg.PWR_DOM_LAST (i : Nat) : Nat := 0xF00100D00400C + i * 0x10
/-- DST_ID, 18 R584. -/
def Reg.DST_ID : Nat := 0xF00100E000000
/-- DST_STATUS, 18 R584. -/
def Reg.DST_STATUS : Nat := 0xF00100E000004
/-- DST_AUDIT_SEQ_LO, 18 R584. -/
def Reg.DST_AUDIT_SEQ_LO : Nat := 0xF00100E000008
/-- DST_AUDIT_SEQ_HI, 18 R584. -/
def Reg.DST_AUDIT_SEQ_HI : Nat := 0xF00100E00000C
/-- DST_STATE_REJECT, 18 R584. -/
def Reg.DST_STATE_REJECT : Nat := 0xF00100E000010
/-- DST_AUDIT_LOST, 18 R584. -/
def Reg.DST_AUDIT_LOST : Nat := 0xF00100E000014
/-- DST_EVENT_LOST, 18 R584. -/
def Reg.DST_EVENT_LOST : Nat := 0xF00100E000018
/-- DST_MBX_REQ, 18 R584. -/
def Reg.DST_MBX_REQ (i : Nat) (j : Nat) : Nat := 0xF00100E001000 + i * 0x400 + j * 0x4
/-- DST_MBX_RSP, 18 R584. -/
def Reg.DST_MBX_RSP (i : Nat) (j : Nat) : Nat := 0xF00100E001100 + i * 0x400 + j * 0x4
/-- DST_MBX_CTL, 18 R584. -/
def Reg.DST_MBX_CTL (i : Nat) : Nat := 0xF00100E001200 + i * 0x400
/-- DST_MBX_ROUTE, 18 R584. -/
def Reg.DST_MBX_ROUTE (i : Nat) : Nat := 0xF00100E001204 + i * 0x400
/-- PMU_SK_BQ_POST_LO, 19 R595. -/
def Reg.PMU_SK_BQ_POST_LO (i : Nat) : Nat := 0xF00100F001000 + i * 0x40
/-- PMU_SK_BQ_POST_HI, 19 R595. -/
def Reg.PMU_SK_BQ_POST_HI (i : Nat) : Nat := 0xF00100F001004 + i * 0x40
/-- PMU_SK_BQ_READ_LO, 19 R595. -/
def Reg.PMU_SK_BQ_READ_LO (i : Nat) : Nat := 0xF00100F001008 + i * 0x40
/-- PMU_SK_BQ_READ_HI, 19 R595. -/
def Reg.PMU_SK_BQ_READ_HI (i : Nat) : Nat := 0xF00100F00100C + i * 0x40
/-- PMU_SK_BQ_SLOT_LO, 19 R595. -/
def Reg.PMU_SK_BQ_SLOT_LO (i : Nat) : Nat := 0xF00100F001010 + i * 0x40
/-- PMU_SK_BQ_SLOT_HI, 19 R595. -/
def Reg.PMU_SK_BQ_SLOT_HI (i : Nat) : Nat := 0xF00100F001014 + i * 0x40
/-- PMU_SK_MESH_FLIT_LO, 19 R595. -/
def Reg.PMU_SK_MESH_FLIT_LO (i : Nat) : Nat := 0xF00100F001018 + i * 0x40
/-- PMU_SK_MESH_FLIT_HI, 19 R595. -/
def Reg.PMU_SK_MESH_FLIT_HI (i : Nat) : Nat := 0xF00100F00101C + i * 0x40
/-- PMU_SK_DRAM_RD_LO, 19 R595. -/
def Reg.PMU_SK_DRAM_RD_LO (i : Nat) : Nat := 0xF00100F001020 + i * 0x40
/-- PMU_SK_DRAM_RD_HI, 19 R595. -/
def Reg.PMU_SK_DRAM_RD_HI (i : Nat) : Nat := 0xF00100F001024 + i * 0x40
/-- PMU_SK_DRAM_WR_LO, 19 R595. -/
def Reg.PMU_SK_DRAM_WR_LO (i : Nat) : Nat := 0xF00100F001028 + i * 0x40
/-- PMU_SK_DRAM_WR_HI, 19 R595. -/
def Reg.PMU_SK_DRAM_WR_HI (i : Nat) : Nat := 0xF00100F00102C + i * 0x40
/-- PMU_SK_DRAM_RDLAT_LO, 19 R595. -/
def Reg.PMU_SK_DRAM_RDLAT_LO (i : Nat) : Nat := 0xF00100F001030 + i * 0x40
/-- PMU_SK_DRAM_RDLAT_HI, 19 R595. -/
def Reg.PMU_SK_DRAM_RDLAT_HI (i : Nat) : Nat := 0xF00100F001034 + i * 0x40
/-- PMU_SK_SNAP, 19 R595. -/
def Reg.PMU_SK_SNAP (i : Nat) : Nat := 0xF00100F001038 + i * 0x40
/-- TRC_CTL, 20 R607. -/
def Reg.TRC_CTL : Nat := 0xF00100E800000
/-- TRC_STATUS, 20 R607. -/
def Reg.TRC_STATUS : Nat := 0xF00100E800004
/-- TRC_LOST, 20 R607. -/
def Reg.TRC_LOST : Nat := 0xF00100E800008
/-- TRC_REFUSED, 20 R607. -/
def Reg.TRC_REFUSED : Nat := 0xF00100E80000C
/-- RL_SK_LOG, word k of record j of the ring of skein i, 16 R525. -/
def Reg.RL_SK_LOG (i j k : Nat) : Nat := 0xF00100C001000 + i * 0x800 + j * 0x20 + k * 0x4

/-- The register tables, part 0. -/
def regRows0 : List RegDef := [
  ⟨"IMG_PART", 0xF001000100000, [], .all, false, .whole, [⟨31, 0, .ro, 0x384a40⟩]⟩,
  ⟨"IMG_VERSION", 0xF001000100004, [], .all, false, .whole, [⟨31, 0, .ro, 0⟩]⟩,
  ⟨"IMG_DELTA_SEQ", 0xF001000100008, [], .all, false, .whole, [⟨31, 0, .ro, 0⟩]⟩,
  ⟨"IMG_STATUS", 0xF00100010000C, [], .all, false, .whole, [⟨31, 24, .ro, 0⟩, ⟨19, 16, .ro, 0⟩, ⟨8, 8, .ro, 0⟩, ⟨4, 4, .ro, 0⟩, ⟨1, 1, .ro, 0⟩, ⟨0, 0, .ro, 0⟩]⟩,
  ⟨"IMG_COPY_A", 0xF001000100010, [], .all, false, .whole, [⟨31, 30, .ro, 0⟩, ⟨29, 0, .ro, 0⟩]⟩,
  ⟨"IMG_COPY_B", 0xF001000100014, [], .all, false, .whole, [⟨31, 30, .ro, 0⟩, ⟨29, 0, .ro, 0⟩]⟩,
  ⟨"IMG_HASH_LO", 0xF001000100018, [], .all, false, .lo, [⟨31, 0, .ro, 0⟩]⟩,
  ⟨"IMG_HASH_HI", 0xF00100010001C, [], .all, false, .hi, [⟨31, 0, .ro, 0⟩]⟩,
  ⟨"IMG_CONFLICT_COUNT", 0xF001000100020, [], .all, false, .whole, [⟨31, 0, .rc, 0⟩]⟩,
  ⟨"IMG_CONFLICT_LAST_LO", 0xF001000100024, [], .all, false, .lo, [⟨31, 20, .ro, 0⟩, ⟨19, 0, .ro, 0⟩]⟩,
  ⟨"IMG_CONFLICT_LAST_HI", 0xF001000100028, [], .all, false, .hi, [⟨23, 16, .ro, 0⟩, ⟨7, 0, .ro, 0⟩]⟩,
  ⟨"IMG_STATE_REJECT", 0xF00100010002C, [], .all, false, .whole, [⟨31, 0, .rc, 0⟩]⟩,
  ⟨"BQ_ID", 0xF001002000000, [], .all, false, .whole, [⟨31, 16, .ro, 1⟩, ⟨7, 0, .ro, 4⟩]⟩,
  ⟨"BQ_STATUS", 0xF001002000004, [], .all, false, .whole, [⟨11, 8, .ro, 0xf⟩, ⟨1, 0, .ro, 0⟩]⟩,
  ⟨"BQ_PIPE_MAP", 0xF001002000008, [], .all, false, .whole, [⟨7, 6, .ro, 3⟩, ⟨5, 4, .ro, 2⟩, ⟨3, 2, .ro, 1⟩, ⟨1, 0, .ro, 0⟩]⟩,
  ⟨"BQ_CTX_OCC", 0xF00100200000C, [], .all, false, .whole, [⟨31, 17, .ro, 0⟩, ⟨16, 0, .ro, 0⟩]⟩,
  ⟨"BQ_STATE_REJECT", 0xF001002000010, [], .all, false, .whole, [⟨31, 0, .rc, 0⟩]⟩,
  ⟨"BQ_FLUSH_COUNT", 0xF001002000014, [], .all, false, .whole, [⟨31, 0, .rc, 0⟩]⟩,
  ⟨"BQ_PARTIAL_DISCARD", 0xF001002000018, [], .all, false, .whole, [⟨31, 0, .rc, 0⟩]⟩,
  ⟨"BQ_SK_QFIRST", 0xF001002001000, [(16, 0x20)], .skein, false, .whole, [⟨19, 0, .ro, 0⟩]⟩,
  ⟨"BQ_SK_QCOUNT", 0xF001002001004, [(16, 0x20)], .skein, false, .whole, [⟨20, 0, .ro, 0⟩]⟩,
  ⟨"BQ_SK_SHARE", 0xF001002001008, [(16, 0x20)], .skein, false, .whole, [⟨10, 0, .ro, 0⟩]⟩,
  ⟨"BQ_SK_QFAULT", 0xF00100200100C, [(16, 0x20)], .skein, false, .whole, [⟨31, 0, .rc, 0⟩]⟩,
  ⟨"BQ_SK_POISON", 0xF001002001010, [(16, 0x20)], .skein, false, .whole, [⟨31, 0, .rc, 0⟩]⟩,
  ⟨"BQ_SK_LASTFAULT", 0xF001002001014, [(16, 0x20)], .skein, false, .whole, [⟨31, 28, .ro, 0⟩, ⟨25, 20, .ro, 0⟩, ⟨19, 0, .ro, 0⟩]⟩,
  ⟨"BQ_SK_SLOTWAIT", 0xF001002001018, [(16, 0x20)], .skein, false, .whole, [⟨15, 0, .rc, 0⟩]⟩,
  ⟨"BQ_AT_DRAIN_LOST", 0xF001002100000, [(16, 0x10)], .skein, false, .whole, [⟨31, 0, .rc, 0⟩]⟩,
  ⟨"BQ_AT_DMA_FULL", 0xF001002100004, [(16, 0x10)], .skein, false, .whole, [⟨31, 0, .rc, 0⟩]⟩,
  ⟨"BQ_AT_HANK_REFUSED", 0xF001002100008, [(16, 0x10)], .skein, false, .whole, [⟨31, 0, .rc, 0⟩]⟩,
  ⟨"BQ_AT_CREDIT_OCC", 0xF001002100100, [], .all, false, .whole, [⟨30, 16, .ro, 0⟩, ⟨14, 0, .ro, 0⟩]⟩]

/-- The register tables, part 1. -/
def regRows1 : List RegDef := [
  ⟨"PLY_ID", 0xF001003000000, [], .all, false, .whole, [⟨31, 16, .ro, 1⟩, ⟨15, 8, .ro, 0x12⟩, ⟨7, 0, .ro, 2⟩]⟩,
  ⟨"PLY_SK_CHECK", 0xF001003000100, [(16, 0x4)], .skein, false, .whole, [⟨31, 0, .rc, 0⟩]⟩,
  ⟨"SEC_MARK", 0xF001004200000, [], .all, false, .whole, [⟨15, 0, .rwL, 0⟩]⟩,
  ⟨"SEC_SWDOG_LAST", 0xF001004200004, [], .all, false, .whole, [⟨23, 16, .ro, 0xff⟩, ⟨15, 0, .ro, 0⟩]⟩,
  ⟨"IRQ_ROUTE", 0xF001004000000, [(4096, 0x4)], .route, true, .whole, [⟨31, 31, .rw, 0⟩, ⟨30, 30, .rw, 0⟩, ⟨24, 16, .rw, 0⟩, ⟨7, 0, .rw, 0⟩]⟩,
  ⟨"IRQ_SK_DROP", 0xF001004004000, [(16, 0x4)], .skeinK, false, .whole, [⟨31, 0, .rc, 0⟩]⟩,
  ⟨"IRQ_DOORBELL", 0xF001004008000, [], .all, true, .whole, [⟨11, 0, .wo, 0⟩]⟩,
  ⟨"TB_COUNT_LO", 0xF001004100000, [], .all, false, .lo, [⟨31, 0, .ro, 0⟩]⟩,
  ⟨"TB_COUNT_HI", 0xF001004100004, [], .all, false, .hi, [⟨31, 0, .ro, 0⟩]⟩,
  ⟨"TB_STATUS", 0xF001004100008, [], .all, false, .whole, [⟨0, 0, .ro, 0⟩]⟩,
  ⟨"TB_CAP_LO", 0xF001004100100, [(4, 0x10)], .all, false, .lo, [⟨31, 0, .ro, 0⟩]⟩,
  ⟨"TB_CAP_HI", 0xF001004100104, [(4, 0x10)], .all, false, .hi, [⟨31, 0, .ro, 0⟩]⟩,
  ⟨"TB_CAP_COUNT", 0xF001004100108, [(4, 0x10)], .all, false, .whole, [⟨31, 0, .ro, 0⟩]⟩,
  ⟨"MMU_IO_CFG", 0xF001005000000, [(8, 0x100)], .iotu, true, .whole, [⟨31, 31, .rw, 0⟩, ⟨30, 30, .rw, 0⟩, ⟨20, 16, .rw, 0⟩, ⟨11, 0, .rw, 0⟩]⟩,
  ⟨"MMU_IO_STB_LO", 0xF001005000004, [(8, 0x100)], .iotu, true, .lo, [⟨31, 12, .rw, 0⟩]⟩,
  ⟨"MMU_IO_STB_HI", 0xF001005000008, [(8, 0x100)], .iotu, true, .hi, [⟨19, 0, .rw, 0⟩]⟩,
  ⟨"MMU_IO_INV_CMD", 0xF00100500000C, [(8, 0x100)], .iotu, true, .whole, [⟨31, 16, .rw, 0⟩, ⟨2, 0, .wo, 0⟩]⟩,
  ⟨"MMU_IO_INV_VA_LO", 0xF001005000010, [(8, 0x100)], .iotu, true, .lo, [⟨31, 0, .rw, 0⟩]⟩,
  ⟨"MMU_IO_INV_VA_HI", 0xF001005000014, [(8, 0x100)], .iotu, true, .hi, [⟨31, 0, .rw, 0⟩]⟩,
  ⟨"MMU_IO_INV_STATUS", 0xF001005000018, [(8, 0x100)], .iotu, true, .whole, [⟨31, 24, .ro, 0⟩, ⟨8, 8, .ro, 0⟩, ⟨1, 0, .ro, 0⟩]⟩,
  ⟨"MMU_IO_FAULT_INFO", 0xF00100500001C, [(8, 0x100)], .iotu, true, .whole, [⟨31, 31, .w1c, 0⟩, ⟨30, 30, .w1c, 0⟩, ⟨29, 29, .ro, 0⟩, ⟨27, 24, .ro, 0⟩, ⟨23, 16, .ro, 0⟩, ⟨15, 0, .ro, 0⟩]⟩,
  ⟨"MMU_IO_FAULT_ADDR_LO", 0xF001005000020, [(8, 0x100)], .iotu, true, .lo, [⟨31, 0, .ro, 0⟩]⟩,
  ⟨"MMU_IO_FAULT_ADDR_HI", 0xF001005000024, [(8, 0x100)], .iotu, true, .hi, [⟨31, 0, .ro, 0⟩]⟩,
  ⟨"MMU_IO_STATE_REJECT", 0xF001005000028, [(8, 0x100)], .iotu, true, .whole, [⟨31, 0, .rc, 0⟩]⟩,
  ⟨"CCH_L3_ID", 0xF000006000000, [(16, 0x100000000)], .all, false, .whole, [⟨31, 24, .ro, 0x1c⟩, ⟨23, 16, .ro, 0xc⟩, ⟨15, 8, .ro, 0xc⟩, ⟨7, 0, .ro, 1⟩]⟩,
  ⟨"CCH_L3_WAYS", 0xF000006000004, [(16, 0x100000000)], .all, false, .whole, [⟨27, 16, .ro, 0⟩, ⟨11, 0, .ro, 0⟩]⟩,
  ⟨"CCH_L3_SPARE", 0xF000006000008, [(16, 0x100000000)], .all, false, .whole, [⟨27, 0, .ro, 0⟩]⟩,
  ⟨"CCH_L3_PD_CMD", 0xF00000600000C, [(16, 0x100000000)], .all, false, .whole, [⟨7, 4, .wo, 0⟩, ⟨2, 0, .wo, 0⟩]⟩,
  ⟨"CCH_L3_PD_STATUS", 0xF000006000010, [(16, 0x100000000)], .all, false, .whole, [⟨31, 24, .ro, 0⟩, ⟨20, 16, .ro, 0⟩, ⟨15, 12, .ro, 0⟩, ⟨1, 0, .ro, 0⟩]⟩,
  ⟨"CCH_L3_STATE_REJECT", 0xF000006000014, [(16, 0x100000000)], .all, false, .whole, [⟨31, 0, .rc, 0⟩]⟩]

/-- The register tables, part 2. -/
def regRows2 : List RegDef := [
  ⟨"CCH_L3_LOST", 0xF000006000018, [(16, 0x100000000)], .all, false, .whole, [⟨31, 0, .rc, 0⟩]⟩,
  ⟨"CCH_HUB_ID", 0xF001006000000, [], .all, false, .whole, [⟨31, 24, .ro, 0x20⟩, ⟨23, 16, .ro, 0x10⟩, ⟨7, 0, .ro, 1⟩]⟩,
  ⟨"CCH_HC_WAYS", 0xF001006000004, [], .all, false, .whole, [⟨31, 16, .ro, 0⟩, ⟨15, 0, .ro, 0⟩]⟩,
  ⟨"CCH_HC_PD_CMD", 0xF001006000008, [], .all, false, .whole, [⟨7, 4, .wo, 0⟩, ⟨2, 0, .wo, 0⟩]⟩,
  ⟨"CCH_HC_PD_STATUS", 0xF00100600000C, [], .all, false, .whole, [⟨31, 24, .ro, 0⟩, ⟨21, 16, .ro, 0⟩, ⟨15, 12, .ro, 0⟩, ⟨1, 0, .ro, 0⟩]⟩,
  ⟨"CCH_HUB_STATE_REJECT", 0xF001006000010, [], .all, false, .whole, [⟨31, 0, .rc, 0⟩]⟩,
  ⟨"CCH_DEAD", 0xF001006000014, [], .all, false, .whole, [⟨21, 16, .ro, 0⟩, ⟨15, 0, .ro, 0⟩]⟩,
  ⟨"CCH_SWEEP", 0xF001006000018, [], .all, false, .whole, [⟨31, 31, .ro, 0⟩, ⟨7, 0, .ro, 0⟩]⟩,
  ⟨"CCH_DIR_REBUILD", 0xF00100600001C, [], .all, false, .whole, [⟨31, 0, .rc, 0⟩]⟩,
  ⟨"CCH_POISONED", 0xF001006000020, [], .all, false, .whole, [⟨31, 0, .rc, 0⟩]⟩,
  ⟨"CCH_SK_POLICY", 0xF001006000100, [(16, 0x10)], .skein, true, .whole, [⟨1, 0, .rw, 0⟩]⟩,
  ⟨"CCH_SK_POISONED", 0xF001006000104, [(16, 0x10)], .skein, false, .whole, [⟨31, 0, .rc, 0⟩]⟩,
  ⟨"CCH_SK_FAR", 0xF001006000108, [(16, 0x10)], .skein, false, .whole, [⟨31, 0, .rc, 0⟩]⟩,
  ⟨"MESH_ID", 0xF000007000000, [(16, 0x100000000)], .all, false, .whole, [⟨31, 24, .ro, 7⟩, ⟨23, 16, .ro, 4⟩, ⟨15, 8, .ro, 1⟩, ⟨7, 0, .ro, 1⟩]⟩,
  ⟨"MESH_HUB_ID", 0xF001007000000, [], .all, false, .whole, [⟨31, 24, .ro, 8⟩, ⟨23, 16, .ro, 8⟩, ⟨15, 8, .ro, 2⟩, ⟨7, 0, .ro, 1⟩]⟩,
  ⟨"MESH_ORIENT", 0xF000007000004, [(16, 0x100000000)], .all, false, .whole, [⟨10, 8, .ro, 0⟩, ⟨7, 6, .ro, 0⟩, ⟨5, 4, .ro, 0⟩, ⟨0, 0, .ro, 0⟩]⟩,
  ⟨"MESH_HUB_ORIENT", 0xF001007000004, [], .all, false, .whole, []⟩,
  ⟨"MESH_FENCE_CFG", 0xF000007000008, [(16, 0x100000000)], .all, false, .whole, [⟨31, 16, .ro, 0x3e8⟩, ⟨15, 0, .ro, 0x32⟩]⟩,
  ⟨"MESH_HUB_FENCE_CFG", 0xF001007000008, [], .all, false, .whole, [⟨31, 16, .ro, 0x3e8⟩, ⟨15, 0, .ro, 0x32⟩]⟩,
  ⟨"MESH_ISO", 0xF00000700000C, [(16, 0x100000000)], .all, false, .whole, [⟨31, 0, .ro, 0⟩]⟩,
  ⟨"MESH_HUB_ISO", 0xF00100700000C, [], .all, false, .whole, [⟨31, 0, .ro, 0⟩]⟩,
  ⟨"MESH_DEAD_COUNT", 0xF000007000010, [(16, 0x100000000)], .all, false, .whole, [⟨31, 0, .rc, 0⟩]⟩,
  ⟨"MESH_HUB_DEAD_COUNT", 0xF001007000010, [], .all, false, .whole, [⟨31, 0, .rc, 0⟩]⟩,
  ⟨"MESH_DOFF_COUNT", 0xF000007000014, [(16, 0x100000000)], .all, false, .whole, [⟨31, 0, .rc, 0⟩]⟩,
  ⟨"MESH_HUB_DOFF_COUNT", 0xF001007000014, [], .all, false, .whole, [⟨31, 0, .rc, 0⟩]⟩,
  ⟨"MESH_SK_SHARE_A", 0xF000007000100, [(16, 0x100000000), (16, 0x10)], .skein, false, .whole, [⟨26, 16, .ro, 0⟩, ⟨10, 0, .ro, 0⟩]⟩,
  ⟨"MESH_HUB_SK_SHARE_A", 0xF001007000100, [(16, 0x10)], .skein, false, .whole, [⟨26, 16, .ro, 0⟩, ⟨10, 0, .ro, 0⟩]⟩,
  ⟨"MESH_SK_SHARE_B", 0xF000007000104, [(16, 0x100000000), (16, 0x10)], .skein, false, .whole, [⟨26, 16, .ro, 0⟩, ⟨10, 0, .ro, 0⟩]⟩,
  ⟨"MESH_HUB_SK_SHARE_B", 0xF001007000104, [(16, 0x10)], .skein, false, .whole, [⟨26, 16, .ro, 0⟩, ⟨10, 0, .ro, 0⟩]⟩,
  ⟨"MESH_SK_MAXWAIT", 0xF000007000108, [(16, 0x100000000), (16, 0x10)], .skein, false, .whole, [⟨15, 0, .rc, 0⟩]⟩]

/-- The register tables, part 3. -/
def regRows3 : List RegDef := [
  ⟨"MESH_HUB_SK_MAXWAIT", 0xF001007000108, [(16, 0x10)], .skein, false, .whole, [⟨15, 0, .rc, 0⟩]⟩,
  ⟨"D2D_LINK", 0xF000007100000, [(16, 0x100000000)], .all, false, .whole, [⟨17, 16, .ro, 0⟩, ⟨15, 8, .ro, 0x20⟩, ⟨1, 0, .ro, 0⟩]⟩,
  ⟨"D2D_HUB_LINK", 0xF001007100000, [(16, 0x20)], .all, false, .whole, [⟨17, 16, .ro, 0⟩, ⟨15, 8, .ro, 0x20⟩, ⟨1, 0, .ro, 0⟩]⟩,
  ⟨"D2D_REPAIR", 0xF000007100004, [(16, 0x100000000)], .all, false, .whole, [⟨5, 3, .ro, 0⟩, ⟨2, 0, .ro, 0⟩]⟩,
  ⟨"D2D_HUB_REPAIR", 0xF001007100004, [(16, 0x20)], .all, false, .whole, [⟨5, 3, .ro, 0⟩, ⟨2, 0, .ro, 0⟩]⟩,
  ⟨"D2D_CORRECTED", 0xF000007100008, [(16, 0x100000000)], .all, false, .whole, [⟨31, 0, .rc, 0⟩]⟩,
  ⟨"D2D_HUB_CORRECTED", 0xF001007100008, [(16, 0x20)], .all, false, .whole, [⟨31, 0, .rc, 0⟩]⟩,
  ⟨"D2D_LAST_LANE", 0xF00000710000C, [(16, 0x100000000)], .all, false, .whole, [⟨31, 31, .ro, 0⟩, ⟨8, 8, .ro, 0⟩, ⟨7, 0, .ro, 0⟩]⟩,
  ⟨"D2D_HUB_LAST_LANE", 0xF00100710000C, [(16, 0x20)], .all, false, .whole, [⟨31, 31, .ro, 0⟩, ⟨8, 8, .ro, 0⟩, ⟨7, 0, .ro, 0⟩]⟩,
  ⟨"D2D_GST_CMD", 0xF001007100400, [(2, 0x40)], .all, false, .whole, [⟨2, 0, .wo, 0⟩]⟩,
  ⟨"D2D_GST_STATUS", 0xF001007100404, [(2, 0x40)], .all, false, .whole, [⟨31, 24, .ro, 0⟩, ⟨23, 16, .ro, 0⟩, ⟨9, 8, .ro, 0⟩, ⟨7, 7, .ro, 0⟩, ⟨2, 0, .ro, 0⟩]⟩,
  ⟨"D2D_GST_ID_LO", 0xF001007100408, [(2, 0x40)], .all, false, .lo, [⟨31, 0, .ro, 0⟩]⟩,
  ⟨"D2D_GST_ID_HI", 0xF00100710040C, [(2, 0x40)], .all, false, .hi, [⟨31, 0, .ro, 0⟩]⟩,
  ⟨"D2D_GST_STATE_REJECT", 0xF001007100410, [(2, 0x40)], .all, false, .whole, [⟨31, 0, .rc, 0⟩]⟩,
  ⟨"MC_ID", 0xF001008000000, [(16, 0x100000)], .mc, false, .whole, [⟨31, 16, .ro, 1⟩, ⟨3, 0, .ro, 0⟩]⟩,
  ⟨"MC_CFG", 0xF001008000004, [(16, 0x100000)], .mc, false, .whole, [⟨25, 24, .ro, 0⟩, ⟨23, 20, .ro, 0⟩, ⟨19, 16, .ro, 0⟩, ⟨15, 8, .ro, 0⟩, ⟨2, 2, .ro, 0⟩, ⟨1, 0, .ro, 0⟩]⟩,
  ⟨"MC_STATUS", 0xF001008000008, [(16, 0x100000)], .mc, false, .whole, [⟨31, 24, .ro, 0⟩, ⟨8, 8, .ro, 0⟩, ⟨2, 0, .ro, 0⟩]⟩,
  ⟨"MC_CMD", 0xF00100800000C, [(16, 0x100000)], .mc, false, .whole, [⟨2, 0, .wo, 0⟩]⟩,
  ⟨"MC_SCHED", 0xF001008000010, [(16, 0x100000)], .mc, false, .whole, [⟨31, 24, .rw, 0x30⟩, ⟨23, 16, .rw, 0x10⟩, ⟨15, 8, .rw, 8⟩, ⟨7, 0, .rw, 0x10⟩]⟩,
  ⟨"MC_AGE", 0xF001008000014, [(16, 0x100000)], .mc, false, .whole, [⟨15, 0, .rw, 0x7d⟩]⟩,
  ⟨"MC_NREF", 0xF001008000018, [(16, 0x100000)], .mc, false, .whole, [⟨4, 0, .rw, 8⟩]⟩,
  ⟨"MC_NREF_COUNT", 0xF00100800001C, [(16, 0x100000)], .mc, false, .whole, [⟨31, 0, .rc, 0⟩]⟩,
  ⟨"MC_LP_CFG", 0xF001008000020, [(16, 0x100000)], .mc, false, .whole, [⟨4, 4, .rw, 0⟩, ⟨3, 0, .rw, 0xf⟩]⟩,
  ⟨"MC_SCRUB", 0xF001008000024, [(16, 0x100000)], .mc, false, .whole, [⟨31, 24, .rw, 0x18⟩, ⟨7, 0, .ro, 0⟩]⟩,
  ⟨"MC_ECC_CE", 0xF001008000028, [(16, 0x100000)], .mc, false, .whole, [⟨31, 0, .rc, 0⟩]⟩,
  ⟨"MC_ECC_UE", 0xF00100800002C, [(16, 0x100000)], .mc, false, .whole, [⟨31, 0, .rc, 0⟩]⟩,
  ⟨"MC_ECC_LAST_LO", 0xF001008000030, [(16, 0x100000)], .mc, false, .lo, [⟨31, 15, .ro, 0⟩, ⟨14, 8, .ro, 0⟩, ⟨7, 6, .ro, 0⟩, ⟨5, 3, .ro, 0⟩, ⟨2, 1, .ro, 0⟩, ⟨0, 0, .ro, 0⟩]⟩,
  ⟨"MC_ECC_LAST_HI", 0xF001008000034, [(16, 0x100000)], .mc, false, .hi, [⟨31, 31, .ro, 0⟩, ⟨30, 30, .ro, 0⟩, ⟨10, 8, .ro, 0⟩, ⟨3, 0, .ro, 0⟩]⟩,
  ⟨"MC_MARK", 0xF001008000038, [(16, 0x100000)], .mc, false, .whole, [⟨31, 0, .ro, 0xffffffff⟩]⟩,
  ⟨"MC_PPR", 0xF00100800003C, [(16, 0x100000)], .mc, false, .whole, [⟨31, 24, .ro, 0⟩, ⟨23, 16, .ro, 0⟩, ⟨15, 8, .ro, 0⟩, ⟨7, 0, .ro, 0⟩]⟩]

/-- The register tables, part 4. -/
def regRows4 : List RegDef := [
  ⟨"MC_TRAIN_STATUS", 0xF001008000040, [(16, 0x100000)], .mc, false, .whole, [⟨31, 24, .ro, 0⟩, ⟨0, 0, .ro, 0⟩]⟩,
  ⟨"MC_STATE_REJECT", 0xF001008000044, [(16, 0x100000)], .mc, false, .whole, [⟨31, 0, .rc, 0⟩]⟩,
  ⟨"MC_MAP_RANGE", 0xF001009000000, [(64, 0x10)], .all, false, .whole, [⟨31, 31, .rwL, 0⟩, ⟨29, 16, .rwL, 0⟩, ⟨13, 0, .rwL, 0⟩]⟩,
  ⟨"MC_MAP_SET", 0xF001009000004, [(64, 0x10)], .all, false, .whole, [⟨19, 16, .rwL, 0⟩, ⟨15, 0, .rwL, 0⟩]⟩,
  ⟨"MC_MAP_BASE", 0xF001009000008, [(64, 0x10)], .all, false, .whole, [⟨19, 0, .rwL, 0⟩]⟩,
  ⟨"MC_DQ_DLY", 0xF001008001000, [(16, 0x100000), (320, 0x4)], .mc, false, .whole, [⟨31, 24, .ro, 0⟩, ⟨23, 16, .ro, 0⟩, ⟨15, 8, .rw, 0⟩, ⟨7, 0, .rw, 0⟩]⟩,
  ⟨"MC_DQS_DLY", 0xF001008001800, [(16, 0x100000), (80, 0x4)], .mc, false, .whole, [⟨31, 24, .ro, 0⟩, ⟨23, 16, .ro, 0⟩, ⟨15, 8, .rw, 0⟩, ⟨7, 0, .rw, 0⟩]⟩,
  ⟨"MC_CA_DLY", 0xF001008001A00, [(16, 0x100000), (36, 0x4)], .mc, false, .whole, [⟨31, 24, .ro, 0⟩, ⟨15, 8, .rw, 0⟩]⟩,
  ⟨"MC_VREF", 0xF001008001C00, [(16, 0x100000), (80, 0x4)], .mc, false, .whole, [⟨31, 24, .ro, 0⟩, ⟨15, 8, .rw, 0⟩]⟩,
  ⟨"PCE_STATUS", 0xF00100A000000, [(8, 0x100000)], .pce, false, .whole, [⟨31, 24, .ro, 0⟩, ⟨19, 16, .ro, 0⟩, ⟨12, 8, .ro, 0⟩, ⟨6, 4, .ro, 0⟩, ⟨2, 0, .ro, 0⟩]⟩,
  ⟨"PCE_CMD", 0xF00100A000004, [(8, 0x100000)], .pce, true, .whole, [⟨2, 0, .wo, 0⟩]⟩,
  ⟨"PCE_STATE_REJECT", 0xF00100A000008, [(8, 0x100000)], .pce, false, .whole, [⟨31, 0, .rc, 0⟩]⟩,
  ⟨"PCE_FLR_COUNT", 0xF00100A00000C, [(8, 0x100000)], .pce, false, .whole, [⟨31, 0, .rc, 0⟩]⟩,
  ⟨"PCE_DOWN_COUNT", 0xF00100A000010, [(8, 0x100000)], .pce, false, .whole, [⟨31, 0, .rc, 0⟩]⟩,
  ⟨"PCE_RP_ROUTE", 0xF00100A000014, [(8, 0x100000)], .pce, true, .whole, [⟨31, 31, .rw, 0⟩, ⟨11, 0, .rw, 0⟩]⟩,
  ⟨"HNK_ID", 0xF00100B800000, [], .all, false, .whole, [⟨31, 16, .ro, 1⟩, ⟨10, 0, .ro, 0⟩]⟩,
  ⟨"HNK_STATUS", 0xF00100B800004, [], .all, false, .whole, [⟨1, 0, .ro, 0⟩]⟩,
  ⟨"HNK_INCARN", 0xF00100B800008, [], .all, false, .whole, [⟨31, 0, .ro, 0⟩]⟩,
  ⟨"HNK_TIMERS", 0xF00100B80000C, [], .all, false, .whole, [⟨31, 24, .ro, 0x64⟩, ⟨23, 16, .ro, 8⟩, ⟨15, 0, .ro, 0x14⟩]⟩,
  ⟨"HNK_HOLD", 0xF00100B800010, [], .all, false, .whole, [⟨15, 0, .ro, 0x3e8⟩]⟩,
  ⟨"HNK_SK_CFG", 0xF00100B800100, [(16, 0x20)], .skein, true, .whole, [⟨31, 31, .rw, 0⟩, ⟨15, 0, .rw, 0x10⟩]⟩,
  ⟨"HNK_SK_REFUSEQ", 0xF00100B800104, [(16, 0x20)], .skein, true, .whole, [⟨19, 0, .rw, 0⟩]⟩,
  ⟨"HNK_SK_REFUSED", 0xF00100B800108, [(16, 0x20)], .skein, false, .whole, [⟨31, 0, .rc, 0⟩]⟩,
  ⟨"HNK_SK_REFUSE_LOST", 0xF00100B80010C, [(16, 0x20)], .skein, false, .whole, [⟨31, 0, .rc, 0⟩]⟩,
  ⟨"HNK_SK_DEAD", 0xF00100B800110, [(16, 0x20)], .skein, false, .whole, [⟨31, 0, .rc, 0⟩]⟩,
  ⟨"HNK_PEER", 0xF00100B801000, [(2048, 0x4)], .all, false, .whole, [⟨9, 8, .ro, 0⟩, ⟨7, 0, .ro, 0⟩]⟩,
  ⟨"HNK_PORT_STATUS", 0xF00100B000000, [(8, 0x100000)], .port, false, .whole, [⟨31, 24, .ro, 0⟩, ⟨18, 16, .ro, 0⟩, ⟨13, 12, .ro, 0⟩, ⟨2, 0, .ro, 0⟩]⟩,
  ⟨"HNK_PORT_CMD", 0xF00100B000004, [(8, 0x100000)], .port, true, .whole, [⟨2, 0, .wo, 0⟩]⟩,
  ⟨"HNK_PORT_MAC_LO", 0xF00100B000008, [(8, 0x100000)], .port, false, .lo, [⟨31, 0, .ro, 0⟩]⟩,
  ⟨"HNK_PORT_MAC_HI", 0xF00100B00000C, [(8, 0x100000)], .port, false, .hi, [⟨31, 0, .ro, 0⟩]⟩]

/-- The register tables, part 5. -/
def regRows5 : List RegDef := [
  ⟨"HNK_PORT_FEC_CORR", 0xF00100B000010, [(8, 0x100000)], .port, false, .whole, [⟨31, 0, .rc, 0⟩]⟩,
  ⟨"HNK_PORT_FEC_UNCORR", 0xF00100B000014, [(8, 0x100000)], .port, false, .whole, [⟨31, 0, .rc, 0⟩]⟩,
  ⟨"HNK_PORT_RX_DROP", 0xF00100B000018, [(8, 0x100000)], .port, false, .whole, [⟨31, 0, .rc, 0⟩]⟩,
  ⟨"HNK_PORT_RX_DUP", 0xF00100B00001C, [(8, 0x100000)], .port, false, .whole, [⟨31, 0, .rc, 0⟩]⟩,
  ⟨"HNK_PORT_RETX", 0xF00100B000020, [(8, 0x100000)], .port, false, .whole, [⟨31, 0, .rc, 0⟩]⟩,
  ⟨"HNK_PORT_STATE_REJECT", 0xF00100B000024, [(8, 0x100000)], .port, false, .whole, [⟨31, 0, .rc, 0⟩]⟩,
  ⟨"HNK_PORT_DROP_LAST", 0xF00100B000028, [(8, 0x100000)], .port, false, .whole, [⟨2, 0, .ro, 0⟩]⟩,
  ⟨"RL_ID", 0xF00100C000000, [], .all, false, .whole, [⟨31, 16, .ro, 1⟩, ⟨15, 8, .ro, 0xd⟩]⟩,
  ⟨"RL_STATUS", 0xF00100C000004, [], .all, false, .whole, [⟨12, 8, .ro, 0⟩, ⟨1, 0, .ro, 0⟩]⟩,
  ⟨"RL_SAFE_CAUSE", 0xF00100C000008, [], .all, false, .whole, [⟨23, 16, .ro, 0xff⟩, ⟨15, 8, .ro, 0⟩, ⟨7, 0, .ro, 0⟩]⟩,
  ⟨"RL_SAFE_TIME_LO", 0xF00100C00000C, [], .all, false, .lo, [⟨31, 0, .ro, 0⟩]⟩,
  ⟨"RL_SAFE_TIME_HI", 0xF00100C000010, [], .all, false, .hi, [⟨31, 0, .ro, 0⟩]⟩,
  ⟨"RL_STATE_REJECT", 0xF00100C000014, [], .all, false, .whole, [⟨31, 0, .rc, 0⟩]⟩,
  ⟨"RL_DIE_SPARE0", 0xF00100C000018, [], .all, false, .whole, [⟨31, 0, .ro, 0⟩]⟩,
  ⟨"RL_DIE_SPARE1", 0xF00100C00001C, [], .all, false, .whole, [⟨31, 0, .ro, 0⟩]⟩,
  ⟨"RL_GUARD0", 0xF00100C000020, [], .all, false, .whole, [⟨31, 0, .ro, 0⟩]⟩,
  ⟨"RL_GUARD1", 0xF00100C000024, [], .all, false, .whole, [⟨31, 0, .ro, 0⟩]⟩,
  ⟨"RL_GUARD_HUB", 0xF00100C000028, [], .all, false, .whole, [⟨7, 4, .ro, 0⟩, ⟨3, 0, .ro, 0⟩]⟩,
  ⟨"RL_BUDGET_TOTAL", 0xF00100C000100, [(13, 0x8)], .all, false, .whole, [⟨31, 0, .ro, 0⟩]⟩,
  ⟨"RL_BUDGET_USED", 0xF00100C000104, [(13, 0x8)], .all, false, .whole, [⟨31, 0, .ro, 0⟩]⟩,
  ⟨"RL_SK_LOG_HEAD", 0xF00100C000200, [(16, 0x20)], .skein, true, .whole, [⟨6, 0, .rw, 0⟩]⟩,
  ⟨"RL_SK_LOG_TAIL", 0xF00100C000204, [(16, 0x20)], .skein, false, .whole, [⟨6, 0, .ro, 0⟩]⟩,
  ⟨"RL_SK_LOG_LOST", 0xF00100C000208, [(16, 0x20)], .skein, false, .whole, [⟨31, 0, .rc, 0⟩]⟩,
  ⟨"RL_SK_REELS", 0xF00100C00020C, [(16, 0x20)], .skein, false, .whole, [⟨31, 0, .rc, 0⟩]⟩,
  ⟨"RL_SK_NOTICE", 0xF00100C000210, [(16, 0x20)], .skein, true, .whole, [⟨8, 0, .rw, 0⟩]⟩,
  ⟨"PWR_ID", 0xF00100D000000, [], .all, false, .whole, [⟨31, 16, .ro, 1⟩]⟩,
  ⟨"PWR_STATUS", 0xF00100D000004, [], .all, false, .whole, [⟨8, 8, .ro, 0⟩, ⟨4, 2, .ro, 0⟩, ⟨1, 0, .ro, 0⟩]⟩,
  ⟨"PWR_REQ", 0xF00100D000008, [], .all, true, .whole, [⟨27, 24, .wo, 0⟩, ⟨19, 8, .wo, 0⟩, ⟨2, 0, .wo, 0⟩]⟩,
  ⟨"PWR_STATE_REJECT", 0xF00100D00000C, [], .all, false, .whole, [⟨31, 0, .rc, 0⟩]⟩,
  ⟨"PWR_THERM0", 0xF00100D000010, [], .all, false, .whole, [⟨31, 0, .ro, 0⟩]⟩]

/-- The register tables, part 6. -/
def regRows6 : List RegDef := [
  ⟨"PWR_THERM1", 0xF00100D000014, [], .all, false, .whole, [⟨31, 0, .ro, 0⟩]⟩,
  ⟨"PWR_THERM_HC", 0xF00100D000018, [], .all, false, .whole, [⟨1, 0, .ro, 0⟩]⟩,
  ⟨"PWR_TEMP", 0xF00100D000100, [(18, 0x4)], .temp, false, .whole, [⟨15, 0, .ro, 0⟩]⟩,
  ⟨"PWR_RESULT", 0xF00100D001000, [(384, 0x4)], .lcn, false, .whole, [⟨31, 24, .ro, 0⟩, ⟨11, 8, .ro, 0⟩, ⟨0, 0, .ro, 0⟩]⟩,
  ⟨"PWR_DOM_STATE", 0xF00100D004000, [(409, 0x10)], .dom, false, .whole, [⟨19, 16, .ro, 0⟩, ⟨8, 8, .ro, 0⟩, ⟨2, 0, .ro, 0⟩]⟩,
  ⟨"PWR_DOM_REFUSED", 0xF00100D004004, [(409, 0x10)], .dom, false, .whole, [⟨31, 0, .rc, 0⟩]⟩,
  ⟨"PWR_DOM_ABORTED", 0xF00100D004008, [(409, 0x10)], .dom, false, .whole, [⟨31, 0, .rc, 0⟩]⟩,
  ⟨"PWR_DOM_LAST", 0xF00100D00400C, [(409, 0x10)], .dom, false, .whole, [⟨23, 16, .ro, 0⟩, ⟨11, 8, .ro, 0⟩, ⟨2, 0, .ro, 0⟩]⟩,
  ⟨"DST_ID", 0xF00100E000000, [], .all, false, .whole, [⟨31, 0, .ro, 0⟩]⟩,
  ⟨"DST_STATUS", 0xF00100E000004, [], .all, false, .whole, [⟨10, 8, .ro, 0⟩, ⟨4, 4, .ro, 1⟩, ⟨3, 3, .ro, 0⟩, ⟨2, 2, .ro, 0⟩, ⟨1, 0, .ro, 0⟩]⟩,
  ⟨"DST_AUDIT_SEQ_LO", 0xF00100E000008, [], .all, false, .lo, [⟨31, 0, .ro, 0⟩]⟩,
  ⟨"DST_AUDIT_SEQ_HI", 0xF00100E00000C, [], .all, false, .hi, [⟨31, 0, .ro, 0⟩]⟩,
  ⟨"DST_STATE_REJECT", 0xF00100E000010, [], .all, false, .whole, [⟨31, 0, .rc, 0⟩]⟩,
  ⟨"DST_AUDIT_LOST", 0xF00100E000014, [], .all, false, .whole, [⟨31, 0, .rc, 0⟩]⟩,
  ⟨"DST_EVENT_LOST", 0xF00100E000018, [], .all, false, .whole, [⟨31, 0, .rc, 0⟩]⟩,
  ⟨"DST_MBX_REQ", 0xF00100E001000, [(16, 0x400), (64, 0x4)], .skein, true, .whole, [⟨31, 0, .rw, 0⟩]⟩,
  ⟨"DST_MBX_RSP", 0xF00100E001100, [(16, 0x400), (64, 0x4)], .skein, false, .whole, [⟨31, 0, .ro, 0⟩]⟩,
  ⟨"DST_MBX_CTL", 0xF00100E001200, [(16, 0x400)], .skein, true, .whole, [⟨31, 24, .ro, 0⟩, ⟨17, 16, .ro, 0⟩, ⟨8, 0, .wo, 0⟩]⟩,
  ⟨"DST_MBX_ROUTE", 0xF00100E001204, [(16, 0x400)], .skein, true, .whole, [⟨31, 31, .rw, 0⟩, ⟨11, 0, .rw, 0⟩]⟩,
  ⟨"PMU_SK_BQ_POST_LO", 0xF00100F001000, [(16, 0x40)], .skein, false, .lo, [⟨31, 0, .ro, 0⟩]⟩,
  ⟨"PMU_SK_BQ_POST_HI", 0xF00100F001004, [(16, 0x40)], .skein, false, .hi, [⟨31, 0, .ro, 0⟩]⟩,
  ⟨"PMU_SK_BQ_READ_LO", 0xF00100F001008, [(16, 0x40)], .skein, false, .lo, [⟨31, 0, .ro, 0⟩]⟩,
  ⟨"PMU_SK_BQ_READ_HI", 0xF00100F00100C, [(16, 0x40)], .skein, false, .hi, [⟨31, 0, .ro, 0⟩]⟩,
  ⟨"PMU_SK_BQ_SLOT_LO", 0xF00100F001010, [(16, 0x40)], .skein, false, .lo, [⟨31, 0, .ro, 0⟩]⟩,
  ⟨"PMU_SK_BQ_SLOT_HI", 0xF00100F001014, [(16, 0x40)], .skein, false, .hi, [⟨31, 0, .ro, 0⟩]⟩,
  ⟨"PMU_SK_MESH_FLIT_LO", 0xF00100F001018, [(16, 0x40)], .skein, false, .lo, [⟨31, 0, .ro, 0⟩]⟩,
  ⟨"PMU_SK_MESH_FLIT_HI", 0xF00100F00101C, [(16, 0x40)], .skein, false, .hi, [⟨31, 0, .ro, 0⟩]⟩,
  ⟨"PMU_SK_DRAM_RD_LO", 0xF00100F001020, [(16, 0x40)], .skein, false, .lo, [⟨31, 0, .ro, 0⟩]⟩,
  ⟨"PMU_SK_DRAM_RD_HI", 0xF00100F001024, [(16, 0x40)], .skein, false, .hi, [⟨31, 0, .ro, 0⟩]⟩,
  ⟨"PMU_SK_DRAM_WR_LO", 0xF00100F001028, [(16, 0x40)], .skein, false, .lo, [⟨31, 0, .ro, 0⟩]⟩]

/-- The register tables, part 7. -/
def regRows7 : List RegDef := [
  ⟨"PMU_SK_DRAM_WR_HI", 0xF00100F00102C, [(16, 0x40)], .skein, false, .hi, [⟨31, 0, .ro, 0⟩]⟩,
  ⟨"PMU_SK_DRAM_RDLAT_LO", 0xF00100F001030, [(16, 0x40)], .skein, false, .lo, [⟨31, 0, .ro, 0⟩]⟩,
  ⟨"PMU_SK_DRAM_RDLAT_HI", 0xF00100F001034, [(16, 0x40)], .skein, false, .hi, [⟨31, 0, .ro, 0⟩]⟩,
  ⟨"PMU_SK_SNAP", 0xF00100F001038, [(16, 0x40)], .skein, true, .whole, [⟨31, 0, .wo, 0⟩]⟩,
  ⟨"TRC_CTL", 0xF00100E800000, [], .all, true, .whole, [⟨31, 31, .rw, 0⟩, ⟨27, 20, .rw, 0⟩, ⟨8, 0, .rw, 0⟩]⟩,
  ⟨"TRC_STATUS", 0xF00100E800004, [], .all, false, .whole, [⟨16, 16, .ro, 0⟩, ⟨10, 0, .ro, 0⟩]⟩,
  ⟨"TRC_LOST", 0xF00100E800008, [], .all, false, .whole, [⟨31, 0, .rc, 0⟩]⟩,
  ⟨"TRC_REFUSED", 0xF00100E80000C, [], .all, false, .whole, [⟨31, 0, .rc, 0⟩]⟩,
  ⟨"RL_SK_LOG", 0xF00100C001000, [(16, 0x800), (64, 0x20), (8, 0x4)], .skein, false, .whole, [⟨31, 0, .ro, 0⟩]⟩]

/-- Every control register of the spec, R11. -/
def regDefs : List RegDef :=
  regRows0 ++ regRows1 ++ regRows2 ++ regRows3 ++ regRows4 ++ regRows5 ++ regRows6 ++ regRows7

end Sys2Proof.Machine
end

