-- ==== Sys2Proof/Machine/State.lean ====
section
/-! DEFINITION. The state of the block: every register, queue, table, buffer and pin the spec gives the part, as plain
data, with the queue of waiting commands. Each structure names the chapter and rules it holds. -/
namespace Sys2Proof.Machine

/-! ### The core (chapters 05 to 10, 19) -/

/-- The four levels of R249. -/
inductive Level where
  | u | k | su | sk
  deriving DecidableEq, Repr

/-- The memory types of R282. -/
inductive MemType where
  | wb | nc | device
  deriving DecidableEq, Repr

/-- One world's bank of exception registers, R255 and R257. -/
structure Bank where
  ie : Bool
  pie : Bool
  ppriv : Bool
  utb : Bool
  fpen : Bool
  vbase : Word
  epc : Word
  cause : Reg32
  addr : Word
  scratch : Word
  deriving DecidableEq, Repr

/-- A translation held in a TLB (R291, R292): tag, page and leaf, with where the leaf was read (R289). -/
structure TlbEntry where
  /-- the ASID, or none where the entry is global -/
  asid : Option (BitVec 16)
  /-- VA bits [47:0] of the page's first byte -/
  va : Nat
  /-- 12, 21 or 30 -/
  sizeLog2 : Nat
  leaf : Word
  /-- the physical address of the leaf, where A and D are set -/
  leafAt : Nat
  deriving DecidableEq, Repr

/-- A table entry held in the walk cache (R291). -/
structure WalkEntry where
  asid : Option (BitVec 16)
  /-- the level of the table entry, 1 to 3 -/
  lvl : Nat
  /-- the VA bits [47:0] it covers, shifted down to the level -/
  vaTop : Nat
  pte : Word
  deriving DecidableEq, Repr

/-- An entry of the store buffer (R208, R330), or a mark in it (R329). -/
inductive SbItem where
  /-- a store: its bytes by physical address, its type, the level that issued it, and VA[12:6] by which the L1D is
  indexed (11 R340) -/
  | store (cells : List Host.Cell) (mt : MemType) (lvl : Level) (vi : Nat)
  /-- later stores wait for the earlier ones; where `all` is set, later loads do too (R324, R334) -/
  | mark (all : Bool)
  deriving DecidableEq, Repr

/-- Where the data of a load goes. -/
inductive LoadDst where
  /-- a general register, extended from the size in bytes -/
  | g (r : BitVec 5) (unsigned : Bool)
  /-- an FP register, zero above the size -/
  | f (r : BitVec 5)
  deriving DecidableEq, Repr

/-- A DEVICE request issued and not yet answered to the core (R318, R320). -/
structure DevReq where
  tid : Nat
  pa : Nat
  size : Nat
  write : Bool
  data : Nat
  /-- the memory type of the access (09 R288) -/
  mt : MemType
  /-- the level that issued it -/
  lvl : Level
  /-- when it was issued -/
  since : Nat
  /-- it has left through a root-port window and its completion is awaited -/
  sent : Bool
  /-- the target's answer, once it has given one: a status (R16) and the data read -/
  answer : Option (Status × Nat)
  /-- a reset has taken the core from it: it is performed or refused in the interconnect, and its response is discarded
  (R335) -/
  quiet : Bool
  deriving DecidableEq, Repr

/-- What a blocked QREAD or QWAIT waits for (R93 to R101). -/
structure QWait where
  gd : BitVec 5
  /-- the QA named by QREAD -/
  qa : Nat
  /-- the queues waited on, in the order of the mask; one for QREAD -/
  queues : List Nat
  /-- the member number of each queue, for QWAIT -/
  members : List Nat
  isWait : Bool
  group : Nat
  slot : Nat
  /-- the 60 lines of the spill buffer; none listed where there is none -/
  spill : List Nat
  /-- the wait limit in ns; none where there is none -/
  limit : Option Nat
  since : Nat
  deriving DecidableEq, Repr

/-- Why a core that is in RUN does not take its next instruction. -/
inductive Wait where
  | none
  /-- gated by WAITI (R243) -/
  | waiti
  /-- blocked in QREAD or QWAIT (R93) -/
  | queue (q : QWait)
  /-- a QCTL FLUSH waits for its completion (R104) -/
  | flush (gd : BitVec 5) (queue : Nat)
  /-- a post has been accepted and has not committed (R88) -/
  | post (gd : BitVec 5) (own : Nat)
  /-- a remote post waits for credit or for the port (15 R490) -/
  | remote
  /-- a DEVICE load waits for its answer (R318) -/
  | load (tid : Nat) (dst : LoadDst)
  /-- the engine has answered a core that stopped before its instruction could retire: the result of SAFE entry (R95, R520) -/
  | answered (gd : BitVec 5) (x : Word)
  deriving DecidableEq, Repr

/-- The branch predictor of R197. The hash functions of the tagged tables and the set index of the target buffer are not
given (log entry 12). -/
structure Predictor where
  /-- base table: index to 2-bit counter; an unlisted counter is weakly not-taken (0b01) -/
  base : List (Nat × Nat)
  /-- tagged tables T1 to T4: table × 2048 + index, to the 10-bit tag and the 3-bit counter -/
  tagged : List (Nat × Option (Nat × Nat))
  /-- target buffer: set to its 8 ways, newest first: branch address, target and kind (0 conditional, 1 jump, 2 call, 3
  return, 4 indirect) -/
  target : List (Nat × List (Nat × Nat × Nat))
  /-- return stack, newest first, at most 32 -/
  stack : List Word
  history : BitVec 160
  deriving DecidableEq, Repr

/-- The PMU registers of R591 and the edge state of R587. -/
structure Pmu where
  ctl : Reg32
  ovf : Reg32
  route : Reg32
  fix0 : Word
  fix1 : Word
  cnt : List (Nat × Word)
  evsel : List (Nat × Reg32)
  /-- counters whose event held in the previous counted cycle -/
  prev : List (Nat × Bool)
  deriving DecidableEq, Repr

/-- The architectural state of one LCN and what its spindle holds for it. -/
structure Core where
  /-- false: held in CORE reset (R31, R561) -/
  released : Bool
  level : Level
  pc : Word
  g : List (Nat × Word)
  v : List (Nat × VWord)
  m : List (Nat × BitVec 128)
  kb : Bank
  sbank : Bank
  pend : BitVec 256
  en : BitVec 256
  sec : BitVec 256
  actN : BitVec 16
  actS : BitVec 16
  threshN : BitVec 4
  threshS : BitVec 4
  timerCmp : Word
  timerEn : Bool
  sTimerCmp : Word
  sTimerEn : Bool
  bp : List (Nat × Word)
  wp : List (Nat × Word)
  tctl : Bool
  segtb : Word
  ste : Bool
  pctlRm : BitVec 3
  pctlEn : Bool
  pctlVd : Bool
  psat : BitVec 8
  fpRm : BitVec 3
  fpFlags : BitVec 5
  aberr : Word
  pbar : List (Nat × Word)
  pmu : Pmu
  /-- the L1 ITLB, 64 entries, newest first (R291) -/
  itlb : List TlbEntry
  /-- the L1 DTLB, 96 entries, newest first -/
  dtlb : List TlbEntry
  /-- the L2 TLB: 256 sets of 12 ways, newest first -/
  l2tlb : List (Nat × List TlbEntry)
  walk : List WalkEntry
  /-- segment look-aside: segment to the two words of its descriptor -/
  sla : List (Nat × Option (Word × Word))
  /-- STLB: index to its two words -/
  stlb : List (Nat × (Word × Word))
  /-- the STLB as fetch uses it: its contents at the last ISYNC or what acts like one (R302, 06 R213) -/
  stlbF : List (Nat × (Word × Word))
  sb : List SbItem
  /-- lines that hold a store of the core made under a pending grant: not yet globally performed (11 R355) -/
  pendSt : List Nat
  devOut : List DevReq
  nextTid : Nat
  wait : Wait
  /-- the instruction at the pc is a barrier or another that waits for a drain, which an interrupt does not abandon
  (10 R331) -/
  draining : Bool
  /-- halted by DBG_HALT (R574) -/
  halted : Bool
  /-- a DBG_STEP lets one instruction of the halted core retire (R574) -/
  stepArmed : Bool
  pred : Predictor
  /-- the dependence table of R210: addresses of loads, newest first, at most 256 -/
  depTable : List Word
  /-- the contention predictor of R359: index to counter; an unlisted counter is at its reset value 1 -/
  contention : List (Nat × Nat)
  /-- the landing area: offset to byte (R36) -/
  landing : List (Nat × Byte)
  deriving DecidableEq, Repr

/-- A bank at reset, R257. -/
def Bank.reset : Bank := ⟨false, false, false, false, false, 0#64, 0#64, 0#32, 0#64, 0#64⟩

/-- The predictor emptied, R199. -/
def Predictor.empty : Predictor := ⟨[], [], [], [], 0#160⟩

/-- The PMU at reset, R590. -/
def Pmu.reset : Pmu := ⟨0#32, 0#32, 0#32, 0#64, 0#64, [], [], []⟩

/-- The secure bits of the local vectors 0xFD, 0xFC and 0xF9, R266. -/
def secLocal : BitVec 256 := (1#256 <<< 0xFD) ||| (1#256 <<< 0xFC) ||| (1#256 <<< 0xF9)

/-- A core in CORE reset: every register at its Reset value; the general registers, the pc and the landing area at
zero, for which the spec gives no value (DESIGN CHOICE, log entry 2). -/
def Core.reset : Core where
  released := false
  level := .k
  pc := 0#64
  g := []
  v := []
  m := []
  kb := Bank.reset
  sbank := Bank.reset
  pend := 0#256
  en := 0#256
  sec := secLocal
  actN := 0#16
  actS := 0#16
  threshN := 0#4
  threshS := 0#4
  timerCmp := 0xFFFFFFFFFFFFFFFF#64
  timerEn := false
  sTimerCmp := 0xFFFFFFFFFFFFFFFF#64
  sTimerEn := false
  bp := []
  wp := []
  tctl := false
  segtb := 0#64
  ste := false
  pctlRm := 0#3
  pctlEn := false
  pctlVd := false
  psat := 0#8
  fpRm := 1#3
  fpFlags := 0#5
  aberr := 0#64
  pbar := []
  pmu := Pmu.reset
  itlb := []
  dtlb := []
  l2tlb := []
  walk := []
  sla := []
  stlb := []
  stlbF := []
  sb := []
  pendSt := []
  devOut := []
  nextTid := 0
  wait := .none
  draining := false
  halted := false
  stepArmed := false
  pred := Predictor.empty
  depTable := []
  contention := []
  landing := []

/-! ### Memory, caches and directories (chapters 01, 10, 11, 13) -/

/-- What the DRAM array still holds of a line whose newest bytes lie in a cache (R347, R349, R368). -/
structure StaleLine where
  /-- the agent of R352 that holds the line in M; 22 where the home cache holds it dirty -/
  owner : Nat
  /-- the spindle that holds it in M within its die, if any -/
  spindle : Option Nat
  /-- the 64 bytes of DRAM -/
  old : List Byte
  oldPoison : Bool
  deriving DecidableEq, Repr

/-- DRAM as every coherent observer reads it (R33, R313), with poison per line (R366). -/
structure Mem where
  /-- ranks filled with the poison code after PARTIAL (13 R426): channel × 4 + rank. In such a rank `poison` lists the
  lines that are not poisoned -/
  lostRanks : List (Nat × Bool)
  /-- populated capacity in GiB, found at DRAM training (R402) -/
  capGiB : Nat
  /-- the coherent value of every byte; an unlisted byte reads 0 -/
  bytes : List Host.Cell
  /-- lines (PA / 64) whose poison differs from that of their rank, which is none but in a rank lost -/
  poison : List (Nat × Bool)
  /-- lines whose DRAM copy is older than the coherent value -/
  stale : List (Nat × Option StaleLine)
  deriving DecidableEq, Repr

/-- The directory states of R352. -/
inductive DirState where
  | i | s | m | never
  deriving DecidableEq, Repr

/-- A hub directory entry, R352: its state and its 22 holder bits. -/
structure DirEntry where
  st : DirState
  holders : BitVec 22
  deriving DecidableEq, Repr

/-- What a request asks a home agent for (R353, R358). -/
inductive HomeReq where
  | getS
  | getM
  | full (data : List Byte)
  | atom (op : AtomOp)
  | rdnc
  | wrnc (mask : BitVec 64) (data : List Byte)
  deriving DecidableEq, Repr

/-- A home agent's work on one line: the request in progress and the requests that wait in order (R354). -/
structure HomeTxn where
  agent : Nat
  req : HomeReq
  /-- the owner recalled, while its answer is awaited -/
  recallOf : Option Nat
  /-- holders whose acknowledgement is awaited -/
  acks : BitVec 22
  /-- whether the requester already has its grant (pending) -/
  granted : Bool
  /-- false while the request waits at the home for a rebuild (R357) or at a channel's port (12 R387) -/
  started : Bool
  waiting : List (Nat × HomeReq)
  deriving DecidableEq, Repr

/-- The kinds of coherence packet in flight between a home and an agent (R353 to R355). -/
inductive CohKind where
  | inv | recallS | recallI | recallD | ack | rdata | already | data | grantPending | grantDone | done
  deriving DecidableEq, Repr

/-- A node of the networks: a site and a stop (12 R372, R373). -/
structure Node where
  site : Nat
  stop : Nat
  deriving DecidableEq, Repr

/-- A coherence packet in flight (12 R372): its kind, the agent of R352 at its other end, its line and data; its nodes, the
skein it is charged to (12 R380), and how many links of its path it has passed (12 R376). -/
structure CohMsg where
  kind : CohKind
  agent : Nat
  line : Nat
  data : List Byte
  src : Node
  dst : Node
  skein : Nat
  hop : Nat
  deriving DecidableEq, Repr

/-- An L3 tag, R351. PSN is the poison of the line, which `Mem` holds for every copy at once (R366). -/
structure L3Tag where
  /-- the die's state at the hub is M (else S) -/
  dieM : Bool
  pend : Bool
  pres : BitVec 28
  cm : Bool
  reuse : Bool
  deriving DecidableEq, Repr

/-- A line of an L2: whether it is held in M (else S). -/
structure L2Line where
  m : Bool
  deriving DecidableEq, Repr

/-- One set of a cache: which line each way holds, and the tree pseudo-LRU bits (R344). -/
structure CSet where
  ways : List (Nat × Nat)
  plru : Nat
  deriving DecidableEq, Repr

/-- A line of the home cache. -/
structure HcLine where
  dirty : Bool
  deriving DecidableEq, Repr

/-- A way power-down unit: the L3 unit of a die, or the home-cache unit (R361, R369). -/
structure WayUnit where
  cleaning : Bool
  way : Nat
  /-- the slice to be cleaned next (R362) -/
  next : Nat
  deriving DecidableEq, Repr

/-- Every cache, the hub directory, and the packets in flight (chapter 11). -/
structure Coh where
  /-- the directory backing store (R352) -/
  dir : List (Nat × DirEntry)
  /-- entries changed in a directory cache and not yet written back (R357) -/
  dirNew : List (Nat × Option DirEntry)
  /-- the directory caches: hub slice × 1024 + set, to the sectors held (R357) -/
  dcsets : List (Nat × CSet)
  /-- poisoned directory lines, by line / 21 (R357) -/
  dirPoison : List (Nat × Bool)
  /-- the state in which a hub agent holds a line: agent × 2^46 + line (R356) -/
  hubHeld : List (Nat × DirState)
  txn : List (Nat × Option HomeTxn)
  flight : List CohMsg
  /-- key: die × 2^46 + line -/
  l3 : List (Nat × Option L3Tag)
  /-- key: (die × 28 + slice) × 4096 + set -/
  l3sets : List (Nat × CSet)
  /-- key: spindle × 2^46 + line -/
  l2 : List (Nat × Option L2Line)
  /-- key: spindle × 2048 + set -/
  l2sets : List (Nat × CSet)
  /-- key: spindle × 128 + VA[12:6] (R340) -/
  l1dsets : List (Nat × CSet)
  l1isets : List (Nat × CSet)
  /-- per spindle: lines its own stores changed while an L1I copy exists, at most 32 (R346) -/
  l1iChanged : List (Nat × List Nat)
  l1iOverflow : List (Nat × Bool)
  /-- line to its home-cache copy -/
  hc : List (Nat × Option HcLine)
  /-- key: slice × 6144 + set -/
  hcsets : List (Nat × CSet)
  /-- units 0 to 15: the L3 of a die; 16: the home cache -/
  wayUnits : List (Nat × WayUnit)
  /-- dead spindles (R364) -/
  deadSpindles : List (Nat × Bool)
  /-- lines whose directory line is being rebuilt (R357) -/
  rebuild : List Nat
  /-- atomics and stores that a home has performed on a line: line to each agent with its last time, cores from 0, agents of
  R352 from 0x1000 (R359 HOT) -/
  lastFar : List (Nat × List (Nat × Nat))
  /-- L3 ways retired: (die × 28 + slice) × 16 + way, the spare as way 12 (R502) -/
  l3Retired : List (Nat × Bool)
  /-- the retired way for which a slice's spare stands in: die × 28 + slice (R344) -/
  l3Spare : List (Nat × Option Nat)
  /-- home-cache ways retired: slice × 16 + way -/
  hcRetired : List (Nat × Bool)
  /-- directory-cache ways retired: slice × 16 + way (16 R502) -/
  dirRetired : List (Nat × Bool)
  /-- ranks whose directory entries stand at 0b11 by the fill of 13 R426: channel × 4 + rank -/
  never : List (Nat × Bool)
  deriving DecidableEq, Repr

/-- Caches and directories after a COLD or PACKAGE reset: every cache empty, every entry I (R368). -/
def Coh.reset : Coh where
  dir := []
  dirNew := []
  dcsets := []
  dirPoison := []
  hubHeld := []
  txn := []
  flight := []
  l3 := []
  l3sets := []
  l2 := []
  l2sets := []
  l1dsets := []
  l1isets := []
  l1iChanged := []
  l1iOverflow := []
  hc := []
  hcsets := []
  wayUnits := []
  deadSpindles := []
  rebuild := []
  lastFar := []
  l3Retired := []
  l3Spare := []
  hcRetired := []
  dirRetired := []
  never := []

/-- Memory at power-on: no byte listed (log entry 3), capacity not yet found. -/
def Mem.reset : Mem := ⟨[], 0, [], [], []⟩

/-! ### The image (chapter 02) -/

/-- A SITE entry, R43. -/
structure SiteEntry where
  site : Nat
  orient : Nat
  flags : Nat
  dieType : Nat
  minStep : Nat
  serial : Nat
  deriving DecidableEq, Repr

/-- The tuning block of a skein entry, R48. -/
structure Tune where
  vc0 : Nat
  vc1 : Nat
  vc2 : Nat
  bqShare : Nat
  svcClass : Nat
  vfQueues : Nat
  vfMsix : Nat
  vfDma : Nat
  deriving DecidableEq, Repr

/-- A skein entry, R47. -/
structure SkeinCfg where
  skein : Nat
  secure : Bool
  ndog : Bool
  ranges : Nat
  lcnMask : Nat
  /-- (base, length) in GiB of the 8 range slots -/
  mem : List (Nat × Nat)
  l3Ways : List Nat
  hcWays : Nat
  hcQways : Nat
  ddrOwn : Nat
  ddrPool : Nat
  qFirst : Nat
  qCount : Nat
  qmemBase : Nat
  qmemLen : Nat
  msix : Nat
  bundles : Nat
  hankPorts : Nat
  vfCount : List Nat
  tune : Tune
  deriving DecidableEq, Repr

/-- A PIN entry, R49. -/
structure PinEntry where
  pin : Nat
  function : Nat
  owner : Nat
  deriving DecidableEq, Repr

/-- A POWER entry, R50. -/
structure PowerEntry where
  domain : Nat
  allowed : Nat
  limit : Nat
  deriving DecidableEq, Repr

/-- A ROLE entry, R53. -/
structure RoleEntry where
  role : Nat
  index : Nat
  rights : Nat
  deriving DecidableEq, Repr

/-- A Hank port entry, R54. -/
structure HankPortEntry where
  role : Nat
  alt : Nat
  deriving DecidableEq, Repr

/-- An image, decoded section by section (R40 to R54). -/
structure Image where
  partId : Nat
  fmtVer : Nat
  imgVer : Nat
  flags : Nat
  minFw : Nat
  sites : List SiteEntry
  spareFlags : Nat
  spareNotify : Nat
  sparePriority : List Nat
  coreMap : List Nat
  bundleMode : List Nat
  skeins : List SkeinCfg
  pins : List PinEntry
  power : List PowerEntry
  secMark : Nat
  swdogMs : Nat
  dbgBytes : List Nat
  /-- (site, block) of each secure-use block -/
  secBlk : List (Nat × Nat)
  roles : List RoleEntry
  sysnum : Nat
  ethertype : Nat
  macBase : Nat
  hankPorts : List HankPortEntry
  deriving DecidableEq, Repr

/-- A delta in the journal of a copy (R66): its bytes, SEQ, issuer and credential index. -/
structure JournalEntry where
  bytes : List Byte
  seq : Nat
  issuer : Nat
  index : Nat
  deriving DecidableEq, Repr

/-- The states of a copy record, R61. -/
inductive CopyState where
  | empty | new | good | bad
  deriving DecidableEq, Repr

/-- An image copy in boot flash with its record (R61, R66). -/
structure ImgCopy where
  bytes : List Byte
  seq : Nat
  st : CopyState
  launch : Bool
  journal : List JournalEntry
  deriving DecidableEq, Repr

/-- The states of the image unit, R68. -/
inductive ImgUnitState where
  | none | verifying | committed | staging | delta | safe
  deriving DecidableEq, Repr

/-- A delta accepted and not yet switched (R65). -/
structure PendingDelta where
  bytes : List Byte
  seq : Nat
  issuer : Nat
  index : Nat
  vol : Bool
  committed : Bool
  /-- the running sections with the operations applied -/
  after : List Byte
  caller : Caller
  /-- its caller has had an answer -/
  answered : Bool
  deriving DecidableEq, Repr

/-- An IMG_CHECK or IMG_STAGE in progress: who asked, its code and the result its checks gave, and for a stage that passed
them the copy being written, with what its record will name (02 R68, R70). -/
structure ImgJob where
  caller : Caller
  code : Nat
  st : Status
  copy : Option (Bool × ImgCopy)
  deriving DecidableEq, Repr

/-- The image unit and the running image. -/
structure ImgState where
  unit : ImgUnitState
  copyA : ImgCopy
  copyB : ImgCopy
  /-- the copy in force: false A, true B -/
  active : Bool
  /-- the running image's bytes, deltas applied, and what they decode to -/
  raw : List Byte
  img : Option Image
  lock : Bool
  deltaSeq : Nat
  pending : Option PendingDelta
  job : Option ImgJob
  deriving DecidableEq, Repr

/-- An empty copy. -/
def ImgCopy.empty : ImgCopy := ⟨[], 0, .empty, false, []⟩

/-- The image unit at a COLD reset, before Distaff chooses a copy; both copies empty (what the boot flash holds is the
board's; DESIGN CHOICE, log entry 8). -/
def ImgState.reset : ImgState := ⟨.none, .empty, .empty, false, [], none, false, 0, none, none⟩

/-! ### Power domains (chapter 17) -/

/-- The states of a domain, R526 and R537. -/
inductive DomState where
  | run | idle | sleep | retain | off | lost
  deriving DecidableEq, Repr

/-- A power domain: its state, and the transition in progress. -/
structure Domain where
  st : DomState
  transit : Bool
  target : DomState
  /-- when the transition began -/
  since : Nat
  /-- a wake event came during entry (R534) -/
  wake : Bool
  /-- the LCN whose request it was -/
  by_ : Option Nat
  deriving DecidableEq, Repr

/-- The states of a boundary port, R386. -/
inductive PortSt where
  | opened | fencing | fenced | off | waking
  deriving DecidableEq, Repr

/-- A vector on its way to an LCN, with the skein whose drop counter counts it (R266, R267). -/
structure VecMsg where
  lcn : Nat
  vector : Nat
  secure : Bool
  skein : Nat
  deriving DecidableEq, Repr

/-- An access of a hub agent: the agent of 11 R352 (17 root-port DMA, 20 Distaff), the bundle and requester, the physical
address, and for a write its data and whether the data is poisoned. -/
structure HubAccess where
  agent : Nat
  bd : Nat
  rid : Nat
  pa : Nat
  write : Bool
  len : Nat
  data : List Byte
  ep : Bool
  /-- Relaxed Ordering (14 R438) -/
  relaxed : Bool
  /-- the memory type it was translated to -/
  mt : MemType
  /-- its bus address while it is not translated -/
  bus : Option Word
  /-- the leaf PTE it was translated through -/
  leaf : Nat
  /-- an invalidation of the IOTU waits for it (09 R306) -/
  inv : Bool
  deriving DecidableEq, Repr

/-- A request held at a boundary port (R387): a vector, an access of a core whose instruction at `pc` waits for the line at
`pa`, a DEVICE request of a core, or an access of a hub agent. -/
inductive HeldReq where
  | vec (m : VecMsg)
  | core (l : Nat) (pc : Word) (pa : Nat)
  | dev (l tid : Nat)
  | hub (x : HubAccess)
  deriving DecidableEq, Repr

/-- A boundary port: its state and the requests it holds with their times of arrival, in order (R386, R387). -/
structure BPort where
  st : PortSt
  held : List (Nat × HeldReq)
  deriving DecidableEq, Repr

/-! ### Trace (chapter 20) -/

/-- The trace controller of R605 to R607 beyond its registers. -/
structure Trace where
  /-- bytes in the trace buffer, oldest first -/
  buf : List Byte
  /-- records discarded in the present gap; none while records are taken -/
  gap : Option Nat
  /-- the last address sent -/
  last : Nat
  /-- whether the traced LCN is at a barred level -/
  barred : Bool
  /-- retired instructions since the last synchronisation packet -/
  since : Nat
  /-- the next byte goes to the odd lane -/
  odd : Bool
  deriving DecidableEq, Repr

/-- The trace controller at reset. -/
def Trace.reset : Trace := ⟨[], none, 0, false, 0, false⟩

/-- A boundary port at reset. -/
def BPort.reset : BPort := ⟨.opened, []⟩

/-! ### Watchdogs (chapter 08) -/

/-- The watchdogs of a skein (08 R272, R273). -/
structure Wdog where
  /-- when the secure countdown reaches zero; none where it does not run -/
  sDeadline : Option Nat
  period : BitVec 16
  en : Bool
  warned : Bool
  target : BitVec 9
  /-- the period in force since the last service, in ms -/
  inForce : Nat
  /-- when the present period ends -/
  nDeadline : Nat
  deriving DecidableEq, Repr

/-- Watchdogs at reset: not running. -/
def Wdog.reset : Wdog := ⟨none, 0#16, false, false, 0#9, 0, 0⟩

/-! ### Bobbin (chapters 03, 04) -/

/-- The state of a run of ring cells (03 R75, R104): in use, discarded by a flush whose own writes run, or free. -/
inductive CellSt where
  | held | dying | free
  deriving DecidableEq, Repr

/-- Consecutive ring cells of one owner, in the order of allocation from RECL to WR. -/
structure QRun where
  own : Nat
  n : Nat
  st : CellSt
  deriving DecidableEq, Repr

/-- A committed item (03 R77). -/
structure QItem where
  own : Nat
  /-- its first ring cell and how many it takes -/
  cell : Nat
  n : Nat
  len : Nat
  prio : Nat
  remote : Bool
  dma : Bool
  tag : Nat
  seq : Nat
  /-- the tick of commit, not reduced; STAMP is its low 32 bits; the payload stands in the cells (04 R149) -/
  tick : Nat
  deriving DecidableEq, Repr

/-- Who posts (04 R124). -/
inductive Poster where
  | core (l : Nat) (gd : BitVec 5)
  /-- a DMA channel and the send-ring index of the descriptor -/
  | chan (key index : Nat)
  /-- an origin: its skein, its system number, the grant and cell offset of the ITEM message, and SEQ of its frame -/
  | hank (skein sys grant off seq : Nat)
  /-- the engine itself: a refusal record of a skein (15 R495) -/
  | engine (skein : Nat)
  /-- a requester of a skein that a reset has taken: no one receives the result -/
  | gone (skein : Nat)
  deriving DecidableEq, Repr

/-- A post in progress: its cells are allocated and it has not committed. -/
structure QPost where
  own : Nat
  q : Nat
  cell : Nat
  n : Nat
  len : Nat
  prio : Nat
  tag : Nat
  poster : Poster
  payload : List Byte
  deriving DecidableEq, Repr

/-- A registered waiter (03 R93, 04 R138). -/
inductive QWaiter where
  | core (l : Nat)
  | drain (key : Nat)
  deriving DecidableEq, Repr

/-- A queue context (03 R113). The chain heads and tails are those of `items`, the committed items in commit order;
the link array is implied by it. -/
structure QCtx where
  en : Bool
  flush : Bool
  /-- the flush point has been reached (03 R103) -/
  flushed : Bool
  dead : Bool
  ageEn : Bool
  ringLog2 : Nat
  ringBase : Nat
  seq : Nat
  ageLimit : Nat
  waitLimit : Nat
  pSkeins : BitVec 16
  cSkeins : BitVec 16
  pVf : BitVec 16
  cVf : BitVec 16
  pHank : BitVec 16
  cLcn : BitVec 16
  wr : Nat
  recl : Nat
  items : List QItem
  runs : List QRun
  /-- waiters in order of registration -/
  waiters : List QWaiter
  deriving DecidableEq, Repr

/-- A group entry (03 R98): its 64 MEMBER words, its limit and its rotation pointer. -/
structure QGroup where
  members : List Nat
  limit : Nat
  rot : Nat
  deriving DecidableEq, Repr

/-- A grant block at its destination (04 R142, 15 R480). -/
structure Grant where
  gen : Nat
  sys : Nat
  skein : Nat
  q : Nat
  own : Nat
  /-- the ring cell of its first cell -/
  cell : Nat
  n : Nat
  /-- the first cell of the block that no item has filled -/
  next : Nat
  deriving DecidableEq, Repr

/-- A credit request recorded at the destination, one per origin and queue (04 R142). -/
structure GrantReq where
  sys : Nat
  skein : Nat
  q : Nat
  qa : Nat
  n : Nat
  deriving DecidableEq, Repr

/-- A grant block at its origin: an entry of the remote credit table (04 R143). -/
structure CreditBlock where
  skein : Nat
  qa : Nat
  grant : Nat
  n : Nat
  next : Nat
  lastUse : Nat
  deriving DecidableEq, Repr

/-- A credit request of the origin: in flight, or to be repeated after BUSY (04 R142). -/
structure CreditReq where
  skein : Nat
  qa : Nat
  n : Nat
  busy : Bool
  deriving DecidableEq, Repr

/-- A remote post that waits at its origin (15 R490). -/
structure RemotePost where
  l : Nat
  gd : BitVec 5
  qa : Nat
  len : Nat
  prio : Nat
  payload : List Byte
  since : Nat
  deriving DecidableEq, Repr

/-- The Bobbin engine beyond its registers. -/
structure Bq where
  /-- queue number to context -/
  ctx : List (Nat × QCtx)
  /-- skein × 4096 + index to group entry -/
  groups : List (Nat × Option QGroup)
  posts : List QPost
  nextOwn : Nat
  /-- the context cache: place to queue number, and its tree bits (03 R114) -/
  cache : CSet
  /-- sixteenths of the context cache that are retired (16 R502) -/
  ctxRetired : List Nat
  grants : List (Nat × Option Grant)
  grantGen : List (Nat × Nat)
  grantReqs : List GrantReq
  credits : List CreditBlock
  creditReqs : List CreditReq
  remote : List RemotePost
  deriving DecidableEq, Repr

/-- A queue context after a reset (03 R109). -/
def QCtx.reset : QCtx :=
  ⟨false, false, false, false, false, 0, 0, 0, 0, 0, 0#16, 0#16, 0#16, 0#16, 0#16, 0#16, 0, 0, [], [], []⟩

/-- The engine after a COLD reset. -/
def Bq.reset : Bq := ⟨[], [], [], 1, ⟨[], 0⟩, [], [], [], [], [], [], []⟩

/-! ### Host attach (chapters 04, 14) -/

/-- A write that a function issues to the host. -/
structure HostWrite where
  addr : Nat
  data : List Byte
  /-- relaxed ordering (04 R136) -/
  relaxed : Bool
  /-- not logged under 14 R463: an MSI-X message, or a write of the log itself -/
  plain : Bool
  /-- the 64-bit word at `addr` is read, the bits of `data` are ORed in, and it is written back (14 R463) -/
  orIn : Bool
  deriving DecidableEq, Repr

/-- What leaves the part (log entry 7). -/
inductive Out where
  /-- a memory write of a function: bundle, function -/
  | hostWrite (bd fn : Nat) (w : HostWrite)
  /-- a memory read of a function -/
  | hostRead (bd fn : Nat) (addr n : Nat)
  /-- a PCIe message: 0 PM_PME -/
  | pcieMsg (bd code : Nat)
  /-- an answer to an inbound request of a root port: 0 completed, 1 Unsupported Request, 2 data with EP set -/
  | rpAnswer (bd rid code : Nat) (data : List Byte)
  /-- a request through a root-port window: bus address, or configuration type 0 or 1 -/
  | rpRequest (bd : Nat) (kind addr size : Nat) (write : Bool) (data : Nat)
  /-- an Ethernet frame of a Hank port -/
  | frame (port : Nat) (dst src : BitVec 48) (payload : List Byte)
  /-- local fault ordered sets begin on a port, or its transmitters go off -/
  | localFault (port : Nat)
  | txOff (port : Nat)
  /-- the answer to a command of a role: status and data -/
  | answer (who : Caller) (st : Status) (data : List Byte)
  /-- an in-band interrupt of an MCTP endpoint with its mandatory byte (18 R579) -/
  | ibi (eid byte : Nat)
  /-- bytes at the trace port -/
  | traceBytes (b : List Byte)
  /-- the value that a read of a register or a configuration word returns to its requester, with its status -/
  | readValue (q : Requester) (ra : RegAddr) (st : Status) (v : Reg32)
  /-- the answer to a window access of Distaff (18 R555) -/
  | window (pa : Nat) (st : Status) (data : List Byte)
  /-- a PMBus transaction: regulator address, command, value (17 R549) -/
  | pmbus (addr cmd value : Nat)
  /-- an alert on Almanac: budget kind, percentage (16 R504) -/
  | alert (kind pct : Nat)
  /-- a pulse on a timing output -/
  | pulse (unit : Nat) (level : Bool)
  /-- a completion with a status that a home sends instead of data or a grant: CMPL to an agent of R352 (12 R372, R397) -/
  | refused (agent line : Nat) (st : Status)
  deriving DecidableEq, Repr

/-- The stages of a descriptor (04 R131 to R135). -/
inductive DescStage where
  /-- its own read is outstanding -/
  | fetch
  /-- its payload read is outstanding, or waits to be issued -/
  | payload
  /-- ready to be posted -/
  | ready
  /-- at the engine: the post's own number -/
  | posted (own : Nat)
  /-- refused with FULL; retried -/
  | full
  /-- completed with a status; its record is not yet due -/
  | done (st : Status)
  /-- given up when its channel entered ERROR: it stands in the ring and is worked on no more (04 R140) -/
  | dropped
  deriving DecidableEq, Repr

/-- A descriptor being worked on (04 R130). -/
structure Desc where
  /-- its send-ring position, counted without wrap -/
  pos : Nat
  stage : DescStage
  /-- the read of its present stage has been issued -/
  issued : Bool
  /-- when that read was issued -/
  at_ : Nat
  len : Nat
  prio : Nat
  cmplOk : Bool
  qa : Nat
  addr : Nat
  cookie : Nat
  payload : List Byte
  /-- when the first FULL came (04 R133) -/
  fullSince : Nat
  deriving DecidableEq, Repr

/-- A DMA channel beyond its registers: the values latched at ENABLE, its ring positions counted without wrap, and
its work (04 R125 to R140). -/
structure Chan where
  sqBase : Nat
  cqBase : Nat
  rxBase : Nat
  rings : Reg32
  drainQa : Nat
  drainEn : Bool
  sqTail : Nat
  sqFetch : Nat
  sqHead : Nat
  rxHead : Nat
  rxTail : Nat
  cqHead : Nat
  cqNext : Nat
  armed : Bool
  descs : List Desc
  /-- doorbells recorded while the channel does not act on them: tail, receive head, completion head -/
  recSq : Option Nat
  recRx : Option Nat
  recCq : Option Nat
  /-- a CHANNEL record that waits for a free completion entry: its status (04 R135, R140) -/
  owed : Option Status
  deriving DecidableEq, Repr

/-- A channel with nothing latched. -/
def Chan.reset : Chan := ⟨0, 0, 0, 0#32, 0, false, 0, 0, 0, 0, 0, 0, 0, false, [], none, none, none, none⟩

/-- An MSI-X table entry (14 R453); masked at reset. -/
structure MsixEntry where
  addr : Nat
  data : Reg32
  masked : Bool
  deriving DecidableEq, Repr

/-- The states of a VF (14 R447). -/
inductive VfState where
  | absent | empty | ready | resetting
  deriving DecidableEq, Repr

/-- A function beyond its registers. -/
structure Fn where
  bme : Bool
  msixEn : Bool
  fmask : Bool
  /-- table entries that are not at reset -/
  table : List (Nat × MsixEntry)
  pba : List (Nat × Bool)
  /-- writes held while bus mastering is off (04 R141, 14 R454) -/
  held : List HostWrite
  chans : List (Nat × Chan)
  /-- a function-level reset is in progress (14 R458) -/
  flr : Bool
  /-- the reset ends in the VF being destroyed (14 R447, R451) -/
  destroy : Bool
  vst : VfState
  nch : Nat
  nvec : Nat
  qfirst : Nat
  qcount : Nat
  slots : Nat
  /-- the 16 words of a message addressed to the device and not yet answered (14 R462) -/
  toDev : List Reg32
  deriving DecidableEq, Repr

/-- An MSI-X entry at reset. -/
def MsixEntry.reset : MsixEntry := ⟨0, 0#32, true⟩

/-- A function at reset. -/
def Fn.reset : Fn :=
  ⟨false, false, false, [], [], [], [], false, false, .absent, 0, 0, 0, 0, 0, []⟩

/-- A bundle beyond its registers (14 R434 to R457). -/
structure Bundle where
  /-- the link is in L0 -/
  l0 : Bool
  vfEnable : Bool
  numVfs : Nat
  d3hot : Bool
  pmeEn : Bool
  pmeStatus : Bool
  /-- PE_PERST_N is asserted -/
  perst : Bool
  /-- PE_WAKE_N is driven low -/
  wakeLow : Bool
  /-- Completion Timeout Value and Disable of the PF (04 R620) -/
  cto : Nat
  ctoOff : Bool
  /-- secondary and subordinate bus of a root port -/
  busSec : Nat
  busSub : Nat
  /-- the manager command in progress: OP and VF -/
  busyOp : Option (Nat × Nat)
  /-- the VF last commanded, which VFM_STATUS.VFSTATE shows -/
  lastVf : Option Nat
  /-- the bundle controller is retired (16 R502) -/
  retired : Bool
  /-- configuration words that are not at reset, by function × 4096 + offset -/
  cfg : List (Nat × Reg32)
  deriving DecidableEq, Repr

/-- A bundle at reset. -/
def Bundle.reset : Bundle := ⟨false, false, 0, false, false, false, false, false, 0, false, 0, 0, none, none, false, []⟩

/-! ### Hank (chapter 15) -/

/-- A frame sent and not yet acknowledged (15 R484). -/
structure TxFrame where
  epoch : Nat
  seq : Nat
  resync : Bool
  /-- its messages, an ITEM with the TAG of its poster -/
  msgs : List (HankMsg × Nat)
  deriving DecidableEq, Repr

/-- One direction pair of a stream as this package keeps it (15 R476, R482 to R487): what it sends and what it
expects. -/
structure Stream where
  txEpoch : Nat
  txSeq : Nat
  /-- the next frame carries RESYNC -/
  txResync : Bool
  /-- messages that wait for a frame, an ITEM with the TAG of its poster -/
  out : List (HankMsg × Nat)
  unacked : List TxFrame
  rxEpoch : Nat
  rxNext : Nat
  rxSync : Bool
  /-- the current port; none before the first choice -/
  port : Option Nat
  /-- that port stands in as the ALT of the primary -/
  onAlt : Bool
  retries : Nat
  held : Option Nat
  /-- an acknowledgement is due -/
  ackDue : Bool
  /-- source address of the latest frame received -/
  lastMac : BitVec 48
  deriving DecidableEq, Repr

/-- What a port has heard of a system (15 R473). -/
structure Heard where
  until_ : Nat
  mac : BitVec 48
  macPort : Nat
  deriving DecidableEq, Repr

/-- A peer (15 R474). -/
structure Peer where
  /-- its recorded incarnation; none where it was never heard -/
  incarn : Option (BitVec 32)
  base : BitVec 48
  lastHello : Nat
  conflictUntil : Nat
  /-- since when it is DOWN -/
  downSince : Nat
  deriving DecidableEq, Repr

/-- The Hank unit. -/
structure Hank where
  /-- (direction it sends × 16 + skein) × 2048 + system -/
  streams : List (Nat × Stream)
  /-- port × 2048 + system -/
  heard : List (Nat × Option Heard)
  peers : List (Nat × Peer)
  /-- frames kept in the replay store, in bytes -/
  replay : Nat
  /-- spare ports in use: spare to the port it stands in for -/
  subst : List (Nat × Option Nat)
  /-- ports retired (R496, 16 R501) -/
  gone : List (Nat × Bool)
  deriving DecidableEq, Repr

/-- A stream after a reset (15 R483). -/
def Stream.reset : Stream := ⟨0, 0, true, [], [], 0, 0, false, none, false, 0, none, false, 0#48⟩

/-- A peer never heard. -/
def Peer.unknown : Peer := ⟨none, 0#48, 0, 0, 0⟩

/-- The Hank unit after a reset. -/
def Hank.reset : Hank := ⟨[], [], [], 0, [], []⟩

/-! ### Records, roles and management (chapters 16, 18) -/

/-- An audit record (18 R581); CHAIN is bytes 0 to 7 of SHA-384 over the previous record. -/
structure AuditRec where
  aseq : Nat
  time : Nat
  kind : Nat
  role : Nat
  index : Nat
  transport : Nat
  skein : Nat
  status : Nat
  cmd : Nat
  chain : List Byte
  body : List Byte
  deriving DecidableEq, Repr

/-- A session (18 R569 to R572). `line` is its transport: 0 Almanac, 1 + e the MCTP endpoint e, 257 + s the mailbox of
skein s. -/
structure Session where
  id : Nat
  line : Nat
  /-- 1 installer, 2 operator -/
  role : Nat
  index : Nat
  rights : Nat
  recovery : Bool
  /-- the last SEQ used (18 R571) -/
  seq : Nat
  lastUse : Nat
  deriving DecidableEq, Repr

/-- A challenge answered by AUTH_BEGIN (18 R569). -/
structure Challenge where
  line : Nat
  role : Nat
  index : Nat
  since : Nat
  deriving DecidableEq, Repr

/-- A credential's failures and lock (18 R572): role × 256 + index, the recovery slots from 0x1000. -/
structure CredState where
  fails : Nat
  lockedUntil : Nat
  deriving DecidableEq, Repr

/-- A transfer of a session (18 R573). -/
structure Transfer where
  line : Nat
  /-- 0 image, 1 delta, 2 firmware -/
  kind : Nat
  length : Nat
  bytes : List (Nat × Byte)
  deriving DecidableEq, Repr

/-- An installer slot of the fuses (18 R556). -/
structure FuseSlot where
  written : Bool
  hash : List Byte
  secret : List Byte
  revoked : Bool
  deriving DecidableEq, Repr

/-- A firmware copy (18 R557, R558). -/
structure FwCopy where
  valid : Bool
  version : Nat
  length : Nat
  bytes : List (Nat × Byte)
  deriving DecidableEq, Repr

/-- A TKA-32 core of Distaff (07 R247, 18 R555): 32-bit registers, its pc, its one exception bank laid out as the K bank of
08 R257, and whether it waits in WAITI. -/
structure Tka where
  g : List (Nat × BitVec 32)
  pc : BitVec 32
  bank : Bank
  waiting : Bool
  deriving DecidableEq, Repr

/-- A TKA-32 core at its entry in the boot ROM. -/
def Tka.reset : Tka := ⟨[], 0#32, Bank.reset, false⟩

/-- Distaff: fuses, flash, sessions, the audit log and its load (chapter 18). -/
structure Distaff where
  /-- fused serial of each die, by site; that of the hub, site 0x10, is the package SERIAL (02 R622) -/
  dieSerial : List (Nat × Nat)
  /-- version of the firmware that runs; none while the ROM runs -/
  fwRun : Option Nat
  slots : List (Nat × FuseSlot)
  fwFloor : Nat
  imgFloor : Nat
  /-- firmware copies F0 and F1 -/
  fw : List (Nat × FwCopy)
  /-- skein loaders in boot flash: body and whether header, mask and signature verify (18 R560) -/
  loaders : List (Nat × (List Byte × Bool))
  aseq : Nat
  /-- records in the SRAM ring, not yet in flash, oldest first -/
  ring : List AuditRec
  flash : List AuditRec
  /-- the bytes of the last record -/
  lastRec : List Byte
  /-- events that wait for the board controller; none where the event has no record -/
  events : List (Option AuditRec)
  sessions : List Session
  nextSession : Nat
  challenges : List Challenge
  creds : List (Nat × CredState)
  transfers : List Transfer
  baud : Nat
  /-- the dynamic address of the I3C target; none before ENTDAA -/
  i3c : Option Nat
  /-- since when the shed share has been below 50 %; none where it is not -/
  calmSince : Option Nat
  rseq : Nat
  /-- budget notices that wait while work is shed: site, kind, percentage (18 R583) -/
  notices : List (Nat × Nat × Nat)
  /-- reel state written to boot flash: spindle to the spare in its place, and the retired spindles -/
  flashReel : List (Nat × Option Nat)
  flashRetired : List (Nat × Bool)
  /-- fuses of the maker: SHA-384 of its public key, and the private key of the device (18 R556) -/
  makerHash : List Byte
  deviceKey : List Byte
  /-- the four cores: 0 and 1 the one lockstep pair, 2 and 3 the other (18 R553) -/
  tka : List (Nat × Tka)
  /-- the SRAM, by offset: what TKA-32 code has written there (18 R555) -/
  sram : List Host.Cell
  /-- the window registers: bits [51:27] of each window's base (18 R555) -/
  win : List (Nat × BitVec 25)
  deriving DecidableEq, Repr

/-- A slot never written. -/
def FuseSlot.blank : FuseSlot := ⟨false, [], [], false⟩

/-- A firmware copy that does not verify. -/
def FwCopy.blank : FwCopy := ⟨false, 0, 0, []⟩

/-- Distaff at reset; what the boot flash and the fuses hold is the board's and the maker's: blank here (log entry 8). -/
def Distaff.reset : Distaff :=
  ⟨[], none, [], 0, 0, [], [], 0, [], [], [], [], [], 1, [], [], [], 115200, none, none, 0, [], [], [], [], [], [], [], []⟩

/-! ### Power, clocks and pins beyond their registers (chapters 17, 20) -/

/-- Where a power request comes from (R531): a core, or Distaff. -/
inductive PwrFrom where
  | core (l : Nat)
  | dst
  deriving DecidableEq, Repr

/-- The power controller, the thermal hardware, the clocks and the pins. -/
structure Pwr where
  /-- requests for LCNs that are being reeled, in order, with their target (16 R507) -/
  waiting : List (PwrFrom × Nat × Nat)
  /-- the power step of a skein, or 16 the package's, is rising: its limit was exceeded and the power has not come below
  95 % of it (R540) -/
  skRise : List (Nat × Bool)
  /-- home-cache ways that step 3 has powered down (R542) -/
  hcDown : Nat
  /-- a self-request held (R533): LCN to its target -/
  selfReq : List (Nat × Option DomState)
  /-- when the thermal step of a die last changed; 16 the home-cache step -/
  dieChanged : List (Nat × Option Nat)
  /-- since when a die has stood below its step's leaving temperature; none where it does not -/
  coolSince : List (Nat × Option Nat)
  /-- power step of a skein, 16 the package's, and when it last changed -/
  skStep : List (Nat × Nat)
  skChanged : List (Nat × Option Nat)
  /-- sites whose last sample stood at 110 °C or above -/
  hot : List (Nat × Bool)
  /-- the 25 MHz reference is lost -/
  ref25Lost : Bool
  /-- package OFF: RAILOFF_N has gone low -/
  railOff : Bool
  /-- a Thaw has driven RAILOFF_N high and waits for PWROK -/
  thaw : Bool
  /-- the wake keep store: the LIVE delay values, by address -/
  keepStore : List (Nat × Reg32)
  pwrok : Bool
  faultN : Bool
  thermtripN : Bool
  /-- a guard-band step that a regulator did not acknowledge: rail domain to the step -/
  guardDue : List (Nat × Nat)
  /-- the last accepted edge of a capture unit; none since COLD reset -/
  capLast : List (Nat × Option Nat)
  /-- a pulse unit drives its pin high -/
  pulse : List (Nat × Bool)
  deriving DecidableEq, Repr

/-- Power and pins before PWROK rises: FAULT_N and THERMTRIP_N released. -/
def Pwr.reset : Pwr := ⟨[], [], 0, [], [], [], [], [], [], false, false, false, [], false, true, true, [], [], []⟩

/-! ### DRAM controllers beyond their registers (chapter 13) -/

/-- A memory controller (R402, R410 to R423). -/
structure DramCh where
  /-- rows held by sPPR, and rows deferred -/
  soft : List RowAddr
  deferred : List RowAddr
  /-- corrected errors not repaired: the row, when, and the channel-local line -/
  ce : List (RowAddr × Nat × Nat)
  /-- sPPR and hPPR resources of each bank group of each device, as the DIMM reports them -/
  softRes : Nat
  hardRes : Nat
  /-- hPPR resources used: ((rank × 2 + subchannel) × 10 + device) × 8 + bank group -/
  hardUsed : List (Nat × Nat)
  /-- references for drift: delay registers as trained -/
  ref : List (Nat × Reg32)
  /-- the next channel-local line of the scrub pass -/
  scrub : Nat
  /-- last refresh of each rank of a subchannel: subchannel × 4 + rank -/
  refreshed : List (Nat × Nat)
  /-- DIMMs whose sensor reads above 85 °C -/
  fast : List (Nat × Bool)
  /-- subchannels that have applied -/
  applied : List (Nat × Bool)
  /-- capacity of the channel in GiB -/
  gib : Nat
  /-- ranks whose supply the present PARTIAL mode has switched off (R424) -/
  off : List Nat
  /-- the latest drift check was shed (18 R583) -/
  shed : Bool
  deriving DecidableEq, Repr

/-- A memory controller at reset. -/
def DramCh.reset : DramCh := ⟨[], [], [], 0, 0, [], [], 0, [], [], [], 0, [], false⟩

/-! ### The reel controller (chapter 16) and the meshes (chapter 12) -/

/-- A reel in progress (R506). -/
structure Reel where
  old : Nat
  new : Nat
  /-- the cause of R515: 1 CHECK, 2 ROWS, 3 WEAR, 4 OPERATOR -/
  cause : Nat
  /-- the old spindle is retired at the end -/
  retire : Bool
  /-- the last step completed, of R506 -/
  step : Nat
  /-- what step 6 found unreadable -/
  lost : ReelLoss
  deriving DecidableEq, Repr

/-- The reel controller: the reel state and what it counts. -/
structure Rel where
  reels : List (Nat × Option Reel)
  /-- reels that fall due and have not started: LCN, cause, retire -/
  due : List (Nat × Nat × Bool)
  /-- spindles that never serve again -/
  retired : List (Nat × Bool)
  /-- the spindles that stand as spares; column 6 of each row of a die by the fuses (01 R28, 02 R46) -/
  spares : List Nat
  /-- spare rows used by unit -/
  rows : List (Nat × Nat)
  /-- L3 and home-cache ways retired are in Coh; units whose own budget was announced -/
  told : List (Nat × Bool)
  /-- the reel state differs from that in boot flash -/
  dirty : Bool
  /-- the spare pair of Distaff is gone -/
  pairUsed : Bool
  /-- Distaff SRAM rows lost without a spare -/
  distRows : Nat
  /-- commands RL_REEL and RL_RETIRE that wait for their reel: LCN, caller, CMD -/
  asked : List (Nat × Caller × Nat)
  /-- spindle to the spare that stands in its place since its reel -/
  standIn : List (Nat × Option Nat)
  deriving DecidableEq, Repr

/-- The reel controller before a COLD reset has read its state. -/
def Rel.reset : Rel :=
  ⟨[], [], [], (List.range 16).flatMap fun die => [28 * die + 6, 28 * die + 13, 28 * die + 20, 28 * die + 27], [], [], false, false, 0, [], []⟩

/-- Die links and guest ports beyond their registers. -/
structure Links where
  /-- lanes that wait for repair: end (hub true), die, module, lane -/
  laneDue : List (Bool × Nat × Nat × Nat)
  /-- credits a guest has granted: port to the counts of VC0 to VC3 -/
  credit : List (Nat × List Nat)
  /-- modules retired (12 R392): die × 2 + module -/
  modOut : List (Nat × Bool)
  /-- accesses of hub agents that wait for a home at work on their line, for their translation, or behind an earlier one of
  their order, in order of arrival (11 R354, 10 R321, 14 R438) -/
  waitHome : List HubAccess
  deriving DecidableEq, Repr

/-- The links at reset. -/
def Links.reset : Links := ⟨[], [], [], []⟩

/-! ### Starts (18 R557 to R562) -/

/-- A start in progress: what it has still to do. -/
structure Boot where
  /-- 0 none; 1 COLD; 2 PACKAGE; 3 Thaw (17 R546) -/
  kind : Nat
  /-- die links, DRAM and image are done -/
  links : Bool
  dram : Bool
  image : Bool
  /-- the DIMMs found, and the incarnation number drawn -/
  spd : List SpdChannel
  incarn : BitVec 32
  /-- skeins not yet released -/
  toRelease : List Nat
  began : Nat
  /-- resets ordered and not yet performed: scope (0 PACKAGE, 1 SKEIN, 2 CORE) and target (18 R565) -/
  resets : List (Nat × Nat)
  /-- when the PACKAGE reset of an expired secure countdown is due (08 R272) -/
  swdogDue : Option Nat
  /-- what the present SAFE was entered for; none out of SAFE (16 R523) -/
  safeBy : Option SafeCause
  /-- the copy is chosen as at a cold boot (02 R61), not taken over from before -/
  pick : Bool
  /-- vectors that become pending at LCNs when they run again after a reset (10 R335) -/
  owedVec : List (Nat × Nat)
  deriving DecidableEq, Repr

/-- No start in progress: power has not come. -/
def Boot.reset : Boot := ⟨0, false, false, false, [], 0#32, [], 0, [], none, none, true, []⟩

/-! ### The IOTU (09 R303 to R310) -/

/-- A stream held by the stream cache: its entry, and the segment descriptors read for it (R306). -/
structure IoStream where
  entry : Word
  descs : List (Nat × Option (Word × Word))
  deriving DecidableEq, Repr

/-- The caches of the IOTU, tagged by bundle × 65536 + RID (R306). -/
structure Iotu where
  streams : List (Nat × IoStream)
  tlb : List (Nat × TlbEntry)
  walk : List (Nat × WalkEntry)
  deriving DecidableEq, Repr

/-- The IOTU after a reset: its caches empty. -/
def Iotu.reset : Iotu := ⟨[], [], []⟩


/-! ### The block -/

/-- Everything of the part but its queue of commands. -/
structure Dev where
  /-- LCN to core; an unlisted LCN is in CORE reset -/
  cores : List (Nat × Core)
  /-- control registers by physical address; an unlisted one holds its Reset value (R11) -/
  regs : List (Nat × Reg32)
  /-- function registers in BAR0, by bundle × 2^28 + function × 2^17 + offset -/
  bars : List (Nat × Reg32)
  /-- the holding latch of each register pair, by the address of its _LO (R10) -/
  latch : List (Nat × Reg32)
  /-- a _LO write held for its _HI, by the address of the _LO (R10) -/
  heldLo : List (Nat × Option Reg32)
  mem : Mem
  coh : Coh
  img : ImgState
  /-- LCN to physical spindle, where one carries it (R29, R46) -/
  spindleOf : List (Nat × Option Nat)
  /-- LCNs whose reel is in progress (R505) or that are lost (R513) -/
  reeling : List (Nat × Bool)
  lost : List (Nat × Bool)
  /-- the device is in SAFE (R520) -/
  safe : Bool
  /-- the package timebase in ns (R269) -/
  now : Nat
  /-- domains 0 to 408 of R552 -/
  dom : List (Nat × Domain)
  /-- the seven hub counters of each skein: skein × 8 + counter (R594) -/
  hubCnt : List (Nat × Nat)
  /-- the counter at which free values are taken (model's own, log entry 6) -/
  freeCtr : Nat
  /-- boundary ports by domain number (R385) -/
  ports : List (Nat × BPort)
  /-- vectors held for an LCN that is being reeled, in order (R267) -/
  heldVec : List VecMsg
  trace : Trace
  /-- skein to its watchdogs -/
  wdog : List (Nat × Wdog)
  bq : Bq
  /-- functions by bundle × 2048 + function; 0 the PF, n the VF n − 1 -/
  fns : List (Nat × Fn)
  bundles : List (Nat × Bundle)
  hank : Hank
  /-- what the part has sent out, oldest first (log entry 7) -/
  out : List Out
  dst : Distaff
  pwr : Pwr
  dram : List (Nat × DramCh)
  rel : Rel
  links : Links
  boot : Boot
  iotu : Iotu
  deriving DecidableEq, Repr

/-- The block: its device state and the commands that wait, first in first out. -/
structure State where
  dev : Dev
  pending : List Instr
  deriving DecidableEq, Repr

/-- Why a step stops with a fault. No rule of the spec stops the block: every failure it describes is an answer, an
exception, SAFE or a reset, and is a next state here. -/
inductive Fault where
  /-- Kept for a command the host may add to the queue whose operands break the bounds of WellFormed: raised by no
  meaning of this model. Safe. -/
  | malformed
  deriving DecidableEq, Repr

/-- Why a step refuses a command. -/
inductive Refusal where
  /-- The arm of exec for a row that has no meaning yet, by the row's mnemonic. Safe. -/
  | notModelled (mnemonic : String)
  deriving DecidableEq, Repr

/-- A domain at reset. -/
def Domain.reset : Domain := ⟨.off, false, .off, 0, false, none⟩

/-- The device right after a COLD reset, before Distaff has applied an image: no core released, no link trained. -/
def Dev.reset : Dev where
  cores := []
  regs := []
  bars := []
  latch := []
  heldLo := []
  mem := Mem.reset
  coh := Coh.reset
  img := ImgState.reset
  spindleOf := []
  reeling := []
  lost := []
  safe := false
  now := 0
  dom := []
  hubCnt := []
  freeCtr := 0
  ports := []
  heldVec := []
  trace := Trace.reset
  wdog := []
  bq := Bq.reset
  fns := []
  bundles := []
  hank := Hank.reset
  out := []
  dst := Distaff.reset
  pwr := Pwr.reset
  dram := []
  rel := Rel.reset
  links := Links.reset
  boot := Boot.reset
  iotu := Iotu.reset

/-- The block right after reset: an empty queue. -/
def State.reset : State := ⟨Dev.reset, []⟩

end Sys2Proof.Machine
end

