-- ==== Sys2Proof/Machine/Regs.lean ====
section
/-! DEFINITION. The register file of control space (00 R6 to R13): reading and writing a register as hardware does,
as a requester does under the access codes, the pairs, who sees which register, and the answers of an address that is
no register. -/
namespace Sys2Proof.Machine

/-- The indices of the register at address `a` in a family with dimensions `dims`, `rem` bytes above its base. -/
def regIndex : List (Nat × Nat) → Nat → Option (List Nat)
  | [], rem => if rem = 0 then some [] else none
  | (n, st) :: t, rem =>
    if rem / st < n then
      match regIndex t (rem % st) with
      | some l => some (rem / st :: l)
      | none => none
    else none

/-- The row and indices of address `a`, if a chapter places a register there. -/
def findRegIn : List RegDef → Nat → Option (RegDef × List Nat)
  | [], _ => none
  | r :: t, a =>
    if r.base ≤ a then
      match regIndex r.dims (a - r.base) with
      | some l => some (r, l)
      | none => findRegIn t a
    else findRegIn t a

/-- The control register at a physical address. -/
def findReg (a : Nat) : Option (RegDef × List Nat) := findRegIn regDefs a

/-- The Reset value of a row: its fields' Reset columns (R11). -/
def RegDef.resetVal (r : RegDef) : Reg32 :=
  r.fields.foldl (fun x f => putField x f.hi f.lo f.reset) 0#32

/-- The Reset value of the register at `a`; MC_ID shows its channel (13 R430). -/
def regReset (a : Nat) : Reg32 :=
  match findReg a with
  | some (r, l) => r.resetVal + (if r.base = Reg.MC_ID 0 then BitVec.ofNat 32 (l.headD 0) else 0#32)
  | none => 0#32

/-- The value the register at `a` holds. -/
def Dev.reg (d : Dev) (a : Nat) : Reg32 := mget (regReset a) d.regs a

/-- Hardware sets the register at `a`. -/
def Dev.setReg (d : Dev) (a : Nat) (v : Reg32) : Dev := { d with regs := mset (regReset a) d.regs a v }

/-- Field [hi:lo] of the register at `a`. -/
def Dev.regF (d : Dev) (a hi lo : Nat) : Nat := field (d.reg a) hi lo

/-- Hardware sets field [hi:lo] of the register at `a`. -/
def Dev.setRegF (d : Dev) (a hi lo v : Nat) : Dev := d.setReg a (putField (d.reg a) hi lo v)

/-- A saturating counter counts one event (R19). -/
def Dev.count (d : Dev) (a : Nat) : Dev := d.setReg a (satInc (d.reg a))

/-- A saturating counter counts `n` events. -/
def Dev.countN (d : Dev) (a n : Nat) : Dev := d.setReg a (satAdd (d.reg a) n)

/-- The 64-bit quantity of a pair whose _LO lies at `a`. -/
def Dev.reg64 (d : Dev) (a : Nat) : Nat := (d.reg a).toNat + (d.reg (a + 4)).toNat * 0x100000000

/-- Hardware sets both halves of a pair in one step. -/
def Dev.setReg64 (d : Dev) (a v : Nat) : Dev :=
  (d.setReg a (BitVec.ofNat 32 (v % 0x100000000))).setReg (a + 4) (BitVec.ofNat 32 (v / 0x100000000))

/-- One field under a write, by its access code (R12). -/
def writeField (lock : Bool) (old new : Reg32) (acc : Reg32) (f : FieldDef) : Reg32 :=
  let n := field new f.hi f.lo
  let o := field old f.hi f.lo
  match f.acc with
  | .rw => putField acc f.hi f.lo n
  | .ro => acc
  | .w1c => putField acc f.hi f.lo (o &&& ((2 ^ (f.hi + 1 - f.lo) - 1) ^^^ n))
  | .w1s => putField acc f.hi f.lo (o ||| n)
  | .wo => acc
  | .rc => acc
  | .rwL => if lock then acc else putField acc f.hi f.lo n

/-- A software write of `new` to a register that holds `old` (R12); `lock` is the image lock. -/
def writeRegVal (fs : List FieldDef) (lock : Bool) (old new : Reg32) : Reg32 :=
  fs.foldl (writeField lock old new) old

/-- What a read of a register that holds `x` returns: wo fields read 0 and res0 bits read 0 (R12). -/
def readRegVal (fs : List FieldDef) (x : Reg32) : Reg32 :=
  fs.foldl (fun acc f => match f.acc with
    | .wo => acc
    | _ => putField acc f.hi f.lo (field x f.hi f.lo)) 0#32

/-- What a register that held `x` holds after a read: rc fields are cleared (R12). -/
def afterReadVal (fs : List FieldDef) (x : Reg32) : Reg32 :=
  fs.foldl (fun acc f => match f.acc with
    | .rc => putField acc f.hi f.lo 0
    | _ => acc) x

/-! ### Skeins and their claims -/

/-- The skein entry of skein `s` in the running image. -/
def Dev.skeinCfg (d : Dev) (s : Nat) : Option SkeinCfg :=
  match d.img.img with
  | some i => i.skeins.find? (fun c => c.skein == s)
  | none => none

/-- The skein of an LCN (R31). -/
def Dev.skeinOf (d : Dev) (l : Nat) : Option Nat :=
  match d.img.img with
  | some i => (i.skeins.find? (fun c => c.lcnMask.testBit l)).map (·.skein)
  | none => none

/-- The skein entry of an LCN's skein. -/
def Dev.cfgOf (d : Dev) (l : Nat) : Option SkeinCfg :=
  match d.img.img with
  | some i => i.skeins.find? (fun c => c.lcnMask.testBit l)
  | none => none

/-- The mode of a PCIe bundle: 0 unused, 1 root port, 2 endpoint (R45). -/
def Dev.bundleMode (d : Dev) (b : Nat) : Nat :=
  match d.img.img with
  | some i => i.bundleMode.getD b 0
  | none => 0

/-- The skein that owns a root-port bundle (R56). -/
def Dev.bundleOwner (d : Dev) (b : Nat) : Option Nat :=
  match d.img.img with
  | some i => (i.skeins.find? (fun c => c.bundles.testBit b)).map (·.skein)
  | none => none

/-- The core of an LCN. -/
def Dev.core (d : Dev) (l : Nat) : Core := mget Core.reset d.cores l

/-- The device with the core of an LCN replaced. -/
def Dev.setCore (d : Dev) (l : Nat) (c : Core) : Dev := { d with cores := mset Core.reset d.cores l c }

/-- The device with the core of an LCN changed by `f`. -/
def Dev.updCore (d : Dev) (l : Nat) (f : Core → Core) : Dev := d.setCore l (f (d.core l))

/-- Whether a level is privileged (R249). -/
def Level.priv : Level → Bool
  | .k | .sk => true
  | .u | .su => false

/-- Whether a level lies in the secure world (R249). -/
def Level.secure : Level → Bool
  | .su | .sk => true
  | .u | .k => false

/-! ### Who sees a register -/

/-- Whether a core's skein has an LCN on the die of site `st` (R551). -/
def Dev.skeinOnDie (d : Dev) (c : SkeinCfg) (st : Nat) : Bool :=
  (List.range 384).any fun l => c.lcnMask.testBit l &&
    match mget none d.spindleOf l with
    | some p => p / 28 == st
    | none => false

/-- Whether a core of skein entry `c` may read a register of the class at the indices given. -/
def visTo (d : Dev) (c : SkeinCfg) (lvl : Level) (v : Vis) (idx : List Nat) : Bool :=
  let i := idx.headD 0
  match v with
  | .all => true
  | .skein => c.skein == i
  | .skeinK => lvl.priv && c.skein == i
  | .mc => (c.ddrOwn ||| c.ddrPool).testBit i
  | .pce => c.bundles.testBit i
  | .port => c.hankPorts.testBit i ||
      (match d.img.img with
       | some im => (List.range 8).any fun p => c.hankPorts.testBit p && (im.hankPorts.getD p ⟨0, 0xFF⟩).alt == i
       | none => false)
  | .iotu => lvl.priv && d.bundleMode i == 1 && c.bundles.testBit i
  | .route => lvl.priv && i / 256 == c.skein
  | .lcn => c.lcnMask.testBit i
  | .temp => if i < 16 then d.skeinOnDie c i else true
  | .dom =>
    if i < 384 then c.lcnMask.testBit i
    else if i < 400 then (c.ddrOwn ||| c.ddrPool).testBit (i - 384)
    else if i < 408 then c.bundles.testBit (i - 400)
    else true

/-- Whether requester `q` may read a register of the class at the indices given. The others read 0 and clear
nothing (R122, R268, R309, R429, R467, R498, R551). -/
def Dev.mayRead (d : Dev) (q : Requester) (v : Vis) (idx : List Nat) : Bool :=
  match q with
  | .distaff => true
  | .core l =>
    match d.cfgOf l.val with
    | some c => visTo d c (d.core l.val).level v idx
    | none => false
  | .func _ _ => false
  | .rootPort _ => false

/-- Whether requester `q` may write the rw and wo fields of a register: Distaff always; a core at K or SK that may
read it, where the chapter lets cores write it. -/
def Dev.mayWrite (d : Dev) (q : Requester) (r : RegDef) (idx : List Nat) : Bool :=
  match q with
  | .distaff => true
  | .core l => r.coreW && (d.core l.val).level.priv && d.mayRead q r.vis idx
  | .func _ _ => false
  | .rootPort _ => false

/-- The sites and blocks of control space at which a chapter places registers (R8, R51). -/
def blockAssigned (site block : Nat) : Bool :=
  if site < 16 then block == 0x060 || block == 0x070 || block == 0x071
  else if site == 0x10 then
    block == 0x001 || block == 0x020 || block == 0x021 || block == 0x030 || block == 0x040 || block == 0x041 ||
    block == 0x042 || block == 0x050 || block == 0x060 || block == 0x070 || block == 0x071 ||
    (0x080 ≤ block && block ≤ 0x08F) || block == 0x090 || (0x0A0 ≤ block && block ≤ 0x0A7) ||
    (0x0B0 ≤ block && block ≤ 0x0B8) || block == 0x0C0 || block == 0x0D0 || block == 0x0E0 || block == 0x0E8 ||
    block == 0x0F0
  else false

/-- An access to control space: what stands at the address. -/
inductive CtlPlace where
  /-- answered DEAD (R8) -/
  | dead
  /-- a bus error without effect: not an aligned 32-bit access (R9) -/
  | badAccess
  /-- an unassigned offset of an implemented block: behaves as res0 (R8) -/
  | res0
  | reg (r : RegDef) (idx : List Nat)
  deriving DecidableEq, Repr

/-- What an access of `size` bytes at physical address `pa` of control space meets (R8, R9). -/
def ctlPlace (pa size : Nat) : CtlPlace :=
  if bitsN pa 47 40 ≠ 0 then .dead
  else if !blockAssigned (bitsN pa 39 32) (bitsN pa 31 20) then .dead
  else if size ≠ 4 || pa % 4 ≠ 0 then .badAccess
  else match findReg pa with
    | some (r, l) => .reg r l
    | none => .res0

/-- Whether a control-space block is in secure use (R253). -/
def Dev.secBlock (d : Dev) (pa : Nat) : Bool :=
  match d.img.img with
  | some i => i.secBlk.any fun (st, b) => st == bitsN pa 39 32 && b == bitsN pa 31 20
  | none => false

end Sys2Proof.Machine
end

