-- ==== Sys2Proof/Machine/Memory.lean ====
section
/-! DEFINITION. The physical address map (01 R33 to R36), DRAM as bytes with poison (11 R366, R367), and the per-skein
hub counters (19 R594). -/
namespace Sys2Proof.Machine

/-- What a physical address names (R33). -/
inductive Place where
  | dram
  | pcie (b : Nat)
  | landing
  | control
  | reserved
  deriving DecidableEq, Repr

/-- The map of R33. -/
def placeOf (pa : Nat) : Place :=
  if pa < 0x800000000000 then .dram
  else if pa < 0x4000000000000 then .reserved
  else if pa < 0x8000000000000 then .pcie ((pa - 0x4000000000000) / 0x800000000000)
  else if 0xE000000000000 ≤ pa ∧ pa < 0xE000000000800 then .landing
  else if 0xF000000000000 ≤ pa ∧ pa < 0x10000000000000 then .control
  else .reserved

/-- Whether a DRAM address is populated (R33). -/
def Dev.populated (d : Dev) (pa : Nat) : Bool := decide (pa < d.mem.capGiB * 0x40000000)

/-- Whether a byte lies in the MEM ranges in use of a skein (R35, R47). -/
def SkeinCfg.inMem (c : SkeinCfg) (pa : Nat) : Bool :=
  (c.mem.take c.ranges).any fun (b, n) => b ≤ pa / 0x40000000 && pa / 0x40000000 < b + n

/-- Whether a byte lies in the queue memory of a skein (R72). -/
def SkeinCfg.inQmem (c : SkeinCfg) (pa : Nat) : Bool := c.qmemBase ≤ pa && pa < c.qmemBase + c.qmemLen

/-- The skein whose MEM range holds a byte. -/
def Dev.memOwner (d : Dev) (pa : Nat) : Option SkeinCfg :=
  match d.img.img with
  | some i => i.skeins.find? (fun c => c.inMem pa)
  | none => none

/-- Whether a byte is queue memory of some skein (R73). -/
def Dev.queueMem (d : Dev) (pa : Nat) : Bool :=
  match d.img.img with
  | some i => i.skeins.any (fun c => c.inQmem pa)
  | none => false

/-- The secure watermark in bytes (R251). -/
def Dev.secMarkBytes (d : Dev) : Nat := d.regF Reg.SEC_MARK 15 0 * 0x40000000

/-! ### Boundary ports and what leaves the part -/

/-- The boundary port of a domain. -/
def Dev.port (d : Dev) (k : Nat) : BPort := mget BPort.reset d.ports k

/-- The device with the boundary port of a domain replaced. -/
def Dev.setPort (d : Dev) (k : Nat) (p : BPort) : Dev := { d with ports := mset BPort.reset d.ports k p }

/-- Something leaves the part. -/
def Dev.emit (d : Dev) (o : Out) : Dev := { d with out := d.out ++ [o] }

/-! ### Status codes -/

end Sys2Proof.Machine

/-- The code of a status (R16). -/
def Sys2Proof.Status.code : Sys2Proof.Status → Nat
  | .ok => 0
  | .state => 1
  | .denied => 2
  | .conflict => 3
  | .range => 4
  | .busy => 5
  | .flushed => 6
  | .timeout => 7
  | .poison => 8
  | .dead => 9
  | .empty => 10
  | .full => 11
  | .halted => 12
  | .integrity => 13
  | .unsupported => 14
  | .domainOff => 15

namespace Sys2Proof.Machine

/-! ### The region map (13 R404, R405, R431) -/

/-- The entry of the region map that holds a byte. -/
def Dev.regionOf (d : Dev) (pa : Nat) : Option Nat :=
  (List.range 64).find? fun i =>
    let r := d.reg (Reg.MC_MAP_RANGE i)
    bit r 31 && field r 13 0 ≤ pa / 0x40000000 && pa / 0x40000000 ≤ field r 29 16

/-- The set bits of a mask, lowest first. -/
def setBits (n mask : Nat) : List Nat := (List.range n).filter fun i => mask.testBit i

/-- The channel that holds a byte and its channel-local address (R405); none where no region holds it (R404). -/
def Dev.channelOf (d : Dev) (pa : Nat) : Option (Nat × Nat) :=
  match d.regionOf pa with
  | none => none
  | some i =>
    let chs := setBits 16 (d.regF (Reg.MC_MAP_SET i) 15 0)
    if chs.length = 0 then none
    else
      let o := pa - d.regF (Reg.MC_MAP_RANGE i) 13 0 * 0x40000000
      let b := o / 256
      some (chs.getD (b % chs.length) 0,
        d.regF (Reg.MC_MAP_BASE i) 19 0 * 0x100000 + b / chs.length * 256 + o % 256)

/-! ### Hub counters -/

/-- Counter `k` of skein `s` adds `n`, wrapping at 2^64 (R594): 0 posts, 1 reads, 2 slots, 3 flits, 4 DRAM reads, 5
DRAM writes, 6 read latency. -/
def Dev.hubAdd (d : Dev) (s k n : Nat) : Dev :=
  { d with hubCnt := mset 0 d.hubCnt (s * 8 + k) ((mget 0 d.hubCnt (s * 8 + k) + n) % 2 ^ 64) }

/-- The hub counter of the skein whose memory holds a line. -/
def Dev.hubAddLine (d : Dev) (line k n : Nat) : Dev :=
  match d.memOwner (line * 64) with
  | some c => d.hubAdd c.skein k n
  | none => d

/-! ### Bytes -/

/-- What an unlisted byte of DRAM reads as (log entry 3). -/
def unlistedByte : Byte := 0#8

/-- The coherent value of one byte of DRAM. -/
def Dev.byte (d : Dev) (pa : Nat) : Byte := mget unlistedByte d.mem.bytes pa

/-- `n` bytes from `pa`. -/
def Dev.bytes (d : Dev) (pa n : Nat) : List Byte := (List.range n).map fun i => d.byte (pa + i)

/-- The little-endian number of `n` bytes from `pa`. -/
def Dev.readLe (d : Dev) (pa n : Nat) : Nat := ofLe (d.bytes pa n)

/-- The byte list with each cell written. -/
def putCells (m : List Host.Cell) (cells : List Host.Cell) : List Host.Cell :=
  cells.foldl (fun acc c => mset unlistedByte acc c.1 c.2) m

/-- The device with cells of DRAM written. -/
def Dev.putBytes (d : Dev) (cells : List Host.Cell) : Dev :=
  { d with mem := { d.mem with bytes := putCells d.mem.bytes cells } }

/-- The cells of consecutive bytes. -/
def cellsAt (pa : Nat) : List Byte → List Host.Cell
  | [] => []
  | b :: bs => (pa, b) :: cellsAt (pa + 1) bs

/-- The physical rank of a channel that holds a channel-local address: ranks of one size, in order (13 R406). -/
def Dev.rankOf (d : Dev) (ch loc : Nat) : Nat :=
  let n := ((List.range 4).filter fun r => (d.regF (Reg.MC_CFG ch) 19 16).testBit r).length
  let size := (mget DramCh.reset d.dram ch).gib * 0x40000000 / max n 1
  if size = 0 then 0 else loc / size

/-- Whether a line lies in one of the ranks listed, by channel × 4 + rank. -/
def Dev.inRanks (d : Dev) (r : List (Nat × Bool)) (line : Nat) : Bool :=
  match r with
  | [] => false
  | x :: t => match d.channelOf (line * 64) with
    | some (ch, loc) => mget false (x :: t) (ch * 4 + d.rankOf ch loc)
    | none => false

/-- Whether a line lies in a rank filled with the poison code (13 R426). -/
def Dev.rankLost (d : Dev) (line : Nat) : Bool := d.inRanks d.mem.lostRanks line

/-- Whether a line is poisoned (R366). -/
def Dev.poisoned (d : Dev) (line : Nat) : Bool := mget false d.mem.poison line != d.rankLost line

/-- The device with the poison of a line set or cleared. -/
def Dev.setPoison (d : Dev) (line : Nat) (p : Bool) : Dev :=
  { d with mem := { d.mem with poison := mset false d.mem.poison line (p != d.rankLost line) } }

/-- Whether cells cover all 64 bytes of the line (R367). -/
def coversLine (line : Nat) (cells : List Host.Cell) : Bool :=
  (List.range 64).all fun i => cells.any fun c => c.1 == line * 64 + i

end Sys2Proof.Machine
end

