-- ==== Sys2Proof/Machine/Net.lean ====
section
/-! DEFINITION. The networks (12 R372 to R380): where each stop sits, the one route between two nodes, virtual channels,
and the buffers and credits along a route. The slots of R381 and R382 are timing (log entry 59). -/
namespace Sys2Proof.Machine

/-! ### Opcodes, virtual channels and flits (R372, R378) -/

/-- The virtual channel of an opcode; none for a guest link's CREDIT and for an opcode of no packet (R372, R378). -/
def opcVc (o : Nat) : Option Nat :=
  if 0x01 ≤ o ∧ o ≤ 0x0B then some 0
  else if 0x10 ≤ o ∧ o ≤ 0x16 then some 1
  else if 0x20 ≤ o ∧ o ≤ 0x23 then some 2
  else if 0x38 ≤ o ∧ o ≤ 0x3F then some 3
  else none

/-- The opcode of a coherence packet (R372). -/
def CohKind.opc : CohKind → Nat
  | .data => 0x10
  | .grantPending | .grantDone => 0x11
  | .done => 0x12
  | .ack => 0x13
  | .rdata => 0x15
  | .already => 0x16
  | .inv => 0x20
  | .recallS => 0x21
  | .recallI => 0x22
  | .recallD => 0x23

/-- The virtual channel of a packet. -/
def CohMsg.vc (m : CohMsg) : Nat := (opcVc m.kind.opc).getD 0

/-- The flits of a packet: a header, and a data flit where it carries a line (R372). -/
def CohMsg.flits (m : CohMsg) : Nat := if m.data.length = 64 then 2 else 1

/-- What consuming a packet of a virtual channel may require injection on (R378). -/
def vcNeeds (vc : Nat) : List Nat :=
  match vc with
  | 0 => [1, 2]
  | 2 => [1]
  | _ => []

/-! ### Stops and routers (R373 to R375) -/

/-- The router of a stop on a Borsil die: its column and row in the die's own axes (R373, R374). -/
def dieRouter (stop : Nat) : Nat × Nat :=
  if stop = 0x40 then (3, 0) else (stop % 32 % 7, stop % 32 / 7)

/-- The routers that hold the home agents, in row-major order (R375). -/
def homeRouters : List (Nat × Nat) :=
  ((List.range 36).map fun i => (i % 6 + 1, i / 6 + 1)).filter fun p => !((p.1 == 3 || p.1 == 4) && (p.2 == 3 || p.2 == 4))

/-- The two hub routers of a die's link (R375). -/
def dieStops (die : Nat) : (Nat × Nat) × (Nat × Nat) :=
  let k := die % 4
  match die / 4 with
  | 0 => ((2 * k, 0), (2 * k + 1, 0))
  | 1 => ((7, 2 * k), (7, 2 * k + 1))
  | 2 => ((7 - 2 * k, 7), (6 - 2 * k, 7))
  | _ => ((0, 7 - 2 * k), (0, 6 - 2 * k))

/-- Twice the distance of a router from the middle of the hub edge of a die. -/
def fromMiddle (die : Nat) (p : Nat × Nat) : Nat :=
  let x := if die / 4 % 2 = 0 then p.1 else p.2
  if 2 * x < 7 then 7 - 2 * x else 2 * x - 7

/-- The hub router of a row of a die: of the two, the one nearer the middle takes module 0, which carries rows 0 and 1
(R375). -/
def linkRouter (die row : Nat) : Nat × Nat :=
  let (a, b) := dieStops die
  let near := if fromMiddle die a < fromMiddle die b then a else b
  let far := if fromMiddle die a < fromMiddle die b then b else a
  if row < 2 then near else far

/-- The hub router of a hub stop, or of a guest port (R373, R375). -/
def hubRouter (n : Node) : Nat × Nat :=
  let s := n.stop
  if n.site = 0x18 then (0, 7)
  else if n.site = 0x19 then (7, 0)
  else if s < 0x20 then homeRouters.getD s (1, 1)
  else if s < 0x30 then
    let c := s - 0x20
    if c < 6 then (0, c + 1) else if c < 12 then (7, c - 5) else [(1, 0), (6, 0), (1, 7), (6, 7)].getD (c - 12) (1, 0)
  else if s < 0x38 then (if s - 0x30 < 4 then (s - 0x30 + 2, 0) else (s - 0x30 - 2, 7))
  else if s < 0x3C then [(3, 3), (4, 3), (3, 4), (4, 4)].getD (s - 0x38) (3, 3)
  else if 0x40 ≤ s ∧ s < 0x48 then (if s - 0x40 < 4 then (s - 0x40 + 2, 0) else (s - 0x40 - 2, 7))
  else if s = 0x48 then (7, 7)
  else if 0x50 ≤ s then linkRouter (s - 0x50) 0
  else (0, 0)

/-- The hub-facing column of a die: column 0 where port A faces the hub, column 6 where port B does (R374, R377). -/
def Dev.hubColumn (d : Dev) (die : Nat) : Nat := if d.regF (Reg.MESH_ORIENT die) 0 0 = 0 then 0 else 6

/-! ### Routes (R376) -/

/-- A link, named by its ends; the buffer it fills stands at its far end. -/
inductive Link where
  /-- between two neighbouring routers of a site, from (x, y) to (x', y') -/
  | mesh (site x y x' y' : Nat)
  /-- a row stream of a die link, toward the hub or toward the die -/
  | stream (die row : Nat) (up : Bool)
  /-- a guest link, toward the hub or toward the guest -/
  | guest (g : Nat) (up : Bool)
  deriving DecidableEq, Repr

/-- The numbers from a to b, a left out, in the direction of travel. -/
def walkTo (a b : Nat) : List Nat :=
  if a ≤ b then (List.range (b - a)).map fun i => a + 1 + i else (List.range (a - b)).map fun i => a - 1 - i

/-- Along a row of a site's mesh. -/
def alongX (site x y x' : Nat) : List Link :=
  (walkTo x x').map fun t => .mesh site (if x ≤ x' then t - 1 else t + 1) y t y

/-- Along a column. -/
def alongY (site x y y' : Nat) : List Link :=
  (walkTo y y').map fun t => .mesh site x (if y ≤ y' then t - 1 else t + 1) x t

/-- First in x and then in y (R376). -/
def xyRoute (site : Nat) (a b : Nat × Nat) : List Link := alongX site a.1 a.2 b.1 ++ alongY site b.1 a.2 b.2

/-- From a node outside the hub mesh to the hub router where it enters, with that router; a hub stop is there already. -/
def Dev.toHub (d : Dev) (n : Node) : List Link × (Nat × Nat) :=
  if n.site < 16 then
    let (c, r) := dieRouter n.stop
    (alongX n.site c r (d.hubColumn n.site) ++ [.stream n.site r true], linkRouter n.site r)
  else if n.site = 0x18 ∨ n.site = 0x19 then ([.guest (n.site - 0x18) true], hubRouter n)
  else ([], hubRouter n)

/-- From the hub router where a packet leaves to a node, with that router. -/
def Dev.fromHub (d : Dev) (n : Node) : List Link × (Nat × Nat) :=
  if n.site < 16 then
    let (c, r) := dieRouter n.stop
    (.stream n.site r false :: alongX n.site (d.hubColumn n.site) r c, linkRouter n.site r)
  else if n.site = 0x18 ∨ n.site = 0x19 then ([.guest (n.site - 0x18) false], hubRouter n)
  else ([], hubRouter n)

/-- The route from one node to another: on one die its row and then its column; else by way of the hub (R376). -/
def Dev.route (d : Dev) (a b : Node) : List Link :=
  if a.site = b.site ∧ a.site < 16 then xyRoute a.site (dieRouter a.stop) (dieRouter b.stop)
  else
    let (up, p) := d.toHub a
    let (down, q) := d.fromHub b
    up ++ xyRoute 0x10 p q ++ down

/-! ### Buffers and credits (R378, R380) -/

/-- The flits a virtual channel's buffer at the far end of a link holds (R380). -/
def Link.cap : Link → Nat
  | .mesh site _ _ _ _ => if site < 16 then 40 else 48
  | .stream _ _ _ => 64
  | .guest _ up => if up then 32 else 8

/-- The share of a skein in a virtual channel (02 R48). -/
def Tune.share (t : Tune) (vc : Nat) : Nat := if vc = 0 then t.vc0 else if vc = 1 then t.vc1 else t.vc2

/-- Flits of a skein's own at each input: 2 where its share in the channel is not zero (R380). -/
def Dev.ownFlits (d : Dev) (vc sk : Nat) : Nat :=
  match d.skeinCfg sk with
  | some c => if c.tune.share vc = 0 then 0 else 2
  | none => 0

/-- The flits of a skein that stand in the buffer of a link: its packets in flight that have passed the link last. -/
def Dev.flitsAt (d : Dev) (pk : List CohMsg) (k : Link) (vc sk : Nat) : Nat :=
  ((pk.filter fun m => m.vc == vc && m.skein == sk && decide (0 < m.hop) && (d.route m.src m.dst)[m.hop - 1]? == some k).map
    CohMsg.flits).foldl (· + ·) 0

/-- Whether the buffer at a link's far end has credits for a packet: within its skein's own flits, or in the shared
remainder (R378, R380). -/
def Dev.hasCredit (d : Dev) (pk : List CohMsg) (k : Link) (m : CohMsg) : Bool :=
  let own (s : Nat) : Nat := d.ownFlits m.vc s
  let used (s : Nat) : Nat := d.flitsAt pk k m.vc s + (if s = m.skein then m.flits else 0)
  let shared := ((List.range 16).map fun s => used s - own s).foldl (· + ·) 0
  let kept := ((List.range 16).map own).foldl (· + ·) 0
  decide (used m.skein ≤ own m.skein) || decide (shared ≤ k.cap - kept)

/-- The links a packet has still to pass. -/
def Dev.linksLeft (d : Dev) (m : CohMsg) : List Link := (d.route m.src m.dst).drop m.hop

/-- Whether a packet can go the rest of its way now. -/
def Dev.canTravel (d : Dev) (m : CohMsg) : Bool := (d.linksLeft m).all fun k => d.hasCredit (d.coh.flight.erase m) k m

/-- A packet moves over its next link where the buffer beyond has credits: one hop, 2 mesh cycles (R374, R375). -/
def Dev.hopOne (d : Dev) (m : CohMsg) : CohMsg :=
  match d.linksLeft m with
  | [] => m
  | k :: _ => if d.hasCredit (d.coh.flight.erase m) k m then { m with hop := m.hop + 1 } else m

/-- One hop's time for every packet, in the order of their sending. -/
def Dev.hopAll (d : Dev) : Dev :=
  (List.range d.coh.flight.length).foldl (fun d i =>
    match d.coh.flight[i]? with
    | some m => { d with coh := { d.coh with flight := listSet d.coh.flight i (d.hopOne m) } }
    | none => d) d

/-! ### Nodes of homes and agents (R373, 11 R341, R352) -/

/-- The hub slice of a line: the XOR of the 5-bit fields of the address from bit 6 (11 R341). -/
def hubSlice (line : Nat) : Nat :=
  (List.range 10).foldl (fun x i => x ^^^ bitsN line (5 * i + 4) (5 * i)) 0

/-- The L3 slice of a line on a die: the XOR of its 16-bit fields, modulo 28 (11 R341). -/
def l3Slice (line : Nat) : Nat :=
  (bitsN line 15 0 ^^^ bitsN line 31 16 ^^^ bitsN line 45 32) % 28

/-- The node of a line's home agent. -/
def homeNode (line : Nat) : Node := ⟨0x10, hubSlice line⟩

/-- The node of an agent of 11 R352 for a line: a die's L3 slice, or the hub agent's stop; of the four pipelines, the eight
bundles and the eight Hank ports, which one agent bit names together, the one whose number is the line's modulo theirs
(DESIGN CHOICE, log entry 61). -/
def agentNode (a line : Nat) : Node :=
  if a < 16 then ⟨a, 0x20 + l3Slice line⟩
  else match a with
    | 16 => ⟨0x10, 0x38 + line % 4⟩
    | 17 => ⟨0x10, 0x30 + line % 8⟩
    | 18 => ⟨0x18, 0⟩
    | 19 => ⟨0x19, 0⟩
    | 20 => ⟨0x10, 0x49⟩
    | _ => ⟨0x10, 0x40 + line % 8⟩

/-- The skein a packet for a line is charged to: that whose MEM range holds the line; packets of a guest carry 0 (R378, R380,
R397). -/
def Dev.chargeOf (d : Dev) (agent line : Nat) : Nat :=
  if agent = 18 ∨ agent = 19 then 0
  else match d.memOwner (line * 64) with
    | some c => c.skein
    | none => 0

end Sys2Proof.Machine
end

