-- ==== Sys2Proof/Machine/Cache.lean ====
section
/-! DEFINITION. Caches and the directory as structures (chapter 11): geometry, tree pseudo-LRU, the home cache, the L1s and
L2 of a spindle, a die's L3, and the hub directory with its caches. -/
namespace Sys2Proof.Machine

/-! ### Geometry (R340, R341) -/

/-- The key of a line in a map kept per die or per spindle. -/
def lineKey (unit line : Nat) : Nat := unit * 0x400000000000 + line

/-- The L3 set of a line on a die. -/
def l3SetKey (die line : Nat) : Nat := (die * 28 + l3Slice line) * 4096 + line % 4096

/-- The home-cache set of a line. -/
def hcSetKey (line : Nat) : Nat := hubSlice line * 6144 + (line / 32) % 6144

/-! ### Tree pseudo-LRU (R344) -/

/-- The victim below `node` of a tree over the leaf positions [lo, lo + 2^h): the preferred child, or the other where
the preferred subtree holds no eligible way. -/
def plruWalk (bits : Nat) (elig : Nat → Bool) : Nat → Nat → Nat → Nat
  | 0, _, lo => lo
  | h + 1, node, lo =>
    let half := 2 ^ h
    let right := bits.testBit node
    let has (b : Nat) := (List.range half).any fun i => elig (b + i)
    let goRight := if right then has (lo + half) else !has lo
    if goRight then plruWalk bits elig h (2 * node + 1) (lo + half)
    else plruWalk bits elig h (2 * node) lo

/-- The tree bits after a touch of `way`: every node on its path points away from it. -/
def plruTouch (h way : Nat) (bits : Nat) : Nat :=
  (List.range h).foldl (fun b i =>
    let lvl := h - i
    let node := 2 ^ (h - lvl) + way / 2 ^ lvl
    let wentRight := (way / 2 ^ (lvl - 1)) % 2 == 1
    if wentRight then b ^^^ (b &&& 2 ^ node) else b ||| 2 ^ node) bits

/-- The empty set of a cache. -/
def CSet.empty : CSet := ⟨[], 0⟩

/-- The way of a set that holds a line. -/
def CSet.wayOf (s : CSet) (line : Nat) : Option Nat := (s.ways.find? (fun w => w.2 == line)).map (·.1)

/-- The way a fill takes: the lowest eligible invalid way, else the victim of the tree; none where no way is
eligible. -/
def CSet.pick (s : CSet) (h ways : Nat) (elig : Nat → Bool) : Option Nat :=
  let all := List.range ways
  if all.any elig then
    match all.find? (fun w => elig w && (s.ways.all fun x => x.1 != w)) with
    | some w => some w
    | none => some (plruWalk s.plru elig h 1 0)
  else none

/-- The set after a line is placed in a way. -/
def CSet.place (s : CSet) (h way line : Nat) : CSet := ⟨minsert way line (merase s.ways way), plruTouch h way s.plru⟩

/-- The set after a hit on a way. -/
def CSet.touch (s : CSet) (h way : Nat) : CSet := { s with plru := plruTouch h way s.plru }

/-- The set without a line. -/
def CSet.drop (s : CSet) (line : Nat) : CSet := { s with ways := s.ways.filter fun w => w.2 != line }

/-! ### DRAM copies -/

/-- The line's newest bytes reach DRAM: its DRAM copy is the coherent one (R347). -/
def Dev.dramWriteback (d : Dev) (line : Nat) : Dev :=
  ({ d with mem := { d.mem with stale := merase d.mem.stale line } }).hubAddLine line 5 1

/-- The line is about to be written by `owner`: what DRAM holds of it is remembered. -/
def Dev.markStale (d : Dev) (line owner : Nat) (spindle : Option Nat) : Dev :=
  match mget none d.mem.stale line with
  | some st => { d with mem := { d.mem with stale := mset none d.mem.stale line (some { st with owner := owner, spindle := spindle }) } }
  | none => { d with mem := { d.mem with stale := mset none d.mem.stale line (some ⟨owner, spindle, d.bytes (line * 64) 64, d.poisoned line⟩) } }

/-! ### The home cache (R342, R347, R348) -/

/-- HC_FILL of the skein that owns a line; NONE where it has no home-cache way (R348), and from home-cache step 2 (17
R542). The field does not apply to queue memory, whose clean lines are placed by no read and no victim (R348; 04 R148,
R149). -/
def Dev.hcFill (d : Dev) (line : Nat) : Nat :=
  match d.memOwner (line * 64) with
  | some c => if c.inQmem (line * 64) ∨ c.hcWays = 0 ∨ 2 ≤ d.regF Reg.PWR_THERM_HC 1 0 then 3 else d.regF (Reg.CCH_SK_POLICY c.skein) 1 0
  | none => 3

/-- A way power-down unit at rest. -/
def WayUnit.idle : WayUnit := ⟨false, 0, 0⟩

/-- The powered ways of a unit: the L3 of die 0 to 15, or 16 the home cache (R370, R371). -/
def Dev.waysUp (d : Dev) (u : Nat) : Nat :=
  if u < 16 then d.regF (Reg.CCH_L3_WAYS u) 11 0 else d.regF Reg.CCH_HC_WAYS 15 0

/-- Whether a way of a unit takes lines in a slice: it is powered, and where it is being cleaned the slice's turn has not
come (R344, R362). -/
def Dev.wayOpen (d : Dev) (u slice w : Nat) : Bool :=
  let x := mget WayUnit.idle d.coh.wayUnits u
  if x.cleaning && x.way == w then decide (x.next < slice) else (d.waysUp u).testBit w

/-- The home-cache ways a line may be placed in (R342): those of its skein that are powered and not retired; the ways
of HC_QWAYS hold queue memory alone (04 R148). -/
def Dev.hcEligible (d : Dev) (line w : Nat) : Bool :=
  match d.memOwner (line * 64) with
  | some c =>
    (if c.inQmem (line * 64) then (if c.hcQways = 0 then c.hcWays else c.hcQways).testBit w
     else c.hcWays.testBit w && !c.hcQways.testBit w) &&
      d.wayOpen 16 (hubSlice line) w && !mget false d.coh.hcRetired (hubSlice line * 16 + w)
  | none => false

/-- A line leaves the home cache; a dirty one is written to DRAM (R347). -/
def Dev.hcEvict (d : Dev) (line : Nat) : Dev :=
  let d1 := match mget none d.coh.hc line with
    | some h => if h.dirty then d.dramWriteback line else d
    | none => d
  let k := hcSetKey line
  { d1 with coh := { d1.coh with hc := merase d1.coh.hc line, hcsets := mset CSet.empty d1.coh.hcsets k ((mget CSet.empty d1.coh.hcsets k).drop line) } }

/-- A line is placed in the home cache, or written to DRAM where it is dirty and has no way (R347). -/
def Dev.hcInstall (d : Dev) (line : Nat) (dirty : Bool) : Dev :=
  let k := hcSetKey line
  match mget none d.coh.hc line with
  | some h =>
    let s := mget CSet.empty d.coh.hcsets k
    let s := match s.wayOf line with | some w => s.touch 4 w | none => s
    let d := if dirty then d.markStale line 22 none else d
    { d with coh := { d.coh with hc := mset none d.coh.hc line (some { h with dirty := h.dirty || dirty }), hcsets := mset CSet.empty d.coh.hcsets k s } }
  | none =>
    match (mget CSet.empty d.coh.hcsets k).pick 4 16 (d.hcEligible line) with
    | none => if dirty then d.dramWriteback line else d
    | some w =>
      let d := match (mget CSet.empty d.coh.hcsets k).ways.find? (fun (x : Nat × Nat) => x.1 == w) with
        | some x => d.hcEvict x.2
        | none => d
      let d := if dirty then d.markStale line 22 none else d
      { d with coh := { d.coh with hc := mset none d.coh.hc line (some ⟨dirty⟩), hcsets := mset CSet.empty d.coh.hcsets k ((mget CSet.empty d.coh.hcsets k).place 4 w line) } }

/-- The home reads a line: from the home cache, or from DRAM, installing it under HC_FILL ALL (R348). True where the
home cache held it. -/
def Dev.homeRead (d : Dev) (line : Nat) : Dev × Bool :=
  match mget none d.coh.hc line with
  | some _ => (d.hcInstall line false, true)
  | none =>
    let d := d.hubAddLine line 4 1
    (if d.hcFill line = 0 then d.hcInstall line false else d, false)

/-- The home reads a line for a NORMAL-NC access, which allocates in no cache (10 R316). True where the home cache held
it. -/
def Dev.homeReadNc (d : Dev) (line : Nat) : Dev × Bool :=
  if (mget none d.coh.hc line).isSome then (d.hcInstall line false, true) else (d.hubAddLine line 4 1, false)

/-- A NORMAL-NC write at the home: into the copy the home cache holds, or straight to DRAM (10 R316, 13 R415). -/
def Dev.homeWriteNc (d : Dev) (line : Nat) (cells : List Host.Cell) : Dev :=
  let d' := (if (mget none d.coh.hc line).isSome then d.markStale line 22 none else d).putBytes cells
  let d' := if coversLine line cells then d'.setPoison line false else d'
  if (mget none d.coh.hc line).isSome then d'.hcInstall line true else d'.dramWriteback line

/-! ### The L1s and L2 of a spindle (R340, R345, R347) -/

/-- The set of an L1: by its spindle and VA[12:6] (R340). -/
def l1Key (p vi : Nat) : Nat := p * 128 + vi % 128

/-- The two values of VA[12:6] under which a physical line can lie in an L1 (R340). -/
def l1Aliases (line : Nat) : List Nat := [line % 64, line % 64 + 64]

/-- Sets of an L1 without a line, under either alias. -/
def l1Without (sets : List (Nat × CSet)) (p line : Nat) : List (Nat × CSet) :=
  (l1Aliases line).foldl (fun m vi => mupd CSet.empty m (l1Key p vi) fun s => s.drop line) sets

/-- Whether an L1 holds a line, under either alias. -/
def l1Holds (sets : List (Nat × CSet)) (p line : Nat) : Bool :=
  (l1Aliases line).any fun vi => ((mget CSet.empty sets (l1Key p vi)).wayOf line).isSome

/-- The copies of a line above an L2 leave (R345). -/
def Dev.l1Drop (d : Dev) (p line : Nat) : Dev :=
  { d with coh := { d.coh with l1dsets := l1Without d.coh.l1dsets p line, l1isets := l1Without d.coh.l1isets p line } }

/-- The L2 set of a line. -/
def l2SetKey (p line : Nat) : Nat := p * 2048 + line % 2048

/-- A line leaves an L2 with every copy above it. -/
def Dev.l2Drop (d : Dev) (p line : Nat) : Dev :=
  let d := d.l1Drop p line
  { d with coh := { d.coh with
      l2 := merase d.coh.l2 (lineKey p line), l2sets := mupd CSet.empty d.coh.l2sets (l2SetKey p line) fun s => s.drop line } }

/-- An L2 that held a line in M keeps it in S. -/
def Dev.l2Downgrade (d : Dev) (p line : Nat) : Dev :=
  { d with coh := { d.coh with l2 := mupd none d.coh.l2 (lineKey p line) fun x => x.map fun _ => ⟨false⟩ } }

/-- The presence bit of a spindle is cleared in its die's tag of a line, and CM with it (R347, R351). -/
def Dev.presClear (d : Dev) (p line : Nat) : Dev :=
  { d with coh := { d.coh with l3 := mupd none d.coh.l3 (lineKey (p / 28) line) fun x => x.map fun t =>
      { t with cm := if t.pres.getLsbD (p % 28) then false else t.cm, pres := t.pres &&& ~~~(1#28 <<< (p % 28)) } } }

/-- A line hits or is placed in an L1 under VA[12:6]; a copy under the other alias leaves first, and a victim stays in the
L2 (R340, R347). -/
def l1Place (sets : List (Nat × CSet)) (p vi line : Nat) : List (Nat × CSet) :=
  let k := l1Key p vi
  match (mget CSet.empty sets k).wayOf line with
  | some w => mupd CSet.empty sets k fun s => s.touch 3 w
  | none =>
    let sets := l1Without sets p line
    match (mget CSet.empty sets k).pick 3 8 (fun _ => true) with
    | some w => mupd CSet.empty sets k fun s => s.place 3 w line
    | none => sets

/-- Where an access wants its line: an L1 under VA[12:6], or the L2 alone. -/
inductive Fill where
  | l1d (vi : Nat)
  | l1i (vi : Nat)
  | l2
  deriving DecidableEq, Repr

/-- Whether the cache that an access asks holds a line. -/
def Dev.fillHit (d : Dev) (p line : Nat) : Fill → Bool
  | .l1d vi => ((mget CSet.empty d.coh.l1dsets (l1Key p vi)).wayOf line).isSome
  | .l1i vi => ((mget CSet.empty d.coh.l1isets (l1Key p vi)).wayOf line).isSome
  | .l2 => false

/-- A line that stands in the L2 is placed in, or hits, the L1 that asked. -/
def Dev.l1Fill (d : Dev) (p line : Nat) : Fill → Dev
  | .l1d vi => { d with coh := { d.coh with l1dsets := l1Place d.coh.l1dsets p vi line } }
  | .l1i vi => { d with coh := { d.coh with l1isets := l1Place d.coh.l1isets p vi line } }
  | .l2 => d

/-- A line hits or is placed in the L2 of a spindle. A victim's data goes to the L3 and its presence bit clears (R347). -/
def Dev.l2Place (d : Dev) (p line : Nat) : Dev :=
  let k := l2SetKey p line
  match (mget CSet.empty d.coh.l2sets k).wayOf line with
  | some w => { d with coh := { d.coh with l2sets := mupd CSet.empty d.coh.l2sets k fun s => s.touch 4 w } }
  | none =>
    match (mget CSet.empty d.coh.l2sets k).pick 4 16 (fun _ => true) with
    | none => d
    | some w =>
      let d := match (mget CSet.empty d.coh.l2sets k).ways.find? (fun (x : Nat × Nat) => x.1 == w) with
        | some x => (d.l2Drop p x.2).presClear p x.2
        | none => d
      { d with coh := { d.coh with l2sets := mupd CSet.empty d.coh.l2sets k fun s => s.place 4 w line } }

/-- A line is placed in the L2 of a spindle, with or without write permission, and in the L1 that asked. -/
def Dev.l2Fill (d : Dev) (p line : Nat) (excl : Bool) (into : Fill) : Dev :=
  let m := ((mget none d.coh.l2 (lineKey p line)).getD ⟨false⟩).m || excl
  let d := d.l2Place p line
  ({ d with coh := { d.coh with l2 := mset none d.coh.l2 (lineKey p line) (some ⟨m⟩) } }).l1Fill p line into

/-! ### A die's L3 (R345, R347, R351) -/

/-- `f` is done for every spindle of a die whose presence bit is set, but one where named. -/
def Dev.forPres (d : Dev) (die : Nat) (pres : BitVec 28) (but : Option Nat) (f : Dev → Nat → Dev) : Dev :=
  (List.range 28).foldl (fun d n => if pres.getLsbD n && some n != but then f d (die * 28 + n) else d) d

/-- Every copy of a line leaves a die: L2s, L1s and the L3. -/
def Dev.dieDrop (d : Dev) (die line : Nat) : Dev :=
  match mget none d.coh.l3 (lineKey die line) with
  | none => d
  | some t =>
    let d := d.forPres die t.pres none fun d p => d.l2Drop p line
    { d with coh := { d.coh with
        l3 := merase d.coh.l3 (lineKey die line), l3sets := mupd CSet.empty d.coh.l3sets (l3SetKey die line) fun s => s.drop line } }

/-- A die that held a line in M keeps it in S: its cores lose write permission. -/
def Dev.dieDowngrade (d : Dev) (die line : Nat) : Dev :=
  match mget none d.coh.l3 (lineKey die line) with
  | none => d
  | some t =>
    let d := d.forPres die t.pres none fun d p => d.l2Downgrade p line
    { d with coh := { d.coh with l3 := mset none d.coh.l3 (lineKey die line) (some { t with dieM := false, pend := false, cm := false }) } }

/-- The L3 positions that a skein may use on a die (R342, R344): its ways that are powered and not retired, and the spare,
position 12, where it stands in for such a way. -/
def Dev.l3Eligible (d : Dev) (sk die line w : Nat) : Bool :=
  let sl := die * 28 + l3Slice line
  let usable (x : Nat) : Bool :=
    (match d.skeinCfg sk with | some c => (c.l3Ways.getD die 0).testBit x | none => false) && d.wayOpen die (l3Slice line) x
  !mget false d.coh.l3Retired (sl * 16 + w) &&
    (if w = 12 then (match mget none d.coh.l3Spare sl with | some x => usable x | none => false) else usable w)

/-! ### The hub directory (R352, R353, R357, R365) -/

/-- A hub directory entry that no agent holds. -/
def DirEntry.idle : DirEntry := ⟨.i, 0#22⟩

/-- The bit of an agent in a directory entry. -/
def agentBit (a : Nat) : BitVec 22 := 1#22 <<< a

/-- The holders of an entry, as agent numbers. -/
def DirEntry.list (e : DirEntry) : List Nat := (List.range 22).filter fun a => e.holders.getLsbD a

/-- The number of an entry's owner. -/
def DirEntry.owner (e : DirEntry) : Nat := e.list.headD 0

/-- Agent `a` drops a clean copy: its bit clears, and the entry is I when none remains (PutS of R353). -/
def DirEntry.putS (e : DirEntry) (a : Nat) : DirEntry :=
  match e.st with
  | .s =>
    let h := e.holders &&& ~~~agentBit a
    if h = 0#22 then DirEntry.idle else ⟨.s, h⟩
  | _ => e

/-- What an unlisted entry is: idle, or in a rank filled after PARTIAL the state 0b11 (13 R426). -/
def Dev.dirDefault (d : Dev) (line : Nat) : DirEntry := if d.inRanks d.coh.never line then ⟨.never, 0#22⟩ else DirEntry.idle

/-- The entry of a line in the backing store. -/
def Dev.dirBack (d : Dev) (line : Nat) : DirEntry := mget (d.dirDefault line) d.coh.dir line

/-- The directory entry of a line: the changed one of a directory cache, else the backing store's. -/
def Dev.dirOf (d : Dev) (line : Nat) : DirEntry := (mget none d.coh.dirNew line).getD (d.dirBack line)

/-- The backing store with the entry of a line replaced. -/
def Dev.setDirBack (d : Dev) (line : Nat) (e : DirEntry) : Dev :=
  { d with coh := { d.coh with dir := mset (d.dirDefault line) d.coh.dir line e } }

/-- The sector of 16 entries of one hub slice that holds a line's entry: of 512 consecutive lines 16 have the slice (R341,
R357; the grouping is a DESIGN CHOICE, log entry 62). -/
def dirSector (line : Nat) : Nat := line / 512

/-- The set of a directory cache: 1,024 of 16 ways (R357). -/
def dcSetKey (slice sector : Nat) : Nat := slice * 1024 + sector % 1024

/-- Whether the directory cache of a line's slice holds its sector. -/
def Dev.dirCached (d : Dev) (line : Nat) : Bool :=
  ((mget CSet.empty d.coh.dcsets (dcSetKey (hubSlice line) (dirSector line))).wayOf (dirSector line)).isSome

/-- The changed entries of a sector are written back to the backing store (R357). -/
def Dev.dirWriteBack (d : Dev) (slice sector : Nat) : Dev :=
  (d.coh.dirNew.filter fun (e : Nat × Option DirEntry) => dirSector e.1 == sector && hubSlice e.1 == slice).foldl (fun d e =>
    let d := match e.2 with | some x => d.setDirBack e.1 x | none => d
    { d with coh := { d.coh with dirNew := merase d.coh.dirNew e.1 } }) d

/-- The home looks a line's entry up: its sector hits, or takes the place of a victim that is written back; a
miss adds one DRAM read (R357; DEDUCED, log entry 62: DRAM_RD of 19 R595 counts it). -/
def Dev.dirTouch (d : Dev) (line : Nat) : Dev :=
  let k := dcSetKey (hubSlice line) (dirSector line)
  let s := mget CSet.empty d.coh.dcsets k
  match s.wayOf (dirSector line) with
  | some w => { d with coh := { d.coh with dcsets := mset CSet.empty d.coh.dcsets k (s.touch 4 w) } }
  | none =>
    match s.pick 4 16 (fun w => !mget false d.coh.dirRetired (hubSlice line * 16 + w)) with
    | none => d.hubAddLine line 4 1
    | some w =>
      let d := match s.ways.find? (fun (x : Nat × Nat) => x.1 == w) with
        | some x => d.dirWriteBack (hubSlice line) x.2
        | none => d
      { d with coh := { d.coh with dcsets := mset CSet.empty d.coh.dcsets k (s.place 4 w (dirSector line)) } }.hubAddLine line 4 1

/-- The device with the directory entry of a line replaced: in the directory cache that holds its sector, which is written
back later, else in the backing store (R357). -/
def Dev.setDir (d : Dev) (line : Nat) (e : DirEntry) : Dev :=
  { d with coh :=
      if d.dirCached line then { d.coh with dirNew := mset none d.coh.dirNew line (if e = d.dirBack line then none else some e) }
      else { d.coh with dir := mset (d.dirDefault line) d.coh.dir line e, dirNew := merase d.coh.dirNew line } }

/-- Agents declared dead, as a bit per agent of R352 (R365). -/
def Dev.deadAgents (d : Dev) : BitVec 22 := BitVec.ofNat 22 (d.regF Reg.CCH_DEAD 21 0)

/-- A line is poisoned by reclaim at the hub and counted (R365). -/
def Dev.reclaimPoison (d : Dev) (line : Nat) : Dev :=
  let d := (d.setPoison line true).count Reg.CCH_POISONED
  let d := { d with mem := { d.mem with stale := merase d.mem.stale line } }
  match d.memOwner (line * 64) with
  | some c => d.count (Reg.CCH_SK_POISONED c.skein)
  | none => d

/-- A directory entry that names a dead agent is corrected when it is touched: an S bit clears, and an M line becomes
I with its memory copy poisoned (R365). -/
def Dev.dirCorrect (d : Dev) (line : Nat) : Dev :=
  let e := d.dirOf line
  if e.holders &&& d.deadAgents = 0#22 then d
  else match e.st with
    | .m => (d.setDir line DirEntry.idle).reclaimPoison line
    | _ =>
      let h := e.holders &&& ~~~d.deadAgents
      d.setDir line (if h = 0#22 then DirEntry.idle else { e with holders := h })

/-- The state in which an agent's own tags hold a line (R356, R357). -/
def Dev.agentState (d : Dev) (a line : Nat) : DirState :=
  if a < 16 then
    match mget none d.coh.l3 (lineKey a line) with
    | some t => if t.dieM then .m else .s
    | none => .i
  else mget .i d.coh.hubHeld (lineKey a line)

/-- A hub agent holds a line in a state. -/
def Dev.setHubHeld (d : Dev) (a line : Nat) (st : DirState) : Dev :=
  { d with coh := { d.coh with hubHeld := mset .i d.coh.hubHeld (lineKey a line) st } }

/-- What the answers of all 22 agents make of a line's entry: a die in M writes back and is asked as S; a hub agent in M
stays its owner, since what it wrote comes only with its own write-back (R357; log entry 63). -/
def Dev.rebuiltEntry (d : Dev) (line : Nat) : DirEntry :=
  match (List.range 22).find? fun a => decide (16 ≤ a) && d.agentState a line == .m with
  | some a => ⟨.m, agentBit a⟩
  | none =>
    let hold := (List.range 22).filter fun a => d.agentState a line != .i
    if hold = [] then DirEntry.idle else ⟨.s, hold.foldl (fun h a => h ||| agentBit a) 0#22⟩

/-- The directory line of 21 entries that covers a line is rebuilt: an M holder writes back, every entry is written
from the agents' answers, and the rebuild is counted (R357). -/
def Dev.dirRebuild (d : Dev) (line : Nat) : Dev :=
  let d := (List.range 21).foldl (fun d i =>
    let x := line / 21 * 21 + i
    let d := (List.range 16).foldl (fun d die => if d.agentState die x = .m then (d.dieDowngrade die x).hcInstall x true else d) d
    d.setDir x (d.rebuiltEntry x)) d
  ({ d with coh := { d.coh with dirPoison := merase d.coh.dirPoison (line / 21) } }).count Reg.CCH_DIR_REBUILD

/-- Whether a line's entry starts a rebuild: state 0b11, or a poisoned directory line (R357). -/
def Dev.mustRebuild (d : Dev) (line : Nat) : Bool :=
  (d.dirOf line).st == .never || mget false d.coh.dirPoison (line / 21)

/-- The rebuild of a line's directory line begins (R357). -/
def Dev.startRebuild (d : Dev) (line : Nat) : Dev :=
  if d.coh.rebuild.contains (line / 21) then d else { d with coh := { d.coh with rebuild := d.coh.rebuild ++ [line / 21] } }

end Sys2Proof.Machine
end

