-- ==== Sys2Proof/Machine/Home.lean ====
section
/-! DEFINITION. The hub home agents (11 R352 to R359): how a home answers the requests for a line, one at a time and in order
of arrival, the packets it sends and takes, and the operations of far atomics. -/
namespace Sys2Proof.Machine

/-! ### What an atomic computes (07 R236) -/

/-- A `bits`-wide number read as signed or unsigned. -/
def asInt (bits : Nat) (unsigned : Bool) (x : Nat) : Int :=
  if unsigned ∨ x < 2 ^ (bits - 1) then x else (x : Int) - 2 ^ bits

/-- An integer as a `bits`-wide number. -/
def asNat (bits : Nat) (v : Int) : Nat := (v % 2 ^ bits).toNat

/-- The bounds of a `bits`-wide integer. -/
def intLo (bits : Nat) (unsigned : Bool) : Int := if unsigned then 0 else -(2 ^ (bits - 1))
def intHi (bits : Nat) (unsigned : Bool) : Int := if unsigned then 2 ^ bits - 1 else 2 ^ (bits - 1) - 1

/-- What an atomic stores; none where a CAS finds its comparison false (07 R236). -/
def atomNew (k : AtomKind) (bits : Nat) (unsigned : Bool) (old operand compare : Nat) : Option Nat :=
  let b := operand % 2 ^ bits
  match k with
  | .swap => some b
  | .add => some ((old + b) % 2 ^ bits)
  | .and => some (old &&& b)
  | .or => some (old ||| b)
  | .xor => some (old ^^^ b)
  | .min => some (if asInt bits unsigned old ≤ asInt bits unsigned b then old else b)
  | .max => some (if asInt bits unsigned old ≤ asInt bits unsigned b then b else old)
  | .sadd => some (asNat bits (satInt (intLo bits unsigned) (intHi bits unsigned) (asInt bits unsigned old + asInt bits unsigned b)))
  | .cas => if old = compare % 2 ^ bits then some b else none

/-! ### HOT (R359) -/

/-- A home notes that an agent's atomic or store on a line was performed there now. -/
def Dev.noteFar (d : Dev) (who line : Nat) : Dev :=
  { d with coh := { d.coh with lastFar := mupd [] d.coh.lastFar line fun l => (who, d.now) :: l.filter fun x => x.1 != who } }

/-- HOT: the home performed another agent's atomic or store on the line in the last 2 µs (R359). -/
def Dev.hot (d : Dev) (who line : Nat) : Bool :=
  (mget [] d.coh.lastFar line).any fun x => x.1 != who && decide (d.now ≤ x.2 + 2000)

/-! ### Whether a home can take a request now -/

/-- How an access to memory is answered: performed, held at a boundary port (12 R387), waiting at its home (R354, R357), or
refused with a status. -/
inductive Answer where
  | ok | hold | wait
  | err (s : Status)
  deriving DecidableEq, Repr

/-- Whether some cache of the package holds a line, so that DRAM need not be read. -/
def Dev.cached (d : Dev) (line : Nat) : Bool :=
  (mget none d.coh.hc line).isSome || (List.range 16).any fun i => (mget none d.coh.l3 (lineKey i line)).isSome

/-- The answer of a line's memory: of its copy in a cache, or of the port of its channel (12 R387). -/
def Dev.lineAnswer (d : Dev) (line : Nat) : Answer :=
  if d.cached line then .ok
  else match d.channelOf (line * 64) with
    | none => .err .dead
    | some (ch, _) =>
      match (d.port (384 + ch)).st with
      | .opened => .ok
      | .off => .err .domainOff
      | _ => .hold

/-- The answer of a line's home to an access made in one exchange: an earlier request for the line goes first (R354), and so
does the rebuild of its directory line (R357). -/
def Dev.homeAnswer (d : Dev) (line : Nat) : Answer :=
  if (mget none d.coh.txn line).isSome || d.coh.rebuild.contains (line / 21) then .wait else d.lineAnswer line

/-! ### Packets in flight -/

/-- A packet is sent between a home and an agent, from the one's node to the other's (12 R372, R373); what
a hub stop injects is counted (19 R595). -/
def Dev.send (d : Dev) (k : CohKind) (agent line : Nat) (data : List Byte) : Dev :=
  let toHome := match k with
    | .ack | .rdata | .already => true
    | _ => false
  let a := agentNode agent line
  let h := homeNode line
  let m : CohMsg := ⟨k, agent, line, data, if toHome then a else h, if toHome then h else a, d.chargeOf agent line, 0⟩
  { d with
    hubCnt := (if m.src.site = 0x10 then d.hubAdd m.skein 3 m.flits else d).hubCnt
    coh := { d.coh with flight := d.coh.flight ++ [m] } }

/-- The first packet of a kind to or from an agent for a line. -/
def Dev.inFlight (d : Dev) (k : CohKind) (agent line : Nat) : Option CohMsg :=
  d.coh.flight.find? fun m => m.kind == k && m.agent == agent && m.line == line

/-- The packet arrives and is in flight no more. -/
def Dev.arrived (d : Dev) (m : CohMsg) : Dev := { d with coh := { d.coh with flight := d.coh.flight.erase m } }

/-- The device with a home's work on a line replaced. -/
def Dev.setTxn (d : Dev) (line : Nat) (t : Option HomeTxn) : Dev :=
  { d with coh := { d.coh with txn := mset none d.coh.txn line t } }

/-- A home's work on a line. -/
def Dev.txnOf (d : Dev) (line : Nat) : Option HomeTxn := mget none d.coh.txn line

/-- The bytes of a line. -/
def Dev.lineData (d : Dev) (line : Nat) : List Byte := d.bytes (line * 64) 64

/-! ### The home at work -/

/-- The cells of a masked write (12 R372). -/
def maskedCells (line : Nat) (mask : BitVec 64) (data : List Byte) : List Host.Cell :=
  ((List.range 64).filter fun i => mask.getLsbD i).map fun i => (line * 64 + i, data.getD i 0#8)

/-- A full line written by its new owner: the data replaces the line and its poison (R353, R367). -/
def Dev.fullWrite (d : Dev) (agent line : Nat) (data : List Byte) : Dev :=
  ((d.markStale line agent none).putBytes (cellsAt (line * 64) (bytesAt data 0 64))).setPoison line false

/-- A write at the home itself: the newest copy stands there, dirty. -/
def Dev.homeWrite (d : Dev) (line : Nat) (cells : List Host.Cell) : Dev :=
  let d := (d.markStale line 22 none).putBytes cells
  let d := if coversLine line cells then d.setPoison line false else d
  (d.setDir line DirEntry.idle).hcInstall line true

/-- A far atomic at the home: the old value goes back with HOT, and the skein charged counts it (R358, R359, R371). A CAS
that fails writes nothing (07 R237). -/
def Dev.homeAtom (d : Dev) (agent line : Nat) (op : AtomOp) : Dev :=
  let n := if op.dword then 8 else 4
  let pa := line * 64 + op.off.toNat / n * n
  let old := d.readLe pa n
  let hot := d.hot (0x1000 + agent) line
  let d := (d.homeRead line).1
  let d := match atomNew op.kind (8 * n) op.unsigned old op.operand.toNat op.compare.toNat with
    | some v => d.homeWrite line (cellsAt pa (leBytes n v))
    | none => d.setDir line DirEntry.idle
  let d := (d.noteFar (0x1000 + agent) line).count (Reg.CCH_SK_FAR (d.chargeOf agent line))
  d.send .data agent line (leBytes 8 old ++ leBytes 1 (b2n hot))

/-- What the home does once no copy stands in the way (R353). -/
def Dev.homeFinish (d : Dev) (line agent : Nat) : HomeReq → Dev
  | .getS =>
    let d := (d.homeRead line).1
    (d.setDir line ⟨.s, (d.dirOf line).holders ||| agentBit agent⟩).send .data agent line (d.lineData line)
  | .getM =>
    let held := (d.dirOf line).holders.getLsbD agent
    let d := if held then d else (d.homeRead line).1
    (d.setDir line ⟨.m, agentBit agent⟩).send .grantDone agent line (if held then [] else d.lineData line)
  | .full data => ((d.fullWrite agent line data).setDir line ⟨.m, agentBit agent⟩).send .grantDone agent line []
  | .atom op => d.homeAtom agent line op
  | .rdnc => let d := (d.homeReadNc line).1; d.send .data agent line (d.lineData line)
  | .wrnc mask data => ((d.homeWriteNc line (maskedCells line mask data)).setDir line DirEntry.idle).noteFar (0x1000 + agent) line

/-- The home recalls the line from its owner and waits (R353). -/
def Dev.homeRecall (d : Dev) (line agent o : Nat) (req : HomeReq) (k : CohKind) : Dev :=
  (d.send k o line []).setTxn line (some ⟨agent, req, some o, 0#22, false, true, []⟩)

/-- The home invalidates holders; a GetM or full-line write has its grant pending meanwhile (R355). -/
def Dev.homeInval (d : Dev) (line agent : Nat) (hs : BitVec 22) (req : HomeReq) (grant : Bool) : Dev :=
  let had := (d.dirOf line).holders.getLsbD agent
  let d := ((List.range 22).filter fun a => hs.getLsbD a).foldl (fun d a => d.send .inv a line []) d
  let d := if grant then
      match req with
      | .full data => ((d.fullWrite agent line data).setDir line ⟨.m, agentBit agent⟩).send .grantPending agent line []
      | _ =>
        let d := if had then d else (d.homeRead line).1
        (d.setDir line ⟨.m, agentBit agent⟩).send .grantPending agent line (if had then [] else d.lineData line)
    else d
  d.setTxn line (some ⟨agent, req, none, hs, grant, true, []⟩)

/-- The home begins a request on a line at which it does no other work (R353, R357); a request that its channel's port
refuses is answered with the status (12 R387). -/
def Dev.homeStart (d : Dev) (line agent : Nat) (req : HomeReq) : Dev :=
  let wait (d : Dev) : Dev := d.setTxn line (some ⟨agent, req, none, 0#22, false, false, []⟩)
  match d.lineAnswer line with
  | .err st =>
    ({ d with out := d.out ++ [.refused agent line st] } : Dev) |> fun d => if st = .domainOff then d.count Reg.MESH_HUB_DOFF_COUNT else d
  | .hold | .wait => wait d
  | .ok =>
    let d := (d.dirTouch line).dirCorrect line
    if d.mustRebuild line then wait (d.startRebuild line)
    else
      let e := d.dirOf line
      let me := agentBit agent
      let others := e.holders &&& ~~~me
      match req with
      | .getS =>
        if e.st = .m then (if e.holders = me then d else d.homeRecall line agent e.owner req .recallS)
        else d.homeFinish line agent req
      | .getM =>
        if e.st = .m then (if e.holders = me then d else d.homeRecall line agent e.owner req .recallI)
        else if others = 0#22 then d.homeFinish line agent req
        else d.homeInval line agent others req true
      | .full _ =>
        if e.st = .m then (if e.holders = me then d.homeFinish line agent req else d.homeRecall line agent e.owner req .recallD)
        else if others = 0#22 then d.homeFinish line agent req
        else d.homeInval line agent others req true
      | .rdnc => if e.st = .m then d.homeRecall line agent e.owner req .recallS else d.homeFinish line agent req
      | _ =>
        if e.st = .m then d.homeRecall line agent e.owner req .recallI
        else if e.holders = 0#22 then d.homeFinish line agent req
        else d.homeInval line agent e.holders req false

/-- Requests that wait for a line are served in order, until one must wait again (R354). -/
def Dev.homeServe (d : Dev) (line : Nat) : List (Nat × HomeReq) → Dev
  | [] => d
  | (a, r) :: rest =>
    let d := d.homeStart line a r
    match d.txnOf line with
    | some t => d.setTxn line (some { t with waiting := t.waiting ++ rest })
    | none => d.homeServe line rest

/-- Whether the router port of an agent is isolated: what comes from it is discarded (12 R383). -/
def Dev.agentIsolated (d : Dev) (a : Nat) : Bool :=
  if a < 16 then d.regF Reg.MESH_HUB_ISO a a == 1
  else if a = 18 ∨ a = 19 then d.regF Reg.MESH_HUB_ISO (a - 2) (a - 2) == 1
  else false

/-- A request reaches the home of a line: it waits behind an earlier one (R354). That of a dead or isolated agent is
discarded; a guest's is answered DEAD, as is one for memory that is not populated (12 R397, 01 R34), and one for queue
memory, which only the Bobbin engine reaches (03 R73). -/
def Dev.homeRequest (d : Dev) (line agent : Nat) (req : HomeReq) : Dev :=
  if d.deadAgents.getLsbD agent || d.agentIsolated agent || d.safe then d
  else if agent = 18 ∨ agent = 19 ∨ !d.populated (line * 64) ∨ (d.queueMem (line * 64) ∧ agent ≠ 16) then
    { d with out := d.out ++ [.refused agent line .dead] }
  else match d.txnOf line with
    | some t => d.setTxn line (some { t with waiting := t.waiting ++ [(agent, req)] })
    | none => d.homeServe line [(agent, req)]

/-- The home's work on a line ends and the requests that wait are served. -/
def Dev.endTxn (d : Dev) (line : Nat) (waiting : List (Nat × HomeReq)) : Dev := (d.setTxn line none).homeServe line waiting

/-- Whether a recall of a request discards the owner's data. -/
def HomeReq.discards : HomeReq → Bool
  | .full _ => true
  | _ => false

/-- Whether the owner recalled for a request keeps the line in S (R353). -/
def HomeReq.keepsS : HomeReq → Bool
  | .getS | .rdnc => true
  | _ => false

/-- What an owner writes back reaches the home: a hub agent's data comes with the packet; a die's stands in the coherent
bytes already (R353, R356). -/
def Dev.ownerData (d : Dev) (agent line : Nat) (data : List Byte) : Dev :=
  if 16 ≤ agent ∧ data.length = 64 then ((d.markStale line agent none).putBytes (cellsAt (line * 64) data)) else d

/-- The answer to a recall is there: the owner's data stands at the home, and the request is finished (R353). -/
def Dev.recallDone (d : Dev) (line : Nat) (t : HomeTxn) (kept : Bool) : Dev :=
  let d := d.setDir line (if kept then ⟨.s, agentBit (t.recallOf.getD 0)⟩ else DirEntry.idle)
  let d := if t.req.discards then d else d.hcInstall line true
  (d.homeFinish line t.agent t.req).endTxn line t.waiting

/-- An acknowledgement counts: after the last one a pending grant is done, or the request is finished (R355). -/
def Dev.ackCounted (d : Dev) (line agent : Nat) (t : HomeTxn) : Dev :=
  let left := t.acks &&& ~~~agentBit agent
  if left ≠ 0#22 then d.setTxn line (some { t with acks := left })
  else if t.granted then (d.send .done t.agent line []).endTxn line t.waiting
  else ((d.setDir line DirEntry.idle).homeFinish line t.agent t.req).endTxn line t.waiting

/-- PutM at the home: the owner's data is written there and the entry is I; one that crosses a recall to the same owner is
its answer (R353, R354). -/
def Dev.putMHome (d : Dev) (agent line : Nat) (data : List Byte) : Dev :=
  let d := d.dirTouch line
  if (d.dirOf line).st ≠ .m ∨ (d.dirOf line).holders ≠ agentBit agent then d
  else
    match d.txnOf line with
    | some t =>
      if t.recallOf = some agent then (if t.req.discards then d else d.ownerData agent line data).recallDone line t false
      else ((d.ownerData agent line data).setDir line DirEntry.idle).hcInstall line true
    | none => ((d.ownerData agent line data).setDir line DirEntry.idle).hcInstall line true

/-- PutS at the home: the holder's bit clears; one that crosses an invalidation is its acknowledgement (R353, R354). -/
def Dev.putSHome (d : Dev) (agent line : Nat) : Dev :=
  let d := d.dirTouch line
  let plain : Dev := if (d.dirOf line).st = .s ∧ (d.dirOf line).holders.getLsbD agent then d.setDir line ((d.dirOf line).putS agent) else d
  match d.txnOf line with
  | some t => if t.acks.getLsbD agent then d.ackCounted line agent t else plain
  | none => plain

/-! ### Accesses made in one exchange (log entry 5) -/

/-- A core's or die's request can be made of a line's home in one exchange: no request is before it, no rebuild is due, and
no hub agent holds the line in M, which is recalled first (R353, R354, R357). A DOMAIN_OFF is counted (12 R387). -/
def Dev.hubReach (d : Dev) (agent line : Nat) (req : HomeReq) : Dev × Answer :=
  match d.homeAnswer line with
  | .ok =>
    let d := (d.dirTouch line).dirCorrect line
    if d.mustRebuild line then (d.startRebuild line, .wait)
    else
      let e := d.dirOf line
      if e.st = .m ∧ 16 ≤ e.owner ∧ e.owner ≠ agent then (d.homeServe line [(agent, req)], .wait)
      else (d, .ok)
  | .err st => (if st = .domainOff then d.count Reg.MESH_HUB_DOFF_COUNT else d, .err st)
  | a => (d, a)

/-- Every holder but `a` loses its copy; an M owner writes back to the home first (R353). -/
def Dev.dropOthers (d : Dev) (a line : Nat) (e : DirEntry) (discard : Bool) : Dev :=
  e.list.foldl (fun d h =>
    if h = a then d
    else
      let d := if h < 16 then d.dieDrop h line else d.setHubHeld h line .i
      if e.st = .m ∧ !discard then d.hcInstall line true else d) d

/-- Agent `a` obtains a line at the hub in one exchange: GetS, GetM, or a full-line write (R353). The Bool tells
whether the data came from the home cache. -/
def Dev.dirAcquire (d : Dev) (a line : Nat) (excl full : Bool) : Dev × Bool :=
  let e := d.dirOf line
  if excl then
    let had := e.st = .s ∧ e.holders.getLsbD a
    let d := d.dropOthers a line e full
    let r := if full ∨ had then (d, true) else d.homeRead line
    (r.1.setDir line ⟨.m, agentBit a⟩, r.2)
  else
    match e.st with
    | .m =>
      if e.holders = agentBit a then (d, true)
      else
        let d := e.list.foldl (fun d h => if h < 16 then d.dieDowngrade h line else d) d
        let r := (d.hcInstall line true).homeRead line
        (r.1.setDir line ⟨.s, e.holders ||| agentBit a⟩, r.2)
    | _ =>
      let r := d.homeRead line
      (r.1.setDir line ⟨.s, e.holders ||| agentBit a⟩, r.2)

/-- No copy stands above the home: an M owner has written back and every holder has dropped the line, as for a far atomic
(R358). -/
def Dev.dirClear (d : Dev) (line : Nat) : Dev :=
  (d.dropOthers 22 line (d.dirOf line) false).setDir line DirEntry.idle

/-- Bytes are written at the home: holders lose their copies, and the home notes who wrote (R353, R359). -/
def Dev.homeStore (d : Dev) (who : Nat) (cells : List Host.Cell) : Dev :=
  match cells with
  | [] => d
  | c :: _ =>
    let line := c.1 / 64
    let full := coversLine line cells
    let d := d.dirTouch line
    let d := d.dropOthers 22 line (d.dirOf line) full
    let d := if full then d else (d.homeRead line).1
    (d.homeWrite line cells).noteFar who line

/-- A hub agent's bytes reach coherent memory through the home (R356). -/
def Dev.hubWrite (d : Dev) (a : Nat) (cells : List Host.Cell) : Dev := d.homeStore (0x1000 + a) cells

/-- A hub agent reads a line through the home and releases it (R356). -/
def Dev.hubRead (d : Dev) (a line : Nat) : Dev :=
  let d := d.dirTouch line
  let had := (d.dirOf line).holders.getLsbD a
  let d := (d.dirAcquire a line false false).1
  if had then d else d.setDir line ((d.dirOf line).putS a)

/-- Consecutive bytes, cut at line boundaries. -/
def splitLines : List Host.Cell → List (List Host.Cell)
  | [] => []
  | c :: cs =>
    match splitLines cs with
    | (c' :: g) :: gs => if c.1 / 64 = c'.1 / 64 then (c :: c' :: g) :: gs else [c] :: (c' :: g) :: gs
    | gs => [c] :: gs

/-- A hub agent writes bytes of any length, line by line. -/
def Dev.hubWriteAll (d : Dev) (a pa : Nat) (bs : List Byte) : Dev :=
  (splitLines (cellsAt pa bs)).foldl (fun d g => d.hubWrite a g) d

/-- A NORMAL-NC write of a core reaches the home, leaving no copy in any cache of a die and placing none (10 R316). -/
def Dev.ncWrite (d : Dev) (who : Nat) (cells : List Host.Cell) : Dev :=
  match cells with
  | [] => d
  | c :: _ =>
    let line := c.1 / 64
    let d := d.dirTouch line
    ((d.dirClear line).homeWriteNc line cells).noteFar who line

/-- A read at the home: an M owner writes back and keeps S, and the home reads as `read` says. -/
def Dev.readHome (d : Dev) (line : Nat) (read : Dev → Nat → Dev × Bool) : Dev × Bool :=
  let d := d.dirTouch line
  let e := d.dirOf line
  if e.st = .m then
    let d := e.list.foldl (fun d h => if h < 16 then d.dieDowngrade h line else d) d
    read ((d.hcInstall line true).setDir line ⟨.s, e.holders⟩) line
  else read d line

/-- A NORMAL-NC read reaches the home directly and allocates nothing (10 R316). True where the home cache held it. -/
def Dev.ncRead (d : Dev) (line : Nat) : Dev × Bool := d.readHome line Dev.homeReadNc

end Sys2Proof.Machine
end

