-- ==== Sys2Proof/Machine/CoreCache.lean ====
section
/-! DEFINITION. A die's caches at work (chapter 11): evictions from the L3, and how a core obtains a line, writes it, and
keeps its L1I. -/
namespace Sys2Proof.Machine

/-! ### The L3 (R345, R347, R348) -/

/-- A line leaves a die's L3 by eviction: an M line is written to the home, a clean one is put and offered under HC_FILL
(R347, R348); at the home it meets R353 and R354. -/
def Dev.l3Evict (d : Dev) (die line : Nat) : Dev :=
  match mget none d.coh.l3 (lineKey die line) with
  | none => d
  | some t =>
    let d := d.dieDrop die line
    if t.dieM then d.putMHome die line []
    else
      let d := d.putSHome die line
      let f := d.hcFill line
      if f = 0 ∨ f = 1 ∨ (f = 2 ∧ t.reuse) then d.hcInstall line false else d

/-- A line hits or is placed in the L3 of a die for a skein, with the tag given. -/
def Dev.l3Fill (d : Dev) (sk die line : Nat) (t : L3Tag) : Dev :=
  let k := l3SetKey die line
  let tagged (d : Dev) : Dev := { d with coh := { d.coh with l3 := mset none d.coh.l3 (lineKey die line) (some t) } }
  match (mget CSet.empty d.coh.l3sets k).wayOf line with
  | some w => tagged { d with coh := { d.coh with l3sets := mupd CSet.empty d.coh.l3sets k fun s => s.touch 4 w } }
  | none =>
    match (mget CSet.empty d.coh.l3sets k).pick 4 13 (d.l3Eligible sk die line) with
    | none => tagged d
    | some w =>
      let d := match (mget CSet.empty d.coh.l3sets k).ways.find? (fun (x : Nat × Nat) => x.1 == w) with
        | some x => d.l3Evict die x.2
        | none => d
      tagged { d with coh := { d.coh with l3sets := mupd CSet.empty d.coh.l3sets k fun s => s.place 4 w line } }

/-! ### A core's access (R350, R353) -/

/-- Where a core's access found its data. -/
inductive Src where
  | l1 | l2 | l3 | hc | dram
  deriving DecidableEq, Repr

/-- Whether a core's request ends on its own die: its L2 holds the line with the permission, or the die's L3 slice is its
home (R350). -/
def Dev.onDie (d : Dev) (p line : Nat) (excl : Bool) : Bool :=
  (match mget none d.coh.l2 (lineKey p line) with | some x => x.m || !excl | none => false) ||
    (match mget none d.coh.l3 (lineKey (p / 28) line) with | some t => t.dieM || !excl | none => false)

/-- Whether the slice of a die's L3 has no way left for a core's skein: it serves the core's line uncached, at the hub home (16
R512). -/
def Dev.uncached (d : Dev) (l line : Nat) : Bool :=
  match mget none d.spindleOf l with
  | none => false
  | some p => (mget none d.coh.l3 (lineKey (p / 28) line)).isNone && !(List.range 13).any (d.l3Eligible ((d.skeinOf l).getD 16) (p / 28) line)

/-- Whether a core can obtain a line now: from its die, or from a home that is free to answer (R350, R354). -/
def Dev.coreReach (d : Dev) (l line : Nat) (excl : Bool) : Dev × Answer :=
  match mget none d.spindleOf l with
  | none => (d, d.lineAnswer line)
  | some p =>
    if d.onDie p line excl then (d, .ok)
    else d.hubReach (p / 28) line (if d.uncached l line then .rdnc else if excl then .getM else .getS)

/-- A tag of a line that a die does not hold. -/
def L3Tag.blank : L3Tag := ⟨false, false, 0#28, false, false⟩

/-- A request that the L2 of spindle `p` cannot serve: from the die's L3, or from the hub; other cores of the die lose their
copies to a write, or keep them in S (R350, R353). -/
def Dev.l3Serve (d : Dev) (l p line : Nat) (excl full : Bool) : Dev × Src :=
  let die := p / 28
  let me : BitVec 28 := 1#28 <<< (p % 28)
  let tag := mget none d.coh.l3 (lineKey die line)
  let t := tag.getD L3Tag.blank
  let r : Dev × Src :=
    if tag.isSome && (t.dieM || !excl) then (d, .l3)
    else let a := d.dirAcquire die line excl full; (a.1, if a.2 then .hc else .dram)
  let d := if excl then r.1.forPres die t.pres (some (p % 28)) fun d q => d.l2Drop q line
    else if t.cm then r.1.forPres die t.pres (some (p % 28)) fun d q => d.l2Downgrade q line
    else r.1
  let t' : L3Tag := if excl then ⟨true, t.pend, me, true, tag.isSome || t.reuse⟩
    else ⟨t.dieM, t.pend, t.pres ||| me, t.cm && t.pres == me, tag.isSome || t.reuse⟩
  (d.l3Fill ((d.skeinOf l).getD 16) die line t', r.2)

/-- A core obtains a line through its caches, for reading or for writing (R345, R350, R353); one served uncached is read at the
hub home (16 R512). -/
def Dev.coreLine (d : Dev) (l line : Nat) (excl : Bool) (into : Fill) (full : Bool) : Dev × Src :=
  match mget none d.spindleOf l with
  | none => (d, .dram)
  | some p =>
    if d.uncached l line then
      let r := if excl then ((d.dirTouch line).dirClear line).homeRead line else d.readHome line Dev.homeRead
      (r.1, if r.2 then .hc else .dram)
    else
    let have2 := match mget none d.coh.l2 (lineKey p line) with | some x => x.m || !excl | none => false
    if have2 then
      (if d.fillHit p line into then (d.l1Fill p line into, .l1) else (d.l2Fill p line excl into, .l2))
    else
      let r := d.l3Serve l p line excl full
      (r.1.l2Fill p line excl into, r.2)

/-- A line that the core's own store has changed is recorded while its L1I holds a copy: 32 lines, then an overflow
(R346). -/
def Dev.noteL1i (d : Dev) (p line : Nat) : Dev :=
  if !l1Holds d.coh.l1isets p line then d
  else
    let ch := mget [] d.coh.l1iChanged p
    if ch.contains line then d
    else if ch.length < 32 then { d with coh := { d.coh with l1iChanged := mset [] d.coh.l1iChanged p (ch ++ [line]) } }
    else { d with coh := { d.coh with l1iOverflow := mset false d.coh.l1iOverflow p true } }

/-- A store made under a pending grant is not yet globally performed (R355). -/
def Dev.notePending (d : Dev) (l p line : Nat) : Dev :=
  match mget none d.coh.l3 (lineKey (p / 28) line) with
  | some t => if t.pend && !(d.core l).pendSt.contains line then d.updCore l fun c => { c with pendSt := c.pendSt ++ [line] } else d
  | none => d

/-- A core's bytes reach coherent memory: the line is obtained in M, what DRAM holds of it is remembered, the bytes
are written, and a write of all 64 bytes clears poison (R353, R367). -/
def Dev.coreWrite (d : Dev) (l : Nat) (into : Fill) (cells : List Host.Cell) : Dev :=
  match cells with
  | [] => d
  | c :: _ =>
    let line := c.1 / 64
    if d.uncached l line then d.homeStore l cells
    else
      let full := coversLine line cells
      let d := (d.coreLine l line true into full).1
      let d := match mget none d.spindleOf l with
        | some p => ((d.markStale line (p / 28) (some p)).noteL1i p line).notePending l p line
        | none => d.markStale line 0 none
      let d := d.putBytes cells
      if full then d.setPoison line false else d

/-- ISYNC, exception entry and ERET drop the L1I lines that the core's own stores changed, or the whole L1I where the record
has overflowed (R346). -/
def Dev.l1iSync (d : Dev) (l : Nat) : Dev :=
  match mget none d.spindleOf l with
  | none => d
  | some p =>
    let sets := if mget false d.coh.l1iOverflow p then d.coh.l1isets.filter (fun s => s.1 / 128 != p)
      else (mget [] d.coh.l1iChanged p).foldl (fun m line => l1Without m p line) d.coh.l1isets
    { d with coh := { d.coh with
        l1isets := sets, l1iChanged := merase d.coh.l1iChanged p, l1iOverflow := merase d.coh.l1iOverflow p } }

/-- The tag of a die for a line that arrives by a packet: the L3 way is of the skein that the packet is charged to (R342). Where
that skein has none, the die puts the line back (16 R512). -/
def Dev.tagArrives (d : Dev) (sk die line : Nat) (m pend : Bool) : Dev :=
  match mget none d.coh.l3 (lineKey die line) with
  | some t => d.l3Fill sk die line { t with dieM := m, pend := pend }
  | none =>
    if (List.range 13).any (d.l3Eligible sk die line) then d.l3Fill sk die line { L3Tag.blank with dieM := m, pend := pend }
    else if m then d.putMHome die line [] else d.putSHome die line

end Sys2Proof.Machine
end

