-- ==== Sys2Proof/Machine/Irq.lean ====
section
/-! DEFINITION. The interrupt inbox, the hub router and local vectors (08 R260 to R268), and boundary ports as far as a
delivery meets them (12 R387). -/
namespace Sys2Proof.Machine

/-- The bank of a world. -/
def Core.bank (c : Core) (secure : Bool) : Bank := if secure then c.sbank else c.kb

/-- The core with the bank of a world replaced. -/
def Core.setBank (c : Core) (secure : Bool) (b : Bank) : Core := if secure then { c with sbank := b } else { c with kb := b }

/-- Whether an LCN's skein has the SECURE flag (R249). -/
def Dev.secureSkein (d : Dev) (l : Nat) : Bool :=
  match d.cfgOf l with
  | some c => c.secure
  | none => false

/-- Whether the condition of the normal timer holds (R271). -/
def Core.timerCond (c : Core) (now : Nat) : Bool := c.timerEn && decide (c.timerCmp.toNat ≤ now)

/-- Whether the condition of the secure timer holds (R271). -/
def Core.sTimerCond (c : Core) (now : Nat) : Bool := c.sTimerEn && decide (c.sTimerCmp.toNat ≤ now)

/-- `x` with bit `i` made `b`. -/
def setBit (x : BitVec 256) (i : Nat) (b : Bool) : BitVec 256 :=
  if b then x ||| (1#256 <<< i) else x &&& ~~~(1#256 <<< i)

/-- The pending bits with the timers' level sources as their conditions stand (R263); secure vectors are never
pending in a skein without the SECURE flag. -/
def Dev.pendBase (d : Dev) (l : Nat) : BitVec 256 :=
  let c := d.core l
  let p := setBit c.pend 0xFA (c.timerCond d.now)
  let p := setBit p 0xF9 (c.sTimerCond d.now)
  if d.secureSkein l then p else p &&& ~~~c.sec

/-- The highest priority active in a world plus one; 0 where none is active. -/
def Core.actTop (c : Core) (secure : Bool) : Nat :=
  let a := if secure then c.actS else c.actN
  ((List.range 16).filter fun i => a.getLsbD i).foldl (fun _ i => i + 1) 0

/-- Whether vector `v` passes the tests of R264 for world `secure` but the last, given the pending bits. -/
def Core.qualifies (c : Core) (pend : BitVec 256) (secure : Bool) (v : Nat) : Bool :=
  pend.getLsbD v && c.en.getLsbD v && (c.sec.getLsbD v == secure) &&
  decide ((if secure then c.threshS else c.threshN).toNat ≤ v / 16) && decide (c.actTop secure ≤ v / 16)

/-- The highest vector below `n` that qualifies: the highest priority, and within it the highest number (R264). -/
def Core.pickVec (c : Core) (pend : BitVec 256) (secure : Bool) : Nat → Option Nat
  | 0 => none
  | n + 1 => if c.qualifies pend secure n then some n else c.pickVec pend secure n

/-- Whether a vector of world `secure` is held for its world (R260). -/
def Dev.heldFor (d : Dev) (l : Nat) (secure : Bool) : Bool :=
  let c := d.core l
  (c.level.secure != secure) && (c.pickVec (d.pendBase l) secure 256).isSome

/-- The pending bits, the secure attention vector included (R260, R263). -/
def Dev.pendNow (d : Dev) (l : Nat) : BitVec 256 := setBit (d.pendBase l) 0xF7 (d.heldFor l true)

/-- The vector R264 selects at a core, ignoring IE: what a claim takes (R265). -/
def Dev.claimable (d : Dev) (l : Nat) : Option Nat :=
  let c := d.core l
  c.pickVec (d.pendNow l) c.level.secure 256

/-- The deliverable vector of highest priority (R264). -/
def Dev.deliverable (d : Dev) (l : Nat) : Option Nat :=
  let c := d.core l
  if c.level.priv && !(c.bank c.level.secure).ie then none else d.claimable l

/-- A local vector becomes pending at an LCN; a secure one only in a SECURE skein (R263). -/
def Dev.raiseLocal (d : Dev) (l v : Nat) : Dev :=
  if secLocal.getLsbD v && !d.secureSkein l then d
  else d.updCore l fun c => { c with pend := setBit c.pend v true }

/-- The power domain of an LCN's core island is its number. -/
def Dev.domOf (d : Dev) (k : Nat) : Domain := mget Domain.reset d.dom k

/-- A vector dropped is counted in IRQ_SK_DROP (R266, R267). -/
def Dev.dropVec (d : Dev) (sk : Nat) : Dev := d.count (Reg.IRQ_SK_DROP sk)

/-- MESH_DOFF_COUNT of the site of an LCN's core port, or of the hub (R387). -/
def Dev.countDoff (d : Dev) (l : Nat) : Dev :=
  match mget none d.spindleOf l with
  | some p => d.count (Reg.MESH_DOFF_COUNT (p / 28))
  | none => d

/-- A vector reaches its inbox: its pending bit is set and its secure bit is the message's (R266, R267). -/
def Dev.inboxPut (d : Dev) (m : VecMsg) : Dev :=
  d.updCore m.lcn fun c => { c with pend := setBit c.pend m.vector true, sec := setBit c.sec m.vector m.secure }

/-- Whether a reset that is due holds an LCN: one of its own, of its skein once the skein's reels have ended, or of the
package (18 R563, R564; log entry 48). -/
def Dev.heldReset (d : Dev) (l : Nat) : Bool :=
  let sk := (d.skeinOf l).getD 16
  let reels := match d.cfgOf l with
    | some c => (setBits 384 c.lcnMask).any fun x => mget false d.reeling x
    | none => false
  d.boot.resets.any fun (x : Nat × Nat) => x.1 == 0 || (!reels && ((x.1 == 1 && x.2 == sk) || (x.1 == 2 && x.2 == l)))

/-- A vector arrives at an LCN: dropped and counted where it is local, which only the core's own sources set, or the LCN is lost
or in CORE reset; held during a reel, held at a fenced port, answered DOMAIN_OFF at a port that is OFF, else put in the inbox
(R262, R266, R267, R387). -/
def Dev.deliverVec (d : Dev) (m : VecMsg) : Dev :=
  if decide (0xF0 ≤ m.vector) || mget false d.lost m.lcn || !(d.core m.lcn).released || d.heldReset m.lcn then d.dropVec m.skein
  else if mget false d.reeling m.lcn then { d with heldVec := d.heldVec ++ [m] }
  else
    let p := d.port m.lcn
    match p.st with
    | .opened => d.inboxPut m
    | .off => (d.dropVec m.skein).countDoff m.lcn
    | _ => d.setPort m.lcn { p with held := p.held ++ [(d.now, .vec m)] }

/-- Whether requester `q` may ring route entries of skein `sk` (R267). -/
def Dev.mayRing (d : Dev) (q : Requester) (sk : Nat) : Bool :=
  match q with
  | .distaff => true
  | .core l => d.skeinOf l.val == some sk
  | .rootPort b => d.bundleMode b.val == 1 && (match d.skeinCfg sk with | some c => c.bundles.testBit b.val | none => false)
  | .func _ _ => false

/-- A write of INDEX `n` to IRQ_DOORBELL: delivered through entry `n`, or dropped and counted (R267). -/
def Dev.doorbell (d : Dev) (q : Requester) (n : Nat) : Dev :=
  let n := n % 4096
  let sk := n / 256
  let e := d.reg (Reg.IRQ_ROUTE n)
  if d.mayRing q sk && bit e 31 then
    d.deliverVec ⟨field e 24 16, field e 7 0, bit e 30, sk⟩
  else d.dropVec sk

/-- A hardware unit signals a route entry: as the doorbell of Distaff (R267). -/
def Dev.signalRoute (d : Dev) (n : Nat) : Dev := d.doorbell .distaff n

end Sys2Proof.Machine
end

