-- ==== Sys2Proof/Machine/Trace.lean ====
section
/-! DEFINITION. The trace controller's packets and buffer (20 R605, R606) and the performance counters' counting rule
(19 R586 to R592). -/
namespace Sys2Proof.Machine

/-! ### Debug enables (08 R274) -/

/-- DEBUG bit `k` of the skein of an LCN: 0 normal non-invasive, 1 normal invasive, 2 and 3 the secure ones. -/
def Dev.debugBit (d : Dev) (l k : Nat) : Bool :=
  match d.img.img, d.skeinOf l with
  | some i, some s => (i.dbgBytes.getD s 0).testBit k
  | _, _ => false

/-- Whether non-invasive debug of an LCN is open at a level. -/
def Dev.nonInvasive (d : Dev) (l : Nat) (lvl : Level) : Bool := d.debugBit l (if lvl.secure then 2 else 0)

/-- Whether invasive debug of an LCN is open in a world. -/
def Dev.invasive (d : Dev) (l : Nat) (secure : Bool) : Bool := d.debugBit l (if secure then 3 else 1)

/-! ### Trace -/

/-- The value of LEVEL (R250). -/
def Level.code : Level → Nat
  | .u => 0
  | .k => 1
  | .su => 2
  | .sk => 3

/-- Whether LCN `l` is traced. -/
def Dev.traced (d : Dev) (l : Nat) : Bool :=
  bit (d.reg Reg.TRC_CTL) 31 && field (d.reg Reg.TRC_CTL) 8 0 == l

/-- TRC_STATUS as the buffer stands: occupancy in 64-byte units, and RUNNING while packets wait (R607). -/
def Dev.traceStatus (d : Dev) : Dev :=
  let n := d.trace.buf.length
  (d.setRegF Reg.TRC_STATUS 10 0 ((n + 63) / 64)).setRegF Reg.TRC_STATUS 16 16 (if n = 0 then 0 else 1)

/-- A synchronisation packet: TIME, the PC of the next instruction to retire, LEVEL and LCN (R606). -/
def Dev.syncPacket (d : Dev) (l : Nat) : List Byte :=
  let c := d.core l
  0x40#8 :: (leBytes 8 d.now ++ leBytes 8 c.pc.toNat ++ leBytes 1 c.level.code ++ leBytes 2 l)

/-- Where records have been discarded and half of the buffer is free again, an OVERFLOW packet and a synchronisation packet
mark the gap (R605). -/
def Dev.traceResume (d : Dev) (l : Nat) : Dev :=
  let t := d.trace
  match t.gap with
  | some n =>
    if t.buf.length ≤ 32768 then
      ({ d with trace := { t with gap := none, last := (d.core l).pc.toNat, since := 0, buf := t.buf ++ (0x60#8 :: leBytes 2 (min n 0xFFFF)) ++ d.syncPacket l } }).traceStatus
    else d
  | none => d

/-- Bytes enter the trace buffer, or are lost and counted while it is full and until half of it is free (R605). -/
def Dev.tracePush (d : Dev) (bs : List Byte) : Dev :=
  let t := d.trace
  let lose (n : Nat) : Dev := ({ d with trace := { t with gap := some (n + 1) } }).count Reg.TRC_LOST
  match t.gap with
  | some n => lose n
  | none => if 65536 < t.buf.length + bs.length then lose 0 else ({ d with trace := { t with buf := t.buf ++ bs } }).traceStatus

/-- How many low bytes of `a` are needed where the higher ones equal those of the last address sent (R606). -/
def lowBytes (a last : Nat) : Nat :=
  ((List.range 8).filter fun n => decide (a / 256 ^ (n + 1) = last / 256 ^ (n + 1))).headD 7 + 1

/-- A record of the traced LCN with an address: kind, the bytes before the address, and the address. A barred level
gives one BARRED packet; leaving it gives a synchronisation packet (R605, R606). -/
def Dev.traceRecord (d : Dev) (l : Nat) (lvl : Level) (kind : Nat) (pre : List Byte) (addr : Nat) : Dev :=
  if !d.traced l then d
  else if !d.nonInvasive l lvl then
    if d.trace.barred then d
    else
      let d := { d.traceResume l with trace := { (d.traceResume l).trace with barred := true } }
      d.tracePush (0x50#8 :: leBytes 8 d.now)
  else
    let d := d.traceResume l
    let d := if d.trace.barred then
        let d := { d with trace := { d.trace with barred := false, last := (d.core l).pc.toNat, since := 0 } }
        d.tracePush (d.syncPacket l)
      else d
    let n := lowBytes addr d.trace.last
    let d := d.tracePush (BitVec.ofNat 8 (kind * 16 + n) :: (pre ++ leBytes n addr))
    { d with trace := { d.trace with last := addr } }

/-- A retired instruction of the traced LCN: a synchronisation packet every 4,096 (R605). -/
def Dev.traceRetire (d : Dev) (l : Nat) : Dev :=
  if !d.traced l then d
  else if d.trace.since + 1 < 4096 then { d with trace := { d.trace with since := d.trace.since + 1 } }
  else if d.nonInvasive l (d.core l).level then
    let d := d.traceResume l
    let d := { d with trace := { d.trace with since := 0, last := (d.core l).pc.toNat } }
    d.tracePush (d.syncPacket l)
  else { d with trace := { d.trace with since := 0 } }

/-! ### Performance counters -/

/-- The largest value an event adds in one cycle (R592); none for an unassigned code. -/
def eventMax (code : Nat) : Option Nat :=
  if code = 0 then some 0
  else if code = 1 then some 1
  else if 2 ≤ code ∧ code ≤ 6 then some 6
  else if 7 ≤ code ∧ code ≤ 0xB then some 1
  else if code = 0x10 then some 6
  else if 0x11 ≤ code ∧ code ≤ 0x15 then some 1
  else if code = 0x20 then some 1
  else if code = 0x21 then some 3
  else if code = 0x22 ∨ code = 0x23 then some 2
  else if code = 0x24 ∨ code = 0x25 then some 3
  else if code = 0x26 then some 1
  else if code = 0x27 then some 3
  else if code = 0x28 then some 1
  else if 0x30 ≤ code ∧ code ≤ 0x33 then some 1
  else if code = 0x40 ∨ code = 0x41 then some 1
  else if code = 0x42 ∨ code = 0x43 then some 6
  else if code = 0x44 ∨ code = 0x45 then some 1
  else none

/-- The events whose count is fixed by what retires; the others depend on the pipeline's timing or on wrong-path
work and are free values within their Max (log entry 13). -/
def eventExact (code : Nat) : Bool :=
  code == 0 || code == 2 || code == 0x10 || code == 0x24 || code == 0x25 || (0x30 ≤ code && code ≤ 0x31) ||
  code == 0x33 || code == 0x40 || (0x42 ≤ code && code ≤ 0x45)

/-- The kinds of the six rename slots of a cycle: how many are RENAMED, BE and RECOVERY; the rest are FE (R593). How many is
open (log entry 6). -/
def slotKinds (ctr : Nat) : Nat × Nat × Nat :=
  let v (i : Nat) : Nat := (Config.freeValue (ctr * 64 + i)).toNat
  let r := v 3 % 7
  let b := v 5 % (7 - r)
  (r, b, v 6 % (7 - r - b))

/-- The slots of the kind that an event counts: 3 RENAMED, 4 FE, 5 BE, 6 RECOVERY (R592, R593). -/
def slotKind (k : Nat × Nat × Nat) (code : Nat) : Nat :=
  if code = 3 then k.1 else if code = 5 then k.2.1 else if code = 6 then k.2.2 else 6 - k.1 - k.2.1 - k.2.2

/-- The value of an event in a counted cycle whose exact events are `evs`: the cycle itself is one of CYCLES. -/
def eventValue (ctr : Nat) (evs : List (Nat × Nat)) (code : Nat) : Nat :=
  if code = 1 then 1
  else if eventExact code then ((evs.filter fun e => e.1 == code).map (·.2)).sum
  else if 0x03 ≤ code ∧ code ≤ 0x06 then slotKind (slotKinds ctr) code
  else match eventMax code with
    | some m => (Config.freeValue (ctr * 64 + code)).toNat % (m + 1)
    | none => 0

/-- What a programmable counter adds (R587), and whether its event held. -/
def evselAdd (sel : Reg32) (prev : Bool) (v : Nat) : Nat × Bool :=
  let th := field sel 27 24
  if bit sel 30 then
    let now := decide (max th 1 ≤ v)
    (if now && !prev then 1 else 0, now)
  else if th = 0 then (v, prev)
  else (if th ≤ v then 1 else 0, prev)

/-- The level's bit in FIXLV at [11:8] and in LV at [23:20]: U, K, SU, SK. -/
def Level.bitNo : Level → Nat
  | .u => 0
  | .k => 1
  | .su => 2
  | .sk => 3

/-- A counter adds `v`; the Bool tells whether it wrapped (R585). -/
def wrapAdd (x : Word) (v : Nat) : Word × Bool := (x + BitVec.ofNat 64 v, decide (2 ^ 64 ≤ x.toNat + v))

/-- The six programmable counters in one counted cycle: the counters, the edge states and the wraps. -/
def pmuProg (p : Pmu) (lvl : Level) (val : Nat → Nat) : Nat → Pmu × Nat
  | 0 => (p, 0)
  | n + 1 =>
    let r := pmuProg p lvl val n
    let sel := mget 0#32 p.evsel n
    if bit sel 31 && bit sel (20 + lvl.bitNo) then
      let a := evselAdd sel (mget false p.prev n) (val (field sel 15 0))
      let w := wrapAdd (mget 0#64 r.1.cnt n) a.1
      ({ r.1 with cnt := mset 0#64 r.1.cnt n w.1, prev := mset false r.1.prev n a.2 },
        if w.2 then r.2 ||| 2 ^ n else r.2)
    else r

/-- One counted cycle of the counters (R586, R587, R589): the new registers and whether any counter wrapped. -/
def pmuCycle (p : Pmu) (lvl : Level) (val : Nat → Nat) : Pmu × Bool :=
  if !bit p.ctl 0 || bit p.ctl 2 then (p, false)
  else
    let r := pmuProg p lvl val 6
    let fixed := bit p.ctl (8 + lvl.bitNo)
    let f0 := wrapAdd p.fix0 (if fixed then val 1 else 0)
    let f1 := wrapAdd p.fix1 (if fixed then val 2 else 0)
    let ovf := r.2 + (if f0.2 then 0x100 else 0) + (if f1.2 then 0x200 else 0)
    let q := { r.1 with fix0 := f0.1, fix1 := f1.1, ovf := p.ovf ||| BitVec.ofNat 32 ovf }
    if ovf = 0 then (q, false)
    else (if bit p.ctl 3 then { q with ctl := q.ctl ||| 4#32 } else q, true)

/-- One cycle of a core at a level, with its exact events `evs`, where it is counted (R586); a wrap signals PMU_ROUTE (R589). -/
def Dev.pmuOne (d : Dev) (l : Fin 384) (lvl : Level) (evs : List (Nat × Nat)) : Dev :=
  let c := d.core l.val
  let r := pmuCycle c.pmu lvl (eventValue d.freeCtr evs)
  let d := { d.setCore l.val { c with pmu := r.1 } with freeCtr := d.freeCtr + 1 }
  if r.2 && bit c.pmu.route 31 then d.doorbell (.core l) (field c.pmu.route 11 0) else d

/-- Cycles in which nothing retires. -/
def Dev.pmuIdle (d : Dev) (l : Fin 384) (lvl : Level) : Nat → Dev
  | 0 => d
  | n + 1 => (d.pmuOne l lvl []).pmuIdle l lvl n

/-- The cycles of one retirement with the events `evs`: some number of cycles, which nothing constrains, and the retirement's
own; none where the counters of the LCN do not count (R586; log entry 13). -/
def Dev.pmuCount (d : Dev) (l : Fin 384) (lvl : Level) (evs : List (Nat × Nat)) : Dev :=
  let c := d.core l.val
  if !bit c.pmu.ctl 0 || bit c.pmu.ctl 2 then d
  else if lvl.secure && !d.debugBit l.val 2 then d
  else
    let d := d.pmuIdle l lvl (Config.freeValue (d.freeCtr * 64 + 1)).toNat
    d.pmuOne l lvl evs

/-- A synchronisation packet for the traced LCN where its level is open: after a reel (20 R605). -/
def Dev.traceSync (d : Dev) (l : Nat) : Dev :=
  if d.traced l && d.nonInvasive l (d.core l).level then
    let d := d.traceResume l
    ({ d with trace := { d.trace with barred := false, last := (d.core l).pc.toNat, since := 0 } }).tracePush (d.syncPacket l)
  else d

end Sys2Proof.Machine
end

