-- ==== Sys2Proof/Machine/Operands.lean ====
section
/-! DEFINITION. Operand forms of TKA-64: general, FP, Ply and mask registers, immediates and displacements, and the
address forms of loads, stores and branches (05 R152 to R157, 07 R219 to R231). -/
namespace Sys2Proof.Machine

/-- General register `r`; g0 reads zero (R219). -/
def Core.rg (c : Core) (r : BitVec 5) : Word := if r = 0#5 then 0#64 else mget 0#64 c.g r.toNat

/-- A write of general register `r`; a write to g0 is discarded (R219). -/
def Core.wg (c : Core) (r : BitVec 5) (x : Word) : Core :=
  if r = 0#5 then c else { c with g := mset 0#64 c.g r.toNat x }

/-- Ply register `r` (05 R152). -/
def Core.rv (c : Core) (r : Nat) : VWord := mget 0#256 c.v (r % 32)

/-- A write of Ply register `r`, which sets PCTL.VD (05 R160). -/
def Core.wv (c : Core) (r : Nat) (x : VWord) : Core := { c with v := mset 0#256 c.v (r % 32) x, pctlVd := true }

/-- FP register `r` is bits [63:0] of the Ply register (05 R152). -/
def Core.rf (c : Core) (r : BitVec 5) : Word := (c.rv r.toNat).truncate 64

/-- A write of an FP register: the value in bits [63:0] and zero above; sets PCTL.VD (05 R152, 07 R227, R232). -/
def Core.wf (c : Core) (r : BitVec 5) (x : Word) : Core := c.wv r.toNat (x.zeroExtend 256)

/-- Mask register `m`; m0 reads all ones (05 R157). -/
def Core.rm (c : Core) (m : Nat) : BitVec 128 := if m = 0 then ~~~0#128 else mget 0#128 c.m m

/-- A write of mask register `m`, 1 to 7; sets PCTL.VD (05 R157, R160). -/
def Core.wm (c : Core) (m : Nat) (x : BitVec 128) : Core :=
  if m = 0 then c else { c with m := mset 0#128 c.m m x, pctlVd := true }

/-- imm16 sign-extended (R226). -/
def simm16 (i : BitVec 16) : Word := i.signExtend 64

/-- imm16 zero-extended (R226). -/
def zimm16 (i : BitVec 16) : Word := i.zeroExtend 64

/-- off13 sign-extended (R222). -/
def soff13 (i : BitVec 13) : Word := i.signExtend 64

/-- The size in bytes of SZ (R222). -/
def szBytes (sz : BitVec 2) : Nat := 2 ^ sz.toNat

/-- The address of the M format: ga + sext(off13) (R227). -/
def Core.eaM (c : Core) (ga : BitVec 5) (off : BitVec 13) : Word := c.rg ga + soff13 off

/-- The address of an indexed access: ga + (gb << (SC × log2 size)) (R227). -/
def Core.eaX (c : Core) (ga gb : BitVec 5) (sc : Bool) (sz : BitVec 2) : Word :=
  c.rg ga + (c.rg gb <<< (if sc then sz.toNat else 0))

/-- The address of a Ply memory access: ga + sext(imm7) × 32 (05 R178). -/
def Core.eaP (c : Core) (ga : BitVec 5) (imm7 : BitVec 7) : Word := c.rg ga + (imm7.signExtend 64) * 32#64

/-- A value loaded from `n` bytes, extended (R227). -/
def extendLoad (n : Nat) (unsigned : Bool) (x : Nat) : Word :=
  if unsigned then BitVec.ofNat 64 x else sextFrom (8 * n) (BitVec.ofNat 64 x)

/-- The core with loaded data in its destination (R227). -/
def Core.putLoad (c : Core) (dst : LoadDst) (n x : Nat) : Core :=
  match dst with
  | .g r u => c.wg r (extendLoad n u x)
  | .f r => c.wf r (BitVec.ofNat 64 x)

end Sys2Proof.Machine
end

