-- ==== Sys2Proof/Machine/Flags.lean ====
section
/-! DEFINITION. The sticky flags: FPCR's five (07 R232, R234) and PSAT's eight (05 R159, R160), ORed in at retirement. -/
namespace Sys2Proof.Machine

/-- The FPCR flags in the order of R234: INVALID [0], DIVZ [1], OVER [2], UNDER [3], INEXACT [4]. -/
structure FpFlags where
  invalid : Bool
  divz : Bool
  ovf : Bool
  unf : Bool
  inexact : Bool
  deriving DecidableEq, Repr

/-- No flag. -/
def FpFlags.none : FpFlags := ⟨false, false, false, false, false⟩

/-- INVALID alone. -/
def FpFlags.inv : FpFlags := ⟨true, false, false, false, false⟩

/-- The flags as FPCR's bits [4:0]. -/
def FpFlags.bits (f : FpFlags) : BitVec 5 :=
  BitVec.ofNat 5 (b2n f.invalid + 2 * b2n f.divz + 4 * b2n f.ovf + 8 * b2n f.unf + 16 * b2n f.inexact)

/-- The union of two sets of flags. -/
def FpFlags.or (a b : FpFlags) : FpFlags :=
  ⟨a.invalid || b.invalid, a.divz || b.divz, a.ovf || b.ovf, a.unf || b.unf, a.inexact || b.inexact⟩

/-- The core with FP flags ORed in (R232). -/
def Core.orFp (c : Core) (f : FpFlags) : Core := { c with fpFlags := c.fpFlags ||| f.bits }

/-- PSAT's bits (05 R159). -/
def satAddBit : BitVec 8 := 1#8
def satMulBit : BitVec 8 := 2#8
def satDecBit : BitVec 8 := 4#8
def satAccBit : BitVec 8 := 8#8
def satSadBit : BitVec 8 := 16#8
def satConvBit : BitVec 8 := 32#8
def satDigBit : BitVec 8 := 64#8
def satInexactBit : BitVec 8 := 128#8

/-- The core with PSAT flags ORed in (05 R160). -/
def Core.orPsat (c : Core) (f : BitVec 8) : Core := { c with psat := c.psat ||| f }

end Sys2Proof.Machine
end

