-- ==== Sys2Proof/Machine/StoreBuf.lean ====
section
/-! DEFINITION. Where a core's access goes (01 R33 to R36), and its store buffer (06 R208, 10 R330 to R334): what an entry
needs to be performed, draining, marks, and forwarding to loads. -/
namespace Sys2Proof.Machine

/-! ### Homes and targets of an access -/

/-- An access of a core waits at the port of the channel that holds its line, where it is noted once (12 R387). -/
def Dev.holdCore (d : Dev) (l pa : Nat) : Dev :=
  match d.channelOf pa with
  | none => d
  | some (ch, _) =>
    let p := d.port (384 + ch)
    let h : HeldReq := .core l (d.core l).pc pa
    if p.held.any fun (x : Nat × HeldReq) => x.2 == h then d
    else d.setPort (384 + ch) { p with held := p.held ++ [(d.now, h)] }

/-- Where an access of a core goes (01 R33 to R36, R7, R9, R73, R253). -/
inductive Target where
  | mem
  | landing (off : Nat)
  | device
  | bad (s : Status)
  deriving DecidableEq, Repr

/-- Whether a core's skein may touch a byte of DRAM: populated, in its MEM ranges, not queue memory (R34, R35, R73). -/
def Dev.coreMem (d : Dev) (l pa : Nat) : Bool :=
  d.populated pa && (match d.cfgOf l with | some c => c.inMem pa | none => false) && !d.queueMem pa

/-- The target of an access of `size` bytes at a physical address. -/
def Dev.target (d : Dev) (l : Nat) (secure : Bool) (pa size : Nat) (mt : MemType) : Target :=
  match placeOf pa with
  | .dram =>
    if !d.coreMem l pa then .bad .dead
    else if mt = .device then .device else .mem
  | .landing => if mt = .nc then .landing (pa - 0xE000000000000) else .bad .dead
  | .control =>
    if mt ≠ .device then .bad .dead
    else if d.secBlock pa && !secure then .bad .dead
    else match ctlPlace pa size with
      | .dead => .bad .dead
      | .badAccess => .bad .dead
      | _ => .device
  | .pcie b =>
    if d.bundleMode b = 1 ∧ d.bundleOwner b = d.skeinOf l then .device else .bad .dead
  | .reserved => .bad .dead

/-! ### The store buffer (10 R330 to R334) -/

/-- A store that completes with error: recorded in CORE_ABERR, and its vector raised (10 R332). -/
def Dev.storeError (d : Dev) (l : Nat) (secure device : Bool) (st : Status) (pa : Nat) : Dev :=
  let d := d.updCore l fun c =>
    if bit c.aberr 63 then { c with aberr := c.aberr ||| (1#64 <<< 62) }
    else { c with aberr := BitVec.ofNat 64 (pa + st.code * 2 ^ 52 + b2n device * 2 ^ 60 + b2n secure * 2 ^ 61 + 2 ^ 63) }
  d.raiseLocal l (if secure then 0xFD else 0xFE)

/-- DEVICE stores of a core issued and not answered (10 R320). -/
def Core.devStores (c : Core) : Nat := (c.devOut.filter fun r => r.write && !r.quiet).length

/-- A DEVICE request leaves the core with the next transaction identifier. -/
def Core.issueDev (c : Core) (now pa size : Nat) (write : Bool) (data : Nat) (mt : MemType) (lvl : Level) : Core :=
  { c with devOut := c.devOut ++ [⟨c.nextTid, pa, size, write, data, mt, lvl, now, false, none, false⟩], nextTid := c.nextTid + 1 }

/-- A NORMAL-NC access of a core can reach its home now (10 R316). -/
def Dev.ncReach (d : Dev) (l line : Nat) : Dev × Answer := d.hubReach (((mget none d.spindleOf l).getD 0) / 28) line .rdnc

/-- A store to NORMAL memory is performed: NC at the home, WB in the core's L1D (10 R313, R316). -/
def Dev.memStore (d : Dev) (l : Nat) (cells : List Host.Cell) (mt : MemType) (vi : Nat) : Dev :=
  if mt = .nc then d.ncWrite l cells else d.coreWrite l (.l1d vi) cells

/-- One entry of a store buffer is performed, or issued, or completes with error; false where it must still wait. A mark and
a DEVICE store wait until every older store is globally performed (10 R318, R324; 11 R355). -/
def Dev.issueStore (d : Dev) (l : Nat) : SbItem → Dev × Bool
  | .mark _ => (d, (d.core l).pendSt.isEmpty)
  | .store [] _ _ _ => (d, true)
  | .store (c :: cs) mt lvl vi =>
    let cells := c :: cs
    match d.target l lvl.secure c.1 cells.length mt with
    | .bad st => (d.storeError l lvl.secure (mt == .device) st c.1, true)
    | .landing _ =>
      (d.updCore l fun k => { k with landing := cells.foldl (fun m x => mset 0#8 m (x.1 - 0xE000000000000) x.2) k.landing }, true)
    | .device =>
      if (d.core l).devStores < 16 ∧ (d.core l).pendSt.isEmpty then
        (d.updCore l fun k => k.issueDev d.now c.1 cells.length true (ofLe (cells.map (·.2))) mt lvl, true)
      else (d, false)
    | .mem =>
      match (if mt = .nc then d.ncReach l (c.1 / 64) else d.coreReach l (c.1 / 64) true) with
      | (d, .ok) => (d.memStore l cells mt vi, true)
      | (d, .hold) => (d, false)
      | (d, .wait) => (d, false)
      | (d, .err st) => (d.storeError l lvl.secure false st c.1, true)

/-- The entries of a store buffer in order, as far as none must wait. -/
def Dev.drainItems (d : Dev) (l : Nat) : List SbItem → Dev × List SbItem
  | [] => (d, [])
  | it :: rest =>
    match d.issueStore l it with
    | (d, true) => d.drainItems l rest
    | (d, false) => (d, it :: rest)

/-- The store buffer of a core drains (10 R330). One drain order of those R330 permits: oldest first (log entry 5). -/
def Dev.drain (d : Dev) (l : Nat) : Dev :=
  let r := d.drainItems l (d.core l).sb
  r.1.updCore l fun c => { c with sb := r.2 }

/-- Whether every store of a core that has retired is performed, and globally so, or issued (10 R324, R330; 11 R355). -/
def Core.allPerformed (c : Core) : Bool := c.sb.isEmpty && c.pendSt.isEmpty

/-- An event that orders every later access after the stores present: what cannot be performed at once stays before a mark
(10 R325, R334). -/
def Dev.drainMark (d : Dev) (l : Nat) (all : Bool) : Dev :=
  let d := d.drain l
  if (d.core l).allPerformed then d else d.updCore l fun c => { c with sb := c.sb ++ [.mark all] }

/-- Whether a core's accesses wait behind a mark that orders loads. -/
def Core.barred (c : Core) : Bool := c.sb.contains (.mark true)

/-- Every earlier store of a core is performed, as a barrier or an ordered instruction waits for: drained; false where some
still wait. -/
def Dev.drained (d : Dev) (l : Nat) : Dev × Bool :=
  let d := d.drain l
  (d, (d.core l).allPerformed)

/-- The byte a core's own buffered stores hold for an address, the youngest first (06 R209). -/
def sbByte (pa : Nat) : List SbItem → Option Byte
  | [] => none
  | .mark _ :: t => sbByte pa t
  | .store cells mt _ _ :: t =>
    match sbByte pa t with
    | some b => some b
    | none => if mt = .device then none else (cells.find? fun (c : Host.Cell) => c.1 == pa).map (·.2)

/-- A byte of memory as a core's load sees it: its own buffered stores first (10 R313). -/
def Dev.coreByte (d : Dev) (l pa : Nat) : Byte := (sbByte pa (d.core l).sb).getD (d.byte pa)

/-- Whether older stores of the buffer overlap the bytes of a load: none where no one does, else whether every byte lies in
the youngest that does (06 R209). -/
def sbOverlap (pas : List Nat) : List SbItem → Option Bool
  | [] => none
  | .mark _ :: t => sbOverlap pas t
  | .store cells mt _ _ :: t =>
    match sbOverlap pas t with
    | some b => some b
    | none =>
      let has (pa : Nat) : Bool := cells.any fun (c : Host.Cell) => c.1 == pa
      if mt = .device ∨ !pas.any has then none else some (pas.all has)

/-- Before a load reads memory: a store that covers only part of it drains first. The answer says whether the load is
forwarded from one entry, and whether it must still wait (06 R209). -/
def Dev.beforeLoad (d : Dev) (l : Nat) (pas : List Nat) : Dev × Bool × Bool :=
  match sbOverlap pas (d.core l).sb with
  | none => (d, false, false)
  | some true => (d, true, false)
  | some false => let d := d.drain l; (d, false, (sbOverlap pas (d.core l).sb).isSome)

/-- `n` bytes as a core's load sees them. -/
def Dev.coreBytes (d : Dev) (l pa n : Nat) : List Byte := (List.range n).map fun i => d.coreByte l (pa + i)

/-- A byte of a core's landing area (R36). -/
def Core.landByte (c : Core) (off : Nat) : Byte := mget 0#8 c.landing off

/-- The stores a store buffer holds; marks take no entry (06 R208). -/
def sbStores (sb : List SbItem) : Nat := (sb.filter fun i => match i with | .store _ _ _ _ => true | .mark _ => false).length

/-- Stores enter the store buffer, which holds 64 entries (06 R208); false where it is full. -/
def Dev.pushStore (d : Dev) (l : Nat) (items : List SbItem) : Dev × Bool :=
  let d := if sbStores (d.core l).sb + items.length ≤ 64 then d else d.drain l
  if sbStores (d.core l).sb + items.length ≤ 64 then
    (d.updCore l fun c => { c with sb := c.sb ++ items }, true)
  else (d, false)

end Sys2Proof.Machine
end

