-- ==== Sys2Proof/Machine/Translate.lean ====
section
/-! DEFINITION. Address translation of a core (chapter 09): the regimes, segments, the page walk, rights, the STLB, and
the accessed and dirty bits. -/
namespace Sys2Proof.Machine

/-- A synchronous exception: code, SUB, INFO and ADDR of R254. -/
structure Exc where
  code : Nat
  sub : Nat
  info : Nat
  addr : Word
  deriving DecidableEq, Repr

/-- The kinds of access that R287 tells apart. -/
inductive AccessKind where
  | fetch | load | store | atomic | dcz | dcc
  deriving DecidableEq, Repr

/-- Whether an access needs write permission and sets D (R287, R289). -/
def AccessKind.writes : AccessKind → Bool
  | .store | .atomic | .dcz => true
  | .fetch | .load | .dcc => false

/-- The translation fault of an access (R284): 0x04, 0x05 or 0x06. -/
def AccessKind.transCode : AccessKind → Nat
  | .fetch => 0x04
  | .load | .dcc => 0x05
  | .store | .atomic | .dcz => 0x06

/-- Illegal instruction. -/
def Exc.illegal : Exc := ⟨0x01, 0, 0, 0#64⟩

/-- Privilege. -/
def Exc.priv : Exc := ⟨0x02, 0, 0, 0#64⟩

/-- The memory type of an untranslated access (R278). -/
def bareType (pa : Nat) : MemType :=
  match placeOf pa with
  | .dram => .wb
  | .landing => .nc
  | _ => .device

/-- The MT of a leaf. -/
def leafType (leaf : Word) : MemType :=
  match field leaf 10 9 with
  | 0 => .wb
  | 1 => .nc
  | _ => .device

/-- Why an access of an instruction goes no further now: an exception, a line that its channel's port holds (12 R387), or a
home at work on an earlier request (11 R354). -/
inductive Stop where
  | exc (e : Exc)
  | hold (pa : Nat)
  | wait
  deriving DecidableEq, Repr

/-- Effective rights: R, W, X, U (R287). -/
structure Rights where
  r : Bool
  w : Bool
  x : Bool
  u : Bool
  deriving DecidableEq, Repr

/-- The rows of R287 in order: the SUB of the first that fails. `ply` marks a Ply access; `mark` is SEC_MARK in bytes
for a normal-world access and 0 in the secure world. -/
def rightsFail (e : Rights) (mt : MemType) (pa : Nat) (lvl : Level) (k : AccessKind) (ply : Bool) (mark : Nat) : Option Nat :=
  let special := mt == .device || placeOf pa == .landing || placeOf pa == .control
  if !lvl.priv && !e.u then some 2
  else if k == .fetch && lvl.priv && e.u then some 3
  else if k == .fetch && !e.x then some 1
  else if k == .fetch && mt == .device then some 4
  else if (k == .load || k == .dcc) && !e.r then some 1
  else if (k == .store || k == .dcz) && !e.w then some 1
  else if k == .atomic && !(e.r && e.w) then some 1
  else if (k == .atomic || k == .dcz || k == .dcc) && special then some 4
  else if ply && mt == .device then some 4
  else if decide (pa < mark) then some 5
  else none

/-- SEC_MARK as it bounds an access at a level (R251). -/
def Dev.markFor (d : Dev) (lvl : Level) : Nat := if lvl.secure then 0 else d.secMarkBytes

/-- Why a walk may not read an address (R285, R286): NOT_DRAM, SECURE or DEAD; none where it may. -/
def Dev.walkFail (d : Dev) (sk : Option SkeinCfg) (pa : Nat) : Option Nat :=
  if placeOf pa ≠ .dram ∨ !d.populated pa then some 1
  else if pa < d.secMarkBytes then some 2
  else if !(match sk with | some c => c.inMem pa | none => false) || d.queueMem pa then some 4
  else none

/-- A walk read of a core: the address is tested before it is read; then it is a NORMAL-WB load through the L2, which a
channel's port may hold and an answer DEAD or DOMAIN_OFF fails (R285, R286; the SUB of DOMAIN_OFF is a DESIGN CHOICE, log
entry 64). The answer is whether `n` bytes may be consumed. -/
def Dev.walkRead (d : Dev) (l pa : Nat) (full : Word) : Dev × Except Stop Unit :=
  match d.walkFail (d.cfgOf l) pa with
  | some sub => (d, .error (.exc ⟨0x08, sub, 0, full⟩))
  | none =>
    match d.coreReach l (pa / 64) false with
    | (d, .hold) => (d, .error (.hold pa))
    | (d, .wait) => (d, .error .wait)
    | (d, .err _) => (d, .error (.exc ⟨0x08, 4, 0, full⟩))
    | (d, .ok) =>
      let d := (d.coreLine l (pa / 64) false .l2 false).1
      if d.poisoned (pa / 64) then (d, .error (.exc ⟨0x08, 5, 0, full⟩)) else (d, .ok ())

/-- Whether a table entry is illegal at a level (R283). -/
def pteIllegal (p : Word) (lvl : Nat) : Bool :=
  field p 63 59 != 0 || bit p 11 ||
  (if bit p 1 then lvl == 0 || field p 10 2 != 0
   else lvl == 3 || field p 10 9 == 3 || (bit p 3 && !bit p 2) ||
     (lvl == 2 && field p 29 12 != 0) || (lvl == 1 && field p 20 12 != 0))

/-- index(va, lvl) of R284. -/
def vaIndex (va lvl : Nat) : Nat := (va / 2 ^ (12 + 9 * lvl)) % 512

/-- The PA of an entry, in bytes. -/
def ptePa (p : Word) : Nat := field p 51 12 * 4096

/-- A leaf found by a walk, with where it was read. -/
structure Found where
  leaf : Word
  at_ : Nat
  sizeLog2 : Nat
  deriving DecidableEq, Repr

/-- What is read of a table entry at a level: from the walk cache, or from memory through the L2 (R284, R286). -/
def Dev.readPte (d : Dev) (l : Nat) (asid : BitVec 16) (va lvl tbl : Nat) (full : Word) : Dev × Except Stop (Word × Nat) :=
  let at_ := tbl + vaIndex va lvl * 8
  let hit := (d.core l).walk.find? fun w => w.lvl == lvl && w.vaTop == va / 2 ^ (12 + 9 * lvl) && (w.asid == none || w.asid == some asid)
  match hit with
  | some w => (d, .ok (w.pte, at_))
  | none =>
    match d.walkRead l at_ full with
    | (d, .error e) => (d, .error e)
    | (d, .ok ()) => (d, .ok (BitVec.ofNat 64 (d.readLe at_ 8), at_))

/-- The walk of R284 from level `lvl` at table `tbl`. -/
def Dev.walk (d : Dev) (l : Nat) (asid : BitVec 16) (g : Bool) (va : Nat) (full : Word) (k : AccessKind) :
    Nat → Nat → Dev × Except Stop Found
  | lvl, tbl =>
    match d.readPte l asid va lvl tbl full with
    | (d, .error e) => (d, .error e)
    | (d, .ok (p, at_)) =>
      if !bit p 0 then (d, .error (.exc ⟨k.transCode, lvl, 0, full⟩))
      else if pteIllegal p lvl then (d, .error (.exc ⟨0x08, 3, 0, full⟩))
      else if !bit p 1 then (d, .ok ⟨p, at_, 12 + 9 * lvl⟩)
      else match lvl with
        | 0 => (d, .error (.exc ⟨0x08, 3, 0, full⟩))
        | lvl' + 1 =>
          let d := d.updCore l fun c =>
            let w : WalkEntry := ⟨if g then none else some asid, lvl, va / 2 ^ (12 + 9 * lvl), p⟩
            if c.walk.contains w then c else { c with walk := (w :: c.walk).take 64 }
          d.walk l asid g va full k lvl' (ptePa p)

/-- The descriptor of a segment: from the look-aside, or read at MMU_SEGTB (R280, R281, R284). -/
def Dev.descriptor (d : Dev) (l seg : Nat) (full : Word) : Dev × Except Stop (Word × Word) :=
  match mget none (d.core l).sla seg with
  | some x => (d, .ok x)
  | none =>
    let at_ := field (d.core l).segtb 51 8 * 256 + seg * 16
    match d.walkRead l at_ full with
    | (d, .error e) => (d, .error e)
    | (d, .ok ()) =>
      let w0 : Word := BitVec.ofNat 64 (d.readLe at_ 8)
      let w1 : Word := BitVec.ofNat 64 (d.readLe (at_ + 8) 8)
      if !bit w0 0 then (d, .error (.exc ⟨0x0B, 2, 0, full⟩))
      else if field w0 63 52 != 0 || field w0 11 6 != 0 || field w1 11 0 != 0 then (d, .error (.exc ⟨0x08, 3, 0, full⟩))
      else (d.updCore l fun c => { c with sla := mset none c.sla seg (some (w0, w1)) }, .ok (w0, w1))

/-! ### The TLBs (R291, R292) -/

/-- Whether an entry translates an address under an ASID (R292). -/
def TlbEntry.hits (e : TlbEntry) (asid : BitVec 16) (va : Nat) : Bool :=
  (e.asid == none || e.asid == some asid) && e.va / 2 ^ e.sizeLog2 == va / 2 ^ e.sizeLog2

/-- The L2 TLB set of an address for a page size (256 sets of 12; the index is a DESIGN CHOICE, log entry 65). -/
def l2tlbSet (va sizeLog2 : Nat) : Nat := va / 2 ^ sizeLog2 % 256

/-- The L1 TLB that an access uses. -/
def Core.l1tlb (c : Core) (isFetch : Bool) : List TlbEntry := if isFetch then c.itlb else c.dtlb

/-- The L1 TLB of fetch or of data, changed. -/
def Core.updL1tlb (c : Core) (isFetch : Bool) (f : List TlbEntry → List TlbEntry) : Core :=
  if isFetch then { c with itlb := f c.itlb } else { c with dtlb := f c.dtlb }

/-- An entry newest in its L1 TLB: 64 for fetch, 96 for data; the oldest leaves (R291; the order is a DESIGN CHOICE, log
entry 65). -/
def Core.l1tlbFill (c : Core) (isFetch : Bool) (e : TlbEntry) : Core :=
  c.updL1tlb isFetch fun l => (e :: l.filter fun x => x != e).take (if isFetch then 64 else 96)

/-- An entry newest in its set of the L2 TLB, of 12 ways. -/
def Core.l2tlbFill (c : Core) (e : TlbEntry) : Core :=
  { c with l2tlb := mupd [] c.l2tlb (l2tlbSet e.va e.sizeLog2) fun l => (e :: l.filter fun x => x != e).take 12 }

/-- The L2 TLB entry for an address, of whatever page size. -/
def Core.l2tlbFind (c : Core) (asid : BitVec 16) (va : Nat) : Option TlbEntry :=
  [12, 21, 30].findSome? fun s => (mget [] c.l2tlb (l2tlbSet va s)).find? fun e => e.sizeLog2 == s && e.hits asid va

/-- Every TLB changed by `f`, entry by entry; none where the entry leaves. -/
def Core.mapTlbs (c : Core) (f : TlbEntry → Option TlbEntry) : Core :=
  { c with
    itlb := c.itlb.filterMap f, dtlb := c.dtlb.filterMap f,
    l2tlb := (c.l2tlb.map fun x => (x.1, x.2.filterMap f)).filter fun x => !x.2.isEmpty }

/-- Every TLB empty. -/
def Core.tlbsOff (c : Core) : Core := { c with itlb := [], dtlb := [], l2tlb := [] }

/-- A lookup in the L1 TLB, then the L2 TLB, whose hit fills the L1 (R284, R291). -/
def Core.tlbFind (c : Core) (isFetch : Bool) (asid : BitVec 16) (va : Nat) : Core × Option TlbEntry :=
  match (c.l1tlb isFetch).find? fun e => e.hits asid va with
  | some e => (c, some e)
  | none =>
    match c.l2tlbFind asid va with
    | some e => (c.l1tlbFill isFetch e, some e)
    | none => (c, none)

/-- An update of A and D that an access makes when it retires: a compare-and-swap of the entry that the walk read (R289). -/
structure AdUpdate where
  at_ : Nat
  old : Word
  new : Word
  deriving DecidableEq, Repr

/-- A translation: physical address, type, and the A and D update it makes. -/
structure Xlat where
  pa : Nat
  mt : MemType
  ad : Option AdUpdate
  deriving DecidableEq, Repr

/-- The entry that translates an address and the descriptor's word 0: from the TLBs, or by a walk that fills them
(R284). -/
def Dev.findEntry (d : Dev) (l : Nat) (va : Word) (k : AccessKind) : Dev × Except Stop (TlbEntry × Word) :=
  if field va 59 48 != 0 then (d, .error (.exc ⟨0x0B, 1, 0, va⟩))
  else
    let v := field va 47 0
    match d.descriptor l (field va 63 60) va with
    | (d, .error e) => (d, .error e)
    | (d, .ok (w0, w1)) =>
      if field w1 47 12 < v / 4096 then (d, .error (.exc ⟨0x0B, 3, 0, va⟩))
      else
        let asid : BitVec 16 := BitVec.ofNat 16 (field w1 63 48)
        let isFetch := k == .fetch
        match (d.core l).tlbFind isFetch asid v with
        | (c, some e) => (d.setCore l c, .ok (e, w0))
        | (_, none) =>
          match d.walk l asid (bit w0 5) v va k 3 (field w0 51 12 * 4096) with
          | (d, .error e) => (d, .error e)
          | (d, .ok f) =>
            let e : TlbEntry := ⟨if bit w0 5 || bit f.leaf 6 then none else some asid,
              v / 2 ^ f.sizeLog2 * 2 ^ f.sizeLog2, f.sizeLog2, f.leaf, f.at_⟩
            (d.updCore l fun c => (c.l1tlbFill isFetch e).l2tlbFill e, .ok (e, w0))

/-- check() of R284: the rights of R287 through an entry and its segment's ceilings. -/
def Dev.checkEntry (d : Dev) (lvl : Level) (va : Word) (k : AccessKind) (ply : Bool) (e : TlbEntry) (w0 : Word) : Option Exc :=
  let pa := ptePa e.leaf + field va 47 0 % 2 ^ e.sizeLog2
  let eff : Rights := ⟨bit e.leaf 2 && bit w0 1, bit e.leaf 3 && bit w0 2, bit e.leaf 4 && bit w0 3, bit e.leaf 5 && bit w0 4⟩
  (rightsFail eff (leafType e.leaf) pa lvl k ply (d.markFor lvl)).map fun sub => ⟨0x07, sub, 0, va⟩

/-- The leaf with the bits that an access sets (R289). -/
def AccessKind.marked (k : AccessKind) (leaf : Word) : Word := leaf ||| (if k.writes then 0x180#64 else 0x80#64)

/-- The translation of an access through an entry, its update beside it. -/
def TlbEntry.xlat (e : TlbEntry) (va : Word) (k : AccessKind) : Xlat :=
  ⟨ptePa e.leaf + field va 47 0 % 2 ^ e.sizeLog2, leafType e.leaf,
    if k.marked e.leaf = e.leaf then none else some ⟨e.leafAt, e.leaf, k.marked e.leaf⟩⟩

/-- The core discards a held translation (R290). -/
def Core.dropEntry (c : Core) (e : TlbEntry) : Core := c.mapTlbs fun x => if x = e then none else some x

/-- Whether the compare-and-swap of an update will succeed at retirement: the core's older stores come first, and the entry's
line can be had (R289, R290). -/
def Dev.casReady (d : Dev) (l : Nat) (u : AdUpdate) : Dev × Except Stop Bool :=
  let d := d.drain l
  if (sbOverlap ((List.range 8).map fun i => u.at_ + i) (d.core l).sb).isSome then (d, .error .wait)
  else match d.coreReach l (u.at_ / 64) true with
  | (d, .ok) => (d, .ok (decide (d.readLe u.at_ 8 = u.old.toNat)))
  | (d, .hold) => (d, .error (.hold u.at_))
  | (d, .wait) => (d, .error .wait)
  | (d, .err _) => (d, .error (.exc ⟨0x08, 4, 0, 0#64⟩))

/-- A page translation (R284): the entry, its check, then the accessed and dirty bits, whose compare-and-swap may find the
entry changed: the translation is then discarded, walked again and checked afresh (R287, R289, R290). -/
def Dev.xlatePages (d : Dev) (l : Nat) (lvl : Level) (va : Word) (k : AccessKind) (ply : Bool) : Dev × Except Stop Xlat :=
  match d.findEntry l va k with
  | (d, .error e) => (d, .error e)
  | (d, .ok (e, w0)) =>
    match d.checkEntry lvl va k ply e w0 with
    | some x => (d, .error (.exc x))
    | none =>
      match (e.xlat va k).ad with
      | none => (d, .ok (e.xlat va k))
      | some u =>
        match d.casReady l u with
        | (d, .error (.exc x)) => (d, .error (.exc { x with addr := va }))
        | (d, .error s) => (d, .error s)
        | (d, .ok true) => (d, .ok (e.xlat va k))
        | (d, .ok false) =>
          match (d.updCore l fun c => c.dropEntry e).findEntry l va k with
          | (d, .error e) => (d, .error e)
          | (d, .ok (e, w0)) =>
            match d.checkEntry lvl va k ply e w0 with
            | some x => (d, .error (.exc x))
            | none => (d, .ok (e.xlat va k))

/-- An untranslated access (R278). -/
def Dev.xlateBare (d : Dev) (lvl : Level) (va : Word) (k : AccessKind) (ply : Bool) : Except Exc Xlat :=
  if field va 63 52 != 0 then .error ⟨0x0B, 1, 0, va⟩
  else
    let pa := va.toNat
    let mt := bareType pa
    match rightsFail ⟨true, true, true, !lvl.priv⟩ mt pa lvl k ply (d.markFor lvl) with
    | some sub => .error ⟨0x07, sub, 0, va⟩
    | none => .ok ⟨pa, mt, none⟩

/-- The page size of an STLB entry (R299). -/
def stlbLog2 (w0 : Word) : Nat := 12 + 9 * field w0 11 10

/-- Whether an STLB entry matches VA bits [47:12] (R301). -/
def stlbHit (e : Word × Word) (va : Nat) : Bool :=
  bit e.1 0 && (field e.1 47 12 * 4096) / 2 ^ stlbLog2 e.1 == va / 2 ^ stlbLog2 e.1

/-- A secure-world translation through the STLB; fetch uses the contents it took over at the last ISYNC (R301, R302). -/
def Dev.xlateStlb (d : Dev) (l : Nat) (lvl : Level) (va : Word) (k : AccessKind) (ply : Bool) : Except Exc Xlat :=
  if field va 63 48 != 0 then .error ⟨0x0B, 1, 0, va⟩
  else
    let v := va.toNat
    match (if k == .fetch then (d.core l).stlbF else (d.core l).stlb).find? fun e => stlbHit e.2 v with
    | none => .error ⟨0x09, 0, 0, va⟩
    | some (_, w0, w1) =>
      let pa := field w1 51 12 * 4096 + v % 2 ^ stlbLog2 w0
      let mt := leafType w1
      match rightsFail ⟨bit w1 4, bit w1 5, bit w1 6, bit w1 7⟩ mt pa lvl k ply 0 with
      | some sub => .error ⟨0x07, sub, 0, va⟩
      | none => if k.writes && !bit w1 8 then .error ⟨0x0A, 0, 0, va⟩ else .ok ⟨pa, mt, none⟩

/-- An answer that needs no walk. -/
def plainXlat (r : Except Exc Xlat) : Except Stop Xlat :=
  match r with
  | .ok x => .ok x
  | .error e => .error (.exc e)

/-- The translation of one address of a core, by the regime of R277. -/
def Dev.translate (d : Dev) (l : Nat) (va : Word) (k : AccessKind) (ply : Bool) : Dev × Except Stop Xlat :=
  let c := d.core l
  match c.level with
  | .u => if c.tctl then d.xlatePages l .u va k ply else (d, .error (.exc ⟨0x07, 6, 0, va⟩))
  | .k => if c.tctl then d.xlatePages l .k va k ply else (d, plainXlat (d.xlateBare .k va k ply))
  | .su => (d, if c.ste then plainXlat (d.xlateStlb l .su va k ply) else .error (.exc ⟨0x07, 6, 0, va⟩))
  | .sk => (d, if c.ste then plainXlat (d.xlateStlb l .sk va k ply) else plainXlat (d.xlateBare .sk va k ply))

/-- An access that retires makes its A and D update, in memory and in the TLBs (R289); one that an earlier access of the same
instruction has made already is there. -/
def Dev.applyAd (d : Dev) (l : Nat) : Option AdUpdate → Dev
  | none => d
  | some u =>
    if d.readLe u.at_ 8 = u.old.toNat then
      (d.coreWrite l .l2 (cellsAt u.at_ (leBytes 8 u.new.toNat))).updCore l fun c =>
        c.mapTlbs fun e => some (if e.leafAt = u.at_ then { e with leaf := u.new } else e)
    else d

end Sys2Proof.Machine
end

