-- ==== Sys2Proof/Machine/Ops.lean ====
section
/-! DEFINITION. The operations every core instruction goes through: when a core can take an instruction, fetch, data
accesses, the store buffer, taking an exception (08 R255) and returning from one (08 R257), and retirement. -/
namespace Sys2Proof.Machine

/-! ### When a core takes an instruction -/

/-- Whether an LCN can take a core command: released, on a spindle in RUN, not stopped by a reset, a reel, SAFE or a debugger. -/
def Dev.inService (d : Dev) (l : Nat) : Bool :=
  let c := d.core l
  c.released && !mget false d.lost l && !d.heldReset l && !mget false d.reeling l && !d.safe && (!c.halted || c.stepArmed) &&
  decide ((d.domOf l).st = .run) && !(d.domOf l).transit

/-- Whether an LCN retires the instruction given: in service, waiting for nothing, and no vector deliverable, which it
would take first at the boundary (08 R264), but after an instruction whose drain has begun (10 R331). -/
def Dev.canRun (d : Dev) (l : Nat) : Bool :=
  d.inService l && decide ((d.core l).wait = .none) && ((d.core l).draining || (d.deliverable l).isNone)

/-! ### Breakpoints and watchpoints (08 R275) -/

/-- The breakpoint register that matches an instruction address. -/
def Dev.bpHit (d : Dev) (l : Nat) : Option Exc :=
  let c := d.core l
  let hit (i : Nat) := let r := mget 0#64 c.bp i
    bit r 0 && (bit r 1 == c.level.secure) && field r 63 2 == field c.pc 63 2 && d.invasive l c.level.secure
  if hit 0 then some ⟨0x12, 1, 0, c.pc⟩ else if hit 1 then some ⟨0x12, 2, 0, c.pc⟩ else none

/-- The first byte of an access that a watchpoint register matches. -/
def Dev.wpHit (d : Dev) (l : Nat) (addrs : List Word) (isLoad isStore : Bool) : Option Exc :=
  let c := d.core l
  if !d.invasive l c.level.secure then none
  else
    let on (i : Nat) (a : Word) := let r := mget 0#64 c.wp i
      (bit r 2 == c.level.secure) && ((bit r 0 && isLoad) || (bit r 1 && isStore)) && field r 63 3 == field a 63 3
    match addrs.find? fun a => on 0 a || on 1 a with
    | none => none
    | some a => some ⟨0x13, if on 0 a then 1 else 2, 0, a⟩

/-! ### Fetch -/

/-- The outcome of fetching the word at the PC: its A update (09 R289), or why there is none. -/
inductive Fetched where
  | ok (ad : Option AdUpdate)
  | stop (s : Stop)
  deriving DecidableEq, Repr

/-- Bus error at a physical address. -/
def Exc.bus (pa : Nat) : Exc := ⟨0x0C, 0, 0, BitVec.ofNat 64 pa⟩

/-- Poison consumed from a line. -/
def Exc.poison (pa : Nat) : Exc := ⟨0x0D, 0, 0, BitVec.ofNat 64 (pa / 64 * 64)⟩

/-- VA[12:6], by which the L1s are indexed (11 R340). -/
def vaIdx (va : Word) : Nat := field va 12 6

/-- The fetch of an instruction: translation, permission, breakpoint, then the word itself (07 R246). What the word
decodes to comes with the command. -/
def Dev.fetch (d : Dev) (l : Nat) : Dev × Fetched :=
  let c := d.core l
  match d.translate l c.pc .fetch false with
  | (d, .error e) => (d, .stop e)
  | (d, .ok x) =>
    match d.bpHit l with
    | some e => (d, .stop (.exc e))
    | none =>
      match d.target l c.level.secure x.pa 4 x.mt with
      | .bad _ => (d, .stop (.exc (.bus x.pa)))
      | .device => (d, .stop (.exc (.bus x.pa)))
      | .landing _ => (d, .ok x.ad)
      | .mem =>
        let line := x.pa / 64
        match (if x.mt = .nc then d.ncReach l line else d.coreReach l line false) with
        | (d, .hold) => (d, .stop (.hold x.pa))
        | (d, .wait) => (d, .stop .wait)
        | (d, .err _) => (d, .stop (.exc (.bus x.pa)))
        | (d, .ok) =>
          if d.poisoned line then (d, .stop (.exc (.poison x.pa)))
          else (if x.mt = .nc then (d.ncRead line).1 else (d.coreLine l line false (.l1i (vaIdx c.pc)) false).1, .ok x.ad)

/-! ### Taking an exception and returning from one -/

/-- The CAUSE register (08 R257). -/
def causeOf (intr : Bool) (info sub code : Nat) : Reg32 :=
  BitVec.ofNat 32 (b2n intr * 2 ^ 31 + info % 4096 * 2 ^ 12 + sub % 16 * 2 ^ 8 + code % 256)

/-- A change of world empties the predictor and the dependence table (06 R202, R210). -/
def Core.worldChange (c : Core) : Core := { c with pred := Predictor.empty, depTable := [] }

/-- take() of 08 R255: the entry to a bank's handler. -/
def Core.take (c : Core) (secure : Bool) (cause : Reg32) (addr savedPc : Word) (offset : Nat) : Core :=
  let b := c.bank secure
  let c' := c.setBank secure { b with epc := savedPc, cause := cause, addr := addr, ppriv := c.level.priv, pie := b.ie, ie := false }
  let c' := { c' with level := if secure then .sk else .k, pc := b.vbase + BitVec.ofNat 64 offset }
  if c.level.secure = secure then c' else c'.worldChange

/-- What ISYNC does to fetch, and an exception entry or ERET with it: the L1I lines that the core's stores changed leave, and
fetch takes over the STLB's contents (06 R213, 09 R302, 11 R346). -/
def Dev.refetch (d : Dev) (l : Nat) : Dev := (d.l1iSync l).updCore l fun c => { c with stlbF := c.stlb }

/-- The entry with its ordering (10 R334) and its effect on fetch (06 R213). -/
def Dev.enter (d : Dev) (l : Nat) (secure : Bool) (cause : Reg32) (addr savedPc : Word) (offset : Nat) : Dev :=
  ((d.drainMark l true).refetch l).updCore l fun c => c.take secure cause addr savedPc offset

/-- Taking an exception (08 R254, R255): in the bank of the current world, but world call in the secure one; SYS and
world call save the address of the next instruction. -/
def Dev.takeExc (d : Dev) (l : Nat) (e : Exc) : Dev :=
  let c := d.core l
  let saved := if e.code = 0x10 ∨ e.code = 0x11 then c.pc + 4#64 else c.pc
  d.enter l (c.level.secure || e.code == 0x11) (causeOf false e.info e.sub e.code) e.addr saved
    (if e.code = 0x11 then 0x200 else 0)

/-- ERET within the current world (08 R257). -/
def Core.eret (c : Core) : Core :=
  let w := c.level.secure
  let b := c.bank w
  let c' := c.setBank w { b with ie := b.pie }
  { c' with level := if w then (if b.ppriv then .sk else .su) else (if b.ppriv then .k else .u), pc := b.epc }

/-! ### Retirement -/

/-- What an instruction does. -/
inductive CoreOut where
  /-- it retires and the next instruction follows it -/
  | done (d : Dev) (evs : List (Nat × Nat))
  /-- it retires, and what it writes to a counter stands over the counts of its own cycle (19 R588) -/
  | doneThen (d : Dev) (g : Core → Core)
  /-- it retires as a branch or jump taken to a target -/
  | jump (d : Dev) (target : Word)
  /-- it retires and has set the PC and the level itself -/
  | moved (d : Dev) (evs : List (Nat × Nat))
  /-- it raises an exception -/
  | exc (d : Dev) (e : Exc)
  /-- it waits, unretired -/
  | stay (d : Dev)
  /-- it waits, unretired, for a drain that no interrupt abandons (10 R331) -/
  | drains (d : Dev)

/-- An access stops: its exception is raised, or the instruction waits; a line held at a port is noted there (12 R387). -/
def Dev.stop (d : Dev) (l : Nat) : Stop → CoreOut
  | .exc e => .exc d e
  | .hold pa => .stay (d.holdCore l pa)
  | .wait => .stay d

/-- Whether an outcome retires its instruction: SYS and WCALL do, other exceptions and a wait do not (07 R246). -/
def CoreOut.retires : CoreOut → Bool
  | .exc _ e => e.code == 0x10 || e.code == 0x11
  | .stay _ => false
  | .drains _ => false
  | _ => true

/-- The outcome with its device changed. -/
def CoreOut.onDev (f : Dev → Dev) : CoreOut → CoreOut
  | .done d evs => .done (f d) evs
  | .doneThen d g => .doneThen (f d) g
  | .jump d t => .jump (f d) t
  | .moved d evs => .moved (f d) evs
  | .exc d e => .exc (f d) e
  | .stay d => .stay (f d)
  | .drains d => .drains (f d)

/-- A core past an instruction: a debugger's step and a drain have ended. -/
def Core.past (c : Core) : Core := { c with stepArmed := false, draining := false }

/-- A retired instruction is counted and traced (19 R586, 20 R605), and ends a debugger's step. -/
def Dev.countRetired (d : Dev) (l : Fin 384) (lvl : Level) (evs : List (Nat × Nat)) : Dev :=
  ((d.pmuCount l lvl ((2, 1) :: evs)).traceRetire l.val).updCore l.val Core.past

/-- The packet of an exception or interrupt taken (20 R606). -/
def Dev.traceExcept (d : Dev) (l : Nat) (intr : Bool) (code : Nat) : Dev :=
  let c := d.core l
  d.traceRecord l c.level 2 (leBytes 1 code ++ leBytes 1 (b2n intr + 2 * c.level.code)) c.pc.toNat

/-- The packet of a retired ERET, WCALL or WRET (20 R606). -/
def Dev.traceReturn (d : Dev) (l : Nat) (world : Bool) : Dev :=
  let c := d.core l
  d.traceRecord l c.level 3 (leBytes 1 (c.level.code + 4 * b2n world)) c.pc.toNat

/-- Whether an outcome needs the A bit of the page that its instruction was fetched from: it retires, or has been issued to
wait for an answer and retires with it (09 R289; log entry 12). -/
def CoreOut.issues (o : CoreOut) (l : Nat) : Bool :=
  o.retires || (match o with | .stay d => decide ((d.core l).wait ≠ .none) | _ => false)

/-- What follows an instruction at its retirement boundary. -/
def Dev.finish (d0 : Dev) (l : Fin 384) : CoreOut → Dev
  | .done d evs =>
    (d.updCore l.val fun c => { c with pc := c.pc + 4#64 }).countRetired l (d0.core l.val).level evs
  | .doneThen d g =>
    ((d.updCore l.val fun c => { c with pc := c.pc + 4#64 }).countRetired l (d0.core l.val).level []).updCore l.val g
  | .jump d target =>
    let d := (d.updCore l.val fun c => { c with pc := target }).countRetired l (d0.core l.val).level [(0x10, 1)]
    d.traceRecord l.val (d.core l.val).level 1 [] target.toNat
  | .moved d evs => d.countRetired l (d0.core l.val).level evs
  | .exc d e =>
    let d := d.takeExc l.val e
    let d := d.pmuCount l (d0.core l.val).level ((0x44, 1) :: (if e.code = 0x10 then [(2, 1)] else []))
    (d.updCore l.val Core.past).traceExcept l.val false e.code
  | .stay d => d
  | .drains d => d.updCore l.val fun c => { c with draining := true }

/-- One instruction of a core: fetched, then performed by `f`; a core that cannot take it keeps its state. Where it retires, the
A bit of the page it is fetched from is set before any of its accesses is performed (09 R289). -/
def Dev.instr (d : Dev) (l : Fin 384) (f : Dev → CoreOut) : Dev :=
  if !d.canRun l.val then d
  else
    match d.fetch l.val with
    | (d', .ok none) => d.finish l (f d')
    | (d', .ok (some u)) => d.finish l (if (f d').issues l.val then f (d'.applyAd l.val (some u)) else f d')
    | (d', .stop e) => d.finish l (d'.stop l.val e)

/-- The state with its device replaced; the queue is untouched. -/
def State.withDev (s : State) (d : Dev) : State := { s with dev := d }

/-- A command whose effect on the device is `f`. -/
def onDev (s : State) (f : Dev → Dev) : Host.Outcome State Fault Refusal := .next (s.withDev (f s.dev))

/-- A core instruction. -/
def runInstr (l : Fin 384) (s : State) (f : Dev → CoreOut) : Host.Outcome State Fault Refusal :=
  onDev s fun d => d.instr l f

/-- An instruction that only computes on its core's registers. -/
def runReg (l : Fin 384) (s : State) (f : Core → Core) : Host.Outcome State Fault Refusal :=
  runInstr l s fun d => .done (d.updCore l.val f) []

/-- A register instruction with an illegal form. -/
def runRegIf (l : Fin 384) (s : State) (legal : Bool) (f : Core → Core) : Host.Outcome State Fault Refusal :=
  runInstr l s fun d => if legal then .done (d.updCore l.val f) [] else .exc d .illegal

/-! ### Scalar data accesses (07 R227 to R229) -/

/-- The addresses of `n` bytes from `va`. -/
def byteAddrs (va : Word) (n : Nat) : List Word := (List.range n).map fun i => va + BitVec.ofNat 64 i

/-- The checks of a data access in the order of 07 R246: alignment, translation and permission, watchpoints. -/
def Dev.scalarCheck (d : Dev) (l : Nat) (va : Word) (n : Nat) (k : AccessKind) : Dev × Except Stop Xlat :=
  if va.toNat % n ≠ 0 then (d, .error (.exc ⟨0x03, 0, 0, va⟩))
  else match d.translate l va k false with
    | (d, .error e) => (d, .error e)
    | (d, .ok x) =>
      match d.wpHit l (byteAddrs va n) (k != .store) (k == .store || k == .atomic) with
      | some e => (d, .error (.exc e))
      | none => (d, .ok x)

/-- The event of a load by where its data came from (19 R592). -/
def srcEvents : Src → List (Nat × Nat)
  | .hc => [(0x24, 1)]
  | .dram => [(0x25, 1)]
  | _ => []

/-- A NORMAL load reads its line: through the caches, or at the home for NC, with the place where the data was found. -/
def Dev.memLoad (d : Dev) (l : Nat) (pa : Nat) (mt : MemType) (va : Word) : Dev × Src :=
  if mt = .nc then let r := d.ncRead (pa / 64); (r.1, if r.2 then .hc else .dram)
  else d.coreLine l (pa / 64) false (.l1d (vaIdx va)) false

/-- A load whose bytes an older store of the buffer holds has executed before that store's address was known, unless the
table holds its address: the violation makes it execute again, and its address is recorded among 256 (06 R210; that it does
so each time is a DESIGN CHOICE, log entry 12). -/
def Core.orderLoad (c : Core) : Core :=
  if c.depTable.contains c.pc then c else { c with depTable := (c.pc :: c.depTable).take 256 }

/-- A load of `n` bytes at `va` into `dst`. -/
def Dev.load (d : Dev) (l : Nat) (va : Word) (n : Nat) (dst : LoadDst) (evs : List (Nat × Nat)) : CoreOut :=
  match d.scalarCheck l va n .load with
  | (d, .error e) => d.stop l e
  | (d, .ok x) =>
    let c := d.core l
    match d.target l c.level.secure x.pa n x.mt with
    | .bad _ => .exc d (.bus x.pa)
    | .landing off =>
      let r := d.drained l
      if r.2 then .done ((r.1.applyAd l x.ad).updCore l fun c => c.putLoad dst n (ofLe ((List.range n).map fun i => c.landByte (off + i)))) evs
      else .drains r.1
    | .device =>
      let r := d.drained l
      if r.2 then
        .stay ((r.1.applyAd l x.ad).updCore l fun c => { c.issueDev d.now x.pa n false 0 x.mt c.level with wait := .load c.nextTid dst })
      else .drains r.1
    | .mem =>
      if c.barred then .stay (d.drain l)
      else
        let r := d.beforeLoad l ((List.range n).map fun i => x.pa + i)
        let d := r.1
        if r.2.2 then .stay d
        else if r.2.1 then
          .done ((d.applyAd l x.ad).updCore l fun c => c.orderLoad.putLoad dst n (ofLe (d.coreBytes l x.pa n))) evs
        else match (if x.mt = .nc then d.ncReach l (x.pa / 64) else d.coreReach l (x.pa / 64) false) with
        | (d, .hold) => d.stop l (.hold x.pa)
        | (d, .wait) => d.stop l .wait
        | (d, .err _) => .exc d (.bus x.pa)
        | (d, .ok) =>
          if d.poisoned (x.pa / 64) then .exc d (.poison x.pa)
          else
            let d := d.applyAd l x.ad
            let v := ofLe (d.coreBytes l x.pa n)
            let r := d.memLoad l x.pa x.mt va
            .done (r.1.updCore l fun c => c.putLoad dst n v) (srcEvents r.2 ++ evs)

/-- A store of the `n` low bytes of `v` at `va`: it retires into the store buffer (06 R208, 07 R227), or waits for an entry. -/
def Dev.store (d : Dev) (l : Nat) (va : Word) (n v : Nat) (evs : List (Nat × Nat)) : CoreOut :=
  match d.scalarCheck l va n .store with
  | (d, .error e) => d.stop l e
  | (d, .ok x) =>
    if (d.core l).barred then .stay (d.drain l)
    else
      match d.pushStore l [.store (cellsAt x.pa (leBytes n v)) x.mt (d.core l).level (vaIdx va)] with
      | (d, true) => .done (d.applyAd l x.ad) ((if x.mt = .device then [(0x33, 1)] else []) ++ evs)
      | (d, false) => .stay d

end Sys2Proof.Machine
end

