-- ==== Sys2Proof/Machine/Atomics.lean ====
section
/-! DEFINITION. Atomics and CAS (07 R236, R237), near and far (11 R358, R359). -/
namespace Sys2Proof.Machine

/-- The index of the contention predictor (11 R359). -/
def contIndex (pa : Nat) : Nat := bitsN pa 14 6 ^^^ bitsN pa 23 15

/-- A counter of the contention predictor moves by one, between 0 and 3 (11 R359). -/
def Core.trainCont (c : Core) (i : Nat) (up : Bool) : Core :=
  { c with contention := mupd 1 c.contention i fun v => if up then min 3 (v + 1) else v - 1 }

/-- Whether write permission for a line needs a recall of another agent's M copy (11 R353, R359). -/
def Dev.needsRecall (d : Dev) (p line : Nat) : Bool :=
  match mget none d.coh.l3 (lineKey (p / 28) line) with
  | some t => if t.dieM then t.cm && t.pres != (1#28 <<< (p % 28)) else (d.dirOf line).st == .m
  | none => (d.dirOf line).st == .m

/-- A near atomic: the line in M in the core's L1D (11 R358). -/
def Dev.atomNear (d : Dev) (l pa n vi : Nat) (new : Option Nat) : Dev :=
  match new with
  | some v => d.coreWrite l (.l1d vi) (cellsAt pa (leBytes n v))
  | none =>
    let d := (d.coreLine l (pa / 64) true (.l1d vi) false).1
    let p := mget none d.spindleOf l
    d.markStale (pa / 64) (p.getD 0 / 28) p

/-- A far atomic at the die's L3 slice, where the die holds M: the copies above leave, and the slice hits its copy; a CAS
that fails writes nothing (11 R358, 07 R237). -/
def Dev.atomL3 (d : Dev) (l die pa n : Nat) (t : L3Tag) (new : Option Nat) : Dev :=
  let line := pa / 64
  let d := d.forPres die t.pres none fun d p => d.l2Drop p line
  let d := match new with
    | some v => (d.markStale line die none).putBytes (cellsAt pa (leBytes n v))
    | none => d
  let d := d.l3Fill ((d.skeinOf l).getD 16) die line { t with pres := 0#28, cm := false, reuse := true }
  match mget none d.spindleOf l with
  | some p => if new.isSome then d.notePending l p line else d
  | none => d

/-- A far atomic at the hub's home agent: every copy above is recalled or invalidated, and the home operates on its own copy
(11 R358); a CAS that fails writes nothing (07 R237). -/
def Dev.atomHub (d : Dev) (pa n : Nat) (new : Option Nat) : Dev :=
  let line := pa / 64
  let d := ((d.dirTouch line).dirClear line).homeRead line
  match new with
  | some v => d.1.homeWrite line (cellsAt pa (leBytes n v))
  | none => d.1

/-- A far atomic, at the L3 slice or at the hub's home agent, which notes it (11 R358, R359). -/
def Dev.atomFar (d : Dev) (l p pa n : Nat) (new : Option Nat) : Dev :=
  (match mget none d.coh.l3 (lineKey (p / 28) (pa / 64)) with
    | some t => if t.dieM then d.atomL3 l (p / 28) pa n t new else d.atomHub pa n new
    | none => d.atomHub pa n new).noteFar l (pa / 64)

/-- An atomic on `n` bytes at the address in ga: near or far as the contention predictor says, which it trains; the old
value goes to gd (07 R236, R237, 11 R359); one whose line the die cannot hold is far (16 R512). With ORD release every earlier store is globally performed first, else those of the
store buffer (10 R327). -/
def Dev.atomic (d : Dev) (l : Nat) (gd ga : BitVec 5) (n : Nat) (release : Bool) (f : Nat → Option Nat) : CoreOut :=
  match d.scalarCheck l ((d.core l).rg ga) n .atomic with
  | (d, .error e) => d.stop l e
  | (d, .ok x) =>
    match d.target l (d.core l).level.secure x.pa n x.mt with
    | .mem =>
      let line := x.pa / 64
      let vi := vaIdx ((d.core l).rg ga)
      let d := d.drain l
      if !(d.core l).sb.isEmpty || (release && !(d.core l).pendSt.isEmpty) then (if release then .drains d else .stay d)
      else match d.coreReach l line true with
        | (d, .hold) => d.stop l (.hold x.pa)
        | (d, .wait) => d.stop l .wait
        | (d, .err _) => .exc d (.bus x.pa)
        | (d, .ok) =>
          if d.poisoned line then .exc d (.poison x.pa)
          else
            let d := d.applyAd l x.ad
            let old := d.readLe x.pa n
            let i := contIndex x.pa
            let p := (mget none d.spindleOf l).getD 0
            if 2 ≤ mget 1 (d.core l).contention i ∨ d.uncached l line then
              let hot := d.hot l line
              let d := d.atomFar l p x.pa n (f old)
              let d := match d.skeinOf l with | some s => d.count (Reg.CCH_SK_FAR s) | none => d
              .done (d.updCore l fun c => (c.trainCont i hot).wg gd (BitVec.ofNat 64 old)) [(0x31, 1)]
            else
              let inL1 := (match mget none d.coh.l2 (lineKey p line) with | some e => e.m | none => false) && d.fillHit p line (.l1d vi)
              let recalled := d.needsRecall p line
              let d := d.atomNear l x.pa n vi (f old)
              .done (d.updCore l fun c =>
                (if inL1 then c.trainCont i false else if recalled then c.trainCont i true else c).wg gd (BitVec.ofNat 64 old)) [(0x30, 1)]
    | _ => .exc d (.bus x.pa)

/-- An atomic instruction: SZ selects 4 or 8 bytes; ORD bit 1 is release (07 R236, 10 R327). -/
def runAtomic (k : AtomKind) (l : Fin 384) (dw u : Bool) (ord : BitVec 2) (gd ga gb : BitVec 5) (s : State) :
    Host.Outcome State Fault Refusal :=
  runInstr l s fun d =>
    let c := d.core l.val
    let n := if dw then 8 else 4
    let b := (c.rg gb).toNat
    let e := (c.rg gd).toNat
    d.atomic l.val gd ga n (bit ord 1) fun old => atomNew k (8 * n) u old b e

/-- ATOMIC_SWAP, 07 R236. -/
def execAtomicSwap (l : Fin 384) (dw : Bool) (ord : BitVec 2) (gd ga gb : BitVec 5) (s : State) :
    Host.Outcome State Fault Refusal :=
  runAtomic .swap l dw false ord gd ga gb s

/-- ATOMIC_ADD, 07 R236. -/
def execAtomicAdd (l : Fin 384) (dw : Bool) (ord : BitVec 2) (gd ga gb : BitVec 5) (s : State) :
    Host.Outcome State Fault Refusal :=
  runAtomic .add l dw false ord gd ga gb s

/-- ATOMIC_AND, 07 R236. -/
def execAtomicAnd (l : Fin 384) (dw : Bool) (ord : BitVec 2) (gd ga gb : BitVec 5) (s : State) :
    Host.Outcome State Fault Refusal :=
  runAtomic .and l dw false ord gd ga gb s

/-- ATOMIC_OR, 07 R236. -/
def execAtomicOr (l : Fin 384) (dw : Bool) (ord : BitVec 2) (gd ga gb : BitVec 5) (s : State) :
    Host.Outcome State Fault Refusal :=
  runAtomic .or l dw false ord gd ga gb s

/-- ATOMIC_XOR, 07 R236. -/
def execAtomicXor (l : Fin 384) (dw : Bool) (ord : BitVec 2) (gd ga gb : BitVec 5) (s : State) :
    Host.Outcome State Fault Refusal :=
  runAtomic .xor l dw false ord gd ga gb s

/-- CAS, 07 R236. -/
def execCas (l : Fin 384) (dw : Bool) (ord : BitVec 2) (gd ga gb : BitVec 5) (s : State) :
    Host.Outcome State Fault Refusal :=
  runAtomic .cas l dw false ord gd ga gb s

/-- ATOMIC_MIN, 07 R236. -/
def execAtomicMin (l : Fin 384) (dw u : Bool) (ord : BitVec 2) (gd ga gb : BitVec 5) (s : State) :
    Host.Outcome State Fault Refusal :=
  runAtomic .min l dw u ord gd ga gb s

/-- ATOMIC_MAX, 07 R236. -/
def execAtomicMax (l : Fin 384) (dw u : Bool) (ord : BitVec 2) (gd ga gb : BitVec 5) (s : State) :
    Host.Outcome State Fault Refusal :=
  runAtomic .max l dw u ord gd ga gb s

/-- ATOMIC_SADD, 07 R236. -/
def execAtomicSadd (l : Fin 384) (dw u : Bool) (ord : BitVec 2) (gd ga gb : BitVec 5) (s : State) :
    Host.Outcome State Fault Refusal :=
  runAtomic .sadd l dw u ord gd ga gb s

end Sys2Proof.Machine
end

