-- ==== Sys2Proof/Machine/Coherence.lean ====
section
/-! DEFINITION. Coherence packets as commands (11 R353 to R358, 12 R372): requests of agents that reach a home, the recalls,
invalidations and answers that follow, and the rebuild of directory lines. Accesses of core instructions make the same
exchange in one step (log entry 5); a packet here is delivered by a command of its own, or by the ticks that carry it. -/
namespace Sys2Proof.Machine

/-! ### Requests that reach the home -/

/-- GETS (11 R353). -/
def execGets (agent : AgentId) (line : Nat) (s : State) : Host.Outcome State Fault Refusal :=
  onDev s fun d => d.homeRequest line agent.val .getS

/-- GETM (11 R353, R355). -/
def execGetm (agent : AgentId) (line : Nat) (s : State) : Host.Outcome State Fault Refusal :=
  onDev s fun d => d.homeRequest line agent.val .getM

/-- WFULL (11 R353). -/
def execWfull (agent : AgentId) (line : Nat) (data : List (BitVec 8)) (s : State) : Host.Outcome State Fault Refusal :=
  onDev s fun d => d.homeRequest line agent.val (.full data)

/-- RDNC (10 R316). -/
def execRdnc (agent : AgentId) (line : Nat) (s : State) : Host.Outcome State Fault Refusal :=
  onDev s fun d => d.homeRequest line agent.val .rdnc

/-- WRNC: merged at the home (10 R316, 13 R415). -/
def execWrnc (agent : AgentId) (line : Nat) (mask : BitVec 64) (data : List (BitVec 8)) (s : State) :
    Host.Outcome State Fault Refusal :=
  onDev s fun d => d.homeRequest line agent.val (.wrnc mask data)

/-- ATOM (11 R358). -/
def execAtom (agent : AgentId) (line : Nat) (op : AtomOp) (s : State) : Host.Outcome State Fault Refusal :=
  onDev s fun d => d.homeRequest line agent.val (.atom op)

/-- An agent's copies of a line leave: a die's caches, or what a hub agent holds (11 R345, R356). -/
def Dev.agentDrop (d : Dev) (agent line : Nat) : Dev :=
  if agent < 16 then d.dieDrop agent line else d.setHubHeld agent line .i

/-- PUTS: a holder drops its clean copy; one that crosses an invalidation is its acknowledgement (11 R353, R354). What comes
from an isolated agent is discarded (12 R383). -/
def execPuts (agent : AgentId) (line : Nat) (s : State) : Host.Outcome State Fault Refusal :=
  onDev s fun d =>
    let a := agent.val
    if d.agentIsolated a ∨ d.agentState a line = .m then d else (d.agentDrop a line).putSHome a line

/-- PUTM: the owner writes the line back, a hub agent with the data of its packet; one that crosses a recall is its answer
(11 R353, R354, R356). -/
def execPutm (agent : AgentId) (line : LineData) (s : State) : Host.Outcome State Fault Refusal :=
  onDev s fun d =>
    let a := agent.val
    let n := line.line
    if d.agentIsolated a ∨ (d.dirOf n).st ≠ .m ∨ (d.dirOf n).holders ≠ agentBit a then d
    else (d.agentDrop a n).putMHome a n line.data

/-! ### Commands that reach an agent -/

/-- A packet of a kind arrives: it goes the rest of its way, where every buffer on it has credits, and `f` takes it. -/
def Dev.onMsg (d : Dev) (k : CohKind) (agent line : Nat) (f : Dev → CohMsg → Dev) : Dev :=
  match d.inFlight k agent line with
  | some m => if d.canTravel m then f (d.arrived m) m else d
  | none => d

/-- Whether an agent owns a line at the home. -/
def Dev.ownedBy (d : Dev) (agent line : Nat) : Bool := (d.dirOf line).st == .m && (d.dirOf line).holders == agentBit agent

/-- What an isolated port answers to a home's command: ACK, or for a recall RDATA with poisoned data (12 R383, 11 R365). -/
def Dev.portAnswers (d : Dev) (k : CohKind) (agent line : Nat) : Dev :=
  match k with
  | .inv => d.send .ack agent line []
  | _ => (d.reclaimPoison line).send .rdata agent line []

/-- INV: the holder drops the line and acknowledges (11 R353). -/
def Dev.takeInv (d : Dev) (agent line : Nat) : Dev :=
  if d.agentIsolated agent then d.portAnswers .inv agent line else (d.agentDrop agent line).send .ack agent line []

/-- A recall: the owner writes back, keeping S or dropping the line, or has already written back (11 R353, R354). -/
def Dev.takeRecall (d : Dev) (k : CohKind) (agent line : Nat) : Dev :=
  if d.agentIsolated agent then d.portAnswers k agent line
  else if !d.ownedBy agent line then d.send .already agent line []
  else if k = .recallS then
    (if agent < 16 then d.dieDowngrade agent line else d.setHubHeld agent line .s).send .rdata agent line (d.lineData line)
  else (d.agentDrop agent line).send .rdata agent line (if k = .recallD then [] else d.lineData line)

/-- INV (11 R353). -/
def execInvMsg (agent : AgentId) (line : Nat) (s : State) : Host.Outcome State Fault Refusal :=
  onDev s fun d => d.onMsg .inv agent.val line fun d _ => d.takeInv agent.val line

/-- RECALL_S: the owner writes back and keeps S (11 R353, R354). -/
def execRecallS (agent : AgentId) (line : Nat) (s : State) : Host.Outcome State Fault Refusal :=
  onDev s fun d => d.onMsg .recallS agent.val line fun d _ => d.takeRecall .recallS agent.val line

/-- RECALL_I: the owner writes back and invalidates. -/
def execRecallI (agent : AgentId) (line : Nat) (s : State) : Host.Outcome State Fault Refusal :=
  onDev s fun d => d.onMsg .recallI agent.val line fun d _ => d.takeRecall .recallI agent.val line

/-- RECALL_D: the owner invalidates and its data is discarded. -/
def execRecallD (agent : AgentId) (line : Nat) (s : State) : Host.Outcome State Fault Refusal :=
  onDev s fun d => d.onMsg .recallD agent.val line fun d _ => d.takeRecall .recallD agent.val line

/-! ### Answers that reach the home -/

/-- ACK: an acknowledgement counts once; a later one is discarded (11 R354, R355). -/
def Dev.takeAck (d : Dev) (agent line : Nat) : Dev :=
  match d.txnOf line with
  | some t => if t.acks.getLsbD agent then d.ackCounted line agent t else d
  | none => d

/-- RDATA: the owner's answer to a recall, a hub agent's data with it (11 R353, R356). -/
def Dev.takeRdata (d : Dev) (agent line : Nat) (data : List Byte) : Dev :=
  match d.txnOf line with
  | some t =>
    if t.recallOf = some agent then
      (if t.req.discards then d else d.ownerData agent line data).recallDone line t t.req.keepsS
    else d
  | none => d

/-- ACK (11 R354, R355). -/
def execAckMsg (agent : AgentId) (line : Nat) (s : State) : Host.Outcome State Fault Refusal :=
  onDev s fun d => d.onMsg .ack agent.val line fun d _ => d.takeAck agent.val line

/-- RDATA: the packet's data are what a hub agent writes back (11 R353, R356). -/
def execRdata (agent : AgentId) (line : LineData) (s : State) : Host.Outcome State Fault Refusal :=
  onDev s fun d => d.onMsg .rdata agent.val line.line fun d _ => d.takeRdata agent.val line.line line.data

/-- ALREADY: the PutM that crossed the recall was its answer, so this one is discarded (11 R354). -/
def execAlready (agent : AgentId) (line : Nat) (s : State) : Host.Outcome State Fault Refusal :=
  onDev s fun d => d.onMsg .already agent.val line fun d _ => d

/-! ### What reaches the requester -/

/-- DATA: the line stands in the die's L3 or with the hub agent, where the directory names the agent in S; data of a far atomic
or a non-cacheable read is only delivered (11 R353, 10 R316). A port that is isolated discards it (12 R383). -/
def Dev.takeData (d : Dev) (m : CohMsg) : Dev :=
  if d.agentIsolated m.agent ∨ m.data.length ≠ 64 ∨ (d.dirOf m.line).st ≠ .s ∨ !(d.dirOf m.line).holders.getLsbD m.agent then d
  else if m.agent < 16 then d.tagArrives m.skein m.agent m.line false false
  else d.setHubHeld m.agent m.line .s

/-- GRANT, pending or done: the agent holds the line in M (11 R353, R355). -/
def Dev.takeGrant (d : Dev) (m : CohMsg) : Dev :=
  if d.agentIsolated m.agent || !d.ownedBy m.agent m.line then d
  else if m.agent < 16 then d.tagArrives m.skein m.agent m.line true (m.kind == .grantPending)
  else d.setHubHeld m.agent m.line .m

/-- DONE: PEND clears, and the stores made under the grant are globally performed (11 R355). -/
def Dev.takeDone (d : Dev) (agent line : Nat) : Dev :=
  if 16 ≤ agent then d
  else
    let d := { d with coh := { d.coh with l3 := mupd none d.coh.l3 (lineKey agent line) fun x => x.map fun t => { t with pend := false } } }
    (List.range 384).foldl (fun d l =>
      if (d.core l).pendSt.contains line ∧ ((mget none d.spindleOf l).map fun p => p / 28) = some agent then
        d.updCore l fun c => { c with pendSt := c.pendSt.filter fun x => x != line }
      else d) d

/-- DATA (11 R353). -/
def execDataMsg (agent : AgentId) (line : Nat) (s : State) : Host.Outcome State Fault Refusal :=
  onDev s fun d => d.onMsg .data agent.val line Dev.takeData

/-- GRANT, pending or done (11 R355). -/
def execGrantMsg (agent : AgentId) (line : Nat) (s : State) : Host.Outcome State Fault Refusal :=
  onDev s fun d =>
    match d.inFlight .grantPending agent.val line with
    | some _ => d.onMsg .grantPending agent.val line Dev.takeGrant
    | none => d.onMsg .grantDone agent.val line Dev.takeGrant

/-- DONE (11 R355). -/
def execDoneMsg (agent : AgentId) (line : Nat) (s : State) : Host.Outcome State Fault Refusal :=
  onDev s fun d => d.onMsg .done agent.val line fun d _ => d.takeDone agent.val line

/-! ### Packets carried by the ticks (12 R374, R375) -/

/-- A packet at the end of its way is taken by its destination, as by the command that delivers it. -/
def Dev.takeMsg (d : Dev) (m : CohMsg) : Dev :=
  let d := d.arrived m
  match m.kind with
  | .inv => d.takeInv m.agent m.line
  | .recallS | .recallI | .recallD => d.takeRecall m.kind m.agent m.line
  | .ack => d.takeAck m.agent m.line
  | .rdata => d.takeRdata m.agent m.line m.data
  | .already => d
  | .data => d.takeData m
  | .grantPending | .grantDone => d.takeGrant m
  | .done => d.takeDone m.agent m.line

/-- Whether the answer that a packet asks of a hub agent must come from outside the model: what the agent wrote in M. -/
def Dev.needsOutside (d : Dev) (m : CohMsg) : Bool :=
  decide (16 ≤ m.agent) && (m.kind == .rdata || ((m.kind == .recallS || m.kind == .recallI) && d.ownedBy m.agent m.line))

/-- The networks in one tick: packets that stand at the end of their way are taken, and the others move one hop. What a hub
agent wrote itself comes only with its own command (log entry 63). -/
def Dev.netTick (d : Dev) : Dev :=
  let due := d.coh.flight.filter fun m => (d.linksLeft m).isEmpty && !d.needsOutside m
  (due.foldl (fun d m => if d.coh.flight.contains m then d.takeMsg m else d) d).hopAll

/-! ### Rebuild, waiting requests, dead agents -/

/-- A request that waited at the home is taken up again. -/
def Dev.homeRetry (d : Dev) (line : Nat) : Dev :=
  match d.txnOf line with
  | some t =>
    if t.started || d.coh.rebuild.contains (line / 21) then d
    else (d.setTxn line none).homeServe line ((t.agent, t.req) :: t.waiting)
  | none => d

/-- Every request that waited at a home is taken up again where it can go on. -/
def Dev.cohPump (d : Dev) : Dev := (d.coh.txn.map fun (e : Nat × Option HomeTxn) => e.1).foldl Dev.homeRetry d

/-- The rebuild of a directory line ends, and requests to its lines proceed (11 R357). -/
def Dev.rebuildDone (d : Dev) (line : Nat) : Dev :=
  if !d.coh.rebuild.contains (line / 21) then d
  else
    let d := d.dirRebuild line
    let d := { d with coh := { d.coh with rebuild := d.coh.rebuild.erase (line / 21) } }
    (List.range 21).foldl (fun d i => d.homeRetry (line / 21 * 21 + i)) d

/-- DIR_REBUILD_DONE (11 R357). -/
def execDirRebuildDone (line : Nat) (s : State) : Host.Outcome State Fault Refusal := onDev s fun d => d.rebuildDone line

/-- Recalls and invalidations outstanding to an agent that is declared dead count as answered, a recall with poisoned data
(11 R365). -/
def Dev.txnsOfDead (d : Dev) (agent : Nat) : Dev :=
  let d := { d with coh := { d.coh with
    flight := d.coh.flight.filter (fun m => m.agent != agent), hubHeld := d.coh.hubHeld.filter fun (e : Nat × DirState) => e.1 / 0x400000000000 != agent } }
  (d.coh.txn.map fun (e : Nat × Option HomeTxn) => e.1).foldl (fun d line =>
    match d.txnOf line with
    | none => d
    | some t =>
      let t := { t with waiting := t.waiting.filter fun (w : Nat × HomeReq) => w.1 != agent }
      if t.recallOf = some agent then (d.reclaimPoison line).recallDone line t false
      else if t.acks.getLsbD agent then d.ackCounted line agent t
      else d.setTxn line (some t)) d

end Sys2Proof.Machine
end

