-- ==== Sys2Proof/Machine/Ply.lean ====
section
/-! DEFINITION. Ply, the money vector extension (chapter 05): element-wise arithmetic with saturation, decimal rounding,
digit fields, masks and vector memory accesses. -/
namespace Sys2Proof.Machine

/-! ### Groups and elements (05 R154, R155) -/

/-- The group size of a G field; 0 for the illegal encoding. -/
def grpSize (g : BitVec 2) : Nat := if g = 3#2 then 0 else 2 ^ g.toNat

/-- The element size of a T field, in bytes. -/
def elSize (t : BitVec 2) : Nat := 2 ^ t.toNat

/-- The bytes of the registers n to n + k − 1 as one little-endian number. -/
def Core.grp (c : Core) (n : Nat) : Nat → Nat
  | 0 => 0
  | k + 1 => (c.rv n).toNat + 2 ^ 256 * c.grp (n + 1) k

/-- A write of the registers n to n + k − 1 (05 R154). -/
def Core.putGrp (c : Core) (n x : Nat) : Nat → Core
  | 0 => c
  | k + 1 => (c.wv n (BitVec.ofNat 256 x)).putGrp (n + 1) (x / 2 ^ 256) k

/-- Element `i` of `w` bits. -/
def elem (x w i : Nat) : Nat := (x / 2 ^ (w * i)) % 2 ^ w

/-- Elements of `w` bits as one number. -/
def packEl (w : Nat) : List Nat → Nat
  | [] => 0
  | e :: es => e % 2 ^ w + 2 ^ w * packEl w es

/-- Whether a register number suits a group of `k` (05 R155). -/
def grpOk (k : Nat) (rs : List (BitVec 5)) : Bool := k ≠ 0 && rs.all fun r => r.toNat % k == 0

/-- The Ply instruction's rounding mode is legal (05 R161). -/
def Core.rmOk (c : Core) : Bool := c.pctlRm ≠ 7#3

/-- Element-wise result of `f` on the active elements, with the flags it raises; the others keep their value (05
R158). -/
def Core.vecMap (c : Core) (vd : Nat) (k s m : Nat) (f : Nat → Nat × BitVec 8) : Core :=
  let w := 8 * s
  let old := c.grp vd k
  let mk := c.rm m
  let rs := (List.range (32 * k / s)).map fun i => if mk.getLsbD i then f i else (elem old w i, 0#8)
  (c.putGrp vd (packEl w (rs.map (·.1))) k).orPsat (rs.foldl (fun a r => a ||| r.2) 0#8)

/-- Two-source element-wise operation. -/
def Core.vec2 (c : Core) (vd va vb m : Nat) (k s : Nat) (f : Nat → Nat → Nat × BitVec 8) : Core :=
  let x := c.grp va k
  let y := c.grp vb k
  c.vecMap vd k s m fun i => f (elem x (8 * s) i) (elem y (8 * s) i)

/-- One-source element-wise operation. -/
def Core.vec1 (c : Core) (vd va m : Nat) (k s : Nat) (f : Nat → Nat × BitVec 8) : Core :=
  let x := c.grp va k
  c.vecMap vd k s m fun i => f (elem x (8 * s) i)

/-! ### Saturation and rounding (05 R164, R165) -/

/-- An integer saturated to `w` bits, with `flag` where it does not fit (05 R165). -/
def satEl (w : Nat) (unsigned : Bool) (flag : BitVec 8) (v : Int) : Nat × BitVec 8 :=
  (asNat w (satInt (intLo w unsigned) (intHi w unsigned) v),
    if v < intLo w unsigned ∨ intHi w unsigned < v then flag else 0#8)

/-- round_div of 05 R164: the rounded quotient and whether a remainder was discarded. -/
def roundDiv (x : Int) (dv : Nat) (rm : Nat) : Int × Bool :=
  let q := x.tdiv dv
  let r := x - q * dv
  if r = 0 then (q, false)
  else
    let sg : Int := if x < 0 then -1 else 1
    let h := 2 * r.natAbs
    let up : Bool := match rm with
      | 0 => decide (dv < h) || (decide (h = dv) && decide (q % 2 ≠ 0))
      | 1 => decide (dv ≤ h)
      | 2 => decide (dv < h)
      | 3 => false
      | 4 => true
      | 5 => decide (sg < 0)
      | _ => decide (0 < sg)
    (if up then q + sg else q, true)

/-! ### The frame of a Ply instruction -/

/-- Ply disabled (05 R163). -/
def Exc.plyDisabled : Exc := ⟨0x0F, 0, 0, 0#64⟩

/-- A Ply instruction: illegal forms first, then the enable (07 R246). -/
def runPly (l : Fin 384) (s : State) (legal : Core → Bool) (f : Core → Core) : Host.Outcome State Fault Refusal :=
  runInstr l s fun d =>
    let c := d.core l.val
    if !legal c then .exc d .illegal
    else if !c.pctlEn then .exc d .plyDisabled
    else .done (d.updCore l.val f) [(0x42, 1)]

/-- An AES or SHA instruction: it depends on the Ply enable (07 R239). -/
def runCrypto (l : Fin 384) (s : State) (legal : Bool) (f : Core → Core) : Host.Outcome State Fault Refusal :=
  runInstr l s fun d =>
    if !legal then .exc d .illegal
    else if !(d.core l.val).pctlEn then .exc d .plyDisabled
    else .done (d.updCore l.val f) []

/-- PADDS, 05 R166. -/
def execPadds (l : Fin 384) (vd va vb : BitVec 5) (m : BitVec 3) (g t : BitVec 2) (s : State) : Host.Outcome State Fault Refusal :=
  runPly l s (fun _ => grpOk (grpSize g) [vd, va, vb]) fun c =>
    c.vec2 vd.toNat va.toNat vb.toNat m.toNat (grpSize g) (elSize t) fun a b => satEl (8 * elSize t) false satAddBit (asInt (8 * elSize t) false a + asInt (8 * elSize t) false b)

/-- PADDU, 05 R166. -/
def execPaddu (l : Fin 384) (vd va vb : BitVec 5) (m : BitVec 3) (g t : BitVec 2) (s : State) : Host.Outcome State Fault Refusal :=
  runPly l s (fun _ => grpOk (grpSize g) [vd, va, vb]) fun c =>
    c.vec2 vd.toNat va.toNat vb.toNat m.toNat (grpSize g) (elSize t) fun a b => satEl (8 * elSize t) true satAddBit (asInt (8 * elSize t) true a + asInt (8 * elSize t) true b)

/-- PSUBS, 05 R166. -/
def execPsubs (l : Fin 384) (vd va vb : BitVec 5) (m : BitVec 3) (g t : BitVec 2) (s : State) : Host.Outcome State Fault Refusal :=
  runPly l s (fun _ => grpOk (grpSize g) [vd, va, vb]) fun c =>
    c.vec2 vd.toNat va.toNat vb.toNat m.toNat (grpSize g) (elSize t) fun a b => satEl (8 * elSize t) false satAddBit (asInt (8 * elSize t) false a - asInt (8 * elSize t) false b)

/-- PSUBU, 05 R166. -/
def execPsubu (l : Fin 384) (vd va vb : BitVec 5) (m : BitVec 3) (g t : BitVec 2) (s : State) : Host.Outcome State Fault Refusal :=
  runPly l s (fun _ => grpOk (grpSize g) [vd, va, vb]) fun c =>
    c.vec2 vd.toNat va.toNat vb.toNat m.toNat (grpSize g) (elSize t) fun a b => satEl (8 * elSize t) true satAddBit (asInt (8 * elSize t) true a - asInt (8 * elSize t) true b)

/-- PMULR, 05 R167. -/
def execPmulr (l : Fin 384) (vd va vb : BitVec 5) (m : BitVec 3) (g t : BitVec 2) (s : State) : Host.Outcome State Fault Refusal :=
  runPly l s (fun c => grpOk (grpSize g) [vd, va, vb] && c.rmOk) fun c =>
    c.vec2 vd.toNat va.toNat vb.toNat m.toNat (grpSize g) (elSize t) fun a b => satEl (8 * elSize t) false satMulBit (roundDiv (asInt (8 * elSize t) false a * asInt (8 * elSize t) false b) (2 ^ (8 * elSize t - 1)) c.pctlRm.toNat).1

/-- PMIN, 05 R172. -/
def execPmin (l : Fin 384) (vd va vb : BitVec 5) (m : BitVec 3) (g t : BitVec 2) (s : State) : Host.Outcome State Fault Refusal :=
  runPly l s (fun _ => grpOk (grpSize g) [vd, va, vb]) fun c =>
    c.vec2 vd.toNat va.toNat vb.toNat m.toNat (grpSize g) (elSize t) fun a b => (if asInt (8 * elSize t) false a ≤ asInt (8 * elSize t) false b then a else b, 0#8)

/-- PMAX, 05 R172. -/
def execPmax (l : Fin 384) (vd va vb : BitVec 5) (m : BitVec 3) (g t : BitVec 2) (s : State) : Host.Outcome State Fault Refusal :=
  runPly l s (fun _ => grpOk (grpSize g) [vd, va, vb]) fun c =>
    c.vec2 vd.toNat va.toNat vb.toNat m.toNat (grpSize g) (elSize t) fun a b => (if asInt (8 * elSize t) false a ≤ asInt (8 * elSize t) false b then b else a, 0#8)

/-- PMINU, 05 R172. -/
def execPminu (l : Fin 384) (vd va vb : BitVec 5) (m : BitVec 3) (g t : BitVec 2) (s : State) : Host.Outcome State Fault Refusal :=
  runPly l s (fun _ => grpOk (grpSize g) [vd, va, vb]) fun c =>
    c.vec2 vd.toNat va.toNat vb.toNat m.toNat (grpSize g) (elSize t) fun a b => (if asInt (8 * elSize t) true a ≤ asInt (8 * elSize t) true b then a else b, 0#8)

/-- PMAXU, 05 R172. -/
def execPmaxu (l : Fin 384) (vd va vb : BitVec 5) (m : BitVec 3) (g t : BitVec 2) (s : State) : Host.Outcome State Fault Refusal :=
  runPly l s (fun _ => grpOk (grpSize g) [vd, va, vb]) fun c =>
    c.vec2 vd.toNat va.toNat vb.toNat m.toNat (grpSize g) (elSize t) fun a b => (if asInt (8 * elSize t) true a ≤ asInt (8 * elSize t) true b then b else a, 0#8)

/-- PSEL, 05 R172. -/
def execPsel (l : Fin 384) (vd va vb : BitVec 5) (m : BitVec 3) (g t : BitVec 2) (s : State) : Host.Outcome State Fault Refusal :=
  runPly l s (fun _ => grpOk (grpSize g) [vd, va, vb]) fun c =>
    let k := grpSize g
    let w := (8 * elSize t)
    let x := c.grp va.toNat k
    let y := c.grp vb.toNat k
    c.putGrp vd.toNat (packEl w ((List.range (32 * k / elSize t)).map fun i =>
      if (c.rm m.toNat).getLsbD i then elem x w i else elem y w i)) k

/-- PAND, 05 R172. -/
def execPand (l : Fin 384) (vd va vb : BitVec 5) (m : BitVec 3) (g t : BitVec 2) (s : State) : Host.Outcome State Fault Refusal :=
  runPly l s (fun _ => grpOk (grpSize g) [vd, va, vb]) fun c =>
    c.vec2 vd.toNat va.toNat vb.toNat m.toNat (grpSize g) (elSize t) fun a b => (a &&& b, 0#8)

/-- POR, 05 R172. -/
def execPor (l : Fin 384) (vd va vb : BitVec 5) (m : BitVec 3) (g t : BitVec 2) (s : State) : Host.Outcome State Fault Refusal :=
  runPly l s (fun _ => grpOk (grpSize g) [vd, va, vb]) fun c =>
    c.vec2 vd.toNat va.toNat vb.toNat m.toNat (grpSize g) (elSize t) fun a b => (a ||| b, 0#8)

/-- PXOR, 05 R172. -/
def execPxor (l : Fin 384) (vd va vb : BitVec 5) (m : BitVec 3) (g t : BitVec 2) (s : State) : Host.Outcome State Fault Refusal :=
  runPly l s (fun _ => grpOk (grpSize g) [vd, va, vb]) fun c =>
    c.vec2 vd.toNat va.toNat vb.toNat m.toNat (grpSize g) (elSize t) fun a b => (a ^^^ b, 0#8)

/-- PSAD, 05 R171. -/
def execPsad (l : Fin 384) (vd va vb : BitVec 5) (m : BitVec 3) (g t : BitVec 2) (s : State) : Host.Outcome State Fault Refusal :=
  runPly l s (fun _ => grpOk (grpSize g) [vd, va, vb] && t ≠ 3#2) fun c =>
    let k := grpSize g
    let w := (8 * elSize t)
    let x := c.grp va.toNat k
    let y := c.grp vb.toNat k
    let old := c.grp vd.toNat k
    let per := 8 / elSize t
    let rs := (List.range (4 * k)).map fun j =>
      let sum := (List.range per).foldl (fun a i =>
        let e := j * per + i
        if (c.rm m.toNat).getLsbD e then a + ((elem x w e : Int) - elem y w e).natAbs else a) (elem old 64 j)
      satEl 64 true satSadBit sum
    (c.putGrp vd.toNat (packEl 64 (rs.map (·.1))) k).orPsat (rs.foldl (fun a r => a ||| r.2) 0#8)

/-- The accumulators of PWACC and PWMAC: `f i` is added to q element `i` of the 2 × G registers from vd where element
`i` is active (05 R170). -/
def Core.accumulate (c : Core) (vd m k : Nat) (f : Nat → Int) : Core :=
  let old := c.grp vd (2 * k)
  let rs := (List.range (4 * k)).map fun i =>
    if (c.rm m).getLsbD i then satEl 128 false satAccBit (asInt 128 false (elem old 128 i) + f i) else (elem old 128 i, 0#8)
  (c.putGrp vd (packEl 128 (rs.map (·.1))) (2 * k)).orPsat (rs.foldl (fun a r => a ||| r.2) 0#8)

/-- PWACC, 05 R170. -/
def execPwacc (l : Fin 384) (vd va : BitVec 5) (m : BitVec 3) (g t : BitVec 2) (s : State) : Host.Outcome State Fault Refusal :=
  runPly l s (fun _ => grpOk (grpSize g) [va] && grpOk (2 * grpSize g) [vd] && t == 3#2) fun c =>
    let x := c.grp va.toNat (grpSize g)
    c.accumulate vd.toNat m.toNat (grpSize g) fun i => asInt 64 false (elem x 64 i)

/-- PWMAC, 05 R170. -/
def execPwmac (l : Fin 384) (vd va vb : BitVec 5) (m : BitVec 3) (g t : BitVec 2) (s : State) : Host.Outcome State Fault Refusal :=
  runPly l s (fun _ => grpOk (grpSize g) [va, vb] && grpOk (2 * grpSize g) [vd] && t == 3#2) fun c =>
    let x := c.grp va.toNat (grpSize g)
    let y := c.grp vb.toNat (grpSize g)
    c.accumulate vd.toNat m.toNat (grpSize g) fun i => asInt 64 false (elem x 64 i) * asInt 64 false (elem y 64 i)

/-- The result of a decimal rounding with its flags: DEC where it saturates, INEXACT where a remainder is discarded
(05 R165). -/
def decResult (w : Nat) (r : Int × Bool) : Nat × BitVec 8 :=
  let e := satEl w false satDecBit r.1
  (e.1, e.2 ||| (if r.2 then satInexactBit else 0#8))

/-- PMULD, 05 R168. -/
def execPmuld (l : Fin 384) (vd va vb : BitVec 5) (m : BitVec 3) (g : BitVec 2) (t : Bool) (k : BitVec 5) (s : State) : Host.Outcome State Fault Refusal :=
  runPly l s (fun c => grpOk (grpSize g) [vd, va, vb] && decide (k.toNat ≤ 18) && c.rmOk) fun c =>
    let sz := if t then 8 else 4
    c.vec2 vd.toNat va.toNat vb.toNat m.toNat (grpSize g) sz fun a b =>
      decResult (8 * sz) (roundDiv (asInt (8 * sz) false a * asInt (8 * sz) false b) (10 ^ k.toNat) c.pctlRm.toNat)

/-- PSCALE_UP, 05 R169. -/
def execPscaleUp (l : Fin 384) (vd va : BitVec 5) (m : BitVec 3) (g t : BitVec 2) (k : BitVec 5) (s : State) : Host.Outcome State Fault Refusal :=
  runPly l s (fun _ => grpOk (grpSize g) [vd, va] && decide (k.toNat ≤ 18) && decide (2 ≤ t.toNat)) fun c =>
    c.vec1 vd.toNat va.toNat m.toNat (grpSize g) (elSize t) fun a =>
      satEl (8 * elSize t) false satDecBit (asInt (8 * elSize t) false a * 10 ^ k.toNat)

/-- PSCALE_DN, 05 R169. -/
def execPscaleDn (l : Fin 384) (vd va : BitVec 5) (m : BitVec 3) (g t : BitVec 2) (k : BitVec 5) (s : State) : Host.Outcome State Fault Refusal :=
  runPly l s (fun c => grpOk (grpSize g) [vd, va] && decide (k.toNat ≤ 18) && decide (2 ≤ t.toNat) && c.rmOk) fun c =>
    c.vec1 vd.toNat va.toNat m.toNat (grpSize g) (elSize t) fun a =>
      decResult (8 * elSize t) (roundDiv (asInt (8 * elSize t) false a) (10 ^ k.toNat) c.pctlRm.toNat)

/-- Whether a field names a mask register that may be written (05 R157, R187). -/
def maskDst (md : BitVec 5) : Bool := 1 ≤ md.toNat && md.toNat < 8

/-- Whether a field names a mask register (05 R187). -/
def maskSrc (ma : BitVec 5) : Bool := ma.toNat < 8

/-- A comparison into a mask (05 R172). -/
def Core.vecCmp (c : Core) (md va vb m k s : Nat) (f : Nat → Nat → Bool) : Core :=
  let x := c.grp va k
  let y := c.grp vb k
  c.wm md (BitVec.ofNat 128 (packEl 1 ((List.range (32 * k / s)).map fun i =>
    b2n ((c.rm m).getLsbD i && f (elem x (8 * s) i) (elem y (8 * s) i)))))

/-- PCMP_EQ, 05 R172. -/
def execPcmpEq (l : Fin 384) (md va vb : BitVec 5) (m : BitVec 3) (g t : BitVec 2) (s : State) : Host.Outcome State Fault Refusal :=
  runPly l s (fun _ => grpOk (grpSize g) [va, vb] && maskDst md) fun c =>
    c.vecCmp md.toNat va.toNat vb.toNat m.toNat (grpSize g) (elSize t) fun a b => decide (a = b)

/-- PCMP_NE, 05 R172. -/
def execPcmpNe (l : Fin 384) (md va vb : BitVec 5) (m : BitVec 3) (g t : BitVec 2) (s : State) : Host.Outcome State Fault Refusal :=
  runPly l s (fun _ => grpOk (grpSize g) [va, vb] && maskDst md) fun c =>
    c.vecCmp md.toNat va.toNat vb.toNat m.toNat (grpSize g) (elSize t) fun a b => decide (a ≠ b)

/-- PCMP_LT, 05 R172. -/
def execPcmpLt (l : Fin 384) (md va vb : BitVec 5) (m : BitVec 3) (g t : BitVec 2) (s : State) : Host.Outcome State Fault Refusal :=
  runPly l s (fun _ => grpOk (grpSize g) [va, vb] && maskDst md) fun c =>
    c.vecCmp md.toNat va.toNat vb.toNat m.toNat (grpSize g) (elSize t) fun a b => decide (asInt (8 * elSize t) false a < asInt (8 * elSize t) false b)

/-- PCMP_LE, 05 R172. -/
def execPcmpLe (l : Fin 384) (md va vb : BitVec 5) (m : BitVec 3) (g t : BitVec 2) (s : State) : Host.Outcome State Fault Refusal :=
  runPly l s (fun _ => grpOk (grpSize g) [va, vb] && maskDst md) fun c =>
    c.vecCmp md.toNat va.toNat vb.toNat m.toNat (grpSize g) (elSize t) fun a b => decide (asInt (8 * elSize t) false a ≤ asInt (8 * elSize t) false b)

/-- PCMP_LTU, 05 R172. -/
def execPcmpLtu (l : Fin 384) (md va vb : BitVec 5) (m : BitVec 3) (g t : BitVec 2) (s : State) : Host.Outcome State Fault Refusal :=
  runPly l s (fun _ => grpOk (grpSize g) [va, vb] && maskDst md) fun c =>
    c.vecCmp md.toNat va.toNat vb.toNat m.toNat (grpSize g) (elSize t) fun a b => decide (a < b)

/-- PCMP_LEU, 05 R172. -/
def execPcmpLeu (l : Fin 384) (md va vb : BitVec 5) (m : BitVec 3) (g t : BitVec 2) (s : State) : Host.Outcome State Fault Refusal :=
  runPly l s (fun _ => grpOk (grpSize g) [va, vb] && maskDst md) fun c =>
    c.vecCmp md.toNat va.toNat vb.toNat m.toNat (grpSize g) (elSize t) fun a b => decide (a ≤ b)

/-- PMAND, 05 R188. -/
def execPmand (l : Fin 384) (md ma : BitVec 5) (mb : BitVec 3) (s : State) : Host.Outcome State Fault Refusal :=
  runPly l s (fun _ => maskDst md && maskSrc ma) fun c => c.wm md.toNat (c.rm ma.toNat &&& c.rm mb.toNat)

/-- PMOR, 05 R188. -/
def execPmor (l : Fin 384) (md ma : BitVec 5) (mb : BitVec 3) (s : State) : Host.Outcome State Fault Refusal :=
  runPly l s (fun _ => maskDst md && maskSrc ma) fun c => c.wm md.toNat (c.rm ma.toNat ||| c.rm mb.toNat)

/-- PMXOR, 05 R188. -/
def execPmxor (l : Fin 384) (md ma : BitVec 5) (mb : BitVec 3) (s : State) : Host.Outcome State Fault Refusal :=
  runPly l s (fun _ => maskDst md && maskSrc ma) fun c => c.wm md.toNat (c.rm ma.toNat ^^^ c.rm mb.toNat)

/-- PMANDN, 05 R188. -/
def execPmandn (l : Fin 384) (md ma : BitVec 5) (mb : BitVec 3) (s : State) : Host.Outcome State Fault Refusal :=
  runPly l s (fun _ => maskDst md && maskSrc ma) fun c => c.wm md.toNat (c.rm ma.toNat &&& ~~~(c.rm mb.toNat))

/-- PGTOM_L, 05 R188. -/
def execPgtomL (l : Fin 384) (md ga : BitVec 5) (s : State) : Host.Outcome State Fault Refusal :=
  runPly l s (fun _ => maskDst md) fun c => c.wm md.toNat (putField (c.rm md.toNat) 63 0 (c.rg ga).toNat)

/-- PGTOM_H, 05 R188. -/
def execPgtomH (l : Fin 384) (md ga : BitVec 5) (s : State) : Host.Outcome State Fault Refusal :=
  runPly l s (fun _ => maskDst md) fun c => c.wm md.toNat (putField (c.rm md.toNat) 127 64 (c.rg ga).toNat)

/-- PMTOG_L, 05 R188. -/
def execPmtogL (l : Fin 384) (gd ma : BitVec 5) (s : State) : Host.Outcome State Fault Refusal :=
  runPly l s (fun _ => maskSrc ma) fun c => c.wg gd (BitVec.ofNat 64 (field (c.rm ma.toNat) 63 0))

/-- PMTOG_H, 05 R188. -/
def execPmtogH (l : Fin 384) (gd ma : BitVec 5) (s : State) : Host.Outcome State Fault Refusal :=
  runPly l s (fun _ => maskSrc ma) fun c => c.wg gd (BitVec.ofNat 64 (field (c.rm ma.toNat) 127 64))

/-- PBCAST, 05 R188. -/
def execPbcast (l : Fin 384) (vd ga : BitVec 5) (m : BitVec 3) (g t : BitVec 2) (s : State) : Host.Outcome State Fault Refusal :=
  runPly l s (fun _ => grpOk (grpSize g) [vd]) fun c =>
    c.vecMap vd.toNat (grpSize g) (elSize t) m.toNat fun _ => ((c.rg ga).toNat % 2 ^ (8 * elSize t), 0#8)

/-- PINS, 05 R188. -/
def execPins (l : Fin 384) (vd ga i : BitVec 5) (t : BitVec 2) (s : State) : Host.Outcome State Fault Refusal :=
  runPly l s (fun _ => decide (i.toNat < 32 / elSize t)) fun c =>
    let w := (8 * elSize t)
    c.wv vd.toNat (putField (c.rv vd.toNat) (w * i.toNat + w - 1) (w * i.toNat) ((c.rg ga).toNat % 2 ^ w))

/-- PEXT, 05 R188. -/
def execPext (l : Fin 384) (gd va i : BitVec 5) (t : BitVec 2) (s : State) : Host.Outcome State Fault Refusal :=
  runPly l s (fun _ => decide (i.toNat < 32 / elSize t)) fun c =>
    c.wg gd (sextFrom (8 * elSize t) (BitVec.ofNat 64 (elem (c.rv va.toNat).toNat (8 * elSize t) i.toNat)))

/-! ### Digit fields (05 R173 to R177) -/

/-- Whether a field width suits the element type (05 R173). -/
def widthOk (t : BitVec 2) (n : Nat) : Bool := (t == 2#2 && 1 ≤ n && n ≤ 9) || (t == 3#2 && 1 ≤ n && n ≤ 19)

/-- The number of fields converted (05 R173). -/
def fieldCount (k s n : Nat) : Nat := min (32 * k / s) (32 * k / n)

/-- The digits of field `i` of `n` bytes, the most significant first; none where a byte is no ASCII digit. -/
def digitsOf (x i n : Nat) : Option (List Nat) :=
  let bs := (List.range n).map fun j => elem x 8 (i * n + j)
  if bs.all fun b => 0x30 ≤ b && b ≤ 0x39 then some (bs.map (· - 0x30)) else none

/-- The number that decimal digits spell, the most significant first. -/
def ofDigits (ds : List Nat) : Nat := ds.foldl (fun a x => a * 10 + x) 0

/-- The `n` decimal digits of a number, the least significant first. -/
def toDigits : Nat → Nat → List Nat
  | 0, _ => []
  | n + 1, v => v % 10 :: toDigits n (v / 10)

/-- PA2B on element `i` (05 R174). -/
def pa2bEl (x k s n i : Nat) : Nat × BitVec 8 :=
  if fieldCount k s n ≤ i then (0, 0#8)
  else match digitsOf x i n with
    | some ds => (ofDigits ds, 0#8)
    | none => (2 ^ (8 * s) - 1, satDigBit)

/-- The Luhn sum of digits from the right (05 R177). -/
def luhnSum (odd : Bool) : List Nat → Nat
  | [] => 0
  | x :: t => (if odd then (if 9 < 2 * x then 2 * x - 9 else 2 * x) else x) + luhnSum (!odd) t

/-- PLUHN on element `i` (05 R177). -/
def luhnEl (x k n i : Nat) : Nat × BitVec 8 :=
  if fieldCount k 8 n ≤ i then (0, 0#8)
  else match digitsOf x i n with
    | none => (0x200, satDigBit)
    | some ds =>
      let r := ds.reverse
      let c := (10 - luhnSum true r.tail % 10) % 10
      (c + (if r.headD 0 = c then 0x100 else 0), 0#8)

/-- The bytes PB2A writes for a value: its digits, or all nines with CONV (05 R175). -/
def pb2aField (n v : Nat) : List Nat × BitVec 8 :=
  if v < 10 ^ n then ((toDigits n v).reverse.map (· + 0x30), 0#8) else (List.replicate n 0x39, satConvBit)

/-- PB2A (05 R175). -/
def Core.pb2a (c : Core) (vd va m k s n : Nat) : Core :=
  let x := c.grp va k
  let old := c.grp vd k
  let e := fieldCount k s n
  let fs := (List.range e).map fun i =>
    if (c.rm m).getLsbD i then pb2aField n (elem x (8 * s) i)
    else ((List.range n).map fun j => elem old 8 (i * n + j), 0#8)
  let bytes := fs.flatMap (·.1)
  (c.putGrp vd (packEl 8 (bytes ++ List.replicate (32 * k - e * n) 0)) k).orPsat (fs.foldl (fun a r => a ||| r.2) 0#8)

/-- The binary value of packed BCD digits, or all ones with DIG (05 R176). -/
def bcdToBin (s x : Nat) : Nat × BitVec 8 :=
  let ds := (List.range (2 * s)).map fun j => elem x 4 j
  if ds.all (· ≤ 9) then (ofDigits ds.reverse, 0#8) else (2 ^ (8 * s) - 1, satDigBit)

/-- The packed BCD digits of a value, or all nines with CONV (05 R176). -/
def binToBcd (s x : Nat) : Nat × BitVec 8 :=
  if x < 10 ^ (2 * s) then (packEl 4 (toDigits (2 * s) x), 0#8) else (packEl 4 (List.replicate (2 * s) 9), satConvBit)

/-- PA2B, 05 R174. -/
def execPa2b (l : Fin 384) (vd va aux : BitVec 5) (m : BitVec 3) (g t : BitVec 2) (s : State) : Host.Outcome State Fault Refusal :=
  runPly l s (fun _ => grpOk (grpSize g) [vd, va] && widthOk t aux.toNat) fun c =>
    let x := c.grp va.toNat (grpSize g)
    c.vecMap vd.toNat (grpSize g) (elSize t) m.toNat fun i => pa2bEl x (grpSize g) (elSize t) aux.toNat i

/-- PB2A, 05 R175. -/
def execPb2a (l : Fin 384) (vd va aux : BitVec 5) (m : BitVec 3) (g t : BitVec 2) (s : State) : Host.Outcome State Fault Refusal :=
  runPly l s (fun _ => grpOk (grpSize g) [vd, va] && widthOk t aux.toNat) fun c =>
    c.pb2a vd.toNat va.toNat m.toNat (grpSize g) (elSize t) aux.toNat

/-- PBCD2B, 05 R176. -/
def execPbcd2b (l : Fin 384) (vd va aux : BitVec 5) (m : BitVec 3) (g t : BitVec 2) (s : State) : Host.Outcome State Fault Refusal :=
  runPly l s (fun _ => grpOk (grpSize g) [vd, va] && decide (2 ≤ t.toNat) && aux == 0#5) fun c =>
    c.vec1 vd.toNat va.toNat m.toNat (grpSize g) (elSize t) (bcdToBin (elSize t))

/-- PB2BCD, 05 R176. -/
def execPb2bcd (l : Fin 384) (vd va aux : BitVec 5) (m : BitVec 3) (g t : BitVec 2) (s : State) : Host.Outcome State Fault Refusal :=
  runPly l s (fun _ => grpOk (grpSize g) [vd, va] && decide (2 ≤ t.toNat) && aux == 0#5) fun c =>
    c.vec1 vd.toNat va.toNat m.toNat (grpSize g) (elSize t) (binToBcd (elSize t))

/-- PLUHN, 05 R177. -/
def execPluhn (l : Fin 384) (vd va aux : BitVec 5) (m : BitVec 3) (g t : BitVec 2) (s : State) : Host.Outcome State Fault Refusal :=
  runPly l s (fun _ => grpOk (grpSize g) [vd, va] && t == 3#2 && decide (2 ≤ aux.toNat) && decide (aux.toNat ≤ 19)) fun c =>
    let x := c.grp va.toNat (grpSize g)
    c.vecMap vd.toNat (grpSize g) 8 m.toNat fun i => luhnEl x (grpSize g) aux.toNat i

/-! ### Vector memory accesses (05 R178 to R183) -/

/-- One accessed byte: its place in the string, its virtual address, and its translation. -/
structure PlyByte where
  at_ : Nat
  va : Word
  x : Xlat
  deriving DecidableEq, Repr

/-- The places of the bytes of the active elements. -/
def Core.activeBytes (c : Core) (m k s : Nat) : List Nat :=
  (List.range (32 * k)).filter fun j => (c.rm m).getLsbD (j / s)

/-- Every accessed byte is translated and checked; the lowest faulting one decides (05 R179). -/
def Dev.plyCheck (d : Dev) (l : Nat) (ea : Word) (k : AccessKind) : List Nat → Dev × Except Stop (List PlyByte)
  | [] => (d, .ok [])
  | j :: js =>
    let va := ea + BitVec.ofNat 64 j
    match d.translate l va k true with
    | (d, .error e) => (d, .error e)
    | (d, .ok x) =>
      match d.wpHit l [va] (k == .load) (k == .store) with
      | some e => (d, .error (.exc e))
      | none =>
        match d.plyCheck l ea k js with
        | (d, .error e) => (d, .error e)
        | (d, .ok bs) => (d, .ok (⟨j, va, x⟩ :: bs))

/-- The A and D updates of an access, each made once (09 R289). -/
def Dev.applyAds (d : Dev) (l : Nat) (bs : List PlyByte) : Dev :=
  ((bs.map fun b => b.x.ad).eraseDups).foldl (fun d a => d.applyAd l a) d

/-- The first byte of a Ply load that memory does not answer: refused, poisoned, held at a port, or waiting at its home
(05 R180, 11 R354, R367). -/
def Dev.plyStop (d : Dev) (l : Nat) (sec : Bool) : List PlyByte → Dev × Option Stop
  | [] => (d, none)
  | b :: bs =>
    match d.target l sec b.x.pa 1 b.x.mt with
    | .landing _ => d.plyStop l sec bs
    | .mem =>
      let line := b.x.pa / 64
      match (if b.x.mt = .nc then d.ncReach l line else d.coreReach l line false) with
      | (d, .hold) => (d, some (.hold b.x.pa))
      | (d, .wait) => (d, some .wait)
      | (d, .err _) => (d, some (.exc (.bus b.x.pa)))
      | (d, .ok) => if d.poisoned line then (d, some (.exc (.poison b.x.pa))) else d.plyStop l sec bs
    | _ => (d, some (.exc (.bus b.x.pa)))

/-- The byte a Ply load reads. -/
def Dev.plyByte (d : Dev) (l : Nat) (b : PlyByte) : Byte :=
  match placeOf b.x.pa with
  | .landing => (d.core l).landByte (b.x.pa - 0xE000000000000)
  | _ => d.coreByte l b.x.pa

/-- The lines of memory that a Ply load reads, each once with a virtual address in it, and what they say of the load's
source. -/
def Dev.plyLines (d : Dev) (l : Nat) : List (Nat × MemType × Word) → Dev × List (Nat × Nat)
  | [] => (d, [])
  | (line, mt, va) :: t =>
    let r := d.memLoad l (line * 64) mt va
    let q := r.1.plyLines l t
    (q.1, srcEvents r.2 ++ q.2)

/-- The bytes that are the first of their line. -/
def plyHeads : List PlyByte → List PlyByte
  | [] => []
  | b :: bs => b :: (plyHeads bs).filter fun x => x.x.pa / 64 != b.x.pa / 64

/-- PLD: every byte checked, then read; the destination is written as a whole (05 R178 to R180). -/
def execPld (l : Fin 384) (vd ga : BitVec 5) (imm7 : BitVec 7) (m : BitVec 3) (g t : BitVec 2) (s : State) :
    Host.Outcome State Fault Refusal :=
  runInstr l s fun d =>
    let c := d.core l.val
    let k := grpSize g
    if !grpOk k [vd] then .exc d .illegal
    else if !c.pctlEn then .exc d .plyDisabled
    else
      match d.plyCheck l.val (c.eaP ga imm7) .load (c.activeBytes m.toNat k (elSize t)) with
      | (d, .error e) => d.stop l.val e
      | (d, .ok bs) =>
        let land := bs.any fun b => placeOf b.x.pa == .landing
        let d := if land || c.barred then d.drain l.val else d
        let w := d.beforeLoad l.val ((bs.filter fun b => placeOf b.x.pa == .dram).map fun b => b.x.pa)
        let d := w.1
        let bs' := if w.2.1 then bs.filter fun b => placeOf b.x.pa != .dram else bs
        if (land && !(d.core l.val).sb.isEmpty) || (d.core l.val).barred || w.2.2 then .stay d
        else match d.plyStop l.val c.level.secure bs' with
          | (d, some s) => d.stop l.val s
          | (d, none) =>
            let d := d.applyAds l.val bs
            let vals := bs.map fun b => (b.at_, d.plyByte l.val b)
            let r := d.plyLines l.val ((plyHeads (bs'.filter fun b => placeOf b.x.pa == .dram)).map fun b => (b.x.pa / 64, b.x.mt, b.va))
            .done (r.1.updCore l.val fun c =>
              let c := if w.2.1 then c.orderLoad else c
              let old := c.grp vd.toNat k
              c.putGrp vd.toNat (packEl 8 ((List.range (32 * k)).map fun j =>
                match vals.find? fun (v : Nat × Byte) => v.1 == j with
                | some v => v.2.toNat
                | none => elem old 8 j)) k) ((0x42, 1) :: r.2.eraseDups)

/-- The store-buffer entries of a Ply store, one for each line it touches (05 R181). -/
def plyItems (lvl : Level) (mts : List (Nat × MemType × Nat)) : List (List Host.Cell) → List SbItem
  | [] => []
  | g :: gs =>
    let line := (g.headD (0, 0#8)).1 / 64
    let mt := match mts.find? fun (x : Nat × MemType × Nat) => x.1 == line with
      | some x => x.2
      | none => (.wb, line)
    .store g mt.1 lvl mt.2 :: plyItems lvl mts gs

/-- PST: every byte checked, then its lines enter the store buffer as one unit (05 R178, R181). -/
def execPst (l : Fin 384) (vs ga : BitVec 5) (imm7 : BitVec 7) (m : BitVec 3) (g t : BitVec 2) (s : State) :
    Host.Outcome State Fault Refusal :=
  runInstr l s fun d =>
    let c := d.core l.val
    let k := grpSize g
    if !grpOk k [vs] then .exc d .illegal
    else if !c.pctlEn then .exc d .plyDisabled
    else
      match d.plyCheck l.val (c.eaP ga imm7) .store (c.activeBytes m.toNat k (elSize t)) with
      | (d, .error e) => d.stop l.val e
      | (d, .ok bs) =>
        if c.barred then .stay (d.drain l.val)
        else
          let x := c.grp vs.toNat k
          let cells := bs.map fun b => (b.x.pa, BitVec.ofNat 8 (elem x 8 b.at_))
          let mts := bs.map fun b => (b.x.pa / 64, b.x.mt, vaIdx b.va)
          match d.pushStore l.val (plyItems c.level mts (splitLines cells)) with
          | (d, true) => .done (d.applyAds l.val bs) [(0x42, 1)]
          | (d, false) => .stay d

end Sys2Proof.Machine
end

