-- ==== Sys2Proof/Machine/Crypto.lean ====
section
/-! DEFINITION. Crypto and CRC (07 R239): AES rounds, SHA-256 and SHA-512 rounds and schedules, CRC-32C. The S-box is
computed from its definition in the AES standard: the inverse in GF(2^8) and an affine map. -/
namespace Sys2Proof.Machine

/-! ### AES -/

/-- Multiplication by x in GF(2^8) modulo x^8 + x^4 + x^3 + x + 1. -/
def xtime (b : Byte) : Byte := (b <<< 1) ^^^ (if b.getLsbD 7 then 0x1B#8 else 0#8)

/-- Multiplication in GF(2^8), by the bits of `a` from the top. -/
def gmulAux (a b : Byte) : Nat → Byte
  | 0 => 0#8
  | n + 1 => xtime (gmulAux a b n) ^^^ (if a.getLsbD (7 - n) then b else 0#8)

/-- Multiplication in GF(2^8). -/
def gmul (a b : Byte) : Byte := gmulAux a b 8

/-- The square. -/
def gsq (a : Byte) : Byte := gmul a a

/-- The inverse in GF(2^8), the 254th power; 0 for 0. -/
def ginv (a : Byte) : Byte :=
  let a2 := gsq a
  let a4 := gsq a2
  let a8 := gsq a4
  let a16 := gsq a8
  let a32 := gsq a16
  let a64 := gsq a32
  let a128 := gsq a64
  gmul (gmul (gmul a2 a4) (gmul a8 a16)) (gmul (gmul a32 a64) a128)

/-- SubBytes of one byte. -/
def sbox (a : Byte) : Byte :=
  let b := ginv a
  b ^^^ b.rotateLeft 1 ^^^ b.rotateLeft 2 ^^^ b.rotateLeft 3 ^^^ b.rotateLeft 4 ^^^ 0x63#8

/-- InvSubBytes of one byte. -/
def invSbox (a : Byte) : Byte := ginv (a.rotateLeft 1 ^^^ a.rotateLeft 3 ^^^ a.rotateLeft 6 ^^^ 0x05#8)

/-- Byte `r` + 4 `c` of the state: row r, column c. -/
def stAt (s : List Byte) (r c : Nat) : Byte := s.getD (4 * (c % 4) + r) 0#8

/-- The state made of its bytes by row and column. -/
def mkSt (f : Nat → Nat → Byte) : List Byte := (List.range 16).map fun i => f (i % 4) (i / 4)

/-- ShiftRows. -/
def shiftRows (s : List Byte) : List Byte := mkSt fun r c => stAt s r (c + r)

/-- InvShiftRows. -/
def invShiftRows (s : List Byte) : List Byte := mkSt fun r c => stAt s r (c + 4 - r)

/-- A column transform by a circulant row of coefficients. -/
def mixWith (k : List Byte) (s : List Byte) : List Byte :=
  mkSt fun r c => (List.range 4).foldl (fun x i => x ^^^ gmul (k.getD ((i + 4 - r) % 4) 0#8) (stAt s i c)) 0#8

/-- MixColumns. -/
def mixCols : List Byte → List Byte := mixWith [2#8, 3#8, 1#8, 1#8]

/-- InvMixColumns. -/
def invMixCols : List Byte → List Byte := mixWith [14#8, 11#8, 13#8, 9#8]

/-- An AES step on each 128-bit half of a register (07 R239). -/
def aesHalves (f : List Byte → List Byte) (a b : VWord) : VWord :=
  let x := leBytes 32 a.toNat
  BitVec.ofNat 256 (ofLe (f (x.take 16) ++ f (x.drop 16))) ^^^ b

/-! ### SHA-2 -/

/-- Rotate right within `w` bits. -/
def rorN (w x n : Nat) : Nat := (x >>> n ||| x <<< (w - n)) % 2 ^ w

/-- Three rotations, XORed. -/
def rot3 (w a b c x : Nat) : Nat := rorN w x a ^^^ rorN w x b ^^^ rorN w x c

/-- Two rotations and a shift, XORed. -/
def rot2s (w a b c x : Nat) : Nat := rorN w x a ^^^ rorN w x b ^^^ (x >>> c)

/-- The constants of SHA-256 or SHA-512: the rotations of the two sums and of the two schedule functions. -/
structure ShaFns where
  w : Nat
  sum0 : Nat → Nat
  sum1 : Nat → Nat
  sig0 : Nat → Nat
  sig1 : Nat → Nat

/-- SHA-256. -/
def sha256 : ShaFns := ⟨32, rot3 32 2 13 22, rot3 32 6 11 25, rot2s 32 7 18 3, rot2s 32 17 19 10⟩

/-- SHA-512. -/
def sha512 : ShaFns := ⟨64, rot3 64 28 34 39, rot3 64 14 18 41, rot2s 64 1 8 7, rot2s 64 19 61 6⟩

/-- One round on a to h with W + K. -/
def shaRound (f : ShaFns) (v : List Nat) (wk : Nat) : List Nat :=
  let g (i : Nat) := v.getD i 0
  let mx := 2 ^ f.w
  let ch := (g 4 &&& g 5) ^^^ ((mx - 1 - g 4) &&& g 6)
  let maj := (g 0 &&& g 1) ^^^ (g 0 &&& g 2) ^^^ (g 1 &&& g 2)
  let t1 := g 7 + f.sum1 (g 4) + ch + wk
  let t2 := f.sum0 (g 0) + maj
  [(t1 + t2) % mx, g 0, g 1, g 2, (g 3 + t1) % mx, g 4, g 5, g 6]

/-- The next `n` schedule words after the sixteen of `ws`, the oldest first. -/
def shaSched (f : ShaFns) (ws : List Nat) : Nat → List Nat
  | 0 => []
  | n + 1 =>
    let g (i : Nat) := ws.getD i 0
    let x := (f.sig1 (g 14) + g 9 + f.sig0 (g 1) + g 0) % 2 ^ f.w
    x :: shaSched f (ws.tail ++ [x]) n

/-- The elements of `w` bits of a number. -/
def elems (x w n : Nat) : List Nat := (List.range n).map fun i => elem x w i

/-! ### CRC-32C -/

/-- The CRC register after `n` bits in the bit-reflected form. -/
def crcBits (c : BitVec 32) : Nat → BitVec 32
  | 0 => c
  | n + 1 => crcBits (if c.getLsbD 0 then (c >>> 1) ^^^ 0x82F63B78#32 else c >>> 1) n

/-- The CRC updated with bytes in order. -/
def crc32c (c : BitVec 32) (bs : List Byte) : BitVec 32 := bs.foldl (fun c b => crcBits (c ^^^ b.zeroExtend 32) 8) c

/-- AESE, 07 R239. -/
def execAese (l : Fin 384) (vd va vb : BitVec 5) (s : State) : Host.Outcome State Fault Refusal :=
  runCrypto l s true fun c =>
    c.wv vd.toNat (aesHalves (fun x => mixCols (shiftRows (x.map sbox))) (c.rv va.toNat) (c.rv vb.toNat))

/-- AESEL, 07 R239. -/
def execAesel (l : Fin 384) (vd va vb : BitVec 5) (s : State) : Host.Outcome State Fault Refusal :=
  runCrypto l s true fun c =>
    c.wv vd.toNat (aesHalves (fun x => shiftRows (x.map sbox)) (c.rv va.toNat) (c.rv vb.toNat))

/-- AESD, 07 R239. -/
def execAesd (l : Fin 384) (vd va vb : BitVec 5) (s : State) : Host.Outcome State Fault Refusal :=
  runCrypto l s true fun c =>
    c.wv vd.toNat (aesHalves (fun x => invMixCols ((invShiftRows x).map invSbox)) (c.rv va.toNat) (c.rv vb.toNat))

/-- AESDL, 07 R239. -/
def execAesdl (l : Fin 384) (vd va vb : BitVec 5) (s : State) : Host.Outcome State Fault Refusal :=
  runCrypto l s true fun c =>
    c.wv vd.toNat (aesHalves (fun x => (invShiftRows x).map invSbox) (c.rv va.toNat) (c.rv vb.toNat))

/-- AESIMC, 07 R239. -/
def execAesimc (l : Fin 384) (vd va : BitVec 5) (s : State) : Host.Outcome State Fault Refusal :=
  runCrypto l s true fun c => c.wv vd.toNat (aesHalves invMixCols (c.rv va.toNat) 0#256)

/-- SHA256R, 07 R239. -/
def execSha256r (l : Fin 384) (vd va vb : BitVec 5) (s : State) : Host.Outcome State Fault Refusal :=
  runCrypto l s true fun c =>
    c.wv vd.toNat (BitVec.ofNat 256 (packEl 32 ((elems (c.rv vb.toNat).toNat 32 4).foldl (shaRound sha256)
      (elems (c.rv va.toNat).toNat 32 8))))

/-- SHA256M, 07 R239. -/
def execSha256m (l : Fin 384) (vd va vb : BitVec 5) (s : State) : Host.Outcome State Fault Refusal :=
  runCrypto l s true fun c =>
    c.wv vd.toNat (BitVec.ofNat 256 (packEl 32 (shaSched sha256
      (elems (c.rv va.toNat).toNat 32 8 ++ elems (c.rv vb.toNat).toNat 32 8) 4)))

/-- SHA512R, 07 R239. -/
def execSha512r (l : Fin 384) (vd va vb : BitVec 5) (s : State) : Host.Outcome State Fault Refusal :=
  runCrypto l s (grpOk 2 [vd, va]) fun c =>
    c.putGrp vd.toNat (packEl 64 ((elems (c.rv vb.toNat).toNat 64 2).foldl (shaRound sha512)
      (elems (c.grp va.toNat 2) 64 8))) 2

/-- SHA512M, 07 R239. -/
def execSha512m (l : Fin 384) (vd va : BitVec 5) (s : State) : Host.Outcome State Fault Refusal :=
  runCrypto l s (grpOk 4 [va]) fun c =>
    c.wv vd.toNat (BitVec.ofNat 256 (packEl 64 (shaSched sha512 (elems (c.grp va.toNat 4) 64 16) 2)))

/-- CRC32C, 07 R239. -/
def execCrc32c (l : Fin 384) (size : BitVec 2) (gd ga gb : BitVec 5) (s : State) : Host.Outcome State Fault Refusal :=
  runReg l s fun c =>
    c.wg gd ((crc32c (BitVec.ofNat 32 (c.rg ga).toNat) (leBytes (szBytes size) (c.rg gb).toNat)).zeroExtend 64)

end Sys2Proof.Machine
end

