-- ==== Sys2Proof/Machine/LoadStore.lean ====
section
/-! DEFINITION. Loads, stores, prefetch and the line operations DCZ, DCC and DCCI (07 R227 to R230, R242). -/
namespace Sys2Proof.Machine

/-- FP disabled: the FPEN of the current world is clear (07 R232). -/
def Core.fpOff (c : Core) : Bool := !(c.bank c.level.secure).fpen

/-- FP disabled, 07 R246. -/
def Exc.fpDisabled : Exc := ⟨0x14, 0, 0, 0#64⟩

/-- LB, LH, LW, LD and the unsigned forms (07 R227). -/
def execScalarLoad (l : Fin 384) (sz : BitVec 2) (u : Bool) (gd ga : BitVec 5) (off : BitVec 13) (s : State) :
    Host.Outcome State Fault Refusal :=
  runInstr l s fun d =>
    if u && sz == 3#2 then .exc d .illegal
    else d.load l.val ((d.core l.val).eaM ga off) (szBytes sz) (.g gd u) []

/-- SB, SH, SW, SD (07 R227). -/
def execScalarStore (l : Fin 384) (sz : BitVec 2) (gs ga : BitVec 5) (off : BitVec 13) (s : State) :
    Host.Outcome State Fault Refusal :=
  runInstr l s fun d =>
    d.store l.val ((d.core l.val).eaM ga off) (szBytes sz) ((d.core l.val).rg gs).toNat []

/-- FLW, FLD (07 R227). -/
def execFlwFld (l : Fin 384) (sz : BitVec 2) (fd ga : BitVec 5) (off : BitVec 13) (s : State) :
    Host.Outcome State Fault Refusal :=
  runInstr l s fun d =>
    if sz.toNat < 2 then .exc d .illegal
    else if (d.core l.val).fpOff then .exc d .fpDisabled
    else d.load l.val ((d.core l.val).eaM ga off) (szBytes sz) (.f fd) []

/-- FSW, FSD (07 R227). -/
def execFswFsd (l : Fin 384) (sz : BitVec 2) (fs ga : BitVec 5) (off : BitVec 13) (s : State) :
    Host.Outcome State Fault Refusal :=
  runInstr l s fun d =>
    if sz.toNat < 2 then .exc d .illegal
    else if (d.core l.val).fpOff then .exc d .fpDisabled
    else d.store l.val ((d.core l.val).eaM ga off) (szBytes sz) ((d.core l.val).rf fs).toNat []

/-- LBX to LDX and the unsigned forms (07 R227). -/
def execIndexedLoad (l : Fin 384) (sz : BitVec 2) (u sc : Bool) (gd ga gb : BitVec 5) (s : State) :
    Host.Outcome State Fault Refusal :=
  runInstr l s fun d =>
    if u && sz == 3#2 then .exc d .illegal
    else d.load l.val ((d.core l.val).eaX ga gb sc sz) (szBytes sz) (.g gd u) []

/-- SBX to SDX (07 R227). -/
def execIndexedStore (l : Fin 384) (sz : BitVec 2) (sc : Bool) (gs ga gb : BitVec 5) (s : State) :
    Host.Outcome State Fault Refusal :=
  runInstr l s fun d =>
    d.store l.val ((d.core l.val).eaX ga gb sc sz) (szBytes sz) ((d.core l.val).rg gs).toNat []

/-- The line a prefetch names, requested into the cache of the hint: L1D for read, L1D for write, L2 or L3. -/
def Dev.prefLine (d : Dev) (l line vi hint : Nat) : Dev :=
  match mget none d.spindleOf l with
  | none => d
  | some p =>
    if d.uncached l line then d
    else if hint = 0 then (d.coreLine l line false (.l1d vi) false).1
    else if hint = 1 then ((d.coreLine l line true (.l1d vi) false).1).markStale line (p / 28) (some p)
    else if hint = 2 then (d.coreLine l line false .l2 false).1
    else if d.onDie p line false then d
    else ((d.dirAcquire (p / 28) line false false).1).l3Fill ((d.skeinOf l).getD 16) (p / 28) line L3Tag.blank

/-- PREF: never an exception but for an illegal hint; dropped where its access could not be made (07 R230). -/
def execPref (l : Fin 384) (hint ga : BitVec 5) (off : BitVec 13) (s : State) : Host.Outcome State Fault Refusal :=
  runInstr l s fun d =>
    if 4 ≤ hint.toNat then .exc d .illegal
    else
      match d.translate l.val ((d.core l.val).eaM ga off) .load false with
      | (d, .error _) => .done d []
      | (d, .ok x) =>
        match d.target l.val (d.core l.val).level.secure x.pa 1 x.mt with
        | .mem =>
          if x.mt = .wb then
            match d.coreReach l.val (x.pa / 64) (hint == 1#5) with
            | (d, .ok) => .done (d.prefLine l.val (x.pa / 64) (vaIdx ((d.core l.val).eaM ga off)) hint.toNat) []
            | (d, _) => .done d []
          else .done d []
        | _ => .done d []

/-- The 64 addresses of the line of an address. -/
def lineAddrs (va : Word) : List Word := byteAddrs (va &&& ~~~63#64) 64

/-- DCZ: a store of zeros to the whole line, which reads nothing (07 R242). -/
def execDcz (l : Fin 384) (ga : BitVec 5) (s : State) : Host.Outcome State Fault Refusal :=
  runInstr l s fun d =>
    let va := (d.core l.val).rg ga
    match d.translate l.val va .dcz false with
    | (d, .error e) => d.stop l.val e
    | (d, .ok x) =>
      match d.wpHit l.val (lineAddrs va) false true with
      | some e => .exc d e
      | none =>
        if (d.core l.val).barred then .stay (d.drain l.val)
        else
          match d.pushStore l.val [.store (cellsAt (x.pa / 64 * 64) (leBytes 64 0)) x.mt (d.core l.val).level (vaIdx va)] with
          | (d, true) => .done (d.applyAd l.val x.ad) []
          | (d, false) => .stay d

/-- A die that holds a line in M writes it back and keeps it in S: the line stands at its home, and its copies stay
(07 R242). -/
def Dev.cleanLine (d : Dev) (line : Nat) : Dev :=
  let e := d.dirOf line
  if e.st = .m then
    ((e.list.foldl (fun d h => if h < 16 then d.dieDowngrade h line else d) d).hcInstall line true).setDir line ⟨.s, e.holders⟩
  else d

/-- The line goes to its home and every cached copy leaves (07 R242). -/
def Dev.cleanInvalLine (d : Dev) (line : Nat) : Dev := d.dirClear line

/-- The common part of DCC and DCCI: the checks of a load, the core's own stores to the line first, then `f` at the home. -/
def Dev.lineOp (d : Dev) (l : Nat) (va : Word) (f : Dev → Nat → Dev) : CoreOut :=
  match d.translate l va .dcc false with
  | (d, .error e) => d.stop l e
  | (d, .ok x) =>
    match d.target l (d.core l).level.secure x.pa 1 x.mt with
    | .mem =>
      let d := d.drain l
      if !(d.core l).sb.isEmpty then .stay d
      else match d.ncReach l (x.pa / 64) with
        | (d, .hold) => d.stop l (.hold x.pa)
        | (d, .wait) => d.stop l .wait
        | (d, .err _) => .exc d (.bus x.pa)
        | (d, .ok) => .done (f (d.applyAd l x.ad) (x.pa / 64)) []
    | _ => .exc d (.bus x.pa)

/-- DCC (07 R242). -/
def execDcc (l : Fin 384) (ga : BitVec 5) (s : State) : Host.Outcome State Fault Refusal :=
  runInstr l s fun d => d.lineOp l.val ((d.core l.val).rg ga) Dev.cleanLine

/-- DCCI (07 R242). -/
def execDcci (l : Fin 384) (ga : BitVec 5) (s : State) : Host.Outcome State Fault Refusal :=
  runInstr l s fun d => d.lineOp l.val ((d.core l.val).rg ga) Dev.cleanInvalLine

end Sys2Proof.Machine
end

