-- ==== Sys2Proof/Machine/SysRegs.lean ====
section
/-! DEFINITION. The system registers (07 R244, R245): who may reach each, what MFS returns and what MTS writes, with
the inbox, timers, watchdogs, debug, translation, counter, CORE, Ply and FP registers (chapters 05 to 09, 19). -/
namespace Sys2Proof.Machine

/-- Which levels a system register admits. -/
inductive SrClass where
  | any | priv | skOnly
  /-- TIME: privileged levels, or under UTB (08 R270) -/
  | time
  /-- a PMU counter: privileged levels, and an MFS under UREN (19 R591) -/
  | counter
  deriving DecidableEq, Repr

/-- The class of each assigned number (07 R244); none where it is unassigned. -/
def srClass (n : Nat) : Option SrClass :=
  if n = 0 then some .any
  else if 0x10 ≤ n ∧ n ≤ 0x15 then some .priv
  else if 0x20 ≤ n ∧ n ≤ 0x25 then some .skOnly
  else if n = 0x30 ∨ n = 0x33 then some .skOnly
  else if n = 0x31 ∨ n = 0x32 then some .priv
  else if 0x40 ≤ n ∧ n ≤ 0x43 then some .priv
  else if n = 0x100 ∨ n = 0x101 then some .priv
  else if n = 0x108 then some .skOnly
  else if 0x200 ≤ n ∧ n ≤ 0x20B then some .priv
  else if 0x210 ≤ n ∧ n ≤ 0x213 then some .priv
  else if n = 0x220 then some .time
  else if n = 0x221 ∨ n = 0x222 then some .priv
  else if n = 0x223 ∨ n = 0x224 then some .skOnly
  else if 0x300 ≤ n ∧ n ≤ 0x302 then some .priv
  else if n = 0x310 ∨ n = 0x311 ∨ (0x330 ≤ n ∧ n ≤ 0x335) then some .counter
  else if 0x320 ≤ n ∧ n ≤ 0x325 then some .priv
  else if n = 0x400 then some .any
  else if n = 0x401 ∨ (0x410 ≤ n ∧ n ≤ 0x413) then some .priv
  else if n = 0x480 ∨ n = 0x481 ∨ n = 0x484 then some .any
  else none

/-- Whether a core's level admits an access to a register of a class. -/
def Core.srAdmits (c : Core) (k : SrClass) (isRead : Bool) : Bool :=
  match k with
  | .any => true
  | .priv => c.level.priv
  | .skOnly => c.level == .sk
  | .time => c.level.priv || (c.bank c.level.secure).utb
  | .counter => c.level.priv || (isRead && bit c.pmu.ctl 1)

/-- Why an access to a system register raises an exception: illegal, privilege, Ply disabled, FP disabled (07 R245,
R246, 05 R163, 07 R232). -/
def Core.srFault (c : Core) (n : Nat) (isRead : Bool) : Option Exc :=
  match srClass n with
  | none => some .illegal
  | some k =>
    if !c.srAdmits k isRead then some .priv
    else if n = 0x481 ∧ !c.pctlEn then some .plyDisabled
    else if n = 0x484 ∧ c.fpOff then some .fpDisabled
    else none

/-! ### Values -/

/-- STATUS of a bank; NPEND is S_STATUS's only (08 R257). -/
def Bank.status (b : Bank) (npend : Bool) : Word :=
  BitVec.ofNat 64 (b2n b.ie + 2 * b2n b.pie + 4 * b2n b.ppriv + 8 * b2n b.utb + 16 * b2n b.fpen + 256 * b2n npend)

/-- The register of a bank by its low number: STATUS, VBASE, EPC, CAUSE, ADDR, SCRATCH. -/
def Bank.get (b : Bank) (npend : Bool) (i : Nat) : Word :=
  match i with
  | 0 => b.status npend
  | 1 => b.vbase
  | 2 => b.epc
  | 3 => b.cause.zeroExtend 64
  | 4 => b.addr
  | _ => b.scratch

/-- A write of the register of a bank by its low number (08 R257). -/
def Bank.put (b : Bank) (i : Nat) (x : Word) : Bank :=
  match i with
  | 0 => { b with ie := bit x 0, pie := bit x 1, ppriv := bit x 2, utb := bit x 3, fpen := bit x 4 }
  | 1 => { b with vbase := x &&& ~~~0xFFF#64 }
  | 2 => { b with epc := x &&& ~~~3#64 }
  | 3 => { b with cause := BitVec.ofNat 32 x.toNat &&& 0x80FFFFFF#32 }
  | 4 => { b with addr := x }
  | _ => { b with scratch := x }

/-- 64 bits of a 256-bit vector set. -/
def quad (x : BitVec 256) (i : Nat) : Word := BitVec.ofNat 64 (field x (64 * i + 63) (64 * i))

/-- The vectors a core's level may see in its inbox registers: at K the secure ones are hidden (08 R266). -/
def Core.seen (c : Core) : BitVec 256 := if c.level.secure then ~~~0#256 else ~~~c.sec

/-- The watchdogs of a skein. -/
def Dev.wd (d : Dev) (sk : Nat) : Wdog := mget Wdog.reset d.wdog sk

/-- The device with the watchdogs of a skein changed. -/
def Dev.updWd (d : Dev) (sk : Nat) (f : Wdog → Wdog) : Dev := { d with wdog := mupd Wdog.reset d.wdog sk f }

/-- Whether a skein's image entry sets NDOG (08 R273). -/
def Dev.hasNdog (d : Dev) (sk : Nat) : Bool :=
  match d.skeinCfg sk with
  | some c => c.ndog
  | none => false

/-- NDOG_CTL as read (08 R273). -/
def Wdog.ctl (w : Wdog) : Word :=
  BitVec.ofNat 64 (w.target.toNat + 512 * b2n w.warned + 32768 * b2n w.en + 65536 * w.period.toNat)

/-- Whole milliseconds left in the secure countdown (08 R273). -/
def Dev.swdogRemain (d : Dev) (sk : Nat) : Nat :=
  match (d.wd sk).sDeadline with
  | some t => (t - d.now) / 1000000
  | none => 0

/-- A debug register as a level reads it: one whose SEC is 1 reads 0 at K (08 R275). -/
def Core.dbgRead (c : Core) (x : Word) (secBit : Nat) : Word := if c.level ≠ .sk ∧ bit x secBit then 0#64 else x

/-- CORE_ABERR as a level reads it (06 R218). -/
def Core.aberrRead (c : Core) : Word :=
  if c.level ≠ .sk ∧ bit c.aberr 61 then c.aberr &&& 0xF000000000000000#64 else c.aberr

/-- What an admitted MFS returns; 32-bit registers zero-extended (07 R245). The claim's effect is execInboxClaim's. -/
def Dev.srRead (d : Dev) (l n : Nat) : Word :=
  let c := d.core l
  let sk := (d.skeinOf l).getD 0
  if n = 0 then BitVec.ofNat 64 (b2n c.level.priv + 2 * b2n c.level.secure)
  else if n < 0x20 then c.kb.get false (n - 0x10)
  else if n < 0x30 then c.sbank.get (d.heldFor l false) (n - 0x20)
  else if n = 0x31 then (if d.hasNdog sk then (d.wd sk).ctl else 0#64)
  else if n = 0x33 then BitVec.ofNat 64 (d.swdogRemain sk)
  else if n = 0x40 ∨ n = 0x41 then c.dbgRead (mget 0#64 c.bp (n - 0x40)) 1
  else if n = 0x42 ∨ n = 0x43 then c.dbgRead (mget 0#64 c.wp (n - 0x42)) 2
  else if n = 0x100 then b2w c.tctl
  else if n = 0x101 then c.segtb
  else if n = 0x108 then b2w c.ste
  else if 0x200 ≤ n ∧ n < 0x204 then quad (d.pendNow l &&& c.seen) (n - 0x200)
  else if 0x204 ≤ n ∧ n < 0x208 then quad (c.en &&& c.seen) (n - 0x204)
  else if 0x208 ≤ n ∧ n < 0x20C then quad (c.sec &&& c.seen) (n - 0x208)
  else if n = 0x210 then (match d.claimable l with | some v => BitVec.ofNat 64 v | none => 0x100#64)
  else if n = 0x212 then (if c.level.secure then c.threshS else c.threshN).zeroExtend 64
  else if n = 0x220 then BitVec.ofNat 64 d.now
  else if n = 0x221 then c.timerCmp
  else if n = 0x222 then b2w c.timerEn
  else if n = 0x223 then c.sTimerCmp
  else if n = 0x224 then b2w c.sTimerEn
  else if n = 0x300 then c.pmu.ctl.zeroExtend 64
  else if n = 0x301 then c.pmu.ovf.zeroExtend 64
  else if n = 0x302 then c.pmu.route.zeroExtend 64
  else if n = 0x310 then c.pmu.fix0
  else if n = 0x311 then c.pmu.fix1
  else if 0x320 ≤ n ∧ n < 0x326 then (mget 0#32 c.pmu.evsel (n - 0x320)).zeroExtend 64
  else if 0x330 ≤ n ∧ n < 0x336 then mget 0#64 c.pmu.cnt (n - 0x330)
  else if n = 0x400 then BitVec.ofNat 64 (l + sk * 65536)
  else if n = 0x401 then c.aberrRead
  else if 0x410 ≤ n ∧ n < 0x414 then
    (if 0x412 ≤ n ∧ c.level ≠ .sk then 0#64 else mget 0#64 c.pbar (n - 0x410))
  else if n = 0x480 then BitVec.ofNat 64 (c.pctlRm.toNat + 256 * b2n c.pctlEn + 512 * b2n c.pctlVd)
  else if n = 0x481 then c.psat.zeroExtend 64
  else if n = 0x484 then BitVec.ofNat 64 (c.fpFlags.toNat + 256 * c.fpRm.toNat)
  else 0#64

/-! ### Writes -/

/-- 64 bits of a 256-bit vector replaced. -/
def putQuad (x : BitVec 256) (i : Nat) (v : Word) : BitVec 256 := putField x (64 * i + 63) (64 * i) v.toNat

/-- A write of a debug register: SEC is written at SK only, and one whose SEC is 1 ignores writes at K (08 R275). -/
def Core.dbgWrite (c : Core) (old new : Word) (secBit : Nat) : Word :=
  if c.level = .sk then new
  else if bit old secBit then old else new &&& ~~~(1#64 <<< secBit)

/-- The bits of the local vectors. -/
def localVecs : BitVec 256 := 0xFFFF#256 <<< 0xF0

/-- A write of an inbox register whose hidden bits ignore it. -/
def Core.inboxMerge (c : Core) (old new : BitVec 256) : BitVec 256 := (old &&& ~~~c.seen) ||| (new &&& c.seen)

/-- The claim of 08 R265: the vector selected leaves pending and its priority becomes active; none where none
qualifies. -/
def Dev.claim (d : Dev) (l : Nat) : Dev :=
  match d.claimable l with
  | none => d
  | some v => d.updCore l fun c =>
    let c := { c with pend := setBit c.pend v false }
    let b : BitVec 16 := 1#16 <<< (v / 16)
    if c.level.secure then { c with actS := c.actS ||| b } else { c with actN := c.actN ||| b }

/-- The highest active priority of the core's world ends (08 R265). -/
def Core.eoi (c : Core) : Core :=
  let t := c.actTop c.level.secure
  if t = 0 then c
  else if c.level.secure then { c with actS := c.actS &&& ~~~(1#16 <<< (t - 1)) }
  else { c with actN := c.actN &&& ~~~(1#16 <<< (t - 1)) }

/-- An inter-processor send (08 R266). -/
def Dev.inboxSend (d : Dev) (l : Nat) (x : Word) : Dev :=
  let sk := (d.skeinOf l).getD 0
  let sec := bit x 24
  let v := field x 23 16
  let t := field x 8 0
  let c := d.core l
  if d.skeinOf t ≠ d.skeinOf l ∨ 0xF0 ≤ v ∨ (sec ∧ (c.level ≠ .sk ∨ !d.secureSkein l)) then d.dropVec sk
  else d.deliverVec ⟨t, v, sec, sk⟩

/-- A write of SWDOG: the key reloads the skein's secure countdown (08 R272). -/
def Dev.swdogWrite (d : Dev) (l : Nat) (x : Word) : Dev :=
  if field x 31 0 ≠ 0x5EC1 then d
  else match d.cfgOf l with
    | some c =>
      if c.secure then d.updWd c.skein fun w =>
        { w with sDeadline := w.sDeadline.map fun _ => d.now + (match d.img.img with | some i => i.swdogMs | none => 0) * 1000000 }
      else d
    | none => d

/-- A write of NDOG_CTL (08 R273). -/
def Dev.ndogCtlWrite (d : Dev) (l : Nat) (x : Word) : Dev :=
  let sk := (d.skeinOf l).getD 0
  if !d.hasNdog sk then d
  else if (bit x 15 ∧ field x 31 16 = 0) ∨ d.skeinOf (field x 8 0) ≠ some sk then d
  else d.updWd sk fun w =>
    let p := field x 31 16
    let start := bit x 15 && !w.en
    { w with period := BitVec.ofNat 16 p, target := BitVec.ofNat 9 (field x 8 0), en := w.en || bit x 15, inForce := if start then p else w.inForce, nDeadline := if start then d.now + p * 1000000 else w.nDeadline }

/-- A write of NDOG_SVC restarts the period and clears WARNED (08 R273). -/
def Dev.ndogSvc (d : Dev) (l : Nat) : Dev :=
  let sk := (d.skeinOf l).getD 0
  if !d.hasNdog sk then d
  else d.updWd sk fun w =>
    { w with warned := false, inForce := w.period.toNat, nDeadline := d.now + w.period.toNat * 1000000 }

/-- A write of a PMU register but a counter (19 R591). -/
def Pmu.put (p : Pmu) (n : Nat) (x : Word) : Pmu :=
  let v : Reg32 := BitVec.ofNat 32 x.toNat
  if n = 0x300 then { p with ctl := v &&& 0xF0F#32 }
  else if n = 0x301 then { p with ovf := p.ovf &&& ~~~v }
  else if n = 0x302 then { p with route := v &&& 0x80000FFF#32 }
  else
    let e := v &&& 0xCFF0FFFF#32
    { p with evsel := mset 0#32 p.evsel (n - 0x320) (if (eventMax (field e 15 0)).isSome then e else e &&& 0xFFFF0000#32) }

/-- A write of a PMU counter (19 R588). -/
def Pmu.putCounter (p : Pmu) (n : Nat) (x : Word) : Pmu :=
  if n = 0x310 then { p with fix0 := x }
  else if n = 0x311 then { p with fix1 := x }
  else { p with cnt := mset 0#64 p.cnt (n - 0x330) x }

/-- Whether a number is a PMU counter. -/
def srIsCounter (n : Nat) : Bool := n == 0x310 || n == 0x311 || (0x330 ≤ n && n ≤ 0x335)

/-- A write of CORE_ABERR: VALID clears the whole record (06 R218). -/
def aberrWrite (old x : Word) : Word :=
  if bit x 63 then 0#64 else if bit x 62 then old &&& ~~~(1#64 <<< 62) else old

/-- What an admitted MTS does, but to a counter, INBOX_SEND and the watchdogs (07 R245). -/
def Core.srWrite (c : Core) (n : Nat) (x : Word) : Core :=
  if n = 0 then c
  else if 0x10 ≤ n ∧ n < 0x20 then { c with kb := c.kb.put (n - 0x10) x }
  else if 0x20 ≤ n ∧ n < 0x30 then { c with sbank := c.sbank.put (n - 0x20) x }
  else if n = 0x40 ∨ n = 0x41 then
    { c with bp := mset 0#64 c.bp (n - 0x40) (c.dbgWrite (mget 0#64 c.bp (n - 0x40)) x 1) }
  else if n = 0x42 ∨ n = 0x43 then
    { c with wp := mset 0#64 c.wp (n - 0x42) (c.dbgWrite (mget 0#64 c.wp (n - 0x42)) x 2) }
  else if n = 0x100 then { c with tctl := bit x 0 }
  else if n = 0x101 then { c with segtb := x &&& 0x000FFFFFFFFFFF00#64, sla := [] }
  else if n = 0x108 then { c with ste := bit x 0, stlbF := c.stlb }
  else if 0x200 ≤ n ∧ n < 0x204 then { c with pend := c.pend &&& ~~~(putQuad 0#256 (n - 0x200) x &&& c.seen) }
  else if 0x204 ≤ n ∧ n < 0x208 then { c with en := c.inboxMerge c.en (putQuad c.en (n - 0x204) x) }
  else if 0x208 ≤ n ∧ n < 0x20C then
    (if c.level = .sk then { c with sec := (putQuad c.sec (n - 0x208) x &&& ~~~localVecs) ||| secLocal } else c)
  else if n = 0x211 then c.eoi
  else if n = 0x212 then
    (if c.level.secure then { c with threshS := BitVec.ofNat 4 x.toNat } else { c with threshN := BitVec.ofNat 4 x.toNat })
  else if n = 0x221 then { c with timerCmp := x }
  else if n = 0x222 then { c with timerEn := bit x 0 }
  else if n = 0x223 then { c with sTimerCmp := x }
  else if n = 0x224 then { c with sTimerEn := bit x 0 }
  else if (0x300 ≤ n ∧ n ≤ 0x302) ∨ (0x320 ≤ n ∧ n ≤ 0x325) then { c with pmu := c.pmu.put n x }
  else if n = 0x401 then { c with aberr := aberrWrite c.aberr x }
  else if n = 0x480 then
    { c with pctlRm := BitVec.ofNat 3 x.toNat, pctlEn := if c.level.priv then bit x 8 else c.pctlEn, pctlVd := bit x 9 }
  else if n = 0x481 then { c with psat := BitVec.ofNat 8 x.toNat }
  else if n = 0x484 then { c with fpRm := BitVec.ofNat 3 (field x 10 8), fpFlags := BitVec.ofNat 5 x.toNat }
  else c

/-- An MFS (07 R245); that of INBOX_CLAIM also claims (08 R265). -/
def Dev.mfs (d : Dev) (l : Nat) (gd : BitVec 5) (n : Nat) : CoreOut :=
  match (d.core l).srFault n true with
  | some e => .exc d e
  | none =>
    let v := d.srRead l n
    let d := if n = 0x210 then d.claim l else d
    .done (d.updCore l fun c => c.wg gd v) []

/-- An MTS (07 R245). -/
def Dev.mts (d : Dev) (l : Nat) (n : Nat) (x : Word) : CoreOut :=
  match (d.core l).srFault n false with
  | some e => .exc d e
  | none =>
    if n = 0x213 then
      let r := d.drained l
      if r.2 then .done (r.1.inboxSend l x) [] else .drains r.1
    else if n = 0x30 then .done (d.swdogWrite l x) []
    else if n = 0x31 then .done (d.ndogCtlWrite l x) []
    else if n = 0x32 then .done (d.ndogSvc l) []
    else if srIsCounter n then .doneThen d fun c => { c with pmu := c.pmu.putCounter n x }
    else .done (d.updCore l fun c => c.srWrite n x) []

end Sys2Proof.Machine
end

