-- ==== Sys2Proof/Machine/System.lean ====
section
/-! DEFINITION. System instructions: MFS and MTS, TLBI and the STLB, barriers and ISYNC, predictor control, SYS, BRK,
WCALL, WRET, ERET and WAITI, and the events of a core: interrupts and timers (07 R238, R240 to R245, chapters 08 and
09). -/
namespace Sys2Proof.Machine

/-! ### MFS and MTS -/

/-- MFS (07 R240, R245). -/
def execMfs (l : Fin 384) (gd : BitVec 5) (sr : BitVec 12) (s : State) : Host.Outcome State Fault Refusal :=
  runInstr l s fun d => d.mfs l.val gd sr.toNat

/-- MTS (07 R240, R245). -/
def execMts (l : Fin 384) (sr : BitVec 12) (ga : BitVec 5) (s : State) : Host.Outcome State Fault Refusal :=
  runInstr l s fun d => d.mts l.val sr.toNat ((d.core l.val).rg ga)

/-- An MFS of INBOX_CLAIM (08 R265). -/
def execInboxClaim (l : Fin 384) (gd : BitVec 5) (s : State) : Host.Outcome State Fault Refusal :=
  runInstr l s fun d => d.mfs l.val gd 0x210

/-- An MTS to INBOX_EOI (08 R265). -/
def execInboxEoi (l : Fin 384) (ga : BitVec 5) (s : State) : Host.Outcome State Fault Refusal :=
  runInstr l s fun d => d.mts l.val 0x211 ((d.core l.val).rg ga)

/-- An MTS to INBOX_SEND: issued after the store drain (08 R266). -/
def execInboxSend (l : Fin 384) (ga : BitVec 5) (s : State) : Host.Outcome State Fault Refusal :=
  runInstr l s fun d => d.mts l.val 0x213 ((d.core l.val).rg ga)

/-- An MTS to SWDOG (08 R272). -/
def execSwdog (l : Fin 384) (ga : BitVec 5) (s : State) : Host.Outcome State Fault Refusal :=
  runInstr l s fun d => d.mts l.val 0x30 ((d.core l.val).rg ga)

/-- An MTS to NDOG_CTL (08 R273). -/
def execNdogCtlWrite (l : Fin 384) (ga : BitVec 5) (s : State) : Host.Outcome State Fault Refusal :=
  runInstr l s fun d => d.mts l.val 0x31 ((d.core l.val).rg ga)

/-- An MTS to NDOG_SVC (08 R273). -/
def execNdogSvc (l : Fin 384) (ga : BitVec 5) (s : State) : Host.Outcome State Fault Refusal :=
  runInstr l s fun d => d.mts l.val 0x32 ((d.core l.val).rg ga)

/-- An MTS to MMU_SEGTB: it empties the issuing core's segment look-aside (09 R281, R295). -/
def execMmuSegtbWrite (l : Fin 384) (ga : BitVec 5) (s : State) : Host.Outcome State Fault Refusal :=
  runInstr l s fun d => d.mts l.val 0x101 ((d.core l.val).rg ga)

/-! ### Invalidations (07 R241, 09 R295, R296) -/

/-- Whether an entry tag belongs to an ASID or is global. -/
def tagHits (t : Option (BitVec 16)) (asid : BitVec 16) : Bool := t == none || t == some asid

/-- TLBI.VA at a core. -/
def Core.tlbiVa (c : Core) (va : Nat) (asid : BitVec 16) : Core :=
  { c.mapTlbs (fun e => if e.hits asid va then none else some e) with walk := c.walk.filter fun w => !(tagHits w.asid asid && w.vaTop == va / 2 ^ (12 + 9 * w.lvl)) }

/-- TLBI.ASID at a core. -/
def Core.tlbiAsid (c : Core) (asid : BitVec 16) : Core :=
  { c.mapTlbs (fun e => if e.asid = some asid then none else some e) with walk := c.walk.filter fun w => w.asid != some asid }

/-- TLBI.ALL at a core. -/
def Core.tlbiAll (c : Core) : Core := { c.tlbsOff with walk := [] }

/-- SLBI at a core. -/
def Core.slbi (c : Core) : Core := { c with sla := [] }

/-- The cores at which an invalidation acts: the issuing one, or every core of its skein (09 R296). -/
def Dev.invalAt (d : Dev) (l : Nat) (all : Bool) : List Nat :=
  match all, d.cfgOf l with
  | true, some c => setBits 384 c.lcnMask
  | _, _ => [l]

/-- Every access that a core has translated is performed: its stores globally, its DEVICE requests answered (09 R296). -/
def Core.settled (c : Core) : Bool := c.allPerformed && c.devOut.all fun r => r.quiet

/-- The common part of the invalidations: K and SK only; it waits for every earlier store of the issuing core, and is applied
at each core once what that core translated is performed (09 R296). -/
def Dev.inval (d : Dev) (l : Nat) (all : Bool) (f : Core → Core) : CoreOut :=
  if !(d.core l).level.priv then .exc d .priv
  else
    let at_ := d.invalAt l all
    let d := (l :: at_).foldl Dev.drain d
    if (l :: at_).all fun k => (d.core k).settled then .done (at_.foldl (fun d k => d.updCore k f) d) [] else .drains d

/-- TLBI.VA (07 R241, 09 R295). -/
def execTlbiVa (l : Fin 384) (all : Bool) (ga gb : BitVec 5) (s : State) : Host.Outcome State Fault Refusal :=
  runInstr l s fun d =>
    let c := d.core l.val
    d.inval l.val all fun k => k.tlbiVa (field (c.rg ga) 47 0) (BitVec.ofNat 16 (c.rg gb).toNat)

/-- TLBI.ASID (07 R241, 09 R295). -/
def execTlbiAsid (l : Fin 384) (all : Bool) (_ga gb : BitVec 5) (s : State) : Host.Outcome State Fault Refusal :=
  runInstr l s fun d =>
    let c := d.core l.val
    d.inval l.val all fun k => k.tlbiAsid (BitVec.ofNat 16 (c.rg gb).toNat)

/-- TLBI.ALL (07 R241, 09 R295). -/
def execTlbiAll (l : Fin 384) (all : Bool) (_ga _gb : BitVec 5) (s : State) : Host.Outcome State Fault Refusal :=
  runInstr l s fun d => d.inval l.val all Core.tlbiAll

/-- SLBI (07 R241, 09 R295). -/
def execSlbi (l : Fin 384) (all : Bool) (_ga _gb : BitVec 5) (s : State) : Host.Outcome State Fault Refusal :=
  runInstr l s fun d => d.inval l.val all Core.slbi

/-! ### The STLB (09 R299 to R302) -/

/-- Whether the words of an STLB entry are legal (09 R300). -/
def stlbLegal (w0 w1 : Word) : Bool :=
  let sz := field w0 11 10
  let low := 9 * sz
  field w0 63 48 == 0 && field w0 9 1 == 0 && field w1 63 52 == 0 && !bit w1 11 && field w1 3 0 == 0 &&
  sz != 3 && field w1 10 9 != 3 &&
  field w0 47 12 % 2 ^ low == 0 && field w1 51 12 % 2 ^ low == 0 &&
  (bit w0 0 || (w0 == 0#64 && w1 == 0#64)) && !(bit w1 5 && !bit w1 4)

/-- Whether the ranges of two valid STLB entries overlap. -/
def stlbOverlap (a b : Word) : Bool :=
  bit a 0 && bit b 0 &&
    (let n := max (stlbLog2 a) (stlbLog2 b)
     (field a 47 12 * 4096) / 2 ^ n == (field b 47 12 * 4096) / 2 ^ n)

/-- STLBW at a core: the entry is written and every other valid entry that overlaps it is invalidated (09 R300). -/
def Core.stlbWrite (c : Core) (idx : Nat) (w0 w1 : Word) : Core :=
  { c with stlb := mset (0#64, 0#64) (c.stlb.filter fun e => !(e.1 != idx && stlbOverlap e.2.1 w0)) idx (w0, w1) }

/-- STLBW, SK only (07 R240, 09 R300). -/
def execStlbw (l : Fin 384) (ga gb : BitVec 5) (idx : BitVec 6) (s : State) : Host.Outcome State Fault Refusal :=
  runInstr l s fun d =>
    let c := d.core l.val
    if !stlbLegal (c.rg ga) (c.rg gb) then .exc d .illegal
    else if c.level ≠ .sk then .exc d .priv
    else .done (d.updCore l.val fun k => k.stlbWrite idx.toNat (c.rg ga) (c.rg gb)) []

/-- STLBR, SK only (07 R240, 09 R299). -/
def execStlbr (l : Fin 384) (gd : BitVec 5) (idx : BitVec 6) (h : Bool) (s : State) : Host.Outcome State Fault Refusal :=
  runInstr l s fun d =>
    if (d.core l.val).level ≠ .sk then .exc d .priv
    else .done (d.updCore l.val fun c =>
      let e := mget (0#64, 0#64) c.stlb idx.toNat
      c.wg gd (if h then e.2 else e.1)) []

/-- STLBI, SK only (07 R240, 09 R302). -/
def execStlbi (l : Fin 384) (all : Bool) (ga : BitVec 5) (s : State) : Host.Outcome State Fault Refusal :=
  runInstr l s fun d =>
    if (d.core l.val).level ≠ .sk then .exc d .priv
    else .done (d.updCore l.val fun c =>
      { c with stlb := if all then [] else c.stlb.filter fun e => !stlbHit e.2 (field (c.rg ga) 47 0) }) []

/-! ### Barriers (07 R238, 10 R323 to R326) -/

/-- BAR.LL: a core's loads are performed in program order here, so nothing is left to wait for (10 R323). -/
def execBarLl (l : Fin 384) (s : State) : Host.Outcome State Fault Refusal := runInstr l s fun d => .done d []

/-- BAR.SS retires at once and marks the store buffer (10 R324, R329). -/
def execBarSs (l : Fin 384) (s : State) : Host.Outcome State Fault Refusal :=
  runInstr l s fun d => .done (d.drainMark l.val false) []

/-- BAR.FULL waits until every earlier store is performed (10 R325). -/
def execBarFull (l : Fin 384) (s : State) : Host.Outcome State Fault Refusal :=
  runInstr l s fun d =>
    let r := d.drained l.val
    if r.2 then .done r.1 [] else .drains r.1

/-- BAR.DEV waits also for the response of every DEVICE store (10 R326). -/
def execBarDev (l : Fin 384) (s : State) : Host.Outcome State Fault Refusal :=
  runInstr l s fun d =>
    let r := d.drained l.val
    if r.2 && (r.1.core l.val).devStores == 0 then .done r.1 [] else .drains r.1

/-- ISYNC: earlier stores performed, then fetch sees them (06 R213). -/
def execIsync (l : Fin 384) (s : State) : Host.Outcome State Fault Refusal :=
  runInstr l s fun d =>
    let r := d.drained l.val
    if r.2 then .done (r.1.refetch l.val) [] else .drains r.1

/-! ### Predictor control (06 R199, R200) -/

/-- PFLUSH, K and SK (06 R199). -/
def execPflush (l : Fin 384) (s : State) : Host.Outcome State Fault Refusal :=
  runInstr l s fun d =>
    if !(d.core l.val).level.priv then .exc d .priv
    else .done (d.updCore l.val fun c => { c with pred := Predictor.empty }) []

/-- Whether the operands of PBAR have no defect (06 R200). -/
def pbarLegal (a b : Word) : Bool :=
  field b 63 2 == 0 &&
  (if bit a 11 then
     if bit a 10 then field a 63 12 == 0 && field a 5 0 == 0
     else 12 ≤ field a 5 0 && field a 5 0 ≤ 48 && (field a 63 12 * 4096) % 2 ^ field a 5 0 == 0
   else a == 0#64)

/-- Whether a level may write a bar entry (06 R200). -/
def Core.pbarMay (c : Core) (a b : Word) : Bool :=
  match c.level with
  | .sk => true
  | .k => field b 1 0 < 2 && !bit a 8 && !bit a 9
  | _ => false

/-- PBAR (06 R200). -/
def execPbar (l : Fin 384) (ga gb : BitVec 5) (s : State) : Host.Outcome State Fault Refusal :=
  runInstr l s fun d =>
    let c := d.core l.val
    let a := c.rg ga
    let b := c.rg gb
    if !pbarLegal a b then .exc d .illegal
    else if !c.pbarMay a b then .exc d .priv
    else .done (d.updCore l.val fun k => { k with pbar := mset 0#64 k.pbar (field b 1 0) a }) []

/-! ### SYS, BRK, the worlds and ERET (07 R240, R243, 08 R257 to R261) -/

/-- SYS (07 R240). -/
def execSys (l : Fin 384) (code : BitVec 12) (s : State) : Host.Outcome State Fault Refusal :=
  runInstr l s fun d => .exc d ⟨0x10, 0, code.toNat, 0#64⟩

/-- BRK (07 R240). -/
def execBrk (l : Fin 384) (code : BitVec 12) (s : State) : Host.Outcome State Fault Refusal :=
  runInstr l s fun d => .exc d ⟨0x12, 0, code.toNat, (d.core l.val).pc⟩

/-- WCALL, at K in a SECURE skein (08 R258). -/
def execWcall (l : Fin 384) (s : State) : Host.Outcome State Fault Refusal :=
  runInstr l s fun d =>
    if (d.core l.val).level ≠ .k ∨ !d.secureSkein l.val then .exc d .priv
    else .moved ((d.takeExc l.val ⟨0x11, 0, 0, 0#64⟩).traceReturn l.val true) [(0x44, 1), (0x45, 1)]

/-- The register scrub and return of WRET (08 R259). -/
def Core.wret (c : Core) : Core :=
  let b := c.sbank
  let keep (n : Nat) : Bool := n == 1 || n == 2 || (4 ≤ n && n ≤ 7)
  ({ c with level := .k, pc := b.epc, sbank := { b with ie := b.pie }, g := c.g.filter fun e => keep e.1, v := [], m := [], psat := 0#8, fpFlags := 0#5, pctlVd := true }).worldChange

/-- WRET, at SK (08 R259). -/
def execWret (l : Fin 384) (s : State) : Host.Outcome State Fault Refusal :=
  runInstr l s fun d =>
    if (d.core l.val).level ≠ .sk then .exc d .priv
    else .moved ((((d.drainMark l.val true).refetch l.val).updCore l.val Core.wret).traceReturn l.val true) [(0x45, 1)]

/-- ERET, at K and SK (08 R257). -/
def execEret (l : Fin 384) (s : State) : Host.Outcome State Fault Refusal :=
  runInstr l s fun d =>
    if !(d.core l.val).level.priv then .exc d .priv
    else .moved ((((d.drainMark l.val true).refetch l.val).updCore l.val Core.eret).traceReturn l.val false) []

/-! ### Timers (08 R271) -/

/-- The time of a time-driven event has come: the timebase is at least at it (log entry 4). -/
def Dev.timeTo (d : Dev) (t : Nat) : Dev := { d with now := max d.now t }

/-- TIME reaches TIMER_CMP: vector 0xFA is pending while it does (08 R271). -/
def execTimerExpire (l : Fin 384) (s : State) : Host.Outcome State Fault Refusal :=
  onDev s fun d => if (d.core l.val).timerEn then d.timeTo (d.core l.val).timerCmp.toNat else d

/-- TIME reaches S_TIMER_CMP: vector 0xF9 is pending while it does (08 R271). -/
def execSTimerExpire (l : Fin 384) (s : State) : Host.Outcome State Fault Refusal :=
  onDev s fun d => if (d.core l.val).sTimerEn then d.timeTo (d.core l.val).sTimerCmp.toNat else d

end Sys2Proof.Machine
end

