-- ==== Sys2Proof/Machine/Bobbin.lean ====
section
/-! DEFINITION. The Bobbin engine (chapter 03): queue contexts, rings and cells, the context cache, the order of
reading, rights, queue faults, result words, and the delivery of an item to a core. -/
namespace Sys2Proof.Machine

/-! ### Contexts and rings (R72 to R76, R113) -/

/-- The context of a queue. -/
def Dev.q (d : Dev) (n : Nat) : QCtx := mget QCtx.reset d.bq.ctx n

/-- The device with the context of a queue replaced. -/
def Dev.setQ (d : Dev) (n : Nat) (c : QCtx) : Dev := { d with bq := { d.bq with ctx := mset QCtx.reset d.bq.ctx n c } }

/-- The device with the context of a queue changed. -/
def Dev.updQ (d : Dev) (n : Nat) (f : QCtx → QCtx) : Dev := d.setQ n (f (d.q n))

/-- The cells of a ring (R74). -/
def QCtx.cells (c : QCtx) : Nat := 2 ^ c.ringLog2

/-- The free space of a ring (R75). -/
def QCtx.room (c : QCtx) : Nat := (c.recl + c.cells - c.wr - 1) % c.cells

/-- RECL and the runs after it, once the free runs at RECL are passed (R75). -/
def popFree : Nat → List QRun → Nat × List QRun
  | r, [] => (r, [])
  | r, x :: t => if x.st = .free then popFree (r + x.n) t else (r, x :: t)

/-- The context with RECL advanced over free cells. -/
def QCtx.reclaim (c : QCtx) : QCtx :=
  let r := popFree c.recl c.runs
  { c with recl := r.1 % c.cells, runs := r.2 }

/-- The context with `n` cells allocated at WR for an owner. -/
def QCtx.alloc (c : QCtx) (own n : Nat) : QCtx :=
  { c with wr := (c.wr + n) % c.cells, runs := c.runs ++ [⟨own, n, .held⟩] }

/-- The context with the cells of an owner put in a state. -/
def QCtx.mark (c : QCtx) (own : Nat) (st : CellSt) : QCtx :=
  { c with runs := c.runs.map fun r => if r.own = own ∧ r.st ≠ .free then { r with st := st } else r }

/-- The state code of R110. -/
def QCtx.stateCode (c : QCtx) : Nat := if c.dead then 3 else if c.flush then 2 else if c.en then 1 else 0

/-- The skein whose range holds a queue number (R72). -/
def Dev.qOwner (d : Dev) (n : Nat) : Option SkeinCfg :=
  match d.img.img with
  | some i => i.skeins.find? fun c => c.qFirst ≤ n && n < c.qFirst + c.qCount
  | none => none

/-- Where a queue's context lies, as a line (R72). -/
def SkeinCfg.ctxLine (c : SkeinCfg) (n : Nat) : Nat := c.qmemBase / 64 + (n - c.qFirst)

/-- Where the ring area starts, from QMEM_BASE (R72). -/
def SkeinCfg.ringArea (c : SkeinCfg) : Nat := (64 * c.qCount + 0xFFFFF) / 0x100000 * 0x100000 + 0x200000

/-- Where a group entry lies, in bytes (R72). -/
def SkeinCfg.groupAt (c : SkeinCfg) (i : Nat) : Nat := c.qmemBase + c.ringArea - 0x200000 + i * 512

/-- The line of cell `i` of a queue's ring. -/
def QCtx.cellLine (c : QCtx) (o : SkeinCfg) (i : Nat) : Nat := o.qmemBase / 64 + c.ringBase * 64 + i % c.cells

/-- Whether a ring's footprint lies in the ring area (R74). -/
def SkeinCfg.ringFits (o : SkeinCfg) (log2 base : Nat) : Bool :=
  decide (o.ringArea ≤ base * 4096) && decide (base * 4096 + (66 * 2 ^ log2 + 4095) / 4096 * 4096 ≤ o.qmemLen)

/-- The line of the link array that holds the links of cell `i`, 2 bytes per cell (R74). -/
def QCtx.linkLine (c : QCtx) (o : SkeinCfg) (i : Nat) : Nat := o.qmemBase / 64 + c.ringBase * 64 + c.cells + i % c.cells / 32

/-- The lines of the context and of the link array of a queue. -/
def QCtx.bookLines (c : QCtx) (o : SkeinCfg) (n : Nat) : List Nat :=
  o.ctxLine n :: (if c.ringLog2 < 6 then [] else (List.range (c.cells / 32)).map fun i => c.linkLine o (32 * i))

/-- The lines of an item's cells. -/
def QCtx.itemLines (c : QCtx) (o : SkeinCfg) (it : QItem) : List Nat := (List.range it.n).map fun i => c.cellLine o (it.cell + i)

/-- Whether the engine would read poison in an item's cells (R92). -/
def Dev.itemPoisoned (d : Dev) (n : Nat) (it : QItem) : Bool :=
  match d.qOwner n with
  | some o => ((d.q n).itemLines o it).any d.poisoned
  | none => false

/-- The engine writes whole cells: the bytes, zero beyond them, stand in the lines, poison clears, and the lines are placed in
the home cache without a read of DRAM (04 R148, R149). -/
def Dev.cellsWritten (d : Dev) (lines : List Nat) (bs : List Byte) : Dev :=
  (List.range lines.length).foldl (fun d i =>
    let x := lines.getD i 0
    (((d.markStale x 16 none).putBytes (cellsAt (x * 64) (bytesAt bs (64 * i) 64))).setPoison x false).hcInstall x true) d

/-- The engine touches a line of its bookkeeping, a context, a group entry or a link array: from the home cache, or from DRAM,
and it stands in the home cache after (04 R148). -/
def Dev.bookTouch (d : Dev) (line : Nat) (dirty : Bool) : Dev :=
  (if (mget none d.coh.hc line).isSome then d else d.hubAddLine line 4 1).hcInstall line dirty

/-- The links of cells are read or written. -/
def Dev.linkTouch (d : Dev) (n cell k : Nat) (dirty : Bool) : Dev :=
  match d.qOwner n with
  | some o => (((List.range k).map fun i => (d.q n).linkLine o (cell + i)).eraseDups).foldl (fun d x => d.bookTouch x dirty) d
  | none => d

/-- A freed cell's line is dropped without a write to DRAM (04 R150). -/
def Dev.hcForget (d : Dev) (line : Nat) : Dev :=
  let k := hcSetKey line
  { d with mem := { d.mem with stale := merase d.mem.stale line }, coh := { d.coh with hc := merase d.coh.hc line, hcsets := mset CSet.empty d.coh.hcsets k ((mget CSet.empty d.coh.hcsets k).drop line) } }

/-- Cells of an owner become free: their lines are dropped and RECL advances (R75, 04 R150). -/
def Dev.freeCells (d : Dev) (n own : Nat) (lines : List Nat) : Dev :=
  (lines.foldl Dev.hcForget d).updQ n fun c => (c.mark own .free).reclaim

/-! ### The context cache (R114) -/

/-- Whether a context has a registered waiter, which pins it. -/
def Dev.pinned (d : Dev) (n : Nat) : Bool := !(d.q n).waiters.isEmpty

/-- The line of a queue's context is read from queue memory, or written back to it (04 R148). -/
def Dev.ctxLineTouch (d : Dev) (n : Nat) (dirty : Bool) : Dev :=
  match d.qOwner n with
  | some o => d.bookTouch (o.ctxLine n) dirty
  | none => d

/-- The lowest place of the context cache from `w` on that is free and not retired, within a number of steps. -/
def Bq.freePlace (q : Bq) : Nat → Nat → Option Nat
  | 0, _ => none
  | n + 1, w =>
    if (q.cache.ways.all fun (x : Nat × Nat) => x.1 != w) && !q.ctxRetired.contains (w / 4096) then some w else q.freePlace n (w + 1)

/-- The engine uses a queue's context: it is held in the cache, where a context without waiters makes room in a full
one by the tree (R114; one tree over all entries, as no sets are given, log entry 18). -/
def Dev.ctxUse (d : Dev) (n : Nat) : Dev :=
  let s := d.bq.cache
  match s.wayOf n with
  | some w => { d with bq := { d.bq with cache := s.touch 16 w } }
  | none =>
    let held (w : Nat) : Option Nat := (s.ways.find? fun (x : Nat × Nat) => x.1 == w).map (·.2)
    let w := match d.bq.freePlace 65536 0 with
      | some w => w
      | none => plruWalk s.plru (fun w => !d.bq.ctxRetired.contains (w / 4096) && (match held w with | some x => !d.pinned x | none => true)) 16 1 0
    let d := match held w with
      | some x => d.ctxLineTouch x true
      | none => d
    { d.ctxLineTouch n false with bq := { d.bq with cache := s.place 16 w n } }

/-! ### Slots and charges (R115 to R117) -/

/-- An operation of a skein takes slots: counted, and its wait for them kept in MAXWAIT. How long it waited is a free
value within the bound of R117 (log entry 6). -/
def Dev.charge (d : Dev) (sk slots : Nat) : Dev :=
  let share := d.regF (Reg.BQ_SK_SHARE sk) 10 0
  let bound := if share = 0 then 0xFFFF else (1024 + share - 1) / share
  let w := (Config.freeValue d.freeCtr).toNat % (bound + 1)
  let a := Reg.BQ_SK_SLOTWAIT sk
  let d := { d with freeCtr := d.freeCtr + 1 }.hubAdd sk 2 slots
  d.setRegF a 15 0 (max (d.regF a 15 0) w)

/-- The slots of an item (R115). -/
def slotsOf (len : Nat) : Nat := max 1 ((len + 255) / 256)

/-! ### Order of reading (R81, R82) -/

/-- The tick of now: timebase bits from 10 up. -/
def Dev.tick (d : Dev) : Nat := d.now / 1024

/-- Whether an item's age exceeds the queue's limit; free at 2^32 ticks and beyond (R82). -/
def Dev.aged (d : Dev) (c : QCtx) (it : QItem) : Bool :=
  if d.tick - it.tick < 2 ^ 32 then decide (c.ageLimit < d.tick - it.tick)
  else Config.freeChoice (d.freeCtr * 8 + it.prio)

/-- The oldest item of native priority `p`: the head of its chain. -/
def QCtx.head (c : QCtx) (p : Nat) : Option QItem := c.items.find? fun i => i.prio == p

/-- The effective priority of a chain head. -/
def Dev.effective (d : Dev) (c : QCtx) (it : QItem) : Nat := if c.ageEn && d.aged c it then 7 else it.prio

/-- STAMP of an item (R77). -/
def QItem.stamp (it : QItem) : Nat := it.tick % 2 ^ 32

/-- The better of the candidate so far and a chain head, in the order of select. -/
def Dev.better (d : Dev) (c : QCtx) (cand : Option QItem) (it : QItem) : Option QItem :=
  match cand with
  | none => some it
  | some x =>
    let e := d.effective c it
    let ex := d.effective c x
    if ex < e ∨ (e = ex ∧ it.stamp < x.stamp) ∨ (e = ex ∧ it.stamp = x.stamp ∧ x.prio < it.prio) then some it else some x

/-- select of R81: the item a read of the queue returns. -/
def Dev.select (d : Dev) (n : Nat) : Option QItem :=
  let c := d.q n
  (List.range 8).foldl (fun cand p => match c.head p with | some it => d.better c cand it | none => cand) none

/-- FLAGS as delivered (R77, R81). -/
def Dev.itemFlags (d : Dev) (c : QCtx) (it : QItem) : Nat :=
  b2n (c.ageEn && d.aged c it && decide (it.prio < 7)) + 2 * b2n it.remote + 4 * b2n it.dma

/-- The header of an item with the FLAGS given (R77). -/
def QItem.header (it : QItem) (flags : Nat) : List Byte :=
  leBytes 2 it.len ++ leBytes 1 it.prio ++ leBytes 1 flags ++ leBytes 4 it.tag ++ leBytes 4 it.seq ++ leBytes 4 it.stamp

/-- The payload of an item, as its cells hold it. -/
def Dev.itemPayload (d : Dev) (n : Nat) (it : QItem) : List Byte :=
  match d.qOwner n with
  | some o => ((((d.q n).itemLines o it).flatMap d.lineData).take it.len).drop 16
  | none => []

/-- The bytes of an item as delivered: its header and its payload (R77). The header is the engine's own bookkeeping; where
rings overlap (R76), cells written for another item change payloads alone (DESIGN CHOICE, log entry 67). -/
def Dev.itemBytes (d : Dev) (n : Nat) (it : QItem) : List Byte :=
  it.header (d.itemFlags (d.q n) it) ++ d.itemPayload n it

/-! ### Addresses, rights and faults (R105 to R108, 01 R32) -/

/-- The package's system number (02 R54). -/
def Dev.sysnum (d : Dev) : Nat :=
  match d.img.img with
  | some i => i.sysnum
  | none => 0

/-- Whether a QA is local (01 R32). -/
def Dev.qaLocal (d : Dev) (qa : Nat) : Bool := bitsN qa 30 20 == d.sysnum || bitsN qa 30 20 == 0x7FF

/-- Whether a core may post to a queue (R105, R106). -/
def Dev.mayPost (d : Dev) (sk n : Nat) : Bool := (d.q n).pSkeins.getLsbD sk

/-- Whether a core may read a queue (R105, R106). -/
def Dev.mayQread (d : Dev) (l sk n : Nat) : Bool :=
  let c := d.q n
  c.cSkeins.getLsbD sk && (!c.cLcn.getLsbD 15 || field c.cLcn 8 0 == l)

/-- A field that names a function (R105): fn is 0 for the PF, n for the VF n − 1. -/
def fnField (bd fn : Nat) : Nat := 0x8000 + bd * 0x1000 + (if fn = 0 then 0x800 else fn - 1)

/-- Whether the engine is in SAFE (R121). -/
def Dev.bqSafe (d : Dev) : Bool := d.regF Reg.BQ_STATUS 1 0 == 2

/-- A queue fault (R108): counted and recorded for the core's skein. -/
def Dev.queueFault (d : Dev) (l sub member qnum : Nat) (addr : Word) : Dev × Exc :=
  let sk := (d.skeinOf l).getD 0
  let d := d.count (Reg.BQ_SK_QFAULT sk)
  (d.setReg (Reg.BQ_SK_LASTFAULT sk) (BitVec.ofNat 32 (sub * 2 ^ 28 + member % 64 * 2 ^ 20 + qnum % 2 ^ 20)), ⟨0x0E, sub, 0, addr⟩)

/-- The result word of R84. PRIO and LEN of an item are written also where its sequence number is itself 0 (DESIGN CHOICE, log
entry 67). -/
def qword (seq prio len member : Nat) (st : Status) : Word :=
  BitVec.ofNat 64 (seq % 2 ^ 32 * 2 ^ 32 + prio % 8 * 2 ^ 29 + len % 2 ^ 13 * 2 ^ 16 + member % 64 * 2 ^ 8 + st.code)

/-- A result without an item. -/
def qstat (st : Status) : Word := qword 0 0 0 0 st

/-- What a result counts: a STATE result, and a POISON result of a skein (R109, R123). -/
def Dev.countStatus (d : Dev) (sk : Nat) (st : Status) : Dev :=
  match st with
  | .state => d.count Reg.BQ_STATE_REJECT
  | .poison => d.count (Reg.BQ_SK_POISON sk)
  | _ => d

/-- Whether the ports of the channels behind an address meet a condition. -/
def Dev.portsAt (d : Dev) (pa : Nat) (f : PortSt → Bool) : Bool :=
  match d.regionOf pa with
  | none => true
  | some i => (setBits 16 (d.regF (Reg.MC_MAP_SET i) 15 0)).all fun ch => f (d.port (384 + ch)).st

/-- No channel behind a queue's memory, its context's or its ring's, is in self-refresh or fenced (R112, 12 R386). -/
def Dev.qmemOn (d : Dev) (o : SkeinCfg) (n : Nat) : Bool :=
  let on (pa : Nat) : Bool := d.portsAt pa fun s => s != .off && s != .fenced
  on (o.ctxLine n * 64) && on (o.qmemBase + (d.q n).ringBase * 4096)

/-- A context that the engine does not hold waits at the port of a channel that is being fenced or woken (12 R387). -/
def Dev.qmemWaits (d : Dev) (o : SkeinCfg) (n : Nat) : Bool :=
  (d.bq.cache.wayOf n).isNone && (mget none d.coh.hc (o.ctxLine n)).isNone &&
    !d.portsAt (o.ctxLine n * 64) fun s => s != .fencing && s != .waking

/-! ### Cores at the engine -/

/-- An LCN number as an operand. -/
def lcn (l : Nat) : Fin 384 := Fin.ofNat 384 l

/-- A core's queue instruction completes: gd is written and the instruction retires (R84). -/
def Dev.coreDone (d : Dev) (l : Nat) (gd : BitVec 5) (x : Word) : Dev :=
  let d := d.updCore l fun c => { c.wg gd x with wait := .none }
  d.finish (lcn l) (.done d [(0x40, 1)])

/-- A core is no waiter any more. -/
def Dev.unregister (d : Dev) (w : QWaiter) : Dev :=
  { d with bq := { d.bq with ctx := (d.bq.ctx.map fun (e : Nat × QCtx) => (e.1, { e.2 with waiters := e.2.waiters.filter (fun x => x != w) })).filter fun (e : Nat × QCtx) => e.2 != QCtx.reset } }

/-- A core's wait at the engine is abandoned with no effect (R96, 15 R491). -/
def Dev.unwait (d : Dev) (l : Nat) : Dev :=
  let d := d.unregister (.core l)
  let d := { d with bq := { d.bq with remote := d.bq.remote.filter fun r => r.l != l } }
  d.updCore l fun c => { c with wait := .none }

/-- A core's wait ends with a result. -/
def Dev.endWait (d : Dev) (l : Nat) (gd : BitVec 5) (x : Word) : Dev := (d.unregister (.core l)).coreDone l gd x

/-- Whether the engine may use a line of core memory for a core: DEAD outside the core's memory and below SEC_MARK (R619, 08
R252), the status with which the line's channel refuses it (for DOMAIN_OFF, which R619 does not name, a DESIGN CHOICE, log
entry 67), POISON, or OK. -/
def Dev.bufLine (d : Dev) (l line : Nat) : Status :=
  if placeOf (line * 64) ≠ .dram ∨ !d.coreMem l (line * 64) ∨ line * 64 < d.secMarkBytes then .dead
  else match d.lineAnswer line with
    | .err st => st
    | _ => if d.poisoned line then .poison else .ok

/-- The engine can have the lines of a buffer from their homes now: none waits at a port or behind another request (11 R354,
12 R387). -/
def Dev.bufReach (d : Dev) : List Nat → Dev × Bool
  | [] => (d, true)
  | x :: t =>
    match d.hubReach 16 x .rdnc with
    | (d, .ok) => d.bufReach t
    | (d, _) => (d, false)

/-- An item leaves its queue for a reader (R89): unlinked, its cells freed, the read counted to the reader's skein. -/
def Dev.takeItem (d : Dev) (n sk : Nat) (it : QItem) : Dev :=
  let d := { d with freeCtr := d.freeCtr + 1 }
  let ls := match d.qOwner n with | some o => (d.q n).itemLines o it | none => []
  let d := d.linkTouch n it.cell it.n false
  let d := d.updQ n fun c => { c with items := c.items.filter fun i => i.own != it.own }
  ((d.freeCells n it.own ls).hubAdd sk 1 1).charge sk (slotsOf it.len)

/-- How an attempt to deliver an item ends. -/
inductive Delivery where
  /-- the read completes with this result -/
  | done (d : Dev) (x : Word)
  /-- the item stays for the next waiter, and the read completes with this result -/
  | left (d : Dev) (x : Word)
  /-- a line of the spill buffer cannot be had yet: nothing is taken, and the reader waits -/
  | wait (d : Dev)

/-- The first line of a spill buffer that cannot be written, in address order (R619); poison does not end a read. -/
def Dev.spillFails (d : Dev) (l : Nat) (lines : List Nat) : Option Status :=
  (lines.map (d.bufLine l)).find? fun s => s != .ok && s != .poison

/-- The selected item of queue `n` goes to a core's slot and spill buffer (R89 to R92, R619). An item that is poisoned stays
where its spill buffer has a DEAD line: the buffer is checked before the read commits (DESIGN CHOICE, log entry 67). -/
def Dev.deliver (d : Dev) (l n member slot : Nat) (spill : List Nat) (it : QItem) : Delivery :=
  let sk := (d.skeinOf l).getD 0
  let lines := if it.len ≤ 256 then [] else spill.take ((it.len - 256 + 63) / 64)
  if 256 < it.len ∧ spill = [] then .left d (qword 0 0 0 member .range)
  else match d.spillFails l lines with
  | some st => .left d (qword 0 0 0 member st)
  | none =>
  if d.itemPoisoned n it then
    .done ((d.takeItem n sk it).countStatus sk .poison) (qword it.seq it.prio it.len member .poison)
  else match d.bufReach lines with
  | (d, false) => .wait d
  | (d, true) =>
    let bs := d.itemBytes n it
    let d := d.takeItem n sk it
    let d := d.updCore l fun k => { k with landing := (List.range 256).foldl (fun m i => mset 0#8 m (slot * 256 + i) (bs.getD i 0#8)) k.landing }
    let d := (List.range lines.length).foldl (fun d i =>
      d.hubWrite 16 (cellsAt (lines.getD i 0 * 64) ((bs.drop (256 + 64 * i)).take 64))) d
    .done d (qword it.seq it.prio it.len member .ok)

/-! ### Streams, as far as the engine sends on them (15 R476) -/

/-- The key of a stream: the direction this package sends, the origin skein and the other system. -/
def streamKey (dir sk sys : Nat) : Nat := (dir * 16 + sk) * 2048 + sys

/-- A stream. -/
def Dev.stream (d : Dev) (k : Nat) : Stream := mget Stream.reset d.hank.streams k

/-- The device with a stream changed. -/
def Dev.updStream (d : Dev) (k : Nat) (f : Stream → Stream) : Dev :=
  { d with hank := { d.hank with streams := mupd Stream.reset d.hank.streams k f } }

/-- A message joins those that wait for a frame of a stream; `tag` is an ITEM's poster, or what a REFUSE keeps beside it. -/
def Dev.hankSayBy (d : Dev) (dir sk sys tag : Nat) (m : HankMsg) : Dev :=
  d.updStream (streamKey dir sk sys) fun s => { s with out := s.out ++ [(m, tag)] }

/-- A message joins those that wait for a frame of a stream. -/
def Dev.hankSay (d : Dev) (dir sk sys : Nat) (m : HankMsg) : Dev := d.hankSayBy dir sk sys 0 m

/-- The QA by which another package names a queue of this one. -/
def Dev.qaOf (d : Dev) (n : Nat) : Nat := d.sysnum * 0x100000 + n

/-- A refusal of an ITEM that came in frame `seq` goes back to its origin and is counted to the queue's owner (04 R147, 15 R493); it
waits with SEQ + 1 beside it, since no acknowledgement of that frame may pass it (15 R484). -/
def Dev.refuse (d : Dev) (sk sys n qa grant off seq : Nat) (st : Status) : Dev :=
  let d := match d.qOwner n with | some o => d.count (Reg.BQ_AT_HANK_REFUSED o.skein) | none => d
  d.hankSayBy 1 sk sys (seq + 1) ⟨.refuse, BitVec.ofNat 8 st.code, BitVec.ofNat 32 qa, BitVec.ofNat 32 grant, BitVec.ofNat 32 off, []⟩

/-- A grant block ends at its destination without the origin's CREL: REVOKE is sent (15 R494). -/
def Dev.revokeGrant (d : Dev) (i : Nat) : Dev :=
  match mget none d.bq.grants i with
  | none => d
  | some g =>
    let d := { d with bq := { d.bq with grants := merase d.bq.grants i } }
    d.hankSay 1 g.skein g.sys ⟨.revoke, 0#8, BitVec.ofNat 32 (d.qaOf g.q), BitVec.ofNat 32 (g.gen * 16384 + i), 0#32, []⟩

/-- The grant blocks of a queue. -/
def Dev.grantsOf (d : Dev) (n : Nat) : List (Nat × Grant) :=
  d.bq.grants.filterMap fun e => match e.2 with | some g => if g.q = n then some (e.1, g) else none | none => none

/-- Every grant block of a queue ends and its cells are put in a state. -/
def Dev.revokeAll (d : Dev) (n : Nat) (st : CellSt) : Dev :=
  (d.grantsOf n).foldl (fun d e => (d.revokeGrant e.1).updQ n fun c => (c.mark e.2.own st).reclaim) d

end Sys2Proof.Machine
end

