-- ==== Sys2Proof/Machine/Endpoint.lean ====
section
/-! DEFINITION. Functions of an endpoint bundle as far as the engine meets them (chapters 04, 14): whose they are, the
writes they issue or hold, MSI-X, dirty-page logging, completion records and channel errors. -/
namespace Sys2Proof.Machine

/-! ### Functions (14 R440 to R442) -/

/-- The key of a function. -/
def fnKey (bd fn : Nat) : Nat := bd * 2048 + fn

/-- The key of a channel. -/
def chanKey (bd fn ch : Nat) : Nat := fnKey bd fn * 8 + ch

/-- A function. -/
def Dev.fn (d : Dev) (k : Nat) : Fn := mget Fn.reset d.fns k

/-- The device with a function changed. -/
def Dev.updFn (d : Dev) (k : Nat) (f : Fn → Fn) : Dev := { d with fns := mupd Fn.reset d.fns k f }

/-- A bundle. -/
def Dev.bun (d : Dev) (b : Nat) : Bundle := mget Bundle.reset d.bundles b

/-- The device with a bundle changed. -/
def Dev.updBun (d : Dev) (b : Nat) (f : Bundle → Bundle) : Dev := { d with bundles := mupd Bundle.reset d.bundles b f }

/-- The skeins that list a bundle, in ascending order, with their VF counts. -/
def Dev.bunSkeins (d : Dev) (b : Nat) : List (Nat × Nat) :=
  match d.img.img with
  | some i => (List.range 16).filterMap fun s => (i.skeins.find? fun c => c.skein == s && c.bundles.testBit b).map fun c => (s, c.vfCount.getD b 0)
  | none => []

/-- TotalVFs of an endpoint bundle (14 R440). -/
def Dev.totalVfs (d : Dev) (b : Nat) : Nat := ((d.bunSkeins b).map (·.2)).sum

/-- The skein of the VF with number `v`, in the blocks of 14 R440. -/
def vfSkein : List (Nat × Nat) → Nat → Option Nat
  | [], _ => none
  | (s, n) :: t, v => if v < n then some s else vfSkein t (v - n)

/-- The skein that owns a function (14 R440). -/
def Dev.fnSkein (d : Dev) (b fn : Nat) : Option Nat :=
  if fn = 0 then (d.bunSkeins b).head?.map (·.1) else vfSkein (d.bunSkeins b) (fn - 1)

/-- The key of a BAR0 register. -/
def barKey (bd fn off : Nat) : Nat := bd * 2 ^ 28 + fn * 2 ^ 17 + off

/-- A BAR0 register; every Reset value of chapters 04 and 14 is 0. -/
def Dev.bar (d : Dev) (k off : Nat) : Reg32 := mget 0#32 d.bars (barKey (k / 2048) (k % 2048) off)

/-- The device with a BAR0 register set. -/
def Dev.setBar (d : Dev) (k off : Nat) (v : Reg32) : Dev :=
  { d with bars := mset 0#32 d.bars (barKey (k / 2048) (k % 2048) off) v }

/-- The device with field [hi:lo] of a BAR0 register set. -/
def Dev.setBarF (d : Dev) (k off hi lo v : Nat) : Dev := d.setBar k off (putField (d.bar k off) hi lo v)

/-! ### Writes to the host (04 R136, R141, 14 R454, R455) -/

/-- Whether a function may issue requests: bus mastering on, not in D3hot, no reset in progress, not in SAFE (16 R522). -/
def Dev.fnOpen (d : Dev) (k : Nat) : Bool :=
  (d.fn k).bme && !(d.bun (k / 2048)).d3hot && !(d.fn k).flr && !d.safe

/-- A write of a function: issued, or held behind those held before it. -/
def Dev.fnIssue (d : Dev) (k : Nat) (w : HostWrite) : Dev :=
  if (d.fn k).flr then d
  else if d.fnOpen k && (d.fn k).held.isEmpty then d.emit (.hostWrite (k / 2048) (k % 2048) w)
  else d.updFn k fun f => { f with held := f.held ++ [w] }

/-- The pages of 4 KiB that `n` bytes from an address touch. -/
def pagesOf (addr n : Nat) : List Nat := (List.range ((addr + n - 1) / 4096 + 1 - addr / 4096)).map fun i => addr / 4096 + i

/-- A logged write of a VF sets the bit of each page in the active bitmap, or MISS (14 R463). The device merges no
updates here: each bit is set at once. -/
def Dev.dlogWrite (d : Dev) (k addr n : Nat) : Dev :=
  let r (off : Nat) : Nat := (d.bar k (0x9500 + off)).toNat
  if !bit (d.bar k 0x951C) 31 then d
  else
    let first := (r 0x10 + r 0x14 * 2 ^ 32) / 4096
    let act := bit (d.bar k 0x9520) 0
    let base := if act then r 0x08 + r 0x0C * 2 ^ 32 else r 0x00 + r 0x04 * 2 ^ 32
    (pagesOf addr n).foldl (fun d p =>
      if first ≤ p ∧ p < first + r 0x18 then
        let i := p - first
        d.fnIssue (k / 2048 * 2048) ⟨base + i / 64 * 8, leBytes 8 (2 ^ (i % 64)), false, true, true⟩
      else d.setBarF k 0x9520 1 1 1) d

/-- A memory write of a function's channels, logged where its VF is logged. -/
def Dev.fnWrite (d : Dev) (k : Nat) (w : HostWrite) : Dev :=
  if w.data = [] then d
  else (if k % 2048 = 0 then id else fun d : Dev => d.dlogWrite k w.addr w.data.length) (d.fnIssue k w)

/-- Held writes issue in their order once the function may issue again (04 R141). -/
def Dev.fnRelease (d : Dev) (k : Nat) : Dev :=
  if d.fnOpen k then
    let h := (d.fn k).held
    h.foldl (fun d w => d.emit (.hostWrite (k / 2048) (k % 2048) w)) (d.updFn k fun f => { f with held := [] })
  else d

/-! ### MSI-X (14 R453) -/

/-- An event of a function signals its MSI-X entry. -/
def Dev.msix (d : Dev) (k v : Nat) : Dev :=
  let f := d.fn k
  let e := mget MsixEntry.reset f.table v
  if !f.msixEn || decide (f.nvec ≤ v) then d
  else if f.fmask || e.masked || decide (e.addr % 4 ≠ 0) then d.updFn k fun f => { f with pba := mset false f.pba v true }
  else d.fnIssue k ⟨e.addr, leBytes 4 e.data.toNat, false, true, false⟩

/-- The pending message of an entry is sent once nothing masks it. -/
def Dev.msixFlush (d : Dev) (k v : Nat) : Dev :=
  let f := d.fn k
  let e := mget MsixEntry.reset f.table v
  if f.msixEn && !f.fmask && !e.masked && decide (e.addr % 4 = 0) && mget false f.pba v && decide (v < f.nvec) then
    (d.updFn k fun f => { f with pba := mset false f.pba v false }).msix k v
  else d

/-! ### Channels (04 R125 to R140) -/

/-- A channel. -/
def Dev.chan (d : Dev) (c : Nat) : Chan := mget Chan.reset (d.fn (c / 8)).chans (c % 8)

/-- The device with a channel changed. -/
def Dev.updChan (d : Dev) (c : Nat) (f : Chan → Chan) : Dev :=
  d.updFn (c / 8) fun x => { x with chans := mupd Chan.reset x.chans (c % 8) f }

/-- A register of a channel's page. -/
def Dev.chReg (d : Dev) (c off : Nat) : Reg32 := d.bar (c / 8) (c % 8 * 0x1000 + off)

/-- The state of a channel: 0 DISABLED, 1 ACTIVE, 2 STOPPING, 3 STOPPED, 4 ERROR, 5 SAFE (04 R126). -/
def Dev.chState (d : Dev) (c : Nat) : Nat := if d.safe then 5 else field (d.chReg c 4) 2 0

/-- The device with a channel's state set. -/
def Dev.setChState (d : Dev) (c st : Nat) : Dev := d.setBarF (c / 8) (c % 8 * 0x1000 + 4) 2 0 st

/-- Ring sizes of the latched BQ_CH_RINGS. -/
def Chan.sqN (c : Chan) : Nat := 2 ^ field c.rings 3 0
def Chan.cqN (c : Chan) : Nat := 2 ^ field c.rings 7 4
def Chan.rxN (c : Chan) : Nat := 2 ^ field c.rings 11 8
def Chan.slotBytes (c : Chan) : Nat := 2 ^ field c.rings 15 12

/-- BQ_CH_HEADS as the positions stand (04 R126). -/
def Dev.chHeads (d : Dev) (c : Nat) : Dev :=
  let x := d.chan c
  d.setBar (c / 8) (c % 8 * 0x1000 + 0x10C) (BitVec.ofNat 32 (x.rxTail % x.rxN * 65536 + x.sqHead % x.sqN))

/-- The descriptors that a channel still works on (04 R140). -/
def Chan.live (c : Chan) : List Desc := c.descs.filter fun x => x.stage != .dropped

/-- Completion entries the channel may still reserve: released by the host and promised to no descriptor (04 R135). -/
def Chan.entries (c : Chan) : Nat := c.cqHead + c.cqN - c.cqNext - c.live.length

/-- A completion record is written, and the channel signals if it is armed (04 R134, R137). -/
def Dev.chRecord (d : Dev) (c kind : Nat) (st : Status) (aged : Bool) (index len data : Nat) : Dev :=
  let x := d.chan c
  let phase := b2n ((x.cqNext / x.cqN) % 2 == 0)
  let bs := leBytes 1 kind ++ leBytes 1 st.code ++ leBytes 1 (phase + 2 * b2n aged) ++ leBytes 1 0 ++ leBytes 2 index ++
    leBytes 2 len ++ leBytes 8 data
  let d := d.fnWrite (c / 8) ⟨x.cqBase + x.cqNext % x.cqN * 16, bs, false, false, false⟩
  let d := d.updChan c fun x => { x with cqNext := x.cqNext + 1 }
  let m := d.chReg c 0x2C
  if x.armed && bit m 31 then
    (d.msix (c / 8) (field m 10 0)).updChan c fun x => { x with armed := false }
  else d

/-- The CHANNEL record that a channel in ERROR owes is written once an entry is free for it (04 R135, R140). -/
def Dev.chOwed (d : Dev) (c : Nat) : Dev :=
  match (d.chan c).owed with
  | none => d
  | some st =>
    if (d.chan c).entries = 0 then d else (d.updChan c fun x => { x with owed := none }).chRecord c 3 st false 0 0 0

/-- Completed descriptors leave the send ring in order, each with its SEND record where one is due (04 R135). Behind a
descriptor given up in ERROR, SQ_HEAD stays at it (04 R126, R140). -/
def Dev.chRetire (d : Dev) (c : Nat) : Nat → Dev
  | 0 => d
  | n + 1 =>
    match (d.chan c).live with
    | [] => d
    | x :: _ =>
      match x.stage with
      | .done st =>
        let d := d.updChan c fun k => { k with descs := k.descs.filter fun y => y.pos != x.pos, sqHead := if (k.descs.filter fun y => decide (y.pos < x.pos)) = [] then x.pos + 1 else k.sqHead }
        let d := if st = .ok ∧ !x.cmplOk then d else d.chRecord c 1 st false (x.pos % (d.chan c).sqN) 0 x.cookie
        (d.chHeads c).chRetire c n
      | _ => d

/-- A descriptor completes with a status (04 R135). -/
def Dev.chDescDone (d : Dev) (c pos : Nat) (st : Status) : Dev :=
  let d := d.updChan c fun x => { x with descs := x.descs.map fun y => if y.pos = pos ∧ y.stage ≠ .dropped then { y with stage := .done st } else y }
  (d.chRetire c ((d.chan c).descs.length + 1)).chOwed c

/-- What a channel in ERROR works on no more: every descriptor that is not at the engine (04 R140). -/
def Desc.giveUp (y : Desc) : Desc :=
  match y.stage with
  | .posted _ | .done _ => y
  | _ => { y with stage := .dropped }

/-- A channel enters ERROR with a status: it stops fetching and draining, a CHANNEL record is written, and the posts at the
engine complete (04 R140). -/
def Dev.chError (d : Dev) (c : Nat) (st : Status) : Dev :=
  let s := d.chState c
  if s = 0 ∨ s = 4 ∨ s = 5 then d
  else
    let d := (d.setChState c 4).setBarF (c / 8) (c % 8 * 0x1000 + 4) 15 8 st.code
    let d := (d.unregister (.drain c)).updChan c fun x => { x with descs := x.descs.map Desc.giveUp, owed := some st }
    ((d.chOwed c).chRetire c ((d.chan c).descs.length + 1)).chOwed c

/-- The skein charged for a channel's work. -/
def Dev.chSkein (d : Dev) (c : Nat) : Nat := (d.fnSkein (c / 8 / 2048) (c / 8 % 2048)).getD 0

/-- The TAG of a channel's posts (03 R78). -/
def chTag (c : Nat) : Nat :=
  0x40000000 + c / 8 / 2048 * 0x1000 + (if c / 8 % 2048 = 0 then 0x800 else c / 8 % 2048 - 1)

/-- The rights field that names a channel's function (03 R105). -/
def chField (c : Nat) : BitVec 16 := BitVec.ofNat 16 (fnField (c / 8 / 2048) (c / 8 % 2048))

/-- Whether a drain can take an item: ACTIVE, bus mastering on, a free slot and a completion entry (04 R138). -/
def Dev.drainReady (d : Dev) (c : Nat) : Bool :=
  let x := d.chan c
  d.chState c == 1 && x.drainEn && d.fnOpen (c / 8) && decide (x.rxTail < x.rxHead) && decide (0 < x.entries)

/-- A drain takes the selected item of its queue (04 R138, R139): slot and RECV record, or a record alone; it then
stands behind every other waiter. -/
def Dev.drainTake (d : Dev) (c n : Nat) (it : QItem) : Dev :=
  let sk := d.chSkein c
  let q := d.q n
  let bs := d.itemBytes n it
  let poison := d.itemPoisoned n it
  let aged := (d.itemFlags q it) % 2 == 1
  let d := d.takeItem n sk it
  let d := d.updQ n fun q => { q with waiters := q.waiters.filter (fun w => w != .drain c) ++ [.drain c] }
  let x := d.chan c
  if poison then (d.countStatus sk .poison).chRecord c 2 .poison false 0xFFFF it.len it.seq
  else if x.slotBytes < it.len then
    (d.count (Reg.BQ_AT_DRAIN_LOST sk)).chRecord c 2 .range aged 0xFFFF it.len it.seq
  else
    let slot := x.rxTail % x.rxN
    let d := d.fnWrite (c / 8) ⟨x.rxBase + slot * x.slotBytes, bs.take it.len, true, false, false⟩
    let d := (d.updChan c fun x => { x with rxTail := x.rxTail + 1 }).chHeads c
    d.chRecord c 2 .ok aged slot it.len it.seq

end Sys2Proof.Machine
end

