-- ==== Sys2Proof/Machine/Queue.lean ====
section
/-! DEFINITION. What happens to queues (chapters 03, 04): posts and their commit, offers to waiters, flushes, death and
disabling of a queue, grants of credit, and remote posts at their origin (15 R490). -/
namespace Sys2Proof.Machine

/-! ### Ends of posts and waits -/

/-- An acknowledgement of a stream's items may have become due (15 R484). -/
def Dev.ackSoon (d : Dev) (sk sys : Nat) : Dev := d.updStream (streamKey 1 sk sys) fun s => { s with ackDue := true }

/-- A post ends with a status and commits nothing: its producer is told (04 R147). -/
def Dev.failPoster (d : Dev) (n : Nat) (p : Poster) (st : Status) : Dev :=
  match p with
  | .core l gd => (d.countStatus ((d.skeinOf l).getD 0) st).coreDone l gd (qstat st)
  | .chan c pos => (d.countStatus (d.chSkein c) st).chDescDone c pos st
  | .hank sk sys grant off seq =>
    ((if st = .state then d.count Reg.BQ_STATE_REJECT else d).refuse sk sys n (d.qaOf n) grant off seq st).ackSoon sk sys
  | .engine sk => d.count (Reg.HNK_SK_REFUSE_LOST sk)
  | .gone _ => d

/-- Every uncommitted post to a queue is discarded with a status (R103, R109). -/
def Dev.discardPosts (d : Dev) (n : Nat) (st : Status) (cs : CellSt) : Dev :=
  let ps := d.bq.posts.filter fun p => p.q == n
  let d := { d with bq := { d.bq with posts := d.bq.posts.filter fun p => p.q != n } }
  ps.foldl (fun d p =>
    let d := d.updQ n fun c => (c.mark p.own cs).reclaim
    let d := if st = .flushed then d.count Reg.BQ_PARTIAL_DISCARD else d
    d.failPoster n p.poster st) d

/-- The member by which a waiter waits on a queue. -/
def QWait.memberOf (w : QWait) (n : Nat) : Nat := ((w.queues.zip w.members).find? (fun (x : Nat × Nat) => x.1 == n)).elim 0 (·.2)

/-- The waits of cores on a queue end with a status (R95), a QWAIT's POISON with the member; of QREAD waiters alone where
`readOnly`. -/
def Dev.endWaiters (d : Dev) (n : Nat) (st : Status) (readOnly : Bool) : Dev :=
  (d.q n).waiters.foldl (fun d w =>
    match w with
    | .drain _ => d
    | .core l =>
      match (d.core l).wait with
      | .queue q =>
        if q.isWait && readOnly then d
        else (d.countStatus ((d.skeinOf l).getD 0) st).endWait l q.gd (qword 0 0 0 (if q.isWait ∧ st = .poison then q.memberOf n else 0) st)
      | _ => d) d

/-- The channels that drain a queue enter ERROR with a status (04 R140). -/
def Dev.errorDrains (d : Dev) (n : Nat) (st : Status) : Dev :=
  (d.q n).waiters.foldl (fun d w => match w with | .drain c => d.chError c st | .core _ => d) d

/-- Credit requests recorded for a queue are answered with a status (15 R492); each STATE counts (00 R19). -/
def Dev.endGrantReqs (d : Dev) (n : Nat) (st : Status) : Dev :=
  let rs := d.bq.grantReqs.filter fun r => r.q == n
  let d := { d with bq := { d.bq with grantReqs := d.bq.grantReqs.filter fun r => r.q != n } }
  rs.foldl (fun d r => (if st = .state then d.count Reg.BQ_STATE_REJECT else d).hankSay 1 r.skein r.sys ⟨.grant, BitVec.ofNat 8 st.code, BitVec.ofNat 32 r.qa, 0#32, 0#32, []⟩) d

/-- Cores whose QCTL FLUSH waits on a queue end with a status. -/
def Dev.endFlushers (d : Dev) (n : Nat) (st : Status) : Dev :=
  d.cores.foldl (fun d e => match e.2.wait with
    | .flush gd q => if q = n then (d.countStatus ((d.skeinOf e.1).getD 0) st).coreDone e.1 gd (qstat st) else d
    | _ => d) d

/-- A queue becomes DEAD (R109): posts and waits end with POISON, drains enter ERROR, grant blocks are revoked. -/
def Dev.qDie (d : Dev) (n : Nat) : Dev :=
  if (d.q n).dead then d
  else
    let d := d.updQ n fun c => { c with dead := true, en := false, flush := false, flushed := false }
    let d := d.discardPosts n .poison .free
    let d := (d.revokeAll n .free).endGrantReqs n .poison
    let d := (d.errorDrains n .poison).endFlushers n .poison
    d.endWaiters n .poison false

/-- The engine reads a queue's context and link array: poison found there makes the queue DEAD (R109). -/
def Dev.qTouch (d : Dev) (n : Nat) : Dev :=
  let d := d.ctxUse n
  match d.qOwner n with
  | some o => if ((d.q n).bookLines o n).any d.poisoned then d.qDie n else d
  | none => d

/-- Lines that reclaim has poisoned: a queue whose context or link array one of them holds becomes DEAD (R109). -/
def Dev.qDieLines (d : Dev) (lines : List Nat) : Dev :=
  lines.foldl (fun d x =>
    match (match d.img.img with | some i => i.skeins.find? fun (c : SkeinCfg) => c.inQmem (x * 64) | none => none) with
    | none => d
    | some o =>
      let i := x - o.qmemBase / 64
      if i < o.qCount then d.qDie (o.qFirst + i)
      else (d.bq.ctx.filter fun (e : Nat × QCtx) => o.qFirst ≤ e.1 && decide (e.1 < o.qFirst + o.qCount) && (e.2.bookLines o e.1).contains x).foldl
        (fun d (e : Nat × QCtx) => d.qDie e.1) d) d

/-! ### Credit at the destination (04 R142) -/

/-- The lowest index below `n` that a map does not list. -/
def freeIndex {α : Type} (m : List (Nat × α)) (n : Nat) : Option Nat := (List.range n).find? fun i => m.all fun e => e.1 != i

/-- The block size for a request of `n` cells. -/
def QCtx.blockSize (c : QCtx) (n : Nat) : Nat := max n (min 64 (2 ^ (c.ringLog2 - 2)))

/-- A grant block is allocated and granted; where the table is full, BUSY. -/
def Dev.grantNow (d : Dev) (r : GrantReq) : Dev :=
  match if d.bq.grants.length < 16384 then freeIndex d.bq.grants (d.bq.grants.length + 1) else none with
  | none => d.hankSay 1 r.skein r.sys ⟨.grant, BitVec.ofNat 8 Status.busy.code, BitVec.ofNat 32 r.qa, 0#32, 0#32, []⟩
  | some i =>
    let g := (d.q r.q).blockSize r.n
    let own := d.bq.nextOwn
    let gen := (mget 0 d.bq.grantGen i + 1) % 2 ^ 18
    let d := { d with bq := { d.bq with nextOwn := own + 1, grantGen := mset 0 d.bq.grantGen i gen, grants := mset none d.bq.grants i (some ⟨gen, r.sys, r.skein, r.q, own, (d.q r.q).wr, g, 0⟩) } }
    let d := d.updQ r.q fun c => c.alloc own g
    d.hankSay 1 r.skein r.sys ⟨.grant, 0#8, BitVec.ofNat 32 r.qa, BitVec.ofNat 32 (gen * 16384 + i), BitVec.ofNat 32 g, []⟩

/-- Recorded requests of a queue are granted as far as its free space allows, in order (04 R142). -/
def Dev.serveGrants (d : Dev) (n : Nat) : Dev :=
  (d.bq.grantReqs.filter fun r => r.q == n).foldl (fun d r =>
    if (d.q n).blockSize r.n ≤ (d.q n).room then
      { d with bq := { d.bq with grantReqs := d.bq.grantReqs.filter fun x => x != r } }.grantNow r
    else d) d

/-! ### Offers and commits (R88, R94) -/

/-- The items of a queue are offered to its waiters in order of registration, up to the first that takes one. -/
def Dev.offer (d : Dev) (n : Nat) : List QWaiter → Dev
  | [] => d
  | w :: ws =>
    match d.select n with
    | none => d
    | some it =>
      match w with
      | .drain c => if d.drainReady c then d.drainTake c n it else d.offer n ws
      | .core l =>
        match (d.core l).wait with
        | .queue q =>
          let m := if q.isWait then q.memberOf n else 0
          match d.deliver l n m q.slot q.spill it with
          | .wait d => d
          | .left d x => (d.endWait l q.gd x).offer n ws
          | .done d x =>
            let sk := (d.skeinOf l).getD 0
            let d := if q.isWait then { d with bq := { d.bq with groups := mupd none d.bq.groups (sk * 4096 + q.group) fun g => g.map fun g => { g with rot := (m + 1) % 64 } } } else d
            (d.endWait l q.gd x).serveGrants n
        | _ => d.offer n ws

/-- The skein a post is charged to (R116). -/
def Dev.posterSkein (d : Dev) (n : Nat) (p : Poster) : Nat :=
  match p with
  | .core l _ => (d.skeinOf l).getD 0
  | .chan c _ => d.chSkein c
  | .hank _ _ _ _ _ => ((d.qOwner n).map (·.skein)).getD 0
  | .engine sk => sk
  | .gone sk => sk

/-- Queues that hold items for waiters offer them again: a waiter's spill buffer, or a drain, may have become ready. -/
def Dev.offerAll (d : Dev) : Dev :=
  (d.bq.ctx.filter fun (e : Nat × QCtx) => e.2.en && !e.2.items.isEmpty && !e.2.waiters.isEmpty).foldl
    (fun d (e : Nat × QCtx) => d.offer e.1 (d.q e.1).waiters) d

/-- Whether a post may commit before those that wait: items from one origin package to one queue commit in the order in which
they came (04 R144). -/
def Dev.commitsNow (d : Dev) (p : QPost) : Bool :=
  match p.poster with
  | .hank _ sys _ _ _ => (d.bq.posts.takeWhile fun x => x.own != p.own).all fun x =>
      match x.poster with
      | .hank _ sys' _ _ _ => x.q != p.q || sys' != sys
      | _ => true
  | _ => true

/-- A post commits: its cells are written and linked, it takes its header fields, its producer learns, and it is
offered (R77, R80, R88, R94). Where its queue's bookkeeping is found poisoned, it is discarded instead (R109). -/
def Dev.commitPost (d : Dev) (own : Nat) : Dev :=
  let d := match d.bq.posts.find? fun p => p.own == own with | some p => d.qTouch p.q | none => d
  match d.bq.posts.find? fun p => p.own == own with
  | none => d
  | some p =>
    if !d.commitsNow p then d else
    let d := { d with bq := { d.bq with posts := d.bq.posts.filter fun x => x.own != own } }
    let c := d.q p.q
    let hank := match p.poster with | .hank _ _ _ _ _ => true | _ => false
    let dma := match p.poster with | .chan _ _ => true | _ => false
    let it : QItem := ⟨own, p.cell, p.n, p.len, p.prio, hank, dma, p.tag, c.seq, d.tick⟩
    let d := d.updQ p.q fun c => { c with items := c.items ++ [it], seq := (c.seq + 1) % 2 ^ 32 }
    let d := match d.qOwner p.q with
      | some o => d.cellsWritten (c.itemLines o it) (it.header (2 * b2n hank + 4 * b2n dma) ++ p.payload)
      | none => d
    let d := d.linkTouch p.q p.cell p.n true
    let d := d.hubAdd (d.posterSkein p.q p.poster) 0 1
    let d := match p.poster with
      | .core l gd => d.coreDone l gd (qword c.seq p.prio p.len 0 .ok)
      | .chan ch pos => d.chDescDone ch pos .ok
      | .hank sk sys _ _ _ => d.ackSoon sk sys
      | .engine sk => d.count (Reg.HNK_SK_REFUSED sk)
      | .gone _ => d
    d.offer p.q (d.q p.q).waiters

/-- LEN or PRIO outside R79, but for the ring's size. -/
def badItem (len prio : Nat) : Bool := decide (len < 16) || decide (4096 < len) || decide (7 < prio)

/-- Steps 4 to 8 of R112 for a post of an item to a queue: the first that fails. -/
def Dev.postFails (d : Dev) (n len prio : Nat) : Option Status :=
  let c := d.q n
  match d.qOwner n with
  | none => some .range
  | some o =>
    if !d.qmemOn o n then some .domainOff
    else if c.dead then some .poison
    else if !c.en then some .state
    else if badItem len prio || decide ((c.cells - 1) * 64 < len) then some .range
    else if c.room < (len + 63) / 64 then some .full
    else none

/-- A post starts: cells are allocated at WR and slots are taken. A post that fails, and one that goes to another package,
takes none at this engine (DESIGN CHOICE, log entry 67). -/
def Dev.startPost (d : Dev) (n len prio tag : Nat) (p : Poster) (payload : List Byte) : Dev :=
  let own := d.bq.nextOwn
  let c := d.q n
  let d := (d.setQ n (c.alloc own ((len + 63) / 64))).charge (d.posterSkein n p) (slotsOf len)
  { d with bq := { d.bq with nextOwn := own + 1, posts := d.bq.posts ++ [⟨own, n, c.wr, (len + 63) / 64, len, prio, tag, p, payload⟩] } }

/-! ### Flushes (R103, R104) -/

/-- FLUSH is set (R103). -/
def Dev.flushSet (d : Dev) (n : Nat) : Dev := d.updQ n fun c => { c with flush := true, flushed := false }

/-- The flush point: items and uncommitted posts are discarded, grant blocks revoked (R103, 04 R145). -/
def Dev.flushPoint (d : Dev) (n : Nat) : Dev :=
  let c := d.q n
  if !c.flush || c.flushed then d
  else
    let d := d.count Reg.BQ_FLUSH_COUNT
    let d := d.updQ n fun c => { (c.items.foldl (fun c it => c.mark it.own .dying) c) with items := [], flushed := true }
    (d.discardPosts n .flushed .dying).revokeAll n .dying

/-- The runs of a ring with their first cells, from RECL. -/
def runsFrom : Nat → List QRun → List (Nat × QRun)
  | _, [] => []
  | c, r :: t => (c, r) :: runsFrom (c + r.n) t

/-- FLUSH clears: the discarded cells are free, and QCTL FLUSH completes (R104). -/
def Dev.flushDone (d : Dev) (n : Nat) : Dev :=
  let c := d.q n
  if !(c.flush && c.flushed) then d
  else
    let cells := ((runsFrom c.recl c.runs).filter fun x => x.2.st == .dying).flatMap fun x => (List.range x.2.n).map fun i => x.1 + i
    let ls := match d.qOwner n with | some o => cells.map (c.cellLine o) | none => []
    let d := ls.foldl Dev.hcForget d
    let runs : List QRun := c.runs.map fun r => if r.st = .dying then { r with st := .free } else r
    let d := d.setQ n ({ c with flush := false, flushed := false, runs := runs } : QCtx).reclaim
    (d.endFlushers n .ok).serveGrants n

/-! ### Remote posts at the origin (15 R477, R490; 04 R143) -/

/-- Whether a Hank port is UP. -/
def Dev.portUp (d : Dev) (p : Nat) : Bool := d.regF (Reg.HNK_PORT_STATUS p) 2 0 == 2

/-- Whether a system is reachable on a port (15 R473). -/
def Dev.reaches (d : Dev) (p sys : Nat) : Bool := d.portUp p && bit (d.reg (Reg.HNK_PEER sys)) p

/-- The port whose role a port carries: its own number unless it stands in (15 R496, R500). -/
def Dev.substOf (d : Dev) (p : Nat) : Nat := d.regF (Reg.HNK_PORT_STATUS p) 18 16

/-- The ALT of a port (02 R54, 15 R496). -/
def Dev.altOf (d : Dev) (p : Nat) : Nat :=
  match d.img.img with
  | some i => (i.hankPorts.getD (d.substOf p) ⟨0, 0xFF⟩).alt
  | none => 0xFF

/-- The Hank ports of a skein, those that stand in for its retired ports included (15 R477, R496). -/
def Dev.skPorts (d : Dev) (sk : Nat) : List Nat :=
  match d.skeinCfg sk with
  | some c => (List.range 8).filter fun p => c.hankPorts.testBit (d.substOf p)
  | none => []

/-- Whether a remote post finds a way: a port or ALT that reaches the destination, no CONFLICT, no hold (15 R490). -/
def Dev.remotePath (d : Dev) (sk sys : Nat) : Bool :=
  (d.skPorts sk).any (fun p => d.reaches p sys || (decide (d.altOf p < 8) && d.reaches (d.altOf p) sys)) &&
    d.regF (Reg.HNK_PEER sys) 9 8 != 3 && (d.stream (streamKey 0 sk sys)).held.isNone

/-- A credit request is sent, where none is outstanding for the queue and the table has room (04 R143). -/
def Dev.askCredit (d : Dev) (sk qa n : Nat) : Dev :=
  if d.bq.creditReqs.any (fun r => r.skein == sk && r.qa == qa) || decide (16384 ≤ d.bq.credits.length + d.bq.creditReqs.length) then d
  else
    let r : CreditReq := ⟨sk, qa, n, false⟩
    let d := { d with bq := { d.bq with creditReqs := d.bq.creditReqs ++ [r] } }
    d.hankSay 0 sk (bitsN qa 30 20) ⟨.creq, 0#8, BitVec.ofNat 32 qa, 0#32, BitVec.ofNat 32 n, []⟩

/-- A skein's blocks for a queue. -/
def Dev.blocksFor (d : Dev) (sk qa : Nat) : List CreditBlock := d.bq.credits.filter fun b => b.skein == sk && b.qa == qa

/-- A block is released: its remainder goes back with CREL (04 R143). -/
def Dev.releaseBlock (d : Dev) (b : CreditBlock) : Dev :=
  let d := { d with bq := { d.bq with credits := d.bq.credits.filter fun x => x != b } }
  if b.next < b.n then
    d.hankSay 0 b.skein (bitsN b.qa 30 20) ⟨.crel, 0#8, BitVec.ofNat 32 b.qa, BitVec.ofNat 32 b.grant, BitVec.ofNat 32 b.next, []⟩
  else d

/-- Blocks whose remainder does not hold an item are released, in order, up to the first that holds it (04 R143). -/
def Dev.dropShort (d : Dev) (n : Nat) : List CreditBlock → Dev
  | [] => d
  | b :: t => if n ≤ b.n - b.next then d else (d.releaseBlock b).dropShort n t

/-- The item of a waiting post is placed in a block where there is credit, and the port accepts it where the stream's
window has room: none while it must wait (15 R490 steps 3 to 5). -/
def Dev.placeRemote (d : Dev) (r : RemotePost) : Dev × Bool :=
  let sk := (d.skeinOf r.l).getD 0
  let sys := bitsN r.qa 30 20
  let n := (r.len + 63) / 64
  let d := d.dropShort n (d.blocksFor sk r.qa)
  match d.blocksFor sk r.qa with
  | [] => (d.askCredit sk r.qa n, false)
  | b :: t =>
    if 1024 ≤ (d.stream (streamKey 0 sk sys)).unacked.length ∨ 0x1000000 ≤ d.hank.replay then (d, false)
    else
      let b' := { b with next := b.next + n, lastUse := d.now }
      let d := { d with bq := { d.bq with credits := (d.bq.credits.map fun x => if x = b then b' else x).filter fun x => x.next < x.n } }
      let hdr := leBytes 2 r.len ++ leBytes 1 r.prio ++ leBytes 13 0
      let d := d.hankSayBy 0 sk sys (sk * 2 ^ 26 + r.l) ⟨.item, 0#8, BitVec.ofNat 32 r.qa, BitVec.ofNat 32 b.grant, BitVec.ofNat 32 b.next, hdr ++ r.payload⟩
      (if t = [] ∧ (b'.n - b'.next) * 2 < b'.n then d.askCredit sk r.qa n else d, true)

end Sys2Proof.Machine
end

