-- ==== Sys2Proof/Machine/Channels.lean ====
section
/-! DEFINITION. DMA channels (chapter 04): commands, doorbells, descriptor and payload reads, posts and their retries,
drains. -/
namespace Sys2Proof.Machine

/-! ### Reaching a function's BAR0 (14 R442, R454, R455, R458) -/

/-- The number of a function's DMA channels. -/
def Dev.channels (d : Dev) (k : Nat) : Nat := (d.fn k).nch

/-- A word of a bundle's configuration space that is not at reset. -/
def Dev.cfgWord (d : Dev) (bd fn off : Nat) : Reg32 := mget 0#32 (d.bun bd).cfg (fn * 4096 + off)

/-- Whether memory requests to a function's BAR0 are answered: an endpoint function that is present, memory space
enabled, not in D3hot, not in reset. -/
def Dev.barOpen (d : Dev) (k : Nat) : Bool :=
  let b := k / 2048
  d.bundleMode b == 2 && !(d.bun b).d3hot && !(d.fn k).flr && !(d.bun b).perst &&
  (if k % 2048 = 0 then bit (d.cfgWord b 0 4) 1 else (d.fn k).vst != .absent && bit (d.cfgWord b 0 0x170) 3)

/-- Whether a channel page is reachable and the function has the channel (R125). -/
def Dev.chOpen (d : Dev) (c : Nat) : Bool := d.barOpen (c / 8) && decide (c % 8 < d.channels (c / 8))

/-! ### Posts (R132, R133, R147) -/

/-- The statuses of R147 for a channel's post to a QA: the first check that fails; `bad` is a LEN, PRIO or reserved
byte out of range. -/
def Dev.chPostFails (d : Dev) (c qa len prio : Nat) (bad : Bool) : Option Status :=
  let n := qa % 2 ^ 20
  if qa.testBit 31 then some .range
  else if !d.qaLocal qa then some .unsupported
  else match d.qOwner n with
    | none => some .range
    | some _ =>
      if (d.q n).pVf ≠ chField c then some .denied
      else match d.postFails n (if bad then 64 else len) (if bad then 0 else prio) with
        | none => if bad then some .range else none
        | some .full => if bad then some .range else some .full
        | some st => some st

/-- A descriptor of a channel changed. -/
def Dev.updDesc (d : Dev) (c pos : Nat) (f : Desc → Desc) : Dev :=
  d.updChan c fun x => { x with descs := x.descs.map fun y => if y.pos = pos then f y else y }

/-- A descriptor's post is handed to the engine, which accepts or refuses it (R133, R147). -/
def Dev.chPost (d : Dev) (c : Nat) (x : Desc) : Dev :=
  let d := if !x.qa.testBit 31 && d.qaLocal x.qa then d.qTouch (x.qa % 2 ^ 20) else d
  match d.chPostFails c x.qa x.len x.prio false with
  | none =>
    let own := d.bq.nextOwn
    (d.startPost (x.qa % 2 ^ 20) x.len x.prio (chTag c) (.chan c x.pos) x.payload).updDesc c x.pos fun y => { y with stage := .posted own }
  | some .full =>
    let d := d.count (Reg.BQ_AT_DMA_FULL (d.chSkein c))
    if field (d.chReg c 0x28) 15 0 = 0 then d.chDescDone c x.pos .full
    else d.updDesc c x.pos fun y => { y with stage := .full, fullSince := if x.stage = .full then y.fullSince else d.now }
  | some st => (d.countStatus (d.chSkein c) st).chDescDone c x.pos st

/-- Whether a ready descriptor may be posted: fewer than 8 posts at the engine, and every earlier descriptor of the same
queue completed (R132). -/
def Chan.mayPost (x : Chan) (y : Desc) : Bool :=
  decide ((x.descs.filter fun z => match z.stage with | .posted _ => true | _ => false).length < 8) &&
  (x.descs.filter fun z => decide (z.pos < y.pos)).all fun z =>
    match z.stage with
    | .fetch => false
    | .done _ => true
    | _ => z.qa % 2 ^ 20 != y.qa % 2 ^ 20

/-- Ready descriptors go to the engine (R132). -/
def Dev.chPosts (d : Dev) (c : Nat) : Nat → Dev
  | 0 => d
  | n + 1 =>
    let s := d.chState c
    if s ≠ 1 ∧ s ≠ 2 then d
    else match (d.chan c).descs.find? fun y => y.stage == .ready && (d.chan c).mayPost y with
      | none => d
      | some y => (d.chPost c y).chPosts c n

/-- The descriptors fetched and not completed (R132). -/
def Chan.inWork (x : Chan) : Nat := (x.descs.filter fun y => match y.stage with | .done _ => false | _ => true).length

/-- Descriptor reads are issued while there is work, room and a record entry to reserve (R131, R132, R135). -/
def Dev.chFetches (d : Dev) (c : Nat) : Nat → Dev
  | 0 => d
  | n + 1 =>
    let x := d.chan c
    if d.chState c = 1 ∧ d.fnOpen (c / 8) ∧ x.sqFetch < x.sqTail ∧ x.inWork < 16 ∧ 0 < x.entries then
      let y : Desc := ⟨x.sqFetch, .fetch, true, d.now, 0, 0, false, 0, 0, 0, [], 0⟩
      let d := d.updChan c fun x => { x with sqFetch := x.sqFetch + 1, descs := x.descs ++ [y] }
      (d.emit (.hostRead (c / 8 / 2048) (c / 8 % 2048) (x.sqBase + x.sqFetch % x.sqN * 32) 32)).chFetches c n
    else d

/-- Payload reads are issued (R131). -/
def Dev.chPayloads (d : Dev) (c : Nat) : Dev :=
  let s := d.chState c
  if (s ≠ 1 ∧ s ≠ 2) ∨ !d.fnOpen (c / 8) then d
  else (d.chan c).descs.foldl (fun d y =>
    if y.stage = .payload ∧ !y.issued then
      (d.updDesc c y.pos fun y => { y with issued := true, at_ := d.now }).emit (.hostRead (c / 8 / 2048) (c / 8 % 2048) y.addr (y.len - 16))
    else d) d

/-- A channel goes on with its send ring as far as it can. -/
def Dev.chPump (d : Dev) (c : Nat) : Dev := ((d.chFetches c 16).chPayloads c).chPosts c 16

/-- The channels that exist, by key. -/
def Dev.chanKeys (d : Dev) : List Nat := d.fns.flatMap fun e => e.2.chans.map fun x => e.1 * 8 + x.1

/-- Every channel goes on as far as it can. -/
def Dev.pumpAll (d : Dev) : Dev := d.chanKeys.foldl (fun d c => d.chPump c) d

/-! ### Commands (R127, R128) -/

/-- The result of a channel command; a STATE result is counted. -/
def Dev.chResult (d : Dev) (c : Nat) (st : Status) : Dev :=
  (if st = .state then d.count Reg.BQ_STATE_REJECT else d).setBarF (c / 8) (c % 8 * 0x1000 + 4) 31 24 st.code

/-- A command of a channel by its table of R127: `ok` says in which state it is performed. -/
def Dev.chCommand (d : Dev) (c : Nat) (ok : Nat → Bool) (f : Dev → Dev) : Dev :=
  if !d.chOpen c then d
  else
    let s := d.chState c
    if s = 5 then d.chResult c .halted
    else if ok s then f d
    else if s = 2 then d.chResult c .busy
    else d.chResult c .state

/-- A 64-bit base of a channel's page. -/
def Dev.chBase (d : Dev) (c off : Nat) : Nat := (d.chReg c off).toNat + (d.chReg c (off + 4)).toNat * 2 ^ 32

/-- Whether the ring sizes of BQ_CH_RINGS lie in their ranges (R126). -/
def ringsOk (r : Reg32) : Bool :=
  4 ≤ field r 3 0 && 4 ≤ field r 7 4 && 4 ≤ field r 11 8 && field r 11 8 ≤ 12 && 8 ≤ field r 15 12 && field r 15 12 ≤ 12

/-- The checks of ENABLE in the order of R128. -/
def Dev.enableFails (d : Dev) (c : Nat) : Option Status :=
  let qa := (d.chReg c 0x24).toNat
  let drain := bit (d.chReg c 0) 7
  if !ringsOk (d.chReg c 0x20) || decide (d.chBase c 0x08 % 4096 ≠ 0) || decide (d.chBase c 0x10 % 4096 ≠ 0) ||
      decide (d.chBase c 0x18 % 4096 ≠ 0) then some .range
  else if drain && (qa.testBit 31 || !d.qaLocal qa || (d.qOwner (qa % 2 ^ 20)).isNone) then some .range
  else if drain && (d.q (qa % 2 ^ 20)).cVf != chField c then some .denied
  else none

/-- ENABLE (R128). -/
def Dev.chEnable (d : Dev) (c : Nat) : Dev :=
  match d.enableFails c with
  | some st => d.chResult c st
  | none =>
    let qa := (d.chReg c 0x24).toNat
    let drain := bit (d.chReg c 0) 7
    let x : Chan := { Chan.reset with sqBase := d.chBase c 0x08, cqBase := d.chBase c 0x10, rxBase := d.chBase c 0x18, rings := d.chReg c 0x20, drainQa := qa, drainEn := drain, armed := true }
    let d := (((d.updChan c fun _ => x).setChState c 1).chHeads c).setBarF (c / 8) (c % 8 * 0x1000 + 4) 15 8 0
    let d := if drain then (d.updQ (qa % 2 ^ 20) fun q => { q with waiters := q.waiters ++ [.drain c] }).qTouch (qa % 2 ^ 20) else d
    d.chResult c .ok

/-- A STOPPING channel whose work is done enters STOPPED (R127). -/
def execChStopped (bd : Fin 8) (fn : Fin 1025) (ch : Fin 8) (s : State) : Host.Outcome State Fault Refusal :=
  onDev s fun d =>
    let c := chanKey bd.val fn.val ch.val
    if d.chState c = 2 ∧ (d.chan c).descs = [] then d.setChState c 3 else d

/-! ### Doorbells (R126, R127, R135, R137) -/

/-- The position at or after `base` whose ring index is `v`. -/
def posAt (base n v : Nat) : Nat := base + (v + n - base % n) % n

/-- A new tail is acted on. -/
def Dev.sqTail (d : Dev) (c v : Nat) : Dev :=
  (d.updChan c fun x => { x with sqTail := max x.sqFetch (posAt x.sqHead x.sqN v) }).chPump c

/-- A new receive head is acted on. -/
def Dev.rxHead (d : Dev) (c v : Nat) : Dev := d.updChan c fun x => { x with rxHead := posAt x.rxTail x.rxN v }

/-- ARM: the channel is armed, and signals at once where records lie beyond the new head (R137). -/
def Dev.chArm (d : Dev) (c v : Nat) : Dev :=
  if !v.testBit 31 then d
  else
    let x := d.chan c
    let m := d.chReg c 0x2C
    if posAt x.cqHead x.cqN (v % 2 ^ 16) < x.cqNext ∧ bit m 31 then
      (d.msix (c / 8) (field m 10 0)).updChan c fun x => { x with armed := false }
    else d.updChan c fun x => { x with armed := true }

/-- A new completion head is acted on (R135, R137). -/
def Dev.cqHead (d : Dev) (c v : Nat) : Dev :=
  let d := d.updChan c fun x => { x with cqHead := min x.cqNext (posAt x.cqHead x.cqN (v % 2 ^ 16)) }
  ((d.chArm c (v / 2 ^ 31 * 2 ^ 31 + (d.chan c).cqHead % (d.chan c).cqN)).chOwed c).chPump c

/-- A doorbell by the state of its channel: acted on, recorded, or ignored; one that breaks the index rule puts the
channel in ERROR (R126, R127). -/
def Dev.doorbellCh (d : Dev) (c n v : Nat) (act rec : Dev → Dev) : Dev :=
  if !d.chOpen c then d
  else
    let s := d.chState c
    if s = 0 ∨ s = 5 then d
    else if n ≤ v % 2 ^ 16 then d.chError c .range
    else if s = 1 then act d
    else rec d

/-- A write of BQ_CH_SQ_DB to a channel (R126, R127). -/
def Dev.chSqDb (d : Dev) (c : Nat) (v : Reg32) : Dev :=
  let i := v.toNat % 2 ^ 16
  d.doorbellCh c (d.chan c).sqN i (fun d => d.sqTail c i) fun d => d.updChan c fun x => { x with recSq := some i }

/-- BQ_CH_SQ_DB (R126). -/
def execBqChSqDb (bd : Fin 8) (fn : Fin 1025) (ch : Fin 8) (v : BitVec 32) (s : State) : Host.Outcome State Fault Refusal :=
  onDev s fun d => d.chSqDb (chanKey bd.val fn.val ch.val) v

/-- A write of BQ_CH_RX_DB to a channel (R126, R127). -/
def Dev.chRxDb (d : Dev) (c : Nat) (v : Reg32) : Dev :=
  let i := v.toNat % 2 ^ 16
  d.doorbellCh c (d.chan c).rxN i (fun d => d.rxHead c i) fun d => d.updChan c fun x => { x with recRx := some i }

/-- BQ_CH_RX_DB (R126). -/
def execBqChRxDb (bd : Fin 8) (fn : Fin 1025) (ch : Fin 8) (v : BitVec 32) (s : State) : Host.Outcome State Fault Refusal :=
  onDev s fun d => d.chRxDb (chanKey bd.val fn.val ch.val) v

/-- A write of BQ_CH_CQ_DB to a channel: a head that is only recorded does not keep ARM from arming (R126, R127, R137). -/
def Dev.chCqDb (d : Dev) (c : Nat) (v : Reg32) : Dev :=
  d.doorbellCh c (d.chan c).cqN v.toNat (fun d => d.cqHead c v.toNat) fun d =>
    (d.updChan c fun x => { x with recCq := some (v.toNat % 2 ^ 16) }).chArm c v.toNat

/-- BQ_CH_CQ_DB (R126, R137). -/
def execBqChCqDb (bd : Fin 8) (fn : Fin 1025) (ch : Fin 8) (v : BitVec 32) (s : State) : Host.Outcome State Fault Refusal :=
  onDev s fun d => d.chCqDb (chanKey bd.val fn.val ch.val) v

/-- A command of BQ_CH_CTRL: 1 ENABLE; 2 STOP; 3 RESUME, after which the recorded doorbells are acted on; 4 DISABLE, which
clears the ring indices and discards recorded doorbells; 5 to 7 give RANGE (R126, R127). -/
def Dev.chDo (d : Dev) (c cmd : Nat) : Dev :=
  match cmd with
  | 0 => d
  | 1 => d.chCommand c (fun s => s == 0) fun d => d.chEnable c
  | 2 => d.chCommand c (fun s => s == 1) fun d => (d.setChState c 2).chResult c .ok
  | 3 => d.chCommand c (fun s => s == 3) fun d =>
    let x := d.chan c
    let d := (d.updChan c fun x => { x with recSq := none, recRx := none, recCq := none }).setChState c 1
    let d := match x.recRx with | some v => d.rxHead c v | none => d
    let d := match x.recCq with | some v => d.cqHead c v | none => d
    let d := match x.recSq with | some v => d.sqTail c v | none => d
    (d.chPump c).chResult c .ok
  | 4 => d.chCommand c (fun s => s == 3 || s == 4) fun d =>
    let d := (d.unregister (.drain c)).updChan c fun _ => Chan.reset
    ((d.setChState c 0).chHeads c).chResult c .ok
  | _ => if !d.chOpen c then d else d.chResult c (if d.safe then .halted else .range)

/-- CH_ENABLE (R127, R128). -/
def execChEnable (bd : Fin 8) (fn : Fin 1025) (ch : Fin 8) (s : State) : Host.Outcome State Fault Refusal :=
  onDev s fun d => d.chDo (chanKey bd.val fn.val ch.val) 1

/-- CH_STOP (R127). -/
def execChStop (bd : Fin 8) (fn : Fin 1025) (ch : Fin 8) (s : State) : Host.Outcome State Fault Refusal :=
  onDev s fun d => d.chDo (chanKey bd.val fn.val ch.val) 2

/-- CH_RESUME (R127). -/
def execChResume (bd : Fin 8) (fn : Fin 1025) (ch : Fin 8) (s : State) : Host.Outcome State Fault Refusal :=
  onDev s fun d => d.chDo (chanKey bd.val fn.val ch.val) 3

/-- CH_DISABLE (R127). -/
def execChDisable (bd : Fin 8) (fn : Fin 1025) (ch : Fin 8) (s : State) : Host.Outcome State Fault Refusal :=
  onDev s fun d => d.chDo (chanKey bd.val fn.val ch.val) 4

/-! ### Reads of descriptors and payloads (R130, R131, R140, R620) -/

/-- The descriptor at a send-ring index. -/
def Dev.descAt (d : Dev) (c index : Nat) : Option Desc := (d.chan c).descs.find? fun y => y.pos % (d.chan c).sqN == index

/-- The status of a read that did not succeed (R620). -/
def readFailure : Completion → Option Status
  | .ok _ => none
  | .poisoned => some .poison
  | .ur | .ca | .retry => some .denied

/-- Whether an item that the engine would otherwise take is too long for its queue's ring (03 R79, R147). -/
def Dev.tooLong (d : Dev) (c qa len prio : Nat) : Bool :=
  (d.qOwner (qa % 2 ^ 20)).isSome && decide (((d.q (qa % 2 ^ 20)).cells - 1) * 64 < len) && d.chPostFails c qa len prio false == some .range

/-- A descriptor arrives: its fields are checked, and its payload read is issued (R131, R147). -/
def Dev.descFetched (d : Dev) (c : Nat) (y : Desc) (bs : List Byte) : Dev :=
  let len := leAt bs 0 2
  let prio := leAt bs 2 1
  let flags := leAt bs 3 1
  let qa := leAt bs 4 4
  let bad := badItem len prio || decide (2 ≤ flags) || decide (leAt bs 0x18 8 ≠ 0) || d.tooLong c qa len prio
  let d := d.updDesc c y.pos fun y =>
    { y with len := len, prio := prio, cmplOk := flags.testBit 0, qa := qa, addr := leAt bs 8 8, cookie := leAt bs 0x10 8, issued := false, stage := if len ≤ 16 then .ready else .payload }
  if bad then
    let d := if !qa.testBit 31 && d.qaLocal qa then d.qTouch (qa % 2 ^ 20) else d
    let st := (d.chPostFails c qa 64 0 true).getD .range
    (d.countStatus (d.chSkein c) st).chDescDone c y.pos st
  else d

/-- DESCRIPTOR_FETCH_DONE (R131, R140). -/
def execDescriptorFetchDone (bd : Fin 8) (fn : Fin 1025) (ch : Fin 8) (index : Nat) (done : Completion) (s : State) : Host.Outcome State Fault Refusal :=
  onDev s fun d =>
    let c := chanKey bd.val fn.val ch.val
    match d.descAt c index with
    | none => d
    | some y =>
      if y.stage ≠ .fetch ∨ !(d.chState c == 1 || d.chState c == 2) then d
      else match done with
        | .ok bs => (d.descFetched c y bs).chPump c
        | _ => d.chError c ((readFailure done).getD .denied)

/-- PAYLOAD_FETCH_DONE (R131, R147). -/
def execPayloadFetchDone (bd : Fin 8) (fn : Fin 1025) (ch : Fin 8) (index : Nat) (done : Completion) (s : State) : Host.Outcome State Fault Refusal :=
  onDev s fun d =>
    let c := chanKey bd.val fn.val ch.val
    match d.descAt c index with
    | none => d
    | some y =>
      if y.stage ≠ .payload ∨ !y.issued ∨ !(d.chState c == 1 || d.chState c == 2) then d
      else match done with
        | .ok bs => (d.updDesc c y.pos fun y => { y with payload := bytesAt bs 0 (y.len - 16), stage := .ready }).chPump c
        | _ =>
          let st := (readFailure done).getD .denied
          ((d.countStatus (d.chSkein c) st).chDescDone c y.pos st).chPump c

/-- DMA_READ_TIMEOUT: none while the PF's Completion Timeout Disable is set (R620). -/
def execDmaReadTimeout (bd : Fin 8) (fn : Fin 1025) (ch : Fin 8) (index : Nat) (s : State) : Host.Outcome State Fault Refusal :=
  onDev s fun d =>
    let c := chanKey bd.val fn.val ch.val
    match d.descAt c index with
    | none => d
    | some y =>
      if (d.bun bd.val).ctoOff || !(d.chState c == 1 || d.chState c == 2) then d
      else if y.stage = .fetch then d.chError c .timeout
      else if y.stage = .payload ∧ y.issued then (d.chDescDone c y.pos .timeout).chPump c
      else d

/-- DMA_POST_RETRY: a post refused with FULL is tried again where the channel may post (R132, R133). -/
def execDmaPostRetry (bd : Fin 8) (fn : Fin 1025) (ch : Fin 8) (index : Nat) (s : State) : Host.Outcome State Fault Refusal :=
  onDev s fun d =>
    let c := chanKey bd.val fn.val ch.val
    match d.descAt c index with
    | none => d
    | some y => if y.stage = .full ∧ (d.chan c).mayPost y ∧ (d.chState c = 1 ∨ d.chState c = 2) then (d.chPost c y).chPump c else d

/-- DMA_FULL_LIMIT_EXPIRE: FULL_LIMIT has passed since the first FULL (R133). -/
def execDmaFullLimitExpire (bd : Fin 8) (fn : Fin 1025) (ch : Fin 8) (index : Nat) (s : State) : Host.Outcome State Fault Refusal :=
  onDev s fun d =>
    let c := chanKey bd.val fn.val ch.val
    match d.descAt c index with
    | none => d
    | some y =>
      if y.stage = .full then
        let d := { d with now := max d.now (y.fullSince + field (d.chReg c 0x28) 15 0 * 65536) }
        (d.chDescDone c y.pos .full).chPump c
      else d

/-- DRAIN_TAKE: a registered drain that meets the three conditions takes the selected item (R138). -/
def execDrainTake (bd : Fin 8) (fn : Fin 1025) (ch : Fin 8) (s : State) : Host.Outcome State Fault Refusal :=
  onDev s fun d =>
    let c := chanKey bd.val fn.val ch.val
    let n := (d.chan c).drainQa % 2 ^ 20
    if !d.drainReady c || !(d.q n).waiters.contains (.drain c) then d
    else
      let d := d.qTouch n
      match d.select n with
      | none => d
      | some it => if (d.q n).en then ((d.drainTake c n it).serveGrants n).chPump c else d

end Sys2Proof.Machine
end

