-- ==== Sys2Proof/Machine/QueueInstr.lean ====
section
/-! DEFINITION. The queue instructions and the events of the queue engine (chapter 03): QPOST, QPOSTL, QREAD, QTRY,
QWAIT, the QCTL commands, commit, wait limits and cancels, flush points and pipeline retirement; and the interrupt of
a core, which may abandon a wait (08 R264). -/
namespace Sys2Proof.Machine

/-! ### Buffers in core memory (R86, R90, R112) -/

/-- The first address of a buffer in each page it touches. -/
def pageVas (va : Word) (n : Nat) : List Word :=
  (List.range ((va.toNat % 4096 + n + 4095) / 4096)).map fun i => if i = 0 then va else (va &&& ~~~0xFFF#64) + BitVec.ofNat 64 (4096 * i)

/-- Translation and permission of each page of a buffer, in order. -/
def Dev.xlPages (d : Dev) (l : Nat) (k : AccessKind) : List Word → Dev × Except Stop (List Xlat)
  | [] => (d, .ok [])
  | va :: t =>
    match d.translate l va k false with
    | (d, .error e) => (d, .error e)
    | (d, .ok x) =>
      match d.xlPages l k t with
      | (d, .error e) => (d, .error e)
      | (d, .ok xs) => (d, .ok (x :: xs))

/-- A queue instruction with its buffer's pages: where it retires or is issued, their A and D bits are set before any of its
accesses (09 R289). -/
def Dev.withAds (d : Dev) (l : Nat) (xs : List Xlat) (f : Dev → CoreOut) : CoreOut :=
  if xs.all fun x => x.ad.isNone then f d
  else if (f d).issues l then f (xs.foldl (fun d x => d.applyAd l x.ad) d) else f d

/-- A page that may hold no queue buffer: SOURCE_TYPE (R108). -/
def Xlat.notBuffer (x : Xlat) : Bool := x.mt == .device || placeOf x.pa == .landing

/-- The physical address of byte `i` of a buffer. -/
def bufPa (va : Word) (xs : List Xlat) (i : Nat) : Nat :=
  let o := va.toNat % 4096 + i
  match xs[o / 4096]? with
  | some x => x.pa / 4096 * 4096 + o % 4096
  | none => 0

/-- The lines of a buffer, in order. -/
def bufLines (va : Word) (xs : List Xlat) (n : Nat) : List Nat :=
  (List.range ((va.toNat % 64 + n + 63) / 64)).map fun j => bufPa va xs (j * 64 - va.toNat % 64) / 64

/-- The bytes of a buffer. -/
def Dev.bufBytes (d : Dev) (va : Word) (xs : List Xlat) (n : Nat) : List Byte := (List.range n).map fun i => d.byte (bufPa va xs i)

/-- The first line of a buffer, in address order, that the engine may not read, and why (R619; that the first decides where
lines fail differently is a DESIGN CHOICE, log entry 67). -/
def Dev.bufFails (d : Dev) (l : Nat) (lines : List Nat) : Option Status :=
  (lines.map (d.bufLine l)).find? fun s => s != .ok

/-- The engine reads the lines of a buffer as the Bobbin agent (11 R356). -/
def Dev.bufRead (d : Dev) (lines : List Nat) : Dev := lines.foldl (fun d x => d.hubRead 16 x) d

/-- Whether the engine can read a line of a buffer. -/
def Dev.headReadable (d : Dev) (l line : Nat) : Bool := d.bufLine l line == .ok

/-- A queue instruction ends at once with a result word. -/
def Dev.qEnd (d : Dev) (l : Nat) (gd : BitVec 5) (x : Word) : CoreOut := .done (d.updCore l fun c => c.wg gd x) [(0x40, 1)]

/-- A queue instruction ends at once with a failure. -/
def Dev.qFail (d : Dev) (l : Nat) (gd : BitVec 5) (st : Status) : CoreOut :=
  (d.countStatus ((d.skeinOf l).getD 0) st).qEnd l gd (qstat st)

/-- The lines of a buffer are had and read, and `k` goes on; or the instruction fails, or waits for a line (R112 step 9, R619). -/
def Dev.bufTake (d : Dev) (l : Nat) (gd : BitVec 5) (lines : List Nat) (k : Dev → CoreOut) : CoreOut :=
  match d.bufFails l lines with
  | some st => d.qFail l gd st
  | none =>
    match d.bufReach lines with
    | (d, false) => .stay d
    | (d, true) => k (d.bufRead lines)

/-- A queue fault of an instruction that names a QA. -/
def Dev.qFault (d : Dev) (l sub qa : Nat) : CoreOut :=
  let r := d.queueFault l sub 0 qa (BitVec.ofNat 64 qa)
  .exc r.1 r.2

/-! ### Posting (R85 to R88) -/

/-- A remote post once it has passed R112: it waits for credit and for the port; with no credit wait limit it ends with FULL
where no block holds it, the remainders released (15 R490, 04 R143). -/
def Dev.qpostRemote (d : Dev) (l : Nat) (gd : BitVec 5) (qa len prio : Nat) (payload : List Byte) (lines : List Nat) : CoreOut :=
  let sk := (d.skeinOf l).getD 0
  let n := (len + 63) / 64
  let dry (d : Dev) : Bool := (d.blocksFor sk qa).all fun b => b.n - b.next < n
  if d.regF (Reg.HNK_SK_CFG sk) 15 0 = 0 ∧ dry d then
    ((d.dropShort n (d.blocksFor sk qa)).askCredit sk qa n).qFail l gd .full
  else d.bufTake l gd lines fun d =>
    let d := if d.blocksFor sk qa = [] then d.askCredit sk qa n else d
    .stay ({ d with bq := { d.bq with remote := d.bq.remote ++ [(⟨l, gd, qa, len, prio, payload, d.now⟩ : RemotePost)] } }.updCore l fun c => { c with wait := .remote })

/-- A post of a core once its item's header is read: the checks of R112 from step 2 on. `hdr` is LEN, PRIO and the payload; where
the item's first line cannot be read it is none, and the steps before step 9 take LEN 64 and PRIO 0 (DESIGN CHOICE, log entry
67). `lines` are the item's lines in memory; `maxLen` bounds LEN. -/
def Dev.qpost (d : Dev) (l : Nat) (gd : BitVec 5) (qa maxLen : Nat) (lines : List Nat)
    (hdr : Option (Nat × Nat × List Byte)) : CoreOut :=
  let sk := (d.skeinOf l).getD 0
  let n := qa % 2 ^ 20
  let (len, prio, payload) := hdr.getD (64, 0, [])
  if d.bqSafe then d.qFail l gd .halted
  else if qa.testBit 31 then d.qFault l 1 qa
  else if !d.qaLocal qa then
    if (match d.skeinCfg sk with | some c => c.hankPorts | none => 0) = 0 then d.qFault l 5 qa
    else if badItem len prio ∨ maxLen < len then d.qFail l gd .range
    else if !d.remotePath sk (bitsN qa 30 20) then (d.count (Reg.HNK_SK_DEAD sk)).qFail l gd .dead
    else d.qpostRemote l gd qa len prio payload lines
  else match d.qOwner n with
    | none => d.qFault l 3 qa
    | some o =>
      if !d.mayPost sk n then d.qFault l 2 qa
      else if d.qmemOn o n && d.qmemWaits o n then .stay d
      else
        let d := d.qTouch n
        let rangeNow : Bool := match d.postFails n 64 0 with | none => decide (maxLen < len) | some .full => decide (maxLen < len) | some _ => false
        match (if rangeNow then some .range else d.postFails n len prio) with
        | some st => d.qFail l gd st
        | none =>
          d.bufTake l gd lines fun d =>
            let own := d.bq.nextOwn
            .stay ((d.startPost n len prio (sk * 2 ^ 26 + l) (.core l gd) payload).updCore l fun c => { c with wait := .post gd own })

/-- QPOST (R86): alignment, the header's page, then every byte of the item; the post follows every earlier store (R87). -/
def execQpost (l : Fin 384) (gd ga gb : BitVec 5) (s : State) : Host.Outcome State Fault Refusal :=
  runInstr l s fun d =>
    let c := d.core l.val
    let va := c.rg gb
    let qa := (c.rg ga).toNat % 2 ^ 32
    if va.toNat % 16 ≠ 0 then .exc d ⟨0x03, 0, 0, va⟩
    else match d.xlPages l.val .load [va] with
      | (d, .error e) => d.stop l.val e
      | (d, .ok xs) =>
        if xs.any Xlat.notBuffer then d.qFault l.val 8 qa
        else
          let r := d.drained l.val
          if !r.2 then .drains r.1
          else
            let d := r.1
            let readable := d.headReadable l.val (bufPa va xs 0 / 64)
            let h := d.bufBytes va xs 16
            let len := if readable then leAt h 0 2 else 16
            match d.xlPages l.val .load (pageVas va (max 16 len)) with
            | (d, .error e) => d.stop l.val e
            | (d, .ok xs) =>
              if xs.any Xlat.notBuffer then d.qFault l.val 8 qa
              else
                d.withAds l.val xs fun d =>
                  d.qpost l.val gd qa 4096 (bufLines va xs (max 16 len))
                    (if readable then some (len, leAt h 2 1, (d.bufBytes va xs len).drop 16) else none)

/-- QPOSTL (R86): the item in a landing slot, of at most 256 bytes. -/
def execQpostl (l : Fin 384) (gd ga : BitVec 5) (slot : BitVec 3) (s : State) : Host.Outcome State Fault Refusal :=
  runInstr l s fun d =>
    let r := d.drained l.val
    if !r.2 then .drains r.1
    else
      let d := r.1
      let c := d.core l.val
      let bs := (List.range 256).map fun i => c.landByte (slot.toNat * 256 + i)
      let len := leAt bs 0 2
      d.qpost l.val gd ((c.rg ga).toNat % 2 ^ 32) 256 [] (some (len, leAt bs 2 1, (bs.take len).drop 16))

/-- An item's cells are written and linked (R88). -/
def execItemCommit (id : Nat) (s : State) : Host.Outcome State Fault Refusal := onDev s fun d => (d.commitPost id).pumpAll

/-- The port accepts the item of a core's remote post (15 R490 step 5). -/
def execHankItemAccept (l : Fin 384) (s : State) : Host.Outcome State Fault Refusal :=
  onDev s fun d =>
    match d.bq.remote.find? fun r => r.l == l.val with
    | none => d
    | some r =>
      match d.placeRemote r with
      | (d, false) => d
      | (d, true) =>
        let d := { d with bq := { d.bq with remote := d.bq.remote.filter fun x => x.l != l.val } }
        d.coreDone l.val r.gd (qstat .ok)

/-- The credit wait limit of a remote post passes: FULL (15 R490). -/
def execCreditWaitExpire (l : Fin 384) (s : State) : Host.Outcome State Fault Refusal :=
  onDev s fun d =>
    match d.bq.remote.find? fun r => r.l == l.val with
    | none => d
    | some r =>
      let sk := (d.skeinOf l.val).getD 0
      let d := d.timeTo (r.since + d.regF (Reg.HNK_SK_CFG sk) 15 0 * 65536)
      let d := { d with bq := { d.bq with remote := d.bq.remote.filter fun x => x.l != l.val } }
      d.coreDone l.val r.gd (qstat .full)

/-! ### Reading (R89 to R99) -/

/-- The wait limit in ns of a limit in units of 65,536 ns; none for 0 (R95). -/
def waitNs (u : Nat) : Option Nat := if u = 0 then none else some (u * 65536)

/-- A core registers as a waiter and blocks (R93). -/
def Dev.block (d : Dev) (l : Nat) (w : QWait) : CoreOut :=
  let d := w.queues.foldl (fun d n => d.updQ n fun c => { c with waiters := c.waiters ++ [.core l] }) d
  .stay (d.updCore l fun c => { c with wait := .queue w })

/-- The pages of a spill buffer, with the alignment and permission checks made before issue (R86, R90); none where there is no
buffer. -/
def Dev.spillPages (d : Dev) (l : Nat) (va : Word) : Dev × Except Stop (List Xlat) :=
  if va = 0#64 then (d, .ok [])
  else if va.toNat % 64 ≠ 0 then (d, .error (.exc ⟨0x03, 0, 0, va⟩))
  else d.xlPages l .store (pageVas va 3840)

/-- The lines of a spill buffer. -/
def spillLines (va : Word) (xs : List Xlat) : List Nat := if va = 0#64 then [] else bufLines va xs 3840

/-- QREAD and QTRY from step 2 of R112 on (R89, R93). -/
def Dev.qreadAt (d : Dev) (l : Nat) (gd : BitVec 5) (qa slot : Nat) (spill : List Nat) (blocking : Bool) : CoreOut :=
  let n := qa % 2 ^ 20
  let sk := (d.skeinOf l).getD 0
  if d.bqSafe then d.qFail l gd .halted
  else if qa.testBit 31 then d.qFault l 1 qa
  else if !d.qaLocal qa then d.qFault l 4 qa
  else match d.qOwner n with
    | none => d.qFault l 3 qa
    | some o =>
      if !d.mayQread l sk n then d.qFault l 2 qa
      else if d.qmemOn o n && d.qmemWaits o n then .stay d
      else
        let d := d.qTouch n
        let q := d.q n
        if !d.qmemOn o n then d.qFail l gd .domainOff
        else if q.dead then d.qFail l gd .poison
        else if !q.en then d.qFail l gd .state
        else match d.select n with
          | none =>
            if blocking then d.block l ⟨gd, qa, [n], [0], false, 0, slot, spill, waitNs q.waitLimit, d.now⟩
            else d.qFail l gd .empty
          | some it =>
            match d.deliver l n 0 slot spill it with
            | .wait d => .stay d
            | .left d x => d.qEnd l gd x
            | .done d x => (d.serveGrants n).qEnd l gd x

/-- QREAD and QTRY (R86, R89, R93). -/
def Dev.qread (d : Dev) (l : Nat) (gd ga gb : BitVec 5) (slot : Nat) (blocking : Bool) : CoreOut :=
  let c := d.core l
  let qa := (c.rg ga).toNat % 2 ^ 32
  match d.spillPages l (c.rg gb) with
  | (d, .error e) => d.stop l e
  | (d, .ok xs) =>
    if xs.any Xlat.notBuffer then d.qFault l 8 qa
    else
      let r := d.drained l
      if !r.2 then .stay r.1
      else r.1.withAds l xs fun d => d.qreadAt l gd qa slot (spillLines (c.rg gb) xs) blocking

/-- QREAD (R89). -/
def execQread (l : Fin 384) (gd ga gb : BitVec 5) (slot : BitVec 3) (s : State) : Host.Outcome State Fault Refusal :=
  runInstr l s fun d => d.qread l.val gd ga gb slot.toNat true

/-- QTRY (R93). -/
def execQtry (l : Fin 384) (gd ga gb : BitVec 5) (slot : BitVec 3) (s : State) : Host.Outcome State Fault Refusal :=
  runInstr l s fun d => d.qread l.val gd ga gb slot.toNat false

/-- The members a QWAIT considers: mask bit set and entry valid (R99), as (member, queue). -/
def QGroup.chosen (g : QGroup) (mask : Word) : List (Nat × Nat) :=
  (List.range 64).filterMap fun i =>
    let m := g.members.getD i 0
    if mask.getLsbD i && m.testBit 31 then some (i, m % 2 ^ 20) else none

/-- The member QWAIT reads from: of those whose selected item has the highest effective priority, the first at or after
ROT (R99). -/
def Dev.pickMember (d : Dev) (rot : Nat) (ms : List (Nat × Nat)) : Option (Nat × Nat × QItem) :=
  let cands := ms.filterMap fun (i, n) => if (d.q n).en then (d.select n).map fun it => (i, n, it) else none
  let top := cands.foldl (fun t (_, n, it) => max t (d.effective (d.q n) it)) 0
  let best := cands.filter fun (_, n, it) => d.effective (d.q n) it == top
  match best.find? fun x => decide (rot ≤ x.1) with
  | some x => some x
  | none => best.head?

/-- A queue fault of QWAIT: for a member, or for the instruction (R123). -/
def Dev.qwaitFault (d : Dev) (l sub member qnum : Nat) : CoreOut :=
  let r := d.queueFault l sub member qnum (BitVec.ofNat 64 qnum)
  .exc r.1 r.2

/-- The engine reads or writes a group entry's 8 lines in queue memory (R72, 04 R148). -/
def Dev.groupTouch (d : Dev) (o : SkeinCfg) (i : Nat) (dirty : Bool) : Dev :=
  (List.range 8).foldl (fun d j =>
    let x := o.groupAt i / 64 + j
    (if dirty then d.setPoison x false else d).bookTouch x dirty) d

/-- QWAIT from step 2 of R112 on (R98, R99). ROT moves where a member's item is taken alone; one that the read leaves in its
queue does not move it (DESIGN CHOICE, log entry 67). -/
def Dev.qwaitAt (d : Dev) (l : Nat) (gd : BitVec 5) (gi : Nat) (mask : Word) (slot : Nat) (spill : List Nat) : CoreOut :=
  let sk := (d.skeinOf l).getD 0
  if d.bqSafe then d.qFail l gd .halted
  else
    let d := match d.cfgOf l with | some o => d.groupTouch o gi false | none => d
    let g := (mget none d.bq.groups (sk * 4096 + gi)).getD ⟨[], 0, 0⟩
    let ms := g.chosen mask
    match ms.find? fun x => !d.mayQread l sk x.2 with
    | some x => d.qwaitFault l 2 x.1 x.2
    | none =>
      let d := ms.foldl (fun d x => d.qTouch x.2) d
      if ms.any fun x => (match d.qOwner x.2 with | some o => !d.qmemOn o x.2 | none => false) then d.qFail l gd .domainOff
      else match ms.find? fun x => (d.q x.2).dead with
        | some x => (d.countStatus sk .poison).qEnd l gd (qword 0 0 0 x.1 .poison)
        | none =>
          if ms = [] then d.qFail l gd .range
          else match d.pickMember g.rot ms with
            | none => d.block l ⟨gd, 0, ms.map (·.2), ms.map (·.1), true, gi, slot, spill, waitNs g.limit, d.now⟩
            | some (i, n, it) =>
              match d.deliver l n i slot spill it with
              | .wait d => .stay d
              | .left d x => d.qEnd l gd x
              | .done d x =>
                let d := { d with bq := { d.bq with groups := mset none d.bq.groups (sk * 4096 + gi) (some { g with rot := (i + 1) % 64 }) } }
                (d.serveGrants n).qEnd l gd x

/-- QWAIT (R98, R99). -/
def execQwait (l : Fin 384) (gd ga gb : BitVec 5) (slot : BitVec 3) (s : State) : Host.Outcome State Fault Refusal :=
  runInstr l s fun d =>
    let c := d.core l.val
    let gi := (c.rg ga).toNat % 4096
    let va := c.rg ga &&& ~~~0xFFF#64
    match d.spillPages l.val va with
    | (d, .error e) => d.stop l.val e
    | (d, .ok xs) =>
      if xs.any Xlat.notBuffer then d.qwaitFault l.val 8 0 gi
      else
        let r := d.drained l.val
        if !r.2 then .stay r.1
        else r.1.withAds l.val xs fun d => d.qwaitAt l.val gd gi (c.rg gb) slot.toNat (spillLines va xs)

/-- The wait limit of a blocked read passes: EMPTY (R95). -/
def execWaitLimitExpire (l : Fin 384) (s : State) : Host.Outcome State Fault Refusal :=
  onDev s fun d =>
    match (d.core l.val).wait with
    | .queue q =>
      match q.limit with
      | some t => (d.timeTo (q.since + t)).endWait l.val q.gd (qstat .empty)
      | none => d
    | _ => d

/-- A blocked wait is cancelled for an interrupt or a reel: the instruction is abandoned and executes again (R96, 15
R491). -/
def execWaitCancel (l : Fin 384) (s : State) : Host.Outcome State Fault Refusal :=
  onDev s fun d =>
    if !((d.deliverable l.val).isSome || mget false d.reeling l.val) then d
    else match (d.core l.val).wait with
      | .queue _ => d.unwait l.val
      | .remote => d.unwait l.val
      | _ => d

/-- Whether a core's wait can be left for an interrupt: WAITI, and a wait at the engine that nothing committed (R96, 15
R491). -/
def Wait.leaves : Wait → Bool
  | .none | .waiti | .queue _ | .remote => true
  | _ => false

/-- An interrupt is taken at the retirement boundary: the deliverable vector of highest priority, in the bank of the
core's world (08 R264); one that waits for a drain finishes first (10 R331). ADDR is not stated for an interrupt and is a free value (log entry 6). -/
def execInterruptTake (l : Fin 384) (s : State) : Host.Outcome State Fault Refusal :=
  onDev s fun d =>
    let c := d.core l.val
    match d.deliverable l.val with
    | none => d
    | some v =>
      if !d.inService l.val || !c.wait.leaves || c.draining then d
      else
        let d' := d.unwait l.val
        let d' := { d' with freeCtr := d.freeCtr + 1 }.enter l.val c.level.secure (causeOf true 0 0 v) (Config.freeValue d.freeCtr) c.pc 0x100
        (d'.pmuCount l c.level [(0x44, 1)]).traceExcept l.val true v

/-! ### QCTL (R109 to R111) -/

/-- The step 1 checks of a QCTL with a buffer: its lines and bytes, or how it ends (R110, R112). -/
def Dev.qctlBuf (d : Dev) (l : Nat) (va : Word) (n : Nat) (onType : Dev → CoreOut) (k : Dev → List Nat → List Byte → CoreOut) : CoreOut :=
  if !(d.core l).level.priv then .exc d .priv
  else if va.toNat % 64 ≠ 0 then .exc d ⟨0x03, 0, 0, va⟩
  else match d.xlPages l .load (pageVas va n) with
    | (d, .error e) => d.stop l e
    | (d, .ok xs) =>
      if xs.any Xlat.notBuffer then onType d
      else
        let r := d.drained l
        if !r.2 then .stay r.1
        else r.1.withAds l xs fun d => k d (bufLines va xs n) (d.bufBytes va xs n)

/-- Steps 2 to 5 of R112 for a queue-specific QCTL; `k` goes on with the queue's number and owner. It takes its slot where the
queue may be named, whatever its result (DESIGN CHOICE, log entry 67). -/
def Dev.qctlQueue (d : Dev) (l : Nat) (gd : BitVec 5) (qa : Nat) (deadOk : Bool) (k : Dev → Nat → SkeinCfg → CoreOut) : CoreOut :=
  let n := qa % 2 ^ 20
  if d.bqSafe then d.qFail l gd .halted
  else if qa.testBit 31 then d.qFault l 1 qa
  else if !d.qaLocal qa then d.qFault l 4 qa
  else match d.qOwner n with
    | none => d.qFault l 3 qa
    | some o =>
      if some o.skein ≠ d.skeinOf l then d.qFault l 6 qa
      else if d.qmemOn o n && d.qmemWaits o n then .stay d
      else
        let d := (d.qTouch n).charge o.skein 1
        if !d.qmemOn o n then d.qFail l gd .domainOff
        else if (d.q n).dead && !deadOk then d.qFail l gd .poison
        else k d n o

/-- A QCTL on a queue without a buffer: K and SK only (R110). Where its gb is a field of zeros, `zero` is that field (R83). -/
def Dev.qctl (d : Dev) (l : Nat) (gd ga zero : BitVec 5) (deadOk : Bool) (k : Dev → Nat → SkeinCfg → CoreOut) : CoreOut :=
  if zero ≠ 0#5 then .exc d .illegal
  else if !(d.core l).level.priv then .exc d .priv
  else d.qctlQueue l gd (((d.core l).rg ga).toNat % 2 ^ 32) deadOk k

/-- QCTL QUERY (R110). -/
def execQctlQuery (l : Fin 384) (gd ga gb : BitVec 5) (s : State) : Host.Outcome State Fault Refusal :=
  runInstr l s fun d => d.qctl l.val gd ga gb true fun d n _ =>
    let q := d.q n
    let mask := (List.range 8).foldl (fun m p => if (q.head p).isSome then m + 2 ^ p else m) 0
    d.qEnd l.val gd (BitVec.ofNat 64 (q.seq * 2 ^ 32 + mask * 2 ^ 16 + q.stateCode * 2 ^ 8))

/-- A rights block of 12 bytes: the six fields in order (R105, R110). -/
def rightsAt (bs : List Byte) (o i : Nat) : BitVec 16 := BitVec.ofNat 16 (leAt bs (o + 2 * i) 2)

/-- Whether a P_VF or C_VF field may be set on a queue (14 R450). -/
def Dev.vfFieldOk (d : Dev) (o : SkeinCfg) (n : Nat) (f : BitVec 16) : Bool :=
  if !bit f 15 then true
  else
    let b := field f 14 12
    if bit f 11 then d.fnSkein b 0 == some o.skein
    else
      let x := d.fn (fnKey b (field f 9 0 + 1))
      x.vst == .ready && decide (x.qfirst ≤ n) && decide (n < x.qfirst + x.qcount)

/-- Whether the rights of a block have no reserved bit set and name functions they may (R111, 14 R450). -/
def Dev.rightsOk (d : Dev) (o : SkeinCfg) (n : Nat) (bs : List Byte) (at_ : Nat) : Bool :=
  let r := rightsAt bs at_
  !bit (r 2) 10 && !bit (r 3) 10 && field (r 4) 13 11 == 0 && field (r 5) 14 9 == 0 && d.vfFieldOk o n (r 2) && d.vfFieldOk o n (r 3)

/-- The context with the rights of a block. -/
def QCtx.withRights (c : QCtx) (bs : List Byte) (at_ : Nat) : QCtx :=
  let r := rightsAt bs at_
  { c with pSkeins := r 0, cSkeins := r 1, pVf := r 2, cVf := r 3, pHank := r 4, cLcn := r 5 }

/-- The waits that a change of rights ends: queue faults for cores, DENIED for drains (R95, R107, 04 R140). -/
def Dev.dropRights (d : Dev) (n : Nat) : Dev :=
  (d.q n).waiters.foldl (fun d w =>
    match w with
    | .drain c => if (d.q n).cVf = chField c then d else d.chError c .denied
    | .core l =>
      match (d.core l).wait with
      | .queue q =>
        if d.mayQread l ((d.skeinOf l).getD 0) n then d
        else
          let d := d.unwait l
          let r := d.queueFault l 2 (if q.isWait then q.memberOf n else 0) n
            (BitVec.ofNat 64 (if q.isWait then n else q.qa))
          r.1.finish (lcn l) (.exc r.1 r.2)
      | _ => d) d

/-- The lines of the cells that a ring holds are dropped with what they held (04 R150). -/
def Dev.forgetRing (d : Dev) (n : Nat) : Dev :=
  match d.qOwner n with
  | some o =>
    let c := d.q n
    (((runsFrom c.recl c.runs).flatMap fun (x : Nat × QRun) => (List.range x.2.n).map fun i => c.cellLine o (x.1 + i))).foldl Dev.hcForget d
  | none => d

/-- Whether SETUP may load a context block (R111). Bits [31:28] of RING_BASE, which R113 shows as zero and for which R111 names no
RANGE, count as part of the offset (DESIGN CHOICE, log entry 67). -/
def Dev.setupOk (d : Dev) (o : SkeinCfg) (n : Nat) (bs : List Byte) : Bool :=
  let log2 := leAt bs 3 1
  let ctrl := leAt bs 0 2
  decide (6 ≤ log2) && decide (log2 ≤ 15) && o.ringFits log2 (leAt bs 4 4) && d.rightsOk o n bs 0x10 && decide (ctrl < 16) &&
    !(ctrl.testBit 3 && leAt bs 0xC 2 == 0)

/-- The context that SETUP leaves (R110, R113). -/
def QCtx.setup (c : QCtx) (bs : List Byte) : QCtx :=
  ({ c with ringLog2 := leAt bs 3 1, ringBase := leAt bs 4 4, seq := leAt bs 8 4, ageLimit := leAt bs 0xC 2, waitLimit := leAt bs 0xE 2, ageEn := (leAt bs 0 2).testBit 3, items := [], runs := [], wr := 0, recl := 0 } : QCtx).withRights bs 0x10

/-- QCTL SETUP (R110, R111, R113): new rights end the waits they deprive (R95, R107, 04 R140). -/
def execQctlSetup (l : Fin 384) (gd ga gb : BitVec 5) (s : State) : Host.Outcome State Fault Refusal :=
  runInstr l s fun d =>
    let qa := ((d.core l.val).rg ga).toNat % 2 ^ 32
    d.qctlBuf l.val ((d.core l.val).rg gb) 64 (fun d => d.qFault l.val 8 qa) fun d lines bs =>
      d.qctlQueue l.val gd qa false fun d n o =>
        if (d.q n).en then d.qFail l.val gd .state
        else if d.bufFails l.val lines = none ∧ !d.setupOk o n bs then d.qFail l.val gd .range
        else d.bufTake l.val gd lines fun d =>
          (((d.forgetRing n).updQ n fun c => c.setup bs).dropRights n).qEnd l.val gd (qstat .ok)

/-- QCTL ENABLE (R109, R110). -/
def execQctlEnable (l : Fin 384) (gd ga gb : BitVec 5) (s : State) : Host.Outcome State Fault Refusal :=
  runInstr l s fun d => d.qctl l.val gd ga gb false fun d n _ =>
    if (d.q n).en || (d.q n).ringLog2 == 0 then d.qFail l.val gd .state
    else (d.updQ n fun c => { c with en := true }).qEnd l.val gd (qstat .ok)

/-- QCTL DISABLE (R109, R110; 15 R494). -/
def execQctlDisable (l : Fin 384) (gd ga gb : BitVec 5) (s : State) : Host.Outcome State Fault Refusal :=
  runInstr l s fun d => d.qctl l.val gd ga gb false fun d n _ =>
    let q := d.q n
    if !q.en then d.qFail l.val gd .state
    else if q.flush || !q.items.isEmpty || d.bq.posts.any (fun p => p.q == n) then d.qFail l.val gd .busy
    else
      let d := d.updQ n fun c => { c with en := false }
      let d := (d.revokeAll n .free).endGrantReqs n .state
      let d := d.errorDrains n .state
      (d.endWaiters n .state true).qEnd l.val gd (qstat .ok)

/-- QCTL FLUSH: FLUSH is set, and the instruction completes when it clears (R103, R104). -/
def execQctlFlush (l : Fin 384) (gd ga gb : BitVec 5) (s : State) : Host.Outcome State Fault Refusal :=
  runInstr l s fun d => d.qctl l.val gd ga gb false fun d n _ =>
    let q := d.q n
    if !q.en then d.qFail l.val gd .state
    else if q.flush then d.qFail l.val gd .busy
    else .stay ((d.flushSet n).updCore l.val fun c => { c with wait := .flush gd n })

/-- The flush point of a queue (R103). -/
def execFlushPoint (qn : Fin 1048576) (s : State) : Host.Outcome State Fault Refusal := onDev s fun d => (d.flushPoint qn.val).pumpAll

/-- FLUSH clears (R104). -/
def execFlushComplete (qn : Fin 1048576) (s : State) : Host.Outcome State Fault Refusal := onDev s fun d => d.flushDone qn.val

/-- QCTL LIMITS (R110, R111). -/
def execQctlLimits (l : Fin 384) (gd ga gb : BitVec 5) (s : State) : Host.Outcome State Fault Refusal :=
  runInstr l s fun d =>
    let x := (d.core l.val).rg gb
    d.qctl l.val gd ga 0#5 false fun d n _ =>
      if field x 63 33 ≠ 0 ∨ (bit x 32 ∧ field x 15 0 = 0) then d.qFail l.val gd .range
      else (d.updQ n fun c => { c with ageLimit := field x 15 0, waitLimit := field x 31 16, ageEn := bit x 32 }).qEnd l.val gd (qstat .ok)

/-- QCTL RIGHTS (R107, R110, R111). -/
def execQctlRights (l : Fin 384) (gd ga gb : BitVec 5) (s : State) : Host.Outcome State Fault Refusal :=
  runInstr l s fun d =>
    let qa := ((d.core l.val).rg ga).toNat % 2 ^ 32
    d.qctlBuf l.val ((d.core l.val).rg gb) 12 (fun d => d.qFault l.val 8 qa) fun d lines bs =>
      d.qctlQueue l.val gd qa false fun d n o =>
        if d.bufFails l.val lines = none ∧ !d.rightsOk o n bs 0 then d.qFail l.val gd .range
        else d.bufTake l.val gd lines fun d =>
          ((d.updQ n fun c => c.withRights bs 0).dropRights n).qEnd l.val gd (qstat .ok)

/-- QCTL REVIVE (R110): the context and link array are rewritten, which clears their poison; whether the rewrite fails
is free (log entry 6). Placement, limits and rights stay. -/
def execQctlRevive (l : Fin 384) (gd ga gb : BitVec 5) (s : State) : Host.Outcome State Fault Refusal :=
  runInstr l s fun d => d.qctl l.val gd ga gb true fun d n o =>
    let q := d.q n
    if !q.dead then d.qFail l.val gd .state
    else
      let fails := Config.freeChoice (d.freeCtr * 8)
      let d := { d with freeCtr := d.freeCtr + 1 }
      if fails then d.qFail l.val gd .poison
      else
        let d := (q.bookLines o n).foldl (fun d x => (d.setPoison x false).bookTouch x true) (d.forgetRing n)
        let d := d.setQ n { q with dead := false, en := false, flush := false, flushed := false, items := [], runs := [], wr := 0, recl := 0 }
        d.qEnd l.val gd (qstat .ok)

/-- Whether a group entry is legal for a skein, as far as its lines can be read (R111, R112). -/
def groupOk (o : SkeinCfg) (bs : List Byte) (ok : Nat → Bool) : Bool :=
  ((List.range 64).all fun i =>
    let m := leAt bs (4 * i) 4
    !ok (i / 16) || bitsN m 30 20 == 0 && (!m.testBit 31 || (decide (o.qFirst ≤ m % 2 ^ 20) && decide (m % 2 ^ 20 < o.qFirst + o.qCount)))) &&
  (List.range 253).all fun i => !ok ((0x103 + i) / 64) || bs.getD (0x103 + i) 0#8 == 0#8

/-- QCTL GSET (R98, R100, R108, R111). -/
def execQctlGset (l : Fin 384) (gd ga gb : BitVec 5) (s : State) : Host.Outcome State Fault Refusal :=
  runInstr l s fun d =>
    let x := (d.core l.val).rg ga
    let gi := x.toNat % 4096
    d.qctlBuf l.val ((d.core l.val).rg gb) 512 (fun d => d.qwaitFault l.val 8 0 gi) fun d lines bs =>
      if d.bqSafe then d.qFail l.val gd .halted
      else if field x 63 12 ≠ 0 then d.qwaitFault l.val 7 0 gi
      else match d.cfgOf l.val with
        | none => d.qFail l.val gd .range
        | some o =>
          let d := d.charge o.skein 1
          if !groupOk o bs (fun i => d.headReadable l.val (lines.getD i 0)) then d.qFail l.val gd .range
          else d.bufTake l.val gd lines fun d =>
            let d := d.groupTouch o gi true
            let k := o.skein * 4096 + gi
            let rot := ((mget none d.bq.groups k).map (·.rot)).getD 0
            let ms := (List.range 64).map fun i => let m := leAt bs (4 * i) 4; if m.testBit 31 then m else 0
            { d with bq := { d.bq with groups := mset none d.bq.groups k (some ⟨ms, leAt bs 0x100 2, rot⟩) } }.qEnd l.val gd (qstat .ok)

/-! ### Pipelines (R118) -/

/-- The pipeline that serves a queue (R115). -/
def Dev.pipeOf (d : Dev) (n : Nat) : Nat := d.regF Reg.BQ_PIPE_MAP (2 * (n % 4) + 1) (2 * (n % 4))

/-- The next surviving pipeline after `p`, wrapping (R118). -/
def nextPipe (up p : Nat) : Nat := (((List.range 4).map fun i => (p + 1 + i) % 4).find? fun x => up.testBit x).getD p

/-- A pipeline leaves (R118): its uncommitted operations end with FLUSHED, and its classes move on to those of `left`. -/
def Dev.retirePipe (d : Dev) (pipe left : Nat) : Dev :=
  let ps := d.bq.posts.filter fun p => d.pipeOf p.q == pipe
  let fl := d.cores.filterMap fun e => match e.2.wait with
    | .flush _ q => if d.pipeOf q = pipe ∧ !(d.q q).flushed then some q else none
    | _ => none
  let d := { d with bq := { d.bq with posts := d.bq.posts.filter fun p => d.pipeOf p.q != pipe } }
  let d := ps.foldl (fun d p => (d.updQ p.q fun c => (c.mark p.own .free).reclaim).failPoster p.q p.poster .flushed) d
  let d := fl.foldl (fun d q => (d.updQ q fun c => { c with flush := false }).endFlushers q .flushed) d
  let d := d.setRegF Reg.BQ_STATUS 11 8 left
  (List.range 4).foldl (fun d k =>
    if d.regF Reg.BQ_PIPE_MAP (2 * k + 1) (2 * k) = pipe then d.setRegF Reg.BQ_PIPE_MAP (2 * k + 1) (2 * k) (nextPipe left pipe) else d) d

end Sys2Proof.Machine
end

