-- ==== Sys2Proof/Machine/Record.lean ====
section
/-! DEFINITION. The audit log (18 R581, R582), the event queue of MCTP (18 R579), and error records with their rings and
vectors (16 R514 to R518). -/
namespace Sys2Proof.Machine

/-! ### Audit -/

/-- The package SERIAL: the serial of the hub die (18 R556, 02 R622). -/
def Distaff.serial (x : Distaff) : Nat := mget 0 x.dieSerial 0x10

/-- The 64 bytes of an audit record (18 R581). -/
def AuditRec.bytes (r : AuditRec) : List Byte :=
  leBytes 8 r.aseq ++ leBytes 8 r.time ++ leBytes 1 r.kind ++ leBytes 1 r.role ++ leBytes 1 r.index ++ leBytes 1 r.transport ++
    leBytes 1 r.skein ++ leBytes 1 r.status ++ leBytes 2 r.cmd ++ bytesAt r.chain 0 8 ++ bytesAt r.body 0 32

/-- The device with Distaff changed. -/
def Dev.updDst (d : Dev) (f : Distaff → Distaff) : Dev := { d with dst := f d.dst }

/-- A record joins the ring of 1,024 in SRAM; the oldest not yet in flash makes room in a full one and is counted
(18 R582). -/
def Dev.audit (d : Dev) (kind role index transport skein status cmd : Nat) (body : List Byte) : Dev :=
  let r : AuditRec := ⟨d.dst.aseq, d.now, kind, role, index, transport, skein, status, cmd, (sha384 d.dst.lastRec).take 8, body⟩
  let full := decide (1024 ≤ d.dst.ring.length)
  let d := if full then d.count Reg.DST_AUDIT_LOST else d
  let d := d.updDst fun x =>
    { x with aseq := x.aseq + 1, lastRec := r.bytes, ring := (if full then x.ring.tail else x.ring) ++ [r] }
  d.setReg64 Reg.DST_AUDIT_SEQ_LO d.dst.aseq

/-- An event waits for the board controller, announced by an in-band interrupt; the oldest of 64 is dropped and
counted (18 R579). -/
def Dev.announce (d : Dev) (r : Option AuditRec) : Dev :=
  let full := decide (64 ≤ d.dst.events.length)
  let d := if full then d.count Reg.DST_EVENT_LOST else d
  (d.updDst fun x => { x with events := (if full then x.events.tail else x.events) ++ [r] }) |> fun d => if d.dst.i3c.isSome then d.emit (.ibi 0 0xA0) else d

/-- The state of DST_STATUS changes, which is announced (18 R579, R584). -/
def Dev.setDstState (d : Dev) (st : Nat) : Dev :=
  if d.regF Reg.DST_STATUS 1 0 = st then d else (d.setRegF Reg.DST_STATUS 1 0 st).announce none

/-! ### Answers to commands (18 R573, R580, R581) -/

/-- The line of a caller: 0 Almanac, 1 + e the MCTP endpoint e, 257 + s the mailbox of skein s. -/
def callerLine : Caller → Nat
  | .almanac => 0
  | .mctp e _ _ => 1 + e.toNat
  | .mbx s _ _ _ => 257 + s.val

/-- TRANSPORT of an audit record. -/
def callerTransport : Caller → Nat
  | .almanac => 1
  | .mctp _ _ _ => 2
  | .mbx _ sec _ _ => if sec then 4 else 3

/-- SKEIN of a command's audit record. -/
def callerSkein : Caller → Nat
  | .mbx s _ _ _ => s.val
  | _ => 0xFF

/-- The session open on a caller's line. -/
def Dev.sessionOf (d : Dev) (who : Caller) : Option Session := d.dst.sessions.find? fun s => s.line == callerLine who

/-- The audit record of a command; `as_` names the role and index where they are not the session's. -/
def Dev.auditCmd (d : Dev) (who : Caller) (kind code : Nat) (st : Status) (as_ : Option (Nat × Nat)) (arg : List Byte) : Dev :=
  let r : Nat × Nat := match as_, d.sessionOf who with
    | some x, _ => x
    | none, some s => (s.role, s.index)
    | none, none => (if callerTransport who < 3 then 0 else 4, 0xFF)
  d.audit kind r.1 r.2 (callerTransport who) (callerSkein who) st.code code arg

/-- A response is written to a mailbox, which enters DONE and signals its route entry (R580, R584). -/
def Dev.mbxReply (d : Dev) (sk code : Nat) (st : Status) (data : List Byte) : Dev :=
  let bs := leBytes 2 code ++ [0#8] ++ leBytes 1 st.code ++ leBytes 2 data.length ++ [0#8, 0#8] ++ data
  let d := (List.range 64).foldl (fun d k => d.setReg (Reg.DST_MBX_RSP sk k) (BitVec.ofNat 32 (leAt bs (4 * k) 4))) d
  let d := (d.setRegF (Reg.DST_MBX_CTL sk) 31 24 st.code).setRegF (Reg.DST_MBX_CTL sk) 17 16 2
  let r := d.reg (Reg.DST_MBX_ROUTE sk)
  if !bit r 31 then d else if field r 11 8 = sk then d.signalRoute (field r 11 0) else d.dropVec sk

/-- A command is answered, and recorded (R573, R581). -/
def Dev.answerTo (d : Dev) (who : Caller) (kind code : Nat) (st : Status) (as_ : Option (Nat × Nat)) (arg data : List Byte) : Dev :=
  let d := d.auditCmd who kind code st as_ arg
  match who with
  | .mbx s _ _ _ => d.mbxReply s.val code st data
  | _ => d.emit (.answer who st data)

/-- The command that waits for the reel of an LCN is answered (18, example of RL_RETIRE); a spindle number goes out over Almanac
alone (01 R29). -/
def Dev.reelAnswer (d : Dev) (l : Nat) (st : Status) (data : List Byte) : Dev :=
  match d.rel.asked.find? fun (x : Nat × Caller × Nat) => x.1 == l with
  | none => d
  | some (_, who, code) =>
    let d := { d with rel := { d.rel with asked := d.rel.asked.filter fun (x : Nat × Caller × Nat) => x.1 != l } }
    d.answerTo who 1 code st none (leBytes 2 l) (if callerLine who = 0 then data else [])

/-- The delta in hand is answered (02 R65). -/
def Dev.deltaAnswer (d : Dev) (st : Status) : Dev :=
  match d.img.pending with
  | none => d
  | some p =>
    if p.answered then d
    else
      let d := { d with img := { d.img with pending := some { p with answered := true } } }.setRegF Reg.IMG_STATUS 31 24 st.code
      d.answerTo p.caller 1 0x23 st none [] []

/-- The IMG_CHECK or IMG_STAGE in progress ends, with a status; STATE is counted (02 R68, R71). -/
def Dev.jobAnswer (d : Dev) (st : Status) : Dev :=
  match d.img.job with
  | none => d
  | some j =>
    let d := { d with img := { d.img with job := none } }.setRegF Reg.IMG_STATUS 31 24 st.code
    (if st = .state then d.count Reg.IMG_STATE_REJECT else d).answerTo j.caller 1 j.code st none [] []

/-- Every command not yet answered is answered with a status. -/
def Dev.answerAll (d : Dev) (st : Status) : Dev :=
  (d.rel.asked.map fun (x : Nat × Caller × Nat) => x.1).foldl (fun d l => d.reelAnswer l st []) ((d.deltaAnswer st).jobAnswer st)

/-- A reset of any type discards a delta that is not committed, and its requester receives FLUSHED (02 R66). -/
def Dev.dropDelta (d : Dev) : Dev :=
  match d.img.pending with
  | none => d
  | some p =>
    if p.committed then d
    else
      let d := d.deltaAnswer .flushed
      { d with img := { d.img with pending := none, unit := .committed } }.setRegF Reg.IMG_STATUS 19 16 2

/-! ### Error records -/

/-- The vector a record raises (16 R516). -/
inductive Raise where
  | none | fbAtLcn | fbAtNotice | ffAtLcn | ffAtNotice
  deriving DecidableEq, Repr

/-- An event of 16 R516 as a unit reports it. -/
structure Event where
  code : Nat
  uncorr : Bool
  vec : Raise
  site : Nat
  lcn : Option Nat
  unit : Nat
  detail : Nat
  addr : Nat
  skeins : List Nat
  deriving DecidableEq, Repr

/-- Whether an LCN is in service for notices: not lost, and on no dead die (16 R517). -/
def Dev.noticeOk (d : Dev) (l : Nat) : Bool :=
  !mget false d.lost l && (match mget none d.spindleOf l with
    | some p => !(d.deadAgents.getLsbD (p / 28))
    | none => false)

/-- The notice LCN of a skein, rewritten where it is lost (16 R517). -/
def Dev.noticeLcn (d : Dev) (sk : Nat) : Dev × Option Nat :=
  let l := d.regF (Reg.RL_SK_NOTICE sk) 8 0
  if d.noticeOk l then (d, some l)
  else match d.skeinCfg sk with
    | none => (d, none)
    | some c =>
      match (setBits 384 c.lcnMask).find? d.noticeOk with
      | some k => (d.setRegF (Reg.RL_SK_NOTICE sk) 8 0 k, some k)
      | none => (d, none)

/-- Whether an event is attributed to the secure world (16 R514). -/
def Dev.eventSec (d : Dev) (e : Event) : Bool :=
  (match e.lcn with | some l => (d.core l).level.secure | none => false) || (decide (0 < e.addr) && decide (e.addr < d.secMarkBytes))

/-- The 32 bytes of a record (16 R514). -/
def Event.bytes (e : Event) (rseq sk time : Nat) (sec : Bool) : List Byte :=
  leBytes 4 rseq ++ leBytes 1 e.code ++ leBytes 1 (b2n e.uncorr + 2 * b2n sec) ++ leBytes 1 e.site ++ leBytes 1 sk ++
    leBytes 8 time ++ leBytes 2 (e.lcn.getD 0xFFFF) ++ leBytes 2 e.unit ++ leBytes 4 e.detail ++ leBytes 8 e.addr

/-- A record enters the ring of a skein, or is lost and counted where it is full (16 R518). -/
def Dev.ringPut (d : Dev) (sk : Nat) (bs : List Byte) : Dev :=
  let h := d.regF (Reg.RL_SK_LOG_HEAD sk) 6 0
  let t := d.regF (Reg.RL_SK_LOG_TAIL sk) 6 0
  if t = (h + 64) % 128 then d.count (Reg.RL_SK_LOG_LOST sk)
  else
    let d := (List.range 8).foldl (fun d k => d.setReg (Reg.RL_SK_LOG sk (t % 64) k) (BitVec.ofNat 32 (leAt bs (4 * k) 4))) d
    d.setRegF (Reg.RL_SK_LOG_TAIL sk) 6 0 ((t + 1) % 128)

/-- An event, attributed or not to the secure world, is written to the audit log and to the rings of its skeins, announced,
and its vector raised (16 R514 to R518, 18 R579, R581). -/
def Dev.recordAs (d : Dev) (sec : Bool) (e : Event) : Dev :=
  let rseq := d.dst.rseq
  let d := d.updDst fun x => { x with rseq := (rseq + 1) % 2 ^ 32 }
  let s0 := e.skeins.headD 0xFF
  let d := d.audit 2 5 0xFF 0 s0 0 e.code (e.bytes rseq s0 d.now sec)
  let d := d.announce d.dst.ring.getLast?
  e.skeins.foldl (fun d sk =>
    let d := d.ringPut sk (e.bytes rseq sk d.now sec)
    match e.vec, e.lcn with
    | .fbAtLcn, some l => d.raiseLocal l 0xFB
    | .ffAtLcn, some l => d.raiseLocal l (if sec then 0xFC else 0xFF)
    | .fbAtNotice, _ => let r := d.noticeLcn sk; match r.2 with | some l => r.1.raiseLocal l 0xFB | none => r.1
    | .ffAtNotice, _ => let r := d.noticeLcn sk; match r.2 with | some l => r.1.raiseLocal l (if sec then 0xFC else 0xFF) | none => r.1
    | _, _ => d) d

/-- An event is recorded as it happens. -/
def Dev.record (d : Dev) (e : Event) : Dev := d.recordAs (d.eventSec e) e

/-- An event that names one LCN concerns its skein. -/
def Dev.lcnEvent (d : Dev) (code : Nat) (uncorr : Bool) (vec : Raise) (l unit detail addr : Nat) : Event :=
  let site := match mget none d.spindleOf l with | some p => p / 28 | none => 0xFF
  ⟨code, uncorr, vec, site, some l, unit, detail, addr, (d.skeinOf l).toList⟩

/-- An event that names one LCN is recorded. -/
def Dev.recordLcn (d : Dev) (code : Nat) (uncorr : Bool) (vec : Raise) (l unit detail addr : Nat) : Dev :=
  d.record (d.lcnEvent code uncorr vec l unit detail addr)

/-- The skeins of the running image that satisfy a test. -/
def Dev.skeinsWhere (d : Dev) (f : SkeinCfg → Bool) : List Nat :=
  match d.img.img with
  | some i => (i.skeins.filter f).map (·.skein)
  | none => []

/-- The skein whose memory holds an address. -/
def Dev.skeinsAt (d : Dev) (pa : Nat) : List Nat := d.skeinsWhere fun c => c.inMem pa

/-- The skeins that use a channel. -/
def Dev.skeinsOfMc (d : Dev) (m : Nat) : List Nat := d.skeinsWhere fun c => (c.ddrOwn ||| c.ddrPool).testBit m

/-- The skeins that list a bundle. -/
def Dev.skeinsOfBundle (d : Dev) (b : Nat) : List Nat := d.skeinsWhere fun c => c.bundles.testBit b

/-- The skeins that hold a Hank port. -/
def Dev.skeinsOfPort (d : Dev) (p : Nat) : List Nat := d.skeinsWhere fun c => c.hankPorts.testBit p

/-- The skeins with LCNs on a die. -/
def Dev.skeinsOfDie (d : Dev) (die : Nat) : List Nat := d.skeinsWhere fun c => d.skeinOnDie c die

/-- A line is poisoned where no other copy exists: LINE_POISONED (11 R366, 16 R516). -/
def Dev.linePoisoned (d : Dev) (line site unit : Nat) : Dev :=
  (d.setPoison line true).record ⟨0x08, true, .ffAtNotice, site, none, unit, 0, line * 64, d.skeinsAt (line * 64)⟩

/-- The shed level of DST_STATUS (18 R583). -/
def Dev.shed (d : Dev) : Nat := d.regF Reg.DST_STATUS 10 8

/-- The operator is notified of a budget: a BUDGET_LOW record, its event and an alert; the notice waits while such work is
shed (16 R504, 18 R583). -/
def Dev.budgetLow (d : Dev) (site kind pct : Nat) : Dev :=
  if 3 ≤ d.shed then d.updDst fun x => { x with notices := x.notices ++ [(site, kind, pct)] }
  else (d.record ⟨0x15, false, .none, site, none, kind, pct, 0, []⟩).emit (.alert kind pct)

/-- Spares of a kind are consumed; the operator is notified when the share used first reaches 50, 75 and 90 % (16
R504). -/
def Dev.useBudget (d : Dev) (k n : Nat) : Dev :=
  let total := (d.reg (Reg.RL_BUDGET_TOTAL k)).toNat
  let used := (d.reg (Reg.RL_BUDGET_USED k)).toNat
  let pct (x : Nat) : Nat := if total = 0 then 0 else x * 100 / total
  let d := d.countN (Reg.RL_BUDGET_USED k) n
  [50, 75, 90].foldl (fun d t =>
    if pct used < t ∧ t ≤ pct (used + n) then
      d.budgetLow 0x10 k (pct (used + n))
    else d) d

end Sys2Proof.Machine
end

