-- ==== Sys2Proof/Machine/Hank.lean ====
section
/-! DEFINITION. Hank package-to-package links (chapter 15): ports, peers, streams, frames and messages, credit at the
origin, refusal records. -/
namespace Sys2Proof.Machine

/-! ### Bytes of messages and frames (R479, R480) -/

/-- MTYPE. -/
def hankCode : HankType → Nat
  | .item => 1
  | .creq => 2
  | .crel => 3
  | .grant => 4
  | .refuse => 5
  | .revoke => 6

/-- The type of an MTYPE; none for any other. -/
def hankTypeOf : Nat → Option HankType
  | 1 => some .item
  | 2 => some .creq
  | 3 => some .crel
  | 4 => some .grant
  | 5 => some .refuse
  | 6 => some .revoke
  | _ => none

/-- The bytes of a message, its body padded to a multiple of 8. -/
def hankMsgBytes (m : HankMsg) : List Byte :=
  leBytes 1 (hankCode m.mtype) ++ [m.status] ++ leBytes 2 m.body.length ++ leBytes 4 m.qa.toNat ++ leBytes 4 m.grant.toNat ++
    leBytes 4 m.aux.toNat ++ m.body ++ List.replicate ((8 - m.body.length % 8) % 8) 0#8

/-- The messages in the LEN bytes of a frame; none where one is unknown or runs past the end. -/
def parseHankMsgs : Nat → List Byte → Option (List HankMsg)
  | 0, bs => if bs = [] then some [] else none
  | n + 1, bs =>
    if bs = [] then some []
    else
      let len := leAt bs 2 2
      let all := 16 + (len + 7) / 8 * 8
      match hankTypeOf (leAt bs 0 1) with
      | none => none
      | some t =>
        if bs.length < all then none
        else match parseHankMsgs n (bs.drop all) with
          | none => none
          | some ms => some (⟨t, bs.getD 1 0#8, BitVec.ofNat 32 (leAt bs 4 4), BitVec.ofNat 32 (leAt bs 8 4), BitVec.ofNat 32 (leAt bs 12 4), (bs.drop 16).take len⟩ :: ms)

/-- CHECK over a header's bytes 0x00 to 0x1B and the messages. -/
def hankCheck (bs : List Byte) : Nat := (~~~(crc32c 0xFFFFFFFF#32 bs)).toNat

/-- The payload of a frame: header, CHECK, messages. -/
def hankPayload (flags src dst skein port epoch seq ack incarn : Nat) (msgs : List Byte) : List Byte :=
  let h := leBytes 1 1 ++ leBytes 1 flags ++ leBytes 2 msgs.length ++ leBytes 2 src ++ leBytes 2 dst ++ leBytes 1 skein ++
    leBytes 1 port ++ leBytes 2 epoch ++ leBytes 4 seq ++ leBytes 4 ack ++ leBytes 4 incarn ++ leBytes 4 0
  h ++ leBytes 4 (hankCheck (h ++ msgs)) ++ msgs

/-! ### Peers (R473 to R475) -/

/-- A peer. -/
def Dev.peer (d : Dev) (sys : Nat) : Peer := mget Peer.unknown d.hank.peers sys

/-- The device with a peer changed. -/
def Dev.updPeer (d : Dev) (sys : Nat) (f : Peer → Peer) : Dev :=
  { d with hank := { d.hank with peers := mupd Peer.unknown d.hank.peers sys f } }

/-- What a port has heard of a system. -/
def Dev.heardAt (d : Dev) (p sys : Nat) : Option Heard := mget none d.hank.heard (p * 2048 + sys)

/-- The state of a peer: 0 UNKNOWN, 1 UP, 2 DOWN, 3 CONFLICT. -/
def Dev.peerState (d : Dev) (sys : Nat) : Nat := d.regF (Reg.HNK_PEER sys) 9 8

/-- Three HELLO intervals in ns. -/
def Dev.helloSpan (d : Dev) : Nat := 3 * d.regF Reg.HNK_TIMERS 31 24 * 1000000

/-- Whether the Hank unit is in service (R500). -/
def Dev.hankRun (d : Dev) : Bool := d.regF Reg.HNK_STATUS 1 0 == 1

/-! ### Streams -/

/-- The bytes a frame takes in the replay store. -/
def TxFrame.size (f : TxFrame) : Nat := 32 + (f.msgs.map fun m => (hankMsgBytes m.1).length).sum

/-- The primary port of a skein for a destination (R477). -/
def Dev.primaryPort (d : Dev) (sk sys : Nat) : Option Nat :=
  let ps := (d.skPorts sk).filter fun p => d.reaches p sys
  ps[sys % (max 1 ps.length)]?

/-- The port a stream is carried by, and whether as an ALT (R477). Direction 1 goes back on the port its latest frame came on, or,
while that is not UP, on the lowest that reaches the origin (DEDUCED, log entry 53). -/
def Dev.streamPort (d : Dev) (dir sk sys : Nat) : Option Nat × Bool :=
  let s := d.stream (streamKey dir sk sys)
  if dir = 1 then
    match s.port.filter d.portUp with
    | some p => (some p, false)
    | none => ((List.range 8).find? fun p => d.reaches p sys, false)
  else match s.port with
    | none => (d.primaryPort sk sys, false)
    | some p =>
      if d.reaches p sys then
        if s.onAlt && s.unacked.isEmpty then
          match d.primaryPort sk sys with
          | some q => (some q, false)
          | none => (some p, true)
        else (some p, s.onAlt)
      else
        let a := d.altOf p
        if a < 8 ∧ d.reaches a sys then (some a, true) else (d.primaryPort sk sys, false)

/-- The MAC address in use by a port (R500). -/
def Dev.portMac (d : Dev) (p : Nat) : BitVec 48 := BitVec.ofNat 48 (d.reg64 (Reg.HNK_PORT_MAC_LO p))

/-- Whether `a` comes before `b` in the sequence numbers modulo 2^32. -/
def seqBefore (a b : Nat) : Bool := decide (0 < (b + 2 ^ 32 - a) % 2 ^ 32) && decide ((b + 2 ^ 32 - a) % 2 ^ 32 < 2 ^ 31)

/-- ACK of a frame that leaves the messages `left` waiting: the next SEQ expected; but in direction 1 no frame is acknowledged
while an item of it is neither committed nor refused, or its REFUSE waits (R484). -/
def Dev.ackFor (d : Dev) (dir sk sys : Nat) (left : List (HankMsg × Nat)) : Nat :=
  let next := (d.stream (streamKey dir sk sys)).rxNext
  if dir = 0 then next
  else
    let posts := d.bq.posts.filterMap fun p => match p.poster with
      | .hank k y _ _ q => if k = sk ∧ y = sys then some q else none
      | _ => none
    let told := left.filterMap fun m => if m.1.mtype = .refuse then some (m.2 - 1) else none
    (posts ++ told).foldl (fun a q => if seqBefore q a then q else a) next

/-- The frame of a stream on the wire, sent while the messages `left` wait. -/
def Dev.sendFrame (d : Dev) (dir sk sys p : Nat) (dst : BitVec 48) (epoch seq : Nat) (resync : Bool) (msgs left : List (HankMsg × Nat)) : Dev :=
  let flags := dir + 2 * b2n resync
  d.emit (.frame p dst (d.portMac p) (hankPayload flags d.sysnum sys sk p epoch seq (d.ackFor dir sk sys left) (d.reg Reg.HNK_INCARN).toNat
    (msgs.flatMap fun m => hankMsgBytes m.1)))

/-- Every unacknowledged frame of a stream goes out again, oldest first, on the port chosen (R485). -/
def Dev.retransmit (d : Dev) (dir sk sys : Nat) : Dev :=
  let k := streamKey dir sk sys
  let c := d.streamPort dir sk sys
  match c.1 with
  | none => d
  | some p =>
    let d := d.updStream k fun s => { s with port := some p, onAlt := c.2 }
    let dst := ((d.heardAt p sys).map (·.mac)).getD (d.stream k).lastMac
    (d.stream k).unacked.foldl (fun d f => (d.sendFrame dir sk sys p dst f.epoch f.seq f.resync f.msgs (d.stream k).out).count (Reg.HNK_PORT_RETX p)) d

/-- The streams carried by a port move and send their frames again (R477, R485). -/
def Dev.moveStreams (d : Dev) (p : Nat) : Dev :=
  d.hank.streams.foldl (fun d e =>
    if e.2.port = some p then d.retransmit (e.1 / 32768) (e.1 / 2048 % 16) (e.1 % 2048) else d) d

/-- How many messages from the front fit in 4,320 bytes. -/
def packCount : Nat → List (HankMsg × Nat) → Nat
  | _, [] => 0
  | room, m :: t => let n := (hankMsgBytes m.1).length; if n ≤ room then packCount (room - n) t + 1 else 0

/-- HANK_FRAME_SEND: waiting messages are packed into the stream's next frame; with none waiting, an acknowledgement
that is due goes in a frame of LEN 0 (R483, R484, R489). -/
def execHankFrameSend (sk : Fin 16) (sys : Fin 2048) (dir : Bool) (s : State) : Host.Outcome State Fault Refusal :=
  onDev s fun d =>
    let dr := b2n dir
    let k := streamKey dr sk.val sys.val
    let st := d.stream k
    let c := d.streamPort dr sk.val sys.val
    match c.1 with
    | none => d
    | some p =>
      if !d.hankRun then d
      else
        let n := packCount 4320 st.out
        if n = 0 ∨ 1024 ≤ st.unacked.length then
          if st.ackDue then
            (d.sendFrame dr sk.val sys.val p st.lastMac st.txEpoch 0 false [] st.out).updStream k fun s =>
              { s with ackDue := d.ackFor dr sk.val sys.val st.out != s.rxNext }
          else d
        else
          let f : TxFrame := ⟨st.txEpoch, st.txSeq, st.txResync, st.out.take n⟩
          let dst := ((d.heardAt p sys.val).map (·.mac)).getD st.lastMac
          let d := d.updStream k fun s =>
            { s with txSeq := (s.txSeq + 1) % 2 ^ 32, txResync := false, out := s.out.drop n, unacked := s.unacked ++ [f], port := some p, onAlt := c.2, ackDue := d.ackFor dr sk.val sys.val (st.out.drop n) != s.rxNext }
          let d := { d with hank := { d.hank with replay := d.hank.replay + f.size } }
          d.sendFrame dr sk.val sys.val p dst f.epoch f.seq f.resync f.msgs (st.out.drop n)

/-- HANK_RTO_EXPIRE: no ACK progress for RTO_US; after RETRY_MAX retransmissions the stream is held (R485, R486). -/
def execHankRtoExpire (sk : Fin 16) (sys : Fin 2048) (dir : Bool) (s : State) : Host.Outcome State Fault Refusal :=
  onDev s fun d =>
    let k := streamKey (b2n dir) sk.val sys.val
    if (d.stream k).unacked = [] ∨ !d.hankRun then d
    else
      let d := d.updStream k fun s =>
        { s with retries := s.retries + 1, held := if d.regF Reg.HNK_TIMERS 23 16 ≤ s.retries + 1 ∧ s.held = none then some d.now else s.held }
      d.retransmit (b2n dir) sk.val sys.val

/-! ### Refusal records (R495) -/

/-- Whether an ITEM has already been reported to its skein. -/
def reportedTag : Nat := 2 ^ 32

/-- A refusal record of an ITEM is posted to the skein's REFUSEQ, or lost and counted. -/
def Dev.refusalRecord (d : Dev) (sk : Nat) (m : HankMsg) (tag seq : Nat) (st : Status) : Dev :=
  let cfg := d.reg (Reg.HNK_SK_CFG sk)
  let n := d.regF (Reg.HNK_SK_REFUSEQ sk) 19 0
  let body := leBytes 4 m.qa.toNat ++ leBytes 1 st.code ++ leBytes 1 (leAt m.body 2 1) ++ leBytes 2 (leAt m.body 0 2) ++ leBytes 4 tag ++
    leBytes 4 seq ++ bytesAt m.body 16 32
  let d := d.qTouch n
  if !bit cfg 31 || (d.qOwner n).map (·.skein) != some sk || d.bqSafe || (d.postFails n 64 7).isSome then d.count (Reg.HNK_SK_REFUSE_LOST sk)
  else d.startPost n 64 7 0xC0000000 (.engine sk) body

/-- The items of frames are reported with TIMEOUT when their stream ends (R487). -/
def Dev.reportFrames (d : Dev) (sk : Nat) (fs : List TxFrame) : Dev :=
  fs.foldl (fun d f => f.msgs.foldl (fun d m =>
    if m.1.mtype = .item ∧ m.2 < reportedTag then d.refusalRecord sk m.1 m.2 f.seq .timeout else d) d) d

/-- A stream ends (R487): unacknowledged frames are discarded and reported, a new epoch begins; the receiving side is
unsynchronised where the peer's incarnation changed (R483). -/
def Dev.endStream (d : Dev) (dir sk sys : Nat) (unsync : Bool) : Dev :=
  let k := streamKey dir sk sys
  let s := d.stream k
  let d := d.updStream k fun s =>
    { s with txEpoch := (s.txEpoch + 1) % 2 ^ 16, txResync := true, unacked := [], retries := 0, held := none, rxSync := s.rxSync && !unsync }
  let d := { d with hank := { d.hank with replay := d.hank.replay - (s.unacked.map TxFrame.size).sum } }
  if dir = 0 then
    let d := { d with bq := { d.bq with creditReqs := d.bq.creditReqs.filter fun r => !(r.skein == sk && bitsN r.qa 30 20 == sys) } }
    d.reportFrames sk s.unacked
  else d

/-- STREAM_END: a stream held for PEER_HOLD_MS ends (R487). -/
def execStreamEnd (sk : Fin 16) (sys : Fin 2048) (dir : Bool) (s : State) : Host.Outcome State Fault Refusal :=
  onDev s fun d =>
    match (d.stream (streamKey (b2n dir) sk.val sys.val)).held with
    | none => d
    | some t => (d.timeTo (t + d.regF Reg.HNK_HOLD 15 0 * 1000000)).endStream (b2n dir) sk.val sys.val false

/-- Every stream with a peer ends, the grant blocks held for it are released, and those held from it are void (R475). -/
def Dev.peerRestart (d : Dev) (sys : Nat) (unsync : Bool) : Dev :=
  let d := (d.hank.streams.filter fun e => e.1 % 2048 == sys).foldl (fun d e => d.endStream (e.1 / 32768) (e.1 / 2048 % 16) sys unsync) d
  let gs := d.bq.grants.filterMap fun e => match e.2 with | some g => if g.sys = sys then some (e.1, g) else none | none => none
  let d := gs.foldl (fun d e =>
    let d := { d with bq := { d.bq with grants := merase d.bq.grants e.1 } }
    (d.updQ e.2.q fun c => (c.mark e.2.own .free).reclaim).serveGrants e.2.q) d
  { d with bq := { d.bq with grantReqs := d.bq.grantReqs.filter fun r => r.sys != sys, credits := d.bq.credits.filter fun b => bitsN b.qa 30 20 != sys, creditReqs := d.bq.creditReqs.filter fun r => bitsN r.qa 30 20 != sys } }

/-- Streams with a peer are held while it is DOWN; after it, those that retransmissions hold stay so (R486). -/
def Dev.holdStreams (d : Dev) (sys : Nat) (down : Bool) : Dev :=
  (d.hank.streams.filter fun e => e.1 % 2048 == sys).foldl (fun d e => d.updStream e.1 fun s =>
    if down then (if s.held.isNone then { s with held := some d.now } else s)
    else if d.regF Reg.HNK_TIMERS 23 16 ≤ s.retries then s else { s with held := none }) d

/-- The state of a peer follows what is heard; entry into CONFLICT is recorded in the audit log (R474). -/
def Dev.setPeerState (d : Dev) (sys st : Nat) : Dev :=
  let old := d.peerState sys
  let d := d.setRegF (Reg.HNK_PEER sys) 9 8 st
  let d := if st = 2 ∧ old ≠ 2 then (d.updPeer sys fun p => { p with downSince := d.now }).holdStreams sys true else d
  let d := if st = 1 ∧ old = 2 then d.holdStreams sys false else d
  if st = 3 ∧ old ≠ 3 then d.audit 2 5 0xFF 0 0xFF 3 0 (leBytes 4 sys) else d

/-- A HELLO is heard on a port (R473, R474). -/
def Dev.hello (d : Dev) (p sys srcPort : Nat) (mac : BitVec 48) (incarn : BitVec 32) : Dev :=
  if !d.portUp p || !d.hankRun then d
  else
    let base := mac - BitVec.ofNat 48 srcPort
    let pr := d.peer sys
    let recent := pr.incarn.isSome && decide (d.now < pr.lastHello + d.helloSpan)
    let differs := pr.incarn != some incarn || pr.base != base
    let h := match d.heardAt p sys with
      | some h => if h.macPort < srcPort ∧ d.now < h.until_ then { h with until_ := d.now + d.helloSpan } else ⟨d.now + d.helloSpan, mac, srcPort⟩
      | none => ⟨d.now + d.helloSpan, mac, srcPort⟩
    let d := { d with hank := { d.hank with heard := mset none d.hank.heard (p * 2048 + sys) (some h) } }
    let d := d.setReg (Reg.HNK_PEER sys) (d.reg (Reg.HNK_PEER sys) ||| (1#32 <<< p))
    if sys = d.sysnum ∨ (recent ∧ differs) then
      (d.updPeer sys fun x => { x with conflictUntil := d.now + d.helloSpan }).setPeerState sys 3
    else
      let changed := pr.incarn.isSome && pr.incarn != some incarn
      let d := d.updPeer sys fun x => { x with incarn := some incarn, base := base, lastHello := d.now }
      let d := if changed then d.peerRestart sys true else d
      if d.peerState sys = 3 then d else d.setPeerState sys 1

/-- HELLO (R473, R474). -/
def execHello (port : Fin 8) (h : HelloFrame) (s : State) : Host.Outcome State Fault Refusal :=
  onDev s fun d => d.hello port.val h.sys.val h.srcPort.val h.mac h.incarn

/-- HELLO_SEND: an UP port broadcasts its HELLO (R473). -/
def execHelloSend (port : Fin 8) (s : State) : Host.Outcome State Fault Refusal :=
  onDev s fun d =>
    if d.portUp port.val && d.hankRun then
      d.emit (.frame port.val 0xFFFFFFFFFFFF#48 (d.portMac port.val) (hankPayload 4 d.sysnum 0xFFFF 0 port.val 0 0 0 (d.reg Reg.HNK_INCARN).toNat []))
    else d

/-- PEER_REACH_LAPSE: three intervals after the last HELLO (R473, R474). -/
def execPeerReachLapse (port : Fin 8) (sys : Fin 2048) (s : State) : Host.Outcome State Fault Refusal :=
  onDev s fun d =>
    match d.heardAt port.val sys.val with
    | none => d
    | some h =>
      let d := d.timeTo h.until_
      let d := { d with hank := { d.hank with heard := merase d.hank.heard (port.val * 2048 + sys.val) } }
      let d := d.setReg (Reg.HNK_PEER sys.val) (d.reg (Reg.HNK_PEER sys.val) &&& ~~~(1#32 <<< port.val))
      if d.peerState sys.val = 1 ∧ d.regF (Reg.HNK_PEER sys.val) 7 0 = 0 then d.setPeerState sys.val 2 else d

/-- PEER_CONFLICT_CLEAR: no conflicting HELLO for three intervals (R474). -/
def execPeerConflictClear (sys : Fin 2048) (s : State) : Host.Outcome State Fault Refusal :=
  onDev s fun d =>
    if d.peerState sys.val ≠ 3 then d
    else
      let d := d.timeTo (d.peer sys.val).conflictUntil
      d.setPeerState sys.val (if d.regF (Reg.HNK_PEER sys.val) 7 0 ≠ 0 ∧ sys.val ≠ d.sysnum then 1 else if (d.peer sys.val).incarn.isSome then 2 else 0)

/-- PEER_DOWN_HOLD_EXPIRE: a peer has been DOWN for PEER_HOLD_MS (R475). -/
def execPeerDownHoldExpire (sys : Fin 2048) (s : State) : Host.Outcome State Fault Refusal :=
  onDev s fun d =>
    if d.peerState sys.val ≠ 2 then d
    else (d.timeTo ((d.peer sys.val).downSince + d.regF Reg.HNK_HOLD 15 0 * 1000000)).peerRestart sys.val false

/-! ### Messages at the destination (R493, 04 R142) -/

/-- Whether P_HANK of a queue admits an origin (03 R105). -/
def Dev.hankAdmits (d : Dev) (n sys : Nat) : Bool :=
  let f := (d.q n).pHank
  bit f 15 && (bit f 14 || field f 10 0 == sys)

/-- Steps 3 to 6 of R112 for an arrival or a request. -/
def Dev.hankFails (d : Dev) (n sys : Nat) : Option Status :=
  match d.qOwner n with
  | none => some .range
  | some o =>
    if !d.hankAdmits n sys then some .denied
    else if !d.qmemOn o n then some .domainOff
    else if (d.q n).dead then some .poison
    else if !(d.q n).en then some .state
    else none

/-- A credit request arrives: granted, recorded, or answered with a status (04 R142, R147). -/
def Dev.rxCreq (d : Dev) (sk sys : Nat) (m : HankMsg) : Dev :=
  let n := m.qa.toNat % 2 ^ 20
  let d := d.qTouch n
  let want := m.aux.toNat
  let r : GrantReq := ⟨sys, sk, n, m.qa.toNat, want⟩
  let answer (st : Status) : Dev :=
    let d := if st = .state then d.count Reg.BQ_STATE_REJECT else d
    let d := match d.qOwner n with | some o => d.count (Reg.BQ_AT_HANK_REFUSED o.skein) | none => d
    d.hankSay 1 sk sys ⟨.grant, BitVec.ofNat 8 st.code, m.qa, 0#32, 0#32, []⟩
  match d.hankFails n sys with
  | some st => answer st
  | none =>
    if want = 0 ∨ (d.q n).cells - 1 < want then answer .range
    else if (d.q n).blockSize want ≤ (d.q n).room ∨ 16384 ≤ d.bq.grants.length then d.grantNow r
    else
      let rest := d.bq.grantReqs.filter fun x => !(x.sys == sys && x.skein == sk && x.q == n)
      { d with bq := { d.bq with grantReqs := rest ++ [r] } }

/-- The runs of a ring with `m` cells of a block, from offset `gap` in its last run, given to an item. -/
def fillRuns (own item gap m : Nat) : List QRun → List QRun
  | [] => []
  | r :: t =>
    if r.own = own ∧ r.st = .held ∧ t.all (fun x => x.own != own) then
      ([⟨own, gap, .held⟩, ⟨item, m, .held⟩, ⟨own, r.n - gap - m, .held⟩] : List QRun).filter (fun x => x.n != 0) ++ t
    else r :: fillRuns own item gap m t

/-- The grant block a message names, where it is valid (R480). -/
def Dev.grantNamed (d : Dev) (g : Nat) : Option Grant :=
  (mget none d.bq.grants (g % 16384)).filter fun x => x.gen == g / 16384

/-- An ITEM arrives under a grant block: checked in the order of R493, then posted (R493, 04 R145). -/
def Dev.rxItem (d : Dev) (sk sys : Nat) (m : HankMsg) : Dev :=
  let n := m.qa.toNat % 2 ^ 20
  let g := m.grant.toNat
  let off := m.aux.toNat
  let seq := ((d.stream (streamKey 1 sk sys)).rxNext + 2 ^ 32 - 1) % 2 ^ 32
  let no (d : Dev) (st : Status) : Dev :=
    let d := if st = .state then d.count Reg.BQ_STATE_REJECT else if st = .flushed then d.count Reg.BQ_PARTIAL_DISCARD else d
    d.refuse sk sys n m.qa.toNat g off seq st
  match d.grantNamed g with
  | none => no d .flushed
  | some b =>
    if b.sys ≠ sys then no d .denied
    else if b.skein ≠ sk ∨ b.q ≠ n then no d .flushed
    else
      let d := d.qTouch n
      let len := leAt m.body 0 2
      let prio := leAt m.body 2 1
      let cells := (m.body.length + 63) / 64
      match d.hankFails n sys with
      | some st => no d st
      | none =>
        if badItem len prio ∨ len ≠ m.body.length ∨ off < b.next ∨ b.n < off + cells then no d .range
        else
          let own := d.bq.nextOwn
          let q := d.q n
          let d := d.setQ n { q with runs := fillRuns b.own own (off - b.next) cells q.runs }
          let b' : Option Grant := if off + cells < b.n then some { b with next := off + cells } else none
          let d := { d with bq := { d.bq with grants := mset none d.bq.grants (g % 16384) b', nextOwn := own + 1 } }
          let p : QPost := ⟨own, n, (b.cell + off) % q.cells, cells, len, prio, 0x80000000 + sys, .hank sk sys g off seq, m.body.drop 16⟩
          let d := { d with bq := { d.bq with posts := d.bq.posts ++ [p] } }
          d.charge (d.posterSkein n p.poster) (slotsOf len)

/-- A block's remainder is released by its origin (R480). -/
def Dev.rxCrel (d : Dev) (sk sys : Nat) (m : HankMsg) : Dev :=
  match d.grantNamed m.grant.toNat with
  | none => d
  | some b =>
    if b.sys ≠ sys ∨ b.skein ≠ sk then d
    else
      let d := { d with bq := { d.bq with grants := merase d.bq.grants (m.grant.toNat % 16384) } }
      (d.updQ b.q fun c => (c.mark b.own .free).reclaim).serveGrants b.q

/-! ### Messages at the origin (R492, R494, R495; 04 R143) -/

/-- The status of a code. -/
def statusOf (n : Nat) : Status :=
  match n with
  | 0 => .ok
  | 1 => .state
  | 2 => .denied
  | 3 => .conflict
  | 4 => .range
  | 5 => .busy
  | 6 => .flushed
  | 7 => .timeout
  | 8 => .poison
  | 9 => .dead
  | 10 => .empty
  | 11 => .full
  | 12 => .halted
  | 13 => .integrity
  | 14 => .unsupported
  | _ => .domainOff

/-- A GRANT arrives at the origin (R492, 04 R143); a block for which the table, or the two of its queue, leave no room goes back
at once. -/
def Dev.rxGrant (d : Dev) (sk : Nat) (m : HankMsg) : Dev :=
  let qa := m.qa.toNat
  let mine (r : CreditReq) : Bool := r.skein == sk && r.qa == qa
  if m.status = 0#8 then
    let b : CreditBlock := ⟨sk, qa, m.grant.toNat, m.aux.toNat, 0, d.now⟩
    let d := { d with bq := { d.bq with creditReqs := d.bq.creditReqs.filter fun r => !mine r } }
    if 16384 ≤ d.bq.credits.length ∨ 2 ≤ (d.blocksFor sk qa).length then d.releaseBlock b
    else { d with bq := { d.bq with credits := d.bq.credits ++ [b] } }
  else if m.status = 5#8 then
    { d with bq := { d.bq with creditReqs := d.bq.creditReqs.map fun r => if mine r then { r with busy := true } else r } }
  else
    let d := { d with bq := { d.bq with creditReqs := d.bq.creditReqs.filter fun r => !mine r } }
    let ws := d.bq.remote.filter fun r => r.qa == qa && d.skeinOf r.l == some sk
    let d := { d with bq := { d.bq with remote := d.bq.remote.filter fun r => !ws.contains r } }
    ws.foldl (fun d r => (d.countStatus sk (statusOf m.status.toNat)).coreDone r.l r.gd (qstat (statusOf m.status.toNat))) d

/-- A REFUSE arrives at the origin: the refused ITEM is reported once (R488, R495). -/
def Dev.rxRefuse (d : Dev) (sk sys : Nat) (m : HankMsg) : Dev :=
  let k := streamKey 0 sk sys
  let hit (x : HankMsg × Nat) : Bool := x.1.mtype == .item && x.1.grant == m.grant && x.1.aux == m.aux && decide (x.2 < reportedTag)
  match (d.stream k).unacked.find? fun f => f.msgs.any hit with
  | none => d
  | some f =>
    match f.msgs.find? hit with
    | none => d
    | some x =>
      let d := d.updStream k fun s =>
        { s with unacked := s.unacked.map fun f => { f with msgs := f.msgs.map fun y => if hit y then (y.1, y.2 + reportedTag) else y } }
      d.refusalRecord sk x.1 x.2 f.seq (statusOf m.status.toNat)

/-- A REVOKE arrives at the origin: the block is dropped (R494). -/
def Dev.rxRevoke (d : Dev) (sk : Nat) (m : HankMsg) : Dev :=
  { d with bq := { d.bq with credits := d.bq.credits.filter fun b => !(b.skein == sk && b.grant == m.grant.toNat) } }

/-- A message of a stream's frame is processed, in the direction its type travels (R480). -/
def Dev.rxMsg (d : Dev) (dir sk sys : Nat) (m : HankMsg) : Dev :=
  match m.mtype with
  | .item => if dir = 0 then d.rxItem sk sys m else d
  | .creq => if dir = 0 then d.rxCreq sk sys m else d
  | .crel => if dir = 0 then d.rxCrel sk sys m else d
  | .grant => if dir = 1 then d.rxGrant sk m else d
  | .refuse => if dir = 1 then d.rxRefuse sk sys m else d
  | .revoke => if dir = 1 then d.rxRevoke sk m else d

/-- A message taken by itself, while the Hank unit is in service. -/
def Dev.rxAlone (d : Dev) (dir : Nat) (t : HankType) (sk sys : Nat) (m : HankMsg) : Dev :=
  if d.hankRun then d.rxMsg dir sk sys { m with mtype := t } else d

/-- HANK_ITEM (R493). -/
def execHankItem (sk : Fin 16) (sys : Fin 2048) (m : HankMsg) (s : State) : Host.Outcome State Fault Refusal :=
  onDev s fun d => d.rxAlone 0 .item sk.val sys.val m

/-- HANK_CREQ (04 R142). -/
def execHankCreq (sk : Fin 16) (sys : Fin 2048) (m : HankMsg) (s : State) : Host.Outcome State Fault Refusal :=
  onDev s fun d => d.rxAlone 0 .creq sk.val sys.val m

/-- HANK_CREL (R480). -/
def execHankCrel (sk : Fin 16) (sys : Fin 2048) (m : HankMsg) (s : State) : Host.Outcome State Fault Refusal :=
  onDev s fun d => d.rxAlone 0 .crel sk.val sys.val m

/-- HANK_GRANT (R492). -/
def execHankGrant (sk : Fin 16) (sys : Fin 2048) (m : HankMsg) (s : State) : Host.Outcome State Fault Refusal :=
  onDev s fun d => d.rxAlone 1 .grant sk.val sys.val m

/-- HANK_REFUSE (R495). -/
def execHankRefuse (sk : Fin 16) (sys : Fin 2048) (m : HankMsg) (s : State) : Host.Outcome State Fault Refusal :=
  onDev s fun d => d.rxAlone 1 .refuse sk.val sys.val m

/-- HANK_REVOKE (R494). -/
def execHankRevoke (sk : Fin 16) (sys : Fin 2048) (m : HankMsg) (s : State) : Host.Outcome State Fault Refusal :=
  onDev s fun d => d.rxAlone 1 .revoke sk.val sys.val m

/-- CREQ_RETRY: requests for a queue answered BUSY are sent again (04 R142). -/
def execCreqRetry (qa : BitVec 32) (s : State) : Host.Outcome State Fault Refusal :=
  onDev s fun d =>
    let rs := d.bq.creditReqs.filter fun r => r.qa == qa.toNat && r.busy
    let d := { d with bq := { d.bq with creditReqs := d.bq.creditReqs.map fun r => if r.qa = qa.toNat then { r with busy := false } else r } }
    rs.foldl (fun d r => d.hankSay 0 r.skein (bitsN r.qa 30 20) ⟨.creq, 0#8, qa, 0#32, BitVec.ofNat 32 r.n, []⟩) d

/-- CREDIT_BLOCK_IDLE_RELEASE: the block of a queue unused for longest has been unused for 1 ms, and is released
(04 R143). -/
def execCreditBlockIdleRelease (qa : BitVec 32) (s : State) : Host.Outcome State Fault Refusal :=
  onDev s fun d =>
    match (d.bq.credits.filter fun b => b.qa == qa.toNat) with
    | [] => d
    | b :: t =>
      let x := t.foldl (fun x y => if y.lastUse < x.lastUse then y else x) b
      (d.timeTo (x.lastUse + 1000000)).releaseBlock x

/-! ### Received frames (R481 to R484) -/

/-- A dropped frame is counted with its reason (R481). -/
def Dev.hankDrop (d : Dev) (p reason : Nat) : Dev := (d.count (Reg.HNK_PORT_RX_DROP p)).setRegF (Reg.HNK_PORT_DROP_LAST p) 2 0 reason

/-- Why a received frame is dropped, or its messages (R481). -/
def Dev.frameCheck (d : Dev) (f : HankFrame) : Except Nat (List HankMsg) :=
  let b := f.payload
  let len := leAt b 2 2
  let eth := match d.img.img with | some i => i.ethertype | none => 0
  if !f.fcsOk then .error 1
  else if f.ethertype.toNat ≠ eth then .error 2
  else if b.length < 32 ∨ 4320 < len ∨ b.length < 32 + len then .error 4
  else if leAt b 0x1C 4 ≠ hankCheck (b.take 0x1C ++ (b.drop 32).take len) then .error 3
  else if leAt b 0 1 ≠ 1 ∨ 8 ≤ leAt b 1 1 ∨ 16 ≤ leAt b 8 1 ∨ leAt b 0x18 4 ≠ 0 then .error 4
  else match parseHankMsgs len ((b.drop 32).take len) with
    | none => .error 4
    | some ms =>
      let hello := (leAt b 1 1).testBit 2
      if leAt b 6 2 = d.sysnum ∨ (leAt b 6 2 = 0xFFFF ∧ hello) then .ok ms else .error 5

/-- An ACK frees the frames it covers; progress ends a hold (R484, R486). -/
def Dev.rxAck (d : Dev) (k ack : Nat) : Dev :=
  let s := d.stream k
  let left := s.unacked.filter fun f => !seqBefore f.seq ack
  if left.length = s.unacked.length then d
  else
    let gone := (s.unacked.map TxFrame.size).sum - (left.map TxFrame.size).sum
    let d := { d with hank := { d.hank with replay := d.hank.replay - gone } }
    d.updStream k fun s => { s with unacked := left, retries := 0, held := none }

/-- A frame of a stream: its ACK, then its messages by the table of R482. -/
def Dev.rxStream (d : Dev) (p : Nat) (f : HankFrame) (ms : List HankMsg) : Dev :=
  let b := f.payload
  let dir := (leAt b 1 1) % 2
  let resync := (leAt b 1 1).testBit 1
  let sys := leAt b 4 2 % 2048
  let sk := leAt b 8 1 % 16
  let k := streamKey (1 - dir) sk sys
  let epoch := leAt b 0x0A 2
  let seq := leAt b 0x0C 4
  let d := if (d.peer sys).incarn = some (BitVec.ofNat 32 (leAt b 0x14 4)) then d.rxAck k (leAt b 0x10 4) else d
  let d := d.updStream k fun s => { s with lastMac := f.src, port := if dir = 0 then some p else s.port }
  if ms = [] then d
  else
    let s := d.stream k
    let run (d : Dev) : Dev :=
      let d := d.updStream k fun s => { s with rxEpoch := epoch, rxNext := (seq + 1) % 2 ^ 32, rxSync := true, ackDue := true }
      ms.foldl (fun d m => d.rxMsg dir sk sys m) d
    if !s.rxSync then (if resync then run d else d)
    else if epoch = s.rxEpoch then
      if seq = s.rxNext then run d
      else if seqBefore seq s.rxNext then (d.count (Reg.HNK_PORT_RX_DUP p)).updStream k fun s => { s with ackDue := true }
      else d
    else if resync ∧ epoch = (s.rxEpoch + 1) % 2 ^ 16 then run d
    else d

/-- HANK_FRAME_RECEIVE (R470, R481, R482). -/
def execHankFrameReceive (port : Fin 8) (f : HankFrame) (s : State) : Host.Outcome State Fault Refusal :=
  onDev s fun d =>
    let p := port.val
    if !d.portUp p || !d.hankRun then d
    else if f.dst ≠ d.portMac p ∧ f.dst ≠ 0xFFFFFFFFFFFF#48 then d
    else match d.frameCheck f with
      | .error r => d.hankDrop p r
      | .ok ms =>
        let b := f.payload
        if (leAt b 1 1).testBit 2 then d.hello p (leAt b 4 2 % 2048) (leAt b 9 1 % 8) f.src (BitVec.ofNat 32 (leAt b 0x14 4))
        else d.rxStream p f ms

/-! ### Ports (R472, R496, R499) -/

/-- The state of a port. -/
def Dev.portState (d : Dev) (p : Nat) : Nat := d.regF (Reg.HNK_PORT_STATUS p) 2 0

/-- The device with the state of a port set. -/
def Dev.setPortState (d : Dev) (p st : Nat) : Dev := d.setRegF (Reg.HNK_PORT_STATUS p) 2 0 st

/-- HANK_PORT_UP: block lock and no link fault (R472). -/
def execHankPortUp (port : Fin 8) (s : State) : Host.Outcome State Fault Refusal :=
  onDev s fun d => if d.portState port.val = 1 ∨ d.portState port.val = 3 then d.setPortState port.val 2 else d

/-- HANK_PORT_DOWN: block lock lost or a fault sequence for 2 µs; the streams move (R472, R477). -/
def execHankPortDown (port : Fin 8) (s : State) : Host.Outcome State Fault Refusal :=
  onDev s fun d => if d.portState port.val = 2 then (d.setPortState port.val 3).moveStreams port.val else d

/-- A command of HNK_PORT_CMD: 1 RETRAIN; 2 to 7 give RANGE (R498, R499). -/
def Dev.hnkDo (d : Dev) (q : Requester) (p cmd : Nat) : Dev :=
  let may : Bool := match findReg (Reg.HNK_PORT_CMD p) with | some (r, l) => d.mayWrite q r l | none => false
  let res (d : Dev) (st : Status) : Dev := d.setRegF (Reg.HNK_PORT_STATUS p) 31 24 st.code
  if !may ∨ cmd = 0 then d
  else if 1 < cmd then res d (if d.portState p = 5 then .halted else .range)
  else match d.portState p with
    | 1 => res d .busy
    | 2 => res ((d.setPortState p 1).moveStreams p) .ok
    | 3 => res (d.setPortState p 1) .ok
    | 5 => res d .halted
    | _ => res (d.count (Reg.HNK_PORT_STATE_REJECT p)) .state

/-- HNK_RETRAIN (R498, R499). -/
def execHnkRetrain (q : Requester) (port : Fin 8) (s : State) : Host.Outcome State Fault Refusal :=
  onDev s fun d => d.hnkDo q port.val 1

/-- The lowest-numbered UP spare port that no other port uses (R496). -/
def Dev.freeSpare (d : Dev) : Option Nat :=
  (List.range 8).find? fun p => d.regF (Reg.HNK_PORT_STATUS p) 13 12 == 3 && d.portUp p && d.substOf p == p

/-- HANK_PORT_RETIRE: a port with an internal error leaves service (R496, 16 R502). -/
def execHankPortRetire (port : Fin 8) (s : State) : Host.Outcome State Fault Refusal :=
  onDev s fun d =>
    let p := port.val
    let st := d.portState p
    if st = 0 ∨ st = 4 ∨ st = 5 then d
    else
      let d := ({ d with hank := { d.hank with gone := mset false d.hank.gone p true } }.setPortState p 4).moveStreams p
      match d.freeSpare with
      | some _ => d
      | none => d.record ⟨0x12, false, .fbAtNotice, 0x10, none, p, 0xFF, 0, d.skeinsOfPort (d.substOf p)⟩

/-- HANK_SPARE_SUBSTITUTE: a spare takes the address, the role and the ALT of a retired port (R496). -/
def execHankSpareSubstitute (port : Fin 8) (s : State) : Host.Outcome State Fault Refusal :=
  onDev s fun d =>
    let p := port.val
    if d.portState p ≠ 4 ∨ (List.range 8).any fun x => x != p && d.substOf x == d.substOf p && d.portState x != 4 then d
    else match d.freeSpare with
      | none => d
      | some x =>
        let d := (d.setRegF (Reg.HNK_PORT_STATUS x) 18 16 (d.substOf p)).setReg64 (Reg.HNK_PORT_MAC_LO x) (d.reg64 (Reg.HNK_PORT_MAC_LO p))
        let d := { d with hank := { d.hank with subst := mset none d.hank.subst x (some (d.substOf p)) } }
        (d.useBudget 10 1).record ⟨0x12, false, .fbAtNotice, 0x10, none, p, x, 0, d.skeinsOfPort (d.substOf p)⟩

/-- LOCAL_FAULT_END: 10 ms after SAFE entry a port's transmitters go off (R497). -/
def execLocalFaultEnd (port : Fin 8) (s : State) : Host.Outcome State Fault Refusal :=
  onDev s fun d => if d.safe ∧ d.portState port.val = 5 then d.emit (.txOff port.val) else d

end Sys2Proof.Machine
end

