-- ==== Sys2Proof/Machine/Safe.lean ====
section
/-! DEFINITION. SAFE entry as one shared operation (16 R519 to R522): what every unit does at the trigger. -/
namespace Sys2Proof.Machine

/-- The code of a cause (16 R519). -/
def safeCode : SafeCause → Nat
  | .distaff => 1
  | .image => 2
  | .swdog _ => 3
  | .thermal => 4
  | .spares => 5
  | .boot => 6
  | .command => 7

/-- The skein of RL_SAFE_CAUSE. -/
def safeSkein : SafeCause → Nat
  | .swdog s => s.val
  | _ => 0xFF

/-- A core stops at its boundary: its store buffer drains as far as it can, and the rest is discarded (16 R520). -/
def Dev.coreSafe (d : Dev) (l : Nat) : Dev := (d.drain l).updCore l fun c => { c with sb := [] }

/-- The destination of the queue instruction a core is blocked in. -/
def Dev.blockedIn (d : Dev) (l : Nat) : Option (BitVec 5) :=
  match (d.core l).wait with
  | .queue q => some q.gd
  | .flush gd _ => some gd
  | .post gd _ => some gd
  | .remote => (d.bq.remote.find? fun r => r.l == l).map fun r => r.gd
  | _ => none

/-- SAFE entry ends the wait of a core at the engine with HALTED (03 R95, 15 R497); the instruction does not complete, because
the core has stopped (16 R520; log entry 25). -/
def Dev.haltWait (d : Dev) (l : Nat) : Dev :=
  match d.blockedIn l with
  | some gd => d.updCore l fun c => { c with wait := .answered gd (qstat .halted) }
  | none => d

/-- The queue engine in SAFE: nothing is delivered any more, and every wait ends with HALTED (03 R95, R121, 16 R520, R522). -/
def Dev.bobbinSafe (d : Dev) : Dev :=
  let d := (d.cores.map fun (e : Nat × Core) => e.1).foldl Dev.haltWait d
  let d := { d with bq := { d.bq with
    posts := [], remote := [], ctx := (d.bq.ctx.map fun (e : Nat × QCtx) => (e.1, { e.2 with waiters := [] })).filter fun (e : Nat × QCtx) => e.2 != QCtx.reset } }
  d.setRegF Reg.BQ_STATUS 1 0 2

/-- Hank ports send Local Fault; nothing is sent or processed afterwards (15 R497). -/
def Dev.hankSafe (d : Dev) : Dev :=
  (List.range 8).foldl (fun d p => (d.setRegF (Reg.HNK_PORT_STATUS p) 2 0 5).emit (.localFault p)) (d.setRegF Reg.HNK_STATUS 1 0 2)

/-- The memory controllers put every rank into self-refresh; a controller holds no queued write here, so none is
discarded (13 R428). -/
def Dev.dramSafe (d : Dev) : Dev := (List.range 16).foldl (fun d m => d.setRegF (Reg.MC_STATUS m) 2 0 6) d

/-- The bundles: endpoint links stay in L0, root ports go to electrical idle (16 R521). -/
def Dev.pceSafe (d : Dev) : Dev :=
  (List.range 8).foldl (fun d b =>
    let m := d.bundleMode b
    let d := d.setRegF (Reg.MMU_IO_INV_STATUS b) 1 0 2
    if m = 0 then d
    else
      let d := d.setRegF (Reg.PCE_STATUS b) 2 0 3
      d.updBun b fun x => { x with l0 := x.l0 && m == 2, wakeLow := false, perst := x.perst || m == 1 }) d

/-- The units of caches and guest ports (16 R522). -/
def Dev.cohSafe (d : Dev) : Dev :=
  let d := (List.range 16).foldl (fun d i => d.setRegF (Reg.CCH_L3_PD_STATUS i) 1 0 2) d
  let d := d.setRegF Reg.CCH_HC_PD_STATUS 1 0 2
  (List.range 2).foldl (fun d g => d.setRegF (Reg.D2D_GST_STATUS g) 2 0 6) { d with coh := { d.coh with wayUnits := [] } }

/-- The image unit in SAFE: a delta that has not switched does not, and is answered HALTED (02 R65); a check or stage in
progress, which SAFE admits, goes on (16 R522). -/
def Dev.imgSafe (d : Dev) : Dev :=
  let d := d.deltaAnswer .halted
  { d with img := { d.img with unit := .safe, pending := none } }.setRegF Reg.IMG_STATUS 19 16 5

/-- Reels are abandoned where they stand, and commands that wait for them are answered HALTED (16 R507, R522). -/
def Dev.reelSafe (d : Dev) : Dev :=
  let d := (d.rel.asked.map fun (x : Nat × Caller × Nat) => x.1).foldl (fun d l => d.reelAnswer l .halted []) d
  ({ d with rel := { d.rel with reels := [], due := [] } }.setRegF Reg.RL_STATUS 12 8 0).setRegF Reg.RL_STATUS 1 0 2

/-- The pins of R521: FAULT_N low, THERMTRIP_N low for cause THERMAL, outputs released. -/
def Dev.pinsSafe (d : Dev) (c : SafeCause) : Dev :=
  { d with pwr := { d.pwr with faultN := false, thermtripN := d.pwr.thermtripN && decide (c ≠ SafeCause.thermal), pulse := [], selfReq := [] } }.setRegF Reg.PWR_STATUS 1 0 2

/-- The first SAFE entry since COLD reset is recorded (16 R520). -/
def Dev.noteSafe (d : Dev) (c : SafeCause) : Dev :=
  if d.regF Reg.RL_SAFE_CAUSE 7 0 = 0 then
    ((d.setRegF Reg.RL_SAFE_CAUSE 7 0 (safeCode c)).setRegF Reg.RL_SAFE_CAUSE 23 16 (safeSkein c)).setReg64 Reg.RL_SAFE_TIME_LO d.now
  else d

/-- The device enters SAFE; while it is there a further trigger is only counted (16 R519, R520). -/
def Dev.enterSafe (d : Dev) (c : SafeCause) : Dev :=
  if d.safe then d.setRegF Reg.RL_SAFE_CAUSE 15 8 (min 0xFF (d.regF Reg.RL_SAFE_CAUSE 15 8 + 1))
  else
    let d := (d.cores.map fun (e : Nat × Core) => e.1).foldl Dev.coreSafe d
    let d := d.bobbinSafe.hankSafe.dramSafe.pceSafe.cohSafe.imgSafe.reelSafe
    let due := match c with
      | .swdog _ => some (d.now + 100000000)
      | _ => none
    (({ d with safe := true, boot := { d.boot with safeBy := some c, swdogDue := due } }.pinsSafe c).noteSafe c).setDstState 2

/-- SAFE_ENTRY: a trigger reaches every unit (16 R520). -/
def execSafeEntry (cause : SafeCause) (s : State) : Host.Outcome State Fault Refusal := onDev s fun d => d.enterSafe cause

/-! ### Pipelines (03 R118) -/

/-- PIPE_RETIRE: a pipeline's uncommitted operations end with FLUSHED and its classes move on; the last one to go
drives the device into SAFE (03 R118, 16 R502, R504). -/
def execPipeRetire (pipe : Fin 4) (s : State) : Host.Outcome State Fault Refusal :=
  onDev s fun d =>
    let up := d.regF Reg.BQ_STATUS 11 8
    let left := up - 2 ^ pipe.val
    if !up.testBit pipe.val || d.safe then d
    else
      let d := d.retirePipe pipe.val left
      let d := (d.useBudget 12 1).record ⟨0x11, false, .fbAtNotice, 0x10, none, pipe.val, 0, 0, d.skeinsWhere fun _ => true⟩
      if left = 0 then d.enterSafe .spares else d.pumpAll

end Sys2Proof.Machine
end

