-- ==== Sys2Proof/Machine/Release.lean ====
section
/-! DEFINITION. CORE reset (10 R335, 08 R276, 06 R203, 09 R298), an LCN whose state is found unreadable (16 R508), and the
queues of a skein at its reset (03 R109). -/
namespace Sys2Proof.Machine

/-- The base of a skein's lowest MEM range, in bytes (18 R560). -/
def SkeinCfg.lowBase (c : SkeinCfg) : Nat :=
  match (c.mem.take c.ranges).map (·.1) with
  | [] => 0
  | b :: t => t.foldl min b * 0x40000000

/-- A core at the reset vector of its skein, released, with every register at its Reset value (08 R250, 18 R561). -/
def Core.atVector (c : SkeinCfg) : Core :=
  { Core.reset with released := true, level := if c.secure then .sk else .k, pc := BitVec.ofNat 64 c.lowBase }

/-- A core released: the skein number, the address of the loader's body and its length in g4 to g6 (18 R561). -/
def Core.released_ (c : SkeinCfg) (len : Nat) : Core :=
  let k := Core.atVector c
  { k with g := mset 0#64 (mset 0#64 (mset 0#64 [] 4 (BitVec.ofNat 64 c.skein)) 5 (BitVec.ofNat 64 c.lowBase)) 6 (BitVec.ofNat 64 len) }

/-- The length of the body of a skein's loader in boot flash (18 R560). -/
def Dev.loaderLen (d : Dev) (sk : Nat) : Nat :=
  match d.dst.loaders.find? fun (e : Nat × (List Byte × Bool)) => e.1 == sk with
  | some (_, body, _) => body.length
  | none => 0

/-- A core that a CORE reset releases again, with the registers of every release (18 R561, R563; log entry 48). -/
def Dev.coreAgain (d : Dev) (c : SkeinCfg) : Core := Core.released_ c (d.loaderLen c.skein)

/-- An LCN leaves the queue engine: it waits for nothing, and a post of it that commits later tells no one. -/
def Dev.leaveEngine (d : Dev) (l : Nat) : Dev :=
  let sk := (d.skeinOf l).getD 0
  let d := d.unwait l
  { d with bq := { d.bq with posts := d.bq.posts.map fun p =>
      match p.poster with
      | .core k _ => if k = l then { p with poster := .gone sk } else p
      | _ => p } }

/-- A reset of the traced LCN ends tracing (20 R605). -/
def Dev.traceReset (d : Dev) (l : Nat) : Dev := if d.traced l then d.setRegF Reg.TRC_CTL 31 31 0 else d

/-- The physical addresses of the stores of a buffer, oldest first. -/
def sbAddrs : List SbItem → List Nat
  | [] => []
  | .store (c :: _) _ _ _ :: t => c.1 :: sbAddrs t
  | _ :: t => sbAddrs t

/-- The registers of an LCN go to a core at `c0`. What it has issued stays in the interconnect, and nothing of its response
comes back (10 R335). -/
def Dev.resetCore (d : Dev) (l : Nat) (c0 : Core) : Dev :=
  (d.leaveEngine l).updCore l fun c => { c0 with nextTid := c.nextTid, devOut := c.devOut.map fun r => { r with quiet := true } }

/-- The spindle of an LCN, 0xFFFF where none carries it. -/
def Dev.spindle (d : Dev) (l : Nat) : Nat := (mget none d.spindleOf l).getD 0xFFFF

/-- What a reset makes of the entries a store buffer still holds: the record that names them, and whether it is attributed to
the secure world; none where nothing is left (10 R335 step 4). -/
def Dev.discardOf (d : Dev) (l : Nat) : Option (Event × Bool) :=
  match sbAddrs (d.core l).sb with
  | [] => none
  | a :: t =>
    let e := d.lcnEvent 0x05 true .none l (d.spindle l) (t.length + 1) a
    some (e, d.eventSec e)

/-- The machine check of discarded stores becomes pending when the LCN runs again (10 R335 step 5). -/
def Dev.oweCheck (d : Dev) (l : Nat) (sec : Bool) : Dev :=
  { d with boot := { d.boot with owedVec := d.boot.owedVec ++ [(l, if sec then 0xFC else 0xFF)] } }

/-- The LCN runs again: what it is owed becomes pending. -/
def Dev.payOwed (d : Dev) (l : Nat) : Dev :=
  let mine := d.boot.owedVec.filter fun (x : Nat × Nat) => x.1 == l
  let d := { d with boot := { d.boot with owedVec := d.boot.owedVec.filter fun (x : Nat × Nat) => x.1 != l } }
  mine.foldl (fun d x => d.raiseLocal l x.2) d

/-- The entries of a store buffer that are not issued are discarded and recorded (10 R335 steps 2 and 4). -/
def Dev.discardStores (d : Dev) (l : Nat) : Dev :=
  match d.discardOf l with
  | none => d.updCore l fun c => { c with sb := [] }
  | some (e, sec) => ((d.updCore l fun c => { c with sb := [] }).recordAs sec e).oweCheck l sec

/-- What a CORE reset does before the LCN runs again: the store buffer drains as far as it can, the rest is discarded, and
every register goes to its Reset value (10 R335, 08 R276). -/
def Dev.coreClear (d : Dev) (l : Nat) (cfg : SkeinCfg) : Dev :=
  (((d.drain l).discardStores l).traceReset l).resetCore l (d.coreAgain cfg)

/-- A CORE reset: the LCN starts at its reset vector (10 R335). -/
def Dev.coreReset (d : Dev) (l : Nat) : Dev :=
  match d.cfgOf l with
  | none => d
  | some cfg => (d.coreClear l cfg).payOwed l

/-- A class of state that is unreadable is set to zero (16 R508, R515); local vectors keep their fixed worlds (08 R262). -/
def Core.loseClass (c : Core) (k : Nat) : Core :=
  match k with
  | 0 => { c with g := [] }
  | 1 => { c with v := [] }
  | 2 => { c with m := [] }
  | 3 => { c with pctlRm := 0#3, pctlEn := false, pctlVd := false, psat := 0#8, fpRm := 0#3, fpFlags := 0#5 }
  | 4 => if c.level.secure then { c with kb := Bank.reset } else { c with sbank := Bank.reset }
  | 5 => { c with landing := [] }
  | 6 => { c with stlb := [] }
  | _ => { c with timerCmp := 0#64, timerEn := false, sTimerCmp := 0#64, sTimerEn := false, pend := 0#256, en := 0#256, sec := secLocal, actN := 0#16, actS := 0#16, threshN := 0#4, threshS := 0#4 }

/-- The core without the classes of a mask. -/
def Core.lose (c : Core) (mask : Nat) : Core := (setBits 8 mask).foldl Core.loseClass c

/-- What becomes of an LCN whose state was partly or wholly unreadable (16 R508). -/
def Dev.applyLoss (d : Dev) (l new : Nat) (x : ReelLoss) : Dev :=
  if x.fatal then
    match d.cfgOf l with
    | none => d
    | some cfg => ((d.resetCore l (d.coreAgain cfg)).recordLcn 0x03 true .ffAtNotice l new x.mask.toNat 0).payOwed l
  else if x.mask = 0#8 then d
  else
    let d := (d.leaveEngine l).updCore l fun c => c.lose x.mask.toNat
    ((d.recordLcn 0x02 true .none l new x.mask.toNat 0).takeExc l ⟨0x15, 1, 0, 0#64⟩).traceExcept l false 0x15

/-! ### Queues at a reset (03 R109) -/

/-- The lines of a skein's contexts and groups are written whole, which clears their poison (03 R109, 11 R367). -/
def Dev.tablesWritten (d : Dev) (c : SkeinCfg) : Dev :=
  let lo := c.qmemBase / 64
  let n := c.ringArea / 64
  if d.mem.lostRanks = [] then
    { d with mem := { d.mem with poison := d.mem.poison.filter fun (e : Nat × Bool) => !(decide (lo ≤ e.1) && decide (e.1 < lo + n)) } }
  else (List.range n).foldl (fun d i => d.setPoison (lo + i) false) d

/-- Every queue of a skein becomes DISABLED and empty, and every group entry holds no valid member. Another skein's
uncommitted post ends with STATE, as its queue is disabled, where 00 R16 words FLUSHED for what a reset discards (DESIGN CHOICE,
log entry 67). -/
def Dev.queuesReset (d : Dev) (c : SkeinCfg) : Dev :=
  let mine (n : Nat) : Bool := decide (c.qFirst ≤ n) && decide (n < c.qFirst + c.qCount)
  let ns := (d.bq.ctx.map fun (e : Nat × QCtx) => e.1).filter mine
  let d := ns.foldl (fun d n =>
    let d := ((d.discardPosts n .state .free).revokeAll n .free).endGrantReqs n .state
    ((d.errorDrains n .state).endFlushers n .state).endWaiters n .state false) d
  { d with
    bq := { d.bq with
      ctx := d.bq.ctx.filter fun (e : Nat × QCtx) => !mine e.1, groups := d.bq.groups.filter fun (e : Nat × Option QGroup) => e.1 / 4096 != c.skein, credits := d.bq.credits.filter fun x => x.skein != c.skein, creditReqs := d.bq.creditReqs.filter fun x => x.skein != c.skein } }.tablesWritten c

end Sys2Proof.Machine
end

