-- ==== Sys2Proof/Machine/HubPort.lean ====
section
/-! DEFINITION. Accesses of hub agents on their way: the windows of root ports (14 R435, R436), memory behind the homes and
the ports of the channels (11 R354, 12 R387), and the order they keep (10 R321, 14 R438, 12 R379). -/
namespace Sys2Proof.Machine

/-- STATE of PCE_STATUS. -/
def Dev.pceState (d : Dev) (b : Nat) : Nat := d.regF (Reg.PCE_STATUS b) 2 0

/-- DOMAIN_OFF answers of a port are counted at its site: a die's, or the hub. -/
def Dev.doffAt (d : Dev) (k : Nat) : Dev :=
  if k < 384 then d.countDoff k else d.count Reg.MESH_HUB_DOFF_COUNT

/-! ### Root-port windows (14 R435, R436) -/

/-- What an access to a window meets. -/
inductive BusPlace where
  /-- a request leaves: 0 memory, 1 configuration type 0, 2 type 1, with its bus address or ECAM offset -/
  | sent (kind addr : Nat)
  /-- the root port's own header -/
  | own (off : Nat)
  /-- all ones, or a discarded write -/
  | none
  deriving DecidableEq, Repr

/-- Where a window address leads: memory space, or configuration space in the ECAM layout (14 R435). -/
def Dev.busPlace (d : Dev) (b pa : Nat) : BusPlace :=
  let addr := pa - (0x4000000000000 + b * 0x800000000000)
  if addr < 0x7FFFF0000000 then .sent 0 addr
  else
    let off := addr - 0x7FFFF0000000
    let bus := bitsN off 27 20
    let x := d.bun b
    if bus = 0 then (if bitsN off 19 12 = 0 then .own (off % 4096) else .none)
    else if bus < x.busSec ∨ x.busSub < bus then .none
    else .sent (if bus = x.busSec then 1 else 2) off

/-- The root port's own header: its bus numbers, and what the specification of PCI Express gives (log entry 47). -/
def Dev.rpWord (d : Dev) (b off : Nat) : Reg32 :=
  let o := off / 4 * 4
  let x := d.bun b
  let w := Config.cfgWord 2 o (mget 0#32 x.cfg o)
  if o = 0x18 then putField (putField w 15 8 x.busSec) 23 16 x.busSub
  else if o = 0x0C then putField w 23 16 1
  else w

/-- A write of the root port's own header. -/
def Dev.rpWrite (d : Dev) (b off : Nat) (v : Reg32) : Dev :=
  let o := off / 4 * 4
  d.updBun b fun x =>
    let x : Bundle := { x with cfg := mset 0#32 x.cfg o v }
    if o = 0x18 then { x with busSec := field v 15 8, busSub := field v 23 16 } else x

/-- What a target answers to an access: at once, after it has left the part, or not yet: held at a boundary port, or behind
other requests for a line. -/
inductive Reply where
  | done (st : Status) (v : Nat)
  | sent
  | held (port : Nat)
  | waits
  deriving DecidableEq, Repr

/-- An access to a root-port window (14 R435, R436, 12 R383, R387); one of Distaff passes a port that is not off. -/
def Dev.busAccess (d : Dev) (vc3 : Bool) (b pa size : Nat) (write : Bool) (data : Nat) : Dev × Reply :=
  let ones := 2 ^ (8 * size) - 1
  let st := (d.port (400 + b)).st
  if st = .off then (d.count Reg.MESH_HUB_DOFF_COUNT, .done .domainOff 0)
  else if st ≠ .opened ∧ !vc3 then (d, .held (400 + b))
  else
    if d.regF Reg.MESH_HUB_ISO (24 + b) (24 + b) = 1 then (d.count Reg.MESH_HUB_DEAD_COUNT, .done .dead 0)
    else if d.bundleMode b ≠ 1 ∨ d.pceState b ≠ 1 ∨ !(d.bun b).l0 then (d, .done .dead 0)
    else match d.busPlace b pa with
      | .none => (d, .done .ok (if write then 0 else ones))
      | .own off =>
        let sh := off % 4 * 8
        if write then
          let old := (mget 0#32 (d.bun b).cfg (off / 4 * 4)).toNat
          (d.rpWrite b off (putField (BitVec.ofNat 32 old) (min 31 (sh + 8 * size - 1)) sh data), .done .ok 0)
        else (d, .done .ok ((d.rpWord b off).toNat / 2 ^ sh % 2 ^ (8 * size)))
      | .sent kind addr => (d.emit (.rpRequest b kind addr size write data), if write then .done .ok 0 else .sent)

/-! ### Memory -/

/-- The lines a run of bytes touches. -/
def linesOf (pa n : Nat) : List Nat := (List.range ((pa + n + 63) / 64 - pa / 64)).map fun i => pa / 64 + i

/-- Whether memory at an address is open to a hub agent: populated, no queue memory, and for a root port its owner's (01 R34,
R35, 03 R73). -/
def Dev.hubMay (d : Dev) (x : HubAccess) (pa : Nat) : Bool :=
  d.populated pa && !d.queueMem pa &&
    (x.agent != 17 || (match (d.bundleOwner x.bd).bind d.skeinCfg with | some c => c.inMem pa | none => false))

/-- Every line of an access can be reached in one exchange now, or the first that cannot (11 R354, 12 R387): an owner among
the hub agents is asked to write back first. A request of Distaff, on VC3, passes a port that is not off. -/
def Dev.reachAll (d : Dev) (a : Nat) : List Nat → Dev × Answer × Nat
  | [] => (d, .ok, 0)
  | n :: t => match d.hubReach a n .rdnc with
    | (d, .ok) => d.reachAll a t
    | (d, .hold) => if a = 20 then d.reachAll a t else (d, .hold, n)
    | (d, r) => (d, r, n)

/-- An access of a hub agent is performed through the homes (11 R356): its bytes. A write with EP set poisons its lines (14
R437). -/
def Dev.hubPerform (d : Dev) (x : HubAccess) : Dev × List Byte :=
  let lines := linesOf x.pa x.len
  if x.write then
    let d := d.hubWriteAll x.agent x.pa x.data
    (if x.ep then lines.foldl (fun d n => d.setPoison n true) d else d, [])
  else
    let bs := d.bytes x.pa x.len
    (lines.foldl (fun d n => d.hubRead x.agent n) d, bs)

/-- What becomes of an access: answered, held at a port, or waiting at a home. -/
inductive HubEnd where
  | done (st : Status) (bs : List Byte)
  | held (k : Nat)
  | waits
  deriving DecidableEq, Repr

/-- An access to DRAM (12 R387, 14 R437). -/
def Dev.hubDram (d : Dev) (x : HubAccess) : Dev × HubEnd :=
  if x.len = 0 then (d, .done .ok [])
  else if !(d.hubMay x x.pa && d.hubMay x (x.pa + (x.len - 1))) then (d, .done .dead [])
  else match d.reachAll x.agent (linesOf x.pa x.len) with
    | (d, .ok, _) =>
      let bad := !x.write && (linesOf x.pa x.len).any d.poisoned
      let r := d.hubPerform x
      (r.1, .done (if bad then .poison else .ok) r.2)
    | (d, .wait, _) => (d, .waits)
    | (d, .err st, _) => (d, .done st [])
    | (d, .hold, n) => match d.channelOf (n * 64) with
      | some (ch, _) => (d, .held (384 + ch))
      | none => (d, .done .dead [])

/-- A translated access reaches its target: memory, the doorbell of a root port's MSI (14 R437), or for Distaff a window, whose
answer from outside is the data supplied (log entry 7). -/
def Dev.hubTry (d : Dev) (x : HubAccess) : Dev × HubEnd :=
  match placeOf x.pa with
  | .dram => d.hubDram x
  | .control =>
    if x.agent = 17 ∧ x.write ∧ x.mt = .device then
      (if hb : x.bd < 8 then
        (if x.pa = Reg.IRQ_DOORBELL then d.doorbell (.rootPort ⟨x.bd, hb⟩) (leAt x.data 0 4 % 4096) else d)
       else d, .done .ok [])
    else (d, .done .dead [])
  | .pcie b =>
    if x.agent ≠ 20 then (d, .done .dead [])
    else match d.busAccess true b x.pa x.len x.write (ofLe x.data) with
      | (d, .done st v) => (d, .done st (if x.write then [] else leBytes x.len v))
      | (d, .sent) => (d, .done .ok x.data)
      | (d, .held k) => (d, .held k)
      | (d, .waits) => (d, .waits)
  | _ => (d, .done .dead [])

/-- The answer to an access of a hub agent: a root port's read completes with its data, with EP set, or with Unsupported
Request, and its write is posted (09 R305, 14 R437); a window access of Distaff is answered with its status (18 R555). -/
def Dev.hubAnswer (d : Dev) (x : HubAccess) (st : Status) (bs : List Byte) : Dev :=
  if x.agent = 17 then
    (if x.write then d
     else d.emit (.rpAnswer x.bd x.rid (if st = .ok then 0 else if st = .poison then 2 else 1) (if st = .ok ∨ st = .poison then bs else [])))
  else if x.agent = 20 then d.emit (.window x.pa st (if st = .ok ∧ !x.write then bs else []))
  else d

/-! ### Order -/

/-- Every access of a hub agent that waits somewhere. -/
def Dev.hubWaiting (d : Dev) : List HubAccess :=
  (d.ports.flatMap fun (e : Nat × BPort) => e.2.held.filterMap fun (h : Nat × HeldReq) => match h.2 with | .hub x => some x | _ => none) ++ d.links.waitHome

/-- The waiting accesses changed, wherever they wait. -/
def Dev.hubMap (d : Dev) (f : HubAccess → HubAccess) : Dev :=
  { d with
    ports := d.ports.map fun (e : Nat × BPort) => (e.1, { e.2 with
      held := e.2.held.map fun (h : Nat × HeldReq) => (h.1, match h.2 with | .hub x => .hub (f x) | r => r) })
    links := { d.links with waitHome := d.links.waitHome.map f } }

/-- Waiting accesses are discarded, wherever they wait. -/
def Dev.hubDiscard (d : Dev) (p : HubAccess → Bool) : Dev :=
  { d with
    ports := d.ports.map fun (e : Nat × BPort) => (e.1, { e.2 with
      held := e.2.held.filter fun (h : Nat × HeldReq) => match h.2 with | .hub x => !p x | _ => true })
    links := { d.links with waitHome := d.links.waitHome.filter fun x => !p x } }

/-- Whether an access waits behind an earlier one of its order: a posted write or a read of a requester behind its posted
writes, but for what is relaxed (14 R438). -/
def HubAccess.behind (x y : HubAccess) : Bool :=
  x.agent == 17 && y.agent == 17 && y.bd == x.bd && y.rid == x.rid && y.write && !y.relaxed && !(x.write && x.relaxed)

/-- Whether an access cannot start yet: one before it in its order waits, or it is Distaff's and 32 of Distaff's are
outstanding (12 R379). -/
def Dev.hubBlocked (d : Dev) (x : HubAccess) : Bool :=
  let w := d.hubWaiting
  w.any x.behind || (x.agent == 20 && decide (32 ≤ (w.filter fun y => y.agent == 20).length))

/-- An access waits in the order of arrival. -/
def Dev.hubQueue (d : Dev) (x : HubAccess) : Dev := { d with links := { d.links with waitHome := d.links.waitHome ++ [x] } }

/-- An access starts, unless it must wait: it is answered, held at a port, or waits at a home. -/
def Dev.hubGo (d : Dev) (x : HubAccess) : Dev :=
  if d.hubBlocked x then d.hubQueue x
  else match d.hubTry x with
    | (d, .done st bs) => d.hubAnswer x st bs
    | (d, .waits) => d.hubQueue x
    | (d, .held k) => let p := d.port k; d.setPort k { p with held := p.held ++ [(d.now, .hub x)] }

/-- The accesses that wait start in order, where they can; one that is not translated waits for the IOTU. -/
def Dev.hubPump (d : Dev) : Dev :=
  let w := d.links.waitHome
  w.foldl (fun d x => if x.bus.isSome then d.hubQueue x else d.hubGo x) { d with links := { d.links with waitHome := [] } }

end Sys2Proof.Machine
end

