-- ==== Sys2Proof/Machine/Power.lean ====
section
/-! DEFINITION. The power controller (chapter 17): requests and their refusals, entry into SLEEP, RETAIN and OFF with the
fence of 12 R386 to R388, wake, WAITI with a held request, thermal and power steps, and the exit of a channel. -/
namespace Sys2Proof.Machine

/-! ### Domains -/

/-- The device with a domain replaced. -/
def Dev.setDom (d : Dev) (k : Nat) (x : Domain) : Dev := { d with dom := mset Domain.reset d.dom k x }

/-- The number of a state in PWR_DOM_STATE, and its bit in ALLOWED (R552, 02 R50). -/
def domCode : DomState → Nat
  | .run => 0
  | .idle => 1
  | .sleep => 2
  | .retain => 3
  | .off => 4
  | .lost => 5

/-- The domain a request names (R531, R537); none where the index is out of range. -/
def domNo (kind index : Nat) : Option Nat :=
  match kind with
  | 1 => if index < 384 then some index else none
  | 2 => if index < 16 then some (384 + index) else none
  | 3 => if index < 8 then some (400 + index) else none
  | _ => if index = 0 then some 408 else none

/-- The state a TARGET names for a kind; none where the kind does not have it (R526, R530, R552). -/
def domTarget (kind target : Nat) : Option DomState :=
  if target = 0 then some .run
  else match kind with
    | 1 => if target = 2 then some .sleep else if target = 3 then some .retain else if target = 4 then some .off else none
    | 2 => if target = 2 then some .sleep else none
    | _ => if target = 4 then some .off else none

/-- The state a domain shows: LOST, IDLE for a core gated in RUN, else its own (R526, R552). -/
def Dev.domShown (d : Dev) (k : Nat) : DomState :=
  let x := d.domOf k
  if k < 384 ∧ mget false d.lost k then .lost
  else if k < 384 ∧ x.st = .run then
    match (d.core k).wait with
    | .waiti => .idle
    | .queue _ => .idle
    | _ => .run
  else x.st

/-! ### Steps (R540) -/

/-- The register of a die's thermal step. -/
def thermReg (die : Nat) : Nat := if die < 8 then Reg.PWR_THERM0 else Reg.PWR_THERM1

/-- The thermal step of a die. -/
def Dev.thermStep (d : Dev) (die : Nat) : Nat := d.regF (thermReg die) (4 * (die % 8) + 3) (4 * (die % 8))

/-- The step of an LCN's spindle: the highest of the three (R540). -/
def Dev.stepOf (d : Dev) (l : Nat) : Nat :=
  match mget none d.spindleOf l with
  | none => 0
  | some p => max (d.thermStep (p / 28)) (max (mget 0 d.pwr.skStep ((d.skeinOf l).getD 16)) (mget 0 d.pwr.skStep 16))

/-! ### Admission (R531 to R535) -/

/-- Whether a requester may request a domain of the kind (R531). -/
def Dev.mayRequest (d : Dev) (q : PwrFrom) (kind index : Nat) : Bool :=
  match q with
  | .dst => kind != 3 || d.bundleMode index == 1
  | .core l => (d.core l).level.priv && (match d.cfgOf l with
    | none => false
    | some c => match kind with
      | 1 => c.lcnMask.testBit index
      | 2 => c.ddrOwn.testBit index
      | 3 => c.bundles.testBit index && d.bundleMode index == 1
      | 4 => false
      | _ => true)

/-- Whether the POWER entry of an image domain admits a state (02 R50). -/
def Dev.powerAllows (d : Dev) (e : Nat) (t : DomState) : Bool :=
  match d.img.img with
  | none => true
  | some i => match i.power.find? fun x => x.domain == e with
    | none => true
    | some x => x.allowed.testBit (domCode t)

/-- The POWER entries that bound a domain: of its die, of its skein's spindles, and 0xFF; a channel and a bundle lie on the
hub (R534, 02 R50). -/
def Dev.powerEntries (d : Dev) (k : Nat) : List Nat :=
  if k < 384 then [d.spindle k / 28, 0x20 + (d.skeinOf k).getD 0, 0xFF]
  else if k < 408 then [0x10, 0xFF]
  else [0xFF]

/-- The physical ranks a channel has. -/
def Dev.ranks (d : Dev) (m : Nat) : Nat := (setBits 4 (d.regF (Reg.MC_CFG m) 19 16)).length

/-- The physical ranks of each DIMM of a channel. -/
def Dev.ranksPerDimm (d : Dev) (m : Nat) : Nat := d.ranks m / max 1 (d.regF (Reg.MC_CFG m) 1 0)

/-- Whether PARTIAL is set with a KEEP that names some but not all ranks of a DIMM (13 R425). -/
def Dev.keepSplits (d : Dev) (m : Nat) : Bool :=
  let n := d.ranksPerDimm m
  let kept (r : Nat) : Bool := (d.regF (Reg.MC_LP_CFG m) 3 0).testBit r
  d.regF (Reg.MC_LP_CFG m) 4 4 == 1 &&
    (List.range 4).any fun i => (List.range n).any fun j => kept (i * n + j) != kept (i * n)

/-- Whether a domain is in secure use (R535). -/
def Dev.secureUse (d : Dev) (k : Nat) : Bool :=
  if k < 384 then (d.core k).level.secure
  else if k < 400 then d.secBlock (Reg.MC_ID (k - 384))
  else if k < 408 then d.secBlock (Reg.PCE_STATUS (k - 400))
  else false

/-- Whether a core's instruction is a blocked queue instruction (03 R97). -/
def Wait.inQueue : Wait → Bool
  | .queue _ => true
  | .flush _ _ => true
  | .post _ _ => true
  | .remote => true
  | _ => false

/-- The first refuser of an admission, in the order of R534: status and code. -/
def Dev.refuser (d : Dev) (q : PwrFrom) (k : Nat) (t : DomState) : Option (Status × Nat) :=
  let normal : Bool := match q with
    | .core l => !(d.core l).level.secure
    | .dst => false
  if (d.powerEntries k).any fun e => !d.powerAllows e t then some (.denied, 7)
  else if 384 ≤ k ∧ k < 400 ∧ t = .sleep ∧ d.keepSplits (k - 384) then some (.denied, 7)
  else if t ≠ .run ∧ normal ∧ d.secureUse k then some (.denied, 1)
  else if k < 384 ∧ (d.core k).halted then some (.busy, 5)
  else if k < 384 ∧ t = .run ∧ d.stepOf k = 4 then some (.busy, 6)
  else if k < 384 ∧ (d.core k).wait.inQueue then some (.busy, 4)
  else none

/-- What admission makes of a request. -/
inductive PwrVerdict where
  /-- KIND 0: nothing -/
  | nothing
  /-- answered with a status, counted in no domain -/
  | answered (st : Status)
  /-- refused by a refuser of R534 -/
  | refused (k : Nat) (st : Status) (code : Nat)
  /-- waits for a reel to end (16 R507) -/
  | waits
  | admitted (k : Nat) (t : DomState)
  deriving DecidableEq, Repr

/-- Admission of a request, in the order DENIED, STATE, RANGE, BUSY and the refusers (R531 to R536). -/
def Dev.pwrAdmit (d : Dev) (q : PwrFrom) (kind index target : Nat) : PwrVerdict :=
  if kind = 0 then .nothing
  else if !d.mayRequest q kind index then .answered .denied
  else if d.safe then .answered .halted
  else if 4 < kind then .answered .range
  else match domNo kind index with
    | none => .answered .range
    | some k =>
      let x := d.domOf k
      if k < 384 ∧ mget false d.reeling k then .waits
      else if k < 384 ∧ (mget false d.lost k ∨ d.skeinOf k = none) then .answered .state
      else if 384 ≤ k ∧ k < 400 ∧ x.st = .off then .answered .state
      else match domTarget kind target with
        | none => .answered .range
        | some t =>
          if x.transit then .answered .busy
          else if (decide (t = .run)) = (decide (x.st = .run)) then .answered .state
          else match d.refuser q k t with
            | some (st, code) => .refused k st code
            | none => .admitted k t

/-! ### Results and accounting (R537) -/

/-- PWR_RESULT of the LCN that wrote a request. -/
def Dev.pwrResult (d : Dev) (q : Option Nat) (st : Status) (code pending : Nat) : Dev :=
  match q with
  | none => d
  | some l => ((d.setRegF (Reg.PWR_RESULT l) 31 24 st.code).setRegF (Reg.PWR_RESULT l) 11 8 code).setRegF (Reg.PWR_RESULT l) 0 0 pending

/-- PWR_DOM_LAST of a domain. -/
def Dev.pwrLast (d : Dev) (k : Nat) (st : Status) (code : Nat) (t : DomState) : Dev :=
  d.setReg (Reg.PWR_DOM_LAST k) (BitVec.ofNat 32 (st.code * 2 ^ 16 + code * 2 ^ 8 + domCode t))

/-- The LCN a request came from. -/
def PwrFrom.lcn : PwrFrom → Option Nat
  | .core l => some l
  | .dst => none

/-- Whether a self-request of an LCN is held. -/
def Dev.selfHeld (d : Dev) (l : Nat) : Nat := b2n (mget none d.pwr.selfReq l).isSome

/-! ### Requests held at a port (12 R387) -/

/-- A held request is answered DOMAIN_OFF: a vector is dropped and counted; a core whose instruction still waits takes the
bus error (10 R327, 12 R387). -/
def Dev.holdFail (d : Dev) (k : Nat) (h : HeldReq) : Dev :=
  let d := d.doffAt k
  match h with
  | .vec m => d.dropVec m.skein
  | .hub x => (d.hubAnswer x .domainOff []).hubPump
  | .dev l tid => d.updCore l fun c => { c with devOut := c.devOut.map fun r => if r.tid = tid ∧ r.answer = none then { r with answer := some (.domainOff, 0) } else r }
  | .core l pc pa =>
    if hl : l < 384 then
      if d.canRun l && (d.core l).pc == pc then d.finish ⟨l, hl⟩ (.exc d (.bus pa)) else d
    else d

/-- Every request held at a port is answered DOMAIN_OFF. -/
def Dev.failHeld (d : Dev) (k : Nat) : Dev :=
  let hs := (d.port k).held
  hs.foldl (fun d (h : Nat × HeldReq) => d.holdFail k h.2) (d.setPort k { d.port k with held := [] })

/-- A port opens: its held requests are delivered in order; an instruction that waited is performed when its core next
runs it, and a DEVICE request when it next reaches its target. -/
def Dev.openPort (d : Dev) (k : Nat) : Dev :=
  let hs := (d.port k).held
  let d := d.setPort k ⟨.opened, []⟩
  let mine := hs.filterMap fun (h : Nat × HeldReq) => match h.2 with | .hub x => some x | _ => none
  let d := { d with links := { d.links with waitHome := mine ++ d.links.waitHome } }.hubPump
  hs.foldl (fun d (h : Nat × HeldReq) => match h.2 with
    | .vec m => d.deliverVec m
    | _ => d) d

/-! ### Entry (R526, R534, 12 R386) -/

/-- A spindle's port begins to fence once the store buffer is empty (10 R337). -/
def Dev.tryFence (d : Dev) (l : Nat) : Dev :=
  let x := d.domOf l
  if x.transit ∧ x.st = .run ∧ (x.target = .retain ∨ x.target = .off) ∧ (d.port l).st = .opened then
    let d := d.drain l
    if (d.core l).sb.isEmpty then
      (d.setPort l { d.port l with st := .fencing }).setDom l { x with since := d.now }
    else d
  else d

/-- Entry into a deeper state begins. -/
def Dev.startEntry (d : Dev) (k : Nat) (t : DomState) (by_ : Option Nat) : Dev :=
  let d := d.setDom k ⟨(d.domOf k).st, true, t, d.now, false, by_⟩
  if k < 384 then (d.drain k).tryFence k
  else d.setPort k { d.port k with st := .fencing }

/-- An entry is aborted: the domain returns to its state (R534, R537). -/
def Dev.abortEntry (d : Dev) (k : Nat) (st : Status) (code : Nat) : Dev :=
  let x := d.domOf k
  let d := d.setDom k { x with transit := false, wake := false }
  let d := if (d.port k).st = .fencing then d.openPort k else d
  let d := (d.count (Reg.PWR_DOM_ABORTED k)).pwrLast k st code x.target
  match x.by_ with
  | some l => d.pwrResult (some l) st code (d.selfHeld l)
  | none => d

/-- Exit to RUN begins: a fenced domain's port is WAKING (12 R388). -/
def Dev.startExit (d : Dev) (k : Nat) : Dev :=
  let x := d.domOf k
  let d := d.setDom k { x with transit := true, target := .run, since := d.now, wake := false }
  if (d.port k).st = .opened then d
  else
    let d := d.setPort k { d.port k with st := .waking }
    if 384 ≤ k ∧ k < 400 then d.setRegF (Reg.MC_STATUS (k - 384)) 2 0 5 else d

/-- A request after its checks: refused and counted, or performed, or held for the LCN's next WAITI (R533). -/
def Dev.pwrReq (d : Dev) (q : PwrFrom) (kind index target : Nat) : Dev × Option Status :=
  let pend := match q with
    | .core l => d.selfHeld l
    | .dst => 0
  match d.pwrAdmit q kind index target with
  | .nothing => (d, none)
  | .waits => ({ d with pwr := { d.pwr with waiting := d.pwr.waiting ++ [(q, index, target)] } }, some .ok)
  | .answered st =>
    let d := if st = .state then d.count Reg.PWR_STATE_REJECT else d
    (d.pwrResult q.lcn st 0 pend, some st)
  | .refused k st code =>
    (((d.count (Reg.PWR_DOM_REFUSED k)).pwrLast k st code ((domTarget kind target).getD .run)).pwrResult q.lcn st code pend, some st)
  | .admitted k t =>
    if t = .run then ((d.startExit k).pwrResult q.lcn .ok 0 pend, some .ok)
    else if q = .core k then
      ({ d with pwr := { d.pwr with selfReq := mset none d.pwr.selfReq k (some t) } }.pwrResult (some k) .ok 0 1, some .ok)
    else ((d.startEntry k t q.lcn).pwrResult q.lcn .ok 0 pend, some .ok)

/-- The requester of a register write as the controller sees it: no other requester reaches PWR_REQ. -/
def pwrFrom : Requester → Option PwrFrom
  | .core l => some (.core l.val)
  | .distaff => some .dst
  | _ => none

/-- A write to PWR_REQ. -/
def Dev.pwrWrite (d : Dev) (q : Requester) (kind index target : Nat) : Dev :=
  match pwrFrom q with
  | some f => (d.pwrReq f kind index target).1
  | none => d

/-- PWR_REQ with KIND SPINDLE (R531 to R536). -/
def execPwrReqSpindle (q : Requester) (index : Nat) (target : BitVec 3) (s : State) : Host.Outcome State Fault Refusal :=
  onDev s fun d => d.pwrWrite q 1 index target.toNat

/-- PWR_REQ with KIND CHANNEL. -/
def execPwrReqChannel (q : Requester) (index : Nat) (target : BitVec 3) (s : State) : Host.Outcome State Fault Refusal :=
  onDev s fun d => d.pwrWrite q 2 index target.toNat

/-- PWR_REQ with KIND BUNDLE. -/
def execPwrReqBundle (q : Requester) (index : Nat) (target : BitVec 3) (s : State) : Host.Outcome State Fault Refusal :=
  onDev s fun d => d.pwrWrite q 3 index target.toNat

/-- Requests that waited for a reel of an LCN are applied to the new spindle (16 R507). -/
def Dev.pwrReelDone (d : Dev) (l : Nat) : Dev :=
  let mine := d.pwr.waiting.filter fun (x : PwrFrom × Nat × Nat) => x.2.1 == l
  let d := { d with pwr := { d.pwr with waiting := d.pwr.waiting.filter fun (x : PwrFrom × Nat × Nat) => x.2.1 != l } }
  mine.foldl (fun d (x : PwrFrom × Nat × Nat) => (d.pwrReq x.1 1 x.2.1 x.2.2).1) d

/-! ### WAITI (07 R243, R533) -/

/-- A held self-request is discarded, since WAITI has resumed at once (R533). -/
def Dev.dropSelf (d : Dev) (l : Nat) : Dev :=
  match mget none d.pwr.selfReq l with
  | none => d
  | some _ => ({ d with pwr := { d.pwr with selfReq := mset none d.pwr.selfReq l none } }).pwrResult (some l) .flushed 0 0

/-- WAITI gates the core, and a held self-request begins (R533). -/
def Dev.waitiGate (d0 : Dev) (l : Fin 384) : Dev :=
  let gated := d0.instr l fun d =>
    if !(d.core l.val).level.priv then .exc d .priv
    else .done (d.updCore l.val fun c => { c with wait := .waiti }) []
  if (d0.core l.val).wait = .none ∧ (gated.core l.val).wait = .waiti then
    match mget none gated.pwr.selfReq l.val with
    | none => gated
    | some t =>
      let d := { gated with pwr := { gated.pwr with selfReq := mset none gated.pwr.selfReq l.val none } }
      let d := d.setRegF (Reg.PWR_RESULT l.val) 0 0 0
      if (d.domOf l.val).transit ∨ (d.domOf l.val).st ≠ .run then d else d.startEntry l.val t (some l.val)
  else gated

/-- WAITI while a vector is deliverable retires and resumes at once (07 R243); the vector is taken at the next boundary. -/
def Dev.waitiPass (d0 : Dev) (l : Fin 384) : Dev :=
  let d := (d0.updCore l.val fun c => { c with draining := true }).instr l fun d =>
    if !(d.core l.val).level.priv then .stay d else .done (d.dropSelf l.val) []
  if (d.core l.val).draining then d0 else d

/-- WAITI (07 R243). -/
def execWaiti (l : Fin 384) (s : State) : Host.Outcome State Fault Refusal :=
  onDev s fun d => if (d.deliverable l.val).isSome && !(d.core l.val).draining then d.waitiPass l else d.waitiGate l

/-- A core gated by WAITI resumes at the next instruction when a vector is deliverable (07 R243); a self-request held is
then discarded (R533). -/
def execWaitiResume (l : Fin 384) (s : State) : Host.Outcome State Fault Refusal :=
  onDev s fun d =>
    if d.inService l.val && (d.core l.val).wait == .waiti && (d.deliverable l.val).isSome then
      (d.updCore l.val fun c => { c with wait := .none }).dropSelf l.val
    else d

/-! ### The steps of entry -/

/-- The L1D of a spindle is written back to its L2 (R526). -/
def Dev.l1dFlush (d : Dev) (p : Nat) : Dev :=
  { d with coh := { d.coh with l1dsets := d.coh.l1dsets.filter fun (e : Nat × CSet) => e.1 / 128 != p } }

/-- The lines a spindle's L2 holds. -/
def Dev.l2Lines (d : Dev) (p : Nat) : List Nat :=
  (d.coh.l2.filter fun (e : Nat × Option L2Line) => e.1 / 0x400000000000 == p).map fun (e : Nat × Option L2Line) => e.1 % 0x400000000000

/-- A core island writes its M lines back to the L3 and drops the rest (12 R386, 11 R364). -/
def Dev.spindleFlush (d : Dev) (p : Nat) : Dev :=
  let d := (d.l2Lines p).foldl (fun d line => (d.l2Drop p line).presClear p line) d
  { d with
    coh := { d.coh with l1iChanged := merase d.coh.l1iChanged p, l1iOverflow := merase d.coh.l1iOverflow p }
    mem := { d.mem with stale := d.mem.stale.map fun (e : Nat × Option StaleLine) => (e.1, e.2.map fun x => if x.spindle = some p then { x with spindle := none } else x) } }

/-- What an island that loses its supply no longer holds: TLBs, predictor and tables (06 R203, 09 R298). -/
def Core.unpowered (c : Core) : Core :=
  { c.tlbsOff with walk := [], sla := [], pred := Predictor.empty, depTable := [], contention := [] }

/-- SLEEP_ENTRY_DONE: after the drain the island sleeps; a wake event that came meanwhile starts exit (R526, R534). -/
def execSleepEntryDone (l : Fin 384) (s : State) : Host.Outcome State Fault Refusal :=
  onDev s fun d =>
    let d := d.drain l.val
    let x := d.domOf l.val
    if x.transit ∧ x.st = .run ∧ x.target = .sleep ∧ (d.core l.val).allPerformed then
      let d := (d.l1dFlush (d.spindle l.val)).setDom l.val { x with st := .sleep, transit := false, wake := false }
      if x.wake then d.startExit l.val else d
    else d

/-- SLEEP_EXIT_DONE: the island runs again (R526). -/
def execSleepExitDone (l : Fin 384) (s : State) : Host.Outcome State Fault Refusal :=
  onDev s fun d =>
    let x := d.domOf l.val
    if x.transit ∧ x.st = .sleep ∧ x.target = .run then d.setDom l.val { x with st := .run, transit := false } else d

/-- Whether a bundle still waits for answers to requests through its windows. -/
def Dev.bundleBusy (d : Dev) (b : Nat) : Bool :=
  d.cores.any fun (e : Nat × Core) => e.2.devOut.any fun r => placeOf r.pa == .pcie b

/-- FENCE_ACK: a drained domain acknowledges and its port enters FENCED (12 R386). -/
def execFenceAck (dom : Fin 409) (s : State) : Host.Outcome State Fault Refusal :=
  onDev s fun d =>
    let k := dom.val
    let d := if k < 384 then d.tryFence k else d
    if (d.port k).st ≠ .fencing then d
    else if k < 384 then
      let d := d.drain k
      if (d.core k).settled then
        (d.spindleFlush (d.spindle k)).setPort k { d.port k with st := .fenced }
      else d
    else if 400 ≤ k ∧ d.bundleBusy (k - 400) then d
    else d.setPort k { d.port k with st := .fenced }

/-- FENCE_LIMIT_EXPIRE: no acknowledgement within FENCE_LIMIT: the fence lifts and the entry aborts (12 R386, R534). -/
def execFenceLimitExpire (dom : Fin 409) (s : State) : Host.Outcome State Fault Refusal :=
  onDev s fun d =>
    let k := dom.val
    if (d.port k).st ≠ .fencing then d
    else
      let cfg := if k < 384 then Reg.MESH_FENCE_CFG (d.spindle k / 28) else Reg.MESH_HUB_FENCE_CFG
      (d.timeTo ((d.domOf k).since + d.regF cfg 31 16 * 1000)).abortEntry k .timeout 8

/-- The store at the head of a core's buffer waits at the port of a channel. -/
def Dev.storeAt (d : Dev) (k l : Nat) : Option (Nat × Bool) :=
  match (d.core l).sb with
  | .store (c :: _) mt lvl _ :: _ =>
    if mt = .device then none
    else match d.channelOf c.1, d.lineAnswer (c.1 / 64) with
      | some (ch, _), .hold => if 384 + ch = k then some (c.1, lvl.secure) else none
      | _, _ => none
  | _ => none

/-- FENCE_HOLD_EXPIRE: the oldest request held at a port is answered DOMAIN_OFF; where none is noted, the stores that wait
at a channel's port complete with error (12 R387, 10 R338). -/
def execFenceHoldExpire (dom : Fin 409) (s : State) : Host.Outcome State Fault Refusal :=
  onDev s fun d =>
    let k := dom.val
    let p := d.port k
    if p.st = .opened ∨ p.st = .off then d
    else
      let cfg := if k < 384 then Reg.MESH_FENCE_CFG (d.spindle k / 28) else Reg.MESH_HUB_FENCE_CFG
      match p.held with
      | (t, h) :: rest =>
        (((d.timeTo (t + d.regF cfg 15 0 * 1000)).setPort k { p with held := rest })).holdFail k h
      | [] =>
        (d.cores.map fun (e : Nat × Core) => e.1).foldl (fun d l =>
          match d.storeAt k l with
          | none => d
          | some (pa, sec) =>
            ((d.updCore l fun c => { c with sb := c.sb.tail }).storeError l sec false .domainOff pa).doffAt k) d

/-- The record Distaff writes of a channel's entry (13 R426). -/
def Dev.auditChannel (d : Dev) (m : Nat) : Dev :=
  d.audit 2 5 0xFF 0 0xFF 0 0 (leBytes 1 m ++ leBytes 1 (d.regF (Reg.MC_LP_CFG m) 4 0))

/-- A channel enters self-refresh, or PARTIAL with the supply of the DIMMs outside KEEP off (13 R424, R427). -/
def Dev.channelDown (d : Dev) (m : Nat) : Dev :=
  let part := d.regF (Reg.MC_LP_CFG m) 4 4 == 1
  let off := (setBits 4 (d.regF (Reg.MC_CFG m) 19 16)).filter fun r => part && !(d.regF (Reg.MC_LP_CFG m) 3 0).testBit r
  let d := { d with dram := mupd DramCh.reset d.dram m fun c => { c with off := off } }
  (d.setRegF (Reg.MC_STATUS m) 2 0 (if part then 4 else 3)).auditChannel m

/-- A root-port bundle in OFF: transmitters off, PE_PERST_N driven low (R530, R547). -/
def Dev.bundleDown (d : Dev) (b : Nat) : Dev :=
  ((d.updBun b fun x => { x with l0 := false, perst := true }).setRegF (Reg.PCE_STATUS b) 2 0 0).setRegF (Reg.PCE_STATUS b) 19 16 0

/-- DOMAIN_POWER_REMOVE: a fenced domain's supply goes: an island to RETAIN keeps its state and its port stays FENCED; the
port of a channel or bundle enters OFF (12 R386, R526, R530). -/
def execDomainPowerRemove (dom : Fin 409) (s : State) : Host.Outcome State Fault Refusal :=
  onDev s fun d =>
    let k := dom.val
    let x := d.domOf k
    if !(x.transit && (d.port k).st == .fenced && x.st == .run) then d
    else
      let y : Domain := { x with st := x.target, transit := false }
      if k < 384 then
        if x.target = .retain then d.setDom k y else d
      else
        let d := (d.failHeld k).setPort k ⟨.off, []⟩
        (if k < 400 then d.channelDown (k - 384) else d.bundleDown (k - 400)).setDom k y

/-- KEEP_ARRAY_SAVE_DONE: the state lies in the keep array, the island is unpowered and its port enters OFF (R527, 12
R386). -/
def execKeepArraySaveDone (l : Fin 384) (s : State) : Host.Outcome State Fault Refusal :=
  onDev s fun d =>
    let x := d.domOf l.val
    if x.transit && (d.port l.val).st == .fenced && x.st == .run && x.target == .off then
      (((d.failHeld l.val).setPort l.val ⟨.off, []⟩).updCore l.val Core.unpowered).setDom l.val { x with st := .off, transit := false }
    else d

/-- A line of a die that awaits its home's done, or an answer to its own recall (R534). -/
def Dev.snoopPending (d : Dev) (die : Nat) : Bool :=
  d.coh.txn.any fun (e : Nat × Option HomeTxn) => match e.2 with
    | some t => t.agent == die && t.granted
    | none => false

/-- POWER_ENTRY_TIMEOUT: 10 µs after the stop the store buffer, or else a line awaiting done, still blocks the entry
(R534). -/
def execPowerEntryTimeout (l : Fin 384) (s : State) : Host.Outcome State Fault Refusal :=
  onDev s fun d =>
    let x := d.domOf l.val
    if !(x.transit && x.st == .run && ((d.port l.val).st == .opened || (d.port l.val).st == .fencing)) then d
    else
      let d := d.drain l.val
      if (d.core l.val).sb ≠ [] then (d.timeTo (x.since + 10000)).abortEntry l.val .busy 2
      else if (d.core l.val).pendSt ≠ [] ∨ d.snoopPending (d.spindle l.val / 28) then (d.timeTo (x.since + 10000)).abortEntry l.val .busy 3
      else d

/-! ### Wake (R529, 12 R388) -/

/-- Whether a wake event of an island holds in the state given (R529). -/
def Dev.wakeHolds (d : Dev) (l : Nat) (st : DomState) : Bool :=
  let c := d.core l
  match st with
  | .sleep => (d.pendNow l &&& c.en) != 0#256
  | .retain => c.timerCond d.now || c.sTimerCond d.now
  | .off => c.timerCond d.now || c.sTimerCond d.now
  | _ => false

/-- WAKE_EVENT: a wake event starts exit at once; during SLEEP entry it is noted (R529, R534). -/
def execWakeEvent (dom : Fin 409) (s : State) : Host.Outcome State Fault Refusal :=
  onDev s fun d =>
    let k := dom.val
    let x := d.domOf k
    if 384 ≤ k ∨ d.safe then d
    else if x.transit then
      if x.st = .run ∧ x.target = .sleep ∧ d.wakeHolds k .sleep then d.setDom k { x with wake := true } else d
    else if (mget none d.spindleOf k).isSome && (d.core k).released && d.wakeHolds k x.st then d.startExit k
    else d

/-- A root port whose link has trained enters UP (14 R439, R530). -/
def Dev.bundleUp (d : Dev) (b : Nat) : Dev :=
  (d.updBun b fun x => { x with l0 := true, perst := false }).setRegF (Reg.PCE_STATUS b) 2 0 1

/-- WAKE_READY: a waking domain signals ready and its port opens; an island from OFF has its state restored from the keep
array; a channel with lost ranks waits for their fill (12 R388, R527, 13 R426). -/
def execWakeReady (dom : Fin 409) (lost : ReelLoss) (s : State) : Host.Outcome State Fault Refusal :=
  onDev s fun d =>
    let k := dom.val
    let x := d.domOf k
    let done : Domain := { x with st := .run, transit := false }
    if !(x.transit && (d.port k).st == .waking) then d
    else if k < 384 then
      let d := d.setDom k done
      let d := if x.st = .off then d.applyLoss k (d.spindle k) lost else d
      d.openPort k
    else if k < 400 then
      if (mget DramCh.reset d.dram (k - 384)).off = [] then
        ((d.setDom k done).setRegF (Reg.MC_STATUS (k - 384)) 2 0 2).openPort k
      else d
    else ((d.setDom k done).bundleUp (k - 400)).openPort k

/-! ### The fill after PARTIAL (13 R426) -/

/-- The lines some cache holds. -/
def Dev.cachedLines (d : Dev) : List Nat :=
  (d.coh.hc.map fun (e : Nat × Option HcLine) => e.1) ++ d.coh.l3.map fun (e : Nat × Option L3Tag) => e.1 % 0x400000000000

/-- Ranks of a channel are filled with the poison code, and their directory entries with the state 0b11; what a cache
still holds of a line stays. -/
def Dev.fillRanks (d : Dev) (m : Nat) (rs : List Nat) : Dev :=
  let inRank (line : Nat) : Bool := match d.channelOf (line * 64) with
    | some (ch, loc) => ch == m && rs.contains (d.rankOf ch loc)
    | none => false
  let gone (line : Nat) : Bool := inRank line && !d.cached line
  let keep := d.cachedLines.eraseDups.filter fun x => inRank x && !d.poisoned x
  let mem : Mem := { d.mem with lostRanks := rs.foldl (fun m' r => mset false m' (m * 4 + r) true) d.mem.lostRanks, bytes := d.mem.bytes.filter fun (c : Host.Cell) => !gone (c.1 / 64), poison := keep.foldl (fun p x => mset false p x true) (d.mem.poison.filter fun (e : Nat × Bool) => !inRank e.1), stale := d.mem.stale.map fun (e : Nat × Option StaleLine) => if inRank e.1 then (e.1, e.2.map fun x => { x with oldPoison := true }) else e }
  { d with mem := mem, coh := { d.coh with dir := d.coh.dir.filter (fun (e : Nat × DirEntry) => !inRank e.1), never := rs.foldl (fun x r => mset false x (m * 4 + r) true) d.coh.never } }

/-- The lost ranks of a channel are filled, and none is off any more. -/
def Dev.fillOff (d : Dev) (m : Nat) : Dev :=
  let d := d.fillRanks m (mget DramCh.reset d.dram m).off
  { d with dram := mupd DramCh.reset d.dram m fun c => { c with off := [] } }

/-- LP_EXIT_FILL_DONE: the fill ends and the port opens (13 R426). -/
def execLpExitFillDone (mc : Fin 16) (s : State) : Host.Outcome State Fault Refusal :=
  onDev s fun d =>
    let k := 384 + mc.val
    let x := d.domOf k
    if x.transit && (d.port k).st == .waking && (mget DramCh.reset d.dram mc.val).off != [] then
      (((d.fillOff mc.val).setDom k { x with st := .run, transit := false }).setRegF (Reg.MC_STATUS mc.val) 2 0 2).openPort k
    else d

/-! ### Thermal and power steps (R538 to R543) -/

/-- The temperature at which a die enters step `n`, in 1/16 °C. -/
def stepEnter (n : Nat) : Int :=
  match n with
  | 0 => -32768
  | 1 => 1520
  | 2 => 1600
  | 3 => 1664
  | _ => 1712

/-- The temperature below which a die leaves step `n`. -/
def stepLeave (n : Nat) : Int := if n = 0 then -32768 else stepEnter n - 48

/-- The highest of four steps that a temperature enters. -/
def stepAt (temp : Int) : Nat := (List.range 5).foldl (fun m n => if stepEnter n ≤ temp then n else m) 0

/-- One audit record for each group of spindles that share a die, a skein and a step, where it changes (R541). -/
def Dev.auditSteps (d : Dev) (old : Nat → Nat) : Dev :=
  let ls := (List.range 384).filter fun l => (mget none d.spindleOf l).isSome && old l != d.stepOf l
  let key (l : Nat) : Nat × Nat × Nat × Nat := (d.spindle l / 28, (d.skeinOf l).getD 0xFF, old l, d.stepOf l)
  let keys := (ls.map key).eraseDups
  keys.foldl (fun d (k : Nat × Nat × Nat × Nat) =>
    let g := ls.filter fun l => key l == k
    d.audit 4 5 0xFF 0 k.2.1 0 0
      (leBytes 2 (g.headD 0) ++ leBytes 2 (g.getLast?.getD 0) ++ leBytes 1 k.2.1 ++ leBytes 1 k.2.2.1 ++ leBytes 1 k.2.2.2)) d

/-- The thermal step of a die changes. -/
def Dev.setTherm (d : Dev) (die n : Nat) : Dev :=
  let old := d.stepOf
  let d := (d.setRegF (thermReg die) (4 * (die % 8) + 3) (4 * (die % 8)) n)
  let d := { d with pwr := { d.pwr with dieChanged := mset none d.pwr.dieChanged die (some d.now) } }
  d.auditSteps old

/-- Whether a step that last changed then may change now: at most once per 1 ms (R540). -/
def Dev.stepFree (d : Dev) (last : Option Nat) : Bool :=
  match last with
  | none => true
  | some t => decide (t + 1000000 ≤ d.now)

/-- A sample of a die's hottest sensor moves its thermal step: upward at once, downward after 10 ms below the leaving
temperature, at most once per 1 ms (R540). -/
def Dev.dieSample (d : Dev) (die : Nat) (temp : Int) : Dev :=
  let n := d.thermStep die
  let free := d.stepFree (mget none d.pwr.dieChanged die)
  let setCool (d : Dev) (t : Option Nat) : Dev := { d with pwr := { d.pwr with coolSince := mset none d.pwr.coolSince die t } }
  if n < stepAt temp then
    if free then (d.setTherm die (stepAt temp)) |> fun d => setCool d none else d
  else if n ≠ 0 ∧ temp < stepLeave n then
    match mget none d.pwr.coolSince die with
    | none => setCool d (some d.now)
    | some t =>
      if t + 10000000 ≤ d.now ∧ free then
        setCool (d.setTherm die (n - 1)) (if temp < stepLeave (n - 1) then some d.now else none)
      else d
  else setCool d none

/-- The home-cache ways no HC_QWAYS names. -/
def Dev.nonQueueWays (d : Dev) : Nat :=
  let q := match d.img.img with
    | some i => i.skeins.foldl (fun m c => m ||| c.hcQways) 0
    | none => 0
  0xFFFF ^^^ (q &&& 0xFFFF)

/-- The home-cache lines that lie in the ways of a mask. -/
def Dev.hcLinesIn (d : Dev) (mask : Nat) : List Nat :=
  d.coh.hcsets.flatMap fun (e : Nat × CSet) => (e.2.ways.filter fun (w : Nat × Nat) => mask.testBit w.1).map fun (w : Nat × Nat) => w.2

/-- Home-cache step 3: ways outside every HC_QWAYS are cleaned and powered down; they come up again when the step falls to
2 (R542). -/
def Dev.hcStep (d : Dev) (n : Nat) : Dev :=
  let old := d.regF Reg.PWR_THERM_HC 1 0
  let d := d.setRegF Reg.PWR_THERM_HC 1 0 n
  if n = 3 ∧ old < 3 then
    let up := d.regF Reg.CCH_HC_WAYS 15 0
    let down := up &&& d.nonQueueWays
    let d := (d.hcLinesIn down).foldl Dev.hcEvict d
    { d with pwr := { d.pwr with hcDown := down } }.setRegF Reg.CCH_HC_WAYS 15 0 (up ^^^ down)
  else if n < 3 ∧ old = 3 then
    let up := d.regF Reg.CCH_HC_WAYS 15 0 ||| d.pwr.hcDown
    { d with pwr := { d.pwr with hcDown := 0 } }.setRegF Reg.CCH_HC_WAYS 15 0 up
  else d

/-- The home-cache step of a temperature, from the step before (R542). -/
def hcStepOf (old : Nat) (temp : Int) : Nat :=
  let up := if 1664 ≤ temp then 3 else if 1568 ≤ temp then 2 else if 1472 ≤ temp then 1 else 0
  let stay := if 1616 ≤ temp then 3 else if 1520 ≤ temp then 2 else if 1424 ≤ temp then 1 else 0
  max up (min old stay)

/-- THERMAL_SAMPLE: the hottest sensor of a site, in 1/16 °C, and on the hub the hottest of the eight beneath the home
cache; two consecutive samples at 110 °C trip (R538 to R543). -/
def execThermalSample (site : Fin 18) (temp under : Int) (s : State) : Host.Outcome State Fault Refusal :=
  onDev s fun d =>
    let d := d.setReg (Reg.PWR_TEMP site.val) (BitVec.ofNat 32 (BitVec.ofInt 16 temp).toNat)
    let d := if site.val < 16 then d.dieSample site.val temp
      else if site.val = 16 then d.hcStep (hcStepOf (d.regF Reg.PWR_THERM_HC 1 0) under) else d
    let trip := decide (site.val ≠ 17) && decide (1760 ≤ temp)
    let was := mget false d.pwr.hot site.val
    let d := { d with pwr := { d.pwr with hot := mset false d.pwr.hot site.val trip } }
    if trip && was then d.enterSafe .thermal else d

/-- The LIMIT of a POWER entry; 0 where there is none (02 R50). -/
def Dev.powerLimit (d : Dev) (e : Nat) : Nat :=
  match d.img.img with
  | none => 0
  | some i => ((i.power.find? fun x => x.domain == e).map (·.limit)).getD 0

/-- A power step rises each 1 ms once the limit is exceeded, until the power is below 95 % of it, and then falls each 10
ms (R540). -/
def Dev.limitStep (d : Dev) (k lim watts : Nat) : Dev :=
  let n := mget 0 d.pwr.skStep k
  let rise := if lim < watts then true else if watts * 100 < lim * 95 then false else mget false d.pwr.skRise k
  let d := { d with pwr := { d.pwr with skRise := mset false d.pwr.skRise k rise } }
  let t := mget none d.pwr.skChanged k
  let set (m : Nat) : Dev :=
    let e := { d with pwr := { d.pwr with skStep := mset 0 d.pwr.skStep k m, skChanged := mset none d.pwr.skChanged k (some d.now) } }
    (if k = 16 then e.setRegF Reg.PWR_STATUS 4 2 m else e).auditSteps d.stepOf
  if rise then (if n < 4 ∧ d.stepFree t then set (n + 1) else d)
  else if 0 < n ∧ t.getD 0 + 10000000 ≤ d.now then set (n - 1)
  else d

/-- POWER_STEP_UPDATE: the power of a POWER entry, averaged over 10 ms in units of 0.25 W, against its limit: a skein's or
the package's power step, or the thermal step of a die (R540). -/
def execPowerStepUpdate (entry : BitVec 8) (watts : Nat) (s : State) : Host.Outcome State Fault Refusal :=
  onDev s fun d =>
    let e := entry.toNat
    let lim := d.powerLimit e
    if lim = 0 then d
    else if e = 0xFF then d.limitStep 16 lim watts
    else if 0x20 ≤ e ∧ e < 0x30 then d.limitStep (e - 0x20) lim watts
    else if e < 16 then
      let n := d.thermStep e
      if lim < watts ∧ n < 4 ∧ d.stepFree (mget none d.pwr.dieChanged e) then d.setTherm e (n + 1) else d
    else d

end Sys2Proof.Machine
end

