-- ==== Sys2Proof/Machine/Ways.lean ====
section
/-! DEFINITION. Way power-down (11 R361 to R363, R369), isolated ports (12 R383, R384), and reclaim of dead agents (11 R364,
R365). -/
namespace Sys2Proof.Machine

/-- A value the spec leaves open is drawn (log entry 6). -/
def Dev.takeFree (d : Dev) : Dev × BitVec 64 := ({ d with freeCtr := d.freeCtr + 1 }, Config.freeValue d.freeCtr)

/-! ### Way power-down -/

/-- Whether a requester's command reaches a power-down unit: Distaff's and a core's do (R361; a core's level is no check of
R361, log entry 66). -/
def commandsUnit : Requester → Bool
  | .distaff => true
  | .core _ => true
  | _ => false

/-- The power-down unit: die 0 to 15, or 16 the home cache. Its registers. -/
def pdWays (u : Nat) : Nat := if u < 16 then Reg.CCH_L3_WAYS u else Reg.CCH_HC_WAYS
def pdStatus (u : Nat) : Nat := if u < 16 then Reg.CCH_L3_PD_STATUS u else Reg.CCH_HC_PD_STATUS
def pdReject (u : Nat) : Nat := if u < 16 then Reg.CCH_L3_STATE_REJECT u else Reg.CCH_HUB_STATE_REJECT

/-- How many ways and slices a unit has. -/
def pdCount (u : Nat) : Nat := if u < 16 then 12 else 16
def pdSlices (u : Nat) : Nat := if u < 16 then 28 else 32

/-- The ways of a unit that a skein owns. -/
def SkeinCfg.ownWays (c : SkeinCfg) (u : Nat) : Nat := if u < 16 then c.l3Ways.getD u 0 else c.hcWays

/-- Whether a way is retired in a slice with no spare to stand in (R344, 16 R502, R512). -/
def Dev.wayRetired (d : Dev) (u slice way : Nat) : Bool :=
  if u < 16 then
    let sl := u * 28 + slice
    mget false d.coh.l3Retired (sl * 16 + way) && !(mget none d.coh.l3Spare sl == some way && !mget false d.coh.l3Retired (sl * 16 + 12))
  else mget false d.coh.hcRetired (slice * 16 + way)

/-- Whether a mask of ways has one that is powered and in service in a slice. -/
def Dev.someWay (d : Dev) (u slice mask : Nat) : Bool :=
  (setBits (pdCount u) mask).any fun w => (d.waysUp u).testBit w && !d.wayRetired u slice w

/-- Whether powering down a way leaves its owner, or HC_QWAYS, a slice with no way (R361). -/
def Dev.lastWay (d : Dev) (u way : Nat) : Bool :=
  let short (mask : Nat) : Bool := mask.testBit way && (List.range (pdSlices u)).any fun s => !d.someWay u s (mask ^^^ 2 ^ way)
  match d.img.img with
  | none => false
  | some i => i.skeins.any fun c => short (c.ownWays u) || (u == 16 && short c.hcQways)

/-- Whether some skein owns a way of a unit (R342). -/
def Dev.wayOwned (d : Dev) (u way : Nat) : Bool :=
  match d.img.img with
  | none => false
  | some i => i.skeins.any fun c => (c.ownWays u).testBit way || (u == 16 && c.hcQways.testBit way)

/-- Whether a requester may command a way: a core's skein must own it; Distaff is never refused (R361). -/
def Dev.wayMay (d : Dev) (q : Requester) (u way : Nat) : Bool :=
  match q with
  | .core l => match d.cfgOf l.val with
    | some c => (c.ownWays u).testBit way
    | none => false
  | _ => true

/-- The checks of R361 in their order; none where the command is performed. A way that no skein owns is never powered up
(R342), which an UP of Distaff meets as RANGE (DESIGN CHOICE, log entry 66). The way being cleaned counts as neither down nor
up: a command meets BUSY. -/
def Dev.wayCheck (d : Dev) (q : Requester) (u way : Nat) (down : Bool) : Option Status :=
  let x := mget WayUnit.idle d.coh.wayUnits u
  let mine := x.cleaning && x.way == way
  let real := decide (way < pdCount u)
  if !d.wayMay q u way then some .denied
  else if d.safe then some .halted
  else if mine then some .busy
  else if real && down && !(d.waysUp u).testBit way then some .state
  else if real && !down && (d.waysUp u).testBit way then some .state
  else if real && down && d.lastWay u way then some .state
  else if !real then some .range
  else if !down && !d.wayOwned u way then some .range
  else if !down && (List.range (pdSlices u)).any fun s => d.wayRetired u s way then some .dead
  else if x.cleaning then some .busy
  else none

/-- A result of a power-down unit. -/
def Dev.pdResult (d : Dev) (u : Nat) (st : Status) : Dev :=
  let d := if st = .state then d.count (pdReject u) else d
  d.setRegF (pdStatus u) 31 24 st.code

/-- WAY and SLICES_DONE of a unit, and its state. -/
def Dev.pdProgress (d : Dev) (u way done st : Nat) : Dev :=
  ((d.setRegF (pdStatus u) (if u < 16 then 20 else 21) 16 done).setRegF (pdStatus u) 15 12 way).setRegF (pdStatus u) 1 0 st

/-- DOWN and UP (R361 to R363): DOWN begins the cleaning with the first slice; UP powers the way in every slice, empty. -/
def Dev.wayCmd (d : Dev) (q : Requester) (u way : Nat) (down : Bool) : Dev :=
  if !commandsUnit q then d
  else match d.wayCheck q u way down with
    | some st => d.pdResult u st
    | none =>
      let d := d.pdResult u .ok
      if down then
        let d := d.pdProgress u way 0 1
        { d with coh := { d.coh with wayUnits := mset WayUnit.idle d.coh.wayUnits u ⟨true, way, 0⟩ } }
      else (d.pdProgress u way (pdSlices u) 0).setRegF (pdWays u) way way 1

/-- A write of CCH_L3_PD_CMD or CCH_HC_PD_CMD: 1 DOWN, 2 UP; OP 3 to 7 give RANGE (R361). -/
def Dev.pdWrite (d : Dev) (q : Requester) (u way op : Nat) : Dev :=
  if op = 0 ∨ !commandsUnit q then d
  else if op ≤ 2 then d.wayCmd q u way (op == 1)
  else d.pdResult u (if !d.wayMay q u way then .denied else if d.safe then .halted else .range)

/-- L3_WAY_DOWN (R361, R362). -/
def execL3WayDown (q : Requester) (die way : Fin 16) (s : State) : Host.Outcome State Fault Refusal :=
  onDev s fun d => d.wayCmd q die.val way.val true

/-- L3_WAY_UP (R361, R363). -/
def execL3WayUp (q : Requester) (die way : Fin 16) (s : State) : Host.Outcome State Fault Refusal :=
  onDev s fun d => d.wayCmd q die.val way.val false

/-- HC_WAY_DOWN (R361, R362). -/
def execHcWayDown (q : Requester) (way : Fin 16) (s : State) : Host.Outcome State Fault Refusal :=
  onDev s fun d => d.wayCmd q 16 way.val true

/-- HC_WAY_UP (R361, R363). -/
def execHcWayUp (q : Requester) (way : Fin 16) (s : State) : Host.Outcome State Fault Refusal :=
  onDev s fun d => d.wayCmd q 16 way.val false

/-- The positions of a slice's sets that a way number names: the way, and the spare where it stands in for it (R344). -/
def Dev.wayLeaves (d : Dev) (u slice way : Nat) : List Nat :=
  if u < 16 ∧ mget none d.coh.l3Spare (u * 28 + slice) = some way then [way, 12] else [way]

/-- The lines in a way of a slice's sets. -/
def Dev.linesInWay (d : Dev) (u slice way : Nat) : List Nat :=
  let sets := if u < 16 then d.coh.l3sets.filter fun (e : Nat × CSet) => e.1 / 4096 == u * 28 + slice
    else d.coh.hcsets.filter fun (e : Nat × CSet) => e.1 / 6144 == slice
  let ps := d.wayLeaves u slice way
  sets.flatMap fun (e : Nat × CSet) => (e.2.ways.filter fun (w : Nat × Nat) => ps.contains w.1).map fun (w : Nat × Nat) => w.2

/-- The lines of a way leave a slice (R362): evicted from the L3, or written to DRAM and dropped from the home cache. A line at
which its home is at work waits its turn (R354). -/
def Dev.cleanSlice (d : Dev) (u slice way : Nat) : Dev :=
  (d.linesInWay u slice way).foldl (fun d x =>
    if u < 16 then d.l3Evict u x
    else if (d.txnOf x).isSome then d else d.hcEvict x) d

/-- One slice's turn: its lines leave, and with none left it gates the way and counts in SLICES_DONE; after the last the unit is
IDLE (R362). The way is powered in every slice no more from the first on (R370). -/
def Dev.cleanNext (d : Dev) (u : Nat) : Dev :=
  let x := mget WayUnit.idle d.coh.wayUnits u
  if !x.cleaning || d.safe then d
  else
    let d := d.cleanSlice u x.next x.way
    if d.linesInWay u x.next x.way ≠ [] then d
    else
      let n := x.next + 1
      let last := decide (pdSlices u ≤ n)
      let d := (d.setRegF (pdWays u) x.way x.way 0).pdProgress u x.way n (if last then 0 else 1)
      { d with coh := { d.coh with wayUnits := mset WayUnit.idle d.coh.wayUnits u (if last then WayUnit.idle else { x with next := n }) } }

/-- Every unit that is cleaning does one slice. -/
def Dev.cleanTick (d : Dev) : Dev := (d.coh.wayUnits.map fun (e : Nat × WayUnit) => e.1).foldl Dev.cleanNext d

/-- WAY_CLEAN_DONE: the slices that are left are done, one after the other (R362). -/
def execWayCleanDone (unit : Fin 17) (s : State) : Host.Outcome State Fault Refusal :=
  onDev s fun d => (List.range (pdSlices unit.val)).foldl (fun d _ => d.cleanNext unit.val) d

/-! ### Isolation (12 R383) -/

/-- A router port is isolated: its bit in MESH_ISO. -/
def Dev.isolate (d : Dev) (p : MeshPort) : Dev :=
  match p with
  | .core site n => d.setRegF (Reg.MESH_ISO site.val) n.val n.val 1
  | .dieStop i => d.setRegF Reg.MESH_HUB_ISO i.val i.val 1
  | .rootPort b => (d.setRegF Reg.MESH_HUB_ISO (24 + b.val) (24 + b.val) 1).hubDiscard fun x => x.agent == 17 && x.bd == b.val
  | .guest g => d.setRegF Reg.MESH_HUB_ISO (16 + g.val) (16 + g.val) 1

/-- PORT_ISOLATE (12 R383). -/
def execPortIsolate (p : MeshPort) (s : State) : Host.Outcome State Fault Refusal := onDev s fun d => d.isolate p

/-! ### Reclaim (11 R365) -/

/-- The record of lines poisoned by reclaim (16 R516). -/
def Dev.recordReclaim (d : Dev) (agent site : Nat) (lines : List Nat) : Dev :=
  let pa := lines.headD 0 * 64
  d.record ⟨0x09, true, .ffAtNotice, site, none, agent, lines.length, pa, if lines = [] then [] else d.skeinsAt pa⟩

/-- A spindle is declared dead: its presence bits clear, and a line it held in M is marked and its poison written home
(R364, R365). -/
def Dev.spindleDead (d : Dev) (p : Nat) : Dev :=
  let die := p / 28
  let held := (d.coh.l3.filter fun (e : Nat × Option L3Tag) => e.1 / 0x400000000000 == die && (match e.2 with | some t => t.pres.getLsbD (p % 28) | none => false))
  let mine := (held.filter fun (e : Nat × Option L3Tag) => match e.2 with | some t => t.cm | none => false).map fun (e : Nat × Option L3Tag) => e.1 % 0x400000000000
  let d := held.foldl (fun d (e : Nat × Option L3Tag) =>
    let line := e.1 % 0x400000000000
    let d := (d.l2Drop p line).presClear p line
    if mine.contains line then
      let d := (d.setPoison line true).count (Reg.CCH_L3_LOST die)
      { d with mem := { d.mem with stale := merase d.mem.stale line } }
    else d) d
  let d := { d with coh := { d.coh with deadSpindles := mset false d.coh.deadSpindles p true } }
  ((d.setRegF (Reg.MESH_ISO die) (p % 28) (p % 28) 1).qDieLines mine).recordReclaim p die mine

/-- The lines whose entries stand in the backing store or changed in a directory cache. -/
def Dev.dirLines (d : Dev) : List Nat :=
  ((d.coh.dir.map fun (e : Nat × DirEntry) => e.1) ++ d.coh.dirNew.map fun (e : Nat × Option DirEntry) => e.1).eraseDups

/-- The lines an agent holds in M at the hub. -/
def Dev.ownedLines (d : Dev) (agent : Nat) : List Nat :=
  d.dirLines.filter fun x => (d.dirOf x).st == .m && (d.dirOf x).holders == agentBit agent

/-- An agent is declared dead at the hub: CCH_DEAD, outstanding answers, its M lines poisoned, and the sweep of the rest
begins (R365). Every M line is poisoned here, at the declaration (log entry 23). -/
def Dev.agentDead (d : Dev) (agent : Nat) : Dev :=
  let mine := d.ownedLines agent
  let d := (d.setRegF Reg.CCH_DEAD agent agent 1).txnsOfDead agent
  let d := (mine.foldl Dev.dirCorrect d).qDieLines mine
  let d := (d.setRegF Reg.CCH_SWEEP 31 31 1).setRegF Reg.CCH_SWEEP 7 0 0
  d.recordReclaim agent 0x10 mine

/-- RECLAIM_SWEEP_DONE: every entry that names a dead agent is corrected. What PROGRESS shows then has no value in
1/256 (log entry 6). -/
def execReclaimSweepDone (s : State) : Host.Outcome State Fault Refusal :=
  onDev s fun d =>
    if d.regF Reg.CCH_SWEEP 31 31 = 0 then d
    else
      let gone := d.dirLines.filter fun x => (d.dirOf x).st == .m && (d.dirOf x).holders &&& d.deadAgents != 0#22
      let d := (d.dirLines.foldl Dev.dirCorrect d).qDieLines gone
      let r := d.takeFree
      (r.1.setRegF Reg.CCH_SWEEP 31 31 0).setRegF Reg.CCH_SWEEP 7 0 (r.2.toNat % 256)

end Sys2Proof.Machine
end

