-- ==== Sys2Proof/Machine/Reel.lean ====
section
/-! DEFINITION. The reel controller (chapter 16): errors and what they retire, the reel of an LCN step by step, lost LCNs,
dead dies, and the checks that drive the device into SAFE. -/
namespace Sys2Proof.Machine

/-! ### Spares (R28, R505) -/

/-- The device with the reel controller changed. -/
def Dev.updRel (d : Dev) (f : Rel → Rel) : Dev := { d with rel := f d.rel }

/-- Whether a spindle stands as a spare that can serve: the reel state records it, and neither it nor its die is dead. -/
def Dev.isSpare (d : Dev) (p : Nat) : Bool :=
  d.rel.spares.contains p && !mget false d.rel.retired p && !mget false d.coh.deadSpindles p && !d.deadAgents.getLsbD (p / 28)

/-- A spindle stands as a spare no more. -/
def Dev.takeSpare (d : Dev) (p : Nat) : Dev := d.updRel fun r => { r with spares := r.spares.filter fun x => x != p }

/-- The spare spindles of a die. -/
def Dev.sparesOf (d : Dev) (die : Nat) : List Nat := ((List.range 28).map fun n => die * 28 + n).filter d.isSpare

/-- RL_DIE_SPARE0 and RL_DIE_SPARE1 show the spares left, 0 to 4; a die of which an image leaves more spindles unnamed shows 4
(log entry 69). -/
def Dev.showSpares (d : Dev) : Dev :=
  (List.range 16).foldl (fun d i =>
    d.setRegF (if i < 8 then Reg.RL_DIE_SPARE0 else Reg.RL_DIE_SPARE1) (4 * (i % 8) + 3) (4 * (i % 8)) (min 4 (d.sparesOf i).length)) d

/-- The mesh distance of two spindles by their places in their dies' own axes. -/
def spinDist (a b : Nat) : Nat :=
  let r (p : Nat) : Nat := p % 28 / 7
  let c (p : Nat) : Nat := p % 28 % 7
  (max (r a) (r b) - min (r a) (r b)) + (max (c a) (c b) - min (c a) (c b))

/-- The nearest of some spares, the lower number first among equals. -/
def nearest (p : Nat) : List Nat → Option Nat
  | [] => none
  | x :: t => match nearest p t with
    | none => some x
    | some y => if spinDist p y < spinDist p x ∨ (spinDist p y = spinDist p x ∧ y < x) then some y else some x

/-- The PRIORITY of an LCN's skein (02 R44). -/
def Dev.priorityOf (d : Dev) (l : Nat) : Nat :=
  match d.img.img with
  | some i => i.sparePriority.getD ((d.skeinOf l).getD 16) 0xFF
  | none => 0xFF

/-- A flag of the SPARE section: bit 0 NEIGHBOUR, bit 1 EARLY. -/
def Dev.spareFlag (d : Dev) (b : Nat) : Bool :=
  match d.img.img with
  | some i => i.spareFlags.testBit b
  | none => false

/-- Whether a neighbour die qualifies for an LCN: its skein owns an L3 way there that is powered in every slice (R505). -/
def Dev.neighbourOk (d : Dev) (l die : Nat) : Bool :=
  match d.cfgOf l with
  | some c => (setBits 12 (c.l3Ways.getD die 0)).any fun w =>
      (d.waysUp die).testBit w && (List.range 28).all fun s => !d.wayRetired die s w
  | none => false

/-- The dies on which an LCN looks for a spare, in order (R505). -/
def Dev.spareDies (d : Dev) (l : Nat) : List Nat :=
  let die := d.spindle l / 28
  die :: (if d.spareFlag 0 then [(die + 15) % 16, (die + 1) % 16].filter (d.neighbourOk l) else [])

/-- The die of which the rules of R505 offer an LCN a spare: the first it looks on that has one. -/
def Dev.offeredDie (d : Dev) (l : Nat) : Option Nat := (d.spareDies l).find? fun die => d.sparesOf die != []

/-- Whether another LCN that waits for a reel and is offered the last spare of a die has the better claim on it: a lower
PRIORITY, or an equal one and an earlier fault (R505). -/
def Dev.outbid (d : Dev) (l die : Nat) : Bool :=
  let before := (d.rel.due.takeWhile fun (x : Nat × Nat × Bool) => x.1 != l).map fun (x : Nat × Nat × Bool) => x.1
  (d.rel.due.map fun (x : Nat × Nat × Bool) => x.1).any fun k =>
    k != l && d.offeredDie k == some die &&
      (decide (d.priorityOf k < d.priorityOf l) || (d.priorityOf k == d.priorityOf l && before.contains k))

/-- The spare an LCN gets; none where no rule of R505 yields one. -/
def Dev.chooseSpare (d : Dev) (l : Nat) : Option Nat :=
  (d.spareDies l).findSome? fun die =>
    let s := d.sparesOf die
    if s.length = 1 && d.outbid l die then none else nearest (d.spindle l) s

/-! ### Lost LCNs (R513) -/

/-- An LCN is lost: CORE reset for good, its store buffer with it (10 R335), its island OFF, its deliveries dropped. -/
def Dev.loseLcn (d : Dev) (l : Nat) : Dev :=
  let p := d.spindle l
  let mine := d.heldVec.filter fun m => m.lcn == l
  let d := (((d.drain l).discardStores l).traceReset l).resetCore l Core.reset
  let d := { d with lost := mset false d.lost l true, reeling := mset false d.reeling l false, heldVec := d.heldVec.filter fun m => m.lcn != l }
  let d := mine.foldl (fun d m => d.dropVec m.skein) d
  let d := d.updRel fun r => { r with reels := mset none r.reels l none, due := r.due.filter fun (x : Nat × Nat × Bool) => x.1 != l, retired := mset false r.retired p true, dirty := true }
  let d := (d.failHeld l).setPort l ⟨.off, []⟩
  ((d.setDom l Domain.reset).recordLcn 0x04 true .ffAtNotice l p 0 0).reelAnswer l .full []

/-! ### A reel falls due (R501, R506 step 1 and 2) -/

/-- A core stops for a reel: a blocked read is cancelled, and deliveries are held (R506, 03 R96). -/
def Dev.stopForReel (d : Dev) (l : Nat) : Dev :=
  let d := { d with reeling := mset false d.reeling l true }
  if (d.core l).wait.inQueue then
    match (d.core l).wait with
    | .queue _ => d.unwait l
    | .remote => d.unwait l
    | _ => d
  else d

/-- A reel of an LCN falls due with a cause of R515. -/
def Dev.reelDue (d : Dev) (l cause : Nat) (retire : Bool) : Dev :=
  if mget false d.lost l || d.safe || (d.rel.due.any fun (x : Nat × Nat × Bool) => x.1 == l) || (mget none d.rel.reels l).isSome then d
  else (d.stopForReel l).updRel fun r => { r with due := r.due ++ [(l, cause, retire)] }

/-- CORE_ERROR_DETECT: an error found at retirement stops the core before the instruction (R502, 05 R186). -/
def execCoreErrorDetect (l : Fin 384) (ply : Bool) (s : State) : Host.Outcome State Fault Refusal :=
  onDev s fun d =>
    if d.inService l.val && (d.core l.val).wait == .none then
      let d := if ply then d.count (Reg.PLY_SK_CHECK ((d.skeinOf l.val).getD 0)) else d
      d.reelDue l.val 1 true
    else d

/-- How many reels are in progress. -/
def Dev.showReels (d : Dev) : Dev := d.setRegF Reg.RL_STATUS 12 8 (min 16 d.rel.reels.length)

/-- The device without an LCN's due entry. -/
def Dev.undue (d : Dev) (l : Nat) : Dev := d.updRel fun r => { r with due := r.due.filter fun (x : Nat × Nat × Bool) => x.1 != l }

/-- The device with the reel of an LCN replaced. -/
def Dev.setReel (d : Dev) (l : Nat) (r : Option Reel) : Dev :=
  (d.updRel fun x => { x with reels := mset none x.reels l r }).showReels

/-- REEL_START: the spare is chosen and powered up, or the LCN is lost; at most 16 reels at once and one per die, and none
while the island is FENCING (R505 to R507). -/
def execReelStart (l : Fin 384) (s : State) : Host.Outcome State Fault Refusal :=
  onDev s fun d =>
    let p := d.spindle l.val
    match d.rel.due.find? fun (x : Nat × Nat × Bool) => x.1 == l.val with
    | none => d
    | some (_, cause, retire) =>
      let sameDie := d.rel.reels.any fun (e : Nat × Option Reel) => match e.2 with | some r => r.old / 28 == p / 28 | none => false
      if d.safe || decide (16 ≤ d.rel.reels.length) || sameDie || (d.port l.val).st == .fencing then d
      else
        match d.chooseSpare l.val with
        | none => if cause = 1 ∨ cause = 2 then d.loseLcn l.val else { d.undue l.val with reeling := mset false d.reeling l.val false }.reelAnswer l.val .full []
        | some q =>
          let dead := d.deadAgents.getLsbD (p / 28) || mget false d.coh.deadSpindles p
          let x : ReelLoss := ⟨0#8, dead⟩
          ((d.undue l.val).takeSpare q).setReel l.val (some ⟨p, q, cause, retire, if dead then 5 else 3, x⟩) |> Dev.showSpares

/-- REEL_DRAIN_DONE: the old store buffer has drained and the old L2 is written back (R506 steps 4 and 5). -/
def execReelDrainDone (l : Fin 384) (s : State) : Host.Outcome State Fault Refusal :=
  onDev s fun d =>
    match mget none d.rel.reels l.val with
    | none => d
    | some r =>
      if r.step ≠ 3 then d
      else
        let d := d.drain l.val
        if (d.core l.val).allPerformed then (d.spindleFlush r.old).setReel l.val (some { r with step := 5 }) else d

/-- REEL_STATE_MOVE: the state moves to the spare, but for what is unreadable; nothing is left of a dead source (R506 step
6, R508). -/
def execReelStateMove (l : Fin 384) (lost : ReelLoss) (s : State) : Host.Outcome State Fault Refusal :=
  onDev s fun d =>
    match mget none d.rel.reels l.val with
    | none => d
    | some r =>
      if r.step ≠ 5 then d
      else d.setReel l.val (some { r with step := 6, lost := ⟨lost.mask, lost.fatal || r.lost.fatal⟩ })

/-- Where the spares of a die have come down to NOTIFY or below, the operator is notified (R504). -/
def Dev.notifySpares (d : Dev) (die : Nat) : Dev :=
  match d.img.img with
  | none => d
  | some i =>
    if (d.sparesOf die).length ≤ i.spareNotify then
      let total := (d.reg (Reg.RL_BUDGET_TOTAL 0)).toNat
      let pct := if total = 0 then 0 else (d.reg (Reg.RL_BUDGET_USED 0)).toNat * 100 / total
      d.budgetLow die 0 pct
    else d

/-- Vectors held for an LCN are delivered in order (08 R267). -/
def Dev.releaseHeld (d : Dev) (l : Nat) : Dev :=
  let mine := d.heldVec.filter fun m => m.lcn == l
  mine.foldl Dev.deliverVec { d with heldVec := d.heldVec.filter fun m => m.lcn != l }

/-- A reel ends: every unit names the new spindle, held deliveries are made, and the LCN resumes at its boundary or as R508
says (R506 steps 7 and 8). -/
def Dev.reelEnd (d : Dev) (l : Nat) (r : Reel) : Dev :=
  let d := { d with spindleOf := mset none d.spindleOf l (some r.new), reeling := mset false d.reeling l false }
  let d := (d.setReel l none).updRel fun x =>
    { x with retired := if r.retire then mset false x.retired r.old true else x.retired, spares := if r.retire then x.spares else x.spares ++ [r.old], standIn := mset none x.standIn r.old (some r.new), dirty := true }
  let d := (d.updCore l Core.unpowered).releaseHeld l
  let d := d.count (Reg.RL_SK_REELS ((d.skeinOf l).getD 0))
  let d := d.recordLcn 0x01 false .fbAtLcn l r.old (r.new + r.cause * 2 ^ 16) 0
  let d := (d.applyLoss l r.new r.lost).showSpares
  let d := if r.retire then (d.useBudget 0 1).notifySpares (r.new / 28) else d
  ((d.pwrReelDone l).traceSync l).reelAnswer l .ok (leBytes 2 r.new)

/-- REEL_RESUME (R506 steps 7 and 8). -/
def execReelResume (l : Fin 384) (s : State) : Host.Outcome State Fault Refusal :=
  onDev s fun d =>
    match mget none d.rel.reels l.val with
    | none => d
    | some r => if r.step ≠ 6 then d else d.reelEnd l.val r

/-- REEL_STATE_WRITE: the reel state reaches boot flash (R506). -/
def execReelStateWrite (s : State) : Host.Outcome State Fault Refusal :=
  onDev s fun d =>
    if d.rel.dirty then
      (d.updDst fun x => { x with flashReel := d.rel.standIn, flashRetired := d.rel.retired }).updRel fun r => { r with dirty := false }
    else d

/-! ### The spare of a reel fails (R507) -/

/-- A spindle that carries no LCN is retired; one that stood as a spare, or was to become a core, is a spare consumed (R502,
R504). -/
def Dev.retireIdle (d : Dev) (p : Nat) : Dev :=
  let spare := d.isSpare p || d.rel.reels.any fun (e : Nat × Option Reel) => match e.2 with | some r => r.new == p | none => false
  let d := (d.updRel fun r => { r with retired := mset false r.retired p true, dirty := true }).showSpares
  if spare then (d.useBudget 0 1).notifySpares (p / 28) else d

/-- An error in the spare of a reel retires the spare, and the reel starts again at its step 3 with the next one, the old core
still its source; with no other spare the LCN is lost (R505, R507). -/
def Dev.spareFails (d : Dev) (l : Nat) (r : Reel) : Dev :=
  let d := d.retireIdle r.new
  match d.chooseSpare l with
  | none => d.loseLcn l
  | some q => ((d.takeSpare q).setReel l (some { r with new := q, step := if r.lost.fatal then 5 else 3 })).showSpares

/-- A reel when a die dies: a spare on it fails, and of an old core on it nothing more can be read (R507, R508). -/
def Dev.reelOnDeadDie (d : Dev) (die l : Nat) (r : Reel) : Dev :=
  let x : Reel := if r.old / 28 = die ∧ r.step < 6 then { r with step := 5, lost := ⟨r.lost.mask, true⟩ } else r
  if r.new / 28 = die then d.spareFails l x else d.setReel l (some x)

/-! ### Dead dies (11 R364, R512) -/

/-- The caches of a die hold nothing any more. -/
def Dev.dieCachesGone (d : Dev) (die : Nat) : Dev :=
  { d with coh := { d.coh with
      l3 := d.coh.l3.filter fun (e : Nat × Option L3Tag) => e.1 / 0x400000000000 != die, l3sets := d.coh.l3sets.filter fun (e : Nat × CSet) => e.1 / 114688 != die, l2 := d.coh.l2.filter fun (e : Nat × Option L2Line) => e.1 / 0x400000000000 / 28 != die, l2sets := d.coh.l2sets.filter fun (e : Nat × CSet) => e.1 / 2048 / 28 != die, l1dsets := d.coh.l1dsets.filter fun (e : Nat × CSet) => e.1 / 128 / 28 != die, l1isets := d.coh.l1isets.filter fun (e : Nat × CSet) => e.1 / 128 / 28 != die } }

/-- The LCNs on a die. -/
def Dev.lcnsOn (d : Dev) (die : Nat) : List Nat :=
  (List.range 384).filter fun l => match mget none d.spindleOf l with
    | some p => p / 28 == die && (d.skeinOf l).isSome && !mget false d.lost l
    | none => false

/-- A die is declared dead: its stop is isolated, its lines are reclaimed, and its LCNs are to be reeled to neighbours or
lost (11 R364, R365, 12 R384, R512). -/
def Dev.dieDead (d : Dev) (die : Nat) : Dev :=
  if d.deadAgents.getLsbD die then d
  else
    let d := (d.setRegF Reg.MESH_HUB_ISO die die 1).setRegF (Reg.D2D_HUB_LINK die) 1 0 3
    let d := (d.agentDead die).dieCachesGone die
    let d := d.record ⟨0x10, true, .ffAtNotice, die, none, die, 0, 0, d.skeinsOfDie die⟩
    let d := d.rel.reels.foldl (fun d (e : Nat × Option Reel) => match e.2 with | some r => d.reelOnDeadDie die e.1 r | none => d) d
    ((d.lcnsOn die).foldl (fun d l => (d.discardStores l).reelDue l 1 true) d).showSpares

/-- DEAD_AGENT_DECLARE (11 R364, R365). -/
def execDeadAgentDeclare (agent : AgentId) (s : State) : Host.Outcome State Fault Refusal :=
  onDev s fun d =>
    if agent.val < 16 then d.dieDead agent.val
    else if d.deadAgents.getLsbD agent.val then d
    else d.agentDead agent.val

/-! ### Array errors (R502, R503, R512) -/

/-- A number for each array unit. -/
def arrayKey : ArrayUnit → Nat
  | .l1i p => p.val
  | .l1d p => 1000 + p.val
  | .l2 p => 2000 + p.val
  | .l3 die sl => 3000 + die.val * 28 + sl.val
  | .hc sl => 4000 + sl.val
  | .dirCache sl => 4100 + sl.val
  | .ctxCache => 4200
  | .distaff => 4201

/-- The spare rows of a unit and its budget kind (R503). -/
def arrayRows : ArrayUnit → Nat × Nat
  | .l1i _ => (8, 4)
  | .l1d _ => (8, 4)
  | .l2 _ => (64, 4)
  | .l3 _ _ => (480, 2)
  | .hc _ => (960, 3)
  | .dirCache _ => (160, 5)
  | .ctxCache => (640, 5)
  | .distaff => (640, 5)

/-- The site of a unit, its number in a record, and the skeins concerned besides those of an address (R514, R516). -/
def Dev.arrayWhere (d : Dev) : ArrayUnit → Nat × Nat × List Nat
  | .l1i p => (p.val / 28, p.val, d.skeinsOfDie (p.val / 28))
  | .l1d p => (p.val / 28, p.val, d.skeinsOfDie (p.val / 28))
  | .l2 p => (p.val / 28, p.val, d.skeinsOfDie (p.val / 28))
  | .l3 die sl => (die.val, sl.val, d.skeinsOfDie die.val)
  | .hc sl => (0x11, sl.val, [])
  | .dirCache sl => (0x10, sl.val, [])
  | .ctxCache => (0x10, 0x38, [])
  | .distaff => (0x10, 0x49, [])

/-- The own budget of a unit is exhausted, which is told once (R504). -/
def Dev.tellExhausted (d : Dev) (key kind site : Nat) : Dev :=
  if mget false d.rel.told key then d
  else (d.updRel fun r => { r with told := mset false r.told key true }).budgetLow site kind 100

/-- A spare row stands in for a failing one (R502). The number of the array kind in DETAIL is not given (log entry 6). -/
def Dev.retireRow (d : Dev) (e : ArrayError) : Dev :=
  let key := arrayKey e.unit
  let w := d.arrayWhere e.unit
  let n := mget 0 d.rel.rows key + 1
  let d := (d.updRel fun r => { r with rows := mset 0 r.rows key n }).useBudget (arrayRows e.unit).2 1
  let f := d.takeFree
  let d := f.1.record ⟨0x06, false, .none, w.1, none, w.2.1, f.2.toNat % 256 * 2 ^ 24 + e.row % 2 ^ 24, 0, w.2.2⟩
  if n = (arrayRows e.unit).1 then d.tellExhausted key (arrayRows e.unit).2 w.1 else d

/-- The LCN a spindle carries. -/
def Dev.lcnOf (d : Dev) (p : Nat) : Option Nat :=
  (d.spindleOf.find? fun (e : Nat × Option Nat) => e.2 == some p).map fun (e : Nat × Option Nat) => e.1

/-- The reel of which a spindle is the spare. -/
def Dev.reelTo (d : Dev) (p : Nat) : Option (Nat × Reel) :=
  d.rel.reels.findSome? fun (e : Nat × Option Reel) => match e.2 with | some r => if r.new = p then some (e.1, r) else none | none => none

/-- Rows of an L1 or L2 have run out: the core is reeled with cause ROWS, the spare of a reel is replaced, an idle spindle is
retired (R502, R507). -/
def Dev.rowsOut (d : Dev) (p : Nat) : Dev :=
  match d.reelTo p, d.lcnOf p with
  | some (l, r), _ => d.spareFails l r
  | none, some l => if (d.skeinOf l).isSome then d.reelDue l 2 true else d.retireIdle p
  | none, none => d.retireIdle p

/-- The lines of a way's number leave a slice at once, as its retirement needs (R502). -/
def Dev.emptyWay (d : Dev) (u slice way : Nat) : Dev := d.cleanSlice u slice way

/-- A way of an L3 slice is retired: the spare stands in for it where it is unused, and the slice is one way short where the
spare serves already or is what failed (R502, R512, 11 R344). -/
def Dev.retireL3Way (d : Dev) (die sl way : Nat) : Dev :=
  let k := die * 28 + sl
  let note (d : Dev) : Dev := d.record ⟨0x07, false, .fbAtNotice, die, none, sl, way, 0, d.skeinsOfDie die⟩
  let gone (d : Dev) (w : Nat) : Dev := { d with coh := { d.coh with l3Retired := mset false d.coh.l3Retired (k * 16 + w) true } }
  let d := d.emptyWay die sl way
  if (mget none d.coh.l3Spare k).isNone && !mget false d.coh.l3Retired (k * 16 + 12) then
    let d := gone d way
    let d := { d with coh := { d.coh with l3Spare := mset none d.coh.l3Spare k (some way) } }
    note (((d.setRegF (Reg.CCH_L3_SPARE die) sl sl 1).useBudget 1 1).tellExhausted (5000 + k) 1 die)
  else if mget none d.coh.l3Spare k = some way then note (gone d 12)
  else note (gone d way)

/-- A way of a home-cache slice is retired (R512). -/
def Dev.retireHcWay (d : Dev) (sl way : Nat) : Dev :=
  let d := d.emptyWay 16 sl way
  let d := { d with coh := { d.coh with hcRetired := mset false d.coh.hcRetired (sl * 16 + way) true } }
  d.record ⟨0x07, false, .fbAtNotice, 0x11, none, sl, way, 0, d.skeinsWhere fun c => c.hcWays.testBit way⟩

/-- A way of a directory cache is retired: its sectors are written back and read again from DRAM (R502, R512). -/
def Dev.retireDirWay (d : Dev) (sl way : Nat) : Dev :=
  let sets := d.coh.dcsets.filter fun (e : Nat × CSet) => e.1 / 1024 == sl
  let d := sets.foldl (fun d (e : Nat × CSet) =>
    match e.2.ways.find? fun (w : Nat × Nat) => w.1 == way with
    | some w =>
      let d := d.dirWriteBack sl w.2
      { d with coh := { d.coh with dcsets := mupd CSet.empty d.coh.dcsets e.1 fun s => s.drop w.2 } }
    | none => d) d
  let d := { d with coh := { d.coh with dirRetired := mset false d.coh.dirRetired (sl * 16 + way) true } }
  d.record ⟨0x07, false, .fbAtNotice, 0x10, none, sl, way, 0, d.skeinsWhere fun _ => true⟩

/-- A sixteenth of the context cache is retired, which is taken as its way (log entry 18): its contexts are read again from DRAM,
those with waiters at once (R502, R512, 03 R114). -/
def Dev.retireCtxWay (d : Dev) (way : Nat) : Dev :=
  let out := d.bq.cache.ways.filter fun (w : Nat × Nat) => w.1 / 4096 == way
  let d := { d with bq := { d.bq with cache := { d.bq.cache with ways := d.bq.cache.ways.filter fun (w : Nat × Nat) => w.1 / 4096 != way }, ctxRetired := d.bq.ctxRetired ++ [way] } }
  let d := out.foldl (fun d (w : Nat × Nat) => let d := d.ctxLineTouch w.2 true; if d.pinned w.2 then d.ctxUse w.2 else d) d
  d.record ⟨0x07, false, .fbAtNotice, 0x10, none, 0x38, way, 0, d.skeinsWhere fun _ => true⟩

/-- What an uncorrectable error poisons: in a directory cache the directory line, which is then rebuilt (11 R357); elsewhere the
line, and a queue whose context or links it holds becomes DEAD when the engine reads them (11 R366, R502). -/
def Dev.arrayPoison (d : Dev) (e : ArrayError) (site unit : Nat) : Dev :=
  match e.line, e.corrected with
  | some x, false => match e.unit with
    | .dirCache _ => { d with coh := { d.coh with dirPoison := mset false d.coh.dirPoison (x / 21) true } }
    | _ => d.linePoisoned x site unit
  | _, _ => d

/-- A row of Distaff SRAM is lost; at 64 of them the device enters SAFE (R502, R519). -/
def Dev.distaffRow (d : Dev) : Dev :=
  let d := d.updRel fun r => { r with distRows := r.distRows + 1 }
  if 64 ≤ d.rel.distRows then d.enterSafe .distaff else d

/-- ARRAY_ECC_ERROR: an uncorrectable error poisons its line; the row is retired, and with no spare row left the way, the
core or the SRAM row (R502). -/
def execArrayEccError (e : ArrayError) (s : State) : Host.Outcome State Fault Refusal :=
  onDev s fun d =>
    let w := d.arrayWhere e.unit
    let d := d.arrayPoison e w.1 w.2.1
    if mget 0 d.rel.rows (arrayKey e.unit) < (arrayRows e.unit).1 then d.retireRow e
    else match e.unit with
      | .l1i p => d.rowsOut p.val
      | .l1d p => d.rowsOut p.val
      | .l2 p => d.rowsOut p.val
      | .l3 die sl => d.retireL3Way die.val sl.val e.way.val
      | .hc sl => d.retireHcWay sl.val e.way.val
      | .dirCache sl => d.retireDirWay sl.val e.way.val
      | .ctxCache => d.retireCtxWay e.way.val
      | .distaff => d.distaffRow

/-! ### Checks that end in SAFE (R519) -/

/-- HUB_UNIT_ERROR: a hub unit without a replacement fails (R502). -/
def execHubUnitError (_unit : HubUnit) (s : State) : Host.Outcome State Fault Refusal := onDev s fun d => d.enterSafe .spares

/-- IMAGE_HASH_CHECK: Distaff's check every 60 s (R519). -/
def execImageHashCheck (good : Bool) (s : State) : Host.Outcome State Fault Refusal :=
  onDev s fun d => if good then d else d.enterSafe .image

end Sys2Proof.Machine
end

