-- ==== Sys2Proof/Machine/Pins.lean ====
section
/-! DEFINITION. Wear, guard bands and early reels (16 R509 to R511), regulators (20 R612), and the shared pins: capture,
pulse and trace (20 R603 to R610). -/
namespace Sys2Proof.Machine

/-! ### Guard bands (16 R510, 20 R611, R612). Rail domains: dies 0 to 15, 16 the hub, 17 the home cache -/

/-- Where a rail domain's step is shown: register and low bit. -/
def guardAt (r : Nat) : Nat × Nat :=
  if r < 8 then (Reg.RL_GUARD0, 4 * r)
  else if r < 16 then (Reg.RL_GUARD1, 4 * (r - 8))
  else (Reg.RL_GUARD_HUB, 4 * (r - 16))

/-- The step a rail domain has applied. -/
def Dev.guardStep (d : Dev) (r : Nat) : Nat := d.regF (guardAt r).1 ((guardAt r).2 + 3) (guardAt r).2

/-- The PMBus address of a rail domain's regulator (20 R611). -/
def railAddr (r : Nat) : Nat := 0x40 + r

/-- Distaff orders a step: VOUT_COMMAND, its value given here in mV above the fused operating point. -/
def Dev.orderStep (d : Dev) (r step : Nat) : Dev := d.emit (.pmbus (railAddr r) 0x21 (5 * step))

/-- A step that the regulator acknowledged is in force: shown, recorded, charged to budget 11; the seventh exhausts the
domain's own budget (16 R504, R510). -/
def Dev.applyStep (d : Dev) (r step : Nat) : Dev :=
  let a := guardAt r
  let d := d.setRegF a.1 (a.2 + 3) a.2 step
  let d := d.record ⟨0x14, false, .none, r, none, r, step, 0, if r < 16 then d.skeinsOfDie r else []⟩
  let d := d.useBudget 11 1
  if step = 7 then d.tellExhausted (7000 + r) 11 r else d

/-- A step that the regulator did not acknowledge stays unapplied; the failure is recorded, and it is tried again (20
R612). -/
def Dev.missStep (d : Dev) (r step : Nat) : Dev :=
  let d := { d with pwr := { d.pwr with guardDue := mset 0 d.pwr.guardDue r step } }
  d.audit 2 5 0xFF 0 0xFF Status.timeout.code 0 (leBytes 1 r ++ leBytes 1 step)

/-- Distaff raises a domain step by step to what its slowdown asks for (16 R510). -/
def Dev.raiseTo (d : Dev) (r goal : Nat) (acked : Bool) : Nat → Dev
  | 0 => d
  | n + 1 =>
    let s := d.guardStep r + 1
    if goal < s ∨ mget 0 d.pwr.guardDue r ≠ 0 then d
    else if acked then ((d.orderStep r s).applyStep r s).raiseTo r goal acked n
    else (d.orderStep r s).missStep r s

/-- GUARD_STEP_RETRY: a step still due is ordered again (20 R612). -/
def execGuardStepRetry (dom : Fin 18) (ack : Bool) (s : State) : Host.Outcome State Fault Refusal :=
  onDev s fun d =>
    let r := dom.val
    let st := mget 0 d.pwr.guardDue r
    if st = 0 then d
    else
      let d := d.orderStep r st
      if ack then { d with pwr := { d.pwr with guardDue := mset 0 d.pwr.guardDue r 0 } }.applyStep r st else d.missStep r st

/-! ### Wear (16 R509, R511) -/

/-- An early reel, where EARLY is set, the die holds more spares than NOTIFY, and the LCN is in RUN or IDLE (R511); none
while such work is shed (18 R583). -/
def Dev.earlyReel (d : Dev) (p : Nat) : Dev :=
  match d.img.img, d.lcnOf p with
  | some i, some l =>
    if d.shed < 3 ∧ d.spareFlag 1 ∧ i.spareNotify < (d.sparesOf (p / 28)).length ∧ (d.skeinOf l).isSome ∧ (d.core l).released ∧
        (d.domOf l).st = .run ∧ !(d.domOf l).transit then d.reelDue l 3 true
    else d
  | _, _ => d

/-- WEAR_MEASURE: the slowdowns of spindles 0 to 447, hub quadrants (448 to 451) and the home-cache die (452) in 0.01 %,
the domains whose regulator does not acknowledge, and whether the 30-day average temperature exceeds 85 °C: which kind and
percentage that notification names is not given (log entry 6; R504, R509, R510, R511). -/
def execWearMeasure (slow unacked : List Nat) (warm : Bool) (s : State) : Host.Outcome State Fault Refusal :=
  onDev s fun d =>
    let at_ (p : Nat) : Nat := slow.getD p 0
    let most (ps : List Nat) : Nat := (ps.map at_).foldl max 0
    let of (r : Nat) : Nat := if r < 16 then most ((List.range 28).map fun n => r * 28 + n) else if r = 16 then most [448, 449, 450, 451] else at_ 452
    let d := (List.range 18).foldl (fun d r => d.raiseTo r (min 7 (of r / 75)) (!unacked.contains r) 7) d
    let d := ((List.range 448).filter fun p => decide (600 ≤ at_ p)).foldl (fun d p => d.earlyReel p) d
    if warm then
      let k := d.takeFree
      let p := k.1.takeFree
      p.1.budgetLow 0x10 (k.2.toNat % 256) (p.2.toNat % 256)
    else d

/-- EM_READ: the electromigration counts of the spindles in percent of their budget (R509, R511). -/
def execEmRead (counts : List Nat) (s : State) : Host.Outcome State Fault Refusal :=
  onDev s fun d => ((List.range 448).filter fun p => decide (90 < counts.getD p 0)).foldl (fun d p => d.earlyReel p) d

/-- PMB_ALERT: Distaff reads STATUS_WORD of every regulator and records each fault (20 R612). -/
def execPmbAlert (words : List (Nat × BitVec 16)) (s : State) : Host.Outcome State Fault Refusal :=
  onDev s fun d =>
    let d := (List.range 20).foldl (fun d i => d.emit (.pmbus (0x40 + i) 0x79 0)) d
    (words.filter fun (w : Nat × BitVec 16) => w.2 != 0#16).foldl (fun d (w : Nat × BitVec 16) =>
      d.audit 2 5 0xFF 0 0xFF 0 0 (leBytes 1 w.1 ++ leBytes 2 w.2.toNat)) d

/-! ### Shared pins (20 R603) -/

/-- Whether some pin claims unit `k` of the `n` units of a function; from the image lock on (R603). -/
def Dev.pinUnit (d : Dev) (function n k : Nat) : Bool :=
  match d.img.img with
  | some i => d.img.lock && i.pins.any fun e => e.function == function && e.pin % n == k
  | none => false

/-- CAPTURE_EDGE: the time of a rising edge to within 2 ns, unless one was accepted less than 50 ns before (R608). -/
def execCaptureEdge (unit : Fin 4) (s : State) : Host.Outcome State Fault Refusal :=
  onDev s fun d =>
    let k := unit.val
    let early := match mget none d.pwr.capLast k with | some t => decide (d.now < t + 50) | none => false
    if !d.pinUnit 1 4 k || early then d
    else
      let r := d.takeFree
      let d := { r.1 with pwr := { r.1.pwr with capLast := mset none r.1.pwr.capLast k (some d.now) } }
      let d := d.setReg64 (Reg.TB_CAP_LO k) (d.now + r.2.toNat % 5 - 2)
      d.setReg (Reg.TB_CAP_COUNT k) (d.reg (Reg.TB_CAP_COUNT k) + 1#32)

/-- The device with a pulse unit's level. -/
def Dev.setPulse (d : Dev) (k : Nat) (b : Bool) : Dev :=
  ({ d with pwr := { d.pwr with pulse := mset false d.pwr.pulse k b } }).emit (.pulse k b)

/-- PULSE_START: at a timebase value that is a multiple of 10^9 the pin goes high (R610). -/
def execPulseStart (unit : Fin 2) (s : State) : Host.Outcome State Fault Refusal :=
  onDev s fun d =>
    if !d.pinUnit 2 2 unit.val || d.safe || mget false d.pwr.pulse unit.val then d
    else (d.timeTo ((d.now + 999999999) / 1000000000 * 1000000000)).setPulse unit.val true

/-- PULSE_END: 100 µs later it goes low (R610). -/
def execPulseEnd (unit : Fin 2) (s : State) : Host.Outcome State Fault Refusal :=
  onDev s fun d =>
    if mget false d.pwr.pulse unit.val then (d.timeTo (d.now / 1000000000 * 1000000000 + 100000)).setPulse unit.val false else d

/-! ### The trace port (20 R605, R606) -/

/-- The length of the packet at the front of the trace buffer, by its header. -/
def packetLen (h : Byte) : Nat :=
  match h.toNat / 16 with
  | 1 => 1 + h.toNat % 16
  | 2 => 3 + h.toNat % 16
  | 3 => 2 + h.toNat % 16
  | 4 => 20
  | 5 => 9
  | 6 => 3
  | _ => 1

/-- Bytes go out on the two lanes in turn. -/
def Dev.traceOut (d : Dev) (bs : List Byte) : Dev :=
  ({ d with trace := { d.trace with odd := d.trace.odd != (bs.length % 2 == 1) } }).emit (.traceBytes bs)

/-- TRACE_PACKET_SEND: the oldest packet leaves the buffer, or IDLE while a trace runs and nothing waits (R606). -/
def execTracePacketSend (s : State) : Host.Outcome State Fault Refusal :=
  onDev s fun d =>
    if d.safe then d
    else match d.trace.buf with
      | h :: _ =>
        let n := packetLen h
        (({ d with trace := { d.trace with buf := d.trace.buf.drop n } }).traceOut (d.trace.buf.take n)).traceStatus
      | [] => if bit (d.reg Reg.TRC_CTL) 31 then d.traceOut [0xF0#8] else d

end Sys2Proof.Machine
end

