-- ==== Sys2Proof/Machine/DstCmd.lean ====
section
/-! DEFINITION. Distaff's commands (chapter 18): how a command is admitted, performed, audited and answered; sessions,
transfers, fuses, firmware, the audit log, debug and reel commands, the transports, and shedding. -/
namespace Sys2Proof.Machine

/-! ### Admission (R17, R570 to R575, R580) -/

/-- A command of R574: its code, whether it needs no session, whether a mailbox may send it without one, whether a
recovery session holds it (R570), and whether BOOT and SAFE admit it. -/
structure Cmd where
  code : Nat
  anyone : Bool
  free : Bool
  recovery : Bool
  boot : Bool
  safe : Bool
  deriving DecidableEq, Repr

/-- What performing a command gives: its status, none where it is answered later, and its result. -/
structure Done where
  dev : Dev
  status : Option Status
  data : List Byte

/-- A command that ends with a status and no result. -/
def Dev.ends (d : Dev) (st : Status) : Done := ⟨d, some st, []⟩

/-- Whether Distaff has power and its reset has ended. -/
def Dev.distaffUp (d : Dev) : Bool := d.pwr.pwrok && !d.pwr.railOff

/-- Commands that the ROM serves on UART0 (R558). -/
def romServes (code : Nat) : Bool := [0x01, 0x02, 0x04, 0x05, 0x07, 0x50].contains code

/-- Whether Distaff takes a command at all: the firmware does from every transport, the ROM from Almanac once it serves
recovery; a mailbox only where its DOORBELL was rung and the request names this command (R558, R580). -/
def Dev.takes (d : Dev) (who : Caller) (code : Nat) : Bool :=
  d.distaffUp && (d.dst.fwRun.isSome || (d.safe && callerLine who == 0)) &&
  match who with
  | .mbx s _ _ _ => d.regF (Reg.DST_MBX_CTL s.val) 17 16 == 1 && d.regF (Reg.DST_MBX_REQ s.val 0) 15 0 == code
  | _ => true

/-- Whether SEQ and tag of a command in a session are right (R571). -/
def tagRight (who : Caller) (s : Session) : Bool :=
  match who with
  | .almanac => true
  | .mctp _ seq ok => ok && seq.toNat == s.seq + 1
  | .mbx _ _ seq ok => ok && seq.toNat == s.seq + 1

/-- SEQ of a caller's command. -/
def callerSeq : Caller → Nat
  | .almanac => 0
  | .mctp _ seq _ => seq.toNat
  | .mbx _ _ seq _ => seq.toNat

/-- Whether a command is under the session of its line: it needs one, or comes over Almanac, whose line the session is bound to
(R570, R571, R580). -/
def Cmd.inSession (c : Cmd) (who : Caller) : Bool := !c.anyone || (257 ≤ callerLine who && !c.free)

/-- Whether the tag of a command is wrong (R571). -/
def Dev.tagWrong (d : Dev) (who : Caller) (c : Cmd) : Bool :=
  match d.sessionOf who with
  | some s => c.inSession who && !tagRight who s
  | none => false

/-- The first check of R17 that a command fails before its unit's own: tag and, where `sound` is false, its own signature or CRC;
firmware; rights; state. A recovery session admits what R570 lists. -/
def Dev.cmdFails (d : Dev) (who : Caller) (c : Cmd) (sound : Bool) (may : Option Session → Bool) : Option Status :=
  let s := d.sessionOf who
  let st := d.regF Reg.DST_STATUS 1 0
  if d.tagWrong who c || !sound then some .integrity
  else if d.dst.fwRun.isNone && !romServes c.code then some .unsupported
  else if c.inSession who && s.isNone then some .denied
  else if (match s with | some s => (c.inSession who || callerLine who == 0) && s.recovery && !c.recovery | none => false) then some .denied
  else if !may s then some .denied
  else if st = 0 ∧ !c.boot then some .state
  else if st = 2 ∧ !c.safe then some .halted
  else none

/-- The session of a caller notes a command. -/
def Dev.sessionUsed (d : Dev) (who : Caller) : Dev :=
  d.updDst fun x => { x with sessions := x.sessions.map fun s => if s.line = callerLine who then { s with lastUse := d.now, seq := if callerLine who = 0 then s.seq else callerSeq who } else s }

/-- A STATE result is counted: Distaff's own, and at the admission of a command that of the image unit or the reel controller,
which are NONE or INIT then (00 R19, R574, 02 R68, 16 R524). -/
def Dev.countState (d : Dev) (code : Nat) : Dev :=
  let d := d.count Reg.DST_STATE_REJECT
  if 0x20 ≤ code ∧ code ≤ 0x23 then d.count Reg.IMG_STATE_REJECT
  else if 0x31 ≤ code ∧ code ≤ 0x33 then d.count Reg.RL_STATE_REJECT else d

/-- The result of an image command that ends before its unit is reached (02 R71). -/
def Dev.noteImg (d : Dev) (code : Nat) (st : Status) : Dev :=
  if 0x20 ≤ code ∧ code ≤ 0x23 then d.setRegF Reg.IMG_STATUS 31 24 st.code else d

/-- Whether a command's own unit counts its STATE results: the image unit, the reel controller and the power controller. -/
def unitCounts (code : Nat) : Bool := decide (0x20 ≤ code ∧ code ≤ 0x23) || decide (0x31 ≤ code ∧ code ≤ 0x33) || code == 0x40

/-- A command: its checks, its effect, the audit record and the answer. In SAFE no command returns STATE, but HALTED (00 R21);
while new commands are shed, one that would be performed is answered BUSY (R583). -/
def Dev.serveAs (d : Dev) (who : Caller) (c : Cmd) (kind : Nat) (as_ : Option (Nat × Nat)) (sound : Bool) (may : Option Session → Bool) (arg : List Byte)
    (act : Dev → Done) : Dev :=
  if !d.takes who c.code then d
  else match d.cmdFails who c sound may with
    | some st =>
      let d := (if st = .state then d.countState c.code else d).noteImg c.code st
      (if d.tagWrong who c then d else d.sessionUsed who).answerTo who kind c.code st as_ arg []
    | none =>
      let d := d.sessionUsed who
      let r := act d
      let shed := 4 ≤ d.shed && !(List.contains [0x01, 0x02, 0x30] c.code) && (r.status == none || r.status == some .ok)
      if shed then (d.noteImg c.code .busy).answerTo who kind c.code .busy as_ arg []
      else match r.status with
        | some st =>
          let st := if st = .state ∧ d.safe then Status.halted else st
          let e := if st = .state ∧ !unitCounts c.code then r.dev.count Reg.DST_STATE_REJECT else r.dev
          e.answerTo who kind c.code st as_ arg r.data
        | none => r.dev

/-- A command whose record carries the session's role. -/
def Dev.serve (d : Dev) (who : Caller) (c : Cmd) (may : Option Session → Bool) (arg : List Byte) (act : Dev → Done) : Dev :=
  d.serveAs who c 1 none true may arg act

/-- Any session, or none. -/
def anyRole (_ : Option Session) : Bool := true

/-- The installer. -/
def installer (s : Option Session) : Bool := match s with | some s => s.role == 1 | none => false

/-- An operator with a right, or the installer, who has every operator right (R566). -/
def right (k : Nat) (s : Option Session) : Bool := match s with | some s => s.role == 1 || s.rights.testBit k | none => false

/-- A command that needs no session, in every state; of these a recovery session admits STATUS and TIME (R570). -/
def openCmd (code : Nat) : Cmd := ⟨code, true, true, code == 0x01 || code == 0x02, true, true⟩

/-- A command of a session in RUN alone. -/
def runCmd (code : Nat) : Cmd := ⟨code, false, false, false, false, false⟩

/-- Bytes that the spec leaves open (log entry 6). -/
def Dev.freeBytes (d : Dev) : Nat → Dev × List Byte
  | 0 => (d, [])
  | n + 1 =>
    let f := d.takeFree
    let r := f.1.freeBytes n
    (r.1, leBytes 8 f.2.toNat ++ r.2)

/-! ### What anyone may ask -/

/-- STATUS: its content has no layout in the spec (R574). -/
def execStatusCmd (caller : Caller) (s : State) : Host.Outcome State Fault Refusal :=
  onDev s fun d => d.serve caller (openCmd 0x01) anyRole [] fun d =>
    let f := d.freeBytes 4
    ⟨f.1, some .ok, leBytes 4 (d.reg Reg.DST_STATUS).toNat ++ f.2⟩

/-- TIME: the timebase. -/
def execTimeCmd (caller : Caller) (s : State) : Host.Outcome State Fault Refusal :=
  onDev s fun d => d.serve caller (openCmd 0x02) anyRole [] fun d => ⟨d, some .ok, leBytes 8 d.now⟩

/-- IDENTITY: SERIAL, the stepping and serial of every die, and the public key and certificate, which the model holds no
value of (R574, 02 R622). -/
def execIdentityCmd (caller : Caller) (s : State) : Host.Outcome State Fault Refusal :=
  onDev s fun d => d.serve caller ⟨0x03, true, false, false, true, true⟩ anyRole [] fun d =>
    let dies := (List.range 18).flatMap fun i => leBytes 2 0x0100 ++ leBytes 8 (mget 0 d.dst.dieSerial i)
    let f := d.freeBytes 32
    ⟨f.1, some .ok, leBytes 8 d.dst.serial ++ dies ++ f.2⟩

/-! ### Sessions (R569, R570, R572) -/

/-- The key of a credential: installer slots of recovery sessions from 0x1000. -/
def Dev.credKey (d : Dev) (role index : Nat) : Nat := if d.img.img.isNone then 0x1000 + index else role * 256 + index

/-- The failures and lock of a credential. -/
def Dev.cred (d : Dev) (k : Nat) : CredState := mget ⟨0, 0⟩ d.dst.creds k

/-- Whether a credential is there to open a session with: a ROLE entry, or before an image is committed an installer slot
written and not revoked (R570). -/
def Dev.credential (d : Dev) (role index : Nat) : Option RoleEntry :=
  match d.img.img with
  | some i => i.roles.find? fun r => r.role == role && r.index == index
  | none =>
    let k := mget FuseSlot.blank d.dst.slots index
    if role = 1 ∧ index < 4 ∧ k.written ∧ !k.revoked then some ⟨1, index, 0xF⟩ else none

/-- AUTH_BEGIN: a nonce of 32 bytes from the random source (R569, R570, R572). -/
def execAuthBegin (caller : Caller) (role : Fin 8) (index : Nat) (s : State) : Host.Outcome State Fault Refusal :=
  onDev s fun d => d.serveAs caller (openCmd 0x04) 6 (some (role.val, index)) true anyRole (leBytes 1 role.val ++ leBytes 1 index) fun d =>
    if (d.credential role.val index).isNone || decide (d.now < (d.cred (d.credKey role.val index)).lockedUntil) then d.ends .denied
    else
      let f := d.freeBytes 4
      let c : Challenge := ⟨callerLine caller, role.val, index, d.now⟩
      ⟨f.1.updDst fun x => { x with challenges := x.challenges.filter (fun y => y.line != c.line) ++ [c] }, some .ok, f.2⟩

/-- A session ends, and its transfer with it. -/
def Dev.endSession (d : Dev) (p : Session → Bool) : Dev :=
  let gone := (d.dst.sessions.filter p).map (·.line)
  d.updDst fun x => { x with sessions := x.sessions.filter fun s => !p s, transfers := x.transfers.filter fun t => !gone.contains t.line }

/-- A failure of AUTH_FINISH; the fifth in a row locks the credential for 600 s (R572). -/
def Dev.authFailed (d : Dev) (k : Nat) : Dev :=
  let n := (d.cred k).fails + 1
  d.updDst fun x => { x with creds := mset ⟨0, 0⟩ x.creds k (if 5 ≤ n then ⟨0, d.now + 600000000000⟩ else ⟨n, (d.cred k).lockedUntil⟩) }

/-- AUTH_FINISH: the tag is checked and the session opened; the device's proof is its answer (R569, R572). -/
def execAuthFinish (caller : Caller) (tagOk : Bool) (s : State) : Host.Outcome State Fault Refusal :=
  onDev s fun d =>
    let line := callerLine caller
    let ch := d.dst.challenges.find? fun c => c.line == line
    let as_ := match ch with | some c => (c.role, c.index) | none => (0, 0xFF)
    d.serveAs caller (openCmd 0x05) 6 (some as_) true anyRole (leBytes 1 as_.1 ++ leBytes 1 as_.2) fun d =>
      let d := d.updDst fun x => { x with challenges := x.challenges.filter fun c => c.line != line }
      match ch with
      | none => d.ends .denied
      | some c =>
        let k := d.credKey c.role c.index
        match d.credential c.role c.index with
        | none => d.ends .denied
        | some e =>
          if !tagOk then (d.authFailed k).ends .integrity
          else if c.since + 30000000000 < d.now then (d.authFailed k).ends .denied
          else
            let rec_ := d.img.img.isNone
            let d := d.endSession fun s => (s.role == c.role && s.index == c.index && s.recovery == rec_) || s.line == line
            let others := d.dst.sessions.filter fun s => decide (1 ≤ s.line) && decide (s.line ≤ 256)
            if 1 ≤ line ∧ line ≤ 256 ∧ 7 ≤ others.length then d.ends .full
            else
              let s : Session := ⟨d.dst.nextSession, line, c.role, c.index, e.rights, rec_, 0, d.now⟩
              let d := d.updDst fun x => { x with nextSession := x.nextSession + 1, sessions := x.sessions ++ [s], creds := mset ⟨0, 0⟩ x.creds k ⟨0, 0⟩ }
              let f := d.freeBytes 4
              ⟨f.1, some .ok, f.2⟩

/-- LOGOUT (R572). -/
def execLogout (caller : Caller) (s : State) : Host.Outcome State Fault Refusal :=
  onDev s fun d =>
    let as_ := (d.sessionOf caller).map fun s => (s.role, s.index)
    d.serveAs caller ⟨0x06, false, false, true, true, true⟩ 1 as_ true anyRole [] fun d =>
      (d.endSession fun s => s.line == callerLine caller).ends .ok

/-- SESSION_IDLE_TIMEOUT: 900 s without a command (R572). -/
def execSessionIdleTimeout (id : Nat) (s : State) : Host.Outcome State Fault Refusal :=
  onDev s fun d =>
    match d.dst.sessions.find? fun s => s.id == id with
    | none => d
    | some x => (d.timeTo (x.lastUse + 900000000000)).endSession fun s => s.id == id

/-- CREDENTIAL_UNLOCK: 600 s after the lock (R572). -/
def execCredentialUnlock (cred : Nat) (s : State) : Host.Outcome State Fault Refusal :=
  onDev s fun d =>
    let c := d.cred cred
    if c.lockedUntil = 0 then d
    else (d.timeTo c.lockedUntil).updDst fun x => { x with creds := mset ⟨0, 0⟩ x.creds cred ⟨c.fails, 0⟩ }

/-! ### Transfers (R573) -/

/-- The transfer open on a caller's line. -/
def Dev.transferOf (d : Dev) (who : Caller) : Option Transfer := d.dst.transfers.find? fun t => t.line == callerLine who

/-- The bytes of a transfer; one that was never sent reads 0. -/
def Transfer.all (t : Transfer) : List Byte := (List.range t.length).map fun i => mget 0#8 t.bytes i

/-- The firmware copy that does not run. -/
def Dev.olderFw (d : Dev) : Nat := 1 - d.regF Reg.DST_STATUS 2 2

/-- XFER_OPEN of an image (0), delta (1) or firmware (2); the last erases the older firmware copy (R573). -/
def execXferOpen (caller : Caller) (kind length : Nat) (s : State) : Host.Outcome State Fault Refusal :=
  onDev s fun d => d.serve caller ⟨0x07, false, false, true, false, true⟩ anyRole (leBytes 1 kind ++ leBytes 4 length) fun d =>
    if 2 < kind ∨ (if kind = 2 then 0x400000 else 0x10000) < length then d.ends .range
    else
      let t : Transfer := ⟨callerLine caller, kind, length, []⟩
      let d := d.updDst fun x => { x with transfers := x.transfers.filter (fun y => y.line != t.line) ++ [t] }
      let d := if kind = 2 then d.updDst fun x => { x with fw := mset FwCopy.blank x.fw d.olderFw ⟨false, 0, length, []⟩ } else d
      d.ends .ok

/-- Bytes put into a sparse object at an offset. -/
def putBytes (m : List (Nat × Byte)) (o : Nat) (bs : List Byte) : List (Nat × Byte) :=
  (List.range bs.length).foldl (fun m i => mset 0#8 m (o + i) (bs.getD i 0#8)) m

/-- XFER_DATA: up to 1,024 bytes at an offset; on Almanac a CRC guards them (R573, R577). -/
def execXferData (caller : Caller) (offset : Nat) (data : List (BitVec 8)) (crcOk : Bool) (s : State) : Host.Outcome State Fault Refusal :=
  onDev s fun d => d.serveAs caller ⟨0x07, false, false, true, false, true⟩ 1 none (callerLine caller != 0 || crcOk) anyRole (leBytes 4 offset ++ data.take 28) fun d =>
    match d.transferOf caller with
    | none => d.ends .state
    | some t =>
      if 1024 < data.length ∨ t.length < offset + data.length then d.ends .range
      else if t.kind = 2 then
        (d.updDst fun x => { x with fw := mupd FwCopy.blank x.fw d.olderFw fun f => { f with bytes := putBytes f.bytes offset data } }).ends .ok
      else
        (d.updDst fun x => { x with transfers := x.transfers.map fun y => if y.line = t.line then { y with bytes := putBytes y.bytes offset data } else y }).ends .ok

/-! ### Fuses and firmware (R556, R558, R567) -/

/-- ENROLL: `body` is SERIAL (8 bytes), key hash (48) and fleet secret (32, decrypted); the maker's signature covers it
(R567). A signature or SERIAL that fails comes before every other check. -/
def execEnroll (caller : Caller) (slot : Nat) (body : List (BitVec 8)) (sigOk : Bool) (s : State) : Host.Outcome State Fault Refusal :=
  onDev s fun d => d.serveAs caller ⟨0x08, true, false, false, false, false⟩ 1 (some (3, slot)) (sigOk && leAt body 0 8 == d.dst.serial) anyRole
      (bytesAt body 0 8 ++ leBytes 1 slot) fun d =>
    let k := mget FuseSlot.blank d.dst.slots slot
    if k.written ∨ k.revoked then d.ends .state
    else if 3 < slot then d.ends .range
    else (d.updDst fun x => { x with slots := mset FuseSlot.blank x.slots slot ⟨true, bytesAt body 8 48, bytesAt body 56 32, false⟩ }).ends .ok

/-- REVOKE (R567). -/
def execRevokeSlot (caller : Caller) (slot : Nat) (sigOk : Bool) (s : State) : Host.Outcome State Fault Refusal :=
  onDev s fun d => d.serveAs caller ⟨0x09, true, false, false, false, false⟩ 1 (some (3, slot)) sigOk anyRole (leBytes 1 slot) fun d =>
    if 3 < slot then d.ends .range
    else (d.updDst fun x => { x with slots := mupd FuseSlot.blank x.slots slot fun k => { k with revoked := true } }).ends .ok

/-- The greatest floor 2^n − 1, n at most 64, that still admits a version. -/
def floorFor (v : Nat) : Nat := ((List.range 65).filter fun n => decide (2 ^ n - 1 ≤ v)).foldl (fun _ n => 2 ^ n - 1) 0

/-- FLOOR: IMG_FLOOR covers the running IMG_VER, which it still admits (R556, R574). A floor is never lowered. -/
def execFloorCmd (caller : Caller) (s : State) : Host.Outcome State Fault Refusal :=
  onDev s fun d => d.serve caller (runCmd 0x24) installer [] fun d =>
    match d.img.img with
    | none => d.ends .state
    | some i => (d.updDst fun x => { x with imgFloor := max x.imgFloor (floorFor i.imgVer) }).ends .ok

/-- FW_STAGE: the transferred firmware is verified, and its copy becomes current; where the firmware so requests, FW_FLOOR
rises to its version, one step per version and at most 64 (R556, R558, R574). -/
def execFwStage (caller : Caller) (sigOk : Bool) (version : Nat) (raise : Bool) (s : State) : Host.Outcome State Fault Refusal :=
  onDev s fun d => d.serve caller ⟨0x50, false, false, true, false, true⟩ installer (leBytes 4 version) fun d =>
    match d.transferOf caller with
    | none => d.ends .state
    | some t =>
      if t.kind ≠ 2 then d.ends .state
      else if !sigOk ∨ version < d.dst.fwFloor then d.ends .integrity
      else
        let d := d.updDst fun x => { x with fw := mupd FwCopy.blank x.fw d.olderFw fun f => { f with valid := true, version := version }, fwFloor := if raise then max x.fwFloor (min 64 version) else x.fwFloor, transfers := x.transfers.filter fun y => y.line != t.line }
        d.ends .ok

/-! ### The audit log (R581, R582) -/

/-- Whether every record of a list chains to the one before it. -/
def chained : List Byte → List AuditRec → Bool
  | _, [] => true
  | prev, r :: t => r.chain == (sha384 prev).take 8 && chained r.bytes t

/-- LOG_READ: up to 16 records from an ASEQ; INTEGRITY where one does not chain to its predecessor (R574, R582). -/
def execLogRead (caller : Caller) (aseq : BitVec 64) (s : State) : Host.Outcome State Fault Refusal :=
  onDev s fun d => d.serve caller ⟨0x10, false, false, false, false, true⟩ (right 2) (leBytes 8 aseq.toNat) fun d =>
    let log := d.dst.flash ++ d.dst.ring
    let before := log.takeWhile fun r => decide (r.aseq < aseq.toNat)
    let rs := (log.drop before.length).take 16
    let good := match before.getLast?, rs with
      | some p, _ => chained p.bytes rs
      | none, r :: t => chained r.bytes t
      | none, [] => true
    ⟨d, some (if good then .ok else .integrity), rs.flatMap AuditRec.bytes⟩

/-- AUDIT_FLUSH: the ring's records reach the flash log of 32 MiB; a full log loses its oldest page of 64 (R582). -/
def execAuditFlush (s : State) : Host.Outcome State Fault Refusal :=
  onDev s fun d => d.updDst fun x =>
    let all := x.flash ++ x.ring
    { x with ring := [], flash := if all.length ≤ 524288 then all else all.drop ((all.length - 524288 + 63) / 64 * 64) }

/-! ### Reel commands (16 R524) -/

/-- RL_QUERY: the reel state and budgets: over Almanac each LCN's spindle, which no other transport shows (01 R29), and the totals
and numbers used of the 13 kinds. -/
def execRlQuery (caller : Caller) (s : State) : Host.Outcome State Fault Refusal :=
  onDev s fun d => d.serve caller ⟨0x30, false, false, false, false, true⟩ anyRole [] fun d =>
    let map := (List.range 384).flatMap fun l => leBytes 2 (d.spindle l)
    let budgets := (List.range 13).flatMap fun k => leBytes 4 (d.reg (Reg.RL_BUDGET_TOTAL k)).toNat ++ leBytes 4 (d.reg (Reg.RL_BUDGET_USED k)).toNat
    ⟨d, some .ok, (if callerLine caller = 0 then map else []) ++ budgets⟩

/-- A STATE result of the reel controller. -/
def Dev.rlState (d : Dev) : Done := (d.count Reg.RL_STATE_REJECT).ends .state

/-- RL_REEL and RL_RETIRE: the checks of R524, and the reel; the answer comes when it has ended. -/
def Dev.rlReel (d : Dev) (caller : Caller) (code l : Nat) (retire : Bool) : Dev :=
  d.serve caller ⟨code, false, false, false, false, true⟩ (right 3) (leBytes 2 l) fun d =>
    let x := d.domOf l
    if d.safe then d.ends .halted
    else if d.img.img.isNone then d.rlState
    else if (d.skeinOf l).isNone then d.ends .range
    else if mget false d.lost l || !(d.core l).released || x.st != .run || x.transit then d.rlState
    else if mget false d.reeling l then d.ends .busy
    else if (d.chooseSpare l).isNone then d.ends .full
    else
      let d := d.reelDue l 4 retire
      ⟨d.updRel fun r => { r with asked := r.asked ++ [(l, caller, code)] }, none, []⟩

/-- RL_REEL (16 R524). -/
def execRlReel (caller : Caller) (l : Fin 384) (s : State) : Host.Outcome State Fault Refusal :=
  onDev s fun d => d.rlReel caller 0x31 l.val false

/-- RL_RETIRE (16 R524). -/
def execRlRetire (caller : Caller) (l : Fin 384) (s : State) : Host.Outcome State Fault Refusal :=
  onDev s fun d => d.rlReel caller 0x32 l.val true

/-- RL_SAFE: SAFE with cause COMMAND (16 R519, R524). -/
def execRlSafe (caller : Caller) (s : State) : Host.Outcome State Fault Refusal :=
  onDev s fun d => d.serve caller ⟨0x33, false, false, false, false, true⟩ installer [] fun d =>
    if d.safe then d.ends .halted
    else if d.img.img.isNone then d.rlState
    else (d.enterSafe .command).ends .ok

/-! ### Debug (R574, 08 R274) -/

/-- Whether an LCN is in the image and out of reset; STATE else. -/
def Dev.dbgThere (d : Dev) (l : Nat) : Bool := (d.core l).released && !mget false d.lost l

/-- A debug command on an LCN: the installer, the debug enable of the LCN's world, and an LCN in service. -/
def Dev.dbg (d : Dev) (caller : Caller) (code l : Nat) (safe sample : Bool) (arg : List Byte) (act : Dev → Done) : Dev :=
  let lvl := (d.core l).level
  let enable := if sample then d.nonInvasive l lvl else d.invasive l lvl.secure
  d.serve caller ⟨code, false, false, false, false, safe⟩ (fun s => installer s && enable) (leBytes 2 l ++ arg) fun d =>
    if d.dbgThere l then act d else d.ends .state

/-- DBG_HALT: the LCN stops at a retirement boundary, as a reel stop does. -/
def execDbgHalt (caller : Caller) (l : Fin 384) (s : State) : Host.Outcome State Fault Refusal :=
  onDev s fun d => d.dbg caller 0x60 l.val false false [] fun d =>
    let d := match (d.core l.val).wait with
      | .queue _ => d.unwait l.val
      | .remote => d.unwait l.val
      | _ => d
    (d.updCore l.val fun c => { c with halted := true, stepArmed := false }).ends .ok

/-- DBG_STEP: exactly one instruction of the halted LCN retires; it is the next one that comes. -/
def execDbgStep (caller : Caller) (l : Fin 384) (s : State) : Host.Outcome State Fault Refusal :=
  onDev s fun d => d.dbg caller 0x61 l.val false false [] fun d =>
    if (d.core l.val).halted then (d.updCore l.val fun c => { c with stepArmed := true }).ends .ok
    else d.ends .state

/-- DBG_RESUME. -/
def execDbgResume (caller : Caller) (l : Fin 384) (s : State) : Host.Outcome State Fault Refusal :=
  onDev s fun d => d.dbg caller 0x62 l.val false false [] fun d =>
    if (d.core l.val).halted then (d.updCore l.val fun c => { c with halted := false, stepArmed := false }).ends .ok
    else d.ends .state

/-- A register by the model's numbers: 0 to 31 general, 32 the pc, 64 to 95 vector, 96 to 103 mask, 0x1000 + n the
system register n (the spec numbers none; log entry 40). -/
def Dev.dbgRead (d : Dev) (l n : Nat) : Option (List Byte) :=
  let c := d.core l
  if n < 32 then some (leBytes 8 (if n = 0 then 0 else (mget 0#64 c.g n).toNat))
  else if n = 32 then some (leBytes 8 c.pc.toNat)
  else if 64 ≤ n ∧ n < 96 then some (leBytes 32 (mget 0 c.v (n - 64)).toNat)
  else if 96 ≤ n ∧ n < 104 then some (leBytes 16 (mget 0 c.m (n - 96)).toNat)
  else if 0x1000 ≤ n ∧ n < 0x2000 then some (leBytes 8 (d.srRead l (n - 0x1000)).toNat)
  else none

/-- A register written; bits [1:0] of the pc are zero (07 R220). -/
def Core.dbgPut (c : Core) (n : Nat) (v : List Byte) : Option Core :=
  let x := ofLe v
  if n = 0 then some c
  else if n < 32 then some { c with g := mset 0#64 c.g n (BitVec.ofNat 64 x) }
  else if n = 32 then some { c with pc := BitVec.ofNat 64 (x / 4 * 4) }
  else if 64 ≤ n ∧ n < 96 then some { c with v := mset 0 c.v (n - 64) (BitVec.ofNat _ x) }
  else if 96 ≤ n ∧ n < 104 then some { c with m := mset 0 c.m (n - 96) (BitVec.ofNat _ x) }
  else if 0x1000 ≤ n ∧ n < 0x2000 then some (c.srWrite (n - 0x1000) (BitVec.ofNat 64 x))
  else none

/-- DBG_REG: in SAFE a read alone. -/
def execDbgReg (caller : Caller) (l : Fin 384) (write : Bool) (reg : Nat) (v : List (BitVec 8)) (s : State) : Host.Outcome State Fault Refusal :=
  onDev s fun d => d.dbg caller 0x63 l.val true false (leBytes 2 reg ++ v.take 28) fun d =>
    if write then
      if d.safe then d.ends .halted
      else match (d.core l.val).dbgPut reg v with
        | some c => (d.setCore l.val c).ends .ok
        | none => d.ends .range
    else match d.dbgRead l.val reg with
      | some bs => ⟨d, some .ok, bs⟩
      | none => d.ends .range

/-- DBG_SAMPLE: the pc and counters of an LCN. -/
def execDbgSample (caller : Caller) (l : Fin 384) (s : State) : Host.Outcome State Fault Refusal :=
  onDev s fun d => d.dbg caller 0x65 l.val false true [] fun d =>
    let c := d.core l.val
    let cnt := (List.range 6).flatMap fun i => leBytes 8 (mget 0#64 c.pmu.cnt i).toNat
    ⟨d, some .ok, leBytes 8 c.pc.toNat ++ leBytes 8 c.pmu.fix0.toNat ++ leBytes 8 c.pmu.fix1.toNat ++ cnt⟩

/-! ### Transports (R576 to R580) -/

/-- Whether a baud rate divides 48 MHz with a remainder below 2 % of it (R576). -/
def baudOk (r : Nat) : Bool := decide (9600 ≤ r) && decide (r ≤ 3000000) && decide (48000000 % r < 960000)

/-- BAUD, on Almanac alone; the rate applies after the response (R574, R576). -/
def execBaudSet (caller : Caller) (rate : Nat) (s : State) : Host.Outcome State Fault Refusal :=
  onDev s fun d => d.serve caller (openCmd 0x70) anyRole (leBytes 4 rate) fun d =>
    if callerLine caller ≠ 0 then d.ends .unsupported
    else if !baudOk rate then d.ends .range
    else (d.updDst fun x => { x with baud := rate }).ends .ok

/-- ALMANAC_BREAK: a break of 10 ms: the default rate, and Almanac's session ends (R571, R576). -/
def execAlmanacBreak (s : State) : Host.Outcome State Fault Refusal :=
  onDev s fun d => (d.updDst fun x => { x with baud := 115200 }).endSession fun s => s.line == 0

/-- BAUD_REVERT: 10 s without a byte at another rate than the default (R576). -/
def execBaudRevert (s : State) : Host.Outcome State Fault Refusal :=
  onDev s fun d => d.updDst fun x => { x with baud := 115200 }

/-- ENTDAA: the I3C target takes its dynamic address (R578). -/
def execEntdaa (addr : BitVec 7) (s : State) : Host.Outcome State Fault Refusal :=
  onDev s fun d => if d.distaffUp then d.updDst fun x => { x with i3c := some addr.toNat } else d

/-- A write of DOORBELL by a core of the skein at K or SK moves the mailbox to BUSY (R580, R584). -/
def Dev.mbxDoorbell (d : Dev) (q : Requester) (sk : Nat) (v : Reg32) : Dev :=
  let may := match q with
    | .distaff => true
    | .core l => (d.core l.val).level.priv && d.skeinOf l.val == some sk
    | _ => false
  let n := field v 8 0
  if !may then d
  else if d.regF (Reg.DST_MBX_CTL sk) 17 16 = 1 then d.count Reg.DST_STATE_REJECT
  else if n < 8 ∨ 256 < n then d.setRegF (Reg.DST_MBX_CTL sk) 31 24 Status.range.code
  else d.setRegF (Reg.DST_MBX_CTL sk) 17 16 1

/-- DST_MBX_DOORBELL (R580). -/
def execDstMbxDoorbell (q : Requester) (sk : Fin 16) (v : BitVec 32) (s : State) : Host.Outcome State Fault Refusal :=
  onDev s fun d => d.mbxDoorbell q sk.val v

/-! ### Shedding (R583) -/

/-- The shed level changes, and the change is audited; notices that waited go out once they are shed no more. -/
def Dev.setShed (d : Dev) (n : Nat) : Dev :=
  if n = d.shed then d
  else
    let d := (d.setRegF Reg.DST_STATUS 10 8 n).audit 2 5 0xFF 0 0xFF 0 0 (leBytes 1 d.shed ++ leBytes 1 n)
    if n < 3 then
      let ns := d.dst.notices
      ns.foldl (fun d (x : Nat × Nat × Nat) => d.budgetLow x.1 x.2.1 x.2.2) (d.updDst fun x => { x with notices := [] })
    else d

/-- SHED_MEASURE: every 100 ms the share of kept work in percent; up one level above 70 %, down one after 1 s below 50 %
(R583). -/
def execShedMeasure (used : Nat) (s : State) : Host.Outcome State Fault Refusal :=
  onDev s fun d =>
    let d := { d with now := d.now + 100000000 }
    if 70 < used then (d.updDst fun x => { x with calmSince := none }).setShed (min 4 (d.shed + 1))
    else if 50 ≤ used then d.updDst fun x => { x with calmSince := none }
    else match d.dst.calmSince with
      | none => d.updDst fun x => { x with calmSince := some d.now }
      | some t =>
        if t + 1000000000 ≤ d.now then (d.updDst fun x => { x with calmSince := some d.now }).setShed (d.shed - 1) else d

end Sys2Proof.Machine
end

