-- ==== Sys2Proof/Machine/Image.lean ====
section
/-! DEFINITION. The Nguarn image (chapter 02): its sections and what they say (R40 to R55), stage 1 to 3 of the checker
(R56, R57, R59), and the form of a delta (R62). -/
namespace Sys2Proof.Machine

/-! ### Layout (R40, R41) -/

/-- Offset and length of the section of a type, from the directory. -/
def imgSection (r : List Byte) (t : Nat) : Nat × Nat :=
  match (List.range 8).find? fun i => leAt r (0x40 + 8 * i) 1 == t with
  | some i => (leAt r (0x44 + 8 * i) 4, leAt r (0x42 + 8 * i) 2 * 8)
  | none => (0, 0)

/-- The bytes of a section. -/
def imgBody (r : List Byte) (t : Nat) : List Byte := let s := imgSection r t; bytesAt r s.1 s.2

/-- Length of the body: the start of the signature block. -/
def imgBodyLen (r : List Byte) : Nat := leAt r 0x10 4

/-- Whether `n` bytes from an offset are zero. -/
def zeroAt (bs : List Byte) (o n : Nat) : Bool := (bytesAt bs o n).all (· == 0#8)

/-- The signature block (R55). -/
def imgSig (r : List Byte) : List Byte := r.drop (imgBodyLen r)

/-- Whether the maker countersignature is present. -/
def imgCsig (r : List Byte) : Bool := (leAt r 0x16 2).testBit 0

/-! ### What the sections say (R43 to R54) -/

/-- A SITE entry (R43). -/
def siteOf (b : List Byte) (i : Nat) : SiteEntry :=
  let o := 16 * i
  ⟨leAt b o 1, leAt b (o + 1) 1, leAt b (o + 2) 1, leAt b (o + 4) 2, leAt b (o + 6) 2, leAt b (o + 8) 8⟩

/-- A tuning block (R48). -/
def tuneOf (b : List Byte) (o : Nat) : Tune :=
  ⟨leAt b o 2, leAt b (o + 2) 2, leAt b (o + 4) 2, leAt b (o + 8) 2, leAt b (o + 0xA) 1, leAt b (o + 0xC) 4, leAt b (o + 0x10) 4,
    leAt b (o + 0x14) 2⟩

/-- A skein entry at an offset of the SKEIN section (R47). -/
def skeinEntryOf (b : List Byte) (o : Nat) : SkeinCfg :=
  { skein := leAt b o 1, secure := (leAt b (o + 1) 1).testBit 0, ndog := (leAt b (o + 1) 1).testBit 1, ranges := leAt b (o + 2) 1,
    lcnMask := leAt b (o + 8) 48,
    mem := (List.range 8).map fun k => (leAt b (o + 0x38 + 4 * k) 2, leAt b (o + 0x3A + 4 * k) 2),
    l3Ways := (List.range 16).map fun k => leAt b (o + 0x58 + 2 * k) 2,
    hcWays := leAt b (o + 0x78) 2, hcQways := leAt b (o + 0x7A) 2, ddrOwn := leAt b (o + 0x7C) 2, ddrPool := leAt b (o + 0x7E) 2,
    qFirst := leAt b (o + 0x80) 4, qCount := leAt b (o + 0x84) 4, qmemBase := leAt b (o + 0x88) 8, qmemLen := leAt b (o + 0x90) 8,
    msix := leAt b (o + 0x98) 4, bundles := leAt b (o + 0x9C) 1, hankPorts := leAt b (o + 0x9D) 1,
    vfCount := (List.range 8).map fun k => leAt b (o + 0xA0 + 2 * k) 2,
    tune := tuneOf b (o + 0xC0) }

/-- How many skein entries the section holds. -/
def skeinEntries (r : List Byte) : Nat := ((imgSection r 3).2 - 776) / 256

/-- Entries of PIN: an all-zero last one is padding (R49). -/
def pinEntries (b : List Byte) : List PinEntry :=
  let n := b.length / 4
  let n := if 0 < n ∧ zeroAt b (4 * (n - 1)) 4 then n - 1 else n
  (List.range n).map fun i => ⟨leAt b (4 * i) 2, leAt b (4 * i + 2) 1, leAt b (4 * i + 3) 1⟩

/-- The bytes of MAC_BASE as one number, the first octet most significant (R54). -/
def macOf (bs : List Byte) : Nat := bs.foldl (fun a b => a * 256 + b.toNat) 0

/-- What an image says. -/
def decodeImage (r : List Byte) : Image :=
  let site := imgBody r 1
  let spare := imgBody r 2
  let sk := imgBody r 3
  let power := imgBody r 5
  let sec := imgBody r 6
  let role := imgBody r 7
  let hank := imgBody r 8
  { partId := leAt r 8 4, fmtVer := leAt r 4 2, imgVer := leAt r 0xC 4, flags := leAt r 0x16 2, minFw := leAt r 0x28 4,
    sites := (List.range 20).map (siteOf site),
    spareFlags := leAt spare 0 1, spareNotify := leAt spare 1 1, sparePriority := (List.range 16).map fun i => leAt spare (4 + i) 1,
    coreMap := (List.range 384).map fun i => leAt sk (2 * i) 2,
    bundleMode := (List.range 8).map fun i => leAt sk (0x300 + i) 1,
    skeins := (List.range (skeinEntries r)).map fun i => skeinEntryOf sk (776 + 256 * i),
    pins := pinEntries (imgBody r 4),
    power := (List.range (power.length / 8)).map fun i => ⟨leAt power (8 * i) 1, leAt power (8 * i + 1) 1, leAt power (8 * i + 2) 2⟩,
    secMark := leAt sec 0 2, swdogMs := leAt sec 4 4, dbgBytes := (List.range 16).map fun i => leAt sec (8 + i) 1,
    secBlk := (List.range (leAt sec 0x18 1)).map fun i => (leAt sec (0x20 + 4 * i) 1, leAt sec (0x22 + 4 * i) 2),
    roles := (List.range (role.length / 48)).map fun i => ⟨leAt role (48 * i) 1, leAt role (48 * i + 1) 1, leAt role (48 * i + 2) 2⟩,
    sysnum := leAt hank 0 2, ethertype := leAt hank 2 2, macBase := macOf (bytesAt hank 4 6),
    hankPorts := (List.range 8).map fun i => ⟨leAt hank (0x10 + 4 * i) 1, leAt hank (0x11 + 4 * i) 1⟩ }

/-! ### Stage 1 (R59, R42) -/

/-- The sites of the SITE section, in order (R43). -/
def siteNumbers : List Nat := List.range 18 ++ [0x18, 0x19]

/-- The byte of a section, or of a skein entry, that must be zero, as a mask of its bits (R42). `o` counts from the
section, for SKEIN from the entry; `r` is the section as it stands. -/
def reservedMask (t o : Nat) (r : List Byte) : Nat :=
  match t with
  | 1 =>
    let s := siteNumbers.getD (o / 16) 0
    match o % 16 with
    | 1 => if s < 16 then 0xF8 else 0xFF
    | 2 => if s < 0x18 then 0xFF else 0xFE
    | 3 => 0xFF
    | 4 | 5 | 6 | 7 => if s < 0x18 then 0 else 0xFF
    | _ => 0
  | 2 => if o = 0 then 0xFC else if o = 2 ∨ o = 3 ∨ 0x14 ≤ o then 0xFF else 0
  | 3 =>
    if o = 1 then 0xFC
    else if (3 ≤ o ∧ o < 8) ∨ o = 0x9E ∨ o = 0x9F ∨ (0xB0 ≤ o ∧ o < 0xC0) ∨ o = 0xC6 ∨ o = 0xC7 ∨ o = 0xCB ∨ 0xD6 ≤ o then 0xFF
    else if 0x58 ≤ o ∧ o < 0x78 ∧ o % 2 = 1 then 0xF0
    else if 0x38 ≤ o ∧ o < 0x58 ∧ leAt r 2 1 ≤ (o - 0x38) / 4 then 0xFF
    else 0
  | 5 => if o % 8 = 1 then 0xE0 else if 4 ≤ o % 8 then 0xFF else 0
  | 6 =>
    if o = 2 ∨ o = 3 ∨ (0x19 ≤ o ∧ o < 0x20) then 0xFF
    else if 8 ≤ o ∧ o < 0x18 then 0xF0
    else if 0x20 ≤ o ∧ ((o - 0x20) % 4 = 1 ∨ leAt r 0x18 1 ≤ (o - 0x20) / 4) then 0xFF
    else 0
  | 7 => if o % 48 = 2 then 0xF0 else if 3 ≤ o % 48 ∧ o % 48 < 8 then 0xFF else 0
  | 8 => if (0xA ≤ o ∧ o < 0x10) ∨ (0x10 ≤ o ∧ 2 ≤ o % 4) then 0xFF else 0
  | _ => 0

/-- Whether a section or skein entry keeps its reserved bits zero. -/
def reservedOk (t : Nat) (b : List Byte) : Bool :=
  (List.range b.length).all fun o => (b.getD o 0#8).toNat &&& reservedMask t o b == 0

/-- Whether the directory is sound: each type once, revision 1, in bounds, aligned, apart, padding zero (R41). -/
def directoryOk (r : List Byte) : Bool :=
  let secs := (List.range 8).map fun i => imgSection r (i + 1)
  (List.range 8).all (fun t => ((List.range 8).filter fun i => leAt r (0x40 + 8 * i) 1 == t + 1).length == 1) &&
  (List.range 8).all (fun i => leAt r (0x41 + 8 * i) 1 == 1) &&
  secs.all (fun s => decide (0x80 ≤ s.1) && decide (s.1 + s.2 ≤ imgBodyLen r) && s.1 % 8 == 0) &&
  (List.range 8).all (fun i => (List.range 8).all fun j =>
    let a := secs.getD i (0, 0)
    let b := secs.getD j (0, 0)
    i == j || decide (a.1 + a.2 ≤ b.1) || decide (b.1 + b.2 ≤ a.1)) &&
  (List.range (imgBodyLen r - 0x80)).all fun o =>
    secs.any (fun s => decide (s.1 ≤ o + 0x80) && decide (o + 0x80 < s.1 + s.2)) || r.getD (o + 0x80) 0#8 == 0#8

/-- Whether every section has a length its chapter allows. -/
def lengthsOk (r : List Byte) : Bool :=
  let n (t : Nat) := (imgSection r t).2
  n 1 == 320 && n 2 == 24 && decide (776 + 256 ≤ n 3) && decide (n 3 ≤ 776 + 16 * 256) && (n 3 - 776) % 256 == 0 &&
  n 6 == 160 && n 7 % 48 == 0 && n 8 == 48

/-- Whether the header and the signature block have their form (R40, R55). -/
def headerOk (r : List Byte) : Bool :=
  let s := imgSig r
  leAt r 0 4 == 0x4E52474E && leAt r 5 1 == 1 && leAt r 6 2 == 0x80 && decide (0x80 ≤ imgBodyLen r) && leAt r 0x14 2 == 8 &&
  decide (leAt r 0x16 2 < 2) && zeroAt r 0x2C 20 &&
  s.length == (if imgCsig r then 0x198 else 0xD0) && leAt s 0 4 == 0x4749534E && decide (leAt s 4 1 < 4) && zeroAt s 5 3 && zeroAt s 0x69 7 &&
  (!imgCsig r || zeroAt s 0x131 7)

/-- Whether skein numbers lie in 0 to 15 and differ (R47). -/
def skeinNumbersOk (i : Image) : Bool :=
  i.skeins.all (fun c => decide (c.skein < 16)) && ((i.skeins.map (·.skein)).eraseDups.length == i.skeins.length)

/-- Stage 1: format, reserved bits and signatures (R59). `slotOk` tells whether the key named by the block is that of a
slot written and not revoked, `makerOk` whether a hash is that of the maker's fuse. -/
def stage1 (slotOk : Nat → List Byte → Bool) (makerOk : List Byte → Bool) (v : ImgVerdict) (r : List Byte) : Bool :=
  let i := decodeImage r
  let s := imgSig r
  headerOk r && directoryOk r && lengthsOk r &&
  [1, 2, 5, 6, 7, 8].all (fun t => reservedOk t (imgBody r t)) &&
  (List.range (skeinEntries r)).all (fun k => reservedOk 3 (bytesAt (imgBody r 3) (776 + 256 * k) 256)) &&
  (i.sites.map (·.site)) == siteNumbers && skeinNumbersOk i &&
  v.sig && slotOk (leAt s 4 1) (sha384 (bytesAt s 8 97)) && v.keys &&
  (!(i.dbgBytes.any fun b => b.testBit 2 || b.testBit 3) || (imgCsig r && v.maker && makerOk (sha384 (bytesAt s 0xD0 97))))

/-! ### Stage 2 (R59, R622, R25, R22) -/

/-- Stage 2: whether the package is the one the image was built for. -/
def stage2 (fw floor : Nat) (serial : Nat → Nat) (i : Image) : Bool :=
  i.partId == 0x00384A40 && i.fmtVer % 256 == 0 && decide (i.minFw ≤ fw) && decide (floor ≤ i.imgVer) &&
  i.sites.all fun e =>
    let kind := if e.site < 16 then 1 else if e.site = 0x10 then 2 else if e.site = 0x11 then 3 else 0
    e.dieType == kind && (kind == 0 || decide (e.minStep ≤ 0x0100)) && (kind == 0 || e.serial == 0 || e.serial == serial e.site) &&
    (!decide (e.site < 16) || e.orient == Config.strap e.site) && e.flags % 2 == 0

/-! ### Stage 3 (R56, R57) -/

/-- The skein that owns a PF: the first listed on the bundle, where the bundle is an endpoint (14 R440). -/
def Image.pfOwner (i : Image) (b : Nat) : Option Nat :=
  if i.bundleMode.getD b 0 = 2 then (List.range 16).find? fun s => i.skeins.any fun c => c.skein == s && c.bundles.testBit b else none

/-- Ranges of one skein entry; an entry without queue memory claims none. An SVC_CLASS above 3 fails with RANGE, for which the
spec states no status (DESIGN CHOICE, log entry 68). `back` is the first GiB of the backing store, `usable` what a channel leaves below it. -/
def skeinRangeOk (i : Image) (back usable : Nat) (c : SkeinCfg) : Bool :=
  let used := c.mem.take c.ranges
  let pfs := ((List.range 8).filter fun b => i.pfOwner b == some c.skein).length
  decide (1 ≤ c.ranges) && decide (c.ranges ≤ 8) && used.all (fun m => decide (1 ≤ m.2) && decide (m.1 + m.2 ≤ back)) &&
  (c.ddrOwn == 0 || decide ((used.map (·.2)).sum ≤ (setBitsOf 16 c.ddrOwn).length * usable)) &&
  (c.ddrOwn ||| c.ddrPool) != 0 &&
  decide (c.qFirst + c.qCount ≤ 1048576) && c.qmemBase % 0x100000 == 0 && c.qmemLen % 0x100000 == 0 &&
  (c.qmemLen == 0 || (used.any (fun m => decide (m.1 * 0x40000000 ≤ c.qmemBase) && decide (c.qmemBase + c.qmemLen ≤ (m.1 + m.2) * 0x40000000)) &&
    decide (i.secMark * 0x40000000 ≤ c.qmemBase))) &&
  (c.qCount == 0 || decide ((64 * c.qCount + 0xFFFFF) / 0x100000 * 0x100000 + 0x300000 ≤ c.qmemLen)) &&
  (c.hcQways &&& c.hcWays) == c.hcQways && decide (c.tune.svcClass ≤ 3) && decide (c.tune.vfQueues ≤ c.qCount) &&
  decide (c.tune.vfMsix ≤ c.msix) && decide (c.tune.vfDma ≤ 256) &&
  (setBitsOf 384 c.lcnMask).all (fun l =>
    let p := i.coreMap.getD l 0xFFFF
    decide (p ≤ 447) && c.l3Ways.getD (p / 28) 0 != 0) &&
  (List.range 8).all (fun b =>
    (!c.bundles.testBit b || i.bundleMode.getD b 0 != 0) &&
    (c.vfCount.getD b 0 == 0 || (c.bundles.testBit b && i.bundleMode.getD b 0 == 2))) &&
  decide (8 * pfs ≤ c.tune.vfDma) && decide (64 * pfs ≤ c.tune.vfMsix) &&
  (setBitsOf 8 c.hankPorts).all (fun p => let r := (i.hankPorts.getD p ⟨0, 0xFF⟩).role; r == 1 || r == 2)
where
  setBitsOf (n mask : Nat) : List Nat := (List.range n).filter fun k => mask.testBit k

/-- The regions of a skein: its ranges in use with adjacent ones merged, in ascending order (13 R404). -/
def mergeRanges : List (Nat × Nat) → List (Nat × Nat)
  | [] => []
  | (b, n) :: t =>
    match mergeRanges t with
    | (b', n') :: t' => if b + n = b' then (b, n + n') :: t' else (b, n) :: (b', n') :: t'
    | [] => [(b, n)]

/-- Insertion by base. -/
def insRange (x : Nat × Nat) : List (Nat × Nat) → List (Nat × Nat)
  | [] => [x]
  | y :: t => if x.1 ≤ y.1 then x :: y :: t else y :: insRange x t

/-- The merged ranges of a skein. -/
def SkeinCfg.regions (c : SkeinCfg) : List (Nat × Nat) := mergeRanges ((c.mem.take c.ranges).foldr insRange [])

/-- Sums over all skeins (R56). -/
def sumsOk (i : Image) : Bool :=
  let sum (f : SkeinCfg → Nat) : Nat := (i.skeins.map f).sum
  i.coreMap.all (fun p => p == 0xFFFF || decide (p ≤ 447)) && i.bundleMode.all (fun m => decide (m ≤ 2)) &&
  decide ((i.bundleMode.filter (· == 2)).length ≤ 4) && (List.range 8).all (fun b => decide (sum (fun c => c.vfCount.getD b 0) ≤ 1024)) &&
  decide (sum (·.msix) ≤ 65536) && decide (sum (·.tune.vc0) ≤ 1024) && decide (sum (·.tune.vc1) ≤ 1024) &&
  decide (sum (·.tune.vc2) ≤ 1024) && decide (sum (·.tune.bqShare) ≤ 1024) && decide (sum (·.regions.length) ≤ 64)

/-- Ranges of SPARE, POWER, SECURITY and ROLE (R44, R50, R51, R53). A NOTIFY above 4 and a PRIORITY outside R44 fail with RANGE,
for which the spec states no status (DESIGN CHOICE, log entry 68). -/
def sectionsOk (i : Image) (secN : Nat) : Bool :=
  let has (s : Nat) : Bool := i.skeins.any fun c => c.skein == s
  let installers := (i.roles.filter fun r => r.role == 1).length
  decide (i.spareNotify ≤ 4) &&
  (List.range 16).all (fun s => let p := i.sparePriority.getD s 0xFF; if has s then decide (p ≤ 15) else p == 0xFF) &&
  i.power.all (fun e => decide (e.domain ≤ 0x11) || e.domain == 0xFF || (decide (0x20 ≤ e.domain) && decide (e.domain ≤ 0x2F) && has (e.domain - 0x20))) &&
  i.power.any (fun e => e.domain == 0xFF) &&
  i.power.all (fun e => e.domain != 0xFF || (e.allowed.testBit 0 && decide (1 ≤ e.limit) && decide (e.limit ≤ 3840))) &&
  decide (100 ≤ i.swdogMs) && decide (i.swdogMs ≤ 60000) && decide (secN ≤ 32) && i.secBlk.all (fun e => blockAssigned e.1 e.2) &&
  decide (1 ≤ i.roles.length) && decide (i.roles.length ≤ 16) && decide (1 ≤ installers) && decide (installers ≤ 2) &&
  i.roles.all fun r => (r.role == 1 || r.role == 2) && decide (r.index ≤ 15) && (r.role == 2 || r.rights == 0xF)

/-- The skein whose mask holds a Hank port. -/
def Image.portSkein (i : Image) (p : Nat) : Option Nat := (i.skeins.find? fun c => c.hankPorts.testBit p).map (·.skein)

/-- Ranges of HANK (R54, R56, 15 R478). -/
def hankOk (i : Image) : Bool :=
  decide (i.sysnum ≤ 2047) && decide (0x0600 ≤ i.ethertype) &&
  (List.range 8).all fun n =>
    let e := i.hankPorts.getD n ⟨0, 0xFF⟩
    !((i.macBase + n) % 2 ^ 48).testBit 40 && decide (e.role ≤ 3) &&
    (e.alt == 0xFF || (decide (e.alt ≤ 7) && e.alt != n && ((i.hankPorts.getD e.alt ⟨0, 0xFF⟩).role == 3 || (i.portSkein e.alt).isSome)))

/-- Ranges of PIN (R49, 20 R604). -/
def pinsOk (i : Image) : Bool :=
  let trace (p : Nat) : Bool := i.pins.any fun e => e.pin == p && e.function == 3
  i.pins.all (fun e =>
    match e.function with
    | 0 => decide (e.pin ≤ 0x11) && e.owner == 0xF0
    | 1 | 2 => decide (e.pin ≤ 0xF) && i.skeins.any fun c => c.skein == e.owner
    | 3 => (e.pin == 0x10 || e.pin == 0x11) && e.owner == 0xF0
    | _ => false) && trace 0x10 == trace 0x11

/-- Whether no two of a list are equal. -/
def apart (l : List Nat) : Bool := l.eraseDups.length == l.length

/-- The claims of R56, each made once. -/
def claimsOk (i : Image) (back : Nat) : Bool :=
  let n := i.skeins.length
  let sk (k : Nat) : SkeinCfg := i.skeins.getD k (skeinEntryOf [] 0)
  let pairs := (List.range n).flatMap fun a => (List.range a).map fun b => (sk a, sk b)
  let ranges := (i.skeins.flatMap fun c => c.mem.take c.ranges) ++ [(back, 0)]
  let m := ranges.length
  pairs.all (fun (a, b) =>
    a.lcnMask &&& b.lcnMask == 0 && (List.range 16).all (fun d => a.l3Ways.getD d 0 &&& b.l3Ways.getD d 0 == 0) &&
    a.hcWays &&& b.hcWays == 0 && a.ddrOwn &&& (b.ddrOwn ||| b.ddrPool) == 0 && a.ddrPool &&& b.ddrOwn == 0 &&
    a.hankPorts &&& b.hankPorts == 0 &&
    (a.qCount == 0 || b.qCount == 0 || decide (a.qFirst + a.qCount ≤ b.qFirst) || decide (b.qFirst + b.qCount ≤ a.qFirst)) &&
    (List.range 8).all (fun x => i.bundleMode.getD x 0 != 1 || !(a.bundles.testBit x && b.bundles.testBit x))) &&
  i.skeins.all (fun c => c.ddrOwn &&& c.ddrPool == 0) &&
  apart (i.coreMap.filter (· != 0xFFFF)) &&
  (List.range m).all (fun x => (List.range x).all fun y =>
    let a := ranges.getD x (0, 0)
    let b := ranges.getD y (0, 0)
    decide (a.1 + a.2 ≤ b.1) || decide (b.1 + b.2 ≤ a.1)) &&
  apart (i.pins.map (·.pin)) && apart ((i.pins.filter (·.function == 1)).map fun e => e.pin % 4) &&
  apart ((i.pins.filter (·.function == 2)).map fun e => e.pin % 2) &&
  apart (i.secBlk.map fun e => e.1 * 65536 + e.2) && apart (i.power.map (·.domain)) && apart (i.roles.map (·.index)) &&
  (List.range 8).all fun p =>
    let alt := (i.hankPorts.getD p ⟨0, 0xFF⟩).alt
    match i.portSkein p, i.portSkein alt with
    | some a, some b => a == b
    | _, _ => true

/-- Stage 3: RANGE, then CONFLICT (R59). `gib` is the capacity of a channel. -/
def stage3 (gib secN : Nat) (i : Image) : Status :=
  let part := (3 * gib + 63) / 64
  let back := 16 * gib - 16 * part
  if !(sumsOk i && i.skeins.all (skeinRangeOk i back (gib - part)) && sectionsOk i secN && hankOk i && pinsOk i) then .range
  else if !claimsOk i back then .conflict
  else .ok

/-! ### Deltas (R62) -/

/-- An operation of a delta. -/
structure DeltaOp where
  sec : Nat
  index : Nat
  off : Nat
  data : List Byte
  deriving DecidableEq, Repr

/-- The operations that follow an offset, and where the authentication record begins. -/
def deltaOps (b : List Byte) : Nat → Nat → Option (List DeltaOp × Nat)
  | 0, o => some ([], o)
  | n + 1, o =>
    let len := leAt b (o + 4) 2
    let next := o + 8 + (len + 7) / 8 * 8
    if b.length < next ∨ !zeroAt b (o + 6) 2 ∨ !zeroAt b (o + 8 + len) (next - (o + 8 + len)) then none
    else match deltaOps b n next with
      | none => none
      | some (t, e) => some (⟨leAt b o 1, leAt b (o + 1) 1, leAt b (o + 2) 2, bytesAt b (o + 8) len⟩ :: t, e)

/-- Where an operation starts in an image, and how many bytes it may reach (R62). A section type that is none of R41's breaks the
form, so that the delta fails with INTEGRITY, for which the spec states no status (DESIGN CHOICE, log entry 68). -/
def DeltaOp.place (x : DeltaOp) (r : List Byte) : Option (Nat × Nat) :=
  let s := imgSection r x.sec
  if x.sec = 0 ∨ 8 < x.sec then none
  else if x.sec = 3 then
    match (List.range (skeinEntries r)).find? fun k => leAt r (s.1 + 776 + 256 * k) 1 == x.index with
    | some k => some (s.1 + 776 + 256 * k, 256)
    | none => none
  else if x.index = 0 then some s else none

/-- Whether an operation has the form of R62 and keeps reserved bits zero (R42). -/
def DeltaOp.ok (x : DeltaOp) (r : List Byte) : Bool :=
  match x.place r with
  | none => false
  | some (o, n) =>
    x.data != [] && decide (x.off + x.data.length ≤ n) &&
    (List.range x.data.length).all fun k => (x.data.getD k 0#8).toNat &&& reservedMask x.sec (x.off + k) (bytesAt r o n) == 0

/-- Whether an operation touches what is tunable (R41, R62). -/
def DeltaOp.tunable (x : DeltaOp) : Bool :=
  x.sec == 2 || x.sec == 5 || x.sec == 7 || (x.sec == 3 && decide (0xC0 ≤ x.off) && decide (x.off + x.data.length ≤ 0x100))

/-- An image with an operation applied. -/
def DeltaOp.apply (x : DeltaOp) (r : List Byte) : List Byte :=
  match x.place r with
  | none => r
  | some (o, _) => r.take (o + x.off) ++ x.data ++ r.drop (o + x.off + x.data.length)

/-- A delta that has its form: issuer, VOLATILE, BASE_VER, SEQ, operations and the index of its authentication record. -/
structure DeltaForm where
  issuer : Nat
  vol : Bool
  base : Nat
  seq : Nat
  ops : List DeltaOp
  index : Nat
  deriving DecidableEq, Repr

/-- The form of a delta (R62, R63); none where it breaks it. -/
def deltaForm (b r : List Byte) : Option DeltaForm :=
  let issuer := leAt b 0x10 1
  let n := leAt b 6 2
  if leAt b 0 4 ≠ 0x4C44474E ∨ leAt b 4 2 ≠ 0x0100 ∨ n = 0 ∨ 64 < n ∨ leAt b 0x12 2 ≠ b.length ∨ !zeroAt b 0x14 12 ∨
      (issuer ≠ 1 ∧ issuer ≠ 2) ∨ 1 < leAt b 0x11 1 then none
  else match deltaOps b n 32 with
    | none => none
    | some (ops, e) =>
      if b.length ≠ e + 8 + (if issuer = 1 then 96 else 32) ∨ !zeroAt b (e + 1) 7 ∨ !ops.all (fun x => x.ok r) then none
      else some ⟨issuer, (leAt b 0x11 1).testBit 0, leAt b 8 4, leAt b 0xC 4, ops, leAt b e 1⟩

end Sys2Proof.Machine
end

