-- ==== Sys2Proof/Machine/Mesh.lean ====
section
/-! DEFINITION. Die links: training, corrected and uncorrectable flits, lanes and modules (12 R391 to R394); guest ports (12
R396 to R398). -/
namespace Sys2Proof.Machine

/-! ### Die links -/

/-- The link group of an end: the hub's, or the die's own. -/
def linkReg (hub : Bool) (die : Nat) : Nat := if hub then Reg.D2D_HUB_LINK die else Reg.D2D_LINK die
def repairReg (hub : Bool) (die : Nat) : Nat := if hub then Reg.D2D_HUB_REPAIR die else Reg.D2D_REPAIR die
def corrReg (hub : Bool) (die : Nat) : Nat := if hub then Reg.D2D_HUB_CORRECTED die else Reg.D2D_CORRECTED die
def lastReg (hub : Bool) (die : Nat) : Nat := if hub then Reg.D2D_HUB_LAST_LANE die else Reg.D2D_LAST_LANE die

/-- Spare lanes of a module in use at a receiver. -/
def Dev.lanesUsed (d : Dev) (hub : Bool) (die m : Nat) : Nat := d.regF (repairReg hub die) (3 * m + 2) (3 * m)

/-- Both ends of a link show a value in a field of D2D_LINK. -/
def Dev.setLink (d : Dev) (die hi lo v : Nat) : Dev :=
  (d.setRegF (linkReg true die) hi lo v).setRegF (linkReg false die) hi lo v

/-- A module is retired: the other carries all four row streams, or the die has no path and is dead (12 R392). -/
def Dev.moduleRetire (d : Dev) (die m : Nat) : Dev :=
  let up := d.regF (linkReg true die) 17 16
  if !up.testBit m then d
  else
    let d := (d.setLink die (16 + m) (16 + m) 0).setLink die 1 0 2
    let d := { d with links := { d.links with laneDue := d.links.laneDue.filter (fun (x : Bool × Nat × Nat × Nat) => !(x.2.1 == die && x.2.2.1 == m)), modOut := mset false d.links.modOut (die * 2 + m) true } }
    let d := d.record ⟨0x0F, false, .fbAtNotice, die, none, die, m, 0, d.skeinsOfDie die⟩
    if up = 2 ^ m then (d.setLink die 1 0 3).dieDead die else d

/-- A lane is replaced by the next spare, or its module retired where none is left (12 R391, R392, 16 R503). -/
def Dev.laneRepair (d : Dev) (hub : Bool) (die m lane : Nat) : Dev :=
  let n := d.lanesUsed hub die m
  if 4 ≤ n then d.moduleRetire die m
  else
    let d := (d.setRegF (repairReg hub die) (3 * m + 2) (3 * m) (n + 1)).useBudget 7 1
    d.record ⟨0x0E, false, .none, die, none, die, m * 256 + lane, 0, d.skeinsOfDie die⟩

/-- The modules of a link that are not retired, which survives every reset (16 R501). -/
def Dev.modulesUp (d : Dev) (die : Nat) : Nat :=
  (List.range 2).foldl (fun n m => if mget false d.links.modOut (die * 2 + m) then n else n + 2 ^ m) 0

/-- DIE_LINK_TRAINING: every link trains; failing lanes are repaired, untrainable modules retired (12 R394). -/
def execDieLinkTraining (results : List LinkTrain) (s : State) : Host.Outcome State Fault Refusal :=
  onDev s fun d =>
    if d.boot.kind = 0 || d.boot.links || d.safe then d
    else
      let d := (List.range 16).foldl (fun d i => if d.deadAgents.getLsbD i then d.setLink i 1 0 3 else ((d.setLink i 17 16 (d.modulesUp i)).setLink i 15 8 0x20).setLink i 1 0 (if d.modulesUp i = 3 then 1 else 2)) d
      let d := results.foldl (fun d r =>
        if d.deadAgents.getLsbD r.die.val then d
        else
          let d := r.lanes.foldl (fun d (x : Bool × Fin 2 × Fin 70) => d.laneRepair x.1 r.die.val x.2.1.val x.2.2.val) d
          r.dead.foldl (fun d m => d.moduleRetire r.die.val m.val) d) d
      { d with boot := { d.boot with links := true } }

/-- FLIT_CORRECTED: the error of one lane is corrected, counted and recorded, and the lane is due for repair (12 R391). -/
def execFlitCorrected (die : Fin 16) (hub : Bool) (module : Fin 2) (lane : Fin 70) (s : State) : Host.Outcome State Fault Refusal :=
  onDev s fun d =>
    let i := die.val
    if !(d.regF (linkReg true i) 17 16).testBit module.val then d
    else
      let d := (d.count (corrReg hub i)).setReg (lastReg hub i) (BitVec.ofNat 32 (2 ^ 31 + module.val * 256 + lane.val))
      if 4 ≤ d.lanesUsed hub i module.val then d.moduleRetire i module.val
      else
        let x : Bool × Nat × Nat × Nat := (hub, i, module.val, lane.val)
        if d.links.laneDue.contains x then d
        else { d with links := { d.links with laneDue := d.links.laneDue ++ [x] } }

/-- LANE_REPAIR: both ends switch the lane that is due to a spare (12 R391). -/
def execLaneRepair (die : Fin 16) (hub : Bool) (module : Fin 2) (s : State) : Host.Outcome State Fault Refusal :=
  onDev s fun d =>
    match d.links.laneDue.find? fun (x : Bool × Nat × Nat × Nat) => x.1 == hub && x.2.1 == die.val && x.2.2.1 == module.val with
    | none => d
    | some x =>
      ({ d with links := { d.links with laneDue := d.links.laneDue.erase x } }).laneRepair hub die.val module.val x.2.2.2

/-- FLIT_UNCORRECTABLE: the flit is discarded, the die stop isolated, and the die declared dead (12 R393). -/
def execFlitUncorrectable (die : Fin 16) (s : State) : Host.Outcome State Fault Refusal := onDev s fun d => d.dieDead die.val

/-! ### Guest ports -/

/-- The state of a guest port: 0 DISABLED, 1 DISCOVER, 2 HELD, 3 TRAINING, 4 ACTIVE, 5 ERROR, 6 SAFE. -/
def Dev.gstState (d : Dev) (g : Nat) : Nat := d.regF (Reg.D2D_GST_STATUS g) 2 0

/-- A guest port's state and its last result. -/
def Dev.gstSet (d : Dev) (g st : Nat) (r : Option Status) : Dev :=
  let d := d.setRegF (Reg.D2D_GST_STATUS g) 2 0 st
  match r with
  | some x => d.setRegF (Reg.D2D_GST_STATUS g) 31 24 x.code
  | none => d

/-- The trained rate, modules and width; zero where the port is not trained. -/
def Dev.gstWidth (d : Dev) (g rate modules : Nat) (x64 : Bool) : Dev :=
  ((d.setRegF (Reg.D2D_GST_STATUS g) 23 16 rate).setRegF (Reg.D2D_GST_STATUS g) 9 8 modules).setRegF (Reg.D2D_GST_STATUS g) 7 7 (b2n x64)

/-- The table of R396 for a command: its admission in each state, 0 performed, 1 STATE, 2 BUSY. -/
def gstAdmit (cmd st : Nat) : Nat :=
  if st = 1 ∨ st = 3 then 2
  else match cmd with
    | 1 => if st = 0 ∨ st = 5 then 0 else 1
    | 2 => if st = 2 then 0 else 1
    | 3 => if st = 4 ∨ st = 5 then 0 else 1
    | _ => if st = 0 then 1 else 0

/-- A command of Distaff to a guest port (12 R396, R398). -/
def Dev.gstCmd (d : Dev) (q : Requester) (g cmd : Nat) (f : Dev → Dev) : Dev :=
  if q ≠ .distaff then d
  else if d.safe ∨ d.gstState g = 6 then d.gstSet g (d.gstState g) (some .halted)
  else match gstAdmit cmd (d.gstState g) with
    | 0 => f d
    | 1 => (d.gstSet g (d.gstState g) (some .state)).count (Reg.D2D_GST_STATE_REJECT g)
    | _ => d.gstSet g (d.gstState g) (some .busy)

/-- The mainband is trained, or the port stays in TRAINING until its link fails. -/
def Dev.gstTrain (d : Dev) (g : Nat) (r : GuestResult) : Dev :=
  match r with
  | .trained rate modules x64 => (d.gstWidth g rate modules x64).gstSet g 4 (some .ok)
  | _ => (d.gstWidth g 0 0 false).gstSet g 3 none

/-- GUEST_DISCOVER_TIMEOUT; what DISCOVER gives at a start is logged (12 R396). -/
def execGuestDiscoverTimeout (port : Fin 2) (s : State) : Host.Outcome State Fault Refusal :=
  onDev s fun d =>
    if d.gstState port.val = 1 ∧ !d.safe then
      let d := d.gstSet port.val 5 (some .timeout)
      if d.boot.kind = 0 then d else d.audit 2 5 0xFF 0 0xFF Status.timeout.code 0 (leBytes 1 port.val)
    else d

/-- Whether the running image admits the guest at a port (12 R396, 02 R43). -/
def Dev.guestAdmitted (d : Dev) (g : Nat) : Bool :=
  match d.img.img with
  | none => false
  | some i => i.sites.any fun e => e.site == 0x18 + g && e.flags.testBit 0 && e.serial == d.reg64 (Reg.D2D_GST_ID_LO g)

/-- A command of D2D_GST_CMD: 1 DISCOVER, 2 ADMIT, 3 RETRAIN, 4 DISABLE; 5 to 7 give RANGE (12 R396, R399). -/
def Dev.gstDo (d : Dev) (q : Requester) (g cmd : Nat) (result : GuestResult) : Dev :=
  match cmd with
  | 0 => d
  | 1 => d.gstCmd q g 1 fun d =>
    let d := d.gstWidth g 0 0 false
    match result with
    | .identity id => (d.setReg64 (Reg.D2D_GST_ID_LO g) id.toNat).gstSet g 2 (some .ok)
    | _ => d.gstSet g 1 none
  | 2 => d.gstCmd q g 2 fun d => if d.guestAdmitted g then d.gstTrain g result else d.gstSet g 2 (some .denied)
  | 3 => d.gstCmd q g 3 fun d => d.gstTrain g result
  | 4 => d.gstCmd q g 4 fun d => (d.gstWidth g 0 0 false).gstSet g 0 (some .ok)
  | _ => if q ≠ .distaff then d else d.gstSet g (d.gstState g) (some (if d.safe then .halted else .range))

/-- DISCOVER: the identity of the partner, or no answer yet (12 R396). -/
def execDiscover (q : Requester) (port : Fin 2) (result : GuestResult) (s : State) : Host.Outcome State Fault Refusal :=
  onDev s fun d => d.gstDo q port.val 1 result

/-- ADMIT (12 R396). -/
def execGuestAdmit (q : Requester) (port : Fin 2) (result : GuestResult) (s : State) : Host.Outcome State Fault Refusal :=
  onDev s fun d => d.gstDo q port.val 2 result

/-- RETRAIN (12 R396). -/
def execGstRetrain (q : Requester) (port : Fin 2) (result : GuestResult) (s : State) : Host.Outcome State Fault Refusal :=
  onDev s fun d => d.gstDo q port.val 3 result

/-- DISABLE (12 R396); RATE and the rest go to zero. -/
def execGstDisable (q : Requester) (port : Fin 2) (result : GuestResult) (s : State) : Host.Outcome State Fault Refusal :=
  onDev s fun d => d.gstDo q port.val 4 result

/-- GUEST_LINK_FAIL: the port enters ERROR and is isolated, and the guest is declared dead (12 R396). -/
def execGuestLinkFail (port : Fin 2) (s : State) : Host.Outcome State Fault Refusal :=
  onDev s fun d =>
    let g := port.val
    if d.safe || !(d.gstState g == 3 || d.gstState g == 4) then d
    else
      let d := ((d.gstWidth g 0 0 false).gstSet g 5 none).isolate (.guest port)
      if d.deadAgents.getLsbD (18 + g) then d else d.agentDead (18 + g)

/-- CREDIT: credits of VC0 to VC3 come back on a guest link (12 R397). -/
def execCreditPacket (port : Fin 2) (counts : List Nat) (s : State) : Host.Outcome State Fault Refusal :=
  onDev s fun d =>
    if d.gstState port.val ≠ 4 then d
    else
      let old := mget [] d.links.credit port.val
      { d with links := { d.links with credit := mset [] d.links.credit port.val ((List.range 4).map fun i => old.getD i 0 + counts.getD i 0 % 256) } }

end Sys2Proof.Machine
end

