-- ==== Sys2Proof/Machine/Dram.lean ====
section
/-! DEFINITION. The memory controllers (chapter 13): scrub and error correction, repair, refresh, training, drift and the
commands of MC_CMD. -/
namespace Sys2Proof.Machine

/-- A memory controller beyond its registers. -/
def Dev.ch (d : Dev) (m : Nat) : DramCh := mget DramCh.reset d.dram m

/-- The device with a memory controller changed. -/
def Dev.updCh (d : Dev) (m : Nat) (f : DramCh → DramCh) : Dev := { d with dram := mupd DramCh.reset d.dram m f }

/-- The state of a controller: 0 INIT, 1 TRAINING, 2 RUN, 3 SR, 4 PARTIAL, 5 WAKING, 6 SAFE (R427). -/
def Dev.mcState (d : Dev) (m : Nat) : Nat := d.regF (Reg.MC_STATUS m) 2 0

/-! ### Coordinates (R405, R406) -/

/-- The logical-rank bits of a stack height. -/
def cidBits (stack : Nat) : Nat := if stack = 4 then 2 else if stack = 2 then 1 else 0

/-- The row of a device that holds a channel-local line (R406). -/
def Dev.rowAt (d : Dev) (m line dev : Nat) : RowAddr :=
  let rb := if d.regF (Reg.MC_CFG m) 25 24 = 1 then 17 else 16
  let cb := cidBits (d.regF (Reg.MC_CFG m) 23 20)
  let row := line / 2 ^ 13 % 2 ^ rb
  { dev := Fin.ofNat 10 dev, sub := Fin.ofNat 2 line, rank := Fin.ofNat 4 (line / 2 ^ (13 + rb + cb)), cid := Fin.ofNat 8 (line / 2 ^ (13 + rb) % 2 ^ cb), bg := Fin.ofNat 8 (line / 2 ^ 8 % 8 ^^^ row % 8), bank := Fin.ofNat 4 (line / 2 ^ 11), row := BitVec.ofNat 17 row }

/-- Where a channel stands in a channel set: how many members come before it. -/
def chanIndex (set m : Nat) : Nat := (setBits m set).length

/-- The physical address of a channel-local line; none where no region holds it (R403, R405). -/
def Dev.paOf (d : Dev) (m line : Nat) : Option Nat :=
  let loc := line * 64
  (List.range 64).findSome? fun n =>
    let set := d.regF (Reg.MC_MAP_SET n) 15 0
    let base := d.regF (Reg.MC_MAP_BASE n) 19 0 * 0x100000
    let first := d.regF (Reg.MC_MAP_RANGE n) 13 0
    let last := d.regF (Reg.MC_MAP_RANGE n) 29 16
    let w := (setBits 16 set).length
    if d.regF (Reg.MC_MAP_RANGE n) 31 31 = 1 ∧ set.testBit m ∧ base ≤ loc then
      let o := loc - base
      let pa := first * 0x40000000 + (o / 256 * w + chanIndex set m) * 256 + o % 256
      if pa < (last + 1) * 0x40000000 then some pa else none
    else none

/-- The lines of a channel. -/
def Dev.chLines (d : Dev) (m : Nat) : Nat := (d.ch m).gib * 0x1000000

/-! ### Errors (R410, R411) -/

/-- MC_ECC_LAST_LO of a row and a line within it. -/
def rowLastLo (r : RowAddr) (line : Nat) : Reg32 :=
  BitVec.ofNat 32 (r.row.toNat * 2 ^ 15 + line / 2 % 128 * 2 ^ 8 + r.bank.val * 2 ^ 6 + r.bg.val * 2 ^ 3 + r.rank.val * 2 + r.sub.val)

/-- MC_ECC_LAST of the latest error. -/
def Dev.eccLast (d : Dev) (m line dev : Nat) (ue : Bool) : Dev :=
  let r := d.rowAt m line dev
  (d.setReg (Reg.MC_ECC_LAST_LO m) (rowLastLo r line)).setReg (Reg.MC_ECC_LAST_HI m) (BitVec.ofNat 32 (2 ^ 31 + b2n ue * 2 ^ 30 + r.cid.val * 2 ^ 8 + (if ue then 0xF else dev)))

/-- The bit at which MC_MARK keeps the device of a rank and subchannel. -/
def markBit (r : RowAddr) : Nat := 8 * r.rank.val + 4 * r.sub.val

/-- The device marked for a rank and subchannel; 15 where none is. -/
def Dev.marked (d : Dev) (m : Nat) (r : RowAddr) : Nat := d.regF (Reg.MC_MARK m) (markBit r + 3) (markBit r)

/-- How many rows of one device, rank and subchannel erred within the last second (R411). -/
def Dev.rowsErring (d : Dev) (m : Nat) (r : RowAddr) : Nat :=
  let es := (d.ch m).ce.filter fun (e : RowAddr × Nat × Nat) => e.1.dev == r.dev && e.1.rank == r.rank && e.1.sub == r.sub && decide (d.now ≤ e.2.1 + 1000000000)
  (es.map fun (e : RowAddr × Nat × Nat) => e.1).eraseDups.length

/-- A corrected error: counted, and its row offered for repair; a device with more than 8 erring rows within a second is
marked. How DETAIL packs rank, subchannel and device is not given (log entry 6). -/
def Dev.eccCorrected (d : Dev) (m line dev : Nat) : Dev :=
  let r := d.rowAt m line dev
  let d := (d.count (Reg.MC_ECC_CE m)).eccLast m line dev false
  if d.marked m r = dev then d
  else
    let d := d.updCh m fun c => { c with ce := (c.ce.filter fun (e : RowAddr × Nat × Nat) => e.1 != r) ++ [(r, d.now, line)] }
    if 8 < d.rowsErring m r then
      let f := (d.setRegF (Reg.MC_MARK m) (markBit r + 3) (markBit r) dev).takeFree
      f.1.record ⟨0x0C, false, .fbAtNotice, 0x10, none, m, f.2.toNat % 2 ^ 32, 0, d.skeinsOfMc m⟩
    else d

/-- An uncorrectable error: the poison code is written, and where no cache holds a newer copy the line is poisoned
(R410). -/
def Dev.eccUncorrectable (d : Dev) (m line : Nat) : Dev :=
  let d := (d.count (Reg.MC_ECC_UE m)).eccLast m line 0xF true
  match d.paOf m line with
  | none => d
  | some pa =>
    match mget none d.mem.stale (pa / 64) with
    | some x => { d with mem := { d.mem with stale := mset none d.mem.stale (pa / 64) (some { x with oldPoison := true }) } }
    | none => d.linePoisoned (pa / 64) 0x10 m

/-- SCRUB_READ: the next line of the pass is read and decoded (R410, R412). -/
def execScrubRead (mc : Fin 16) (decode : EccOutcome) (s : State) : Host.Outcome State Fault Refusal :=
  onDev s fun d =>
    let m := mc.val
    let total := d.chLines m
    if d.mcState m ≠ 2 ∨ total = 0 then d
    else
      let line := (d.ch m).scrub % total
      let d := match decode with
        | .clean => d
        | .corrected dev => d.eccCorrected m line dev.val
        | .uncorrectable => d.eccUncorrectable m line
        | .poisonCode => d
      let next := (line + 1) % total
      (d.updCh m fun c => { c with scrub := next }).setRegF (Reg.MC_SCRUB m) 7 0 (next * 256 / total)

/-! ### Repair (R413, R414) -/

/-- Whether two rows share a bank group of one device. -/
def sameGroup (a b : RowAddr) : Bool := a.dev == b.dev && a.sub == b.sub && a.rank == b.rank && a.bg == b.bg

/-- A saturating field of MC_PPR counts. -/
def Dev.pprAdd (d : Dev) (m lo : Nat) : Dev := d.setRegF (Reg.MC_PPR m) (lo + 7) lo (min 0xFF (d.regF (Reg.MC_PPR m) (lo + 7) lo + 1))

/-- SPPR_REPAIR: a reported row is repaired by sPPR, or deferred where the bank group has no resource (R413, R414). -/
def execSpprRepair (mc : Fin 16) (row : RowAddr) (s : State) : Host.Outcome State Fault Refusal :=
  onDev s fun d =>
    let m := mc.val
    match (d.ch m).ce.find? fun (e : RowAddr × Nat × Nat) => e.1 == row with
    | none => d
    | some e =>
      if d.mcState m ≠ 2 ∨ d.marked m row = row.dev.val then d
      else
        let pa := ((d.paOf m e.2.2).getD 0) / 64 * 64
        let used := ((d.ch m).soft.filter (sameGroup row)).length
        let d1 := d.updCh m fun c => { c with ce := c.ce.filter fun (e : RowAddr × Nat × Nat) => e.1 != row }
        if (d.ch m).soft.contains row || (d.ch m).deferred.contains row then d1
        else if used < (d.ch m).softRes then
          (((d1.updCh m fun c => { c with soft := c.soft ++ [row] }).pprAdd m 24).useBudget 8 1).record ⟨0x0A, false, .none, 0x10, none, m, (rowLastLo row 0).toNat, pa, d.skeinsOfMc m⟩
        else
          ((d1.updCh m fun c => { c with deferred := c.deferred ++ [row] }).pprAdd m 8).record ⟨0x0B, false, .fbAtNotice, 0x10, none, m, (rowLastLo row 0).toNat, pa, d.skeinsOfMc m⟩

/-- The hPPR resource a row takes. -/
def hardKey (r : RowAddr) : Nat := ((r.rank.val * 2 + r.sub.val) * 10 + r.dev.val) * 8 + r.bg.val

/-- hPPR for one row, as far as the resources of its bank group reach (R414). -/
def Dev.hardRepair (d : Dev) (m : Nat) (r : RowAddr) : Dev :=
  if mget 0 (d.ch m).hardUsed (hardKey r) < (d.ch m).hardRes then
    ((d.updCh m fun c => { c with hardUsed := mupd 0 c.hardUsed (hardKey r) fun n => n + 1 }).pprAdd m 16).useBudget 9 1
  else (d.pprAdd m 0).record ⟨0x0B, false, .fbAtNotice, 0x10, none, m, (rowLastLo r 0).toNat % 2 ^ 31 + 2 ^ 31, 0, d.skeinsOfMc m⟩

/-- HPPR_REPAIR: at a reset, before any skein is released, rows held by sPPR and deferred rows are repaired for good; DRAM
that is kept keeps its contents (R414). -/
def execHpprRepair (mc : Fin 16) (s : State) : Host.Outcome State Fault Refusal :=
  onDev s fun d =>
    let m := mc.val
    if d.boot.kind = 0 || d.boot.image || d.safe then d
    else
      let rows := (d.ch m).soft ++ (d.ch m).deferred
      let d := ((d.setRegF (Reg.MC_PPR m) 31 16 0).setRegF (Reg.MC_PPR m) 15 8 0).updCh m fun c => { c with soft := [], deferred := [] }
      rows.foldl (fun d r => d.hardRepair m r) d

/-! ### Refresh (R418, R419) -/

/-- REFRESH: REFab to one rank (R418). -/
def execRefreshRank (mc : Fin 16) (sub : Fin 2) (rank : Fin 4) (s : State) : Host.Outcome State Fault Refusal :=
  onDev s fun d =>
    if d.mcState mc.val ≠ 2 then d
    else d.updCh mc.val fun c => { c with refreshed := mset 0 c.refreshed (sub.val * 4 + rank.val) d.now }

/-- NEIGHBOUR_REFRESH: issued and counted (R419). -/
def execNeighbourRefresh (mc : Fin 16) (_row : RowAddr) (s : State) : Host.Outcome State Fault Refusal :=
  onDev s fun d => if d.mcState mc.val ≠ 2 then d else d.count (Reg.MC_NREF_COUNT mc.val)

/-- SPD_TEMPERATURE_SAMPLE, in °C: above 85 °C the DIMM is refreshed at twice the rate (R418). -/
def execSpdTemperatureSample (mc : Fin 16) (dimm : Fin 2) (temp : Int) (s : State) : Host.Outcome State Fault Refusal :=
  onDev s fun d => d.updCh mc.val fun c => { c with fast := mset false c.fast dimm.val (decide (85 < temp)) }

/-! ### Delays (R420 to R423) -/

/-- The offset of a delay register in its channel's block; none for another register. -/
def delayOff (m a : Nat) : Option Nat :=
  let o := a - Reg.MC_ID m
  if Reg.MC_ID m ≤ a ∧ 0x1000 ≤ o ∧ o < 0x2000 then some o else none

/-- The subchannel of a delay register: by its DQ lane, device or CA lane. -/
def delaySub (off : Nat) : Nat :=
  if off < 0x1800 then (off - 0x1000) / 4 % 80 / 40
  else if off < 0x1A00 then (off - 0x1800) / 4 % 20 / 10
  else if off < 0x1C00 then (off - 0x1A00) / 4 / 18
  else (off - 0x1C00) / 4 % 20 / 10

/-- A delay register with NEXT copied to LIVE. -/
def delayLive (off : Nat) (x : Reg32) : Reg32 :=
  if off < 0x1A00 then putField x 31 16 (field x 15 0) else putField x 31 24 (field x 15 8)

/-- The addresses of the delay registers of a channel that hold anything. -/
def Dev.delayRegs (d : Dev) (m : Nat) : List Nat :=
  (d.regs.map fun (e : Nat × Reg32) => e.1).filter fun a => (delayOff m a).isSome

/-- The NEXT values of a subchannel go live. -/
def Dev.goLive (d : Dev) (m : Nat) (sub : Option Nat) : Dev :=
  (d.delayRegs m).foldl (fun d a =>
    let off := a - Reg.MC_ID m
    if sub = none ∨ sub = some (delaySub off) then d.setReg a (delayLive off (d.reg a)) else d) d

/-- The result of a command of MC_CMD. -/
def Dev.mcResult (d : Dev) (m : Nat) (st : Status) : Dev :=
  let d := if st = .state then d.count (Reg.MC_STATE_REJECT m) else d
  d.setRegF (Reg.MC_STATUS m) 31 24 st.code

/-- Why a command of MC_CMD is not performed, by the table of R427; none where it is. -/
def Dev.mcRefused (d : Dev) (m : Nat) (apply : Bool) : Option Status :=
  let st := d.mcState m
  if d.safe ∨ st = 6 then some .halted
  else if !(st = 2 ∨ (st = 1 ∧ apply)) then some .state
  else if d.regF (Reg.MC_TRAIN_STATUS m) 0 0 = 1 then some .busy
  else none

/-- APPLY: in RUN the change awaits its windows, in TRAINING it is made at once (R423, R427). -/
def Dev.mcApply (d : Dev) (m : Nat) : Dev :=
  match d.mcRefused m true with
  | some st => d.mcResult m st
  | none =>
    let d := d.mcResult m .ok
    if d.mcState m = 1 then d.goLive m none
    else (d.updCh m fun c => { c with applied := [] }).setRegF (Reg.MC_TRAIN_STATUS m) 0 0 1

/-- CHECK: the oscillators run and their counts are read (R422, R427). -/
def Dev.mcCheck (d : Dev) (m : Nat) : Dev :=
  match d.mcRefused m false with
  | some st => d.mcResult m st
  | none => d.mcResult m .ok

/-- A command of MC_CMD: 1 APPLY, 2 CHECK; 3 to 7 give RANGE (R427, R430). -/
def Dev.mcDo (d : Dev) (m op : Nat) : Dev :=
  match op with
  | 0 => d
  | 1 => d.mcApply m
  | 2 => d.mcCheck m
  | _ => d.mcResult m (if d.safe then .halted else .range)

/-- APPLY of MC_CMD, which Distaff issues. -/
def execMcApply (q : Requester) (mc : Fin 16) (s : State) : Host.Outcome State Fault Refusal :=
  onDev s fun d => if q = .distaff then d.mcApply mc.val else d

/-- CHECK of MC_CMD, which Distaff issues. -/
def execMcCheck (q : Requester) (mc : Fin 16) (s : State) : Host.Outcome State Fault Refusal :=
  onDev s fun d => if q = .distaff then d.mcCheck mc.val else d

/-- APPLY_WINDOW: a subchannel refreshes every rank and switches NEXT to LIVE (R423). -/
def execApplyWindow (mc : Fin 16) (sub : Fin 2) (s : State) : Host.Outcome State Fault Refusal :=
  onDev s fun d =>
    let m := mc.val
    if d.regF (Reg.MC_TRAIN_STATUS m) 0 0 = 0 || mget false (d.ch m).applied sub.val || d.mcState m != 2 then d
    else
      let d := (d.goLive m (some sub.val)).updCh m fun c =>
        { c with applied := mset false c.applied sub.val true, refreshed := (List.range 4).foldl (fun r k => mset 0 r (sub.val * 4 + k) d.now) c.refreshed }
      if mget false (d.ch m).applied 0 && mget false (d.ch m).applied 1 then
        (d.updCh m fun c => { c with applied := [] }).setRegF (Reg.MC_TRAIN_STATUS m) 0 0 0
      else d

/-- The distance of the NEXT values of a delay register from its reference. -/
def delayDrift (off : Nat) (x r : Reg32) : Nat :=
  let dist (hi lo : Nat) : Nat := max (field x hi lo) (field r hi lo) - min (field x hi lo) (field r hi lo)
  if off < 0x1A00 then max (dist 15 8) (dist 7 0) else dist 15 8

/-- The record of a drift above 16 steps (16 R516); registers of no DQ lane have no lane number (log entry 6). -/
def Dev.recordDrift (d : Dev) (m off steps : Nat) : Dev :=
  let f := d.takeFree
  let lane := if off < 0x1800 then (off - 0x1000) / 4 % 80 else f.2.toNat % 256
  f.1.record ⟨0x0D, false, .fbAtNotice, 0x10, none, m, steps % 256 * 256 + lane, 0, d.skeinsOfMc m⟩

/-- The drift check of a channel: CHECK, corrected NEXT values, the greatest drift shown, a notice of each value that has
moved more than 16 steps, and APPLY (R422). -/
def Dev.driftDone (d : Dev) (m : Nat) (drifts : List DriftSample) : Dev :=
  let d := (d.updCh m fun c => { c with shed := false }).mcCheck m
  let ds := drifts.filter fun x => (delayOff m (Reg.MC_ID m + x.off.toNat)).isSome
  let d := ds.foldl (fun d x =>
    let a := Reg.MC_ID m + x.off.toNat
    match findReg a with
    | some (r, _) => d.setReg a (writeRegVal r.fields false (d.reg a) x.next)
    | none => d) d
  let far (d : Dev) (o : Nat) : Nat := delayDrift o (d.reg (Reg.MC_ID m + o)) (mget 0#32 (d.ch m).ref o)
  let offs := (d.delayRegs m).map fun a => a - Reg.MC_ID m
  let d := d.setRegF (Reg.MC_TRAIN_STATUS m) 31 24 (min 0xFF (offs.foldl (fun x o => max x (far d o)) 0))
  let d := ds.foldl (fun d x => if 16 < far d x.off.toNat then d.recordDrift m x.off.toNat (far d x.off.toNat) else d) d
  d.mcApply m

/-- DRIFT_CHECK; the first check of a channel after SHED asks for it is skipped (R422). -/
def execDriftCheck (mc : Fin 16) (drifts : List DriftSample) (s : State) : Host.Outcome State Fault Refusal :=
  onDev s fun d =>
    let m := mc.val
    if 4 ≤ d.shed ∧ !(d.ch m).shed then d.updCh m fun c => { c with shed := true }
    else match d.mcRefused m false with
    | some _ => d.mcCheck m
    | none => d.driftDone m drifts

/-- A channel's training values are in force and are the reference for drift (R421). -/
def Dev.trained (d : Dev) (m : Nat) (r : DramTrain) : Dev :=
  let d := r.delays.foldl (fun d (x : BitVec 16 × BitVec 32) =>
    if (delayOff m (Reg.MC_ID m + x.1.toNat)).isSome then d.setReg (Reg.MC_ID m + x.1.toNat) (delayLive x.1.toNat x.2) else d) d
  let d := d.updCh m fun c => { c with ref := (d.delayRegs m).foldl (fun t a => mset 0#32 t (a - Reg.MC_ID m) (d.reg a)) [] }
  r.marks.foldl (fun d (x : Fin 8 × Fin 10) => d.setRegF (Reg.MC_MARK m) (4 * x.1.val + 3) (4 * x.1.val) x.2.val) d

/-- A channel goes into service. -/
def Dev.mcRun (d : Dev) (m : Nat) : Dev :=
  ((d.setRegF (Reg.MC_STATUS m) 2 0 2).setDom (384 + m) ⟨.run, false, .run, d.now, false, none⟩).openPort (384 + m)

/-- DRAM_TRAINING: every channel is trained, or after a Thaw takes its kept delays; a channel that cannot be trained
drives the device into SAFE with the channel in the audit log (R421, 17 R546). -/
def execDramTraining (results : List DramTrain) (s : State) : Host.Outcome State Fault Refusal :=
  onDev s fun d =>
    if d.boot.kind = 0 || d.boot.dram || d.safe || (d.boot.kind == 3 && !d.boot.image) then d
    else if d.boot.kind = 3 then
      let d := d.pwr.keepStore.foldl (fun d (e : Nat × Reg32) => d.setReg e.1 e.2) d
      let d := (List.range 16).foldl (fun d m => (d.fillOff m).mcRun m) d
      { d with boot := { d.boot with dram := true } }
    else
      let ok (m : Nat) : Option DramTrain := results.find? fun r => r.mc.val == m && r.ok
      let bad := (List.range 16).filter fun m => (ok m).isNone
      if bad ≠ [] then
        (bad.foldl (fun d m => d.audit 2 5 0xFF 0 0xFF 0 0 (leBytes 1 m)) d).enterSafe .boot
      else
        let d := (List.range 16).foldl (fun d m => match ok m with
          | some r => (d.trained m r).mcRun m
          | none => d) d
        { d with boot := { d.boot with dram := true } }

end Sys2Proof.Machine
end

