-- ==== Sys2Proof/Machine/Pcie.lean ====
section
/-! DEFINITION. PCIe bundles (chapter 14): root ports, virtual functions and their pools, MSI-X and bus mastering, power
states and wake, function-level resets, mailboxes, dirty-page logging, and a bundle controller that is retired. -/
namespace Sys2Proof.Machine

/-! ### Root ports (R434, R439, R467, R468) -/

/-- STATE of PCE_STATUS set. -/
def Dev.setPceState (d : Dev) (b st : Nat) : Dev := d.setRegF (Reg.PCE_STATUS b) 2 0 st

/-- A command of a bundle leaves its result; STATE is counted (R439). -/
def Dev.pceResult (d : Dev) (b : Nat) (st : Status) : Dev :=
  (if st = .state then d.count (Reg.PCE_STATE_REJECT b) else d).setRegF (Reg.PCE_STATUS b) 31 24 st.code

/-- Whether a requester's write of PCE_CMD reaches the bundle (R467). -/
def Dev.pceWrites (d : Dev) (q : Requester) (b : Nat) : Bool :=
  match q with
  | .distaff => true
  | .core l => (d.core l.val).level.priv && d.bundleMode b == 1 && (match d.cfgOf l.val with | some c => c.bundles.testBit b | none => false)
  | _ => false

/-- A root-port event is signalled through PCE_RP_ROUTE (R439, R468). -/
def Dev.pceSignal (d : Dev) (b : Fin 8) : Dev :=
  let r := d.reg (Reg.PCE_RP_ROUTE b.val)
  if bit r 31 then d.doorbell (.rootPort b) (field r 11 0) else d

/-- A link has left L0: no rate and no width, and unless by RETRAIN it is counted. -/
def Dev.linkGone (d : Dev) (b : Nat) : Dev :=
  if !(d.bun b).l0 then d
  else (((d.updBun b fun x => { x with l0 := false }).setRegF (Reg.PCE_STATUS b) 19 16 0).setRegF (Reg.PCE_STATUS b) 12 8 0).count (Reg.PCE_DOWN_COUNT b)

/-- Whether a link may train: the bundle is in use and not retired, its reset is released, its domain not OFF, and the
device not in SAFE, which holds a root port idle (R439, R457, 16 R521). -/
def Dev.mayTrain (d : Dev) (b : Nat) : Bool :=
  let x := d.bun b
  !x.retired && !x.perst && (if d.bundleMode b = 1 then !d.safe && d.domShown (400 + b) != .off else d.bundleMode b == 2)

/-- PCIE_LINK_UP: a link reaches L0, or changes its rate or width; a root port that was DOWN enters UP (R434, R439). -/
def execPcieLinkUp (bd : Fin 8) (speed : Fin 7) (width : Fin 17) (s : State) : Host.Outcome State Fault Refusal :=
  onDev s fun d =>
    let b := bd.val
    if !d.mayTrain b then d
    else
      let d := ((d.updBun b fun x => { x with l0 := true }).setRegF (Reg.PCE_STATUS b) 19 16 speed.val).setRegF (Reg.PCE_STATUS b) 12 8 width.val
      if d.bundleMode b = 1 ∧ d.pceState b = 0 then d.setPceState b 1 else d

/-- The command table of R439: REARM 1, RETRAIN 2. -/
def Dev.pceVerdict (d : Dev) (b cmd : Nat) : Status :=
  let st := d.pceState b
  if d.safe || st == 3 then .halted
  else if d.bundleMode b ≠ 1 then .state
  else if cmd = 1 then (if st = 2 ∧ (d.bun b).l0 then .ok else .state)
  else if st = 0 then .busy else .ok

/-- A command of PCE_CMD: 1 REARM, which lifts the isolation and returns the port to UP; 2 RETRAIN, after which the port
keeps its state, and what the link trains to comes with PCIE_LINK_UP; 3 to 7 give RANGE (R439, R468). -/
def Dev.pceDo (d : Dev) (q : Requester) (b cmd : Nat) : Dev :=
  if !d.pceWrites q b ∨ cmd = 0 then d
  else if 2 < cmd then d.pceResult b (if d.safe then .halted else if d.bundleMode b ≠ 1 then .state else .range)
  else
    let v := d.pceVerdict b cmd
    let d := d.pceResult b v
    if v = .ok ∧ cmd = 1 then (d.setPceState b 1).setRegF Reg.MESH_HUB_ISO (24 + b) (24 + b) 0 else d

/-- REARM (R439). -/
def execRearm (q : Requester) (bd : Fin 8) (s : State) : Host.Outcome State Fault Refusal := onDev s fun d => d.pceDo q bd.val 1

/-- RETRAIN of a root port (R439). -/
def execPceRetrain (q : Requester) (bd : Fin 8) (s : State) : Host.Outcome State Fault Refusal := onDev s fun d => d.pceDo q bd.val 2

/-- ROOT_ERROR_STATUS_SET (R439). -/
def execRootErrorStatusSet (bd : Fin 8) (s : State) : Host.Outcome State Fault Refusal :=
  onDev s fun d => if d.bundleMode bd.val = 1 ∧ !d.safe then d.pceSignal bd else d

/-! ### Functions and their pools (R440, R441, R447, R449) -/

/-- Whether a function is there to answer configuration requests. -/
def Dev.fnPresent (d : Dev) (k : Nat) : Bool :=
  d.bundleMode (k / 2048) == 2 && !(d.bun (k / 2048)).perst && (k % 2048 == 0 || (d.fn k).vst != .absent)

/-- The VFs of every bundle that hold resources of a skein. -/
def Dev.vfsOf (d : Dev) (sk : Nat) : List (Nat × Fn) :=
  d.fns.filter fun (e : Nat × Fn) => e.1 % 2048 != 0 && d.fnSkein (e.1 / 2048) (e.1 % 2048) == some sk

/-- The PFs a skein owns (R440). -/
def Dev.pfsOf (d : Dev) (sk : Nat) : Nat :=
  ((List.range 8).filter fun b => d.bundleMode b == 2 && d.fnSkein b 0 == some sk).length

/-- What is free of a skein's pools: queues, vectors, channels, slots (R441, R449). -/
def Dev.pools (d : Dev) (sk : Nat) : Nat × Nat × Nat × Nat :=
  match d.skeinCfg sk with
  | none => (0, 0, 0, 0)
  | some c =>
    let vs := (d.vfsOf sk).map (·.2)
    let sum (f : Fn → Nat) : Nat := (vs.map f).sum
    let p := d.pfsOf sk
    (c.tune.vfQueues - sum (·.qcount), c.tune.vfMsix - 64 * p - sum (·.nvec), c.tune.vfDma - 8 * p - sum (·.nch), 1024 - sum (·.slots))

/-- The manager page of a bundle's PF. -/
def Dev.mgr (d : Dev) (b off : Nat) : Reg32 := d.bar (fnKey b 0) (0x9000 + off)
def Dev.setMgrF (d : Dev) (b off hi lo v : Nat) : Dev := d.setBarF (fnKey b 0) (0x9000 + off) hi lo v

/-- The PF side is signalled through VFM_VECTOR (R458, R461). -/
def Dev.mgrSignal (d : Dev) (b : Nat) : Dev :=
  let v := d.mgr b 0x18
  if bit v 31 then d.msix (fnKey b 0) (field v 10 0) else d

/-- The bit of VF number `v` in VFM_MBX_PEND or VFM_FLR_PEND, and the signal. -/
def Dev.mgrPend (d : Dev) (b base v : Nat) : Dev :=
  (d.setMgrF b (base + v / 32 * 4) (v % 32) (v % 32) 1).mgrSignal b

/-! ### Function-level reset (R458, 04 R141) -/

/-- A channel's uncommitted posts are discarded as FLUSHED; no record is written (04 R141). -/
def Dev.dropChanPosts (d : Dev) (k : Nat) : Dev :=
  let mine (p : QPost) : Bool := match p.poster with | .chan c _ => c / 8 == k | _ => false
  let ps := d.bq.posts.filter mine
  let d := { d with bq := { d.bq with posts := d.bq.posts.filter fun p => !mine p } }
  ps.foldl (fun d p => ((d.updQ p.q fun c => (c.mark p.own .free).reclaim).count Reg.BQ_PARTIAL_DISCARD).serveGrants p.q) d

/-- The channels of a function return to reset: drains leave their queues, and a slot write that was held is lost and
counted (04 R126, R141). -/
def Dev.resetChans (d : Dev) (k : Nat) : Dev :=
  let f := d.fn k
  let sk := (d.fnSkein (k / 2048) (k % 2048)).getD 0
  let d := d.countN (Reg.BQ_AT_DRAIN_LOST sk) (f.held.filter fun w => w.relaxed).length
  let d := (List.range 8).foldl (fun d c => d.unregister (.drain (k * 8 + c))) d
  let d := d.dropChanPosts k
  let d := d.updFn k fun f => { f with chans := [], held := [] }
  let lo := barKey (k / 2048) (k % 2048) 0
  { d with bars := d.bars.filter fun (e : Nat × Reg32) => !(decide (lo ≤ e.1) && decide (e.1 < lo + 0x8000)) }

/-- Whether a queue is among those that a reset of a function flushes: in a VF's range, or naming the PF in a right (R458
step 3). -/
def Dev.flrCovers (d : Dev) (k n : Nat) (c : QCtx) : Bool :=
  let f := d.fn k
  let me := BitVec.ofNat 16 (fnField (k / 2048) (k % 2048))
  if k % 2048 = 0 then (c.pVf == me || c.cVf == me) && ((d.qOwner n).map (·.skein)) == d.fnSkein (k / 2048) 0
  else decide (f.qfirst ≤ n) && decide (n < f.qfirst + f.qcount)

/-- The ENABLED queues that a reset of a function flushes (R458 step 3). -/
def Dev.flrQueues (d : Dev) (k : Nat) : List Nat :=
  (d.bq.ctx.filter fun (e : Nat × QCtx) => e.2.en && !e.2.flush && !e.2.dead && d.flrCovers k e.1 e.2).map fun (e : Nat × QCtx) => e.1

/-- A function-level reset begins: DMA silence, channels reset, queues flushed (R458 steps 1 to 3); a second one during
it is ignored. As a reset of any type it discards a delta that is not committed (02 R66). -/
def Dev.flrStart (d : Dev) (k : Nat) : Dev :=
  if (d.fn k).flr then d
  else
    let d := (d.dropDelta.updFn k fun f => { f with flr := true }).resetChans k
    ((d.flrQueues k).foldl (fun d n => d.flushSet n) d).count (Reg.PCE_FLR_COUNT (k / 2048))

/-- A VF is reset and, at the end of the reset, destroyed (R447, R451). -/
def Dev.vfDestroy (d : Dev) (k : Nat) : Dev :=
  if (d.fn k).vst = .absent then d
  else (d.flrStart k).updFn k fun f => { f with vst := .resetting, destroy := true }

/-- VF Enable is cleared: every VF is reset, destroyed and left ABSENT (R447). -/
def Dev.vfDisable (d : Dev) (b : Nat) : Dev :=
  ((d.fns.map fun (e : Nat × Fn) => e.1).filter fun k => k / 2048 == b && k % 2048 != 0).foldl (fun d k => d.vfDestroy k)
    (d.updBun b fun x => { x with vfEnable := false })

/-- The manager page at its Reset values (R466); a command in progress ends with FLUSHED (R459). -/
def Dev.mgrReset (d : Dev) (b : Nat) : Dev :=
  let lo := barKey b 0 0x9000
  let busy := (d.bun b).busyOp.isSome
  let d := { d with bars := d.bars.filter fun (e : Nat × Reg32) => !(decide (lo ≤ e.1) && decide (e.1 < lo + 0x1000)) }
  let d := d.updBun b fun x => { x with busyOp := none, lastVf := none }
  if busy then d.setMgrF b 0x14 31 24 Status.flushed.code else d

/-- A reset of the PF (R459). -/
def Dev.pfReset (d : Dev) (b : Nat) : Dev := ((d.mgrReset b).flrStart (fnKey b 0)).vfDisable b

/-- A hot reset, a link-down or PE_PERST_N: the link is gone, the PF is reset and in D0 (R459). -/
def Dev.bundleReset (d : Dev) (b : Nat) : Dev := ((d.linkGone b).updBun b fun x => { x with d3hot := false }).pfReset b

/-- A VF's rights are withdrawn from its queue range, and its resources return to the pools (R451). -/
def Dev.vfFree (d : Dev) (k : Nat) : Dev :=
  let f := d.fn k
  let me := BitVec.ofNat 16 (fnField (k / 2048) (k % 2048))
  let off (x : BitVec 16) : BitVec 16 := if x = me then x &&& 0x7FFF#16 else x
  let d := ((d.bq.ctx.map fun (e : Nat × QCtx) => e.1).filter fun n => decide (f.qfirst ≤ n) && decide (n < f.qfirst + f.qcount)).foldl (fun d n => d.updQ n fun c => { c with pVf := off c.pVf, cVf := off c.cVf }) d
  let b := d.bun (k / 2048)
  let st : VfState := if b.vfEnable && decide (k % 2048 ≤ b.numVfs) then .empty else .absent
  let d := d.updFn k fun f => { f with vst := st, destroy := false, nch := 0, nvec := 0, qfirst := 0, qcount := 0, slots := 0 }
  match b.busyOp with
  | some (_, v) =>
    if v + 1 = k % 2048 then
      ((d.updBun (k / 2048) fun x => { x with busyOp := none }).setMgrF (k / 2048) 0x14 31 24 0).setMgrF (k / 2048) 0x14 8 8 0
    else d
  | none => d

/-- The configuration space of a function at reset; PME_En and PME_Status outlast PE_PERST_N (R456, R458 step 5). -/
def Dev.cfgReset (d : Dev) (k : Nat) : Dev :=
  let fn := k % 2048
  d.updBun (k / 2048) fun x =>
    let y : Bundle := { x with cfg := x.cfg.filter fun (e : Nat × Reg32) => e.1 / 4096 != fn }
    if fn = 0 then { y with numVfs := if x.vfEnable then x.numVfs else 0, cto := 0, ctoOff := false } else y

/-- A VF's mailbox in both directions: its function page, and what the PF side sees of it (R461). -/
def Dev.mbxClear (d : Dev) (k : Nat) : Dev :=
  let lo := barKey (k / 2048) (k % 2048) 0
  let cut (a b : Nat) (e : Nat × Reg32) : Bool := decide (lo + a ≤ e.1) && decide (e.1 < lo + b)
  { d with bars := d.bars.filter fun e => !(cut 0x8000 0x9000 e || cut 0x9400 0x9500 e) }.updFn k fun f => { f with toDev := [] }

/-- A reset ends: the mailbox is cleared and the manager told, configuration space and MSI-X table stand at reset
(R458 steps 4 and 5). -/
def Dev.flrEnd (d : Dev) (k : Nat) : Dev :=
  let d := if k % 2048 = 0 then d else (d.mbxClear k).mgrPend (k / 2048) 0x280 (k % 2048 - 1)
  let d := (d.cfgReset k).updFn k fun f => { f with flr := false, bme := false, msixEn := false, fmask := false, table := [], pba := [], held := [] }
  if (d.fn k).destroy then d.vfFree k else d

/-- Initiate Function Level Reset is written to a function; of the PF it is a reset of the PF (R458, R459). -/
def Dev.flrWrite (d : Dev) (k : Nat) : Dev :=
  if !d.fnPresent k || (d.fn k).flr then d
  else if k % 2048 = 0 then d.pfReset (k / 2048) else d.flrStart k

/-- INITIATE_FUNCTION_LEVEL_RESET (R458). -/
def execInitiateFunctionLevelReset (bd : Fin 8) (fn : Fin 1025) (s : State) : Host.Outcome State Fault Refusal :=
  onDev s fun d => d.flrWrite (fnKey bd.val fn.val)

/-- FLR_COMPLETE: not before the flushes it set off have ended (R458). -/
def execFlrComplete (bd : Fin 8) (fn : Fin 1025) (s : State) : Host.Outcome State Fault Refusal :=
  onDev s fun d =>
    let k := fnKey bd.val fn.val
    let wait := d.bq.ctx.any fun (e : Nat × QCtx) => e.2.flush && d.flrCovers k e.1 e.2
    if (d.fn k).flr && !wait then d.flrEnd k else d

/-- HOT_RESET of an endpoint bundle by its host (R459). -/
def execHotReset (bd : Fin 8) (s : State) : Host.Outcome State Fault Refusal :=
  onDev s fun d => if d.bundleMode bd.val = 2 then d.bundleReset bd.val else d

/-- PE_PERST_N_ASSERT on an endpoint bundle (R457, R459); a root port drives its own. -/
def execPePerstNAssert (bd : Fin 8) (s : State) : Host.Outcome State Fault Refusal :=
  onDev s fun d =>
    if d.bundleMode bd.val = 2 ∧ !(d.bun bd.val).perst then (d.updBun bd.val fun x => { x with perst := true }).bundleReset bd.val else d

/-- PE_PERST_N_DEASSERT: PE_WAKE_N is released (R456, R457). -/
def execPePerstNDeassert (bd : Fin 8) (s : State) : Host.Outcome State Fault Refusal :=
  onDev s fun d => if d.bundleMode bd.val = 2 then d.updBun bd.val fun x => { x with perst := false, wakeLow := false } else d

/-- PCIE_LINK_DOWN: a root port is isolated until REARM; an endpoint is reset (R439, R459). -/
def execPcieLinkDown (bd : Fin 8) (s : State) : Host.Outcome State Fault Refusal :=
  onDev s fun d =>
    let b := bd.val
    if !(d.bun b).l0 then d
    else if d.bundleMode b = 2 then d.bundleReset b
    else
      let d := d.linkGone b
      if d.pceState b = 1 then ((d.setPceState b 2).isolate (.rootPort bd)).pceSignal bd else d

/-- BUNDLE_RETIRE: a root port is isolated; an endpoint goes from its host as by a surprise removal (16 R502, R512). -/
def execBundleRetire (bd : Fin 8) (s : State) : Host.Outcome State Fault Refusal :=
  onDev s fun d =>
    let b := bd.val
    if (d.bun b).retired then d
    else
      let d := d.updBun b fun x => { x with retired := true }
      let d := match d.bundleMode b with
        | 1 =>
          let d := (d.linkGone b).isolate (.rootPort bd)
          if d.pceState b < 2 then (d.setPceState b 2).pceSignal bd else d
        | 2 => d.bundleReset b
        | _ => d
      d.record ⟨0x13, true, .ffAtNotice, 0x10, none, b, 0, 0, d.skeinsOfBundle b⟩

/-! ### Virtual functions (R447 to R451) -/

/-- VF Enable is set with `n` in NumVFs: VFs 0 to n − 1 become EMPTY (R447). -/
def Dev.vfEnable (d : Dev) (b n : Nat) : Dev :=
  if !d.fnPresent (fnKey b 0) || (d.fn (fnKey b 0)).flr || (d.bun b).vfEnable || n = 0 || decide (d.totalVfs b < n) then d
  else
    (List.range n).foldl (fun d v => d.updFn (fnKey b (v + 1)) fun f => if f.vst = .absent then { f with vst := .empty } else f)
      (d.updBun b fun x => { x with vfEnable := true, numVfs := n })

/-- VF_ENABLE_SET with NumVFs (R447). -/
def execVfEnableSet (bd : Fin 8) (num : BitVec 16) (s : State) : Host.Outcome State Fault Refusal :=
  onDev s fun d => d.vfEnable bd.val num.toNat

/-- VF Enable is cleared (R447). -/
def Dev.vfEnableOff (d : Dev) (b : Nat) : Dev :=
  if d.fnPresent (fnKey b 0) && !(d.fn (fnKey b 0)).flr && (d.bun b).vfEnable then d.vfDisable b else d

/-- VF_ENABLE_CLEAR (R447). -/
def execVfEnableClear (bd : Fin 8) (s : State) : Host.Outcome State Fault Refusal := onDev s fun d => d.vfEnableOff bd.val

/-- The code of VFSTATE and FN_INFO.STATE. -/
def vfCode : VfState → Nat
  | .absent => 0
  | .empty => 1
  | .ready => 2
  | .resetting => 3

/-- A manager command ends (R448). -/
def Dev.mgrResult (d : Dev) (b : Nat) (st : Status) : Dev :=
  let d := if st = .state then { d with bars := mupd 0#32 d.bars (barKey b 0 0x9020) satInc } else d
  d.setMgrF b 0x14 31 24 st.code

/-- A manager command for the VF of VFM_ARG0, where none is in progress (R448, 16 R522). -/
def Dev.mgrCmd (d : Dev) (b : Nat) (f : Nat → Dev → Dev) : Dev :=
  if !d.barOpen (fnKey b 0) then d
  else if d.safe then d.mgrResult b .halted
  else if (d.bun b).busyOp.isSome then d.mgrResult b .busy
  else
    let v := field (d.mgr b 0) 25 16
    f (fnKey b (v + 1)) (d.updBun b fun x => { x with lastVf := some v })

/-- The checks of CREATE after the state (R449). -/
def Dev.createFails (d : Dev) (k b : Nat) : Option Status :=
  let nch := field (d.mgr b 0) 11 8
  let qf := field (d.mgr b 4) 20 0
  let qc := field (d.mgr b 8) 20 0
  let nvec := field (d.mgr b 0xC) 27 16
  let slots := field (d.mgr b 0xC) 10 0
  let sk := (d.fnSkein b (k % 2048)).getD 0
  let p := d.pools sk
  let inRange := match d.skeinCfg sk with
    | some c => qc == 0 || (decide (c.qFirst ≤ qf) && decide (qf + qc ≤ c.qFirst + c.qCount))
    | none => false
  if 8 < nch || nvec = 0 || decide (2048 < nvec) || decide (1024 < slots) || decide (2 ^ 20 ≤ qf) || !inRange || decide (p.1 < qc) ||
      decide (p.2.1 < nvec) || decide (p.2.2.1 < nch) || decide (p.2.2.2 < slots) then some .range
  else if qc != 0 && d.fns.any fun (e : Nat × Fn) => e.1 % 2048 != 0 && e.1 != k && e.2.qcount != 0 && (e.2.vst == .ready || e.2.vst == .resetting) &&
      decide (e.2.qfirst < qf + qc) && decide (qf < e.2.qfirst + e.2.qcount) then some .conflict
  else none

/-- A command of VFM_CMD: 1 CREATE, 2 DESTROY, which is BUSY until the reset of the VF is complete, 3 QUERY, which puts the
VF's values in the argument registers; 4 to 7 give RANGE (R448, R449, R451, R466). -/
def Dev.vfmDo (d : Dev) (b cmd : Nat) : Dev :=
  match cmd with
  | 0 => d
  | 1 => d.mgrCmd b fun k d =>
    match (d.fn k).vst with
    | .resetting => d.mgrResult b .busy
    | .absent | .ready => d.mgrResult b .state
    | .empty =>
      match d.createFails k b with
      | some st => d.mgrResult b st
      | none =>
        (d.updFn k fun f => { f with vst := .ready, nch := field (d.mgr b 0) 11 8, nvec := field (d.mgr b 0xC) 27 16, qfirst := field (d.mgr b 4) 20 0, qcount := field (d.mgr b 8) 20 0, slots := field (d.mgr b 0xC) 10 0, table := [], pba := [], chans := [] }).mgrResult b .ok
  | 2 => d.mgrCmd b fun k d =>
    match (d.fn k).vst with
    | .resetting => d.mgrResult b .busy
    | .absent | .empty => d.mgrResult b .state
    | .ready => ((d.updBun b fun x => { x with busyOp := some (2, k % 2048 - 1) }).setMgrF b 0x14 8 8 1).vfDestroy k
  | 3 => d.mgrCmd b fun k d =>
    let f := d.fn k
    let d := ((d.setMgrF b 0 11 8 f.nch).setMgrF b 4 20 0 f.qfirst).setMgrF b 8 20 0 f.qcount
    d.mgrResult b .ok
  | _ =>
    if !d.barOpen (fnKey b 0) then d
    else d.mgrResult b (if d.safe then .halted else if (d.bun b).busyOp.isSome then .busy else .range)

/-- VFM_CREATE (R448, R449). -/
def execVfmCreate (bd : Fin 8) (s : State) : Host.Outcome State Fault Refusal := onDev s fun d => d.vfmDo bd.val 1

/-- VFM_DESTROY (R448, R451). -/
def execVfmDestroy (bd : Fin 8) (s : State) : Host.Outcome State Fault Refusal := onDev s fun d => d.vfmDo bd.val 2

/-- VFM_QUERY (R448, R466). -/
def execVfmQuery (bd : Fin 8) (s : State) : Host.Outcome State Fault Refusal := onDev s fun d => d.vfmDo bd.val 3

/-! ### MSI-X, bus mastering and power states (R453 to R456) -/

/-- Every pending message of a function that nothing masks is sent. -/
def Dev.msixSweep (d : Dev) (k : Nat) : Dev := ((d.fn k).pba.map fun (e : Nat × Bool) => e.1).foldl (fun d v => d.msixFlush k v) d

/-- Function Mask is cleared: pending messages are sent (R453). -/
def Dev.fnUnmask (d : Dev) (k : Nat) : Dev :=
  if d.fnPresent k && !(d.fn k).flr then (d.updFn k fun f => { f with fmask := false }).msixSweep k else d

/-- The mask bit of a vector is written: once it is clear its pending message is sent (R453). -/
def Dev.vecMask (d : Dev) (k vec : Nat) (m : Bool) : Dev :=
  if d.barOpen k && !d.safe && decide (vec < (d.fn k).nvec) then
    (d.updFn k fun f => { f with table := mupd MsixEntry.reset f.table vec fun e => { e with masked := m } }).msixFlush k vec
  else d

/-- A vector's mask bit is cleared, or with `vec` 2048 the Function Mask (R453). -/
def execMsixUnmask (bd : Fin 8) (fn : Fin 1025) (vec : Nat) (s : State) : Host.Outcome State Fault Refusal :=
  onDev s fun d => if vec = 2048 then d.fnUnmask (fnKey bd.val fn.val) else d.vecMask (fnKey bd.val fn.val) vec false

/-- Bus Master Enable of a function is cleared: it issues nothing, and its writes are held; or set: held writes issue in
their order and the work resumes (R454). -/
def Dev.busMaster (d : Dev) (k : Nat) (on : Bool) : Dev :=
  if d.fnPresent k && !(d.fn k).flr then
    let d := d.updFn k fun f => { f with bme := on }
    if on then (d.fnRelease k).pumpAll else d
  else d

/-- BUS_MASTER_ENABLE_CLEAR (R454). -/
def execBusMasterEnableClear (bd : Fin 8) (fn : Fin 1025) (s : State) : Host.Outcome State Fault Refusal :=
  onDev s fun d => d.busMaster (fnKey bd.val fn.val) false

/-- BUS_MASTER_ENABLE_SET (R454). -/
def execBusMasterEnableSet (bd : Fin 8) (fn : Fin 1025) (s : State) : Host.Outcome State Fault Refusal :=
  onDev s fun d => d.busMaster (fnKey bd.val fn.val) true

/-- PowerState is written: D3hot, or D0, where every function goes on where it stood; D1 and D2 are ignored (R455). -/
def Dev.powerState (d : Dev) (b n : Nat) : Dev :=
  let k := fnKey b 0
  if !d.fnPresent k || (d.fn k).flr then d
  else if n = 3 then d.updBun b fun x => { x with d3hot := true }
  else if n = 0 then
    let d := d.updBun b fun x => { x with d3hot := false }
    (((d.fns.map fun (e : Nat × Fn) => e.1).filter fun j => j / 2048 == b).foldl (fun d j => d.fnRelease j) d).pumpAll
  else d

/-- POWERSTATE_D3HOT, written to the PF (R455). -/
def execPowerstateD3hot (bd : Fin 8) (s : State) : Host.Outcome State Fault Refusal := onDev s fun d => d.powerState bd.val 3

/-- POWERSTATE_D0 (R455). -/
def execPowerstateD0 (bd : Fin 8) (s : State) : Host.Outcome State Fault Refusal := onDev s fun d => d.powerState bd.val 0

/-- Whether a drain-enabled channel of a bundle has an item to deliver (R456). -/
def Dev.drainWaits (d : Dev) (b : Nat) : Bool :=
  d.chanKeys.any fun c => c / 8 / 2048 == b && d.chState c == 1 && (d.chan c).drainEn && (d.q ((d.chan c).drainQa % 2 ^ 20)).en &&
    !(d.q ((d.chan c).drainQa % 2 ^ 20)).items.isEmpty

/-- PME_WAKE: a wake event in D3hot or D3cold (R456). -/
def execPmeWake (bd : Fin 8) (s : State) : Host.Outcome State Fault Refusal :=
  onDev s fun d =>
    let x := d.bun bd.val
    if d.bundleMode bd.val = 2 ∧ !d.safe ∧ x.pmeEn ∧ (x.d3hot ∨ x.perst) ∧ d.drainWaits bd.val then
      let d := d.updBun bd.val fun x => { x with pmeStatus := true, wakeLow := x.wakeLow || x.perst }
      if x.d3hot then d.emit (.pcieMsg bd.val 0) else d
    else d

/-! ### Mailboxes (R461, R462). The PF side of a VF's mailbox is held with the VF's registers. -/

/-- Offsets in a VF's registers: its own buffers and control, and the PF side's. -/
def mbxOut (pf : Bool) : Nat := if pf then 0x9440 else 0x8000
def mbxIn (pf : Bool) : Nat := if pf then 0x9400 else 0x8040
def mbxCtl (pf : Bool) : Nat := if pf then 0x9480 else 0x8080

/-- 16 words from an offset. -/
def Dev.words16 (d : Dev) (k off : Nat) : List Reg32 := (List.range 16).map fun i => d.bar k (off + 4 * i)

/-- 16 words put at an offset. -/
def Dev.putWords (d : Dev) (k off : Nat) (ws : List Reg32) : Dev :=
  (List.range 16).foldl (fun d i => d.setBar k (off + 4 * i) (ws.getD i 0#32)) d

/-- The VF side is signalled through FN_MBX_CTL.VECTOR. -/
def Dev.vfSignal (d : Dev) (k : Nat) : Dev := d.msix k (field (d.bar k 0x8080) 18 8)

/-- A side of a mailbox is signalled (R461). -/
def Dev.mbxSignal (d : Dev) (k : Nat) (pf : Bool) : Dev :=
  if pf then d.mgrPend (k / 2048) 0x200 (k % 2048 - 1) else d.vfSignal k

/-- The result of a SEND or ACK; STATE is counted. -/
def Dev.mbxResult (d : Dev) (k : Nat) (pf : Bool) (st : Status) : Dev :=
  (if st = .state then d.count (Reg.PCE_STATE_REJECT (k / 2048)) else d).setBarF k (mbxCtl pf) 31 24 st.code

/-- SEND by a side (R461); a VF's message whose byte 0 has bit 7 set goes to the device (R462). -/
def Dev.mbxSend (d : Dev) (k : Nat) (pf : Bool) : Dev :=
  if bit (d.bar k (mbxCtl pf)) 2 then d.mbxResult k pf .busy
  else
    let m := d.words16 k (mbxOut pf)
    let d := (d.setBarF k (mbxCtl pf) 2 2 1).mbxResult k pf .ok
    if !pf && bit (m.getD 0 0#32) 7 then d.updFn k fun f => { f with toDev := m }
    else ((d.putWords k (mbxIn (!pf)) m).setBarF k (mbxCtl (!pf)) 3 3 1).mbxSignal k (!pf)

/-- ACK by a side (R461): the sender is the other side where its OUT_BUSY is set, else the device. -/
def Dev.mbxAck (d : Dev) (k : Nat) (pf : Bool) : Dev :=
  if !bit (d.bar k (mbxCtl pf)) 3 then d.mbxResult k pf .state
  else
    let d := (d.setBarF k (mbxCtl pf) 3 3 0).mbxResult k pf .ok
    if bit (d.bar k (mbxCtl (!pf))) 2 then
      (d.setBarF k (mbxCtl (!pf)) 2 2 0).mbxSignal k (!pf)
    else d

/-- Whether a VF's own page takes mailbox commands: READY, and its BAR0 answers (R442, R447, 16 R522). -/
def Dev.mbxOpen (d : Dev) (k : Nat) : Bool := k % 2048 != 0 && d.barOpen k && (d.fn k).vst == .ready && !d.safe

/-- FN_MBX_SEND (R461). -/
def execFnMbxSend (bd : Fin 8) (fn : Fin 1025) (s : State) : Host.Outcome State Fault Refusal :=
  onDev s fun d => let k := fnKey bd.val fn.val; if d.mbxOpen k then d.mbxSend k false else d

/-- FN_MBX_ACK (R461). -/
def execFnMbxAck (bd : Fin 8) (fn : Fin 1025) (s : State) : Host.Outcome State Fault Refusal :=
  onDev s fun d => let k := fnKey bd.val fn.val; if d.mbxOpen k then d.mbxAck k false else d

/-- A mailbox command of the manager for the VF of VFM_SEL; a VF that is not READY takes none (STATE). -/
def Dev.mgrMbx (d : Dev) (b : Nat) (f : Nat → Dev → Dev) : Dev :=
  let k := fnKey b (field (d.mgr b 0x1C) 9 0 + 1)
  if !d.barOpen (fnKey b 0) || d.safe then d
  else if (d.fn k).vst = .ready ∧ !(d.fn k).flr then f k d
  else d.mbxResult k true .state

/-- VFM_MBX_SEND (R461). -/
def execVfmMbxSend (bd : Fin 8) (s : State) : Host.Outcome State Fault Refusal :=
  onDev s fun d => d.mgrMbx bd.val fun k d => d.mbxSend k true

/-- VFM_MBX_ACK (R461). -/
def execVfmMbxAck (bd : Fin 8) (s : State) : Host.Outcome State Fault Refusal :=
  onDev s fun d => d.mgrMbx bd.val fun k d => d.mbxAck k true

/-- The answer to a message addressed to the device: bytes 4 onward, and the status (R462). -/
def Dev.mbxAnswer (d : Dev) (k cmd : Nat) : Status × List Byte :=
  let f := d.fn k
  if cmd = 0x81 then (.ok, leBytes 1 f.nch ++ [0#8] ++ leBytes 2 f.nvec ++ leBytes 4 f.qfirst ++ leBytes 4 f.qcount ++ leBytes 2 f.slots)
  else if cmd = 0x82 then (.ok, leBytes 4 (d.regF (Reg.PCE_STATUS (k / 2048)) 19 8))
  else (.unsupported, [])

/-- The device answers the message `w` begins, and the message is acknowledged (R461, R462). -/
def Dev.devReply (d : Dev) (k : Nat) (w : Reg32) : Dev :=
  let a := d.mbxAnswer k (field w 7 0)
  let bs := leBytes 4 (putField w 15 8 a.1.code).toNat ++ a.2
  let d := d.updFn k fun f => { f with toDev := [] }
  let d := (d.putWords k 0x8040 ((List.range 16).map fun i => BitVec.ofNat 32 (leAt bs (4 * i) 4))).setBarF k 0x8080 3 3 1
  (d.setBarF k 0x8080 2 2 0).vfSignal k

/-- DEVICE_MAILBOX_ANSWER: the device answers in FN_MBX_IN, once the inbound buffer is free (R461, R462). -/
def execDeviceMailboxAnswer (bd : Fin 8) (fn : Fin 1025) (s : State) : Host.Outcome State Fault Refusal :=
  onDev s fun d =>
    let k := fnKey bd.val fn.val
    match (d.fn k).toDev with
    | [] => d
    | w :: _ => if bit (d.bar k 0x8080) 3 || d.safe then d else d.devReply k w

/-! ### Dirty-page logging (R463, R464) -/

/-- A command of DLOG_CTL for a VF: 1 SWAP, BUSY until it completes; 2 to 7 give RANGE (R464, R466). -/
def Dev.dlogDo (d : Dev) (k cmd : Nat) : Dev :=
  let res (d : Dev) (st : Status) : Dev :=
    (if st = .state then d.count (Reg.PCE_STATE_REJECT (k / 2048)) else d).setBarF k 0x9520 31 24 st.code
  if cmd = 0 || k % 2048 = 0 || !d.barOpen (fnKey (k / 2048) 0) then d
  else if d.safe then res d .halted
  else if 1 < cmd then res d .range
  else if bit (d.bar k 0x9520) 8 then res d .busy
  else if !bit (d.bar k 0x951C) 31 then res d .state
  else d.setBarF k 0x9520 8 8 1

/-- DLOG_SWAP for the VF: its result, or BUSY until it completes (R464). -/
def execDlogSwap (bd : Fin 8) (fn : Fin 1025) (s : State) : Host.Outcome State Fault Refusal :=
  onDev s fun d => d.dlogDo (fnKey bd.val fn.val) 1

/-- DLOG_SWAP_DONE: the words held are written and the other bitmap is active, once the PF may write (R464). -/
def execDlogSwapDone (bd : Fin 8) (fn : Fin 1025) (s : State) : Host.Outcome State Fault Refusal :=
  onDev s fun d =>
    let k := fnKey bd.val fn.val
    if bit (d.bar k 0x9520) 8 && d.fnOpen (fnKey bd.val 0) then
      ((d.setBarF k 0x9520 8 8 0).setBarF k 0x9520 31 24 0).setBarF k 0x9520 0 0 (1 - field (d.bar k 0x9520) 0 0)
    else d

end Sys2Proof.Machine
end

