-- ==== Sys2Proof/Machine/ImgUnit.lean ====
section
/-! DEFINITION. The image unit (chapter 02): its copies and registers, the checks of an image and of a delta, its commands,
what stage 4 programs, the journal and its replay, and a takeover by Distaff's spare pair (18 R554). -/
namespace Sys2Proof.Machine

/-! ### Copies and registers (R61, R71) -/

/-- A copy: false A, true B. -/
def Dev.copy (d : Dev) (b : Bool) : ImgCopy := if b then d.img.copyB else d.img.copyA

/-- The code of a copy's state. -/
def copyCode : CopyState → Nat
  | .empty => 0
  | .new => 1
  | .good => 2
  | .bad => 3

/-- A copy is replaced, which IMG_COPY shows. -/
def Dev.setCopy (d : Dev) (b : Bool) (c : ImgCopy) : Dev :=
  { d with img := if b then { d.img with copyB := c } else { d.img with copyA := c } }.setReg (if b then Reg.IMG_COPY_B else Reg.IMG_COPY_A)
    (BitVec.ofNat 32 (copyCode c.st * 2 ^ 30 + c.seq % 2 ^ 30))

/-- The code of the unit's state in IMG_STATUS. -/
def unitCode : ImgUnitState → Nat
  | .none => 0
  | .verifying => 1
  | .committed => 2
  | .staging => 3
  | .delta => 4
  | .safe => 5

/-- The unit's state, which IMG_STATUS shows. -/
def Dev.setImgUnit (d : Dev) (u : ImgUnitState) : Dev :=
  { d with img := { d.img with unit := u } }.setRegF Reg.IMG_STATUS 19 16 (unitCode u)

/-- IMG_DELTA_SEQ. -/
def Dev.setDeltaSeq (d : Dev) (n : Nat) : Dev :=
  { d with img := { d.img with deltaSeq := n } }.setReg Reg.IMG_DELTA_SEQ (BitVec.ofNat 32 n)

/-! ### Checks -/

/-- Whether an installer slot holds the key whose hash is given, and is not revoked (R55). -/
def Dev.slotHolds (d : Dev) (k : Nat) (h : List Byte) : Bool :=
  let s := mget FuseSlot.blank d.dst.slots k
  s.written && !s.revoked && s.hash == h

/-- Stages 1 to 3 of R59: the stage that fails and its status. -/
def Dev.imageFails (d : Dev) (v : ImgVerdict) (r : List Byte) : Option (Nat × Status) :=
  let i := decodeImage r
  if !stage1 d.slotHolds (fun h => d.dst.makerHash == h) v r then some (1, .integrity)
  else if !stage2 (d.dst.fwRun.getD 0) d.dst.imgFloor (mget 0 d.dst.dieSerial) i then some (2, .unsupported)
  else match stage3 (d.mem.capGiB / 16) (leAt (imgBody r 6) 0x18 1) i with
    | .ok => none
    | st => some (3, st)

/-- What the VFs and PFs of a skein hold: queues, vectors and channels. -/
def Dev.poolsHeld (d : Dev) (sk : Nat) : Nat × Nat × Nat :=
  let vs := (d.vfsOf sk).map (·.2)
  let p := d.pfsOf sk
  ((vs.map (·.qcount)).sum, (vs.map (·.nvec)).sum + 64 * p, (vs.map (·.nch)).sum + 8 * p)

/-- Whether an image would take away a VF pool amount already allocated (R64 step 5). -/
def Dev.poolsTaken (d : Dev) (i : Image) : Bool :=
  i.skeins.any fun c =>
    let h := d.poolsHeld c.skein
    decide (c.tune.vfQueues < h.1) || decide (c.tune.vfMsix < h.2.1) || decide (c.tune.vfDma < h.2.2)

/-- Steps 4 and 5 of R64 on an image with a delta applied. -/
def Dev.deltaImageFails (d : Dev) (r : List Byte) : Option Status :=
  let i := decodeImage r
  match stage3 (d.mem.capGiB / 16) (leAt (imgBody r 6) 0x18 1) i with
  | .ok => if d.poolsTaken i then some .conflict else none
  | st => some st

/-- A running image with the operations of a delta applied. -/
def DeltaForm.apply (x : DeltaForm) (r : List Byte) : List Byte := x.ops.foldl (fun r o => o.apply r) r

/-- Whether the operations of a delta reach SPARE or ROLE, which an operator may not change (R63). -/
def DeltaForm.touchesRoles (x : DeltaForm) : Bool := x.ops.any fun o => o.sec == 2 || o.sec == 7

/-- Whether a session may submit a delta (R62, R63). -/
def DeltaForm.rightful (x : DeltaForm) (s : Session) : Bool :=
  x.ops.all DeltaOp.tunable &&
  (if x.issuer = 1 then s.role == 1 else s.role == 1 || (s.rights.testBit 1 && !x.touchesRoles))

/-- Whether a journalled delta still has its rights under the running ROLE section (R67). -/
def DeltaForm.stillRightful (x : DeltaForm) (i : Image) : Bool :=
  x.ops.all DeltaOp.tunable &&
  (x.issuer == 1 || match i.roles.find? fun e => e.index == x.index with
    | none => false
    | some e => e.role == 1 || (e.rights.testBit 1 && !x.touchesRoles))

/-- Whether a delta finds no room in a journal: 256 deltas, 960 KiB (R66). -/
def journalFull (j : List JournalEntry) (n : Nat) : Bool :=
  decide (256 ≤ j.length) || decide (983040 < (j.map fun e => e.bytes.length).sum + n)

/-- The checks of R64 for a delta that a session submits. -/
def Dev.deltaFails (d : Dev) (s : Session) (auth : Bool) (b : List Byte) : Except Status DeltaForm :=
  match deltaForm b d.img.raw with
  | none => .error .integrity
  | some x =>
    if !auth ∨ (x.issuer = 2 ∧ x.index ≠ s.index) then .error .integrity
    else if !x.rightful s then .error .denied
    else if some x.base ≠ d.img.img.map (·.imgVer) ∨ x.seq ≠ d.img.deltaSeq + 1 then .error .state
    else match d.deltaImageFails (x.apply d.img.raw) with
      | some st => .error st
      | none => if !x.vol && journalFull (d.copy d.img.active).journal b.length then .error .full else .ok x

/-! ### Commands (R68, R69) -/

/-- The result of an image command: LAST_RESULT, and STATE counted (R71); in SAFE the unit answers HALTED in its place (00
R21). -/
def Dev.imgEnds (d : Dev) (st : Status) (data : List Byte) : Done :=
  let st := if st = .state ∧ d.safe then Status.halted else st
  ⟨(if st = .state then d.count Reg.IMG_STATE_REJECT else d).setRegF Reg.IMG_STATUS 31 24 st.code, some st, data⟩

/-- An image command: rights, then the state of the unit, then whether a command is in progress, then its work (R68, R69). -/
def Dev.imgServe (d : Dev) (who : Caller) (code : Nat) (recovery safe read : Bool) (may : Option Session → Bool) (act : Dev → Done) : Dev :=
  d.serve who ⟨code, false, false, recovery, false, safe⟩ may [] fun d =>
    if d.img.unit = .none ∨ d.img.unit = .verifying then d.imgEnds .state []
    else if (d.img.job.isSome || d.img.pending.isSome) && !read then d.imgEnds .busy []
    else act d

/-- A check or a stage begins: the unit is in STAGING, outside SAFE, until it ends at the tick that follows (R68, R71; log entry
4). The copy to be written is EMPTY meanwhile (R70). -/
def Dev.imgBegin (d : Dev) (j : ImgJob) : Done :=
  let d := match j.copy with
    | some (b, _) => d.setCopy b ⟨[], (d.copy b).seq, .empty, false, []⟩
    | none => d
  ⟨{ (if d.safe then d else d.setImgUnit .staging) with img := { (if d.safe then d else d.setImgUnit .staging).img with job := some j } }, none, []⟩

/-- A check or a stage ends: the copy written whole, its record names it, and the requester is answered (R68, 18 R557). -/
def Dev.imgTick (d : Dev) : Dev :=
  match d.img.job with
  | none => d
  | some j =>
    let d := match j.copy with
      | some (b, c) => d.setCopy b c
      | none => d
    (if d.safe then d else d.setImgUnit .committed).jobAnswer j.st

/-- The object of a kind that the caller has transferred (18 R573). -/
def Dev.objectOf (d : Dev) (who : Caller) (kind : Nat) : Option (List Byte) :=
  match d.transferOf who with
  | some t => if t.kind = kind then some t.all else none
  | none => none

/-- IMG_READ: the running image as it stands in its copy, and its journal. -/
def execImgRead (caller : Caller) (s : State) : Host.Outcome State Fault Refusal :=
  onDev s fun d => d.imgServe caller 0x20 false true true anyRole fun d =>
    let c := d.copy d.img.active
    d.imgEnds .ok (c.bytes ++ c.journal.flatMap fun e => e.bytes)

/-- A mismatch of straps is recorded with the site, the expected code and the strapped one (01 R25). -/
def Dev.auditStraps (d : Dev) (i : Image) : Dev :=
  (i.sites.filter fun e => decide (e.site < 16) && e.orient != Config.strap e.site).foldl
    (fun d e => d.audit 3 5 0xFF 0 0xFF Status.unsupported.code 0 (leBytes 1 e.site ++ leBytes 1 e.orient ++ leBytes 1 (Config.strap e.site))) d

/-- Stages 1 to 3 on an image transferred: the status; a mismatch of straps is recorded with the site, the expected code and the
strapped one (R59, 01 R25). -/
def Dev.checkObject (d : Dev) (v : ImgVerdict) (r : List Byte) : Dev × Status :=
  match d.imageFails v r with
  | some (stage, st) => (if stage = 2 then d.auditStraps (decodeImage r) else d, st)
  | none => (d, .ok)

/-- IMG_CHECK: stages 1 to 3 on the image transferred. -/
def execImgCheck (caller : Caller) (verdict : ImgVerdict) (s : State) : Host.Outcome State Fault Refusal :=
  onDev s fun d => d.imgServe caller 0x21 true true false installer fun d =>
    match d.objectOf caller 0 with
    | none => d.imgEnds .state []
    | some r => let x := d.checkObject verdict r; x.1.imgBegin ⟨caller, 0x21, x.2, none⟩

/-- The copy that IMG_STAGE writes: the one that is not running; with no image running the lower sequence number, A on a
tie (R68). -/
def Dev.stageCopy (d : Dev) : Bool :=
  if d.img.img.isSome then !d.img.active else decide (d.img.copyB.seq < d.img.copyA.seq)

/-- IMG_STAGE: the image is checked and written as NEW, above both sequence numbers, with an empty journal (R66, R68, R70). -/
def execImgStage (caller : Caller) (verdict : ImgVerdict) (s : State) : Host.Outcome State Fault Refusal :=
  onDev s fun d => d.imgServe caller 0x22 true true false installer fun d =>
    match d.objectOf caller 0 with
    | none => d.imgEnds .state []
    | some r =>
      let x := d.checkObject verdict r
      let c : ImgCopy := ⟨r, (max d.img.copyA.seq d.img.copyB.seq + 1) % 2 ^ 30, .new, false, []⟩
      x.1.imgBegin ⟨caller, 0x22, x.2, if x.2 = .ok then some (d.stageCopy, c) else none⟩

/-- IMG_DELTA, of the installer or an operator with the tunables right: a delta that passes holds the unit until its switch, when
it is answered (R63 to R65, R69). -/
def execImgDelta (caller : Caller) (verdict : DeltaVerdict) (s : State) : Host.Outcome State Fault Refusal :=
  onDev s fun d => d.imgServe caller 0x23 false false false (right 1) fun d =>
    match d.objectOf caller 1, d.sessionOf caller with
    | some b, some se =>
      match d.deltaFails se verdict.auth b with
      | .error st => d.imgEnds st []
      | .ok x =>
        let p : PendingDelta := ⟨b, x.seq, x.issuer, x.index, x.vol, false, x.apply d.img.raw, caller, false⟩
        ⟨{ d with img := { d.img with pending := some p } }.setImgUnit .delta, none, []⟩
    | _, _ => d.imgEnds .state []

/-- DELTA_JOURNAL_WRITE_DONE: the delta is committed (R65). -/
def execDeltaJournalWriteDone (s : State) : Host.Outcome State Fault Refusal :=
  onDev s fun d =>
    match d.img.pending with
    | none => d
    | some p =>
      if p.vol ∨ p.committed then d
      else
        let c := d.copy d.img.active
        let d := d.setCopy d.img.active { c with journal := c.journal ++ [⟨p.bytes, p.seq, p.issuer, p.index⟩] }
        { d with img := { d.img with pending := some { p with committed := true } } }.setDeltaSeq p.seq

/-! ### What an image programs (R59 stage 4, R60) -/

/-- The shares of a skein: Bobbin slots, and injection at every site (R48, 03 R117, 12 R381). -/
def Dev.programTune (d : Dev) (c : SkeinCfg) : Dev :=
  let d := d.setReg (Reg.BQ_SK_SHARE c.skein) (BitVec.ofNat 32 c.tune.bqShare)
  let a : Reg32 := BitVec.ofNat 32 (c.tune.vc1 * 2 ^ 16 + c.tune.vc0)
  let b : Reg32 := BitVec.ofNat 32 c.tune.vc2
  let d := (d.setReg (Reg.MESH_HUB_SK_SHARE_A c.skein) a).setReg (Reg.MESH_HUB_SK_SHARE_B c.skein) b
  (List.range 16).foldl (fun d i => (d.setReg (Reg.MESH_SK_SHARE_A i c.skein) a).setReg (Reg.MESH_SK_SHARE_B i c.skein) b) d

/-- Every tunable value of an image takes effect. -/
def Dev.tunables (d : Dev) (i : Image) : Dev := i.skeins.foldl Dev.programTune d

/-- The running image becomes another: its bytes, what it says, and the values it programs. -/
def Dev.runImage (d : Dev) (r : List Byte) : Dev :=
  let i := decodeImage r
  { d with img := { d.img with raw := r, img := some i } }.tunables i

/-- DELTA_SWITCH: every changed value takes effect at one timebase value, which the SWITCH record holds, and IMG_DELTA is
answered (R65). -/
def execDeltaSwitch (s : State) : Host.Outcome State Fault Refusal :=
  onDev s fun d =>
    match d.img.pending with
    | none => d
    | some p =>
      if !(p.vol || p.committed) then d
      else
        let d := if p.vol then d.setDeltaSeq p.seq else d
        let d := (d.runImage p.after).audit 5 5 0xFF 0 0xFF 0 0 (leBytes 4 p.seq)
        let d := d.deltaAnswer .ok
        { d with img := { d.img with pending := none } }.setImgUnit .committed

/-- A region of the map: first GiB, length, skein and channel set (13 R404). -/
structure RegionCfg where
  first : Nat
  gib : Nat
  skein : Nat
  set : Nat
  deriving DecidableEq, Repr

/-- Insertion by first GiB. -/
def insRegion (x : RegionCfg) : List RegionCfg → List RegionCfg
  | [] => [x]
  | y :: t => if x.first ≤ y.first then x :: y :: t else y :: insRegion x t

/-- The regions of an image, by ascending first GiB. -/
def Image.regions (i : Image) : List RegionCfg :=
  (i.skeins.flatMap fun c => c.regions.map fun (r : Nat × Nat) => (⟨r.1, r.2, c.skein, c.ddrOwn ||| c.ddrPool⟩ : RegionCfg)).foldr insRegion []

/-- The extent of a region on each of its channels, in MiB (13 R404). -/
def RegionCfg.extent (r : RegionCfg) : Nat :=
  let n := max 1 (setBits 16 r.set).length
  ((r.gib * 0x400000 + n - 1) / n + 4095) / 4096

/-- Each region with its base in MiB: the highest that earlier regions have used of its channels (13 R431). -/
def placeRegions : List Nat → List RegionCfg → List (RegionCfg × Nat)
  | _, [] => []
  | used, r :: t =>
    let chs := setBits 16 r.set
    let base := chs.foldl (fun b m => max b (used.getD m 0)) 0
    (r, base) :: placeRegions (chs.foldl (fun u m => listSet u m (base + r.extent)) used) t

/-- The region map (13 R431). -/
def Dev.programMap (d : Dev) (i : Image) : Dev :=
  let rs := placeRegions (List.replicate 16 0) i.regions
  (List.range rs.length).foldl (fun d n =>
    match rs[n]? with
    | none => d
    | some (r, base) =>
      ((d.setReg (Reg.MC_MAP_RANGE n) (BitVec.ofNat 32 (2 ^ 31 + (r.first + r.gib - 1) * 2 ^ 16 + r.first))).setReg
        (Reg.MC_MAP_SET n) (BitVec.ofNat 32 (r.skein * 2 ^ 16 + r.set))).setReg (Reg.MC_MAP_BASE n) (BitVec.ofNat 32 base)) d

/-- The channels that exactly one skein lists in DDR_OWN are in isolation mode (13 R416). -/
def Dev.programIsolation (d : Dev) (i : Image) : Dev :=
  (List.range 16).foldl (fun d m =>
    d.setRegF (Reg.MC_STATUS m) 8 8 (b2n ((i.skeins.filter fun c => c.ddrOwn.testBit m).length == 1))) d

/-- The ways that some skein owns, which alone are powered (11 R342). -/
def Dev.programWays (d : Dev) (i : Image) : Dev :=
  let owned (u : Nat) : Nat := i.skeins.foldl (fun m c => m ||| c.ownWays u) 0
  let d := (List.range 16).foldl (fun d u => d.setReg (pdWays u) (BitVec.ofNat 32 (owned u * 2 ^ 16 + owned u))) d
  d.setReg (pdWays 16) (BitVec.ofNat 32 (owned 16 * 2 ^ 16 + owned 16))

/-- The queue ranges of a skein (03 R123). -/
def Dev.programQueues (d : Dev) (c : SkeinCfg) : Dev :=
  (d.setReg (Reg.BQ_SK_QFIRST c.skein) (BitVec.ofNat 32 c.qFirst)).setReg (Reg.BQ_SK_QCOUNT c.skein) (BitVec.ofNat 32 c.qCount)

/-- A bundle: its mode, a root port DOWN, a PF with 8 channels and 64 vectors (14 R439 to R441); its power domain. -/
def Dev.programBundle (d : Dev) (i : Image) (b : Nat) : Dev :=
  let m := i.bundleMode.getD b 0
  let gone := (d.bun b).retired
  let d := (d.setRegF (Reg.PCE_STATUS b) 6 4 m).setPceState b (if m = 2 then 1 else if m = 1 ∧ gone then 2 else 0)
  let d := d.updBun b fun x => { x with perst := if m = 2 then x.perst else m == 0 }
  let d := if m = 2 then d.updFn (fnKey b 0) fun f => { f with nch := 8, nvec := 64 } else d
  d.setDom (400 + b) ⟨if m = 0 then .off else .run, false, .run, d.now, false, none⟩

/-- A Hank port: its role, its own number and address; it trains unless it has no role or is retired (15 R472). -/
def Dev.programPort (d : Dev) (i : Image) (p : Nat) : Dev :=
  let role := (i.hankPorts.getD p ⟨0, 0xFF⟩).role
  let d := ((d.setRegF (Reg.HNK_PORT_STATUS p) 13 12 role).setRegF (Reg.HNK_PORT_STATUS p) 18 16 p).setReg64 (Reg.HNK_PORT_MAC_LO p) ((i.macBase + p) % 2 ^ 48)
  d.setPortState p (if role = 0 then 0 else if mget false d.hank.gone p then 4 else 1)

/-- Whether the reel state has put a spindle to use in the place of a retired one. -/
def Dev.standsIn (d : Dev) (p : Nat) : Bool :=
  d.rel.standIn.any fun (e : Nat × Option Nat) => e.2 == some p && mget false d.rel.retired e.1

/-- The spindle of an LCN at a start: from CORE_MAP, a retired spindle replaced by the spare in its place; none where it
has none (R46). -/
def Dev.settle (d : Dev) : Nat → Nat → Option Nat
  | 0, _ => none
  | n + 1, p =>
    if mget false d.rel.retired p || d.standsIn p then
      match mget none d.rel.standIn p with
      | some q => d.settle n q
      | none => if mget false d.rel.retired p then none else some p
    else some p

/-- Each LCN's spindle, and the LCNs that are lost; a spindle that none is on stands as a spare (R46, 01 R28). Cores of skeins are
in RUN, every other island is OFF. -/
def Dev.programCores (d : Dev) (i : Image) : Dev :=
  let d := (List.range 384).foldl (fun d l =>
    let p := i.coreMap.getD l 0xFFFF
    let mine := i.skeins.any fun c => c.lcnMask.testBit l
    let q := if p = 0xFFFF then none else d.settle 449 p
    let on := mine && q.isSome
    let d := { d with
      spindleOf := mset none d.spindleOf l (if p = 0xFFFF then none else some (q.getD p)), lost := mset false d.lost l (mine && q.isNone), dom := mset Domain.reset d.dom l (if on then ⟨.run, false, .run, d.now, false, none⟩ else Domain.reset) }
    d.setPort l ⟨if on then .opened else .off, []⟩) d
  let named := (List.range 384).filterMap fun l => mget none d.spindleOf l
  { d with rel := { d.rel with spares := (List.range 448).filter fun p => !named.contains p && !mget false d.rel.retired p } }.showSpares

/-- Stage 4: every unit is programmed, rw/L fields first and the lock last (R60). -/
def Dev.commitImage (d : Dev) (r : List Byte) : Dev :=
  let i := decodeImage r
  let d := { d with img := { d.img with raw := r, img := some i, deltaSeq := 0 } }
  let d := ((d.setRegF Reg.SEC_MARK 15 0 i.secMark).programMap i).programIsolation i
  let d := (i.skeins.foldl Dev.programQueues (d.programWays i)).tunables i
  let d := (List.range 8).foldl (fun d b => (d.programBundle i b).programPort i b) d
  let d := (d.setRegF Reg.HNK_ID 10 0 i.sysnum).setReg (Reg.RL_BUDGET_TOTAL 10) (BitVec.ofNat 32 (i.hankPorts.filter fun e => e.role == 3).length)
  let d := (d.programCores i).setDom 408 ⟨.run, false, .run, d.now, false, none⟩
  let d := (((d.setRegF Reg.BQ_STATUS 1 0 1).setRegF Reg.HNK_STATUS 1 0 1).setRegF Reg.RL_STATUS 1 0 1).setRegF Reg.PWR_STATUS 1 0 1
  let h := sha384 (bytesAt r 0 (imgBodyLen r))
  let d := (d.setReg Reg.IMG_VERSION (BitVec.ofNat 32 i.imgVer)).setReg64 Reg.IMG_HASH_LO (leAt h 0 8)
  let d := (d.setDeltaSeq 0).setRegF Reg.IMG_STATUS 0 0 (b2n (imgCsig r))
  { d with img := { d.img with lock := true } }.setRegF Reg.IMG_STATUS 8 8 1

/-! ### Replay (R67) -/

/-- Why a journalled delta fails at its replay. -/
def Dev.replayFails (d : Dev) (e : JournalEntry) : Except Status DeltaForm :=
  match deltaForm e.bytes d.img.raw, d.img.img with
  | some x, some i =>
    if !x.stillRightful i then .error .denied
    else if x.base ≠ i.imgVer then .error .state
    else match d.deltaImageFails (x.apply d.img.raw) with
      | some st => .error st
      | none => .ok x
  | _, _ => .error .integrity

/-- The journal in SEQ order, a VOLATILE delta passed over; at the first delta that fails it and all later ones are removed, each removal recorded. -/
def Dev.replay (d : Dev) : List JournalEntry → Dev
  | [] => d
  | e :: t =>
    if (deltaForm e.bytes d.img.raw).any fun x => x.vol then d.replay t
    else match d.replayFails e with
    | .ok x => ((d.runImage (x.apply d.img.raw)).setDeltaSeq e.seq).replay t
    | .error st =>
      let c := d.copy d.img.active
      let keep := c.journal.take (c.journal.length - (t.length + 1))
      (e :: t).foldl (fun d x => d.audit 3 5 0xFF 0 0xFF st.code 0x23 (leBytes 4 x.seq)) (d.setCopy d.img.active { c with journal := keep })

/-! ### IMAGE_APPLY (R59 to R61) -/

/-- A copy fails: BAD, with the BOOT record of a failed copy (R61, 18 R581). -/
def Dev.copyFails (d : Dev) (b : Bool) (stage : Nat) (st : Status) : Dev :=
  let c := d.copy b
  ((d.setCopy b { c with st := .bad, launch := false }).setRegF Reg.IMG_STATUS 4 4 1).audit 3 5 0xFF 0 0xFF st.code 0
    (leBytes 1 (b2n b) ++ leBytes 4 c.seq ++ leBytes 1 stage)

/-- Whether a copy may be chosen. -/
def ImgCopy.usable (c : ImgCopy) : Bool := c.st == .new || c.st == .good

/-- A copy whose LAUNCH marker is still set was made BAD by a reset (R61). -/
def Dev.launchCheck (d : Dev) (b : Bool) : Dev :=
  if (d.copy b).launch && (d.copy b).usable then d.copyFails b 4 .flushed else d

/-- Whether B comes before A: the higher sequence number, then GOOD before NEW, then A (R61). -/
def Dev.firstB (d : Dev) : Bool :=
  let a := d.img.copyA
  let b := d.img.copyB
  b.usable && (!a.usable || decide (a.seq < b.seq) || (a.seq == b.seq && b.st == .good && a.st == .new))

/-- Copies are tried in order until one is committed and its journal replayed; with none left the device enters SAFE
(R59, R61). -/
def Dev.tryCopies (d : Dev) (va vb : ImgVerdict) : List Bool → Dev
  | [] => d.enterSafe .boot
  | b :: t =>
    let c := d.copy b
    if !c.usable then d.tryCopies va vb t
    else match d.imageFails (if b then vb else va) c.bytes with
      | some (stage, st) =>
        let d := if stage = 2 then d.auditStraps (decodeImage c.bytes) else d
        (d.copyFails b stage st).tryCopies va vb t
      | none =>
        let d := { d.setCopy b { c with launch := true } with img := { (d.setCopy b { c with launch := true }).img with active := b } }
        let d := (d.setRegF Reg.IMG_STATUS 1 1 (b2n b)).commitImage c.bytes
        let d := d.replay c.journal
        let i := decodeImage c.bytes
        let d := d.endSession fun s => s.recovery
        { d with boot := { d.boot with image := true, toRelease := (List.range 16).filter fun s => i.skeins.any fun c => c.skein == s } }

/-- Whether the steps before image application have been done: links and DRAM, which a Thaw does after it (18 R559, 17
R546). -/
def Dev.mayApply (d : Dev) : Bool :=
  let b := d.boot
  b.kind != 0 && !b.image && !d.safe && (b.kind == 3 || (b.links && b.dram))

/-- IMAGE_APPLY: a cold boot chooses by R61, a PACKAGE reset and a Thaw the copy that was active (18 R562, 17 R546). -/
def execImageApply (va vb : ImgVerdict) (s : State) : Host.Outcome State Fault Refusal :=
  onDev s fun d =>
    if !d.mayApply then d
    else
      let d := ((d.setImgUnit .verifying).launchCheck false).launchCheck true
      let first := if d.boot.pick then d.firstB else d.img.active
      d.tryCopies va vb [first, !first]

/-! ### A takeover (18 R554) -/

/-- Work in progress at a lockstep mismatch: commands not yet answered are answered FLUSHED; a delta not yet committed is
dropped. The spare pair, which holds no state, starts at its warm entry (log entry 58). -/
def Dev.takeover (d : Dev) : Dev :=
  let d := d.answerAll .flushed
  let d := (List.range 16).foldl (fun d s =>
    if d.regF (Reg.DST_MBX_CTL s) 17 16 = 1 then d.mbxReply s (d.regF (Reg.DST_MBX_REQ s 0) 15 0) .flushed [] else d) d
  let d := if d.img.unit = .staging then d.setImgUnit .committed else d
  (d.updDst fun x => { x with tka := [] }).dropDelta

/-- LOCKSTEP_MISMATCH: the spare pair takes over, or there is none left (16 R502, R519, 18 R554). -/
def execLockstepMismatch (s : State) : Host.Outcome State Fault Refusal :=
  onDev s fun d =>
    if d.rel.pairUsed then d.enterSafe .distaff
    else
      let d := ((d.updRel fun r => { r with pairUsed := true }).setRegF Reg.DST_STATUS 4 4 0).setRegF Reg.DST_STATUS 3 3 (1 - d.regF Reg.DST_STATUS 3 3)
      (d.useBudget 6 1).takeover

end Sys2Proof.Machine
end

