-- ==== Sys2Proof/Machine/Boot.lean ====
section
/-! DEFINITION. Starts and resets (18 R556 to R565, 16 R523, 17 R544 to R547, 20 R601): what each reset keeps, COLD and
PACKAGE starts, Thaw, the release of skeins, SKEIN and CORE resets, the RESET command, the watchdogs, package OFF, and the
reference clocks. -/
namespace Sys2Proof.Machine

/-! ### What outlasts a start -/

/-- Distaff after a start: fuses and boot flash stay, and the SRAM ring where its check holds (R556, R557, R562). -/
def Distaff.restart (x : Distaff) (ring : Bool) : Distaff :=
  { Distaff.reset with
    dieSerial := x.dieSerial, slots := x.slots, fwFloor := x.fwFloor, imgFloor := x.imgFloor, fw := x.fw, loaders := x.loaders,
    aseq := x.aseq, ring := if ring then x.ring else [], flash := x.flash,
    lastRec := if ring then x.lastRec else (match x.flash.getLast? with | some r => r.bytes | none => []),
    flashReel := x.flashReel, flashRetired := x.flashRetired, makerHash := x.makerHash, deviceKey := x.deviceKey }

/-- The reel state as boot flash holds it (16 R501, R506); the spares are as they stood, and an image settles them anew (01 R28,
02 R46). -/
def Rel.restart (r : Rel) (x : Distaff) : Rel :=
  { Rel.reset with retired := x.flashRetired, standIn := x.flashReel, spares := r.spares, rows := r.rows, told := r.told, pairUsed := r.pairUsed, distRows := r.distRows }

/-- Caches and directories after a start: what is retired stays so; every entry is I (11 R368, 16 R501). -/
def Coh.restart (c : Coh) : Coh :=
  { Coh.reset with deadSpindles := c.deadSpindles, l3Retired := c.l3Retired, l3Spare := c.l3Spare, hcRetired := c.hcRetired, dirRetired := c.dirRetired }

/-- A memory controller after a start: rows to repair are recorded (13 R414). -/
def DramCh.restart (c : DramCh) : DramCh :=
  { DramCh.reset with soft := c.soft, deferred := c.deferred, softRes := c.softRes, hardRes := c.hardRes, hardUsed := c.hardUsed, gib := c.gib }

/-- Bundles after a start: a retired one stays so; PE_PERST_N of an endpoint is its host's. -/
def Dev.restartBundles (d : Dev) : List (Nat × Bundle) :=
  d.bundles.foldl (fun t (e : Nat × Bundle) => mset Bundle.reset t e.1 { Bundle.reset with retired := e.2.retired, perst := e.2.perst && d.bundleMode e.1 == 2 }) []

/-- The image unit after a start: the copies in boot flash, and which of them was in force. -/
def ImgState.restart (x : ImgState) : ImgState := { ImgState.reset with copyA := x.copyA, copyB := x.copyB, active := x.active }

/-- Registers whole that hold retirements, which survive every reset (16 R501), and budgets (16 R504). -/
def keptRegs : List Nat :=
  ((List.range 16).flatMap fun i => [Reg.CCH_L3_SPARE i, Reg.D2D_REPAIR i, Reg.D2D_HUB_REPAIR i]) ++
  ((List.range 13).flatMap fun k => [Reg.RL_BUDGET_TOTAL k, Reg.RL_BUDGET_USED k]) ++
  [Reg.RL_GUARD0, Reg.RL_GUARD1, Reg.RL_GUARD_HUB, Reg.BQ_PIPE_MAP]

/-- Registers that a PACKAGE reset keeps: those of R563, the state of the timebase, what the DIMMs gave, and three of which the
chapter itself says that they last from one COLD reset to the next: MC_MARK (13 R411), MC_ECC_LAST (13 R430) and TB_CAP_COUNT
(20 R609). Every other field goes to its Reset value (00 R11; DEDUCED, log entry 26). -/
def packageRegs : List Nat :=
  [Reg.RL_SAFE_CAUSE, Reg.RL_SAFE_TIME_LO, Reg.RL_SAFE_TIME_HI, Reg.SEC_SWDOG_LAST, Reg.TB_STATUS] ++
  ((List.range 4).map fun k => Reg.TB_CAP_COUNT k) ++
  ((List.range 16).flatMap fun m => [Reg.MC_MARK m, Reg.MC_ECC_LAST_LO m, Reg.MC_ECC_LAST_HI m, Reg.MC_CFG m])

/-- Some registers take the values they hold in another state. -/
def Dev.copyRegs (d old : Dev) (as_ : List Nat) : Dev := as_.foldl (fun d a => d.setReg a (old.reg a)) d

/-- A field takes the value it holds in another state. -/
def Dev.copyField (d old : Dev) (a hi lo : Nat) : Dev := d.setRegF a hi lo (old.regF a hi lo)

/-- MESH_ORIENT of a die: strap, and the compass directions of ports A and B by the transform of 12 R377. -/
def orientOf (site : Nat) : Nat :=
  let s := Config.strap site
  let m := s.testBit 2
  let rot := s % 4
  let b := ((if m then 3 else 1) + rot) % 4
  let a := ((if m then 1 else 3) + rot) % 4
  s * 2 ^ 8 + a * 2 ^ 6 + b * 2 ^ 4 + b2n ([0, 1, 6, 7, 8, 9, 14, 15].contains site)

/-- Fields that hardware sets from the package and from retired units. -/
def Dev.fixedFields (d old : Dev) : Dev :=
  let d := (List.range 16).foldl (fun d i => d.setReg (Reg.MESH_ORIENT i) (BitVec.ofNat 32 (orientOf i))) d
  let d := d.copyField old Reg.BQ_STATUS 11 8
  let d := (d.copyField old Reg.DST_STATUS 4 4).copyField old Reg.DST_STATUS 3 3
  let dead := old.regF Reg.CCH_DEAD 15 0
  let d := (d.setRegF Reg.CCH_DEAD 15 0 dead).setRegF Reg.MESH_HUB_ISO 15 0 dead
  let d := d.setReg64 Reg.DST_AUDIT_SEQ_LO d.dst.aseq
  ((d.setCopy false d.img.copyA).setCopy true d.img.copyB).showSpares

/-- The part without power or just after a start, with what survives the loss of power: fuses, boot flash, retirements. -/
def Dev.restart (d : Dev) (ring : Bool) : Dev :=
  let n : Dev := { Dev.reset with
    now := d.now
    freeCtr := d.freeCtr
    out := d.out
    coh := d.coh.restart
    img := d.img.restart
    bq := { Bq.reset with ctxRetired := d.bq.ctxRetired }
    bundles := d.restartBundles
    hank := { Hank.reset with gone := d.hank.gone }
    dst := d.dst.restart ring
    dram := d.dram.foldl (fun t (e : Nat × DramCh) => mset DramCh.reset t e.1 e.2.restart) []
    rel := d.rel.restart d.dst
    links := { Links.reset with modOut := d.links.modOut }
    pwr := { Pwr.reset with ref25Lost := d.pwr.ref25Lost } }
  (n.copyRegs d keptRegs).fixedFields d

/-- DRAM with what its arrays hold: lines whose newest bytes lay in a cache go back to their old contents (11 R368). -/
def Mem.uncached (m : Mem) (lost : Nat → Bool) : Mem :=
  m.stale.foldl (fun m (e : Nat × Option StaleLine) =>
    match e.2 with
    | none => m
    | some x => { m with
        bytes := putCells m.bytes (cellsAt (e.1 * 64) x.old), poison := mset false m.poison e.1 (x.oldPoison != lost e.1) }) { m with stale := [] }

/-- A start that keeps DRAM: PACKAGE and Thaw (R562, R563, 17 R546). -/
def Dev.restartWarm (d : Dev) (ring : Bool) : Dev :=
  let d := (List.range 16).foldl (fun d m => if (d.ch m).off = [] then d else d.fillOff m) d
  let n := (d.restart ring).copyRegs d packageRegs
  let n := (List.range 16).foldl (fun n m => n.copyRegs d (d.delayRegs m)) n
  { n with mem := d.mem.uncached d.rankLost, latch := d.latch, pwr := { n.pwr with pwrok := d.pwr.pwrok, capLast := d.pwr.capLast } }

/-! ### Firmware and DIMMs (R558, 13 R402) -/

/-- The firmware that the ROM starts: the valid copy of the higher version, F0 where they are equal (log entry 45); none
drives the device into SAFE with cause BOOT. -/
def Dev.startFw (d : Dev) (b : BootInputs) : Dev :=
  let good (f : FwCheck) : Bool := f.ok && decide (d.dst.fwFloor ≤ f.version)
  let d := d.updDst fun x =>
    let put (m : List (Nat × FwCopy)) (k : Nat) (f : FwCheck) : List (Nat × FwCopy) := mupd FwCopy.blank m k fun c => { c with valid := f.ok, version := f.version }
    { x with fw := put (put x.fw 0 b.f0) 1 b.f1 }
  let pick : Option (Nat × Nat) :=
    if good b.f1 && (!good b.f0 || decide (b.f0.version < b.f1.version)) then some (1, b.f1.version)
    else if good b.f0 then some (0, b.f0.version) else none
  match pick with
  | some (k, v) => ((d.updDst fun x => { x with fwRun := some v }).setReg Reg.DST_ID (BitVec.ofNat 32 v)).setRegF Reg.DST_STATUS 2 2 k
  | none => d.enterSafe .boot

/-- Whether a channel's DIMMs are of a kind that the part supports (13 R401). -/
def spdSupported (c : SpdChannel) : Bool :=
  c.registered && c.x4 && c.ecc && (c.densityGb == 16 || c.densityGb == 32) && (c.stack == 1 || c.stack == 2 || c.stack == 4) &&
  decide (1 ≤ c.dimms.val) && decide (1 ≤ c.ranksPerDimm.val) && decide (16 ≤ c.gibPerDimm) && decide (c.gibPerDimm ≤ 256) &&
  (c.rate == 48 || c.rate == 56 || c.rate == 64)

/-- Whether two channels hold the same population (13 R402). -/
def spdSame (a b : SpdChannel) : Bool :=
  a.dimms == b.dimms && a.gibPerDimm == b.gibPerDimm && a.ranksPerDimm == b.ranksPerDimm && a.densityGb == b.densityGb && a.stack == b.stack && a.rate == b.rate

/-- The channels whose population is refused: unsupported, or another than channel 0's (13 R402; log entry 46). -/
def badChannels (spd : List SpdChannel) : List Nat :=
  (List.range 16).filter fun m => match spd[m]?, spd[0]? with
    | some c, some z => !spdSupported c || !spdSame c z
    | _, _ => true

/-- MC_CFG of a channel: the lowest speed that its DIMMs and their number allow (13 R401, R402). -/
def spdCfg (c : SpdChannel) : Nat :=
  let two := c.dimms.val == 2
  b2n (c.densityGb == 32) * 2 ^ 24 + c.stack * 2 ^ 20 + (2 ^ (c.dimms.val * c.ranksPerDimm.val) - 1) * 2 ^ 16 + (if two then min c.rate 56 else c.rate) * 2 ^ 8 +
    b2n two * 4 + c.dimms.val

/-- The sPPR or hPPR resources of a channel, `n` for each bank group of each device (16 R503). -/
def spdResources (c : SpdChannel) (n : Nat) : Nat := c.dimms.val * c.ranksPerDimm.val * 20 * 8 * n

/-- The SPDs are read: the population is programmed, or each offending DIMM is recorded and the device enters SAFE (13
R402). -/
def Dev.readSpd (d : Dev) (b : BootInputs) : Dev :=
  let bad := badChannels b.spd
  if bad ≠ [] then
    let dimms := bad.flatMap fun m => (List.range (max 1 ((b.spd[m]?).elim 0 fun c => c.dimms.val))).map fun i => (m, i)
    (dimms.foldl (fun d (x : Nat × Nat) => d.audit 2 5 0xFF 0 0xFF Status.unsupported.code 0 (leBytes 1 x.1 ++ leBytes 1 x.2)) d).enterSafe .boot
  else
    let d := (List.range 16).foldl (fun d m => match b.spd[m]? with
      | none => d
      | some c =>
        let d := { d with dram := mupd DramCh.reset d.dram m fun x => { x with gib := c.dimms.val * c.gibPerDimm, softRes := c.softResources, hardRes := c.hardResources } }
        (d.setReg (Reg.MC_CFG m) (BitVec.ofNat 32 (spdCfg c))).setRegF (Reg.MC_STATUS m) 2 0 1) d
    { d with mem := { d.mem with capGiB := (b.spd.map fun c => c.dimms.val * c.gibPerDimm).sum } }

/-- Budget totals (16 R503); kinds 8 and 9 are read from the DIMMs anew at a COLD reset (16 R504). -/
def Dev.setBudgets (d : Dev) (b : BootInputs) : Dev :=
  let soft := (b.spd.map fun c => spdResources c c.softResources).sum
  let hard := (b.spd.map fun c => spdResources c c.hardResources).sum
  let totals := [64, 448, 215040, 30720, 35840, 6400, 1, 256, soft, hard, (d.reg (Reg.RL_BUDGET_TOTAL 10)).toNat, 126, 4]
  let d := (List.range 13).foldl (fun d k => d.setReg (Reg.RL_BUDGET_TOTAL k) (BitVec.ofNat 32 (totals.getD k 0))) d
  let d := (d.setReg (Reg.RL_BUDGET_USED 8) 0#32).setReg (Reg.RL_BUDGET_USED 9) 0#32
  { d with dram := d.dram.foldl (fun t (e : Nat × DramCh) => mset DramCh.reset t e.1 { e.2 with hardUsed := [] }) [] }

/-- DISCOVER begins on both guest ports (12 R396). -/
def Dev.guestsDiscover (d : Dev) : Dev := (List.range 2).foldl (fun d g => d.gstSet g 1 none) d

/-- A start of a kind begins: 1 COLD, 2 PACKAGE, 3 Thaw. The incarnation of 15 R474 comes from the random source. -/
def Dev.begin_ (d : Dev) (kind : Nat) (pick : Bool) (b : BootInputs) : Dev :=
  let d := { d with boot := { Boot.reset with kind := kind, spd := b.spd, incarn := b.incarn, began := d.now, pick := pick } }
  (d.setReg Reg.HNK_INCARN b.incarn).startFw b

/-- The steps of R559 up to the die links, after the firmware runs. -/
def Dev.beginSteps (d : Dev) (b : BootInputs) : Dev := if d.safe then d else (d.readSpd b).guestsDiscover

/-! ### PWROK, package OFF and Thaw (20 R601, 17 R544 to R547) -/

/-- A COLD reset (R559): the timebase starts at 0; DRAM holds nothing of the past. -/
def Dev.coldStart (d : Dev) (b : BootInputs) : Dev :=
  let n := d.restart false
  let n := { n with now := 0, mem := Mem.reset, pwr := { n.pwr with pwrok := true } }
  let n := (n.setRegF Reg.TB_STATUS 0 0 (b2n (!n.pwr.ref25Lost))).setBudgets b
  (n.begin_ 1 true b).beginSteps b

/-- A Thaw at its step 3 (17 R546): the delays kept are put back at DRAM training. -/
def Dev.thawStart (d : Dev) (b : BootInputs) : Dev :=
  let d := { d with pwr := { d.pwr with pwrok := true, thaw := false } }
  let d := (List.range 16).foldl (fun d m => d.setRegF (Reg.MC_STATUS m) 2 0 5) d
  d.begin_ 3 false b

/-- PWROK_RISE (20 R601). -/
def execPwrokRise (boot : BootInputs) (s : State) : Host.Outcome State Fault Refusal :=
  onDev s fun d => if d.pwr.pwrok then d else if d.pwr.thaw then d.thawStart boot else d.coldStart boot

/-- PWROK_FALL: expected once RAILOFF_N has gone low; otherwise power is lost, and DRAM with it (20 R601; what DRAM then
reads as, log entry 3). -/
def execPwrokFall (s : State) : Host.Outcome State Fault Refusal :=
  onDev s fun d =>
    if !d.pwr.pwrok then d
    else if d.pwr.railOff || d.pwr.thaw then { d with pwr := { d.pwr with pwrok := false } }
    else d.restart false

/-- Whether a package OFF request is BUSY: a reel, an image command, a way power-down or an APPLY (17 R544). -/
def Dev.offBusy (d : Dev) : Bool :=
  !d.rel.reels.isEmpty || !d.rel.due.isEmpty || d.img.unit == .staging || d.img.unit == .delta || d.img.unit == .verifying ||
  (d.coh.wayUnits.any fun (e : Nat × WayUnit) => e.2.cleaning) || (List.range 16).any fun m => d.regF (Reg.MC_TRAIN_STATUS m) 0 0 == 1

/-- Whether every LCN of every skein stands in OFF. -/
def Dev.allOff (d : Dev) : Bool :=
  (List.range 384).all fun l => (d.skeinOf l).isNone || ((d.domOf l).st == .off && !(d.domOf l).transit)

/-- The live delay values of every channel (17 R544 step 3). -/
def Dev.liveDelays (d : Dev) : List (Nat × Reg32) := (List.range 16).flatMap fun m => (d.delayRegs m).map fun a => (a, d.reg a)

/-- Package OFF is entered: links go down, caches are written back, channels enter their mode, the reel state and an audit
record reach boot flash, and RAILOFF_N is driven low (17 R544). -/
def Dev.packageOff (d : Dev) : Dev :=
  let d := (d.answerAll .flushed).hankSafe
  let d := { d with mem := { d.mem with stale := [] } }
  let d := (List.range 16).foldl (fun d m => if d.mcState m = 2 then d.channelDown m else d) d
  let keep := d.liveDelays
  let off := d.dram.map fun (e : Nat × DramCh) => (e.1, e.2.off)
  let d := (d.updDst fun x => { x with flashReel := d.rel.standIn, flashRetired := d.rel.retired }).audit 2 5 0xFF 0 0xFF 0 0 []
  let d := d.updDst fun x => { x with flash := x.flash ++ x.ring, ring := [] }
  let n := (d.restart true).copyRegs d packageRegs
  { n with
    mem := d.mem
    latch := d.latch
    dram := n.dram.map fun (e : Nat × DramCh) => (e.1, { e.2 with off := (off.find? fun (x : Nat × List Nat) => x.1 == e.1).elim [] (·.2) })
    pwr := { n.pwr with pwrok := true, railOff := true, keepStore := keep } }

/-- A request with KIND PACKAGE, in the order DENIED, STATE, RANGE, BUSY and the refuser IMAGE_FORBIDS (17 R531 to R534,
R544). -/
def Dev.pwrPackage (d : Dev) (q : PwrFrom) (index target : Nat) : Dev × Option Status :=
  let ans (st : Status) : Dev × Option Status :=
    ((if st = .state then d.count Reg.PWR_STATE_REJECT else d).pwrResult q.lcn st 0 (match q with | .core l => d.selfHeld l | .dst => 0), some st)
  if !d.mayRequest q 4 index then ans .denied
  else if d.safe then ans .halted
  else if target = 0 ∨ !d.allOff then ans .state
  else if index ≠ 0 ∨ target ≠ 4 then ans .range
  else if d.offBusy then ans .busy
  else if !d.powerAllows 0xFF .off then
    ((d.count (Reg.PWR_DOM_REFUSED 408)).pwrLast 408 .denied 7 .off, some .denied)
  else (d.packageOff, some .ok)

/-- PWR_REQ with KIND PACKAGE, which Distaff alone may name (17 R531, R544). -/
def execPwrReqPackage (q : Requester) (target : BitVec 3) (s : State) : Host.Outcome State Fault Refusal :=
  onDev s fun d => match pwrFrom q with
    | some f => (d.pwrPackage f 0 target.toNat).1
    | none => d

/-- PWR_REQUEST: an operator with the power right or the installer, through Distaff (R574, 17 R531). Its answer to a package
OFF that is admitted goes out before entry. -/
def execPwrRequest (caller : Caller) (kind index : Nat) (target : BitVec 3) (s : State) : Host.Outcome State Fault Refusal :=
  onDev s fun d =>
    let target := target.toNat
    let arg := leBytes 1 kind ++ leBytes 2 index ++ leBytes 1 target
    let d1 := d.serve caller (runCmd 0x40) (right 0) arg fun d =>
      if kind = 0 then d.ends .ok
      else if kind = 4 then
        let r := d.pwrPackage .dst index target
        if r.2 = some .ok then ⟨{ d with pwr := { d.pwr with railOff := true } }, some .ok, []⟩ else ⟨r.1, r.2, []⟩
      else let r := d.pwrReq .dst kind index target; ⟨r.1, r.2, []⟩
    if d1.pwr.railOff && !d.pwr.railOff then { d1 with pwr := { d1.pwr with railOff := false } }.packageOff else d1

/-- TKWAKE_N held low for 10 µs: in package OFF the wake logic drives RAILOFF_N high (17 R546). -/
def execTkwakeN (s : State) : Host.Outcome State Fault Refusal :=
  onDev s fun d =>
    if d.pwr.railOff then { d with now := d.now + 10000, pwr := { d.pwr with railOff := false, thaw := true } } else d

/-- VAON_LOSS: the always-on island holds no package OFF state any more (20 R601). -/
def execVaonLoss (s : State) : Host.Outcome State Fault Refusal :=
  onDev s fun d =>
    if d.pwr.railOff || d.pwr.thaw then { d with pwr := { d.pwr with railOff := false, thaw := false, keepStore := [], pwrok := false } } else d

/-! ### Release (R560, R561) -/

/-- The LCNs of a skein that some spindle carries. -/
def Dev.lcnsOf (d : Dev) (c : SkeinCfg) : List Nat :=
  (setBits 384 c.lcnMask).filter fun l => !mget false d.lost l && (mget none d.spindleOf l).isSome

/-- The loader of a skein, if it passes its checks (R560). -/
def Dev.loaderOf (d : Dev) (sk : Nat) : Option (List Byte) :=
  match d.dst.loaders.find? fun (e : Nat × (List Byte × Bool)) => e.1 == sk with
  | some (_, body, ok) => if ok && decide (body.length ≤ 1048416) then some body else none
  | none => none

/-- A skein's loader is copied and its LCNs start, with the vectors that a reset owes them (10 R335); a loader that fails leaves the skein unreleased, on the record (R560,
R561). -/
def Dev.release (d : Dev) (c : SkeinCfg) : Dev :=
  match d.loaderOf c.skein with
  | none => d.audit 3 5 0xFF 0 c.skein Status.integrity.code 0 (leBytes 1 c.skein)
  | some body =>
    let d := d.hubWriteAll 22 c.lowBase body
    let d := d.setRegF (Reg.RL_SK_NOTICE c.skein) 8 0 ((setBits 384 c.lcnMask).headD 0)
    (d.lcnsOf c).foldl (fun d l =>
      let d := d.updCore l fun k => { Core.released_ c body.length with nextTid := k.nextTid, devOut := k.devOut }
      let d := if (d.domOf l).st = .run ∧ !(d.domOf l).transit then d else d.setDom l ⟨.run, false, .run, d.now, false, none⟩
      (if (d.port l).st = .opened then d else d.openPort l).payOwed l) d

/-- Every skein is released: the copy is GOOD, the unit COMMITTED, Distaff in RUN, with the BOOT record (R559 step 11,
R581, 02 R61). -/
def Dev.started (d : Dev) : Dev :=
  let c := d.copy d.img.active
  let d := d.setCopy d.img.active { c with st := if c.st = .new then .good else c.st, launch := false }
  let d := (d.setImgUnit .committed).setDstState 1
  let d := if d.boot.kind = 3 then d.setRegF Reg.PWR_STATUS 8 8 1 else d
  let ver := (d.img.img.map (·.imgVer)).getD 0
  let ms := (d.now - d.boot.began) / 1000000
  let d := d.audit 3 5 0xFF 0 0xFF 0 0 (leBytes 1 (b2n d.img.active) ++ leBytes 4 ver ++ leBytes 4 (d.dst.fwRun.getD 0) ++ leBytes 4 ms)
  { d with boot := { d.boot with kind := 0 } }

/-- SKEIN_RELEASE: once links, DRAM and image are done, the skein is released; the last one completes the start (R559 to
R561). Its secure countdown is loaded (08 R272). -/
def execSkeinRelease (sk : Fin 16) (s : State) : Host.Outcome State Fault Refusal :=
  onDev s fun d =>
    match d.skeinCfg sk.val with
    | none => d
    | some c =>
      if d.boot.kind = 0 || d.safe || !(d.boot.links && d.boot.dram && d.boot.image) || !d.boot.toRelease.contains sk.val then d
      else
        let d := d.release c
        let d := if c.secure ∧ (d.loaderOf sk.val).isSome then
            d.updWd sk.val fun w => { w with sDeadline := some (d.now + (match d.img.img with | some i => i.swdogMs | none => 0) * 1000000) }
          else d
        let d := { d with boot := { d.boot with toRelease := d.boot.toRelease.filter fun x => x != sk.val } }
        if d.boot.toRelease = [] then d.started else d

/-! ### PACKAGE, SKEIN and CORE resets (R562 to R565) -/

/-- A reset falls due: scope 0 PACKAGE, 1 SKEIN, 2 CORE. -/
def Dev.orderReset (d : Dev) (scope target : Nat) : Dev :=
  if d.boot.resets.contains (scope, target) then d else { d with boot := { d.boot with resets := d.boot.resets ++ [(scope, target)] } }

/-- The DEVICE stores to memory that an LCN has issued are performed before the interconnect is reset; what it has issued to
other targets is refused (10 R335 step 3; log entry 48). -/
def Dev.landIssued (d : Dev) (l : Nat) : Dev :=
  (d.core l).devOut.foldl (fun d r =>
    if r.write && r.answer.isNone && placeOf r.pa == .dram && !d.poisoned (r.pa / 64) && (d.lineAnswer (r.pa / 64)) == .ok then
      d.ncWrite l (cellsAt r.pa (leBytes r.size r.data))
    else d) d

/-- PACKAGE_RESET: commands in progress end with FLUSHED, store buffers drain as far as they can, and the part starts again with
DRAM kept; what the buffers still held is recorded, and the vectors due for it become pending at release (R562 to R564, 10 R335).
The copy in force is applied again; none was in force where no image ran. -/
def Dev.packageReset (d : Dev) (b : BootInputs) : Dev :=
  let d := d.answerAll .flushed
  let ls := (d.cores.map fun (e : Nat × Core) => e.1).filter fun l => (d.core l).released
  let d := (ls.foldl Dev.drain d) |> ls.foldl Dev.landIssued
  let lost := ls.filterMap fun l => (d.discardOf l).map fun (x : Event × Bool) => (l, x)
  let pick := d.img.img.isNone
  let d := (d.restartWarm b.ringOk).begin_ 2 pick b
  let d := lost.foldl (fun d (x : Nat × Event × Bool) => (d.recordAs x.2.2 x.2.1).oweCheck x.1 x.2.2) d
  d.beginSteps b

/-- PACKAGE_RESET, where one is due. -/
def execPackageReset (boot : BootInputs) (s : State) : Host.Outcome State Fault Refusal :=
  onDev s fun d => if d.boot.resets.contains (0, 0) then d.packageReset boot else d

/-- The registers of a mailbox group at their Reset values (R584). -/
def Dev.mbxGroupReset (d : Dev) (sk : Nat) : Dev :=
  let lo := Reg.DST_MBX_REQ sk 0
  { d with regs := d.regs.filter fun (e : Nat × Reg32) => !(decide (lo ≤ e.1) && decide (e.1 < lo + 0x400)) }.endSession fun s => s.line == 257 + sk

/-- The root-port bundles of a skein get a hot reset and return to DOWN (R563, 14 R439). -/
def Dev.rootHotReset (d : Dev) (b : Nat) : Dev := (d.linkGone b).setPceState b (if (d.bun b).retired then d.pceState b else 0)

/-- The endpoint functions of a skein are reset: the PF where the skein owns it, else its VFs (R563). -/
def Dev.functionsReset (d : Dev) (sk : Nat) : Dev :=
  (List.range 8).foldl (fun d b =>
    if d.bundleMode b ≠ 2 then d
    else if d.fnSkein b 0 = some sk then d.pfReset b
    else (((d.vfsOf sk).map fun (e : Nat × Fn) => e.1).filter fun k => k / 2048 == b && (d.fn k).vst != .absent).foldl (fun d k => d.flrStart k) d) d

/-- A SKEIN reset: LCNs, queues, functions, root ports, mailbox and the EN of the normal watchdog; then the skein is released
afresh (R563, R584, 08 R272, R273, R276). As a reset of any type it discards a delta that is not committed (02 R66). -/
def Dev.skeinReset (d : Dev) (c : SkeinCfg) : Dev :=
  let d := (setBits 384 c.lcnMask).foldl (fun d l =>
    if (d.core l).released then (d.coreClear l c).updCore l fun k => { k with released := false } else d) d.dropDelta
  let d := (d.functionsReset c.skein).queuesReset c
  let d := (setBits 8 c.bundles).foldl (fun d b => if d.bundleMode b = 1 then d.rootHotReset b else d) d
  ((d.mbxGroupReset c.skein).updWd c.skein fun w => { w with en := false }).release c

/-- Whether no reel of an LCN of a skein is in progress or due (R564). -/
def Dev.reelsDone (d : Dev) (c : SkeinCfg) : Bool :=
  (setBits 384 c.lcnMask).all fun l => !mget false d.reeling l

/-- A reset is no longer due. -/
def Dev.resetDone (d : Dev) (scope target : Nat) : Dev :=
  { d with boot := { d.boot with resets := d.boot.resets.filter fun (x : Nat × Nat) => x != (scope, target) } }

/-- SKEIN_RESET, where one is due and every reel of the skein has ended (R563, R564). -/
def execSkeinReset (sk : Fin 16) (s : State) : Host.Outcome State Fault Refusal :=
  onDev s fun d =>
    match d.skeinCfg sk.val with
    | none => d
    | some c => if d.boot.resets.contains (1, sk.val) && d.reelsDone c && !d.safe then (d.skeinReset c).resetDone 1 sk.val else d

/-- CORE_RESET, where one is due and every reel of its skein has ended; the LCN's island runs again (R563, R564, 10 R335, 02
R66). -/
def execCoreReset (l : Fin 384) (s : State) : Host.Outcome State Fault Refusal :=
  onDev s fun d =>
    match d.cfgOf l.val with
    | none => d
    | some c =>
      if d.boot.resets.contains (2, l.val) && d.reelsDone c && !d.safe then
        let d := (if (d.core l.val).released then d.dropDelta.coreReset l.val else d.dropDelta).resetDone 2 l.val
        let x := d.domOf l.val
        if (x.st = .run ∧ !x.transit) ∨ mget false d.lost l.val then d
        else (d.setDom l.val ⟨.run, false, .run, d.now, false, none⟩).openPort l.val
      else d

/-- Whether a caller may order a SKEIN or CORE reset of a skein (R565): a role with the power right, or a core of the skein
itself through its mailbox, at SK where the skein is SECURE. -/
def mayReset (who : Caller) (c : SkeinCfg) (s : Option Session) : Bool :=
  match who with
  | .mbx m sec _ _ =>
    if m.val = c.skein ∧ c.secure then sec
    else if sec ∨ !c.secure then m.val == c.skein || right 0 s else false
  | _ => right 0 s

/-- The skein a RESET names. -/
def Dev.resetSkein (d : Dev) (kind index : Nat) : Option SkeinCfg :=
  if kind = 1 then d.skeinCfg index else if kind = 2 then d.cfgOf index else none

/-- RESET: kind 0 PACKAGE, 1 SKEIN, 2 CORE (R565). In SAFE a PACKAGE reset is ordered over Almanac or MCTP, but not for cause
THERMAL (16 R523). A reset of a skein during another of the same skein is BUSY (R564). -/
def execResetCmd (caller : Caller) (kind index : Nat) (s : State) : Host.Outcome State Fault Refusal :=
  onDev s fun d =>
    let sk := d.resetSkein kind index
    let may (x : Option Session) : Bool := match kind, sk with
      | 0, _ => right 0 x
      | _, some c => mayReset caller c x
      | _, none => true
    let own : Bool := match sk with | some c => mayReset caller c none | none => false
    let c : Cmd := ⟨0x41, kind != 0 && own, kind != 0 && own, kind == 0, false, true⟩
    d.serve caller c may (leBytes 1 kind ++ leBytes 2 index) fun d =>
      if kind = 0 then
        if d.safe ∧ (257 ≤ callerLine caller ∨ d.boot.safeBy = some .thermal ∨ d.boot.swdogDue.isSome) then d.ends .halted
        else if d.boot.resets.contains (0, 0) then d.ends .busy
        else (d.orderReset 0 0).ends .ok
      else if d.safe then d.ends .halted
      else if 2 < kind then d.ends .range
      else match sk with
        | none => d.ends .range
        | some c =>
          let busy := d.boot.resets.any fun (x : Nat × Nat) => (x.1 == 1 && x.2 == c.skein) || (x.1 == 2 && c.lcnMask.testBit x.2)
          if kind = 2 ∧ mget false d.lost index then d.ends .state
          else if busy then d.ends .busy
          else (d.orderReset kind index).ends .ok

/-! ### Watchdogs (08 R272, R273) -/

/-- SWDOG_EXPIRE: a secure countdown reaches zero: SAFE, recorded, and a PACKAGE reset 100 ms later (08 R272). -/
def execSwdogExpire (sk : Fin 16) (s : State) : Host.Outcome State Fault Refusal :=
  onDev s fun d =>
    match (d.wd sk.val).sDeadline with
    | none => d
    | some t =>
      let d := (d.timeTo t).updWd sk.val fun w => { w with sDeadline := none }
      let n := d.regF Reg.SEC_SWDOG_LAST 15 0
      let d := (d.setRegF Reg.SEC_SWDOG_LAST 23 16 sk.val).setRegF Reg.SEC_SWDOG_LAST 15 0 (min 0xFFFF (n + 1))
      (d.enterSafe (.swdog sk)).audit 2 5 0xFF 0 sk.val 0 0 (leBytes 1 sk.val)

/-- SWDOG_PACKAGE_RESET: 100 ms after that SAFE entry (08 R272, 16 R523). -/
def execSwdogPackageReset (_sk : Fin 16) (s : State) : Host.Outcome State Fault Refusal :=
  onDev s fun d =>
    match d.boot.swdogDue with
    | none => d
    | some t => (d.timeTo t).orderReset 0 0

/-- NDOG_WARN: the first expiry makes 0xF8 pending at TARGET and starts a second period (08 R273). -/
def execNdogWarn (sk : Fin 16) (s : State) : Host.Outcome State Fault Refusal :=
  onDev s fun d =>
    let w := d.wd sk.val
    if !d.hasNdog sk.val || !w.en || w.warned || d.safe then d
    else
      let d := d.timeTo w.nDeadline
      (d.updWd sk.val fun w => { w with warned := true, nDeadline := d.now + w.inForce * 1000000 }).raiseLocal w.target.toNat 0xF8

/-- NDOG_EXPIRE: the second expiry without service orders a SKEIN reset, which is recorded (08 R273). -/
def execNdogExpire (sk : Fin 16) (s : State) : Host.Outcome State Fault Refusal :=
  onDev s fun d =>
    let w := d.wd sk.val
    if !d.hasNdog sk.val || !w.en || !w.warned || d.safe || d.boot.resets.contains (1, sk.val) then d
    else ((d.timeTo w.nDeadline).orderReset 1 sk.val).audit 2 5 0xFF 0 sk.val 0 0 (leBytes 1 sk.val)

/-! ### Reference clocks (08 R269, 17 R545, R550) -/

/-- REFCLK25_LOSS: the timebase holds over, LOCKED is cleared, and Distaff records it where it has power. -/
def execRefclk25Loss (s : State) : Host.Outcome State Fault Refusal :=
  onDev s fun d =>
    if d.pwr.ref25Lost then d
    else
      let d := { d with pwr := { d.pwr with ref25Lost := true } }.setRegF Reg.TB_STATUS 0 0 0
      if d.distaffUp then d.audit 2 5 0xFF 0 0xFF 0 0 [] else d

/-- REFCLK25_RESTORE: the timebase counts from the reference again. -/
def execRefclk25Restore (s : State) : Host.Outcome State Fault Refusal :=
  onDev s fun d =>
    let d := { d with pwr := { d.pwr with ref25Lost := false } }
    if d.pwr.pwrok || d.pwr.railOff || d.pwr.thaw then d.setRegF Reg.TB_STATUS 0 0 1 else d

/-- REFCLK100_LOSS: a PLL loses lock: SAFE with cause SPARES (17 R550). -/
def execRefclk100Loss (s : State) : Host.Outcome State Fault Refusal :=
  onDev s fun d => if d.distaffUp then d.enterSafe .spares else d

end Sys2Proof.Machine
end

