-- ==== Sys2Proof/Machine/Branch.lean ====
section
/-! DEFINITION. Branches and jumps (07 R231) and the predictor they train (06 R197, R201). -/
namespace Sys2Proof.Machine

/-- Whether a fetch at the current level and PC is barred (06 R201). -/
def Core.fetchBarred (c : Core) : Bool :=
  (List.range 4).any fun i =>
    let p := mget 0#64 c.pbar i
    bit p 11 && bit p (6 + c.level.bitNo) &&
      (bit p 10 || (decide (field p 63 12 * 4096 ≤ c.pc.toNat) &&
        decide (c.pc.toNat < field p 63 12 * 4096 + 2 ^ field p 5 0)))

/-- The kinds of the target buffer (06 R197): 0 conditional, 1 jump, 2 call, 3 return, 4 indirect. An entry is newest of the 8
ways of its set, by address bits [11:2] (log entry 12). -/
def Predictor.allocate (p : Predictor) (pc target kind : Nat) : Predictor :=
  { p with target := mupd [] p.target (pc / 4 % 1024) fun s => ((pc, target, kind) :: s.filter fun x => x.1 != pc).take 8 }

/-- The history of branches that tagged table t uses: 8, 24, 64 and 160 (06 R197). -/
def tagHistory (t : Nat) : Nat := [8, 24, 64, 160].getD t 160

/-- The place and tag of a branch in tagged table t. -/
def Predictor.hashOf (p : Predictor) (t : Nat) (pc : Word) : Nat × Nat :=
  let h := Config.predHash t pc (p.history &&& BitVec.ofNat 160 (2 ^ tagHistory t - 1))
  (t * 2048 + field h 10 0, field h 20 11)

/-- The counter of the longest matching history, with its table and place (06 R197). -/
def Predictor.provider (p : Predictor) (pc : Word) : Option (Nat × Nat × Nat × Nat) :=
  [3, 2, 1, 0].findSome? fun t =>
    let h := p.hashOf t pc
    match mget none p.tagged h.1 with
    | some (tag, v) => if tag = h.2 then some (t, h.1, tag, v) else none
    | none => none

/-- A tagged entry is updated when its branch resolves; a branch predicted wrong takes an entry in the next longer table,
weak in its direction (06 R197; the allocation is a DESIGN CHOICE, log entry 12). -/
def Predictor.trainTagged (p : Predictor) (pc : Word) (taken : Bool) (base : Nat) : Predictor :=
  let pr := p.provider pc
  let tagged := match pr with
    | some (_, k, tag, v) => mset none p.tagged k (some (tag, if taken then min 7 (v + 1) else v - 1))
    | none => p.tagged
  let guess := match pr with | some (_, _, _, v) => decide (4 ≤ v) | none => decide (2 ≤ base)
  let next := match pr with | some (t, _, _, _) => t + 1 | none => 0
  if guess = taken ∨ 4 ≤ next then { p with tagged := tagged }
  else
    let h := p.hashOf next pc
    { p with tagged := mset none tagged h.1 (some (h.2, if taken then 4 else 3)) }

/-- A conditional branch trains its counters and the history (06 R197). -/
def Core.trainCond (c : Core) (taken : Bool) (target : Word) : Core :=
  if c.fetchBarred then c
  else
    let i := field c.pc 15 2
    let v := mget 1 c.pred.base i
    let p := c.pred.trainTagged c.pc taken v
    let p := { p with base := mset 1 p.base i (if taken then min 3 (v + 1) else v - 1), history := (p.history <<< 1) ||| (if taken then 1#160 else 0#160) }
    { c with pred := if taken then p.allocate c.pc.toNat target.toNat 0 else p }

/-- A jump trains the target buffer; a call pushes the return stack and a return pops it (06 R197, R201). -/
def Core.trainJump (c : Core) (kind : Nat) (target : Word) : Core :=
  let p := c.pred
  let p := if kind = 2 then { p with stack := ((c.pc + 4#64) :: p.stack).take 32 }
    else if kind = 3 then { p with stack := p.stack.tail } else p
  { c with pred := if c.fetchBarred then p else p.allocate c.pc.toNat target.toNat kind }

/-- The target of a displacement in words from the branch (07 R222). -/
def Core.relTarget {n : Nat} (c : Core) (disp : BitVec n) : Word := c.pc + (disp.signExtend 64 <<< 2)

/-- A taken or untaken conditional branch. -/
def Dev.condBranch (d : Dev) (l : Nat) (taken : Bool) (target : Word) : CoreOut :=
  let d := d.updCore l fun c => c.trainCond taken target
  if taken then .jump d target else .done d [(0x10, 1)]

/-- J (07 R231). -/
def execJump (l : Fin 384) (disp : BitVec 26) (s : State) : Host.Outcome State Fault Refusal :=
  runInstr l s fun d =>
    let t := (d.core l.val).relTarget disp
    .jump (d.updCore l.val fun c => c.trainJump 1 t) t

/-- JAL: g1 holds the return address (07 R231). -/
def execJal (l : Fin 384) (disp : BitVec 26) (s : State) : Host.Outcome State Fault Refusal :=
  runInstr l s fun d =>
    let t := (d.core l.val).relTarget disp
    .jump (d.updCore l.val fun c => (c.trainJump 2 t).wg 1#5 (c.pc + 4#64)) t

/-- The class of a JALR by its registers (07 R231). -/
def jalrKind (gd ga : BitVec 5) (imm : BitVec 16) : Nat :=
  if gd = 1#5 then 2 else if gd = 0#5 ∧ ga = 1#5 ∧ imm = 0#16 then 3 else 4

/-- JALR: a target that is not a word address raises alignment at the JALR (07 R231). -/
def execJalr (l : Fin 384) (gd ga : BitVec 5) (imm : BitVec 16) (s : State) : Host.Outcome State Fault Refusal :=
  runInstr l s fun d =>
    let t := (d.core l.val).rg ga + simm16 imm
    if field t 1 0 ≠ 0 then .exc d ⟨0x03, 0, 0, t⟩
    else .jump (d.updCore l.val fun c => (c.trainJump (jalrKind gd ga imm) t).wg gd (c.pc + 4#64)) t

/-- The condition of BC; none for an illegal COND (07 R231). -/
def bcCond (cond : BitVec 3) (a b : Word) : Option Bool :=
  match cond.toNat with
  | 0 => some (decide (a = b))
  | 1 => some (decide (a ≠ b))
  | 2 => some (decide (a.toInt < b.toInt))
  | 3 => some (decide (b.toInt ≤ a.toInt))
  | 4 => some (decide (a.toNat < b.toNat))
  | 5 => some (decide (b.toNat ≤ a.toNat))
  | _ => none

/-- The condition of BZ; none for an illegal COND (07 R231). -/
def bzCond (cond : BitVec 3) (a : Word) : Option Bool :=
  match cond.toNat with
  | 0 => some (decide (a = 0#64))
  | 1 => some (decide (a ≠ 0#64))
  | 2 => some (decide (a.toInt < 0))
  | 3 => some (decide (0 ≤ a.toInt))
  | 4 => some (decide (0 < a.toInt))
  | 5 => some (decide (a.toInt ≤ 0))
  | _ => none

/-- BC.cond (07 R231). -/
def execBc (l : Fin 384) (cond : BitVec 3) (ga gb : BitVec 5) (disp : BitVec 13) (s : State) :
    Host.Outcome State Fault Refusal :=
  runInstr l s fun d =>
    let c := d.core l.val
    match bcCond cond (c.rg ga) (c.rg gb) with
    | none => .exc d .illegal
    | some t => d.condBranch l.val t (c.relTarget disp)

/-- BZ.cond (07 R231). -/
def execBz (l : Fin 384) (cond : BitVec 3) (ga : BitVec 5) (disp : BitVec 18) (s : State) :
    Host.Outcome State Fault Refusal :=
  runInstr l s fun d =>
    let c := d.core l.val
    match bzCond cond (c.rg ga) with
    | none => .exc d .illegal
    | some t => d.condBranch l.val t (c.relTarget disp)

end Sys2Proof.Machine
end

