-- ==== Sys2Proof/Machine/Fp.lean ====
section
/-! DEFINITION. Scalar floating point (07 R232 to R235): IEEE 754-2019 binary32 and binary64 with the choices of R232,
computed on exact integers and rounded once. -/
namespace Sys2Proof.Machine

/-- A binary interchange format: precision and exponent bits. -/
structure Fmt where
  p : Nat
  eb : Nat
  deriving DecidableEq, Repr

/-- binary32. -/
def fmt32 : Fmt := ⟨24, 8⟩

/-- binary64. -/
def fmt64 : Fmt := ⟨53, 11⟩

/-- The format P selects (07 R235). -/
def fmtOf (p : Bool) : Fmt := if p then fmt64 else fmt32

/-- The format P does not select. -/
def fmtOther (p : Bool) : Fmt := if p then fmt32 else fmt64

/-- The greatest exponent, which is also the bias. -/
def Fmt.emax (f : Fmt) : Nat := 2 ^ (f.eb - 1) - 1

/-- The place of the sign bit. -/
def Fmt.signAt (f : Fmt) : Nat := f.p - 1 + f.eb

/-- A datum: a NaN, an infinity, or the exact number (-1)^neg × mant × 2^exp. -/
inductive FpVal where
  | nan (signalling : Bool)
  | inf (neg : Bool)
  | num (neg : Bool) (mant : Nat) (exp : Int)
  deriving DecidableEq, Repr

/-- The datum of an encoding. -/
def Fmt.unpack (f : Fmt) (x : Nat) : FpVal :=
  let neg := x.testBit f.signAt
  let e := bitsN x (f.signAt - 1) (f.p - 1)
  let m := x % 2 ^ (f.p - 1)
  if e = 2 ^ f.eb - 1 then
    if m = 0 then .inf neg else .nan (!m.testBit (f.p - 2))
  else if e = 0 then .num neg m (2 - (f.emax : Int) - f.p)
  else .num neg (m + 2 ^ (f.p - 1)) ((e : Int) + 1 - f.emax - f.p)

/-- The canonical quiet NaN (07 R232). -/
def Fmt.qnan (f : Fmt) : Nat := (2 ^ f.eb - 1) * 2 ^ (f.p - 1) + 2 ^ (f.p - 2)

/-- The sign bit. -/
def Fmt.sign (f : Fmt) (neg : Bool) : Nat := if neg then 2 ^ f.signAt else 0

/-- An infinity. -/
def Fmt.infinity (f : Fmt) (neg : Bool) : Nat := f.sign neg + (2 ^ f.eb - 1) * 2 ^ (f.p - 1)

/-- The largest finite number. -/
def Fmt.maxFinite (f : Fmt) (neg : Bool) : Nat := f.sign neg + (2 ^ f.eb - 1) * 2 ^ (f.p - 1) - 1

/-- Whether a magnitude between `kept` and the next is rounded up: `half` compares the discarded part with one half
(0 less, 1 equal, 2 more) and is meaningful only where something is discarded (07 R233). -/
def roundUp (rm : Nat) (neg : Bool) (odd : Bool) (inexact : Bool) (half : Nat) : Bool :=
  inexact && (match rm with
    | 1 => half == 2 || (half == 1 && odd)
    | 2 => half == 2 || half == 1
    | 3 => false
    | 4 => !neg
    | _ => neg)

/-- A magnitude `mant` × 2^exp, with more below where `sticky`, cut at 2^q: the kept integer, whether it is inexact and
whether it rounds up. Where `sticky` is set, exp is below q. -/
def cutAt (rm : Nat) (neg : Bool) (mant : Nat) (exp q : Int) (sticky : Bool) : Nat × Bool × Bool :=
  if q ≤ exp then (mant * 2 ^ (exp - q).toNat, false, false)
  else
    let k := (q - exp).toNat
    let kept := mant / 2 ^ k
    let r := mant % 2 ^ k
    let inexact := r ≠ 0 || sticky
    let half := if r < 2 ^ (k - 1) then 0 else if r = 2 ^ (k - 1) && !sticky then 1 else 2
    (kept, inexact, roundUp rm neg (kept % 2 == 1) inexact half)

/-- The rounding of an exact value to a format, with its flags; tininess after rounding (07 R232). -/
def Fmt.round (f : Fmt) (rm : Nat) (neg : Bool) (mant : Nat) (exp : Int) (sticky : Bool) : Nat × FpFlags :=
  if mant = 0 then (f.sign neg, FpFlags.none)
  else
    let e : Int := exp + Nat.log2 mant
    let emin : Int := 1 - f.emax
    let q := max e emin - (f.p - 1)
    let c := cutAt rm neg mant exp q sticky
    let k := c.1 + b2n c.2.2
    let carry := k = 2 ^ f.p
    let k' := if carry then 2 ^ (f.p - 1) else k
    let q' := if carry then q + 1 else q
    if (f.emax : Int) < q' + (f.p - 1) then
      let toInf := rm = 1 ∨ rm = 2 ∨ (rm = 4 ∧ !neg) ∨ (rm = 5 ∧ neg)
      (if toInf then f.infinity neg else f.maxFinite neg, ⟨false, false, true, false, true⟩)
    else
      let u := cutAt rm neg mant exp (e - (f.p - 1)) sticky
      let tiny := e < emin ∧ ¬ (e = emin - 1 ∧ u.1 + b2n u.2.2 = 2 ^ f.p)
      let bits := if k' < 2 ^ (f.p - 1) then k' else (q' + (f.p - 1) + f.emax).toNat * 2 ^ (f.p - 1) + (k' - 2 ^ (f.p - 1))
      (f.sign neg + bits, ⟨false, false, false, decide tiny && c.2.1, c.2.1⟩)

/-- INVALID where some operand is a signalling NaN. -/
def snanFlag (xs : List FpVal) : FpFlags := if xs.any (fun x => x == .nan true) then FpFlags.inv else FpFlags.none

/-- Whether a datum is a NaN. -/
def FpVal.isNan : FpVal → Bool
  | .nan _ => true
  | _ => false

/-- A datum with its sign inverted. -/
def FpVal.neg : FpVal → FpVal
  | .nan s => .nan s
  | .inf n => .inf (!n)
  | .num n m e => .num (!n) m e

/-- The exact sum of two numbers as an integer and an exponent. -/
def exactAdd (n1 : Bool) (m1 : Nat) (e1 : Int) (n2 : Bool) (m2 : Nat) (e2 : Int) : Int × Int :=
  let e := min e1 e2
  let a : Int := (m1 * 2 ^ (e1 - e).toNat : Nat)
  let b : Int := (m2 * 2 ^ (e2 - e).toNat : Nat)
  ((if n1 then -a else a) + (if n2 then -b else b), e)

/-- The sum of two numbers, rounded once: an exact zero has the operands' common sign, else plus, or minus when
rounding toward negative. -/
def Fmt.addNum (f : Fmt) (rm : Nat) (n1 : Bool) (m1 : Nat) (e1 : Int) (n2 : Bool) (m2 : Nat) (e2 : Int) : Nat × FpFlags :=
  let s := exactAdd n1 m1 e1 n2 m2 e2
  if s.1 = 0 then
    (f.sign (if m1 = 0 ∧ m2 = 0 ∧ n1 = n2 then n1 else decide (rm = 5)), FpFlags.none)
  else f.round rm (decide (s.1 < 0)) s.1.natAbs s.2 false

/-- Addition. -/
def Fmt.add (f : Fmt) (rm : Nat) (x y : FpVal) : Nat × FpFlags :=
  match x, y with
  | .nan _, _ => (f.qnan, snanFlag [x, y])
  | _, .nan _ => (f.qnan, snanFlag [x, y])
  | .inf a, .inf b => if a = b then (f.infinity a, FpFlags.none) else (f.qnan, FpFlags.inv)
  | .inf a, _ => (f.infinity a, FpFlags.none)
  | _, .inf b => (f.infinity b, FpFlags.none)
  | .num n1 m1 e1, .num n2 m2 e2 => f.addNum rm n1 m1 e1 n2 m2 e2

/-- Multiplication. -/
def Fmt.mul (f : Fmt) (rm : Nat) (x y : FpVal) : Nat × FpFlags :=
  match x, y with
  | .nan _, _ => (f.qnan, snanFlag [x, y])
  | _, .nan _ => (f.qnan, snanFlag [x, y])
  | .inf a, .inf b => (f.infinity (a != b), FpFlags.none)
  | .inf a, .num n m _ => if m = 0 then (f.qnan, FpFlags.inv) else (f.infinity (a != n), FpFlags.none)
  | .num n m _, .inf b => if m = 0 then (f.qnan, FpFlags.inv) else (f.infinity (n != b), FpFlags.none)
  | .num n1 m1 e1, .num n2 m2 e2 => f.round rm (n1 != n2) (m1 * m2) (e1 + e2) false

/-- Division: the quotient to more bits than any format keeps, with the rest as sticky. -/
def Fmt.div (f : Fmt) (rm : Nat) (x y : FpVal) : Nat × FpFlags :=
  match x, y with
  | .nan _, _ => (f.qnan, snanFlag [x, y])
  | _, .nan _ => (f.qnan, snanFlag [x, y])
  | .inf _, .inf _ => (f.qnan, FpFlags.inv)
  | .inf a, .num n _ _ => (f.infinity (a != n), FpFlags.none)
  | .num n _ _, .inf b => (f.sign (n != b), FpFlags.none)
  | .num n1 m1 e1, .num n2 m2 e2 =>
    if m2 = 0 then
      if m1 = 0 then (f.qnan, FpFlags.inv) else (f.infinity (n1 != n2), ⟨false, true, false, false, false⟩)
    else
      f.round rm (n1 != n2) (m1 * 2 ^ 128 / m2) (e1 - 128 - e2) (decide (m1 * 2 ^ 128 % m2 ≠ 0))

/-- The integer square root, one bit at a time. -/
def isqrt (x : Nat) : Nat → Nat → Nat
  | 0, r => r
  | n + 1, r => if (r + 2 ^ n) * (r + 2 ^ n) ≤ x then isqrt x n (r + 2 ^ n) else isqrt x n r

/-- Square root. -/
def Fmt.sqrt (f : Fmt) (rm : Nat) (x : FpVal) : Nat × FpFlags :=
  match x with
  | .nan _ => (f.qnan, snanFlag [x])
  | .inf n => if n then (f.qnan, FpFlags.inv) else (f.infinity false, FpFlags.none)
  | .num n m e =>
    if m = 0 then (f.sign n, FpFlags.none)
    else if n then (f.qnan, FpFlags.inv)
    else
      let odd := (e % 2).toNat
      let y := m * 2 ^ (128 + odd)
      let r := isqrt y 128 0
      f.round rm false r ((e - odd) / 2 - 64) (decide (r * r ≠ y))

/-- Fused multiply-add x × y + z, rounded once. The Bool is the open flag of ∞ × 0 + quiet NaN, which IEEE 754 leaves
to the implementation (log entry 6). -/
def Fmt.fma (f : Fmt) (rm : Nat) (open_ : Bool) (x y z : FpVal) : Nat × FpFlags :=
  let prodInv : Bool := match x, y with
    | .inf _, .num _ m _ => m == 0
    | .num _ m _, .inf _ => m == 0
    | _, _ => false
  if x.isNan || y.isNan || z.isNan then
    (f.qnan, (snanFlag [x, y, z]).or (if prodInv && open_ then FpFlags.inv else FpFlags.none))
  else if prodInv then (f.qnan, FpFlags.inv)
  else
    let n := (match x with | .inf a => a | .num a _ _ => a | .nan _ => false) !=
      (match y with | .inf a => a | .num a _ _ => a | .nan _ => false)
    match x, y with
    | .num _ m1 e1, .num _ m2 e2 =>
      match z with
      | .num n3 m3 e3 => f.addNum rm n (m1 * m2) (e1 + e2) n3 m3 e3
      | .inf a => (f.infinity a, FpFlags.none)
      | .nan _ => (f.qnan, FpFlags.none)
    | _, _ =>
      match z with
      | .inf a => if a = n then (f.infinity a, FpFlags.none) else (f.qnan, FpFlags.inv)
      | _ => (f.infinity n, FpFlags.none)

/-- The order of two numbers that are no NaN; the zeros are equal. -/
def fpCmp (x y : FpVal) : Ordering :=
  match x, y with
  | .inf a, .inf b => if a = b then .eq else if a then .lt else .gt
  | .inf a, _ => if a then .lt else .gt
  | _, .inf b => if b then .gt else .lt
  | .num n1 m1 e1, .num n2 m2 e2 =>
    let s := (exactAdd n1 m1 e1 (!n2) m2 e2).1
    if s < 0 then .lt else if s = 0 then .eq else .gt
  | _, _ => .eq

/-- The sign of a datum. -/
def FpVal.isNeg : FpVal → Bool
  | .nan _ => false
  | .inf n => n
  | .num n _ _ => n

/-- Whether `x` is the lesser in the order of minimum and maximum, where -0 lies below +0. -/
def fpLe (x y : FpVal) : Bool :=
  match fpCmp x y with
  | .lt => true
  | .gt => false
  | .eq => x.isNeg || !y.isNeg

/-- minimumNumber, maximumNumber (`num`), minimum and maximum of IEEE 754-2019 on encodings (07 R235). -/
def Fmt.minmax (f : Fmt) (num isMax : Bool) (a b : Nat) : Nat × FpFlags :=
  let x := f.unpack a
  let y := f.unpack b
  let fl := snanFlag [x, y]
  if x.isNan && y.isNan then (f.qnan, fl)
  else if x.isNan then (if num then b else f.qnan, fl)
  else if y.isNan then (if num then a else f.qnan, fl)
  else (if fpLe x y != isMax then a else b, fl)

/-- A number rounded to an integer: the magnitude and whether it is inexact. -/
def roundInt (rm : Nat) (neg : Bool) (mant : Nat) (exp : Int) : Nat × Bool :=
  let c := cutAt rm neg mant exp 0 false
  (c.1 + b2n c.2.2, c.2.1)

/-- Conversion to an integer between `lo` and `hi`, saturating (07 R235). -/
def fpToInt (rm : Nat) (lo hi : Int) (x : FpVal) : Int × FpFlags :=
  match x with
  | .nan _ => (0, FpFlags.inv)
  | .inf n => (if n then lo else hi, FpFlags.inv)
  | .num n m e =>
    let r := roundInt rm n m e
    let v : Int := if n then -(r.1 : Int) else r.1
    if hi < v then (hi, FpFlags.inv)
    else if v < lo then (lo, FpFlags.inv)
    else (v, ⟨false, false, false, false, r.2⟩)

/-- Conversion of an integer (07 R235). -/
def Fmt.ofInt (f : Fmt) (rm : Nat) (v : Int) : Nat × FpFlags := f.round rm (decide (v < 0)) v.natAbs 0 false

/-- Conversion to another format (07 R235). -/
def Fmt.cvt (f : Fmt) (rm : Nat) (x : FpVal) : Nat × FpFlags :=
  match x with
  | .nan _ => (f.qnan, snanFlag [x])
  | .inf n => (f.infinity n, FpFlags.none)
  | .num n m e => f.round rm n m e false

/-- roundToIntegral; `exact` also raises INEXACT where the result differs (07 R235). -/
def Fmt.rint (f : Fmt) (rm : Nat) (exact : Bool) (x : FpVal) : Nat × FpFlags :=
  match x with
  | .nan _ => (f.qnan, snanFlag [x])
  | .inf n => (f.infinity n, FpFlags.none)
  | .num n m e =>
    if 0 ≤ e then f.round rm n m e false
    else
      let r := roundInt rm n m e
      ((f.round rm n r.1 0 false).1, ⟨false, false, false, false, exact && r.2⟩)

/-- The class code of FKIND (07 R235). -/
def Fmt.kind (f : Fmt) (a : Nat) : Nat :=
  let sub := bitsN a (f.signAt - 1) (f.p - 1) = 0
  (match f.unpack a with
    | .nan true => 0
    | .nan false => 1
    | .inf true => 2
    | .inf false => 9
    | .num true m _ => if m = 0 then 5 else if sub then 4 else 3
    | .num false m _ => if m = 0 then 6 else if sub then 7 else 8) + 16 * b2n (a.testBit f.signAt)

/-- The source encoding of an FP register in a format (07 R232). -/
def Core.fsrc (c : Core) (p : Bool) (r : BitVec 5) : Nat :=
  if p then (c.rf r).toNat else (c.rf r).toNat % 2 ^ 32

/-- The rounding mode of an RM field; none where it is illegal (07 R233). -/
def Core.rmOf (c : Core) (rm : BitVec 3) : Option Nat :=
  let m := if rm = 0#3 then c.fpRm.toNat else rm.toNat
  if 1 ≤ m ∧ m ≤ 5 then some m else none

/-- An FP register result with its flags. -/
def Core.putF (c : Core) (fd : BitVec 5) (r : Nat × FpFlags) : Core := (c.wf fd (BitVec.ofNat 64 r.1)).orFp r.2

/-- A general register result with its flags. -/
def Core.putG (c : Core) (gd : BitVec 5) (x : Word) (fl : FpFlags) : Core := (c.wg gd x).orFp fl

/-- An FP instruction without a rounding field (07 R232, R235). -/
def runFp (l : Fin 384) (s : State) (f : Core → Core) : Host.Outcome State Fault Refusal :=
  runInstr l s fun d =>
    if (d.core l.val).fpOff then .exc d .fpDisabled
    else .done (d.updCore l.val f) [(0x43, 1)]

/-- An FP instruction that rounds (07 R233). -/
def runFpRm (l : Fin 384) (rm : BitVec 3) (s : State) (f : Nat → Core → Core) : Host.Outcome State Fault Refusal :=
  runInstr l s fun d =>
    match (d.core l.val).rmOf rm with
    | none => .exc d .illegal
    | some m =>
      if (d.core l.val).fpOff then .exc d .fpDisabled
      else .done (d.updCore l.val (f m)) [(0x43, 1)]

/-- An FP instruction that rounds and may need a free choice (07 R233, log entry 6). -/
def runFma (l : Fin 384) (rm : BitVec 3) (s : State) (f : Nat → Bool → Core → Core) : Host.Outcome State Fault Refusal :=
  runInstr l s fun d =>
    match (d.core l.val).rmOf rm with
    | none => .exc d .illegal
    | some m =>
      if (d.core l.val).fpOff then .exc d .fpDisabled
      else
        let b := Config.freeChoice d.freeCtr
        .done ({ d with freeCtr := d.freeCtr + 1 }.updCore l.val (f m b)) [(0x43, 1)]

/-- FSIGN: the bits of `a` with the sign given (07 R235). -/
def Fmt.withSign (f : Fmt) (a : Nat) (neg : Bool) : Nat := a % 2 ^ f.signAt + f.sign neg

/-- FADD, 07 R235. -/
def execFadd (l : Fin 384) (p : Bool) (rm : BitVec 3) (fd fa fb : BitVec 5) (s : State) : Host.Outcome State Fault Refusal :=
  runFpRm l rm s fun m c => c.putF fd ((fmtOf p).add m ((fmtOf p).unpack (c.fsrc p fa)) ((fmtOf p).unpack (c.fsrc p fb)))

/-- FSUB, 07 R235. -/
def execFsub (l : Fin 384) (p : Bool) (rm : BitVec 3) (fd fa fb : BitVec 5) (s : State) : Host.Outcome State Fault Refusal :=
  runFpRm l rm s fun m c => c.putF fd ((fmtOf p).add m ((fmtOf p).unpack (c.fsrc p fa)) ((fmtOf p).unpack (c.fsrc p fb)).neg)

/-- FMUL, 07 R235. -/
def execFmul (l : Fin 384) (p : Bool) (rm : BitVec 3) (fd fa fb : BitVec 5) (s : State) : Host.Outcome State Fault Refusal :=
  runFpRm l rm s fun m c => c.putF fd ((fmtOf p).mul m ((fmtOf p).unpack (c.fsrc p fa)) ((fmtOf p).unpack (c.fsrc p fb)))

/-- FDIV, 07 R235. -/
def execFdiv (l : Fin 384) (p : Bool) (rm : BitVec 3) (fd fa fb : BitVec 5) (s : State) : Host.Outcome State Fault Refusal :=
  runFpRm l rm s fun m c => c.putF fd ((fmtOf p).div m ((fmtOf p).unpack (c.fsrc p fa)) ((fmtOf p).unpack (c.fsrc p fb)))

/-- FSQRT, 07 R235. -/
def execFsqrt (l : Fin 384) (p : Bool) (rm : BitVec 3) (fd fa : BitVec 5) (s : State) : Host.Outcome State Fault Refusal :=
  runFpRm l rm s fun m c => c.putF fd ((fmtOf p).sqrt m ((fmtOf p).unpack (c.fsrc p fa)))

/-- FRINT, 07 R235. -/
def execFrint (l : Fin 384) (p : Bool) (rm : BitVec 3) (fd fa : BitVec 5) (s : State) : Host.Outcome State Fault Refusal :=
  runFpRm l rm s fun m c => c.putF fd ((fmtOf p).rint m false ((fmtOf p).unpack (c.fsrc p fa)))

/-- FRINTX, 07 R235. -/
def execFrintx (l : Fin 384) (p : Bool) (rm : BitVec 3) (fd fa : BitVec 5) (s : State) : Host.Outcome State Fault Refusal :=
  runFpRm l rm s fun m c => c.putF fd ((fmtOf p).rint m true ((fmtOf p).unpack (c.fsrc p fa)))

/-- FMINNUM, 07 R235. -/
def execFminnum (l : Fin 384) (p : Bool) (fd fa fb : BitVec 5) (s : State) : Host.Outcome State Fault Refusal :=
  runFp l s fun c => c.putF fd ((fmtOf p).minmax true false (c.fsrc p fa) (c.fsrc p fb))

/-- FMAXNUM, 07 R235. -/
def execFmaxnum (l : Fin 384) (p : Bool) (fd fa fb : BitVec 5) (s : State) : Host.Outcome State Fault Refusal :=
  runFp l s fun c => c.putF fd ((fmtOf p).minmax true true (c.fsrc p fa) (c.fsrc p fb))

/-- FMIN, 07 R235. -/
def execFmin (l : Fin 384) (p : Bool) (fd fa fb : BitVec 5) (s : State) : Host.Outcome State Fault Refusal :=
  runFp l s fun c => c.putF fd ((fmtOf p).minmax false false (c.fsrc p fa) (c.fsrc p fb))

/-- FMAX, 07 R235. -/
def execFmax (l : Fin 384) (p : Bool) (fd fa fb : BitVec 5) (s : State) : Host.Outcome State Fault Refusal :=
  runFp l s fun c => c.putF fd ((fmtOf p).minmax false true (c.fsrc p fa) (c.fsrc p fb))

/-- FABS, 07 R235. -/
def execFabs (l : Fin 384) (p : Bool) (fd fa : BitVec 5) (s : State) : Host.Outcome State Fault Refusal :=
  runFp l s fun c => c.wf fd (BitVec.ofNat 64 ((fmtOf p).withSign (c.fsrc p fa) false))

/-- FNEG, 07 R235. -/
def execFneg (l : Fin 384) (p : Bool) (fd fa : BitVec 5) (s : State) : Host.Outcome State Fault Refusal :=
  runFp l s fun c => c.wf fd (BitVec.ofNat 64 ((fmtOf p).withSign (c.fsrc p fa) (!(c.fsrc p fa).testBit (fmtOf p).signAt)))

/-- FCOPYS, 07 R235. -/
def execFcopys (l : Fin 384) (p : Bool) (fd fa fb : BitVec 5) (s : State) : Host.Outcome State Fault Refusal :=
  runFp l s fun c => c.wf fd (BitVec.ofNat 64 ((fmtOf p).withSign (c.fsrc p fa) ((c.fsrc p fb).testBit (fmtOf p).signAt)))

/-- FNABS, 07 R235. -/
def execFnabs (l : Fin 384) (p : Bool) (fd fa : BitVec 5) (s : State) : Host.Outcome State Fault Refusal :=
  runFp l s fun c => c.wf fd (BitVec.ofNat 64 ((fmtOf p).withSign (c.fsrc p fa) true))

/-- FMA, 07 R235. -/
def execFma (l : Fin 384) (p : Bool) (rm : BitVec 3) (fd fa fb fc : BitVec 5) (s : State) : Host.Outcome State Fault Refusal :=
  runFma l rm s fun m b c => c.putF fd ((fmtOf p).fma m b ((fmtOf p).unpack (c.fsrc p fa)) ((fmtOf p).unpack (c.fsrc p fb)) ((fmtOf p).unpack (c.fsrc p fc)))

/-- FMS, 07 R235. -/
def execFms (l : Fin 384) (p : Bool) (rm : BitVec 3) (fd fa fb fc : BitVec 5) (s : State) : Host.Outcome State Fault Refusal :=
  runFma l rm s fun m b c => c.putF fd ((fmtOf p).fma m b ((fmtOf p).unpack (c.fsrc p fa)) ((fmtOf p).unpack (c.fsrc p fb)) ((fmtOf p).unpack (c.fsrc p fc)).neg)

/-- FRMS, 07 R235. -/
def execFrms (l : Fin 384) (p : Bool) (rm : BitVec 3) (fd fa fb fc : BitVec 5) (s : State) : Host.Outcome State Fault Refusal :=
  runFma l rm s fun m b c => c.putF fd ((fmtOf p).fma m b ((fmtOf p).unpack (c.fsrc p fa)).neg ((fmtOf p).unpack (c.fsrc p fb)) ((fmtOf p).unpack (c.fsrc p fc)))

/-- FNMA, 07 R235. -/
def execFnma (l : Fin 384) (p : Bool) (rm : BitVec 3) (fd fa fb fc : BitVec 5) (s : State) : Host.Outcome State Fault Refusal :=
  runFma l rm s fun m b c => c.putF fd ((fmtOf p).fma m b ((fmtOf p).unpack (c.fsrc p fa)).neg ((fmtOf p).unpack (c.fsrc p fb)) ((fmtOf p).unpack (c.fsrc p fc)).neg)

/-- A comparison: the result and INVALID; a signalling one raises INVALID on any NaN (07 R235). -/
def Fmt.compare (f : Fmt) (signalling : Bool) (test : Ordering → Bool) (a b : Nat) : Word × FpFlags :=
  let x := f.unpack a
  let y := f.unpack b
  if x.isNan || y.isNan then (0#64, if signalling then FpFlags.inv else snanFlag [x, y])
  else (b2w (test (fpCmp x y)), FpFlags.none)

/-- FCEQ, 07 R235. -/
def execFceq (l : Fin 384) (p : Bool) (gd fa fb : BitVec 5) (s : State) : Host.Outcome State Fault Refusal :=
  runFp l s fun c =>
    let r := (fmtOf p).compare false (· == .eq) (c.fsrc p fa) (c.fsrc p fb)
    c.putG gd r.1 r.2

/-- FCLT, 07 R235. -/
def execFclt (l : Fin 384) (p : Bool) (gd fa fb : BitVec 5) (s : State) : Host.Outcome State Fault Refusal :=
  runFp l s fun c =>
    let r := (fmtOf p).compare true (· == .lt) (c.fsrc p fa) (c.fsrc p fb)
    c.putG gd r.1 r.2

/-- FCLE, 07 R235. -/
def execFcle (l : Fin 384) (p : Bool) (gd fa fb : BitVec 5) (s : State) : Host.Outcome State Fault Refusal :=
  runFp l s fun c =>
    let r := (fmtOf p).compare true (· != .gt) (c.fsrc p fa) (c.fsrc p fb)
    c.putG gd r.1 r.2

/-- FCLTQ, 07 R235. -/
def execFcltq (l : Fin 384) (p : Bool) (gd fa fb : BitVec 5) (s : State) : Host.Outcome State Fault Refusal :=
  runFp l s fun c =>
    let r := (fmtOf p).compare false (· == .lt) (c.fsrc p fa) (c.fsrc p fb)
    c.putG gd r.1 r.2

/-- FCLEQ, 07 R235. -/
def execFcleq (l : Fin 384) (p : Bool) (gd fa fb : BitVec 5) (s : State) : Host.Outcome State Fault Refusal :=
  runFp l s fun c =>
    let r := (fmtOf p).compare false (· != .gt) (c.fsrc p fa) (c.fsrc p fb)
    c.putG gd r.1 r.2

/-- FCUN, 07 R235. -/
def execFcun (l : Fin 384) (p : Bool) (gd fa fb : BitVec 5) (s : State) : Host.Outcome State Fault Refusal :=
  runFp l s fun c =>
    let x := (fmtOf p).unpack (c.fsrc p fa)
    let y := (fmtOf p).unpack (c.fsrc p fb)
    c.putG gd (b2w (x.isNan || y.isNan)) (snanFlag [x, y])

/-- FKIND, 07 R235. -/
def execFkind (l : Fin 384) (p : Bool) (gd fa : BitVec 5) (s : State) : Host.Outcome State Fault Refusal :=
  runFp l s fun c => c.wg gd (BitVec.ofNat 64 ((fmtOf p).kind (c.fsrc p fa)))

/-- FBITS, 07 R235. -/
def execFbits (l : Fin 384) (p : Bool) (gd fa : BitVec 5) (s : State) : Host.Outcome State Fault Refusal :=
  runFp l s fun c => c.wg gd (BitVec.ofNat 64 (c.fsrc p fa))

/-- FCVT, 07 R235. -/
def execFcvt (l : Fin 384) (p : Bool) (rm : BitVec 3) (fd fa : BitVec 5) (s : State) : Host.Outcome State Fault Refusal :=
  runFpRm l rm s fun m c => c.putF fd ((fmtOther p).cvt m ((fmtOf p).unpack (c.fsrc p fa)))

/-- FTOI64, 07 R235. -/
def execFtoi64 (l : Fin 384) (p : Bool) (rm : BitVec 3) (gd fa : BitVec 5) (s : State) : Host.Outcome State Fault Refusal :=
  runFpRm l rm s fun m c =>
    let r := fpToInt m (-(2 ^ 63)) (2 ^ 63 - 1) ((fmtOf p).unpack (c.fsrc p fa))
    c.putG gd (BitVec.ofInt 64 r.1) r.2

/-- FTOU64, 07 R235. -/
def execFtou64 (l : Fin 384) (p : Bool) (rm : BitVec 3) (gd fa : BitVec 5) (s : State) : Host.Outcome State Fault Refusal :=
  runFpRm l rm s fun m c =>
    let r := fpToInt m 0 (2 ^ 64 - 1) ((fmtOf p).unpack (c.fsrc p fa))
    c.putG gd (BitVec.ofInt 64 r.1) r.2

/-- FTOI32, 07 R235. -/
def execFtoi32 (l : Fin 384) (p : Bool) (rm : BitVec 3) (gd fa : BitVec 5) (s : State) : Host.Outcome State Fault Refusal :=
  runFpRm l rm s fun m c =>
    let r := fpToInt m (-(2 ^ 31)) (2 ^ 31 - 1) ((fmtOf p).unpack (c.fsrc p fa))
    c.putG gd (sextFrom 32 (BitVec.ofInt 64 r.1)) r.2

/-- FTOU32, 07 R235. -/
def execFtou32 (l : Fin 384) (p : Bool) (rm : BitVec 3) (gd fa : BitVec 5) (s : State) : Host.Outcome State Fault Refusal :=
  runFpRm l rm s fun m c =>
    let r := fpToInt m 0 (2 ^ 32 - 1) ((fmtOf p).unpack (c.fsrc p fa))
    c.putG gd (sextFrom 32 (BitVec.ofInt 64 r.1)) r.2

/-- I64TOF, 07 R235. -/
def execI64tof (l : Fin 384) (p : Bool) (rm : BitVec 3) (fd ga : BitVec 5) (s : State) : Host.Outcome State Fault Refusal :=
  runFpRm l rm s fun m c => c.putF fd ((fmtOf p).ofInt m (c.rg ga).toInt)

/-- U64TOF, 07 R235. -/
def execU64tof (l : Fin 384) (p : Bool) (rm : BitVec 3) (fd ga : BitVec 5) (s : State) : Host.Outcome State Fault Refusal :=
  runFpRm l rm s fun m c => c.putF fd ((fmtOf p).ofInt m ((c.rg ga).toNat : Int))

/-- I32TOF, 07 R235. -/
def execI32tof (l : Fin 384) (p : Bool) (rm : BitVec 3) (fd ga : BitVec 5) (s : State) : Host.Outcome State Fault Refusal :=
  runFpRm l rm s fun m c => c.putF fd ((fmtOf p).ofInt m (sextFrom 32 (c.rg ga)).toInt)

/-- U32TOF, 07 R235. -/
def execU32tof (l : Fin 384) (p : Bool) (rm : BitVec 3) (fd ga : BitVec 5) (s : State) : Host.Outcome State Fault Refusal :=
  runFpRm l rm s fun m c => c.putF fd ((fmtOf p).ofInt m ((zextFrom 32 (c.rg ga)).toNat : Int))

/-- GBITS, 07 R235. -/
def execGbits (l : Fin 384) (p : Bool) (fd ga : BitVec 5) (s : State) : Host.Outcome State Fault Refusal :=
  runFp l s fun c => c.wf fd (if p then c.rg ga else zextFrom 32 (c.rg ga))

end Sys2Proof.Machine
end

