-- ==== Sys2Proof/Machine/IntAlu.lean ====
section
/-! DEFINITION. Integer instructions: register, multiply and divide, immediate and bit-field operations (07 R224 to
R226). -/
namespace Sys2Proof.Machine

/-- A W form sign-extends the low 32 bits of its result (07 R224). -/
def wForm (w : Bool) (x : Word) : Word := if w then sextFrom 32 x else x

/-- The shift amount: six bits, five in a W form (07 R224). -/
def shAmt (w : Bool) (x : Word) : Nat := if w then field x 4 0 else field x 5 0

/-- Shift left. -/
def shl (w : Bool) (x : Word) (n : Nat) : Word := wForm w (x <<< n)

/-- Logical shift right; a W form shifts bits [31:0]. -/
def shrl (w : Bool) (x : Word) (n : Nat) : Word := if w then sextFrom 32 (zextFrom 32 x >>> n) else x >>> n

/-- Arithmetic shift right. -/
def shra (w : Bool) (x : Word) (n : Nat) : Word := if w then sextFrom 32 ((sextFrom 32 x).sshiftRight n) else x.sshiftRight n

/-- Rotate right, within 32 bits in a W form. -/
def rotr (w : Bool) (x : Word) (n : Nat) : Word :=
  if w then ((BitVec.ofNat 32 x.toNat).rotateRight n).signExtend 64 else x.rotateRight n

/-- The number of zeros above the highest one bit of the low `n` bits. -/
def clzN (x : Word) : Nat → Nat
  | 0 => 0
  | n + 1 => if x.getLsbD n then 0 else 1 + clzN x n

/-- The number of zeros below the lowest one bit of the low `n` bits. -/
def ctzN (x : Word) (n : Nat) : Nat := ((List.range n).takeWhile fun i => !x.getLsbD i).length

/-- The number of one bits of the low `n` bits. -/
def popN (x : Word) (n : Nat) : Nat := ((List.range n).filter fun i => x.getLsbD i).length

/-- The bytes of a word in reverse order. -/
def revBytes (x : Word) : Word := BitVec.ofNat 64 (ofLe (leBytes 8 x.toNat).reverse)

/-- Signed quotient toward zero, with the edge cases of R225. -/
def sdivW (w : Bool) (a b : Word) : Word :=
  let x := if w then sextFrom 32 a else a
  let y := if w then sextFrom 32 b else b
  if y = 0#64 then ~~~0#64 else wForm w (BitVec.ofInt 64 (x.toInt.tdiv y.toInt))

/-- Unsigned quotient, R225. -/
def udivW (w : Bool) (a b : Word) : Word :=
  let x := if w then zextFrom 32 a else a
  let y := if w then zextFrom 32 b else b
  if y = 0#64 then ~~~0#64 else wForm w (BitVec.ofNat 64 (x.toNat / y.toNat))

/-- Signed remainder with the sign of the dividend, R225. -/
def sremW (w : Bool) (a b : Word) : Word :=
  let x := if w then sextFrom 32 a else a
  let y := if w then sextFrom 32 b else b
  if y = 0#64 then x else wForm w (BitVec.ofInt 64 (x.toInt.tmod y.toInt))

/-- Unsigned remainder, R225. -/
def uremW (w : Bool) (a b : Word) : Word :=
  let x := if w then zextFrom 32 a else a
  let y := if w then zextFrom 32 b else b
  if y = 0#64 then wForm w a else wForm w (BitVec.ofNat 64 (x.toNat % y.toNat))

/-- High half of a product of integers. -/
def mulHigh (a b : Int) : Word := BitVec.ofInt 64 (a * b / 2 ^ 64)

/-- imm16 shifted left by 16, sign-extended (07 R226). -/
def upper (i : BitVec 16) : Word := (i.zeroExtend 32 <<< 16).signExtend 64

/-- The `len` bits of `x` from `pos`, zero-extended. -/
def bitsFrom (x : Word) (pos len : Nat) : Word := zextFrom len (x >>> pos)

/-- `old` with `len` bits from `pos` replaced by the low bits of `x` (07 R226). -/
def insBits (old x : Word) (pos len : Nat) : Word := putField old (pos + len - 1) pos (x.toNat % 2 ^ len)

/-- ADD, 07 R224. -/
def execAdd (l : Fin 384) (w : Bool) (gd ga gb : BitVec 5) (s : State) : Host.Outcome State Fault Refusal :=
  runReg l s fun c => c.wg gd (wForm w (c.rg ga + c.rg gb))

/-- SUB, 07 R224. -/
def execSub (l : Fin 384) (w : Bool) (gd ga gb : BitVec 5) (s : State) : Host.Outcome State Fault Refusal :=
  runReg l s fun c => c.wg gd (wForm w (c.rg ga - c.rg gb))

/-- AND, 07 R224. -/
def execAnd (l : Fin 384) (gd ga gb : BitVec 5) (s : State) : Host.Outcome State Fault Refusal :=
  runReg l s fun c => c.wg gd (c.rg ga &&& c.rg gb)

/-- OR, 07 R224. -/
def execOr (l : Fin 384) (gd ga gb : BitVec 5) (s : State) : Host.Outcome State Fault Refusal :=
  runReg l s fun c => c.wg gd (c.rg ga ||| c.rg gb)

/-- XOR, 07 R224. -/
def execXor (l : Fin 384) (gd ga gb : BitVec 5) (s : State) : Host.Outcome State Fault Refusal :=
  runReg l s fun c => c.wg gd (c.rg ga ^^^ c.rg gb)

/-- ANDN, 07 R224. -/
def execAndn (l : Fin 384) (gd ga gb : BitVec 5) (s : State) : Host.Outcome State Fault Refusal :=
  runReg l s fun c => c.wg gd (c.rg ga &&& ~~~(c.rg gb))

/-- ORN, 07 R224. -/
def execOrn (l : Fin 384) (gd ga gb : BitVec 5) (s : State) : Host.Outcome State Fault Refusal :=
  runReg l s fun c => c.wg gd (c.rg ga ||| ~~~(c.rg gb))

/-- XNOR, 07 R224. -/
def execXnor (l : Fin 384) (gd ga gb : BitVec 5) (s : State) : Host.Outcome State Fault Refusal :=
  runReg l s fun c => c.wg gd (~~~(c.rg ga ^^^ c.rg gb))

/-- SLL, 07 R224. -/
def execSll (l : Fin 384) (w : Bool) (gd ga gb : BitVec 5) (s : State) : Host.Outcome State Fault Refusal :=
  runReg l s fun c => c.wg gd (shl w (c.rg ga) (shAmt w (c.rg gb)))

/-- SRL, 07 R224. -/
def execSrl (l : Fin 384) (w : Bool) (gd ga gb : BitVec 5) (s : State) : Host.Outcome State Fault Refusal :=
  runReg l s fun c => c.wg gd (shrl w (c.rg ga) (shAmt w (c.rg gb)))

/-- SRA, 07 R224. -/
def execSra (l : Fin 384) (w : Bool) (gd ga gb : BitVec 5) (s : State) : Host.Outcome State Fault Refusal :=
  runReg l s fun c => c.wg gd (shra w (c.rg ga) (shAmt w (c.rg gb)))

/-- ROR, 07 R224. -/
def execRor (l : Fin 384) (w : Bool) (gd ga gb : BitVec 5) (s : State) : Host.Outcome State Fault Refusal :=
  runReg l s fun c => c.wg gd (rotr w (c.rg ga) (shAmt w (c.rg gb)))

/-- SLT, 07 R224. -/
def execSlt (l : Fin 384) (gd ga gb : BitVec 5) (s : State) : Host.Outcome State Fault Refusal :=
  runReg l s fun c => c.wg gd (b2w (decide ((c.rg ga).toInt < (c.rg gb).toInt)))

/-- SLTU, 07 R224. -/
def execSltu (l : Fin 384) (gd ga gb : BitVec 5) (s : State) : Host.Outcome State Fault Refusal :=
  runReg l s fun c => c.wg gd (b2w (decide ((c.rg ga).toNat < (c.rg gb).toNat)))

/-- MIN, 07 R224. -/
def execMin (l : Fin 384) (gd ga gb : BitVec 5) (s : State) : Host.Outcome State Fault Refusal :=
  runReg l s fun c => c.wg gd (if (c.rg ga).toInt ≤ (c.rg gb).toInt then c.rg ga else c.rg gb)

/-- MAX, 07 R224. -/
def execMax (l : Fin 384) (gd ga gb : BitVec 5) (s : State) : Host.Outcome State Fault Refusal :=
  runReg l s fun c => c.wg gd (if (c.rg gb).toInt ≤ (c.rg ga).toInt then c.rg ga else c.rg gb)

/-- MINU, 07 R224. -/
def execMinu (l : Fin 384) (gd ga gb : BitVec 5) (s : State) : Host.Outcome State Fault Refusal :=
  runReg l s fun c => c.wg gd (if (c.rg ga).toNat ≤ (c.rg gb).toNat then c.rg ga else c.rg gb)

/-- MAXU, 07 R224. -/
def execMaxu (l : Fin 384) (gd ga gb : BitVec 5) (s : State) : Host.Outcome State Fault Refusal :=
  runReg l s fun c => c.wg gd (if (c.rg gb).toNat ≤ (c.rg ga).toNat then c.rg ga else c.rg gb)

/-- CLZ, 07 R224. -/
def execClz (l : Fin 384) (w : Bool) (gd ga : BitVec 5) (s : State) : Host.Outcome State Fault Refusal :=
  runReg l s fun c => c.wg gd (BitVec.ofNat 64 (clzN (c.rg ga) (if w then 32 else 64)))

/-- CTZ, 07 R224. -/
def execCtz (l : Fin 384) (w : Bool) (gd ga : BitVec 5) (s : State) : Host.Outcome State Fault Refusal :=
  runReg l s fun c => c.wg gd (BitVec.ofNat 64 (ctzN (c.rg ga) (if w then 32 else 64)))

/-- POPC, 07 R224. -/
def execPopc (l : Fin 384) (w : Bool) (gd ga : BitVec 5) (s : State) : Host.Outcome State Fault Refusal :=
  runReg l s fun c => c.wg gd (BitVec.ofNat 64 (popN (c.rg ga) (if w then 32 else 64)))

/-- REV8, 07 R224. -/
def execRev8 (l : Fin 384) (gd ga : BitVec 5) (s : State) : Host.Outcome State Fault Refusal :=
  runReg l s fun c => c.wg gd (revBytes (c.rg ga))

/-- CSELZ, 07 R224. -/
def execCselz (l : Fin 384) (gd ga gb : BitVec 5) (s : State) : Host.Outcome State Fault Refusal :=
  runReg l s fun c => if c.rg gb = 0#64 then c.wg gd (c.rg ga) else c

/-- CSELNZ, 07 R224. -/
def execCselnz (l : Fin 384) (gd ga gb : BitVec 5) (s : State) : Host.Outcome State Fault Refusal :=
  runReg l s fun c => if c.rg gb ≠ 0#64 then c.wg gd (c.rg ga) else c

/-- MUL, 07 R225. -/
def execMul (l : Fin 384) (w : Bool) (gd ga gb : BitVec 5) (s : State) : Host.Outcome State Fault Refusal :=
  runReg l s fun c => c.wg gd (wForm w (c.rg ga * c.rg gb))

/-- MULH, 07 R225. -/
def execMulh (l : Fin 384) (gd ga gb : BitVec 5) (s : State) : Host.Outcome State Fault Refusal :=
  runReg l s fun c => c.wg gd (mulHigh (c.rg ga).toInt (c.rg gb).toInt)

/-- MULHU, 07 R225. -/
def execMulhu (l : Fin 384) (gd ga gb : BitVec 5) (s : State) : Host.Outcome State Fault Refusal :=
  runReg l s fun c => c.wg gd (mulHigh (c.rg ga).toNat (c.rg gb).toNat)

/-- MULHSU, 07 R225. -/
def execMulhsu (l : Fin 384) (gd ga gb : BitVec 5) (s : State) : Host.Outcome State Fault Refusal :=
  runReg l s fun c => c.wg gd (mulHigh (c.rg ga).toInt (c.rg gb).toNat)

/-- DIV, 07 R225. -/
def execDiv (l : Fin 384) (w : Bool) (gd ga gb : BitVec 5) (s : State) : Host.Outcome State Fault Refusal :=
  runReg l s fun c => c.wg gd (sdivW w (c.rg ga) (c.rg gb))

/-- DIVU, 07 R225. -/
def execDivu (l : Fin 384) (w : Bool) (gd ga gb : BitVec 5) (s : State) : Host.Outcome State Fault Refusal :=
  runReg l s fun c => c.wg gd (udivW w (c.rg ga) (c.rg gb))

/-- REM, 07 R225. -/
def execRem (l : Fin 384) (w : Bool) (gd ga gb : BitVec 5) (s : State) : Host.Outcome State Fault Refusal :=
  runReg l s fun c => c.wg gd (sremW w (c.rg ga) (c.rg gb))

/-- REMU, 07 R225. -/
def execRemu (l : Fin 384) (w : Bool) (gd ga gb : BitVec 5) (s : State) : Host.Outcome State Fault Refusal :=
  runReg l s fun c => c.wg gd (uremW w (c.rg ga) (c.rg gb))

/-- ADDI, 07 R226. -/
def execAddi (l : Fin 384) (gd ga : BitVec 5) (imm : BitVec 16) (s : State) : Host.Outcome State Fault Refusal :=
  runReg l s fun c => c.wg gd (c.rg ga + simm16 imm)

/-- ADDIW, 07 R226. -/
def execAddiw (l : Fin 384) (gd ga : BitVec 5) (imm : BitVec 16) (s : State) : Host.Outcome State Fault Refusal :=
  runReg l s fun c => c.wg gd (sextFrom 32 (c.rg ga + simm16 imm))

/-- ANDI, 07 R226. -/
def execAndi (l : Fin 384) (gd ga : BitVec 5) (imm : BitVec 16) (s : State) : Host.Outcome State Fault Refusal :=
  runReg l s fun c => c.wg gd (c.rg ga &&& zimm16 imm)

/-- ORI, 07 R226. -/
def execOri (l : Fin 384) (gd ga : BitVec 5) (imm : BitVec 16) (s : State) : Host.Outcome State Fault Refusal :=
  runReg l s fun c => c.wg gd (c.rg ga ||| zimm16 imm)

/-- XORI, 07 R226. -/
def execXori (l : Fin 384) (gd ga : BitVec 5) (imm : BitVec 16) (s : State) : Host.Outcome State Fault Refusal :=
  runReg l s fun c => c.wg gd (c.rg ga ^^^ zimm16 imm)

/-- SLTI, 07 R226. -/
def execSlti (l : Fin 384) (gd ga : BitVec 5) (imm : BitVec 16) (s : State) : Host.Outcome State Fault Refusal :=
  runReg l s fun c => c.wg gd (b2w (decide ((c.rg ga).toInt < (simm16 imm).toInt)))

/-- SLTIU, 07 R226. -/
def execSltiu (l : Fin 384) (gd ga : BitVec 5) (imm : BitVec 16) (s : State) : Host.Outcome State Fault Refusal :=
  runReg l s fun c => c.wg gd (b2w (decide ((c.rg ga).toNat < (simm16 imm).toNat)))

/-- SLLI, 07 R226: a W form with bit 5 of the amount set is illegal. -/
def execSlli (l : Fin 384) (w : Bool) (gd ga : BitVec 5) (sh : BitVec 6) (s : State) : Host.Outcome State Fault Refusal :=
  runRegIf l s (!(w && sh.getLsbD 5)) fun c => c.wg gd (shl w (c.rg ga) sh.toNat)

/-- SRLI, 07 R226: a W form with bit 5 of the amount set is illegal. -/
def execSrli (l : Fin 384) (w : Bool) (gd ga : BitVec 5) (sh : BitVec 6) (s : State) : Host.Outcome State Fault Refusal :=
  runRegIf l s (!(w && sh.getLsbD 5)) fun c => c.wg gd (shrl w (c.rg ga) sh.toNat)

/-- SRAI, 07 R226: a W form with bit 5 of the amount set is illegal. -/
def execSrai (l : Fin 384) (w : Bool) (gd ga : BitVec 5) (sh : BitVec 6) (s : State) : Host.Outcome State Fault Refusal :=
  runRegIf l s (!(w && sh.getLsbD 5)) fun c => c.wg gd (shra w (c.rg ga) sh.toNat)

/-- RORI, 07 R226: a W form with bit 5 of the amount set is illegal. -/
def execRori (l : Fin 384) (w : Bool) (gd ga : BitVec 5) (sh : BitVec 6) (s : State) : Host.Outcome State Fault Refusal :=
  runRegIf l s (!(w && sh.getLsbD 5)) fun c => c.wg gd (rotr w (c.rg ga) sh.toNat)

/-- LUI, 07 R226. -/
def execLui (l : Fin 384) (gd : BitVec 5) (imm : BitVec 16) (s : State) : Host.Outcome State Fault Refusal :=
  runReg l s fun c => c.wg gd (upper imm)

/-- AUIPC, 07 R226. -/
def execAuipc (l : Fin 384) (gd : BitVec 5) (imm : BitVec 16) (s : State) : Host.Outcome State Fault Refusal :=
  runReg l s fun c => c.wg gd (c.pc + upper imm)

/-- SHI, 07 R226. -/
def execShi (l : Fin 384) (gd ga : BitVec 5) (imm : BitVec 16) (s : State) : Host.Outcome State Fault Refusal :=
  runReg l s fun c => c.wg gd ((c.rg ga <<< 16) ||| zimm16 imm)

/-- EXTU, 07 R226; pos + len above 64 is illegal. -/
def execExtu (l : Fin 384) (gd ga : BitVec 5) (pos len1 : BitVec 6) (s : State) : Host.Outcome State Fault Refusal :=
  runRegIf l s (decide (pos.toNat + len1.toNat + 1 ≤ 64)) fun c => c.wg gd (bitsFrom (c.rg ga) pos.toNat (len1.toNat + 1))

/-- EXT, 07 R226; pos + len above 64 is illegal. -/
def execExt (l : Fin 384) (gd ga : BitVec 5) (pos len1 : BitVec 6) (s : State) : Host.Outcome State Fault Refusal :=
  runRegIf l s (decide (pos.toNat + len1.toNat + 1 ≤ 64)) fun c => c.wg gd (sextFrom (len1.toNat + 1) (bitsFrom (c.rg ga) pos.toNat (len1.toNat + 1)))

/-- INS, 07 R226; pos + len above 64 is illegal. -/
def execIns (l : Fin 384) (gd ga : BitVec 5) (pos len1 : BitVec 6) (s : State) : Host.Outcome State Fault Refusal :=
  runRegIf l s (decide (pos.toNat + len1.toNat + 1 ≤ 64)) fun c => c.wg gd (insBits (c.rg gd) (c.rg ga) pos.toNat (len1.toNat + 1))

end Sys2Proof.Machine
end

