-- ==== Sys2Proof/Machine/CoreWord.lean ====
section
/-! DEFINITION. What a core does with a word of TKA-64: the instruction that it spells, or illegal instruction (07 R221, R223). -/
namespace Sys2Proof.Machine

/-- A word that spells no instruction (07 R221). -/
def illegalWord (l : Fin 384) (s : State) : Host.Outcome State Fault Refusal := runInstr l s fun d => .exc d .illegal

/-- The meaning of an instruction that a word spells; no word spells any other command. -/
def wordMeaning (l : Fin 384) (i : Instr) (s : State) : Host.Outcome State Fault Refusal :=
  match i with
  | .add l w gd ga gb => Sys2Proof.Machine.execAdd l w gd ga gb s
  | .sub l w gd ga gb => Sys2Proof.Machine.execSub l w gd ga gb s
  | .and l gd ga gb => Sys2Proof.Machine.execAnd l gd ga gb s
  | .or l gd ga gb => Sys2Proof.Machine.execOr l gd ga gb s
  | .xor l gd ga gb => Sys2Proof.Machine.execXor l gd ga gb s
  | .andn l gd ga gb => Sys2Proof.Machine.execAndn l gd ga gb s
  | .orn l gd ga gb => Sys2Proof.Machine.execOrn l gd ga gb s
  | .xnor l gd ga gb => Sys2Proof.Machine.execXnor l gd ga gb s
  | .sll l w gd ga gb => Sys2Proof.Machine.execSll l w gd ga gb s
  | .srl l w gd ga gb => Sys2Proof.Machine.execSrl l w gd ga gb s
  | .sra l w gd ga gb => Sys2Proof.Machine.execSra l w gd ga gb s
  | .ror l w gd ga gb => Sys2Proof.Machine.execRor l w gd ga gb s
  | .slt l gd ga gb => Sys2Proof.Machine.execSlt l gd ga gb s
  | .sltu l gd ga gb => Sys2Proof.Machine.execSltu l gd ga gb s
  | .min l gd ga gb => Sys2Proof.Machine.execMin l gd ga gb s
  | .max l gd ga gb => Sys2Proof.Machine.execMax l gd ga gb s
  | .minu l gd ga gb => Sys2Proof.Machine.execMinu l gd ga gb s
  | .maxu l gd ga gb => Sys2Proof.Machine.execMaxu l gd ga gb s
  | .clz l w gd ga => Sys2Proof.Machine.execClz l w gd ga s
  | .ctz l w gd ga => Sys2Proof.Machine.execCtz l w gd ga s
  | .popc l w gd ga => Sys2Proof.Machine.execPopc l w gd ga s
  | .rev8 l gd ga => Sys2Proof.Machine.execRev8 l gd ga s
  | .cselz l gd ga gb => Sys2Proof.Machine.execCselz l gd ga gb s
  | .cselnz l gd ga gb => Sys2Proof.Machine.execCselnz l gd ga gb s
  | .mul l w gd ga gb => Sys2Proof.Machine.execMul l w gd ga gb s
  | .mulh l gd ga gb => Sys2Proof.Machine.execMulh l gd ga gb s
  | .mulhu l gd ga gb => Sys2Proof.Machine.execMulhu l gd ga gb s
  | .mulhsu l gd ga gb => Sys2Proof.Machine.execMulhsu l gd ga gb s
  | .div l w gd ga gb => Sys2Proof.Machine.execDiv l w gd ga gb s
  | .divu l w gd ga gb => Sys2Proof.Machine.execDivu l w gd ga gb s
  | .rem l w gd ga gb => Sys2Proof.Machine.execRem l w gd ga gb s
  | .remu l w gd ga gb => Sys2Proof.Machine.execRemu l w gd ga gb s
  | .slli l w gd ga sh => Sys2Proof.Machine.execSlli l w gd ga sh s
  | .srli l w gd ga sh => Sys2Proof.Machine.execSrli l w gd ga sh s
  | .srai l w gd ga sh => Sys2Proof.Machine.execSrai l w gd ga sh s
  | .rori l w gd ga sh => Sys2Proof.Machine.execRori l w gd ga sh s
  | .extu l gd ga pos len1 => Sys2Proof.Machine.execExtu l gd ga pos len1 s
  | .ext l gd ga pos len1 => Sys2Proof.Machine.execExt l gd ga pos len1 s
  | .ins l gd ga pos len1 => Sys2Proof.Machine.execIns l gd ga pos len1 s
  | .addi l gd ga imm => Sys2Proof.Machine.execAddi l gd ga imm s
  | .addiw l gd ga imm => Sys2Proof.Machine.execAddiw l gd ga imm s
  | .andi l gd ga imm => Sys2Proof.Machine.execAndi l gd ga imm s
  | .ori l gd ga imm => Sys2Proof.Machine.execOri l gd ga imm s
  | .xori l gd ga imm => Sys2Proof.Machine.execXori l gd ga imm s
  | .slti l gd ga imm => Sys2Proof.Machine.execSlti l gd ga imm s
  | .sltiu l gd ga imm => Sys2Proof.Machine.execSltiu l gd ga imm s
  | .lui l gd imm => Sys2Proof.Machine.execLui l gd imm s
  | .shi l gd ga imm => Sys2Proof.Machine.execShi l gd ga imm s
  | .auipc l gd imm => Sys2Proof.Machine.execAuipc l gd imm s
  | .scalarLoad l sz u gd ga off => Sys2Proof.Machine.execScalarLoad l sz u gd ga off s
  | .scalarStore l sz gs ga off => Sys2Proof.Machine.execScalarStore l sz gs ga off s
  | .flwFld l sz fd ga off => Sys2Proof.Machine.execFlwFld l sz fd ga off s
  | .fswFsd l sz fs ga off => Sys2Proof.Machine.execFswFsd l sz fs ga off s
  | .indexedLoad l sz u sc gd ga gb => Sys2Proof.Machine.execIndexedLoad l sz u sc gd ga gb s
  | .indexedStore l sz sc gs ga gb => Sys2Proof.Machine.execIndexedStore l sz sc gs ga gb s
  | .pref l hint ga off => Sys2Proof.Machine.execPref l hint ga off s
  | .jump l disp => Sys2Proof.Machine.execJump l disp s
  | .jal l disp => Sys2Proof.Machine.execJal l disp s
  | .jalr l gd ga imm => Sys2Proof.Machine.execJalr l gd ga imm s
  | .bc l cond ga gb disp => Sys2Proof.Machine.execBc l cond ga gb disp s
  | .bz l cond ga disp => Sys2Proof.Machine.execBz l cond ga disp s
  | .fadd l p rm fd fa fb => Sys2Proof.Machine.execFadd l p rm fd fa fb s
  | .fsub l p rm fd fa fb => Sys2Proof.Machine.execFsub l p rm fd fa fb s
  | .fmul l p rm fd fa fb => Sys2Proof.Machine.execFmul l p rm fd fa fb s
  | .fdiv l p rm fd fa fb => Sys2Proof.Machine.execFdiv l p rm fd fa fb s
  | .fsqrt l p rm fd fa => Sys2Proof.Machine.execFsqrt l p rm fd fa s
  | .fminnum l p fd fa fb => Sys2Proof.Machine.execFminnum l p fd fa fb s
  | .fmaxnum l p fd fa fb => Sys2Proof.Machine.execFmaxnum l p fd fa fb s
  | .fmin l p fd fa fb => Sys2Proof.Machine.execFmin l p fd fa fb s
  | .fmax l p fd fa fb => Sys2Proof.Machine.execFmax l p fd fa fb s
  | .fabs l p fd fa => Sys2Proof.Machine.execFabs l p fd fa s
  | .fneg l p fd fa => Sys2Proof.Machine.execFneg l p fd fa s
  | .fcopys l p fd fa fb => Sys2Proof.Machine.execFcopys l p fd fa fb s
  | .fnabs l p fd fa => Sys2Proof.Machine.execFnabs l p fd fa s
  | .fma l p rm fd fa fb fc => Sys2Proof.Machine.execFma l p rm fd fa fb fc s
  | .fms l p rm fd fa fb fc => Sys2Proof.Machine.execFms l p rm fd fa fb fc s
  | .frms l p rm fd fa fb fc => Sys2Proof.Machine.execFrms l p rm fd fa fb fc s
  | .fnma l p rm fd fa fb fc => Sys2Proof.Machine.execFnma l p rm fd fa fb fc s
  | .fceq l p gd fa fb => Sys2Proof.Machine.execFceq l p gd fa fb s
  | .fclt l p gd fa fb => Sys2Proof.Machine.execFclt l p gd fa fb s
  | .fcle l p gd fa fb => Sys2Proof.Machine.execFcle l p gd fa fb s
  | .fcun l p gd fa fb => Sys2Proof.Machine.execFcun l p gd fa fb s
  | .fcltq l p gd fa fb => Sys2Proof.Machine.execFcltq l p gd fa fb s
  | .fcleq l p gd fa fb => Sys2Proof.Machine.execFcleq l p gd fa fb s
  | .fkind l p gd fa => Sys2Proof.Machine.execFkind l p gd fa s
  | .fcvt l p rm fd fa => Sys2Proof.Machine.execFcvt l p rm fd fa s
  | .ftoi64 l p rm gd fa => Sys2Proof.Machine.execFtoi64 l p rm gd fa s
  | .ftou64 l p rm gd fa => Sys2Proof.Machine.execFtou64 l p rm gd fa s
  | .ftoi32 l p rm gd fa => Sys2Proof.Machine.execFtoi32 l p rm gd fa s
  | .ftou32 l p rm gd fa => Sys2Proof.Machine.execFtou32 l p rm gd fa s
  | .i64tof l p rm fd ga => Sys2Proof.Machine.execI64tof l p rm fd ga s
  | .u64tof l p rm fd ga => Sys2Proof.Machine.execU64tof l p rm fd ga s
  | .i32tof l p rm fd ga => Sys2Proof.Machine.execI32tof l p rm fd ga s
  | .u32tof l p rm fd ga => Sys2Proof.Machine.execU32tof l p rm fd ga s
  | .fbits l p gd fa => Sys2Proof.Machine.execFbits l p gd fa s
  | .gbits l p fd ga => Sys2Proof.Machine.execGbits l p fd ga s
  | .frint l p rm fd fa => Sys2Proof.Machine.execFrint l p rm fd fa s
  | .frintx l p rm fd fa => Sys2Proof.Machine.execFrintx l p rm fd fa s
  | .cas l d ord gd ga gb => Sys2Proof.Machine.execCas l d ord gd ga gb s
  | .atomicSwap l d ord gd ga gb => Sys2Proof.Machine.execAtomicSwap l d ord gd ga gb s
  | .atomicAdd l d ord gd ga gb => Sys2Proof.Machine.execAtomicAdd l d ord gd ga gb s
  | .atomicAnd l d ord gd ga gb => Sys2Proof.Machine.execAtomicAnd l d ord gd ga gb s
  | .atomicOr l d ord gd ga gb => Sys2Proof.Machine.execAtomicOr l d ord gd ga gb s
  | .atomicXor l d ord gd ga gb => Sys2Proof.Machine.execAtomicXor l d ord gd ga gb s
  | .atomicMin l d u ord gd ga gb => Sys2Proof.Machine.execAtomicMin l d u ord gd ga gb s
  | .atomicMax l d u ord gd ga gb => Sys2Proof.Machine.execAtomicMax l d u ord gd ga gb s
  | .atomicSadd l d u ord gd ga gb => Sys2Proof.Machine.execAtomicSadd l d u ord gd ga gb s
  | .barLl l => Sys2Proof.Machine.execBarLl l s
  | .barSs l => Sys2Proof.Machine.execBarSs l s
  | .barFull l => Sys2Proof.Machine.execBarFull l s
  | .barDev l => Sys2Proof.Machine.execBarDev l s
  | .isync l => Sys2Proof.Machine.execIsync l s
  | .aese l vd va vb => Sys2Proof.Machine.execAese l vd va vb s
  | .aesel l vd va vb => Sys2Proof.Machine.execAesel l vd va vb s
  | .aesd l vd va vb => Sys2Proof.Machine.execAesd l vd va vb s
  | .aesdl l vd va vb => Sys2Proof.Machine.execAesdl l vd va vb s
  | .aesimc l vd va => Sys2Proof.Machine.execAesimc l vd va s
  | .sha256r l vd va vb => Sys2Proof.Machine.execSha256r l vd va vb s
  | .sha256m l vd va vb => Sys2Proof.Machine.execSha256m l vd va vb s
  | .sha512r l vd va vb => Sys2Proof.Machine.execSha512r l vd va vb s
  | .sha512m l vd va => Sys2Proof.Machine.execSha512m l vd va s
  | .crc32c l size gd ga gb => Sys2Proof.Machine.execCrc32c l size gd ga gb s
  | .padds l vd va vb m g t => Sys2Proof.Machine.execPadds l vd va vb m g t s
  | .paddu l vd va vb m g t => Sys2Proof.Machine.execPaddu l vd va vb m g t s
  | .psubs l vd va vb m g t => Sys2Proof.Machine.execPsubs l vd va vb m g t s
  | .psubu l vd va vb m g t => Sys2Proof.Machine.execPsubu l vd va vb m g t s
  | .pmulr l vd va vb m g t => Sys2Proof.Machine.execPmulr l vd va vb m g t s
  | .pmin l vd va vb m g t => Sys2Proof.Machine.execPmin l vd va vb m g t s
  | .pmax l vd va vb m g t => Sys2Proof.Machine.execPmax l vd va vb m g t s
  | .pminu l vd va vb m g t => Sys2Proof.Machine.execPminu l vd va vb m g t s
  | .pmaxu l vd va vb m g t => Sys2Proof.Machine.execPmaxu l vd va vb m g t s
  | .psad l vd va vb m g t => Sys2Proof.Machine.execPsad l vd va vb m g t s
  | .psel l vd va vb m g t => Sys2Proof.Machine.execPsel l vd va vb m g t s
  | .pand l vd va vb m g t => Sys2Proof.Machine.execPand l vd va vb m g t s
  | .por l vd va vb m g t => Sys2Proof.Machine.execPor l vd va vb m g t s
  | .pxor l vd va vb m g t => Sys2Proof.Machine.execPxor l vd va vb m g t s
  | .pwacc l vd va m g t => Sys2Proof.Machine.execPwacc l vd va m g t s
  | .pwmac l vd va vb m g t => Sys2Proof.Machine.execPwmac l vd va vb m g t s
  | .pmand l md ma mb => Sys2Proof.Machine.execPmand l md ma mb s
  | .pmor l md ma mb => Sys2Proof.Machine.execPmor l md ma mb s
  | .pmxor l md ma mb => Sys2Proof.Machine.execPmxor l md ma mb s
  | .pmandn l md ma mb => Sys2Proof.Machine.execPmandn l md ma mb s
  | .pgtomL l md ga => Sys2Proof.Machine.execPgtomL l md ga s
  | .pgtomH l md ga => Sys2Proof.Machine.execPgtomH l md ga s
  | .pmtogL l gd ma => Sys2Proof.Machine.execPmtogL l gd ma s
  | .pmtogH l gd ma => Sys2Proof.Machine.execPmtogH l gd ma s
  | .pld l vd ga imm7 m g t => Sys2Proof.Machine.execPld l vd ga imm7 m g t s
  | .pst l vd ga imm7 m g t => Sys2Proof.Machine.execPst l vd ga imm7 m g t s
  | .pbcast l vd ga m g t => Sys2Proof.Machine.execPbcast l vd ga m g t s
  | .pscaleUp l vd va m g t k => Sys2Proof.Machine.execPscaleUp l vd va m g t k s
  | .pscaleDn l vd va m g t k => Sys2Proof.Machine.execPscaleDn l vd va m g t k s
  | .pcmpEq l md va vb m g t => Sys2Proof.Machine.execPcmpEq l md va vb m g t s
  | .pcmpNe l md va vb m g t => Sys2Proof.Machine.execPcmpNe l md va vb m g t s
  | .pcmpLt l md va vb m g t => Sys2Proof.Machine.execPcmpLt l md va vb m g t s
  | .pcmpLe l md va vb m g t => Sys2Proof.Machine.execPcmpLe l md va vb m g t s
  | .pcmpLtu l md va vb m g t => Sys2Proof.Machine.execPcmpLtu l md va vb m g t s
  | .pcmpLeu l md va vb m g t => Sys2Proof.Machine.execPcmpLeu l md va vb m g t s
  | .pa2b l vd va aux m g t => Sys2Proof.Machine.execPa2b l vd va aux m g t s
  | .pb2a l vd va aux m g t => Sys2Proof.Machine.execPb2a l vd va aux m g t s
  | .pbcd2b l vd va aux m g t => Sys2Proof.Machine.execPbcd2b l vd va aux m g t s
  | .pb2bcd l vd va aux m g t => Sys2Proof.Machine.execPb2bcd l vd va aux m g t s
  | .pluhn l vd va aux m g t => Sys2Proof.Machine.execPluhn l vd va aux m g t s
  | .pins l vd ga ix t => Sys2Proof.Machine.execPins l vd ga ix t s
  | .pext l gd va ix t => Sys2Proof.Machine.execPext l gd va ix t s
  | .qpost l gd ga gb => Sys2Proof.Machine.execQpost l gd ga gb s
  | .qpostl l gd ga slot => Sys2Proof.Machine.execQpostl l gd ga slot s
  | .qread l gd ga gb slot => Sys2Proof.Machine.execQread l gd ga gb slot s
  | .qtry l gd ga gb slot => Sys2Proof.Machine.execQtry l gd ga gb slot s
  | .qwait l gd ga gb slot => Sys2Proof.Machine.execQwait l gd ga gb slot s
  | .qctlQuery l gd ga gb => Sys2Proof.Machine.execQctlQuery l gd ga gb s
  | .qctlSetup l gd ga gb => Sys2Proof.Machine.execQctlSetup l gd ga gb s
  | .qctlEnable l gd ga gb => Sys2Proof.Machine.execQctlEnable l gd ga gb s
  | .qctlDisable l gd ga gb => Sys2Proof.Machine.execQctlDisable l gd ga gb s
  | .qctlFlush l gd ga gb => Sys2Proof.Machine.execQctlFlush l gd ga gb s
  | .qctlLimits l gd ga gb => Sys2Proof.Machine.execQctlLimits l gd ga gb s
  | .qctlRights l gd ga gb => Sys2Proof.Machine.execQctlRights l gd ga gb s
  | .qctlRevive l gd ga gb => Sys2Proof.Machine.execQctlRevive l gd ga gb s
  | .qctlGset l gd ga gb => Sys2Proof.Machine.execQctlGset l gd ga gb s
  | .tlbiVa l s0 ga gb => Sys2Proof.Machine.execTlbiVa l s0 ga gb s
  | .tlbiAsid l s0 ga gb => Sys2Proof.Machine.execTlbiAsid l s0 ga gb s
  | .tlbiAll l s0 ga gb => Sys2Proof.Machine.execTlbiAll l s0 ga gb s
  | .slbi l s0 ga gb => Sys2Proof.Machine.execSlbi l s0 ga gb s
  | .dcz l ga => Sys2Proof.Machine.execDcz l ga s
  | .dcc l ga => Sys2Proof.Machine.execDcc l ga s
  | .dcci l ga => Sys2Proof.Machine.execDcci l ga s
  | .pflush l => Sys2Proof.Machine.execPflush l s
  | .pbar l ga gb => Sys2Proof.Machine.execPbar l ga gb s
  | .wcall l => Sys2Proof.Machine.execWcall l s
  | .wret l => Sys2Proof.Machine.execWret l s
  | .eret l => Sys2Proof.Machine.execEret l s
  | .waiti l => Sys2Proof.Machine.execWaiti l s
  | .mfs l gd sr => Sys2Proof.Machine.execMfs l gd sr s
  | .mts l sr ga => Sys2Proof.Machine.execMts l sr ga s
  | .sys l code => Sys2Proof.Machine.execSys l code s
  | .brk l code => Sys2Proof.Machine.execBrk l code s
  | .stlbw l ga gb idx => Sys2Proof.Machine.execStlbw l ga gb idx s
  | .stlbr l gd idx h => Sys2Proof.Machine.execStlbr l gd idx h s
  | .stlbi l all ga => Sys2Proof.Machine.execStlbi l all ga s
  | .pmuld l vd va vb m g t k => Sys2Proof.Machine.execPmuld l vd va vb m g t k s
  | _ => illegalWord l s

/-- A word handed to a core as its next instruction: one that an encoding of 07 R223 to R240, 05 R187 or 03 R83 spells is that
instruction; any other, of an unassigned major, with a non-zero zero field or an unassigned value, raises illegal instruction
(07 R221, R223; log entry 70). -/
def execUnassignedMajor (l : Fin 384) (word : BitVec 32) (s : State) : Host.Outcome State Fault Refusal :=
  match decodeWord l word with
  | some i => wordMeaning l i s
  | none => illegalWord l s

end Sys2Proof.Machine
end

