-- ==== Sys2Proof/Machine/Iotu.lean ====
section
/-! DEFINITION. The IOTU of the root-port bundles (09 R303 to R310) and the requests that come in through them (14 R437). -/
namespace Sys2Proof.Machine

/-! ### Tables and caches (R303, R306) -/

/-- The tag of a stream's entries. -/
def ioKey (b rid : Nat) : Nat := b * 65536 + rid

/-- The device with the IOTU's caches changed. -/
def Dev.updIotu (d : Dev) (f : Iotu → Iotu) : Dev := { d with iotu := f d.iotu }

/-- The skein entry of a root port's owner. -/
def Dev.ownerCfg (d : Dev) (b : Nat) : Option SkeinCfg := (d.bundleOwner b).bind d.skeinCfg

/-- Whether the IOTU of a bundle is ON (R309). -/
def Dev.ioOn (d : Dev) (b : Nat) : Bool := d.regF (Reg.MMU_IO_CFG b) 31 31 == 1

/-- What stops a translation: a fault with its code and SUB (R305), or a line of a table that cannot be reached yet (12 R387,
11 R354). -/
inductive IoStop where
  | fault (code sub : Nat)
  | wait
  deriving DecidableEq, Repr

/-- A line of a table is reached through its home, or the translation waits or fails (R285, R286; the SUB of DOMAIN_OFF is a
DESIGN CHOICE, log entry 64). -/
def Dev.ioReach (d : Dev) (at_ : Nat) : Dev × Except IoStop Unit :=
  match d.hubReach 17 (at_ / 64) .rdnc with
  | (d, .ok) => (d, .ok ())
  | (d, .err _) => (d, .error (.fault 0x08 4))
  | (d, _) => (d, .error .wait)

/-- An 8-byte word that a walk reads, or its walk fault (R285, R286). -/
def Dev.ioWalkRead (d : Dev) (b at_ : Nat) : Dev × Except IoStop Word :=
  match d.walkFail (d.ownerCfg b) at_ with
  | some sub => (d, .error (.fault 0x08 sub))
  | none => match d.ioReach at_ with
    | (d, .error e) => (d, .error e)
    | (d, .ok ()) =>
      let d := d.hubRead 17 (at_ / 64)
      if d.poisoned (at_ / 64) then (d, .error (.fault 0x08 5)) else (d, .ok (BitVec.ofNat 64 (d.readLe at_ 8)))

/-- The stream of a RID: from the stream cache of 64, or from the stream table; what is read is kept (R303, R306). -/
def Dev.ioStream (d : Dev) (b rid : Nat) : Dev × Except IoStop IoStream :=
  match d.iotu.streams.find? fun (e : Nat × IoStream) => e.1 == ioKey b rid with
  | some e => (d, .ok e.2)
  | none =>
    if 2 ^ d.regF (Reg.MMU_IO_CFG b) 20 16 ≤ rid then (d, .error (.fault 0x08 6))
    else match d.ioWalkRead b (d.reg64 (Reg.MMU_IO_STB_LO b) + rid * 8) with
      | (d, .error e) => (d, .error e)
      | (d, .ok w) =>
        if !bit w 0 then (d, .error (.fault 0x08 6))
        else if field w 63 52 ≠ 0 ∨ field w 7 1 ≠ 0 then (d, .error (.fault 0x08 3))
        else
          let x : IoStream := ⟨w, []⟩
          (d.updIotu fun t => { t with streams := ((ioKey b rid, x) :: t.streams).take 64 }, .ok x)

/-- The descriptor of a segment of a stream (R280, R281, R306). -/
def Dev.ioDescriptor (d : Dev) (b rid seg : Nat) (x : IoStream) : Dev × Except IoStop (Word × Word) :=
  match mget none x.descs seg with
  | some w => (d, .ok w)
  | none =>
    let at_ := field x.entry 51 8 * 256 + seg * 16
    match d.ioWalkRead b at_ with
    | (d, .error e) => (d, .error e)
    | (d, .ok w0) =>
      let w1 : Word := BitVec.ofNat 64 (d.readLe (at_ + 8) 8)
      if !bit w0 0 then (d, .error (.fault 0x0B 2))
      else if field w0 63 52 != 0 || field w0 11 6 != 0 || field w1 11 0 != 0 then (d, .error (.fault 0x08 3))
      else (d.updIotu fun t => { t with
        streams := t.streams.map fun (e : Nat × IoStream) => if e.1 = ioKey b rid then (e.1, { e.2 with descs := mset none e.2.descs seg (some (w0, w1)) }) else e }, .ok (w0, w1))

/-- The table walk from level `lvl` (R284, R304); `code` is the translation fault of the access. -/
def Dev.ioWalk (d : Dev) (b rid : Nat) (asid : BitVec 16) (g : Bool) (va code : Nat) : Nat → Nat → Dev × Except IoStop Found
  | lvl, tbl =>
    let at_ := tbl + vaIndex va lvl * 8
    let hit := d.iotu.walk.find? fun (e : Nat × WalkEntry) =>
      e.1 == ioKey b rid && e.2.lvl == lvl && e.2.vaTop == va / 2 ^ (12 + 9 * lvl) && (e.2.asid == none || e.2.asid == some asid)
    let r : Dev × Except IoStop Word := match hit with
      | some e => (d, .ok e.2.pte)
      | none => d.ioWalkRead b at_
    match r with
    | (d, .error e) => (d, .error e)
    | (d, .ok p) =>
      if !bit p 0 then (d, .error (.fault code lvl))
      else if pteIllegal p lvl then (d, .error (.fault 0x08 3))
      else if !bit p 1 then (d, .ok ⟨p, at_, 12 + 9 * lvl⟩)
      else match lvl with
        | 0 => (d, .error (.fault 0x08 3))
        | lvl' + 1 =>
          let w : WalkEntry := ⟨if g then none else some asid, lvl, va / 2 ^ (12 + 9 * lvl), p⟩
          let d := if hit.isSome then d else d.updIotu fun t => { t with walk := ((ioKey b rid, w) :: t.walk).take 32 }
          d.ioWalk b rid asid g va code lvl' (ptePa p)

/-- The entry that translates a bus address, and word 0 of its descriptor: from the IOTLB of 2,048, or by a walk (R284, R304,
R306). -/
def Dev.ioFind (d : Dev) (b rid : Nat) (addr : Word) (write : Bool) : Dev × Except IoStop (TlbEntry × Word) :=
  if field addr 59 48 ≠ 0 then (d, .error (.fault 0x0B 1))
  else
    let v := field addr 47 0
    match d.ioStream b rid with
    | (d, .error e) => (d, .error e)
    | (d, .ok x) => match d.ioDescriptor b rid (field addr 63 60) x with
      | (d, .error e) => (d, .error e)
      | (d, .ok (w0, w1)) =>
        if field w1 47 12 < v / 4096 then (d, .error (.fault 0x0B 3))
        else
          let asid : BitVec 16 := BitVec.ofNat 16 (field w1 63 48)
          match d.iotu.tlb.find? fun (e : Nat × TlbEntry) =>
              e.1 == ioKey b rid && (e.2.asid == none || e.2.asid == some asid) && e.2.va / 2 ^ e.2.sizeLog2 == v / 2 ^ e.2.sizeLog2 with
          | some e => (d, .ok (e.2, w0))
          | none => match d.ioWalk b rid asid (bit w0 5) v (if write then 0x06 else 0x05) 3 (field w0 51 12 * 4096) with
            | (d, .error e) => (d, .error e)
            | (d, .ok f) =>
              let e : TlbEntry := ⟨if bit w0 5 || bit f.leaf 6 then none else some asid, v / 2 ^ f.sizeLog2 * 2 ^ f.sizeLog2, f.sizeLog2, f.leaf, f.at_⟩
              (d.updIotu fun t => { t with tlb := ((ioKey b rid, e) :: t.tlb).take 2048 }, .ok (e, w0))

/-- A leaf with the bits of an access set: A for every request, D as well for a write (R304). -/
def ioMarked (leaf : Word) (write : Bool) : Word := leaf ||| (if write then 0x180#64 else 0x80#64)

/-- Whether a physical address is that of IRQ_DOORBELL's page, the one DEVICE page that a 4-byte write may reach (R304). -/
def doorbellPage (pa : Nat) : Bool := pa / 4096 == Reg.IRQ_DOORBELL / 4096

/-- Why a translated request is refused: rights, a DEVICE page or a PCIe window, secure memory (R287, R304, 14 R437). -/
def Dev.ioRights (d : Dev) (e : TlbEntry) (w0 : Word) (pa : Nat) (write : Bool) (len : Nat) : Option (Nat × Nat) :=
  let bus : Bool := match placeOf pa with | .pcie _ => true | _ => false
  if (if write then !(bit e.leaf 3 && bit w0 2) else !(bit e.leaf 2 && bit w0 1)) then some (0x07, 1)
  else if (leafType e.leaf == .device || bus) && !(write && len == 4 && leafType e.leaf == .device && doorbellPage pa) then some (0x07, 4)
  else if pa < d.secMarkBytes then some (0x07, 5)
  else none

/-- The A and D update of an access that its rights allow, in memory and in the IOTLB: the new entry is written where memory
still holds what was read; else the entry is discarded (R289, R290, R304). -/
def Dev.ioMark (d : Dev) (e : TlbEntry) (write : Bool) : Dev × Except IoStop Bool :=
  let new := ioMarked e.leaf write
  if new = e.leaf then (d, .ok true)
  else match d.ioReach e.leafAt with
    | (d, .error s) => (d, .error s)
    | (d, .ok ()) =>
      if d.readLe e.leafAt 8 = e.leaf.toNat then
        ((d.hubWriteAll 17 e.leafAt (leBytes 8 new.toNat)).updIotu fun t => { t with
          tlb := t.tlb.map fun (x : Nat × TlbEntry) => if x.2.leafAt = e.leafAt then (x.1, { x.2 with leaf := new }) else x }, .ok true)
      else (d.updIotu fun t => { t with tlb := t.tlb.filter fun (x : Nat × TlbEntry) => x.2.leafAt != e.leafAt }, .ok false)

/-- A translation in the order of R284: the entry is found, its rights are checked, and A and D are set. None where the entry
was discarded and the walk is to be made again. -/
def Dev.ioOnce (d : Dev) (b rid : Nat) (addr : Word) (write : Bool) (len : Nat) : Dev × Except IoStop (Option (Nat × TlbEntry)) :=
  match d.ioFind b rid addr write with
  | (d, .error e) => (d, .error e)
  | (d, .ok (e, w0)) =>
    let pa := ptePa e.leaf + field addr 47 0 % 2 ^ e.sizeLog2
    match d.ioRights e w0 pa write len with
    | some x => (d, .error (.fault x.1 x.2))
    | none => match d.ioMark e write with
      | (d, .error s) => (d, .error s)
      | (d, .ok done) => (d, .ok (if done then some (pa, e) else none))

/-- The translation of a bus address to a physical one, with the entry it used (R304). -/
def Dev.ioTranslate (d : Dev) (b rid : Nat) (addr : Word) (write : Bool) (len : Nat) : Dev × Except IoStop (Nat × TlbEntry) :=
  match d.ioOnce b rid addr write len with
  | (d, .error s) => (d, .error s)
  | (d, .ok (some r)) => (d, .ok r)
  | (d, .ok none) => match d.ioOnce b rid addr write len with
    | (d, .error s) => (d, .error s)
    | (d, .ok (some r)) => (d, .ok r)
    | (d, .ok none) => (d, .error .wait)

/-! ### Failures (R305) -/

/-- A failure is recorded, the first in full and a later one in MORE; each recorded one signals ROUTE where FIE is set (R305,
R310). -/
def Dev.ioFault (d : Dev) (b rid : Nat) (addr : Word) (write : Bool) (code sub : Nat) : Dev :=
  let a := Reg.MMU_IO_FAULT_INFO b
  if d.regF a 31 31 = 1 then d.setRegF a 30 30 1
  else
    let d := d.setReg a (BitVec.ofNat 32 (2 ^ 31 + b2n write * 2 ^ 29 + sub % 16 * 2 ^ 24 + code % 256 * 2 ^ 16 + rid))
    let d := d.setReg64 (Reg.MMU_IO_FAULT_ADDR_LO b) addr.toNat
    if d.regF (Reg.MMU_IO_CFG b) 30 30 = 1 then
      (if hb : b < 8 then d.doorbell (.rootPort ⟨b, hb⟩) (d.regF (Reg.MMU_IO_CFG b) 11 0) else d)
    else d

/-- A request with its bus address: refused unrecorded while the IOTU is OFF; translated and sent on its way; refused and
recorded; or waiting for a line of its tables (R304, R305, R307). -/
def Dev.ioStart (d : Dev) (x : HubAccess) (addr : Word) : Dev :=
  if !d.ioOn x.bd then d.hubAnswer x .dead []
  else match d.ioTranslate x.bd x.rid addr x.write x.len with
    | (d, .error (.fault code sub)) => (d.ioFault x.bd x.rid addr x.write code sub).hubAnswer x .dead []
    | (d, .error .wait) => d.hubQueue { x with bus := some addr }
    | (d, .ok (pa, e)) => d.hubGo { x with bus := none, pa := pa, mt := leafType e.leaf, leaf := e.leafAt }

/-- Every access of a hub agent that waits is tried again, in order: translated first where it is not. -/
def Dev.ioPump (d : Dev) : Dev :=
  let w := d.links.waitHome
  w.foldl (fun d x => match x.bus with
    | some addr => d.ioStart x addr
    | none => d.hubGo x) { d with links := { d.links with waitHome := [] } }

/-- INBOUND_DMA_REQUEST: refused unrecorded for requests the root port does not implement, else translated and performed, or
refused and recorded (R304 to R307, 14 R437 to R439). -/
def execInboundDmaRequest (bd : Fin 8) (req : DmaReq) (s : State) : Host.Outcome State Fault Refusal :=
  onDev s fun d =>
    let b := bd.val
    let write := req.kind.val == 1
    let x : HubAccess :=
      { agent := 17, bd := b, rid := req.rid.toNat, pa := 0, write := write, len := if write then req.data.length else req.len
        data := req.data, ep := req.poisoned, relaxed := req.relaxed, mt := .wb, bus := none, leaf := 0, inv := false }
    if d.bundleMode b ≠ 1 || d.safe || !(d.bun b).l0 || d.pceState b != 1 then d
    else if req.ats || decide (1 < req.kind.val) then d.emit (.rpAnswer b req.rid.toNat 1 [])
    else d.ioStart x req.addr

/-! ### Invalidation (R306, R309) -/

/-- Whether a requester's writes reach the IOTU of a bundle: Distaff, and cores at K or SK of the skein that owns the root
port (R308). -/
def Dev.ioWrites (d : Dev) (q : Requester) (b : Nat) : Bool :=
  match q with
  | .distaff => true
  | _ => d.mayRead q .iotu [b]

/-- A command of MMU_IO_INV_CMD: its result, and what it removes; BUSY waits for the requests that translated through what is
removed (R306, R309). -/
def Dev.ioInv (d : Dev) (q : Requester) (b id kind : Nat) (f : Iotu → Iotu) : Dev :=
  let res (d : Dev) (st : Status) : Dev :=
    (if st = .state then d.count (Reg.MMU_IO_STATE_REJECT b) else d).setRegF (Reg.MMU_IO_INV_STATUS b) 31 24 st.code
  if !d.ioWrites q b then d
  else
    let d := d.setRegF (Reg.MMU_IO_INV_CMD b) 31 16 id
    if kind = 0 then d
    else if d.safe then res d .halted
    else if !d.ioOn b then res d .state
    else if 4 < kind then res d .range
    else if d.regF (Reg.MMU_IO_INV_STATUS b) 8 8 = 1 then res d .busy
    else
      let new := f d.iotu
      let gone (x : HubAccess) : Bool := x.agent == 17 && x.bd == b && x.bus.isNone &&
        ((d.iotu.streams.any fun (e : Nat × IoStream) => e.1 == ioKey b x.rid && !new.streams.contains e) ||
         (d.iotu.tlb.any fun (e : Nat × TlbEntry) => e.1 == ioKey b x.rid && e.2.leafAt == x.leaf && !new.tlb.contains e))
      let d := d.hubMap fun x => if gone x then { x with inv := true } else x
      ((res d .ok).updIotu fun _ => new).setRegF (Reg.MMU_IO_INV_STATUS b) 8 8 1

/-- STREAM: every entry of a RID. -/
def Iotu.dropStream (b rid : Nat) (t : Iotu) : Iotu :=
  { streams := t.streams.filter fun (e : Nat × IoStream) => e.1 != ioKey b rid
    tlb := t.tlb.filter fun (e : Nat × TlbEntry) => e.1 != ioKey b rid
    walk := t.walk.filter fun (e : Nat × WalkEntry) => e.1 != ioKey b rid }

/-- ASID: every non-global entry of an ASID. -/
def Iotu.dropAsid (b : Nat) (asid : BitVec 16) (t : Iotu) : Iotu :=
  { t with
    tlb := t.tlb.filter fun (e : Nat × TlbEntry) => !(e.1 / 65536 == b && e.2.asid == some asid)
    walk := t.walk.filter fun (e : Nat × WalkEntry) => !(e.1 / 65536 == b && e.2.asid == some asid) }

/-- VA: the leaf and path of a bus address with an ASID, and global entries on it. -/
def Iotu.dropVa (b va : Nat) (asid : BitVec 16) (t : Iotu) : Iotu :=
  { t with
    tlb := t.tlb.filter fun (e : Nat × TlbEntry) =>
      !(e.1 / 65536 == b && (e.2.asid == none || e.2.asid == some asid) && e.2.va / 2 ^ e.2.sizeLog2 == va / 2 ^ e.2.sizeLog2)
    walk := t.walk.filter fun (e : Nat × WalkEntry) =>
      !(e.1 / 65536 == b && (e.2.asid == none || e.2.asid == some asid) && e.2.vaTop == va / 2 ^ (12 + 9 * e.2.lvl)) }

/-- ALL: every entry of the bundle. -/
def Iotu.dropAll (b : Nat) (t : Iotu) : Iotu :=
  { streams := t.streams.filter fun (e : Nat × IoStream) => e.1 / 65536 != b
    tlb := t.tlb.filter fun (e : Nat × TlbEntry) => e.1 / 65536 != b
    walk := t.walk.filter fun (e : Nat × WalkEntry) => e.1 / 65536 != b }

/-- A write of MMU_IO_INV_CMD with an ID and a KIND. -/
def Dev.ioInvWrite (d : Dev) (q : Requester) (b : Nat) (id : BitVec 16) (kind : Nat) : Dev :=
  d.ioInv q b id.toNat kind (match kind with
    | 1 => Iotu.dropStream b id.toNat
    | 2 => Iotu.dropAsid b id
    | 3 => Iotu.dropVa b (d.reg64 (Reg.MMU_IO_INV_VA_LO b) % 2 ^ 48) id
    | _ => Iotu.dropAll b)

/-- KIND STREAM (R306). -/
def execIotuInvStream (q : Requester) (bd : Fin 8) (id : BitVec 16) (s : State) : Host.Outcome State Fault Refusal :=
  onDev s fun d => d.ioInvWrite q bd.val id 1

/-- KIND ASID (R306). -/
def execIotuInvAsid (q : Requester) (bd : Fin 8) (id : BitVec 16) (s : State) : Host.Outcome State Fault Refusal :=
  onDev s fun d => d.ioInvWrite q bd.val id 2

/-- KIND VA, with the ASID that ID holds (R306). -/
def execIotuInvVa (q : Requester) (bd : Fin 8) (s : State) : Host.Outcome State Fault Refusal :=
  onDev s fun d => d.ioInvWrite q bd.val (BitVec.ofNat 16 (d.regF (Reg.MMU_IO_INV_CMD bd.val) 31 16)) 3

/-- KIND ALL (R306). -/
def execIotuInvAll (q : Requester) (bd : Fin 8) (s : State) : Host.Outcome State Fault Refusal :=
  onDev s fun d => d.ioInvWrite q bd.val (BitVec.ofNat 16 (d.regF (Reg.MMU_IO_INV_CMD bd.val) 31 16)) 4

/-- IOTU_INV_DONE: BUSY clears, once every request that translated through a removed entry is performed or refused (R306). -/
def execIotuInvDone (bd : Fin 8) (s : State) : Host.Outcome State Fault Refusal :=
  onDev s fun d =>
    if d.hubWaiting.any fun x => x.inv && x.bd == bd.val then d
    else d.setRegF (Reg.MMU_IO_INV_STATUS bd.val) 8 8 0

end Sys2Proof.Machine
end

