-- ==== Sys2Proof/Machine/BarRegs.lean ====
section
/-! DEFINITION. The registers of a function of an endpoint bundle as its host reaches them: BAR0 (04 R125 to R127, 14 R442,
R453, R461 to R466) and configuration space (14 R443 to R447, R454 to R458). -/
namespace Sys2Proof.Machine

/-! ### What the fields take and show -/

/-- The rw bits of a word of a channel's page. -/
def chanMask (off : Nat) : Nat :=
  match off with
  | 0x000 => 0x80
  | 0x020 => 0xFFFF
  | 0x024 => 0xFFFFFFFF
  | 0x028 => 0xFFFF
  | 0x02C => 0x800007FF
  | _ => if 0x008 ≤ off ∧ off ≤ 0x01C then 0xFFFFFFFF else 0

/-- The rw bits of a word of the manager page that belongs to the PF itself. -/
def mgrMask (off : Nat) : Nat :=
  match off with
  | 0x000 => 0x03FF0F00
  | 0x004 => 0x1FFFFF
  | 0x008 => 0x1FFFFF
  | 0x00C => 0x0FFF07FF
  | 0x018 => 0x800007FF
  | 0x01C => 0x3FF
  | _ => 0

/-- The rw bits of a dirty-log word of the selected VF, by offset in the manager page. -/
def dlogMask (off : Nat) : Nat :=
  match off with
  | 0x500 => 0xFFFFF000
  | 0x508 => 0xFFFFF000
  | 0x510 => 0xFFFC0000
  | 0x504 => 0xFFFFFFFF
  | 0x50C => 0xFFFFFFFF
  | 0x514 => 0xFFFFFFFF
  | 0x518 => 0xFFFFFFFF
  | _ => 0

/-- The word with its rw bits written. -/
def maskWrite (old : Reg32) (mask : Nat) (v : Reg32) : Reg32 :=
  let m : Reg32 := BitVec.ofNat 32 mask
  (old &&& ~~~m) ||| (v &&& m)

/-- Whether an offset of BAR0 is the _LO or the _HI of a pair (R10). -/
def barHalf (off : Nat) : Half :=
  let pair (lo : Nat) (base n : Nat) : Half :=
    if lo < base ∨ base + 8 * n ≤ lo then .whole else if (lo - base) % 8 = 0 then .lo else .hi
  if off < 0x8000 then pair (off % 0x1000) 0x008 3
  else if 0x9000 ≤ off ∧ off < 0xA000 then pair (off - 0x9000) 0x500 3
  else .whole

/-- The VF that VFM_SEL names. -/
def Dev.selVf (d : Dev) (b : Nat) : Nat := fnKey b (field (d.mgr b 0x1C) 9 0 + 1)

/-- Where a word of BAR0 is held: the mailbox and dirty-log words of the manager page belong to the selected VF. -/
def Dev.barOwner (d : Dev) (k off : Nat) : Nat :=
  if k % 2048 = 0 ∧ 0x9400 ≤ off ∧ off < 0xA000 then d.selVf (k / 2048) else k

/-- Keys of a function's holding latch and held _LO writes: above every control-space address (04 R125). -/
def latchKey (k off : Nat) : Nat := 2 ^ 60 + k * 2 ^ 20 + (if off < 0x8000 then 0 else off / 8 * 8)

/-- Whether BAR0 takes part in a pool's count of a skein: the skein lists the bundle (R466). -/
def Dev.poolWord (d : Dev) (b off : Nat) : Nat :=
  let s := (off - 0x9100) / 0x10
  if !((d.bunSkeins b).any fun (x : Nat × Nat) => x.1 == s) then 0
  else
    let p := d.pools s
    match (off - 0x9100) % 0x10 with
    | 0 => p.1
    | 4 => p.2.1
    | 8 => p.2.2.1 % 512 * 65536 + p.2.2.2
    | _ => 0

/-- FN_INFO (R465). -/
def Dev.fnInfo (d : Dev) (k : Nat) : Nat :=
  let f := d.fn k
  (d.fnSkein (k / 2048) (k % 2048)).getD 0 * 2 ^ 28 + f.nch % 16 * 2 ^ 24 + f.nvec % 4096 * 2 ^ 12 +
    (if k % 2048 = 0 then 2 else vfCode f.vst) * 2 ^ 10

/-- A word of the MSI-X table (R453). -/
def MsixEntry.word (e : MsixEntry) (i : Nat) : Reg32 :=
  match i with
  | 0 => BitVec.ofNat 32 (e.addr % 2 ^ 32)
  | 1 => BitVec.ofNat 32 (e.addr / 2 ^ 32)
  | 2 => e.data
  | _ => if e.masked then 1#32 else 0#32

/-- The number whose bit `i` is the element at place `i`. -/
def ofBits : List Bool → Nat
  | [] => 0
  | b :: t => b2n b + 2 * ofBits t

/-- The value a word of BAR0 shows (R125, R126, R442, R447, R465, R466). -/
def Dev.barShown (d : Dev) (k off : Nat) : Reg32 :=
  let f := d.fn k
  let pf : Bool := k % 2048 == 0
  if off < 0x8000 then
    if f.nch ≤ off / 0x1000 then 0#32
    else if off % 0x1000 = 4 then putField (d.bar k off) 2 0 (d.chState (k * 8 + off / 0x1000))
    else d.bar k off
  else if off < 0x9000 then
    if off = 0x8084 then BitVec.ofNat 32 (d.fnInfo k)
    else if pf || f.vst != .ready then 0#32 else d.bar k off
  else if off < 0xA000 then
    if !pf then 0#32
    else if off = 0x9014 then
      putField (d.bar k off) 1 0 (match (d.bun (k / 2048)).lastVf with | some v => vfCode (d.fn (fnKey (k / 2048) (v + 1))).vst | none => 0)
    else if 0x9100 ≤ off ∧ off < 0x9200 then BitVec.ofNat 32 (d.poolWord (k / 2048) off)
    else d.bar (d.barOwner k off) off
  else if 0x10000 ≤ off ∧ off < 0x18000 then
    let i := (off - 0x10000) / 16
    if i < f.nvec then (mget MsixEntry.reset f.table i).word (off % 16 / 4) else 0#32
  else if 0x18000 ≤ off ∧ off < 0x18100 then
    BitVec.ofNat 32 (ofBits ((List.range 32).map fun j =>
      let v := (off - 0x18000) * 8 + j
      decide (v < f.nvec) && mget false f.pba v))
  else 0#32

/-- A word of a channel page that the function lacks (04 R125). -/
def Dev.noPage (d : Dev) (k off : Nat) : Bool := decide (off < 0x8000) && decide ((d.fn k).nch ≤ off / 0x1000)

/-- A read of a word of BAR0: its value, with what the read changes (R10, R12); a page that the function lacks is res0 (04
R125). -/
def Dev.barRead (d : Dev) (k off : Nat) : Dev × Reg32 :=
  let x := d.barShown k off
  if d.noPage k off then (d, 0#32)
  else match barHalf off with
  | .lo => ({ d with latch := mset 0#32 d.latch (latchKey k off) (d.barShown k (off + 4)) }, x)
  | .hi => (d, mget 0#32 d.latch (latchKey k off))
  | .whole =>
    (if k % 2048 = 0 ∧ off = 0x9020 then d.setBar k off 0#32 else d, x)

/-- ACK and SEND of a mailbox's control word, the first before the second, and its VECTOR (R461, R465, R466). -/
def Dev.mbxWrite (d : Dev) (k : Nat) (pf : Bool) (v : Reg32) : Dev :=
  let d := if pf then d else d.setBarF k 0x8080 18 8 (field v 18 8)
  let ok : Bool := (d.fn k).vst == .ready && !(d.fn k).flr
  let act (d : Dev) (f : Dev → Dev) : Dev := if ok then f d else d.mbxResult k true .state
  let d := if bit v 1 then act d fun d => d.mbxAck k pf else d
  if bit v 0 then act d fun d => d.mbxSend k pf else d

/-- A word of BAR0 of the manager page is written (R448, R461, R464, R466). -/
def Dev.mgrWrite (d : Dev) (b off : Nat) (v : Reg32) : Dev :=
  let k := fnKey b 0
  let s := d.selVf b
  if off = 0x010 then d.vfmDo b (field v 2 0)
  else if 0x200 ≤ off ∧ off < 0x300 then d.setBar k (0x9000 + off) (d.bar k (0x9000 + off) &&& ~~~v)
  else if 0x440 ≤ off ∧ off < 0x480 then d.setBar s (0x9000 + off) v
  else if off = 0x480 then d.mbxWrite s true v
  else if off = 0x51C then (d.setBarF s 0x951C 31 31 (field v 31 31)).dlogDo s (field v 2 0)
  else if 0x500 ≤ off ∧ off < 0x524 then
    if bit (d.bar s 0x951C) 31 then d
    else if off = 0x520 then d.setBarF s 0x9520 1 1 (if bit v 1 then 0 else field (d.bar s 0x9520) 1 1)
    else d.setBar s (0x9000 + off) (maskWrite (d.bar s (0x9000 + off)) (dlogMask off) v)
  else d.setBar k (0x9000 + off) (maskWrite (d.bar k (0x9000 + off)) (mgrMask off) v)

/-- A word of a channel's page is written (R126, R127). -/
def Dev.chanWrite (d : Dev) (c off : Nat) (v : Reg32) : Dev :=
  let d := d.setBar (c / 8) (c % 8 * 0x1000 + off) (maskWrite (d.chReg c off) (chanMask off) v)
  match off with
  | 0x000 => d.chDo c (field v 2 0)
  | 0x100 => d.chSqDb c v
  | 0x104 => d.chCqDb c v
  | 0x108 => d.chRxDb c v
  | _ => d

/-- A word of a function's MSI-X table is written (R453). -/
def Dev.msixWrite (d : Dev) (k i w : Nat) (v : Reg32) : Dev :=
  let set (f : MsixEntry → MsixEntry) : Dev := d.updFn k fun x => { x with table := mupd MsixEntry.reset x.table i f }
  match w with
  | 0 => (set fun e => { e with addr := e.addr / 2 ^ 32 * 2 ^ 32 + v.toNat }).msixFlush k i
  | 1 => set fun e => { e with addr := e.addr % 2 ^ 32 + v.toNat * 2 ^ 32 }
  | 2 => set fun e => { e with data := v }
  | _ => d.vecMask k i (bit v 0)

/-- A word of BAR0 takes a value; offsets that are res0 or read only ignore it (R442). -/
def Dev.barPut (d : Dev) (k off : Nat) (v : Reg32) : Dev :=
  let f := d.fn k
  let pf : Bool := k % 2048 == 0
  if off < 0x8000 then
    if off / 0x1000 < f.nch then d.chanWrite (k * 8 + off / 0x1000) (off % 0x1000) v else d
  else if off < 0x9000 then
    if pf || f.vst != .ready then d
    else if off < 0x8040 then d.setBar k off v
    else if off = 0x8080 then d.mbxWrite k false v
    else d
  else if off < 0xA000 then (if pf then d.mgrWrite (k / 2048) (off - 0x9000) v else d)
  else if 0x10000 ≤ off ∧ off < 0x18000 then
    let i := (off - 0x10000) / 16
    if i < f.nvec then d.msixWrite k i (off % 16 / 4) v else d
  else d

/-- A write of a word of BAR0, with the pair rules (R10): a _LO is held, and a _HI commits both halves. -/
def Dev.barWrite (d : Dev) (k off : Nat) (v : Reg32) : Dev :=
  let o := d.barOwner k off
  if d.noPage k off then d
  else match barHalf off with
  | .whole => d.barPut k off v
  | .lo => { d with heldLo := mset none d.heldLo (2 ^ 60 + o * 2 ^ 20 + off) (some v) }
  | .hi =>
    let key := 2 ^ 60 + o * 2 ^ 20 + (off - 4)
    let d := match mget none d.heldLo key with
      | some lo => { d with heldLo := mset none d.heldLo key none }.barPut k (off - 4) lo
      | none => d
    d.barPut k off v

/-! ### Configuration space -/

/-- The fields the spec fixes in a word of an endpoint function's configuration space, as (hi, lo, value); the places of the
standard fields are those of the PCI Express structures that R444 lists (log entry 47). -/
def Dev.cfgFixed (d : Dev) (k off : Nat) : List (Nat × Nat × Nat) :=
  let b := k / 2048
  let x := d.bun b
  let f := d.fn k
  let pf : Bool := k % 2048 == 0
  let w (o : Nat) : Nat := (mget 0#32 x.cfg (k % 2048 * 4096 + o)).toNat
  match off with
  | 0x000 => if pf then [(31, 16, 0x9384), (15, 0, Config.raPciVid.toNat)] else [(31, 0, 0xFFFFFFFF)]
  | 0x004 => [(2, 2, b2n f.bme)] ++ (if pf then [(1, 1, w 4 / 2 % 2)] else [])
  | 0x008 => [(31, 8, 0x120000), (7, 0, 0x01)]
  | 0x00C => [(23, 16, 0)]
  | 0x010 => if pf then [(31, 0, w 0x10 / 0x20000 * 0x20000 + 4)] else [(31, 0, 0)]
  | 0x014 => [(31, 0, if pf then w 0x14 else 0)]
  | 0x018 => [(31, 0, 0)]
  | 0x01C => [(31, 0, 0)]
  | 0x020 => [(31, 0, 0)]
  | 0x024 => [(31, 0, 0)]
  | 0x02C => [(31, 16, 0x0384), (15, 0, Config.raPciVid.toNat)]
  | 0x034 => [(7, 0, if pf then 0x40 else 0x50)]
  | 0x03C => [(15, 8, 0)]
  | 0x040 => if pf then [(31, 27, 0b11000), (26, 25, 0), (18, 16, 3), (15, 8, 0x50), (7, 0, 0x01)] else []
  | 0x044 => if pf then [(15, 15, b2n x.pmeStatus), (8, 8, b2n x.pmeEn), (3, 3, 1), (1, 0, if x.d3hot then 3 else 0)] else []
  | 0x050 => [(31, 31, b2n f.msixEn), (30, 30, b2n f.fmask), (26, 16, f.nvec - 1), (15, 8, 0x60), (7, 0, 0x11)]
  | 0x054 => [(31, 0, 0x10000)]
  | 0x058 => [(31, 0, 0x18000)]
  | 0x060 => [(23, 20, 0), (15, 8, 0), (7, 0, 0x10)]
  | 0x064 => [(28, 28, 1), (5, 5, 1), (2, 0, 2)]
  | 0x068 => [(15, 15, 0), (11, 11, 1 - w 0x68 / 2048 % 2), (4, 4, 1 - w 0x68 / 16 % 2)]
  | 0x06C => [(11, 10, 0), (9, 4, 16), (3, 0, 6)]
  | 0x088 => if pf then [(4, 4, b2n x.ctoOff), (3, 0, x.cto)] else []
  | 0x100 => [(31, 20, if pf then 0x148 else 0x158), (15, 0, 0x0001)]
  | 0x148 => if pf then [(31, 20, 0x158), (15, 0, 0x000D)] else []
  | 0x158 => [(31, 20, if pf then 0x168 else 0x400), (15, 0, 0x000E)]
  | 0x168 => if pf then [(31, 20, 0x1A8), (15, 0, 0x0010)] else []
  | 0x16C => if pf then [(0, 0, 0)] else []
  | 0x170 => if pf then [(3, 3, w 0x170 / 8 % 2), (0, 0, b2n x.vfEnable)] else []
  | 0x174 => if pf then [(31, 16, d.totalVfs b), (15, 0, d.totalVfs b)] else []
  | 0x178 => if pf then [(15, 0, x.numVfs)] else []
  | 0x17C => if pf then [(31, 16, 1), (15, 0, 1)] else []
  | 0x180 => if pf then [(31, 16, 0x9385)] else []
  | 0x184 => if pf then [(31, 0, 1)] else []
  | 0x18C => if pf then [(31, 0, w 0x18C / 0x20000 * 0x20000 + 4)] else []
  | 0x190 => if pf then [(31, 0, w 0x190)] else []
  | 0x1A8 => if pf then [(31, 20, 0x1D8), (15, 0, 0x0019)] else []
  | 0x1D8 => if pf then [(31, 20, 0x1E8), (15, 0, 0x0025)] else []
  | 0x1E8 => if pf then [(31, 20, 0x240), (15, 0, 0x0026)] else []
  | 0x240 => if pf then [(31, 20, 0x290), (15, 0, 0x002A)] else []
  | 0x290 => if pf then [(31, 20, 0x2E0), (15, 0, 0x0031)] else []
  | 0x2E0 => if pf then [(31, 20, 0x400), (15, 0, 0x0027)] else []
  | 0x400 => [(31, 0, 0x0001000B)]
  | 0x404 => [(31, 0, 0x02010001)]
  | 0x408 => [(31, 0, (d.fnSkein b (k % 2048)).getD 0 * 2 ^ 28 + b2n pf * 2 ^ 23 + b * 2 ^ 20 + (if pf then 0 else k % 2048 - 1))]
  | 0x40C => [(31, 16, if pf then 0x0009 else 0), (15, 0, 0x0008)]
  | 0x410 => [(31, 0, match d.img.img with | some i => i.sysnum % 2048 | none => 0)]
  | 0x414 => [(31, 0, 0)]
  | 0x418 => [(31, 0, 0)]
  | 0x41C => [(31, 0, 0)]
  | _ => []

/-- A word of configuration space: the fields the spec fixes over what the specification of PCI Express gives (R443 to R446). -/
def Dev.cfgShown (d : Dev) (k off : Nat) : Reg32 :=
  let o := off / 4 * 4
  let old := mget 0#32 (d.bun (k / 2048)).cfg (k % 2048 * 4096 + o)
  (d.cfgFixed k o).foldl (fun x (f : Nat × Nat × Nat) => putField x f.1 f.2.1 f.2.2)
    (Config.cfgWord (if k % 2048 = 0 then 0 else 1) o old)

/-- A word of configuration space is remembered as it was written. -/
def Dev.cfgPut (d : Dev) (k off : Nat) (v : Reg32) : Dev :=
  d.updBun (k / 2048) fun x => { x with cfg := mset 0#32 x.cfg (k % 2048 * 4096 + off) v }

/-- A write of a word of configuration space: Bus Master Enable, PowerState and PME, MSI-X control, Initiate Function Level
Reset, the completion timeout, VF Enable and NumVFs have their effects (R447, R453 to R458, 04 R620); during a reset it is
discarded (R458). -/
def Dev.cfgWrite (d : Dev) (k off : Nat) (v : Reg32) : Dev :=
  let o := off / 4 * 4
  let b := k / 2048
  let pf : Bool := k % 2048 == 0
  if !d.fnPresent k || (d.fn k).flr then d
  else match o with
    | 0x004 =>
      let d := d.cfgPut k o v
      if bit v 2 = (d.fn k).bme then d else d.busMaster k (bit v 2)
    | 0x044 =>
      if !pf then d.cfgPut k o v
      else
        let d := d.updBun b fun x => { x with pmeEn := bit v 8, pmeStatus := x.pmeStatus && !bit v 15 }
        if (field v 1 0 = 3) = ((d.bun b).d3hot = true) then d else d.powerState b (field v 1 0)
    | 0x050 =>
      let d := d.updFn k fun f => { f with msixEn := bit v 31, fmask := bit v 30 }
      d.msixSweep k
    | 0x068 =>
      let d := d.cfgPut k o (putField v 15 15 0 ^^^ 0x810#32)
      if bit v 15 then d.flrWrite k else d
    | 0x088 => if pf then (d.cfgPut k o v).updBun b fun x => { x with cto := field v 3 0, ctoOff := bit v 4 } else d.cfgPut k o v
    | 0x170 =>
      if !pf then d.cfgPut k o v
      else
        let d := d.cfgPut k o v
        if bit v 0 && !(d.bun b).vfEnable then d.vfEnable b (d.bun b).numVfs
        else if !bit v 0 && (d.bun b).vfEnable then d.vfEnableOff b
        else d
    | 0x178 => if pf ∧ !(d.bun b).vfEnable then (d.cfgPut k o v).updBun b fun x => { x with numVfs := field v 15 0 } else d.cfgPut k o v
    | _ => d.cfgPut k o v

/-- The value a read of configuration space returns: at their Reset values during a reset (R458). -/
def Dev.cfgRead (d : Dev) (k off : Nat) : Reg32 :=
  if (d.fn k).flr then ((d.cfgReset k).updFn k fun f => { f with bme := false, msixEn := false, fmask := false }).cfgShown k off
  else d.cfgShown k off

end Sys2Proof.Machine
end

