-- ==== Sys2Proof/Machine/Ctl.lean ====
section
/-! DEFINITION. Access to control registers (00 R6 to R13): what each shows, what a write does, the pairs, the doorbell and
route entries (08 R267, R268), the trace controller (20 R607) and the snapshot of the hub counters (19 R594). -/
namespace Sys2Proof.Machine

/-! ### Who asks -/

/-- A requester's access judged at the level that issued it: a core's level stands at `lvl` while `f` runs. -/
def Dev.asLevel (d : Dev) (l : Nat) (lvl : Level) (f : Dev → Dev) : Dev :=
  let now := (d.core l).level
  (f (d.updCore l fun c => { c with level := lvl })).updCore l fun c => { c with level := now }

/-- Whether the requester is a core of the normal world, or one of the secure world. -/
def Dev.fromNormal (d : Dev) (q : Requester) : Bool := match q with | .core l => !(d.core l.val).level.secure | _ => false
def Dev.fromSecure (d : Dev) (q : Requester) : Bool := match q with | .core l => (d.core l.val).level.secure | _ => false

/-- Whether a control-space access of a requester is refused with DEAD as a normal-world access to a block in secure use
(08 R253). -/
def Dev.secRefused (d : Dev) (q : Requester) (a : Nat) : Bool := d.secBlock a && d.fromNormal q

/-! ### What registers show -/

/-- The registers that show live state rather than a value written to them (03 R123, 04 R151, 08 R268, R271, 09 R310, 16
R514, 17 R552, 20 R609); `i` is the first index. -/
def Dev.shown (d : Dev) (q : Requester) (r : RegDef) (i a : Nat) : Reg32 :=
  if r.base = Reg.BQ_CTX_OCC then
    BitVec.ofNat 32 ((d.bq.ctx.filter fun (e : Nat × QCtx) => !e.2.waiters.isEmpty).length * 2 ^ 17 + d.bq.cache.ways.length)
  else if r.base = Reg.BQ_AT_CREDIT_OCC then
    BitVec.ofNat 32 (d.bq.credits.length * 2 ^ 16 + (d.bq.grants.filter fun (e : Nat × Option Grant) => e.2.isSome).length)
  else if r.base = Reg.TB_COUNT_LO then BitVec.ofNat 32 (d.now % 2 ^ 32)
  else if r.base = Reg.TB_COUNT_HI then BitVec.ofNat 32 (d.now / 2 ^ 32)
  else if r.base = Reg.TB_CAP_LO 0 ∨ r.base = Reg.TB_CAP_HI 0 ∨ r.base = Reg.TB_CAP_COUNT 0 then
    if d.pinUnit 1 4 i then d.reg a else 0#32
  else if r.base = Reg.PWR_DOM_STATE 0 then
    BitVec.ofNat 32 ((if i < 384 then d.stepOf i else 0) * 2 ^ 16 + b2n (d.domOf i).transit * 2 ^ 8 + domCode (d.domShown i))
  else if r.base = Reg.MMU_IO_INV_STATUS 0 then putField (d.reg a) 1 0 (if d.safe then 2 else b2n (d.ioOn i))
  else if r.base = Reg.IRQ_ROUTE 0 then (if bit (d.reg a) 30 && d.fromNormal q then 0#32 else d.reg a)
  else if r.base = Reg.RL_SK_LOG 0 0 0 then
    let rec_ := a / 32 * 32
    if 0x14 ≤ a - rec_ ∧ bit (d.reg (rec_ + 4)) 9 ∧ d.fromNormal q then 0#32 else d.reg a
  else d.reg a

/-- Whether a register keeps the longest wait for a mesh slot, which the model draws at its read (12 R382, log entry 6). -/
def meshWait (r : RegDef) : Bool := r.base == Reg.MESH_SK_MAXWAIT 0 0 || r.base == Reg.MESH_HUB_SK_MAXWAIT 0

/-- A requester reads the register at an address of control space that is implemented: the device after it, and the value.
A _LO fills the pair's latch, a _HI gives it, and rc fields are cleared (R8, R10, R12). -/
def Dev.ctlRead (d : Dev) (q : Requester) (a : Nat) : Dev × Reg32 :=
  match findReg a with
  | none => (d, 0#32)
  | some (r, idx) =>
    let i := idx.headD 0
    if !d.mayRead q r.vis idx then (d, 0#32)
    else match r.half with
      | .hi => (d, mget 0#32 d.latch (a - 4))
      | .lo =>
        ({ d with latch := mset 0#32 d.latch a (match findReg (a + 4) with | some (r', _) => readRegVal r'.fields (d.shown q r' i (a + 4)) | none => 0#32) },
          readRegVal r.fields (d.shown q r i a))
      | .whole =>
        if meshWait r then let f := d.takeFree; (f.1, BitVec.ofNat 32 (f.2.toNat % 65536))
        else (d.setReg a (afterReadVal r.fields (d.reg a)), readRegVal r.fields (d.shown q r i a))

/-! ### Routes, trace, snapshot -/

/-- Whether a route write is refused: VALID with an LCN outside the skein or a vector of 0xF0 or above; SEC from K or from a
skein without SECURE; from K over an entry whose SEC is 1 (08 R268). -/
def Dev.routeRefused (d : Dev) (q : Requester) (n : Nat) (v : Reg32) : Bool :=
  match d.skeinCfg (n / 256) with
  | none => true
  | some c =>
    (bit v 31 && !c.lcnMask.testBit (field v 24 16)) ||
    (bit v 31 && decide (0xF0 ≤ field v 7 0)) ||
    (bit v 30 && (!c.secure || d.fromNormal q)) ||
    (d.fromNormal q && bit (d.reg (Reg.IRQ_ROUTE n)) 30)

/-- A write of a route entry: by a core at K or SK of its skein or by Distaff; refused and counted, or taken (08 R268). -/
def Dev.routeWrite (d : Dev) (q : Requester) (n : Nat) (v : Reg32) : Dev :=
  let may : Bool := match q with
    | .distaff => true
    | .core l => (d.core l.val).level.priv && d.skeinOf l.val == some (n / 256)
    | _ => false
  if !may then d
  else if d.routeRefused q n v then d.dropVec (n / 256)
  else d.setReg (Reg.IRQ_ROUTE n) (v &&& 0xC1FF00FF#32)

/-- A request that the claim table refuses: counted, with the register and the requesting skein; 0xFF where no skein asks
(02 R58, R71). -/
def Dev.claimConflict (d : Dev) (q : Requester) (a : Nat) : Dev :=
  let sk := match q with | .core l => (d.skeinOf l.val).getD 0xFF | _ => 0xFF
  let d := d.count Reg.IMG_CONFLICT_COUNT
  (d.setReg Reg.IMG_CONFLICT_LAST_LO (BitVec.ofNat 32 (a % 2 ^ 32))).setReg Reg.IMG_CONFLICT_LAST_HI
    (BitVec.ofNat 32 (bitsN a 39 32 + sk * 2 ^ 16))

/-- Whether the image gives pins 0x10 and 0x11 to the trace port (20 R603, R607). -/
def Dev.tracePins (d : Dev) : Bool :=
  match d.img.img with
  | some i => [0x10, 0x11].all fun p => i.pins.any fun e => e.pin == p && e.function == 3
  | none => true

/-- Tracing starts: the gap is closed, and a synchronisation packet is sent (20 R605). -/
def Dev.traceStart (d : Dev) (l : Nat) : Dev :=
  let lvl := (d.core l).level
  let d := { d with trace := { d.trace with gap := none, last := (d.core l).pc.toNat, since := 0, barred := !d.nonInvasive l lvl } }
  if d.nonInvasive l lvl then d.tracePush (d.syncPacket l) else d.tracePush (0x50#8 :: leBytes 8 d.now)

/-- A write of TRC_CTL (20 R607): Distaff may always write it; a core at K or SK names an LCN of its own skein, while EN is 0 or
the LCN named is of its skein. -/
def Dev.traceWrite (d : Dev) (q : Requester) (v : Reg32) : Dev :=
  let old := d.reg Reg.TRC_CTL
  let own (l n : Nat) : Bool := (d.skeinOf l).isSome && d.skeinOf l == d.skeinOf n
  let may : Bool := match q with
    | .distaff => true
    | .core l => (d.core l.val).level.priv && own l.val (field v 8 0) && (!bit old 31 || own l.val (field old 8 0))
    | _ => false
  if !may then d.count Reg.TRC_REFUSED
  else if bit v 31 && !d.tracePins then d.claimConflict q Reg.TRC_CTL
  else
    let d := d.setReg Reg.TRC_CTL (v &&& 0x8FF001FF#32)
    if bit v 31 && (!bit old 31 || field old 8 0 != field v 8 0) then d.traceStart (field v 8 0) else d

/-- A write of PMU_SK_SNAP by a core of the skein at K or SK, or by Distaff: the seven counts are copied (19 R594). -/
def Dev.hubSnap (d : Dev) (q : Requester) (sk : Nat) : Dev :=
  let may : Bool := match q with
    | .distaff => true
    | .core l => (d.core l.val).level.priv && d.skeinOf l.val == some sk
    | _ => false
  if !may then d
  else (List.range 7).foldl (fun d k => d.setReg64 (Reg.PMU_SK_BQ_POST_LO sk + 8 * k) (mget 0 d.hubCnt (sk * 8 + k))) d

/-! ### Writes -/

/-- Whether a value lies within the ranges that a field of a memory controller states; a write of Distaff that leaves them is
ignored as a whole (13 R429, R430). -/
def mcInRange (base : Nat) (v : Reg32) : Bool :=
  if base = Reg.MC_SCHED 0 then
    decide (2 ≤ field v 31 24) && decide (field v 31 24 ≤ 64) && decide (field v 23 16 ≤ 63) && decide (field v 23 16 < field v 31 24)
  else if base = Reg.MC_AGE 0 then decide (1 ≤ field v 15 0)
  else if base = Reg.MC_NREF 0 then decide (4 ≤ field v 4 0) && decide (field v 4 0 ≤ 16)
  else if base = Reg.MC_SCRUB 0 then decide (1 ≤ field v 31 24)
  else true

/-- A write of MMU_IO_CFG: ignored as a whole with STB_LOG2 above 16, and without effect on STB_LOG2 while EN is 1 (09 R309). -/
def Dev.ioCfgWrite (d : Dev) (b : Nat) (v : Reg32) : Dev :=
  let a := Reg.MMU_IO_CFG b
  if 16 < field v 20 16 then d
  else d.setReg a (putField (v &&& 0xC01F0FFF#32) 20 16 (if d.ioOn b then d.regF a 20 16 else field v 20 16))

/-- A write of MMU_IO_FAULT_INFO: 1 in VALID clears the record with its address, 1 in MORE clears MORE (09 R310). -/
def Dev.ioFaultWrite (d : Dev) (b : Nat) (v : Reg32) : Dev :=
  let a := Reg.MMU_IO_FAULT_INFO b
  let d := if bit v 30 then d.setRegF a 30 30 0 else d
  if bit v 31 then (d.setReg a (d.reg a &&& 0x40000000#32)).setReg64 (Reg.MMU_IO_FAULT_ADDR_LO b) 0 else d

/-- A write that sets the value of a plain register by its access codes (R12). -/
def Dev.plainWrite (d : Dev) (r : RegDef) (a : Nat) (v : Reg32) : Dev :=
  d.setReg a (writeRegVal r.fields d.img.lock (d.reg a) v)

/-- What a write of a whole register does: the registers whose writes are commands, those with rules of their own, and the
rest by their access codes. -/
def Dev.wholeWrite (d : Dev) (q : Requester) (r : RegDef) (idx : List Nat) (a : Nat) (v : Reg32) : Dev :=
  let i := idx.headD 0
  let w := field v 7 4
  let op := field v 2 0
  if r.base = Reg.IRQ_DOORBELL then d.doorbell q (field v 11 0)
  else if r.base = Reg.IRQ_ROUTE 0 then d.routeWrite q i v
  else if r.base = Reg.TRC_CTL then d.traceWrite q v
  else if r.base = Reg.PMU_SK_SNAP 0 then d.hubSnap q i
  else if r.base = Reg.CCH_L3_PD_CMD 0 then d.pdWrite q i w op
  else if r.base = Reg.CCH_HC_PD_CMD then d.pdWrite q 16 w op
  else if r.base = Reg.D2D_GST_CMD 0 then d.gstDo q i op .silent
  else if r.base = Reg.MC_CMD 0 then (if q = .distaff then d.mcDo i op else d)
  else if r.base = Reg.PCE_CMD 0 then d.pceDo q i op
  else if r.base = Reg.HNK_PORT_CMD 0 then d.hnkDo q i op
  else if r.base = Reg.PWR_REQ then
    (if field v 27 24 = 4 then match pwrFrom q with
      | some f => (d.pwrPackage f (field v 19 8) op).1
      | none => d
     else d.pwrWrite q (field v 27 24) (field v 19 8) op)
  else if r.base = Reg.DST_MBX_CTL 0 then d.mbxDoorbell q i v
  else if r.base = Reg.MMU_IO_INV_CMD 0 then d.ioInvWrite q i (BitVec.ofNat 16 (field v 31 16)) op
  else if !d.mayWrite q r idx then d
  else if r.base = Reg.MMU_IO_CFG 0 then d.ioCfgWrite i v
  else if r.base = Reg.MMU_IO_FAULT_INFO 0 then d.ioFaultWrite i v
  else if r.base = Reg.PCE_RP_ROUTE 0 ∧ (d.bundleMode i ≠ 1 ∨ !d.pceWrites q i) then d
  else if r.base == Reg.RL_SK_NOTICE 0 && (match d.skeinCfg i with | some c => !c.lcnMask.testBit (field v 8 0) | none => true) then d
  else if !mcInRange r.base v then d
  else d.plainWrite r a v

/-- A requester writes the register at an address of control space that is implemented. A write to a _LO is held, and one to
a _HI commits both halves in one step (R8, R10, R12, R13). -/
def Dev.ctlWrite (d : Dev) (q : Requester) (a : Nat) (v : Reg32) : Dev :=
  match findReg a with
  | none => d
  | some (r, idx) =>
    let stb (lo : Nat) : Bool := r.vis == .iotu && lo == Reg.MMU_IO_STB_LO (idx.headD 0) && d.ioOn (idx.headD 0)
    match r.half with
    | .whole => d.wholeWrite q r idx a v
    | .lo => if !d.mayWrite q r idx || stb a then d else { d with heldLo := mset none d.heldLo a (some v) }
    | .hi =>
      if !d.mayWrite q r idx || stb (a - 4) then d
      else
        let d := match mget none d.heldLo (a - 4), findReg (a - 4) with
          | some lo, some (r', _) => { d with heldLo := mset none d.heldLo (a - 4) none }.plainWrite r' (a - 4) lo
          | _, _ => d
        d.plainWrite r a v

/-! ### Accesses -/

/-- Whether the way to a control-space site of another die is isolated (12 R383). -/
def Dev.siteIsolated (d : Dev) (from_ : Option Nat) (site : Nat) : Bool :=
  decide (site < 16) && from_ != some site && d.regF Reg.MESH_HUB_ISO site site == 1

/-- An access to control space by a requester: DEAD for bits [47:40], an unassigned site or block, a block in secure use and the way
to an isolated die, and for another access than an aligned 32-bit one (R6 to R9, 08 R253, 12 R383). -/
def Dev.ctlAccess (d : Dev) (q : Requester) (from_ : Option Nat) (pa size : Nat) (write : Bool) (data : Nat) : Dev × Reply :=
  if d.siteIsolated from_ (bitsN pa 39 32) then (d.count Reg.MESH_HUB_DEAD_COUNT, .done .dead 0)
  else if d.secRefused q pa then (d, .done .dead 0)
  else match ctlPlace pa size with
    | .dead => (d, .done .dead 0)
    | .badAccess => (d, .done .dead 0)
    | .res0 => (d, .done .ok 0)
    | .reg _ _ =>
      if write then (d.ctlWrite q pa (BitVec.ofNat 32 data), .done .ok 0)
      else let r := d.ctlRead q pa; (r.1, .done .ok r.2.toNat)

/-- The die of a requester, where it is a core. -/
def Dev.dieOf (d : Dev) : Requester → Option Nat
  | .core l => (mget none d.spindleOf l.val).map fun p => p / 28
  | _ => some 16

/-- A load of control space answered DEAD: a core that runs takes a precise bus error (R8). -/
def Dev.loadDead (d : Dev) (q : Requester) (pa : Nat) : Dev :=
  match q with
  | .core l => if (d.core l.val).released then d.takeExc l.val (Exc.bus pa) else d
  | _ => d

/-- A store of control space answered DEAD: it completes with error at its core, logged in CORE_ABERR with the imprecise bus
error interrupt (R8, 10 R332). -/
def Dev.storeDead (d : Dev) (q : Requester) (pa : Nat) : Dev :=
  match q with
  | .core l => if (d.core l.val).released then d.storeError l.val (d.core l.val).level.secure true .dead pa else d
  | _ => d

/-- A store of a requester to a register, unless it is refused to it (08 R253). -/
def Dev.orRefused (d : Dev) (q : Requester) (a : Nat) (f : Dev → Dev) : Dev := if d.secRefused q a then d.storeDead q a else f d

/-! ### The commands -/

/-- A read of a register by a requester: its answer leaves the part, or the requester's access fails (R8, R12, 14 R442, 16
R522). -/
def Dev.readReg (d : Dev) (q : Requester) (ra : RegAddr) : Dev :=
  let ans (d : Dev) (st : Status) (v : Reg32) : Dev := d.emit (.readValue q ra st v)
  match ra with
  | .ctl pa =>
    match q with
    | .func _ _ => d
    | .rootPort _ => d
    | _ => match d.ctlAccess q (d.dieOf q) pa.toNat 4 false 0 with
      | (d, .done .ok v) => ans d .ok (BitVec.ofNat 32 v)
      | (d, _) => (ans d .dead 0#32).loadDead q pa.toNat
  | .bar bd fn off =>
    let k := fnKey bd.val fn.val
    if q ≠ .func bd fn then d
    else if d.safe then ans d .denied 0#32
    else if !d.barOpen k ∨ off.toNat % 4 ≠ 0 then ans d .unsupported 0#32
    else let r := d.barRead k off.toNat; ans r.1 .ok r.2
  | .barOther bd fn => if q ≠ .func bd fn then d else ans d (if d.safe then .denied else .unsupported) 0#32
  | .cfg bd fn off =>
    let k := fnKey bd.val fn.val
    if q ≠ .func bd fn then d
    else if !d.fnPresent k then ans d .unsupported 0#32
    else ans d .ok (d.cfgRead k off.toNat)

/-- A write of a register by a requester; one that reaches nothing has no effect, but for the error of a core's (R8). -/
def Dev.writeReg (d : Dev) (q : Requester) (ra : RegAddr) (v : Reg32) : Dev :=
  match ra with
  | .ctl pa =>
    match q with
    | .func _ _ => d
    | .rootPort _ => if pa.toNat = Reg.IRQ_DOORBELL then d.ctlWrite q pa.toNat v else d
    | _ => match d.ctlAccess q (d.dieOf q) pa.toNat 4 true v.toNat with
      | (d, .done .ok _) => d
      | (d, _) => d.storeDead q pa.toNat
  | .bar bd fn off =>
    let k := fnKey bd.val fn.val
    if q ≠ .func bd fn ∨ d.safe ∨ !d.barOpen k ∨ off.toNat % 4 ≠ 0 then d else d.barWrite k off.toNat v
  | .barOther _ _ => d
  | .cfg bd fn off => if q ≠ .func bd fn then d else d.cfgWrite (fnKey bd.val fn.val) off.toNat v

/-- REGISTER_WRITE (R12, R13). -/
def execRegisterWrite (q : Requester) (ra : RegAddr) (v : BitVec 32) (s : State) : Host.Outcome State Fault Refusal :=
  onDev s fun d => d.writeReg q ra v

/-- RC_REGISTER_READ (R12). -/
def execRcRegisterRead (q : Requester) (ra : RegAddr) (s : State) : Host.Outcome State Fault Refusal :=
  onDev s fun d => d.readReg q ra

/-- PAIR_LO_READ (R10). -/
def execPairLoRead (q : Requester) (ra : RegAddr) (s : State) : Host.Outcome State Fault Refusal :=
  onDev s fun d => d.readReg q ra

/-- PAIR_LO_WRITE (R10). -/
def execPairLoWrite (q : Requester) (ra : RegAddr) (v : BitVec 32) (s : State) : Host.Outcome State Fault Refusal :=
  onDev s fun d => d.writeReg q ra v

/-- PAIR_HI_WRITE (R10). -/
def execPairHiWrite (q : Requester) (ra : RegAddr) (v : BitVec 32) (s : State) : Host.Outcome State Fault Refusal :=
  onDev s fun d => d.writeReg q ra v

/-- IRQ_DOORBELL (08 R267). -/
def execIrqDoorbell (q : Requester) (v : BitVec 32) (s : State) : Host.Outcome State Fault Refusal :=
  onDev s fun d => d.orRefused q Reg.IRQ_DOORBELL fun d => d.doorbell q (field v 11 0)

/-- IRQ_ROUTE_WRITE (08 R268). -/
def execIrqRouteWrite (q : Requester) (n : Fin 4096) (v : BitVec 32) (s : State) : Host.Outcome State Fault Refusal :=
  onDev s fun d => d.orRefused q (Reg.IRQ_ROUTE n.val) fun d => d.routeWrite q n.val v

/-- TRC_CTL_WRITE (20 R607). -/
def execTrcCtlWrite (q : Requester) (v : BitVec 32) (s : State) : Host.Outcome State Fault Refusal :=
  onDev s fun d => d.orRefused q Reg.TRC_CTL fun d => d.traceWrite q v

/-- PMU_SK_SNAP (19 R594). -/
def execPmuSkSnap (q : Requester) (sk : Fin 16) (s : State) : Host.Outcome State Fault Refusal :=
  onDev s fun d => d.orRefused q (Reg.PMU_SK_SNAP sk.val) fun d => d.hubSnap q sk.val

end Sys2Proof.Machine
end

