-- ==== Sys2Proof/Machine/Window.lean ====
section
/-! DEFINITION. DEVICE requests of the cores and their completions (10 R318 to R321, R332, 14 R435, R436), Distaff's window
accesses (18 R555, R574), and the packets MSG (12 R372). -/
namespace Sys2Proof.Machine

/-! ### Requests of a core -/

/-- The request of a core with a transaction identifier. -/
def Core.devReq (c : Core) (tid : Nat) : Option DevReq := c.devOut.find? fun r => r.tid == tid

/-- The core with a request changed. -/
def Core.updReq (c : Core) (tid : Nat) (f : DevReq → DevReq) : Core :=
  { c with devOut := c.devOut.map fun r => if r.tid = tid then f r else r }

/-- The core without a request. -/
def Core.endReq (c : Core) (tid : Nat) : Core := { c with devOut := c.devOut.filter fun r => r.tid != tid }

/-- What requests that keep their order share: a control-space block, or a page of a window (10 R319, R321). -/
def orderKey (pa : Nat) : Nat := if pa < 0x8000000000000 then pa / 4096 else pa / 0x100000 + 2 ^ 52

/-- Whether an earlier request of the core to the same block or page satisfies `p`. -/
def Core.earlier (c : Core) (r : DevReq) (p : DevReq → Bool) : Bool :=
  (c.devOut.takeWhile fun x => x.tid != r.tid).any fun x => orderKey x.pa == orderKey r.pa && p x

/-! ### Targets -/

/-- A DEVICE access of a core to DRAM, coherent and of its own size, at the home of its line (09 R282, 10 R318, 11 R366). -/
def Dev.dramAccess (d : Dev) (l pa size : Nat) (write : Bool) (data : Nat) : Dev × Reply :=
  match d.ncReach l (pa / 64) with
  | (d, .err st) => (d, .done st 0)
  | (d, .wait) => (d, .waits)
  | (d, .hold) => match d.channelOf pa with
    | some (ch, _) => (d, .held (384 + ch))
    | none => (d, .done .dead 0)
  | (d, .ok) =>
    if d.poisoned (pa / 64) then (d, .done .poison 0)
    else if write then (d.ncWrite l (cellsAt pa (leBytes size data)), .done .ok 0)
    else ((d.ncRead (pa / 64)).1, .done .ok (d.readLe pa size))

/-- A DEVICE request reaches its target. -/
def Dev.devAccess (d : Dev) (l : Fin 384) (r : DevReq) : Dev × Reply :=
  let from_ := (mget none d.spindleOf l.val).map fun p => p / 28
  match placeOf r.pa with
  | .control => d.ctlAccess (.core l) from_ r.pa r.size r.write r.data
  | .pcie b => d.busAccess false b r.pa r.size r.write r.data
  | .dram => d.dramAccess l.val r.pa r.size r.write r.data
  | _ => (d, .done .dead 0)

/-- RDDEV and WRDEV: a request of the kind that is next in its order is performed at its target at the level that issued it,
and waits for its completion; at a fenced port it is noted; behind other requests for a line it is given again (10 R319, R321,
12 R387; log entry 21). -/
def Dev.devArrive (d : Dev) (l : Fin 384) (tid : Nat) (write : Bool) : Dev :=
  match (d.core l.val).devReq tid with
  | none => d
  | some r =>
    if r.write != write || r.answer.isSome || r.sent || (d.core l.val).earlier r (fun x => x.answer.isNone && !x.sent) then d
    else
      let now := (d.core l.val).level
      let a := (d.updCore l.val fun c => { c with level := r.lvl }).devAccess l r
      let d := a.1.updCore l.val fun c => { c with level := now }
      match a.2 with
      | .done st v => d.updCore l.val fun c => c.updReq tid fun x => { x with answer := some (st, v) }
      | .sent => d.updCore l.val fun c => c.updReq tid fun x => { x with sent := true }
      | .waits => d
      | .held k =>
        let p := d.port k
        let h : HeldReq := .dev l.val tid
        if p.held.any fun (x : Nat × HeldReq) => x.2 == h then d
        else d.setPort k { p with held := p.held ++ [(d.now, h)] }

/-- RDDEV (10 R318). -/
def execRddev (l : Fin 384) (tid : Nat) (s : State) : Host.Outcome State Fault Refusal :=
  onDev s fun d => d.devArrive l tid false

/-- WRDEV (10 R318). -/
def execWrdev (l : Fin 384) (tid : Nat) (s : State) : Host.Outcome State Fault Refusal :=
  onDev s fun d => d.devArrive l tid true

/-! ### Completions (10 R320, R332, 14 R436) -/

/-- A configuration read: its requests for a retry are answered with the pattern of R436. -/
def Dev.isConfig (d : Dev) (pa : Nat) : Bool :=
  match placeOf pa with
  | .pcie b => match d.busPlace b pa with
    | .sent k _ => k != 0
    | _ => false
  | _ => false

/-- What the outside answers to a request that has left, as the root port passes it on (14 R436). -/
def Dev.rpReply (d : Dev) (r : DevReq) : Completion → Status × Nat
  | .ok data => (.ok, ofLe (data.take r.size))
  | .ur => (.dead, 0)
  | .ca => (.dead, 0)
  | .poisoned => (.poison, 0)
  | .retry =>
    if d.isConfig r.pa then
      let ones := 2 ^ (8 * r.size) - 1
      (.ok, if r.pa % 4096 = 0 then ones - ones % 65536 + 1 else if r.pa % 4096 = 1 then ones - ones % 256 else ones)
    else (.dead, 0)

/-- A request ends at its core: a load retires with its data, or raises a bus error or poison; a store completes, or completes
with error (10 R318, R320, R332). Nobody takes the answer to a request that a reset left behind, and a core in SAFE takes none
(10 R335, 16 R520). -/
def Dev.devEnd (d : Dev) (l : Fin 384) (r : DevReq) (st : Status) (v : Nat) : Dev :=
  let d := d.updCore l.val fun c => c.endReq r.tid
  if r.quiet then d
  else if r.write then
    (if st = .ok then d else d.storeError l.val r.lvl.secure (r.mt == .device) st r.pa).drain l.val
  else match (d.core l.val).wait with
    | .load tid dst =>
      if tid ≠ r.tid ∨ d.safe then d
      else
        let d := d.updCore l.val fun c => { c with wait := .none }
        if st = .ok then d.finish l (.done (d.updCore l.val fun c => c.putLoad dst r.size v) [(0x33, 1)])
        else d.finish l (.exc d (if st = .poison then .poison r.pa else .bus r.pa))
    | _ => d

/-- CMPL: the completion of a request arrives at its core, after those of earlier requests to the same block or page (10 R320,
R321). `outside` is the completion of a request that has left through a window. -/
def execCmpl (l : Fin 384) (tid : Nat) (outside : Completion) (s : State) : Host.Outcome State Fault Refusal :=
  onDev s fun d =>
    match (d.core l.val).devReq tid with
    | none => d
    | some r =>
      if (d.core l.val).earlier r fun _ => true then d
      else match r.answer with
        | some (st, v) => d.devEnd l r st v
        | none =>
          if !r.sent then d
          else let a := d.rpReply r outside; d.devEnd l r a.1 a.2

/-- DEVICE_TIMEOUT: 100 µs after its issue the core answers a request that has no answer with TIMEOUT itself; what arrives
later is discarded, so that the target of a store is unchanged (10 R320, R332). -/
def execDeviceTimeout (l : Fin 384) (tid : Nat) (s : State) : Host.Outcome State Fault Refusal :=
  onDev s fun d =>
    match (d.core l.val).devReq tid with
    | none => d
    | some r => if r.answer.isSome then d else (d.timeTo (r.since + 100000)).devEnd l r .timeout 0

/-! ### MSG (12 R372) -/

/-- A vector of a skein comes to a target: dropped and counted outside the skein, and where it is secure and the skein is not
(08 R266, R268). -/
def Dev.msgVec (d : Dev) (m : VecMsg) : Dev :=
  if d.skeinOf m.lcn != some m.skein || (m.secure && !d.secureSkein m.lcn) then d.dropVec m.skein else d.deliverVec m

/-- MSG: a vector reaches its target; a queue instruction is performed in its own step (log entry 9). -/
def execMsgDeliver (m : MsgKind) (s : State) : Host.Outcome State Fault Refusal :=
  onDev s fun d => match m with
    | .queueInstr _ => d
    | .inboxSend l v sec sk => d.msgVec ⟨l.val, v.toNat, sec, sk.val⟩
    | .delivery l v sec sk => d.msgVec ⟨l.val, v.toNat, sec, sk.val⟩

/-! ### Distaff's windows (18 R555) -/

/-- A window access of Distaff as an access on its way. -/
def winAccess (write : Bool) (pa : Nat) (data : List Byte) : HubAccess :=
  { agent := 20, bd := 0, rid := 0, pa := pa, write := write, len := data.length, data := data, ep := false, relaxed := false
    mt := .device, bus := none, leaf := 0, inv := false }

/-- A window access of Distaff is tried: queue memory, the landing window and what no address names are refused DEAD; it reaches
control space under R6 to R9, DRAM coherently, and the windows of root ports. -/
def Dev.winTry (d : Dev) (x : HubAccess) : Dev × HubEnd :=
  match placeOf x.pa with
  | .control => match d.ctlAccess .distaff (some 16) x.pa x.len x.write (ofLe x.data) with
    | (d, .done st v) => (d, .done st (if x.write then [] else leBytes x.len v))
    | (d, _) => (d, .done .dead [])
  | _ => d.hubTry x

/-- DISTAFF_WINDOW_ACCESS: `data` is what is written, or as many bytes as are read; Distaff issues none while 32 are outstanding
(18 R555, 12 R379). -/
def execDistaffWindowAccess (write : Bool) (pa : BitVec 52) (data : List (BitVec 8)) (s : State) : Host.Outcome State Fault Refusal :=
  onDev s fun d =>
    let x := winAccess write pa.toNat data
    if d.hubBlocked x then d
    else match d.winTry x with
      | (d, .done st bs) => d.hubAnswer x st bs
      | (d, _) => d.hubQueue x

/-- Whether the invasive enable covers an address: that of the skein whose memory holds it, in the world its place gives it;
what no skein's memory holds needs none (08 R274; log entry 41). -/
def Dev.memInvasive (d : Dev) (pa : Nat) : Bool :=
  match placeOf pa, d.memOwner pa, d.img.img with
  | .dram, some c, some i => (i.dbgBytes.getD c.skein 0).testBit (if pa < d.secMarkBytes then 3 else 1)
  | _, _, _ => true

/-- The bytes that a window access of Distaff carries: what is written, or for a read as many as are read. What a root port's
window answers with comes from outside, and where no operand brings it nothing constrains it (log entry 6). -/
def Dev.winBytes (d : Dev) (write : Bool) (pa : Nat) (data : List Byte) (n : Nat) : Dev × List Byte :=
  if write then (d, data)
  else match placeOf pa with
    | .pcie _ => let f := d.freeBytes n; (f.1, f.2.take n)
    | _ => (d, List.replicate n 0#8)

/-- DBG_MEM: a read, or in RUN a write, through a window (R574); while its line's home serves another request, or 32 accesses of
Distaff are outstanding, it is answered BUSY (DESIGN CHOICE, log entry 43). -/
def execDbgMem (caller : Caller) (write : Bool) (pa : BitVec 52) (data : List (BitVec 8)) (length : Nat) (s : State) :
    Host.Outcome State Fault Refusal :=
  onDev s fun d =>
    let a := pa.toNat
    d.serve caller ⟨0x64, false, false, false, false, true⟩ (fun x => installer x && d.memInvasive a)
      (leBytes 1 (b2n write) ++ leBytes 8 a ++ leBytes 2 length ++ data.take 16) fun d =>
      if write && d.safe then d.ends .halted
      else if 1032 < length ∨ 1032 < data.length then d.ends .range
      else
        let f := d.winBytes write a data length
        if d.hubBlocked (winAccess write a f.2) then d.ends .busy
        else match f.1.winTry (winAccess write a f.2) with
          | (d', .done st r) => ⟨d', some st, r⟩
          | (d', _) => d'.ends .busy

end Sys2Proof.Machine
end

