-- ==== Sys2Proof/Machine/Dispatch.lean ====
section
/-! DEFINITION. The meaning of every command: one arm per row of the table. -/
namespace Sys2Proof.Machine

def exec (i : Instr) (s : State) : Host.Outcome State Fault Refusal :=
  match i with
  | .registerWrite q ra v => Sys2Proof.Machine.execRegisterWrite q ra v s
  | .rcRegisterRead q ra => Sys2Proof.Machine.execRcRegisterRead q ra s
  | .pairLoRead q ra => Sys2Proof.Machine.execPairLoRead q ra s
  | .pairLoWrite q ra v => Sys2Proof.Machine.execPairLoWrite q ra v s
  | .pairHiWrite q ra v => Sys2Proof.Machine.execPairHiWrite q ra v s
  | .pwrokRise boot => Sys2Proof.Machine.execPwrokRise boot s
  | .pwrokFall => Sys2Proof.Machine.execPwrokFall s
  | .dieLinkTraining results => Sys2Proof.Machine.execDieLinkTraining results s
  | .dramTraining results => Sys2Proof.Machine.execDramTraining results s
  | .hpprRepair mc => Sys2Proof.Machine.execHpprRepair mc s
  | .imageApply va vb => Sys2Proof.Machine.execImageApply va vb s
  | .skeinRelease sk => Sys2Proof.Machine.execSkeinRelease sk s
  | .packageReset boot => Sys2Proof.Machine.execPackageReset boot s
  | .skeinReset sk => Sys2Proof.Machine.execSkeinReset sk s
  | .coreReset l => Sys2Proof.Machine.execCoreReset l s
  | .imgRead caller => Sys2Proof.Machine.execImgRead caller s
  | .imgCheck caller verdict => Sys2Proof.Machine.execImgCheck caller verdict s
  | .imgStage caller verdict => Sys2Proof.Machine.execImgStage caller verdict s
  | .imgDelta caller verdict => Sys2Proof.Machine.execImgDelta caller verdict s
  | .deltaJournalWriteDone => Sys2Proof.Machine.execDeltaJournalWriteDone s
  | .deltaSwitch => Sys2Proof.Machine.execDeltaSwitch s
  | .qpost l gd ga gb => Sys2Proof.Machine.execQpost l gd ga gb s
  | .qpostl l gd ga slot => Sys2Proof.Machine.execQpostl l gd ga slot s
  | .qread l gd ga gb slot => Sys2Proof.Machine.execQread l gd ga gb slot s
  | .qtry l gd ga gb slot => Sys2Proof.Machine.execQtry l gd ga gb slot s
  | .qwait l gd ga gb slot => Sys2Proof.Machine.execQwait l gd ga gb slot s
  | .itemCommit id => Sys2Proof.Machine.execItemCommit id s
  | .waitLimitExpire l => Sys2Proof.Machine.execWaitLimitExpire l s
  | .waitCancel l => Sys2Proof.Machine.execWaitCancel l s
  | .qctlQuery l gd ga gb => Sys2Proof.Machine.execQctlQuery l gd ga gb s
  | .qctlSetup l gd ga gb => Sys2Proof.Machine.execQctlSetup l gd ga gb s
  | .qctlEnable l gd ga gb => Sys2Proof.Machine.execQctlEnable l gd ga gb s
  | .qctlDisable l gd ga gb => Sys2Proof.Machine.execQctlDisable l gd ga gb s
  | .qctlFlush l gd ga gb => Sys2Proof.Machine.execQctlFlush l gd ga gb s
  | .flushPoint qn => Sys2Proof.Machine.execFlushPoint qn s
  | .flushComplete qn => Sys2Proof.Machine.execFlushComplete qn s
  | .qctlLimits l gd ga gb => Sys2Proof.Machine.execQctlLimits l gd ga gb s
  | .qctlRights l gd ga gb => Sys2Proof.Machine.execQctlRights l gd ga gb s
  | .qctlRevive l gd ga gb => Sys2Proof.Machine.execQctlRevive l gd ga gb s
  | .qctlGset l gd ga gb => Sys2Proof.Machine.execQctlGset l gd ga gb s
  | .pipeRetire pipe => Sys2Proof.Machine.execPipeRetire pipe s
  | .chEnable bd fn ch => Sys2Proof.Machine.execChEnable bd fn ch s
  | .chStop bd fn ch => Sys2Proof.Machine.execChStop bd fn ch s
  | .chStopped bd fn ch => Sys2Proof.Machine.execChStopped bd fn ch s
  | .chResume bd fn ch => Sys2Proof.Machine.execChResume bd fn ch s
  | .chDisable bd fn ch => Sys2Proof.Machine.execChDisable bd fn ch s
  | .bqChSqDb bd fn ch v => Sys2Proof.Machine.execBqChSqDb bd fn ch v s
  | .bqChRxDb bd fn ch v => Sys2Proof.Machine.execBqChRxDb bd fn ch v s
  | .bqChCqDb bd fn ch v => Sys2Proof.Machine.execBqChCqDb bd fn ch v s
  | .descriptorFetchDone bd fn ch index done => Sys2Proof.Machine.execDescriptorFetchDone bd fn ch index done s
  | .payloadFetchDone bd fn ch index done => Sys2Proof.Machine.execPayloadFetchDone bd fn ch index done s
  | .dmaReadTimeout bd fn ch index => Sys2Proof.Machine.execDmaReadTimeout bd fn ch index s
  | .dmaPostRetry bd fn ch index => Sys2Proof.Machine.execDmaPostRetry bd fn ch index s
  | .dmaFullLimitExpire bd fn ch index => Sys2Proof.Machine.execDmaFullLimitExpire bd fn ch index s
  | .drainTake bd fn ch => Sys2Proof.Machine.execDrainTake bd fn ch s
  | .creqRetry qa => Sys2Proof.Machine.execCreqRetry qa s
  | .creditBlockIdleRelease qa => Sys2Proof.Machine.execCreditBlockIdleRelease qa s
  | .padds l vd va vb m g t => Sys2Proof.Machine.execPadds l vd va vb m g t s
  | .paddu l vd va vb m g t => Sys2Proof.Machine.execPaddu l vd va vb m g t s
  | .psubs l vd va vb m g t => Sys2Proof.Machine.execPsubs l vd va vb m g t s
  | .psubu l vd va vb m g t => Sys2Proof.Machine.execPsubu l vd va vb m g t s
  | .pmulr l vd va vb m g t => Sys2Proof.Machine.execPmulr l vd va vb m g t s
  | .pmin l vd va vb m g t => Sys2Proof.Machine.execPmin l vd va vb m g t s
  | .pmax l vd va vb m g t => Sys2Proof.Machine.execPmax l vd va vb m g t s
  | .pminu l vd va vb m g t => Sys2Proof.Machine.execPminu l vd va vb m g t s
  | .pmaxu l vd va vb m g t => Sys2Proof.Machine.execPmaxu l vd va vb m g t s
  | .psad l vd va vb m g t => Sys2Proof.Machine.execPsad l vd va vb m g t s
  | .psel l vd va vb m g t => Sys2Proof.Machine.execPsel l vd va vb m g t s
  | .pand l vd va vb m g t => Sys2Proof.Machine.execPand l vd va vb m g t s
  | .por l vd va vb m g t => Sys2Proof.Machine.execPor l vd va vb m g t s
  | .pxor l vd va vb m g t => Sys2Proof.Machine.execPxor l vd va vb m g t s
  | .pwacc l vd va m g t => Sys2Proof.Machine.execPwacc l vd va m g t s
  | .pwmac l vd va vb m g t => Sys2Proof.Machine.execPwmac l vd va vb m g t s
  | .pmuld l vd va vb m g t k => Sys2Proof.Machine.execPmuld l vd va vb m g t k s
  | .pld l vd ga imm7 m g t => Sys2Proof.Machine.execPld l vd ga imm7 m g t s
  | .pst l vd ga imm7 m g t => Sys2Proof.Machine.execPst l vd ga imm7 m g t s
  | .pbcast l vd ga m g t => Sys2Proof.Machine.execPbcast l vd ga m g t s
  | .pmand l md ma mb => Sys2Proof.Machine.execPmand l md ma mb s
  | .pmor l md ma mb => Sys2Proof.Machine.execPmor l md ma mb s
  | .pmxor l md ma mb => Sys2Proof.Machine.execPmxor l md ma mb s
  | .pmandn l md ma mb => Sys2Proof.Machine.execPmandn l md ma mb s
  | .pgtomL l md ga => Sys2Proof.Machine.execPgtomL l md ga s
  | .pgtomH l md ga => Sys2Proof.Machine.execPgtomH l md ga s
  | .pmtogL l gd ma => Sys2Proof.Machine.execPmtogL l gd ma s
  | .pmtogH l gd ma => Sys2Proof.Machine.execPmtogH l gd ma s
  | .pscaleUp l vd va m g t k => Sys2Proof.Machine.execPscaleUp l vd va m g t k s
  | .pscaleDn l vd va m g t k => Sys2Proof.Machine.execPscaleDn l vd va m g t k s
  | .pcmpEq l md va vb m g t => Sys2Proof.Machine.execPcmpEq l md va vb m g t s
  | .pcmpNe l md va vb m g t => Sys2Proof.Machine.execPcmpNe l md va vb m g t s
  | .pcmpLt l md va vb m g t => Sys2Proof.Machine.execPcmpLt l md va vb m g t s
  | .pcmpLe l md va vb m g t => Sys2Proof.Machine.execPcmpLe l md va vb m g t s
  | .pcmpLtu l md va vb m g t => Sys2Proof.Machine.execPcmpLtu l md va vb m g t s
  | .pcmpLeu l md va vb m g t => Sys2Proof.Machine.execPcmpLeu l md va vb m g t s
  | .pa2b l vd va aux m g t => Sys2Proof.Machine.execPa2b l vd va aux m g t s
  | .pb2a l vd va aux m g t => Sys2Proof.Machine.execPb2a l vd va aux m g t s
  | .pbcd2b l vd va aux m g t => Sys2Proof.Machine.execPbcd2b l vd va aux m g t s
  | .pb2bcd l vd va aux m g t => Sys2Proof.Machine.execPb2bcd l vd va aux m g t s
  | .pluhn l vd va aux m g t => Sys2Proof.Machine.execPluhn l vd va aux m g t s
  | .pins l vd ga ix t => Sys2Proof.Machine.execPins l vd ga ix t s
  | .pext l gd va ix t => Sys2Proof.Machine.execPext l gd va ix t s
  | .pflush l => Sys2Proof.Machine.execPflush l s
  | .pbar l ga gb => Sys2Proof.Machine.execPbar l ga gb s
  | .isync l => Sys2Proof.Machine.execIsync l s
  | .add l w gd ga gb => Sys2Proof.Machine.execAdd l w gd ga gb s
  | .sub l w gd ga gb => Sys2Proof.Machine.execSub l w gd ga gb s
  | .and l gd ga gb => Sys2Proof.Machine.execAnd l gd ga gb s
  | .or l gd ga gb => Sys2Proof.Machine.execOr l gd ga gb s
  | .xor l gd ga gb => Sys2Proof.Machine.execXor l gd ga gb s
  | .andn l gd ga gb => Sys2Proof.Machine.execAndn l gd ga gb s
  | .orn l gd ga gb => Sys2Proof.Machine.execOrn l gd ga gb s
  | .xnor l gd ga gb => Sys2Proof.Machine.execXnor l gd ga gb s
  | .sll l w gd ga gb => Sys2Proof.Machine.execSll l w gd ga gb s
  | .srl l w gd ga gb => Sys2Proof.Machine.execSrl l w gd ga gb s
  | .sra l w gd ga gb => Sys2Proof.Machine.execSra l w gd ga gb s
  | .ror l w gd ga gb => Sys2Proof.Machine.execRor l w gd ga gb s
  | .slt l gd ga gb => Sys2Proof.Machine.execSlt l gd ga gb s
  | .sltu l gd ga gb => Sys2Proof.Machine.execSltu l gd ga gb s
  | .min l gd ga gb => Sys2Proof.Machine.execMin l gd ga gb s
  | .max l gd ga gb => Sys2Proof.Machine.execMax l gd ga gb s
  | .minu l gd ga gb => Sys2Proof.Machine.execMinu l gd ga gb s
  | .maxu l gd ga gb => Sys2Proof.Machine.execMaxu l gd ga gb s
  | .clz l w gd ga => Sys2Proof.Machine.execClz l w gd ga s
  | .ctz l w gd ga => Sys2Proof.Machine.execCtz l w gd ga s
  | .popc l w gd ga => Sys2Proof.Machine.execPopc l w gd ga s
  | .rev8 l gd ga => Sys2Proof.Machine.execRev8 l gd ga s
  | .cselz l gd ga gb => Sys2Proof.Machine.execCselz l gd ga gb s
  | .cselnz l gd ga gb => Sys2Proof.Machine.execCselnz l gd ga gb s
  | .mul l w gd ga gb => Sys2Proof.Machine.execMul l w gd ga gb s
  | .mulh l gd ga gb => Sys2Proof.Machine.execMulh l gd ga gb s
  | .mulhu l gd ga gb => Sys2Proof.Machine.execMulhu l gd ga gb s
  | .mulhsu l gd ga gb => Sys2Proof.Machine.execMulhsu l gd ga gb s
  | .div l w gd ga gb => Sys2Proof.Machine.execDiv l w gd ga gb s
  | .divu l w gd ga gb => Sys2Proof.Machine.execDivu l w gd ga gb s
  | .rem l w gd ga gb => Sys2Proof.Machine.execRem l w gd ga gb s
  | .remu l w gd ga gb => Sys2Proof.Machine.execRemu l w gd ga gb s
  | .addi l gd ga imm => Sys2Proof.Machine.execAddi l gd ga imm s
  | .addiw l gd ga imm => Sys2Proof.Machine.execAddiw l gd ga imm s
  | .andi l gd ga imm => Sys2Proof.Machine.execAndi l gd ga imm s
  | .ori l gd ga imm => Sys2Proof.Machine.execOri l gd ga imm s
  | .xori l gd ga imm => Sys2Proof.Machine.execXori l gd ga imm s
  | .slti l gd ga imm => Sys2Proof.Machine.execSlti l gd ga imm s
  | .sltiu l gd ga imm => Sys2Proof.Machine.execSltiu l gd ga imm s
  | .slli l w gd ga sh => Sys2Proof.Machine.execSlli l w gd ga sh s
  | .srli l w gd ga sh => Sys2Proof.Machine.execSrli l w gd ga sh s
  | .srai l w gd ga sh => Sys2Proof.Machine.execSrai l w gd ga sh s
  | .rori l w gd ga sh => Sys2Proof.Machine.execRori l w gd ga sh s
  | .lui l gd imm => Sys2Proof.Machine.execLui l gd imm s
  | .shi l gd ga imm => Sys2Proof.Machine.execShi l gd ga imm s
  | .auipc l gd imm => Sys2Proof.Machine.execAuipc l gd imm s
  | .extu l gd ga pos len1 => Sys2Proof.Machine.execExtu l gd ga pos len1 s
  | .ext l gd ga pos len1 => Sys2Proof.Machine.execExt l gd ga pos len1 s
  | .ins l gd ga pos len1 => Sys2Proof.Machine.execIns l gd ga pos len1 s
  | .scalarLoad l sz u gd ga off => Sys2Proof.Machine.execScalarLoad l sz u gd ga off s
  | .scalarStore l sz gs ga off => Sys2Proof.Machine.execScalarStore l sz gs ga off s
  | .flwFld l sz fd ga off => Sys2Proof.Machine.execFlwFld l sz fd ga off s
  | .fswFsd l sz fs ga off => Sys2Proof.Machine.execFswFsd l sz fs ga off s
  | .indexedLoad l sz u sc gd ga gb => Sys2Proof.Machine.execIndexedLoad l sz u sc gd ga gb s
  | .indexedStore l sz sc gs ga gb => Sys2Proof.Machine.execIndexedStore l sz sc gs ga gb s
  | .pref l hint ga off => Sys2Proof.Machine.execPref l hint ga off s
  | .jump l disp => Sys2Proof.Machine.execJump l disp s
  | .jal l disp => Sys2Proof.Machine.execJal l disp s
  | .jalr l gd ga imm => Sys2Proof.Machine.execJalr l gd ga imm s
  | .bc l cond ga gb disp => Sys2Proof.Machine.execBc l cond ga gb disp s
  | .bz l cond ga disp => Sys2Proof.Machine.execBz l cond ga disp s
  | .fadd l p rm fd fa fb => Sys2Proof.Machine.execFadd l p rm fd fa fb s
  | .fsub l p rm fd fa fb => Sys2Proof.Machine.execFsub l p rm fd fa fb s
  | .fmul l p rm fd fa fb => Sys2Proof.Machine.execFmul l p rm fd fa fb s
  | .fdiv l p rm fd fa fb => Sys2Proof.Machine.execFdiv l p rm fd fa fb s
  | .fsqrt l p rm fd fa => Sys2Proof.Machine.execFsqrt l p rm fd fa s
  | .fminnum l p fd fa fb => Sys2Proof.Machine.execFminnum l p fd fa fb s
  | .fmaxnum l p fd fa fb => Sys2Proof.Machine.execFmaxnum l p fd fa fb s
  | .fmin l p fd fa fb => Sys2Proof.Machine.execFmin l p fd fa fb s
  | .fmax l p fd fa fb => Sys2Proof.Machine.execFmax l p fd fa fb s
  | .fabs l p fd fa => Sys2Proof.Machine.execFabs l p fd fa s
  | .fneg l p fd fa => Sys2Proof.Machine.execFneg l p fd fa s
  | .fcopys l p fd fa fb => Sys2Proof.Machine.execFcopys l p fd fa fb s
  | .fnabs l p fd fa => Sys2Proof.Machine.execFnabs l p fd fa s
  | .fma l p rm fd fa fb fc => Sys2Proof.Machine.execFma l p rm fd fa fb fc s
  | .fms l p rm fd fa fb fc => Sys2Proof.Machine.execFms l p rm fd fa fb fc s
  | .frms l p rm fd fa fb fc => Sys2Proof.Machine.execFrms l p rm fd fa fb fc s
  | .fnma l p rm fd fa fb fc => Sys2Proof.Machine.execFnma l p rm fd fa fb fc s
  | .fceq l p gd fa fb => Sys2Proof.Machine.execFceq l p gd fa fb s
  | .fclt l p gd fa fb => Sys2Proof.Machine.execFclt l p gd fa fb s
  | .fcle l p gd fa fb => Sys2Proof.Machine.execFcle l p gd fa fb s
  | .fcun l p gd fa fb => Sys2Proof.Machine.execFcun l p gd fa fb s
  | .fcltq l p gd fa fb => Sys2Proof.Machine.execFcltq l p gd fa fb s
  | .fcleq l p gd fa fb => Sys2Proof.Machine.execFcleq l p gd fa fb s
  | .fkind l p gd fa => Sys2Proof.Machine.execFkind l p gd fa s
  | .fcvt l p rm fd fa => Sys2Proof.Machine.execFcvt l p rm fd fa s
  | .ftoi64 l p rm gd fa => Sys2Proof.Machine.execFtoi64 l p rm gd fa s
  | .ftou64 l p rm gd fa => Sys2Proof.Machine.execFtou64 l p rm gd fa s
  | .ftoi32 l p rm gd fa => Sys2Proof.Machine.execFtoi32 l p rm gd fa s
  | .ftou32 l p rm gd fa => Sys2Proof.Machine.execFtou32 l p rm gd fa s
  | .i64tof l p rm fd ga => Sys2Proof.Machine.execI64tof l p rm fd ga s
  | .u64tof l p rm fd ga => Sys2Proof.Machine.execU64tof l p rm fd ga s
  | .i32tof l p rm fd ga => Sys2Proof.Machine.execI32tof l p rm fd ga s
  | .u32tof l p rm fd ga => Sys2Proof.Machine.execU32tof l p rm fd ga s
  | .fbits l p gd fa => Sys2Proof.Machine.execFbits l p gd fa s
  | .gbits l p fd ga => Sys2Proof.Machine.execGbits l p fd ga s
  | .frint l p rm fd fa => Sys2Proof.Machine.execFrint l p rm fd fa s
  | .frintx l p rm fd fa => Sys2Proof.Machine.execFrintx l p rm fd fa s
  | .atomicSwap l d ord gd ga gb => Sys2Proof.Machine.execAtomicSwap l d ord gd ga gb s
  | .atomicAdd l d ord gd ga gb => Sys2Proof.Machine.execAtomicAdd l d ord gd ga gb s
  | .atomicAnd l d ord gd ga gb => Sys2Proof.Machine.execAtomicAnd l d ord gd ga gb s
  | .atomicOr l d ord gd ga gb => Sys2Proof.Machine.execAtomicOr l d ord gd ga gb s
  | .atomicXor l d ord gd ga gb => Sys2Proof.Machine.execAtomicXor l d ord gd ga gb s
  | .atomicMin l d u ord gd ga gb => Sys2Proof.Machine.execAtomicMin l d u ord gd ga gb s
  | .atomicMax l d u ord gd ga gb => Sys2Proof.Machine.execAtomicMax l d u ord gd ga gb s
  | .atomicSadd l d u ord gd ga gb => Sys2Proof.Machine.execAtomicSadd l d u ord gd ga gb s
  | .cas l d ord gd ga gb => Sys2Proof.Machine.execCas l d ord gd ga gb s
  | .barLl l => Sys2Proof.Machine.execBarLl l s
  | .barSs l => Sys2Proof.Machine.execBarSs l s
  | .barFull l => Sys2Proof.Machine.execBarFull l s
  | .barDev l => Sys2Proof.Machine.execBarDev l s
  | .aese l vd va vb => Sys2Proof.Machine.execAese l vd va vb s
  | .aesel l vd va vb => Sys2Proof.Machine.execAesel l vd va vb s
  | .aesd l vd va vb => Sys2Proof.Machine.execAesd l vd va vb s
  | .aesdl l vd va vb => Sys2Proof.Machine.execAesdl l vd va vb s
  | .aesimc l vd va => Sys2Proof.Machine.execAesimc l vd va s
  | .sha256r l vd va vb => Sys2Proof.Machine.execSha256r l vd va vb s
  | .sha256m l vd va vb => Sys2Proof.Machine.execSha256m l vd va vb s
  | .sha512r l vd va vb => Sys2Proof.Machine.execSha512r l vd va vb s
  | .sha512m l vd va => Sys2Proof.Machine.execSha512m l vd va s
  | .crc32c l size gd ga gb => Sys2Proof.Machine.execCrc32c l size gd ga gb s
  | .mfs l gd sr => Sys2Proof.Machine.execMfs l gd sr s
  | .mts l sr ga => Sys2Proof.Machine.execMts l sr ga s
  | .tlbiVa l s0 ga gb => Sys2Proof.Machine.execTlbiVa l s0 ga gb s
  | .tlbiAsid l s0 ga gb => Sys2Proof.Machine.execTlbiAsid l s0 ga gb s
  | .tlbiAll l s0 ga gb => Sys2Proof.Machine.execTlbiAll l s0 ga gb s
  | .slbi l s0 ga gb => Sys2Proof.Machine.execSlbi l s0 ga gb s
  | .dcz l ga => Sys2Proof.Machine.execDcz l ga s
  | .dcc l ga => Sys2Proof.Machine.execDcc l ga s
  | .dcci l ga => Sys2Proof.Machine.execDcci l ga s
  | .sys l code => Sys2Proof.Machine.execSys l code s
  | .brk l code => Sys2Proof.Machine.execBrk l code s
  | .wcall l => Sys2Proof.Machine.execWcall l s
  | .wret l => Sys2Proof.Machine.execWret l s
  | .eret l => Sys2Proof.Machine.execEret l s
  | .waiti l => Sys2Proof.Machine.execWaiti l s
  | .waitiResume l => Sys2Proof.Machine.execWaitiResume l s
  | .stlbw l ga gb idx => Sys2Proof.Machine.execStlbw l ga gb idx s
  | .stlbr l gd idx h => Sys2Proof.Machine.execStlbr l gd idx h s
  | .stlbi l all ga => Sys2Proof.Machine.execStlbi l all ga s
  | .unassignedMajor l word => Sys2Proof.Machine.execUnassignedMajor l word s
  | .interruptTake l => Sys2Proof.Machine.execInterruptTake l s
  | .inboxClaim l gd => Sys2Proof.Machine.execInboxClaim l gd s
  | .inboxEoi l ga => Sys2Proof.Machine.execInboxEoi l ga s
  | .inboxSend l ga => Sys2Proof.Machine.execInboxSend l ga s
  | .timerExpire l => Sys2Proof.Machine.execTimerExpire l s
  | .sTimerExpire l => Sys2Proof.Machine.execSTimerExpire l s
  | .swdog l ga => Sys2Proof.Machine.execSwdog l ga s
  | .swdogExpire sk => Sys2Proof.Machine.execSwdogExpire sk s
  | .swdogPackageReset sk => Sys2Proof.Machine.execSwdogPackageReset sk s
  | .ndogCtlWrite l ga => Sys2Proof.Machine.execNdogCtlWrite l ga s
  | .ndogSvc l ga => Sys2Proof.Machine.execNdogSvc l ga s
  | .ndogWarn sk => Sys2Proof.Machine.execNdogWarn sk s
  | .ndogExpire sk => Sys2Proof.Machine.execNdogExpire sk s
  | .refclk25Loss => Sys2Proof.Machine.execRefclk25Loss s
  | .refclk100Loss => Sys2Proof.Machine.execRefclk100Loss s
  | .mmuSegtbWrite l ga => Sys2Proof.Machine.execMmuSegtbWrite l ga s
  | .inboundDmaRequest bd req => Sys2Proof.Machine.execInboundDmaRequest bd req s
  | .iotuInvStream q bd id => Sys2Proof.Machine.execIotuInvStream q bd id s
  | .iotuInvAsid q bd id => Sys2Proof.Machine.execIotuInvAsid q bd id s
  | .iotuInvVa q bd => Sys2Proof.Machine.execIotuInvVa q bd s
  | .iotuInvAll q bd => Sys2Proof.Machine.execIotuInvAll q bd s
  | .iotuInvDone bd => Sys2Proof.Machine.execIotuInvDone bd s
  | .deviceTimeout l tid => Sys2Proof.Machine.execDeviceTimeout l tid s
  | .gets agent line => Sys2Proof.Machine.execGets agent line s
  | .getm agent line => Sys2Proof.Machine.execGetm agent line s
  | .wfull agent line data => Sys2Proof.Machine.execWfull agent line data s
  | .puts agent line => Sys2Proof.Machine.execPuts agent line s
  | .putm agent line => Sys2Proof.Machine.execPutm agent line s
  | .rdnc agent line => Sys2Proof.Machine.execRdnc agent line s
  | .wrnc agent line mask data => Sys2Proof.Machine.execWrnc agent line mask data s
  | .rddev l tid => Sys2Proof.Machine.execRddev l tid s
  | .wrdev l tid => Sys2Proof.Machine.execWrdev l tid s
  | .atom agent line op => Sys2Proof.Machine.execAtom agent line op s
  | .msgDeliver m => Sys2Proof.Machine.execMsgDeliver m s
  | .dataMsg agent line => Sys2Proof.Machine.execDataMsg agent line s
  | .grantMsg agent line => Sys2Proof.Machine.execGrantMsg agent line s
  | .doneMsg agent line => Sys2Proof.Machine.execDoneMsg agent line s
  | .ackMsg agent line => Sys2Proof.Machine.execAckMsg agent line s
  | .cmpl l tid outside => Sys2Proof.Machine.execCmpl l tid outside s
  | .rdata agent line => Sys2Proof.Machine.execRdata agent line s
  | .already agent line => Sys2Proof.Machine.execAlready agent line s
  | .invMsg agent line => Sys2Proof.Machine.execInvMsg agent line s
  | .recallS agent line => Sys2Proof.Machine.execRecallS agent line s
  | .recallI agent line => Sys2Proof.Machine.execRecallI agent line s
  | .recallD agent line => Sys2Proof.Machine.execRecallD agent line s
  | .creditPacket port counts => Sys2Proof.Machine.execCreditPacket port counts s
  | .distaffWindowAccess write pa data => Sys2Proof.Machine.execDistaffWindowAccess write pa data s
  | .dirRebuildDone line => Sys2Proof.Machine.execDirRebuildDone line s
  | .l3WayDown q die way => Sys2Proof.Machine.execL3WayDown q die way s
  | .l3WayUp q die way => Sys2Proof.Machine.execL3WayUp q die way s
  | .hcWayDown q way => Sys2Proof.Machine.execHcWayDown q way s
  | .hcWayUp q way => Sys2Proof.Machine.execHcWayUp q way s
  | .wayCleanDone unit => Sys2Proof.Machine.execWayCleanDone unit s
  | .deadAgentDeclare agent => Sys2Proof.Machine.execDeadAgentDeclare agent s
  | .reclaimSweepDone => Sys2Proof.Machine.execReclaimSweepDone s
  | .portIsolate p => Sys2Proof.Machine.execPortIsolate p s
  | .fenceAck dom => Sys2Proof.Machine.execFenceAck dom s
  | .fenceLimitExpire dom => Sys2Proof.Machine.execFenceLimitExpire dom s
  | .fenceHoldExpire dom => Sys2Proof.Machine.execFenceHoldExpire dom s
  | .domainPowerRemove dom => Sys2Proof.Machine.execDomainPowerRemove dom s
  | .keepArraySaveDone l => Sys2Proof.Machine.execKeepArraySaveDone l s
  | .wakeReady dom lost => Sys2Proof.Machine.execWakeReady dom lost s
  | .flitCorrected die hub module lane => Sys2Proof.Machine.execFlitCorrected die hub module lane s
  | .laneRepair die hub module => Sys2Proof.Machine.execLaneRepair die hub module s
  | .flitUncorrectable die => Sys2Proof.Machine.execFlitUncorrectable die s
  | .discover q port result => Sys2Proof.Machine.execDiscover q port result s
  | .guestDiscoverTimeout port => Sys2Proof.Machine.execGuestDiscoverTimeout port s
  | .guestAdmit q port result => Sys2Proof.Machine.execGuestAdmit q port result s
  | .gstRetrain q port result => Sys2Proof.Machine.execGstRetrain q port result s
  | .gstDisable q port result => Sys2Proof.Machine.execGstDisable q port result s
  | .guestLinkFail port => Sys2Proof.Machine.execGuestLinkFail port s
  | .scrubRead mc decode => Sys2Proof.Machine.execScrubRead mc decode s
  | .spprRepair mc row => Sys2Proof.Machine.execSpprRepair mc row s
  | .refreshRank mc sub rank => Sys2Proof.Machine.execRefreshRank mc sub rank s
  | .neighbourRefresh mc row => Sys2Proof.Machine.execNeighbourRefresh mc row s
  | .driftCheck mc drifts => Sys2Proof.Machine.execDriftCheck mc drifts s
  | .mcApply q mc => Sys2Proof.Machine.execMcApply q mc s
  | .mcCheck q mc => Sys2Proof.Machine.execMcCheck q mc s
  | .applyWindow mc sub => Sys2Proof.Machine.execApplyWindow mc sub s
  | .lpExitFillDone mc => Sys2Proof.Machine.execLpExitFillDone mc s
  | .pcieLinkUp bd speed width => Sys2Proof.Machine.execPcieLinkUp bd speed width s
  | .pcieLinkDown bd => Sys2Proof.Machine.execPcieLinkDown bd s
  | .rearm q bd => Sys2Proof.Machine.execRearm q bd s
  | .pceRetrain q bd => Sys2Proof.Machine.execPceRetrain q bd s
  | .vfEnableSet bd num => Sys2Proof.Machine.execVfEnableSet bd num s
  | .vfEnableClear bd => Sys2Proof.Machine.execVfEnableClear bd s
  | .vfmCreate bd => Sys2Proof.Machine.execVfmCreate bd s
  | .vfmDestroy bd => Sys2Proof.Machine.execVfmDestroy bd s
  | .vfmQuery bd => Sys2Proof.Machine.execVfmQuery bd s
  | .msixUnmask bd fn vec => Sys2Proof.Machine.execMsixUnmask bd fn vec s
  | .busMasterEnableClear bd fn => Sys2Proof.Machine.execBusMasterEnableClear bd fn s
  | .busMasterEnableSet bd fn => Sys2Proof.Machine.execBusMasterEnableSet bd fn s
  | .powerstateD3hot bd => Sys2Proof.Machine.execPowerstateD3hot bd s
  | .powerstateD0 bd => Sys2Proof.Machine.execPowerstateD0 bd s
  | .pmeWake bd => Sys2Proof.Machine.execPmeWake bd s
  | .pePerstNAssert bd => Sys2Proof.Machine.execPePerstNAssert bd s
  | .pePerstNDeassert bd => Sys2Proof.Machine.execPePerstNDeassert bd s
  | .hotReset bd => Sys2Proof.Machine.execHotReset bd s
  | .initiateFunctionLevelReset bd fn => Sys2Proof.Machine.execInitiateFunctionLevelReset bd fn s
  | .flrComplete bd fn => Sys2Proof.Machine.execFlrComplete bd fn s
  | .fnMbxSend bd fn => Sys2Proof.Machine.execFnMbxSend bd fn s
  | .fnMbxAck bd fn => Sys2Proof.Machine.execFnMbxAck bd fn s
  | .vfmMbxSend bd => Sys2Proof.Machine.execVfmMbxSend bd s
  | .vfmMbxAck bd => Sys2Proof.Machine.execVfmMbxAck bd s
  | .deviceMailboxAnswer bd fn => Sys2Proof.Machine.execDeviceMailboxAnswer bd fn s
  | .dlogSwap bd fn => Sys2Proof.Machine.execDlogSwap bd fn s
  | .dlogSwapDone bd fn => Sys2Proof.Machine.execDlogSwapDone bd fn s
  | .hankPortUp port => Sys2Proof.Machine.execHankPortUp port s
  | .hankPortDown port => Sys2Proof.Machine.execHankPortDown port s
  | .helloSend port => Sys2Proof.Machine.execHelloSend port s
  | .hello port h => Sys2Proof.Machine.execHello port h s
  | .peerReachLapse port sys => Sys2Proof.Machine.execPeerReachLapse port sys s
  | .peerConflictClear sys => Sys2Proof.Machine.execPeerConflictClear sys s
  | .hankFrameReceive port f => Sys2Proof.Machine.execHankFrameReceive port f s
  | .hankItem sk sys m => Sys2Proof.Machine.execHankItem sk sys m s
  | .hankCreq sk sys m => Sys2Proof.Machine.execHankCreq sk sys m s
  | .hankCrel sk sys m => Sys2Proof.Machine.execHankCrel sk sys m s
  | .hankGrant sk sys m => Sys2Proof.Machine.execHankGrant sk sys m s
  | .hankRefuse sk sys m => Sys2Proof.Machine.execHankRefuse sk sys m s
  | .hankRevoke sk sys m => Sys2Proof.Machine.execHankRevoke sk sys m s
  | .hankItemAccept l => Sys2Proof.Machine.execHankItemAccept l s
  | .creditWaitExpire l => Sys2Proof.Machine.execCreditWaitExpire l s
  | .hankFrameSend sk sys dir => Sys2Proof.Machine.execHankFrameSend sk sys dir s
  | .hankRtoExpire sk sys dir => Sys2Proof.Machine.execHankRtoExpire sk sys dir s
  | .streamEnd sk sys dir => Sys2Proof.Machine.execStreamEnd sk sys dir s
  | .hnkRetrain q port => Sys2Proof.Machine.execHnkRetrain q port s
  | .hankPortRetire port => Sys2Proof.Machine.execHankPortRetire port s
  | .hankSpareSubstitute port => Sys2Proof.Machine.execHankSpareSubstitute port s
  | .coreErrorDetect l ply => Sys2Proof.Machine.execCoreErrorDetect l ply s
  | .arrayEccError e => Sys2Proof.Machine.execArrayEccError e s
  | .bundleRetire bd => Sys2Proof.Machine.execBundleRetire bd s
  | .reelStart l => Sys2Proof.Machine.execReelStart l s
  | .reelDrainDone l => Sys2Proof.Machine.execReelDrainDone l s
  | .reelStateMove l lost => Sys2Proof.Machine.execReelStateMove l lost s
  | .reelResume l => Sys2Proof.Machine.execReelResume l s
  | .reelStateWrite => Sys2Proof.Machine.execReelStateWrite s
  | .wearMeasure slow unacked warm => Sys2Proof.Machine.execWearMeasure slow unacked warm s
  | .emRead counts => Sys2Proof.Machine.execEmRead counts s
  | .safeEntry cause => Sys2Proof.Machine.execSafeEntry cause s
  | .imageHashCheck good => Sys2Proof.Machine.execImageHashCheck good s
  | .lockstepMismatch => Sys2Proof.Machine.execLockstepMismatch s
  | .rlQuery caller => Sys2Proof.Machine.execRlQuery caller s
  | .rlReel caller l => Sys2Proof.Machine.execRlReel caller l s
  | .rlRetire caller l => Sys2Proof.Machine.execRlRetire caller l s
  | .rlSafe caller => Sys2Proof.Machine.execRlSafe caller s
  | .pwrReqSpindle q index target => Sys2Proof.Machine.execPwrReqSpindle q index target s
  | .pwrReqChannel q index target => Sys2Proof.Machine.execPwrReqChannel q index target s
  | .pwrReqBundle q index target => Sys2Proof.Machine.execPwrReqBundle q index target s
  | .pwrReqPackage q target => Sys2Proof.Machine.execPwrReqPackage q target s
  | .powerEntryTimeout l => Sys2Proof.Machine.execPowerEntryTimeout l s
  | .wakeEvent dom => Sys2Proof.Machine.execWakeEvent dom s
  | .thermalSample site temp under => Sys2Proof.Machine.execThermalSample site temp under s
  | .powerStepUpdate entry watts => Sys2Proof.Machine.execPowerStepUpdate entry watts s
  | .tkwakeN => Sys2Proof.Machine.execTkwakeN s
  | .pmbAlert words => Sys2Proof.Machine.execPmbAlert words s
  | .guardStepRetry dom ack => Sys2Proof.Machine.execGuardStepRetry dom ack s
  | .captureEdge unit => Sys2Proof.Machine.execCaptureEdge unit s
  | .pulseStart unit => Sys2Proof.Machine.execPulseStart unit s
  | .pulseEnd unit => Sys2Proof.Machine.execPulseEnd unit s
  | .trcCtlWrite q v => Sys2Proof.Machine.execTrcCtlWrite q v s
  | .irqDoorbell q v => Sys2Proof.Machine.execIrqDoorbell q v s
  | .irqRouteWrite q n v => Sys2Proof.Machine.execIrqRouteWrite q n v s
  | .pmuSkSnap q sk => Sys2Proof.Machine.execPmuSkSnap q sk s
  | .statusCmd caller => Sys2Proof.Machine.execStatusCmd caller s
  | .timeCmd caller => Sys2Proof.Machine.execTimeCmd caller s
  | .identityCmd caller => Sys2Proof.Machine.execIdentityCmd caller s
  | .authBegin caller role index => Sys2Proof.Machine.execAuthBegin caller role index s
  | .authFinish caller tagOk => Sys2Proof.Machine.execAuthFinish caller tagOk s
  | .logout caller => Sys2Proof.Machine.execLogout caller s
  | .sessionIdleTimeout id => Sys2Proof.Machine.execSessionIdleTimeout id s
  | .credentialUnlock cred => Sys2Proof.Machine.execCredentialUnlock cred s
  | .xferOpen caller kind length => Sys2Proof.Machine.execXferOpen caller kind length s
  | .xferData caller offset data crcOk => Sys2Proof.Machine.execXferData caller offset data crcOk s
  | .enroll caller slot body sigOk => Sys2Proof.Machine.execEnroll caller slot body sigOk s
  | .revokeSlot caller slot sigOk => Sys2Proof.Machine.execRevokeSlot caller slot sigOk s
  | .logRead caller aseq => Sys2Proof.Machine.execLogRead caller aseq s
  | .floorCmd caller => Sys2Proof.Machine.execFloorCmd caller s
  | .pwrRequest caller kind index target => Sys2Proof.Machine.execPwrRequest caller kind index target s
  | .resetCmd caller kind index => Sys2Proof.Machine.execResetCmd caller kind index s
  | .fwStage caller sigOk version raise => Sys2Proof.Machine.execFwStage caller sigOk version raise s
  | .dbgHalt caller l => Sys2Proof.Machine.execDbgHalt caller l s
  | .dbgStep caller l => Sys2Proof.Machine.execDbgStep caller l s
  | .dbgResume caller l => Sys2Proof.Machine.execDbgResume caller l s
  | .dbgReg caller l write reg v => Sys2Proof.Machine.execDbgReg caller l write reg v s
  | .dbgMem caller write pa data length => Sys2Proof.Machine.execDbgMem caller write pa data length s
  | .dbgSample caller l => Sys2Proof.Machine.execDbgSample caller l s
  | .baudSet caller rate => Sys2Proof.Machine.execBaudSet caller rate s
  | .almanacBreak => Sys2Proof.Machine.execAlmanacBreak s
  | .baudRevert => Sys2Proof.Machine.execBaudRevert s
  | .entdaa addr => Sys2Proof.Machine.execEntdaa addr s
  | .dstMbxDoorbell q sk v => Sys2Proof.Machine.execDstMbxDoorbell q sk v s
  | .auditFlush => Sys2Proof.Machine.execAuditFlush s
  | .shedMeasure used => Sys2Proof.Machine.execShedMeasure used s
  | .hubUnitError unit => Sys2Proof.Machine.execHubUnitError unit s
  | .refclk25Restore => Sys2Proof.Machine.execRefclk25Restore s
  | .vaonLoss => Sys2Proof.Machine.execVaonLoss s
  | .peerDownHoldExpire sys => Sys2Proof.Machine.execPeerDownHoldExpire sys s
  | .spdTemperatureSample mc dimm temp => Sys2Proof.Machine.execSpdTemperatureSample mc dimm temp s
  | .tracePacketSend => Sys2Proof.Machine.execTracePacketSend s
  | .rootErrorStatusSet bd => Sys2Proof.Machine.execRootErrorStatusSet bd s
  | .sleepEntryDone l => Sys2Proof.Machine.execSleepEntryDone l s
  | .sleepExitDone l => Sys2Proof.Machine.execSleepExitDone l s
  | .localFaultEnd port => Sys2Proof.Machine.execLocalFaultEnd port s

end Sys2Proof.Machine
end

