-- ==== Sys2Proof/Machine/Tka.lean ====
section
/-! DEFINITION. TKA-32, which Distaff's cores run (07 R247, R248, 18 R553, R555): registers and operations of 32 bits, the
address map, and the one exception bank. What the spec does not give of it stands in log entry 58. -/
namespace Sys2Proof.Machine

/-! ### Registers -/

/-- A general register; g0 reads as zero (07 R219, R247). -/
def Tka.rg (t : Tka) (r : BitVec 5) : BitVec 32 := if r = 0#5 then 0#32 else mget 0#32 t.g r.toNat

/-- A write of a general register; g0 discards it. -/
def Tka.wg (t : Tka) (r : BitVec 5) (x : BitVec 32) : Tka := if r = 0#5 then t else { t with g := mset 0#32 t.g r.toNat x }

/-- The next instruction. -/
def Tka.past (t : Tka) : Tka := { t with pc := t.pc + 4#32 }

/-- A register as a signed number in 64 bits. -/
def Tka.s (t : Tka) (r : BitVec 5) : Word := (t.rg r).signExtend 64

/-- A register as an unsigned number in 64 bits. -/
def Tka.u (t : Tka) (r : BitVec 5) : Word := (t.rg r).zeroExtend 64

/-- The low 32 bits. -/
def low32 (x : Word) : BitVec 32 := x.truncate 32

/-! ### Operations of registers (07 R248, groups 0x00 to 0x0D and 0x3C) -/

/-- Groups 0x00 and 0x01 with W = 0: the register written and its value; none for another instruction. -/
def Tka.regOp (t : Tka) (i : Instr) : Option (BitVec 5 × Word) :=
  match i with
  | .add _ false d a b => some (d, t.s a + t.s b)
  | .sub _ false d a b => some (d, t.s a - t.s b)
  | .and _ d a b => some (d, t.s a &&& t.s b)
  | .or _ d a b => some (d, t.s a ||| t.s b)
  | .xor _ d a b => some (d, t.s a ^^^ t.s b)
  | .andn _ d a b => some (d, t.s a &&& ~~~(t.s b))
  | .orn _ d a b => some (d, t.s a ||| ~~~(t.s b))
  | .xnor _ d a b => some (d, ~~~(t.s a ^^^ t.s b))
  | .sll _ false d a b => some (d, shl true (t.s a) (shAmt true (t.s b)))
  | .srl _ false d a b => some (d, shrl true (t.s a) (shAmt true (t.s b)))
  | .sra _ false d a b => some (d, shra true (t.s a) (shAmt true (t.s b)))
  | .ror _ false d a b => some (d, rotr true (t.s a) (shAmt true (t.s b)))
  | .slt _ d a b => some (d, b2w (decide ((t.s a).toInt < (t.s b).toInt)))
  | .sltu _ d a b => some (d, b2w (decide ((t.u a).toNat < (t.u b).toNat)))
  | .min _ d a b => some (d, if (t.s a).toInt ≤ (t.s b).toInt then t.s a else t.s b)
  | .max _ d a b => some (d, if (t.s b).toInt ≤ (t.s a).toInt then t.s a else t.s b)
  | .minu _ d a b => some (d, if (t.u a).toNat ≤ (t.u b).toNat then t.u a else t.u b)
  | .maxu _ d a b => some (d, if (t.u b).toNat ≤ (t.u a).toNat then t.u a else t.u b)
  | .clz _ false d a => some (d, BitVec.ofNat 64 (clzN (t.u a) 32))
  | .ctz _ false d a => some (d, BitVec.ofNat 64 (ctzN (t.u a) 32))
  | .popc _ false d a => some (d, BitVec.ofNat 64 (popN (t.u a) 32))
  | .rev8 _ d a => some (d, BitVec.ofNat 64 (ofLe (leBytes 4 (t.rg a).toNat).reverse))
  | .cselz _ d a b => some (d, if t.rg b = 0#32 then t.s a else t.s d)
  | .cselnz _ d a b => some (d, if t.rg b = 0#32 then t.s d else t.s a)
  | .mul _ false d a b => some (d, t.s a * t.s b)
  | .mulh _ d a b => some (d, BitVec.ofInt 64 ((t.s a).toInt * (t.s b).toInt / 2 ^ 32))
  | .mulhu _ d a b => some (d, BitVec.ofNat 64 ((t.u a).toNat * (t.u b).toNat / 2 ^ 32))
  | .mulhsu _ d a b => some (d, BitVec.ofInt 64 ((t.s a).toInt * (t.u b).toNat / 2 ^ 32))
  | .div _ false d a b => some (d, sdivW true (t.s a) (t.s b))
  | .divu _ false d a b => some (d, udivW true (t.s a) (t.s b))
  | .rem _ false d a b => some (d, sremW true (t.s a) (t.s b))
  | .remu _ false d a b => some (d, uremW true (t.s a) (t.s b))
  | _ => none

/-- Groups 0x02 to 0x0D and the CRC instructions: the register written and its value; none for another instruction, and for the
forms that TKA-32 lacks. -/
def Tka.immOp (t : Tka) (i : Instr) : Option (BitVec 5 × Word) :=
  let five (sh : BitVec 6) (d : BitVec 5) (x : Word) : Option (BitVec 5 × Word) := if sh.getLsbD 5 then none else some (d, x)
  let fits (p n : BitVec 6) (d : BitVec 5) (x : Word) : Option (BitVec 5 × Word) :=
    if 32 < p.toNat + (n.toNat + 1) then none else some (d, x)
  match i with
  | .addi _ d a k => some (d, t.s a + simm16 k)
  | .andi _ d a k => some (d, t.s a &&& zimm16 k)
  | .ori _ d a k => some (d, t.s a ||| zimm16 k)
  | .xori _ d a k => some (d, t.s a ^^^ zimm16 k)
  | .slti _ d a k => some (d, b2w (decide ((t.s a).toInt < (simm16 k).toInt)))
  | .sltiu _ d a k => some (d, b2w (decide ((t.u a).toNat < (zextFrom 32 (simm16 k)).toNat)))
  | .slli _ false d a n => five n d (shl true (t.s a) n.toNat)
  | .srli _ false d a n => five n d (shrl true (t.s a) n.toNat)
  | .srai _ false d a n => five n d (shra true (t.s a) n.toNat)
  | .rori _ false d a n => five n d (rotr true (t.s a) n.toNat)
  | .lui _ d k => some (d, upper k)
  | .auipc _ d k => some (d, t.pc.zeroExtend 64 + upper k)
  | .extu _ d a p n => fits p n d (bitsFrom (t.u a) p.toNat (n.toNat + 1))
  | .ext _ d a p n => fits p n d (sextFrom (n.toNat + 1) (bitsFrom (t.u a) p.toNat (n.toNat + 1)))
  | .ins _ d a p n => fits p n d (insBits (t.u d) (t.u a) p.toNat (n.toNat + 1))
  | .crc32c _ size d a b =>
    if size = 3#2 then none else some (d, (crc32c (t.rg a) (leBytes (szBytes size) (t.rg b).toNat)).zeroExtend 64)
  | _ => none

/-! ### The address map (18 R555) -/

/-- What an access of a core of Distaff meets. -/
inductive TkaBus where
  | done (v : Nat)
  /-- refused: a bus error, or poison -/
  | refused (code : Nat)
  /-- its line or its port is not ready -/
  | waits
  deriving DecidableEq, Repr

/-- The physical address behind an address of a window. -/
def Dev.tkaWindow (d : Dev) (a : Nat) : Nat := (mget 0#25 d.dst.win ((a - 0x80000000) / 0x8000000)).toNat * 0x8000000 + a % 0x8000000

/-- A pair of window registers, LO and HI: bits [51:27] of a base at their places in 64 bits. Where a pair lies in its range is
not given: pair i at offset 8 × i (log entry 58). -/
def Dev.tkaWinReg (d : Dev) (off : Nat) (write : Option Nat) : Dev × TkaBus :=
  let i := off / 8
  let old := (mget 0#25 d.dst.win i).toNat
  let set (x : Nat) : Dev := d.updDst fun y => { y with win := mset 0#25 y.win i (BitVec.ofNat 25 x) }
  if 16 ≤ i then (d, .done 0)
  else match write, off / 4 % 2 with
    | none, 0 => (d, .done (old % 32 * 2 ^ 27))
    | none, _ => (d, .done (old / 32))
    | some v, 0 => (set (old / 32 * 32 + v / 2 ^ 27 % 32), .done 0)
    | some v, _ => (set (v % 2 ^ 20 * 32 + old % 32), .done 0)

/-- An access of a core of Distaff: `write` is the value stored, none for a read. The engines and controllers of which no
register is given answer reads with values that nothing constrains, and keep nothing of what is written (log entry 58). -/
def Dev.tkaAccess (d : Dev) (a n : Nat) (write : Option Nat) : Dev × TkaBus :=
  if 0x10000000 ≤ a ∧ a < 0x10400000 then
    match write with
    | none => (d, .done (ofLe ((List.range n).map fun k => mget unlistedByte d.dst.sram (a - 0x10000000 + k))))
    | some v => (d.updDst fun x => { x with sram := putCells x.sram (cellsAt (a - 0x10000000) (leBytes n v)) }, .done 0)
  else if 0x20000000 ≤ a ∧ a < 0x20020000 then
    match write with
    | none => let f := d.takeFree; (f.1, .done (f.2.toNat % 2 ^ (8 * n)))
    | some _ => (d, .done 0)
  else if 0x30000000 ≤ a ∧ a < 0x30000100 then
    if n = 4 then d.tkaWinReg (a - 0x30000000) write else (d, .refused 0x0C)
  else if 0x80000000 ≤ a ∧ a < 0x100000000 then
    let f := d.winBytes write.isSome (d.tkaWindow a) (leBytes n (write.getD 0)) n
    let x := winAccess write.isSome (d.tkaWindow a) f.2
    if d.hubBlocked x then (d, .waits)
    else match f.1.winTry x with
      | (d, .done .ok bs) => (d, .done (ofLe bs))
      | (d, .done .poison _) => (d, .refused 0x0D)
      | (d, .done _ _) => (d, .refused 0x0C)
      | (d, _) => (d, .waits)
  else (d, .refused 0x0C)

/-! ### Outcomes and the exception bank (18 R555, 08 R255, R257) -/

/-- What an instruction of TKA-32 does. -/
inductive TkaOut where
  | next (t : Tka)
  | exc (code info addr : Nat)
  | waits
  deriving DecidableEq, Repr

/-- Taking an exception: the one level is privileged, and entry is at the bank's VBASE; SYS saves the next address (08 R254,
R255). -/
def Tka.take (t : Tka) (code info addr : Nat) : Tka :=
  let b := t.bank
  let saved := if code = 0x10 then t.pc + 4#32 else t.pc
  { t with
    pc := low32 b.vbase
    bank := { b with epc := saved.zeroExtend 64, cause := causeOf false info 0 code, addr := BitVec.ofNat 64 addr, ppriv := true, pie := b.ie, ie := false } }

/-- MFS: the bank at 0x010 to 0x015 and TIME at 0x220, as far as a register of 32 bits holds them (18 R555). -/
def Tka.mfs (t : Tka) (now : Nat) (sr : Nat) : Option (BitVec 32) :=
  let b := t.bank
  match sr with
  | 0x010 => some (BitVec.ofNat 32 (b2n b.ie + 2 * b2n b.pie + 4 * b2n b.ppriv + 8 * b2n b.utb + 16 * b2n b.fpen))
  | 0x011 => some (low32 b.vbase)
  | 0x012 => some (low32 b.epc)
  | 0x013 => some b.cause
  | 0x014 => some (low32 b.addr)
  | 0x015 => some (low32 b.scratch)
  | 0x220 => some (BitVec.ofNat 32 now)
  | _ => none

/-- MTS; TIME takes no write, and fields that a register lacks none (00 R12). -/
def Tka.mts (t : Tka) (sr : Nat) (x : BitVec 32) : Option Tka :=
  let b := t.bank
  match sr with
  | 0x010 => some { t with bank := { b with ie := bit x 0, pie := bit x 1, ppriv := bit x 2, utb := bit x 3, fpen := bit x 4 } }
  | 0x011 => some { t with bank := { b with vbase := x.zeroExtend 64 &&& ~~~0xFFF#64 } }
  | 0x012 => some { t with bank := { b with epc := x.zeroExtend 64 &&& ~~~3#64 } }
  | 0x013 => some { t with bank := { b with cause := x &&& 0x80FFFFFF#32 } }
  | 0x014 => some { t with bank := { b with addr := x.zeroExtend 64 } }
  | 0x015 => some { t with bank := { b with scratch := x.zeroExtend 64 } }
  | 0x220 => some t
  | _ => none

/-- An access after its alignment (07 R228); what is read goes to a register through `put`. -/
def Dev.tkaMem (d : Dev) (t : Tka) (va : BitVec 32) (n : Nat) (write : Option Nat) (put : Nat → Tka) : Dev × TkaOut :=
  let a := va.toNat
  if a % n ≠ 0 then (d, .exc 0x03 0 a)
  else match d.tkaAccess a n write with
    | (d, .done v) => (d, .next (match write with | none => (put v).past | some _ => t.past))
    | (d, .refused code) => (d, .exc code 0 a)
    | (d, .waits) => (d, .waits)

/-- A word atomic: `new` gives what is stored for what was there. One to a window outside DRAM raises permission (07 R237). -/
def Dev.tkaAtomic (d : Dev) (t : Tka) (gd ga : BitVec 5) (new : Nat → Option Nat) : Dev × TkaOut :=
  let a := (t.rg ga).toNat
  let dram := decide (a < 0x20000000) || (decide (0x80000000 ≤ a) && (match placeOf (d.tkaWindow a) with | .dram => true | _ => false))
  if a % 4 ≠ 0 then (d, .exc 0x03 0 a)
  else if !dram then (d, .exc 0x07 0 a)
  else match d.tkaAccess a 4 none with
    | (d, .done old) =>
      let t' := (t.wg gd (BitVec.ofNat 32 old)).past
      match new old with
      | none => (d, .next t')
      | some v => match d.tkaAccess a 4 (some v) with
        | (d, .done _) => (d, .next t')
        | (d, .refused code) => (d, .exc code 0 a)
        | (d, .waits) => (d, .waits)
    | (d, .refused code) => (d, .exc code 0 a)
    | (d, .waits) => (d, .waits)

/-- The atomic operations of group 0x28 and CAS with SZ = 0: the registers and what is stored. -/
def Tka.atomOp (t : Tka) (i : Instr) : Option (BitVec 5 × BitVec 5 × (Nat → Option Nat)) :=
  let f (k : AtomKind) (u : Bool) (b : BitVec 5) (old : Nat) : Option Nat := atomNew k 32 u old (t.rg b).toNat 0
  match i with
  | .atomicSwap _ false _ d a b => some (d, a, f .swap false b)
  | .atomicAdd _ false _ d a b => some (d, a, f .add false b)
  | .atomicAnd _ false _ d a b => some (d, a, f .and false b)
  | .atomicOr _ false _ d a b => some (d, a, f .or false b)
  | .atomicXor _ false _ d a b => some (d, a, f .xor false b)
  | .atomicMin _ false u _ d a b => some (d, a, f .min u b)
  | .atomicMax _ false u _ d a b => some (d, a, f .max u b)
  | .atomicSadd _ false u _ d a b => some (d, a, f .sadd u b)
  | .cas _ false _ d a b => some (d, a, fun old => atomNew .cas 32 false old (t.rg b).toNat (t.rg d).toNat)
  | _ => none

/-- A jump. -/
def Tka.goTo (t : Tka) (target : Word) : Tka := { t with pc := low32 target }

/-- The target of a branch or jump by displacement (07 R231). -/
def Tka.rel {n : Nat} (t : Tka) (disp : BitVec n) : Word := t.pc.zeroExtend 64 + (disp.signExtend 64 <<< 2)

/-- Groups 0x18 to 0x1C, barriers, PREF and the system instructions; every other one is illegal (07 R248). -/
def Tka.flow (t : Tka) (now : Nat) (i : Instr) : TkaOut :=
  let bad : TkaOut := .exc 0x01 0 0
  let link := (t.pc + 4#32).zeroExtend 64
  match i with
  | .jump _ disp => .next (t.goTo (t.rel disp))
  | .jal _ disp => .next ((t.wg 1#5 (low32 link)).goTo (t.rel disp))
  | .jalr _ d a k =>
    let target := low32 (t.s a + simm16 k)
    if target.toNat % 4 ≠ 0 then .exc 0x03 0 target.toNat else .next { t.wg d (low32 link) with pc := target }
  | .bc _ cond a b disp => match bcCond cond (t.s a) (t.s b) with
    | none => bad
    | some x => .next (if x then t.goTo (t.rel disp) else t.past)
  | .bz _ cond a disp => match bzCond cond (t.s a) with
    | none => bad
    | some x => .next (if x then t.goTo (t.rel disp) else t.past)
  | .pref _ hint _ _ => if 4 ≤ hint.toNat then bad else .next t.past
  | .barLl _ => .next t.past
  | .barSs _ => .next t.past
  | .barFull _ => .next t.past
  | .barDev _ => .next t.past
  | .isync _ => .next t.past
  | .mfs _ d sr => match t.mfs now sr.toNat with
    | some x => .next (t.wg d x).past
    | none => bad
  | .mts _ sr a => match t.mts sr.toNat (t.rg a) with
    | some t => .next t.past
    | none => bad
  | .sys _ code => .exc 0x10 code.toNat 0
  | .brk _ code => .exc 0x12 code.toNat 0
  | .eret _ => .next { t with pc := low32 t.bank.epc, bank := { t.bank with ie := t.bank.pie } }
  | .waiti _ => .next { t.past with waiting := true }
  | _ => bad

/-- One instruction of TKA-32 (07 R248). -/
def Dev.tkaExec (d : Dev) (t : Tka) (i : Instr) : Dev × TkaOut :=
  let load (sz : BitVec 2) (u : Bool) (gd : BitVec 5) (va : BitVec 32) : Dev × TkaOut :=
    if sz = 3#2 then (d, .exc 0x01 0 0)
    else d.tkaMem t va (szBytes sz) none fun v => t.wg gd (low32 (extendLoad (szBytes sz) u v))
  let store (sz : BitVec 2) (gs : BitVec 5) (va : BitVec 32) : Dev × TkaOut :=
    if sz = 3#2 then (d, .exc 0x01 0 0)
    else d.tkaMem t va (szBytes sz) (some ((t.rg gs).toNat % 2 ^ (8 * szBytes sz))) fun _ => t
  let ix (ga gb : BitVec 5) (sc : Bool) (sz : BitVec 2) : BitVec 32 := t.rg ga + (if sc then t.rg gb <<< sz.toNat else t.rg gb)
  match t.regOp i, t.immOp i, t.atomOp i with
  | some (gd, x), _, _ => (d, .next (t.wg gd (low32 x)).past)
  | none, some (gd, x), _ => (d, .next (t.wg gd (low32 x)).past)
  | none, none, some (gd, ga, f) => d.tkaAtomic t gd ga f
  | none, none, none => match i with
    | .scalarLoad _ sz u gd ga off => load sz u gd (t.rg ga + off.signExtend 32)
    | .scalarStore _ sz gs ga off => store sz gs (t.rg ga + off.signExtend 32)
    | .indexedLoad _ sz u sc gd ga gb => load sz u gd (ix ga gb sc sz)
    | .indexedStore _ sz sc gs ga gb => store sz gs (ix ga gb sc sz)
    | _ => (d, t.flow d.now i)

/-! ### The active pair (18 R553) -/

/-- The first core of the active pair, ACTIVE of DST_STATUS: cores 0 and 1, or 2 and 3. -/
def Dev.tkaActive (d : Dev) : Nat := 2 * d.regF Reg.DST_STATUS 3 3

/-- A core of Distaff. -/
def Dev.tkaCore (d : Dev) (k : Nat) : Tka := mget Tka.reset d.dst.tka k

/-- The two cores of the active pair, which run in lockstep, after an instruction. -/
def Dev.setTka (d : Dev) (t : Tka) : Dev :=
  let k := d.tkaActive
  d.updDst fun x => { x with tka := mset Tka.reset (mset Tka.reset x.tka k t) (k + 1) t }

/-- The word at the pc, decoded by the tables of TKA-64, is performed, or raises illegal instruction (07 R248). -/
def Dev.tkaRun (d : Dev) : Dev :=
  let t := d.tkaCore d.tkaActive
  match d.tkaAccess t.pc.toNat 4 none with
  | (d, .done w) =>
    let r := match decodeWord 0 (BitVec.ofNat 32 w) with
      | some i => d.tkaExec t i
      | none => (d, .exc 0x01 0 0)
    match r with
    | (d, .next t) => d.setTka t
    | (d, .exc code info addr) => d.setTka (t.take code info addr)
    | (d, .waits) => d
  | (d, .refused code) => d.setTka (t.take code 0 t.pc.toNat)
  | (d, .waits) => d

/-- Whether the active pair runs words of its SRAM: what the ROM does is what a start does, whose words the spec does not give
(18 R558, log entry 58). -/
def Dev.tkaRuns (d : Dev) : Bool :=
  let t := d.tkaCore d.tkaActive
  !t.waiting && decide (0x10000000 ≤ t.pc.toNat) && decide (t.pc.toNat < 0x10400000)

/-- Distaff's active pair performs one instruction. -/
def Dev.tkaTick (d : Dev) : Dev := if d.tkaRuns then d.tkaRun else d

end Sys2Proof.Machine
end

