-- ==== Sys2Proof/Machine/Tick.lean ====
section
/-! DEFINITION. What the block does by itself when no command waits: its timebase counts, and work that needs no further
event from outside goes on (10 R330, 11 R354, 12 R374, 04 R127, 18 R579). -/
namespace Sys2Proof.Machine

/-- The store buffer of every released core drains, and a core that fences moves on (10 R330, R337). -/
def Dev.drainAll (d : Dev) : Dev :=
  (d.cores.map fun (e : Nat × Core) => e.1).foldl (fun d l => if (d.core l).released then (d.drain l).tryFence l else d) d

/-- The board controller reads one event message over I3C (18 R579). -/
def Dev.eventRead (d : Dev) : Dev :=
  if d.dst.i3c.isSome then d.updDst fun x => { x with events := x.events.tail } else d

/-- One nanosecond with no command: the timebase counts (08 R269) and pending work goes on: packets move (12 R374), homes and
way units work (11 R354, R362), waiting accesses and waiters are tried again, and Distaff's active pair performs an instruction of
what is in its SRAM (07 R248; log entry 4). -/
def Dev.idleTick (d : Dev) : Dev :=
  (({ d with now := d.now + 1 }).drainAll.netTick.cohPump.cleanTick.ioPump.pumpAll.offerAll.imgTick).tkaTick.eventRead

end Sys2Proof.Machine
end

