-- ==== Sys2Proof/Machine/Step.lean ====
section
/-! DEFINITION. One step of the block: the command at the front of the queue, or a tick where none waits. -/
namespace Sys2Proof.Machine

/-- The command at the front takes its effect with the queue's rest; on an empty queue the block idles for a tick (log
entry 4). -/
def step (s : State) : Host.Outcome State Fault Refusal :=
  match s.pending with
  | [] => .next { s with dev := s.dev.idleTick }
  | c :: rest => Sys2Proof.Machine.exec c { s with pending := rest }

/-- The state with the command a word spells put at the front of its queue. The table gives no row bits, so no word spells
one and the state is as it was. -/
def State.withFetchWord (s : State) (nbits w : Nat) : State :=
  match Sys2Proof.decodeTableWord nbits w with
  | some c => { s with pending := c :: s.pending }
  | none => s

end Sys2Proof.Machine
end

