-- ==== Sys2Proof/WellFormed.lean ====
section
/-! DEFINITION. Which commands are well formed: bounds on operands that the types of the syntax do not give. A sender sends
only such commands; a meaning is total on all of them all the same. -/
namespace Sys2Proof

/-- A line of DRAM below the end of its space (01 R33): PA / 64 < 2^41. -/
def lineOk (line : Nat) : Bool := decide (line < 2 ^ 41)

/-- A far atomic names an aligned operand of its line (07 R236). -/
def AtomOp.wellFormed (o : AtomOp) : Bool := o.off.toNat % (if o.dword then 8 else 4) == 0

/-- A DMA request carries the bytes its kind needs, inside one 4 KiB block as PCIe demands (14 R437). -/
def DmaReq.wellFormed (r : DmaReq) : Bool :=
  if r.kind = 5 then true
  else decide (r.addr.toNat % 4096 + r.len ≤ 4096) &&
    (if r.kind = 0 then decide (1 ≤ r.len) && r.data.isEmpty
    else if r.kind = 1 then decide (1 ≤ r.len) && r.data.length == r.len
    else if r.kind = 4 then (r.len == 4 || r.len == 8 || r.len == 16) && r.data.length == 2 * r.len
    else (r.len == 4 || r.len == 8) && r.data.length == r.len)

/-- A Hank payload has its 32-byte header and at most 4,352 bytes (15 R479). -/
def HankFrame.wellFormed (f : HankFrame) : Bool := decide (32 ≤ f.payload.length ∧ f.payload.length ≤ 4352)

/-- Only an ITEM has a body, and an item has at least its header of 16 bytes (15 R480). -/
def HankMsg.wellFormed (m : HankMsg) : Bool :=
  match m.mtype with
  | .item => decide (16 ≤ m.body.length ∧ m.body.length ≤ 4096)
  | _ => m.body.isEmpty

/-- A start finds the SPDs of the 16 channels (13 R401). -/
def BootInputs.wellFormed (b : BootInputs) : Bool := b.spd.length == 16

/-- The well-formed commands. -/
def Instr.wellFormed : Instr → Bool
  | .pwrokRise b => b.wellFormed
  | .packageReset b => b.wellFormed
  | .gets _ n => lineOk n
  | .getm _ n => lineOk n
  | .wfull _ n bs => lineOk n && bs.length == 64
  | .puts _ n => lineOk n
  | .putm _ n => lineOk n.line
  | .rdnc _ n => lineOk n
  | .wrnc _ n _ bs => lineOk n && bs.length == 64
  | .atom _ n o => lineOk n && o.wellFormed
  | .dataMsg _ n => lineOk n
  | .grantMsg _ n => lineOk n
  | .doneMsg _ n => lineOk n
  | .ackMsg _ n => lineOk n
  | .rdata _ n => lineOk n.line
  | .already _ n => lineOk n
  | .invMsg _ n => lineOk n
  | .recallS _ n => lineOk n
  | .recallI _ n => lineOk n
  | .recallD _ n => lineOk n
  | .dirRebuildDone n => lineOk n
  | .inboundDmaRequest _ r => r.wellFormed
  | .creditPacket _ cs => cs.length == 4 && cs.all (fun c => decide (c < 256))
  | .distaffWindowAccess _ _ bs => decide (1 ≤ bs.length ∧ bs.length ≤ 64)
  | .msixUnmask _ _ v => decide (v ≤ 2048)
  | .hankFrameReceive _ f => f.wellFormed
  | .hankItem _ _ m => m.wellFormed && m.mtype == .item
  | .hankCreq _ _ m => m.wellFormed && m.mtype == .creq
  | .hankCrel _ _ m => m.wellFormed && m.mtype == .crel
  | .hankGrant _ _ m => m.wellFormed && m.mtype == .grant
  | .hankRefuse _ _ m => m.wellFormed && m.mtype == .refuse
  | .hankRevoke _ _ m => m.wellFormed && m.mtype == .revoke
  | .pwrReqSpindle _ i _ => decide (i < 4096)
  | .pwrReqChannel _ i _ => decide (i < 4096)
  | .pwrReqBundle _ i _ => decide (i < 4096)
  | .xferData _ _ bs _ => decide (bs.length ≤ 1024)
  | .shedMeasure u => decide (u ≤ 100)
  | _ => true

end Sys2Proof
end

