-- ==== Sys2Proof/Safety.lean ====
section
/-! DEFINITION. What a safe run is: every memory in its canonical form, a queue of well-formed commands, and no stop; and the
terms in which claims say that a command completes. -/
namespace Sys2Proof

/-- The canonical form of DRAM: addresses strictly rising, and no byte listed that equals what an unlisted one reads as. -/
def Machine.Mem.wf (m : Machine.Mem) : Bool := Machine.mwf Machine.unlistedByte m.bytes

/-- Every waiting command is well formed. -/
def Machine.State.queueOk (s : Machine.State) : Bool := s.pending.all Instr.wellFormed

/-- A step that does not stop. -/
def completes (o : Host.Outcome Machine.State Machine.Fault Machine.Refusal) : Bool :=
  match o with
  | .next _ => true
  | .fault _ => false
  | .refused _ => false

namespace Machine

/-- A command completes: exec answers a next state whose queue is the one it was given, and of whose device `p` holds. -/
def Completes (c : Instr) (s : State) (p : Dev → Prop) : Prop :=
  ∃ t, exec c s = .next t ∧ t.pending = s.pending ∧ p t.dev

/-- A command answers the next state whose device is `d`, its queue untouched. -/
def Leaves (c : Instr) (s : State) (d : Dev) : Prop := Completes c s fun t => t = d

/-- The device after an LCN has fetched the word at its PC. -/
def State.fetched (s : State) (l : Fin 384) : Dev := (s.dev.fetch l.val).1

/-- Nothing but the instruction itself acts at an LCN's retirement: its performance counters do not count, it is not traced,
no debugger steps it, and no drain of its own has begun. -/
def Dev.quiet (d : Dev) (l : Nat) : Bool :=
  (!bit (d.core l).pmu.ctl 0 || bit (d.core l).pmu.ctl 2) && !d.traced l && !(d.core l).stepArmed && !(d.core l).draining

/-- An LCN retires the instruction given to it: it is in service, waits for nothing, has no vector to take, its fetch succeeds
from a page whose A bit is set, and the retirement is quiet. -/
def State.ready (s : State) (l : Fin 384) : Prop :=
  s.dev.canRun l.val = true ∧ (s.dev.fetch l.val).2 = .ok none ∧ (s.fetched l).quiet l.val = true

/-- An instruction retires with the effect `g` on the device its fetch leaves, the PC then moving to the next word. -/
def RetiresBy (c : Instr) (l : Fin 384) (s : State) (g : Dev → Dev) : Prop :=
  Completes c s fun d => d = (g (s.fetched l)).updCore l.val fun k => { k with pc := k.pc + 4#64 }

/-- An instruction retires having changed nothing but its own core, by `f`, and the PC, which moves to the next word. -/
def Retires (c : Instr) (l : Fin 384) (s : State) (f : Core → Core) : Prop :=
  RetiresBy c l s fun d => d.updCore l.val f

end Machine

end Sys2Proof
end

