-- ==== Sys2Proof/Certificates/Slice0/Obligations.lean ====
section
/-! DEFINITION. The statements for the provers: for every command where it completes and what it leaves, the rules of the block as a
whole, and the invariants that every step keeps. -/
open Sys2Proof Sys2Proof.Machine

/-- The low 32 bits of a word, sign-extended: the result of every W form (07 R224, R225). -/
def sx32 (x : Word) : Word := (x.setWidth 32).signExtend 64

/-- Every register operation of major 0x00 retires with the value of 07 R224 in gd and nothing else changed: ADD to CSELNZ,
in both forms where the table has two. -/
def Obligations.RegisterOpsComplete : Prop :=
  ∀ (l : Fin 384) (w : Bool) (gd ga gb : BitVec 5) (s : State), s.ready l →
    let sh (k : Core) : Nat := if w then (k.rg gb).toNat % 32 else (k.rg gb).toNat % 64
    let n : Nat := if w then 32 else 64
    let wr (c : Instr) (v : Core → Word) : Prop := Retires c l s fun k => k.wg gd (v k)
    wr (.add l w gd ga gb) (fun k => if w then sx32 (k.rg ga + k.rg gb) else k.rg ga + k.rg gb) ∧
    wr (.sub l w gd ga gb) (fun k => if w then sx32 (k.rg ga - k.rg gb) else k.rg ga - k.rg gb) ∧
    wr (.and l gd ga gb) (fun k => k.rg ga &&& k.rg gb) ∧
    wr (.or l gd ga gb) (fun k => k.rg ga ||| k.rg gb) ∧
    wr (.xor l gd ga gb) (fun k => k.rg ga ^^^ k.rg gb) ∧
    wr (.andn l gd ga gb) (fun k => k.rg ga &&& ~~~k.rg gb) ∧
    wr (.orn l gd ga gb) (fun k => k.rg ga ||| ~~~k.rg gb) ∧
    wr (.xnor l gd ga gb) (fun k => ~~~(k.rg ga ^^^ k.rg gb)) ∧
    wr (.sll l w gd ga gb) (fun k => if w then sx32 (k.rg ga <<< sh k) else k.rg ga <<< sh k) ∧
    wr (.srl l w gd ga gb) (fun k => if w then (((k.rg ga).setWidth 32) >>> sh k).signExtend 64 else k.rg ga >>> sh k) ∧
    wr (.sra l w gd ga gb) (fun k => if w then (((k.rg ga).setWidth 32).sshiftRight (sh k)).signExtend 64 else (k.rg ga).sshiftRight (sh k)) ∧
    wr (.ror l w gd ga gb) (fun k => if w then (((k.rg ga).setWidth 32).rotateRight (sh k)).signExtend 64 else (k.rg ga).rotateRight (sh k)) ∧
    wr (.slt l gd ga gb) (fun k => if (k.rg ga).toInt < (k.rg gb).toInt then 1#64 else 0#64) ∧
    wr (.sltu l gd ga gb) (fun k => if (k.rg ga).toNat < (k.rg gb).toNat then 1#64 else 0#64) ∧
    wr (.min l gd ga gb) (fun k => if (k.rg ga).toInt ≤ (k.rg gb).toInt then k.rg ga else k.rg gb) ∧
    wr (.max l gd ga gb) (fun k => if (k.rg ga).toInt ≤ (k.rg gb).toInt then k.rg gb else k.rg ga) ∧
    wr (.minu l gd ga gb) (fun k => if (k.rg ga).toNat ≤ (k.rg gb).toNat then k.rg ga else k.rg gb) ∧
    wr (.maxu l gd ga gb) (fun k => if (k.rg ga).toNat ≤ (k.rg gb).toNat then k.rg gb else k.rg ga) ∧
    wr (.clz l w gd ga) (fun k => BitVec.ofNat 64 (clzN (k.rg ga) n)) ∧
    wr (.ctz l w gd ga) (fun k => BitVec.ofNat 64 (ctzN (k.rg ga) n)) ∧
    wr (.popc l w gd ga) (fun k => BitVec.ofNat 64 ((List.range n).filter fun i => (k.rg ga).getLsbD i).length) ∧
    wr (.rev8 l gd ga) (fun k => BitVec.ofNat 64 (ofLe (leBytes 8 (k.rg ga).toNat).reverse)) ∧
    Retires (.cselz l gd ga gb) l s (fun k => if k.rg gb = 0#64 then k.wg gd (k.rg ga) else k) ∧
    Retires (.cselnz l gd ga gb) l s (fun k => if k.rg gb ≠ 0#64 then k.wg gd (k.rg ga) else k)

/-- CLZ counts the zeros above the highest one bit, and CTZ those below the lowest: the count is the width for 0, and else
the bit it stops at is a one with only zeros beyond it (07 R224). -/
def Obligations.LeadingAndTrailingZeros : Prop :=
  ∀ (x : Word) (n : Nat), n ≤ 64 →
    (∀ i, i < clzN x n → x.getLsbD (n - 1 - i) = false) ∧ (clzN x n < n → x.getLsbD (n - 1 - clzN x n) = true) ∧ clzN x n ≤ n ∧
    (∀ i, i < ctzN x n → x.getLsbD i = false) ∧ (ctzN x n < n → x.getLsbD (ctzN x n) = true) ∧ ctzN x n ≤ n

/-- Every multiply and divide retires with the value of 07 R225 in gd and nothing else changed: no divisor traps, a divisor
of zero gives all ones and the dividend. Every immediate, shift and bit-field instruction with a legal form retires with the
value of 07 R226 in gd and nothing else changed. -/
def Obligations.MultiplyDivideAndImmediates : Prop :=
  (∀ (l : Fin 384) (w : Bool) (gd ga gb : BitVec 5) (s : State), s.ready l →
    let wr (c : Instr) (v : Core → Word) : Prop := Retires c l s fun k => k.wg gd (v k)
    let a (k : Core) : Word := if w then sx32 (k.rg ga) else k.rg ga
    let b (k : Core) : Word := if w then sx32 (k.rg gb) else k.rg gb
    let ua (k : Core) : Nat := if w then (k.rg ga).toNat % 2 ^ 32 else (k.rg ga).toNat
    let ub (k : Core) : Nat := if w then (k.rg gb).toNat % 2 ^ 32 else (k.rg gb).toNat
    let out (x : Word) : Word := if w then sx32 x else x
    wr (.mul l w gd ga gb) (fun k => out (k.rg ga * k.rg gb)) ∧
    wr (.mulh l gd ga gb) (fun k => BitVec.ofInt 64 ((k.rg ga).toInt * (k.rg gb).toInt / 2 ^ 64)) ∧
    wr (.mulhu l gd ga gb) (fun k => BitVec.ofNat 64 ((k.rg ga).toNat * (k.rg gb).toNat / 2 ^ 64)) ∧
    wr (.mulhsu l gd ga gb) (fun k => BitVec.ofInt 64 ((k.rg ga).toInt * ((k.rg gb).toNat : Int) / 2 ^ 64)) ∧
    wr (.div l w gd ga gb) (fun k => if b k = 0#64 then ~~~0#64 else out (BitVec.ofInt 64 ((a k).toInt.tdiv (b k).toInt))) ∧
    wr (.divu l w gd ga gb) (fun k => if ub k = 0 then ~~~0#64 else out (BitVec.ofNat 64 (ua k / ub k))) ∧
    wr (.rem l w gd ga gb) (fun k => if b k = 0#64 then a k else out (BitVec.ofInt 64 ((a k).toInt.tmod (b k).toInt))) ∧
    wr (.remu l w gd ga gb) (fun k => if ub k = 0 then a k else out (BitVec.ofNat 64 (ua k % ub k)))) ∧
  (∀ (l : Fin 384) (w : Bool) (gd ga : BitVec 5) (imm : BitVec 16) (pos len1 : BitVec 6) (s : State), s.ready l →
    let wr (c : Instr) (v : Core → Word) : Prop := Retires c l s fun k => k.wg gd (v k)
    let si : Word := imm.signExtend 64
    let zi : Word := imm.setWidth 64
    let up : Word := (imm.setWidth 32 <<< 16).signExtend 64
    let n : Nat := pos.toNat
    let len : Nat := len1.toNat + 1
    wr (.addi l gd ga imm) (fun k => k.rg ga + si) ∧
    wr (.addiw l gd ga imm) (fun k => sx32 (k.rg ga + si)) ∧
    wr (.andi l gd ga imm) (fun k => k.rg ga &&& zi) ∧
    wr (.ori l gd ga imm) (fun k => k.rg ga ||| zi) ∧
    wr (.xori l gd ga imm) (fun k => k.rg ga ^^^ zi) ∧
    wr (.slti l gd ga imm) (fun k => if (k.rg ga).toInt < si.toInt then 1#64 else 0#64) ∧
    wr (.sltiu l gd ga imm) (fun k => if (k.rg ga).toNat < si.toNat then 1#64 else 0#64) ∧
    wr (.lui l gd imm) (fun _ => up) ∧
    wr (.shi l gd ga imm) (fun k => (k.rg ga <<< 16) ||| zi) ∧
    wr (.auipc l gd imm) (fun k => k.pc + up) ∧
    (¬(w = true ∧ 32 ≤ n) →
      wr (.slli l w gd ga pos) (fun k => if w then sx32 (k.rg ga <<< n) else k.rg ga <<< n) ∧
      wr (.srli l w gd ga pos) (fun k => if w then (((k.rg ga).setWidth 32) >>> n).signExtend 64 else k.rg ga >>> n) ∧
      wr (.srai l w gd ga pos) (fun k => if w then (((k.rg ga).setWidth 32).sshiftRight n).signExtend 64 else (k.rg ga).sshiftRight n) ∧
      wr (.rori l w gd ga pos) (fun k => if w then (((k.rg ga).setWidth 32).rotateRight n).signExtend 64 else (k.rg ga).rotateRight n)) ∧
    (n + len ≤ 64 →
      wr (.extu l gd ga pos len1) (fun k => BitVec.ofNat 64 ((k.rg ga).toNat / 2 ^ n % 2 ^ len)) ∧
      wr (.ext l gd ga pos len1) (fun k => (BitVec.ofNat len ((k.rg ga).toNat / 2 ^ n)).signExtend 64) ∧
      ∃ v : Core → Word, wr (.ins l gd ga pos len1) v ∧
        ∀ k i, i < 64 → (v k).getLsbD i = if n ≤ i ∧ i < n + len then (k.rg ga).getLsbD (i - n) else (k.rg gd).getLsbD i))

/-- What a load of `n` bytes at `va` into `dst` must do: from memory it retires with the bytes, extended, and where no home
has other work it changes no byte; from the landing area it retires with the bytes there; a DEVICE page gives one request,
for which it waits. -/
def LoadsTo (c : Instr) (l : Fin 384) (s : State) (va : Word) (n : Nat) (dst : LoadDst) : Prop :=
  ∀ d x, (s.fetched l).scalarCheck l.val va n .load = (d, .ok x) →
    let k := d.core l.val
    let tg := d.target l.val k.level.secure x.pa n x.mt
    let hit := sbOverlap ((List.range n).map fun i => x.pa + i) k.sb
    let next (k : Core) : Core := { k with pc := k.pc + 4#64 }
    (tg = .mem → k.barred = false →
      (hit = some true →
        let d2 := d.applyAd l.val x.ad
        Completes c s fun t =>
          t.core l.val = next ((d2.core l.val).orderLoad.putLoad dst n (ofLe (d2.coreBytes l.val x.pa n))) ∧ ∀ a, t.byte a = d2.byte a) ∧
      (hit = none → ∀ d1, (if x.mt = .nc then d.ncReach l.val (x.pa / 64) else d.coreReach l.val (x.pa / 64) false) = (d1, .ok) →
        d1.poisoned (x.pa / 64) = false →
        let d2 := d1.applyAd l.val x.ad
        Completes c s fun t =>
          t.core l.val = next ((d2.core l.val).putLoad dst n (ofLe (d2.coreBytes l.val x.pa n))) ∧
          (d1.coh.txn = [] → ∀ a, t.byte a = d2.byte a))) ∧
    ((d.drained l.val).2 = true →
      let d2 := (d.drained l.val).1.applyAd l.val x.ad
      let k2 := d2.core l.val
      (∀ off, tg = .landing off → Completes c s fun t =>
        t.core l.val = next (k2.putLoad dst n (ofLe ((List.range n).map fun i => mget 0#8 k2.landing (off + i)))) ∧ ∀ a, t.byte a = d2.byte a) ∧
      (tg = .device → Completes c s fun t =>
        (t.core l.val).wait = .load k2.nextTid dst ∧ (t.core l.val).pc = k2.pc ∧ (t.core l.val).g = k2.g ∧
        (t.core l.val).devOut = k2.devOut ++ [⟨k2.nextTid, x.pa, n, false, 0, x.mt, k2.level, d.now, false, none, false⟩]))

/-- Every load form with a legal size: integer, FP and indexed, at its address and into its register. -/
def Obligations.LoadsComplete : Prop :=
  ∀ (l : Fin 384) (sz : BitVec 2) (u sc : Bool) (gd ga gb : BitVec 5) (off : BitVec 13) (s : State), s.ready l →
    let k := (s.fetched l).core l.val
    let n : Nat := 2 ^ sz.toNat
    (¬(u = true ∧ sz = 3#2) → LoadsTo (.scalarLoad l sz u gd ga off) l s (k.rg ga + off.signExtend 64) n (.g gd u)) ∧
    (¬(u = true ∧ sz = 3#2) →
      LoadsTo (.indexedLoad l sz u sc gd ga gb) l s (k.rg ga + (k.rg gb <<< (if sc then sz.toNat else 0))) n (.g gd u)) ∧
    (2 ≤ sz.toNat → (k.bank k.level.secure).fpen = true →
      LoadsTo (.flwFld l sz gd ga off) l s (k.rg ga + off.signExtend 64) n (.f gd))

/-- What a store of the `n` low bytes of `v` at `va` must do: it retires with the bytes youngest in the store buffer, where
the core's own loads find them, and no byte of memory changes yet but a D bit that it sets. -/
def StoresTo (c : Instr) (l : Fin 384) (s : State) (va : Word) (n v : Nat) : Prop :=
  ∀ d x, (s.fetched l).scalarCheck l.val va n .store = (d, .ok x) → (d.core l.val).barred = false → sbStores (d.core l.val).sb < 64 →
    let entry : SbItem := .store (cellsAt x.pa (leBytes n v)) x.mt (d.core l.val).level (vaIdx va)
    let d2 := (d.updCore l.val fun k => { k with sb := k.sb ++ [entry] }).applyAd l.val x.ad
    Completes c s fun t =>
      t.core l.val = (let k := d2.core l.val; { k with pc := k.pc + 4#64 }) ∧ (t.core l.val).sb = (d.core l.val).sb ++ [entry] ∧
      (∀ a, t.byte a = d2.byte a) ∧ (x.ad = none → ∀ a, t.byte a = d.byte a) ∧
      (x.mt ≠ .device → ∀ i, i < n → t.coreByte l.val (x.pa + i) = BitVec.ofNat 8 (v / 256 ^ i))

/-- Every store form with a legal size: integer, FP and indexed. -/
def Obligations.StoresComplete : Prop :=
  ∀ (l : Fin 384) (sz : BitVec 2) (sc : Bool) (gs ga gb : BitVec 5) (off : BitVec 13) (s : State), s.ready l →
    let k := (s.fetched l).core l.val
    let n : Nat := 2 ^ sz.toNat
    StoresTo (.scalarStore l sz gs ga off) l s (k.rg ga + off.signExtend 64) n (k.rg gs).toNat ∧
    StoresTo (.indexedStore l sz sc gs ga gb) l s (k.rg ga + (k.rg gb <<< (if sc then sz.toNat else 0))) n (k.rg gs).toNat ∧
    (2 ≤ sz.toNat → (k.bank k.level.secure).fpen = true →
      StoresTo (.fswFsd l sz gs ga off) l s (k.rg ga + off.signExtend 64) n (k.rf gs).toNat)

/-- PREF, DCZ, DCC and DCCI: a prefetch changes no register, and no byte where no home has other work; DCZ buffers a line of
zeros; the line operations leave every byte as it was, and DCCI no holder of the line. -/
def Obligations.LineOperationsComplete : Prop :=
  ∀ (l : Fin 384) (hint ga : BitVec 5) (off : BitVec 13) (s : State), s.ready l →
    let d0 := s.fetched l
    let k0 := d0.core l.val
    let va := k0.rg ga
    (hint.toNat < 4 → Completes (.pref l hint ga off) s fun t =>
      (∀ r, (t.core l.val).rg r = k0.rg r) ∧ (t.core l.val).pc = k0.pc + 4#64 ∧
      (k0.sb = [] → d0.coh.txn = [] → ∀ a, t.byte a = d0.byte a)) ∧
    (∀ d x, d0.translate l.val va .dcz false = (d, .ok x) → d.wpHit l.val (lineAddrs va) false true = none →
      (d.core l.val).barred = false → sbStores (d.core l.val).sb < 64 →
      Completes (.dcz l ga) s fun t =>
        (t.core l.val).sb = (d.core l.val).sb ++
          [.store (cellsAt (x.pa / 64 * 64) (List.replicate 64 0#8)) x.mt (d.core l.val).level (vaIdx va)] ∧
        (t.core l.val).pc = k0.pc + 4#64 ∧ (x.ad = none → ∀ a, t.byte a = d.byte a)) ∧
    (∀ d x d2, d0.translate l.val va .dcc false = (d, .ok x) → d.target l.val (d.core l.val).level.secure x.pa 1 x.mt = .mem →
      ((d.drain l.val).core l.val).sb = [] → (d.drain l.val).ncReach l.val (x.pa / 64) = (d2, .ok) →
      Completes (.dcc l ga) s (fun t =>
        (t.core l.val).pc = k0.pc + 4#64 ∧ (t.dirOf (x.pa / 64)).st ≠ .m ∧ ∀ a, t.byte a = (d2.applyAd l.val x.ad).byte a) ∧
      Completes (.dcci l ga) s (fun t =>
        (t.core l.val).pc = k0.pc + 4#64 ∧ t.dirOf (x.pa / 64) = DirEntry.idle ∧ ∀ a, t.byte a = (d2.applyAd l.val x.ad).byte a))

/-- Every atomic reads the old value into gd, zero-extended, and leaves in memory what its operation makes of the old value
and gb, and no other byte changed, near or far: the contention predictor only chooses where (07 R236, R237). -/
def Obligations.AtomicsComplete : Prop :=
  ∀ (l : Fin 384) (dw u : Bool) (ord : BitVec 2) (gd ga gb : BitVec 5) (s : State), s.ready l →
    let n : Nat := if dw then 8 else 4
    let m : Nat := 2 ^ (8 * n)
    let sg (x : Nat) : Int := if u = false ∧ m / 2 ≤ x then (x : Int) - m else x
    let lo : Int := if u then 0 else -((m / 2 : Nat) : Int)
    let hi : Int := if u then (m : Int) - 1 else ((m / 2 : Nat) : Int) - 1
    let k := (s.fetched l).core l.val
    let b : Nat := (k.rg gb).toNat % m
    let at_ (c : Instr) (new : Nat → Nat) : Prop :=
      ∀ d x, (s.fetched l).scalarCheck l.val (k.rg ga) n .atomic = (d, .ok x) →
        d.target l.val (d.core l.val).level.secure x.pa n x.mt = .mem → (d.drained l.val).2 = true →
        ∀ d1, (d.drained l.val).1.coreReach l.val (x.pa / 64) true = (d1, .ok) → d1.poisoned (x.pa / 64) = false → d1.coh.txn = [] →
        let d2 := d1.applyAd l.val x.ad
        let old := d2.readLe x.pa n
        Completes c s fun t =>
          (t.core l.val).rg gd = (if gd = 0#5 then 0#64 else BitVec.ofNat 64 old) ∧
          (∀ r, r ≠ gd → (t.core l.val).rg r = k.rg r) ∧ (t.core l.val).pc = k.pc + 4#64 ∧
          t.readLe x.pa n = new old ∧ ∀ a, (a < x.pa ∨ x.pa + n ≤ a) → t.byte a = d2.byte a
    at_ (.atomicSwap l dw ord gd ga gb) (fun _ => b) ∧
    at_ (.atomicAdd l dw ord gd ga gb) (fun old => (old + b) % m) ∧
    at_ (.atomicAnd l dw ord gd ga gb) (fun old => old &&& b) ∧
    at_ (.atomicOr l dw ord gd ga gb) (fun old => old ||| b) ∧
    at_ (.atomicXor l dw ord gd ga gb) (fun old => old ^^^ b) ∧
    at_ (.cas l dw ord gd ga gb) (fun old => if old = (k.rg gd).toNat % m then b else old) ∧
    at_ (.atomicMin l dw u ord gd ga gb) (fun old => if sg old ≤ sg b then old else b) ∧
    at_ (.atomicMax l dw u ord gd ga gb) (fun old => if sg old ≤ sg b then b else old) ∧
    at_ (.atomicSadd l dw u ord gd ga gb) (fun old => (max lo (min hi (sg old + sg b)) % (m : Int)).toNat)

/-- Every jump and every legal branch retires with the PC of 07 R231: J, JAL and an aligned JALR at their target with the
return address linked, BC and BZ at their target where the condition holds and at the next word where it does not. -/
def Obligations.BranchesComplete : Prop :=
  ∀ (l : Fin 384) (d26 : BitVec 26) (d13 : BitVec 13) (d18 : BitVec 18) (imm : BitVec 16) (cond : BitVec 3) (gd ga gb : BitVec 5) (s : State),
    s.ready l →
    let k := (s.fetched l).core l.val
    let next : Word := k.pc + 4#64
    let goes (c : Instr) (link : BitVec 5) (v pc : Word) : Prop :=
      Completes c s fun t => (t.core l.val).pc = pc ∧ (t.core l.val).g = (k.wg link v).g
    let bc (c : Instr) (taken : Bool) (disp : Word) : Prop :=
      Completes c s fun t => (t.core l.val).pc = (if taken then k.pc + disp * 4#64 else next) ∧ (t.core l.val).g = k.g
    goes (.jump l d26) 0#5 0#64 (k.pc + d26.signExtend 64 * 4#64) ∧
    goes (.jal l d26) 1#5 next (k.pc + d26.signExtend 64 * 4#64) ∧
    ((k.rg ga + imm.signExtend 64).toNat % 4 = 0 → goes (.jalr l gd ga imm) gd next (k.rg ga + imm.signExtend 64)) ∧
    (cond.toNat < 6 → bc (.bc l cond ga gb d13)
      (match cond.toNat with
        | 0 => k.rg ga = k.rg gb
        | 1 => k.rg ga ≠ k.rg gb
        | 2 => (k.rg ga).toInt < (k.rg gb).toInt
        | 3 => (k.rg gb).toInt ≤ (k.rg ga).toInt
        | 4 => (k.rg ga).toNat < (k.rg gb).toNat
        | _ => (k.rg gb).toNat ≤ (k.rg ga).toNat) (d13.signExtend 64)) ∧
    (cond.toNat < 6 → bc (.bz l cond ga d18)
      (match cond.toNat with
        | 0 => (k.rg ga).toInt = 0
        | 1 => (k.rg ga).toInt ≠ 0
        | 2 => (k.rg ga).toInt < 0
        | 3 => 0 ≤ (k.rg ga).toInt
        | 4 => 0 < (k.rg ga).toInt
        | _ => (k.rg ga).toInt ≤ 0) (d18.signExtend 64))

/-- Every rounding FP instruction with a legal rounding field, FP enabled, retires with its rounded result and its flags ORed
into FPCR, and nothing else changed: arithmetic, conversions and the fused operations. -/
def Obligations.RoundingFpComplete : Prop :=
  ∀ (l : Fin 384) (p : Bool) (rm : BitVec 3) (fd fa fb fc : BitVec 5) (s : State) (m : Nat), s.ready l →
    let k0 := (s.fetched l).core l.val
    k0.rmOf rm = some m → (k0.bank k0.level.secure).fpen = true →
    let F := fmtOf p
    let src (k : Core) (r : BitVec 5) := F.unpack (k.fsrc p r)
    let toF (c : Instr) (v : Core → Nat × FpFlags) : Prop := Retires c l s fun k => (k.wf fd (BitVec.ofNat 64 (v k).1)).orFp (v k).2
    let toG (c : Instr) (lo hi : Int) (w : Bool) : Prop := Retires c l s fun k =>
      (k.wg fd (let x := BitVec.ofInt 64 (fpToInt m lo hi (src k fa)).1; if w then (x.setWidth 32).signExtend 64 else x)).orFp (fpToInt m lo hi (src k fa)).2
    let fused (c : Instr) (v : Bool → Core → Nat × FpFlags) : Prop := RetiresBy c l s fun d =>
      { d with freeCtr := d.freeCtr + 1 }.updCore l.val fun k => (k.wf fd (BitVec.ofNat 64 (v (Config.freeChoice d.freeCtr) k).1)).orFp (v (Config.freeChoice d.freeCtr) k).2
    toF (.fadd l p rm fd fa fb) (fun k => F.add m (src k fa) (src k fb)) ∧
    toF (.fsub l p rm fd fa fb) (fun k => F.add m (src k fa) (src k fb).neg) ∧
    toF (.fmul l p rm fd fa fb) (fun k => F.mul m (src k fa) (src k fb)) ∧
    toF (.fdiv l p rm fd fa fb) (fun k => F.div m (src k fa) (src k fb)) ∧
    toF (.fsqrt l p rm fd fa) (fun k => F.sqrt m (src k fa)) ∧
    toF (.frint l p rm fd fa) (fun k => F.rint m false (src k fa)) ∧
    toF (.frintx l p rm fd fa) (fun k => F.rint m true (src k fa)) ∧
    toF (.fcvt l p rm fd fa) (fun k => (fmtOther p).cvt m (src k fa)) ∧
    toF (.i64tof l p rm fd fa) (fun k => F.ofInt m (k.rg fa).toInt) ∧
    toF (.u64tof l p rm fd fa) (fun k => F.ofInt m ((k.rg fa).toNat : Int)) ∧
    toF (.i32tof l p rm fd fa) (fun k => F.ofInt m ((k.rg fa).setWidth 32).toInt) ∧
    toF (.u32tof l p rm fd fa) (fun k => F.ofInt m (((k.rg fa).setWidth 32).toNat : Int)) ∧
    toG (.ftoi64 l p rm fd fa) (-(2 ^ 63)) (2 ^ 63 - 1) false ∧
    toG (.ftou64 l p rm fd fa) 0 (2 ^ 64 - 1) false ∧
    toG (.ftoi32 l p rm fd fa) (-(2 ^ 31)) (2 ^ 31 - 1) true ∧
    toG (.ftou32 l p rm fd fa) 0 (2 ^ 32 - 1) true ∧
    fused (.fma l p rm fd fa fb fc) (fun b k => F.fma m b (src k fa) (src k fb) (src k fc)) ∧
    fused (.fms l p rm fd fa fb fc) (fun b k => F.fma m b (src k fa) (src k fb) (src k fc).neg) ∧
    fused (.frms l p rm fd fa fb fc) (fun b k => F.fma m b (src k fa).neg (src k fb) (src k fc)) ∧
    fused (.fnma l p rm fd fa fb fc) (fun b k => F.fma m b (src k fa).neg (src k fb) (src k fc).neg)

/-- Every FP instruction that does not round, FP enabled, retires with its result and its flags: the minima and maxima, the
sign operations on the bits, the comparisons, FKIND and the moves of bits. -/
def Obligations.ExactFpComplete : Prop :=
  ∀ (l : Fin 384) (p : Bool) (fd fa fb : BitVec 5) (s : State), s.ready l →
    let k0 := (s.fetched l).core l.val
    (k0.bank k0.level.secure).fpen = true →
    let F := fmtOf p
    let sgn : Nat := if p then 63 else 31
    let mag (x : Nat) : Nat := x % 2 ^ sgn
    let neg (x : Nat) : Bool := x.testBit sgn
    let bits (c : Instr) (v : Core → Nat) : Prop := Retires c l s fun k => k.wf fd (BitVec.ofNat 64 (v k))
    let flagged (c : Instr) (v : Core → Nat × FpFlags) : Prop := Retires c l s fun k => (k.wf fd (BitVec.ofNat 64 (v k).1)).orFp (v k).2
    let cmp (c : Instr) (sig : Bool) (t : Ordering → Bool) : Prop := Retires c l s fun k =>
      (k.wg fd (F.compare sig t (k.fsrc p fa) (k.fsrc p fb)).1).orFp (F.compare sig t (k.fsrc p fa) (k.fsrc p fb)).2
    flagged (.fminnum l p fd fa fb) (fun k => F.minmax true false (k.fsrc p fa) (k.fsrc p fb)) ∧
    flagged (.fmaxnum l p fd fa fb) (fun k => F.minmax true true (k.fsrc p fa) (k.fsrc p fb)) ∧
    flagged (.fmin l p fd fa fb) (fun k => F.minmax false false (k.fsrc p fa) (k.fsrc p fb)) ∧
    flagged (.fmax l p fd fa fb) (fun k => F.minmax false true (k.fsrc p fa) (k.fsrc p fb)) ∧
    bits (.fabs l p fd fa) (fun k => mag (k.fsrc p fa)) ∧
    bits (.fneg l p fd fa) (fun k => mag (k.fsrc p fa) + if neg (k.fsrc p fa) then 0 else 2 ^ sgn) ∧
    bits (.fcopys l p fd fa fb) (fun k => mag (k.fsrc p fa) + if neg (k.fsrc p fb) then 2 ^ sgn else 0) ∧
    bits (.fnabs l p fd fa) (fun k => mag (k.fsrc p fa) + 2 ^ sgn) ∧
    cmp (.fceq l p fd fa fb) false (· == .eq) ∧
    cmp (.fclt l p fd fa fb) true (· == .lt) ∧
    cmp (.fcle l p fd fa fb) true (· != .gt) ∧
    cmp (.fcltq l p fd fa fb) false (· == .lt) ∧
    cmp (.fcleq l p fd fa fb) false (· != .gt) ∧
    Retires (.fcun l p fd fa fb) l s (fun k =>
      (k.wg fd (if (F.unpack (k.fsrc p fa)).isNan ∨ (F.unpack (k.fsrc p fb)).isNan then 1#64 else 0#64)).orFp
        (snanFlag [F.unpack (k.fsrc p fa), F.unpack (k.fsrc p fb)])) ∧
    Retires (.fkind l p fd fa) l s (fun k => k.wg fd (BitVec.ofNat 64 (F.kind (k.fsrc p fa)))) ∧
    Retires (.fbits l p fd fa) l s (fun k => k.wg fd (BitVec.ofNat 64 (k.fsrc p fa))) ∧
    Retires (.gbits l p fd fa) l s (fun k => k.wf fd (if p then k.rg fa else BitVec.ofNat 64 ((k.rg fa).toNat % 2 ^ 32)))

/-- The comparisons of R235 order values: −0 equals +0, a NaN is unordered with everything, and the flag INVALID is raised by
a signalling comparison of a NaN. Whatever the encodings, equal and less than are never both true. -/
def Obligations.ComparisonsExclude : Prop :=
  ∀ (p : Bool) (a b : Nat),
    let F := fmtOf p
    ¬((F.compare false (· == .eq) a b).1 = 1#64 ∧ (F.compare true (· == .lt) a b).1 = 1#64) ∧
    ((F.unpack a).isNan ∨ (F.unpack b).isNan → (F.compare false (· != .gt) a b).1 = 0#64 ∧ (F.compare true (· == .lt) a b).2.invalid = true)

/-- An element-wise result: each active element takes its value, each other keeps its own, and the registers outside the
destination group keep theirs; the flags of the active elements are ORed into PSAT (05 R154, R158, R160). -/
def Obligations.ElementwiseResult : Prop :=
  ∀ (k : Core) (vd m S j : Nat) (g : BitVec 2) (f : Nat → Nat × BitVec 8),
    g ≠ 3#2 → vd % grpSize g = 0 → vd < 32 → S ∈ [1, 2, 4, 8] →
    let K := grpSize g
    let k2 := k.vecMap vd K S m f
    (∀ i, i < 32 * K / S → elem (k2.grp vd K) (8 * S) i =
      if (k.rm m).getLsbD i then (f i).1 % 2 ^ (8 * S) else elem (k.grp vd K) (8 * S) i) ∧
    (j < 32 → (j < vd ∨ vd + K ≤ j) → k2.rv j = k.rv j) ∧
    (∀ b, b < 8 → (k2.psat.getLsbD b = true ↔
      (k.psat.getLsbD b = true ∨ ∃ i, i < 32 * K / S ∧ (k.rm m).getLsbD i = true ∧ (f i).2.getLsbD b = true)))

/-- The rounded quotient of a discarded remainder: exact division is exact, and otherwise the quotient differs from the exact
value by less than one, on the side or by the half that the mode says (05 R164). -/
def Obligations.RoundedQuotient : Prop :=
  ∀ (x : Int) (v rm : Nat), 0 < v → rm ≤ 6 →
    let q := (roundDiv x v rm).1
    ((roundDiv x v rm).2 = true ↔ ¬(v : Int) ∣ x) ∧
    ((v : Int) ∣ x → q * v = x) ∧
    (q * v - x).natAbs < v ∧
    (rm ≤ 2 → 2 * (q * v - x).natAbs ≤ v) ∧
    (rm = 0 → 2 * (q * v - x).natAbs = v → q % 2 = 0) ∧
    (rm = 1 → 2 * (q * v - x).natAbs = v → x.natAbs < q.natAbs * v) ∧
    (rm = 2 → 2 * (q * v - x).natAbs = v → q.natAbs * v < x.natAbs) ∧
    (rm = 3 → q.natAbs * v ≤ x.natAbs) ∧ (rm = 4 → x.natAbs ≤ q.natAbs * v) ∧
    (rm = 5 → q * v ≤ x) ∧ (rm = 6 → x ≤ q * v)

/-- Every element-wise Ply instruction with a legal form, Ply enabled, retires with its result on the active elements and its
saturation flags, and nothing else changed. -/
def Obligations.PlyArithmeticComplete : Prop :=
  ∀ (l : Fin 384) (vd va vb sc : BitVec 5) (m : BitVec 3) (g t : BitVec 2) (wide : Bool) (s : State), s.ready l →
    let k0 := (s.fetched l).core l.val
    k0.pctlEn = true → grpOk (grpSize g) [vd, va, vb] = true →
    let K := grpSize g
    let sg (w x : Nat) : Int := if x < 2 ^ (w - 1) then x else (x : Int) - 2 ^ w
    let clip (w : Nat) (lo hi : Int) (flag : BitVec 8) (x : Int) : Nat × BitVec 8 :=
      ((max lo (min hi x) % 2 ^ w).toNat, if x < lo ∨ hi < x then flag else 0#8)
    let ss (w : Nat) := clip w (-(2 ^ (w - 1))) (2 ^ (w - 1) - 1)
    let su (w : Nat) := clip w 0 (2 ^ w - 1)
    let two (c : Instr) (S : Nat) (f : Core → Nat → Nat → Nat × BitVec 8) : Prop := Retires c l s fun k =>
      k.vecMap vd.toNat K S m.toNat fun i => f k (elem (k.grp va.toNat K) (8 * S) i) (elem (k.grp vb.toNat K) (8 * S) i)
    let S := 2 ^ t.toNat
    let w := 8 * S
    let dv (S : Nat) (k : Core) (x : Int) (v : Nat) : Nat × BitVec 8 :=
      ((ss (8 * S) 4#8 (roundDiv x v k.pctlRm.toNat).1).1,
        (ss (8 * S) 4#8 (roundDiv x v k.pctlRm.toNat).1).2 ||| (if (roundDiv x v k.pctlRm.toNat).2 then 128#8 else 0#8))
    two (.padds l vd va vb m g t) S (fun _ a b => ss w 1#8 (sg w a + sg w b)) ∧
    two (.paddu l vd va vb m g t) S (fun _ a b => su w 1#8 ((a : Int) + b)) ∧
    two (.psubs l vd va vb m g t) S (fun _ a b => ss w 1#8 (sg w a - sg w b)) ∧
    two (.psubu l vd va vb m g t) S (fun _ a b => su w 1#8 ((a : Int) - b)) ∧
    two (.pmin l vd va vb m g t) S (fun _ a b => (if sg w a ≤ sg w b then a else b, 0#8)) ∧
    two (.pmax l vd va vb m g t) S (fun _ a b => (if sg w a ≤ sg w b then b else a, 0#8)) ∧
    two (.pminu l vd va vb m g t) S (fun _ a b => (min a b, 0#8)) ∧
    two (.pmaxu l vd va vb m g t) S (fun _ a b => (max a b, 0#8)) ∧
    two (.pand l vd va vb m g t) S (fun _ a b => (a &&& b, 0#8)) ∧
    two (.por l vd va vb m g t) S (fun _ a b => (a ||| b, 0#8)) ∧
    two (.pxor l vd va vb m g t) S (fun _ a b => (a ^^^ b, 0#8)) ∧
    (k0.pctlRm ≠ 7#3 → two (.pmulr l vd va vb m g t) S (fun k a b => ss w 2#8 (roundDiv (sg w a * sg w b) (2 ^ (w - 1)) k.pctlRm.toNat).1)) ∧
    (sc.toNat ≤ 18 → k0.pctlRm ≠ 7#3 → two (.pmuld l vd va vb m g wide sc) (if wide then 8 else 4)
      (fun k a b => let S := if wide then 8 else 4; dv S k (sg (8 * S) a * sg (8 * S) b) (10 ^ sc.toNat))) ∧
    (sc.toNat ≤ 18 → 2 ≤ t.toNat → two (.pscaleUp l vd va m g t sc) S (fun _ a _ => ss w 4#8 (sg w a * 10 ^ sc.toNat))) ∧
    (sc.toNat ≤ 18 → 2 ≤ t.toNat → k0.pctlRm ≠ 7#3 → two (.pscaleDn l vd va m g t sc) S (fun k a _ => dv S k (sg w a) (10 ^ sc.toNat)))

/-- Every Ply instruction that compares, selects, accumulates or moves, with a legal form and Ply enabled, retires with its
result: the comparisons and the mask operations in their mask, PSEL without a governing mask, PSAD, PWACC and PWMAC in their
sums, and the moves to and from general registers. -/
def Obligations.PlySelectionComplete : Prop :=
  ∀ (l : Fin 384) (vd va vb : BitVec 5) (m : BitVec 3) (g t : BitVec 2) (s : State), s.ready l →
    let k0 := (s.fetched l).core l.val
    k0.pctlEn = true → g ≠ 3#2 →
    let K := grpSize g
    let S := 2 ^ t.toNat
    let w := 8 * S
    let sg (w x : Nat) : Int := if x < 2 ^ (w - 1) then x else (x : Int) - 2 ^ w
    let is (c : Instr) (f : Core → Core) : Prop := Retires c l s f
    let cmp (c : Instr) (f : Nat → Nat → Bool) : Prop := is c fun k => k.wm vd.toNat (BitVec.ofNat 128 (packEl 1
      ((List.range (32 * K / S)).map fun i => if (k.rm m.toNat).getLsbD i ∧ f (elem (k.grp va.toNat K) w i) (elem (k.grp vb.toNat K) w i) = true then 1 else 0)))
    let acc (c : Instr) (f : Core → Nat → Int) : Prop := is c fun k => k.accumulate vd.toNat m.toNat K (f k)
    let el (k : Core) (r : BitVec 5) (i : Nat) : Nat := elem (k.grp r.toNat K) w i
    (1 ≤ vd.toNat → vd.toNat < 8 → grpOk K [va, vb] = true →
      cmp (.pcmpEq l vd va vb m g t) (fun a b => a == b) ∧ cmp (.pcmpNe l vd va vb m g t) (fun a b => a != b) ∧
      cmp (.pcmpLt l vd va vb m g t) (fun a b => decide (sg w a < sg w b)) ∧ cmp (.pcmpLe l vd va vb m g t) (fun a b => decide (sg w a ≤ sg w b)) ∧
      cmp (.pcmpLtu l vd va vb m g t) (fun a b => decide (a < b)) ∧ cmp (.pcmpLeu l vd va vb m g t) (fun a b => decide (a ≤ b))) ∧
    (1 ≤ vd.toNat → vd.toNat < 8 → va.toNat < 8 →
      is (.pmand l vd va m) (fun k => k.wm vd.toNat (k.rm va.toNat &&& k.rm m.toNat)) ∧
      is (.pmor l vd va m) (fun k => k.wm vd.toNat (k.rm va.toNat ||| k.rm m.toNat)) ∧
      is (.pmxor l vd va m) (fun k => k.wm vd.toNat (k.rm va.toNat ^^^ k.rm m.toNat)) ∧
      is (.pmandn l vd va m) (fun k => k.wm vd.toNat (k.rm va.toNat &&& ~~~k.rm m.toNat))) ∧
    (1 ≤ vd.toNat → vd.toNat < 8 →
      is (.pgtomL l vd va) (fun k => k.wm vd.toNat (((k.rm vd.toNat).extractLsb' 64 64 ++ k.rg va).setWidth 128)) ∧
      is (.pgtomH l vd va) (fun k => k.wm vd.toNat ((k.rg va ++ (k.rm vd.toNat).extractLsb' 0 64).setWidth 128))) ∧
    (va.toNat < 8 →
      is (.pmtogL l vd va) (fun k => k.wg vd ((k.rm va.toNat).extractLsb' 0 64)) ∧
      is (.pmtogH l vd va) (fun k => k.wg vd ((k.rm va.toNat).extractLsb' 64 64))) ∧
    (grpOk K [vd] = true → is (.pbcast l vd va m g t) fun k => k.vecMap vd.toNat K S m.toNat fun _ => ((k.rg va).toNat % 2 ^ w, 0#8)) ∧
    (vb.toNat < 32 / S →
      is (.pins l vd va vb t) (fun k => k.wv vd.toNat (putField (k.rv vd.toNat) (w * vb.toNat + w - 1) (w * vb.toNat) ((k.rg va).toNat % 2 ^ w))) ∧
      is (.pext l vd va vb t) (fun k => k.wg vd (BitVec.ofInt 64 (sg w (elem (k.rv va.toNat).toNat w vb.toNat))))) ∧
    (grpOk K [vd, va, vb] = true →
      is (.psel l vd va vb m g t) (fun k => k.putGrp vd.toNat (packEl w ((List.range (32 * K / S)).map fun i =>
        if (k.rm m.toNat).getLsbD i then el k va i else el k vb i)) K) ∧
      (t ≠ 3#2 → is (.psad l vd va vb m g t) fun k =>
        let sum (j : Nat) : Nat × BitVec 8 :=
          let x := elem (k.grp vd.toNat K) 64 j + ((List.range (8 / S)).map fun i =>
            if (k.rm m.toNat).getLsbD (j * (8 / S) + i) then ((el k va (j * (8 / S) + i) : Int) - el k vb (j * (8 / S) + i)).natAbs else 0).sum
          (min x (2 ^ 64 - 1), if 2 ^ 64 ≤ x then 16#8 else 0#8)
        (k.putGrp vd.toNat (packEl 64 ((List.range (4 * K)).map fun j => (sum j).1)) K).orPsat ((List.range (4 * K)).foldl (fun a j => a ||| (sum j).2) 0#8))) ∧
    (t = 3#2 → grpOk (2 * K) [vd] = true → grpOk K [va, vb] = true →
      acc (.pwacc l vd va m g t) (fun k i => sg 64 (elem (k.grp va.toNat K) 64 i)) ∧
      acc (.pwmac l vd va vb m g t) (fun k i => sg 64 (elem (k.grp va.toNat K) 64 i) * sg 64 (elem (k.grp vb.toNat K) 64 i)))

/-- Every Ply conversion with a legal form retires with its result; PLD fills the active bytes and leaves the others, and PST
buffers the active bytes, which the core's own loads then find. -/
def Obligations.PlyConversionAndMemoryComplete : Prop :=
  ∀ (l : Fin 384) (vd va aux : BitVec 5) (imm7 : BitVec 7) (m : BitVec 3) (g t : BitVec 2) (s : State), s.ready l →
    let d0 := s.fetched l
    let k0 := d0.core l.val
    k0.pctlEn = true →
    let K := grpSize g
    let S := 2 ^ t.toNat
    let map (c : Instr) (f : Core → Nat → Nat × BitVec 8) : Prop := Retires c l s fun k => k.vecMap vd.toNat K S m.toNat (f k)
    let okN : Bool := (t == 2#2 && decide (1 ≤ aux.toNat ∧ aux.toNat ≤ 9)) || (t == 3#2 && decide (1 ≤ aux.toNat ∧ aux.toNat ≤ 19))
    (grpOk K [vd, va] = true →
      (okN = true → map (.pa2b l vd va aux m g t) (fun k i => pa2bEl (k.grp va.toNat K) K S aux.toNat i) ∧
        Retires (.pb2a l vd va aux m g t) l s fun k => k.pb2a vd.toNat va.toNat m.toNat K S aux.toNat) ∧
      (2 ≤ t.toNat →
        map (.pbcd2b l vd va 0#5 m g t) (fun k i => bcdToBin S (elem (k.grp va.toNat K) (8 * S) i)) ∧
        map (.pb2bcd l vd va 0#5 m g t) (fun k i => binToBcd S (elem (k.grp va.toNat K) (8 * S) i))) ∧
      (t = 3#2 → 2 ≤ aux.toNat → aux.toNat ≤ 19 → map (.pluhn l vd va aux m g t) (fun k i => luhnEl (k.grp va.toNat K) K aux.toNat i))) ∧
    (grpOk K [vd] = true →
      (∀ d bs, d0.plyCheck l.val (k0.rg va + imm7.signExtend 64 * 32#64) .load (k0.activeBytes m.toNat K S) = (d, .ok bs) →
        (∀ b ∈ bs, placeOf b.x.pa = .dram) → (d.core l.val).barred = false →
        let w := d.beforeLoad l.val (bs.map fun b => b.x.pa)
        let loads (d2 : Dev) : Prop := Completes (.pld l vd va imm7 m g t) s fun d' =>
          (∀ b ∈ bs, elem ((d'.core l.val).grp vd.toNat K) 8 b.at_ = (d2.coreByte l.val b.x.pa).toNat) ∧
          (∀ j, j < 32 * K → j ∉ k0.activeBytes m.toNat K S → elem ((d'.core l.val).grp vd.toNat K) 8 j = elem (k0.grp vd.toNat K) 8 j) ∧
          (d'.core l.val).pc = k0.pc + 4#64
        (w.2 = (true, false) → loads (w.1.applyAds l.val bs)) ∧
        (w.2 = (false, false) → ∀ d1, w.1.plyStop l.val k0.level.secure bs = (d1, none) → loads (d1.applyAds l.val bs))) ∧
      (∀ d bs, d0.plyCheck l.val (k0.rg va + imm7.signExtend 64 * 32#64) .store (k0.activeBytes m.toNat K S) = (d, .ok bs) →
        (bs.map fun b => b.x.pa).Nodup → (∀ b ∈ bs, b.x.mt ≠ .device) → (d.core l.val).barred = false →
        sbStores (d.core l.val).sb + (splitLines (bs.map fun b => (b.x.pa, BitVec.ofNat 8 (elem (k0.grp vd.toNat K) 8 b.at_)))).length ≤ 64 →
        Completes (.pst l vd va imm7 m g t) s fun d' =>
          (∀ b ∈ bs, (d'.coreByte l.val b.x.pa).toNat = elem (k0.grp vd.toNat K) 8 b.at_) ∧ (d'.core l.val).pc = k0.pc + 4#64))

/-- The AES, SHA-2 and CRC instructions retire with their results; AES and SHA need Ply enabled, and the SHA-512 forms an
aligned register group (07 R238 to R241). -/
def Obligations.CryptoComplete : Prop :=
  ∀ (l : Fin 384) (vd va vb ga gb gd : BitVec 5) (sz : BitVec 2) (s : State), s.ready l →
    let k0 := (s.fetched l).core l.val
    let aes (c : Instr) (f : List Byte → List Byte) (b : Core → VWord) : Prop := Retires c l s fun k => k.wv vd.toNat (aesHalves f (k.rv va.toNat) (b k))
    let w32 (x : VWord) (n : Nat) := elems x.toNat 32 n
    (k0.pctlEn = true →
      aes (.aese l vd va vb) (fun x => mixCols (shiftRows (x.map sbox))) (fun k => k.rv vb.toNat) ∧
      aes (.aesel l vd va vb) (fun x => shiftRows (x.map sbox)) (fun k => k.rv vb.toNat) ∧
      aes (.aesd l vd va vb) (fun x => invMixCols ((invShiftRows x).map invSbox)) (fun k => k.rv vb.toNat) ∧
      aes (.aesdl l vd va vb) (fun x => (invShiftRows x).map invSbox) (fun k => k.rv vb.toNat) ∧
      aes (.aesimc l vd va) invMixCols (fun _ => 0#256) ∧
      Retires (.sha256r l vd va vb) l s (fun k => k.wv vd.toNat (BitVec.ofNat 256 (packEl 32
        ((w32 (k.rv vb.toNat) 4).foldl (shaRound sha256) (w32 (k.rv va.toNat) 8))))) ∧
      Retires (.sha256m l vd va vb) l s (fun k => k.wv vd.toNat (BitVec.ofNat 256 (packEl 32
        (shaSched sha256 (w32 (k.rv va.toNat) 8 ++ w32 (k.rv vb.toNat) 8) 4)))) ∧
      (vd.toNat % 2 = 0 → va.toNat % 2 = 0 → Retires (.sha512r l vd va vb) l s fun k => k.putGrp vd.toNat (packEl 64
        ((elems (k.rv vb.toNat).toNat 64 2).foldl (shaRound sha512) (elems (k.grp va.toNat 2) 64 8))) 2) ∧
      (va.toNat % 4 = 0 → Retires (.sha512m l vd va) l s fun k => k.wv vd.toNat (BitVec.ofNat 256 (packEl 64
        (shaSched sha512 (elems (k.grp va.toNat 4) 64 16) 2))))) ∧
    Retires (.crc32c l sz gd ga gb) l s (fun k => k.wg gd ((crc32c ((k.rg ga).setWidth 32) (leBytes (2 ^ sz.toNat) (k.rg gb).toNat)).setWidth 64))

/-- MFS and MTS of every register the level may reach: an MFS returns the register's value in gd, and an MTS writes it and
changes nothing else; a counter takes its value over the counts of the instruction itself. The rows that name one register
are the same accesses: a claim takes the vector out of pending, and a legal send makes one pending. -/
def Obligations.SystemRegistersComplete : Prop :=
  ∀ (l : Fin 384) (gd ga : BitVec 5) (sr : BitVec 12) (s : State), s.ready l →
    let d := s.fetched l
    let k := d.core l.val
    let n := sr.toNat
    let x := k.rg ga
    let may (n : Nat) (r : Bool) : Prop := k.srFault n r = none
    let wr (c : Instr) (n : Nat) : Prop := may n false → Retires c l s fun c => c.srWrite n x
    (may n true → n ≠ 0x210 → RetiresBy (.mfs l gd sr) l s fun d => d.updCore l.val fun c => c.wg gd (d.srRead l.val n)) ∧
    (n ∉ [0x213, 0x30, 0x31, 0x32, 0x300] → srIsCounter n = false → wr (.mts l sr ga) n) ∧
    (n = 0x300 → may n false → Completes (.mts l sr ga) s fun t => (t.core l.val).pc = k.pc + 4#64 ∧
      (t.core l.val).pmu.ctl ||| 4#32 = (x.setWidth 32 &&& 0xF0F#32) ||| 4#32 ∧
      (bit x 0 = false ∨ bit x 3 = false → (t.core l.val).pmu.ctl = x.setWidth 32 &&& 0xF0F#32)) ∧
    (srIsCounter n = true → may n false → Retires (.mts l sr ga) l s fun c => { c with pmu := c.pmu.putCounter n x }) ∧
    (∀ c ∈ [Instr.mfs l gd 0x210#12, .inboxClaim l gd], may 0x210 true → Completes c s fun t =>
      (t.core l.val).rg gd = (if gd = 0#5 then 0#64 else match d.claimable l.val with | some v => BitVec.ofNat 64 v | none => 0x100#64) ∧
      (∀ v, d.claimable l.val = some v → (t.core l.val).pend = setBit k.pend v false) ∧ (t.core l.val).pc = k.pc + 4#64) ∧
    wr (.inboxEoi l ga) 0x211 ∧
    (∀ c ∈ [Instr.mts l 0x213#12 ga, .inboxSend l ga], may 0x213 false → (d.drained l.val).2 = true →
      let tgt := field x 8 0
      let e := (d.drained l.val).1
      e.skeinOf tgt = e.skeinOf l.val → field x 23 16 < 0xF0 → bit x 24 = false →
      mget false e.lost tgt = false → (e.core tgt).released = true → e.heldReset tgt = false → mget false e.reeling tgt = false →
      (e.port tgt).st = .opened →
      Completes c s fun t => (t.core tgt).pend.getLsbD (field x 23 16) = true ∧ (t.core l.val).pc = k.pc + 4#64) ∧
    (∀ c ∈ [Instr.mts l 0x30#12 ga, .swdog l ga], may 0x30 false → RetiresBy c l s fun d => d.swdogWrite l.val x) ∧
    (∀ c ∈ [Instr.mts l 0x31#12 ga, .ndogCtlWrite l ga], may 0x31 false → RetiresBy c l s fun d => d.ndogCtlWrite l.val x) ∧
    (∀ c ∈ [Instr.mts l 0x32#12 ga, .ndogSvc l ga], may 0x32 false → RetiresBy c l s fun d => d.ndogSvc l.val) ∧
    (may 0x101 false → Completes (.mmuSegtbWrite l ga) s fun t =>
      (t.core l.val).segtb = (x &&& 0x000FFFFFFFFFFF00#64) ∧ (t.core l.val).sla = [] ∧ (t.core l.val).pc = k.pc + 4#64)

/-- A privileged invalidation, once what the cores it names have translated is performed, removes from them every translation
that it matches, and no other from any core; the secure look-aside's instructions write, read and remove its entries. The
barriers and the predictor instructions: BAR.LL and BAR.SS always retire, the others once the store buffer has drained,
BAR.DEV also once no DEVICE store waits for its answer; PFLUSH empties the predictor and a permitted PBAR writes its
register. -/
def Obligations.BarriersAndInvalidations : Prop :=
  (∀ (l : Fin 384) (all : Bool) (ga gb gd : BitVec 5) (idx : BitVec 6) (hi : Bool) (s : State), s.ready l →
    let d := s.fetched l
    let k := d.core l.val
    let va := (k.rg ga).toNat % 2 ^ 48
    let asid : BitVec 16 := (k.rg gb).setWidth 16
    let at_ := d.invalAt l.val all
    let d1 := (l.val :: at_).foldl Dev.drain d
    let same (a b : Core) : Prop := a.itlb = b.itlb ∧ a.dtlb = b.dtlb ∧ a.l2tlb = b.l2tlb ∧ a.walk = b.walk ∧ a.sla = b.sla
    let inv (c : Instr) (f : Core → Core) : Prop := k.level.priv = true → (∀ j ∈ l.val :: at_, (d1.core j).settled = true) →
      Completes c s fun t => (t.core l.val).pc = k.pc + 4#64 ∧ ∀ j,
        (j ∈ at_ → same (t.core j) (f (d1.core j))) ∧ (j ∉ at_ → same (t.core j) (d1.core j))
    d.invalAt l.val false = [l.val] ∧
    (∀ c, d.cfgOf l.val = some c → ∀ j, j ∈ d.invalAt l.val true ↔ (j < 384 ∧ c.lcnMask.testBit j = true)) ∧
    inv (.tlbiVa l all ga gb) (fun c => { c.mapTlbs (fun e =>
        if ((e.asid == none || e.asid == some asid) && e.va / 2 ^ e.sizeLog2 == va / 2 ^ e.sizeLog2) = true then none else some e) with
      walk := c.walk.filter fun w => !((w.asid == none || w.asid == some asid) && w.vaTop == va / 2 ^ (12 + 9 * w.lvl)) }) ∧
    inv (.tlbiAsid l all ga gb) (fun c => { c.mapTlbs (fun e => if e.asid = some asid then none else some e) with
      walk := c.walk.filter fun w => w.asid != some asid }) ∧
    inv (.tlbiAll l all ga gb) (fun c => { c with itlb := [], dtlb := [], l2tlb := [], walk := [] }) ∧
    inv (.slbi l all ga gb) (fun c => { c with sla := [] }) ∧
    (k.level = .sk →
      (stlbLegal (k.rg ga) (k.rg gb) = true → Completes (.stlbw l ga gb idx) s fun t =>
        mget (0#64, 0#64) (t.core l.val).stlb idx.toNat = (k.rg ga, k.rg gb) ∧
        (∀ i, i ≠ idx.toNat → stlbOverlap (mget (0#64, 0#64) (t.core l.val).stlb i).1 (k.rg ga) = false) ∧ (t.core l.val).pc = k.pc + 4#64) ∧
      Retires (.stlbr l gd idx hi) l s (fun c => c.wg gd (if hi then (mget (0#64, 0#64) c.stlb idx.toNat).2 else (mget (0#64, 0#64) c.stlb idx.toNat).1)) ∧
      Retires (.stlbi l all ga) l s (fun c => { c with stlb := if all then [] else c.stlb.filter fun e => !stlbHit e.2 va }))) ∧
  (∀ (l : Fin 384) (ga gb : BitVec 5) (s : State), s.ready l →
    let d := s.fetched l
    let k := d.core l.val
    let r := d.drained l.val
    let on (c : Instr) (p : Core → Prop) : Prop := Completes c s fun t => (t.core l.val).pc = k.pc + 4#64 ∧ (t.core l.val).g = k.g ∧ p (t.core l.val)
    RetiresBy (.barLl l) l s (fun d => d) ∧
    on (.barSs l) (fun c => c.sb = [] ∨ c.sb.getLast? = some (.mark false)) ∧
    (r.2 = true → on (.barFull l) (fun c => c.sb = [] ∧ c.pendSt = []) ∧ on (.isync l) (fun c => c.sb = [] ∧ c.stlbF = c.stlb) ∧
      ((r.1.core l.val).devStores = 0 → on (.barDev l) (fun c => c.sb = [] ∧ c.devStores = 0))) ∧
    (k.level.priv = true → Retires (.pflush l) l s fun c => { c with pred := Predictor.empty }) ∧
    (pbarLegal (k.rg ga) (k.rg gb) = true → k.pbarMay (k.rg ga) (k.rg gb) = true → Completes (.pbar l ga gb) s fun t =>
      (∀ i, i < 4 → mget 0#64 (t.core l.val).pbar i = if i = (k.rg gb).toNat % 4 then k.rg ga else mget 0#64 k.pbar i) ∧ (t.core l.val).pc = k.pc + 4#64))

/-- Taking an exception by an instruction whose effect it is, and returning from one: SYS saves the next instruction's
address and BRK its own, with their cause and the level they came from, and go on at the vector base of the current world
with interrupts off; a word that spells no instruction raises illegal instruction, and one that spells an instruction does
what that does (log entry 70); WCALL enters the secure bank from K at offset 0x200; WRET goes back to the saved address at K
with the saved interrupt enable, and clears what the secure world leaves (08 R254, R255, R258, R259). -/
def Obligations.ExceptionsComplete : Prop :=
  ∀ (l : Fin 384) (code : BitVec 12) (word : BitVec 32) (s : State), s.ready l →
    let d := s.fetched l
    let k := d.core l.val
    let enters (c : Instr) (sec : Bool) (saved : Word) (cause : Reg32) (addr : Word) (off : Nat) : Prop :=
      Completes c s fun t =>
        let k2 := t.core l.val
        let b := k.bank sec
        k2.pc = b.vbase + BitVec.ofNat 64 off ∧ k2.level = (if sec then .sk else .k) ∧
        k2.bank sec = { b with epc := saved, cause := cause, addr := addr, ppriv := k.level.priv, pie := b.ie, ie := false } ∧
        k2.bank (!sec) = k.bank (!sec) ∧ k2.g = k.g ∧ k2.v = k.v ∧ k2.m = k.m ∧ k2.fpFlags = k.fpFlags ∧ k2.psat = k.psat
    let w := k.level.secure
    enters (.sys l code) w (k.pc + 4#64) (BitVec.ofNat 32 (code.toNat * 4096 + 0x10)) 0#64 0 ∧
    enters (.brk l code) w k.pc (BitVec.ofNat 32 (code.toNat * 4096 + 0x12)) k.pc 0 ∧
    (decodeWord l word = none → enters (.unassignedMajor l word) w k.pc 0x01#32 0#64 0) ∧
    (∀ i, decodeWord l word = some i → exec (.unassignedMajor l word) s = exec i s) ∧
    (k.level = .k → d.secureSkein l.val = true → enters (.wcall l) true (k.pc + 4#64) 0x11#32 0#64 0x200) ∧
    (k.level = .sk → Completes (.wret l) s fun t =>
      let k2 := t.core l.val
      k2.pc = k.sbank.epc ∧ k2.level = .k ∧ k2.sbank = { k.sbank with ie := k.sbank.pie } ∧ k2.kb = k.kb ∧
      (∀ r, k2.rg r = if r ∈ [1#5, 2#5, 4#5, 5#5, 6#5, 7#5] then k.rg r else 0#64) ∧ k2.v = [] ∧ k2.m = [] ∧ k2.psat = 0#8 ∧
      k2.fpFlags = 0#5 ∧ k2.fpRm = k.fpRm ∧ k2.pctlRm = k.pctlRm ∧ k2.pctlEn = k.pctlEn ∧ k2.pctlVd = true ∧ k2.pred = Predictor.empty ∧
      k2.depTable = [] ∧ k2.sTimerCmp = k.sTimerCmp ∧ k2.sTimerEn = k.sTimerEn ∧ k2.sec = k.sec ∧ k2.en = k.en ∧ k2.actS = k.actS ∧ k2.threshS = k.threshS)

/-- The timers of a core: the event sets the timebase at least at the compare value, where the timer's vector is pending as
long as the timer is on (08 R271). WAITI of a privileged core retires and gates it, and begins a self-request held for it; a
deliverable vector resumes the core and discards such a request (07 R243, 17 R533). -/
def Obligations.TimersAndWaiti : Prop :=
  (∀ (l : Fin 384) (s : State),
    let k := s.dev.core l.val
    let due (cmp : Word) (v : Nat) (t : Dev) : Prop := t = { s.dev with now := max s.dev.now cmp.toNat } ∧ (t.pendNow l.val).getLsbD v = true
    (k.timerEn = true → s.dev.secureSkein l.val = true ∨ k.sec.getLsbD 0xFA = false → Completes (.timerExpire l) s (due k.timerCmp 0xFA)) ∧
    (k.sTimerEn = true → s.dev.secureSkein l.val = true → Completes (.sTimerExpire l) s (due k.sTimerCmp 0xF9))) ∧
  (∀ (l : Fin 384) (s : State) (t0 : DomState),
    let d := s.dev
    let held (d : Dev) : Option DomState := mget none d.pwr.selfReq l.val
    (s.ready l → ((s.fetched l).core l.val).level.priv = true → (d.core l.val).wait = .none →
      (held (s.fetched l) = none → Retires (.waiti l) l s fun k => { k with wait := .waiti }) ∧
      (held (s.fetched l) = some t0 → ((s.fetched l).domOf l.val).st = .run → ((s.fetched l).domOf l.val).transit = false →
        let g := (s.fetched l).updCore l.val fun k => { k with wait := .waiti, pc := k.pc + 4#64 }
        Leaves (.waiti l) s ((({ g with pwr := { g.pwr with selfReq := mset none g.pwr.selfReq l.val none } }).setRegF (Reg.PWR_RESULT l.val) 0 0 0).startEntry l.val t0 (some l.val)))) ∧
    (d.inService l.val = true → (d.core l.val).wait = .waiti → (d.deliverable l.val).isSome →
      Completes (.waitiResume l) s fun t => (t.core l.val).wait = .none ∧ held t = none ∧ (t.core l.val).pc = (d.core l.val).pc))

/-- The commands and doorbells of a DMA channel whose page is open, each in the states of its table: ENABLE from DISABLED
with its checks passed, STOP from ACTIVE, STOPPED once nothing is left, RESUME, DISABLE, and the doorbells of an ACTIVE
channel (04 R126 to R128). -/
def Obligations.ChannelCommandsComplete : Prop :=
  ∀ (bd : Fin 8) (fn : Fin 1025) (ch : Fin 8) (v : BitVec 32) (s : State),
    let d := s.dev
    let c := chanKey bd.val fn.val ch.val
    let st := d.chState c
    let i := v.toNat % 2 ^ 16
    let n := (d.chReg c 0x24).toNat % 2 ^ 20
    let result (t : Dev) : Nat := field (t.chReg c 4) 31 24
    d.chOpen c = true →
    (st = 0 → d.enableFails c = none →
      (bit (d.chReg c 0) 7 = true → ∀ o, d.qOwner n = some o → ((d.q n).bookLines o n).any d.poisoned = false) →
      Completes (.chEnable bd fn ch) s fun t =>
      t.chState c = 1 ∧ result t = 0 ∧ (t.chan c).descs = [] ∧ (t.chan c).armed = true ∧ (t.chan c).sqHead = 0 ∧ (t.chan c).entries = (t.chan c).cqN) ∧
    (st = 1 → Completes (.chStop bd fn ch) s fun t => t.chState c = 2 ∧ result t = 0 ∧ t.chan c = d.chan c) ∧
    (st = 2 → (d.chan c).descs = [] → Completes (.chStopped bd fn ch) s fun t => t.chState c = 3 ∧ t.chan c = d.chan c) ∧
    (st = 3 → (d.chan c).recSq = none → (d.chan c).recRx = none → (d.chan c).recCq = none → (d.chan c).descs = [] → (d.chan c).sqTail ≤ (d.chan c).sqFetch →
      Completes (.chResume bd fn ch) s fun t => t.chState c = 1 ∧ result t = 0) ∧
    (st = 3 ∨ st = 4 → Completes (.chDisable bd fn ch) s fun t => t.chState c = 0 ∧ result t = 0 ∧ t.chan c = Chan.reset) ∧
    (st = 1 →
      (i < (d.chan c).sqN → Leaves (.bqChSqDb bd fn ch v) s
        ((d.updChan c fun x => { x with sqTail := max x.sqFetch (posAt x.sqHead x.sqN i) }).chPump c)) ∧
      (i < (d.chan c).rxN → Leaves (.bqChRxDb bd fn ch v) s (d.updChan c fun x => { x with rxHead := posAt x.rxTail x.rxN i })) ∧
      (i < (d.chan c).cqN → Leaves (.bqChCqDb bd fn ch v) s (d.cqHead c v.toNat)))

/-- What the host and time bring to an open channel: a descriptor or a payload that arrives goes on to the engine, one that
does not puts the channel in ERROR or completes its descriptor with the status, a retry posts again, a limit that passes
completes with FULL, and a drain that is ready takes the selected item (04 R131 to R138, R147). -/
def Obligations.ChannelEventsComplete : Prop :=
  ∀ (bd : Fin 8) (fn : Fin 1025) (ch : Fin 8) (index : Nat) (bs : List Byte) (bad : Completion) (s : State) (y : Desc) (it : QItem),
    let d := s.dev
    let c := chanKey bd.val fn.val ch.val
    let n := (d.chan c).drainQa % 2 ^ 20
    (∀ b, bad ≠ .ok b) → d.chState c = 1 ∨ d.chState c = 2 →
    (d.descAt c index = some y →
      (y.stage = .fetch →
        Leaves (.descriptorFetchDone bd fn ch index (.ok bs)) s ((d.descFetched c y bs).chPump c) ∧
        Leaves (.descriptorFetchDone bd fn ch index bad) s (d.chError c (if bad = .poisoned then .poison else .denied)) ∧
        ((d.bun bd.val).ctoOff = false → Leaves (.dmaReadTimeout bd fn ch index) s (d.chError c .timeout))) ∧
      (y.stage = .payload → y.issued = true →
        Leaves (.payloadFetchDone bd fn ch index (.ok bs)) s
          ((d.updDesc c y.pos fun y => { y with payload := bytesAt bs 0 (y.len - 16), stage := .ready }).chPump c) ∧
        ((d.bun bd.val).ctoOff = false → Leaves (.dmaReadTimeout bd fn ch index) s ((d.chDescDone c y.pos .timeout).chPump c))) ∧
      (y.stage = .full →
        ((d.chan c).mayPost y = true → Leaves (.dmaPostRetry bd fn ch index) s ((d.chPost c y).chPump c)) ∧
        Leaves (.dmaFullLimitExpire bd fn ch index) s
          (({ d with now := max d.now (y.fullSince + field (d.chReg c 0x28) 15 0 * 65536) }.chDescDone c y.pos .full).chPump c))) ∧
    (d.drainReady c = true → .drain c ∈ (d.q n).waiters → (d.qTouch n).select n = some it → ((d.qTouch n).q n).en = true →
      Leaves (.drainTake bd fn ch) s ((((d.qTouch n).drainTake c n it).serveGrants n).chPump c))

/-- A post of a core that passes every check is handed to the engine with its length, priority and payload, and the core
waits for its commit; at the commit the item stands last in its queue and the core retires with the result word, its status
OK (03 R85 to R88). The events that end a post: a commit appends the item with its header to the queue's items and tells the
core that posted it; a remote post ends with OK when the port takes its item, and with FULL when its credit wait passes. -/
def Obligations.PostsAndTheirEnds : Prop :=
  (∀ (l : Fin 384) (gd ga gb : BitVec 5) (slot : BitVec 3) (s : State), s.ready l →
    let d0 := s.fetched l
    let va := (d0.core l.val).rg gb
    let qa := ((d0.core l.val).rg ga).toNat % 2 ^ 32
    let n := qa % 2 ^ 20
    let posts (c : Instr) (d : Dev) (len prio : Nat) (lines : List Nat) (payload : List Byte) : Prop :=
      let sk := (d.skeinOf l.val).getD 0
      ∀ o d5, d.bqSafe = false → qa.testBit 31 = false → d.qaLocal qa = true → d.qOwner n = some o → d.mayPost sk n = true →
        (d.qmemOn o n = true → d.qmemWaits o n = false) → (d.qTouch n).postFails n len prio = none →
        (d.qTouch n).bufFails l.val lines = none → (d.qTouch n).bufReach lines = (d5, true) →
        let d6 := d5.bufRead lines
        Completes c s fun t =>
          (t.core l.val).wait = .post gd d6.bq.nextOwn ∧ (t.core l.val).pc = (d0.core l.val).pc ∧
          t.bq.posts = d6.bq.posts ++ [⟨d6.bq.nextOwn, n, (d6.q n).wr, (len + 63) / 64, len, prio, sk * 2 ^ 26 + l.val, .core l.val gd, payload⟩] ∧
          t.q n = (d6.q n).alloc d6.bq.nextOwn ((len + 63) / 64)
    (∀ d1 x1 d3 xs, va.toNat % 16 = 0 → d0.xlPages l.val .load [va] = (d1, .ok x1) → x1.any Xlat.notBuffer = false →
      (d1.drained l.val).2 = true →
      let d2 := (d1.drained l.val).1
      let h := d2.bufBytes va x1 16
      let len := leAt h 0 2
      d2.bufLine l.val (bufPa va x1 0 / 64) = .ok →
      d2.xlPages l.val .load (pageVas va (max 16 len)) = (d3, .ok xs) → xs.any Xlat.notBuffer = false → (∀ x ∈ xs, x.ad = none) →
      posts (.qpost l gd ga gb) d3 len (leAt h 2 1) (bufLines va xs (max 16 len)) ((d3.bufBytes va xs len).drop 16)) ∧
    (let d := (d0.drained l.val).1
      let bs := (List.range 256).map fun i => (d.core l.val).landByte (slot.toNat * 256 + i)
      let len := leAt bs 0 2
      (d0.drained l.val).2 = true → len ≤ 256 → posts (.qpostl l gd ga slot) d len (leAt bs 2 1) [] ((bs.take len).drop 16))) ∧
  (∀ (l : Fin 384) (id : Nat) (gd : BitVec 5) (p : QPost) (r : RemotePost) (d2 : Dev) (s : State),
    let d := s.dev
    let e := d.qTouch p.q
    let q := e.q p.q
    (d.bq.posts.find? (fun x => x.own == id) = some p → e.bq.posts.find? (fun x => x.own == id) = some p → p.poster = .core l.val gd →
      q.waiters = [] → e.fns = [] → e.quiet l.val = true →
      Completes (.itemCommit id) s fun t =>
        (t.q p.q).items = q.items ++ [⟨id, p.cell, p.n, p.len, p.prio, false, false, p.tag, q.seq, e.now / 1024⟩] ∧
        (t.q p.q).seq = (q.seq + 1) % 2 ^ 32 ∧ t.bq.posts = e.bq.posts.filter (fun x => x.own != id) ∧
        (t.core l.val).rg gd = (if gd = 0#5 then 0#64 else qword q.seq p.prio p.len 0 .ok) ∧
        (t.core l.val).wait = .none ∧ (t.core l.val).pc = (e.core l.val).pc + 4#64) ∧
    (d.quiet l.val = true → d.bq.remote.find? (fun x => x.l == l.val) = some r →
      (d.placeRemote r = (d2, true) → Completes (.hankItemAccept l) s fun t =>
        (t.core l.val).rg r.gd = 0#64 ∧ (t.core l.val).wait = .none ∧ (t.core l.val).pc = (d.core l.val).pc + 4#64) ∧
      Completes (.creditWaitExpire l) s fun t =>
        (t.core l.val).rg r.gd = (if r.gd = 0#5 then 0#64 else 11#64) ∧ (t.core l.val).wait = .none ∧ (t.core l.val).pc = (d.core l.val).pc + 4#64))

/-- A read of a queue that holds an item the reader may take ends at once: the item leaves the queue, and gd holds the result
word with its sequence, priority and length and status OK. QTRY on an empty queue ends with EMPTY, and QREAD waits; a wait
ends with EMPTY at its limit, and an interrupt or a reel takes a waiting core out of its wait with no effect (03 R89 to R99). -/
def Obligations.ReadsComplete : Prop :=
  ∀ (l : Fin 384) (gd ga gb : BitVec 5) (slot : BitVec 3) (s : State),
    let d0 := s.fetched l
    let k := d0.core l.val
    let qa := (k.rg ga).toNat % 2 ^ 32
    let ends (c : Instr) (pc x : Word) : Prop := Completes c s fun t =>
      (t.core l.val).rg gd = (if gd = 0#5 then 0#64 else x) ∧ (t.core l.val).pc = pc + 4#64 ∧ (t.core l.val).wait = .none
    let takes (d : Dev) (spill : List Nat) (it : QItem) (n : Nat) : Prop :=
      let lines := if it.len ≤ 256 then [] else spill.take ((it.len - 256 + 63) / 64)
      (it.len ≤ 256 ∨ spill ≠ []) ∧ d.spillFails l.val lines = none ∧ d.itemPoisoned n it = false ∧ (d.bufReach lines).2 = true
    let spills (va : Word) (d1 : Dev) (xs : List Xlat) : Prop :=
      d0.spillPages l.val va = (d1, .ok xs) ∧ xs.any Xlat.notBuffer = false ∧ (∀ x ∈ xs, x.ad = none) ∧ (d1.drained l.val).2 = true
    (s.ready l → ∀ d1 xs, spills (k.rg gb) d1 xs →
      let d2 := (d1.drained l.val).1
      let n := qa % 2 ^ 20
      let d3 := d2.qTouch n
      ∀ o, d2.bqSafe = false → qa.testBit 31 = false → d2.qaLocal qa = true → d2.qOwner n = some o →
      d2.mayQread l.val ((d2.skeinOf l.val).getD 0) n = true →
      (d2.qmemOn o n = true → d2.qmemWaits o n = false) → d3.qmemOn o n = true → (d3.q n).dead = false → (d3.q n).en = true →
      (∀ it, d3.select n = some it → takes d3 (spillLines (k.rg gb) xs) it n →
        ends (.qread l gd ga gb slot) k.pc (qword it.seq it.prio it.len 0 .ok) ∧ ends (.qtry l gd ga gb slot) k.pc (qword it.seq it.prio it.len 0 .ok)) ∧
      (d3.select n = none → ends (.qtry l gd ga gb slot) k.pc 10#64)) ∧
    (s.ready l → ∀ d1 xs, spills (k.rg ga &&& ~~~0xFFF#64) d1 xs →
      let d2 := (d1.drained l.val).1
      let gi := (k.rg ga).toNat % 4096
      let sk := (d2.skeinOf l.val).getD 0
      ∀ o i n it, d2.bqSafe = false → d2.cfgOf l.val = some o →
      let e := d2.groupTouch o gi false
      let g := (mget none e.bq.groups (sk * 4096 + gi)).getD ⟨[], 0, 0⟩
      let ms := g.chosen (k.rg gb)
      let d3 := ms.foldl (fun d x => d.qTouch x.2) e
      (∀ x ∈ ms, e.mayQread l.val sk x.2 = true) →
      (∀ x ∈ ms, ∀ o, d3.qOwner x.2 = some o → d3.qmemOn o x.2 = true) → (∀ x ∈ ms, (d3.q x.2).dead = false) →
      d3.pickMember g.rot ms = some (i, n, it) →
      takes d3 (spillLines (k.rg ga &&& ~~~0xFFF#64) xs) it n →
      ends (.qwait l gd ga gb slot) k.pc (qword it.seq it.prio it.len i .ok)) ∧
    (∀ q t, (s.dev.core l.val).wait = .queue q → q.gd = gd → q.limit = some t → s.dev.quiet l.val = true →
      ends (.waitLimitExpire l) (s.dev.core l.val).pc 10#64) ∧
    (∀ q, ((s.dev.core l.val).wait = .queue q ∨ (s.dev.core l.val).wait = .remote) →
      ((s.dev.deliverable l.val).isSome ∨ mget false s.dev.reeling l.val = true) →
      Completes (.waitCancel l) s fun t => t.core l.val = { s.dev.core l.val with wait := .none } ∧
        ∀ n, .core l.val ∉ (t.q n).waiters)

/-- An interrupt is taken between instructions, at the highest deliverable vector, in the bank of the core's world: the
address of the instruction not executed is saved, CAUSE names the vector, and the core goes on at the vector base plus 0x100
with interrupts off. What ADDR holds the spec does not state; it is a free value (08 R255, R257, R264, log entry 6). The
flush of a queue: at its point every item and uncommitted post is discarded, and at its completion FLUSH clears and the core
that asked for it retires with OK (03 R103, R104). -/
def Obligations.InterruptsAndFlushes : Prop :=
  (∀ (l : Fin 384) (s : State) (v : Nat),
    let d := s.dev
    let k := d.core l.val
    let w := k.level.secure
    d.deliverable l.val = some v → d.inService l.val = true → k.wait.leaves = true → d.quiet l.val = true →
    Completes (.interruptTake l) s fun t =>
      let k2 := t.core l.val
      let b := k.bank w
      k2.pc = b.vbase + 0x100#64 ∧ k2.level = (if w then .sk else .k) ∧ k2.wait = .none ∧
      k2.bank w = { b with epc := k.pc, cause := BitVec.ofNat 32 (2 ^ 31 + v % 256), addr := Config.freeValue d.freeCtr, ppriv := k.level.priv, pie := b.ie, ie := false } ∧
      k2.bank (!w) = k.bank (!w) ∧ k2.g = k.g ∧ k2.v = k.v ∧ k2.m = k.m) ∧
  (∀ (l : Fin 384) (n : Fin 1048576) (gd : BitVec 5) (s : State),
    let d := s.dev
    let q := d.q n.val
    (q.flush = true → q.flushed = false → (∀ p ∈ d.bq.posts, p.q ≠ n.val) → d.bq.grants = [] → d.fns = [] →
      Completes (.flushPoint n) s fun t => (t.q n.val).items = [] ∧ (t.q n.val).flush = true ∧ (t.q n.val).flushed = true) ∧
    (q.flush = true → q.flushed = true → d.cores = [(l.val, { d.core l.val with wait := .flush gd n.val })] → d.bq.grantReqs = [] → d.quiet l.val = true →
      Completes (.flushComplete n) s fun t => (t.q n.val).flush = false ∧
        (t.core l.val).wait = .none ∧ (t.core l.val).rg gd = 0#64 ∧ (t.core l.val).pc = (d.core l.val).pc + 4#64))

/-- QCTL of a privileged core on a queue of its own skein: each command, with the queue in the state it asks for, has its
effect on the queue's context and ends with OK; FLUSH waits, passes its point and completes; REVIVE, which the device may
refuse with POISON (log entry 6), else empties a dead queue (03 R103, R104, R109 to R111). -/
def Obligations.QueueControlComplete : Prop :=
  ∀ (l : Fin 384) (gd ga gb : BitVec 5) (s : State) (o : SkeinCfg), s.ready l →
    let d0 := s.fetched l
    let k := d0.core l.val
    let qa := (k.rg ga).toNat % 2 ^ 32
    let n := qa % 2 ^ 20
    let x := k.rg gb
    let may (d : Dev) : Prop := d.bqSafe = false ∧ qa.testBit 31 = false ∧ d.qaLocal qa = true ∧ d.qOwner n = some o ∧
      some o.skein = d.skeinOf l.val ∧ (d.qmemOn o n = true → d.qmemWaits o n = false)
    let on (d : Dev) : Dev := (d.qTouch n).charge o.skein 1
    let ok (t : Dev) (w : Word) : Prop := (t.core l.val).rg gd = (if gd = 0#5 then 0#64 else w) ∧ (t.core l.val).pc = k.pc + 4#64
    let buf (va : Word) (size : Nat) (p : Dev → List Nat → List Byte → Prop) : Prop :=
      ∀ d1 xs, va.toNat % 64 = 0 → d0.xlPages l.val .load (pageVas va size) = (d1, .ok xs) → xs.any Xlat.notBuffer = false →
        (∀ x ∈ xs, x.ad = none) → (d1.drained l.val).2 = true →
        let d2 := (d1.drained l.val).1
        p d2 (bufLines va xs size) (d2.bufBytes va xs size)
    let reads (d : Dev) (lines : List Nat) (e : Dev) : Prop :=
      d.bufFails l.val lines = none ∧ ∃ e1, d.bufReach lines = (e1, true) ∧ e = e1.bufRead lines
    k.level.priv = true →
    (may d0 → (on d0).qmemOn o n = true →
      let d := on d0
      let q := d.q n
      Completes (.qctlQuery l gd ga 0#5) s (fun t => t.q n = q ∧ ok t (BitVec.ofNat 64 (q.seq * 2 ^ 32 +
        (((List.range 8).filter fun p => (q.head p).isSome).map fun p => 2 ^ p).sum * 2 ^ 16 + q.stateCode * 2 ^ 8))) ∧
      (q.dead = true → Completes (.qctlRevive l gd ga 0#5) s fun t =>
        if Config.freeChoice (d.freeCtr * 8) = true then t.q n = q ∧ ok t (BitVec.ofNat 64 Status.poison.code)
        else t.q n = { q with dead := false, en := false, flush := false, flushed := false, items := [], runs := [], wr := 0, recl := 0 } ∧ ok t 0#64) ∧
      (q.dead = false →
        (q.en = false → q.ringLog2 ≠ 0 → Completes (.qctlEnable l gd ga 0#5) s fun t => t.q n = { q with en := true } ∧ ok t 0#64) ∧
        (q.en = true → q.flush = false →
          Completes (.qctlFlush l gd ga 0#5) s (fun t => t.q n = { q with flush := true, flushed := false } ∧ (t.core l.val).wait = .flush gd n ∧ (t.core l.val).pc = k.pc) ∧
          (q.items = [] → (∀ p ∈ d.bq.posts, p.q ≠ n) → q.waiters = [] → Completes (.qctlDisable l gd ga 0#5) s fun t => (t.q n).en = false ∧ ok t 0#64)) ∧
        (field x 63 33 = 0 → (bit x 32 = true → field x 15 0 ≠ 0) → Completes (.qctlLimits l gd ga gb) s fun t =>
          t.q n = { q with ageLimit := field x 15 0, waitLimit := field x 31 16, ageEn := bit x 32 } ∧ ok t 0#64))) ∧
    buf x 64 (fun d2 lines bs => ∀ e, may d2 → (on d2).qmemOn o n = true → ((on d2).q n).dead = false → ((on d2).q n).en = false →
      (on d2).setupOk o n bs = true → reads (on d2) lines e → (e.q n).waiters = [] →
      Completes (.qctlSetup l gd ga gb) s fun t => ok t 0#64 ∧
        (t.q n).ringLog2 = leAt bs 3 1 ∧ (t.q n).ringBase = leAt bs 4 4 ∧ (t.q n).seq = leAt bs 8 4 ∧ (t.q n).ageLimit = leAt bs 0xC 2 ∧
        (t.q n).waitLimit = leAt bs 0xE 2 ∧ (t.q n).items = [] ∧ (t.q n).en = false ∧
        (t.q n).pSkeins = BitVec.ofNat 16 (leAt bs 0x10 2) ∧ (t.q n).cSkeins = BitVec.ofNat 16 (leAt bs 0x12 2)) ∧
    buf x 12 (fun d2 lines bs => ∀ e, may d2 → (on d2).qmemOn o n = true → ((on d2).q n).dead = false →
      (on d2).rightsOk o n bs 0 = true → reads (on d2) lines e → (e.q n).waiters = [] →
      Completes (.qctlRights l gd ga gb) s fun t => ok t 0#64 ∧ t.q n = (e.q n).withRights bs 0) ∧
    buf x 512 (fun d2 lines bs => ∀ e, d2.bqSafe = false → (k.rg ga).toNat < 4096 → d2.cfgOf l.val = some o →
      groupOk o bs (fun _ => true) = true → reads (d2.charge o.skein 1) lines e →
      Completes (.qctlGset l gd ga gb) s fun t => ok t 0#64 ∧ ∃ g, mget none t.bq.groups (o.skein * 4096 + (k.rg ga).toNat) = some g ∧
        g.limit = leAt bs 0x100 2 ∧ ∀ i, i < 64 → g.members.getD i 0 = if (leAt bs (4 * i) 4).testBit 31 then leAt bs (4 * i) 4 else 0)

/-- What the sending side of a Hank stream does: a frame carries the waiting messages and joins the frames not yet
acknowledged, a timeout sends those again, a held stream ends, an outstanding credit request goes out again, and the credit
block unused for longest goes back (15 R483 to R489, 04 R142, R143). The states of peers and ports: reach lapses, a conflict
clears, a peer long DOWN restarts; a port comes up, goes down and moves its streams, retires, is stood in for by a spare,
trains again, and turns its lasers off after SAFE (15 R473 to R475, R496 to R500). -/
def Obligations.HankSendingAndPorts : Prop :=
  (∀ (sk : Fin 16) (sys : Fin 2048) (dir alt : Bool) (port : Fin 8) (p : Nat) (qa : BitVec 32) (s : State),
    let d := s.dev
    let k := streamKey (b2n dir) sk.val sys.val
    let st := d.stream k
    let n := packCount 4320 st.out
    (d.hankRun = true →
      (d.streamPort (b2n dir) sk.val sys.val = (some p, alt) →
        (n ≠ 0 → st.unacked.length < 1024 → Completes (.hankFrameSend sk sys dir) s fun t =>
          (t.stream k).txSeq = (st.txSeq + 1) % 2 ^ 32 ∧ (t.stream k).out = st.out.drop n ∧
          (t.stream k).unacked = st.unacked ++ [⟨st.txEpoch, st.txSeq, st.txResync, st.out.take n⟩] ∧ t.out.length = d.out.length + 1) ∧
        (n = 0 → st.ackDue = true → Completes (.hankFrameSend sk sys dir) s fun t =>
          (t.stream k).ackDue = decide (d.ackFor (b2n dir) sk.val sys.val st.out ≠ st.rxNext) ∧ (t.stream k).txSeq = st.txSeq ∧
          t.out.length = d.out.length + 1)) ∧
      (st.unacked ≠ [] → Completes (.hankRtoExpire sk sys dir) s fun t => (t.stream k).retries = st.retries + 1 ∧ (t.stream k).unacked = st.unacked) ∧
      (d.portUp port.val = true → Completes (.helloSend port) s fun t => t = { d with out := d.out ++
        [.frame port.val 0xFFFFFFFFFFFF#48 (d.portMac port.val) (hankPayload 4 d.sysnum 0xFFFF 0 port.val 0 0 0 (d.reg Reg.HNK_INCARN).toNat [])] })) ∧
    (∀ t0, st.held = some t0 → Leaves (.streamEnd sk sys dir) s
      ({ d with now := max d.now (t0 + d.regF Reg.HNK_HOLD 15 0 * 1000000) }.endStream (b2n dir) sk.val sys.val false)) ∧
    Completes (.creqRetry qa) s (fun t => t.bq.creditReqs = d.bq.creditReqs.map fun r => if r.qa = qa.toNat then { r with busy := false } else r) ∧
    ((∃ b ∈ d.bq.credits, b.qa = qa.toNat) → Completes (.creditBlockIdleRelease qa) s fun t =>
      ∃ b ∈ d.bq.credits, b.qa = qa.toNat ∧ (∀ x ∈ d.bq.credits, x.qa = qa.toNat → b.lastUse ≤ x.lastUse) ∧
        t.bq.credits = d.bq.credits.filter (fun x => x != b))) ∧
  (∀ (sys : Fin 2048) (port : Fin 8) (q : Requester) (s : State) (x : Nat),
    let d := s.dev
    let p := port.val
    (∀ h, d.heardAt p sys.val = some h → Completes (.peerReachLapse port sys) s fun t => t.heardAt p sys.val = none ∧ h.until_ ≤ t.now) ∧
    (d.peerState sys.val = 3 → Completes (.peerConflictClear sys) s fun t => t.peerState sys.val ≠ 3 ∧ (d.peer sys.val).conflictUntil ≤ t.now) ∧
    (d.peerState sys.val = 2 → Leaves (.peerDownHoldExpire sys) s
      ({ d with now := max d.now ((d.peer sys.val).downSince + d.regF Reg.HNK_HOLD 15 0 * 1000000) }.peerRestart sys.val false)) ∧
    (d.portState p = 1 ∨ d.portState p = 3 → Completes (.hankPortUp port) s fun t => t.portState p = 2) ∧
    (d.portState p = 2 → Leaves (.hankPortDown port) s ((d.setPortState p 3).moveStreams p)) ∧
    (d.portState p = 1 ∨ d.portState p = 2 ∨ d.portState p = 3 → Completes (.hankPortRetire port) s fun t => mget false t.hank.gone p = true) ∧
    (d.portState p = 4 → (∀ y, y < 8 → y ≠ p → d.substOf y = d.substOf p → d.portState y = 4) → d.freeSpare = some x →
      Completes (.hankSpareSubstitute port) s fun t => mget none t.hank.subst x = some (d.substOf p)) ∧
    Leaves (.hnkRetrain q port) s (d.hnkDo q p 1) ∧
    (d.safe = true → d.portState p = 5 → Completes (.localFaultEnd port) s fun t => t = { d with out := d.out ++ [.txOff p] }))

/-- What a Hank unit in service does with what it receives: a frame that passes its checks is a HELLO or goes to its stream,
one that fails is dropped with its reason; each message has its effect at the queue or at the credit it names; and what is
heard moves the state of the peer (15 R473 to R475, R480, R492 to R495). -/
def Obligations.HankReceivingComplete : Prop :=
  ∀ (sk : Fin 16) (sys : Fin 2048) (port : Fin 8) (f : HankFrame) (hf : HelloFrame) (m : HankMsg) (s : State),
    let d := s.dev
    d.hankRun = true →
    (d.portUp port.val = true →
      Leaves (.hello port hf) s (d.hello port.val hf.sys.val hf.srcPort.val hf.mac hf.incarn) ∧
      (f.dst = d.portMac port.val ∨ f.dst = 0xFFFFFFFFFFFF#48 →
        (∀ e, d.frameCheck f = .error e → Leaves (.hankFrameReceive port f) s (d.hankDrop port.val e)) ∧
        (∀ ms, d.frameCheck f = .ok ms → Leaves (.hankFrameReceive port f) s
          (if (leAt f.payload 1 1).testBit 2 then
            d.hello port.val (leAt f.payload 4 2 % 2048) (leAt f.payload 9 1 % 8) f.src (BitVec.ofNat 32 (leAt f.payload 0x14 4))
          else d.rxStream port.val f ms)))) ∧
    Leaves (.hankItem sk sys m) s (d.rxItem sk.val sys.val { m with mtype := .item }) ∧
    Leaves (.hankCreq sk sys m) s (d.rxCreq sk.val sys.val { m with mtype := .creq }) ∧
    Leaves (.hankCrel sk sys m) s (d.rxCrel sk.val sys.val { m with mtype := .crel }) ∧
    Leaves (.hankRefuse sk sys m) s (d.rxRefuse sk.val sys.val { m with mtype := .refuse }) ∧
    (m.status = 0#8 → d.bq.credits.length < 16384 → (d.blocksFor sk.val m.qa.toNat).length < 2 → Completes (.hankGrant sk sys m) s fun t =>
      t.bq.credits = d.bq.credits ++ [⟨sk.val, m.qa.toNat, m.grant.toNat, m.aux.toNat, 0, d.now⟩] ∧
      t.bq.creditReqs = d.bq.creditReqs.filter (fun r => !(r.skein == sk.val && r.qa == m.qa.toNat))) ∧
    (m.status = 0#8 → 16384 ≤ d.bq.credits.length ∨ 2 ≤ (d.blocksFor sk.val m.qa.toNat).length → Completes (.hankGrant sk sys m) s fun t =>
      t.bq.credits.length ≤ d.bq.credits.length ∧
      t.bq.creditReqs = d.bq.creditReqs.filter (fun r => !(r.skein == sk.val && r.qa == m.qa.toNat))) ∧
    Completes (.hankRevoke sk sys m) s (fun t => t.bq.credits = d.bq.credits.filter fun b => !(b.skein == sk.val && b.grant == m.grant.toNat))

/-- Entering SAFE stops every unit in one step: no post is left, no reel, no delta, FAULT_N is low and the cause is kept; a
further trigger in SAFE is only counted. A pipeline that retires before the last leaves the others in service (16 R519 to
R522, 03 R118). -/
def Obligations.SafeEntryComplete : Prop :=
  ∀ (cause : SafeCause) (pipe : Fin 4) (s : State),
    let d := s.dev
    let up := d.regF Reg.BQ_STATUS 11 8
    (d.safe = false →
      Completes (.safeEntry cause) s (fun t => t.safe = true ∧ t.boot.safeBy = some cause ∧ t.pwr.faultN = false ∧
        t.bq.posts = [] ∧ t.bq.remote = [] ∧ t.rel.reels = [] ∧ t.img.pending = none) ∧
      (up.testBit pipe.val = true → up ≠ 2 ^ pipe.val → Leaves (.pipeRetire pipe) s
        ((((d.retirePipe pipe.val (up - 2 ^ pipe.val)).useBudget 12 1).record
          ⟨0x11, false, .fbAtNotice, 0x10, none, pipe.val, 0, 0, ((d.retirePipe pipe.val (up - 2 ^ pipe.val))).skeinsWhere fun _ => true⟩).pumpAll))) ∧
    (d.safe = true → Leaves (.safeEntry cause) s (d.setRegF Reg.RL_SAFE_CAUSE 15 8 (min 0xFF (d.regF Reg.RL_SAFE_CAUSE 15 8 + 1))))

/-- A request that admission admits is performed: to RUN, the domain begins its exit; to a deeper state, its entry begins, or
is held for the LCN's next WAITI where an LCN asks for itself (17 R531 to R533). The steps of entering and leaving a state:
an island that has drained sleeps and wakes, a fence is acknowledged once nothing of the domain is outstanding and lifts at
its limit, a request held too long is answered, power is removed, and a domain that is ready again runs and opens its port
(17 R526 to R534, 12 R386 to R388). -/
def Obligations.PowerRequestsAndDomainSteps : Prop :=
  (∀ (l : Fin 384) (index k : Nat) (tgt : BitVec 3) (t : DomState) (s : State),
    let d := s.dev
    let asks (i : Instr) (kind : Nat) : Prop := d.pwrAdmit (.core l.val) kind index tgt.toNat = .admitted k t →
      (t = .run → Completes i s fun u => (u.domOf k).transit = true ∧ (u.domOf k).target = .run ∧ (u.domOf k).st = (d.domOf k).st) ∧
      (t ≠ .run → l.val ≠ k → Leaves i s ((d.startEntry k t (some l.val)).pwrResult (some l.val) .ok 0 (d.selfHeld l.val))) ∧
      (t ≠ .run → l.val = k → Completes i s fun u => mget none u.pwr.selfReq k = some t ∧ u.domOf k = d.domOf k)
    asks (.pwrReqSpindle (.core l) index tgt) 1 ∧ asks (.pwrReqChannel (.core l) index tgt) 2 ∧ asks (.pwrReqBundle (.core l) index tgt) 3) ∧
  (∀ (l : Fin 384) (dom : Fin 409) (mc : Fin 16) (lost : ReelLoss) (s : State),
    let d := s.dev
    let k := dom.val
    let fencing (d : Dev) : Prop := (d.port k).st = .fencing
    let cfg := if k < 384 then Reg.MESH_FENCE_CFG (d.spindle k / 28) else Reg.MESH_HUB_FENCE_CFG
    (let d1 := d.drain l.val
      let x := d1.domOf l.val
      (x.transit = true → x.st = .run → x.target = .sleep → (d1.core l.val).allPerformed = true → Completes (.sleepEntryDone l) s fun u =>
        (u.domOf l.val).st = .sleep ∧ (u.domOf l.val).transit = x.wake ∧ (x.wake = true → (u.domOf l.val).target = .run))) ∧
    ((d.domOf l.val).transit = true → (d.domOf l.val).st = .sleep → (d.domOf l.val).target = .run → Completes (.sleepExitDone l) s fun u =>
      (u.domOf l.val).st = .run ∧ (u.domOf l.val).transit = false) ∧
    (k < 384 → fencing (d.tryFence k) → (((d.tryFence k).drain k).core k).settled = true →
      Completes (.fenceAck dom) s fun u => (u.port k).st = .fenced) ∧
    (384 ≤ k → fencing d → (400 ≤ k → d.bundleBusy (k - 400) = false) →
      Completes (.fenceAck dom) s fun u => (u.port k).st = .fenced ∧ (u.port k).held = (d.port k).held) ∧
    (fencing d → Leaves (.fenceLimitExpire dom) s ((d.timeTo ((d.domOf k).since + d.regF cfg 31 16 * 1000)).abortEntry k .timeout 8)) ∧
    ((d.port k).st ≠ .opened → (d.port k).st ≠ .off → ∀ t h rest, (d.port k).held = (t, h) :: rest → Leaves (.fenceHoldExpire dom) s
      (((d.timeTo (t + d.regF cfg 15 0 * 1000)).setPort k { d.port k with held := rest }).holdFail k h)) ∧
    ((d.domOf k).transit = true → (d.port k).st = .fenced → (d.domOf k).st = .run →
      (k < 384 → (d.domOf k).target = .retain → Completes (.domainPowerRemove dom) s fun u =>
        (u.domOf k).st = .retain ∧ (u.domOf k).transit = false ∧ (u.port k).st = .fenced) ∧
      (384 ≤ k → Completes (.domainPowerRemove dom) s fun u => (u.domOf k).st = (d.domOf k).target ∧ (u.domOf k).transit = false)) ∧
    ((d.domOf l.val).transit = true → (d.port l.val).st = .fenced → (d.domOf l.val).st = .run → (d.domOf l.val).target = .off →
      Completes (.keepArraySaveDone l) s fun u => (u.domOf l.val).st = .off ∧ (u.domOf l.val).transit = false) ∧
    ((d.domOf l.val).transit = true → (d.domOf l.val).st = .run → (d.port l.val).st = .opened ∨ (d.port l.val).st = .fencing →
      let d1 := d.drain l.val
      ((d1.core l.val).sb ≠ [] →
        Leaves (.powerEntryTimeout l) s ((d1.timeTo ((d.domOf l.val).since + 10000)).abortEntry l.val .busy 2)) ∧
      ((d1.core l.val).sb = [] → (d1.core l.val).pendSt ≠ [] →
        Leaves (.powerEntryTimeout l) s ((d1.timeTo ((d.domOf l.val).since + 10000)).abortEntry l.val .busy 3))) ∧
    (k < 384 → d.safe = false → (d.domOf k).transit = false → (mget none d.spindleOf k).isSome → (d.core k).released = true →
      d.wakeHolds k (d.domOf k).st = true →
      Completes (.wakeEvent dom) s fun u => (u.domOf k).transit = true ∧ (u.domOf k).target = .run ∧ (u.domOf k).st = (d.domOf k).st) ∧
    ((d.domOf k).transit = true → (d.port k).st = .waking → (d.port k).held = [] → d.links.waitHome = [] →
      (k < 384 → (d.domOf k).st ≠ .off) → (384 ≤ k → k < 400 → (mget DramCh.reset d.dram (k - 384)).off = []) → k < 400 →
      Completes (.wakeReady dom lost) s fun u => (u.domOf k).st = .run ∧ (u.domOf k).transit = false ∧ (u.port k).st = .opened) ∧
    ((d.domOf k).transit = true → (d.port k).st = .waking → k < 384 → (d.domOf k).st = .off → Leaves (.wakeReady dom lost) s
      (((d.setDom k { d.domOf k with st := .run, transit := false }).applyLoss k (d.spindle k) lost).openPort k)) ∧
    ((d.domOf (384 + mc.val)).transit = true → (d.port (384 + mc.val)).st = .waking → (d.port (384 + mc.val)).held = [] → d.links.waitHome = [] →
      (mget DramCh.reset d.dram mc.val).off ≠ [] → Completes (.lpExitFillDone mc) s fun u =>
        (u.domOf (384 + mc.val)).st = .run ∧ (u.domOf (384 + mc.val)).transit = false ∧ (u.port (384 + mc.val)).st = .opened))

/-- Temperature and power: a sample is shown, and two samples running of 110 °C or more at a die or the hub enter SAFE; a
measure of power moves the steps of the limit it is against (17 R538 to R546). Pins, regulators and wear: a guard step that
is due is ordered again and applied once acknowledged, a measurement raises the steps and starts the early reels it asks for,
an alert reads every regulator, a capture takes the time within 2 ns, a pulse starts at a whole second and ends after 100 µs,
and the trace port sends its oldest packet (16 R509 to R511, 20 R603 to R612). -/
def Obligations.ThermalWearAndPins : Prop :=
  (∀ (site : Fin 18) (temp under : Int) (entry : BitVec 8) (watts : Nat) (s : State),
    let d := s.dev
    let e := entry.toNat
    let lim := d.powerLimit e
    let trip := decide (site.val ≠ 17) && decide (1760 ≤ temp)
    (trip = false ∨ mget false d.pwr.hot site.val = false → Completes (.thermalSample site temp under) s fun u =>
      mget false u.pwr.hot site.val = trip ∧
      (site.val = 17 → u.reg (Reg.PWR_TEMP site.val) = BitVec.ofNat 32 (BitVec.ofInt 16 temp).toNat)) ∧
    (trip = true → mget false d.pwr.hot site.val = true → d.safe = false → 
      Completes (.thermalSample site temp under) s fun u => u.safe = true ∧ u.boot.safeBy = some .thermal) ∧
    (lim ≠ 0 →
      (e = 0xFF → Leaves (.powerStepUpdate entry watts) s (d.limitStep 16 lim watts)) ∧
      (0x20 ≤ e → e < 0x30 → Leaves (.powerStepUpdate entry watts) s (d.limitStep (e - 0x20) lim watts)) ∧
      (e < 16 → lim < watts → d.thermStep e < 4 → d.stepFree (mget none d.pwr.dieChanged e) = true →
        Leaves (.powerStepUpdate entry watts) s (d.setTherm e (d.thermStep e + 1))))) ∧
  (∀ (dom : Fin 18) (slow unacked counts : List Nat) (words : List (Nat × BitVec 16)) (c4 : Fin 4) (p2 : Fin 2) (s : State),
    let d := s.dev
    let r := dom.val
    let st := mget 0 d.pwr.guardDue r
    (st ≠ 0 →
      Leaves (.guardStepRetry dom true) s (({ d.orderStep r st with pwr := { (d.orderStep r st).pwr with guardDue := mset 0 (d.orderStep r st).pwr.guardDue r 0 } }).applyStep r st) ∧
      Leaves (.guardStepRetry dom false) s ((d.orderStep r st).missStep r st)) ∧
    (let most (ps : List Nat) : Nat := (ps.map fun p => slow.getD p 0).foldl max 0
      let worst (r : Nat) : Nat := if r < 16 then most ((List.range 28).map fun n => r * 28 + n) else if r = 16 then most [448, 449, 450, 451] else slow.getD 452 0
      let d1 := (List.range 18).foldl (fun d r => d.raiseTo r (min 7 (worst r / 75)) (!unacked.contains r) 7) d
      let d2 := ((List.range 448).filter fun p => decide (600 ≤ slow.getD p 0)).foldl (fun d p => d.earlyReel p) d1
      Leaves (.wearMeasure slow unacked false) s d2 ∧ Leaves (.wearMeasure slow unacked true) s
        (d2.takeFree.1.takeFree.1.budgetLow 0x10 (d2.takeFree.2.toNat % 256) (d2.takeFree.1.takeFree.2.toNat % 256))) ∧
    Leaves (.emRead counts) s (((List.range 448).filter fun p => decide (90 < counts.getD p 0)).foldl (fun d p => d.earlyReel p) d) ∧
    ((∀ w ∈ words, w.2 = 0#16) → Completes (.pmbAlert words) s fun t =>
      t = { d with out := d.out ++ (List.range 20).map fun i => .pmbus (0x40 + i) 0x79 0 }) ∧
    (d.pinUnit 1 4 c4.val = true → (∀ t0, mget none d.pwr.capLast c4.val = some t0 → t0 + 50 ≤ d.now) → Completes (.captureEdge c4) s fun t =>
      (∃ e, e ≤ 4 ∧ t.reg64 (Reg.TB_CAP_LO c4.val) = (d.now + e - 2) % 2 ^ 64) ∧ t.reg (Reg.TB_CAP_COUNT c4.val) = d.reg (Reg.TB_CAP_COUNT c4.val) + 1#32 ∧
      mget none t.pwr.capLast c4.val = some d.now) ∧
    (d.pinUnit 2 2 p2.val = true → d.safe = false → mget false d.pwr.pulse p2.val = false → Completes (.pulseStart p2) s fun t =>
      mget false t.pwr.pulse p2.val = true ∧ t.now % 1000000000 = 0 ∧ d.now ≤ t.now ∧ t.out = d.out ++ [.pulse p2.val true]) ∧
    (mget false d.pwr.pulse p2.val = true → Completes (.pulseEnd p2) s fun t =>
      mget false t.pwr.pulse p2.val = false ∧ t.out = d.out ++ [.pulse p2.val false]) ∧
    (d.safe = false → d.trace.buf ≠ [] → Completes .tracePacketSend s fun t =>
      let n := packetLen (d.trace.buf.headD 0#8)
      t.trace.buf = d.trace.buf.drop n ∧ t.out = d.out ++ [.traceBytes (d.trace.buf.take n)]))

/-- A request of an agent that is neither dead nor isolated, for memory that it may reach, whose home can answer and does no
other work on the line: where no other agent stands in the way it is finished, the grant or the data on its way and the
directory naming the agent; where another agent owns the line, the home recalls it and waits; a guest is answered DEAD (11
R353 to R358, 10 R316, 12 R397). -/
def Obligations.HomeRequestsComplete : Prop :=
  ∀ (a : AgentId) (line o : Nat) (data : List (BitVec 8)) (mask : BitVec 64) (op : AtomOp) (s : State),
    let d := s.dev
    let d1 := (d.dirTouch line).dirCorrect line
    let e := d1.dirOf line
    let me := agentBit a.val
    let waits (t : Dev) (req : HomeReq) : Prop := t.txnOf line = some ⟨a.val, req, some o, 0#22, false, true, []⟩
    let turned (i : Instr) : Prop := Leaves i s { d with out := d.out ++ [.refused a.val line .dead] }
    d.deadAgents.getLsbD a.val = false → d.agentIsolated a.val = false → d.safe = false →
    (a.val = 18 ∨ a.val = 19 → turned (.gets a line) ∧ turned (.getm a line) ∧ turned (.wfull a line data) ∧ turned (.rdnc a line) ∧
      turned (.wrnc a line mask data) ∧ turned (.atom a line op)) ∧
    (a.val ≠ 18 → a.val ≠ 19 → d.populated (line * 64) = true → (d.queueMem (line * 64) = true → a.val = 16) → d.txnOf line = none →
      d.lineAnswer line = .ok → d1.mustRebuild line = false →
      (e.st ≠ .m →
        Completes (.gets a line) s (fun t => (t.dirOf line).st = .s ∧ (t.dirOf line).holders.getLsbD a.val = true ∧ (t.inFlight .data a.val line).isSome) ∧
        Completes (.rdnc a line) s (fun t => (t.inFlight .data a.val line).isSome) ∧
        (e.holders &&& ~~~me = 0#22 →
          Completes (.getm a line) s (fun t => t.dirOf line = ⟨.m, me⟩ ∧ (t.inFlight .grantDone a.val line).isSome) ∧
          Completes (.wfull a line data) s (fun t => t.dirOf line = ⟨.m, me⟩ ∧ (t.inFlight .grantDone a.val line).isSome)) ∧
        (e.holders = 0#22 →
          Completes (.atom a line op) s (fun t => (t.inFlight .data a.val line).isSome) ∧
          Completes (.wrnc a line mask data) s (fun t => t.dirOf line = DirEntry.idle))) ∧
      (e.st = .m → e.holders ≠ me → e.owner = o →
        Completes (.gets a line) s (fun t => (t.inFlight .recallS o line).isSome ∧ waits t .getS) ∧
        Completes (.getm a line) s (fun t => (t.inFlight .recallI o line).isSome ∧ waits t .getM) ∧
        Completes (.wfull a line data) s (fun t => (t.inFlight .recallD o line).isSome ∧ waits t (.full data)) ∧
        Completes (.rdnc a line) s (fun t => (t.inFlight .recallS o line).isSome ∧ waits t .rdnc) ∧
        Completes (.atom a line op) s (fun t => (t.inFlight .recallI o line).isSome ∧ waits t (.atom op)) ∧
        Completes (.wrnc a line mask data) s (fun t => (t.inFlight .recallI o line).isSome ∧ waits t (.wrnc mask data))))

/-- Packets between a home and an agent, each able to go the rest of its way: an agent acknowledges an invalidation and
answers a recall with its data, or that it has already written back; the home counts acknowledgements, takes recalled data,
and takes a line given back; grants and data reach a die's tags or a hub agent; a line is rebuilt (11 R353 to R357). -/
def Obligations.CoherencePacketsComplete : Prop :=
  ∀ (a : AgentId) (line : Nat) (data : List (BitVec 8)) (m : CohMsg) (t0 : HomeTxn) (tag : L3Tag) (s : State),
    let d := s.dev
    let d1 := d.arrived m
    let x := a.val
    let d2 := (d.agentDrop x line).dirTouch line
    let comes (k : CohKind) : Prop := d.inFlight k x line = some m ∧ d.canTravel m = true
    let mine (i : Instr) : Prop := Completes i s fun t => (t.inFlight .rdata x line).isSome
    let gone (i : Instr) : Prop := Completes i s fun t => (t.inFlight .already x line).isSome
    (comes .inv → Completes (.invMsg a line) s fun t => (t.inFlight .ack x line).isSome) ∧
    (comes .already → Leaves (.already a line) s d1) ∧
    (d.txnOf line = some t0 →
      (comes .ack → t0.acks.getLsbD x = true → Leaves (.ackMsg a line) s (d1.ackCounted line x t0)) ∧
      (comes .rdata → t0.recallOf = some x →
        Leaves (.rdata a ⟨line, data⟩) s ((if t0.req.discards then d1 else d1.ownerData x line data).recallDone line t0 t0.req.keepsS))) ∧
    (x < 16 → comes .done → mget none d.coh.l3 (lineKey x line) = some tag → Completes (.doneMsg a line) s fun t =>
      mget none t.coh.l3 (lineKey x line) = some { tag with pend := false } ∧ t.coh.dir = d.coh.dir) ∧
    (line / 21 ∈ d.coh.rebuild → Leaves (.dirRebuildDone line) s ((List.range 21).foldl (fun d i => d.homeRetry (line / 21 * 21 + i))
      { d.dirRebuild line with coh := { (d.dirRebuild line).coh with rebuild := (d.dirRebuild line).coh.rebuild.erase (line / 21) } })) ∧
    (d.agentIsolated x = false →
      (d2.txnOf line = none →
        (d.agentState x line ≠ .m → (d2.dirOf line).st = .s → (d2.dirOf line).holders.getLsbD x = true →
          Completes (.puts a line) s fun t => t.dirOf line = (d2.dirOf line).putS x) ∧
        (d.ownedBy x line = true → d2.ownedBy x line = true →
          Completes (.putm a ⟨line, data⟩) s fun t => t.dirOf line = DirEntry.idle ∧
            (16 ≤ x → data.length = 64 → ∀ i, i < 64 → t.byte (line * 64 + i) = data.getD i 0#8))) ∧
      (d1.ownedBy x line = true →
        (comes .recallS → mine (.recallS a line)) ∧ (comes .recallI → mine (.recallI a line)) ∧ (comes .recallD → mine (.recallD a line))) ∧
      (d1.ownedBy x line = false →
        (comes .recallS → gone (.recallS a line)) ∧ (comes .recallI → gone (.recallI a line)) ∧ (comes .recallD → gone (.recallD a line))) ∧
      (comes .data → m.data.length = 64 → (d.dirOf line).st = .s → (d.dirOf line).holders.getLsbD x = true →
        Leaves (.dataMsg a line) s (if x < 16 then d1.tagArrives m.skein x line false false else d1.setHubHeld x line .s)) ∧
      (d1.ownedBy x line = true →
        (comes .grantPending → Leaves (.grantMsg a line) s (if x < 16 then d1.tagArrives m.skein x line true true else d1.setHubHeld x line .m)) ∧
        (d.inFlight .grantPending x line = none → comes .grantDone →
          Leaves (.grantMsg a line) s (if x < 16 then d1.tagArrives m.skein x line true false else d1.setHubHeld x line .m))))

/-- Ways, ports and sweeps: a DOWN that passes its checks begins the cleaning with the first slice, an UP sets the way's bit,
and one that does not pass leaves its status; the cleaning ends with the way's bit clear and the unit idle; an isolated
port's bit is set; a sweep ends (11 R361 to R363, R365, 12 R383). -/
def Obligations.WaysComplete : Prop :=
  ∀ (q : Requester) (die way : Fin 16) (unit : Fin 17) (site stop : Fin 16) (n : Fin 28) (bd : Fin 8) (g : Fin 2) (st : Status) (s : State),
    let d := s.dev
    let w := mget WayUnit.idle d.coh.wayUnits unit.val
    let cmds (i : Instr) (u : Nat) (down : Bool) : Prop :=
      (d.wayCheck q u way.val down = none → Completes i s fun t =>
        (down = true → mget WayUnit.idle t.coh.wayUnits u = ⟨true, way.val, 0⟩ ∧ t.reg (pdWays u) = d.reg (pdWays u)) ∧
        (down = false → t.regF (pdWays u) way.val way.val = 1 ∧ t.coh = d.coh)) ∧
      (d.wayCheck q u way.val down = some st → Completes i s fun t => t.regF (pdStatus u) 31 24 = st.code ∧ t.coh = d.coh)
    (commandsUnit q = true → cmds (.l3WayDown q die way) die.val true ∧ cmds (.l3WayUp q die way) die.val false ∧
      cmds (.hcWayDown q way) 16 true ∧ cmds (.hcWayUp q way) 16 false) ∧
    (w.cleaning = true → d.safe = false → (∀ sl, d.linesInWay unit.val sl w.way = []) → Completes (.wayCleanDone unit) s fun t =>
        mget WayUnit.idle t.coh.wayUnits unit.val = WayUnit.idle ∧ t.regF (pdWays unit.val) w.way w.way = 0) ∧
    Completes (.portIsolate (.core site n)) s (fun t => t.regF (Reg.MESH_ISO site.val) n.val n.val = 1) ∧
    Completes (.portIsolate (.guest g)) s (fun t => t.regF Reg.MESH_HUB_ISO (16 + g.val) (16 + g.val) = 1) ∧
    Completes (.portIsolate (.dieStop stop)) s (fun t => t.regF Reg.MESH_HUB_ISO stop.val stop.val = 1) ∧
    Completes (.portIsolate (.rootPort bd)) s (fun t => t.regF Reg.MESH_HUB_ISO (24 + bd.val) (24 + bd.val) = 1) ∧
    (d.regF Reg.CCH_SWEEP 31 31 = 1 → Completes .reclaimSweepDone s fun t => t.regF Reg.CCH_SWEEP 31 31 = 0)

/-- Reels and what fails: an error makes a reel due, a reel starts to the spare chosen, drains, moves its state and resumes,
and is written to flash; a dead agent is declared; an array error retires a row or what is left; a hub unit's error and a bad
image hash enter SAFE (16 R502 to R512, R519, 11 R364). -/
def Obligations.ReelsComplete : Prop :=
  ∀ (l : Fin 384) (ply retire : Bool) (q l0 cause : Nat) (lost : ReelLoss) (r : Reel) (a : AgentId) (e : ArrayError) (hub : HubUnit) (s : State),
    let d := s.dev
    let p := d.spindle l.val
    let dead := d.deadAgents.getLsbD (p / 28) || mget false d.coh.deadSpindles p
    let at_ (t : Dev) : Option Reel := mget none t.rel.reels l.val
    (d.inService l.val = true → (d.core l.val).wait = .none →
      Leaves (.coreErrorDetect l ply) s ((if ply then d.count (Reg.PLY_SK_CHECK ((d.skeinOf l.val).getD 0)) else d).reelDue l.val 1 true)) ∧
    ((d.rel.due.find? fun (x : Nat × Nat × Bool) => x.1 == l.val) = some (l0, cause, retire) → d.safe = false → d.rel.reels = [] →
      (d.port l.val).st ≠ .fencing → d.chooseSpare l.val = some q →
      Completes (.reelStart l) s fun t => at_ t = some ⟨p, q, cause, retire, if dead then 5 else 3, ⟨0#8, dead⟩⟩) ∧
    (at_ d = some r →
      (r.step = 3 → ((d.drain l.val).core l.val).allPerformed = true → Completes (.reelDrainDone l) s fun t => at_ t = some { r with step := 5 }) ∧
      (r.step = 5 → Completes (.reelStateMove l lost) s fun t => at_ t = some { r with step := 6, lost := ⟨lost.mask, lost.fatal || r.lost.fatal⟩ }) ∧
      (r.step = 6 → Leaves (.reelResume l) s (d.reelEnd l.val r))) ∧
    (d.rel.dirty = true → Completes .reelStateWrite s fun t => t.dst.flashReel = d.rel.standIn ∧ t.dst.flashRetired = d.rel.retired ∧ t.rel.dirty = false) ∧
    (d.deadAgents.getLsbD a.val = false → Leaves (.deadAgentDeclare a) s (if a.val < 16 then d.dieDead a.val else d.agentDead a.val)) ∧
    (mget 0 d.rel.rows (arrayKey e.unit) < (arrayRows e.unit).1 → e.line = none ∨ e.corrected = true → Leaves (.arrayEccError e) s (d.retireRow e)) ∧
    (d.safe = false → Completes (.hubUnitError hub) s (fun t => t.safe = true ∧ t.boot.safeBy = some .spares) ∧
      Completes (.imageHashCheck false) s (fun t => t.safe = true ∧ t.boot.safeBy = some .image)) ∧
    Leaves (.imageHashCheck true) s d

/-- Die links: training ends with every link up, degraded where a module is retired, or dead; a corrected flit of a module
that is up is counted, shown, and makes its lane due; a due lane is repaired, and an uncorrectable flit declares the die dead
(12 R391 to R394). Guest ports: each command of Distaff in a state that admits it has its effect and ends with OK, and
DISCOVER in ACTIVE is answered STATE and counted; discovery times out to ERROR, a link that fails leaves the port in ERROR
and isolated and its guest dead, and credits add to those of an ACTIVE port (12 R396, R397). -/
def Obligations.DieLinksAndGuestPorts : Prop :=
  (∀ (die : Fin 16) (hub : Bool) (module : Fin 2) (lane : Fin 70) (x : Bool × Nat × Nat × Nat) (trains : List LinkTrain) (s : State),
    let d := s.dev
    let i := die.val
    (d.boot.kind ≠ 0 → d.boot.links = false → d.safe = false → 
      Completes (.dieLinkTraining trains) s (fun t => t.boot.links = true) ∧
      Completes (.dieLinkTraining []) s fun t => t.regF (linkReg true i) 1 0 =
        if d.deadAgents.getLsbD i then 3 else if d.modulesUp i = 3 then 1 else 2) ∧
    ((d.regF (linkReg true i) 17 16).testBit module.val = true → d.lanesUsed hub i module.val < 4 → d.links.laneDue = [] →
      Completes (.flitCorrected die hub module lane) s fun t => t.reg (corrReg hub i) = satInc (d.reg (corrReg hub i)) ∧
        t.reg (lastReg hub i) = BitVec.ofNat 32 (2 ^ 31 + module.val * 256 + lane.val) ∧ t.links.laneDue = [(hub, i, module.val, lane.val)]) ∧
    ((d.links.laneDue.find? fun (y : Bool × Nat × Nat × Nat) => y.1 == hub && y.2.1 == i && y.2.2.1 == module.val) = some x →
      Leaves (.laneRepair die hub module) s
        (({ d with links := { d.links with laneDue := d.links.laneDue.erase x } }).laneRepair hub i module.val x.2.2.2)) ∧
    Leaves (.flitUncorrectable die) s (d.dieDead i)) ∧
  (∀ (port : Fin 2) (id : BitVec 64) (rate modules : Nat) (x64 : Bool) (counts : List Nat) (s : State),
    let d := s.dev
    let g := port.val
    let result (t : Dev) : Nat := t.regF (Reg.D2D_GST_STATUS g) 31 24
    (d.safe = false →
      (d.gstState g = 0 ∨ d.gstState g = 5 → Completes (.discover .distaff port (.identity id)) s fun t =>
        t.gstState g = 2 ∧ result t = 0 ∧ t.reg64 (Reg.D2D_GST_ID_LO g) = id.toNat) ∧
      (d.gstState g = 4 → Completes (.discover .distaff port (.identity id)) s fun t =>
        t.gstState g = 4 ∧ result t = Status.state.code ∧ t.reg (Reg.D2D_GST_STATE_REJECT g) = satInc (d.reg (Reg.D2D_GST_STATE_REJECT g))) ∧
      (d.gstState g = 2 → d.guestAdmitted g = true → Completes (.guestAdmit .distaff port (.trained rate modules x64)) s fun t =>
        t.gstState g = 4 ∧ result t = 0 ∧ t.regF (Reg.D2D_GST_STATUS g) 23 16 = rate % 256) ∧
      (d.gstState g = 4 ∨ d.gstState g = 5 → Completes (.gstRetrain .distaff port (.trained rate modules x64)) s fun t =>
        t.gstState g = 4 ∧ result t = 0) ∧
      (d.gstState g = 2 ∨ d.gstState g = 4 ∨ d.gstState g = 5 → Completes (.gstDisable .distaff port .silent) s fun t =>
        t.gstState g = 0 ∧ result t = 0 ∧ t.regF (Reg.D2D_GST_STATUS g) 23 16 = 0) ∧
      (d.gstState g = 1 → d.boot.kind = 0 → Completes (.guestDiscoverTimeout port) s fun t =>
        t.gstState g = 5 ∧ result t = Status.timeout.code) ∧
      (d.gstState g = 3 ∨ d.gstState g = 4 → d.deadAgents.getLsbD (18 + g) = true → Completes (.guestLinkFail port) s fun t =>
        t.gstState g = 5 ∧ t.regF Reg.MESH_HUB_ISO (16 + g) (16 + g) = 1) ∧
      (d.gstState g = 3 ∨ d.gstState g = 4 → d.deadAgents.getLsbD (18 + g) = false → Leaves (.guestLinkFail port) s
        ((((d.gstWidth g 0 0 false).gstSet g 5 none).isolate (.guest port)).agentDead (18 + g)))) ∧
    (d.gstState g = 4 → Completes (.creditPacket port counts) s fun t => ∀ i, i < 4 →
      (mget [] t.links.credit g).getD i 0 = (mget [] d.links.credit g).getD i 0 + counts.getD i 0 % 256))

/-- A memory controller. In RUN the scrubber moves to the next line and shows its progress; a reported row is repaired by
sPPR, or deferred where its bank group has no resource left; a refreshed rank's time is kept and a neighbour refresh counted;
APPLY is pending until its windows, and in a subchannel's window its ranks are refreshed and NEXT goes live; CHECK answers
OK. A DIMM is fast above 85 °C. At a start the rows held by sPPR and the deferred ones are repaired by hPPR. A drift check is
skipped once where SHED asks for it, and otherwise ends with APPLY pending (13 R412 to R423, R427). The training of DRAM:
with every channel trained, or after a Thaw with the delays it kept, the channels go into service; where none can be trained
each is put in the audit log and the device enters SAFE (13 R421, 17 R546). -/
def Obligations.MemoryControllersAndTraining : Prop :=
  (∀ (mc : Fin 16) (row : RowAddr) (sub : Fin 2) (rank : Fin 4) (dimm : Fin 2) (temp : Int) (e : RowAddr × Nat × Nat) (decode : EccOutcome) (at_ : Nat) (drifts : List DriftSample) (s : State),
    let d := s.dev
    let m := mc.val
    let line := (d.ch m).scrub % d.chLines m
    let result (t : Dev) : Nat := t.regF (Reg.MC_STATUS m) 31 24
    let pending (t : Dev) : Nat := t.regF (Reg.MC_TRAIN_STATUS m) 0 0
    (d.mcState m = 2 →
      (d.chLines m ≠ 0 → Completes (.scrubRead mc decode) s fun t =>
        (t.ch m).scrub = (line + 1) % d.chLines m ∧ t.regF (Reg.MC_SCRUB m) 7 0 = (line + 1) % d.chLines m * 256 / d.chLines m) ∧
      ((d.ch m).ce.find? (fun (e : RowAddr × Nat × Nat) => e.1 == row) = some e → d.marked m row ≠ row.dev.val →
        (d.ch m).soft.contains row = false → (d.ch m).deferred.contains row = false →
        let rest (c : DramCh) := c.ce.filter fun (e : RowAddr × Nat × Nat) => e.1 != row
        let pa := ((d.paOf m e.2.2).getD 0) / 64 * 64
        (((d.ch m).soft.filter (sameGroup row)).length < (d.ch m).softRes →
          Leaves (.spprRepair mc row) s ((((d.updCh m fun c => { c with ce := rest c, soft := c.soft ++ [row] }).pprAdd m 24).useBudget 8 1).record
            ⟨0x0A, false, .none, 0x10, none, m, (rowLastLo row 0).toNat, pa, d.skeinsOfMc m⟩)) ∧
        ((d.ch m).softRes ≤ ((d.ch m).soft.filter (sameGroup row)).length →
          Leaves (.spprRepair mc row) s (((d.updCh m fun c => { c with ce := rest c, deferred := c.deferred ++ [row] }).pprAdd m 8).record
            ⟨0x0B, false, .fbAtNotice, 0x10, none, m, (rowLastLo row 0).toNat, pa, d.skeinsOfMc m⟩))) ∧
      Completes (.refreshRank mc sub rank) s (fun t => mget 0 (t.ch m).refreshed (sub.val * 4 + rank.val) = d.now) ∧
      Completes (.neighbourRefresh mc row) s (fun t => t.reg (Reg.MC_NREF_COUNT m) = satInc (d.reg (Reg.MC_NREF_COUNT m))) ∧
      (pending d = 1 → mget false (d.ch m).applied sub.val = false → Completes (.applyWindow mc sub) s fun t =>
        (∀ k, k < 4 → mget 0 (t.ch m).refreshed (sub.val * 4 + k) = d.now) ∧
        (at_ ∈ d.delayRegs m → delaySub (at_ - Reg.MC_ID m) = sub.val → t.reg at_ = delayLive (at_ - Reg.MC_ID m) (d.reg at_))) ∧
      (pending d = 0 → d.safe = false →
        Completes (.mcApply .distaff mc) s (fun t => pending t = 1 ∧ (t.ch m).applied = [] ∧ (t.ch m).ref = (d.ch m).ref) ∧
        Completes (.mcCheck .distaff mc) s (fun t => result t = 0 ∧ t.mcState m = 2 ∧ t.dram = d.dram))) ∧
    Completes (.spdTemperatureSample mc dimm temp) s (fun t => mget false (t.ch m).fast dimm.val = decide (85 < temp)) ∧
    (d.boot.kind ≠ 0 → d.boot.image = false → d.safe = false →
      Leaves (.hpprRepair mc) s (((d.ch m).soft ++ (d.ch m).deferred).foldl (fun d r => d.hardRepair m r)
        (((d.setRegF (Reg.MC_PPR m) 31 16 0).setRegF (Reg.MC_PPR m) 15 8 0).updCh m fun c => { c with soft := [], deferred := [] })) ∧
      ((d.ch m).soft ++ (d.ch m).deferred = [row] → mget 0 (d.ch m).hardUsed (hardKey row) < (d.ch m).hardRes →
        Completes (.hpprRepair mc) s fun t => t.regF (Reg.MC_PPR m) 23 16 = 1 ∧ (t.ch m).soft = [] ∧ (t.ch m).deferred = [] ∧
          mget 0 (t.ch m).hardUsed (hardKey row) = mget 0 (d.ch m).hardUsed (hardKey row) + 1)) ∧
    (4 ≤ d.shed → (d.ch m).shed = false → Completes (.driftCheck mc drifts) s fun t => (t.ch m).shed = true ∧ t.regs = d.regs) ∧
    (d.shed < 4 ∨ (d.ch m).shed = true → d.mcState m = 2 → pending d = 0 → d.safe = false →
      Leaves (.driftCheck mc drifts) s (d.driftDone m drifts) ∧
      Completes (.driftCheck mc []) s fun t => result t = 0 ∧ pending t = 1 ∧ (t.ch m).shed = false)) ∧
  (∀ (results : List DramTrain) (s : State),
    let d := s.dev
    let ok (m : Nat) : Option DramTrain := results.find? fun r => r.mc.val == m && r.ok
    d.boot.dram = false → d.safe = false →
    (d.boot.kind = 3 → d.boot.image = true → Completes (.dramTraining results) s (fun t => t.boot.dram = true) ∧
      ((∀ m, m < 16 → (d.port (384 + m)).held = []) → d.links.waitHome = [] → Completes (.dramTraining results) s fun t =>
        ∀ m, m < 16 → (t.domOf (384 + m)).st = .run ∧ (t.port (384 + m)).st = .opened)) ∧
    (d.boot.kind = 1 ∨ d.boot.kind = 2 →
    ((∀ m, m < 16 → (ok m).isSome) →
      Completes (.dramTraining results) s (fun t => t.boot.dram = true) ∧
      ((∀ m, m < 16 → (d.port (384 + m)).held = []) → d.links.waitHome = [] → Completes (.dramTraining results) s fun t =>
        ∀ m, m < 16 → (t.domOf (384 + m)).st = .run ∧ (t.port (384 + m)).st = .opened)) ∧
    ((∀ r ∈ results, r.ok = false) → Leaves (.dramTraining results) s
      (((List.range 16).foldl (fun d m => d.audit 2 5 0xFF 0 0xFF 0 0 (leBytes 1 m)) d).enterSafe .boot))))

/-- The link of a bundle: it trains, a root port is armed again and trained again, an error is signalled, resets and the
PERST# of an endpoint, a link that goes down and a controller that is retired (14 R434, R439, R457, R459, 16 R512). -/
def Obligations.BundleLinksComplete : Prop :=
  ∀ (bd : Fin 8) (speed : Fin 7) (width : Fin 17) (q : Requester) (s : State),
    let d := s.dev
    let b := bd.val
    let result (t : Dev) : Nat := t.regF (Reg.PCE_STATUS b) 31 24
    let e1 := (d.updBun b fun x => { x with retired := true })
    let e2 := (((e1.linkGone b).isolate (.rootPort bd)).setPceState b 2).pceSignal bd
    let tell (e : Dev) : Dev := e.record ⟨0x13, true, .ffAtNotice, 0x10, none, b, 0, 0, e.skeinsOfBundle b⟩
    (d.mayTrain b = true → Completes (.pcieLinkUp bd speed width) s fun t => (t.bun b).l0 = true ∧
      t.regF (Reg.PCE_STATUS b) 19 16 = speed.val ∧ t.regF (Reg.PCE_STATUS b) 12 8 = width.val ∧
      t.pceState b = if d.bundleMode b = 1 ∧ d.pceState b = 0 then 1 else d.pceState b) ∧
    (d.pceWrites q b = true →
      Completes (.rearm q bd) s (fun t => result t = (d.pceVerdict b 1).code ∧
        (d.pceVerdict b 1 = .ok → t.pceState b = 1 ∧ t.regF Reg.MESH_HUB_ISO (24 + b) (24 + b) = 0)) ∧
      Completes (.pceRetrain q bd) s (fun t => result t = (d.pceVerdict b 2).code ∧ t.pceState b = d.pceState b)) ∧
    (d.bundleMode b = 1 → d.safe = false → Leaves (.rootErrorStatusSet bd) s (d.pceSignal bd)) ∧
    (d.bundleMode b = 2 →
      Leaves (.hotReset bd) s (d.bundleReset b) ∧
      ((d.bun b).perst = false → Leaves (.pePerstNAssert bd) s ((d.updBun b fun x => { x with perst := true }).bundleReset b)) ∧
      Completes (.pePerstNDeassert bd) s (fun t => (t.bun b).perst = false ∧ (t.bun b).wakeLow = false ∧ t.fns = d.fns) ∧
      ((d.bun b).l0 = true → Leaves (.pcieLinkDown bd) s (d.bundleReset b)) ∧
      ((d.bun b).retired = false → Leaves (.bundleRetire bd) s (tell (e1.bundleReset b)))) ∧
    (d.bundleMode b = 1 →
      ((d.bun b).l0 = true → d.pceState b = 1 →
        Leaves (.pcieLinkDown bd) s ((((d.linkGone b).setPceState b 2).isolate (.rootPort bd)).pceSignal bd)) ∧
      ((d.bun b).l0 = true → d.pceState b ≠ 1 → Completes (.pcieLinkDown bd) s fun t => (t.bun b).l0 = false ∧ t.pceState b = d.pceState b) ∧
      ((d.bun b).retired = false → d.pceState b < 2 → Leaves (.bundleRetire bd) s (tell e2)))

/-- Functions: a function-level reset begins and ends, VFs are enabled and disabled, and the manager creates a VF with the
resources of its arguments, destroys it and shows it (14 R447 to R451, R458). -/
def Obligations.FunctionsComplete : Prop :=
  ∀ (bd : Fin 8) (fn : Fin 1025) (num : BitVec 16) (s : State),
    let d := s.dev
    let b := bd.val
    let k := fnKey b fn.val
    let pf := fnKey b 0
    let v := field (d.mgr b 0) 25 16
    let kv := fnKey b (v + 1)
    let d1 := d.updBun b fun x => { x with lastVf := some v }
    (d.fnPresent k = true → (d.fn k).flr = false →
      Leaves (.initiateFunctionLevelReset bd fn) s (if fn.val = 0 then d.pfReset b else d.flrStart k)) ∧
    ((d.fn k).flr = true → (∀ e ∈ d.bq.ctx, e.2.flush = true → d.flrCovers k e.1 e.2 = false) → Leaves (.flrComplete bd fn) s (d.flrEnd k)) ∧
    (d.fnPresent pf = true → (d.fn pf).flr = false →
      ((d.bun b).vfEnable = false → num ≠ 0#16 → num.toNat ≤ d.totalVfs b → Completes (.vfEnableSet bd num) s fun t =>
        (t.bun b).vfEnable = true ∧ (t.bun b).numVfs = num.toNat ∧ ∀ i, i < num.toNat → (t.fn (fnKey b (i + 1))).vst ≠ .absent) ∧
      ((d.bun b).vfEnable = true → Leaves (.vfEnableClear bd) s (d.vfDisable b))) ∧
    (d.barOpen pf = true → d.safe = false → (d.bun b).busyOp = none →
      ((d.fn kv).vst = .empty → d1.createFails kv b = none → Completes (.vfmCreate bd) s fun t => (t.fn kv).vst = .ready ∧
        (t.fn kv).nch = field (d.mgr b 0) 11 8 ∧ (t.fn kv).nvec = field (d.mgr b 0xC) 27 16 ∧ (t.fn kv).qfirst = field (d.mgr b 4) 20 0 ∧
        (t.fn kv).qcount = field (d.mgr b 8) 20 0 ∧ (t.fn kv).slots = field (d.mgr b 0xC) 10 0 ∧ field (t.mgr b 0x14) 31 24 = 0) ∧
      ((d.fn kv).vst = .ready → Leaves (.vfmDestroy bd) s
        (((d1.updBun b fun x => { x with busyOp := some (2, kv % 2048 - 1) }).setMgrF b 0x14 8 8 1).vfDestroy kv)) ∧
      Completes (.vfmQuery bd) s (fun t => field (t.mgr b 0) 11 8 = (d.fn kv).nch % 16 ∧ field (t.mgr b 4) 20 0 = (d.fn kv).qfirst % 2 ^ 21 ∧
        field (t.mgr b 8) 20 0 = (d.fn kv).qcount % 2 ^ 21 ∧ field (t.mgr b 0x14) 31 24 = 0 ∧ t.fns = d.fns))

/-- What the host sets in a function: a vector's mask, Function Mask, Bus Master Enable and the power state; and the wake of
an endpoint whose drains have items (14 R453 to R456). Mailboxes and the dirty log: a message whose first byte has bit 7 set
goes to the device, which answers it; one to the other side is sent; a side acknowledges what it holds, and the other is told
where its buffer was taken; a swap of the bitmaps is BUSY until it is done (14 R461 to R464). -/
def Obligations.FunctionControlAndMailboxes : Prop :=
  (∀ (bd : Fin 8) (fn : Fin 1025) (vec : Nat) (s : State),
    let d := s.dev
    let b := bd.val
    let k := fnKey b fn.val
    let pf := fnKey b 0
    let x := d.bun b
    (d.fnPresent k = true → (d.fn k).flr = false →
      Leaves (.msixUnmask bd fn 2048) s ((d.updFn k fun f => { f with fmask := false }).msixSweep k) ∧
      Completes (.busMasterEnableClear bd fn) s (fun t => t.fn k = { d.fn k with bme := false }) ∧
      Leaves (.busMasterEnableSet bd fn) s (((d.updFn k fun f => { f with bme := true }).fnRelease k).pumpAll)) ∧
    (d.barOpen k = true → d.safe = false → vec < (d.fn k).nvec → vec ≠ 2048 → Leaves (.msixUnmask bd fn vec) s
      ((d.updFn k fun f => { f with table := mupd MsixEntry.reset f.table vec fun e => { e with masked := false } }).msixFlush k vec)) ∧
    (d.fnPresent pf = true → (d.fn pf).flr = false →
      Completes (.powerstateD3hot bd) s (fun t => t.bun b = { x with d3hot := true } ∧ t.fns = d.fns) ∧
      Leaves (.powerstateD0 bd) s
        ((((d.fns.map fun (e : Nat × Fn) => e.1).filter fun j => j / 2048 == b).foldl (fun d j => d.fnRelease j)
          (d.updBun b fun x => { x with d3hot := false })).pumpAll)) ∧
    (d.bundleMode b = 2 → d.safe = false → x.pmeEn = true → x.d3hot = true ∨ x.perst = true → d.drainWaits b = true →
      Completes (.pmeWake bd) s fun t => t.bun b = { x with pmeStatus := true, wakeLow := x.wakeLow || x.perst } ∧
        t.out = d.out ++ if x.d3hot then [.pcieMsg b 0] else [])) ∧
  (∀ (bd : Fin 8) (fn : Fin 1025) (w : Reg32) (rest : List Reg32) (s : State),
    let d := s.dev
    let b := bd.val
    let k := fnKey b fn.val
    let pf := fnKey b 0
    let kv := fnKey b (field (d.mgr b 0x1C) 9 0 + 1)
    let result (t : Dev) (k off : Nat) : Nat := field (t.bar k off) 31 24
    (d.mbxOpen k = true →
      (bit (d.bar k 0x8080) 2 = false →
        (bit (d.bar k 0x8000) 7 = true → Completes (.fnMbxSend bd fn) s fun t =>
          (t.fn k).toDev = d.words16 k 0x8000 ∧ bit (t.bar k 0x8080) 2 = true ∧ result t k 0x8080 = 0) ∧
        (bit (d.bar k 0x8000) 7 = false → Leaves (.fnMbxSend bd fn) s
          ((((((d.setBarF k 0x8080 2 2 1).setBarF k 0x8080 31 24 0).putWords k 0x9400 (d.words16 k 0x8000)).setBarF k 0x9480 3 3 1)).mbxSignal k true))) ∧
      (bit (d.bar k 0x8080) 3 = true → bit (d.bar k 0x9480) 2 = false → Completes (.fnMbxAck bd fn) s fun t =>
        bit (t.bar k 0x8080) 3 = false ∧ result t k 0x8080 = 0 ∧ t.fns = d.fns) ∧
      (bit (d.bar k 0x8080) 3 = true → bit (d.bar k 0x9480) 2 = true → Leaves (.fnMbxAck bd fn) s
        ((((d.setBarF k 0x8080 3 3 0).setBarF k 0x8080 31 24 0).setBarF k 0x9480 2 2 0).mbxSignal k true))) ∧
    (d.barOpen pf = true → d.safe = false → (d.fn kv).vst = .ready → (d.fn kv).flr = false →
      (bit (d.bar kv 0x9480) 2 = false → Leaves (.vfmMbxSend bd) s
        ((((((d.setBarF kv 0x9480 2 2 1).setBarF kv 0x9480 31 24 0).putWords kv 0x8040 (d.words16 kv 0x9440)).setBarF kv 0x8080 3 3 1)).mbxSignal kv false)) ∧
      (bit (d.bar kv 0x9480) 3 = true → bit (d.bar kv 0x8080) 2 = false → Completes (.vfmMbxAck bd) s fun t =>
        bit (t.bar kv 0x9480) 3 = false ∧ result t kv 0x9480 = 0 ∧ t.fns = d.fns) ∧
      (bit (d.bar kv 0x9480) 3 = true → bit (d.bar kv 0x8080) 2 = true → Leaves (.vfmMbxAck bd) s
        ((((d.setBarF kv 0x9480 3 3 0).setBarF kv 0x9480 31 24 0).setBarF kv 0x8080 2 2 0).mbxSignal kv false))) ∧
    ((d.fn k).toDev = w :: rest → bit (d.bar k 0x8080) 3 = false → d.safe = false → Leaves (.deviceMailboxAnswer bd fn) s (d.devReply k w)) ∧
    (fn.val ≠ 0 → d.barOpen pf = true → d.safe = false → bit (d.bar k 0x9520) 8 = false → bit (d.bar k 0x951C) 31 = true →
      Completes (.dlogSwap bd fn) s fun t => bit (t.bar k 0x9520) 8 = true ∧ bit (t.bar k 0x9520) 0 = bit (d.bar k 0x9520) 0) ∧
    (bit (d.bar k 0x9520) 8 = true → d.fnOpen pf = true → Completes (.dlogSwapDone bd fn) s fun t =>
      bit (t.bar k 0x9520) 8 = false ∧ bit (t.bar k 0x9520) 0 = !bit (d.bar k 0x9520) 0 ∧ result t k 0x9520 = 0))

/-- Distaff's answers to the commands that read: each one that its checks admit ends with OK and its result (18 R574, R582,
16 R524, 18 R584). -/
def Obligations.DistaffReadsComplete : Prop :=
  ∀ (who : Caller) (l : Fin 384) (aseq : BitVec 64) (s : State),
    let d := s.dev
    let u := d.sessionUsed who
    let ok (i : Instr) (c : Cmd) (may : Option Session → Bool) (arg : List Byte) (e : Dev) (data : List Byte) : Prop :=
      d.takes who c.code = true → d.cmdFails who c true may = none → d.shed < 4 → Leaves i s (e.answerTo who 1 c.code .ok none arg data)
    ok (.statusCmd who) (openCmd 1) anyRole [] (u.freeBytes 4).1 (leBytes 4 (u.reg Reg.DST_STATUS).toNat ++ (u.freeBytes 4).2) ∧
    ok (.timeCmd who) (openCmd 2) anyRole [] u (leBytes 8 d.now) ∧
    ok (.identityCmd who) ⟨3, true, false, false, true, true⟩ anyRole [] (u.freeBytes 32).1
      (leBytes 8 d.dst.serial ++ ((List.range 18).flatMap fun i => leBytes 2 0x0100 ++ leBytes 8 (mget 0 d.dst.dieSerial i)) ++ (u.freeBytes 32).2) ∧
    (let log := d.dst.flash ++ d.dst.ring
      let before := log.takeWhile fun r => decide (r.aseq < aseq.toNat)
      let rs := (log.drop before.length).take 16
      (∀ r t, rs = r :: t → before = [] → chained r.bytes t = true) → (∀ p, before.getLast? = some p → chained p.bytes rs = true) →
      ok (.logRead who aseq) ⟨0x10, false, false, false, false, true⟩ (right 2) (leBytes 8 aseq.toNat) u (rs.flatMap AuditRec.bytes)) ∧
    ok (.rlQuery who) ⟨0x30, false, false, false, false, true⟩ anyRole [] u
      ((if callerLine who = 0 then (List.range 384).flatMap fun l => leBytes 2 (d.spindle l) else []) ++
        (List.range 13).flatMap fun k => leBytes 4 (d.reg (Reg.RL_BUDGET_TOTAL k)).toNat ++ leBytes 4 (d.reg (Reg.RL_BUDGET_USED k)).toNat) ∧
    (u.dbgThere l.val = true → ok (.dbgSample who l) ⟨0x65, false, false, false, false, false⟩ (fun s => installer s && d.nonInvasive l.val (d.core l.val).level) (leBytes 2 l.val ++ []) u
      (leBytes 8 (d.core l.val).pc.toNat ++ leBytes 8 (d.core l.val).pmu.fix0.toNat ++ leBytes 8 (d.core l.val).pmu.fix1.toNat ++
        (List.range 6).flatMap fun i => leBytes 8 (mget 0#64 (d.core l.val).pmu.cnt i).toNat))

/-- Sessions and transports: a challenge is given for a credential that is there and not locked, and answered with a right
tag opens a session and closes the caller's earlier ones; it ends by LOGOUT or at 900 s; a lock ends; the line's rate changes
and goes back; an address is assigned, a doorbell is taken, and the level of shedding follows the measure (18 R569 to R583). -/
def Obligations.SessionsComplete : Prop :=
  ∀ (who : Caller) (role : Fin 8) (index id cred rate used : Nat) (ch : Challenge) (e : RoleEntry) (x : Session) (addr : BitVec 7) (q : Requester) (sk : Fin 16) (v : BitVec 32) (s : State),
    let d := s.dev
    let u := d.sessionUsed who
    let line := callerLine who
    let admits (c : Cmd) : Prop := d.takes who c.code = true ∧ d.cmdFails who c true anyRole = none ∧ d.shed < 4
    (admits (openCmd 4) → d.credential role.val index = some e → (d.cred (d.credKey role.val index)).lockedUntil ≤ d.now →
      Leaves (.authBegin who role index) s (((u.freeBytes 4).1.updDst fun x =>
        { x with challenges := x.challenges.filter (fun y => y.line != line) ++ [⟨line, role.val, index, d.now⟩] }).answerTo
          who 6 4 .ok (some (role.val, index)) (leBytes 1 role.val ++ leBytes 1 index) (u.freeBytes 4).2)) ∧
    (admits (openCmd 5) → (d.dst.challenges.find? fun c => c.line == line) = some ch → d.credential ch.role ch.index = some e → d.now ≤ ch.since + 30000000000 →
      let ended := (u.updDst fun x => { x with challenges := x.challenges.filter fun c => c.line != line }).endSession
        fun s => (s.role == ch.role && s.index == ch.index && s.recovery == d.img.img.isNone) || s.line == line
      let t := ended.updDst fun x => { x with nextSession := x.nextSession + 1, sessions := x.sessions ++ [⟨d.dst.nextSession, line, ch.role, ch.index, e.rights, d.img.img.isNone, 0, d.now⟩], creds := mset ⟨0, 0⟩ x.creds (d.credKey ch.role ch.index) ⟨0, 0⟩ }
      (ended.dst.sessions.filter fun s => decide (1 ≤ s.line) && decide (s.line ≤ 256)).length < 7 →
      Leaves (.authFinish who true) s ((t.freeBytes 4).1.answerTo who 6 5 .ok (some (ch.role, ch.index)) (leBytes 1 ch.role ++ leBytes 1 ch.index) (t.freeBytes 4).2)) ∧
    (admits ⟨6, false, false, true, true, true⟩ →
      Leaves (.logout who) s ((u.endSession fun s => s.line == line).answerTo who 1 6 .ok ((d.sessionOf who).map fun s => (s.role, s.index)) [] [])) ∧
    ((d.dst.sessions.find? fun s => s.id == id) = some x → Completes (.sessionIdleTimeout id) s fun t =>
      (∀ y ∈ t.dst.sessions, y.id ≠ id) ∧ x.lastUse + 900000000000 ≤ t.now) ∧
    ((d.cred cred).lockedUntil ≠ 0 → Completes (.credentialUnlock cred) s fun t => (t.cred cred).lockedUntil = 0 ∧ (d.cred cred).lockedUntil ≤ t.now) ∧
    (admits (openCmd 0x70) → line = 0 → baudOk rate = true →
      Leaves (.baudSet who rate) s ((u.updDst fun x => { x with baud := rate }).answerTo who 1 0x70 .ok none (leBytes 4 rate) [])) ∧
    Completes .almanacBreak s (fun t => t.dst.baud = 115200 ∧ ∀ y ∈ t.dst.sessions, y.line ≠ 0) ∧
    Completes .baudRevert s (fun t => t.dst = { d.dst with baud := 115200 }) ∧
    (d.distaffUp = true → Completes (.entdaa addr) s fun t => t.dst = { d.dst with i3c := some addr.toNat }) ∧
    (q = .distaff ∨ (∃ l, q = .core l ∧ (d.core l.val).level.priv = true ∧ d.skeinOf l.val = some sk.val) → d.regF (Reg.DST_MBX_CTL sk.val) 17 16 ≠ 1 →
      (8 ≤ field v 8 0 → field v 8 0 ≤ 256 → Completes (.dstMbxDoorbell q sk v) s fun t => t.regF (Reg.DST_MBX_CTL sk.val) 17 16 = 1) ∧
      (field v 8 0 < 8 ∨ 256 < field v 8 0 → Completes (.dstMbxDoorbell q sk v) s fun t =>
        t.regF (Reg.DST_MBX_CTL sk.val) 31 24 = Status.range.code ∧ t.regF (Reg.DST_MBX_CTL sk.val) 17 16 = d.regF (Reg.DST_MBX_CTL sk.val) 17 16)) ∧
    (∀ t0, used < 50 → d.dst.calmSince = some t0 → t0 + 1000000000 ≤ d.now + 100000000 → Leaves (.shedMeasure used) s
      ((({ d with now := d.now + 100000000 }).updDst fun x => { x with calmSince := some (d.now + 100000000) }).setShed (d.shed - 1))) ∧
    (used < 50 → d.dst.calmSince = none → Completes (.shedMeasure used) s fun t => t.dst.calmSince = some (d.now + 100000000) ∧ t.shed = d.shed) ∧
    (50 ≤ used → used ≤ 70 → Completes (.shedMeasure used) s fun t => t.dst.calmSince = none ∧ t.shed = d.shed ∧ t.now = d.now + 100000000) ∧
    (70 < used → Leaves (.shedMeasure used) s ((({ d with now := d.now + 100000000 }).updDst fun x => { x with calmSince := none }).setShed (min 4 (d.shed + 1))))

/-- Transfers, fuses, firmware, the log, reels and debug: each command that its checks admit has its effect and ends with OK;
a reel is answered when it has ended, and RL_SAFE enters SAFE (18 R573, R574, R584, 16 R524). -/
def Obligations.DistaffWritesComplete : Prop :=
  ∀ (who : Caller) (l : Fin 384) (kind length offset slot version reg : Nat) (bytes : List (BitVec 8)) (raise : Bool) (t0 : Transfer) (i0 : Image) (c0 : Core) (s : State),
    let d := s.dev
    let u := d.sessionUsed who
    let admits (c : Cmd) (may : Option Session → Bool) : Prop := d.takes who c.code = true ∧ d.cmdFails who c true may = none ∧ d.shed < 4
    let can (c : Cmd) (may : Option Session → Bool) (i : Instr) (arg : List Byte) (e : Dev) : Prop :=
      admits c may → Leaves i s (e.answerTo who 1 c.code .ok none arg [])
    let key := mget FuseSlot.blank d.dst.slots slot
    let invasive (s : Option Session) : Bool := installer s && d.invasive l.val (d.core l.val).level.secure
    let open_ (x : Dev) : Dev := x.updDst fun y => { y with transfers := y.transfers.filter (fun z => z.line != callerLine who) ++ [⟨callerLine who, kind, length, []⟩] }
    (kind < 2 → length ≤ 0x10000 → can ⟨7, false, false, true, false, true⟩ anyRole (.xferOpen who kind length) (leBytes 1 kind ++ leBytes 4 length) (open_ u)) ∧
    (kind = 2 → length ≤ 0x400000 → can ⟨7, false, false, true, false, true⟩ anyRole (.xferOpen who kind length) (leBytes 1 kind ++ leBytes 4 length)
      ((open_ u).updDst fun x => { x with fw := mset FwCopy.blank x.fw d.olderFw ⟨false, 0, length, []⟩ })) ∧
    (u.transferOf who = some t0 → bytes.length ≤ 1024 → offset + bytes.length ≤ t0.length →
      (t0.kind ≠ 2 → can ⟨7, false, false, true, false, true⟩ anyRole (.xferData who offset bytes true) (leBytes 4 offset ++ bytes.take 28)
        (u.updDst fun x => { x with transfers := x.transfers.map fun y => if y.line = t0.line then { y with bytes := putBytes y.bytes offset bytes } else y })) ∧
      (t0.kind = 2 → can ⟨7, false, false, true, false, true⟩ anyRole (.xferData who offset bytes true) (leBytes 4 offset ++ bytes.take 28)
        (u.updDst fun x => { x with fw := mupd FwCopy.blank x.fw d.olderFw fun f => { f with bytes := putBytes f.bytes offset bytes } })) ∧
      (t0.kind = 2 → d.dst.fwFloor ≤ version → can ⟨0x50, false, false, true, false, true⟩ installer (.fwStage who true version raise) (leBytes 4 version)
        (u.updDst fun x => { x with fw := mupd FwCopy.blank x.fw d.olderFw fun f => { f with valid := true, version := version }, fwFloor := if raise then max x.fwFloor (min 64 version) else x.fwFloor, transfers := x.transfers.filter fun y => y.line != t0.line }))) ∧
    (slot ≤ 3 → leAt bytes 0 8 = d.dst.serial → key.written = false → key.revoked = false → admits ⟨8, true, false, false, false, false⟩ anyRole →
      Leaves (.enroll who slot bytes true) s ((u.updDst fun x => { x with slots := mset FuseSlot.blank x.slots slot ⟨true, bytesAt bytes 8 48, bytesAt bytes 56 32, false⟩ }).answerTo
        who 1 8 .ok (some (3, slot)) (bytesAt bytes 0 8 ++ leBytes 1 slot) [])) ∧
    (slot ≤ 3 → admits ⟨9, true, false, false, false, false⟩ anyRole →
      Leaves (.revokeSlot who slot true) s ((u.updDst fun x => { x with slots := mupd FuseSlot.blank x.slots slot fun k => { k with revoked := true } }).answerTo
        who 1 9 .ok (some (3, slot)) (leBytes 1 slot) [])) ∧
    (d.img.img = some i0 → can (runCmd 0x24) installer (.floorCmd who) [] (u.updDst fun x => { x with imgFloor := max x.imgFloor (floorFor i0.imgVer) })) ∧
    Completes .auditFlush s (fun t =>
      let all := d.dst.flash ++ d.dst.ring
      t.dst = { d.dst with ring := [], flash := if all.length ≤ 524288 then all else all.drop ((all.length - 524288 + 63) / 64 * 64) }) ∧
    (d.safe = false → d.img.img = some i0 →
      ((d.skeinOf l.val).isSome → mget false d.lost l.val = false → (d.core l.val).released = true → (d.domOf l.val).st = .run → (d.domOf l.val).transit = false →
        mget false d.reeling l.val = false → (u.chooseSpare l.val).isSome →
        let reel (code : Nat) (retire : Bool) : Dev := (u.reelDue l.val 4 retire).updRel fun r => { r with asked := r.asked ++ [(l.val, who, code)] }
        (admits ⟨0x31, false, false, false, false, true⟩ (right 3) → Leaves (.rlReel who l) s (reel 0x31 false)) ∧
        (admits ⟨0x32, false, false, false, false, true⟩ (right 3) → Leaves (.rlRetire who l) s (reel 0x32 true))) ∧
      can ⟨0x33, false, false, false, false, true⟩ installer (.rlSafe who) [] (u.enterSafe .command)) ∧
    (u.dbgThere l.val = true →
      can ⟨0x60, false, false, false, false, false⟩ invasive (.dbgHalt who l) (leBytes 2 l.val ++ [])
        ((if ((u.core l.val).wait.leaves && (u.core l.val).wait != .none && (u.core l.val).wait != .waiti) = true then u.unwait l.val else u).updCore l.val
          fun c => { c with halted := true, stepArmed := false }) ∧
      ((d.core l.val).halted = true →
        can ⟨0x61, false, false, false, false, false⟩ invasive (.dbgStep who l) (leBytes 2 l.val ++ []) (u.updCore l.val fun c => { c with stepArmed := true }) ∧
        can ⟨0x62, false, false, false, false, false⟩ invasive (.dbgResume who l) (leBytes 2 l.val ++ []) (u.updCore l.val fun c => { c with halted := false, stepArmed := false })) ∧
      (d.safe = false → (d.core l.val).dbgPut reg bytes = some c0 →
        can ⟨0x63, false, false, false, false, true⟩ invasive (.dbgReg who l true reg bytes) (leBytes 2 l.val ++ (leBytes 2 reg ++ bytes.take 28)) (u.setCore l.val c0)) ∧
      (∀ bs, u.dbgRead l.val reg = some bs → admits ⟨0x63, false, false, false, false, true⟩ invasive → Leaves (.dbgReg who l false reg bytes) s
        (u.answerTo who 1 0x63 .ok none (leBytes 2 l.val ++ (leBytes 2 reg ++ bytes.take 28)) bs)))

/-- The image unit. IMG_READ answers with the running copy and its journal. IMG_CHECK and IMG_STAGE of an object that was
transferred, with the unit free, begin: stages 1 to 3 give the status, IMG_STAGE's copy is EMPTY meanwhile, and at the tick
that ends the work the copy is written. A delta that passes its checks holds the unit, is written to the journal and switched
to. A start applies a copy or ends in SAFE. At a lockstep mismatch the spare pair of Distaff takes over, and SAFE follows
once it is used (02 R59, R61, R65, R68, R69, R70, 18 R554, R562). That the work ends at a tick is the model's choice, log
entry 4. -/
def Obligations.ImagesComplete : Prop :=
  ∀ (who : Caller) (v va vb : ImgVerdict) (dv : DeltaVerdict) (r b : List Byte) (se : Session) (x : DeltaForm) (p : PendingDelta) (j : ImgJob)
    (k : Bool) (c : ImgCopy) (s : State),
    let d := s.dev
    let u := d.sessionUsed who
    let admits (c : Cmd) (may : Option Session → Bool) : Prop := d.takes who c.code = true ∧ d.cmdFails who c true may = none ∧ d.shed < 4
    let act := d.copy d.img.active
    let y := u.checkObject v r
    (d.img.unit ≠ .none → d.img.unit ≠ .verifying →
      (admits ⟨0x20, false, false, false, false, true⟩ anyRole → Leaves (.imgRead who) s
        ((u.setRegF Reg.IMG_STATUS 31 24 0).answerTo who 1 0x20 .ok none [] (act.bytes ++ act.journal.flatMap fun e => e.bytes))) ∧
      (d.img.job = none → d.img.pending = none →
        (u.objectOf who 0 = some r →
          (admits ⟨0x21, false, false, true, false, true⟩ installer → Completes (.imgCheck who v) s fun t =>
            t.img.job = some ⟨who, 0x21, y.2, none⟩ ∧ t.img.unit = (if y.1.safe then y.1.img.unit else .staging) ∧ t.out = y.1.out) ∧
          (admits ⟨0x22, false, false, true, false, true⟩ installer → Completes (.imgStage who v) s fun t =>
            let copy : ImgCopy := ⟨r, (max d.img.copyA.seq d.img.copyB.seq + 1) % 2 ^ 30, .new, false, []⟩
            t.img.job = some ⟨who, 0x22, y.2, if y.2 = .ok then some (d.stageCopy, copy) else none⟩ ∧
            t.img.unit = (if y.1.safe then y.1.img.unit else .staging) ∧ (y.2 = .ok → (t.copy d.stageCopy).st = .empty))) ∧
        (u.objectOf who 1 = some b → u.sessionOf who = some se → u.deltaFails se dv.auth b = .ok x →
          admits ⟨0x23, false, false, false, false, false⟩ (right 1) → Leaves (.imgDelta who dv) s
            ({ u with img := { u.img with pending := some ⟨b, x.seq, x.issuer, x.index, x.vol, false, x.apply d.img.raw, who, false⟩ } }.setImgUnit .delta)))) ∧
    (d.img.job = some j → d.imgTick.img.job = none ∧ (j.copy = some (k, c) → d.imgTick.copy k = c) ∧ (d.safe = false → d.imgTick.img.unit = .committed)) ∧
    (d.img.pending = some p →
      (p.vol = false → p.committed = false → Completes .deltaJournalWriteDone s fun t =>
        t.img.pending = some { p with committed := true } ∧ t.img.deltaSeq = p.seq ∧
        (t.copy t.img.active).journal = act.journal ++ [⟨p.bytes, p.seq, p.issuer, p.index⟩]) ∧
      (p.vol = true ∨ p.committed = true → Completes .deltaSwitch s fun t => t.img.pending = none ∧ t.img.unit = .committed ∧ t.img.raw = p.after ∧ t.img.img = some (decodeImage p.after))) ∧
    (d.mayApply = true → Completes (.imageApply va vb) s fun t => t.boot.image = true ∨ t.safe = true) ∧
    (d.rel.pairUsed = true → Leaves .lockstepMismatch s (d.enterSafe .distaff)) ∧
    (d.rel.pairUsed = false → Leaves .lockstepMismatch s
      ((((d.updRel fun r => { r with pairUsed := true }).setRegF Reg.DST_STATUS 4 4 0).setRegF Reg.DST_STATUS 3 3 (1 - d.regF Reg.DST_STATUS 3 3)).useBudget 6 1).takeover)

/-- Power of the package: PWROK that rises starts the part, cold or from Thaw; PWROK that falls in package OFF or Thaw
changes that line alone, and else empties memory and the cores. A package OFF that every check admits is entered, at
Distaff's own request or at PWR_REQUEST, whose answer goes out first; PWR_REQUEST of a domain is answered OK where the power
unit answers OK. A wake starts a Thaw, and the loss of the always-on island ends both. Losses and return of the reference
clocks (17 R544 to R550, 20 R601). -/
def Obligations.PackagePowerComplete : Prop :=
  ∀ (b : BootInputs) (who : Caller) (kind index : Nat) (tgt : BitVec 3) (s : State),
    let d := s.dev
    let u := d.sessionUsed who
    let arg (kind index : Nat) (tgt : BitVec 3) : List Byte := leBytes 1 kind ++ leBytes 2 index ++ leBytes 1 tgt.toNat
    let admits : Prop := d.takes who 0x40 = true ∧ d.cmdFails who (runCmd 0x40) true (right 0) = none ∧ d.shed < 4
    (d.pwr.pwrok = false → Leaves (.pwrokRise b) s (if d.pwr.thaw then d.thawStart b else d.coldStart b)) ∧
    (d.pwr.pwrok = true → (d.pwr.railOff = true ∨ d.pwr.thaw = true → Completes .pwrokFall s fun t => t = { d with pwr := { d.pwr with pwrok := false } }) ∧
      (d.pwr.railOff = false → d.pwr.thaw = false → Completes .pwrokFall s fun t => t.mem = Mem.reset ∧ t.pwr.pwrok = false ∧ t.cores = [])) ∧
    (d.mayRequest .dst 4 0 = true → d.safe = false → d.allOff = true → d.offBusy = false → d.powerAllows 0xFF .off = true →
      Leaves (.pwrReqPackage .distaff 4#3) s d.packageOff) ∧
    (admits → kind = 1 ∨ kind = 2 ∨ kind = 3 → (u.pwrReq .dst kind index tgt.toNat).2 = some .ok →
      let e := (u.pwrReq .dst kind index tgt.toNat).1.answerTo who 1 0x40 .ok none (arg kind index tgt) []
      e.pwr.railOff = false → Leaves (.pwrRequest who kind index tgt) s e) ∧
    (admits → (u.pwrPackage .dst index tgt.toNat).2 = some .ok → d.pwr.railOff = false →
      let e := { u with pwr := { u.pwr with railOff := true } }.answerTo who 1 0x40 .ok none (arg 4 index tgt) []
      e.pwr.railOff = true → Leaves (.pwrRequest who 4 index tgt) s ({ e with pwr := { e.pwr with railOff := false } }.packageOff)) ∧
    (d.pwr.railOff = true → Completes .tkwakeN s fun t => t.pwr.railOff = false ∧ t.pwr.thaw = true ∧ t.now = d.now + 10000) ∧
    (d.pwr.railOff = true ∨ d.pwr.thaw = true → Completes .vaonLoss s fun t =>
      t.pwr.railOff = false ∧ t.pwr.thaw = false ∧ t.pwr.pwrok = false ∧ t.pwr.keepStore = []) ∧
    (d.pwr.ref25Lost = false →
      let e := { d with pwr := { d.pwr with ref25Lost := true } }.setRegF Reg.TB_STATUS 0 0 0
      Leaves .refclk25Loss s (if d.distaffUp then e.audit 2 5 0xFF 0 0xFF 0 0 [] else e)) ∧
    (d.pwr.pwrok = true ∨ d.pwr.railOff = true ∨ d.pwr.thaw = true → Completes .refclk25Restore s fun t => t.pwr.ref25Lost = false ∧ t.regF Reg.TB_STATUS 0 0 = 1) ∧
    (d.distaffUp = true → d.safe = false → Completes .refclk100Loss s fun t => t.safe = true ∧ t.boot.safeBy = some .spares)

/-- Release and reset: a skein whose turn has come is released; a RESET command orders its reset; a SKEIN or CORE reset that
is due is performed once no reel of its skein is left, a PACKAGE reset at once; a secure countdown that expires enters SAFE
and, later, orders a PACKAGE reset; the normal watchdog warns with vector 0xF8 and then orders a SKEIN reset (08 R272, R273,
18 R559 to R565). -/
def Obligations.ResetsComplete : Prop :=
  ∀ (b : BootInputs) (who : Caller) (sk : Fin 16) (l : Fin 384) (c : SkeinCfg) (t0 kind index : Nat) (s : State),
    let d := s.dev
    let u := d.sessionUsed who
    let due (scope k : Nat) : Prop := (scope, k) ∈ d.boot.resets
    let w := d.wd sk.val
    (d.skeinCfg sk.val = some c →
      (d.boot.kind ≠ 0 → d.safe = false → d.boot.links = true → d.boot.dram = true → d.boot.image = true → sk.val ∈ d.boot.toRelease →
        let e0 := d.release c
        let e1 := if c.secure = true ∧ (e0.loaderOf sk.val).isSome = true then
            e0.updWd sk.val fun w => { w with sDeadline := some (e0.now + (match e0.img.img with | some i => i.swdogMs | none => 0) * 1000000) }
          else e0
        let e := { e1 with boot := { e1.boot with toRelease := e1.boot.toRelease.filter fun x => x != sk.val } }
        Leaves (.skeinRelease sk) s (if e.boot.toRelease = [] then e.started else e)) ∧
      (due 1 sk.val → d.reelsDone c = true → d.safe = false → Leaves (.skeinReset sk) s ((d.skeinReset c).resetDone 1 sk.val))) ∧
    (due 0 0 → Leaves (.packageReset b) s (d.packageReset b)) ∧
    (d.cfgOf l.val = some c → due 2 l.val → d.reelsDone c = true → d.safe = false →
      let e := (if (d.core l.val).released then d.dropDelta.coreReset l.val else d.dropDelta).resetDone 2 l.val
      Leaves (.coreReset l) s (if ((e.domOf l.val).st = .run ∧ (e.domOf l.val).transit = false) ∨ mget false e.lost l.val = true then e
        else (e.setDom l.val ⟨.run, false, .run, e.now, false, none⟩).openPort l.val)) ∧
    (d.takes who 0x41 = true → d.cmdFails who ⟨0x41, false, false, true, false, true⟩ true (right 0) = none → d.shed < 4 → ¬ due 0 0 →
      (d.safe = true → callerLine who < 257 ∧ d.boot.safeBy ≠ some .thermal ∧ d.boot.swdogDue = none) →
      Leaves (.resetCmd who 0 0) s ((u.orderReset 0 0).answerTo who 1 0x41 .ok none (leBytes 1 0 ++ leBytes 2 0) [])) ∧
    (kind = 1 ∨ kind = 2 → d.resetSkein kind index = some c → d.takes who 0x41 = true →
      d.cmdFails who ⟨0x41, mayReset who c none, mayReset who c none, false, false, true⟩ true (mayReset who c) = none → d.shed < 4 → d.safe = false →
      (kind = 2 → mget false d.lost index = false) → (∀ x ∈ d.boot.resets, ¬ (x.1 = 1 ∧ x.2 = c.skein) ∧ ¬ (x.1 = 2 ∧ c.lcnMask.testBit x.2 = true)) →
      Leaves (.resetCmd who kind index) s ((u.orderReset kind index).answerTo who 1 0x41 .ok none (leBytes 1 kind ++ leBytes 2 index) [])) ∧
    (w.sDeadline = some t0 →
      let e := (d.timeTo t0).updWd sk.val fun w => { w with sDeadline := none }
      let f := (e.setRegF Reg.SEC_SWDOG_LAST 23 16 sk.val).setRegF Reg.SEC_SWDOG_LAST 15 0 (min 0xFFFF (e.regF Reg.SEC_SWDOG_LAST 15 0 + 1))
      Leaves (.swdogExpire sk) s ((f.enterSafe (.swdog sk)).audit 2 5 0xFF 0 sk.val 0 0 (leBytes 1 sk.val))) ∧
    (d.boot.swdogDue = some t0 → Completes (.swdogPackageReset sk) s fun t => (0, 0) ∈ t.boot.resets ∧ t0 ≤ t.now) ∧
    (d.hasNdog sk.val = true → w.en = true → d.safe = false →
      (w.warned = false → Leaves (.ndogWarn sk) s
        ((let e := d.timeTo w.nDeadline; e.updWd sk.val fun w => { w with warned := true, nDeadline := e.now + w.inForce * 1000000 }).raiseLocal w.target.toNat 0xF8)) ∧
      (w.warned = true → ¬ due 1 sk.val → Leaves (.ndogExpire sk) s
        (((d.timeTo w.nDeadline).orderReset 1 sk.val).audit 2 5 0xFF 0 sk.val 0 0 (leBytes 1 sk.val))))

/-- A request that comes in through a root port in UP is answered Unsupported Request at once where the root port does not
implement it; it is refused while the IOTU is OFF, and otherwise translated and sent on its way, or recorded and refused, or
it waits for a line of its tables; through a port that is not up nothing comes. An invalidation that is admitted removes the
entries it names and sets BUSY; one that is not has HALTED, STATE or BUSY as its result and removes nothing; of a requester
that may not write the registers it does nothing. BUSY clears once no request that translated through a removed entry waits
(09 R304 to R309, 14 R437). -/
def Obligations.IotuComplete : Prop :=
  ∀ (bd : Fin 8) (req : DmaReq) (q : Requester) (id : BitVec 16) (pa code sub : Nat) (y : TlbEntry) (e f : Dev) (st : Status) (bs : List Byte)
    (c : Instr) (s : State),
    let d := s.dev
    let b := bd.val
    let write := req.kind.val == 1
    let len := if write then req.data.length else req.len
    let x : HubAccess := { agent := 17, bd := b, rid := req.rid.toNat, pa := 0, write := write, len := len, data := req.data, ep := req.poisoned
                           relaxed := req.relaxed, mt := .wb, bus := none, leaf := 0, inv := false }
    let x1 : HubAccess := { x with pa := pa, mt := leafType y.leaf, leaf := y.leafAt }
    let up : Prop := d.bundleMode b = 1 ∧ d.safe = false ∧ (d.bun b).l0 = true ∧ d.pceState b = 1
    let refuse (t : Dev) : Dev := if write then t else t.emit (.rpAnswer b req.rid.toNat 1 [])
    let tr := d.ioTranslate b req.rid.toNat req.addr write len
    let status := Reg.MMU_IO_INV_STATUS b
    let done (i : Instr) (z : Iotu) : Prop := Completes i s fun t => t.iotu = z ∧ t.regF status 8 8 = 1 ∧ t.regF status 31 24 = 0
    (up →
      (req.ats = true ∨ 1 < req.kind.val → Leaves (.inboundDmaRequest bd req) s (d.emit (.rpAnswer b req.rid.toNat 1 []))) ∧
      (req.ats = false → req.kind.val ≤ 1 →
        (d.ioOn b = false → Leaves (.inboundDmaRequest bd req) s (refuse d)) ∧
        (d.ioOn b = true →
          (tr = (e, .ok (pa, y)) → Leaves (.inboundDmaRequest bd req) s (e.hubGo x1) ∧
            (e.hubBlocked x1 = false → e.hubTry x1 = (f, .done st bs) → Leaves (.inboundDmaRequest bd req) s (f.hubAnswer x1 st bs))) ∧
          (tr = (e, .error (.fault code sub)) → Leaves (.inboundDmaRequest bd req) s (refuse (e.ioFault b req.rid.toNat req.addr write code sub))) ∧
          (tr = (e, .error .wait) → Leaves (.inboundDmaRequest bd req) s (e.hubQueue { x with bus := some req.addr }))))) ∧
    (¬ up → Leaves (.inboundDmaRequest bd req) s d) ∧
    (d.ioWrites q b = true → d.safe = false → d.ioOn b = true → d.regF status 8 8 = 0 →
      done (.iotuInvStream q bd id) (d.iotu.dropStream b id.toNat) ∧
      done (.iotuInvAsid q bd id) (d.iotu.dropAsid b id) ∧
      done (.iotuInvVa q bd) (d.iotu.dropVa b (d.reg64 (Reg.MMU_IO_INV_VA_LO b) % 2 ^ 48) (BitVec.ofNat 16 (d.regF (Reg.MMU_IO_INV_CMD b) 31 16))) ∧
      done (.iotuInvAll q bd) (d.iotu.dropAll b)) ∧
    (c ∈ [.iotuInvStream q bd id, .iotuInvAsid q bd id, .iotuInvVa q bd, .iotuInvAll q bd] →
      (d.ioWrites q b = true → d.safe = true ∨ d.ioOn b = false ∨ d.regF status 8 8 = 1 → Completes c s fun t => t.iotu = d.iotu ∧
        t.regF status 31 24 = (if d.safe then Status.halted else if d.ioOn b then Status.busy else Status.state).code) ∧
      (d.ioWrites q b = false → Leaves c s d)) ∧
    ((d.hubWaiting.any fun z => z.inv && z.bd == b) = false → Leaves (.iotuInvDone bd) s (d.setRegF status 8 8 0)) ∧
    ((d.hubWaiting.any fun z => z.inv && z.bd == b) = true → Leaves (.iotuInvDone bd) s d)

/-- A register of control space, accessed by Distaff or by a core whose access is not refused on its way: a read answers with
the value that its access codes show to this requester, and 0 where it may not read it; a write has the effect of its
register, and sets a plain register by its access codes; a _LO read fills the latch that its _HI then shows; a _LO write is
held until the write of its _HI commits both. Where no register stands the read gives 0 and the write nothing; what is
refused is answered DEAD, with a bus error at a core's load and an imprecise one at its store. A function's BAR and
configuration space, and the doorbell from a root port, are reached likewise. The doorbell, a route entry, TRC_CTL and the
snapshot act unless their block is in secure use (00 R8 to R13, 08 R253, R267, R268, 14 R442, 19 R594, 20 R607). -/
def Obligations.RegistersComplete : Prop :=
  ∀ (q : Requester) (pa : BitVec 52) (v lo : BitVec 32) (n : Fin 4096) (sk : Fin 16) (l : Fin 384) (bd : Fin 8) (fn : Fin 1025) (off : BitVec 17)
    (o : BitVec 12) (r r' : RegDef) (i i' : List Nat) (s : State),
    let d := s.dev
    let a := pa.toNat
    let ra : RegAddr := .ctl pa
    let ans (t : Dev) (x : Reg32) : Dev := t.emit (.readValue q ra .ok x)
    let fresh : Prop := r.vis ≠ .iotu ∨ d.ioOn (i.headD 0) = false
    let acts : List Nat := [Reg.IRQ_DOORBELL, Reg.IRQ_ROUTE 0, Reg.TRC_CTL, Reg.PMU_SK_SNAP 0, Reg.CCH_L3_PD_CMD 0, Reg.CCH_HC_PD_CMD, Reg.D2D_GST_CMD 0,
      Reg.MC_CMD 0, Reg.PCE_CMD 0, Reg.HNK_PORT_CMD 0, Reg.PWR_REQ, Reg.DST_MBX_CTL 0, Reg.MMU_IO_INV_CMD 0]
    let ruled : List Nat := [Reg.MMU_IO_CFG 0, Reg.MMU_IO_FAULT_INFO 0, Reg.PCE_RP_ROUTE 0, Reg.RL_SK_NOTICE 0]
    (q = .distaff ∨ q = .core l → d.siteIsolated (d.dieOf q) (bitsN a 39 32) = false →
      (d.secRefused q a = false →
        (ctlPlace a 4 = .res0 → Leaves (.rcRegisterRead q ra) s (ans d 0#32) ∧ Leaves (.registerWrite q ra v) s d) ∧
        (ctlPlace a 4 = .reg r i →
          (d.mayRead q r.vis i = false → Leaves (.rcRegisterRead q ra) s (ans d 0#32) ∧ Leaves (.pairLoRead q ra) s (ans d 0#32)) ∧
          (d.mayRead q r.vis i = true →
            (r.half = .whole → meshWait r = false → Leaves (.rcRegisterRead q ra) s
              (ans (d.setReg a (afterReadVal r.fields (d.reg a))) (readRegVal r.fields (d.shown q r (i.headD 0) a)))) ∧
            (r.half = .lo → findReg (a + 4) = some (r', i') → Leaves (.pairLoRead q ra) s
              (ans { d with latch := mset 0#32 d.latch a (readRegVal r'.fields (d.shown q r' (i.headD 0) (a + 4))) }
                (readRegVal r.fields (d.shown q r (i.headD 0) a)))) ∧
            (r.half = .hi → Leaves (.rcRegisterRead q ra) s (ans d (mget 0#32 d.latch (a - 4))))) ∧
          (r.half = .whole → Leaves (.registerWrite q ra v) s (d.wholeWrite q r i a v) ∧
            (r.base ∉ acts → d.mayWrite q r i = false → Leaves (.registerWrite q ra v) s d) ∧
            (r.base ∉ acts → d.mayWrite q r i = true → r.base ∉ ruled → mcInRange r.base v = true → Completes (.registerWrite q ra v) s fun t =>
              t = d.setReg a (writeRegVal r.fields d.img.lock (d.reg a) v) ∧ t.reg a = writeRegVal r.fields d.img.lock (d.reg a) v)) ∧
          (d.mayWrite q r i = false → (r.half = .lo → Leaves (.pairLoWrite q ra v) s d) ∧ (r.half = .hi → Leaves (.pairHiWrite q ra v) s d)) ∧
          (d.mayWrite q r i = true → fresh →
            (r.half = .lo → Leaves (.pairLoWrite q ra v) s { d with heldLo := mset none d.heldLo a (some v) }) ∧
            (r.half = .hi → 4 ≤ a → mget none d.heldLo (a - 4) = some lo → findReg (a - 4) = some (r', i') → Completes (.pairHiWrite q ra v) s fun t =>
              t.reg a = writeRegVal r.fields d.img.lock (d.reg a) v ∧ t.reg (a - 4) = writeRegVal r'.fields d.img.lock (d.reg (a - 4)) lo ∧
              mget none t.heldLo (a - 4) = none) ∧
            (r.half = .hi → mget none d.heldLo (a - 4) = none → Leaves (.pairHiWrite q ra v) s
              (d.setReg a (writeRegVal r.fields d.img.lock (d.reg a) v)))))) ∧
      (d.secRefused q a = true ∨ ctlPlace a 4 = .dead ∨ ctlPlace a 4 = .badAccess →
        let e := d.emit (.readValue q ra .dead 0#32)
        (q = .distaff → Leaves (.rcRegisterRead q ra) s e ∧ Leaves (.registerWrite q ra v) s d) ∧
        (q = .core l → (d.core l.val).released = true → Leaves (.rcRegisterRead q ra) s (e.takeExc l.val (Exc.bus a)) ∧
          Leaves (.registerWrite q ra v) s (d.storeError l.val (d.core l.val).level.secure true .dead a)))) ∧
    (q = .func bd fn →
      (d.safe = false → d.barOpen (fnKey bd.val fn.val) = true → off.toNat % 4 = 0 →
        let x := d.barRead (fnKey bd.val fn.val) off.toNat
        Leaves (.rcRegisterRead q (.bar bd fn off)) s (x.1.emit (.readValue q (.bar bd fn off) .ok x.2)) ∧
        Leaves (.registerWrite q (.bar bd fn off) v) s (d.barWrite (fnKey bd.val fn.val) off.toNat v)) ∧
      (d.fnPresent (fnKey bd.val fn.val) = true →
        Leaves (.rcRegisterRead q (.cfg bd fn o)) s (d.emit (.readValue q (.cfg bd fn o) .ok (d.cfgRead (fnKey bd.val fn.val) o.toNat))) ∧
        Leaves (.registerWrite q (.cfg bd fn o) v) s (d.cfgWrite (fnKey bd.val fn.val) o.toNat v))) ∧
    (q = .rootPort bd → a = Reg.IRQ_DOORBELL → Leaves (.registerWrite q ra v) s (d.doorbell q (field v 11 0))) ∧
    (d.secRefused q Reg.IRQ_DOORBELL = false → Leaves (.irqDoorbell q v) s (d.doorbell q (field v 11 0))) ∧
    (d.secRefused q (Reg.IRQ_ROUTE n.val) = false → Leaves (.irqRouteWrite q n v) s (d.routeWrite q n.val v)) ∧
    (d.secRefused q Reg.TRC_CTL = false → Leaves (.trcCtlWrite q v) s (d.traceWrite q v)) ∧
    (d.secRefused q (Reg.PMU_SK_SNAP sk.val) = false → (q = .distaff ∨ q = .core l ∧ (d.core l.val).level.priv = true ∧ d.skeinOf l.val = some sk.val) →
      Completes (.pmuSkSnap q sk) s fun t =>
        ∀ k : Fin 7, t.reg64 (Reg.PMU_SK_BQ_POST_LO sk.val + 8 * k.val) = mget 0 d.hubCnt (sk.val * 8 + k.val) % 2 ^ 64)

/-- A DEVICE request that no earlier one of its order precedes unanswered reaches its target, which answers it, sends it
outside, or lets it wait; its completion, once those before it are there, ends it at its core: a store that is OK drains what
follows it, and any other end is the core's to take; one that has no answer after 100 µs ends with TIMEOUT, and one that has
is not touched. A vector reaches its target, or is dropped and counted where the target is not of its skein or must not take
it. A window access of Distaff is answered, waits, or is not issued while 32 are outstanding; DBG_MEM is answered likewise
(10 R318 to R321, 12 R372, R379, 18 R555, R574). -/
def Obligations.DeviceRequestsComplete : Prop :=
  ∀ (l l2 : Fin 384) (tid : Nat) (outside : Completion) (r : DevReq) (st : Status) (v : Nat) (vec : BitVec 8) (sec write : Bool) (sk : Fin 16)
    (pa : BitVec 52) (data bs : List (BitVec 8)) (length : Nat) (who : Caller) (e : Dev) (s : State),
    let d := s.dev
    let k := d.core l.val
    let a := (d.updCore l.val fun c => { c with level := r.lvl }).devAccess l r
    let back := a.1.updCore l.val fun c => { c with level := k.level }
    let arrive : Instr := if r.write then .wrdev l tid else .rddev l tid
    let takes : Prop := d.skeinOf l2.val = some sk.val ∧ (sec = true → d.secureSkein l2.val = true)
    let m : VecMsg := ⟨l2.val, vec.toNat, sec, sk.val⟩
    let x := winAccess write pa.toNat data
    let u := d.sessionUsed who
    let f := u.winBytes write pa.toNat data length
    let y := winAccess write pa.toNat f.2
    (k.devReq tid = some r →
      (r.answer = none → r.sent = false → k.earlier r (fun z => z.answer.isNone && !z.sent) = false →
        (a.2 = .done st v → Leaves arrive s (back.updCore l.val fun c => c.updReq tid fun z => { z with answer := some (st, v) })) ∧
        (a.2 = .sent → Leaves arrive s (back.updCore l.val fun c => c.updReq tid fun z => { z with sent := true })) ∧
        (a.2 = .waits → Leaves arrive s back)) ∧
      (k.earlier r (fun _ => true) = false →
        (r.answer = some (st, v) → Leaves (.cmpl l tid outside) s (d.devEnd l r st v)) ∧
        (r.answer = some (.ok, v) → r.quiet = false → r.write = true →
          Leaves (.cmpl l tid outside) s ((d.updCore l.val fun c => c.endReq r.tid).drain l.val)) ∧
        (r.answer = none → r.sent = true → Leaves (.cmpl l tid outside) s (d.devEnd l r (d.rpReply r outside).1 (d.rpReply r outside).2))) ∧
      (r.answer = none → Leaves (.deviceTimeout l tid) s ((d.timeTo (r.since + 100000)).devEnd l r .timeout 0)) ∧
      (r.answer ≠ none → Leaves (.deviceTimeout l tid) s d)) ∧
    (takes → Leaves (.msgDeliver (.inboxSend l2 vec sec sk)) s (d.deliverVec m) ∧ Leaves (.msgDeliver (.delivery l2 vec sec sk)) s (d.deliverVec m)) ∧
    (¬ takes → Leaves (.msgDeliver (.inboxSend l2 vec sec sk)) s (d.dropVec sk.val) ∧ Leaves (.msgDeliver (.delivery l2 vec sec sk)) s (d.dropVec sk.val)) ∧
    (d.hubBlocked x = false →
      (d.winTry x = (e, .done st bs) → Leaves (.distaffWindowAccess write pa data) s (e.emit (.window pa.toNat st (if st = .ok ∧ write = false then bs else [])))) ∧
      (d.winTry x = (e, .waits) → Leaves (.distaffWindowAccess write pa data) s (e.hubQueue x))) ∧
    (d.hubBlocked x = true → Leaves (.distaffWindowAccess write pa data) s d) ∧
    (d.takes who 0x64 = true → d.cmdFails who ⟨0x64, false, false, false, false, true⟩ true (fun z => installer z && d.memInvasive pa.toNat) = none → d.shed < 4 →
      (write = true → d.safe = false) → length ≤ 1032 → data.length ≤ 1032 → u.hubBlocked y = false → f.1.winTry y = (e, .done .ok bs) →
      Leaves (.dbgMem who write pa data length) s (e.answerTo who 1 0x64 .ok none (leBytes 1 (b2n write) ++ leBytes 8 pa.toNat ++ leBytes 2 length ++ data.take 16) bs))

/-- The state after `n` steps; none where a step stops. -/
def runsFor : Nat → State → Option State
  | 0, s => some s
  | n + 1, s => match step s with
    | .next t => runsFor n t
    | _ => none

/-- A step takes the command at the front of the queue and is exec of it on the state with the queue's rest; on an empty
queue the block idles for a tick of 1 ns, which is the model's choice (log entry 4). -/
def Obligations.StepTakesTheFront : Prop :=
  ∀ (c : Instr) (rest : List Instr) (s : State),
    (s.pending = c :: rest → step s = exec c { s with pending := rest }) ∧
    (s.pending = [] → step s = .next { s with dev := s.dev.idleTick })

/-- A queue of well-formed commands stays one, and every step that finds a command takes that command and no other; so every
queue is worked off in order, no command ever stopping the block: after k steps the first k commands are gone. In particular
every well-formed command completes in every state, its queue untouched. -/
def Obligations.QueueIsWorkedOff : Prop :=
  (∀ (c : Instr) (s : State), c.wellFormed = true → ∃ t, exec c s = .next t ∧ t.pending = s.pending) ∧
  ∀ s : State, s.queueOk = true →
    (∀ t, step s = .next t → t.queueOk = true ∧ t.pending = s.pending.tail) ∧
    ∀ k, k ≤ s.pending.length → ∃ t, runsFor k s = some t ∧ t.pending = s.pending.drop k

/-- DRAM keeps its canonical form at every step: addresses rising, no byte listed that equals what an unlisted one reads as. -/
def Obligations.MemoryStaysCanonical : Prop :=
  ∀ s t : State, s.dev.mem.wf = true → step s = .next t → t.dev.mem.wf = true

/-- Right after reset: no command waits, DRAM lists nothing and is canonical, the device is not in SAFE, no core is released
and no LCN is in service, and every field of the first register of each row holds its Reset value (00 R11; the dash fields' 0
is the model's choice, log entry 1). -/
def Obligations.ResetLeaves : Prop :=
  State.reset.pending = [] ∧ State.reset.queueOk = true ∧ State.reset.dev.mem.bytes = [] ∧ State.reset.dev.mem.wf = true ∧
  State.reset.dev.safe = false ∧ (∀ l, (State.reset.dev.core l).released = false ∧ State.reset.dev.inService l = false) ∧
  ∀ r ∈ regDefs, ∀ f ∈ r.fields, field (State.reset.dev.reg r.base) f.hi f.lo = f.reset

/-- The access codes of R12, for every field of every register: what a write leaves in the field, what a read returns, and
what the field holds after a read; bits that no field names read 0 and keep what they hold. -/
def Obligations.AccessCodes : Prop :=
  ∀ r ∈ regDefs, ∀ (lock : Bool) (old new : Reg32),
    let w := writeRegVal r.fields lock old new
    let x := readRegVal r.fields old
    let y := afterReadVal r.fields old
    (∀ f ∈ r.fields,
      let F (v : Reg32) : Nat := field v f.hi f.lo
      (f.acc = .rw → F w = F new) ∧ (f.acc = .ro → F w = F old) ∧ (f.acc = .rwL → F w = if lock then F old else F new) ∧
      (f.acc = .w1c → ∀ i, f.lo ≤ i → i ≤ f.hi → bit w i = (bit old i && !bit new i)) ∧
      (f.acc = .w1s → ∀ i, f.lo ≤ i → i ≤ f.hi → bit w i = (bit old i || bit new i)) ∧
      F x = (if f.acc = .wo then 0 else F old) ∧ F y = (if f.acc = .rc then 0 else F old)) ∧
    ∀ i, i < 32 → (∀ f ∈ r.fields, ¬(f.lo ≤ i ∧ i ≤ f.hi)) → bit x i = false ∧ bit w i = bit old i ∧ bit y i = bit old i

/-- Entry to a bank, take() of R255: EPC, CAUSE and ADDR are written, PPRIV and PIE keep what was, interrupts of the bank are
off, the level is the bank's privileged one, the PC its vector base with the offset, the predictor is empty if the world
changes, and the other bank and the general, Ply and mask registers stand; stores retired before it that have not drained
stay before a mark that orders what follows (10 R334). -/
def Obligations.EntryToABank : Prop :=
  ∀ (d : Dev) (l : Nat) (sec : Bool) (cause : Reg32) (addr saved : Word) (offset : Nat) (e : Exc),
    let k := d.core l
    let k2 := (d.enter l sec cause addr saved offset).core l
    let b := k.bank sec
    k2.bank sec = { b with epc := saved, cause := cause, addr := addr, ppriv := k.level.priv, pie := b.ie, ie := false } ∧
    k2.bank (!sec) = k.bank (!sec) ∧ k2.level = (if sec then .sk else .k) ∧ k2.pc = b.vbase + BitVec.ofNat 64 offset ∧
    (k.level.secure ≠ sec → k2.pred = Predictor.empty) ∧ k2.g = k.g ∧ k2.v = k.v ∧ k2.m = k.m ∧
    (k2.sb = [] ∨ k2.sb.getLast? = some (.mark true)) ∧
    d.takeExc l e = d.enter l (k.level.secure || e.code == 0x11) (causeOf false e.info e.sub e.code) e.addr
      (if e.code = 0x10 ∨ e.code = 0x11 then k.pc + 4#64 else k.pc) (if e.code = 0x11 then 0x200 else 0)

/-- ERET, at a privileged level, returns within the current world: the level is privileged if PPRIV of the bank is 1 and else
not, IE takes PIE and the PC takes EPC; the other bank and the registers stand. At U or SU it raises privilege. -/
def Obligations.EretReturnsWithinItsWorld : Prop :=
  ∀ (l : Fin 384) (s : State), s.ready l →
    let k := (s.fetched l).core l.val
    let w := k.level.secure
    (k.level.priv = true → Completes (.eret l) s fun t =>
      let k2 := t.core l.val
      k2.level = (if (k.bank w).ppriv then (if w then .sk else .k) else (if w then .su else .u)) ∧ k2.pc = (k.bank w).epc ∧
      k2.bank w = { k.bank w with ie := (k.bank w).pie } ∧ k2.bank (!w) = k.bank (!w) ∧ k2.g = k.g ∧ k2.v = k.v ∧ k2.m = k.m) ∧
    (k.level.priv = false → Completes (.eret l) s fun t =>
      let k2 := t.core l.val
      k2.pc = (k.bank w).vbase ∧ (k2.bank w).cause = 0x02#32 ∧ (k2.bank w).epc = k.pc ∧ k2.g = k.g)

/-- Control space takes aligned accesses of 32 bits alone: any other is answered with an error, and leaves the device as it
was but for the count of an isolated path; an aligned one to a register of a reachable block is accepted. -/
def Obligations.OnlyAlignedWordsReachControlSpace : Prop :=
  ∀ (d : Dev) (q : Requester) (die : Option Nat) (pa size data : Nat) (write : Bool), placeOf pa = .control →
    let r := d.ctlAccess q die pa size write data
    (size ≠ 4 ∨ pa % 4 ≠ 0 → r.2 = .done .dead 0 ∧ (r.1 = d ∨ r.1 = d.count Reg.MESH_HUB_DEAD_COUNT)) ∧
    (size = 4 → pa % 4 = 0 → bitsN pa 47 40 = 0 → blockAssigned (bitsN pa 39 32) (bitsN pa 31 20) = true → d.siteIsolated die (bitsN pa 39 32) = false →
      d.secRefused q pa = false → ∃ v, r.2 = .done .ok v ∧ v < 2 ^ 32)

/-- The commands that store no byte of DRAM, in any state (each chapter's steps name no store). -/
def storesNothing : Instr → Bool
  | .hpprRepair .. | .imgRead .. | .imgCheck .. | .imgStage .. | .imgDelta .. | .deltaJournalWriteDone .. | .deltaSwitch ..
  | .waitCancel .. | .chStopped .. | .bqChRxDb .. | .creqRetry .. | .creditBlockIdleRelease .. | .waitiResume ..
  | .timerExpire .. | .sTimerExpire .. | .swdogPackageReset .. | .ndogWarn .. | .ndogExpire .. | .refclk25Loss ..
  | .iotuInvStream .. | .iotuInvAsid .. | .iotuInvVa .. | .iotuInvAll .. | .iotuInvDone .. | .msgDeliver .. | .doneMsg ..
  | .already .. | .invMsg .. | .recallS .. | .recallI .. | .recallD .. | .creditPacket .. | .l3WayDown .. | .l3WayUp ..
  | .hcWayDown .. | .hcWayUp .. | .portIsolate .. | .discover .. | .guestDiscoverTimeout .. | .guestAdmit ..
  | .gstRetrain .. | .gstDisable .. | .scrubRead .. | .spprRepair .. | .refreshRank .. | .neighbourRefresh ..
  | .driftCheck .. | .mcApply .. | .mcCheck .. | .applyWindow .. | .pcieLinkUp .. | .pcieLinkDown .. | .rearm ..
  | .pceRetrain .. | .vfEnableSet .. | .vfEnableClear .. | .vfmCreate .. | .vfmDestroy .. | .vfmQuery .. | .msixUnmask ..
  | .pmeWake .. | .pePerstNAssert .. | .pePerstNDeassert .. | .hotReset .. | .initiateFunctionLevelReset ..
  | .flrComplete .. | .fnMbxSend .. | .fnMbxAck .. | .vfmMbxSend .. | .vfmMbxAck .. | .deviceMailboxAnswer ..
  | .dlogSwap .. | .dlogSwapDone .. | .hankPortUp .. | .hankPortDown .. | .helloSend .. | .peerReachLapse ..
  | .peerConflictClear .. | .hankFrameSend .. | .hankRtoExpire .. | .hnkRetrain .. | .hankPortRetire ..
  | .hankSpareSubstitute .. | .coreErrorDetect .. | .bundleRetire .. | .reelStateMove .. | .reelStateWrite ..
  | .wearMeasure .. | .emRead .. | .rlQuery .. | .rlReel .. | .rlRetire .. | .wakeEvent .. | .powerStepUpdate ..
  | .tkwakeN .. | .pmbAlert .. | .guardStepRetry .. | .captureEdge .. | .pulseStart .. | .pulseEnd .. | .trcCtlWrite ..
  | .irqDoorbell .. | .irqRouteWrite .. | .pmuSkSnap .. | .statusCmd .. | .timeCmd .. | .identityCmd .. | .authBegin ..
  | .authFinish .. | .logout .. | .sessionIdleTimeout .. | .credentialUnlock .. | .xferOpen .. | .xferData .. | .enroll ..
  | .revokeSlot .. | .logRead .. | .floorCmd .. | .resetCmd .. | .fwStage .. | .dbgHalt .. | .dbgStep .. | .dbgResume ..
  | .dbgReg .. | .dbgSample .. | .baudSet .. | .almanacBreak .. | .baudRevert .. | .entdaa .. | .dstMbxDoorbell ..
  | .auditFlush .. | .shedMeasure .. | .refclk25Restore .. | .vaonLoss .. | .spdTemperatureSample .. | .tracePacketSend ..
  | .rootErrorStatusSet .. | .sleepExitDone .. | .localFaultEnd .. => true
  | _ => false

/-- A command that stores nothing leaves every byte of DRAM, whoever reads it: every one of the commands that storesNothing
names, from image checks and invalidations to links, ways, power steps and Distaff commands. -/
def Obligations.CommandsThatStoreNothing : Prop :=
  ∀ (c : Instr) (s t : State), storesNothing c = true → exec c s = .next t →
    t.dev.mem.bytes = s.dev.mem.bytes ∧ ∀ a, t.dev.byte a = s.dev.byte a

/-- The commands that are no instruction of a core and write nothing that a program sees in one, in any state. -/
def leavesCores : Instr → Bool
  | .dramTraining .. | .hpprRepair .. | .imageApply .. | .imgRead .. | .imgCheck .. | .imgStage .. | .imgDelta ..
  | .deltaJournalWriteDone .. | .deltaSwitch .. | .waitCancel .. | .chStopped .. | .bqChRxDb .. | .creqRetry ..
  | .creditBlockIdleRelease .. | .waitiResume .. | .timerExpire .. | .sTimerExpire .. | .swdogExpire ..
  | .swdogPackageReset .. | .ndogWarn .. | .ndogExpire .. | .refclk25Loss .. | .refclk100Loss .. | .inboundDmaRequest ..
  | .iotuInvStream .. | .iotuInvAsid .. | .iotuInvVa .. | .iotuInvAll .. | .iotuInvDone .. | .gets .. | .getm ..
  | .wfull .. | .puts .. | .putm .. | .rdnc .. | .wrnc .. | .atom .. | .msgDeliver .. | .dataMsg .. | .grantMsg ..
  | .doneMsg .. | .ackMsg .. | .rdata .. | .already .. | .invMsg .. | .recallS .. | .recallI .. | .recallD ..
  | .creditPacket .. | .dirRebuildDone .. | .l3WayDown .. | .l3WayUp .. | .hcWayDown .. | .hcWayUp .. | .wayCleanDone ..
  | .portIsolate .. | .fenceAck .. | .fenceLimitExpire .. | .discover .. | .guestDiscoverTimeout .. | .guestAdmit ..
  | .gstRetrain .. | .gstDisable .. | .scrubRead .. | .spprRepair .. | .refreshRank .. | .neighbourRefresh ..
  | .driftCheck .. | .mcApply .. | .mcCheck .. | .applyWindow .. | .lpExitFillDone .. | .pcieLinkUp .. | .pcieLinkDown ..
  | .rearm .. | .pceRetrain .. | .vfEnableSet .. | .vfEnableClear .. | .vfmCreate .. | .vfmDestroy .. | .vfmQuery ..
  | .msixUnmask .. | .pmeWake .. | .pePerstNAssert .. | .pePerstNDeassert .. | .hotReset ..
  | .initiateFunctionLevelReset .. | .flrComplete .. | .fnMbxSend .. | .fnMbxAck .. | .vfmMbxSend .. | .vfmMbxAck ..
  | .deviceMailboxAnswer .. | .dlogSwap .. | .dlogSwapDone .. | .hankPortUp .. | .hankPortDown .. | .helloSend ..
  | .peerReachLapse .. | .peerConflictClear .. | .hankFrameSend .. | .hankRtoExpire .. | .hnkRetrain ..
  | .hankPortRetire .. | .hankSpareSubstitute .. | .coreErrorDetect .. | .bundleRetire .. | .reelDrainDone ..
  | .reelStateMove .. | .reelStateWrite .. | .wearMeasure .. | .emRead .. | .safeEntry .. | .imageHashCheck ..
  | .lockstepMismatch .. | .rlQuery .. | .rlReel .. | .rlRetire .. | .rlSafe .. | .pwrReqSpindle .. | .pwrReqChannel ..
  | .pwrReqBundle .. | .powerEntryTimeout .. | .wakeEvent .. | .thermalSample .. | .powerStepUpdate .. | .tkwakeN ..
  | .pmbAlert .. | .guardStepRetry .. | .captureEdge .. | .pulseStart .. | .pulseEnd .. | .trcCtlWrite .. | .irqDoorbell ..
  | .irqRouteWrite .. | .pmuSkSnap .. | .statusCmd .. | .timeCmd .. | .identityCmd .. | .authBegin .. | .authFinish ..
  | .logout .. | .sessionIdleTimeout .. | .credentialUnlock .. | .xferOpen .. | .xferData .. | .enroll .. | .revokeSlot ..
  | .logRead .. | .floorCmd .. | .resetCmd .. | .fwStage .. | .dbgHalt .. | .dbgStep .. | .dbgResume .. | .dbgSample ..
  | .baudSet .. | .almanacBreak .. | .baudRevert .. | .entdaa .. | .dstMbxDoorbell .. | .auditFlush .. | .shedMeasure ..
  | .hubUnitError .. | .refclk25Restore .. | .vaonLoss .. | .spdTemperatureSample .. | .tracePacketSend ..
  | .rootErrorStatusSet .. | .sleepEntryDone .. | .sleepExitDone .. | .localFaultEnd .. => true
  | _ => false

/-- A command of the uncore leaves what programs see of every core: its general, Ply and mask registers, its PC and level,
both banks of exception registers, its FP flags and rounding mode, its saturation flag and Ply control, its segment table and
locked entries, its debug comparators, and its active interrupt levels and thresholds. -/
def Obligations.CommandsThatLeaveCores : Prop :=
  ∀ (c : Instr) (s t : State) (l : Nat), leavesCores c = true → exec c s = .next t →
    let k := s.dev.core l
    let k2 := t.dev.core l
    k2.g = k.g ∧ k2.v = k.v ∧ k2.m = k.m ∧ k2.pc = k.pc ∧ k2.level = k.level ∧ k2.kb = k.kb ∧ k2.sbank = k.sbank ∧
    k2.fpFlags = k.fpFlags ∧ k2.fpRm = k.fpRm ∧ k2.psat = k.psat ∧ k2.pctlRm = k.pctlRm ∧ k2.pctlEn = k.pctlEn ∧ k2.pctlVd = k.pctlVd ∧
    k2.segtb = k.segtb ∧ k2.stlb = k.stlb ∧ k2.bp = k.bp ∧ k2.wp = k.wp ∧ k2.actN = k.actN ∧ k2.actS = k.actS ∧
    k2.threshN = k.threshN ∧ k2.threshS = k.threshS
end

