-- ==== Sys2Proof/Laws/Maps.lean ====
section
/-! SUPPORT. The laws of the sparse maps: a read after a write, two writes of one key, and the canonical form kept. -/
namespace Sys2Proof.Machine

variable {α : Type}

@[simp] theorem mget_merase (d : α) (m : List (Nat × α)) (k k' : Nat) :
    mget d (merase m k) k' = if k = k' then d else mget d m k' := by
  induction m with
  | nil => simp [merase, mget]
  | cons x t ih =>
    obtain ⟨a, v⟩ := x
    by_cases h : a = k
    · subst h; simp only [merase, if_true, ih, mget]; split <;> rfl
    · simp only [merase, if_neg h, mget, ih]
      by_cases h' : a = k'
      · subst h'; simp [Ne.symm h]
      · simp [h']

theorem mget_minsert (d : α) (m : List (Nat × α)) (k k' : Nat) (v : α) (h : ∀ x ∈ m, x.1 ≠ k) :
    mget d (minsert k v m) k' = if k = k' then v else mget d m k' := by
  induction m with
  | nil => simp [minsert, mget]
  | cons x t ih =>
    obtain ⟨a, w⟩ := x
    have ha : a ≠ k := h (a, w) (by simp)
    simp only [minsert]
    split
    · simp [mget]
    · simp only [mget, ih fun x hx => h x (by simp [hx])]
      by_cases h' : a = k'
      · subst h'; simp [Ne.symm ha]
      · simp [h']

theorem not_mem_merase (m : List (Nat × α)) (k : Nat) : ∀ x ∈ merase m k, x.1 ≠ k := by
  induction m with
  | nil => simp [merase]
  | cons x t ih =>
    obtain ⟨a, v⟩ := x
    by_cases h : a = k
    · subst h; simpa [merase] using ih
    · simp only [merase, if_neg h, List.mem_cons]
      rintro y (rfl | hy)
      · exact h
      · exact ih y hy

/-- A read after a write. -/
@[simp] theorem mget_mset [DecidableEq α] (d : α) (m : List (Nat × α)) (k k' : Nat) (v : α) :
    mget d (mset d m k v) k' = if k = k' then v else mget d m k' := by
  unfold mset
  split
  · next h => subst h; simp
  · rw [mget_minsert d _ k k' v (not_mem_merase m k)]; simp only [mget_merase]; split <;> rfl

theorem merase_of_not_mem (m : List (Nat × α)) (k : Nat) (h : ∀ x ∈ m, x.1 ≠ k) : merase m k = m := by
  induction m with
  | nil => rfl
  | cons x t ih =>
    obtain ⟨a, v⟩ := x
    have ha : a ≠ k := h (a, v) (by simp)
    simp [merase, ha, ih fun y hy => h y (by simp [hy])]

theorem merase_minsert (m : List (Nat × α)) (k : Nat) (v : α) (h : ∀ x ∈ m, x.1 ≠ k) : merase (minsert k v m) k = m := by
  induction m with
  | nil => simp [minsert, merase]
  | cons x t ih =>
    obtain ⟨a, w⟩ := x
    have ha : a ≠ k := h (a, w) (by simp)
    have ht : ∀ y ∈ t, y.1 ≠ k := fun y hy => h y (by simp [hy])
    simp only [minsert]
    split
    · simp [merase, ha, merase_of_not_mem t k ht]
    · simp [merase, ha, ih ht]

@[simp] theorem merase_mset [DecidableEq α] (d : α) (m : List (Nat × α)) (k : Nat) (v : α) :
    merase (mset d m k v) k = merase m k := by
  unfold mset
  split
  · exact merase_of_not_mem _ _ (not_mem_merase m k)
  · exact merase_minsert _ _ _ (not_mem_merase m k)

/-- Of two writes of one key the second stands. -/
@[simp] theorem mset_mset [DecidableEq α] (d : α) (m : List (Nat × α)) (k : Nat) (v w : α) :
    mset d (mset d m k v) k w = mset d m k w := by
  simp only [mset]
  have := merase_mset d m k v
  unfold mset at this
  rw [this]

/-! ### The canonical form -/

theorem mwf_cons [DecidableEq α] (d : α) (k : Nat) (v : α) (t : List (Nat × α)) :
    mwf d ((k, v) :: t) = true ↔ v ≠ d ∧ (∀ x ∈ t, k < x.1) ∧ mwf d t = true := by
  induction t generalizing k v with
  | nil => simp [mwf]
  | cons x t ih =>
    obtain ⟨a, w⟩ := x
    simp only [mwf, Bool.and_eq_true, decide_eq_true_eq, Bool.not_eq_true', decide_eq_false_iff_not]
    constructor
    · rintro ⟨⟨hk, hv⟩, h⟩
      refine ⟨hv, ?_, h⟩
      rintro y hy
      rcases List.mem_cons.1 hy with rfl | hy
      · exact hk
      · exact lt_trans hk (((ih a w).1 h).2.1 y hy)
    · rintro ⟨hv, hall, h⟩
      exact ⟨⟨hall (a, w) (by simp), hv⟩, h⟩

theorem merase_sub (m : List (Nat × α)) (k : Nat) : ∀ x ∈ merase m k, x ∈ m := by
  induction m with
  | nil => simp [merase]
  | cons x t ih =>
    obtain ⟨a, v⟩ := x
    by_cases h : a = k
    · simp only [merase, if_pos h]; exact fun y hy => List.mem_cons_of_mem _ (ih y hy)
    · simp only [merase, if_neg h, List.mem_cons]
      rintro y (rfl | hy)
      · exact Or.inl rfl
      · exact Or.inr (ih y hy)

theorem minsert_sub (m : List (Nat × α)) (k : Nat) (v : α) : ∀ x ∈ minsert k v m, x = (k, v) ∨ x ∈ m := by
  induction m with
  | nil => simp [minsert]
  | cons x t ih =>
    obtain ⟨a, w⟩ := x
    simp only [minsert]
    split
    · simp
    · simp only [List.mem_cons]
      rintro y (rfl | hy)
      · exact Or.inr (Or.inl rfl)
      · rcases ih y hy with h | h
        · exact Or.inl h
        · exact Or.inr (Or.inr h)

theorem mwf_merase [DecidableEq α] (d : α) (m : List (Nat × α)) (k : Nat) (h : mwf d m = true) : mwf d (merase m k) = true := by
  induction m with
  | nil => rfl
  | cons x t ih =>
    obtain ⟨a, v⟩ := x
    obtain ⟨hv, hall, ht⟩ := (mwf_cons d a v t).1 h
    by_cases hk : a = k
    · simp only [merase, if_pos hk]; exact ih ht
    · simp only [merase, if_neg hk]
      exact (mwf_cons d a v _).2 ⟨hv, fun y hy => hall y (merase_sub t k y hy), ih ht⟩

theorem mwf_minsert [DecidableEq α] (d : α) (m : List (Nat × α)) (k : Nat) (v : α) (h : mwf d m = true)
    (hk : ∀ x ∈ m, x.1 ≠ k) (hv : v ≠ d) : mwf d (minsert k v m) = true := by
  induction m with
  | nil => simpa [minsert, mwf] using hv
  | cons x t ih =>
    obtain ⟨a, w⟩ := x
    obtain ⟨hw, hall, ht⟩ := (mwf_cons d a w t).1 h
    simp only [minsert]
    split
    · next hlt =>
      refine (mwf_cons d k v _).2 ⟨hv, ?_, h⟩
      rintro y hy
      rcases List.mem_cons.1 hy with rfl | hy
      · exact hlt
      · exact lt_trans hlt (hall y hy)
    · next hlt =>
      have ha : a ≠ k := hk (a, w) (by simp)
      refine (mwf_cons d a w _).2 ⟨hw, ?_, ih ht fun y hy => hk y (by simp [hy])⟩
      intro y hy
      rcases minsert_sub t k v y hy with rfl | hy
      · exact lt_of_le_of_ne (not_lt.1 hlt) ha
      · exact hall y hy

/-- A write keeps the canonical form. -/
theorem mwf_mset [DecidableEq α] (d : α) (m : List (Nat × α)) (k : Nat) (v : α) (h : mwf d m = true) :
    mwf d (mset d m k v) = true := by
  unfold mset
  split
  · exact mwf_merase d m k h
  · next hv => exact mwf_minsert d _ k v (mwf_merase d m k h) (not_mem_merase m k) hv

end Sys2Proof.Machine
end

