-- ==== Sys2Proof/Laws/State.lean ====
section
/-! SUPPORT. Every update of the device names one field: the others stand. One law for each field and update. -/
namespace Sys2Proof.Machine

@[simp] theorem setReg_cores (d : Dev) (a : Nat) (v : Reg32) : (d.setReg a v).cores = d.cores := rfl
@[simp] theorem setReg_bars (d : Dev) (a : Nat) (v : Reg32) : (d.setReg a v).bars = d.bars := rfl
@[simp] theorem setReg_latch (d : Dev) (a : Nat) (v : Reg32) : (d.setReg a v).latch = d.latch := rfl
@[simp] theorem setReg_heldLo (d : Dev) (a : Nat) (v : Reg32) : (d.setReg a v).heldLo = d.heldLo := rfl
@[simp] theorem setReg_mem (d : Dev) (a : Nat) (v : Reg32) : (d.setReg a v).mem = d.mem := rfl
@[simp] theorem setReg_coh (d : Dev) (a : Nat) (v : Reg32) : (d.setReg a v).coh = d.coh := rfl
@[simp] theorem setReg_img (d : Dev) (a : Nat) (v : Reg32) : (d.setReg a v).img = d.img := rfl
@[simp] theorem setReg_spindleOf (d : Dev) (a : Nat) (v : Reg32) : (d.setReg a v).spindleOf = d.spindleOf := rfl
@[simp] theorem setReg_reeling (d : Dev) (a : Nat) (v : Reg32) : (d.setReg a v).reeling = d.reeling := rfl
@[simp] theorem setReg_lost (d : Dev) (a : Nat) (v : Reg32) : (d.setReg a v).lost = d.lost := rfl
@[simp] theorem setReg_safe (d : Dev) (a : Nat) (v : Reg32) : (d.setReg a v).safe = d.safe := rfl
@[simp] theorem setReg_now (d : Dev) (a : Nat) (v : Reg32) : (d.setReg a v).now = d.now := rfl
@[simp] theorem setReg_dom (d : Dev) (a : Nat) (v : Reg32) : (d.setReg a v).dom = d.dom := rfl
@[simp] theorem setReg_hubCnt (d : Dev) (a : Nat) (v : Reg32) : (d.setReg a v).hubCnt = d.hubCnt := rfl
@[simp] theorem setReg_freeCtr (d : Dev) (a : Nat) (v : Reg32) : (d.setReg a v).freeCtr = d.freeCtr := rfl
@[simp] theorem setReg_ports (d : Dev) (a : Nat) (v : Reg32) : (d.setReg a v).ports = d.ports := rfl
@[simp] theorem setReg_heldVec (d : Dev) (a : Nat) (v : Reg32) : (d.setReg a v).heldVec = d.heldVec := rfl
@[simp] theorem setReg_trace (d : Dev) (a : Nat) (v : Reg32) : (d.setReg a v).trace = d.trace := rfl
@[simp] theorem setReg_wdog (d : Dev) (a : Nat) (v : Reg32) : (d.setReg a v).wdog = d.wdog := rfl
@[simp] theorem setReg_bq (d : Dev) (a : Nat) (v : Reg32) : (d.setReg a v).bq = d.bq := rfl
@[simp] theorem setReg_fns (d : Dev) (a : Nat) (v : Reg32) : (d.setReg a v).fns = d.fns := rfl
@[simp] theorem setReg_bundles (d : Dev) (a : Nat) (v : Reg32) : (d.setReg a v).bundles = d.bundles := rfl
@[simp] theorem setReg_hank (d : Dev) (a : Nat) (v : Reg32) : (d.setReg a v).hank = d.hank := rfl
@[simp] theorem setReg_out (d : Dev) (a : Nat) (v : Reg32) : (d.setReg a v).out = d.out := rfl
@[simp] theorem setReg_dst (d : Dev) (a : Nat) (v : Reg32) : (d.setReg a v).dst = d.dst := rfl
@[simp] theorem setReg_pwr (d : Dev) (a : Nat) (v : Reg32) : (d.setReg a v).pwr = d.pwr := rfl
@[simp] theorem setReg_dram (d : Dev) (a : Nat) (v : Reg32) : (d.setReg a v).dram = d.dram := rfl
@[simp] theorem setReg_rel (d : Dev) (a : Nat) (v : Reg32) : (d.setReg a v).rel = d.rel := rfl
@[simp] theorem setReg_links (d : Dev) (a : Nat) (v : Reg32) : (d.setReg a v).links = d.links := rfl
@[simp] theorem setReg_boot (d : Dev) (a : Nat) (v : Reg32) : (d.setReg a v).boot = d.boot := rfl
@[simp] theorem setReg_iotu (d : Dev) (a : Nat) (v : Reg32) : (d.setReg a v).iotu = d.iotu := rfl

@[simp] theorem setRegF_cores (d : Dev) (a hi lo v : Nat) : (d.setRegF a hi lo v).cores = d.cores := rfl
@[simp] theorem setRegF_bars (d : Dev) (a hi lo v : Nat) : (d.setRegF a hi lo v).bars = d.bars := rfl
@[simp] theorem setRegF_latch (d : Dev) (a hi lo v : Nat) : (d.setRegF a hi lo v).latch = d.latch := rfl
@[simp] theorem setRegF_heldLo (d : Dev) (a hi lo v : Nat) : (d.setRegF a hi lo v).heldLo = d.heldLo := rfl
@[simp] theorem setRegF_mem (d : Dev) (a hi lo v : Nat) : (d.setRegF a hi lo v).mem = d.mem := rfl
@[simp] theorem setRegF_coh (d : Dev) (a hi lo v : Nat) : (d.setRegF a hi lo v).coh = d.coh := rfl
@[simp] theorem setRegF_img (d : Dev) (a hi lo v : Nat) : (d.setRegF a hi lo v).img = d.img := rfl
@[simp] theorem setRegF_spindleOf (d : Dev) (a hi lo v : Nat) : (d.setRegF a hi lo v).spindleOf = d.spindleOf := rfl
@[simp] theorem setRegF_reeling (d : Dev) (a hi lo v : Nat) : (d.setRegF a hi lo v).reeling = d.reeling := rfl
@[simp] theorem setRegF_lost (d : Dev) (a hi lo v : Nat) : (d.setRegF a hi lo v).lost = d.lost := rfl
@[simp] theorem setRegF_safe (d : Dev) (a hi lo v : Nat) : (d.setRegF a hi lo v).safe = d.safe := rfl
@[simp] theorem setRegF_now (d : Dev) (a hi lo v : Nat) : (d.setRegF a hi lo v).now = d.now := rfl
@[simp] theorem setRegF_dom (d : Dev) (a hi lo v : Nat) : (d.setRegF a hi lo v).dom = d.dom := rfl
@[simp] theorem setRegF_hubCnt (d : Dev) (a hi lo v : Nat) : (d.setRegF a hi lo v).hubCnt = d.hubCnt := rfl
@[simp] theorem setRegF_freeCtr (d : Dev) (a hi lo v : Nat) : (d.setRegF a hi lo v).freeCtr = d.freeCtr := rfl
@[simp] theorem setRegF_ports (d : Dev) (a hi lo v : Nat) : (d.setRegF a hi lo v).ports = d.ports := rfl
@[simp] theorem setRegF_heldVec (d : Dev) (a hi lo v : Nat) : (d.setRegF a hi lo v).heldVec = d.heldVec := rfl
@[simp] theorem setRegF_trace (d : Dev) (a hi lo v : Nat) : (d.setRegF a hi lo v).trace = d.trace := rfl
@[simp] theorem setRegF_wdog (d : Dev) (a hi lo v : Nat) : (d.setRegF a hi lo v).wdog = d.wdog := rfl
@[simp] theorem setRegF_bq (d : Dev) (a hi lo v : Nat) : (d.setRegF a hi lo v).bq = d.bq := rfl
@[simp] theorem setRegF_fns (d : Dev) (a hi lo v : Nat) : (d.setRegF a hi lo v).fns = d.fns := rfl
@[simp] theorem setRegF_bundles (d : Dev) (a hi lo v : Nat) : (d.setRegF a hi lo v).bundles = d.bundles := rfl
@[simp] theorem setRegF_hank (d : Dev) (a hi lo v : Nat) : (d.setRegF a hi lo v).hank = d.hank := rfl
@[simp] theorem setRegF_out (d : Dev) (a hi lo v : Nat) : (d.setRegF a hi lo v).out = d.out := rfl
@[simp] theorem setRegF_dst (d : Dev) (a hi lo v : Nat) : (d.setRegF a hi lo v).dst = d.dst := rfl
@[simp] theorem setRegF_pwr (d : Dev) (a hi lo v : Nat) : (d.setRegF a hi lo v).pwr = d.pwr := rfl
@[simp] theorem setRegF_dram (d : Dev) (a hi lo v : Nat) : (d.setRegF a hi lo v).dram = d.dram := rfl
@[simp] theorem setRegF_rel (d : Dev) (a hi lo v : Nat) : (d.setRegF a hi lo v).rel = d.rel := rfl
@[simp] theorem setRegF_links (d : Dev) (a hi lo v : Nat) : (d.setRegF a hi lo v).links = d.links := rfl
@[simp] theorem setRegF_boot (d : Dev) (a hi lo v : Nat) : (d.setRegF a hi lo v).boot = d.boot := rfl
@[simp] theorem setRegF_iotu (d : Dev) (a hi lo v : Nat) : (d.setRegF a hi lo v).iotu = d.iotu := rfl

@[simp] theorem count_cores (d : Dev) (a : Nat) : (d.count a).cores = d.cores := rfl
@[simp] theorem count_bars (d : Dev) (a : Nat) : (d.count a).bars = d.bars := rfl
@[simp] theorem count_latch (d : Dev) (a : Nat) : (d.count a).latch = d.latch := rfl
@[simp] theorem count_heldLo (d : Dev) (a : Nat) : (d.count a).heldLo = d.heldLo := rfl
@[simp] theorem count_mem (d : Dev) (a : Nat) : (d.count a).mem = d.mem := rfl
@[simp] theorem count_coh (d : Dev) (a : Nat) : (d.count a).coh = d.coh := rfl
@[simp] theorem count_img (d : Dev) (a : Nat) : (d.count a).img = d.img := rfl
@[simp] theorem count_spindleOf (d : Dev) (a : Nat) : (d.count a).spindleOf = d.spindleOf := rfl
@[simp] theorem count_reeling (d : Dev) (a : Nat) : (d.count a).reeling = d.reeling := rfl
@[simp] theorem count_lost (d : Dev) (a : Nat) : (d.count a).lost = d.lost := rfl
@[simp] theorem count_safe (d : Dev) (a : Nat) : (d.count a).safe = d.safe := rfl
@[simp] theorem count_now (d : Dev) (a : Nat) : (d.count a).now = d.now := rfl
@[simp] theorem count_dom (d : Dev) (a : Nat) : (d.count a).dom = d.dom := rfl
@[simp] theorem count_hubCnt (d : Dev) (a : Nat) : (d.count a).hubCnt = d.hubCnt := rfl
@[simp] theorem count_freeCtr (d : Dev) (a : Nat) : (d.count a).freeCtr = d.freeCtr := rfl
@[simp] theorem count_ports (d : Dev) (a : Nat) : (d.count a).ports = d.ports := rfl
@[simp] theorem count_heldVec (d : Dev) (a : Nat) : (d.count a).heldVec = d.heldVec := rfl
@[simp] theorem count_trace (d : Dev) (a : Nat) : (d.count a).trace = d.trace := rfl
@[simp] theorem count_wdog (d : Dev) (a : Nat) : (d.count a).wdog = d.wdog := rfl
@[simp] theorem count_bq (d : Dev) (a : Nat) : (d.count a).bq = d.bq := rfl
@[simp] theorem count_fns (d : Dev) (a : Nat) : (d.count a).fns = d.fns := rfl
@[simp] theorem count_bundles (d : Dev) (a : Nat) : (d.count a).bundles = d.bundles := rfl
@[simp] theorem count_hank (d : Dev) (a : Nat) : (d.count a).hank = d.hank := rfl
@[simp] theorem count_out (d : Dev) (a : Nat) : (d.count a).out = d.out := rfl
@[simp] theorem count_dst (d : Dev) (a : Nat) : (d.count a).dst = d.dst := rfl
@[simp] theorem count_pwr (d : Dev) (a : Nat) : (d.count a).pwr = d.pwr := rfl
@[simp] theorem count_dram (d : Dev) (a : Nat) : (d.count a).dram = d.dram := rfl
@[simp] theorem count_rel (d : Dev) (a : Nat) : (d.count a).rel = d.rel := rfl
@[simp] theorem count_links (d : Dev) (a : Nat) : (d.count a).links = d.links := rfl
@[simp] theorem count_boot (d : Dev) (a : Nat) : (d.count a).boot = d.boot := rfl
@[simp] theorem count_iotu (d : Dev) (a : Nat) : (d.count a).iotu = d.iotu := rfl

@[simp] theorem countN_cores (d : Dev) (a n : Nat) : (d.countN a n).cores = d.cores := rfl
@[simp] theorem countN_bars (d : Dev) (a n : Nat) : (d.countN a n).bars = d.bars := rfl
@[simp] theorem countN_latch (d : Dev) (a n : Nat) : (d.countN a n).latch = d.latch := rfl
@[simp] theorem countN_heldLo (d : Dev) (a n : Nat) : (d.countN a n).heldLo = d.heldLo := rfl
@[simp] theorem countN_mem (d : Dev) (a n : Nat) : (d.countN a n).mem = d.mem := rfl
@[simp] theorem countN_coh (d : Dev) (a n : Nat) : (d.countN a n).coh = d.coh := rfl
@[simp] theorem countN_img (d : Dev) (a n : Nat) : (d.countN a n).img = d.img := rfl
@[simp] theorem countN_spindleOf (d : Dev) (a n : Nat) : (d.countN a n).spindleOf = d.spindleOf := rfl
@[simp] theorem countN_reeling (d : Dev) (a n : Nat) : (d.countN a n).reeling = d.reeling := rfl
@[simp] theorem countN_lost (d : Dev) (a n : Nat) : (d.countN a n).lost = d.lost := rfl
@[simp] theorem countN_safe (d : Dev) (a n : Nat) : (d.countN a n).safe = d.safe := rfl
@[simp] theorem countN_now (d : Dev) (a n : Nat) : (d.countN a n).now = d.now := rfl
@[simp] theorem countN_dom (d : Dev) (a n : Nat) : (d.countN a n).dom = d.dom := rfl
@[simp] theorem countN_hubCnt (d : Dev) (a n : Nat) : (d.countN a n).hubCnt = d.hubCnt := rfl
@[simp] theorem countN_freeCtr (d : Dev) (a n : Nat) : (d.countN a n).freeCtr = d.freeCtr := rfl
@[simp] theorem countN_ports (d : Dev) (a n : Nat) : (d.countN a n).ports = d.ports := rfl
@[simp] theorem countN_heldVec (d : Dev) (a n : Nat) : (d.countN a n).heldVec = d.heldVec := rfl
@[simp] theorem countN_trace (d : Dev) (a n : Nat) : (d.countN a n).trace = d.trace := rfl
@[simp] theorem countN_wdog (d : Dev) (a n : Nat) : (d.countN a n).wdog = d.wdog := rfl
@[simp] theorem countN_bq (d : Dev) (a n : Nat) : (d.countN a n).bq = d.bq := rfl
@[simp] theorem countN_fns (d : Dev) (a n : Nat) : (d.countN a n).fns = d.fns := rfl
@[simp] theorem countN_bundles (d : Dev) (a n : Nat) : (d.countN a n).bundles = d.bundles := rfl
@[simp] theorem countN_hank (d : Dev) (a n : Nat) : (d.countN a n).hank = d.hank := rfl
@[simp] theorem countN_out (d : Dev) (a n : Nat) : (d.countN a n).out = d.out := rfl
@[simp] theorem countN_dst (d : Dev) (a n : Nat) : (d.countN a n).dst = d.dst := rfl
@[simp] theorem countN_pwr (d : Dev) (a n : Nat) : (d.countN a n).pwr = d.pwr := rfl
@[simp] theorem countN_dram (d : Dev) (a n : Nat) : (d.countN a n).dram = d.dram := rfl
@[simp] theorem countN_rel (d : Dev) (a n : Nat) : (d.countN a n).rel = d.rel := rfl
@[simp] theorem countN_links (d : Dev) (a n : Nat) : (d.countN a n).links = d.links := rfl
@[simp] theorem countN_boot (d : Dev) (a n : Nat) : (d.countN a n).boot = d.boot := rfl
@[simp] theorem countN_iotu (d : Dev) (a n : Nat) : (d.countN a n).iotu = d.iotu := rfl

@[simp] theorem setReg64_cores (d : Dev) (a v : Nat) : (d.setReg64 a v).cores = d.cores := rfl
@[simp] theorem setReg64_bars (d : Dev) (a v : Nat) : (d.setReg64 a v).bars = d.bars := rfl
@[simp] theorem setReg64_latch (d : Dev) (a v : Nat) : (d.setReg64 a v).latch = d.latch := rfl
@[simp] theorem setReg64_heldLo (d : Dev) (a v : Nat) : (d.setReg64 a v).heldLo = d.heldLo := rfl
@[simp] theorem setReg64_mem (d : Dev) (a v : Nat) : (d.setReg64 a v).mem = d.mem := rfl
@[simp] theorem setReg64_coh (d : Dev) (a v : Nat) : (d.setReg64 a v).coh = d.coh := rfl
@[simp] theorem setReg64_img (d : Dev) (a v : Nat) : (d.setReg64 a v).img = d.img := rfl
@[simp] theorem setReg64_spindleOf (d : Dev) (a v : Nat) : (d.setReg64 a v).spindleOf = d.spindleOf := rfl
@[simp] theorem setReg64_reeling (d : Dev) (a v : Nat) : (d.setReg64 a v).reeling = d.reeling := rfl
@[simp] theorem setReg64_lost (d : Dev) (a v : Nat) : (d.setReg64 a v).lost = d.lost := rfl
@[simp] theorem setReg64_safe (d : Dev) (a v : Nat) : (d.setReg64 a v).safe = d.safe := rfl
@[simp] theorem setReg64_now (d : Dev) (a v : Nat) : (d.setReg64 a v).now = d.now := rfl
@[simp] theorem setReg64_dom (d : Dev) (a v : Nat) : (d.setReg64 a v).dom = d.dom := rfl
@[simp] theorem setReg64_hubCnt (d : Dev) (a v : Nat) : (d.setReg64 a v).hubCnt = d.hubCnt := rfl
@[simp] theorem setReg64_freeCtr (d : Dev) (a v : Nat) : (d.setReg64 a v).freeCtr = d.freeCtr := rfl
@[simp] theorem setReg64_ports (d : Dev) (a v : Nat) : (d.setReg64 a v).ports = d.ports := rfl
@[simp] theorem setReg64_heldVec (d : Dev) (a v : Nat) : (d.setReg64 a v).heldVec = d.heldVec := rfl
@[simp] theorem setReg64_trace (d : Dev) (a v : Nat) : (d.setReg64 a v).trace = d.trace := rfl
@[simp] theorem setReg64_wdog (d : Dev) (a v : Nat) : (d.setReg64 a v).wdog = d.wdog := rfl
@[simp] theorem setReg64_bq (d : Dev) (a v : Nat) : (d.setReg64 a v).bq = d.bq := rfl
@[simp] theorem setReg64_fns (d : Dev) (a v : Nat) : (d.setReg64 a v).fns = d.fns := rfl
@[simp] theorem setReg64_bundles (d : Dev) (a v : Nat) : (d.setReg64 a v).bundles = d.bundles := rfl
@[simp] theorem setReg64_hank (d : Dev) (a v : Nat) : (d.setReg64 a v).hank = d.hank := rfl
@[simp] theorem setReg64_out (d : Dev) (a v : Nat) : (d.setReg64 a v).out = d.out := rfl
@[simp] theorem setReg64_dst (d : Dev) (a v : Nat) : (d.setReg64 a v).dst = d.dst := rfl
@[simp] theorem setReg64_pwr (d : Dev) (a v : Nat) : (d.setReg64 a v).pwr = d.pwr := rfl
@[simp] theorem setReg64_dram (d : Dev) (a v : Nat) : (d.setReg64 a v).dram = d.dram := rfl
@[simp] theorem setReg64_rel (d : Dev) (a v : Nat) : (d.setReg64 a v).rel = d.rel := rfl
@[simp] theorem setReg64_links (d : Dev) (a v : Nat) : (d.setReg64 a v).links = d.links := rfl
@[simp] theorem setReg64_boot (d : Dev) (a v : Nat) : (d.setReg64 a v).boot = d.boot := rfl
@[simp] theorem setReg64_iotu (d : Dev) (a v : Nat) : (d.setReg64 a v).iotu = d.iotu := rfl

@[simp] theorem setCore_regs (d : Dev) (l : Nat) (c : Core) : (d.setCore l c).regs = d.regs := rfl
@[simp] theorem setCore_bars (d : Dev) (l : Nat) (c : Core) : (d.setCore l c).bars = d.bars := rfl
@[simp] theorem setCore_latch (d : Dev) (l : Nat) (c : Core) : (d.setCore l c).latch = d.latch := rfl
@[simp] theorem setCore_heldLo (d : Dev) (l : Nat) (c : Core) : (d.setCore l c).heldLo = d.heldLo := rfl
@[simp] theorem setCore_mem (d : Dev) (l : Nat) (c : Core) : (d.setCore l c).mem = d.mem := rfl
@[simp] theorem setCore_coh (d : Dev) (l : Nat) (c : Core) : (d.setCore l c).coh = d.coh := rfl
@[simp] theorem setCore_img (d : Dev) (l : Nat) (c : Core) : (d.setCore l c).img = d.img := rfl
@[simp] theorem setCore_spindleOf (d : Dev) (l : Nat) (c : Core) : (d.setCore l c).spindleOf = d.spindleOf := rfl
@[simp] theorem setCore_reeling (d : Dev) (l : Nat) (c : Core) : (d.setCore l c).reeling = d.reeling := rfl
@[simp] theorem setCore_lost (d : Dev) (l : Nat) (c : Core) : (d.setCore l c).lost = d.lost := rfl
@[simp] theorem setCore_safe (d : Dev) (l : Nat) (c : Core) : (d.setCore l c).safe = d.safe := rfl
@[simp] theorem setCore_now (d : Dev) (l : Nat) (c : Core) : (d.setCore l c).now = d.now := rfl
@[simp] theorem setCore_dom (d : Dev) (l : Nat) (c : Core) : (d.setCore l c).dom = d.dom := rfl
@[simp] theorem setCore_hubCnt (d : Dev) (l : Nat) (c : Core) : (d.setCore l c).hubCnt = d.hubCnt := rfl
@[simp] theorem setCore_freeCtr (d : Dev) (l : Nat) (c : Core) : (d.setCore l c).freeCtr = d.freeCtr := rfl
@[simp] theorem setCore_ports (d : Dev) (l : Nat) (c : Core) : (d.setCore l c).ports = d.ports := rfl
@[simp] theorem setCore_heldVec (d : Dev) (l : Nat) (c : Core) : (d.setCore l c).heldVec = d.heldVec := rfl
@[simp] theorem setCore_trace (d : Dev) (l : Nat) (c : Core) : (d.setCore l c).trace = d.trace := rfl
@[simp] theorem setCore_wdog (d : Dev) (l : Nat) (c : Core) : (d.setCore l c).wdog = d.wdog := rfl
@[simp] theorem setCore_bq (d : Dev) (l : Nat) (c : Core) : (d.setCore l c).bq = d.bq := rfl
@[simp] theorem setCore_fns (d : Dev) (l : Nat) (c : Core) : (d.setCore l c).fns = d.fns := rfl
@[simp] theorem setCore_bundles (d : Dev) (l : Nat) (c : Core) : (d.setCore l c).bundles = d.bundles := rfl
@[simp] theorem setCore_hank (d : Dev) (l : Nat) (c : Core) : (d.setCore l c).hank = d.hank := rfl
@[simp] theorem setCore_out (d : Dev) (l : Nat) (c : Core) : (d.setCore l c).out = d.out := rfl
@[simp] theorem setCore_dst (d : Dev) (l : Nat) (c : Core) : (d.setCore l c).dst = d.dst := rfl
@[simp] theorem setCore_pwr (d : Dev) (l : Nat) (c : Core) : (d.setCore l c).pwr = d.pwr := rfl
@[simp] theorem setCore_dram (d : Dev) (l : Nat) (c : Core) : (d.setCore l c).dram = d.dram := rfl
@[simp] theorem setCore_rel (d : Dev) (l : Nat) (c : Core) : (d.setCore l c).rel = d.rel := rfl
@[simp] theorem setCore_links (d : Dev) (l : Nat) (c : Core) : (d.setCore l c).links = d.links := rfl
@[simp] theorem setCore_boot (d : Dev) (l : Nat) (c : Core) : (d.setCore l c).boot = d.boot := rfl
@[simp] theorem setCore_iotu (d : Dev) (l : Nat) (c : Core) : (d.setCore l c).iotu = d.iotu := rfl

@[simp] theorem updCore_regs (d : Dev) (l : Nat) (f : Core → Core) : (d.updCore l f).regs = d.regs := rfl
@[simp] theorem updCore_bars (d : Dev) (l : Nat) (f : Core → Core) : (d.updCore l f).bars = d.bars := rfl
@[simp] theorem updCore_latch (d : Dev) (l : Nat) (f : Core → Core) : (d.updCore l f).latch = d.latch := rfl
@[simp] theorem updCore_heldLo (d : Dev) (l : Nat) (f : Core → Core) : (d.updCore l f).heldLo = d.heldLo := rfl
@[simp] theorem updCore_mem (d : Dev) (l : Nat) (f : Core → Core) : (d.updCore l f).mem = d.mem := rfl
@[simp] theorem updCore_coh (d : Dev) (l : Nat) (f : Core → Core) : (d.updCore l f).coh = d.coh := rfl
@[simp] theorem updCore_img (d : Dev) (l : Nat) (f : Core → Core) : (d.updCore l f).img = d.img := rfl
@[simp] theorem updCore_spindleOf (d : Dev) (l : Nat) (f : Core → Core) : (d.updCore l f).spindleOf = d.spindleOf := rfl
@[simp] theorem updCore_reeling (d : Dev) (l : Nat) (f : Core → Core) : (d.updCore l f).reeling = d.reeling := rfl
@[simp] theorem updCore_lost (d : Dev) (l : Nat) (f : Core → Core) : (d.updCore l f).lost = d.lost := rfl
@[simp] theorem updCore_safe (d : Dev) (l : Nat) (f : Core → Core) : (d.updCore l f).safe = d.safe := rfl
@[simp] theorem updCore_now (d : Dev) (l : Nat) (f : Core → Core) : (d.updCore l f).now = d.now := rfl
@[simp] theorem updCore_dom (d : Dev) (l : Nat) (f : Core → Core) : (d.updCore l f).dom = d.dom := rfl
@[simp] theorem updCore_hubCnt (d : Dev) (l : Nat) (f : Core → Core) : (d.updCore l f).hubCnt = d.hubCnt := rfl
@[simp] theorem updCore_freeCtr (d : Dev) (l : Nat) (f : Core → Core) : (d.updCore l f).freeCtr = d.freeCtr := rfl
@[simp] theorem updCore_ports (d : Dev) (l : Nat) (f : Core → Core) : (d.updCore l f).ports = d.ports := rfl
@[simp] theorem updCore_heldVec (d : Dev) (l : Nat) (f : Core → Core) : (d.updCore l f).heldVec = d.heldVec := rfl
@[simp] theorem updCore_trace (d : Dev) (l : Nat) (f : Core → Core) : (d.updCore l f).trace = d.trace := rfl
@[simp] theorem updCore_wdog (d : Dev) (l : Nat) (f : Core → Core) : (d.updCore l f).wdog = d.wdog := rfl
@[simp] theorem updCore_bq (d : Dev) (l : Nat) (f : Core → Core) : (d.updCore l f).bq = d.bq := rfl
@[simp] theorem updCore_fns (d : Dev) (l : Nat) (f : Core → Core) : (d.updCore l f).fns = d.fns := rfl
@[simp] theorem updCore_bundles (d : Dev) (l : Nat) (f : Core → Core) : (d.updCore l f).bundles = d.bundles := rfl
@[simp] theorem updCore_hank (d : Dev) (l : Nat) (f : Core → Core) : (d.updCore l f).hank = d.hank := rfl
@[simp] theorem updCore_out (d : Dev) (l : Nat) (f : Core → Core) : (d.updCore l f).out = d.out := rfl
@[simp] theorem updCore_dst (d : Dev) (l : Nat) (f : Core → Core) : (d.updCore l f).dst = d.dst := rfl
@[simp] theorem updCore_pwr (d : Dev) (l : Nat) (f : Core → Core) : (d.updCore l f).pwr = d.pwr := rfl
@[simp] theorem updCore_dram (d : Dev) (l : Nat) (f : Core → Core) : (d.updCore l f).dram = d.dram := rfl
@[simp] theorem updCore_rel (d : Dev) (l : Nat) (f : Core → Core) : (d.updCore l f).rel = d.rel := rfl
@[simp] theorem updCore_links (d : Dev) (l : Nat) (f : Core → Core) : (d.updCore l f).links = d.links := rfl
@[simp] theorem updCore_boot (d : Dev) (l : Nat) (f : Core → Core) : (d.updCore l f).boot = d.boot := rfl
@[simp] theorem updCore_iotu (d : Dev) (l : Nat) (f : Core → Core) : (d.updCore l f).iotu = d.iotu := rfl

@[simp] theorem setPort_cores (d : Dev) (k : Nat) (p : BPort) : (d.setPort k p).cores = d.cores := rfl
@[simp] theorem setPort_regs (d : Dev) (k : Nat) (p : BPort) : (d.setPort k p).regs = d.regs := rfl
@[simp] theorem setPort_bars (d : Dev) (k : Nat) (p : BPort) : (d.setPort k p).bars = d.bars := rfl
@[simp] theorem setPort_latch (d : Dev) (k : Nat) (p : BPort) : (d.setPort k p).latch = d.latch := rfl
@[simp] theorem setPort_heldLo (d : Dev) (k : Nat) (p : BPort) : (d.setPort k p).heldLo = d.heldLo := rfl
@[simp] theorem setPort_mem (d : Dev) (k : Nat) (p : BPort) : (d.setPort k p).mem = d.mem := rfl
@[simp] theorem setPort_coh (d : Dev) (k : Nat) (p : BPort) : (d.setPort k p).coh = d.coh := rfl
@[simp] theorem setPort_img (d : Dev) (k : Nat) (p : BPort) : (d.setPort k p).img = d.img := rfl
@[simp] theorem setPort_spindleOf (d : Dev) (k : Nat) (p : BPort) : (d.setPort k p).spindleOf = d.spindleOf := rfl
@[simp] theorem setPort_reeling (d : Dev) (k : Nat) (p : BPort) : (d.setPort k p).reeling = d.reeling := rfl
@[simp] theorem setPort_lost (d : Dev) (k : Nat) (p : BPort) : (d.setPort k p).lost = d.lost := rfl
@[simp] theorem setPort_safe (d : Dev) (k : Nat) (p : BPort) : (d.setPort k p).safe = d.safe := rfl
@[simp] theorem setPort_now (d : Dev) (k : Nat) (p : BPort) : (d.setPort k p).now = d.now := rfl
@[simp] theorem setPort_dom (d : Dev) (k : Nat) (p : BPort) : (d.setPort k p).dom = d.dom := rfl
@[simp] theorem setPort_hubCnt (d : Dev) (k : Nat) (p : BPort) : (d.setPort k p).hubCnt = d.hubCnt := rfl
@[simp] theorem setPort_freeCtr (d : Dev) (k : Nat) (p : BPort) : (d.setPort k p).freeCtr = d.freeCtr := rfl
@[simp] theorem setPort_heldVec (d : Dev) (k : Nat) (p : BPort) : (d.setPort k p).heldVec = d.heldVec := rfl
@[simp] theorem setPort_trace (d : Dev) (k : Nat) (p : BPort) : (d.setPort k p).trace = d.trace := rfl
@[simp] theorem setPort_wdog (d : Dev) (k : Nat) (p : BPort) : (d.setPort k p).wdog = d.wdog := rfl
@[simp] theorem setPort_bq (d : Dev) (k : Nat) (p : BPort) : (d.setPort k p).bq = d.bq := rfl
@[simp] theorem setPort_fns (d : Dev) (k : Nat) (p : BPort) : (d.setPort k p).fns = d.fns := rfl
@[simp] theorem setPort_bundles (d : Dev) (k : Nat) (p : BPort) : (d.setPort k p).bundles = d.bundles := rfl
@[simp] theorem setPort_hank (d : Dev) (k : Nat) (p : BPort) : (d.setPort k p).hank = d.hank := rfl
@[simp] theorem setPort_out (d : Dev) (k : Nat) (p : BPort) : (d.setPort k p).out = d.out := rfl
@[simp] theorem setPort_dst (d : Dev) (k : Nat) (p : BPort) : (d.setPort k p).dst = d.dst := rfl
@[simp] theorem setPort_pwr (d : Dev) (k : Nat) (p : BPort) : (d.setPort k p).pwr = d.pwr := rfl
@[simp] theorem setPort_dram (d : Dev) (k : Nat) (p : BPort) : (d.setPort k p).dram = d.dram := rfl
@[simp] theorem setPort_rel (d : Dev) (k : Nat) (p : BPort) : (d.setPort k p).rel = d.rel := rfl
@[simp] theorem setPort_links (d : Dev) (k : Nat) (p : BPort) : (d.setPort k p).links = d.links := rfl
@[simp] theorem setPort_boot (d : Dev) (k : Nat) (p : BPort) : (d.setPort k p).boot = d.boot := rfl
@[simp] theorem setPort_iotu (d : Dev) (k : Nat) (p : BPort) : (d.setPort k p).iotu = d.iotu := rfl

@[simp] theorem setDom_cores (d : Dev) (k : Nat) (x : Domain) : (d.setDom k x).cores = d.cores := rfl
@[simp] theorem setDom_regs (d : Dev) (k : Nat) (x : Domain) : (d.setDom k x).regs = d.regs := rfl
@[simp] theorem setDom_bars (d : Dev) (k : Nat) (x : Domain) : (d.setDom k x).bars = d.bars := rfl
@[simp] theorem setDom_latch (d : Dev) (k : Nat) (x : Domain) : (d.setDom k x).latch = d.latch := rfl
@[simp] theorem setDom_heldLo (d : Dev) (k : Nat) (x : Domain) : (d.setDom k x).heldLo = d.heldLo := rfl
@[simp] theorem setDom_mem (d : Dev) (k : Nat) (x : Domain) : (d.setDom k x).mem = d.mem := rfl
@[simp] theorem setDom_coh (d : Dev) (k : Nat) (x : Domain) : (d.setDom k x).coh = d.coh := rfl
@[simp] theorem setDom_img (d : Dev) (k : Nat) (x : Domain) : (d.setDom k x).img = d.img := rfl
@[simp] theorem setDom_spindleOf (d : Dev) (k : Nat) (x : Domain) : (d.setDom k x).spindleOf = d.spindleOf := rfl
@[simp] theorem setDom_reeling (d : Dev) (k : Nat) (x : Domain) : (d.setDom k x).reeling = d.reeling := rfl
@[simp] theorem setDom_lost (d : Dev) (k : Nat) (x : Domain) : (d.setDom k x).lost = d.lost := rfl
@[simp] theorem setDom_safe (d : Dev) (k : Nat) (x : Domain) : (d.setDom k x).safe = d.safe := rfl
@[simp] theorem setDom_now (d : Dev) (k : Nat) (x : Domain) : (d.setDom k x).now = d.now := rfl
@[simp] theorem setDom_hubCnt (d : Dev) (k : Nat) (x : Domain) : (d.setDom k x).hubCnt = d.hubCnt := rfl
@[simp] theorem setDom_freeCtr (d : Dev) (k : Nat) (x : Domain) : (d.setDom k x).freeCtr = d.freeCtr := rfl
@[simp] theorem setDom_ports (d : Dev) (k : Nat) (x : Domain) : (d.setDom k x).ports = d.ports := rfl
@[simp] theorem setDom_heldVec (d : Dev) (k : Nat) (x : Domain) : (d.setDom k x).heldVec = d.heldVec := rfl
@[simp] theorem setDom_trace (d : Dev) (k : Nat) (x : Domain) : (d.setDom k x).trace = d.trace := rfl
@[simp] theorem setDom_wdog (d : Dev) (k : Nat) (x : Domain) : (d.setDom k x).wdog = d.wdog := rfl
@[simp] theorem setDom_bq (d : Dev) (k : Nat) (x : Domain) : (d.setDom k x).bq = d.bq := rfl
@[simp] theorem setDom_fns (d : Dev) (k : Nat) (x : Domain) : (d.setDom k x).fns = d.fns := rfl
@[simp] theorem setDom_bundles (d : Dev) (k : Nat) (x : Domain) : (d.setDom k x).bundles = d.bundles := rfl
@[simp] theorem setDom_hank (d : Dev) (k : Nat) (x : Domain) : (d.setDom k x).hank = d.hank := rfl
@[simp] theorem setDom_out (d : Dev) (k : Nat) (x : Domain) : (d.setDom k x).out = d.out := rfl
@[simp] theorem setDom_dst (d : Dev) (k : Nat) (x : Domain) : (d.setDom k x).dst = d.dst := rfl
@[simp] theorem setDom_pwr (d : Dev) (k : Nat) (x : Domain) : (d.setDom k x).pwr = d.pwr := rfl
@[simp] theorem setDom_dram (d : Dev) (k : Nat) (x : Domain) : (d.setDom k x).dram = d.dram := rfl
@[simp] theorem setDom_rel (d : Dev) (k : Nat) (x : Domain) : (d.setDom k x).rel = d.rel := rfl
@[simp] theorem setDom_links (d : Dev) (k : Nat) (x : Domain) : (d.setDom k x).links = d.links := rfl
@[simp] theorem setDom_boot (d : Dev) (k : Nat) (x : Domain) : (d.setDom k x).boot = d.boot := rfl
@[simp] theorem setDom_iotu (d : Dev) (k : Nat) (x : Domain) : (d.setDom k x).iotu = d.iotu := rfl

@[simp] theorem setQ_cores (d : Dev) (n : Nat) (c : QCtx) : (d.setQ n c).cores = d.cores := rfl
@[simp] theorem setQ_regs (d : Dev) (n : Nat) (c : QCtx) : (d.setQ n c).regs = d.regs := rfl
@[simp] theorem setQ_bars (d : Dev) (n : Nat) (c : QCtx) : (d.setQ n c).bars = d.bars := rfl
@[simp] theorem setQ_latch (d : Dev) (n : Nat) (c : QCtx) : (d.setQ n c).latch = d.latch := rfl
@[simp] theorem setQ_heldLo (d : Dev) (n : Nat) (c : QCtx) : (d.setQ n c).heldLo = d.heldLo := rfl
@[simp] theorem setQ_mem (d : Dev) (n : Nat) (c : QCtx) : (d.setQ n c).mem = d.mem := rfl
@[simp] theorem setQ_coh (d : Dev) (n : Nat) (c : QCtx) : (d.setQ n c).coh = d.coh := rfl
@[simp] theorem setQ_img (d : Dev) (n : Nat) (c : QCtx) : (d.setQ n c).img = d.img := rfl
@[simp] theorem setQ_spindleOf (d : Dev) (n : Nat) (c : QCtx) : (d.setQ n c).spindleOf = d.spindleOf := rfl
@[simp] theorem setQ_reeling (d : Dev) (n : Nat) (c : QCtx) : (d.setQ n c).reeling = d.reeling := rfl
@[simp] theorem setQ_lost (d : Dev) (n : Nat) (c : QCtx) : (d.setQ n c).lost = d.lost := rfl
@[simp] theorem setQ_safe (d : Dev) (n : Nat) (c : QCtx) : (d.setQ n c).safe = d.safe := rfl
@[simp] theorem setQ_now (d : Dev) (n : Nat) (c : QCtx) : (d.setQ n c).now = d.now := rfl
@[simp] theorem setQ_dom (d : Dev) (n : Nat) (c : QCtx) : (d.setQ n c).dom = d.dom := rfl
@[simp] theorem setQ_hubCnt (d : Dev) (n : Nat) (c : QCtx) : (d.setQ n c).hubCnt = d.hubCnt := rfl
@[simp] theorem setQ_freeCtr (d : Dev) (n : Nat) (c : QCtx) : (d.setQ n c).freeCtr = d.freeCtr := rfl
@[simp] theorem setQ_ports (d : Dev) (n : Nat) (c : QCtx) : (d.setQ n c).ports = d.ports := rfl
@[simp] theorem setQ_heldVec (d : Dev) (n : Nat) (c : QCtx) : (d.setQ n c).heldVec = d.heldVec := rfl
@[simp] theorem setQ_trace (d : Dev) (n : Nat) (c : QCtx) : (d.setQ n c).trace = d.trace := rfl
@[simp] theorem setQ_wdog (d : Dev) (n : Nat) (c : QCtx) : (d.setQ n c).wdog = d.wdog := rfl
@[simp] theorem setQ_fns (d : Dev) (n : Nat) (c : QCtx) : (d.setQ n c).fns = d.fns := rfl
@[simp] theorem setQ_bundles (d : Dev) (n : Nat) (c : QCtx) : (d.setQ n c).bundles = d.bundles := rfl
@[simp] theorem setQ_hank (d : Dev) (n : Nat) (c : QCtx) : (d.setQ n c).hank = d.hank := rfl
@[simp] theorem setQ_out (d : Dev) (n : Nat) (c : QCtx) : (d.setQ n c).out = d.out := rfl
@[simp] theorem setQ_dst (d : Dev) (n : Nat) (c : QCtx) : (d.setQ n c).dst = d.dst := rfl
@[simp] theorem setQ_pwr (d : Dev) (n : Nat) (c : QCtx) : (d.setQ n c).pwr = d.pwr := rfl
@[simp] theorem setQ_dram (d : Dev) (n : Nat) (c : QCtx) : (d.setQ n c).dram = d.dram := rfl
@[simp] theorem setQ_rel (d : Dev) (n : Nat) (c : QCtx) : (d.setQ n c).rel = d.rel := rfl
@[simp] theorem setQ_links (d : Dev) (n : Nat) (c : QCtx) : (d.setQ n c).links = d.links := rfl
@[simp] theorem setQ_boot (d : Dev) (n : Nat) (c : QCtx) : (d.setQ n c).boot = d.boot := rfl
@[simp] theorem setQ_iotu (d : Dev) (n : Nat) (c : QCtx) : (d.setQ n c).iotu = d.iotu := rfl

@[simp] theorem updQ_cores (d : Dev) (n : Nat) (f : QCtx → QCtx) : (d.updQ n f).cores = d.cores := rfl
@[simp] theorem updQ_regs (d : Dev) (n : Nat) (f : QCtx → QCtx) : (d.updQ n f).regs = d.regs := rfl
@[simp] theorem updQ_bars (d : Dev) (n : Nat) (f : QCtx → QCtx) : (d.updQ n f).bars = d.bars := rfl
@[simp] theorem updQ_latch (d : Dev) (n : Nat) (f : QCtx → QCtx) : (d.updQ n f).latch = d.latch := rfl
@[simp] theorem updQ_heldLo (d : Dev) (n : Nat) (f : QCtx → QCtx) : (d.updQ n f).heldLo = d.heldLo := rfl
@[simp] theorem updQ_mem (d : Dev) (n : Nat) (f : QCtx → QCtx) : (d.updQ n f).mem = d.mem := rfl
@[simp] theorem updQ_coh (d : Dev) (n : Nat) (f : QCtx → QCtx) : (d.updQ n f).coh = d.coh := rfl
@[simp] theorem updQ_img (d : Dev) (n : Nat) (f : QCtx → QCtx) : (d.updQ n f).img = d.img := rfl
@[simp] theorem updQ_spindleOf (d : Dev) (n : Nat) (f : QCtx → QCtx) : (d.updQ n f).spindleOf = d.spindleOf := rfl
@[simp] theorem updQ_reeling (d : Dev) (n : Nat) (f : QCtx → QCtx) : (d.updQ n f).reeling = d.reeling := rfl
@[simp] theorem updQ_lost (d : Dev) (n : Nat) (f : QCtx → QCtx) : (d.updQ n f).lost = d.lost := rfl
@[simp] theorem updQ_safe (d : Dev) (n : Nat) (f : QCtx → QCtx) : (d.updQ n f).safe = d.safe := rfl
@[simp] theorem updQ_now (d : Dev) (n : Nat) (f : QCtx → QCtx) : (d.updQ n f).now = d.now := rfl
@[simp] theorem updQ_dom (d : Dev) (n : Nat) (f : QCtx → QCtx) : (d.updQ n f).dom = d.dom := rfl
@[simp] theorem updQ_hubCnt (d : Dev) (n : Nat) (f : QCtx → QCtx) : (d.updQ n f).hubCnt = d.hubCnt := rfl
@[simp] theorem updQ_freeCtr (d : Dev) (n : Nat) (f : QCtx → QCtx) : (d.updQ n f).freeCtr = d.freeCtr := rfl
@[simp] theorem updQ_ports (d : Dev) (n : Nat) (f : QCtx → QCtx) : (d.updQ n f).ports = d.ports := rfl
@[simp] theorem updQ_heldVec (d : Dev) (n : Nat) (f : QCtx → QCtx) : (d.updQ n f).heldVec = d.heldVec := rfl
@[simp] theorem updQ_trace (d : Dev) (n : Nat) (f : QCtx → QCtx) : (d.updQ n f).trace = d.trace := rfl
@[simp] theorem updQ_wdog (d : Dev) (n : Nat) (f : QCtx → QCtx) : (d.updQ n f).wdog = d.wdog := rfl
@[simp] theorem updQ_fns (d : Dev) (n : Nat) (f : QCtx → QCtx) : (d.updQ n f).fns = d.fns := rfl
@[simp] theorem updQ_bundles (d : Dev) (n : Nat) (f : QCtx → QCtx) : (d.updQ n f).bundles = d.bundles := rfl
@[simp] theorem updQ_hank (d : Dev) (n : Nat) (f : QCtx → QCtx) : (d.updQ n f).hank = d.hank := rfl
@[simp] theorem updQ_out (d : Dev) (n : Nat) (f : QCtx → QCtx) : (d.updQ n f).out = d.out := rfl
@[simp] theorem updQ_dst (d : Dev) (n : Nat) (f : QCtx → QCtx) : (d.updQ n f).dst = d.dst := rfl
@[simp] theorem updQ_pwr (d : Dev) (n : Nat) (f : QCtx → QCtx) : (d.updQ n f).pwr = d.pwr := rfl
@[simp] theorem updQ_dram (d : Dev) (n : Nat) (f : QCtx → QCtx) : (d.updQ n f).dram = d.dram := rfl
@[simp] theorem updQ_rel (d : Dev) (n : Nat) (f : QCtx → QCtx) : (d.updQ n f).rel = d.rel := rfl
@[simp] theorem updQ_links (d : Dev) (n : Nat) (f : QCtx → QCtx) : (d.updQ n f).links = d.links := rfl
@[simp] theorem updQ_boot (d : Dev) (n : Nat) (f : QCtx → QCtx) : (d.updQ n f).boot = d.boot := rfl
@[simp] theorem updQ_iotu (d : Dev) (n : Nat) (f : QCtx → QCtx) : (d.updQ n f).iotu = d.iotu := rfl

@[simp] theorem setBar_cores (d : Dev) (k off : Nat) (v : Reg32) : (d.setBar k off v).cores = d.cores := rfl
@[simp] theorem setBar_regs (d : Dev) (k off : Nat) (v : Reg32) : (d.setBar k off v).regs = d.regs := rfl
@[simp] theorem setBar_latch (d : Dev) (k off : Nat) (v : Reg32) : (d.setBar k off v).latch = d.latch := rfl
@[simp] theorem setBar_heldLo (d : Dev) (k off : Nat) (v : Reg32) : (d.setBar k off v).heldLo = d.heldLo := rfl
@[simp] theorem setBar_mem (d : Dev) (k off : Nat) (v : Reg32) : (d.setBar k off v).mem = d.mem := rfl
@[simp] theorem setBar_coh (d : Dev) (k off : Nat) (v : Reg32) : (d.setBar k off v).coh = d.coh := rfl
@[simp] theorem setBar_img (d : Dev) (k off : Nat) (v : Reg32) : (d.setBar k off v).img = d.img := rfl
@[simp] theorem setBar_spindleOf (d : Dev) (k off : Nat) (v : Reg32) : (d.setBar k off v).spindleOf = d.spindleOf := rfl
@[simp] theorem setBar_reeling (d : Dev) (k off : Nat) (v : Reg32) : (d.setBar k off v).reeling = d.reeling := rfl
@[simp] theorem setBar_lost (d : Dev) (k off : Nat) (v : Reg32) : (d.setBar k off v).lost = d.lost := rfl
@[simp] theorem setBar_safe (d : Dev) (k off : Nat) (v : Reg32) : (d.setBar k off v).safe = d.safe := rfl
@[simp] theorem setBar_now (d : Dev) (k off : Nat) (v : Reg32) : (d.setBar k off v).now = d.now := rfl
@[simp] theorem setBar_dom (d : Dev) (k off : Nat) (v : Reg32) : (d.setBar k off v).dom = d.dom := rfl
@[simp] theorem setBar_hubCnt (d : Dev) (k off : Nat) (v : Reg32) : (d.setBar k off v).hubCnt = d.hubCnt := rfl
@[simp] theorem setBar_freeCtr (d : Dev) (k off : Nat) (v : Reg32) : (d.setBar k off v).freeCtr = d.freeCtr := rfl
@[simp] theorem setBar_ports (d : Dev) (k off : Nat) (v : Reg32) : (d.setBar k off v).ports = d.ports := rfl
@[simp] theorem setBar_heldVec (d : Dev) (k off : Nat) (v : Reg32) : (d.setBar k off v).heldVec = d.heldVec := rfl
@[simp] theorem setBar_trace (d : Dev) (k off : Nat) (v : Reg32) : (d.setBar k off v).trace = d.trace := rfl
@[simp] theorem setBar_wdog (d : Dev) (k off : Nat) (v : Reg32) : (d.setBar k off v).wdog = d.wdog := rfl
@[simp] theorem setBar_bq (d : Dev) (k off : Nat) (v : Reg32) : (d.setBar k off v).bq = d.bq := rfl
@[simp] theorem setBar_fns (d : Dev) (k off : Nat) (v : Reg32) : (d.setBar k off v).fns = d.fns := rfl
@[simp] theorem setBar_bundles (d : Dev) (k off : Nat) (v : Reg32) : (d.setBar k off v).bundles = d.bundles := rfl
@[simp] theorem setBar_hank (d : Dev) (k off : Nat) (v : Reg32) : (d.setBar k off v).hank = d.hank := rfl
@[simp] theorem setBar_out (d : Dev) (k off : Nat) (v : Reg32) : (d.setBar k off v).out = d.out := rfl
@[simp] theorem setBar_dst (d : Dev) (k off : Nat) (v : Reg32) : (d.setBar k off v).dst = d.dst := rfl
@[simp] theorem setBar_pwr (d : Dev) (k off : Nat) (v : Reg32) : (d.setBar k off v).pwr = d.pwr := rfl
@[simp] theorem setBar_dram (d : Dev) (k off : Nat) (v : Reg32) : (d.setBar k off v).dram = d.dram := rfl
@[simp] theorem setBar_rel (d : Dev) (k off : Nat) (v : Reg32) : (d.setBar k off v).rel = d.rel := rfl
@[simp] theorem setBar_links (d : Dev) (k off : Nat) (v : Reg32) : (d.setBar k off v).links = d.links := rfl
@[simp] theorem setBar_boot (d : Dev) (k off : Nat) (v : Reg32) : (d.setBar k off v).boot = d.boot := rfl
@[simp] theorem setBar_iotu (d : Dev) (k off : Nat) (v : Reg32) : (d.setBar k off v).iotu = d.iotu := rfl

@[simp] theorem setBarF_cores (d : Dev) (k off hi lo v : Nat) : (d.setBarF k off hi lo v).cores = d.cores := rfl
@[simp] theorem setBarF_regs (d : Dev) (k off hi lo v : Nat) : (d.setBarF k off hi lo v).regs = d.regs := rfl
@[simp] theorem setBarF_latch (d : Dev) (k off hi lo v : Nat) : (d.setBarF k off hi lo v).latch = d.latch := rfl
@[simp] theorem setBarF_heldLo (d : Dev) (k off hi lo v : Nat) : (d.setBarF k off hi lo v).heldLo = d.heldLo := rfl
@[simp] theorem setBarF_mem (d : Dev) (k off hi lo v : Nat) : (d.setBarF k off hi lo v).mem = d.mem := rfl
@[simp] theorem setBarF_coh (d : Dev) (k off hi lo v : Nat) : (d.setBarF k off hi lo v).coh = d.coh := rfl
@[simp] theorem setBarF_img (d : Dev) (k off hi lo v : Nat) : (d.setBarF k off hi lo v).img = d.img := rfl
@[simp] theorem setBarF_spindleOf (d : Dev) (k off hi lo v : Nat) : (d.setBarF k off hi lo v).spindleOf = d.spindleOf := rfl
@[simp] theorem setBarF_reeling (d : Dev) (k off hi lo v : Nat) : (d.setBarF k off hi lo v).reeling = d.reeling := rfl
@[simp] theorem setBarF_lost (d : Dev) (k off hi lo v : Nat) : (d.setBarF k off hi lo v).lost = d.lost := rfl
@[simp] theorem setBarF_safe (d : Dev) (k off hi lo v : Nat) : (d.setBarF k off hi lo v).safe = d.safe := rfl
@[simp] theorem setBarF_now (d : Dev) (k off hi lo v : Nat) : (d.setBarF k off hi lo v).now = d.now := rfl
@[simp] theorem setBarF_dom (d : Dev) (k off hi lo v : Nat) : (d.setBarF k off hi lo v).dom = d.dom := rfl
@[simp] theorem setBarF_hubCnt (d : Dev) (k off hi lo v : Nat) : (d.setBarF k off hi lo v).hubCnt = d.hubCnt := rfl
@[simp] theorem setBarF_freeCtr (d : Dev) (k off hi lo v : Nat) : (d.setBarF k off hi lo v).freeCtr = d.freeCtr := rfl
@[simp] theorem setBarF_ports (d : Dev) (k off hi lo v : Nat) : (d.setBarF k off hi lo v).ports = d.ports := rfl
@[simp] theorem setBarF_heldVec (d : Dev) (k off hi lo v : Nat) : (d.setBarF k off hi lo v).heldVec = d.heldVec := rfl
@[simp] theorem setBarF_trace (d : Dev) (k off hi lo v : Nat) : (d.setBarF k off hi lo v).trace = d.trace := rfl
@[simp] theorem setBarF_wdog (d : Dev) (k off hi lo v : Nat) : (d.setBarF k off hi lo v).wdog = d.wdog := rfl
@[simp] theorem setBarF_bq (d : Dev) (k off hi lo v : Nat) : (d.setBarF k off hi lo v).bq = d.bq := rfl
@[simp] theorem setBarF_fns (d : Dev) (k off hi lo v : Nat) : (d.setBarF k off hi lo v).fns = d.fns := rfl
@[simp] theorem setBarF_bundles (d : Dev) (k off hi lo v : Nat) : (d.setBarF k off hi lo v).bundles = d.bundles := rfl
@[simp] theorem setBarF_hank (d : Dev) (k off hi lo v : Nat) : (d.setBarF k off hi lo v).hank = d.hank := rfl
@[simp] theorem setBarF_out (d : Dev) (k off hi lo v : Nat) : (d.setBarF k off hi lo v).out = d.out := rfl
@[simp] theorem setBarF_dst (d : Dev) (k off hi lo v : Nat) : (d.setBarF k off hi lo v).dst = d.dst := rfl
@[simp] theorem setBarF_pwr (d : Dev) (k off hi lo v : Nat) : (d.setBarF k off hi lo v).pwr = d.pwr := rfl
@[simp] theorem setBarF_dram (d : Dev) (k off hi lo v : Nat) : (d.setBarF k off hi lo v).dram = d.dram := rfl
@[simp] theorem setBarF_rel (d : Dev) (k off hi lo v : Nat) : (d.setBarF k off hi lo v).rel = d.rel := rfl
@[simp] theorem setBarF_links (d : Dev) (k off hi lo v : Nat) : (d.setBarF k off hi lo v).links = d.links := rfl
@[simp] theorem setBarF_boot (d : Dev) (k off hi lo v : Nat) : (d.setBarF k off hi lo v).boot = d.boot := rfl
@[simp] theorem setBarF_iotu (d : Dev) (k off hi lo v : Nat) : (d.setBarF k off hi lo v).iotu = d.iotu := rfl

@[simp] theorem updFn_cores (d : Dev) (k : Nat) (f : Fn → Fn) : (d.updFn k f).cores = d.cores := rfl
@[simp] theorem updFn_regs (d : Dev) (k : Nat) (f : Fn → Fn) : (d.updFn k f).regs = d.regs := rfl
@[simp] theorem updFn_bars (d : Dev) (k : Nat) (f : Fn → Fn) : (d.updFn k f).bars = d.bars := rfl
@[simp] theorem updFn_latch (d : Dev) (k : Nat) (f : Fn → Fn) : (d.updFn k f).latch = d.latch := rfl
@[simp] theorem updFn_heldLo (d : Dev) (k : Nat) (f : Fn → Fn) : (d.updFn k f).heldLo = d.heldLo := rfl
@[simp] theorem updFn_mem (d : Dev) (k : Nat) (f : Fn → Fn) : (d.updFn k f).mem = d.mem := rfl
@[simp] theorem updFn_coh (d : Dev) (k : Nat) (f : Fn → Fn) : (d.updFn k f).coh = d.coh := rfl
@[simp] theorem updFn_img (d : Dev) (k : Nat) (f : Fn → Fn) : (d.updFn k f).img = d.img := rfl
@[simp] theorem updFn_spindleOf (d : Dev) (k : Nat) (f : Fn → Fn) : (d.updFn k f).spindleOf = d.spindleOf := rfl
@[simp] theorem updFn_reeling (d : Dev) (k : Nat) (f : Fn → Fn) : (d.updFn k f).reeling = d.reeling := rfl
@[simp] theorem updFn_lost (d : Dev) (k : Nat) (f : Fn → Fn) : (d.updFn k f).lost = d.lost := rfl
@[simp] theorem updFn_safe (d : Dev) (k : Nat) (f : Fn → Fn) : (d.updFn k f).safe = d.safe := rfl
@[simp] theorem updFn_now (d : Dev) (k : Nat) (f : Fn → Fn) : (d.updFn k f).now = d.now := rfl
@[simp] theorem updFn_dom (d : Dev) (k : Nat) (f : Fn → Fn) : (d.updFn k f).dom = d.dom := rfl
@[simp] theorem updFn_hubCnt (d : Dev) (k : Nat) (f : Fn → Fn) : (d.updFn k f).hubCnt = d.hubCnt := rfl
@[simp] theorem updFn_freeCtr (d : Dev) (k : Nat) (f : Fn → Fn) : (d.updFn k f).freeCtr = d.freeCtr := rfl
@[simp] theorem updFn_ports (d : Dev) (k : Nat) (f : Fn → Fn) : (d.updFn k f).ports = d.ports := rfl
@[simp] theorem updFn_heldVec (d : Dev) (k : Nat) (f : Fn → Fn) : (d.updFn k f).heldVec = d.heldVec := rfl
@[simp] theorem updFn_trace (d : Dev) (k : Nat) (f : Fn → Fn) : (d.updFn k f).trace = d.trace := rfl
@[simp] theorem updFn_wdog (d : Dev) (k : Nat) (f : Fn → Fn) : (d.updFn k f).wdog = d.wdog := rfl
@[simp] theorem updFn_bq (d : Dev) (k : Nat) (f : Fn → Fn) : (d.updFn k f).bq = d.bq := rfl
@[simp] theorem updFn_bundles (d : Dev) (k : Nat) (f : Fn → Fn) : (d.updFn k f).bundles = d.bundles := rfl
@[simp] theorem updFn_hank (d : Dev) (k : Nat) (f : Fn → Fn) : (d.updFn k f).hank = d.hank := rfl
@[simp] theorem updFn_out (d : Dev) (k : Nat) (f : Fn → Fn) : (d.updFn k f).out = d.out := rfl
@[simp] theorem updFn_dst (d : Dev) (k : Nat) (f : Fn → Fn) : (d.updFn k f).dst = d.dst := rfl
@[simp] theorem updFn_pwr (d : Dev) (k : Nat) (f : Fn → Fn) : (d.updFn k f).pwr = d.pwr := rfl
@[simp] theorem updFn_dram (d : Dev) (k : Nat) (f : Fn → Fn) : (d.updFn k f).dram = d.dram := rfl
@[simp] theorem updFn_rel (d : Dev) (k : Nat) (f : Fn → Fn) : (d.updFn k f).rel = d.rel := rfl
@[simp] theorem updFn_links (d : Dev) (k : Nat) (f : Fn → Fn) : (d.updFn k f).links = d.links := rfl
@[simp] theorem updFn_boot (d : Dev) (k : Nat) (f : Fn → Fn) : (d.updFn k f).boot = d.boot := rfl
@[simp] theorem updFn_iotu (d : Dev) (k : Nat) (f : Fn → Fn) : (d.updFn k f).iotu = d.iotu := rfl

@[simp] theorem updBun_cores (d : Dev) (b : Nat) (f : Bundle → Bundle) : (d.updBun b f).cores = d.cores := rfl
@[simp] theorem updBun_regs (d : Dev) (b : Nat) (f : Bundle → Bundle) : (d.updBun b f).regs = d.regs := rfl
@[simp] theorem updBun_bars (d : Dev) (b : Nat) (f : Bundle → Bundle) : (d.updBun b f).bars = d.bars := rfl
@[simp] theorem updBun_latch (d : Dev) (b : Nat) (f : Bundle → Bundle) : (d.updBun b f).latch = d.latch := rfl
@[simp] theorem updBun_heldLo (d : Dev) (b : Nat) (f : Bundle → Bundle) : (d.updBun b f).heldLo = d.heldLo := rfl
@[simp] theorem updBun_mem (d : Dev) (b : Nat) (f : Bundle → Bundle) : (d.updBun b f).mem = d.mem := rfl
@[simp] theorem updBun_coh (d : Dev) (b : Nat) (f : Bundle → Bundle) : (d.updBun b f).coh = d.coh := rfl
@[simp] theorem updBun_img (d : Dev) (b : Nat) (f : Bundle → Bundle) : (d.updBun b f).img = d.img := rfl
@[simp] theorem updBun_spindleOf (d : Dev) (b : Nat) (f : Bundle → Bundle) : (d.updBun b f).spindleOf = d.spindleOf := rfl
@[simp] theorem updBun_reeling (d : Dev) (b : Nat) (f : Bundle → Bundle) : (d.updBun b f).reeling = d.reeling := rfl
@[simp] theorem updBun_lost (d : Dev) (b : Nat) (f : Bundle → Bundle) : (d.updBun b f).lost = d.lost := rfl
@[simp] theorem updBun_safe (d : Dev) (b : Nat) (f : Bundle → Bundle) : (d.updBun b f).safe = d.safe := rfl
@[simp] theorem updBun_now (d : Dev) (b : Nat) (f : Bundle → Bundle) : (d.updBun b f).now = d.now := rfl
@[simp] theorem updBun_dom (d : Dev) (b : Nat) (f : Bundle → Bundle) : (d.updBun b f).dom = d.dom := rfl
@[simp] theorem updBun_hubCnt (d : Dev) (b : Nat) (f : Bundle → Bundle) : (d.updBun b f).hubCnt = d.hubCnt := rfl
@[simp] theorem updBun_freeCtr (d : Dev) (b : Nat) (f : Bundle → Bundle) : (d.updBun b f).freeCtr = d.freeCtr := rfl
@[simp] theorem updBun_ports (d : Dev) (b : Nat) (f : Bundle → Bundle) : (d.updBun b f).ports = d.ports := rfl
@[simp] theorem updBun_heldVec (d : Dev) (b : Nat) (f : Bundle → Bundle) : (d.updBun b f).heldVec = d.heldVec := rfl
@[simp] theorem updBun_trace (d : Dev) (b : Nat) (f : Bundle → Bundle) : (d.updBun b f).trace = d.trace := rfl
@[simp] theorem updBun_wdog (d : Dev) (b : Nat) (f : Bundle → Bundle) : (d.updBun b f).wdog = d.wdog := rfl
@[simp] theorem updBun_bq (d : Dev) (b : Nat) (f : Bundle → Bundle) : (d.updBun b f).bq = d.bq := rfl
@[simp] theorem updBun_fns (d : Dev) (b : Nat) (f : Bundle → Bundle) : (d.updBun b f).fns = d.fns := rfl
@[simp] theorem updBun_hank (d : Dev) (b : Nat) (f : Bundle → Bundle) : (d.updBun b f).hank = d.hank := rfl
@[simp] theorem updBun_out (d : Dev) (b : Nat) (f : Bundle → Bundle) : (d.updBun b f).out = d.out := rfl
@[simp] theorem updBun_dst (d : Dev) (b : Nat) (f : Bundle → Bundle) : (d.updBun b f).dst = d.dst := rfl
@[simp] theorem updBun_pwr (d : Dev) (b : Nat) (f : Bundle → Bundle) : (d.updBun b f).pwr = d.pwr := rfl
@[simp] theorem updBun_dram (d : Dev) (b : Nat) (f : Bundle → Bundle) : (d.updBun b f).dram = d.dram := rfl
@[simp] theorem updBun_rel (d : Dev) (b : Nat) (f : Bundle → Bundle) : (d.updBun b f).rel = d.rel := rfl
@[simp] theorem updBun_links (d : Dev) (b : Nat) (f : Bundle → Bundle) : (d.updBun b f).links = d.links := rfl
@[simp] theorem updBun_boot (d : Dev) (b : Nat) (f : Bundle → Bundle) : (d.updBun b f).boot = d.boot := rfl
@[simp] theorem updBun_iotu (d : Dev) (b : Nat) (f : Bundle → Bundle) : (d.updBun b f).iotu = d.iotu := rfl

@[simp] theorem updChan_cores (d : Dev) (c : Nat) (f : Chan → Chan) : (d.updChan c f).cores = d.cores := rfl
@[simp] theorem updChan_regs (d : Dev) (c : Nat) (f : Chan → Chan) : (d.updChan c f).regs = d.regs := rfl
@[simp] theorem updChan_bars (d : Dev) (c : Nat) (f : Chan → Chan) : (d.updChan c f).bars = d.bars := rfl
@[simp] theorem updChan_latch (d : Dev) (c : Nat) (f : Chan → Chan) : (d.updChan c f).latch = d.latch := rfl
@[simp] theorem updChan_heldLo (d : Dev) (c : Nat) (f : Chan → Chan) : (d.updChan c f).heldLo = d.heldLo := rfl
@[simp] theorem updChan_mem (d : Dev) (c : Nat) (f : Chan → Chan) : (d.updChan c f).mem = d.mem := rfl
@[simp] theorem updChan_coh (d : Dev) (c : Nat) (f : Chan → Chan) : (d.updChan c f).coh = d.coh := rfl
@[simp] theorem updChan_img (d : Dev) (c : Nat) (f : Chan → Chan) : (d.updChan c f).img = d.img := rfl
@[simp] theorem updChan_spindleOf (d : Dev) (c : Nat) (f : Chan → Chan) : (d.updChan c f).spindleOf = d.spindleOf := rfl
@[simp] theorem updChan_reeling (d : Dev) (c : Nat) (f : Chan → Chan) : (d.updChan c f).reeling = d.reeling := rfl
@[simp] theorem updChan_lost (d : Dev) (c : Nat) (f : Chan → Chan) : (d.updChan c f).lost = d.lost := rfl
@[simp] theorem updChan_safe (d : Dev) (c : Nat) (f : Chan → Chan) : (d.updChan c f).safe = d.safe := rfl
@[simp] theorem updChan_now (d : Dev) (c : Nat) (f : Chan → Chan) : (d.updChan c f).now = d.now := rfl
@[simp] theorem updChan_dom (d : Dev) (c : Nat) (f : Chan → Chan) : (d.updChan c f).dom = d.dom := rfl
@[simp] theorem updChan_hubCnt (d : Dev) (c : Nat) (f : Chan → Chan) : (d.updChan c f).hubCnt = d.hubCnt := rfl
@[simp] theorem updChan_freeCtr (d : Dev) (c : Nat) (f : Chan → Chan) : (d.updChan c f).freeCtr = d.freeCtr := rfl
@[simp] theorem updChan_ports (d : Dev) (c : Nat) (f : Chan → Chan) : (d.updChan c f).ports = d.ports := rfl
@[simp] theorem updChan_heldVec (d : Dev) (c : Nat) (f : Chan → Chan) : (d.updChan c f).heldVec = d.heldVec := rfl
@[simp] theorem updChan_trace (d : Dev) (c : Nat) (f : Chan → Chan) : (d.updChan c f).trace = d.trace := rfl
@[simp] theorem updChan_wdog (d : Dev) (c : Nat) (f : Chan → Chan) : (d.updChan c f).wdog = d.wdog := rfl
@[simp] theorem updChan_bq (d : Dev) (c : Nat) (f : Chan → Chan) : (d.updChan c f).bq = d.bq := rfl
@[simp] theorem updChan_bundles (d : Dev) (c : Nat) (f : Chan → Chan) : (d.updChan c f).bundles = d.bundles := rfl
@[simp] theorem updChan_hank (d : Dev) (c : Nat) (f : Chan → Chan) : (d.updChan c f).hank = d.hank := rfl
@[simp] theorem updChan_out (d : Dev) (c : Nat) (f : Chan → Chan) : (d.updChan c f).out = d.out := rfl
@[simp] theorem updChan_dst (d : Dev) (c : Nat) (f : Chan → Chan) : (d.updChan c f).dst = d.dst := rfl
@[simp] theorem updChan_pwr (d : Dev) (c : Nat) (f : Chan → Chan) : (d.updChan c f).pwr = d.pwr := rfl
@[simp] theorem updChan_dram (d : Dev) (c : Nat) (f : Chan → Chan) : (d.updChan c f).dram = d.dram := rfl
@[simp] theorem updChan_rel (d : Dev) (c : Nat) (f : Chan → Chan) : (d.updChan c f).rel = d.rel := rfl
@[simp] theorem updChan_links (d : Dev) (c : Nat) (f : Chan → Chan) : (d.updChan c f).links = d.links := rfl
@[simp] theorem updChan_boot (d : Dev) (c : Nat) (f : Chan → Chan) : (d.updChan c f).boot = d.boot := rfl
@[simp] theorem updChan_iotu (d : Dev) (c : Nat) (f : Chan → Chan) : (d.updChan c f).iotu = d.iotu := rfl

@[simp] theorem emit_cores (d : Dev) (o : Out) : (d.emit o).cores = d.cores := rfl
@[simp] theorem emit_regs (d : Dev) (o : Out) : (d.emit o).regs = d.regs := rfl
@[simp] theorem emit_bars (d : Dev) (o : Out) : (d.emit o).bars = d.bars := rfl
@[simp] theorem emit_latch (d : Dev) (o : Out) : (d.emit o).latch = d.latch := rfl
@[simp] theorem emit_heldLo (d : Dev) (o : Out) : (d.emit o).heldLo = d.heldLo := rfl
@[simp] theorem emit_mem (d : Dev) (o : Out) : (d.emit o).mem = d.mem := rfl
@[simp] theorem emit_coh (d : Dev) (o : Out) : (d.emit o).coh = d.coh := rfl
@[simp] theorem emit_img (d : Dev) (o : Out) : (d.emit o).img = d.img := rfl
@[simp] theorem emit_spindleOf (d : Dev) (o : Out) : (d.emit o).spindleOf = d.spindleOf := rfl
@[simp] theorem emit_reeling (d : Dev) (o : Out) : (d.emit o).reeling = d.reeling := rfl
@[simp] theorem emit_lost (d : Dev) (o : Out) : (d.emit o).lost = d.lost := rfl
@[simp] theorem emit_safe (d : Dev) (o : Out) : (d.emit o).safe = d.safe := rfl
@[simp] theorem emit_now (d : Dev) (o : Out) : (d.emit o).now = d.now := rfl
@[simp] theorem emit_dom (d : Dev) (o : Out) : (d.emit o).dom = d.dom := rfl
@[simp] theorem emit_hubCnt (d : Dev) (o : Out) : (d.emit o).hubCnt = d.hubCnt := rfl
@[simp] theorem emit_freeCtr (d : Dev) (o : Out) : (d.emit o).freeCtr = d.freeCtr := rfl
@[simp] theorem emit_ports (d : Dev) (o : Out) : (d.emit o).ports = d.ports := rfl
@[simp] theorem emit_heldVec (d : Dev) (o : Out) : (d.emit o).heldVec = d.heldVec := rfl
@[simp] theorem emit_trace (d : Dev) (o : Out) : (d.emit o).trace = d.trace := rfl
@[simp] theorem emit_wdog (d : Dev) (o : Out) : (d.emit o).wdog = d.wdog := rfl
@[simp] theorem emit_bq (d : Dev) (o : Out) : (d.emit o).bq = d.bq := rfl
@[simp] theorem emit_fns (d : Dev) (o : Out) : (d.emit o).fns = d.fns := rfl
@[simp] theorem emit_bundles (d : Dev) (o : Out) : (d.emit o).bundles = d.bundles := rfl
@[simp] theorem emit_hank (d : Dev) (o : Out) : (d.emit o).hank = d.hank := rfl
@[simp] theorem emit_dst (d : Dev) (o : Out) : (d.emit o).dst = d.dst := rfl
@[simp] theorem emit_pwr (d : Dev) (o : Out) : (d.emit o).pwr = d.pwr := rfl
@[simp] theorem emit_dram (d : Dev) (o : Out) : (d.emit o).dram = d.dram := rfl
@[simp] theorem emit_rel (d : Dev) (o : Out) : (d.emit o).rel = d.rel := rfl
@[simp] theorem emit_links (d : Dev) (o : Out) : (d.emit o).links = d.links := rfl
@[simp] theorem emit_boot (d : Dev) (o : Out) : (d.emit o).boot = d.boot := rfl
@[simp] theorem emit_iotu (d : Dev) (o : Out) : (d.emit o).iotu = d.iotu := rfl

@[simp] theorem updDst_cores (d : Dev) (f : Distaff → Distaff) : (d.updDst f).cores = d.cores := rfl
@[simp] theorem updDst_regs (d : Dev) (f : Distaff → Distaff) : (d.updDst f).regs = d.regs := rfl
@[simp] theorem updDst_bars (d : Dev) (f : Distaff → Distaff) : (d.updDst f).bars = d.bars := rfl
@[simp] theorem updDst_latch (d : Dev) (f : Distaff → Distaff) : (d.updDst f).latch = d.latch := rfl
@[simp] theorem updDst_heldLo (d : Dev) (f : Distaff → Distaff) : (d.updDst f).heldLo = d.heldLo := rfl
@[simp] theorem updDst_mem (d : Dev) (f : Distaff → Distaff) : (d.updDst f).mem = d.mem := rfl
@[simp] theorem updDst_coh (d : Dev) (f : Distaff → Distaff) : (d.updDst f).coh = d.coh := rfl
@[simp] theorem updDst_img (d : Dev) (f : Distaff → Distaff) : (d.updDst f).img = d.img := rfl
@[simp] theorem updDst_spindleOf (d : Dev) (f : Distaff → Distaff) : (d.updDst f).spindleOf = d.spindleOf := rfl
@[simp] theorem updDst_reeling (d : Dev) (f : Distaff → Distaff) : (d.updDst f).reeling = d.reeling := rfl
@[simp] theorem updDst_lost (d : Dev) (f : Distaff → Distaff) : (d.updDst f).lost = d.lost := rfl
@[simp] theorem updDst_safe (d : Dev) (f : Distaff → Distaff) : (d.updDst f).safe = d.safe := rfl
@[simp] theorem updDst_now (d : Dev) (f : Distaff → Distaff) : (d.updDst f).now = d.now := rfl
@[simp] theorem updDst_dom (d : Dev) (f : Distaff → Distaff) : (d.updDst f).dom = d.dom := rfl
@[simp] theorem updDst_hubCnt (d : Dev) (f : Distaff → Distaff) : (d.updDst f).hubCnt = d.hubCnt := rfl
@[simp] theorem updDst_freeCtr (d : Dev) (f : Distaff → Distaff) : (d.updDst f).freeCtr = d.freeCtr := rfl
@[simp] theorem updDst_ports (d : Dev) (f : Distaff → Distaff) : (d.updDst f).ports = d.ports := rfl
@[simp] theorem updDst_heldVec (d : Dev) (f : Distaff → Distaff) : (d.updDst f).heldVec = d.heldVec := rfl
@[simp] theorem updDst_trace (d : Dev) (f : Distaff → Distaff) : (d.updDst f).trace = d.trace := rfl
@[simp] theorem updDst_wdog (d : Dev) (f : Distaff → Distaff) : (d.updDst f).wdog = d.wdog := rfl
@[simp] theorem updDst_bq (d : Dev) (f : Distaff → Distaff) : (d.updDst f).bq = d.bq := rfl
@[simp] theorem updDst_fns (d : Dev) (f : Distaff → Distaff) : (d.updDst f).fns = d.fns := rfl
@[simp] theorem updDst_bundles (d : Dev) (f : Distaff → Distaff) : (d.updDst f).bundles = d.bundles := rfl
@[simp] theorem updDst_hank (d : Dev) (f : Distaff → Distaff) : (d.updDst f).hank = d.hank := rfl
@[simp] theorem updDst_out (d : Dev) (f : Distaff → Distaff) : (d.updDst f).out = d.out := rfl
@[simp] theorem updDst_pwr (d : Dev) (f : Distaff → Distaff) : (d.updDst f).pwr = d.pwr := rfl
@[simp] theorem updDst_dram (d : Dev) (f : Distaff → Distaff) : (d.updDst f).dram = d.dram := rfl
@[simp] theorem updDst_rel (d : Dev) (f : Distaff → Distaff) : (d.updDst f).rel = d.rel := rfl
@[simp] theorem updDst_links (d : Dev) (f : Distaff → Distaff) : (d.updDst f).links = d.links := rfl
@[simp] theorem updDst_boot (d : Dev) (f : Distaff → Distaff) : (d.updDst f).boot = d.boot := rfl
@[simp] theorem updDst_iotu (d : Dev) (f : Distaff → Distaff) : (d.updDst f).iotu = d.iotu := rfl

@[simp] theorem updRel_cores (d : Dev) (f : Rel → Rel) : (d.updRel f).cores = d.cores := rfl
@[simp] theorem updRel_regs (d : Dev) (f : Rel → Rel) : (d.updRel f).regs = d.regs := rfl
@[simp] theorem updRel_bars (d : Dev) (f : Rel → Rel) : (d.updRel f).bars = d.bars := rfl
@[simp] theorem updRel_latch (d : Dev) (f : Rel → Rel) : (d.updRel f).latch = d.latch := rfl
@[simp] theorem updRel_heldLo (d : Dev) (f : Rel → Rel) : (d.updRel f).heldLo = d.heldLo := rfl
@[simp] theorem updRel_mem (d : Dev) (f : Rel → Rel) : (d.updRel f).mem = d.mem := rfl
@[simp] theorem updRel_coh (d : Dev) (f : Rel → Rel) : (d.updRel f).coh = d.coh := rfl
@[simp] theorem updRel_img (d : Dev) (f : Rel → Rel) : (d.updRel f).img = d.img := rfl
@[simp] theorem updRel_spindleOf (d : Dev) (f : Rel → Rel) : (d.updRel f).spindleOf = d.spindleOf := rfl
@[simp] theorem updRel_reeling (d : Dev) (f : Rel → Rel) : (d.updRel f).reeling = d.reeling := rfl
@[simp] theorem updRel_lost (d : Dev) (f : Rel → Rel) : (d.updRel f).lost = d.lost := rfl
@[simp] theorem updRel_safe (d : Dev) (f : Rel → Rel) : (d.updRel f).safe = d.safe := rfl
@[simp] theorem updRel_now (d : Dev) (f : Rel → Rel) : (d.updRel f).now = d.now := rfl
@[simp] theorem updRel_dom (d : Dev) (f : Rel → Rel) : (d.updRel f).dom = d.dom := rfl
@[simp] theorem updRel_hubCnt (d : Dev) (f : Rel → Rel) : (d.updRel f).hubCnt = d.hubCnt := rfl
@[simp] theorem updRel_freeCtr (d : Dev) (f : Rel → Rel) : (d.updRel f).freeCtr = d.freeCtr := rfl
@[simp] theorem updRel_ports (d : Dev) (f : Rel → Rel) : (d.updRel f).ports = d.ports := rfl
@[simp] theorem updRel_heldVec (d : Dev) (f : Rel → Rel) : (d.updRel f).heldVec = d.heldVec := rfl
@[simp] theorem updRel_trace (d : Dev) (f : Rel → Rel) : (d.updRel f).trace = d.trace := rfl
@[simp] theorem updRel_wdog (d : Dev) (f : Rel → Rel) : (d.updRel f).wdog = d.wdog := rfl
@[simp] theorem updRel_bq (d : Dev) (f : Rel → Rel) : (d.updRel f).bq = d.bq := rfl
@[simp] theorem updRel_fns (d : Dev) (f : Rel → Rel) : (d.updRel f).fns = d.fns := rfl
@[simp] theorem updRel_bundles (d : Dev) (f : Rel → Rel) : (d.updRel f).bundles = d.bundles := rfl
@[simp] theorem updRel_hank (d : Dev) (f : Rel → Rel) : (d.updRel f).hank = d.hank := rfl
@[simp] theorem updRel_out (d : Dev) (f : Rel → Rel) : (d.updRel f).out = d.out := rfl
@[simp] theorem updRel_dst (d : Dev) (f : Rel → Rel) : (d.updRel f).dst = d.dst := rfl
@[simp] theorem updRel_pwr (d : Dev) (f : Rel → Rel) : (d.updRel f).pwr = d.pwr := rfl
@[simp] theorem updRel_dram (d : Dev) (f : Rel → Rel) : (d.updRel f).dram = d.dram := rfl
@[simp] theorem updRel_links (d : Dev) (f : Rel → Rel) : (d.updRel f).links = d.links := rfl
@[simp] theorem updRel_boot (d : Dev) (f : Rel → Rel) : (d.updRel f).boot = d.boot := rfl
@[simp] theorem updRel_iotu (d : Dev) (f : Rel → Rel) : (d.updRel f).iotu = d.iotu := rfl

@[simp] theorem updIotu_cores (d : Dev) (f : Iotu → Iotu) : (d.updIotu f).cores = d.cores := rfl
@[simp] theorem updIotu_regs (d : Dev) (f : Iotu → Iotu) : (d.updIotu f).regs = d.regs := rfl
@[simp] theorem updIotu_bars (d : Dev) (f : Iotu → Iotu) : (d.updIotu f).bars = d.bars := rfl
@[simp] theorem updIotu_latch (d : Dev) (f : Iotu → Iotu) : (d.updIotu f).latch = d.latch := rfl
@[simp] theorem updIotu_heldLo (d : Dev) (f : Iotu → Iotu) : (d.updIotu f).heldLo = d.heldLo := rfl
@[simp] theorem updIotu_mem (d : Dev) (f : Iotu → Iotu) : (d.updIotu f).mem = d.mem := rfl
@[simp] theorem updIotu_coh (d : Dev) (f : Iotu → Iotu) : (d.updIotu f).coh = d.coh := rfl
@[simp] theorem updIotu_img (d : Dev) (f : Iotu → Iotu) : (d.updIotu f).img = d.img := rfl
@[simp] theorem updIotu_spindleOf (d : Dev) (f : Iotu → Iotu) : (d.updIotu f).spindleOf = d.spindleOf := rfl
@[simp] theorem updIotu_reeling (d : Dev) (f : Iotu → Iotu) : (d.updIotu f).reeling = d.reeling := rfl
@[simp] theorem updIotu_lost (d : Dev) (f : Iotu → Iotu) : (d.updIotu f).lost = d.lost := rfl
@[simp] theorem updIotu_safe (d : Dev) (f : Iotu → Iotu) : (d.updIotu f).safe = d.safe := rfl
@[simp] theorem updIotu_now (d : Dev) (f : Iotu → Iotu) : (d.updIotu f).now = d.now := rfl
@[simp] theorem updIotu_dom (d : Dev) (f : Iotu → Iotu) : (d.updIotu f).dom = d.dom := rfl
@[simp] theorem updIotu_hubCnt (d : Dev) (f : Iotu → Iotu) : (d.updIotu f).hubCnt = d.hubCnt := rfl
@[simp] theorem updIotu_freeCtr (d : Dev) (f : Iotu → Iotu) : (d.updIotu f).freeCtr = d.freeCtr := rfl
@[simp] theorem updIotu_ports (d : Dev) (f : Iotu → Iotu) : (d.updIotu f).ports = d.ports := rfl
@[simp] theorem updIotu_heldVec (d : Dev) (f : Iotu → Iotu) : (d.updIotu f).heldVec = d.heldVec := rfl
@[simp] theorem updIotu_trace (d : Dev) (f : Iotu → Iotu) : (d.updIotu f).trace = d.trace := rfl
@[simp] theorem updIotu_wdog (d : Dev) (f : Iotu → Iotu) : (d.updIotu f).wdog = d.wdog := rfl
@[simp] theorem updIotu_bq (d : Dev) (f : Iotu → Iotu) : (d.updIotu f).bq = d.bq := rfl
@[simp] theorem updIotu_fns (d : Dev) (f : Iotu → Iotu) : (d.updIotu f).fns = d.fns := rfl
@[simp] theorem updIotu_bundles (d : Dev) (f : Iotu → Iotu) : (d.updIotu f).bundles = d.bundles := rfl
@[simp] theorem updIotu_hank (d : Dev) (f : Iotu → Iotu) : (d.updIotu f).hank = d.hank := rfl
@[simp] theorem updIotu_out (d : Dev) (f : Iotu → Iotu) : (d.updIotu f).out = d.out := rfl
@[simp] theorem updIotu_dst (d : Dev) (f : Iotu → Iotu) : (d.updIotu f).dst = d.dst := rfl
@[simp] theorem updIotu_pwr (d : Dev) (f : Iotu → Iotu) : (d.updIotu f).pwr = d.pwr := rfl
@[simp] theorem updIotu_dram (d : Dev) (f : Iotu → Iotu) : (d.updIotu f).dram = d.dram := rfl
@[simp] theorem updIotu_rel (d : Dev) (f : Iotu → Iotu) : (d.updIotu f).rel = d.rel := rfl
@[simp] theorem updIotu_links (d : Dev) (f : Iotu → Iotu) : (d.updIotu f).links = d.links := rfl
@[simp] theorem updIotu_boot (d : Dev) (f : Iotu → Iotu) : (d.updIotu f).boot = d.boot := rfl

@[simp] theorem updCh_cores (d : Dev) (m : Nat) (f : DramCh → DramCh) : (d.updCh m f).cores = d.cores := rfl
@[simp] theorem updCh_regs (d : Dev) (m : Nat) (f : DramCh → DramCh) : (d.updCh m f).regs = d.regs := rfl
@[simp] theorem updCh_bars (d : Dev) (m : Nat) (f : DramCh → DramCh) : (d.updCh m f).bars = d.bars := rfl
@[simp] theorem updCh_latch (d : Dev) (m : Nat) (f : DramCh → DramCh) : (d.updCh m f).latch = d.latch := rfl
@[simp] theorem updCh_heldLo (d : Dev) (m : Nat) (f : DramCh → DramCh) : (d.updCh m f).heldLo = d.heldLo := rfl
@[simp] theorem updCh_mem (d : Dev) (m : Nat) (f : DramCh → DramCh) : (d.updCh m f).mem = d.mem := rfl
@[simp] theorem updCh_coh (d : Dev) (m : Nat) (f : DramCh → DramCh) : (d.updCh m f).coh = d.coh := rfl
@[simp] theorem updCh_img (d : Dev) (m : Nat) (f : DramCh → DramCh) : (d.updCh m f).img = d.img := rfl
@[simp] theorem updCh_spindleOf (d : Dev) (m : Nat) (f : DramCh → DramCh) : (d.updCh m f).spindleOf = d.spindleOf := rfl
@[simp] theorem updCh_reeling (d : Dev) (m : Nat) (f : DramCh → DramCh) : (d.updCh m f).reeling = d.reeling := rfl
@[simp] theorem updCh_lost (d : Dev) (m : Nat) (f : DramCh → DramCh) : (d.updCh m f).lost = d.lost := rfl
@[simp] theorem updCh_safe (d : Dev) (m : Nat) (f : DramCh → DramCh) : (d.updCh m f).safe = d.safe := rfl
@[simp] theorem updCh_now (d : Dev) (m : Nat) (f : DramCh → DramCh) : (d.updCh m f).now = d.now := rfl
@[simp] theorem updCh_dom (d : Dev) (m : Nat) (f : DramCh → DramCh) : (d.updCh m f).dom = d.dom := rfl
@[simp] theorem updCh_hubCnt (d : Dev) (m : Nat) (f : DramCh → DramCh) : (d.updCh m f).hubCnt = d.hubCnt := rfl
@[simp] theorem updCh_freeCtr (d : Dev) (m : Nat) (f : DramCh → DramCh) : (d.updCh m f).freeCtr = d.freeCtr := rfl
@[simp] theorem updCh_ports (d : Dev) (m : Nat) (f : DramCh → DramCh) : (d.updCh m f).ports = d.ports := rfl
@[simp] theorem updCh_heldVec (d : Dev) (m : Nat) (f : DramCh → DramCh) : (d.updCh m f).heldVec = d.heldVec := rfl
@[simp] theorem updCh_trace (d : Dev) (m : Nat) (f : DramCh → DramCh) : (d.updCh m f).trace = d.trace := rfl
@[simp] theorem updCh_wdog (d : Dev) (m : Nat) (f : DramCh → DramCh) : (d.updCh m f).wdog = d.wdog := rfl
@[simp] theorem updCh_bq (d : Dev) (m : Nat) (f : DramCh → DramCh) : (d.updCh m f).bq = d.bq := rfl
@[simp] theorem updCh_fns (d : Dev) (m : Nat) (f : DramCh → DramCh) : (d.updCh m f).fns = d.fns := rfl
@[simp] theorem updCh_bundles (d : Dev) (m : Nat) (f : DramCh → DramCh) : (d.updCh m f).bundles = d.bundles := rfl
@[simp] theorem updCh_hank (d : Dev) (m : Nat) (f : DramCh → DramCh) : (d.updCh m f).hank = d.hank := rfl
@[simp] theorem updCh_out (d : Dev) (m : Nat) (f : DramCh → DramCh) : (d.updCh m f).out = d.out := rfl
@[simp] theorem updCh_dst (d : Dev) (m : Nat) (f : DramCh → DramCh) : (d.updCh m f).dst = d.dst := rfl
@[simp] theorem updCh_pwr (d : Dev) (m : Nat) (f : DramCh → DramCh) : (d.updCh m f).pwr = d.pwr := rfl
@[simp] theorem updCh_rel (d : Dev) (m : Nat) (f : DramCh → DramCh) : (d.updCh m f).rel = d.rel := rfl
@[simp] theorem updCh_links (d : Dev) (m : Nat) (f : DramCh → DramCh) : (d.updCh m f).links = d.links := rfl
@[simp] theorem updCh_boot (d : Dev) (m : Nat) (f : DramCh → DramCh) : (d.updCh m f).boot = d.boot := rfl
@[simp] theorem updCh_iotu (d : Dev) (m : Nat) (f : DramCh → DramCh) : (d.updCh m f).iotu = d.iotu := rfl

@[simp] theorem setDir_cores (d : Dev) (n : Nat) (e : DirEntry) : (d.setDir n e).cores = d.cores := rfl
@[simp] theorem setDir_regs (d : Dev) (n : Nat) (e : DirEntry) : (d.setDir n e).regs = d.regs := rfl
@[simp] theorem setDir_bars (d : Dev) (n : Nat) (e : DirEntry) : (d.setDir n e).bars = d.bars := rfl
@[simp] theorem setDir_latch (d : Dev) (n : Nat) (e : DirEntry) : (d.setDir n e).latch = d.latch := rfl
@[simp] theorem setDir_heldLo (d : Dev) (n : Nat) (e : DirEntry) : (d.setDir n e).heldLo = d.heldLo := rfl
@[simp] theorem setDir_mem (d : Dev) (n : Nat) (e : DirEntry) : (d.setDir n e).mem = d.mem := rfl
@[simp] theorem setDir_img (d : Dev) (n : Nat) (e : DirEntry) : (d.setDir n e).img = d.img := rfl
@[simp] theorem setDir_spindleOf (d : Dev) (n : Nat) (e : DirEntry) : (d.setDir n e).spindleOf = d.spindleOf := rfl
@[simp] theorem setDir_reeling (d : Dev) (n : Nat) (e : DirEntry) : (d.setDir n e).reeling = d.reeling := rfl
@[simp] theorem setDir_lost (d : Dev) (n : Nat) (e : DirEntry) : (d.setDir n e).lost = d.lost := rfl
@[simp] theorem setDir_safe (d : Dev) (n : Nat) (e : DirEntry) : (d.setDir n e).safe = d.safe := rfl
@[simp] theorem setDir_now (d : Dev) (n : Nat) (e : DirEntry) : (d.setDir n e).now = d.now := rfl
@[simp] theorem setDir_dom (d : Dev) (n : Nat) (e : DirEntry) : (d.setDir n e).dom = d.dom := rfl
@[simp] theorem setDir_hubCnt (d : Dev) (n : Nat) (e : DirEntry) : (d.setDir n e).hubCnt = d.hubCnt := rfl
@[simp] theorem setDir_freeCtr (d : Dev) (n : Nat) (e : DirEntry) : (d.setDir n e).freeCtr = d.freeCtr := rfl
@[simp] theorem setDir_ports (d : Dev) (n : Nat) (e : DirEntry) : (d.setDir n e).ports = d.ports := rfl
@[simp] theorem setDir_heldVec (d : Dev) (n : Nat) (e : DirEntry) : (d.setDir n e).heldVec = d.heldVec := rfl
@[simp] theorem setDir_trace (d : Dev) (n : Nat) (e : DirEntry) : (d.setDir n e).trace = d.trace := rfl
@[simp] theorem setDir_wdog (d : Dev) (n : Nat) (e : DirEntry) : (d.setDir n e).wdog = d.wdog := rfl
@[simp] theorem setDir_bq (d : Dev) (n : Nat) (e : DirEntry) : (d.setDir n e).bq = d.bq := rfl
@[simp] theorem setDir_fns (d : Dev) (n : Nat) (e : DirEntry) : (d.setDir n e).fns = d.fns := rfl
@[simp] theorem setDir_bundles (d : Dev) (n : Nat) (e : DirEntry) : (d.setDir n e).bundles = d.bundles := rfl
@[simp] theorem setDir_hank (d : Dev) (n : Nat) (e : DirEntry) : (d.setDir n e).hank = d.hank := rfl
@[simp] theorem setDir_out (d : Dev) (n : Nat) (e : DirEntry) : (d.setDir n e).out = d.out := rfl
@[simp] theorem setDir_dst (d : Dev) (n : Nat) (e : DirEntry) : (d.setDir n e).dst = d.dst := rfl
@[simp] theorem setDir_pwr (d : Dev) (n : Nat) (e : DirEntry) : (d.setDir n e).pwr = d.pwr := rfl
@[simp] theorem setDir_dram (d : Dev) (n : Nat) (e : DirEntry) : (d.setDir n e).dram = d.dram := rfl
@[simp] theorem setDir_rel (d : Dev) (n : Nat) (e : DirEntry) : (d.setDir n e).rel = d.rel := rfl
@[simp] theorem setDir_links (d : Dev) (n : Nat) (e : DirEntry) : (d.setDir n e).links = d.links := rfl
@[simp] theorem setDir_boot (d : Dev) (n : Nat) (e : DirEntry) : (d.setDir n e).boot = d.boot := rfl
@[simp] theorem setDir_iotu (d : Dev) (n : Nat) (e : DirEntry) : (d.setDir n e).iotu = d.iotu := rfl

@[simp] theorem setTxn_cores (d : Dev) (n : Nat) (t : Option HomeTxn) : (d.setTxn n t).cores = d.cores := rfl
@[simp] theorem setTxn_regs (d : Dev) (n : Nat) (t : Option HomeTxn) : (d.setTxn n t).regs = d.regs := rfl
@[simp] theorem setTxn_bars (d : Dev) (n : Nat) (t : Option HomeTxn) : (d.setTxn n t).bars = d.bars := rfl
@[simp] theorem setTxn_latch (d : Dev) (n : Nat) (t : Option HomeTxn) : (d.setTxn n t).latch = d.latch := rfl
@[simp] theorem setTxn_heldLo (d : Dev) (n : Nat) (t : Option HomeTxn) : (d.setTxn n t).heldLo = d.heldLo := rfl
@[simp] theorem setTxn_mem (d : Dev) (n : Nat) (t : Option HomeTxn) : (d.setTxn n t).mem = d.mem := rfl
@[simp] theorem setTxn_img (d : Dev) (n : Nat) (t : Option HomeTxn) : (d.setTxn n t).img = d.img := rfl
@[simp] theorem setTxn_spindleOf (d : Dev) (n : Nat) (t : Option HomeTxn) : (d.setTxn n t).spindleOf = d.spindleOf := rfl
@[simp] theorem setTxn_reeling (d : Dev) (n : Nat) (t : Option HomeTxn) : (d.setTxn n t).reeling = d.reeling := rfl
@[simp] theorem setTxn_lost (d : Dev) (n : Nat) (t : Option HomeTxn) : (d.setTxn n t).lost = d.lost := rfl
@[simp] theorem setTxn_safe (d : Dev) (n : Nat) (t : Option HomeTxn) : (d.setTxn n t).safe = d.safe := rfl
@[simp] theorem setTxn_now (d : Dev) (n : Nat) (t : Option HomeTxn) : (d.setTxn n t).now = d.now := rfl
@[simp] theorem setTxn_dom (d : Dev) (n : Nat) (t : Option HomeTxn) : (d.setTxn n t).dom = d.dom := rfl
@[simp] theorem setTxn_hubCnt (d : Dev) (n : Nat) (t : Option HomeTxn) : (d.setTxn n t).hubCnt = d.hubCnt := rfl
@[simp] theorem setTxn_freeCtr (d : Dev) (n : Nat) (t : Option HomeTxn) : (d.setTxn n t).freeCtr = d.freeCtr := rfl
@[simp] theorem setTxn_ports (d : Dev) (n : Nat) (t : Option HomeTxn) : (d.setTxn n t).ports = d.ports := rfl
@[simp] theorem setTxn_heldVec (d : Dev) (n : Nat) (t : Option HomeTxn) : (d.setTxn n t).heldVec = d.heldVec := rfl
@[simp] theorem setTxn_trace (d : Dev) (n : Nat) (t : Option HomeTxn) : (d.setTxn n t).trace = d.trace := rfl
@[simp] theorem setTxn_wdog (d : Dev) (n : Nat) (t : Option HomeTxn) : (d.setTxn n t).wdog = d.wdog := rfl
@[simp] theorem setTxn_bq (d : Dev) (n : Nat) (t : Option HomeTxn) : (d.setTxn n t).bq = d.bq := rfl
@[simp] theorem setTxn_fns (d : Dev) (n : Nat) (t : Option HomeTxn) : (d.setTxn n t).fns = d.fns := rfl
@[simp] theorem setTxn_bundles (d : Dev) (n : Nat) (t : Option HomeTxn) : (d.setTxn n t).bundles = d.bundles := rfl
@[simp] theorem setTxn_hank (d : Dev) (n : Nat) (t : Option HomeTxn) : (d.setTxn n t).hank = d.hank := rfl
@[simp] theorem setTxn_out (d : Dev) (n : Nat) (t : Option HomeTxn) : (d.setTxn n t).out = d.out := rfl
@[simp] theorem setTxn_dst (d : Dev) (n : Nat) (t : Option HomeTxn) : (d.setTxn n t).dst = d.dst := rfl
@[simp] theorem setTxn_pwr (d : Dev) (n : Nat) (t : Option HomeTxn) : (d.setTxn n t).pwr = d.pwr := rfl
@[simp] theorem setTxn_dram (d : Dev) (n : Nat) (t : Option HomeTxn) : (d.setTxn n t).dram = d.dram := rfl
@[simp] theorem setTxn_rel (d : Dev) (n : Nat) (t : Option HomeTxn) : (d.setTxn n t).rel = d.rel := rfl
@[simp] theorem setTxn_links (d : Dev) (n : Nat) (t : Option HomeTxn) : (d.setTxn n t).links = d.links := rfl
@[simp] theorem setTxn_boot (d : Dev) (n : Nat) (t : Option HomeTxn) : (d.setTxn n t).boot = d.boot := rfl
@[simp] theorem setTxn_iotu (d : Dev) (n : Nat) (t : Option HomeTxn) : (d.setTxn n t).iotu = d.iotu := rfl

@[simp] theorem send_cores (d : Dev) (k : CohKind) (a n : Nat) (bs : List Byte) : (d.send k a n bs).cores = d.cores := rfl
@[simp] theorem send_regs (d : Dev) (k : CohKind) (a n : Nat) (bs : List Byte) : (d.send k a n bs).regs = d.regs := rfl
@[simp] theorem send_bars (d : Dev) (k : CohKind) (a n : Nat) (bs : List Byte) : (d.send k a n bs).bars = d.bars := rfl
@[simp] theorem send_latch (d : Dev) (k : CohKind) (a n : Nat) (bs : List Byte) : (d.send k a n bs).latch = d.latch := rfl
@[simp] theorem send_heldLo (d : Dev) (k : CohKind) (a n : Nat) (bs : List Byte) : (d.send k a n bs).heldLo = d.heldLo := rfl
@[simp] theorem send_mem (d : Dev) (k : CohKind) (a n : Nat) (bs : List Byte) : (d.send k a n bs).mem = d.mem := rfl
@[simp] theorem send_img (d : Dev) (k : CohKind) (a n : Nat) (bs : List Byte) : (d.send k a n bs).img = d.img := rfl
@[simp] theorem send_spindleOf (d : Dev) (k : CohKind) (a n : Nat) (bs : List Byte) : (d.send k a n bs).spindleOf = d.spindleOf := rfl
@[simp] theorem send_reeling (d : Dev) (k : CohKind) (a n : Nat) (bs : List Byte) : (d.send k a n bs).reeling = d.reeling := rfl
@[simp] theorem send_lost (d : Dev) (k : CohKind) (a n : Nat) (bs : List Byte) : (d.send k a n bs).lost = d.lost := rfl
@[simp] theorem send_safe (d : Dev) (k : CohKind) (a n : Nat) (bs : List Byte) : (d.send k a n bs).safe = d.safe := rfl
@[simp] theorem send_now (d : Dev) (k : CohKind) (a n : Nat) (bs : List Byte) : (d.send k a n bs).now = d.now := rfl
@[simp] theorem send_dom (d : Dev) (k : CohKind) (a n : Nat) (bs : List Byte) : (d.send k a n bs).dom = d.dom := rfl
@[simp] theorem send_freeCtr (d : Dev) (k : CohKind) (a n : Nat) (bs : List Byte) : (d.send k a n bs).freeCtr = d.freeCtr := rfl
@[simp] theorem send_ports (d : Dev) (k : CohKind) (a n : Nat) (bs : List Byte) : (d.send k a n bs).ports = d.ports := rfl
@[simp] theorem send_heldVec (d : Dev) (k : CohKind) (a n : Nat) (bs : List Byte) : (d.send k a n bs).heldVec = d.heldVec := rfl
@[simp] theorem send_trace (d : Dev) (k : CohKind) (a n : Nat) (bs : List Byte) : (d.send k a n bs).trace = d.trace := rfl
@[simp] theorem send_wdog (d : Dev) (k : CohKind) (a n : Nat) (bs : List Byte) : (d.send k a n bs).wdog = d.wdog := rfl
@[simp] theorem send_bq (d : Dev) (k : CohKind) (a n : Nat) (bs : List Byte) : (d.send k a n bs).bq = d.bq := rfl
@[simp] theorem send_fns (d : Dev) (k : CohKind) (a n : Nat) (bs : List Byte) : (d.send k a n bs).fns = d.fns := rfl
@[simp] theorem send_bundles (d : Dev) (k : CohKind) (a n : Nat) (bs : List Byte) : (d.send k a n bs).bundles = d.bundles := rfl
@[simp] theorem send_hank (d : Dev) (k : CohKind) (a n : Nat) (bs : List Byte) : (d.send k a n bs).hank = d.hank := rfl
@[simp] theorem send_out (d : Dev) (k : CohKind) (a n : Nat) (bs : List Byte) : (d.send k a n bs).out = d.out := rfl
@[simp] theorem send_dst (d : Dev) (k : CohKind) (a n : Nat) (bs : List Byte) : (d.send k a n bs).dst = d.dst := rfl
@[simp] theorem send_pwr (d : Dev) (k : CohKind) (a n : Nat) (bs : List Byte) : (d.send k a n bs).pwr = d.pwr := rfl
@[simp] theorem send_dram (d : Dev) (k : CohKind) (a n : Nat) (bs : List Byte) : (d.send k a n bs).dram = d.dram := rfl
@[simp] theorem send_rel (d : Dev) (k : CohKind) (a n : Nat) (bs : List Byte) : (d.send k a n bs).rel = d.rel := rfl
@[simp] theorem send_links (d : Dev) (k : CohKind) (a n : Nat) (bs : List Byte) : (d.send k a n bs).links = d.links := rfl
@[simp] theorem send_boot (d : Dev) (k : CohKind) (a n : Nat) (bs : List Byte) : (d.send k a n bs).boot = d.boot := rfl
@[simp] theorem send_iotu (d : Dev) (k : CohKind) (a n : Nat) (bs : List Byte) : (d.send k a n bs).iotu = d.iotu := rfl

@[simp] theorem updStream_cores (d : Dev) (k : Nat) (f : Stream → Stream) : (d.updStream k f).cores = d.cores := rfl
@[simp] theorem updStream_regs (d : Dev) (k : Nat) (f : Stream → Stream) : (d.updStream k f).regs = d.regs := rfl
@[simp] theorem updStream_bars (d : Dev) (k : Nat) (f : Stream → Stream) : (d.updStream k f).bars = d.bars := rfl
@[simp] theorem updStream_latch (d : Dev) (k : Nat) (f : Stream → Stream) : (d.updStream k f).latch = d.latch := rfl
@[simp] theorem updStream_heldLo (d : Dev) (k : Nat) (f : Stream → Stream) : (d.updStream k f).heldLo = d.heldLo := rfl
@[simp] theorem updStream_mem (d : Dev) (k : Nat) (f : Stream → Stream) : (d.updStream k f).mem = d.mem := rfl
@[simp] theorem updStream_coh (d : Dev) (k : Nat) (f : Stream → Stream) : (d.updStream k f).coh = d.coh := rfl
@[simp] theorem updStream_img (d : Dev) (k : Nat) (f : Stream → Stream) : (d.updStream k f).img = d.img := rfl
@[simp] theorem updStream_spindleOf (d : Dev) (k : Nat) (f : Stream → Stream) : (d.updStream k f).spindleOf = d.spindleOf := rfl
@[simp] theorem updStream_reeling (d : Dev) (k : Nat) (f : Stream → Stream) : (d.updStream k f).reeling = d.reeling := rfl
@[simp] theorem updStream_lost (d : Dev) (k : Nat) (f : Stream → Stream) : (d.updStream k f).lost = d.lost := rfl
@[simp] theorem updStream_safe (d : Dev) (k : Nat) (f : Stream → Stream) : (d.updStream k f).safe = d.safe := rfl
@[simp] theorem updStream_now (d : Dev) (k : Nat) (f : Stream → Stream) : (d.updStream k f).now = d.now := rfl
@[simp] theorem updStream_dom (d : Dev) (k : Nat) (f : Stream → Stream) : (d.updStream k f).dom = d.dom := rfl
@[simp] theorem updStream_hubCnt (d : Dev) (k : Nat) (f : Stream → Stream) : (d.updStream k f).hubCnt = d.hubCnt := rfl
@[simp] theorem updStream_freeCtr (d : Dev) (k : Nat) (f : Stream → Stream) : (d.updStream k f).freeCtr = d.freeCtr := rfl
@[simp] theorem updStream_ports (d : Dev) (k : Nat) (f : Stream → Stream) : (d.updStream k f).ports = d.ports := rfl
@[simp] theorem updStream_heldVec (d : Dev) (k : Nat) (f : Stream → Stream) : (d.updStream k f).heldVec = d.heldVec := rfl
@[simp] theorem updStream_trace (d : Dev) (k : Nat) (f : Stream → Stream) : (d.updStream k f).trace = d.trace := rfl
@[simp] theorem updStream_wdog (d : Dev) (k : Nat) (f : Stream → Stream) : (d.updStream k f).wdog = d.wdog := rfl
@[simp] theorem updStream_bq (d : Dev) (k : Nat) (f : Stream → Stream) : (d.updStream k f).bq = d.bq := rfl
@[simp] theorem updStream_fns (d : Dev) (k : Nat) (f : Stream → Stream) : (d.updStream k f).fns = d.fns := rfl
@[simp] theorem updStream_bundles (d : Dev) (k : Nat) (f : Stream → Stream) : (d.updStream k f).bundles = d.bundles := rfl
@[simp] theorem updStream_out (d : Dev) (k : Nat) (f : Stream → Stream) : (d.updStream k f).out = d.out := rfl
@[simp] theorem updStream_dst (d : Dev) (k : Nat) (f : Stream → Stream) : (d.updStream k f).dst = d.dst := rfl
@[simp] theorem updStream_pwr (d : Dev) (k : Nat) (f : Stream → Stream) : (d.updStream k f).pwr = d.pwr := rfl
@[simp] theorem updStream_dram (d : Dev) (k : Nat) (f : Stream → Stream) : (d.updStream k f).dram = d.dram := rfl
@[simp] theorem updStream_rel (d : Dev) (k : Nat) (f : Stream → Stream) : (d.updStream k f).rel = d.rel := rfl
@[simp] theorem updStream_links (d : Dev) (k : Nat) (f : Stream → Stream) : (d.updStream k f).links = d.links := rfl
@[simp] theorem updStream_boot (d : Dev) (k : Nat) (f : Stream → Stream) : (d.updStream k f).boot = d.boot := rfl
@[simp] theorem updStream_iotu (d : Dev) (k : Nat) (f : Stream → Stream) : (d.updStream k f).iotu = d.iotu := rfl

@[simp] theorem updPeer_cores (d : Dev) (n : Nat) (f : Peer → Peer) : (d.updPeer n f).cores = d.cores := rfl
@[simp] theorem updPeer_regs (d : Dev) (n : Nat) (f : Peer → Peer) : (d.updPeer n f).regs = d.regs := rfl
@[simp] theorem updPeer_bars (d : Dev) (n : Nat) (f : Peer → Peer) : (d.updPeer n f).bars = d.bars := rfl
@[simp] theorem updPeer_latch (d : Dev) (n : Nat) (f : Peer → Peer) : (d.updPeer n f).latch = d.latch := rfl
@[simp] theorem updPeer_heldLo (d : Dev) (n : Nat) (f : Peer → Peer) : (d.updPeer n f).heldLo = d.heldLo := rfl
@[simp] theorem updPeer_mem (d : Dev) (n : Nat) (f : Peer → Peer) : (d.updPeer n f).mem = d.mem := rfl
@[simp] theorem updPeer_coh (d : Dev) (n : Nat) (f : Peer → Peer) : (d.updPeer n f).coh = d.coh := rfl
@[simp] theorem updPeer_img (d : Dev) (n : Nat) (f : Peer → Peer) : (d.updPeer n f).img = d.img := rfl
@[simp] theorem updPeer_spindleOf (d : Dev) (n : Nat) (f : Peer → Peer) : (d.updPeer n f).spindleOf = d.spindleOf := rfl
@[simp] theorem updPeer_reeling (d : Dev) (n : Nat) (f : Peer → Peer) : (d.updPeer n f).reeling = d.reeling := rfl
@[simp] theorem updPeer_lost (d : Dev) (n : Nat) (f : Peer → Peer) : (d.updPeer n f).lost = d.lost := rfl
@[simp] theorem updPeer_safe (d : Dev) (n : Nat) (f : Peer → Peer) : (d.updPeer n f).safe = d.safe := rfl
@[simp] theorem updPeer_now (d : Dev) (n : Nat) (f : Peer → Peer) : (d.updPeer n f).now = d.now := rfl
@[simp] theorem updPeer_dom (d : Dev) (n : Nat) (f : Peer → Peer) : (d.updPeer n f).dom = d.dom := rfl
@[simp] theorem updPeer_hubCnt (d : Dev) (n : Nat) (f : Peer → Peer) : (d.updPeer n f).hubCnt = d.hubCnt := rfl
@[simp] theorem updPeer_freeCtr (d : Dev) (n : Nat) (f : Peer → Peer) : (d.updPeer n f).freeCtr = d.freeCtr := rfl
@[simp] theorem updPeer_ports (d : Dev) (n : Nat) (f : Peer → Peer) : (d.updPeer n f).ports = d.ports := rfl
@[simp] theorem updPeer_heldVec (d : Dev) (n : Nat) (f : Peer → Peer) : (d.updPeer n f).heldVec = d.heldVec := rfl
@[simp] theorem updPeer_trace (d : Dev) (n : Nat) (f : Peer → Peer) : (d.updPeer n f).trace = d.trace := rfl
@[simp] theorem updPeer_wdog (d : Dev) (n : Nat) (f : Peer → Peer) : (d.updPeer n f).wdog = d.wdog := rfl
@[simp] theorem updPeer_bq (d : Dev) (n : Nat) (f : Peer → Peer) : (d.updPeer n f).bq = d.bq := rfl
@[simp] theorem updPeer_fns (d : Dev) (n : Nat) (f : Peer → Peer) : (d.updPeer n f).fns = d.fns := rfl
@[simp] theorem updPeer_bundles (d : Dev) (n : Nat) (f : Peer → Peer) : (d.updPeer n f).bundles = d.bundles := rfl
@[simp] theorem updPeer_out (d : Dev) (n : Nat) (f : Peer → Peer) : (d.updPeer n f).out = d.out := rfl
@[simp] theorem updPeer_dst (d : Dev) (n : Nat) (f : Peer → Peer) : (d.updPeer n f).dst = d.dst := rfl
@[simp] theorem updPeer_pwr (d : Dev) (n : Nat) (f : Peer → Peer) : (d.updPeer n f).pwr = d.pwr := rfl
@[simp] theorem updPeer_dram (d : Dev) (n : Nat) (f : Peer → Peer) : (d.updPeer n f).dram = d.dram := rfl
@[simp] theorem updPeer_rel (d : Dev) (n : Nat) (f : Peer → Peer) : (d.updPeer n f).rel = d.rel := rfl
@[simp] theorem updPeer_links (d : Dev) (n : Nat) (f : Peer → Peer) : (d.updPeer n f).links = d.links := rfl
@[simp] theorem updPeer_boot (d : Dev) (n : Nat) (f : Peer → Peer) : (d.updPeer n f).boot = d.boot := rfl
@[simp] theorem updPeer_iotu (d : Dev) (n : Nat) (f : Peer → Peer) : (d.updPeer n f).iotu = d.iotu := rfl

@[simp] theorem updWd_cores (d : Dev) (n : Nat) (f : Wdog → Wdog) : (d.updWd n f).cores = d.cores := rfl
@[simp] theorem updWd_regs (d : Dev) (n : Nat) (f : Wdog → Wdog) : (d.updWd n f).regs = d.regs := rfl
@[simp] theorem updWd_bars (d : Dev) (n : Nat) (f : Wdog → Wdog) : (d.updWd n f).bars = d.bars := rfl
@[simp] theorem updWd_latch (d : Dev) (n : Nat) (f : Wdog → Wdog) : (d.updWd n f).latch = d.latch := rfl
@[simp] theorem updWd_heldLo (d : Dev) (n : Nat) (f : Wdog → Wdog) : (d.updWd n f).heldLo = d.heldLo := rfl
@[simp] theorem updWd_mem (d : Dev) (n : Nat) (f : Wdog → Wdog) : (d.updWd n f).mem = d.mem := rfl
@[simp] theorem updWd_coh (d : Dev) (n : Nat) (f : Wdog → Wdog) : (d.updWd n f).coh = d.coh := rfl
@[simp] theorem updWd_img (d : Dev) (n : Nat) (f : Wdog → Wdog) : (d.updWd n f).img = d.img := rfl
@[simp] theorem updWd_spindleOf (d : Dev) (n : Nat) (f : Wdog → Wdog) : (d.updWd n f).spindleOf = d.spindleOf := rfl
@[simp] theorem updWd_reeling (d : Dev) (n : Nat) (f : Wdog → Wdog) : (d.updWd n f).reeling = d.reeling := rfl
@[simp] theorem updWd_lost (d : Dev) (n : Nat) (f : Wdog → Wdog) : (d.updWd n f).lost = d.lost := rfl
@[simp] theorem updWd_safe (d : Dev) (n : Nat) (f : Wdog → Wdog) : (d.updWd n f).safe = d.safe := rfl
@[simp] theorem updWd_now (d : Dev) (n : Nat) (f : Wdog → Wdog) : (d.updWd n f).now = d.now := rfl
@[simp] theorem updWd_dom (d : Dev) (n : Nat) (f : Wdog → Wdog) : (d.updWd n f).dom = d.dom := rfl
@[simp] theorem updWd_hubCnt (d : Dev) (n : Nat) (f : Wdog → Wdog) : (d.updWd n f).hubCnt = d.hubCnt := rfl
@[simp] theorem updWd_freeCtr (d : Dev) (n : Nat) (f : Wdog → Wdog) : (d.updWd n f).freeCtr = d.freeCtr := rfl
@[simp] theorem updWd_ports (d : Dev) (n : Nat) (f : Wdog → Wdog) : (d.updWd n f).ports = d.ports := rfl
@[simp] theorem updWd_heldVec (d : Dev) (n : Nat) (f : Wdog → Wdog) : (d.updWd n f).heldVec = d.heldVec := rfl
@[simp] theorem updWd_trace (d : Dev) (n : Nat) (f : Wdog → Wdog) : (d.updWd n f).trace = d.trace := rfl
@[simp] theorem updWd_bq (d : Dev) (n : Nat) (f : Wdog → Wdog) : (d.updWd n f).bq = d.bq := rfl
@[simp] theorem updWd_fns (d : Dev) (n : Nat) (f : Wdog → Wdog) : (d.updWd n f).fns = d.fns := rfl
@[simp] theorem updWd_bundles (d : Dev) (n : Nat) (f : Wdog → Wdog) : (d.updWd n f).bundles = d.bundles := rfl
@[simp] theorem updWd_hank (d : Dev) (n : Nat) (f : Wdog → Wdog) : (d.updWd n f).hank = d.hank := rfl
@[simp] theorem updWd_out (d : Dev) (n : Nat) (f : Wdog → Wdog) : (d.updWd n f).out = d.out := rfl
@[simp] theorem updWd_dst (d : Dev) (n : Nat) (f : Wdog → Wdog) : (d.updWd n f).dst = d.dst := rfl
@[simp] theorem updWd_pwr (d : Dev) (n : Nat) (f : Wdog → Wdog) : (d.updWd n f).pwr = d.pwr := rfl
@[simp] theorem updWd_dram (d : Dev) (n : Nat) (f : Wdog → Wdog) : (d.updWd n f).dram = d.dram := rfl
@[simp] theorem updWd_rel (d : Dev) (n : Nat) (f : Wdog → Wdog) : (d.updWd n f).rel = d.rel := rfl
@[simp] theorem updWd_links (d : Dev) (n : Nat) (f : Wdog → Wdog) : (d.updWd n f).links = d.links := rfl
@[simp] theorem updWd_boot (d : Dev) (n : Nat) (f : Wdog → Wdog) : (d.updWd n f).boot = d.boot := rfl
@[simp] theorem updWd_iotu (d : Dev) (n : Nat) (f : Wdog → Wdog) : (d.updWd n f).iotu = d.iotu := rfl

@[simp] theorem setPoison_cores (d : Dev) (n : Nat) (p : Bool) : (d.setPoison n p).cores = d.cores := rfl
@[simp] theorem setPoison_regs (d : Dev) (n : Nat) (p : Bool) : (d.setPoison n p).regs = d.regs := rfl
@[simp] theorem setPoison_bars (d : Dev) (n : Nat) (p : Bool) : (d.setPoison n p).bars = d.bars := rfl
@[simp] theorem setPoison_latch (d : Dev) (n : Nat) (p : Bool) : (d.setPoison n p).latch = d.latch := rfl
@[simp] theorem setPoison_heldLo (d : Dev) (n : Nat) (p : Bool) : (d.setPoison n p).heldLo = d.heldLo := rfl
@[simp] theorem setPoison_coh (d : Dev) (n : Nat) (p : Bool) : (d.setPoison n p).coh = d.coh := rfl
@[simp] theorem setPoison_img (d : Dev) (n : Nat) (p : Bool) : (d.setPoison n p).img = d.img := rfl
@[simp] theorem setPoison_spindleOf (d : Dev) (n : Nat) (p : Bool) : (d.setPoison n p).spindleOf = d.spindleOf := rfl
@[simp] theorem setPoison_reeling (d : Dev) (n : Nat) (p : Bool) : (d.setPoison n p).reeling = d.reeling := rfl
@[simp] theorem setPoison_lost (d : Dev) (n : Nat) (p : Bool) : (d.setPoison n p).lost = d.lost := rfl
@[simp] theorem setPoison_safe (d : Dev) (n : Nat) (p : Bool) : (d.setPoison n p).safe = d.safe := rfl
@[simp] theorem setPoison_now (d : Dev) (n : Nat) (p : Bool) : (d.setPoison n p).now = d.now := rfl
@[simp] theorem setPoison_dom (d : Dev) (n : Nat) (p : Bool) : (d.setPoison n p).dom = d.dom := rfl
@[simp] theorem setPoison_hubCnt (d : Dev) (n : Nat) (p : Bool) : (d.setPoison n p).hubCnt = d.hubCnt := rfl
@[simp] theorem setPoison_freeCtr (d : Dev) (n : Nat) (p : Bool) : (d.setPoison n p).freeCtr = d.freeCtr := rfl
@[simp] theorem setPoison_ports (d : Dev) (n : Nat) (p : Bool) : (d.setPoison n p).ports = d.ports := rfl
@[simp] theorem setPoison_heldVec (d : Dev) (n : Nat) (p : Bool) : (d.setPoison n p).heldVec = d.heldVec := rfl
@[simp] theorem setPoison_trace (d : Dev) (n : Nat) (p : Bool) : (d.setPoison n p).trace = d.trace := rfl
@[simp] theorem setPoison_wdog (d : Dev) (n : Nat) (p : Bool) : (d.setPoison n p).wdog = d.wdog := rfl
@[simp] theorem setPoison_bq (d : Dev) (n : Nat) (p : Bool) : (d.setPoison n p).bq = d.bq := rfl
@[simp] theorem setPoison_fns (d : Dev) (n : Nat) (p : Bool) : (d.setPoison n p).fns = d.fns := rfl
@[simp] theorem setPoison_bundles (d : Dev) (n : Nat) (p : Bool) : (d.setPoison n p).bundles = d.bundles := rfl
@[simp] theorem setPoison_hank (d : Dev) (n : Nat) (p : Bool) : (d.setPoison n p).hank = d.hank := rfl
@[simp] theorem setPoison_out (d : Dev) (n : Nat) (p : Bool) : (d.setPoison n p).out = d.out := rfl
@[simp] theorem setPoison_dst (d : Dev) (n : Nat) (p : Bool) : (d.setPoison n p).dst = d.dst := rfl
@[simp] theorem setPoison_pwr (d : Dev) (n : Nat) (p : Bool) : (d.setPoison n p).pwr = d.pwr := rfl
@[simp] theorem setPoison_dram (d : Dev) (n : Nat) (p : Bool) : (d.setPoison n p).dram = d.dram := rfl
@[simp] theorem setPoison_rel (d : Dev) (n : Nat) (p : Bool) : (d.setPoison n p).rel = d.rel := rfl
@[simp] theorem setPoison_links (d : Dev) (n : Nat) (p : Bool) : (d.setPoison n p).links = d.links := rfl
@[simp] theorem setPoison_boot (d : Dev) (n : Nat) (p : Bool) : (d.setPoison n p).boot = d.boot := rfl
@[simp] theorem setPoison_iotu (d : Dev) (n : Nat) (p : Bool) : (d.setPoison n p).iotu = d.iotu := rfl

@[simp] theorem putBytes_cores (d : Dev) (cs : List Host.Cell) : (d.putBytes cs).cores = d.cores := rfl
@[simp] theorem putBytes_regs (d : Dev) (cs : List Host.Cell) : (d.putBytes cs).regs = d.regs := rfl
@[simp] theorem putBytes_bars (d : Dev) (cs : List Host.Cell) : (d.putBytes cs).bars = d.bars := rfl
@[simp] theorem putBytes_latch (d : Dev) (cs : List Host.Cell) : (d.putBytes cs).latch = d.latch := rfl
@[simp] theorem putBytes_heldLo (d : Dev) (cs : List Host.Cell) : (d.putBytes cs).heldLo = d.heldLo := rfl
@[simp] theorem putBytes_coh (d : Dev) (cs : List Host.Cell) : (d.putBytes cs).coh = d.coh := rfl
@[simp] theorem putBytes_img (d : Dev) (cs : List Host.Cell) : (d.putBytes cs).img = d.img := rfl
@[simp] theorem putBytes_spindleOf (d : Dev) (cs : List Host.Cell) : (d.putBytes cs).spindleOf = d.spindleOf := rfl
@[simp] theorem putBytes_reeling (d : Dev) (cs : List Host.Cell) : (d.putBytes cs).reeling = d.reeling := rfl
@[simp] theorem putBytes_lost (d : Dev) (cs : List Host.Cell) : (d.putBytes cs).lost = d.lost := rfl
@[simp] theorem putBytes_safe (d : Dev) (cs : List Host.Cell) : (d.putBytes cs).safe = d.safe := rfl
@[simp] theorem putBytes_now (d : Dev) (cs : List Host.Cell) : (d.putBytes cs).now = d.now := rfl
@[simp] theorem putBytes_dom (d : Dev) (cs : List Host.Cell) : (d.putBytes cs).dom = d.dom := rfl
@[simp] theorem putBytes_hubCnt (d : Dev) (cs : List Host.Cell) : (d.putBytes cs).hubCnt = d.hubCnt := rfl
@[simp] theorem putBytes_freeCtr (d : Dev) (cs : List Host.Cell) : (d.putBytes cs).freeCtr = d.freeCtr := rfl
@[simp] theorem putBytes_ports (d : Dev) (cs : List Host.Cell) : (d.putBytes cs).ports = d.ports := rfl
@[simp] theorem putBytes_heldVec (d : Dev) (cs : List Host.Cell) : (d.putBytes cs).heldVec = d.heldVec := rfl
@[simp] theorem putBytes_trace (d : Dev) (cs : List Host.Cell) : (d.putBytes cs).trace = d.trace := rfl
@[simp] theorem putBytes_wdog (d : Dev) (cs : List Host.Cell) : (d.putBytes cs).wdog = d.wdog := rfl
@[simp] theorem putBytes_bq (d : Dev) (cs : List Host.Cell) : (d.putBytes cs).bq = d.bq := rfl
@[simp] theorem putBytes_fns (d : Dev) (cs : List Host.Cell) : (d.putBytes cs).fns = d.fns := rfl
@[simp] theorem putBytes_bundles (d : Dev) (cs : List Host.Cell) : (d.putBytes cs).bundles = d.bundles := rfl
@[simp] theorem putBytes_hank (d : Dev) (cs : List Host.Cell) : (d.putBytes cs).hank = d.hank := rfl
@[simp] theorem putBytes_out (d : Dev) (cs : List Host.Cell) : (d.putBytes cs).out = d.out := rfl
@[simp] theorem putBytes_dst (d : Dev) (cs : List Host.Cell) : (d.putBytes cs).dst = d.dst := rfl
@[simp] theorem putBytes_pwr (d : Dev) (cs : List Host.Cell) : (d.putBytes cs).pwr = d.pwr := rfl
@[simp] theorem putBytes_dram (d : Dev) (cs : List Host.Cell) : (d.putBytes cs).dram = d.dram := rfl
@[simp] theorem putBytes_rel (d : Dev) (cs : List Host.Cell) : (d.putBytes cs).rel = d.rel := rfl
@[simp] theorem putBytes_links (d : Dev) (cs : List Host.Cell) : (d.putBytes cs).links = d.links := rfl
@[simp] theorem putBytes_boot (d : Dev) (cs : List Host.Cell) : (d.putBytes cs).boot = d.boot := rfl
@[simp] theorem putBytes_iotu (d : Dev) (cs : List Host.Cell) : (d.putBytes cs).iotu = d.iotu := rfl

@[simp] theorem timeTo_cores (d : Dev) (t : Nat) : (d.timeTo t).cores = d.cores := rfl
@[simp] theorem timeTo_regs (d : Dev) (t : Nat) : (d.timeTo t).regs = d.regs := rfl
@[simp] theorem timeTo_bars (d : Dev) (t : Nat) : (d.timeTo t).bars = d.bars := rfl
@[simp] theorem timeTo_latch (d : Dev) (t : Nat) : (d.timeTo t).latch = d.latch := rfl
@[simp] theorem timeTo_heldLo (d : Dev) (t : Nat) : (d.timeTo t).heldLo = d.heldLo := rfl
@[simp] theorem timeTo_mem (d : Dev) (t : Nat) : (d.timeTo t).mem = d.mem := rfl
@[simp] theorem timeTo_coh (d : Dev) (t : Nat) : (d.timeTo t).coh = d.coh := rfl
@[simp] theorem timeTo_img (d : Dev) (t : Nat) : (d.timeTo t).img = d.img := rfl
@[simp] theorem timeTo_spindleOf (d : Dev) (t : Nat) : (d.timeTo t).spindleOf = d.spindleOf := rfl
@[simp] theorem timeTo_reeling (d : Dev) (t : Nat) : (d.timeTo t).reeling = d.reeling := rfl
@[simp] theorem timeTo_lost (d : Dev) (t : Nat) : (d.timeTo t).lost = d.lost := rfl
@[simp] theorem timeTo_safe (d : Dev) (t : Nat) : (d.timeTo t).safe = d.safe := rfl
@[simp] theorem timeTo_dom (d : Dev) (t : Nat) : (d.timeTo t).dom = d.dom := rfl
@[simp] theorem timeTo_hubCnt (d : Dev) (t : Nat) : (d.timeTo t).hubCnt = d.hubCnt := rfl
@[simp] theorem timeTo_freeCtr (d : Dev) (t : Nat) : (d.timeTo t).freeCtr = d.freeCtr := rfl
@[simp] theorem timeTo_ports (d : Dev) (t : Nat) : (d.timeTo t).ports = d.ports := rfl
@[simp] theorem timeTo_heldVec (d : Dev) (t : Nat) : (d.timeTo t).heldVec = d.heldVec := rfl
@[simp] theorem timeTo_trace (d : Dev) (t : Nat) : (d.timeTo t).trace = d.trace := rfl
@[simp] theorem timeTo_wdog (d : Dev) (t : Nat) : (d.timeTo t).wdog = d.wdog := rfl
@[simp] theorem timeTo_bq (d : Dev) (t : Nat) : (d.timeTo t).bq = d.bq := rfl
@[simp] theorem timeTo_fns (d : Dev) (t : Nat) : (d.timeTo t).fns = d.fns := rfl
@[simp] theorem timeTo_bundles (d : Dev) (t : Nat) : (d.timeTo t).bundles = d.bundles := rfl
@[simp] theorem timeTo_hank (d : Dev) (t : Nat) : (d.timeTo t).hank = d.hank := rfl
@[simp] theorem timeTo_out (d : Dev) (t : Nat) : (d.timeTo t).out = d.out := rfl
@[simp] theorem timeTo_dst (d : Dev) (t : Nat) : (d.timeTo t).dst = d.dst := rfl
@[simp] theorem timeTo_pwr (d : Dev) (t : Nat) : (d.timeTo t).pwr = d.pwr := rfl
@[simp] theorem timeTo_dram (d : Dev) (t : Nat) : (d.timeTo t).dram = d.dram := rfl
@[simp] theorem timeTo_rel (d : Dev) (t : Nat) : (d.timeTo t).rel = d.rel := rfl
@[simp] theorem timeTo_links (d : Dev) (t : Nat) : (d.timeTo t).links = d.links := rfl
@[simp] theorem timeTo_boot (d : Dev) (t : Nat) : (d.timeTo t).boot = d.boot := rfl
@[simp] theorem timeTo_iotu (d : Dev) (t : Nat) : (d.timeTo t).iotu = d.iotu := rfl

end Sys2Proof.Machine
end

