-- ==== Sys2Proof/Laws/Access.lean ====
section
/-! SUPPORT. What a read gives after an update: cores, registers and their fields, function registers, and the maps of the units. -/
namespace Sys2Proof.Machine

/-! ### Bits and fields -/

/-- Bit `i` of a value with a field replaced. -/
theorem getLsbD_putField {w : Nat} (x : BitVec w) (hi lo v i : Nat) (hh : hi < w) (hl : lo ≤ hi) :
    (putField x hi lo v).getLsbD i = if lo ≤ i ∧ i ≤ hi then v.testBit (i - lo) else x.getLsbD i := by
  simp only [putField, BitVec.getLsbD_or, BitVec.getLsbD_and, BitVec.getLsbD_not, BitVec.getLsbD_shiftLeft, BitVec.getLsbD_ofNat, Nat.testBit_two_pow_sub_one]
  by_cases h1 : lo ≤ i
  · by_cases h2 : i ≤ hi
    · have h3 : i < w := by omega
      have h4 : i - lo < w := by omega
      have h5 : i - lo < hi + 1 - lo := by omega
      have h6 : ¬ i < lo := by omega
      simp [h1, h2, h3, h4, h5, h6]
    · have h5 : ¬ i - lo < hi + 1 - lo := by omega
      by_cases h3 : i < w
      · simp [h2, h5, h3]
      · simp [h2, h3, BitVec.getLsbD_of_ge x i (by omega)]
  · have h6 : i < lo := by omega
    have h3 : i < w := by omega
    simp [h1, h6, h3]

/-- Bit `i` of a field. -/
theorem testBit_field {w : Nat} (x : BitVec w) (hi lo i : Nat) : (field x hi lo).testBit i = (decide (i < hi + 1 - lo) && x.getLsbD (lo + i)) := by
  simp [field, bitsN, Nat.testBit_mod_two_pow, Nat.testBit_shiftRight, BitVec.testBit_toNat]

/-- A field reads as it was put. -/
theorem field_putField {w : Nat} (x : BitVec w) (hi lo v : Nat) (hh : hi < w) (hl : lo ≤ hi) :
    field (putField x hi lo v) hi lo = v % 2 ^ (hi + 1 - lo) := by
  apply Nat.eq_of_testBit_eq
  intro i
  rw [testBit_field, getLsbD_putField x hi lo v _ hh hl, Nat.testBit_mod_two_pow]
  by_cases h : i < hi + 1 - lo
  · have : lo ≤ lo + i ∧ lo + i ≤ hi := by omega
    simp [h, this]
  · simp [h]

/-- A field apart from the one put reads as before. -/
theorem field_putField_ne {w : Nat} (x : BitVec w) (hi lo v hi' lo' : Nat) (hh : hi < w) (hl : lo ≤ hi) (hd : hi < lo' ∨ hi' < lo) :
    field (putField x hi lo v) hi' lo' = field x hi' lo' := by
  apply Nat.eq_of_testBit_eq
  intro i
  rw [testBit_field, testBit_field, getLsbD_putField x hi lo v _ hh hl]
  by_cases h : i < hi' + 1 - lo'
  · have : ¬ (lo ≤ lo' + i ∧ lo' + i ≤ hi) := by omega
    simp [h, this]
  · simp [h]

/-- A bit apart from the field put reads as before. -/
theorem bit_putField_ne {w : Nat} (x : BitVec w) (hi lo v i : Nat) (hh : hi < w) (hl : lo ≤ hi) (hd : hi < i ∨ i < lo) :
    bit (putField x hi lo v) i = bit x i := by
  unfold bit; rw [getLsbD_putField x hi lo v i hh hl, if_neg (by omega)]

/-- A bit put as a field of its own. -/
theorem bit_putField {w : Nat} (x : BitVec w) (i v : Nat) (hh : i < w) : bit (putField x i i v) i = v.testBit 0 := by
  unfold bit; rw [getLsbD_putField x i i v i hh (Nat.le_refl i)]; simp

/-! ### Maps -/

/-- A key apart from the one set reads as before, whatever the default. -/
theorem mget_mset_ne {α : Type} [DecidableEq α] (d d' : α) (m : List (Nat × α)) (k k' : Nat) (v : α) (h : k ≠ k') :
    mget d' (mset d m k v) k' = mget d' m k' := by
  unfold mset
  split
  · rw [mget_merase, if_neg h]
  · rw [mget_minsert d' _ _ _ _ (not_mem_merase m k), mget_merase, if_neg h, if_neg h]

@[simp] theorem mget_mupd {α : Type} [DecidableEq α] (d : α) (m : List (Nat × α)) (k k' : Nat) (f : α → α) :
    mget d (mupd d m k f) k' = if k = k' then f (mget d m k) else mget d m k' := by
  simp [mupd]

/-! ### Registers -/

theorem reg_setReg (d : Dev) (a b : Nat) (v : Reg32) : (d.setReg a v).reg b = if a = b then v else d.reg b := by
  by_cases h : a = b
  · subst h; simp [Dev.reg, Dev.setReg]
  · simp only [Dev.reg, Dev.setReg, if_neg h]; exact mget_mset_ne _ _ _ _ _ _ h

@[simp] theorem reg_setReg_self (d : Dev) (a : Nat) (v : Reg32) : (d.setReg a v).reg a = v := by simp [reg_setReg]
theorem reg_setReg_ne (d : Dev) (a b : Nat) (v : Reg32) (h : a ≠ b) : (d.setReg a v).reg b = d.reg b := by simp [reg_setReg, h]
@[simp] theorem reg_setRegF_self (d : Dev) (a hi lo v : Nat) : (d.setRegF a hi lo v).reg a = putField (d.reg a) hi lo v := by simp [Dev.setRegF]
theorem reg_setRegF_ne (d : Dev) (a b hi lo v : Nat) (h : a ≠ b) : (d.setRegF a hi lo v).reg b = d.reg b := by simp [Dev.setRegF, reg_setReg, h]
@[simp] theorem reg_count_self (d : Dev) (a : Nat) : (d.count a).reg a = satInc (d.reg a) := by simp [Dev.count]
theorem reg_count_ne (d : Dev) (a b : Nat) (h : a ≠ b) : (d.count a).reg b = d.reg b := by simp [Dev.count, reg_setReg, h]

theorem regF_setRegF (d : Dev) (a hi lo v : Nat) (hh : hi < 32) (hl : lo ≤ hi) : (d.setRegF a hi lo v).regF a hi lo = v % 2 ^ (hi + 1 - lo) := by
  simp [Dev.regF, field_putField _ _ _ _ hh hl]
theorem regF_setRegF_ne (d : Dev) (a hi lo v hi' lo' : Nat) (hh : hi < 32) (hl : lo ≤ hi) (hd : hi < lo' ∨ hi' < lo) :
    (d.setRegF a hi lo v).regF a hi' lo' = d.regF a hi' lo' := by
  simp [Dev.regF, field_putField_ne _ _ _ _ _ _ hh hl hd]
theorem regF_setRegF_other (d : Dev) (a b hi lo v hi' lo' : Nat) (h : a ≠ b) : (d.setRegF a hi lo v).regF b hi' lo' = d.regF b hi' lo' := by
  simp [Dev.regF, reg_setRegF_ne _ _ _ _ _ _ h]
theorem regF_count_other (d : Dev) (a b hi lo : Nat) (h : a ≠ b) : (d.count a).regF b hi lo = d.regF b hi lo := by
  simp [Dev.regF, reg_count_ne _ _ _ h]

/-- What reads a register or a field of one stands over an update of another part of the device. -/
theorem reg_congr {d e : Dev} (h : d.regs = e.regs) (a : Nat) : d.reg a = e.reg a := by simp [Dev.reg, h]
theorem regF_congr {d e : Dev} (h : d.regs = e.regs) (a hi lo : Nat) : d.regF a hi lo = e.regF a hi lo := by simp [Dev.regF, Dev.reg, h]

/-! ### Function registers -/

@[simp] theorem bar_setBar_self (d : Dev) (k off : Nat) (v : Reg32) : (d.setBar k off v).bar k off = v := by simp [Dev.bar, Dev.setBar]
theorem bar_setBar_ne (d : Dev) (k off off' : Nat) (v : Reg32) (h : off ≠ off') : (d.setBar k off v).bar k off' = d.bar k off' := by
  simp only [Dev.bar, Dev.setBar]; exact mget_mset_ne _ _ _ _ _ _ (by simp only [barKey]; omega)
@[simp] theorem bar_setBarF_self (d : Dev) (k off hi lo v : Nat) : (d.setBarF k off hi lo v).bar k off = putField (d.bar k off) hi lo v := by
  simp [Dev.setBarF]
theorem bar_setBarF_ne (d : Dev) (k off off' hi lo v : Nat) (h : off ≠ off') : (d.setBarF k off hi lo v).bar k off' = d.bar k off' := by
  simp [Dev.setBarF, bar_setBar_ne _ _ _ _ _ h]

/-! ### Units -/

@[simp] theorem domOf_setDom (d : Dev) (k k' : Nat) (x : Domain) : (d.setDom k x).domOf k' = if k = k' then x else d.domOf k' := by
  simp [Dev.domOf, Dev.setDom]
@[simp] theorem port_setPort (d : Dev) (k k' : Nat) (p : BPort) : (d.setPort k p).port k' = if k = k' then p else d.port k' := by
  simp [Dev.port, Dev.setPort]
@[simp] theorem fn_updFn (d : Dev) (k k' : Nat) (f : Fn → Fn) : (d.updFn k f).fn k' = if k = k' then f (d.fn k) else d.fn k' := by
  simp [Dev.fn, Dev.updFn]
@[simp] theorem bun_updBun (d : Dev) (b b' : Nat) (f : Bundle → Bundle) : (d.updBun b f).bun b' = if b = b' then f (d.bun b) else d.bun b' := by
  simp [Dev.bun, Dev.updBun]
@[simp] theorem ch_updCh (d : Dev) (m m' : Nat) (f : DramCh → DramCh) : (d.updCh m f).ch m' = if m = m' then f (d.ch m) else d.ch m' := by
  simp [Dev.ch, Dev.updCh]
@[simp] theorem q_setQ (d : Dev) (n n' : Nat) (c : QCtx) : (d.setQ n c).q n' = if n = n' then c else d.q n' := by simp [Dev.q, Dev.setQ]
@[simp] theorem q_updQ (d : Dev) (n n' : Nat) (f : QCtx → QCtx) : (d.updQ n f).q n' = if n = n' then f (d.q n) else d.q n' := by simp [Dev.updQ]
@[simp] theorem wd_updWd (d : Dev) (n n' : Nat) (f : Wdog → Wdog) : (d.updWd n f).wd n' = if n = n' then f (d.wd n) else d.wd n' := by
  simp [Dev.wd, Dev.updWd]
@[simp] theorem txnOf_setTxn (d : Dev) (n n' : Nat) (t : Option HomeTxn) : (d.setTxn n t).txnOf n' = if n = n' then t else d.txnOf n' := by
  simp [Dev.txnOf, Dev.setTxn]
@[simp] theorem txnOf_setDir (d : Dev) (n n' : Nat) (e : DirEntry) : (d.setDir n e).txnOf n' = d.txnOf n' := by
  simp only [Dev.txnOf, Dev.setDir]; split <;> rfl
@[simp] theorem txnOf_send (d : Dev) (k : CohKind) (a n n' : Nat) (bs : List Byte) : (d.send k a n bs).txnOf n' = d.txnOf n' := rfl

/-- The entry that a line's home reads is the one it wrote, in a directory cache or in the backing store. -/
@[simp] theorem dirOf_setDir_self (d : Dev) (n : Nat) (e : DirEntry) : (d.setDir n e).dirOf n = e := by
  have hd : (d.setDir n e).dirDefault n = d.dirDefault n := by
    simp only [Dev.dirDefault, Dev.setDir, Dev.inRanks]; split <;> rfl
  simp only [Dev.dirOf, Dev.dirBack, hd]
  by_cases hc : d.dirCached n
  · simp only [Dev.setDir, hc, if_true, mget_mset]
    by_cases he : e = d.dirBack n
    · simp [he, Dev.dirBack]
    · simp [he]
  · simp [Dev.setDir, hc]

end Sys2Proof.Machine
end

