-- ==== Sys2Proof/Laws/Memory.lean ====
section
/-! SUPPORT. The laws of DRAM: what a read of a byte gives after a write, and that every operation on its bytes keeps the canonical
form. -/
namespace Sys2Proof.Machine

theorem putCells_nil (m : List Host.Cell) : putCells m [] = m := rfl
theorem putCells_cons (m : List Host.Cell) (c : Host.Cell) (cs : List Host.Cell) :
    putCells m (c :: cs) = putCells (mset unlistedByte m c.1 c.2) cs := rfl
theorem putCells_append (m : List Host.Cell) (a b : List Host.Cell) : putCells m (a ++ b) = putCells (putCells m a) b := by
  simp [putCells, List.foldl_append]

/-- Writing cells leaves every byte that no cell names. -/
theorem mget_putCells_of_not_mem (cs : List Host.Cell) (m : List Host.Cell) (a : Nat) (h : ∀ c ∈ cs, c.1 ≠ a) :
    mget unlistedByte (putCells m cs) a = mget unlistedByte m a := by
  induction cs generalizing m with
  | nil => rfl
  | cons c cs ih =>
    rw [putCells_cons, ih _ fun x hx => h x (List.mem_cons_of_mem _ hx), mget_mset, if_neg (h c (List.mem_cons_self ..))]

/-- The addresses of consecutive bytes. -/
theorem mem_cellsAt (bs : List Byte) (pa : Nat) (c : Host.Cell) (h : c ∈ cellsAt pa bs) : pa ≤ c.1 ∧ c.1 < pa + bs.length := by
  induction bs generalizing pa with
  | nil => simp [cellsAt] at h
  | cons b bs ih =>
    simp only [cellsAt, List.mem_cons] at h
    rcases h with rfl | h
    · simp
    · have := ih (pa + 1) h; simp only [List.length_cons]; omega

/-- A byte written among consecutive ones reads as it was written. -/
theorem mget_putCells_cellsAt (bs : List Byte) (m : List Host.Cell) (pa a : Nat) :
    mget unlistedByte (putCells m (cellsAt pa bs)) a =
      if h : pa ≤ a ∧ a < pa + bs.length then bs[a - pa]'(by omega) else mget unlistedByte m a := by
  induction bs generalizing m pa with
  | nil => simp only [cellsAt, putCells_nil, List.length_nil]; rw [dif_neg (by omega)]
  | cons b bs ih =>
    simp only [cellsAt, putCells_cons, ih, mget_mset]
    by_cases h0 : pa = a
    · subst h0
      rw [dif_neg (by omega), if_pos rfl, dif_pos (by simp)]; simp
    · by_cases h1 : pa + 1 ≤ a ∧ a < pa + 1 + bs.length
      · rw [dif_pos h1, dif_pos (by simp only [List.length_cons]; omega)]
        have : a - pa = (a - (pa + 1)) + 1 := by omega
        simp [this]
      · rw [dif_neg h1, if_neg h0, dif_neg (by simp only [List.length_cons]; omega)]

/-- A read after a write of cells: only the cells' addresses may read otherwise. -/
theorem byte_putBytes_of_not_mem (d : Dev) (cs : List Host.Cell) (a : Nat) (h : ∀ c ∈ cs, c.1 ≠ a) : (d.putBytes cs).byte a = d.byte a :=
  mget_putCells_of_not_mem cs d.mem.bytes a h

theorem byte_putBytes_cellsAt (d : Dev) (bs : List Byte) (pa a : Nat) :
    (d.putBytes (cellsAt pa bs)).byte a = if h : pa ≤ a ∧ a < pa + bs.length then bs[a - pa]'(by omega) else d.byte a :=
  mget_putCells_cellsAt bs d.mem.bytes pa a

theorem byte_congr {d e : Dev} (h : d.mem.bytes = e.mem.bytes) (a : Nat) : d.byte a = e.byte a := by simp [Dev.byte, h]

/-! ### The canonical form is kept -/

theorem mwf_putCells (cs : List Host.Cell) (m : List Host.Cell) (h : mwf unlistedByte m = true) : mwf unlistedByte (putCells m cs) = true := by
  induction cs generalizing m with
  | nil => exact h
  | cons c cs ih => rw [putCells_cons]; exact ih _ (mwf_mset _ _ _ _ h)

theorem mwf_filter {α : Type} [DecidableEq α] (d : α) (m : List (Nat × α)) (p : Nat × α → Bool) (h : mwf d m = true) : mwf d (m.filter p) = true := by
  induction m with
  | nil => rfl
  | cons x t ih =>
    obtain ⟨k, v⟩ := x
    obtain ⟨hv, hall, ht⟩ := (mwf_cons d k v t).1 h
    simp only [List.filter_cons]
    split
    · exact (mwf_cons d k v _).2 ⟨hv, fun y hy => hall y (List.mem_filter.1 hy).1, ih ht⟩
    · exact ih ht

theorem mem_wf_of_bytes {m n : Mem} (h : m.bytes = n.bytes) : m.wf = n.wf := by simp [Mem.wf, h]

/-- Reset memory is canonical: it lists nothing. -/
theorem reset_mem_wf : State.reset.dev.mem.wf = true := rfl

/-- Writing cells. -/
theorem putBytes_wf (d : Dev) (cs : List Host.Cell) (h : d.mem.wf = true) : (d.putBytes cs).mem.wf = true := mwf_putCells cs _ h

/-- The fill of ranks after PARTIAL. -/
theorem fillRanks_wf (d : Dev) (m : Nat) (rs : List Nat) (h : d.mem.wf = true) : (d.fillRanks m rs).mem.wf = true := by
  show mwf unlistedByte (d.mem.bytes.filter _) = true
  exact mwf_filter _ _ _ h

theorem fillOff_wf (d : Dev) (m : Nat) (h : d.mem.wf = true) : (d.fillOff m).mem.wf = true := by
  have : (d.fillOff m).mem = (d.fillRanks m (mget DramCh.reset d.dram m).off).mem := rfl
  rw [this]; exact fillRanks_wf d m _ h

/-- The loss of what only caches held, at a start. -/
theorem uncached_wf (m : Mem) (lost : Nat → Bool) (h : m.wf = true) : (m.uncached lost).wf = true := by
  have key : ∀ (l : List (Nat × Option StaleLine)) (m : Mem), m.wf = true →
      (l.foldl (fun m (e : Nat × Option StaleLine) => match e.2 with
        | none => m
        | some x => { m with
            bytes := putCells m.bytes (cellsAt (e.1 * 64) x.old)
            poison := mset false m.poison e.1 (x.oldPoison != lost e.1) }) m).wf = true := by
    intro l
    induction l with
    | nil => exact fun m h => h
    | cons e l ih =>
      intro m h
      rw [List.foldl_cons]
      apply ih
      split
      · exact h
      · exact mwf_putCells _ _ h
  exact key m.stale _ h

/-- Poison and the record of reset touch no byte. -/
@[simp] theorem byte_setPoison (d : Dev) (line : Nat) (p : Bool) (a : Nat) : (d.setPoison line p).byte a = d.byte a := rfl
@[simp] theorem byte_setReg (d : Dev) (b : Nat) (v : Reg32) (a : Nat) : (d.setReg b v).byte a = d.byte a := rfl
@[simp] theorem byte_updCore (d : Dev) (l : Nat) (f : Core → Core) (a : Nat) : (d.updCore l f).byte a = d.byte a := rfl

end Sys2Proof.Machine
end

