-- ==== Sys2Proof/Laws/Retire.lean ====
section
/-! SUPPORT. The laws of cores and of retirement: reading and changing one core of the device, and what an instruction that
retires quietly leaves. -/
namespace Sys2Proof.Machine

@[simp] theorem core_setCore (d : Dev) (l l' : Nat) (c : Core) : (d.setCore l c).core l' = if l = l' then c else d.core l' := by
  simp [Dev.core, Dev.setCore]

@[simp] theorem core_updCore (d : Dev) (l l' : Nat) (f : Core → Core) :
    (d.updCore l f).core l' = if l = l' then f (d.core l) else d.core l' := by
  simp [Dev.updCore]

/-- A change of a core is what it makes of that core. -/
theorem updCore_congr (d : Dev) (l : Nat) (f g : Core → Core) (h : f (d.core l) = g (d.core l)) : d.updCore l f = d.updCore l g := by
  simp only [Dev.updCore, h]

/-- Two changes of one core are one. -/
theorem updCore_updCore (d : Dev) (l : Nat) (f g : Core → Core) : (d.updCore l f).updCore l g = d.updCore l fun c => g (f c) := by
  simp only [Dev.updCore, core_setCore, if_true]
  simp [Dev.setCore]

@[simp] theorem reg_updCore (d : Dev) (l : Nat) (f : Core → Core) (a : Nat) : (d.updCore l f).reg a = d.reg a := rfl

/-- A core's change that leaves its counters and the debugger's step alone leaves its quiet. -/
theorem quiet_updCore (d : Dev) (l : Nat) (f : Core → Core) (hp : (f (d.core l)).pmu = (d.core l).pmu)
    (hs : (f (d.core l)).stepArmed = (d.core l).stepArmed) (hd : (f (d.core l)).draining = (d.core l).draining) :
    (d.updCore l f).quiet l = d.quiet l := by
  have h1 : (d.updCore l f).core l = f (d.core l) := by simp
  simp only [Dev.quiet, h1, hp, hs, hd]; rfl

theorem pmuCount_quiet (d : Dev) (l : Fin 384) (lvl : Level) (evs : List (Nat × Nat)) (h : d.quiet l.val = true) :
    d.pmuCount l lvl evs = d := by
  simp only [Dev.quiet, Bool.and_eq_true] at h
  simp only [Dev.pmuCount]; rw [if_pos h.1.1.1]

/-- A retirement at which nothing else acts only ends the debugger's step and the drain. -/
theorem countRetired_quiet (d : Dev) (l : Fin 384) (lvl : Level) (evs : List (Nat × Nat)) (h : d.quiet l.val = true) :
    d.countRetired l lvl evs = d.updCore l.val Core.past := by
  have h' := h
  simp only [Dev.quiet, Bool.and_eq_true, Bool.not_eq_true'] at h'
  simp only [Dev.countRetired]; rw [pmuCount_quiet d l lvl _ h]
  simp [Dev.traceRetire, h'.1.1.2]

/-- A ready core performs the instruction on the device its fetch leaves. -/
theorem instr_ready (s : State) (l : Fin 384) (f : Dev → CoreOut) (h : s.ready l) :
    s.dev.instr l f = s.dev.finish l (f (s.fetched l)) := by
  obtain ⟨h1, h2, _⟩ := h
  simp only [Dev.instr, h1, Bool.not_true, Bool.false_eq_true, if_false]
  split
  · next d' he => simp only [State.fetched, he]
  · next d' u he => simp [he] at h2
  · next d' e he => simp [he] at h2

/-- An instruction that is done retires quietly: the PC moves on, and nothing else happens to the device it leaves. -/
theorem finish_done (d0 d : Dev) (l : Fin 384) (evs : List (Nat × Nat)) (h : d.quiet l.val = true) :
    d0.finish l (.done d evs) = d.updCore l.val fun c => { c with pc := c.pc + 4#64 } := by
  simp only [Dev.finish]
  rw [countRetired_quiet _ l _ evs (by rw [quiet_updCore d l.val (fun c => { c with pc := c.pc + 4#64 }) rfl rfl rfl]; exact h), updCore_updCore]
  simp only [Dev.quiet, Bool.and_eq_true, Bool.not_eq_true'] at h
  exact updCore_congr _ _ _ _ (by simp [Core.past, h.1.2, h.2])

/-- A core instruction that is done on a ready core. -/
theorem retiresBy_of_done (c : Instr) (l : Fin 384) (s : State) (f : Dev → CoreOut) (g : Dev → Dev) (evs : List (Nat × Nat))
    (he : exec c s = runInstr l s f) (hs : s.ready l) (hf : f (s.fetched l) = .done (g (s.fetched l)) evs)
    (hq : (g (s.fetched l)).quiet l.val = true) : RetiresBy c l s g := by
  refine ⟨_, he, rfl, ?_⟩
  show s.dev.instr l f = _
  rw [instr_ready s l f hs, hf, finish_done _ _ l evs hq]

/-- An instruction that only changes its own core, on a ready core. -/
theorem retires_of_done (c : Instr) (l : Fin 384) (s : State) (f : Dev → CoreOut) (g : Core → Core) (evs : List (Nat × Nat))
    (he : exec c s = runInstr l s f) (hs : s.ready l) (hf : f (s.fetched l) = .done ((s.fetched l).updCore l.val g) evs)
    (hp : ∀ k, (g k).pmu = k.pmu) (ha : ∀ k, (g k).stepArmed = k.stepArmed) (hd : ∀ k, (g k).draining = k.draining) : Retires c l s g :=
  retiresBy_of_done c l s f (fun d => d.updCore l.val g) evs he hs hf
    (by rw [quiet_updCore _ l.val g (hp _) (ha _) (hd _)]; exact hs.2.2)

@[simp] theorem wg_pmu (c : Core) (r : BitVec 5) (x : Word) : (c.wg r x).pmu = c.pmu := by unfold Core.wg; split <;> rfl
@[simp] theorem wg_stepArmed (c : Core) (r : BitVec 5) (x : Word) : (c.wg r x).stepArmed = c.stepArmed := by unfold Core.wg; split <;> rfl
@[simp] theorem wg_draining (c : Core) (r : BitVec 5) (x : Word) : (c.wg r x).draining = c.draining := by unfold Core.wg; split <;> rfl
@[simp] theorem wg_pc (c : Core) (r : BitVec 5) (x : Word) : (c.wg r x).pc = c.pc := by unfold Core.wg; split <;> rfl

/-- An instruction whose meaning is one write of a general register. -/
theorem retires_wg (c : Instr) (l : Fin 384) (s : State) (gd : BitVec 5) (v w : Core → Word) (he : exec c s = runReg l s fun k => k.wg gd (v k))
    (hs : s.ready l) (hv : ∀ k, v k = w k) : Retires c l s fun k => k.wg gd (w k) := by
  have : v = w := funext hv
  subst this
  exact retires_of_done c l s _ _ [] he hs rfl (by simp) (by simp) (by simp)

end Sys2Proof.Machine
end

