-- ==== Sys2Proof/Laws/Block.lean ====
section
/-! SUPPORT. How a command's meaning becomes a statement about it: a command on the device, an instruction that is done or that
waits, and a Distaff command that all checks admit. -/
namespace Sys2Proof.Machine

/-- A command whose meaning is a function of the device leaves that function's device. -/
theorem leaves_of {c : Instr} {s : State} {d : Dev} (f : Dev → Dev) (h : exec c s = onDev s f) (hd : f s.dev = d) : Leaves c s d :=
  ⟨_, h, rfl, hd⟩

theorem completes_of {c : Instr} {s : State} {p : Dev → Prop} (f : Dev → Dev) (h : exec c s = onDev s f) (hp : p (f s.dev)) : Completes c s p :=
  ⟨_, h, rfl, hp⟩

/-- A command on the device never touches the queue and never stops. -/
theorem onDev_pending (s : State) (f : Dev → Dev) : ∃ t, onDev s f = .next t ∧ t.pending = s.pending ∧ t.dev = f s.dev := ⟨_, rfl, rfl, rfl⟩

/-- An instruction that is done on a ready core. -/
theorem instr_done (s : State) (l : Fin 384) (f : Dev → CoreOut) (hs : s.ready l) (e : Dev) (evs : List (Nat × Nat))
    (h : f (s.fetched l) = .done e evs) (hq : e.quiet l.val = true) : s.dev.instr l f = e.updCore l.val fun c => { c with pc := c.pc + 4#64 } := by
  rw [instr_ready s l f hs, h, finish_done _ _ _ _ hq]

/-- An instruction that must wait on a ready core leaves what it has done so far, its PC in place. -/
theorem instr_stay (s : State) (l : Fin 384) (f : Dev → CoreOut) (hs : s.ready l) (e : Dev) (h : f (s.fetched l) = .stay e) : s.dev.instr l f = e := by
  rw [instr_ready s l f hs, h]; rfl

/-- A Distaff command that is taken, passes its checks and ends with OK is answered OK, with its data (18 R569, R571). -/
theorem serveAs_ok (d : Dev) (who : Caller) (c : Cmd) (kind : Nat) (as_ : Option (Nat × Nat)) (sound : Bool) (may : Option Session → Bool) (arg : List Byte)
    (act : Dev → Done) (h1 : d.takes who c.code = true) (h2 : d.cmdFails who c sound may = none) (h3 : d.shed < 4)
    (h4 : (act (d.sessionUsed who)).status = some .ok) :
    d.serveAs who c kind as_ sound may arg act =
      (act (d.sessionUsed who)).dev.answerTo who kind c.code .ok as_ arg (act (d.sessionUsed who)).data := by
  have h5 : (d.sessionUsed who).shed = d.shed := rfl
  have h6 : ¬ (4 ≤ d.shed) := by omega
  simp only [Dev.serveAs, h1, h2, h4, h5, h6, Bool.not_true, Bool.false_eq_true, if_false, decide_false, Bool.false_and, reduceCtorEq, false_and]

end Sys2Proof.Machine
end

