-- ==== Sys2Proof/Laws/Bobbin.lean ====
section
/-! SUPPORT. What a charge of slots leaves alone, and what the answers of memory depend on: the region map, the caches, the ports and
the poison (03 R115 to R117, 12 R387, 13 R405). -/
namespace Sys2Proof.Machine

/-- Two devices that hold the same region map. -/
def SameMap (d e : Dev) : Prop :=
  ∀ i, i < 64 → d.reg (Reg.MC_MAP_RANGE i) = e.reg (Reg.MC_MAP_RANGE i) ∧ d.reg (Reg.MC_MAP_SET i) = e.reg (Reg.MC_MAP_SET i) ∧
    d.reg (Reg.MC_MAP_BASE i) = e.reg (Reg.MC_MAP_BASE i)

theorem find?_congr_mem {α : Type} (l : List α) (p q : α → Bool) (h : ∀ x ∈ l, p x = q x) : l.find? p = l.find? q := by
  induction l with
  | nil => rfl
  | cons x t ih =>
    simp only [List.find?_cons, h x (List.mem_cons_self ..)]
    rw [ih fun y hy => h y (List.mem_cons_of_mem _ hy)]

theorem regionOf_congr {d e : Dev} (h : SameMap d e) (pa : Nat) : d.regionOf pa = e.regionOf pa := by
  apply find?_congr_mem
  intro i hi
  simp only [(h i (List.mem_range.1 hi)).1]

theorem regionOf_lt {d : Dev} {pa i : Nat} (h : d.regionOf pa = some i) : i < 64 := List.mem_range.1 (List.mem_of_find?_eq_some h)

theorem channelOf_congr {d e : Dev} (h : SameMap d e) (pa : Nat) : d.channelOf pa = e.channelOf pa := by
  simp only [Dev.channelOf, regionOf_congr h pa]
  split
  · rfl
  · next i hi =>
    obtain ⟨h1, h2, h3⟩ := h i (regionOf_lt hi)
    simp only [Dev.regF, h1, h2, h3]; rfl

/-- The port's answer depends on the caches, the map and the ports. -/
theorem lineAnswer_congr {d e : Dev} (h : SameMap d e) (hc : d.coh = e.coh) (hp : d.ports = e.ports) (n : Nat) : d.lineAnswer n = e.lineAnswer n := by
  simp only [Dev.lineAnswer, Dev.cached, Dev.port, hc, hp, channelOf_congr h]; rfl

theorem poisoned_congr {d e : Dev} (h : SameMap d e) (hm : d.mem = e.mem) (hd : d.dram = e.dram)
    (hr : ∀ ch, d.reg (Reg.MC_CFG ch) = e.reg (Reg.MC_CFG ch)) (n : Nat) : d.poisoned n = e.poisoned n := by
  have hk : ∀ ch loc, d.rankOf ch loc = e.rankOf ch loc := by
    intro ch loc; simp only [Dev.rankOf, Dev.regF, hr, hd]; rfl
  simp only [Dev.poisoned, Dev.rankLost, Dev.inRanks, hm, channelOf_congr h, hk]

/-! ### A charge -/

theorem reg_charge_ne (d : Dev) (sk n a : Nat) (h : Reg.BQ_SK_SLOTWAIT sk ≠ a) : (d.charge sk n).reg a = d.reg a := by
  unfold Dev.charge; rw [reg_setRegF_ne _ _ _ _ _ _ h]; rfl

@[simp] theorem charge_bq (d : Dev) (sk n : Nat) : (d.charge sk n).bq = d.bq := rfl
@[simp] theorem charge_cores (d : Dev) (sk n : Nat) : (d.charge sk n).cores = d.cores := rfl
@[simp] theorem charge_mem (d : Dev) (sk n : Nat) : (d.charge sk n).mem = d.mem := rfl
@[simp] theorem charge_coh (d : Dev) (sk n : Nat) : (d.charge sk n).coh = d.coh := rfl
@[simp] theorem charge_img (d : Dev) (sk n : Nat) : (d.charge sk n).img = d.img := rfl
@[simp] theorem charge_ports (d : Dev) (sk n : Nat) : (d.charge sk n).ports = d.ports := rfl
@[simp] theorem charge_dram (d : Dev) (sk n : Nat) : (d.charge sk n).dram = d.dram := rfl
@[simp] theorem charge_q (d : Dev) (sk n k : Nat) : (d.charge sk n).q k = d.q k := rfl

theorem sameMap_charge (d : Dev) (sk n : Nat) (h : sk < 16) : SameMap (d.charge sk n) d := by
  intro i hi
  refine ⟨reg_charge_ne _ _ _ _ ?_, reg_charge_ne _ _ _ _ ?_, reg_charge_ne _ _ _ _ ?_⟩ <;>
    simp only [Reg.BQ_SK_SLOTWAIT, Reg.MC_MAP_RANGE, Reg.MC_MAP_SET, Reg.MC_MAP_BASE] <;> omega

/-- A charge does not change the states of the ports behind an address. -/
theorem portsAt_charge (d : Dev) (sk n pa : Nat) (p : PortSt → Bool) (h : sk < 16) : (d.charge sk n).portsAt pa p = d.portsAt pa p := by
  have hm := sameMap_charge d sk n h
  simp only [Dev.portsAt, regionOf_congr hm]
  split
  · rfl
  · next i hi => simp only [Dev.regF, (hm i (regionOf_lt hi)).2.1]; rfl

/-- Where the longest wait shown is the greatest the field holds, a charge leaves it: what it draws is no longer than that. -/
theorem charge_full (d : Dev) (sk n : Nat) (h : d.regF (Reg.BQ_SK_SLOTWAIT sk) 15 0 = 0xFFFF) (hs : d.regF (Reg.BQ_SK_SHARE sk) 10 0 = 0) :
    d.charge sk n = ({ d with freeCtr := d.freeCtr + 1 }.hubAdd sk 2 n).setRegF (Reg.BQ_SK_SLOTWAIT sk) 15 0 0xFFFF := by
  have h1 : (({ d with freeCtr := d.freeCtr + 1 } : Dev).hubAdd sk 2 n).regF (Reg.BQ_SK_SLOTWAIT sk) 15 0 = 0xFFFF := h
  simp only [Dev.charge, hs, h1, if_true]
  congr 1
  have := Nat.mod_lt (Config.freeValue d.freeCtr).toNat (show 0 < 0xFFFF + 1 by decide)
  omega

/-- A charge does not change whether a queue's memory is on. -/
theorem qmemOn_charge (d : Dev) (sk n k : Nat) (o : SkeinCfg) (h : sk < 16) : (d.charge sk n).qmemOn o k = d.qmemOn o k := by
  simp only [Dev.qmemOn, charge_q, portsAt_charge d sk n _ _ h]

/-- A charge does not change which lines of a buffer the engine may read. -/
theorem bufFails_charge (d : Dev) (sk n l : Nat) (lines : List Nat) (h : sk < 16) (hl : d.mem.lostRanks = []) :
    (d.charge sk n).bufFails l lines = d.bufFails l lines := by
  have hb : ∀ x, (d.charge sk n).bufLine l x = d.bufLine l x := by
    intro x
    have h1 : (d.charge sk n).coreMem l (x * 64) = d.coreMem l (x * 64) := rfl
    have h2 := lineAnswer_congr (sameMap_charge d sk n h) (charge_coh d sk n) (charge_ports d sk n) x
    have h3 : (d.charge sk n).poisoned x = d.poisoned x := by
      simp only [Dev.poisoned, Dev.rankLost, charge_mem, hl, Dev.inRanks]
    have h4 : (d.charge sk n).secMarkBytes = d.secMarkBytes := by
      simp only [Dev.secMarkBytes, Dev.regF]; rw [reg_charge_ne _ _ _ _ (by simp only [Reg.BQ_SK_SLOTWAIT, Reg.SEC_MARK]; omega)]
    simp only [Dev.bufLine, h1, h2, h3, h4]
  unfold Dev.bufFails
  rw [funext hb]

end Sys2Proof.Machine
end

