-- ==== Sys2Proof/Laws/PerInstr.lean ====
section
/-! SUPPORT. For every command: the lines it names lie in the address space of DRAM, if it is well formed. -/
namespace Sys2Proof

/-- The lines a command of the coherence protocol names. -/
def Instr.lines : Instr → List Nat
  | .gets _ line => [line]
  | .getm _ line => [line]
  | .wfull _ line _ => [line]
  | .puts _ line => [line]
  | .putm _ line => [line.line]
  | .rdnc _ line => [line]
  | .wrnc _ line _ _ => [line]
  | .atom _ line _ => [line]
  | .dataMsg _ line => [line]
  | .grantMsg _ line => [line]
  | .doneMsg _ line => [line]
  | .ackMsg _ line => [line]
  | .rdata _ line => [line.line]
  | .already _ line => [line]
  | .invMsg _ line => [line]
  | .recallS _ line => [line]
  | .recallI _ line => [line]
  | .recallD _ line => [line]
  | .dirRebuildDone line => [line]
  | _ => []

namespace Laws.Lines

/-- A well-formed command names only lines below the end of DRAM's space (01 R33). -/
def Statement (i : Instr) : Prop := i.wellFormed = true → ∀ n ∈ i.lines, n < 2 ^ 41

/-- A command that names one line and checks it. -/
theorem of_line {i : Instr} {line : Nat} (hl : i.lines = [line]) (hw : i.wellFormed = true → lineOk line = true) : Statement i := by
  intro h n hn
  rw [hl, List.mem_singleton] at hn
  subst hn
  exact of_decide_eq_true (hw h)

/-- A command that names no line. -/
theorem of_none {i : Instr} (hl : i.lines = []) : Statement i := fun _ n hn => by rw [hl] at hn; cases hn

theorem registerWrite : ∀ a0 a1 a2, Statement (.registerWrite a0 a1 a2) := fun _ _ _ => of_none rfl
theorem rcRegisterRead : ∀ a0 a1, Statement (.rcRegisterRead a0 a1) := fun _ _ => of_none rfl
theorem pairLoRead : ∀ a0 a1, Statement (.pairLoRead a0 a1) := fun _ _ => of_none rfl
theorem pairLoWrite : ∀ a0 a1 a2, Statement (.pairLoWrite a0 a1 a2) := fun _ _ _ => of_none rfl
theorem pairHiWrite : ∀ a0 a1 a2, Statement (.pairHiWrite a0 a1 a2) := fun _ _ _ => of_none rfl
theorem pwrokRise : ∀ a0, Statement (.pwrokRise a0) := fun _ => of_none rfl
theorem pwrokFall : Statement .pwrokFall := of_none rfl
theorem dieLinkTraining : ∀ a0, Statement (.dieLinkTraining a0) := fun _ => of_none rfl
theorem dramTraining : ∀ a0, Statement (.dramTraining a0) := fun _ => of_none rfl
theorem hpprRepair : ∀ a0, Statement (.hpprRepair a0) := fun _ => of_none rfl
theorem imageApply : ∀ a0 a1, Statement (.imageApply a0 a1) := fun _ _ => of_none rfl
theorem skeinRelease : ∀ a0, Statement (.skeinRelease a0) := fun _ => of_none rfl
theorem packageReset : ∀ a0, Statement (.packageReset a0) := fun _ => of_none rfl
theorem skeinReset : ∀ a0, Statement (.skeinReset a0) := fun _ => of_none rfl
theorem coreReset : ∀ a0, Statement (.coreReset a0) := fun _ => of_none rfl
theorem imgRead : ∀ a0, Statement (.imgRead a0) := fun _ => of_none rfl
theorem imgCheck : ∀ a0 a1, Statement (.imgCheck a0 a1) := fun _ _ => of_none rfl
theorem imgStage : ∀ a0 a1, Statement (.imgStage a0 a1) := fun _ _ => of_none rfl
theorem imgDelta : ∀ a0 a1, Statement (.imgDelta a0 a1) := fun _ _ => of_none rfl
theorem deltaJournalWriteDone : Statement .deltaJournalWriteDone := of_none rfl
theorem deltaSwitch : Statement .deltaSwitch := of_none rfl
theorem qpost : ∀ a0 a1 a2 a3, Statement (.qpost a0 a1 a2 a3) := fun _ _ _ _ => of_none rfl
theorem qpostl : ∀ a0 a1 a2 a3, Statement (.qpostl a0 a1 a2 a3) := fun _ _ _ _ => of_none rfl
theorem qread : ∀ a0 a1 a2 a3 a4, Statement (.qread a0 a1 a2 a3 a4) := fun _ _ _ _ _ => of_none rfl
theorem qtry : ∀ a0 a1 a2 a3 a4, Statement (.qtry a0 a1 a2 a3 a4) := fun _ _ _ _ _ => of_none rfl
theorem qwait : ∀ a0 a1 a2 a3 a4, Statement (.qwait a0 a1 a2 a3 a4) := fun _ _ _ _ _ => of_none rfl
theorem itemCommit : ∀ a0, Statement (.itemCommit a0) := fun _ => of_none rfl
theorem waitLimitExpire : ∀ a0, Statement (.waitLimitExpire a0) := fun _ => of_none rfl
theorem waitCancel : ∀ a0, Statement (.waitCancel a0) := fun _ => of_none rfl
theorem qctlQuery : ∀ a0 a1 a2 a3, Statement (.qctlQuery a0 a1 a2 a3) := fun _ _ _ _ => of_none rfl
theorem qctlSetup : ∀ a0 a1 a2 a3, Statement (.qctlSetup a0 a1 a2 a3) := fun _ _ _ _ => of_none rfl
theorem qctlEnable : ∀ a0 a1 a2 a3, Statement (.qctlEnable a0 a1 a2 a3) := fun _ _ _ _ => of_none rfl
theorem qctlDisable : ∀ a0 a1 a2 a3, Statement (.qctlDisable a0 a1 a2 a3) := fun _ _ _ _ => of_none rfl
theorem qctlFlush : ∀ a0 a1 a2 a3, Statement (.qctlFlush a0 a1 a2 a3) := fun _ _ _ _ => of_none rfl
theorem flushPoint : ∀ a0, Statement (.flushPoint a0) := fun _ => of_none rfl
theorem flushComplete : ∀ a0, Statement (.flushComplete a0) := fun _ => of_none rfl
theorem qctlLimits : ∀ a0 a1 a2 a3, Statement (.qctlLimits a0 a1 a2 a3) := fun _ _ _ _ => of_none rfl
theorem qctlRights : ∀ a0 a1 a2 a3, Statement (.qctlRights a0 a1 a2 a3) := fun _ _ _ _ => of_none rfl
theorem qctlRevive : ∀ a0 a1 a2 a3, Statement (.qctlRevive a0 a1 a2 a3) := fun _ _ _ _ => of_none rfl
theorem qctlGset : ∀ a0 a1 a2 a3, Statement (.qctlGset a0 a1 a2 a3) := fun _ _ _ _ => of_none rfl
theorem pipeRetire : ∀ a0, Statement (.pipeRetire a0) := fun _ => of_none rfl
theorem chEnable : ∀ a0 a1 a2, Statement (.chEnable a0 a1 a2) := fun _ _ _ => of_none rfl
theorem chStop : ∀ a0 a1 a2, Statement (.chStop a0 a1 a2) := fun _ _ _ => of_none rfl
theorem chStopped : ∀ a0 a1 a2, Statement (.chStopped a0 a1 a2) := fun _ _ _ => of_none rfl
theorem chResume : ∀ a0 a1 a2, Statement (.chResume a0 a1 a2) := fun _ _ _ => of_none rfl
theorem chDisable : ∀ a0 a1 a2, Statement (.chDisable a0 a1 a2) := fun _ _ _ => of_none rfl
theorem bqChSqDb : ∀ a0 a1 a2 a3, Statement (.bqChSqDb a0 a1 a2 a3) := fun _ _ _ _ => of_none rfl
theorem bqChRxDb : ∀ a0 a1 a2 a3, Statement (.bqChRxDb a0 a1 a2 a3) := fun _ _ _ _ => of_none rfl
theorem bqChCqDb : ∀ a0 a1 a2 a3, Statement (.bqChCqDb a0 a1 a2 a3) := fun _ _ _ _ => of_none rfl
theorem descriptorFetchDone : ∀ a0 a1 a2 a3 a4, Statement (.descriptorFetchDone a0 a1 a2 a3 a4) := fun _ _ _ _ _ => of_none rfl
theorem payloadFetchDone : ∀ a0 a1 a2 a3 a4, Statement (.payloadFetchDone a0 a1 a2 a3 a4) := fun _ _ _ _ _ => of_none rfl
theorem dmaReadTimeout : ∀ a0 a1 a2 a3, Statement (.dmaReadTimeout a0 a1 a2 a3) := fun _ _ _ _ => of_none rfl
theorem dmaPostRetry : ∀ a0 a1 a2 a3, Statement (.dmaPostRetry a0 a1 a2 a3) := fun _ _ _ _ => of_none rfl
theorem dmaFullLimitExpire : ∀ a0 a1 a2 a3, Statement (.dmaFullLimitExpire a0 a1 a2 a3) := fun _ _ _ _ => of_none rfl
theorem drainTake : ∀ a0 a1 a2, Statement (.drainTake a0 a1 a2) := fun _ _ _ => of_none rfl
theorem creqRetry : ∀ a0, Statement (.creqRetry a0) := fun _ => of_none rfl
theorem creditBlockIdleRelease : ∀ a0, Statement (.creditBlockIdleRelease a0) := fun _ => of_none rfl
theorem padds : ∀ a0 a1 a2 a3 a4 a5 a6, Statement (.padds a0 a1 a2 a3 a4 a5 a6) := fun _ _ _ _ _ _ _ => of_none rfl
theorem paddu : ∀ a0 a1 a2 a3 a4 a5 a6, Statement (.paddu a0 a1 a2 a3 a4 a5 a6) := fun _ _ _ _ _ _ _ => of_none rfl
theorem psubs : ∀ a0 a1 a2 a3 a4 a5 a6, Statement (.psubs a0 a1 a2 a3 a4 a5 a6) := fun _ _ _ _ _ _ _ => of_none rfl
theorem psubu : ∀ a0 a1 a2 a3 a4 a5 a6, Statement (.psubu a0 a1 a2 a3 a4 a5 a6) := fun _ _ _ _ _ _ _ => of_none rfl
theorem pmulr : ∀ a0 a1 a2 a3 a4 a5 a6, Statement (.pmulr a0 a1 a2 a3 a4 a5 a6) := fun _ _ _ _ _ _ _ => of_none rfl
theorem pmin : ∀ a0 a1 a2 a3 a4 a5 a6, Statement (.pmin a0 a1 a2 a3 a4 a5 a6) := fun _ _ _ _ _ _ _ => of_none rfl
theorem pmax : ∀ a0 a1 a2 a3 a4 a5 a6, Statement (.pmax a0 a1 a2 a3 a4 a5 a6) := fun _ _ _ _ _ _ _ => of_none rfl
theorem pminu : ∀ a0 a1 a2 a3 a4 a5 a6, Statement (.pminu a0 a1 a2 a3 a4 a5 a6) := fun _ _ _ _ _ _ _ => of_none rfl
theorem pmaxu : ∀ a0 a1 a2 a3 a4 a5 a6, Statement (.pmaxu a0 a1 a2 a3 a4 a5 a6) := fun _ _ _ _ _ _ _ => of_none rfl
theorem psad : ∀ a0 a1 a2 a3 a4 a5 a6, Statement (.psad a0 a1 a2 a3 a4 a5 a6) := fun _ _ _ _ _ _ _ => of_none rfl
theorem psel : ∀ a0 a1 a2 a3 a4 a5 a6, Statement (.psel a0 a1 a2 a3 a4 a5 a6) := fun _ _ _ _ _ _ _ => of_none rfl
theorem pand : ∀ a0 a1 a2 a3 a4 a5 a6, Statement (.pand a0 a1 a2 a3 a4 a5 a6) := fun _ _ _ _ _ _ _ => of_none rfl
theorem por : ∀ a0 a1 a2 a3 a4 a5 a6, Statement (.por a0 a1 a2 a3 a4 a5 a6) := fun _ _ _ _ _ _ _ => of_none rfl
theorem pxor : ∀ a0 a1 a2 a3 a4 a5 a6, Statement (.pxor a0 a1 a2 a3 a4 a5 a6) := fun _ _ _ _ _ _ _ => of_none rfl
theorem pwacc : ∀ a0 a1 a2 a3 a4 a5, Statement (.pwacc a0 a1 a2 a3 a4 a5) := fun _ _ _ _ _ _ => of_none rfl
theorem pwmac : ∀ a0 a1 a2 a3 a4 a5 a6, Statement (.pwmac a0 a1 a2 a3 a4 a5 a6) := fun _ _ _ _ _ _ _ => of_none rfl
theorem pmuld : ∀ a0 a1 a2 a3 a4 a5 a6 a7, Statement (.pmuld a0 a1 a2 a3 a4 a5 a6 a7) := fun _ _ _ _ _ _ _ _ => of_none rfl
theorem pld : ∀ a0 a1 a2 a3 a4 a5 a6, Statement (.pld a0 a1 a2 a3 a4 a5 a6) := fun _ _ _ _ _ _ _ => of_none rfl
theorem pst : ∀ a0 a1 a2 a3 a4 a5 a6, Statement (.pst a0 a1 a2 a3 a4 a5 a6) := fun _ _ _ _ _ _ _ => of_none rfl
theorem pbcast : ∀ a0 a1 a2 a3 a4 a5, Statement (.pbcast a0 a1 a2 a3 a4 a5) := fun _ _ _ _ _ _ => of_none rfl
theorem pmand : ∀ a0 a1 a2 a3, Statement (.pmand a0 a1 a2 a3) := fun _ _ _ _ => of_none rfl
theorem pmor : ∀ a0 a1 a2 a3, Statement (.pmor a0 a1 a2 a3) := fun _ _ _ _ => of_none rfl
theorem pmxor : ∀ a0 a1 a2 a3, Statement (.pmxor a0 a1 a2 a3) := fun _ _ _ _ => of_none rfl
theorem pmandn : ∀ a0 a1 a2 a3, Statement (.pmandn a0 a1 a2 a3) := fun _ _ _ _ => of_none rfl
theorem pgtomL : ∀ a0 a1 a2, Statement (.pgtomL a0 a1 a2) := fun _ _ _ => of_none rfl
theorem pgtomH : ∀ a0 a1 a2, Statement (.pgtomH a0 a1 a2) := fun _ _ _ => of_none rfl
theorem pmtogL : ∀ a0 a1 a2, Statement (.pmtogL a0 a1 a2) := fun _ _ _ => of_none rfl
theorem pmtogH : ∀ a0 a1 a2, Statement (.pmtogH a0 a1 a2) := fun _ _ _ => of_none rfl
theorem pscaleUp : ∀ a0 a1 a2 a3 a4 a5 a6, Statement (.pscaleUp a0 a1 a2 a3 a4 a5 a6) := fun _ _ _ _ _ _ _ => of_none rfl
theorem pscaleDn : ∀ a0 a1 a2 a3 a4 a5 a6, Statement (.pscaleDn a0 a1 a2 a3 a4 a5 a6) := fun _ _ _ _ _ _ _ => of_none rfl
theorem pcmpEq : ∀ a0 a1 a2 a3 a4 a5 a6, Statement (.pcmpEq a0 a1 a2 a3 a4 a5 a6) := fun _ _ _ _ _ _ _ => of_none rfl
theorem pcmpNe : ∀ a0 a1 a2 a3 a4 a5 a6, Statement (.pcmpNe a0 a1 a2 a3 a4 a5 a6) := fun _ _ _ _ _ _ _ => of_none rfl
theorem pcmpLt : ∀ a0 a1 a2 a3 a4 a5 a6, Statement (.pcmpLt a0 a1 a2 a3 a4 a5 a6) := fun _ _ _ _ _ _ _ => of_none rfl
theorem pcmpLe : ∀ a0 a1 a2 a3 a4 a5 a6, Statement (.pcmpLe a0 a1 a2 a3 a4 a5 a6) := fun _ _ _ _ _ _ _ => of_none rfl
theorem pcmpLtu : ∀ a0 a1 a2 a3 a4 a5 a6, Statement (.pcmpLtu a0 a1 a2 a3 a4 a5 a6) := fun _ _ _ _ _ _ _ => of_none rfl
theorem pcmpLeu : ∀ a0 a1 a2 a3 a4 a5 a6, Statement (.pcmpLeu a0 a1 a2 a3 a4 a5 a6) := fun _ _ _ _ _ _ _ => of_none rfl
theorem pa2b : ∀ a0 a1 a2 a3 a4 a5 a6, Statement (.pa2b a0 a1 a2 a3 a4 a5 a6) := fun _ _ _ _ _ _ _ => of_none rfl
theorem pb2a : ∀ a0 a1 a2 a3 a4 a5 a6, Statement (.pb2a a0 a1 a2 a3 a4 a5 a6) := fun _ _ _ _ _ _ _ => of_none rfl
theorem pbcd2b : ∀ a0 a1 a2 a3 a4 a5 a6, Statement (.pbcd2b a0 a1 a2 a3 a4 a5 a6) := fun _ _ _ _ _ _ _ => of_none rfl
theorem pb2bcd : ∀ a0 a1 a2 a3 a4 a5 a6, Statement (.pb2bcd a0 a1 a2 a3 a4 a5 a6) := fun _ _ _ _ _ _ _ => of_none rfl
theorem pluhn : ∀ a0 a1 a2 a3 a4 a5 a6, Statement (.pluhn a0 a1 a2 a3 a4 a5 a6) := fun _ _ _ _ _ _ _ => of_none rfl
theorem pins : ∀ a0 a1 a2 a3 a4, Statement (.pins a0 a1 a2 a3 a4) := fun _ _ _ _ _ => of_none rfl
theorem pext : ∀ a0 a1 a2 a3 a4, Statement (.pext a0 a1 a2 a3 a4) := fun _ _ _ _ _ => of_none rfl
theorem pflush : ∀ a0, Statement (.pflush a0) := fun _ => of_none rfl
theorem pbar : ∀ a0 a1 a2, Statement (.pbar a0 a1 a2) := fun _ _ _ => of_none rfl
theorem isync : ∀ a0, Statement (.isync a0) := fun _ => of_none rfl
theorem add : ∀ a0 a1 a2 a3 a4, Statement (.add a0 a1 a2 a3 a4) := fun _ _ _ _ _ => of_none rfl
theorem sub : ∀ a0 a1 a2 a3 a4, Statement (.sub a0 a1 a2 a3 a4) := fun _ _ _ _ _ => of_none rfl
theorem and : ∀ a0 a1 a2 a3, Statement (.and a0 a1 a2 a3) := fun _ _ _ _ => of_none rfl
theorem or : ∀ a0 a1 a2 a3, Statement (.or a0 a1 a2 a3) := fun _ _ _ _ => of_none rfl
theorem xor : ∀ a0 a1 a2 a3, Statement (.xor a0 a1 a2 a3) := fun _ _ _ _ => of_none rfl
theorem andn : ∀ a0 a1 a2 a3, Statement (.andn a0 a1 a2 a3) := fun _ _ _ _ => of_none rfl
theorem orn : ∀ a0 a1 a2 a3, Statement (.orn a0 a1 a2 a3) := fun _ _ _ _ => of_none rfl
theorem xnor : ∀ a0 a1 a2 a3, Statement (.xnor a0 a1 a2 a3) := fun _ _ _ _ => of_none rfl
theorem sll : ∀ a0 a1 a2 a3 a4, Statement (.sll a0 a1 a2 a3 a4) := fun _ _ _ _ _ => of_none rfl
theorem srl : ∀ a0 a1 a2 a3 a4, Statement (.srl a0 a1 a2 a3 a4) := fun _ _ _ _ _ => of_none rfl
theorem sra : ∀ a0 a1 a2 a3 a4, Statement (.sra a0 a1 a2 a3 a4) := fun _ _ _ _ _ => of_none rfl
theorem ror : ∀ a0 a1 a2 a3 a4, Statement (.ror a0 a1 a2 a3 a4) := fun _ _ _ _ _ => of_none rfl
theorem slt : ∀ a0 a1 a2 a3, Statement (.slt a0 a1 a2 a3) := fun _ _ _ _ => of_none rfl
theorem sltu : ∀ a0 a1 a2 a3, Statement (.sltu a0 a1 a2 a3) := fun _ _ _ _ => of_none rfl
theorem min : ∀ a0 a1 a2 a3, Statement (.min a0 a1 a2 a3) := fun _ _ _ _ => of_none rfl
theorem max : ∀ a0 a1 a2 a3, Statement (.max a0 a1 a2 a3) := fun _ _ _ _ => of_none rfl
theorem minu : ∀ a0 a1 a2 a3, Statement (.minu a0 a1 a2 a3) := fun _ _ _ _ => of_none rfl
theorem maxu : ∀ a0 a1 a2 a3, Statement (.maxu a0 a1 a2 a3) := fun _ _ _ _ => of_none rfl
theorem clz : ∀ a0 a1 a2 a3, Statement (.clz a0 a1 a2 a3) := fun _ _ _ _ => of_none rfl
theorem ctz : ∀ a0 a1 a2 a3, Statement (.ctz a0 a1 a2 a3) := fun _ _ _ _ => of_none rfl
theorem popc : ∀ a0 a1 a2 a3, Statement (.popc a0 a1 a2 a3) := fun _ _ _ _ => of_none rfl
theorem rev8 : ∀ a0 a1 a2, Statement (.rev8 a0 a1 a2) := fun _ _ _ => of_none rfl
theorem cselz : ∀ a0 a1 a2 a3, Statement (.cselz a0 a1 a2 a3) := fun _ _ _ _ => of_none rfl
theorem cselnz : ∀ a0 a1 a2 a3, Statement (.cselnz a0 a1 a2 a3) := fun _ _ _ _ => of_none rfl
theorem mul : ∀ a0 a1 a2 a3 a4, Statement (.mul a0 a1 a2 a3 a4) := fun _ _ _ _ _ => of_none rfl
theorem mulh : ∀ a0 a1 a2 a3, Statement (.mulh a0 a1 a2 a3) := fun _ _ _ _ => of_none rfl
theorem mulhu : ∀ a0 a1 a2 a3, Statement (.mulhu a0 a1 a2 a3) := fun _ _ _ _ => of_none rfl
theorem mulhsu : ∀ a0 a1 a2 a3, Statement (.mulhsu a0 a1 a2 a3) := fun _ _ _ _ => of_none rfl
theorem div : ∀ a0 a1 a2 a3 a4, Statement (.div a0 a1 a2 a3 a4) := fun _ _ _ _ _ => of_none rfl
theorem divu : ∀ a0 a1 a2 a3 a4, Statement (.divu a0 a1 a2 a3 a4) := fun _ _ _ _ _ => of_none rfl
theorem rem : ∀ a0 a1 a2 a3 a4, Statement (.rem a0 a1 a2 a3 a4) := fun _ _ _ _ _ => of_none rfl
theorem remu : ∀ a0 a1 a2 a3 a4, Statement (.remu a0 a1 a2 a3 a4) := fun _ _ _ _ _ => of_none rfl
theorem addi : ∀ a0 a1 a2 a3, Statement (.addi a0 a1 a2 a3) := fun _ _ _ _ => of_none rfl
theorem addiw : ∀ a0 a1 a2 a3, Statement (.addiw a0 a1 a2 a3) := fun _ _ _ _ => of_none rfl
theorem andi : ∀ a0 a1 a2 a3, Statement (.andi a0 a1 a2 a3) := fun _ _ _ _ => of_none rfl
theorem ori : ∀ a0 a1 a2 a3, Statement (.ori a0 a1 a2 a3) := fun _ _ _ _ => of_none rfl
theorem xori : ∀ a0 a1 a2 a3, Statement (.xori a0 a1 a2 a3) := fun _ _ _ _ => of_none rfl
theorem slti : ∀ a0 a1 a2 a3, Statement (.slti a0 a1 a2 a3) := fun _ _ _ _ => of_none rfl
theorem sltiu : ∀ a0 a1 a2 a3, Statement (.sltiu a0 a1 a2 a3) := fun _ _ _ _ => of_none rfl
theorem slli : ∀ a0 a1 a2 a3 a4, Statement (.slli a0 a1 a2 a3 a4) := fun _ _ _ _ _ => of_none rfl
theorem srli : ∀ a0 a1 a2 a3 a4, Statement (.srli a0 a1 a2 a3 a4) := fun _ _ _ _ _ => of_none rfl
theorem srai : ∀ a0 a1 a2 a3 a4, Statement (.srai a0 a1 a2 a3 a4) := fun _ _ _ _ _ => of_none rfl
theorem rori : ∀ a0 a1 a2 a3 a4, Statement (.rori a0 a1 a2 a3 a4) := fun _ _ _ _ _ => of_none rfl
theorem lui : ∀ a0 a1 a2, Statement (.lui a0 a1 a2) := fun _ _ _ => of_none rfl
theorem shi : ∀ a0 a1 a2 a3, Statement (.shi a0 a1 a2 a3) := fun _ _ _ _ => of_none rfl
theorem auipc : ∀ a0 a1 a2, Statement (.auipc a0 a1 a2) := fun _ _ _ => of_none rfl
theorem extu : ∀ a0 a1 a2 a3 a4, Statement (.extu a0 a1 a2 a3 a4) := fun _ _ _ _ _ => of_none rfl
theorem ext : ∀ a0 a1 a2 a3 a4, Statement (.ext a0 a1 a2 a3 a4) := fun _ _ _ _ _ => of_none rfl
theorem ins : ∀ a0 a1 a2 a3 a4, Statement (.ins a0 a1 a2 a3 a4) := fun _ _ _ _ _ => of_none rfl
theorem scalarLoad : ∀ a0 a1 a2 a3 a4 a5, Statement (.scalarLoad a0 a1 a2 a3 a4 a5) := fun _ _ _ _ _ _ => of_none rfl
theorem scalarStore : ∀ a0 a1 a2 a3 a4, Statement (.scalarStore a0 a1 a2 a3 a4) := fun _ _ _ _ _ => of_none rfl
theorem flwFld : ∀ a0 a1 a2 a3 a4, Statement (.flwFld a0 a1 a2 a3 a4) := fun _ _ _ _ _ => of_none rfl
theorem fswFsd : ∀ a0 a1 a2 a3 a4, Statement (.fswFsd a0 a1 a2 a3 a4) := fun _ _ _ _ _ => of_none rfl
theorem indexedLoad : ∀ a0 a1 a2 a3 a4 a5 a6, Statement (.indexedLoad a0 a1 a2 a3 a4 a5 a6) := fun _ _ _ _ _ _ _ => of_none rfl
theorem indexedStore : ∀ a0 a1 a2 a3 a4 a5, Statement (.indexedStore a0 a1 a2 a3 a4 a5) := fun _ _ _ _ _ _ => of_none rfl
theorem pref : ∀ a0 a1 a2 a3, Statement (.pref a0 a1 a2 a3) := fun _ _ _ _ => of_none rfl
theorem jump : ∀ a0 a1, Statement (.jump a0 a1) := fun _ _ => of_none rfl
theorem jal : ∀ a0 a1, Statement (.jal a0 a1) := fun _ _ => of_none rfl
theorem jalr : ∀ a0 a1 a2 a3, Statement (.jalr a0 a1 a2 a3) := fun _ _ _ _ => of_none rfl
theorem bc : ∀ a0 a1 a2 a3 a4, Statement (.bc a0 a1 a2 a3 a4) := fun _ _ _ _ _ => of_none rfl
theorem bz : ∀ a0 a1 a2 a3, Statement (.bz a0 a1 a2 a3) := fun _ _ _ _ => of_none rfl
theorem fadd : ∀ a0 a1 a2 a3 a4 a5, Statement (.fadd a0 a1 a2 a3 a4 a5) := fun _ _ _ _ _ _ => of_none rfl
theorem fsub : ∀ a0 a1 a2 a3 a4 a5, Statement (.fsub a0 a1 a2 a3 a4 a5) := fun _ _ _ _ _ _ => of_none rfl
theorem fmul : ∀ a0 a1 a2 a3 a4 a5, Statement (.fmul a0 a1 a2 a3 a4 a5) := fun _ _ _ _ _ _ => of_none rfl
theorem fdiv : ∀ a0 a1 a2 a3 a4 a5, Statement (.fdiv a0 a1 a2 a3 a4 a5) := fun _ _ _ _ _ _ => of_none rfl
theorem fsqrt : ∀ a0 a1 a2 a3 a4, Statement (.fsqrt a0 a1 a2 a3 a4) := fun _ _ _ _ _ => of_none rfl
theorem fminnum : ∀ a0 a1 a2 a3 a4, Statement (.fminnum a0 a1 a2 a3 a4) := fun _ _ _ _ _ => of_none rfl
theorem fmaxnum : ∀ a0 a1 a2 a3 a4, Statement (.fmaxnum a0 a1 a2 a3 a4) := fun _ _ _ _ _ => of_none rfl
theorem fmin : ∀ a0 a1 a2 a3 a4, Statement (.fmin a0 a1 a2 a3 a4) := fun _ _ _ _ _ => of_none rfl
theorem fmax : ∀ a0 a1 a2 a3 a4, Statement (.fmax a0 a1 a2 a3 a4) := fun _ _ _ _ _ => of_none rfl
theorem fabs : ∀ a0 a1 a2 a3, Statement (.fabs a0 a1 a2 a3) := fun _ _ _ _ => of_none rfl
theorem fneg : ∀ a0 a1 a2 a3, Statement (.fneg a0 a1 a2 a3) := fun _ _ _ _ => of_none rfl
theorem fcopys : ∀ a0 a1 a2 a3 a4, Statement (.fcopys a0 a1 a2 a3 a4) := fun _ _ _ _ _ => of_none rfl
theorem fnabs : ∀ a0 a1 a2 a3, Statement (.fnabs a0 a1 a2 a3) := fun _ _ _ _ => of_none rfl
theorem fma : ∀ a0 a1 a2 a3 a4 a5 a6, Statement (.fma a0 a1 a2 a3 a4 a5 a6) := fun _ _ _ _ _ _ _ => of_none rfl
theorem fms : ∀ a0 a1 a2 a3 a4 a5 a6, Statement (.fms a0 a1 a2 a3 a4 a5 a6) := fun _ _ _ _ _ _ _ => of_none rfl
theorem frms : ∀ a0 a1 a2 a3 a4 a5 a6, Statement (.frms a0 a1 a2 a3 a4 a5 a6) := fun _ _ _ _ _ _ _ => of_none rfl
theorem fnma : ∀ a0 a1 a2 a3 a4 a5 a6, Statement (.fnma a0 a1 a2 a3 a4 a5 a6) := fun _ _ _ _ _ _ _ => of_none rfl
theorem fceq : ∀ a0 a1 a2 a3 a4, Statement (.fceq a0 a1 a2 a3 a4) := fun _ _ _ _ _ => of_none rfl
theorem fclt : ∀ a0 a1 a2 a3 a4, Statement (.fclt a0 a1 a2 a3 a4) := fun _ _ _ _ _ => of_none rfl
theorem fcle : ∀ a0 a1 a2 a3 a4, Statement (.fcle a0 a1 a2 a3 a4) := fun _ _ _ _ _ => of_none rfl
theorem fcun : ∀ a0 a1 a2 a3 a4, Statement (.fcun a0 a1 a2 a3 a4) := fun _ _ _ _ _ => of_none rfl
theorem fcltq : ∀ a0 a1 a2 a3 a4, Statement (.fcltq a0 a1 a2 a3 a4) := fun _ _ _ _ _ => of_none rfl
theorem fcleq : ∀ a0 a1 a2 a3 a4, Statement (.fcleq a0 a1 a2 a3 a4) := fun _ _ _ _ _ => of_none rfl
theorem fkind : ∀ a0 a1 a2 a3, Statement (.fkind a0 a1 a2 a3) := fun _ _ _ _ => of_none rfl
theorem fcvt : ∀ a0 a1 a2 a3 a4, Statement (.fcvt a0 a1 a2 a3 a4) := fun _ _ _ _ _ => of_none rfl
theorem ftoi64 : ∀ a0 a1 a2 a3 a4, Statement (.ftoi64 a0 a1 a2 a3 a4) := fun _ _ _ _ _ => of_none rfl
theorem ftou64 : ∀ a0 a1 a2 a3 a4, Statement (.ftou64 a0 a1 a2 a3 a4) := fun _ _ _ _ _ => of_none rfl
theorem ftoi32 : ∀ a0 a1 a2 a3 a4, Statement (.ftoi32 a0 a1 a2 a3 a4) := fun _ _ _ _ _ => of_none rfl
theorem ftou32 : ∀ a0 a1 a2 a3 a4, Statement (.ftou32 a0 a1 a2 a3 a4) := fun _ _ _ _ _ => of_none rfl
theorem i64tof : ∀ a0 a1 a2 a3 a4, Statement (.i64tof a0 a1 a2 a3 a4) := fun _ _ _ _ _ => of_none rfl
theorem u64tof : ∀ a0 a1 a2 a3 a4, Statement (.u64tof a0 a1 a2 a3 a4) := fun _ _ _ _ _ => of_none rfl
theorem i32tof : ∀ a0 a1 a2 a3 a4, Statement (.i32tof a0 a1 a2 a3 a4) := fun _ _ _ _ _ => of_none rfl
theorem u32tof : ∀ a0 a1 a2 a3 a4, Statement (.u32tof a0 a1 a2 a3 a4) := fun _ _ _ _ _ => of_none rfl
theorem fbits : ∀ a0 a1 a2 a3, Statement (.fbits a0 a1 a2 a3) := fun _ _ _ _ => of_none rfl
theorem gbits : ∀ a0 a1 a2 a3, Statement (.gbits a0 a1 a2 a3) := fun _ _ _ _ => of_none rfl
theorem frint : ∀ a0 a1 a2 a3 a4, Statement (.frint a0 a1 a2 a3 a4) := fun _ _ _ _ _ => of_none rfl
theorem frintx : ∀ a0 a1 a2 a3 a4, Statement (.frintx a0 a1 a2 a3 a4) := fun _ _ _ _ _ => of_none rfl
theorem atomicSwap : ∀ a0 a1 a2 a3 a4 a5, Statement (.atomicSwap a0 a1 a2 a3 a4 a5) := fun _ _ _ _ _ _ => of_none rfl
theorem atomicAdd : ∀ a0 a1 a2 a3 a4 a5, Statement (.atomicAdd a0 a1 a2 a3 a4 a5) := fun _ _ _ _ _ _ => of_none rfl
theorem atomicAnd : ∀ a0 a1 a2 a3 a4 a5, Statement (.atomicAnd a0 a1 a2 a3 a4 a5) := fun _ _ _ _ _ _ => of_none rfl
theorem atomicOr : ∀ a0 a1 a2 a3 a4 a5, Statement (.atomicOr a0 a1 a2 a3 a4 a5) := fun _ _ _ _ _ _ => of_none rfl
theorem atomicXor : ∀ a0 a1 a2 a3 a4 a5, Statement (.atomicXor a0 a1 a2 a3 a4 a5) := fun _ _ _ _ _ _ => of_none rfl
theorem atomicMin : ∀ a0 a1 a2 a3 a4 a5 a6, Statement (.atomicMin a0 a1 a2 a3 a4 a5 a6) := fun _ _ _ _ _ _ _ => of_none rfl
theorem atomicMax : ∀ a0 a1 a2 a3 a4 a5 a6, Statement (.atomicMax a0 a1 a2 a3 a4 a5 a6) := fun _ _ _ _ _ _ _ => of_none rfl
theorem atomicSadd : ∀ a0 a1 a2 a3 a4 a5 a6, Statement (.atomicSadd a0 a1 a2 a3 a4 a5 a6) := fun _ _ _ _ _ _ _ => of_none rfl
theorem cas : ∀ a0 a1 a2 a3 a4 a5, Statement (.cas a0 a1 a2 a3 a4 a5) := fun _ _ _ _ _ _ => of_none rfl
theorem barLl : ∀ a0, Statement (.barLl a0) := fun _ => of_none rfl
theorem barSs : ∀ a0, Statement (.barSs a0) := fun _ => of_none rfl
theorem barFull : ∀ a0, Statement (.barFull a0) := fun _ => of_none rfl
theorem barDev : ∀ a0, Statement (.barDev a0) := fun _ => of_none rfl
theorem aese : ∀ a0 a1 a2 a3, Statement (.aese a0 a1 a2 a3) := fun _ _ _ _ => of_none rfl
theorem aesel : ∀ a0 a1 a2 a3, Statement (.aesel a0 a1 a2 a3) := fun _ _ _ _ => of_none rfl
theorem aesd : ∀ a0 a1 a2 a3, Statement (.aesd a0 a1 a2 a3) := fun _ _ _ _ => of_none rfl
theorem aesdl : ∀ a0 a1 a2 a3, Statement (.aesdl a0 a1 a2 a3) := fun _ _ _ _ => of_none rfl
theorem aesimc : ∀ a0 a1 a2, Statement (.aesimc a0 a1 a2) := fun _ _ _ => of_none rfl
theorem sha256r : ∀ a0 a1 a2 a3, Statement (.sha256r a0 a1 a2 a3) := fun _ _ _ _ => of_none rfl
theorem sha256m : ∀ a0 a1 a2 a3, Statement (.sha256m a0 a1 a2 a3) := fun _ _ _ _ => of_none rfl
theorem sha512r : ∀ a0 a1 a2 a3, Statement (.sha512r a0 a1 a2 a3) := fun _ _ _ _ => of_none rfl
theorem sha512m : ∀ a0 a1 a2, Statement (.sha512m a0 a1 a2) := fun _ _ _ => of_none rfl
theorem crc32c : ∀ a0 a1 a2 a3 a4, Statement (.crc32c a0 a1 a2 a3 a4) := fun _ _ _ _ _ => of_none rfl
theorem mfs : ∀ a0 a1 a2, Statement (.mfs a0 a1 a2) := fun _ _ _ => of_none rfl
theorem mts : ∀ a0 a1 a2, Statement (.mts a0 a1 a2) := fun _ _ _ => of_none rfl
theorem tlbiVa : ∀ a0 a1 a2 a3, Statement (.tlbiVa a0 a1 a2 a3) := fun _ _ _ _ => of_none rfl
theorem tlbiAsid : ∀ a0 a1 a2 a3, Statement (.tlbiAsid a0 a1 a2 a3) := fun _ _ _ _ => of_none rfl
theorem tlbiAll : ∀ a0 a1 a2 a3, Statement (.tlbiAll a0 a1 a2 a3) := fun _ _ _ _ => of_none rfl
theorem slbi : ∀ a0 a1 a2 a3, Statement (.slbi a0 a1 a2 a3) := fun _ _ _ _ => of_none rfl
theorem dcz : ∀ a0 a1, Statement (.dcz a0 a1) := fun _ _ => of_none rfl
theorem dcc : ∀ a0 a1, Statement (.dcc a0 a1) := fun _ _ => of_none rfl
theorem dcci : ∀ a0 a1, Statement (.dcci a0 a1) := fun _ _ => of_none rfl
theorem sys : ∀ a0 a1, Statement (.sys a0 a1) := fun _ _ => of_none rfl
theorem brk : ∀ a0 a1, Statement (.brk a0 a1) := fun _ _ => of_none rfl
theorem wcall : ∀ a0, Statement (.wcall a0) := fun _ => of_none rfl
theorem wret : ∀ a0, Statement (.wret a0) := fun _ => of_none rfl
theorem eret : ∀ a0, Statement (.eret a0) := fun _ => of_none rfl
theorem waiti : ∀ a0, Statement (.waiti a0) := fun _ => of_none rfl
theorem waitiResume : ∀ a0, Statement (.waitiResume a0) := fun _ => of_none rfl
theorem stlbw : ∀ a0 a1 a2 a3, Statement (.stlbw a0 a1 a2 a3) := fun _ _ _ _ => of_none rfl
theorem stlbr : ∀ a0 a1 a2 a3, Statement (.stlbr a0 a1 a2 a3) := fun _ _ _ _ => of_none rfl
theorem stlbi : ∀ a0 a1 a2, Statement (.stlbi a0 a1 a2) := fun _ _ _ => of_none rfl
theorem unassignedMajor : ∀ a0 a1, Statement (.unassignedMajor a0 a1) := fun _ _ => of_none rfl
theorem interruptTake : ∀ a0, Statement (.interruptTake a0) := fun _ => of_none rfl
theorem inboxClaim : ∀ a0 a1, Statement (.inboxClaim a0 a1) := fun _ _ => of_none rfl
theorem inboxEoi : ∀ a0 a1, Statement (.inboxEoi a0 a1) := fun _ _ => of_none rfl
theorem inboxSend : ∀ a0 a1, Statement (.inboxSend a0 a1) := fun _ _ => of_none rfl
theorem timerExpire : ∀ a0, Statement (.timerExpire a0) := fun _ => of_none rfl
theorem sTimerExpire : ∀ a0, Statement (.sTimerExpire a0) := fun _ => of_none rfl
theorem swdog : ∀ a0 a1, Statement (.swdog a0 a1) := fun _ _ => of_none rfl
theorem swdogExpire : ∀ a0, Statement (.swdogExpire a0) := fun _ => of_none rfl
theorem swdogPackageReset : ∀ a0, Statement (.swdogPackageReset a0) := fun _ => of_none rfl
theorem ndogCtlWrite : ∀ a0 a1, Statement (.ndogCtlWrite a0 a1) := fun _ _ => of_none rfl
theorem ndogSvc : ∀ a0 a1, Statement (.ndogSvc a0 a1) := fun _ _ => of_none rfl
theorem ndogWarn : ∀ a0, Statement (.ndogWarn a0) := fun _ => of_none rfl
theorem ndogExpire : ∀ a0, Statement (.ndogExpire a0) := fun _ => of_none rfl
theorem refclk25Loss : Statement .refclk25Loss := of_none rfl
theorem refclk100Loss : Statement .refclk100Loss := of_none rfl
theorem mmuSegtbWrite : ∀ a0 a1, Statement (.mmuSegtbWrite a0 a1) := fun _ _ => of_none rfl
theorem inboundDmaRequest : ∀ a0 a1, Statement (.inboundDmaRequest a0 a1) := fun _ _ => of_none rfl
theorem iotuInvStream : ∀ a0 a1 a2, Statement (.iotuInvStream a0 a1 a2) := fun _ _ _ => of_none rfl
theorem iotuInvAsid : ∀ a0 a1 a2, Statement (.iotuInvAsid a0 a1 a2) := fun _ _ _ => of_none rfl
theorem iotuInvVa : ∀ a0 a1, Statement (.iotuInvVa a0 a1) := fun _ _ => of_none rfl
theorem iotuInvAll : ∀ a0 a1, Statement (.iotuInvAll a0 a1) := fun _ _ => of_none rfl
theorem iotuInvDone : ∀ a0, Statement (.iotuInvDone a0) := fun _ => of_none rfl
theorem deviceTimeout : ∀ a0 a1, Statement (.deviceTimeout a0 a1) := fun _ _ => of_none rfl
theorem gets : ∀ a0 line, Statement (.gets a0 line) := fun _ _ => of_line rfl fun h => h
theorem getm : ∀ a0 line, Statement (.getm a0 line) := fun _ _ => of_line rfl fun h => h
theorem wfull : ∀ a0 line a2, Statement (.wfull a0 line a2) := fun _ _ _ => of_line rfl fun h => (Bool.and_eq_true _ _ ▸ h).1
theorem puts : ∀ a0 line, Statement (.puts a0 line) := fun _ _ => of_line rfl fun h => h
theorem putm : ∀ a0 line, Statement (.putm a0 line) := fun _ line => of_line (line := line.line) rfl fun h => h
theorem rdnc : ∀ a0 line, Statement (.rdnc a0 line) := fun _ _ => of_line rfl fun h => h
theorem wrnc : ∀ a0 line a2 a3, Statement (.wrnc a0 line a2 a3) := fun _ _ _ _ => of_line rfl fun h => (Bool.and_eq_true _ _ ▸ h).1
theorem rddev : ∀ a0 a1, Statement (.rddev a0 a1) := fun _ _ => of_none rfl
theorem wrdev : ∀ a0 a1, Statement (.wrdev a0 a1) := fun _ _ => of_none rfl
theorem atom : ∀ a0 line a2, Statement (.atom a0 line a2) := fun _ _ _ => of_line rfl fun h => (Bool.and_eq_true _ _ ▸ h).1
theorem msgDeliver : ∀ a0, Statement (.msgDeliver a0) := fun _ => of_none rfl
theorem dataMsg : ∀ a0 line, Statement (.dataMsg a0 line) := fun _ _ => of_line rfl fun h => h
theorem grantMsg : ∀ a0 line, Statement (.grantMsg a0 line) := fun _ _ => of_line rfl fun h => h
theorem doneMsg : ∀ a0 line, Statement (.doneMsg a0 line) := fun _ _ => of_line rfl fun h => h
theorem ackMsg : ∀ a0 line, Statement (.ackMsg a0 line) := fun _ _ => of_line rfl fun h => h
theorem cmpl : ∀ a0 a1 a2, Statement (.cmpl a0 a1 a2) := fun _ _ _ => of_none rfl
theorem rdata : ∀ a0 line, Statement (.rdata a0 line) := fun _ line => of_line (line := line.line) rfl fun h => h
theorem already : ∀ a0 line, Statement (.already a0 line) := fun _ _ => of_line rfl fun h => h
theorem invMsg : ∀ a0 line, Statement (.invMsg a0 line) := fun _ _ => of_line rfl fun h => h
theorem recallS : ∀ a0 line, Statement (.recallS a0 line) := fun _ _ => of_line rfl fun h => h
theorem recallI : ∀ a0 line, Statement (.recallI a0 line) := fun _ _ => of_line rfl fun h => h
theorem recallD : ∀ a0 line, Statement (.recallD a0 line) := fun _ _ => of_line rfl fun h => h
theorem creditPacket : ∀ a0 a1, Statement (.creditPacket a0 a1) := fun _ _ => of_none rfl
theorem distaffWindowAccess : ∀ a0 a1 a2, Statement (.distaffWindowAccess a0 a1 a2) := fun _ _ _ => of_none rfl
theorem dirRebuildDone : ∀ line, Statement (.dirRebuildDone line) := fun _ => of_line rfl fun h => h
theorem l3WayDown : ∀ a0 a1 a2, Statement (.l3WayDown a0 a1 a2) := fun _ _ _ => of_none rfl
theorem l3WayUp : ∀ a0 a1 a2, Statement (.l3WayUp a0 a1 a2) := fun _ _ _ => of_none rfl
theorem hcWayDown : ∀ a0 a1, Statement (.hcWayDown a0 a1) := fun _ _ => of_none rfl
theorem hcWayUp : ∀ a0 a1, Statement (.hcWayUp a0 a1) := fun _ _ => of_none rfl
theorem wayCleanDone : ∀ a0, Statement (.wayCleanDone a0) := fun _ => of_none rfl
theorem deadAgentDeclare : ∀ a0, Statement (.deadAgentDeclare a0) := fun _ => of_none rfl
theorem reclaimSweepDone : Statement .reclaimSweepDone := of_none rfl
theorem portIsolate : ∀ a0, Statement (.portIsolate a0) := fun _ => of_none rfl
theorem fenceAck : ∀ a0, Statement (.fenceAck a0) := fun _ => of_none rfl
theorem fenceLimitExpire : ∀ a0, Statement (.fenceLimitExpire a0) := fun _ => of_none rfl
theorem fenceHoldExpire : ∀ a0, Statement (.fenceHoldExpire a0) := fun _ => of_none rfl
theorem domainPowerRemove : ∀ a0, Statement (.domainPowerRemove a0) := fun _ => of_none rfl
theorem keepArraySaveDone : ∀ a0, Statement (.keepArraySaveDone a0) := fun _ => of_none rfl
theorem wakeReady : ∀ a0 a1, Statement (.wakeReady a0 a1) := fun _ _ => of_none rfl
theorem flitCorrected : ∀ a0 a1 a2 a3, Statement (.flitCorrected a0 a1 a2 a3) := fun _ _ _ _ => of_none rfl
theorem laneRepair : ∀ a0 a1 a2, Statement (.laneRepair a0 a1 a2) := fun _ _ _ => of_none rfl
theorem flitUncorrectable : ∀ a0, Statement (.flitUncorrectable a0) := fun _ => of_none rfl
theorem discover : ∀ a0 a1 a2, Statement (.discover a0 a1 a2) := fun _ _ _ => of_none rfl
theorem guestDiscoverTimeout : ∀ a0, Statement (.guestDiscoverTimeout a0) := fun _ => of_none rfl
theorem guestAdmit : ∀ a0 a1 a2, Statement (.guestAdmit a0 a1 a2) := fun _ _ _ => of_none rfl
theorem gstRetrain : ∀ a0 a1 a2, Statement (.gstRetrain a0 a1 a2) := fun _ _ _ => of_none rfl
theorem gstDisable : ∀ a0 a1 a2, Statement (.gstDisable a0 a1 a2) := fun _ _ _ => of_none rfl
theorem guestLinkFail : ∀ a0, Statement (.guestLinkFail a0) := fun _ => of_none rfl
theorem scrubRead : ∀ a0 a1, Statement (.scrubRead a0 a1) := fun _ _ => of_none rfl
theorem spprRepair : ∀ a0 a1, Statement (.spprRepair a0 a1) := fun _ _ => of_none rfl
theorem refreshRank : ∀ a0 a1 a2, Statement (.refreshRank a0 a1 a2) := fun _ _ _ => of_none rfl
theorem neighbourRefresh : ∀ a0 a1, Statement (.neighbourRefresh a0 a1) := fun _ _ => of_none rfl
theorem driftCheck : ∀ a0 a1, Statement (.driftCheck a0 a1) := fun _ _ => of_none rfl
theorem mcApply : ∀ a0 a1, Statement (.mcApply a0 a1) := fun _ _ => of_none rfl
theorem mcCheck : ∀ a0 a1, Statement (.mcCheck a0 a1) := fun _ _ => of_none rfl
theorem applyWindow : ∀ a0 a1, Statement (.applyWindow a0 a1) := fun _ _ => of_none rfl
theorem lpExitFillDone : ∀ a0, Statement (.lpExitFillDone a0) := fun _ => of_none rfl
theorem pcieLinkUp : ∀ a0 a1 a2, Statement (.pcieLinkUp a0 a1 a2) := fun _ _ _ => of_none rfl
theorem pcieLinkDown : ∀ a0, Statement (.pcieLinkDown a0) := fun _ => of_none rfl
theorem rearm : ∀ a0 a1, Statement (.rearm a0 a1) := fun _ _ => of_none rfl
theorem pceRetrain : ∀ a0 a1, Statement (.pceRetrain a0 a1) := fun _ _ => of_none rfl
theorem vfEnableSet : ∀ a0 a1, Statement (.vfEnableSet a0 a1) := fun _ _ => of_none rfl
theorem vfEnableClear : ∀ a0, Statement (.vfEnableClear a0) := fun _ => of_none rfl
theorem vfmCreate : ∀ a0, Statement (.vfmCreate a0) := fun _ => of_none rfl
theorem vfmDestroy : ∀ a0, Statement (.vfmDestroy a0) := fun _ => of_none rfl
theorem vfmQuery : ∀ a0, Statement (.vfmQuery a0) := fun _ => of_none rfl
theorem msixUnmask : ∀ a0 a1 a2, Statement (.msixUnmask a0 a1 a2) := fun _ _ _ => of_none rfl
theorem busMasterEnableClear : ∀ a0 a1, Statement (.busMasterEnableClear a0 a1) := fun _ _ => of_none rfl
theorem busMasterEnableSet : ∀ a0 a1, Statement (.busMasterEnableSet a0 a1) := fun _ _ => of_none rfl
theorem powerstateD3hot : ∀ a0, Statement (.powerstateD3hot a0) := fun _ => of_none rfl
theorem powerstateD0 : ∀ a0, Statement (.powerstateD0 a0) := fun _ => of_none rfl
theorem pmeWake : ∀ a0, Statement (.pmeWake a0) := fun _ => of_none rfl
theorem pePerstNAssert : ∀ a0, Statement (.pePerstNAssert a0) := fun _ => of_none rfl
theorem pePerstNDeassert : ∀ a0, Statement (.pePerstNDeassert a0) := fun _ => of_none rfl
theorem hotReset : ∀ a0, Statement (.hotReset a0) := fun _ => of_none rfl
theorem initiateFunctionLevelReset : ∀ a0 a1, Statement (.initiateFunctionLevelReset a0 a1) := fun _ _ => of_none rfl
theorem flrComplete : ∀ a0 a1, Statement (.flrComplete a0 a1) := fun _ _ => of_none rfl
theorem fnMbxSend : ∀ a0 a1, Statement (.fnMbxSend a0 a1) := fun _ _ => of_none rfl
theorem fnMbxAck : ∀ a0 a1, Statement (.fnMbxAck a0 a1) := fun _ _ => of_none rfl
theorem vfmMbxSend : ∀ a0, Statement (.vfmMbxSend a0) := fun _ => of_none rfl
theorem vfmMbxAck : ∀ a0, Statement (.vfmMbxAck a0) := fun _ => of_none rfl
theorem deviceMailboxAnswer : ∀ a0 a1, Statement (.deviceMailboxAnswer a0 a1) := fun _ _ => of_none rfl
theorem dlogSwap : ∀ a0 a1, Statement (.dlogSwap a0 a1) := fun _ _ => of_none rfl
theorem dlogSwapDone : ∀ a0 a1, Statement (.dlogSwapDone a0 a1) := fun _ _ => of_none rfl
theorem hankPortUp : ∀ a0, Statement (.hankPortUp a0) := fun _ => of_none rfl
theorem hankPortDown : ∀ a0, Statement (.hankPortDown a0) := fun _ => of_none rfl
theorem helloSend : ∀ a0, Statement (.helloSend a0) := fun _ => of_none rfl
theorem hello : ∀ a0 a1, Statement (.hello a0 a1) := fun _ _ => of_none rfl
theorem peerReachLapse : ∀ a0 a1, Statement (.peerReachLapse a0 a1) := fun _ _ => of_none rfl
theorem peerConflictClear : ∀ a0, Statement (.peerConflictClear a0) := fun _ => of_none rfl
theorem hankFrameReceive : ∀ a0 a1, Statement (.hankFrameReceive a0 a1) := fun _ _ => of_none rfl
theorem hankItem : ∀ a0 a1 a2, Statement (.hankItem a0 a1 a2) := fun _ _ _ => of_none rfl
theorem hankCreq : ∀ a0 a1 a2, Statement (.hankCreq a0 a1 a2) := fun _ _ _ => of_none rfl
theorem hankCrel : ∀ a0 a1 a2, Statement (.hankCrel a0 a1 a2) := fun _ _ _ => of_none rfl
theorem hankGrant : ∀ a0 a1 a2, Statement (.hankGrant a0 a1 a2) := fun _ _ _ => of_none rfl
theorem hankRefuse : ∀ a0 a1 a2, Statement (.hankRefuse a0 a1 a2) := fun _ _ _ => of_none rfl
theorem hankRevoke : ∀ a0 a1 a2, Statement (.hankRevoke a0 a1 a2) := fun _ _ _ => of_none rfl
theorem hankItemAccept : ∀ a0, Statement (.hankItemAccept a0) := fun _ => of_none rfl
theorem creditWaitExpire : ∀ a0, Statement (.creditWaitExpire a0) := fun _ => of_none rfl
theorem hankFrameSend : ∀ a0 a1 a2, Statement (.hankFrameSend a0 a1 a2) := fun _ _ _ => of_none rfl
theorem hankRtoExpire : ∀ a0 a1 a2, Statement (.hankRtoExpire a0 a1 a2) := fun _ _ _ => of_none rfl
theorem streamEnd : ∀ a0 a1 a2, Statement (.streamEnd a0 a1 a2) := fun _ _ _ => of_none rfl
theorem hnkRetrain : ∀ a0 a1, Statement (.hnkRetrain a0 a1) := fun _ _ => of_none rfl
theorem hankPortRetire : ∀ a0, Statement (.hankPortRetire a0) := fun _ => of_none rfl
theorem hankSpareSubstitute : ∀ a0, Statement (.hankSpareSubstitute a0) := fun _ => of_none rfl
theorem coreErrorDetect : ∀ a0 a1, Statement (.coreErrorDetect a0 a1) := fun _ _ => of_none rfl
theorem arrayEccError : ∀ a0, Statement (.arrayEccError a0) := fun _ => of_none rfl
theorem bundleRetire : ∀ a0, Statement (.bundleRetire a0) := fun _ => of_none rfl
theorem reelStart : ∀ a0, Statement (.reelStart a0) := fun _ => of_none rfl
theorem reelDrainDone : ∀ a0, Statement (.reelDrainDone a0) := fun _ => of_none rfl
theorem reelStateMove : ∀ a0 a1, Statement (.reelStateMove a0 a1) := fun _ _ => of_none rfl
theorem reelResume : ∀ a0, Statement (.reelResume a0) := fun _ => of_none rfl
theorem reelStateWrite : Statement .reelStateWrite := of_none rfl
theorem wearMeasure : ∀ a0 a1 a2, Statement (.wearMeasure a0 a1 a2) := fun _ _ _ => of_none rfl
theorem emRead : ∀ a0, Statement (.emRead a0) := fun _ => of_none rfl
theorem safeEntry : ∀ a0, Statement (.safeEntry a0) := fun _ => of_none rfl
theorem imageHashCheck : ∀ a0, Statement (.imageHashCheck a0) := fun _ => of_none rfl
theorem lockstepMismatch : Statement .lockstepMismatch := of_none rfl
theorem rlQuery : ∀ a0, Statement (.rlQuery a0) := fun _ => of_none rfl
theorem rlReel : ∀ a0 a1, Statement (.rlReel a0 a1) := fun _ _ => of_none rfl
theorem rlRetire : ∀ a0 a1, Statement (.rlRetire a0 a1) := fun _ _ => of_none rfl
theorem rlSafe : ∀ a0, Statement (.rlSafe a0) := fun _ => of_none rfl
theorem pwrReqSpindle : ∀ a0 a1 a2, Statement (.pwrReqSpindle a0 a1 a2) := fun _ _ _ => of_none rfl
theorem pwrReqChannel : ∀ a0 a1 a2, Statement (.pwrReqChannel a0 a1 a2) := fun _ _ _ => of_none rfl
theorem pwrReqBundle : ∀ a0 a1 a2, Statement (.pwrReqBundle a0 a1 a2) := fun _ _ _ => of_none rfl
theorem pwrReqPackage : ∀ a0 a1, Statement (.pwrReqPackage a0 a1) := fun _ _ => of_none rfl
theorem powerEntryTimeout : ∀ a0, Statement (.powerEntryTimeout a0) := fun _ => of_none rfl
theorem wakeEvent : ∀ a0, Statement (.wakeEvent a0) := fun _ => of_none rfl
theorem thermalSample : ∀ a0 a1 a2, Statement (.thermalSample a0 a1 a2) := fun _ _ _ => of_none rfl
theorem powerStepUpdate : ∀ a0 a1, Statement (.powerStepUpdate a0 a1) := fun _ _ => of_none rfl
theorem tkwakeN : Statement .tkwakeN := of_none rfl
theorem pmbAlert : ∀ a0, Statement (.pmbAlert a0) := fun _ => of_none rfl
theorem guardStepRetry : ∀ a0 a1, Statement (.guardStepRetry a0 a1) := fun _ _ => of_none rfl
theorem captureEdge : ∀ a0, Statement (.captureEdge a0) := fun _ => of_none rfl
theorem pulseStart : ∀ a0, Statement (.pulseStart a0) := fun _ => of_none rfl
theorem pulseEnd : ∀ a0, Statement (.pulseEnd a0) := fun _ => of_none rfl
theorem trcCtlWrite : ∀ a0 a1, Statement (.trcCtlWrite a0 a1) := fun _ _ => of_none rfl
theorem irqDoorbell : ∀ a0 a1, Statement (.irqDoorbell a0 a1) := fun _ _ => of_none rfl
theorem irqRouteWrite : ∀ a0 a1 a2, Statement (.irqRouteWrite a0 a1 a2) := fun _ _ _ => of_none rfl
theorem pmuSkSnap : ∀ a0 a1, Statement (.pmuSkSnap a0 a1) := fun _ _ => of_none rfl
theorem statusCmd : ∀ a0, Statement (.statusCmd a0) := fun _ => of_none rfl
theorem timeCmd : ∀ a0, Statement (.timeCmd a0) := fun _ => of_none rfl
theorem identityCmd : ∀ a0, Statement (.identityCmd a0) := fun _ => of_none rfl
theorem authBegin : ∀ a0 a1 a2, Statement (.authBegin a0 a1 a2) := fun _ _ _ => of_none rfl
theorem authFinish : ∀ a0 a1, Statement (.authFinish a0 a1) := fun _ _ => of_none rfl
theorem logout : ∀ a0, Statement (.logout a0) := fun _ => of_none rfl
theorem sessionIdleTimeout : ∀ a0, Statement (.sessionIdleTimeout a0) := fun _ => of_none rfl
theorem credentialUnlock : ∀ a0, Statement (.credentialUnlock a0) := fun _ => of_none rfl
theorem xferOpen : ∀ a0 a1 a2, Statement (.xferOpen a0 a1 a2) := fun _ _ _ => of_none rfl
theorem xferData : ∀ a0 a1 a2 a3, Statement (.xferData a0 a1 a2 a3) := fun _ _ _ _ => of_none rfl
theorem enroll : ∀ a0 a1 a2 a3, Statement (.enroll a0 a1 a2 a3) := fun _ _ _ _ => of_none rfl
theorem revokeSlot : ∀ a0 a1 a2, Statement (.revokeSlot a0 a1 a2) := fun _ _ _ => of_none rfl
theorem logRead : ∀ a0 a1, Statement (.logRead a0 a1) := fun _ _ => of_none rfl
theorem floorCmd : ∀ a0, Statement (.floorCmd a0) := fun _ => of_none rfl
theorem pwrRequest : ∀ a0 a1 a2 a3, Statement (.pwrRequest a0 a1 a2 a3) := fun _ _ _ _ => of_none rfl
theorem resetCmd : ∀ a0 a1 a2, Statement (.resetCmd a0 a1 a2) := fun _ _ _ => of_none rfl
theorem fwStage : ∀ a0 a1 a2 a3, Statement (.fwStage a0 a1 a2 a3) := fun _ _ _ _ => of_none rfl
theorem dbgHalt : ∀ a0 a1, Statement (.dbgHalt a0 a1) := fun _ _ => of_none rfl
theorem dbgStep : ∀ a0 a1, Statement (.dbgStep a0 a1) := fun _ _ => of_none rfl
theorem dbgResume : ∀ a0 a1, Statement (.dbgResume a0 a1) := fun _ _ => of_none rfl
theorem dbgReg : ∀ a0 a1 a2 a3 a4, Statement (.dbgReg a0 a1 a2 a3 a4) := fun _ _ _ _ _ => of_none rfl
theorem dbgMem : ∀ a0 a1 a2 a3 a4, Statement (.dbgMem a0 a1 a2 a3 a4) := fun _ _ _ _ _ => of_none rfl
theorem dbgSample : ∀ a0 a1, Statement (.dbgSample a0 a1) := fun _ _ => of_none rfl
theorem baudSet : ∀ a0 a1, Statement (.baudSet a0 a1) := fun _ _ => of_none rfl
theorem almanacBreak : Statement .almanacBreak := of_none rfl
theorem baudRevert : Statement .baudRevert := of_none rfl
theorem entdaa : ∀ a0, Statement (.entdaa a0) := fun _ => of_none rfl
theorem dstMbxDoorbell : ∀ a0 a1 a2, Statement (.dstMbxDoorbell a0 a1 a2) := fun _ _ _ => of_none rfl
theorem auditFlush : Statement .auditFlush := of_none rfl
theorem shedMeasure : ∀ a0, Statement (.shedMeasure a0) := fun _ => of_none rfl
theorem hubUnitError : ∀ a0, Statement (.hubUnitError a0) := fun _ => of_none rfl
theorem refclk25Restore : Statement .refclk25Restore := of_none rfl
theorem vaonLoss : Statement .vaonLoss := of_none rfl
theorem peerDownHoldExpire : ∀ a0, Statement (.peerDownHoldExpire a0) := fun _ => of_none rfl
theorem spdTemperatureSample : ∀ a0 a1 a2, Statement (.spdTemperatureSample a0 a1 a2) := fun _ _ _ => of_none rfl
theorem tracePacketSend : Statement .tracePacketSend := of_none rfl
theorem rootErrorStatusSet : ∀ a0, Statement (.rootErrorStatusSet a0) := fun _ => of_none rfl
theorem sleepEntryDone : ∀ a0, Statement (.sleepEntryDone a0) := fun _ => of_none rfl
theorem sleepExitDone : ∀ a0, Statement (.sleepExitDone a0) := fun _ => of_none rfl
theorem localFaultEnd : ∀ a0, Statement (.localFaultEnd a0) := fun _ => of_none rfl

end Laws.Lines

end Sys2Proof
end

