-- ==== Sys2Proof/Tests/Slice0.lean ====
section
/-! SUPPORT. The model's own tests: for every obligation with hypotheses a concrete state and operands that meet them
(`wit_…`, its docstring names the obligation), one ill-formed term for each check of WellFormed (`smoke_…`), and a few
steps whose expected values stand in the spec (`test_…`). -/
namespace Sys2Proof.Tests
open Sys2Proof.Machine
set_option linter.unusedVariables false
set_option Elab.async false

/-- A skein of the tests: LCNs 0 and 1, 4 GiB of memory, queues 0 to 255 in queue memory at 4 GiB, root port bundle 0, all of it in
the first channel. -/
def skein0 : SkeinCfg where
  skein := 0
  secure := true
  ndog := true
  ranges := 1
  lcnMask := 3
  mem := [(0, 4)]
  l3Ways := []
  hcWays := 0
  hcQways := 0
  ddrOwn := 1
  ddrPool := 0
  qFirst := 0
  qCount := 256
  qmemBase := 0x100000000
  qmemLen := 0x10000000
  msix := 0
  bundles := 3
  hankPorts := 1
  vfCount := [0, 4, 0, 0, 0, 0, 0, 0]
  tune := ⟨0, 0, 0, 0, 0, 0, 0, 0⟩

/-- An image of the tests with that skein; bundle 0 a root port, bundle 1 an endpoint. -/
def image0 : Image where
  partId := 0
  fmtVer := 0
  imgVer := 1
  flags := 0
  minFw := 0
  sites := []
  spareFlags := 0
  spareNotify := 0
  sparePriority := []
  coreMap := []
  bundleMode := [1, 2]
  skeins := [skein0]
  pins := []
  power := []
  secMark := 0
  swdogMs := 10
  dbgBytes := []
  secBlk := []
  roles := []
  sysnum := 0
  ethertype := 0
  macBase := 0
  hankPorts := []

/-- A core of the tests, in service at K, its PC at the landing area, Ply and FP on. -/
def core0 : Core :=
  { Core.reset with
    released := true
    pc := 0xE000000000000#64
    pctlEn := true
    kb := { Bank.reset with fpen := true }
    g := [(1, 0x1000#64), (2, 0x2000#64), (3, 7#64)] }

/-- A device of the tests: LCN 0 in RUN with that core, 8 GiB of DRAM in channel 0. -/
def dev0 (k : Core) : Dev :=
  { Dev.reset with
    cores := [(0, k)]
    dom := [(0, ⟨.run, false, .run, 0, false, none⟩)]
    regs := [(Reg.MC_MAP_RANGE 0, 0x80070000#32), (Reg.MC_MAP_SET 0, 1#32)]
    mem := { Mem.reset with capGiB := 8 }
    spindleOf := [(0, some 0)]
    img := { ImgState.reset with img := some image0, unit := .committed } }

/-- A state of the tests: that device, changed by `f`, no command waiting. -/
def st (k : Core) (f : Dev → Dev) : State := ⟨f (dev0 k), []⟩

/-- A result that succeeds, with what it must satisfy. -/
def okAnd {ε α : Type} (r : Dev × Except ε α) (p : Dev → α → Bool) : Bool :=
  match r with
  | (d, .ok x) => p d x
  | _ => false

/-- A core that retires the instruction given to it. -/
def isReady (s : State) (l : Fin 384) : Bool :=
  s.dev.canRun l.val && decide ((s.dev.fetch l.val).2 = .ok none) && (s.fetched l).quiet l.val

theorem ready_of_isReady {s : State} {l : Fin 384} (h : isReady s l = true) : s.ready l := by
  simp only [isReady, Bool.and_eq_true, decide_eq_true_eq] at h
  exact ⟨h.1.1, h.1.2, h.2⟩

/-- A ready core that runs at another level. -/
def at0 (f : Core → Core) : State := st (f core0) id

/-- Every statement about instructions of a ready core: such a core, at K and at SK. -/
theorem wit_ready_1 : isReady (at0 id) 0 := by decide +kernel
/-- As wit_ready_1. -/
theorem wit_ready_2 : isReady (at0 fun k => { k with level := .sk }) 0 := by decide +kernel

/-- MultiplyDivideAndImmediates: the greatest legal shift of a W form, and the greatest legal field. -/
theorem wit_immediates_1 : ¬(true = true ∧ 32 ≤ (31#6).toNat) := by decide +kernel
/-- As wit_immediates_1. -/
theorem wit_immediates_2 : (63#6).toNat + ((0#6).toNat + 1) ≤ 64 := by decide +kernel

/-- LoadsComplete: a load from memory, one that the store buffer forwards, one from the landing area, one from a DEVICE page, and an FP load. -/
theorem wit_loads_1 : okAnd (((at0 id).fetched 0).scalarCheck 0 0x1000#64 8 .load) (fun d x => decide (d.target 0 (d.core 0).level.secure x.pa 8 x.mt = .mem ∧
    (d.core 0).barred = false ∧ sbOverlap ((List.range 8).map fun i => x.pa + i) (d.core 0).sb = none ∧ x.mt ≠ .nc ∧ (d.coreReach 0 (x.pa / 64) false).2 = .ok ∧
    (d.coreReach 0 (x.pa / 64) false).1.poisoned (x.pa / 64) = false ∧ (d.coreReach 0 (x.pa / 64) false).1.coh.txn = [])) := by decide +kernel
/-- As wit_loads_1. -/
theorem wit_loads_2 : isReady (at0 fun k => { k with sb := [.store (cellsAt 0x1000 (leBytes 8 5)) .wb .k 64] }) 0 := by decide +kernel
/-- As wit_loads_1. -/
theorem wit_loads_3 : okAnd (((at0 fun k => { k with sb := [.store (cellsAt 0x1000 (leBytes 8 5)) .wb .k 64] }).fetched 0).scalarCheck 0 0x1000#64 8 .load) (fun d x => decide (d.target 0 false x.pa 8 x.mt = .mem ∧ (d.core 0).barred = false ∧ sbOverlap ((List.range 8).map fun i => x.pa + i) (d.core 0).sb = some true)) := by decide +kernel
/-- As wit_loads_1. -/
theorem wit_loads_4 : okAnd (((at0 id).fetched 0).scalarCheck 0 0xE000000000008#64 8 .load) (fun d x => decide (d.target 0 false x.pa 8 x.mt = .landing 8 ∧
    (d.core 0).sb = [])) := by decide +kernel
/-- As wit_loads_1. -/
theorem wit_loads_5 : okAnd (((at0 id).fetched 0).scalarCheck 0 0xF001009000000#64 4 .load) (fun d x => decide (d.target 0 false x.pa 4 x.mt = .device ∧
    (d.core 0).sb = [])) := by decide +kernel
/-- As wit_loads_1. -/
theorem wit_loads_6 : ¬(true = true ∧ 2#2 = 3#2) ∧ 2 ≤ (2#2).toNat ∧ (core0.bank core0.level.secure).fpen = true := by decide +kernel

/-- StoresComplete: a store that passes its checks. -/
theorem wit_stores : okAnd (((at0 id).fetched 0).scalarCheck 0 0x1000#64 8 .store) (fun d x => decide ((d.core 0).barred = false ∧ sbStores (d.core 0).sb < 64 ∧
    x.mt ≠ .device ∧ x.ad = none)) := by decide +kernel

/-- LineOperationsComplete: a hint, a line to zero, a line to clean. -/
theorem wit_lines_1 : (3#5).toNat < 4 := by decide +kernel
/-- As wit_lines_1. -/
theorem wit_lines_2 : okAnd (((at0 id).fetched 0).translate 0 0x1000#64 .dcz false) (fun d _ => decide (d.wpHit 0 (lineAddrs 0x1000#64) false true = none ∧
    (d.core 0).barred = false ∧ sbStores (d.core 0).sb < 64)) := by decide +kernel
/-- As wit_lines_1. -/
theorem wit_lines_3 : okAnd (((at0 id).fetched 0).translate 0 0x1000#64 .dcc false) (fun d x => decide (d.target 0 (d.core 0).level.secure x.pa 1 x.mt = .mem ∧
    ((d.drain 0).core 0).sb = [] ∧ ((d.drain 0).ncReach 0 (x.pa / 64)).2 = .ok)) := by decide +kernel

/-- AtomicsComplete: an atomic on memory. -/
theorem wit_atomics : okAnd (((at0 id).fetched 0).scalarCheck 0 0x1000#64 8 .atomic) (fun d x => decide (d.target 0 (d.core 0).level.secure x.pa 8 x.mt = .mem ∧
    (d.drained 0).2 = true ∧ let r := (d.drained 0).1.coreReach 0 (x.pa / 64) true; r.2 = .ok ∧ r.1.poisoned (x.pa / 64) = false ∧ r.1.coh.txn = [])) := by decide +kernel

/-- BranchesComplete: an aligned target, and the last condition. -/
theorem wit_branches : (((at0 id).fetched 0).core 0).rg 1#5 + 4#64 = 0x1004#64 ∧ (0x1004#64).toNat % 4 = 0 ∧ (5#3).toNat < 6 := by decide +kernel

/-- RoundingFpComplete, ExactFpComplete, ComparisonsExclude: a static and the dynamic rounding mode with FP on, and a NaN. -/
theorem wit_fp_1 : core0.rmOf 5#3 = some 5 ∧ core0.rmOf 0#3 = some 1 ∧ (core0.bank core0.level.secure).fpen = true := by decide +kernel
/-- As wit_fp_1. -/
theorem wit_fp_2 : ((fmtOf true).unpack 0x7FF8000000000000).isNan := by decide +kernel

/-- ElementwiseResult: the last group of four registers, and a register outside it. -/
theorem wit_elementwise : 2#2 ≠ 3#2 ∧ 28 % grpSize 2#2 = 0 ∧ 28 < 32 ∧ 8 ∈ [1, 2, 4, 8] ∧ 27 < 32 ∧ 27 < 28 := by decide +kernel

/-- RoundedQuotient: the least divisor and the last mode. -/
theorem wit_rounded_quotient : 0 < 1 ∧ 6 ≤ 6 := by decide +kernel

/-- PlyArithmeticComplete and PlySelectionComplete: aligned groups, the greatest scale, every condition on a register number at its bounds. -/
theorem wit_ply_1 : core0.pctlEn = true ∧ grpOk (grpSize 2#2) [28#5, 0#5, 4#5] = true ∧ core0.pctlRm ≠ 7#3 ∧ (18#5).toNat ≤ 18 ∧ 2 ≤ (3#2).toNat := by decide +kernel
/-- As wit_ply_1. -/
theorem wit_ply_2 : 1 ≤ (7#5).toNat ∧ (7#5).toNat < 8 ∧ 1 ≤ (1#5).toNat ∧ (31#5).toNat < 32 / 2 ^ (0#2).toNat ∧ 2#2 ≠ 3#2 := by decide +kernel
/-- As wit_ply_1. -/
theorem wit_ply_3 : grpOk (2 * grpSize 1#2) [4#5] = true ∧ grpOk (grpSize 1#2) [2#5, 6#5] = true := by decide +kernel

/-- PlyConversionAndMemoryComplete: the digit counts at their bounds, a load and a store of 32 bytes of memory. -/
theorem wit_ply_memory_1 : ((2#2 == 2#2) && decide (1 ≤ (9#5).toNat ∧ (9#5).toNat ≤ 9)) && ((3#2 == 3#2) && decide (1 ≤ (19#5).toNat ∧
    (19#5).toNat ≤ 19)) := by decide +kernel
/-- As wit_ply_memory_1. -/
theorem wit_ply_memory_2 : 2 ≤ (2#5).toNat ∧ (2#5).toNat ≤ 19 := by decide +kernel
/-- As wit_ply_memory_1. -/
theorem wit_ply_memory_3 : okAnd (((at0 id).fetched 0).plyCheck 0 (0x1000#64 + (0#7).signExtend 64 * 32#64) .load (core0.activeBytes 0 1 1)) (fun d bs => decide (bs.length = 32 ∧ (∀ b ∈ bs, placeOf b.x.pa = .dram) ∧ (d.core 0).barred = false ∧ (d.beforeLoad 0 (bs.map fun b => b.x.pa)).2 = (false, false) ∧ ((d.beforeLoad 0 (bs.map fun b => b.x.pa)).1.plyStop 0 core0.level.secure bs).2 = none)) := by decide +kernel
/-- As wit_ply_memory_1. -/
theorem wit_ply_memory_4 : okAnd (((at0 id).fetched 0).plyCheck 0 0x1000#64 .store (core0.activeBytes 0 1 1)) (fun d bs => decide ((bs.map fun b => b.x.pa).Nodup ∧
    (∀ b ∈ bs, b.x.mt ≠ .device) ∧ (d.core 0).barred = false ∧
    sbStores (d.core 0).sb + (splitLines (bs.map fun b => (b.x.pa, BitVec.ofNat 8 (elem (core0.grp 0 1) 8 b.at_)))).length ≤ 64)) := by decide +kernel

/-- CryptoComplete: register groups of two and of four. -/
theorem wit_crypto : core0.pctlEn = true ∧ (30#5).toNat % 2 = 0 ∧ (28#5).toNat % 4 = 0 := by decide +kernel

/-- A device in which LCN 1 is in service too. -/
def pair0 (k : Core) : State :=
  st k fun d => { d with
    cores := [(0, k), (1, core0)]
    dom := [(0, ⟨.run, false, .run, 0, false, none⟩), (1, ⟨.run, false, .run, 0, false, none⟩)] }

/-- SystemRegistersComplete: a register, a counter, PMU_CTL, a claim, an end, a send to LCN 1, the normal watchdog and MMU_SEGTB at K, the secure watchdog at SK. -/
theorem wit_system_registers_1 : core0.srFault 0x481 true = none ∧ (0x481 : Nat) ≠ 0x210 ∧ core0.srFault 0x481 false = none ∧
    0x481 ∉ [0x213, 0x30, 0x31, 0x32, 0x300] ∧ srIsCounter 0x481 = false := by decide +kernel
/-- As wit_system_registers_1. -/
theorem wit_system_registers_2 : core0.srFault 0x300 false = none ∧ srIsCounter 0x335 = true ∧ core0.srFault 0x335 false = none ∧ core0.srFault 0x210 true = none ∧
    core0.srFault 0x211 false = none := by decide +kernel
/-- As wit_system_registers_1. -/
theorem wit_system_registers_3 : core0.srFault 0x31 false = none ∧ core0.srFault 0x32 false = none ∧ core0.srFault 0x101 false = none ∧
    ({ core0 with level := .sk }).srFault 0x30 false = none := by decide +kernel
/-- As wit_system_registers_1. -/
theorem wit_system_registers_4 : (at0 fun k => { k with pend := 1#256 <<< 0x20, en := 1#256 <<< 0x20 }).dev.claimable 0 = some 0x20 := by decide +kernel
/-- As wit_system_registers_1. -/
theorem wit_system_registers_5 : isReady (pair0 core0) 0 := by decide +kernel
/-- As wit_system_registers_1. -/
theorem wit_system_registers_6 : let d := (pair0 core0).fetched 0; let x := 0x200001#64; core0.srFault 0x213 false = none ∧ (d.drained 0).2 = true ∧
    field x 8 0 = 1 ∧ d.skeinOf 1 = d.skeinOf 0 ∧ field x 23 16 < 0xF0 ∧ bit x 24 = false ∧ mget false d.lost 1 = false ∧ (d.core 1).released = true ∧
    d.heldReset 1 = false ∧ mget false d.reeling 1 = false ∧ ((d.drained 0).1.port 1).st = .opened := by decide +kernel

/-- BarriersAndInvalidations: an empty store buffer at K, legal look-aside words at SK, and bar registers the level may write. -/
theorem wit_barriers_1 : core0.level.priv = true ∧ (((at0 id).fetched 0).drained 0).2 = true ∧
    ((((at0 id).fetched 0).drained 0).1.core 0).devStores = 0 := by decide +kernel
/-- As wit_barriers_1. -/
theorem wit_barriers_2 : stlbLegal 0x1001#64 0x2010#64 = true ∧ ({ core0 with level := .sk }).level = .sk := by decide +kernel
/-- As wit_barriers_1. -/
theorem wit_barriers_3 : pbarLegal 0#64 1#64 = true ∧ core0.pbarMay 0#64 1#64 = true := by decide +kernel
/-- As wit_barriers_1. -/
theorem wit_barriers_4 : ∃ c, (dev0 core0).cfgOf 0 = some c ∧ c.lcnMask.testBit 1 = true := by decide +kernel
/-- As wit_barriers_1. -/
theorem wit_barriers_5 : let d := (pair0 core0).fetched 0; isReady (pair0 core0) 0 = true ∧ d.invalAt 0 true = [0, 1] ∧
    (∀ j ∈ [0, 0, 1], (([0, 0, 1].foldl Dev.drain d).core j).settled = true) := by decide +kernel

/-- A core at U whose page of instructions its TLB holds, and one at SU whose page its look-aside holds. -/
def coreU : Core :=
  { core0 with level := .u, tctl := true, pc := 0x1000#64, sla := [(0, some (0x1F#64, 0xFF000#64))], itlb := [⟨none, 0x1000, 12, 0x10B5#64, 0⟩] }

/-- The core at SU. -/
def coreSu : Core := { core0 with level := .su, ste := true, pc := 0x1000#64, stlbF := [(0, (0x1001#64, 0x10D0#64))] }

/-- ExceptionsComplete and EretReturnsWithinItsWorld: K in a SECURE skein, SK, and the two levels without privilege. -/
theorem wit_exceptions_1 : core0.level = .k ∧ ((at0 id).fetched 0).secureSkein 0 = true ∧ core0.level.priv = true := by decide +kernel
/-- As wit_exceptions_1. -/
theorem wit_exceptions_2 : isReady (at0 fun _ => coreU) 0 ∧ isReady (at0 fun _ => coreSu) 0 := by decide +kernel
/-- As wit_exceptions_1. -/
theorem wit_exceptions_3 : ((((at0 fun _ => coreU).fetched 0).core 0).level.priv = false) ∧
    ((((at0 fun _ => coreSu).fetched 0).core 0).level.priv = false) := by decide +kernel
/-- As wit_exceptions_1. -/
theorem wit_exceptions_4 : decodeWord 0 0xFFFFFFFF#32 = none ∧ (decodeWord 0 0#32).isSome := by decide +kernel

/-- TimersAndWaiti: timers that are on, a ready core with no request and with one, and a gated core with a deliverable vector. -/
theorem wit_timers_waiti_1 : let d := (at0 fun k => { k with timerEn := true, sTimerEn := true }).dev; (d.core 0).timerEn = true ∧ (d.core 0).sTimerEn = true ∧
    d.secureSkein 0 = true := by decide +kernel
/-- As wit_timers_waiti_1. -/
theorem wit_timers_waiti_2 : let s := at0 id; mget none (s.fetched 0).pwr.selfReq 0 = none ∧ (s.dev.core 0).wait = .none := by decide +kernel
/-- As wit_timers_waiti_1. -/
theorem wit_timers_waiti_3 : isReady (st core0 fun d => { d with pwr := { d.pwr with selfReq := [(0, some .sleep)] } }) 0 := by decide +kernel
/-- As wit_timers_waiti_1. -/
theorem wit_timers_waiti_4 : let s := st core0 fun d => { d with pwr := { d.pwr with selfReq := [(0, some .sleep)] } };
    mget none (s.fetched 0).pwr.selfReq 0 = some .sleep ∧ ((s.fetched 0).domOf 0).st = .run ∧ ((s.fetched 0).domOf 0).transit = false := by decide +kernel
/-- As wit_timers_waiti_1. -/
theorem wit_timers_waiti_5 : let d := (at0 fun k => { k with wait := .waiti, kb := { k.kb with ie := true }, pend := 1#256 <<< 0x20, en := 1#256 <<< 0x20 }).dev;
    d.inService 0 = true ∧ (d.core 0).wait = .waiti ∧ (d.deliverable 0).isSome := by decide +kernel

/-- An endpoint function of the tests: the PF of bundle 1, with one channel enabled by the manager, memory space and bus mastering on. -/
def fnOn : Fn := { Fn.reset with bme := true, vst := .ready, nch := 8, nvec := 4, qfirst := 0, qcount := 16, slots := 64 }

/-- Channel 0 of the PF of bundle 1. -/
def ch0 : Nat := chanKey 1 0 0

/-- A device with that function, its channel's registers at `st`, the rings of 16 entries and slots of 256 bytes. -/
def dmaDev (state : Nat) (c : Chan) : State :=
  st core0 fun d => ({ d with
    fns := [(fnKey 1 0, { fnOn with chans := [(0, c)] })]
    bundles := [(1, { Bundle.reset with l0 := true, cfg := [(4, 6#32)] })] }.setBar (fnKey 1 0) 0x20 0x8444#32).setBarF (fnKey 1 0) 4 2 0 state

/-- Its latched rings. -/
def chan0 : Chan := { Chan.reset with rings := 0x8444#32, armed := true }

/-- ChannelCommandsComplete: the channel page open in each of the states that its commands ask for, and doorbells within their rings. -/
theorem wit_channel_commands_1 : (dmaDev 0 Chan.reset).dev.chOpen ch0 = true ∧ (dmaDev 0 Chan.reset).dev.chState ch0 = 0 ∧
    (dmaDev 0 Chan.reset).dev.enableFails ch0 = none ∧ bit ((dmaDev 0 Chan.reset).dev.chReg ch0 0) 7 = false := by decide +kernel
/-- As wit_channel_commands_1. -/
theorem wit_channel_commands_2 : (dmaDev 1 chan0).dev.chOpen ch0 = true ∧ (dmaDev 1 chan0).dev.chState ch0 = 1 ∧ 15 < ((dmaDev 1 chan0).dev.chan ch0).sqN ∧
    15 < ((dmaDev 1 chan0).dev.chan ch0).rxN ∧ 15 < ((dmaDev 1 chan0).dev.chan ch0).cqN := by decide +kernel
/-- As wit_channel_commands_1. -/
theorem wit_channel_commands_3 : (dmaDev 2 chan0).dev.chState ch0 = 2 ∧ ((dmaDev 2 chan0).dev.chan ch0).descs = [] := by decide +kernel
/-- As wit_channel_commands_1. -/
theorem wit_channel_commands_4 : let d := (dmaDev 3 chan0).dev; d.chState ch0 = 3 ∧ (d.chan ch0).recSq = none ∧ (d.chan ch0).recRx = none ∧
    (d.chan ch0).recCq = none ∧ (d.chan ch0).descs = [] ∧ (d.chan ch0).sqTail ≤ (d.chan ch0).sqFetch := by decide +kernel
/-- As wit_channel_commands_1. -/
theorem wit_channel_commands_5 : (dmaDev 4 chan0).dev.chState ch0 = 4 := by decide +kernel

/-- A descriptor of the tests, at a stage. -/
def desc0 (g : DescStage) : Desc := ⟨0, g, true, 0, 64, 0, false, 0, 0x10000, 0, [], 0⟩

/-- A queue of the tests: on, a ring of 64 cells, open to skein 0, holding `its`. -/
def queue0 (its : List QItem) : QCtx :=
  { QCtx.reset with en := true, ringLog2 := 6, ringBase := 0x300, pSkeins := 1#16, cSkeins := 1#16, items := its, runs := its.map fun i => ⟨i.own, i.n, .held⟩ }

/-- An item of the tests: 64 bytes in one cell. -/
def item0 : QItem := ⟨1, 0, 1, 64, 0, false, false, 0, 0, 0⟩

/-- ChannelEventsComplete: a descriptor at each stage, a completion that fails, and a drain with an item. -/
theorem wit_channel_events_1 : (∀ g ∈ [DescStage.fetch, .payload, .full], ((dmaDev 1 { chan0 with descs := [desc0 g], sqTail := 1, sqFetch := 1 }).dev.descAt ch0 0) = some (desc0 g)) := by decide +kernel
/-- As wit_channel_events_1. -/
theorem wit_channel_events_2 : (dmaDev 1 chan0).dev.chState ch0 = 1 ∧ (desc0 .payload).issued = true ∧ ((dmaDev 1 chan0).dev.bun 1).ctoOff = false := by decide +kernel
/-- As wit_channel_events_1. -/
theorem wit_channel_events_3 : let d := { (dmaDev 1 { chan0 with drainEn := true, drainQa := 5, rxHead := 2, armed := true, cqHead := 0 }).dev with bq := { Bq.reset with ctx := [(5, { queue0 [item0] with waiters := [.drain ch0] })] } }; d.drainReady ch0 = true ∧ .drain ch0 ∈ (d.q 5).waiters ∧ (d.qTouch 5).select 5 = some item0 ∧ ((d.qTouch 5).q 5).en = true := by decide +kernel
/-- As wit_channel_events_1. -/
theorem wit_channel_events_4 : ((dmaDev 1 { chan0 with descs := [desc0 .full] }).dev.chan ch0).mayPost (desc0 .full) = true := by decide +kernel

/-- A device with queue 5 as given, and cells of memory. -/
def queueSt (k : Core) (q : QCtx) (cells : List Host.Cell) : State :=
  st k fun d => { d with bq := { Bq.reset with ctx := [(5, q)] }, mem := { d.mem with bytes := cells } }

/-- A core that posts to and reads queue 5, its item at 0x1000. -/
def coreQ : Core := { core0 with g := [(1, 5#64), (2, 0x1000#64), (3, 0#64)] }

/-- The same with a group in g1. -/
def postS : State := queueSt coreQ (queue0 []) (putCells [] (cellsAt 0x1000 [64#8]))

/-- PostsAndTheirEnds: an item of 64 bytes in memory and one in the landing area, posted to a queue with room. -/
theorem wit_posts_1 : isReady postS 0 := by decide +kernel
/-- As wit_posts_1. -/
theorem wit_posts_2 : okAnd ((postS.fetched 0).xlPages 0 .load [0x1000#64]) (fun d1 x1 => decide (x1.any Xlat.notBuffer = false ∧ (d1.drained 0).2 = true ∧
    (d1.drained 0).1.bufLine 0 (bufPa 0x1000#64 x1 0 / 64) = .ok ∧
    leAt ((d1.drained 0).1.bufBytes 0x1000#64 x1 16) 0 2 = 64) && okAnd ((d1.drained 0).1.xlPages 0 .load (pageVas 0x1000#64 (max 16 64))) (fun d4 xs => decide (xs.any Xlat.notBuffer = false ∧ (∀ x ∈ xs, x.ad = none) ∧ d4.bqSafe = false ∧ (5 : Nat).testBit 31 = false ∧ d4.qaLocal 5 = true ∧ d4.qOwner 5 = some skein0 ∧ d4.qmemWaits skein0 5 = false ∧ d4.mayPost 0 5 = true ∧ (d4.qTouch 5).postFails 5 64 0 = none ∧ (d4.qTouch 5).bufFails 0 (bufLines 0x1000#64 xs 64) = none ∧ ((d4.qTouch 5).bufReach (bufLines 0x1000#64 xs 64)).2 = true))) := by decide +kernel

/-- The landing slot 0 of the core holds the item. -/
def postlS : State := queueSt { coreQ with landing := [(0, 64#8)] } (queue0 []) []

/-- PostsAndTheirEnds: the landing form, the commit, the remote post. -/
theorem wit_posts_landing_1 : isReady postlS 0 := by decide +kernel
/-- As wit_posts_landing_1. -/
theorem wit_posts_landing_2 : let d := ((postlS.fetched 0).drained 0).1; leAt ((List.range 256).map fun i => (d.core 0).landByte i) 0 2 = 64 ∧ (64 : Nat) ≤ 256 ∧
    d.mayPost 0 5 = true ∧ d.qaLocal 5 = true ∧ (d.qTouch 5).postFails 5 64 0 = none ∧ (d.qTouch 5).bufFails 0 [] = none ∧ ((d.qTouch 5).bufReach []).2 = true ∧
    d.qOwner 5 = some skein0 ∧ d.qmemWaits skein0 5 = false := by decide +kernel
/-- As wit_posts_landing_1. -/
theorem wit_posts_landing_3 : let p : QPost := ⟨1, 5, 0, 1, 64, 0, 0, .core 0 4#5, []⟩; let d := { postS.dev with bq := { postS.dev.bq with posts := [p] } };
    d.bq.posts.find? (fun x => x.own == 1) = some p ∧ let e := d.qTouch p.q; e.quiet 0 = true ∧ e.bq.posts.find? (fun x => x.own == 1) = some p ∧
    (e.q p.q).waiters = [] ∧ e.fns = [] := by decide +kernel
/-- As wit_posts_landing_1. -/
theorem wit_posts_landing_4 : let r : RemotePost := ⟨0, 4#5, 0x100005, 64, 0, [], 0⟩;
    let d := { postS.dev with bq := { postS.dev.bq with remote := [r], credits := [⟨0, 0x100005, 0, 4, 0, 0⟩] } }; d.bq.remote.find? (fun x => x.l == 0) = some r ∧
    (d.placeRemote r).2 = true := by decide +kernel

/-- The queue holds an item. -/
def readS : State := queueSt { coreQ with g := [(1, 5#64)] } (queue0 [item0]) []

/-- ReadsComplete: a queue with an item and one without. -/
theorem wit_reads_1 : isReady readS 0 := by decide +kernel
/-- As wit_reads_1. -/
theorem wit_reads_2 : okAnd ((readS.fetched 0).spillPages 0 0#64) (fun d1 xs => decide (xs.any Xlat.notBuffer = false ∧ (∀ x ∈ xs, x.ad = none) ∧
    (d1.drained 0).2 = true ∧ (d1.drained 0).1.bqSafe = false ∧ (d1.drained 0).1.qaLocal 5 = true ∧ ((d1.drained 0).1.qOwner 5) = some skein0 ∧
    (d1.drained 0).1.mayQread 0 0 5 = true ∧ (d1.drained 0).1.qmemWaits skein0 5 = false ∧ ((d1.drained 0).1.qTouch 5).qmemOn skein0 5 = true ∧
    (((d1.drained 0).1.qTouch 5).q 5).dead = false ∧ (((d1.drained 0).1.qTouch 5).q 5).en = true ∧ ((d1.drained 0).1.qTouch 5).select 5 = some item0 ∧
    item0.len ≤ 256 ∧ ((d1.drained 0).1.qTouch 5).spillFails 0 [] = none ∧ ((d1.drained 0).1.qTouch 5).itemPoisoned 5 item0 = false ∧
    (((d1.drained 0).1.qTouch 5).bufReach []).2 = true)) := by decide +kernel
/-- As wit_reads_1. -/
theorem wit_reads_3 : ((postS.fetched 0).qTouch 5).select 5 = none := by decide +kernel

/-- Group 5 has queue 5 as its first member. -/
def waitS : State :=
  { readS with dev := { readS.dev with cores := [(0, { core0 with g := [(1, 5#64), (2, 1#64)] })], bq := { readS.dev.bq with groups := [(5, some ⟨[0x80000005], 0, 0⟩)] } } }

/-- ReadsComplete: a group with a member that has an item; waits with a limit, and waits to cancel. -/
theorem wit_group_reads_1 : isReady waitS 0 := by decide +kernel
/-- As wit_group_reads_1. -/
theorem wit_group_reads_2 : okAnd ((waitS.fetched 0).spillPages 0 (5#64 &&& ~~~0xFFF#64)) (fun d1 xs => let d2 := (d1.drained 0).1;
    let e := d2.groupTouch skein0 5 false; let g := (mget none e.bq.groups 5).getD ⟨[], 0, 0⟩; let ms := g.chosen 1#64;
    let d3 := ms.foldl (fun d x => d.qTouch x.2) e; decide (xs.any Xlat.notBuffer = false ∧ (∀ x ∈ xs, x.ad = none) ∧ (d1.drained 0).2 = true ∧ d2.bqSafe = false ∧
    d2.cfgOf 0 = some skein0 ∧ (∀ x ∈ ms, e.mayQread 0 0 x.2 = true) ∧ (∀ x ∈ ms, d3.qOwner x.2 = some skein0 ∧ d3.qmemOn skein0 x.2 = true) ∧
    (∀ x ∈ ms, (d3.q x.2).dead = false) ∧ d3.pickMember g.rot ms = some (0, 5, item0) ∧ d3.itemPoisoned 5 item0 = false ∧ d3.spillFails 0 [] = none ∧
    (d3.bufReach []).2 = true)) := by decide +kernel
/-- As wit_group_reads_1. -/
theorem wit_group_reads_3 : let w : QWait := ⟨4#5, 5, [5], [0], false, 0, 0, [], some 1000, 0⟩; let d := (at0 fun k => { k with wait := .queue w }).dev;
    (d.core 0).wait = .queue w ∧ w.limit = some 1000 ∧ d.quiet 0 = true := by decide +kernel
/-- As wit_group_reads_1. -/
theorem wit_group_reads_4 : let d := (at0 fun k => { k with wait := .remote, kb := { k.kb with ie := true }, pend := 1#256 <<< 0x20, en := 1#256 <<< 0x20 }).dev;
    (d.core 0).wait = .remote ∧ (d.deliverable 0).isSome := by decide +kernel

/-- InterruptsAndFlushes: a deliverable vector at a running core, a flush before its point and one past it. -/
theorem wit_interrupts_flushes_1 : let d := (at0 fun k => { k with kb := { k.kb with ie := true }, pend := 1#256 <<< 0x20, en := 1#256 <<< 0x20 }).dev;
    d.deliverable 0 = some 0x20 ∧ d.inService 0 = true ∧ (d.core 0).wait.leaves = true ∧ d.quiet 0 = true := by decide +kernel
/-- As wit_interrupts_flushes_1. -/
theorem wit_interrupts_flushes_2 : let d := (queueSt core0 { queue0 [item0] with flush := true } []).dev; (d.q 5).flush = true ∧ (d.q 5).flushed = false ∧
    (∀ p ∈ d.bq.posts, p.q ≠ 5) ∧ d.bq.grants = [] ∧ d.fns = [] := by decide +kernel
/-- As wit_interrupts_flushes_1. -/
theorem wit_interrupts_flushes_3 : let d := (queueSt { core0 with wait := .flush 4#5 5 } { queue0 [] with flush := true, flushed := true } []).dev;
    (d.q 5).flush = true ∧ (d.q 5).flushed = true ∧ d.cores = [(0, { d.core 0 with wait := .flush 4#5 5 })] ∧ d.bq.grantReqs = [] ∧ d.quiet 0 = true := by decide +kernel

/-- QueueControlComplete: each command on a queue of the state it asks for. -/
theorem wit_queue_control_1 : core0.level.priv = true ∧ isReady postS 0 := by decide +kernel
/-- As wit_queue_control_1. -/
theorem wit_queue_control_2 : let d := postS.fetched 0; d.bqSafe = false ∧ (5 : Nat).testBit 31 = false ∧ d.qaLocal 5 = true ∧ d.qOwner 5 = some skein0 ∧
    some skein0.skein = d.skeinOf 0 ∧ (d.q 5).dead = false ∧ (d.q 5).en = true ∧ (d.q 5).flush = false ∧ (d.q 5).items = [] ∧ (d.q 5).waiters = [] ∧
    (∀ p ∈ d.bq.posts, p.q ≠ 5) := by decide +kernel
/-- As wit_queue_control_1. -/
theorem wit_queue_control_3 : (((postS.fetched 0).qTouch 5).charge 0 1).qmemOn skein0 5 = true := by rw [qmemOn_charge _ _ _ _ _ (by decide)]; decide +kernel
/-- As wit_queue_control_1. -/
theorem wit_queue_control_4 : (postS.fetched 0).qmemWaits skein0 5 = false := by decide +kernel
/-- As wit_queue_control_1. -/
theorem wit_queue_control_5 : ({ queue0 [] with dead := true }).dead = true ∧ ({ queue0 [] with en := false }).en = false ∧ (queue0 []).ringLog2 ≠ 0 ∧
    (0x1FFFFFFFF#64).toNat < 2 ^ 33 ∧ field 0x1FFFFFFFF#64 15 0 ≠ 0 := by decide +kernel

/-- A setup block at 0x1000: a ring of 64 cells at page 0x300, SEQ 7. -/
def setupS : State :=
  let s := queueSt { core0 with g := [(1, 5#64), (2, 0x1000#64)] } { queue0 [] with en := false } (putCells [] (cellsAt 0x1000 ([0#8, 0#8, 0#8, 6#8] ++ leBytes 4 0x300 ++ leBytes 4 7)))
  { s with dev := s.dev.setReg (Reg.BQ_SK_SLOTWAIT 0) 0xFFFF#32 }

/-- The device at which QCTL SETUP and RIGHTS read that block. -/
def setupD : Dev := ((setupS.fetched 0).drained 0).1

/-- QueueControlComplete: a legal setup block, a rights block, and a group entry. -/
theorem wit_queue_setup_1 : isReady setupS 0 := by decide +kernel
/-- As wit_queue_setup_1. -/
theorem wit_queue_setup_2 : okAnd ((setupS.fetched 0).xlPages 0 .load (pageVas 0x1000#64 64)) (fun d1 xs => decide (d1 = setupS.fetched 0 ∧
    xs = [⟨0x1000, .wb, none⟩])) ∧ okAnd ((setupS.fetched 0).xlPages 0 .load (pageVas 0x1000#64 12)) (fun d1 xs => decide (d1 = setupS.fetched 0 ∧
    xs = [⟨0x1000, .wb, none⟩])) := by decide +kernel
/-- As wit_queue_setup_1. -/
theorem wit_queue_setup_3 : ((setupS.fetched 0).drained 0).2 = true ∧ setupD.qOwner 5 = some skein0 ∧ (setupD.q 5).dead = false ∧
    (setupD.q 5).en = false := by decide +kernel
/-- As wit_queue_setup_1. -/
theorem wit_queue_setup_4 : ((setupD.qTouch 5).charge 0 1).qmemOn skein0 5 = true := by rw [qmemOn_charge _ _ _ _ _ (by decide)]; decide +kernel
/-- As wit_queue_setup_1. -/
theorem wit_queue_setup_5 : ((setupD.qTouch 5).charge 0 1).bufFails 0 (bufLines 0x1000#64 [⟨0x1000, .wb, none⟩] 64) = none := by rw [bufFails_charge _ _ _ _ _ (by decide) (by decide +kernel)]; decide +kernel
/-- As wit_queue_setup_1. -/
theorem wit_queue_setup_6 : let bs := setupD.bufBytes 0x1000#64 [⟨0x1000, .wb, none⟩] 64; 6 ≤ leAt bs 3 1 ∧ leAt bs 3 1 ≤ 15 ∧
    skein0.ringFits (leAt bs 3 1) (leAt bs 4 4) = true ∧ leAt bs 0 2 < 16 ∧ (leAt bs 0 2).testBit 3 = false ∧
    ((setupD.qTouch 5).charge 0 1).setupOk skein0 5 bs = true ∧ ((setupD.qTouch 5).charge 0 1).rightsOk skein0 5 bs 0 = true := by decide +kernel
/-- As wit_queue_setup_1. -/
theorem wit_queue_setup_7 : (((setupD.qTouch 5).charge 0 1).bufReach (bufLines 0x1000#64 [⟨0x1000, .wb, none⟩] 64)).2 = true ∧
    ((((setupD.qTouch 5).charge 0 1).bufReach (bufLines 0x1000#64 [⟨0x1000, .wb, none⟩] 64)).1.bufRead (bufLines 0x1000#64 [⟨0x1000, .wb, none⟩] 64)).bq.ctx.all (fun e => e.2.waiters.isEmpty) = true := by rw [charge_full _ _ _ (by decide +kernel) (by decide +kernel)]; decide +kernel
/-- As wit_queue_setup_1. -/
theorem wit_queue_setup_8 : groupOk skein0 (leBytes 4 0x80000005 ++ List.replicate 508 0#8) (fun _ => true) = true ∧ (5 : Nat) < 4096 ∧
    setupS.dev.cfgOf 0 = some skein0 := by decide +kernel

/-- A device of the tests, changed by `f`. -/
def dv (f : Dev → Dev) : Dev := (st core0 f).dev

/-- The Hank unit in service, with port 0 UP. -/
def hankOn (f : Dev → Dev) : Dev := f (dv fun d => (d.setRegF Reg.HNK_STATUS 1 0 1).setRegF (Reg.HNK_PORT_STATUS 0) 2 0 2)

/-- A message with nothing in it, of a kind. -/
def msg0 (t : HankType) (n : Nat) : HankMsg := ⟨t, 0#8, 5#32, 3#32, 4#32, List.replicate n 0#8⟩

/-- HankSendingAndPorts: a stream with a message, one whose acknowledgement is due, frames to send again, a held stream, a credit to give back. -/
theorem wit_hank_sending_1 : let d := hankOn fun d => { d with hank := { d.hank with streams := [(streamKey 1 0 1, { Stream.reset with out := [(msg0 .creq 0, 0)], port := some 0, unacked := [⟨0, 0, false, []⟩], held := some 5 })] } }; d.hankRun = true ∧ d.portUp 0 = true ∧ d.streamPort 1 0 1 = (some 0, false) ∧ packCount 4320 (d.stream (streamKey 1 0 1)).out ≠ 0 ∧ (d.stream (streamKey 1 0 1)).unacked.length < 1024 ∧ (d.stream (streamKey 1 0 1)).unacked ≠ [] ∧ (d.stream (streamKey 1 0 1)).held = some 5 := by decide +kernel
/-- As wit_hank_sending_1. -/
theorem wit_hank_sending_2 : let d := hankOn fun d => { d with hank := { d.hank with streams := [(streamKey 1 0 1, { Stream.reset with port := some 0, ackDue := true })] } }; d.streamPort 1 0 1 = (some 0, false) ∧ packCount 4320 (d.stream (streamKey 1 0 1)).out = 0 ∧ (d.stream (streamKey 1 0 1)).ackDue = true := by decide +kernel
/-- As wit_hank_sending_1. -/
theorem wit_hank_sending_3 : ∃ b ∈ (dv fun d => { d with bq := { d.bq with credits := [⟨0, 0x100005, 1, 4, 0, 0⟩] } }).bq.credits, b.qa = (0x100005#32).toNat := by decide +kernel

/-- HankSendingAndPorts: a system heard, a peer in CONFLICT and one DOWN, a port in each state, a spare to stand in, and a port of local fault in SAFE. -/
theorem wit_hank_ports_1 : let d := hankOn fun d => ({ d with hank := { d.hank with heard := [(1, some ⟨5, 0#48, 0⟩)] } }.setRegF (Reg.HNK_PEER 1) 9 8 3).setRegF (Reg.HNK_PEER 2) 9 8 2; d.heardAt 0 1 = some ⟨5, 0#48, 0⟩ ∧ d.peerState 1 = 3 ∧ d.peerState 2 = 2 := by decide +kernel
/-- As wit_hank_ports_1. -/
theorem wit_hank_ports_2 : (∀ n ∈ [1, 2, 3], (dv fun d => d.setRegF (Reg.HNK_PORT_STATUS 0) 2 0 n).portState 0 = n) := by decide +kernel
/-- As wit_hank_ports_1. -/
theorem wit_hank_ports_3 : let d := dv fun d => ((((((((d.setRegF (Reg.HNK_PORT_STATUS 0) 2 0 4).setRegF (Reg.HNK_PORT_STATUS 1) 2 0 2).setRegF (Reg.HNK_PORT_STATUS 1) 13 12 3).setRegF (Reg.HNK_PORT_STATUS 1) 18 16 1).setRegF (Reg.HNK_PORT_STATUS 2) 18 16 2).setRegF (Reg.HNK_PORT_STATUS 3) 18 16 3).setRegF (Reg.HNK_PORT_STATUS 4) 18 16 4).setRegF (Reg.HNK_PORT_STATUS 5) 18 16 5).setRegF (Reg.HNK_PORT_STATUS 6) 18 16 6 |>.setRegF (Reg.HNK_PORT_STATUS 7) 18 16 7; d.portState 0 = 4 ∧ (∀ y, y < 8 → y ≠ 0 → d.substOf y = d.substOf 0 → d.portState y = 4) ∧ d.freeSpare = some 1 := by decide +kernel
/-- As wit_hank_ports_1. -/
theorem wit_hank_ports_4 : let d := { (dv fun d => d.setRegF (Reg.HNK_PORT_STATUS 0) 2 0 5) with safe := true }; d.safe = true ∧ d.portState 0 = 5 := by decide +kernel

/-- HankReceivingComplete: a frame for this port that fails its checks, and a grant. -/
theorem wit_hank_receiving_1 : let d := hankOn id; d.hankRun = true ∧ d.portUp 0 = true ∧ (msg0 .grant 0).status = 0#8 := by decide +kernel
/-- As wit_hank_receiving_1. -/
theorem wit_hank_receiving_2 : let d := hankOn id; let f : HankFrame := { dst := 0xFFFFFFFFFFFF#48, src := 0#48, ethertype := 0#16, fcsOk := false, payload := List.replicate 32 0#8 }; f.dst = 0xFFFFFFFFFFFF#48 ∧ (match d.frameCheck f with | .error e => e == 1 | .ok _ => false) = true := by decide +kernel
/-- As wit_hank_receiving_1. -/
theorem wit_hank_receiving_3 : let c (n : Nat) : CreditBlock := ⟨0, 5, n, 4, 0, 0⟩; let d := hankOn fun d => { d with bq := { d.bq with credits := [c 1, c 2] } };
    2 ≤ (d.blocksFor 0 5).length ∧ (hankOn id).bq.credits.length < 16384 ∧ ((hankOn id).blocksFor 0 5).length < 2 := by decide +kernel

/-- HankReceivingComplete: a frame that passes its checks. -/
theorem wit_hank_frame : let d := hankOn id; let f : HankFrame := { dst := 0xFFFFFFFFFFFF#48, src := 0#48, ethertype := 0#16, fcsOk := true, payload := hankPayload 4 0 0xFFFF 0 0 0 0 0 7 [] }; (match d.frameCheck f with | .ok ms => ms.isEmpty | .error _ => false) = true := by decide +kernel

/-- SafeEntryComplete: a device out of SAFE with more than one pipeline, and one in it. -/
theorem wit_safe_1 : let d := dv fun d => d.setRegF Reg.BQ_STATUS 11 8 15; d.safe = false ∧ (d.regF Reg.BQ_STATUS 11 8).testBit 3 = true ∧
    d.regF Reg.BQ_STATUS 11 8 ≠ 2 ^ 3 := by decide +kernel
/-- As wit_safe_1. -/
theorem wit_safe_2 : ({ dev0 core0 with safe := true }).safe = true := by decide +kernel

/-- PowerRequestsAndDomainSteps: requests admitted of a spindle, the LCN's own, a channel and a bundle, and one to RUN. -/
theorem wit_power_requests_1 : (pair0 core0).dev.pwrAdmit (.core 0) 1 1 4 = .admitted 1 .off ∧
    (pair0 core0).dev.pwrAdmit (.core 0) 1 0 4 = .admitted 0 .off := by decide +kernel
/-- As wit_power_requests_1. -/
theorem wit_power_requests_2 : (dv fun d => { d with dom := [(0, ⟨.run, false, .run, 0, false, none⟩), (1, ⟨.off, false, .run, 0, false, none⟩)] }).pwrAdmit (.core 0) 1 1 0 = .admitted 1 .run := by decide +kernel
/-- As wit_power_requests_1. -/
theorem wit_power_requests_3 : (dv fun d => { d with dom := d.dom ++ [(384, ⟨.run, false, .run, 0, false, none⟩)] }).pwrAdmit (.core 0) 2 0 2 = .admitted 384 .sleep := by decide +kernel
/-- As wit_power_requests_1. -/
theorem wit_power_requests_4 : (dv fun d => { d with dom := d.dom ++ [(400, ⟨.run, false, .run, 0, false, none⟩)] }).pwrAdmit (.core 0) 3 0 4 = .admitted 400 .off := by decide +kernel

/-- A device in which domain `k` is in transit from `a` to `b`, its port at `p`. -/
def moving (k : Nat) (a b : DomState) (p : PortSt) : Dev := dv fun d => { d with dom := [(k, ⟨a, true, b, 0, false, none⟩)], ports := [(k, ⟨p, []⟩)] }

/-- PowerRequestsAndDomainSteps: SLEEP entered and left, fences of a spindle, a channel and a bundle, power removed and restored. -/
theorem wit_domain_steps_1 : let d := (moving 0 .run .sleep .opened).drain 0; (d.domOf 0).transit = true ∧ (d.domOf 0).st = .run ∧ (d.domOf 0).target = .sleep ∧
    (d.core 0).allPerformed = true := by decide +kernel
/-- As wit_domain_steps_1. -/
theorem wit_domain_steps_2 : let d := moving 0 .sleep .run .opened; (d.domOf 0).transit = true ∧ (d.domOf 0).st = .sleep ∧ (d.domOf 0).target = .run := by decide +kernel
/-- As wit_domain_steps_1. -/
theorem wit_domain_steps_3 : let d := (moving 0 .run .off .opened).tryFence 0; (d.port 0).st = .fencing ∧ ((d.drain 0).core 0).settled = true := by decide +kernel
/-- As wit_domain_steps_1. -/
theorem wit_domain_steps_4 : ((moving 384 .run .off .fencing).port 384).st = .fencing ∧ ((moving 400 .run .off .fencing).port 400).st = .fencing ∧
    (moving 400 .run .off .fencing).bundleBusy 0 = false := by decide +kernel
/-- As wit_domain_steps_1. -/
theorem wit_domain_steps_5 : let d := { moving 0 .run .off .fenced with ports := [(0, ⟨.fenced, [(3, .vec ⟨0, 5, false, 0⟩)]⟩)] }; (d.port 0).st ≠ .opened ∧
    (d.port 0).st ≠ .off ∧ (d.port 0).held = [(3, .vec ⟨0, 5, false, 0⟩)] := by decide +kernel
/-- As wit_domain_steps_1. -/
theorem wit_domain_steps_6 : let d := moving 0 .run .retain .fenced; (d.domOf 0).transit = true ∧ (d.port 0).st = .fenced ∧ (d.domOf 0).st = .run ∧
    (d.domOf 0).target = .retain := by decide +kernel
/-- As wit_domain_steps_1. -/
theorem wit_domain_steps_7 : let d := moving 0 .run .off .fenced; (d.domOf 0).transit = true ∧ (d.port 0).st = .fenced ∧ (d.domOf 0).st = .run ∧
    (d.domOf 0).target = .off := by decide +kernel
/-- As wit_domain_steps_1. -/
theorem wit_domain_steps_8 : let d := moving 408 .run .off .fenced; (d.domOf 408).transit = true ∧ (d.port 408).st = .fenced ∧
    (d.domOf 408).st = .run := by decide +kernel
/-- As wit_domain_steps_1. -/
theorem wit_domain_steps_9 : let d := moving 0 .off .run .waking; (d.domOf 0).transit = true ∧ (d.port 0).st = .waking ∧ (d.port 0).held = [] ∧
    d.links.waitHome = [] := by decide +kernel
/-- As wit_domain_steps_1. -/
theorem wit_domain_steps_10 : let d := moving 0 .retain .run .waking; (d.domOf 0).transit = true ∧ (d.port 0).st = .waking ∧ (d.port 0).held = [] ∧
    d.links.waitHome = [] ∧ (d.domOf 0).st ≠ .off := by decide +kernel
/-- As wit_domain_steps_1. -/
theorem wit_domain_steps_11 : let d := moving 399 .sleep .run .waking; (d.domOf 399).transit = true ∧ (d.port 399).st = .waking ∧ (d.port 399).held = [] ∧
    d.links.waitHome = [] ∧ (mget DramCh.reset d.dram 15).off = [] := by decide +kernel
/-- As wit_domain_steps_1. -/
theorem wit_domain_steps_12 : let d := { moving 384 .sleep .run .waking with dram := [(0, { DramCh.reset with off := [1] })] }; (d.domOf 384).transit = true ∧
    (d.port 384).st = .waking ∧ (d.port 384).held = [] ∧ d.links.waitHome = [] ∧ (mget DramCh.reset d.dram 0).off ≠ [] := by decide +kernel
/-- As wit_domain_steps_1. -/
theorem wit_domain_steps_13 : let d := (st { core0 with sb := [.store [(0, 0#8)] .wb .k 0] } fun d => { d with dom := [(0, ⟨.run, true, .off, 0, false, none⟩)], ports := [(384, ⟨.fenced, []⟩)] }).dev; (d.domOf 0).transit = true ∧ (d.domOf 0).st = .run ∧ (d.port 0).st = .opened ∧ ((d.drain 0).core 0).sb ≠ [] := by decide +kernel
/-- As wit_domain_steps_1. -/
theorem wit_domain_steps_14 : let d := (st { core0 with pendSt := [5] } fun d => { d with dom := [(0, ⟨.run, true, .off, 0, false, none⟩)] }).dev;
    (d.domOf 0).transit = true ∧ (d.domOf 0).st = .run ∧ (d.port 0).st = .opened ∧ ((d.drain 0).core 0).sb = [] ∧ ((d.drain 0).core 0).pendSt ≠ [] := by decide +kernel
/-- As wit_domain_steps_1. -/
theorem wit_domain_steps_15 : let d := dv fun d => { d with dom := [(0, ⟨.sleep, false, .sleep, 0, false, none⟩)], cores := [(0, { core0 with pend := 1#256 <<< 0x20, en := 1#256 <<< 0x20 })] }; d.safe = false ∧ (d.domOf 0).transit = false ∧ (mget none d.spindleOf 0).isSome ∧ (d.core 0).released = true ∧ d.wakeHolds 0 (d.domOf 0).st = true := by decide +kernel

/-- ThermalWearAndPins: samples below and at the trip temperature, limits of the package, a skein and a die, a guard step due, pins claimed. -/
theorem wit_thermal_1 : (decide ((17 : Fin 18).val ≠ 17) && decide ((1760 : Int) ≤ 1760)) = false ∧
    (decide ((0 : Fin 18).val ≠ 17) && decide ((1760 : Int) ≤ 1760)) = true ∧
    mget false (dv fun d => { d with pwr := { d.pwr with hot := [(0, true)] } }).pwr.hot 0 = true := by decide +kernel
/-- As wit_thermal_1. -/
theorem wit_thermal_2 : let d := dv fun d => { d with img := { d.img with img := some { image0 with power := [⟨0, 0xFF, 8⟩, ⟨0x20, 0xFF, 8⟩, ⟨0xFF, 0xFF, 8⟩] } } };
    d.powerLimit 0xFF ≠ 0 ∧ d.powerLimit 0x20 ≠ 0 ∧ d.powerLimit 0 ≠ 0 ∧ d.powerLimit 0 < 9 ∧ d.thermStep 0 < 4 ∧
    d.stepFree (mget none d.pwr.dieChanged 0) = true := by decide +kernel
/-- As wit_thermal_1. -/
theorem wit_thermal_3 : mget 0 (dv fun d => { d with pwr := { d.pwr with guardDue := [(17, 2)] } }).pwr.guardDue 17 ≠ 0 := by decide +kernel
/-- As wit_thermal_1. -/
theorem wit_thermal_4 : let d := dv fun d => { d with img := { d.img with img := some { image0 with pins := [⟨0, 1, 0⟩, ⟨1, 2, 0⟩] }, lock := true } };
    d.pinUnit 1 4 0 = true ∧ d.pinUnit 2 2 1 = true ∧ d.safe = false ∧ mget false d.pwr.pulse 1 = false ∧ mget none d.pwr.capLast 0 = none := by decide +kernel
/-- As wit_thermal_1. -/
theorem wit_thermal_5 : let d := dv fun d => { d with pwr := { d.pwr with pulse := [(1, true)] }, trace := { d.trace with buf := [0#8] } };
    mget false d.pwr.pulse 1 = true ∧ d.trace.buf ≠ [] ∧ (∀ w ∈ [(0, 0#16)], w.2 = 0#16) := by decide +kernel

/-- A home that is free to answer for line 0x40, its directory entry as given. -/
def homeD (e : DirEntry) : Dev := dv fun d => { d with coh := { d.coh with dir := [(0x40, e)] } }

/-- HomeRequestsComplete: a line that no one holds, one that another shares, and one that another owns. -/
theorem wit_home_requests_1 : let d := homeD DirEntry.idle; let d1 := (d.dirTouch 0x40).dirCorrect 0x40; d.deadAgents.getLsbD 3 = false ∧
    d.agentIsolated 3 = false ∧ d.safe = false ∧ d.populated (0x40 * 64) = true ∧ d.queueMem (0x40 * 64) = false ∧ d.txnOf 0x40 = none ∧ d.lineAnswer 0x40 = .ok ∧
    d1.mustRebuild 0x40 = false ∧ (d1.dirOf 0x40).st ≠ .m ∧ (d1.dirOf 0x40).holders = 0#22 := by decide +kernel
/-- As wit_home_requests_1. -/
theorem wit_home_requests_2 : let d := homeD ⟨.s, agentBit 3⟩; let d1 := (d.dirTouch 0x40).dirCorrect 0x40; (d1.dirOf 0x40).st ≠ .m ∧
    (d1.dirOf 0x40).holders &&& ~~~agentBit 3 = 0#22 ∧ d1.mustRebuild 0x40 = false ∧ d.lineAnswer 0x40 = .ok := by decide +kernel
/-- As wit_home_requests_1. -/
theorem wit_home_requests_3 : let d := homeD ⟨.m, agentBit 5⟩; let d1 := (d.dirTouch 0x40).dirCorrect 0x40; (d1.dirOf 0x40).st = .m ∧
    (d1.dirOf 0x40).holders ≠ agentBit 3 ∧ (d1.dirOf 0x40).owner = 5 ∧ d1.mustRebuild 0x40 = false ∧ d.lineAnswer 0x40 = .ok ∧ d.txnOf 0x40 = none := by decide +kernel
/-- As wit_home_requests_1. -/
theorem wit_home_requests_4 : (homeD DirEntry.idle).deadAgents.getLsbD 18 = false ∧ (homeD DirEntry.idle).agentIsolated 18 = false := by decide +kernel

/-- A packet between die 3 and that line's home. -/
def pk (k : CohKind) (bs : List Byte) : CohMsg :=
  let up := k == .ack || k == .rdata || k == .already
  ⟨k, 3, 0x40, bs, if up then agentNode 3 0x40 else homeNode 0x40, if up then homeNode 0x40 else agentNode 3 0x40, 0, 0⟩

/-- The same with a packet in flight. -/
def packetD (e : DirEntry) (k : CohKind) (bs : List Byte) : Dev := let d := homeD e; { d with coh := { d.coh with flight := [pk k bs] } }

/-- CoherencePacketsComplete: lines given back, packets of each kind at an owner and at a holder, a home that waits, tags, a line to rebuild. -/
theorem wit_packets_1 : let d := homeD ⟨.s, agentBit 3⟩; let d2 := (d.agentDrop 3 0x40).dirTouch 0x40; d2.txnOf 0x40 = none ∧ d.agentState 3 0x40 ≠ .m ∧
    (d2.dirOf 0x40).st = .s ∧ (d2.dirOf 0x40).holders.getLsbD 3 = true := by decide +kernel
/-- As wit_packets_1. -/
theorem wit_packets_2 : let d := homeD DirEntry.idle; (∀ k ∈ [CohKind.inv, .recallS, .recallI, .recallD, .ack, .rdata, .already, .data, .grantPending, .grantDone, .done], d.canTravel (pk k []) = true) := by decide +kernel
/-- As wit_packets_1. -/
theorem wit_packets_3 : let d := homeD ⟨.m, agentBit 3⟩; let d2 := (d.agentDrop 3 0x40).dirTouch 0x40; d.agentIsolated 3 = false ∧ d2.txnOf 0x40 = none ∧
    d.ownedBy 3 0x40 = true ∧ d2.ownedBy 3 0x40 = true := by decide +kernel
/-- As wit_packets_1. -/
theorem wit_packets_4 : (packetD ⟨.s, agentBit 3⟩ .inv []).inFlight .inv 3 0x40 = some (pk .inv []) ∧
    (packetD ⟨.s, agentBit 3⟩ .already []).inFlight .already 3 0x40 = some (pk .already []) := by decide +kernel
/-- As wit_packets_1. -/
theorem wit_packets_5 : (∀ k ∈ [CohKind.recallS, .recallI, .recallD], let d := packetD ⟨.m, agentBit 3⟩ k []; d.inFlight k 3 0x40 = some (pk k []) ∧
    (d.arrived (pk k [])).ownedBy 3 0x40 = true) := by decide +kernel
/-- As wit_packets_1. -/
theorem wit_packets_6 : (∀ k ∈ [CohKind.recallS, .recallI, .recallD], let d := packetD DirEntry.idle k []; d.inFlight k 3 0x40 = some (pk k []) ∧
    (d.arrived (pk k [])).ownedBy 3 0x40 = false) := by decide +kernel
/-- As wit_packets_1. -/
theorem wit_packets_7 : let t0 : HomeTxn := ⟨4, .getM, some 3, 8#22, false, true, []⟩; let d := packetD ⟨.m, agentBit 3⟩ .rdata (List.replicate 64 0#8);
    let d := { d with coh := { d.coh with txn := [(0x40, some t0)] } }; d.txnOf 0x40 = some t0 ∧
    d.inFlight .rdata 3 0x40 = some (pk .rdata (List.replicate 64 0#8)) ∧ t0.recallOf = some 3 ∧ t0.acks.getLsbD 3 = true := by decide +kernel
/-- As wit_packets_1. -/
theorem wit_packets_8 : let d := packetD ⟨.s, agentBit 3⟩ .data (List.replicate 64 0#8); 3 < 16 ∧
    d.inFlight .data 3 0x40 = some (pk .data (List.replicate 64 0#8)) ∧ (d.dirOf 0x40).st = .s ∧ (d.dirOf 0x40).holders.getLsbD 3 = true := by decide +kernel
/-- As wit_packets_1. -/
theorem wit_packets_9 : (∀ k ∈ [CohKind.grantPending, .grantDone], let d := packetD ⟨.m, agentBit 3⟩ k []; d.inFlight k 3 0x40 = some (pk k []) ∧
    (d.arrived (pk k [])).ownedBy 3 0x40 = true) := by decide +kernel
/-- As wit_packets_1. -/
theorem wit_packets_10 : (packetD ⟨.m, agentBit 3⟩ .grantDone []).inFlight .grantPending 3 0x40 = none := by decide +kernel
/-- As wit_packets_1. -/
theorem wit_packets_11 : let d := packetD ⟨.m, agentBit 3⟩ .done []; let t : L3Tag := ⟨true, true, 0#28, false, false⟩;
    let d := { d with coh := { d.coh with l3 := [(lineKey 3 0x40, some t)], rebuild := [3] } }; d.inFlight .done 3 0x40 = some (pk .done []) ∧
    mget none d.coh.l3 (lineKey 3 0x40) = some t ∧ 0x40 / 21 ∈ d.coh.rebuild := by decide +kernel

/-- WaysComplete: a command that passes, one that does not, a unit that cleans, and a sweep. -/
theorem wit_ways_1 : let d := dv fun d => (d.setRegF (pdWays 3) 15 0 0xFFF).setRegF Reg.CCH_SWEEP 31 31 1; commandsUnit .distaff = true ∧
    d.wayCheck .distaff 3 5 true = none ∧ d.wayCheck .distaff 3 5 false = some .state ∧ d.regF Reg.CCH_SWEEP 31 31 = 1 := by decide +kernel
/-- As wit_ways_1. -/
theorem wit_ways_2 : let d := dv fun d => { d with coh := { d.coh with wayUnits := [(3, ⟨true, 5, 0⟩)] } }; (mget WayUnit.idle d.coh.wayUnits 3).cleaning = true ∧
    d.safe = false ∧ (∀ sl, sl < 28 → d.linesInWay 3 sl 5 = []) := by decide +kernel

/-- WaysComplete: a way to power up, in a die and in the home cache. -/
theorem wit_ways_up : let i := { image0 with skeins := [{ skein0 with l3Ways := List.replicate 16 0xFFF, hcWays := 0xFFF }] };
    (dv fun d => { d.setRegF (pdWays 3) 15 0 0xFEF with img := { d.img with img := some i } }).wayCheck .distaff 3 4 false = none ∧
    (dv fun d => { d.setRegF (pdWays 16) 15 0 0xFEF with img := { d.img with img := some i } }).wayCheck .distaff 16 4 false = none ∧
    (dv fun d => d.setRegF (pdWays 16) 15 0 0xFFF).wayCheck .distaff 16 5 true = none := by decide +kernel

/-- ReelsComplete: a running LCN, a reel due with a spare on its die, reels at steps 3, 5 and 6, state to write, rows left, an agent alive. -/
theorem wit_reels_1 : let d := dv id; d.inService 0 = true ∧ (d.core 0).wait = .none ∧ d.deadAgents.getLsbD 3 = false ∧ d.safe = false := by decide +kernel
/-- As wit_reels_1. -/
theorem wit_reels_2 : let d := dv fun d => { d with rel := { d.rel with due := [(0, 1, true)] } };
    (d.rel.due.find? fun (x : Nat × Nat × Bool) => x.1 == 0) = some (0, 1, true) ∧ d.rel.reels = [] ∧ (d.port 0).st ≠ .fencing ∧
    (d.chooseSpare 0).isSome := by decide +kernel
/-- As wit_reels_1. -/
theorem wit_reels_3 : (∀ n ∈ [3, 5, 6], mget none (dv fun d => { d with rel := { d.rel with reels := [(0, some ⟨0, 1, 1, true, n, ⟨0#8, false⟩⟩)], dirty := true } }).rel.reels 0 = some ⟨0, 1, 1, true, n, ⟨0#8, false⟩⟩) := by decide +kernel
/-- As wit_reels_1. -/
theorem wit_reels_4 : let d := dv id; ((d.drain 0).core 0).allPerformed = true ∧ mget 0 d.rel.rows (arrayKey .distaff) < (arrayRows .distaff).1 ∧
    (dv fun d => { d with rel := { d.rel with dirty := true } }).rel.dirty = true := by decide +kernel

/-- DieLinksAndGuestPorts: a start before its links, a module that is up, a lane due, and a guest port in each state. -/
theorem wit_links_1 : let d := dv fun d => { d with boot := { d.boot with kind := 1 } }; d.boot.kind ≠ 0 ∧ d.boot.links = false ∧ d.safe = false := by decide +kernel
/-- As wit_links_1. -/
theorem wit_links_2 : let d := dv fun d => d.setRegF (linkReg true 3) 17 16 3; (d.regF (linkReg true 3) 17 16).testBit 1 = true ∧ d.lanesUsed true 3 1 < 4 ∧
    d.links.laneDue = [] := by decide +kernel
/-- As wit_links_1. -/
theorem wit_links_3 : let d := dv fun d => { d with links := { d.links with laneDue := [(true, 3, 1, 69)] } };
    (d.links.laneDue.find? fun (y : Bool × Nat × Nat × Nat) => y.1 == true && y.2.1 == 3 && y.2.2.1 == 1) = some (true, 3, 1, 69) := by decide +kernel
/-- As wit_links_1. -/
theorem wit_links_4 : (∀ n ∈ [0, 1, 2, 3, 4, 5], (dv fun d => d.setRegF (Reg.D2D_GST_STATUS 1) 2 0 n).gstState 1 = n) := by decide +kernel
/-- As wit_links_1. -/
theorem wit_links_5 : (dv fun d => { d with img := { d.img with img := some { image0 with sites := [⟨0x19, 0, 1, 0, 0, 0⟩] } } }).guestAdmitted 1 = true ∧
    (dv id).boot.kind = 0 := by decide +kernel
/-- As wit_links_1. -/
theorem wit_links_6 : (dv fun d => d.setRegF Reg.CCH_DEAD 21 0 (2 ^ 19)).deadAgents.getLsbD 19 = true := by decide +kernel

/-- MemoryControllersAndTraining: a controller in RUN with lines, a corrected row, a change pending, starts with and without deferred rows, work shed. -/
theorem wit_dram_1 : let d := dv fun d => { (d.setRegF (Reg.MC_STATUS 1) 2 0 2) with dram := [(1, { DramCh.reset with gib := 16, softRes := 1, ce := [(⟨0, 0, 0, 0, 0, 0, 5#17⟩, 0, 0)] })] }; d.mcState 1 = 2 ∧ d.chLines 1 ≠ 0 ∧ ((d.ch 1).ce.find? fun (e : RowAddr × Nat × Nat) => e.1 == ⟨0, 0, 0, 0, 0, 0, 5#17⟩) = some (⟨0, 0, 0, 0, 0, 0, 5#17⟩, 0, 0) ∧ (d.ch 1).soft.contains ⟨0, 0, 0, 0, 0, 0, 5#17⟩ = false ∧ (d.ch 1).deferred = [] ∧ (((d.ch 1).soft.filter (sameGroup ⟨0, 0, 0, 0, 0, 0, 5#17⟩)).length < (d.ch 1).softRes) := by decide +kernel
/-- As wit_dram_1. -/
theorem wit_dram_2 : let d := dv fun d => (d.setRegF (Reg.MC_STATUS 1) 2 0 2).setRegF (Reg.MC_MARK 1) 31 0 0xFFFFFFFF; d.marked 1 ⟨0, 0, 0, 0, 0, 0, 5#17⟩ ≠ 0 ∧
    (d.ch 1).softRes ≤ 0 := by decide +kernel
/-- As wit_dram_1. -/
theorem wit_dram_3 : let d := dv fun d => (d.setRegF (Reg.MC_STATUS 1) 2 0 2).setRegF (Reg.MC_TRAIN_STATUS 1) 0 0 1; d.mcState 1 = 2 ∧
    d.regF (Reg.MC_TRAIN_STATUS 1) 0 0 = 1 ∧ mget false (d.ch 1).applied 0 = false := by decide +kernel
/-- As wit_dram_1. -/
theorem wit_dram_4 : let d := dv fun d => d.setRegF (Reg.MC_STATUS 1) 2 0 2; d.regF (Reg.MC_TRAIN_STATUS 1) 0 0 = 0 ∧ d.safe = false ∧ d.shed < 4 := by decide +kernel
/-- As wit_dram_1. -/
theorem wit_dram_5 : let d := dv fun d => { d with boot := { d.boot with kind := 1 } }; d.boot.kind ≠ 0 ∧ d.boot.image = false ∧ d.boot.dram = false ∧
    (d.ch 1).deferred = [] ∧ (d.ch 1).soft = [] := by decide +kernel
/-- As wit_dram_1. -/
theorem wit_dram_6 : let d := dv fun d => d.setRegF Reg.DST_STATUS 10 8 4; 4 ≤ d.shed ∧ (d.ch 1).shed = false := by decide +kernel

/-- A bundle's result of the tests: endpoint bundle 1 with its link up, its PF's memory space on, its function as given. -/
def epD (k : Nat) (f : Fn) (x : Bundle) : Dev := dv fun d => { d with fns := [(k, f)], bundles := [(1, { x with l0 := true, cfg := [(4, 6#32), (0x170, 8#32)] })] }

/-- BundleLinksComplete: a link that may train, writes of Distaff, a root port in UP and one in DOWN, an endpoint. -/
theorem wit_bundles_1 : (dv id).mayTrain 1 = true ∧ (dv fun d => { d with dom := [(400, ⟨.run, false, .run, 0, false, none⟩)] }).mayTrain 0 = true ∧
    (dv id).pceWrites .distaff 0 = true ∧ (dv id).bundleMode 0 = 1 ∧ (dv id).bundleMode 1 = 2 ∧ (dv id).safe = false := by decide +kernel
/-- As wit_bundles_1. -/
theorem wit_bundles_2 : ((dv id).bun 1).perst = false ∧ (epD 2048 fnOn Bundle.reset).bundleMode 1 = 2 ∧ ((epD 2048 fnOn Bundle.reset).bun 1).l0 = true ∧
    ((dv id).bun 1).retired = false := by decide +kernel
/-- As wit_bundles_1. -/
theorem wit_bundles_3 : let d := dv fun d => { (d.setRegF (Reg.PCE_STATUS 0) 2 0 1) with bundles := [(0, { Bundle.reset with l0 := true })] }; (d.bun 0).l0 = true ∧
    d.pceState 0 = 1 ∧ (d.bun 0).retired = false ∧ d.pceState 0 < 2 := by decide +kernel
/-- As wit_bundles_1. -/
theorem wit_bundles_4 : let d := dv fun d => { (d.setRegF (Reg.PCE_STATUS 0) 2 0 2) with bundles := [(0, { Bundle.reset with l0 := true })] }; (d.bun 0).l0 = true ∧
    d.pceState 0 ≠ 1 := by decide +kernel

/-- FunctionsComplete: a function present, one in reset, VFs to enable and enabled, a VF to create, to destroy and to show. -/
theorem wit_functions_1 : let d := epD (fnKey 1 0) fnOn Bundle.reset; d.fnPresent (fnKey 1 0) = true ∧ (d.fn (fnKey 1 0)).flr = false ∧ (d.bun 1).vfEnable = false ∧
    4 ≤ d.totalVfs 1 ∧ d.barOpen (fnKey 1 0) = true ∧ (d.bun 1).busyOp = none := by decide +kernel
/-- As wit_functions_1. -/
theorem wit_functions_2 : ((epD (fnKey 1 0) { fnOn with flr := true } Bundle.reset).fn (fnKey 1 0)).flr = true ∧
    (∀ e ∈ (dv id).bq.ctx, e.2.flush = false) := by decide +kernel
/-- As wit_functions_1. -/
theorem wit_functions_3 : ((epD (fnKey 1 0) fnOn { Bundle.reset with vfEnable := true }).bun 1).vfEnable = true := by decide +kernel
/-- As wit_functions_1. -/
theorem wit_functions_4 : let d := ((((dv fun d => { d with img := { d.img with img := some { image0 with skeins := [{ skein0 with tune := ⟨0, 0, 0, 0, 0, 16, 128, 64⟩ }] } }, fns := [(fnKey 1 1, { Fn.reset with vst := .empty })], bundles := [(1, { Bundle.reset with l0 := true, vfEnable := true, numVfs := 4, cfg := [(4, 6#32)] })] }).setMgrF 1 0 11 8 1).setMgrF 1 8 20 0 16).setMgrF 1 0xC 27 16 4).setMgrF 1 0xC 10 0 8; field (d.mgr 1 0) 25 16 = 0 ∧ (d.fn (fnKey 1 1)).vst = .empty ∧ (d.updBun 1 fun x => { x with lastVf := some 0 }).createFails (fnKey 1 1) 1 = none ∧ d.barOpen (fnKey 1 0) = true := by decide +kernel
/-- As wit_functions_1. -/
theorem wit_functions_5 : ((epD (fnKey 1 1) fnOn Bundle.reset).fn (fnKey 1 1)).vst = .ready := by decide +kernel

/-- FunctionControlAndMailboxes: vectors of an open function, an endpoint in D3hot with an item to drain, mailboxes, the device's message, the dirty log. -/
theorem wit_function_control_1 : let d := epD (fnKey 1 1) fnOn Bundle.reset; d.barOpen (fnKey 1 1) = true ∧ 3 < (d.fn (fnKey 1 1)).nvec ∧
    d.fnPresent (fnKey 1 1) = true ∧ d.mbxOpen (fnKey 1 1) = true ∧ d.barOpen (fnKey 1 0) = true := by decide +kernel
/-- As wit_function_control_1. -/
theorem wit_function_control_2 : (∀ e ∈ (dv id).fns, e.1 / 2048 ≠ 1) ∧ (dv id).fnPresent (fnKey 1 0) = true := by decide +kernel
/-- As wit_function_control_1. -/
theorem wit_function_control_3 : let d := { (dmaDev 1 { chan0 with drainEn := true, drainQa := 5 }).dev with bundles := [(1, { Bundle.reset with l0 := true, pmeEn := true, d3hot := true })], bq := { Bq.reset with ctx := [(5, queue0 [item0])] } }; d.bundleMode 1 = 2 ∧ (d.bun 1).pmeEn = true ∧ (d.bun 1).d3hot = true ∧ d.drainWaits 1 = true := by decide +kernel
/-- As wit_function_control_1. -/
theorem wit_function_control_4 : let d := (epD (fnKey 1 1) { fnOn with toDev := [0#32] } Bundle.reset).setBar (fnKey 1 1) 0x8000 0x80#32;
    bit (d.bar (fnKey 1 1) 0x8080) 2 = false ∧ bit (d.bar (fnKey 1 1) 0x8000) 7 = true ∧ (d.fn (fnKey 1 1)).toDev = 0#32 :: [] ∧
    bit (d.bar (fnKey 1 1) 0x8080) 3 = false := by decide +kernel
/-- As wit_function_control_1. -/
theorem wit_function_control_5 : let d := (epD (fnKey 1 1) fnOn Bundle.reset).setBar (fnKey 1 1) 0x8080 8#32; d.mbxOpen (fnKey 1 1) = true ∧
    bit (d.bar (fnKey 1 1) 0x8080) 3 = true ∧ bit (d.bar (fnKey 1 1) 0x9480) 2 = false := by decide +kernel
/-- As wit_function_control_1. -/
theorem wit_function_control_6 : let d := (epD (fnKey 1 1) fnOn Bundle.reset).setBar (fnKey 1 1) 0x9480 8#32; field (d.mgr 1 0x1C) 9 0 = 0 ∧
    (d.fn (fnKey 1 1)).vst = .ready ∧ bit (d.bar (fnKey 1 1) 0x9480) 3 = true ∧ bit (d.bar (fnKey 1 1) 0x8080) 2 = false ∧
    bit (d.bar (fnKey 1 1) 0x9480) 2 = false := by decide +kernel
/-- As wit_function_control_1. -/
theorem wit_function_control_7 : let d := (epD (fnKey 1 0) fnOn Bundle.reset).setBar (fnKey 1 1) 0x951C 0x80000000#32; d.barOpen (fnKey 1 0) = true ∧
    bit (d.bar (fnKey 1 1) 0x9520) 8 = false ∧ bit (d.bar (fnKey 1 1) 0x951C) 31 = true := by decide +kernel
/-- As wit_function_control_1. -/
theorem wit_function_control_8 : let d := (epD (fnKey 1 0) fnOn Bundle.reset).setBar (fnKey 1 1) 0x9520 0x100#32; bit (d.bar (fnKey 1 1) 0x9520) 8 = true ∧
    d.fnOpen (fnKey 1 0) = true := by decide +kernel

/-- A device of the tests that Distaff's firmware serves: an installer's session of Almanac, debug open for skein 0. -/
def dstOn (f : Dev → Dev) : Dev :=
  f ((dv fun d => { d with
    pwr := { d.pwr with pwrok := true }
    dst := { d.dst with fwRun := some 1, sessions := [⟨1, 0, 1, 0, 0xF, false, 0, 0⟩] }
    img := { d.img with img := some { image0 with dbgBytes := [0xF], roles := [⟨1, 0, 0xF⟩] } } }).setRegF Reg.DST_STATUS 1 0 1)

/-- Whether a device admits a command from Almanac. -/
def adm (d : Dev) (c : Cmd) (may : Option Session → Bool) : Bool :=
  d.takes .almanac c.code && decide (d.cmdFails .almanac c true may = none) && decide (d.shed < 4)

/-- DistaffReadsComplete: each command that reads is admitted, the log is empty or chained, LCN 0 in service. -/
theorem wit_distaff_reads_1 : let d := dstOn id; adm d (openCmd 1) anyRole = true ∧ adm d (openCmd 2) anyRole = true ∧
    adm d ⟨3, true, false, false, true, true⟩ anyRole = true ∧ adm d ⟨0x10, false, false, false, false, true⟩ (right 2) = true := by decide +kernel
/-- As wit_distaff_reads_1. -/
theorem wit_distaff_reads_2 : let d := dstOn id; adm d ⟨0x30, false, false, false, false, true⟩ anyRole = true ∧ (d.sessionUsed .almanac).dbgThere 0 = true ∧
    adm d ⟨0x65, false, false, false, false, false⟩ (fun s => installer s && d.nonInvasive 0 (d.core 0).level) = true := by decide +kernel
/-- As wit_distaff_reads_1. -/
theorem wit_distaff_reads_3 : let d := dstOn id; d.dst.flash ++ d.dst.ring = [] := by decide +kernel

/-- SessionsComplete: a credential to open, a challenge that stands, a session, a lock, a line rate, a doorbell, a load of 60 and one of 71. -/
theorem wit_sessions_1 : let d := dstOn id; adm d (openCmd 4) anyRole = true ∧ d.credential 1 0 = some ⟨1, 0, 0xF⟩ ∧ (d.cred (d.credKey 1 0)).lockedUntil ≤ d.now ∧
    adm d ⟨6, false, false, true, true, true⟩ anyRole = true ∧ adm d (openCmd 0x70) anyRole = true ∧ callerLine .almanac = 0 ∧ baudOk 9600 = true ∧
    baudOk 3000000 = true := by decide +kernel
/-- As wit_sessions_1. -/
theorem wit_sessions_2 : let d := dstOn fun d => { d with dst := { d.dst with challenges := [⟨0, 1, 0, 0⟩] } }; adm d (openCmd 5) anyRole = true ∧
    (d.dst.challenges.find? fun c => c.line == 0) = some ⟨0, 1, 0, 0⟩ ∧ d.credential 1 0 = some ⟨1, 0, 0xF⟩ ∧ d.now ≤ 30000000000 ∧
    (d.dst.sessions.filter fun s => decide (1 ≤ s.line) && decide (s.line ≤ 256)).length < 7 := by decide +kernel
/-- As wit_sessions_1. -/
theorem wit_sessions_3 : ((dstOn id).dst.sessions.find? fun s => s.id == 1) = some ⟨1, 0, 1, 0, 0xF, false, 0, 0⟩ ∧ (dstOn id).distaffUp = true := by decide +kernel
/-- As wit_sessions_1. -/
theorem wit_sessions_4 : ((dstOn fun d => { d with dst := { d.dst with creds := [(256, ⟨5, 100⟩)] } }).cred 256).lockedUntil ≠ 0 := by decide +kernel
/-- As wit_sessions_1. -/
theorem wit_sessions_5 : let d := dstOn id; d.regF (Reg.DST_MBX_CTL 15) 17 16 ≠ 1 ∧ 8 ≤ field 256#32 8 0 ∧ field 256#32 8 0 ≤ 256 := by decide +kernel
/-- As wit_sessions_1. -/
theorem wit_sessions_6 : 50 ≤ 50 ∧ 70 ≤ 70 ∧ 70 < 71 := by decide +kernel

/-- The same device with a transfer of a kind open on Almanac's line. -/
def dstXfer (kind : Nat) : Dev := dstOn fun d => { d with dst := { d.dst with transfers := [⟨0, kind, 2048, []⟩], fw := [(0, ⟨false, 0, 2048, []⟩)] } }

/-- DistaffWritesComplete: a transfer to open, bytes of an image and of firmware at their bounds, firmware to stage. -/
theorem wit_transfers_1 : let d := dstOn id; adm d ⟨7, false, false, true, false, true⟩ anyRole = true ∧ 1 < 2 ∧ 0x10000 ≤ 0x10000 ∧
    0x400000 ≤ 0x400000 := by decide +kernel
/-- As wit_transfers_1. -/
theorem wit_transfers_2 : ((dstXfer 0).sessionUsed .almanac).transferOf .almanac = some ⟨0, 0, 2048, []⟩ ∧ (List.replicate 1024 0#8).length ≤ 1024 ∧
    1024 + (List.replicate 1024 0#8).length ≤ 2048 ∧ adm (dstXfer 0) ⟨7, false, false, true, false, true⟩ anyRole = true := by decide +kernel
/-- As wit_transfers_1. -/
theorem wit_transfers_3 : ((dstXfer 2).sessionUsed .almanac).transferOf .almanac = some ⟨0, 2, 2048, []⟩ ∧
    adm (dstXfer 2) ⟨0x50, false, false, true, false, true⟩ installer = true ∧ (dstXfer 2).dst.fwFloor ≤ 1 := by decide +kernel

/-- DistaffWritesComplete: a slot to enroll and to revoke, a floor, reels of LCN 0, a halted and a running LCN, a register to write. -/
theorem wit_fuses_debug_1 : let d := dstOn id; let b := List.replicate 88 0#8; 3 ≤ 3 ∧ leAt b 0 8 = d.dst.serial ∧
    (mget FuseSlot.blank d.dst.slots 3).written = false ∧ (mget FuseSlot.blank d.dst.slots 3).revoked = false ∧
    adm d ⟨8, true, false, false, false, false⟩ anyRole = true ∧ adm d ⟨9, true, false, false, false, false⟩ anyRole = true ∧ adm d (runCmd 0x24) installer = true ∧
    d.img.img.isSome = true ∧ (d.dst.flash ++ d.dst.ring).length ≤ 524288 := by decide +kernel
/-- As wit_fuses_debug_1. -/
theorem wit_fuses_debug_2 : let d := dstOn id; d.safe = false ∧ (d.skeinOf 0).isSome ∧ mget false d.lost 0 = false ∧ (d.core 0).released = true ∧
    (d.domOf 0).st = .run ∧ (d.domOf 0).transit = false ∧ mget false d.reeling 0 = false ∧ ((d.sessionUsed .almanac).chooseSpare 0).isSome ∧
    adm d ⟨0x31, false, false, false, false, true⟩ (right 3) = true ∧ adm d ⟨0x32, false, false, false, false, true⟩ (right 3) = true ∧
    adm d ⟨0x33, false, false, false, false, true⟩ installer = true := by decide +kernel
/-- As wit_fuses_debug_1. -/
theorem wit_fuses_debug_3 : let d := dstOn id; let i := fun s => installer s && d.invasive 0 (d.core 0).level.secure; (d.sessionUsed .almanac).dbgThere 0 = true ∧
    (d.core 0).wait = .none ∧ adm d ⟨0x60, false, false, false, false, false⟩ i = true ∧ d.safe = false ∧ adm d ⟨0x63, false, false, false, false, true⟩ i = true ∧
    (d.core 0).dbgPut 5 [7#8] = some { d.core 0 with g := mset 0#64 (d.core 0).g 5 7#64 } := by decide +kernel
/-- As wit_fuses_debug_1. -/
theorem wit_fuses_debug_4 : let d := dstOn fun d => d.updCore 0 fun c => { c with halted := true };
    let i := fun s => installer s && d.invasive 0 (d.core 0).level.secure; (d.sessionUsed .almanac).dbgThere 0 = true ∧ (d.core 0).halted = true ∧
    adm d ⟨0x61, false, false, false, false, false⟩ i = true ∧ adm d ⟨0x62, false, false, false, false, false⟩ i = true := by decide +kernel

/-- ImagesComplete: an image to read, pending deltas of each kind, a start that may apply, a pair not used up. -/
theorem wit_image_unit_1 : let d := dstOn id; d.img.unit = .committed ∧ adm d ⟨0x20, false, false, false, false, true⟩ anyRole = true ∧
    adm d ⟨0x21, false, false, true, false, true⟩ installer = true ∧ adm d ⟨0x22, false, false, true, false, true⟩ installer = true ∧
    adm d ⟨0x23, false, false, false, false, false⟩ anyRole = true ∧ d.rel.pairUsed = false := by decide +kernel
/-- As wit_image_unit_1. -/
theorem wit_image_unit_2 : let p : PendingDelta := ⟨[], 1, 1, 0, false, false, [], .almanac, false⟩;
    (dstOn fun d => { d with img := { d.img with pending := some p } }).img.pending = some p ∧ p.vol = false ∧ p.committed = false := by decide +kernel
/-- As wit_image_unit_1. -/
theorem wit_image_unit_3 : let p : PendingDelta := ⟨[], 1, 1, 0, true, false, [], .almanac, false⟩;
    (dstOn fun d => { d with img := { d.img with pending := some p } }).img.pending = some p ∧ p.vol = true := by decide +kernel
/-- As wit_image_unit_1. -/
theorem wit_image_unit_4 : (dstOn fun d => { d with boot := { d.boot with kind := 1, image := false, links := true, dram := true } }).mayApply = true := by decide +kernel
/-- As wit_image_unit_1. -/
theorem wit_image_unit_5 : let j : ImgJob := ⟨.almanac, 0x22, .ok, some (true, ⟨[], 1, .new, false, []⟩)⟩;
    (dstOn fun d => { d with img := { d.img with job := some j } }).img.job = some j ∧ (dstOn id).safe = false ∧ (dstOn id).img.job = none ∧
    (dstOn id).img.pending = none := by decide +kernel

/-- PackagePowerComplete: PWROK low and high, rails off, a package whose LCNs are all OFF, a request of Distaff, a reference lost. -/
theorem wit_package_power_1 : Dev.reset.pwr.pwrok = false ∧ Dev.reset.pwr.railOff = false ∧ Dev.reset.pwr.thaw = false := by decide +kernel
/-- As wit_package_power_1. -/
theorem wit_package_power_2 : (dstOn id).pwr.pwrok = true ∧ (dstOn id).pwr.railOff = false ∧
    (dstOn fun d => { d with pwr := { d.pwr with railOff := true } }).pwr.railOff = true := by decide +kernel
/-- As wit_package_power_1. -/
theorem wit_package_power_3 : let d := dstOn fun d => { d with dom := [(0, ⟨.off, false, .run, 0, false, none⟩), (1, ⟨.off, false, .run, 0, false, none⟩)] };
    d.mayRequest .dst 4 0 = true ∧ d.safe = false ∧ d.allOff = true ∧ d.offBusy = false ∧ d.powerAllows 0xFF .off = true ∧
    ((d.sessionUsed .almanac).pwrPackage .dst 0 4).2 = some .ok ∧ adm d (runCmd 0x40) (right 0) = true := by decide +kernel
/-- As wit_package_power_1. -/
theorem wit_package_power_4 : let d := dstOn fun d => { d with dom := d.dom ++ [(384, ⟨.run, false, .run, 0, false, none⟩)] };
    let r := (d.sessionUsed .almanac).pwrReq .dst 2 0 2; r.2 = some .ok ∧ (r.1.answerTo .almanac 1 0x40 .ok none [] []).pwr.railOff = false ∧
    adm d (runCmd 0x40) (right 0) = true := by decide +kernel
/-- As wit_package_power_1. -/
theorem wit_package_power_5 : let d := dstOn fun d => { d with dom := [(0, ⟨.off, false, .run, 0, false, none⟩), (1, ⟨.off, false, .run, 0, false, none⟩)] };
    let u := d.sessionUsed .almanac; ({ u with pwr := { u.pwr with railOff := true } }.answerTo .almanac 1 0x40 .ok none [] []).pwr.railOff = true := by decide +kernel
/-- As wit_package_power_1. -/
theorem wit_package_power_6 : Dev.reset.pwr.ref25Lost = false ∧ Dev.reset.distaffUp = false ∧ (dstOn id).distaffUp = true ∧ (dstOn id).safe = false := by decide +kernel

/-- ResetsComplete: a skein to release, resets of each scope that are due, resets to order, watchdogs. -/
theorem wit_resets_1 : let d := dstOn fun d => { d with boot := { d.boot with kind := 1, links := true, dram := true, image := true, toRelease := [0] } };
    (d.skeinCfg 0).isSome ∧ d.boot.kind ≠ 0 ∧ d.safe = false ∧ d.boot.links = true ∧ d.boot.dram = true ∧ d.boot.image = true ∧ 0 ∈ d.boot.toRelease := by decide +kernel
/-- As wit_resets_1. -/
theorem wit_resets_2 : let d := dstOn fun d => { d with boot := { d.boot with resets := [(1, 0), (0, 0), (2, 0)] } }; d.skeinCfg 0 = some skein0 ∧
    d.cfgOf 0 = some skein0 ∧ (1, 0) ∈ d.boot.resets ∧ (0, 0) ∈ d.boot.resets ∧ (2, 0) ∈ d.boot.resets ∧ d.reelsDone skein0 = true ∧ d.safe = false := by decide +kernel
/-- As wit_resets_1. -/
theorem wit_resets_3 : let d := dstOn id; adm d ⟨0x41, false, false, true, false, true⟩ (right 0) = true ∧ (0, 0) ∉ d.boot.resets ∧ d.resetSkein 1 0 = some skein0 ∧
    d.resetSkein 2 1 = some skein0 ∧ adm d ⟨0x41, mayReset .almanac skein0 none, mayReset .almanac skein0 none, false, false, true⟩ (mayReset .almanac skein0) = true ∧ mget false d.lost 1 = false ∧ (∀ x ∈ d.boot.resets, ¬ (x.1 = 1 ∧ x.2 = 0) ∧ ¬ (x.1 = 2 ∧ skein0.lcnMask.testBit x.2 = true)) := by decide +kernel
/-- As wit_resets_1. -/
theorem wit_resets_4 : let d := dstOn fun d => d.updWd 0 fun w => { w with sDeadline := some 5, en := true }; (d.wd 0).sDeadline = some 5 ∧ d.hasNdog 0 = true ∧
    (d.wd 0).en = true ∧ (d.wd 0).warned = false ∧ d.safe = false := by decide +kernel
/-- As wit_resets_1. -/
theorem wit_resets_5 : let d := dstOn fun d => { (d.updWd 0 fun w => { w with en := true, warned := true }) with boot := { d.boot with swdogDue := some 9 } };
    (d.wd 0).warned = true ∧ d.hasNdog 0 = true ∧ d.boot.swdogDue = some 9 ∧ (1, 0) ∉ d.boot.resets := by decide +kernel

/-- A device of the tests whose root port on bundle 0 is UP and whose IOTU holds a stream and a page of it. -/
def ioDev (f : Dev → Dev) : Dev :=
  f ((((dv fun d => { d with
    iotu := { d.iotu with
      streams := [(ioKey 0 5, ⟨1#64, [(0, some (7#64, 0xFFFFFFFF0000#64))]⟩)]
      tlb := [(ioKey 0 5, ⟨none, 0x2000, 12, 0x118D#64, 0⟩)] } }).updBun 0 fun b => { b with l0 := true }).setRegF (Reg.PCE_STATUS 0) 2 0 1).setRegF (Reg.MMU_IO_CFG 0) 31 31 1)

/-- IotuComplete: a root port in UP with its IOTU off and on, a request that translates, one that faults, one that is not implemented, commands. -/
theorem wit_iotu_1 : let d := ioDev id; d.bundleMode 0 = 1 ∧ d.safe = false ∧ (d.bun 0).l0 = true ∧ d.pceState 0 = 1 ∧ d.ioOn 0 = true ∧
    (ioDev fun d => d.setRegF (Reg.MMU_IO_CFG 0) 31 31 0).ioOn 0 = false := by decide +kernel
/-- As wit_iotu_1. -/
theorem wit_iotu_2 : (match ((ioDev id).ioTranslate 0 5 0x2010#64 true 4).2 with | .ok x => x.1 == 0x1010 && leafType x.2.leaf == .wb | .error _ => false) = true := by decide +kernel
/-- As wit_iotu_1. -/
theorem wit_iotu_3 : (match ((ioDev id).ioTranslate 0 5 0x5000000000000#64 false 4).2 with | .error f => decide (f = .fault 0x0B 1) | .ok _ => false) = true := by decide +kernel
/-- As wit_iotu_1. -/
theorem wit_iotu_4 : 1 < (2 : Fin 6).val ∧ (1 : Fin 6).val ≤ 1 ∧ (ioDev id).ioWrites .distaff 0 = true ∧ (ioDev id).ioWrites (.core 0) 0 = true ∧
    (ioDev id).regF (Reg.MMU_IO_INV_STATUS 0) 8 8 = 0 ∧ (ioDev fun d => d.setRegF (Reg.MMU_IO_INV_STATUS 0) 8 8 1).regF (Reg.MMU_IO_INV_STATUS 0) 8 8 = 1 := by decide +kernel
/-- As wit_iotu_1. -/
theorem wit_iotu_5 : let w (i : Bool) : HubAccess := { agent := 17, bd := 0, rid := 5, pa := 0, write := false, len := 4, data := [], ep := false, relaxed := false, mt := .wb, bus := none, leaf := 0, inv := i }; (∀ i, ((ioDev fun d => { d with links := { d.links with waitHome := [w i] } }).hubWaiting.any fun z => z.inv && z.bd == 0) = i) ∧ (ioDev id).hubBlocked (w false) = false ∧ ((ioDev id).hubTry { w false with pa := 0x1010 }).2 = .done .ok (List.replicate 4 0#8) := by decide +kernel

/-- The register row at an address, where an aligned word reaches it. -/
def rowAt (a : Nat) (p : RegDef → List Nat → Bool) : Bool :=
  match findReg a, ctlPlace a 4 with
  | some (r, i), .reg r' i' => r == r' && i == i' && p r i
  | _, _ => false

/-- RegistersComplete: whole registers that act and that a requester may or may not read, and a pair. -/
theorem wit_registers_1 : (∀ a ∈ [Reg.IRQ_DOORBELL, Reg.IRQ_ROUTE 0, Reg.IRQ_ROUTE 4095, Reg.TRC_CTL, Reg.PMU_SK_SNAP 0, Reg.PMU_SK_SNAP 15], rowAt a (fun r i => r.half == .whole && (dv id).mayRead .distaff r.vis i && (dv id).mayWrite .distaff r i && !meshWait r) = true) := by decide +kernel
/-- As wit_registers_1. -/
theorem wit_registers_2 : (dv id).secRefused .distaff Reg.TRC_CTL = false ∧ (dv id).secRefused (.core 0) Reg.TRC_CTL = false := by decide +kernel
/-- As wit_registers_1. -/
theorem wit_registers_3 : rowAt Reg.DST_STATUS (fun r i => r.half == .whole && !(st { core0 with level := .u } id).dev.mayRead (.core 5) r.vis i) = true := by decide +kernel
/-- As wit_registers_1. -/
theorem wit_registers_4 : (∀ a ∈ [Reg.MMU_IO_STB_LO 0, Reg.MMU_IO_STB_LO 7], rowAt a (fun r i => r.half == .lo && (dv id).mayRead .distaff r.vis i) = true ∧
    rowAt (a + 4) (fun r _ => r.half == .hi) = true) := by decide +kernel
/-- As wit_registers_1. -/
theorem wit_registers_5 : let a := Reg.PMU_SK_BQ_POST_LO 0; rowAt a (fun r i => r.half == .lo && (dv id).mayWrite .distaff r i && r.vis != .iotu) = true ∧
    rowAt (a + 4) (fun r i => r.half == .hi && (dv id).mayWrite .distaff r i && r.vis != .iotu) = true ∧
    mget none { (dv id) with heldLo := [(a, some 7#32)] }.heldLo a = some 7#32 ∧ 4 ≤ a + 4 := by decide +kernel
/-- As wit_registers_1. -/
theorem wit_registers_6 : rowAt Reg.HNK_HOLD (fun r i => r.half == .whole && (dv id).mayWrite .distaff r i && mcInRange r.base 5#32) = true ∧
    Reg.HNK_HOLD ∉ [Reg.IRQ_DOORBELL, Reg.IRQ_ROUTE 0, Reg.TRC_CTL, Reg.PMU_SK_SNAP 0, Reg.CCH_L3_PD_CMD 0, Reg.CCH_HC_PD_CMD, Reg.D2D_GST_CMD 0, Reg.MC_CMD 0, Reg.PCE_CMD 0, Reg.HNK_PORT_CMD 0, Reg.PWR_REQ, Reg.DST_MBX_CTL 0, Reg.MMU_IO_INV_CMD 0, Reg.MMU_IO_CFG 0, Reg.MMU_IO_FAULT_INFO 0, Reg.PCE_RP_ROUTE 0, Reg.RL_SK_NOTICE 0] := by decide +kernel
/-- As wit_registers_1. -/
theorem wit_registers_7 : let d := dv id; let a := 0xF00FF00000000; ctlPlace a 4 = .dead ∧
    (∀ q ∈ [Requester.distaff, .core 0], d.siteIsolated (d.dieOf q) (bitsN a 39 32) = false) ∧ (d.core 0).released = true ∧
    ctlPlace (Reg.TB_STATUS + 2) 4 = .badAccess := by decide +kernel
/-- As wit_registers_1. -/
theorem wit_registers_8 : let d := (dmaDev 1 chan0).dev; d.safe = false ∧ d.barOpen (fnKey 1 0) = true ∧ d.fnPresent (fnKey 1 0) = true ∧
    rowAt Reg.HNK_HOLD (fun r i => !(dv id).mayWrite (.core 0) r i) = true := by decide +kernel

/-- A device of the tests whose core 0 has a DEVICE request outstanding. -/
def devReqDev (r : DevReq) : Dev := (st { core0 with devOut := [r] } id).dev

/-- DeviceRequestsComplete: a request to a register that is answered, one answered already, one at a root port; windows of Distaff. -/
theorem wit_device_requests_1 : let r : DevReq := ⟨1, Reg.TB_STATUS, 4, false, 0, .device, .k, 0, false, none, false⟩; let d := devReqDev r;
    (d.core 0).devOut = [r] ∧ (((d.updCore 0 fun c => { c with level := .k }).devAccess 0 r).2 = .done .ok (d.reg Reg.TB_STATUS).toNat) ∧
    (d.core 0).devReq 1 = some r ∧ (d.core 0).earlier r (fun z => z.answer.isNone && !z.sent) = false ∧ (d.core 0).earlier r (fun _ => true) = false := by decide +kernel
/-- As wit_device_requests_1. -/
theorem wit_device_requests_2 : let r : DevReq := ⟨1, Reg.TB_STATUS, 4, false, 0, .device, .k, 0, false, some (.ok, 3), false⟩;
    ((devReqDev r).core 0).devOut = [r] ∧ r.answer = some (.ok, 3) := by decide +kernel
/-- As wit_device_requests_1. -/
theorem wit_device_requests_3 : let r : DevReq := ⟨1, 0x900000000000, 4, true, 0, .device, .k, 0, true, none, false⟩; ((devReqDev r).core 0).devOut = [r] ∧
    r.answer = none ∧ r.sent = true := by decide +kernel
/-- As wit_device_requests_1. -/
theorem wit_device_requests_4 : let d := dstOn id; let x := winAccess false 0x1000 [0#8, 0#8]; d.hubBlocked x = false ∧
    (d.winTry x).2 = .done .ok [0#8, 0#8] := by decide +kernel
/-- As wit_device_requests_1. -/
theorem wit_device_requests_5 : let d := at0 id; d.dev.skeinOf 0 = some 0 ∧ d.dev.secureSkein 0 = true ∧ d.dev.skeinOf 0 ≠ some 1 := by decide +kernel
/-- As wit_device_requests_1. -/
theorem wit_device_requests_6 : let d := dstOn id; adm d ⟨0x64, false, false, false, false, true⟩ (fun x => installer x && d.memInvasive 0x1000) = true ∧
    d.safe = false ∧ 1032 ≤ 1032 ∧ let y := winAccess true 0x1000 [1#8]; (d.sessionUsed .almanac).hubBlocked y = false ∧
    ((d.sessionUsed .almanac).winTry y).2 = .done .ok [] := by decide +kernel

/-- StepTakesTheFront, QueueIsWorkedOff, MemoryStaysCanonical: reset with nothing waiting, and with a command in front. -/
theorem wit_step_1 : State.reset.pending = [] ∧ State.reset.queueOk = true ∧ State.reset.dev.mem.wf = true ∧
    ({ State.reset with pending := [.vaonLoss] } : State).queueOk = true := by decide +kernel
/-- As wit_step_1. -/
theorem wit_step_2 : step State.reset = .next { State.reset with dev := State.reset.dev.idleTick } := rfl
/-- As wit_step_1. -/
theorem wit_step_3 : step { State.reset with pending := [.vaonLoss] } = exec .vaonLoss State.reset := rfl

/-- AccessCodes and OnlyAlignedWordsReachControlSpace: a row of the table, its first field, an address of control space, aligned and not. -/
theorem wit_device_space_1 : regDefs.length ≠ 0 ∧ (∀ r ∈ regDefs.take 1, r.fields ≠ []) := by decide +kernel
/-- As wit_device_space_1. -/
theorem wit_device_space_2 : let a := Reg.TB_STATUS; placeOf a = .control ∧ placeOf (a + 2) = .control ∧ (a + 2) % 4 ≠ 0 ∧ bitsN a 47 40 = 0 ∧
    blockAssigned (bitsN a 39 32) (bitsN a 31 20) = true ∧ (dv id).siteIsolated none (bitsN a 39 32) = false ∧ (dv id).secRefused .distaff a = false := by decide +kernel

/-- CommandsThatStoreNothing and CommandsThatLeaveCores: a command of each, and the state that it gives. -/
theorem wit_uncore_commands : ∃ t, storesNothing .vaonLoss = true ∧ leavesCores .vaonLoss = true ∧ exec .vaonLoss (st core0 id) = .next t := ⟨_, rfl, rfl, rfl⟩

/-- An entry of SITE (02 R43): site, strap and die type. -/
def siteBytes (site kind : Nat) : List (BitVec 8) :=
  [BitVec.ofNat 8 site, BitVec.ofNat 8 (if site < 16 then Config.strap site else 0), 0#8, 0#8, BitVec.ofNat 8 kind, 0#8, 0#8, 0#8,
    0#8, 0#8, 0#8, 0#8, 0#8, 0#8, 0#8, 0#8]

/-- A skein entry of the tests (02 R47): skein 0 without cores, 1 GiB, channel 0 its own. -/
def smallSkein : List (BitVec 8) :=
  [[0#8, 0#8, 1#8], List.replicate 55 0#8, [1#8], List.replicate 65 0#8, [1#8], List.replicate 131 0#8].flatten

/-- The sections of a small image, in the order of their types (02 R43 to R54): that skein; the package may run; one installer. -/
def smallSections : List (List (BitVec 8)) :=
  [((List.range 16).map (siteBytes · 1) ++ [siteBytes 0x10 2, siteBytes 0x11 3, siteBytes 0x18 0, siteBytes 0x19 0]).flatten,
    [List.replicate 5 0#8, List.replicate 15 0xFF#8, List.replicate 4 0#8].flatten,
    [List.replicate 768 0xFF#8, List.replicate 8 0#8, smallSkein].flatten,
    [], [0xFF#8, 1#8, 0x90#8, 1#8, 0#8, 0#8, 0#8, 0#8], [List.replicate 4 0#8, [0xE8#8, 3#8], List.replicate 154 0#8].flatten,
    [[1#8, 0#8, 0xF#8], List.replicate 45 0#8].flatten,
    [[5#8, 0#8, 0xB5#8, 0x88#8, 2#8], List.replicate 11 0#8, (List.replicate 8 [0#8, 0xFF#8, 0#8, 0#8]).flatten].flatten]

/-- The directory (02 R41). -/
def smallDir : List (BitVec 8) :=
  [[1#8, 1#8, 40#8, 0#8, 0x80#8, 0#8, 0#8, 0#8], [2#8, 1#8, 3#8, 0#8, 0xC0#8, 1#8, 0#8, 0#8], [3#8, 1#8, 129#8, 0#8, 0xD8#8, 1#8, 0#8, 0#8], [4#8, 1#8, 0#8, 0#8, 0xE0#8, 5#8, 0#8, 0#8],
    [5#8, 1#8, 1#8, 0#8, 0xE0#8, 5#8, 0#8, 0#8], [6#8, 1#8, 20#8, 0#8, 0xE8#8, 5#8, 0#8, 0#8], [7#8, 1#8, 6#8, 0#8, 0x88#8, 6#8, 0#8, 0#8], [8#8, 1#8, 6#8, 0#8, 0xB8#8, 6#8, 0#8, 0#8]].flatten

/-- A key of the tests. -/
def smallKey : List (BitVec 8) := List.replicate 97 4#8

/-- A small image: header, directory, sections, signature block (02 R40, R55). -/
def smallImage : List (BitVec 8) :=
  [[0x4E#8, 0x47#8, 0x52#8, 0x4E#8, 0#8, 1#8, 0x80#8, 0#8, 0x40#8, 0x4A#8, 0x38#8, 0#8, 1#8, 0#8, 0#8, 0#8, 0xE8#8, 6#8, 0#8, 0#8, 8#8],
    List.replicate 43 0#8, smallDir, smallSections.flatten, [0x4E#8, 0x53#8, 0x49#8, 0x47#8, 0#8, 0#8, 0#8, 0#8], smallKey, List.replicate 103 0#8].flatten

/-- What that image says. -/
def smallSays : Image where
  partId := 0x384A40
  fmtVer := 256
  imgVer := 1
  flags := 0
  minFw := 0
  sites := (List.range 16).map (fun s => ⟨s, Config.strap s, 0, 1, 0, 0⟩) ++ [⟨0x10, 0, 0, 2, 0, 0⟩, ⟨0x11, 0, 0, 3, 0, 0⟩, ⟨0x18, 0, 0, 0, 0, 0⟩, ⟨0x19, 0, 0, 0, 0, 0⟩]
  spareFlags := 0
  spareNotify := 0
  sparePriority := 0 :: List.replicate 15 0xFF
  coreMap := List.replicate 384 0xFFFF
  bundleMode := List.replicate 8 0
  skeins := [{ skein := 0, secure := false, ndog := false, ranges := 1, lcnMask := 0, mem := (0, 1) :: List.replicate 7 (0, 0), l3Ways := List.replicate 16 0, hcWays := 0, hcQways := 0, ddrOwn := 1, ddrPool := 0, qFirst := 0, qCount := 0, qmemBase := 0, qmemLen := 0, msix := 0, bundles := 0, hankPorts := 0, vfCount := List.replicate 8 0, tune := ⟨0, 0, 0, 0, 0, 0, 0, 0⟩ }]
  pins := []
  power := [⟨0xFF, 1, 400⟩]
  secMark := 0
  swdogMs := 1000
  dbgBytes := List.replicate 16 0
  secBlk := []
  roles := [⟨1, 0, 0xF⟩]
  sysnum := 5
  ethertype := 0x88B5
  macBase := 0x020000000000
  hankPorts := List.replicate 8 ⟨0, 0xFF⟩

theorem bytesAt_eq (bs : List (BitVec 8)) (o n : Nat) (h : o + n ≤ bs.length) : bytesAt bs o n = (bs.drop o).take n := by
  apply List.ext_getElem
  · simp [bytesAt]; omega
  · intro i h1 h2
    have h3 : o + i < bs.length := by simp [bytesAt] at h1; omega
    simp [bytesAt, List.getD_eq_getElem?_getD, h3]
theorem small_len : smallImage.length = 1976 := by decide +kernel
theorem small_body (t o n : Nat) (x : List (BitVec 8)) (h : imgSection smallImage t = (o, n)) (hn : o + n ≤ 1976) (hx : ((smallImage.drop o).take n) = x) :
    imgBody smallImage t = x := by
  simp only [imgBody, h]; rw [bytesAt_eq _ _ _ (by rw [small_len]; exact hn), hx]
theorem small_body1 : imgBody smallImage 1 = smallSections.getD 0 [] := small_body 1 128 320 _ (by decide +kernel) (by decide) (by decide +kernel)
theorem small_body2 : imgBody smallImage 2 = smallSections.getD 1 [] := small_body 2 448 24 _ (by decide +kernel) (by decide) (by decide +kernel)
theorem small_body3 : imgBody smallImage 3 = smallSections.getD 2 [] := small_body 3 472 1032 _ (by decide +kernel) (by decide) (by decide +kernel)
theorem small_body4 : imgBody smallImage 4 = smallSections.getD 3 [] := small_body 4 1504 0 _ (by decide +kernel) (by decide) (by decide +kernel)
theorem small_body5 : imgBody smallImage 5 = smallSections.getD 4 [] := small_body 5 1504 8 _ (by decide +kernel) (by decide) (by decide +kernel)
theorem small_body6 : imgBody smallImage 6 = smallSections.getD 5 [] := small_body 6 1512 160 _ (by decide +kernel) (by decide) (by decide +kernel)
theorem small_body7 : imgBody smallImage 7 = smallSections.getD 6 [] := small_body 7 1672 48 _ (by decide +kernel) (by decide) (by decide +kernel)
theorem small_body8 : imgBody smallImage 8 = smallSections.getD 7 [] := small_body 8 1720 48 _ (by decide +kernel) (by decide) (by decide +kernel)
theorem small_entries : skeinEntries smallImage = 1 := by decide +kernel
theorem small_coreMap : (List.range 384).map (fun i => leAt (smallSections.getD 2 []) (2 * i) 2) = List.replicate 384 0xFFFF := by
  have e : smallSections.getD 2 [] = List.replicate 768 0xFF#8 ++ (List.replicate 8 0#8 ++ (smallSkein ++ [])) := rfl
  have h : ∀ i ∈ List.range 384, leAt (smallSections.getD 2 []) (2 * i) 2 = 0xFFFF := by
    intro i hi
    have hi := List.mem_range.mp hi
    have a : (2 * i) < 768 := by omega
    have b : (2 * i + 1) < 768 := by omega
    have f (o : Nat) (ho : o < 768) : (smallSections.getD 2 []).getD o 0#8 = 0xFF#8 := by
      rw [e, List.getD_append _ _ _ _ (by rw [List.length_replicate]; exact ho), List.getD_eq_getElem _ _ (by rw [List.length_replicate]; exact ho)]
      exact List.getElem_replicate _
    change ofLe [(smallSections.getD 2 []).getD (2 * i) 0#8, (smallSections.getD 2 []).getD (2 * i + 1) 0#8] = 0xFFFF
    rw [f _ a, f _ b]; rfl
  rw [List.map_congr_left h]; simp
theorem small_says : decodeImage smallImage = smallSays := by
  simp only [decodeImage, small_body1, small_body2, small_body3, small_body4, small_body5, small_body6, small_body7, small_body8, small_entries, small_coreMap]
  decide +kernel
theorem small_stage3 : stage3 16 0 smallSays = .ok := by decide +kernel
theorem small_stage2 : stage2 1 0 (mget 0 []) smallSays = true := by decide +kernel
theorem small_entry : bytesAt (smallSections.getD 2 []) 776 256 = smallSkein := by
  rw [bytesAt_eq _ _ _ (by decide +kernel)]; decide +kernel
theorem small_keys : leAt (imgSig smallImage) 4 1 = 0 ∧ bytesAt (imgSig smallImage) 8 97 = smallKey := by decide +kernel
theorem small_stage1 (f : Nat → List (BitVec 8) → Bool) (g : List (BitVec 8) → Bool) (hf : f 0 (sha384 smallKey) = true) : stage1 f g ⟨true, true, true⟩ smallImage = true := by
  have h1 : headerOk smallImage = true := by decide +kernel
  have h2 : directoryOk smallImage = true := by decide +kernel
  have h3 : lengthsOk smallImage = true := by decide +kernel
  have h4 : [1, 2, 5, 6, 7, 8].all (fun t => reservedOk t (imgBody smallImage t)) = true := by
    simp only [List.all_cons, List.all_nil, small_body1, small_body2, small_body5, small_body6, small_body7, small_body8]; decide +kernel
  have h5 : (List.range (skeinEntries smallImage)).all (fun k => reservedOk 3 (bytesAt (imgBody smallImage 3) (776 + 256 * k) 256)) = true := by
    rw [small_entries, small_body3]; show (reservedOk 3 (bytesAt (smallSections.getD 2 []) 776 256) && true) = true
    rw [small_entry]; decide +kernel
  simp only [stage1, h1, h2, h3, h4, h5, small_says, small_keys.1, small_keys.2, hf]
  have h6 : smallSays.dbgBytes.any (fun b => b.testBit 2 || b.testBit 3) = false := by decide +kernel
  have h7 : (List.map (fun x => x.site) smallSays.sites == siteNumbers && skeinNumbersOk smallSays) = true := by decide +kernel
  simp only [Bool.and_eq_true] at h7
  simp only [h6, h7.1, h7.2, Bool.not_false, Bool.true_or, Bool.and_true]

theorem image_passes (d : Dev) (v : ImgVerdict) (r : List (BitVec 8)) (i : Image) (hd : decodeImage r = i) (h1 : stage1 d.slotHolds (fun h => d.dst.makerHash == h) v r = true)
    (h2 : stage2 (d.dst.fwRun.getD 0) d.dst.imgFloor (mget 0 d.dst.dieSerial) i = true)
    (h3 : stage3 (d.mem.capGiB / 16) (leAt (imgBody r 6) 0x18 1) i = .ok) : d.imageFails v r = none := by
  simp [Dev.imageFails, hd, h1, h2, h3]

theorem delta_passes (d : Dev) (s : Session) (b r : List (BitVec 8)) (i : Image) (x : DeltaForm) (hr : d.img.raw = r) (hi : d.img.img.map (·.imgVer) = some x.base)
    (hd : decodeImage r = i) (hx : deltaForm b r = some x) (ha : x.apply r = r) (hq : x.seq = d.img.deltaSeq + 1) (hj : journalFull (d.copy d.img.active).journal b.length = false)
    (hs : x.rightful s = true) (h1 : x.issuer = 1) (hp : d.poolsTaken i = false) (h3 : stage3 (d.mem.capGiB / 16) (leAt (imgBody r 6) 0x18 1) i = .ok) :
    d.deltaFails s true b = .ok x := by
  have e : d.deltaImageFails r = none := by
    unfold Dev.deltaImageFails
    rw [hd]
    dsimp only
    generalize stage3 (d.mem.capGiB / 16) (leAt (imgBody r 6) 0x18 1) i = y at h3 ⊢
    subst h3
    change (if d.poolsTaken i = true then some Status.conflict else none) = none
    rw [hp]; rfl
  have n1 : ¬ ((!true) = true ∨ x.issuer = 2 ∧ x.index ≠ s.index) := by simp [h1]
  have n2 : ¬ (some x.base ≠ d.img.img.map (·.imgVer) ∨ x.seq ≠ d.img.deltaSeq + 1) := by rw [hi, hq]; simp
  unfold Dev.deltaFails
  rw [hr, hx]
  dsimp only
  rw [if_neg n1]
  simp only [if_neg n2, hs, ha, e, hj, Bool.not_true, Bool.and_false, Bool.false_eq_true, if_false]

theorem small_secN : leAt (imgBody smallImage 6) 0x18 1 = 0 := by rw [small_body6]; decide +kernel

/-- A list as the cells of a transfer. -/
def cellsFrom : Nat → List (BitVec 8) → List (Nat × BitVec 8)
  | _, [] => []
  | o, b :: t => (o, b) :: cellsFrom (o + 1) t

theorem mget_cellsFrom (bs : List (BitVec 8)) (o i : Nat) : mget 0#8 (cellsFrom o bs) (o + i) = bs.getD i 0#8 := by
  induction bs generalizing o i with
  | nil => rfl
  | cons b t ih =>
    cases i with
    | zero => simp [cellsFrom, mget]
    | succ i => simpa [cellsFrom, mget, Nat.add_right_comm, Nat.add_assoc, Nat.add_comm 1] using ih (o + 1) i

theorem all_cellsFrom (l k : Nat) (bs : List (BitVec 8)) : (⟨l, k, bs.length, cellsFrom 0 bs⟩ : Transfer).all = bs := by
  apply List.ext_getElem
  · simp [Transfer.all]
  · intro i h1 h2
    have h := mget_cellsFrom bs 0 i
    simp only [Nat.zero_add] at h
    simp [Transfer.all, h, List.getD_eq_getElem?_getD, h2]

/-- A delta that writes 0 to NOTIFY of SPARE, from the installer's credential 0 (02 R62). -/
def smallDelta : List (BitVec 8) :=
  [[0x4E#8, 0x47#8, 0x44#8, 0x4C#8, 0#8, 1#8, 1#8, 0#8, 1#8, 0#8, 0#8, 0#8, 1#8, 0#8, 0#8, 0#8, 1#8, 0#8, 152#8, 0#8], List.replicate 12 0#8,
    [2#8, 0#8, 1#8, 0#8, 1#8, 0#8, 0#8, 0#8], List.replicate 8 0#8, List.replicate 104 0#8].flatten

/-- What it says. -/
def smallForm : DeltaForm := ⟨1, false, 1, 1, [⟨2, 0, 1, [0#8]⟩], 0⟩

/-- The device of the tests with that image running, its installer's key in slot 0, and an object of a kind transferred. -/
def imgDev (k : Nat) (bs : List (BitVec 8)) : Dev := dstOn fun d => { d with
  mem := { d.mem with capGiB := 256 }
  dst := { d.dst with transfers := [⟨0, k, bs.length, cellsFrom 0 bs⟩], slots := [(0, ⟨true, sha384 smallKey, [], false⟩)] }
  img := { d.img with raw := smallImage, img := some smallSays } }

theorem object_imgDev (k : Nat) (bs : List (BitVec 8)) : ((imgDev k bs).sessionUsed .almanac).objectOf .almanac k = some bs := by
  have h : ((imgDev k bs).sessionUsed .almanac).transferOf .almanac = some ⟨0, k, bs.length, cellsFrom 0 bs⟩ := rfl
  simp [Dev.objectOf, h, all_cellsFrom]

/-- ImagesComplete: an image transferred that passes every stage. -/
theorem wit_image_passes : (imgDev 0 smallImage).img.unit = .committed ∧
    ((imgDev 0 smallImage).sessionUsed .almanac).objectOf .almanac 0 = some smallImage ∧
    ((imgDev 0 smallImage).sessionUsed .almanac).imageFails ⟨true, true, true⟩ smallImage = none := by
  refine ⟨by decide +kernel, object_imgDev 0 smallImage, image_passes _ _ _ _ small_says (small_stage1 _ _ (by decide +kernel)) (by decide +kernel) ?_⟩
  have h : ((imgDev 0 smallImage).sessionUsed .almanac).mem.capGiB / 16 = 16 := by decide +kernel
  rw [h, small_secN, small_stage3]

/-- ImagesComplete: a delta transferred that passes its checks. -/
theorem wit_delta_passes : (imgDev 1 smallDelta).img.unit = .committed ∧
    ((imgDev 1 smallDelta).sessionUsed .almanac).objectOf .almanac 1 = some smallDelta ∧
    ((imgDev 1 smallDelta).sessionUsed .almanac).sessionOf .almanac = some ⟨1, 0, 1, 0, 0xF, false, 0, 0⟩ ∧
    ((imgDev 1 smallDelta).sessionUsed .almanac).deltaFails ⟨1, 0, 1, 0, 0xF, false, 0, 0⟩ true smallDelta = .ok smallForm := by
  refine ⟨by decide +kernel, object_imgDev 1 smallDelta, by decide +kernel, ?_⟩
  refine delta_passes _ _ _ smallImage smallSays smallForm (by decide +kernel) (by decide +kernel) small_says (by decide +kernel) (by decide +kernel)
    (by decide +kernel) (by decide +kernel) (by decide +kernel) (by decide +kernel) (by decide +kernel) ?_
  have h : ((imgDev 1 smallDelta).sessionUsed .almanac).mem.capGiB / 16 = 16 := by decide +kernel
  rw [h, small_secN, small_stage3]

/-- What core 0 holds after an instruction, checked by `p`. -/
def after (i : Instr) (s : State) (p : Dev → Core → Bool) : Bool :=
  match exec i s with
  | .next t => p t.dev (t.dev.core 0)
  | _ => false

/-- ADD (07 R223): 0x1000 + 0x2000; a write of g0 is discarded, and the PC goes on. -/
theorem test_add_1 : after (.add 0 false 5#5 1#5 2#5) (at0 id) (fun _ k => k.rg 5#5 == 0x3000#64 && k.pc == 0xE000000000004#64) = true := by decide +kernel
/-- As test_add_1. -/
theorem test_add_2 : after (.add 0 false 0#5 1#5 2#5) (at0 id) (fun _ k => k.rg 0#5 == 0#64 && k.pc == 0xE000000000004#64) = true := by decide +kernel

/-- SUB with W: 0 − 7 in 32 bits, sign-extended. -/
theorem test_sub_w : after (.sub 0 true 5#5 0#5 3#5) (at0 id) (fun _ k => k.rg 5#5 == 0xFFFFFFFFFFFFFFF9#64) = true := by decide +kernel

/-- The edge cases of R225: a divisor of 0, and the most negative dividend by −1. -/
theorem test_div_1 : after (.div 0 false 5#5 1#5 0#5) (at0 id) (fun _ k => k.rg 5#5 == 0xFFFFFFFFFFFFFFFF#64) = true := by decide +kernel
/-- As test_div_1. -/
theorem test_div_2 : after (.rem 0 false 5#5 1#5 0#5) (at0 id) (fun _ k => k.rg 5#5 == 0x1000#64) = true := by decide +kernel
/-- As test_div_1. -/
theorem test_div_3 : after (.div 0 false 5#5 1#5 2#5) (at0 fun k => { k with g := [(1, 0x8000000000000000#64), (2, 0xFFFFFFFFFFFFFFFF#64)] }) (fun _ k => k.rg 5#5 == 0x8000000000000000#64) = true := by decide +kernel

/-- The example of 07 R228: LD g4, 4(g20) at 0x7FFFF004 raises alignment with that address. -/
theorem test_alignment : after (.scalarLoad 0 3#2 false 4#5 20#5 4#13) (at0 fun k => { k with g := [(20, 0x7FFFF000#64)] }) (fun _ k => k.kb.addr == 0x7FFFF004#64 && field k.kb.cause 7 0 == 3 && k.kb.epc == 0xE000000000000#64) = true := by decide +kernel

/-- SYS saves the address after it (08 R255). -/
theorem test_sys : after (.sys 0 7#12) (at0 fun _ => coreU) (fun _ k => k.kb.epc == 0x1004#64 && field k.kb.cause 7 0 == 0x10 && k.level == .k && !k.kb.ppriv) = true := by decide +kernel

/-- The example of 08: WCALL at 0x401A20 leaves S_EPC 0x401A24, S_CAUSE 0x11, PPRIV 1, and enters S_VBASE + 0x200. -/
theorem test_wcall : after (.wcall 0) (at0 fun k => { k with sbank := { k.sbank with vbase := 0x800#64 } }) (fun _ k => k.sbank.epc == 0xE000000000004#64 && k.sbank.cause == 0x11#32 && k.sbank.ppriv && k.pc == 0xA00#64 && k.level == .sk) = true := by decide +kernel

/-- The example of 01: 124,950 × 87,315 divided by 10^6 under half-even rounding is 10,910. -/
theorem test_pmuld : roundDiv (124950 * 87315) 1000000 0 = (10910, true) := by decide +kernel

/-- The example of 05 R177: 0x107 and 0x5, the elements above 0. -/
theorem test_pluhn_1 : (luhnEl (ofLe ("49217305551288674921730555128876".toList.map fun c => BitVec.ofNat 8 c.toNat)) 1 16 0).1 = 0x107 := by decide +kernel
/-- As test_pluhn_1. -/
theorem test_pluhn_2 : (luhnEl (ofLe ("49217305551288674921730555128876".toList.map fun c => BitVec.ofNat 8 c.toNat)) 1 16 1).1 = 0x5 := by decide +kernel
/-- As test_pluhn_1. -/
theorem test_pluhn_3 : (luhnEl (ofLe ("49217305551288674921730555128876".toList.map fun c => BitVec.ofNat 8 c.toNat)) 1 16 2).1 = 0 := by decide +kernel

/-- The example of 11 R341: the line of 0x1400002C0 has hub slice 25 and L3 slice 3. -/
theorem test_slices : hubSlice (0x1400002C0 / 64) = 25 ∧ l3Slice (0x1400002C0 / 64) = 3 := by decide +kernel

/-- The example of 00 R6, a register at offset 0x40 of block 0x012 of the hub, and that of 01 R37, bundle 3. -/
theorem test_places : placeOf 0xF001001200040 = .control ∧ bitsN 0xF001001200040 39 32 = 0x10 ∧ bitsN 0xF001001200040 31 20 = 0x012 ∧
    placeOf 0x5802000000000 = .pcie 3 := by decide +kernel

/-- The example of 01 R32: 0x7FF02A31 is local, 0x00501C40 is another package's. -/
theorem test_local_qa : (dev0 core0).qaLocal 0x7FF02A31 = true ∧ (dev0 core0).qaLocal 0x00501C40 = false := by decide +kernel

/-- SHA-384 of "abc" (FIPS 180-4). -/
theorem test_sha384 : (sha384 [0x61#8, 0x62#8, 0x63#8]).map BitVec.toNat = [0xcb, 0x00, 0x75, 0x3f, 0x45, 0xa3, 0x5e, 0x8b, 0xb5, 0xa0, 0x3d, 0x69, 0x9a, 0xc6, 0x50, 0x07, 0x27, 0x2c, 0x32, 0xab, 0x0e, 0xde, 0xd1, 0x63, 0x1a, 0x8b, 0x60, 0x5a, 0x43, 0xff, 0x5b, 0xed, 0x80, 0x86, 0x07, 0x2b, 0xa1, 0xe7, 0xcc, 0x23, 0x58, 0xba, 0xec, 0xa1, 0x34, 0xc8, 0x25, 0xa7] := by decide +kernel

/-- Almanac's rates (18 R576): the default, the bounds, and one that 48 MHz does not divide well enough. -/
theorem test_baud : baudOk 115200 = true ∧ baudOk 9600 = true ∧ baudOk 3000000 = true ∧ baudOk 9599 = false ∧ baudOk 3000001 = false ∧
    baudOk 2900000 = false := by decide +kernel

/-- An ill-formed Hank message of a kind: only an ITEM has a body, and it holds its header of 16 bytes. -/
def badMsg (t : HankType) (n : Nat) : HankMsg := ⟨t, 0#8, 0#32, 0#32, 0#32, List.replicate n 0#8⟩

/-- A DMA request of a kind, length and amount of data. -/
def dma (kind : Fin 6) (addr : BitVec 64) (len n : Nat) : DmaReq := ⟨0#16, addr, kind, len, List.replicate n 0#8, false, false, false, false⟩

/-- WellFormed refuses a line beyond DRAM's space in every command that names one, and a line that is not 64 bytes. -/
theorem smoke_lines_1 : ∀ i ∈ ([.gets 0 (2 ^ 41), .getm 0 (2 ^ 41), .puts 0 (2 ^ 41), .putm 0 ⟨2 ^ 41, []⟩, .rdnc 0 (2 ^ 41), .dataMsg 0 (2 ^ 41), .grantMsg 0 (2 ^ 41), .doneMsg 0 (2 ^ 41), .ackMsg 0 (2 ^ 41), .rdata 0 ⟨2 ^ 41, []⟩, .already 0 (2 ^ 41), .invMsg 0 (2 ^ 41), .recallS 0 (2 ^ 41), .recallI 0 (2 ^ 41), .recallD 0 (2 ^ 41), .dirRebuildDone (2 ^ 41), .wfull 0 (2 ^ 41) (List.replicate 64 0#8), .wfull 0 0 (List.replicate 63 0#8)] : List Instr), i.wellFormed = false := by decide +kernel
/-- As smoke_lines_1. -/
theorem smoke_lines_2 : ∀ i ∈ ([.wrnc 0 (2 ^ 41) 1#64 (List.replicate 64 0#8), .wrnc 0 0 1#64 (List.replicate 65 0#8), .atom 0 (2 ^ 41) ⟨.add, 0#6, true, false, 1#64, 0#64⟩, .atom 0 0 ⟨.add, 4#6, true, false, 1#64, 0#64⟩, .atom 0 0 ⟨.add, 2#6, false, false, 1#64, 0#64⟩] : List Instr), i.wellFormed = false := by decide +kernel
/-- As smoke_lines_1. -/
theorem smoke_lines_3 : (Instr.gets 0 (2 ^ 41 - 1)).wellFormed = true ∧ (Instr.wfull 0 0 (List.replicate 64 0#8)).wellFormed = true ∧
    (Instr.atom 0 0 ⟨.add, 4#6, false, false, 1#64, 0#64⟩).wellFormed = true := by decide +kernel

/-- WellFormed refuses a DMA request without data, with data that does not fit, or across a 4 KiB boundary. -/
theorem smoke_dma_1 : ∀ r ∈ [dma 0 0#64 0 0, dma 0 0#64 4 4, dma 0 0xFFF#64 2 0, dma 1 0#64 4 3, dma 1 0x1000#64 4097 4097, dma 2 0#64 3 3, dma 3 0#64 8 4, dma 4 0#64 8 8], (Instr.inboundDmaRequest 0 r).wellFormed = false := by decide +kernel
/-- As smoke_dma_1. -/
theorem smoke_dma_2 : ∀ r ∈ [dma 0 0xF00#64 256 0, dma 1 0#64 4 4, dma 2 0#64 4 4, dma 4 0#64 16 32, dma 5 0#64 0 0], (Instr.inboundDmaRequest 0 r).wellFormed = true := by decide +kernel

/-- WellFormed refuses one ill-formed term for each other check. -/
theorem smoke_rest_1 : ∀ i ∈ ([.pwrokRise ⟨⟨true, 1⟩, ⟨true, 1⟩, [], 0#32, true⟩, .packageReset ⟨⟨true, 1⟩, ⟨true, 1⟩, [], 0#32, true⟩, .creditPacket 0 [1, 2, 3], .creditPacket 0 [1, 2, 3, 256], .distaffWindowAccess false 0#52 [], .distaffWindowAccess true 0#52 (List.replicate 65 0#8), .msixUnmask 0 0 2049] : List Instr), i.wellFormed = false := by decide +kernel
/-- As smoke_rest_1. -/
theorem smoke_rest_2 : ∀ i ∈ ([.hankFrameReceive 0 ⟨0#48, 0#48, 0#16, true, List.replicate 31 0#8⟩, .hankFrameReceive 0 ⟨0#48, 0#48, 0#16, true, List.replicate 4353 0#8⟩, .hankItem 0 1 (badMsg .item 15), .hankItem 0 1 (badMsg .creq 0), .hankCreq 0 1 (badMsg .crel 0), .hankCrel 0 1 (badMsg .crel 1), .hankGrant 0 1 (badMsg .item 16), .hankRefuse 0 1 (badMsg .revoke 0), .hankRevoke 0 1 (badMsg .refuse 0)] : List Instr), i.wellFormed = false := by decide +kernel
/-- As smoke_rest_1. -/
theorem smoke_rest_3 : ∀ i ∈ ([.pwrReqSpindle .distaff 4096 0#3, .pwrReqChannel .distaff 4096 0#3, .pwrReqBundle .distaff 4096 0#3, .xferData .almanac 0 (List.replicate 1025 0#8) true, .shedMeasure 101] : List Instr), i.wellFormed = false := by decide +kernel

/-- The words that 03 R83, 05 R187, 07 R227, 07 R231 and 08's examples encode. -/
theorem decode_examples_1 : decodeWord 0 0xE1095240#32 = some (.qread 0 8#5 9#5 10#5 2#3) ∧
    decodeWord 0 0xC4886026#32 = some (.pmuld 0 4#5 8#5 12#5 0#3 0#2 true 6#5) := ⟨rfl, rfl⟩
/-- As decode_examples_1. -/
theorem decode_examples_2 : decodeWord 0 0xCD046178#32 = some (.pa2b 0 8#5 4#5 12#5 1#3 1#2 3#2) ∧
    decodeWord 0 0x4149A000#32 = some (.scalarLoad 0 2#2 true 10#5 9#5 0#13) := ⟨rfl, rfl⟩
/-- As decode_examples_1. -/
theorem decode_examples_3 : decodeWord 0 0x6D094010#32 = some (.bc 0 2#3 8#5 9#5 16#13) ∧ decodeWord 0 0xF8007000#32 = some (.wcall 0) ∧
    decodeWord 0 0xF8007001#32 = some (.wret 0) := ⟨rfl, rfl, rfl⟩

/-- Majors 0x00, 0x01, 0x02 and 0x0D by their formats: SUBW g5, g1, g2; MULHU; ADDI with −1; EXT at position 8 of 16 bits. -/
theorem decode_integer_1 : decodeWord 0 (0x00#6 ++ 5#5 ++ 1#5 ++ 2#5 ++ 0#4 ++ 1#1 ++ 0x01#6) = some (.sub 0 true 5#5 1#5 2#5) := rfl
/-- As decode_integer_1. -/
theorem decode_integer_2 : decodeWord 0 (0x01#6 ++ 5#5 ++ 1#5 ++ 2#5 ++ 0#4 ++ 0#1 ++ 0#2 ++ 2#4) = some (.mulhu 0 5#5 1#5 2#5) := rfl
/-- As decode_integer_1. -/
theorem decode_integer_3 : decodeWord 0 (0x02#6 ++ 5#5 ++ 1#5 ++ 0xFFFF#16) = some (.addi 0 5#5 1#5 0xFFFF#16) := rfl
/-- As decode_integer_1. -/
theorem decode_integer_4 : decodeWord 0 (0x0D#6 ++ 5#5 ++ 1#5 ++ 8#6 ++ 1#2 ++ 0#2 ++ 15#6) = some (.ext 0 5#5 1#5 8#6 15#6) := rfl

/-- Stores, indexed loads, jumps and branches: SD g7, −8(g2); LW of g1 + 4 × g3; JAL; BZ. -/
theorem decode_memory_1 : decodeWord 0 (0x11#6 ++ 7#5 ++ 2#5 ++ 3#2 ++ 0#1 ++ 0x1FF8#13) = some (.scalarStore 0 3#2 7#5 2#5 0x1FF8#13) := rfl
/-- As decode_memory_1. -/
theorem decode_memory_2 : decodeWord 0 (0x14#6 ++ 6#5 ++ 1#5 ++ 3#5 ++ 2#2 ++ 0#1 ++ 1#1 ++ 0#7) = some (.indexedLoad 0 2#2 false true 6#5 1#5 3#5) := rfl
/-- As decode_memory_1. -/
theorem decode_memory_3 : decodeWord 0 (0x19#6 ++ 0x3FFFFFF#26) = some (.jal 0 0x3FFFFFF#26) ∧
    decodeWord 0 (0x1C#6 ++ 9#5 ++ 4#3 ++ 5#18) = some (.bz 0 4#3 9#5 5#18) := ⟨rfl, rfl⟩

/-- Floating point, atomics and barriers: FSUB double with RM 2; FNMA; FCLT; FTOI32; SADD unsigned; CAS; BAR.DEV. -/
theorem decode_fp_atomic_1 : decodeWord 0 (0x20#6 ++ 4#5 ++ 5#5 ++ 6#5 ++ 2#3 ++ 1#1 ++ 0#2 ++ 0#1 ++ 1#4) = some (.fsub 0 true 2#3 4#5 5#5 6#5) := rfl
/-- As decode_fp_atomic_1. -/
theorem decode_fp_atomic_2 : decodeWord 0 (0x21#6 ++ 4#5 ++ 5#5 ++ 6#5 ++ 7#5 ++ 3#2 ++ 1#1 ++ 5#3) = some (.fnma 0 true 5#3 4#5 5#5 6#5 7#5) := rfl
/-- As decode_fp_atomic_1. -/
theorem decode_fp_atomic_3 : decodeWord 0 (0x22#6 ++ 4#5 ++ 5#5 ++ 6#5 ++ 0#3 ++ 1#1 ++ 0#3 ++ 1#4) = some (.fclt 0 true 4#5 5#5 6#5) := rfl
/-- As decode_fp_atomic_1. -/
theorem decode_fp_atomic_4 : decodeWord 0 (0x23#6 ++ 4#5 ++ 5#5 ++ 0#5 ++ 1#3 ++ 3#4 ++ 1#1 ++ 0#3) = some (.ftoi32 0 true 1#3 4#5 5#5) := rfl
/-- As decode_fp_atomic_1. -/
theorem decode_fp_atomic_5 : decodeWord 0 (0x28#6 ++ 4#5 ++ 5#5 ++ 6#5 ++ 7#3 ++ 1#1 ++ 2#2 ++ 1#1 ++ 0#4) = some (.atomicSadd 0 true true 2#2 4#5 5#5 6#5) := rfl
/-- As decode_fp_atomic_1. -/
theorem decode_fp_atomic_6 : decodeWord 0 (0x29#6 ++ 4#5 ++ 5#5 ++ 6#5 ++ 0#3 ++ 0#1 ++ 3#2 ++ 0#1 ++ 0#4) = some (.cas 0 false 3#2 4#5 5#5 6#5) := rfl
/-- As decode_fp_atomic_1. -/
theorem decode_fp_atomic_7 : decodeWord 0 (0x2B#6 ++ 0#22 ++ 3#4) = some (.barDev 0) := rfl

/-- Ply, crypto and queue control: PMIN.W under m2; PLD at −32; PGTOM.H; SHA256R; QCTL GSET. -/
theorem decode_ply_queue_1 : decodeWord 0 (0x30#6 ++ 4#5 ++ 8#5 ++ 12#5 ++ 2#3 ++ 1#2 ++ 2#2 ++ 5#4) = some (.pmin 0 4#5 8#5 12#5 2#3 1#2 2#2) := rfl
/-- As decode_ply_queue_1. -/
theorem decode_ply_queue_2 : decodeWord 0 (0x32#6 ++ 4#5 ++ 8#5 ++ 0x7F#7 ++ 1#3 ++ 2#2 ++ 3#2 ++ 0#2) = some (.pld 0 4#5 8#5 0x7F#7 1#3 2#2 3#2) := rfl
/-- As decode_ply_queue_1. -/
theorem decode_ply_queue_3 : decodeWord 0 (0x32#6 ++ 3#5 ++ 9#5 ++ 0#3 ++ 5#4 ++ 0#7 ++ 3#2) = some (.pgtomH 0 3#5 9#5) := rfl
/-- As decode_ply_queue_1. -/
theorem decode_ply_queue_4 : decodeWord 0 (0x3C#6 ++ 4#5 ++ 8#5 ++ 12#5 ++ 0#7 ++ 5#4) = some (.sha256r 0 4#5 8#5 12#5) := rfl
/-- As decode_ply_queue_1. -/
theorem decode_ply_queue_5 : decodeWord 0 (0x39#6 ++ 4#5 ++ 8#5 ++ 12#5 ++ 8#4 ++ 0#7) = some (.qctlGset 0 4#5 8#5 12#5) := rfl

/-- The system major: MFS; TLBI.ASID in the skein; DCCI; PBAR; SYS 9; STLBR of the second register. -/
theorem decode_system_1 : decodeWord 0 (0x3E#6 ++ 4#5 ++ 0#5 ++ 0#4 ++ 0x213#12) = some (.mfs 0 4#5 0x213#12) := rfl
/-- As decode_system_1. -/
theorem decode_system_2 : decodeWord 0 (0x3E#6 ++ 0#5 ++ 4#5 ++ 2#4 ++ 6#5 ++ 1#1 ++ 0#4 ++ 1#2) = some (.tlbiAsid 0 true 4#5 6#5) := rfl
/-- As decode_system_1. -/
theorem decode_system_3 : decodeWord 0 (0x3E#6 ++ 0#5 ++ 4#5 ++ 3#4 ++ 0#8 ++ 2#4) = some (.dcci 0 4#5) ∧
    decodeWord 0 (0x3E#6 ++ 0#5 ++ 4#5 ++ 4#4 ++ 6#5 ++ 0#3 ++ 1#4) = some (.pbar 0 4#5 6#5) := ⟨rfl, rfl⟩
/-- As decode_system_1. -/
theorem decode_system_4 : decodeWord 0 (0x3E#6 ++ 0#5 ++ 0#5 ++ 5#4 ++ 9#12) = some (.sys 0 9#12) ∧
    decodeWord 0 (0x3E#6 ++ 4#5 ++ 0#5 ++ 9#4 ++ 0#5 ++ 1#1 ++ 63#6) = some (.stlbr 0 4#5 63#6 true) := ⟨rfl, rfl⟩

/-- Words of 07 R221 that spell no instruction: a zero field that is not zero, values the listings do not assign, an unassigned major, COND 6 and 7 by their meaning alone. -/
theorem decode_refuses_1 : ([0x00#6 ++ 5#5 ++ 1#5 ++ 2#5 ++ 1#4 ++ 0#1 ++ 0x00#6, 0x00#6 ++ 5#5 ++ 1#5 ++ 2#5 ++ 0#4 ++ 1#1 ++ 0x02#6, 0x00#6 ++ 5#5 ++ 1#5 ++ 2#5 ++ 0#4 ++ 0#1 ++ 0x18#6, 0x0D#6 ++ 5#5 ++ 1#5 ++ 8#6 ++ 3#2 ++ 0#2 ++ 15#6, 0x0E#6 ++ 0#26, 0x17#6 ++ 0#26, 0x2A#6 ++ 0#26, 0x3F#6 ++ 0#26] : List (BitVec 32)).all (fun w => (decodeWord 0 w).isNone) = true := rfl
/-- As decode_refuses_1. -/
theorem decode_refuses_2 : ([0x11#6 ++ 7#5 ++ 2#5 ++ 3#2 ++ 1#1 ++ 0#13, 0x28#6 ++ 4#5 ++ 5#5 ++ 6#5 ++ 1#3 ++ 1#1 ++ 2#2 ++ 1#1 ++ 0#4, 0x2B#6 ++ 0#22 ++ 5#4, 0x38#6 ++ 1#5 ++ 2#5 ++ 3#5 ++ 0#3 ++ 1#3 ++ 0#5, 0x39#6 ++ 4#5 ++ 8#5 ++ 12#5 ++ 0#4 ++ 0#7, 0x3C#6 ++ 4#5 ++ 8#5 ++ 12#5 ++ 0#7 ++ 13#4, 0x3E#6 ++ 0#5 ++ 0#5 ++ 11#4 ++ 0#12] : List (BitVec 32)).all (fun w => (decodeWord 0 w).isNone) = true := rfl

/-- A word is executed as the instruction it spells, here ADD, and an unassigned one raises illegal instruction. -/
theorem test_word_1 : exec (.unassignedMajor 0 (0x00#6 ++ 5#5 ++ 1#5 ++ 2#5 ++ 0#11)) (at0 id) = exec (.add 0 false 5#5 1#5 2#5) (at0 id) := rfl
/-- As test_word_1. -/
theorem test_word_2 : after (.unassignedMajor 0 0xFFFFFFFF#32) (at0 id) (fun _ k => field k.kb.cause 7 0 == 1 && k.kb.epc == 0xE000000000000#64) = true := by decide +kernel

/-- Distaff with a program in its SRAM (07 R248): ADDI g1, g0, 5; MUL g2, g1, g1; SW g2, 0x100(g3); an unassigned word. -/
def tkaDev : Dev :=
  { Dev.reset with dst := { Dev.reset.dst with
      tka := [(0, { Tka.reset with pc := 0x10000000#32, g := [(3, 0x10000000#32)] })]
      sram := putCells [] (cellsAt 0 ([0x02#6 ++ 1#5 ++ 0#5 ++ 5#16, 0x01#6 ++ 2#5 ++ 1#5 ++ 1#5 ++ 0#11, 0x11#6 ++ 2#5 ++ 3#5 ++ 2#2 ++ 0#1 ++ 0x100#13, 0xFFFFFFFF#32].flatMap
        fun (w : BitVec 32) => leBytes 4 w.toNat)) } }

/-- TKA-32 (07 R247, R248): 5 × 5 is stored in SRAM, and the unassigned word raises illegal instruction at its address. -/
theorem test_tka_1 : let d := tkaDev.tkaTick.tkaTick.tkaTick; (d.tkaCore 0).rg 2#5 = 25#32 ∧ mget 0#8 d.dst.sram 0x100 = 25#8 ∧
    (d.tkaCore 0).pc = 0x1000000C#32 := by decide +kernel
/-- As test_tka_1. -/
theorem test_tka_2 : let t := tkaDev.tkaTick.tkaTick.tkaTick.tkaTick.tkaCore 0; field t.bank.cause 7 0 = 1 ∧ t.bank.epc = 0x1000000C#64 := by decide +kernel

end Sys2Proof.Tests
end

section
/-! PROOFS. The access codes of register fields (00 R12): what a register access does to one bit, and so to every field. -/
namespace Sys2Proof.Machine

/-! ### The fields of a row -/

/-- Bit `i` is one of the field's (00 R4). -/
abbrev FieldDef.Covers (f : FieldDef) (i : Nat) : Prop := f.lo ≤ i ∧ i ≤ f.hi

/-- The fields of a row are bits of a 32-bit register, and no bit is of two fields. -/
abbrev FieldsOk (fs : List FieldDef) : Prop :=
  (∀ f ∈ fs, f.lo ≤ f.hi ∧ f.hi < 32) ∧ fs.Pairwise fun f g => f.hi < g.lo ∨ g.hi < f.lo

theorem fieldsOk_of_mem_regDefs : ∀ r ∈ regDefs, FieldsOk r.fields := by decide +kernel

/-! ### Bits under a fold over the fields -/

/-- On field `f`, `step` makes each bit of the field what `g` says, given the bit's number and its value, and keeps the rest. -/
def ActsOn (step : Reg32 → FieldDef → Reg32) (g : FieldDef → Nat → Bool → Bool) (f : FieldDef) : Prop :=
  ∀ (x : Reg32) (i : Nat), bit (step x f) i = if f.Covers i then g f i (bit x i) else bit x i

section
variable {step : Reg32 → FieldDef → Reg32} {g : FieldDef → Nat → Bool → Bool} {fs : List FieldDef} {i : Nat}

theorem bit_foldl_of_not_covers (x : Reg32) (hs : ∀ f ∈ fs, ActsOn step g f) (hi : ∀ f ∈ fs, ¬ f.Covers i) :
    bit (fs.foldl step x) i = bit x i := by
  induction fs generalizing x with
  | nil => rfl
  | cons a fs ih =>
    obtain ⟨ha, hs⟩ := List.forall_mem_cons.1 hs
    obtain ⟨hai, hi⟩ := List.forall_mem_cons.1 hi
    rw [List.foldl_cons, ih _ hs hi, ha x i, if_neg hai]

/-- As no two fields share a bit, a bit of `f` is changed once, when the fold comes to `f`. -/
theorem bit_foldl_of_covers (x : Reg32) {f : FieldDef} (hd : fs.Pairwise fun f g => f.hi < g.lo ∨ g.hi < f.lo)
    (hs : ∀ f ∈ fs, ActsOn step g f) (hf : f ∈ fs) (hi : f.Covers i) : bit (fs.foldl step x) i = g f i (bit x i) := by
  induction fs generalizing x with
  | nil => cases hf
  | cons a fs ih =>
    obtain ⟨ha, hsfs⟩ := List.forall_mem_cons.1 hs
    obtain ⟨hda, hdfs⟩ := List.pairwise_cons.1 hd
    rw [List.foldl_cons]
    rcases List.mem_cons.1 hf with rfl | hf
    · have hrest : ∀ b ∈ fs, ¬ b.Covers i := fun b hb => by have := hda b hb; omega
      rw [bit_foldl_of_not_covers _ hsfs hrest, ha x i, if_pos hi]
    · have hai : ¬ a.Covers i := by have := hda f hf; omega
      rw [ih _ hdfs hsfs hf, ha x i, if_neg hai]
end

/-! ### The three accesses, bit by bit -/

/-- A put that gives a bit of the field the value `b` gives it that value, and the bits outside the field stay. -/
theorem bit_putField_eq_ite {f : FieldDef} (hf : f.lo ≤ f.hi ∧ f.hi < 32) (x : Reg32) {v i : Nat} {b : Bool}
    (h : f.Covers i → v.testBit (i - f.lo) = b) : bit (putField x f.hi f.lo v) i = if f.Covers i then b else bit x i :=
  (getLsbD_putField x f.hi f.lo v i hf.2 hf.1).trans (ite_congr rfl h fun _ => rfl)

@[simp] theorem bit_zero (i : Nat) : bit 0#32 i = false := by simp [bit]

@[simp] theorem field_zero (hi lo : Nat) : field 0#32 hi lo = 0 := by simp [field, bitsN]

theorem testBit_field_sub {f : FieldDef} {i : Nat} (h : f.Covers i) (x : Reg32) :
    (field x f.hi f.lo).testBit (i - f.lo) = bit x i := by
  have hlt : i - f.lo < f.hi + 1 - f.lo := by omega
  have hadd : f.lo + (i - f.lo) = i := by omega
  simp [testBit_field, hlt, hadd, bit]

/-- What a write of `new` to a register that holds `old` makes of a bit of `f` (R12); `b` is the bit before. -/
def bitWritten (lock : Bool) (old new : Reg32) (f : FieldDef) (i : Nat) (b : Bool) : Bool :=
  match f.acc with
  | .rw => bit new i
  | .w1c => bit old i && !bit new i
  | .w1s => bit old i || bit new i
  | .rwL => if lock then b else bit new i
  | .ro | .wo | .rc => b

/-- What a read of `x` returns in a bit of `f` (R12), where `b` stands for the bits that cannot be read. -/
def bitRead (x : Reg32) (f : FieldDef) (i : Nat) (b : Bool) : Bool :=
  if f.acc = .wo then b else bit x i

/-- What a read leaves in a bit of `f` that held `b` (R12). -/
def bitAfterRead (f : FieldDef) (_ : Nat) (b : Bool) : Bool :=
  if f.acc = .rc then false else b

/-- One field of `readRegVal`. -/
def readField (x acc : Reg32) (f : FieldDef) : Reg32 :=
  if f.acc = .wo then acc else putField acc f.hi f.lo (field x f.hi f.lo)

/-- One field of `afterReadVal`. -/
def clearReadField (acc : Reg32) (f : FieldDef) : Reg32 :=
  if f.acc = .rc then putField acc f.hi f.lo 0 else acc

theorem readRegVal_eq_foldl (fs : List FieldDef) (x : Reg32) : readRegVal fs x = fs.foldl (readField x) 0#32 := by
  unfold readRegVal
  congr
  funext acc f
  unfold readField
  cases f.acc <;> rfl

theorem afterReadVal_eq_foldl (fs : List FieldDef) (x : Reg32) : afterReadVal fs x = fs.foldl clearReadField x := by
  unfold afterReadVal
  congr
  funext acc f
  unfold clearReadField
  cases f.acc <;> rfl

section
variable {f : FieldDef} (hf : f.lo ≤ f.hi ∧ f.hi < 32)
include hf

theorem writeField_actsOn (lock : Bool) (old new : Reg32) : ActsOn (writeField lock old new) (bitWritten lock old new) f := by
  intro x i
  cases hacc : f.acc with
  | ro | wo | rc => simp [writeField, bitWritten, hacc]
  | rw =>
    simp only [writeField, bitWritten, hacc]
    exact bit_putField_eq_ite hf x fun hi => testBit_field_sub hi new
  | w1c =>
    simp only [writeField, bitWritten, hacc]
    refine bit_putField_eq_ite hf x fun hi => ?_
    have hlt : i - f.lo < f.hi + 1 - f.lo := by omega
    simp [hlt, testBit_field_sub hi]
  | w1s =>
    simp only [writeField, bitWritten, hacc]
    exact bit_putField_eq_ite hf x fun hi => by simp [testBit_field_sub hi]
  | rwL =>
    cases lock
    · simp only [writeField, bitWritten, hacc, Bool.false_eq_true, if_false]
      exact bit_putField_eq_ite hf x fun hi => testBit_field_sub hi new
    · simp [writeField, bitWritten, hacc]

theorem readField_actsOn (y : Reg32) : ActsOn (readField y) (bitRead y) f := by
  intro x i
  by_cases hacc : f.acc = .wo
  · simp [readField, bitRead, hacc]
  · simp only [readField, bitRead, hacc, if_false]
    exact bit_putField_eq_ite hf x fun hi => testBit_field_sub hi y

theorem clearReadField_actsOn : ActsOn clearReadField bitAfterRead f := by
  intro x i
  by_cases hacc : f.acc = .rc
  · simp only [clearReadField, bitAfterRead, hacc, if_true]
    exact bit_putField_eq_ite hf x fun _ => Nat.zero_testBit _
  · simp [clearReadField, bitAfterRead, hacc]
end

/-! ### The accesses of a row -/

section
variable {fs : List FieldDef} (ok : FieldsOk fs) {i : Nat}
include ok

theorem bit_writeRegVal {f : FieldDef} (hf : f ∈ fs) (hi : f.Covers i) (lock : Bool) (old new : Reg32) :
    bit (writeRegVal fs lock old new) i = bitWritten lock old new f i (bit old i) :=
  bit_foldl_of_covers old ok.2 (fun f hf => writeField_actsOn (ok.1 f hf) lock old new) hf hi

theorem bit_writeRegVal_of_not_covers (hi : ∀ f ∈ fs, ¬ f.Covers i) (lock : Bool) (old new : Reg32) :
    bit (writeRegVal fs lock old new) i = bit old i :=
  bit_foldl_of_not_covers old (fun f hf => writeField_actsOn (ok.1 f hf) lock old new) hi

theorem bit_readRegVal {f : FieldDef} (hf : f ∈ fs) (hi : f.Covers i) (x : Reg32) :
    bit (readRegVal fs x) i = bitRead x f i false := by
  rw [readRegVal_eq_foldl, bit_foldl_of_covers 0#32 ok.2 (fun f hf => readField_actsOn (ok.1 f hf) x) hf hi, bit_zero]

theorem bit_readRegVal_of_not_covers (hi : ∀ f ∈ fs, ¬ f.Covers i) (x : Reg32) : bit (readRegVal fs x) i = false := by
  rw [readRegVal_eq_foldl, bit_foldl_of_not_covers 0#32 (fun f hf => readField_actsOn (ok.1 f hf) x) hi, bit_zero]

theorem bit_afterReadVal {f : FieldDef} (hf : f ∈ fs) (hi : f.Covers i) (x : Reg32) :
    bit (afterReadVal fs x) i = bitAfterRead f i (bit x i) := by
  rw [afterReadVal_eq_foldl, bit_foldl_of_covers x ok.2 (fun f hf => clearReadField_actsOn (ok.1 f hf)) hf hi]

theorem bit_afterReadVal_of_not_covers (hi : ∀ f ∈ fs, ¬ f.Covers i) (x : Reg32) : bit (afterReadVal fs x) i = bit x i := by
  rw [afterReadVal_eq_foldl, bit_foldl_of_not_covers x (fun f hf => clearReadField_actsOn (ok.1 f hf)) hi]
end

/-! ### Fields -/

theorem field_congr {f : FieldDef} {x y : Reg32} (h : ∀ i, f.Covers i → bit x i = bit y i) :
    field x f.hi f.lo = field y f.hi f.lo := by
  refine Nat.eq_of_testBit_eq fun i => ?_
  rw [testBit_field, testBit_field]
  by_cases hi : i < f.hi + 1 - f.lo
  · exact congrArg _ (h (f.lo + i) (by omega))
  · simp [hi]

section
variable {fs : List FieldDef} (ok : FieldsOk fs) {f : FieldDef} (hf : f ∈ fs)
include ok hf

/-- A field whose bits a write makes those of `y` reads as in `y`. -/
theorem field_writeRegVal {lock : Bool} {old new y : Reg32} (h : ∀ i, bitWritten lock old new f i (bit old i) = bit y i) :
    field (writeRegVal fs lock old new) f.hi f.lo = field y f.hi f.lo :=
  field_congr fun i hi => (bit_writeRegVal ok hf hi lock old new).trans (h i)

theorem field_readRegVal (x : Reg32) : field (readRegVal fs x) f.hi f.lo = if f.acc = .wo then 0 else field x f.hi f.lo := by
  split
  next h =>
    rw [← field_zero f.hi f.lo]
    exact field_congr fun i hi => by simp [bit_readRegVal ok hf hi, bitRead, h]
  next h => exact field_congr fun i hi => by simp [bit_readRegVal ok hf hi, bitRead, h]

theorem field_afterReadVal (x : Reg32) : field (afterReadVal fs x) f.hi f.lo = if f.acc = .rc then 0 else field x f.hi f.lo := by
  split
  next h =>
    rw [← field_zero f.hi f.lo]
    exact field_congr fun i hi => by simp [bit_afterReadVal ok hf hi, bitAfterRead, h]
  next h => exact field_congr fun i hi => by simp [bit_afterReadVal ok hf hi, bitAfterRead, h]
end

/-- Settles O55: the three accesses are folds over fields that share no bit, so each bit is decided by its own field alone. -/
theorem accessCodes : Obligations.AccessCodes := by
  unfold Obligations.AccessCodes
  intro r hr lock old new
  have ok := fieldsOk_of_mem_regDefs r hr
  refine ⟨fun f hf => ⟨fun h => ?rw, fun h => ?ro, fun h => ?rwL, fun h i hlo hhi => ?w1c, fun h i hlo hhi => ?w1s,
    field_readRegVal ok hf old, field_afterReadVal ok hf old⟩, fun i _ hi => ⟨bit_readRegVal_of_not_covers ok hi old,
    bit_writeRegVal_of_not_covers ok hi lock old new, bit_afterReadVal_of_not_covers ok hi old⟩⟩
  case rw => exact field_writeRegVal ok hf fun i => by simp [bitWritten, h]
  case ro => exact field_writeRegVal ok hf fun i => by simp [bitWritten, h]
  case rwL =>
    cases lock
    · exact field_writeRegVal ok hf fun i => by simp [bitWritten, h]
    · exact field_writeRegVal ok hf fun i => by simp [bitWritten, h]
  case w1c => simp [bit_writeRegVal ok hf ⟨hlo, hhi⟩, bitWritten, h]
  case w1s => simp [bit_writeRegVal ok hf ⟨hlo, hhi⟩, bitWritten, h]

end Sys2Proof.Machine
end

section
/-! PROOFS. What changes no core: the work of homes, directory, caches and trace on a line or a packet (chapters 11 and 20). -/
namespace Sys2Proof.Machine

theorem foldl_cores {α : Type} (f : Dev → α → Dev) (h : ∀ d x, (f d x).cores = d.cores) (xs : List α) (d : Dev) :
    (xs.foldl f d).cores = d.cores := by
  induction xs generalizing d with
  | nil => rfl
  | cons x xs ih => rw [List.foldl_cons, ih, h]

/-! ### DRAM and the home cache -/

@[simp] theorem hubAddLine_cores (d : Dev) (line k n : Nat) : (d.hubAddLine line k n).cores = d.cores := by
  unfold Dev.hubAddLine; split <;> rfl

@[simp] theorem dramWriteback_cores (d : Dev) (line : Nat) : (d.dramWriteback line).cores = d.cores := by simp [Dev.dramWriteback]

@[simp] theorem markStale_cores (d : Dev) (line owner : Nat) (p : Option Nat) : (d.markStale line owner p).cores = d.cores := by
  unfold Dev.markStale; split <;> rfl

@[simp] theorem hcEvict_cores (d : Dev) (line : Nat) : (d.hcEvict line).cores = d.cores := by
  unfold Dev.hcEvict; dsimp only; split <;> [split; skip] <;> simp

@[simp] theorem hcInstall_cores (d : Dev) (line : Nat) (dirty : Bool) : (d.hcInstall line dirty).cores = d.cores := by
  unfold Dev.hcInstall; dsimp only; repeat' split
  all_goals simp

@[simp] theorem homeRead_cores (d : Dev) (line : Nat) : (d.homeRead line).1.cores = d.cores := by
  unfold Dev.homeRead; split
  · simp
  · dsimp only; split <;> simp

@[simp] theorem homeReadNc_cores (d : Dev) (line : Nat) : (d.homeReadNc line).1.cores = d.cores := by
  unfold Dev.homeReadNc; split <;> simp

@[simp] theorem homeWriteNc_cores (d : Dev) (line : Nat) (cells : List Host.Cell) : (d.homeWriteNc line cells).cores = d.cores := by
  unfold Dev.homeWriteNc; dsimp only; repeat' split
  all_goals simp

/-! ### The caches of a die -/

@[simp] theorem l2Drop_cores (d : Dev) (p line : Nat) : (d.l2Drop p line).cores = d.cores := rfl
@[simp] theorem l2Downgrade_cores (d : Dev) (p line : Nat) : (d.l2Downgrade p line).cores = d.cores := rfl
@[simp] theorem presClear_cores (d : Dev) (p line : Nat) : (d.presClear p line).cores = d.cores := rfl

@[simp] theorem l1Fill_cores (d : Dev) (p line : Nat) (into : Fill) : (d.l1Fill p line into).cores = d.cores := by cases into <;> rfl

@[simp] theorem l2Place_cores (d : Dev) (p line : Nat) : (d.l2Place p line).cores = d.cores := by
  unfold Dev.l2Place; dsimp only; repeat' split
  all_goals simp

@[simp] theorem l2Fill_cores (d : Dev) (p line : Nat) (excl : Bool) (into : Fill) : (d.l2Fill p line excl into).cores = d.cores := by
  simp [Dev.l2Fill]

theorem forPres_cores (d : Dev) (die : Nat) (pres : BitVec 28) (but : Option Nat) {f : Dev → Nat → Dev}
    (hf : ∀ d p, (f d p).cores = d.cores) : (d.forPres die pres but f).cores = d.cores := by
  refine foldl_cores _ (fun d n => ?_) _ _
  split
  · exact hf ..
  · rfl

@[simp] theorem dieDrop_cores (d : Dev) (die line : Nat) : (d.dieDrop die line).cores = d.cores := by
  unfold Dev.dieDrop
  split
  · rfl
  · exact forPres_cores d _ _ _ fun d p => l2Drop_cores d p line

@[simp] theorem dieDowngrade_cores (d : Dev) (die line : Nat) : (d.dieDowngrade die line).cores = d.cores := by
  unfold Dev.dieDowngrade
  split
  · rfl
  · exact forPres_cores d _ _ _ fun d p => l2Downgrade_cores d p line

/-! ### The directory -/

@[simp] theorem dirWriteBack_cores (d : Dev) (slice sector : Nat) : (d.dirWriteBack slice sector).cores = d.cores := by
  refine foldl_cores _ (fun d e => ?_) _ _
  dsimp only
  split <;> rfl

@[simp] theorem dirTouch_cores (d : Dev) (line : Nat) : (d.dirTouch line).cores = d.cores := by
  unfold Dev.dirTouch; dsimp only; repeat' split
  all_goals simp

@[simp] theorem reclaimPoison_cores (d : Dev) (line : Nat) : (d.reclaimPoison line).cores = d.cores := by
  unfold Dev.reclaimPoison; dsimp only; split <;> rfl

@[simp] theorem dirCorrect_cores (d : Dev) (line : Nat) : (d.dirCorrect line).cores = d.cores := by
  unfold Dev.dirCorrect; dsimp only; repeat' split
  all_goals simp

@[simp] theorem startRebuild_cores (d : Dev) (line : Nat) : (d.startRebuild line).cores = d.cores := by
  unfold Dev.startRebuild; split <;> rfl

@[simp] theorem setHubHeld_cores (d : Dev) (a line : Nat) (st : DirState) : (d.setHubHeld a line st).cores = d.cores := rfl
@[simp] theorem noteFar_cores (d : Dev) (who line : Nat) : (d.noteFar who line).cores = d.cores := rfl

/-! ### The home at work -/

@[simp] theorem fullWrite_cores (d : Dev) (agent line : Nat) (data : List Byte) : (d.fullWrite agent line data).cores = d.cores := by
  simp [Dev.fullWrite]

@[simp] theorem homeWrite_cores (d : Dev) (line : Nat) (cells : List Host.Cell) : (d.homeWrite line cells).cores = d.cores := by
  unfold Dev.homeWrite; dsimp only; split <;> simp

@[simp] theorem homeAtom_cores (d : Dev) (agent line : Nat) (op : AtomOp) : (d.homeAtom agent line op).cores = d.cores := by
  unfold Dev.homeAtom; dsimp only; split <;> simp

@[simp] theorem homeFinish_cores (d : Dev) (line agent : Nat) (req : HomeReq) : (d.homeFinish line agent req).cores = d.cores := by
  cases req with
  | getM => simp only [Dev.homeFinish, send_cores, setDir_cores]; split <;> simp
  | _ => simp [Dev.homeFinish]

@[simp] theorem homeRecall_cores (d : Dev) (line agent o : Nat) (req : HomeReq) (k : CohKind) :
    (d.homeRecall line agent o req k).cores = d.cores := rfl

@[simp] theorem homeInval_cores (d : Dev) (line agent : Nat) (hs : BitVec 22) (req : HomeReq) (grant : Bool) :
    (d.homeInval line agent hs req grant).cores = d.cores := by
  have hinv : ∀ as : List Nat, (as.foldl (fun d a => d.send .inv a line []) d).cores = d.cores := fun as =>
    foldl_cores _ (fun d a => send_cores d .inv a line []) as d
  unfold Dev.homeInval; dsimp only; repeat' split
  all_goals simp [hinv]

@[simp] theorem homeStart_cores (d : Dev) (line agent : Nat) (req : HomeReq) : (d.homeStart line agent req).cores = d.cores := by
  unfold Dev.homeStart; dsimp only; repeat' split
  all_goals simp

@[simp] theorem homeServe_cores (d : Dev) (line : Nat) (reqs : List (Nat × HomeReq)) : (d.homeServe line reqs).cores = d.cores := by
  induction reqs generalizing d with
  | nil => rfl
  | cons r rest ih => simp only [Dev.homeServe]; split <;> simp [ih]

@[simp] theorem recallDone_cores (d : Dev) (line : Nat) (t : HomeTxn) (kept : Bool) : (d.recallDone line t kept).cores = d.cores := by
  unfold Dev.recallDone Dev.endTxn; dsimp only; split <;> simp

@[simp] theorem ackCounted_cores (d : Dev) (line agent : Nat) (t : HomeTxn) : (d.ackCounted line agent t).cores = d.cores := by
  unfold Dev.ackCounted Dev.endTxn; dsimp only; repeat' split
  all_goals simp

@[simp] theorem ownerData_cores (d : Dev) (agent line : Nat) (data : List Byte) : (d.ownerData agent line data).cores = d.cores := by
  unfold Dev.ownerData; split <;> simp

@[simp] theorem putMHome_cores (d : Dev) (agent line : Nat) (data : List Byte) : (d.putMHome agent line data).cores = d.cores := by
  unfold Dev.putMHome; dsimp only; repeat' split
  all_goals simp

@[simp] theorem putSHome_cores (d : Dev) (agent line : Nat) : (d.putSHome agent line).cores = d.cores := by
  unfold Dev.putSHome; dsimp only; repeat' split
  all_goals simp

/-! ### Accesses made in one exchange -/

@[simp] theorem hubReach_cores (d : Dev) (agent line : Nat) (req : HomeReq) : (d.hubReach agent line req).1.cores = d.cores := by
  unfold Dev.hubReach; dsimp only; repeat' split
  all_goals simp

@[simp] theorem dropOthers_cores (d : Dev) (a line : Nat) (e : DirEntry) (discard : Bool) : (d.dropOthers a line e discard).cores = d.cores := by
  refine foldl_cores _ (fun d h => ?_) _ _
  dsimp only; repeat' split
  all_goals simp

theorem foldl_dieDowngrade_cores (d : Dev) (line : Nat) (hs : List Nat) :
    (hs.foldl (fun d h => if h < 16 then d.dieDowngrade h line else d) d).cores = d.cores := by
  refine foldl_cores _ (fun d h => ?_) _ _
  split <;> simp

@[simp] theorem dirAcquire_cores (d : Dev) (a line : Nat) (excl full : Bool) : (d.dirAcquire a line excl full).1.cores = d.cores := by
  unfold Dev.dirAcquire; dsimp only; repeat' split
  all_goals simp [foldl_dieDowngrade_cores]

@[simp] theorem dirClear_cores (d : Dev) (line : Nat) : (d.dirClear line).cores = d.cores := by simp [Dev.dirClear]

@[simp] theorem homeStore_cores (d : Dev) (who : Nat) (cells : List Host.Cell) : (d.homeStore who cells).cores = d.cores := by
  unfold Dev.homeStore; dsimp only; repeat' split
  all_goals simp

@[simp] theorem ncWrite_cores (d : Dev) (who : Nat) (cells : List Host.Cell) : (d.ncWrite who cells).cores = d.cores := by
  unfold Dev.ncWrite; split <;> simp

theorem readHome_cores (d : Dev) (line : Nat) {read : Dev → Nat → Dev × Bool} (hr : ∀ d n, (read d n).1.cores = d.cores) :
    (d.readHome line read).1.cores = d.cores := by
  unfold Dev.readHome; dsimp only; split <;> simp [hr, foldl_dieDowngrade_cores]

/-! ### A core's own access -/

@[simp] theorem l3Evict_cores (d : Dev) (die line : Nat) : (d.l3Evict die line).cores = d.cores := by
  unfold Dev.l3Evict; dsimp only; repeat' split
  all_goals simp

@[simp] theorem l3Fill_cores (d : Dev) (sk die line : Nat) (t : L3Tag) : (d.l3Fill sk die line t).cores = d.cores := by
  unfold Dev.l3Fill; dsimp only; repeat' split
  all_goals simp

@[simp] theorem coreReach_cores (d : Dev) (l line : Nat) (excl : Bool) : (d.coreReach l line excl).1.cores = d.cores := by
  unfold Dev.coreReach; repeat' split
  all_goals simp

@[simp] theorem ncReach_cores (d : Dev) (l line : Nat) : (d.ncReach l line).1.cores = d.cores := by simp [Dev.ncReach]

@[simp] theorem l3Serve_cores (d : Dev) (l p line : Nat) (excl full : Bool) : (d.l3Serve l p line excl full).1.cores = d.cores := by
  unfold Dev.l3Serve; dsimp only
  rw [l3Fill_cores]
  split
  · rw [forPres_cores _ _ _ _ fun d q => l2Drop_cores d q line]; split <;> simp
  split
  · rw [forPres_cores _ _ _ _ fun d q => l2Downgrade_cores d q line]; split <;> simp
  · split <;> simp

@[simp] theorem coreLine_cores (d : Dev) (l line : Nat) (excl : Bool) (into : Fill) (full : Bool) :
    (d.coreLine l line excl into full).1.cores = d.cores := by
  unfold Dev.coreLine; dsimp only; repeat' split
  all_goals simp [readHome_cores]

@[simp] theorem noteL1i_cores (d : Dev) (p line : Nat) : (d.noteL1i p line).cores = d.cores := by
  unfold Dev.noteL1i; dsimp only; repeat' split
  all_goals rfl

@[simp] theorem l1iSync_cores (d : Dev) (l : Nat) : (d.l1iSync l).cores = d.cores := by
  unfold Dev.l1iSync; split <;> rfl

/-! ### Trace -/

@[simp] theorem traceResume_cores (d : Dev) (l : Nat) : (d.traceResume l).cores = d.cores := by
  unfold Dev.traceResume; dsimp only; repeat' split
  all_goals rfl

@[simp] theorem tracePush_cores (d : Dev) (bs : List Byte) : (d.tracePush bs).cores = d.cores := by
  unfold Dev.tracePush; dsimp only; repeat' split
  all_goals rfl

@[simp] theorem traceRecord_cores (d : Dev) (l : Nat) (lvl : Level) (kind : Nat) (pre : List Byte) (addr : Nat) :
    (d.traceRecord l lvl kind pre addr).cores = d.cores := by
  unfold Dev.traceRecord; dsimp only; repeat' split
  all_goals simp

@[simp] theorem traceRetire_cores (d : Dev) (l : Nat) : (d.traceRetire l).cores = d.cores := by
  unfold Dev.traceRetire; dsimp only; repeat' split
  all_goals simp

end Sys2Proof.Machine
end

section
/-! PROOFS. What a core's own stores change of it where they are performed before an entry or a return (10 R330 to R334, 06 R213): its buffers alone. -/
namespace Sys2Proof.Machine

/-- The core, with what performing its buffered stores changes of it as in `b`: the store buffer, the stores and DEVICE requests in
flight, the landing area, CORE_ABERR and the pending vectors; and the STLB as fetch uses it, which an entry takes over. -/
def Core.withBuffersOf (c b : Core) : Core :=
  { c with pend := b.pend, aberr := b.aberr, stlbF := b.stlbF, sb := b.sb, pendSt := b.pendSt, devOut := b.devOut, nextTid := b.nextTid,
           landing := b.landing }

/-- Core `l` of `e` is that of `d` but for its buffers. -/
def BuffersOnly (l : Nat) (d e : Dev) : Prop := e.core l = (d.core l).withBuffersOf (e.core l)

theorem core_of_cores {d e : Dev} (h : e.cores = d.cores) (l : Nat) : e.core l = d.core l := by simp [Dev.core, h]

theorem buffersOnly_of_cores {d e : Dev} (h : e.cores = d.cores) (l : Nat) : BuffersOnly l d e := by
  unfold BuffersOnly; rw [core_of_cores h l]; rfl

theorem BuffersOnly.refl (l : Nat) (d : Dev) : BuffersOnly l d d := buffersOnly_of_cores rfl l

theorem BuffersOnly.trans {l : Nat} {d e f : Dev} (h : BuffersOnly l d e) (h' : BuffersOnly l e f) : BuffersOnly l d f := by
  unfold BuffersOnly at *; rw [h', h]; rfl

theorem buffersOnly_updCore {f : Core → Core} (h : ∀ c, f c = c.withBuffersOf (f c)) (l : Nat) (d : Dev) : BuffersOnly l d (d.updCore l f) := by
  unfold BuffersOnly; rw [core_updCore, if_pos rfl]; exact h _

theorem buffersOnly_raiseLocal (d : Dev) (l v : Nat) : BuffersOnly l d (d.raiseLocal l v) := by
  unfold Dev.raiseLocal
  split
  · exact .refl l d
  · exact buffersOnly_updCore (fun _ => rfl) l d

theorem buffersOnly_storeError (d : Dev) (l : Nat) (secure device : Bool) (st : Status) (pa : Nat) :
    BuffersOnly l d (d.storeError l secure device st pa) :=
  .trans (buffersOnly_updCore (fun c => by split <;> rfl) l d) (buffersOnly_raiseLocal _ l _)

theorem buffersOnly_notePending (d : Dev) (l p line : Nat) : BuffersOnly l d (d.notePending l p line) := by
  unfold Dev.notePending
  split
  · split
    · exact buffersOnly_updCore (fun _ => rfl) l d
    · exact .refl l d
  · exact .refl l d

theorem buffersOnly_coreWrite (d : Dev) (l : Nat) (into : Fill) (cells : List Host.Cell) : BuffersOnly l d (d.coreWrite l into cells) := by
  unfold Dev.coreWrite
  split
  · exact .refl l d
  next c cs =>
  dsimp only
  split
  · exact buffersOnly_of_cores (homeStore_cores ..) l
  refine .trans (buffersOnly_of_cores (coreLine_cores d l (c.1 / 64) true into (coversLine (c.1 / 64) (c :: cs))) l) ?_
  generalize (d.coreLine l (c.1 / 64) true into (coversLine (c.1 / 64) (c :: cs))).1 = e
  have hput (f : Dev) (hf : BuffersOnly l e f) : BuffersOnly l e (if coversLine (c.1 / 64) (c :: cs) then
      (f.putBytes (c :: cs)).setPoison (c.1 / 64) false else f.putBytes (c :: cs)) :=
    hf.trans (buffersOnly_of_cores (by split <;> rfl) l)
  refine hput _ ?_
  split
  · exact .trans (buffersOnly_of_cores (by simp) l) (buffersOnly_notePending ..)
  · exact buffersOnly_of_cores (by simp) l

theorem buffersOnly_memStore (d : Dev) (l : Nat) (cells : List Host.Cell) (mt : MemType) (vi : Nat) :
    BuffersOnly l d (d.memStore l cells mt vi) := by
  unfold Dev.memStore
  split
  · exact buffersOnly_of_cores (ncWrite_cores ..) l
  · exact buffersOnly_coreWrite ..

/-- The home is asked for a line before a store to memory, which changes no core. -/
theorem reach_cores (d : Dev) (l line : Nat) (mt : MemType) (excl : Bool) :
    (if mt = .nc then d.ncReach l line else d.coreReach l line excl).1.cores = d.cores := by
  split <;> simp

theorem buffersOnly_issueStore (d : Dev) (l : Nat) (it : SbItem) : BuffersOnly l d (d.issueStore l it).1 := by
  unfold Dev.issueStore
  split
  case h_1 | h_2 => exact .refl l d
  case h_3 c cs mt lvl vi =>
    dsimp only
    split
    · exact buffersOnly_storeError ..
    · exact buffersOnly_updCore (fun _ => rfl) l d
    · split
      · exact buffersOnly_updCore (fun _ => rfl) l d
      · exact .refl l d
    · have hreach := buffersOnly_of_cores (reach_cores d l (c.1 / 64) mt true) l
      split
      case h_1 e he => rw [he] at hreach; exact hreach.trans (buffersOnly_memStore ..)
      case h_2 e he => rwa [he] at hreach
      case h_3 e he => rwa [he] at hreach
      case h_4 e st he => rw [he] at hreach; exact hreach.trans (buffersOnly_storeError ..)

theorem buffersOnly_drainItems (d : Dev) (l : Nat) (its : List SbItem) : BuffersOnly l d (d.drainItems l its).1 := by
  induction its generalizing d with
  | nil => exact .refl l d
  | cons it rest ih =>
    have hit := buffersOnly_issueStore d l it
    unfold Dev.drainItems
    split
    case h_1 e he => rw [he] at hit; exact hit.trans (ih e)
    case h_2 e he => rwa [he] at hit

theorem buffersOnly_drainMark (d : Dev) (l : Nat) (all : Bool) : BuffersOnly l d (d.drainMark l all) := by
  have hdrain : BuffersOnly l d (d.drain l) :=
    (buffersOnly_drainItems d l (d.core l).sb).trans (buffersOnly_updCore (fun _ => rfl) l _)
  unfold Dev.drainMark
  dsimp only
  split
  · exact hdrain
  · exact hdrain.trans (buffersOnly_updCore (fun _ => rfl) l _)

theorem buffersOnly_refetch (d : Dev) (l : Nat) : BuffersOnly l d (d.refetch l) :=
  (buffersOnly_of_cores (l1iSync_cores d l) l).trans (buffersOnly_updCore (fun _ => rfl) l _)

/-- What orders an entry or a return and lets fetch see the stores before it (10 R334, 06 R213) changes only buffers. -/
theorem buffersOnly_ordered (d : Dev) (l : Nat) : BuffersOnly l d ((d.drainMark l true).refetch l) :=
  (buffersOnly_drainMark d l true).trans (buffersOnly_refetch _ l)

end Sys2Proof.Machine
end

section
/-! PROOFS. What an instruction that enters a bank or returns from one leaves of a ready core (08 R254 to R259). -/
namespace Sys2Proof.Machine

/-! ### Retirement of an entry or a return -/

/-- The counters of a core do not count (19 R586). -/
def Pmu.idle (p : Pmu) : Bool := !bit p.ctl 0 || bit p.ctl 2

theorem pmuCount_of_idle {d : Dev} {l : Fin 384} (h : (d.core l.val).pmu.idle = true) (lvl : Level) (evs : List (Nat × Nat)) :
    d.pmuCount l lvl evs = d :=
  if_pos h

theorem pmu_idle_of_quiet {d : Dev} {l : Nat} (h : d.quiet l = true) : (d.core l).pmu.idle = true := by
  simp only [Dev.quiet, Bool.and_eq_true] at h
  obtain ⟨⟨⟨hpmu, -⟩, -⟩, -⟩ := h
  exact hpmu

@[simp] theorem traceExcept_cores (d : Dev) (l : Nat) (intr : Bool) (code : Nat) : (d.traceExcept l intr code).cores = d.cores :=
  traceRecord_cores ..

@[simp] theorem traceReturn_cores (d : Dev) (l : Nat) (world : Bool) : (d.traceReturn l world).cores = d.cores :=
  traceRecord_cores ..

theorem core_finish_moved {e : Dev} {l : Fin 384} (h : (e.core l.val).pmu.idle = true) (d : Dev) (evs : List (Nat × Nat)) :
    (d.finish l (.moved e evs)).core l.val = (e.core l.val).past := by
  change (((e.pmuCount l _ ((2, 1) :: evs)).traceRetire l.val).updCore l.val Core.past).core l.val = _
  rw [pmuCount_of_idle h, core_updCore, if_pos rfl, core_of_cores (traceRetire_cores ..)]

theorem core_finish_exc {d : Dev} {l : Fin 384} {x : Exc} (h : ((d.takeExc l.val x).core l.val).pmu.idle = true) (d0 : Dev) :
    (d0.finish l (.exc d x)).core l.val = ((d.takeExc l.val x).core l.val).past := by
  change ((((d.takeExc l.val x).pmuCount l _ _).updCore l.val Core.past).traceExcept l.val false x.code).core l.val = _
  rw [pmuCount_of_idle h, core_of_cores (traceExcept_cores ..), core_updCore, if_pos rfl]

/-! ### What an entry and a return make of a core -/

/-- A change of a core that neither reads nor writes its buffers and leaves its counters. -/
def LeavesBuffers (g : Core → Core) : Prop := (∀ c b, g (c.withBuffersOf b) = (g c).withBuffersOf b) ∧ ∀ c, (g c).pmu = c.pmu

/-- Of such a change after what orders it, only the change itself and the buffers are seen. -/
theorem core_ordered_updCore {g : Core → Core} (hg : LeavesBuffers g) (d : Dev) (l : Nat) :
    ∃ b, (((d.drainMark l true).refetch l).updCore l g).core l = (g (d.core l)).withBuffersOf b := by
  refine ⟨((d.drainMark l true).refetch l).core l, ?_⟩
  rw [core_updCore, if_pos rfl, ← hg.1, ← buffersOnly_ordered d l]

theorem pmu_withBuffersOf (c b : Core) : (c.withBuffersOf b).pmu = c.pmu := rfl
theorem level_withBuffersOf (c b : Core) : (c.withBuffersOf b).level = c.level := rfl
theorem bank_withBuffersOf (c b : Core) (sec : Bool) : (c.withBuffersOf b).bank sec = c.bank sec := rfl

theorem setBank_withBuffersOf (c b : Core) (sec : Bool) (k : Bank) : (c.withBuffersOf b).setBank sec k = (c.setBank sec k).withBuffersOf b := by
  cases sec <;> rfl

theorem pmu_setBank (c : Core) (sec : Bool) (k : Bank) : (c.setBank sec k).pmu = c.pmu := by cases sec <;> rfl

theorem leavesBuffers_take (sec : Bool) (cause : Reg32) (addr saved : Word) (off : Nat) :
    LeavesBuffers fun c => c.take sec cause addr saved off := by
  constructor
  · intro c b
    unfold Core.take
    simp only [setBank_withBuffersOf, bank_withBuffersOf, level_withBuffersOf]
    split <;> rfl
  · intro c
    unfold Core.take
    dsimp only
    split <;> exact pmu_setBank ..

theorem leavesBuffers_eret : LeavesBuffers Core.eret := by
  constructor
  · intro c b
    unfold Core.eret
    simp only [setBank_withBuffersOf, bank_withBuffersOf, level_withBuffersOf]
    rfl
  · exact fun c => pmu_setBank ..

theorem leavesBuffers_wret : LeavesBuffers Core.wret := ⟨fun _ _ => rfl, fun _ => rfl⟩

/-- The entry that an exception makes on its core (08 R254, R255). -/
def Core.takeExc (c : Core) (x : Exc) : Core :=
  c.take (c.level.secure || x.code == 0x11) (causeOf false x.info x.sub x.code) x.addr
    (if x.code = 0x10 ∨ x.code = 0x11 then c.pc + 4#64 else c.pc) (if x.code = 0x11 then 0x200 else 0)

theorem core_takeExc (d : Dev) (l : Nat) (x : Exc) : ∃ b, (d.takeExc l x).core l = ((d.core l).takeExc x).withBuffersOf b :=
  core_ordered_updCore (leavesBuffers_take ..) d l

theorem pmu_takeExc (c : Core) (x : Exc) : (c.takeExc x).pmu = c.pmu := (leavesBuffers_take ..).2 c

theorem takeExc_of_ne_wcall {x : Exc} (h : x.code ≠ 0x11) (c : Core) :
    c.takeExc x = c.take c.level.secure (causeOf false x.info x.sub x.code) x.addr (if x.code = 0x10 then c.pc + 4#64 else c.pc) 0 := by
  simp [Core.takeExc, h, beq_false_of_ne h]

theorem takeExc_wcall (c : Core) : c.takeExc ⟨0x11, 0, 0, 0#64⟩ = c.take true 0x11#32 0#64 (c.pc + 4#64) 0x200 := by
  simp [Core.takeExc, causeOf, b2n]

/-! ### Instructions of a ready core that enter or return -/

/-- An instruction that has set the PC itself by such a change of its core, after what orders it. -/
theorem completes_moved {c : Instr} {l : Fin 384} {s : State} {f : Dev → CoreOut} {e : Dev} {evs : List (Nat × Nat)} {k : Core}
    (he : exec c s = runInstr l s f) (hs : s.ready l) (hf : f (s.fetched l) = .moved e evs)
    (hk : ∃ b, e.core l.val = k.withBuffersOf b) (hp : k.pmu = ((s.fetched l).core l.val).pmu) :
    Completes c s fun t => ∃ b, t.core l.val = k.past.withBuffersOf b := by
  obtain ⟨b, hb⟩ := hk
  have hidle : (e.core l.val).pmu.idle = true := by
    rw [hb, pmu_withBuffersOf, hp]
    exact pmu_idle_of_quiet hs.2.2
  refine ⟨_, he, rfl, b, ?_⟩
  change (s.dev.instr l f).core l.val = _
  rw [instr_ready s l f hs, hf, core_finish_moved hidle, hb]; rfl

/-- An instruction that raises an exception. -/
theorem completes_exc {c : Instr} {l : Fin 384} {s : State} {f : Dev → CoreOut} {x : Exc}
    (he : exec c s = runInstr l s f) (hs : s.ready l) (hf : f (s.fetched l) = .exc (s.fetched l) x) :
    Completes c s fun t => ∃ b, t.core l.val = (((s.fetched l).core l.val).takeExc x).past.withBuffersOf b := by
  obtain ⟨b, hb⟩ := core_takeExc (s.fetched l) l.val x
  have hidle : (((s.fetched l).takeExc l.val x).core l.val).pmu.idle = true := by
    rw [hb, pmu_withBuffersOf, pmu_takeExc]
    exact pmu_idle_of_quiet hs.2.2
  refine ⟨_, he, rfl, b, ?_⟩
  change (s.dev.instr l f).core l.val = _
  rw [instr_ready s l f hs, hf, core_finish_exc hidle, hb]; rfl

theorem Completes.imp {c : Instr} {s : State} {p q : Dev → Prop} (h : Completes c s p) (hpq : ∀ t, p t → q t) : Completes c s q := by
  obtain ⟨t, ht, hpend, hp⟩ := h
  exact ⟨t, ht, hpend, hpq _ hp⟩

end Sys2Proof.Machine
end

section
/-! PROOFS. A word handed to a core is performed as the command that it spells (07 R221, R223). -/
namespace Sys2Proof.Machine

/-- What a core does with a word that decodes to `o` is what the command that the word spells does, if it spells one (07 R221). -/
def PerformsAsSpelled (l : Fin 384) (o : Option Instr) : Prop := o.elim (illegalWord l) (wordMeaning l) = o.elim (illegalWord l) exec

section
variable (l : Fin 384) (w : BitVec 32)

theorem decodeInt_performs : PerformsAsSpelled l (decodeInt l w) := by
  dsimp only [decodeInt, ifZero]
  repeat' split
  all_goals rfl

theorem decodeMul_performs : PerformsAsSpelled l (decodeMul l w) := by
  dsimp only [decodeMul]
  repeat' split
  all_goals rfl

theorem decodeShift_performs : PerformsAsSpelled l (decodeShift l w) := by
  dsimp only [decodeShift]
  repeat' split
  all_goals rfl

theorem decodeBitField_performs : PerformsAsSpelled l (decodeBitField l w) := by
  dsimp only [decodeBitField]
  repeat' split
  all_goals rfl

theorem decodeImm_performs : PerformsAsSpelled l (decodeImm l w) := by
  dsimp only [decodeImm, ifZero]
  repeat' split
  any_goals rfl
  · exact decodeShift_performs l w
  · exact decodeBitField_performs l w

theorem decodeMem_performs : PerformsAsSpelled l (decodeMem l w) := by
  dsimp only [decodeMem, ifZero]
  repeat' split
  all_goals rfl

theorem decodeJump_performs : PerformsAsSpelled l (decodeJump l w) := by
  dsimp only [decodeJump]
  repeat' split
  all_goals rfl

theorem decodeFpArith_performs : PerformsAsSpelled l (decodeFpArith l w) := by
  dsimp only [decodeFpArith, ifZero]
  repeat' split
  all_goals rfl

theorem decodeFma_performs : PerformsAsSpelled l (decodeFma l w) := by
  dsimp only [decodeFma]
  repeat' split
  all_goals rfl

theorem decodeFpCmp_performs : PerformsAsSpelled l (decodeFpCmp l w) := by
  dsimp only [decodeFpCmp, ifZero]
  repeat' split
  all_goals rfl

theorem decodeFpCvt_performs : PerformsAsSpelled l (decodeFpCvt l w) := by
  dsimp only [decodeFpCvt, ifZero]
  repeat' split
  all_goals rfl

theorem decodeAtomic_performs : PerformsAsSpelled l (decodeAtomic l w) := by
  dsimp only [decodeAtomic, ifZero]
  repeat' split
  all_goals rfl

theorem decodeBar_performs : PerformsAsSpelled l (decodeBar l w) := by
  dsimp only [decodeBar]
  repeat' split
  all_goals rfl

theorem decodeCrypto_performs : PerformsAsSpelled l (decodeCrypto l w) := by
  dsimp only [decodeCrypto, ifZero]
  repeat' split
  all_goals rfl

theorem decodePlyVec_performs : PerformsAsSpelled l (decodePlyVec l w) := by
  dsimp only [decodePlyVec, ifZero]
  repeat' split
  all_goals rfl

theorem decodePlyMask_performs : PerformsAsSpelled l (decodePlyMask l w) := by
  dsimp only [decodePlyMask, ifZero]
  repeat' split
  all_goals rfl

theorem decodePlyMem_performs : PerformsAsSpelled l (decodePlyMem l w) := by
  dsimp only [decodePlyMem, ifZero]
  repeat' split
  any_goals rfl
  · exact decodePlyMask_performs l w

theorem decodePlyUnary_performs : PerformsAsSpelled l (decodePlyUnary l w) := by
  dsimp only [decodePlyUnary, ifZero]
  repeat' split
  all_goals rfl

theorem decodeQueue_performs : PerformsAsSpelled l (decodeQueue l w) := by
  dsimp only [decodeQueue, ifZero]
  repeat' split
  all_goals rfl

theorem decodeQctl_performs : PerformsAsSpelled l (decodeQctl l w) := by
  dsimp only [decodeQctl, ifZero]
  repeat' split
  all_goals rfl

theorem decodeTlbi_performs : PerformsAsSpelled l (decodeTlbi l w) := by
  dsimp only [decodeTlbi]
  repeat' split
  all_goals rfl

theorem decodeSysOp_performs : PerformsAsSpelled l (decodeSysOp l w) := by
  dsimp only [decodeSysOp, ifZero]
  repeat' split
  all_goals rfl

theorem decodeSys_performs : PerformsAsSpelled l (decodeSys l w) := by
  dsimp only [decodeSys, ifZero]
  repeat' split
  any_goals rfl
  · exact decodeTlbi_performs l w
  · exact decodeSysOp_performs l w

theorem decodeWord_performs : PerformsAsSpelled l (decodeWord l w) := by
  unfold decodeWord
  split
  · exact decodeInt_performs l w
  · exact decodeMul_performs l w
  · exact decodeFpArith_performs l w
  · exact decodeFma_performs l w
  · exact decodeFpCmp_performs l w
  · exact decodeFpCvt_performs l w
  · exact decodeAtomic_performs l w
  · exact decodeAtomic_performs l w
  · exact decodeBar_performs l w
  · exact decodePlyVec_performs l w
  · rfl
  · exact decodePlyMem_performs l w
  · exact decodePlyUnary_performs l w
  · exact decodeQueue_performs l w
  · exact decodeQctl_performs l w
  · exact decodeCrypto_performs l w
  · exact decodeSys_performs l w
  · split <;> [skip; split]
    · exact decodeImm_performs l w
    · exact decodeMem_performs l w
    · exact decodeJump_performs l w
end

/-- No word spells a command that a core does not perform as the instruction it is. -/
theorem wordMeaning_eq_exec {l : Fin 384} {w : BitVec 32} {i : Instr} (h : decodeWord l w = some i) : wordMeaning l i = exec i := by
  have hperf := decodeWord_performs l w
  rwa [h] at hperf

theorem exec_unassignedMajor_of_some {l : Fin 384} {w : BitVec 32} {i : Instr} (h : decodeWord l w = some i) (s : State) :
    exec (.unassignedMajor l w) s = exec i s := by
  change execUnassignedMajor l w s = _
  unfold execUnassignedMajor
  rw [h, ← wordMeaning_eq_exec h]

theorem exec_unassignedMajor_of_none {l : Fin 384} {w : BitVec 32} (h : decodeWord l w = none) (s : State) :
    exec (.unassignedMajor l w) s = runInstr l s fun d => .exc d .illegal := by
  change execUnassignedMajor l w s = _
  unfold execUnassignedMajor
  rw [h]; rfl

end Sys2Proof.Machine
end

section
/-! PROOFS. Exceptions and returns: the obligations of 08 R254 to R259. -/
namespace Sys2Proof.Machine

/-! ### Entries -/

/-- A core that has entered a bank from `k`: what the bank saves of `k` and where the core goes on, the rest of `k` standing. -/
def Enters (k : Core) (sec : Bool) (saved : Word) (cause : Reg32) (addr : Word) (off : Nat) (k2 : Core) : Prop :=
  k2.pc = (k.bank sec).vbase + BitVec.ofNat 64 off ∧ k2.level = (if sec then .sk else .k) ∧
  k2.bank sec = { k.bank sec with epc := saved, cause := cause, addr := addr, ppriv := k.level.priv, pie := (k.bank sec).ie, ie := false } ∧
  k2.bank (!sec) = k.bank (!sec) ∧ k2.g = k.g ∧ k2.v = k.v ∧ k2.m = k.m ∧ k2.fpFlags = k.fpFlags ∧ k2.psat = k.psat

theorem enters_take (k b : Core) (sec : Bool) (saved : Word) (cause : Reg32) (addr : Word) (off : Nat) :
    Enters k sec saved cause addr off ((k.take sec cause addr saved off).past.withBuffersOf b) := by
  unfold Core.take
  dsimp only
  split <;> cases sec <;> exact ⟨rfl, rfl, rfl, rfl, rfl, rfl, rfl, rfl, rfl⟩

/-- An instruction that raises an exception other than world call enters the bank of its world; SYS saves the next address. -/
theorem completes_enters {c : Instr} {l : Fin 384} {s : State} {f : Dev → CoreOut} {code sub info : Nat} {addr : Word} {k : Core}
    (hk : (s.fetched l).core l.val = k) (he : exec c s = runInstr l s f) (hs : s.ready l)
    (hf : f (s.fetched l) = .exc (s.fetched l) ⟨code, sub, info, addr⟩) (hcode : code ≠ 0x11) :
    Completes c s fun t => Enters k k.level.secure (if code = 0x10 then k.pc + 4#64 else k.pc) (causeOf false info sub code) addr 0
      (t.core l.val) := by
  refine (completes_exc he hs hf).imp ?_
  rintro t ⟨b, hb⟩
  rw [hb, hk, takeExc_of_ne_wcall hcode]
  exact enters_take ..

/-- The CAUSE of an exception that has only a code and an info of 12 bits. -/
theorem causeOf_info {info code : Nat} (hi : info < 4096) (hc : code < 256) : causeOf false info 0 code = BitVec.ofNat 32 (info * 4096 + code) := by
  simp [causeOf, b2n, Nat.mod_eq_of_lt hi, Nat.mod_eq_of_lt hc]

theorem wcall_enters {l : Fin 384} {s : State} {k : Core} (hk : (s.fetched l).core l.val = k) (hs : s.ready l) (hlvl : k.level = .k)
    (hsec : (s.fetched l).secureSkein l.val = true) :
    Completes (.wcall l) s fun t => Enters k true (k.pc + 4#64) 0x11#32 0#64 0x200 (t.core l.val) := by
  obtain ⟨b, hb⟩ := core_takeExc (s.fetched l) l.val ⟨0x11, 0, 0, 0#64⟩
  have hf : ¬ (((s.fetched l).core l.val).level ≠ .k ∨ (!(s.fetched l).secureSkein l.val) = true) := by simp [hk, hlvl, hsec]
  refine (completes_moved (rfl : exec (.wcall l) s = execWcall l s) hs (if_neg hf)
    ⟨b, (core_of_cores (traceReturn_cores ..) _).trans hb⟩ (pmu_takeExc ..)).imp ?_
  rintro t ⟨b, hb⟩
  rw [hb, hk, takeExc_wcall]
  exact enters_take ..

/-! ### Returns -/

/-- ERET or WRET, whose change of its core is `g`. -/
theorem completes_return {c : Instr} {l : Fin 384} {s : State} {f : Dev → CoreOut} {g : Core → Core} {world : Bool} {evs : List (Nat × Nat)}
    (hg : LeavesBuffers g) (he : exec c s = runInstr l s f) (hs : s.ready l)
    (hf : f (s.fetched l) = .moved (((((s.fetched l).drainMark l.val true).refetch l.val).updCore l.val g).traceReturn l.val world) evs) :
    Completes c s fun t => ∃ b, t.core l.val = (g ((s.fetched l).core l.val)).past.withBuffersOf b := by
  obtain ⟨b, hb⟩ := core_ordered_updCore hg (s.fetched l) l.val
  exact completes_moved he hs hf ⟨b, (core_of_cores (traceReturn_cores ..) _).trans hb⟩ (hg.2 _)

/-- A filter by keys keeps what it lists of the keys it keeps. -/
theorem mget_filter {α : Type} (d : α) (m : List (Nat × α)) (p : Nat → Bool) (k : Nat) :
    mget d (m.filter fun e => p e.1) k = if p k then mget d m k else d := by
  induction m with
  | nil => simp [mget]
  | cons x t ih =>
    obtain ⟨a, v⟩ := x
    by_cases ha : a = k
    · subst ha
      cases hp : p a <;> simp [hp, mget, ih]
    · cases hp : p a <;> simp [hp, mget, ih, ha]

/-- WRET leaves g1, g2 and g4 to g7 of the general registers (08 R259). -/
theorem rg_wret (c : Core) (r : BitVec 5) : c.wret.rg r = if r ∈ [1#5, 2#5, 4#5, 5#5, 6#5, 7#5] then c.rg r else 0#64 := by
  have hkeep : ∀ r : BitVec 5, (r.toNat == 1 || r.toNat == 2 || (4 ≤ r.toNat && r.toNat ≤ 7)) = decide (r ∈ [1#5, 2#5, 4#5, 5#5, 6#5, 7#5]) := by
    decide
  have hg : mget 0#64 c.wret.g r.toNat = if decide (r ∈ [1#5, 2#5, 4#5, 5#5, 6#5, 7#5]) then mget 0#64 c.g r.toNat else 0#64 := by
    rw [← hkeep]; exact mget_filter _ _ (fun n => n == 1 || n == 2 || (4 ≤ n && n ≤ 7)) _
  unfold Core.rg
  rw [hg]
  by_cases hr : r = 0#5
  · simp [hr]
  · simp [hr]

/-- A core that ERET has returned from a handler of `k` (08 R257). -/
def ReturnsInWorld (k k2 : Core) : Prop :=
  let w := k.level.secure
  k2.level = (if (k.bank w).ppriv then (if w then .sk else .k) else (if w then .su else .u)) ∧ k2.pc = (k.bank w).epc ∧
  k2.bank w = { k.bank w with ie := (k.bank w).pie } ∧ k2.bank (!w) = k.bank (!w) ∧ k2.g = k.g ∧ k2.v = k.v ∧ k2.m = k.m

theorem returns_eret (k b : Core) : ReturnsInWorld k (k.eret.past.withBuffersOf b) := by
  unfold ReturnsInWorld Core.eret
  dsimp only
  cases k.level.secure <;> exact ⟨rfl, rfl, rfl, rfl, rfl, rfl, rfl⟩

/-- Settles O57: the return changes its core by `Core.eret` alone, and below a privileged level it is the entry of a privilege exception. -/
theorem eretReturnsWithinItsWorld : Obligations.EretReturnsWithinItsWorld := by
  intro l s hs
  generalize hk : (s.fetched l).core l.val = k
  refine ⟨fun hpriv => ?returns, fun hpriv => ?privilege⟩
  case returns =>
    have hf : ¬ (!((s.fetched l).core l.val).level.priv) = true := by simp [hk, hpriv]
    refine (completes_return leavesBuffers_eret (rfl : exec (.eret l) s = execEret l s) hs (if_neg hf)).imp ?_
    rintro t ⟨b, hb⟩
    rw [hb, hk]
    exact returns_eret ..
  case privilege =>
    have hf : (!((s.fetched l).core l.val).level.priv) = true := by simp [hk, hpriv]
    refine (completes_enters hk (rfl : exec (.eret l) s = execEret l s) hs (if_pos hf) (by decide)).imp ?_
    rintro t ⟨hpc, -, hbank, -, hg, -⟩
    refine ⟨by rw [hpc, BitVec.add_zero], by rw [hbank]; rfl, by rw [hbank]; rfl, hg⟩

/-- Settles O20: four entries of a bank by `Core.take`, a decoder whose every word is performed as the command it spells, and a return
by `Core.wret`. -/
theorem exceptionsComplete : Obligations.ExceptionsComplete := by
  intro l code word s hs
  dsimp only
  generalize hk : (s.fetched l).core l.val = k
  refine ⟨?sys, ?brk, fun hnone => ?illegal, fun i hi => exec_unassignedMajor_of_some hi s, fun hlvl hsec => wcall_enters hk hs hlvl hsec,
    fun hlvl => ?wret⟩
  case sys =>
    have h := completes_enters hk (rfl : exec (.sys l code) s = execSys l code s) hs rfl (by decide)
    rwa [causeOf_info code.isLt (by decide)] at h
  case brk =>
    have h := completes_enters hk (rfl : exec (.brk l code) s = execBrk l code s) hs
      (congrArg (fun k : Core => CoreOut.exc (s.fetched l) ⟨0x12, 0, code.toNat, k.pc⟩) hk) (by decide)
    rwa [causeOf_info code.isLt (by decide)] at h
  case illegal =>
    exact completes_enters hk (exec_unassignedMajor_of_none hnone s) hs rfl (by decide)
  case wret =>
    have hf : ¬ ((s.fetched l).core l.val).level ≠ .sk := by simp [hk, hlvl]
    refine (completes_return leavesBuffers_wret (rfl : exec (.wret l) s = execWret l s) hs (if_neg hf)).imp ?_
    rintro t ⟨b, hb⟩
    rw [hb, hk]
    exact ⟨rfl, rfl, rfl, rfl, rg_wret k, rfl, rfl, rfl, rfl, rfl, rfl, rfl, rfl, rfl, rfl, rfl, rfl, rfl, rfl, rfl, rfl⟩

end Sys2Proof.Machine
end

section
/-! PROOFS. The queue: every command ends in a next state with the queue it was given, so a queue is worked off from its front. -/
namespace Sys2Proof.Machine

/-- An outcome that goes on with the queue of `s`. -/
def KeepsQueue (s : State) (o : Host.Outcome State Fault Refusal) : Prop := ∃ t, o = .next t ∧ t.pending = s.pending

theorem keepsQueue_of_eq_onDev {s : State} {o : Host.Outcome State Fault Refusal} {f : Dev → Dev} (h : o = onDev s f) : KeepsQueue s o :=
  ⟨_, h, rfl⟩

theorem exec_hnkRetrain (q : Requester) (port : Fin 8) (s : State) : exec (.hnkRetrain q port) s = onDev s fun d => d.hnkDo q port.val 1 := rfl

set_option maxRecDepth 3000 in
theorem wordMeaning_keepsQueue (l : Fin 384) (i : Instr) (s : State) : KeepsQueue s (wordMeaning l i s) := by
  cases i
  all_goals exact ⟨_, rfl, rfl⟩

theorem unassignedMajor_keepsQueue (l : Fin 384) (w : BitVec 32) (s : State) : KeepsQueue s (execUnassignedMajor l w s) := by
  unfold execUnassignedMajor
  split
  · exact wordMeaning_keepsQueue ..
  · exact ⟨_, rfl, rfl⟩

set_option maxRecDepth 3000 in
/-- Every command is a change of the device alone, case by case. -/
theorem exec_keepsQueue (c : Instr) (s : State) : KeepsQueue s (exec c s) := by
  cases c
  case unassignedMajor l w => exact unassignedMajor_keepsQueue l w s
  case hnkRetrain q port => exact keepsQueue_of_eq_onDev (exec_hnkRetrain q port s)
  all_goals exact ⟨_, rfl, rfl⟩

theorem step_of_pending_nil {s : State} (h : s.pending = []) : step s = .next { s with dev := s.dev.idleTick } := by simp only [step, h]

theorem step_of_pending_cons {s : State} {c : Instr} {rest : List Instr} (h : s.pending = c :: rest) :
    step s = exec c { s with pending := rest } := by simp only [step, h]

/-- A step goes on, and takes the front of the queue where there is one. -/
theorem step_next (s : State) : ∃ t, step s = .next t ∧ t.pending = s.pending.tail := by
  cases h : s.pending with
  | nil => exact ⟨_, step_of_pending_nil h, h⟩
  | cons c rest => rw [step_of_pending_cons h]; exact exec_keepsQueue c _

theorem pending_of_step {s t : State} (h : step s = .next t) : t.pending = s.pending.tail := by
  obtain ⟨u, hu, hp⟩ := step_next s
  cases h.symm.trans hu
  exact hp

theorem queueOk_of_step {s t : State} (hs : s.queueOk = true) (h : step s = .next t) : t.queueOk = true := by
  unfold State.queueOk at hs ⊢
  rw [pending_of_step h]
  exact List.all_eq_true.2 fun c hc => List.all_eq_true.1 hs c (List.mem_of_mem_tail hc)

theorem runsFor_next (k : Nat) (s : State) : ∃ t, runsFor k s = some t ∧ t.pending = s.pending.drop k := by
  induction k generalizing s with
  | zero => exact ⟨s, rfl, rfl⟩
  | succ k ih =>
    obtain ⟨u, hu, hp⟩ := step_next s
    obtain ⟨t, ht, hq⟩ := ih u
    exact ⟨t, by simp only [runsFor, hu, ht], by rw [hq, hp, List.drop_tail]⟩

/-- Settles O52: no command stops, and each leaves the queue it is given, so `k` steps take the first `k` commands. -/
theorem queueIsWorkedOff : Obligations.QueueIsWorkedOff :=
  ⟨fun c s _ => exec_keepsQueue c s,
    fun s hs => ⟨fun _ ht => ⟨queueOk_of_step hs ht, pending_of_step ht⟩, fun k _ => runsFor_next k s⟩⟩

/-- Settles O51: the two cases of `step`. -/
theorem stepTakesTheFront : Obligations.StepTakesTheFront :=
  fun _ _ _ => ⟨step_of_pending_cons, step_of_pending_nil⟩

end Sys2Proof.Machine
end

section
/-! PROOFS. How an instruction that computes on its core's registers retires: one rule for each of the forms its meaning takes. -/
namespace Sys2Proof.Machine

/-- Two cores with the same counters, debugger's step and drain: what a retirement looks at. -/
structure Core.QuietAs (a b : Core) : Prop where
  pmu : a.pmu = b.pmu
  step : a.stepArmed = b.stepArmed
  drain : a.draining = b.draining

theorem Core.QuietAs.refl (c : Core) : c.QuietAs c := ⟨rfl, rfl, rfl⟩

theorem Core.QuietAs.trans {a b c : Core} (h : a.QuietAs b) (h' : b.QuietAs c) : a.QuietAs c :=
  ⟨h.pmu.trans h'.pmu, h.step.trans h'.step, h.drain.trans h'.drain⟩

theorem quietAs_wg (c : Core) (r : BitVec 5) (x : Word) : (c.wg r x).QuietAs c := ⟨by simp, by simp, by simp⟩
theorem quietAs_wv (c : Core) (r : Nat) (x : VWord) : (c.wv r x).QuietAs c := ⟨rfl, rfl, rfl⟩
theorem quietAs_wf (c : Core) (r : BitVec 5) (x : Word) : (c.wf r x).QuietAs c := quietAs_wv ..
theorem quietAs_wm (c : Core) (r : Nat) (x : BitVec 128) : (c.wm r x).QuietAs c := by
  unfold Core.wm; split <;> exact ⟨rfl, rfl, rfl⟩
theorem quietAs_orFp (c : Core) (f : FpFlags) : (c.orFp f).QuietAs c := ⟨rfl, rfl, rfl⟩
theorem quietAs_orPsat (c : Core) (f : BitVec 8) : (c.orPsat f).QuietAs c := ⟨rfl, rfl, rfl⟩

theorem quietAs_wf_orFp (c : Core) (r : BitVec 5) (x : Word) (f : FpFlags) : ((c.wf r x).orFp f).QuietAs c :=
  (quietAs_orFp ..).trans (quietAs_wf ..)
theorem quietAs_wg_orFp (c : Core) (r : BitVec 5) (x : Word) (f : FpFlags) : ((c.wg r x).orFp f).QuietAs c :=
  (quietAs_orFp ..).trans (quietAs_wg ..)

theorem quietAs_putGrp (c : Core) (n x k : Nat) : (c.putGrp n x k).QuietAs c := by
  induction k generalizing c n x with
  | zero => exact .refl c
  | succ k ih => exact (ih ..).trans (quietAs_wv ..)

theorem quietAs_vecMap (c : Core) (vd k s m : Nat) (f : Nat → Nat × BitVec 8) : (c.vecMap vd k s m f).QuietAs c :=
  (quietAs_orPsat ..).trans (quietAs_putGrp ..)

theorem quiet_updCore_of_quietAs {d : Dev} {l : Nat} {f : Core → Core} (h : (f (d.core l)).QuietAs (d.core l)) (hq : d.quiet l = true) :
    (d.updCore l f).quiet l = true := by
  rw [quiet_updCore d l f h.pmu h.step h.drain, hq]

section
variable {c : Instr} {l : Fin 384} {s : State} {f g : Core → Core}

/-- The fetched device is asked what its core becomes, and no other. -/
theorem Retires.congr (h : Retires c l s f) (hfg : f ((s.fetched l).core l.val) = g ((s.fetched l).core l.val)) : Retires c l s g := by
  obtain ⟨t, he, hp, hd⟩ := h
  exact ⟨t, he, hp, hd.trans (congrArg (fun d => d.updCore l.val fun k => { k with pc := k.pc + 4#64 }) (updCore_congr _ _ f g hfg))⟩

/-- An instruction that is done with a change of its own core on a ready core. -/
theorem retires_of_runInstr {F : Dev → CoreOut} {evs : List (Nat × Nat)} (he : exec c s = runInstr l s F) (hs : s.ready l)
    (hF : F (s.fetched l) = .done ((s.fetched l).updCore l.val f) evs) (hq : (f ((s.fetched l).core l.val)).QuietAs ((s.fetched l).core l.val)) :
    Retires c l s f :=
  retiresBy_of_done c l s F (fun d => d.updCore l.val f) evs he hs hF (quiet_updCore_of_quietAs hq hs.2.2)

theorem retires_of_runReg (he : exec c s = runReg l s f) (hs : s.ready l) (hq : ∀ k, (f k).QuietAs k) : Retires c l s f :=
  retires_of_runInstr he hs rfl (hq _)

theorem retires_of_runRegIf {legal : Bool} (he : exec c s = runRegIf l s legal f) (hs : s.ready l) (hl : legal = true)
    (hq : ∀ k, (f k).QuietAs k) : Retires c l s f :=
  retires_of_runInstr he hs (if_pos hl) (hq _)

theorem retires_of_runPly {legal : Core → Bool} (he : exec c s = runPly l s legal f) (hs : s.ready l)
    (hl : legal ((s.fetched l).core l.val) = true) (hen : ((s.fetched l).core l.val).pctlEn = true) (hq : ∀ k, (f k).QuietAs k) :
    Retires c l s f :=
  retires_of_runInstr he hs (by simp only [hl, hen, Bool.not_true, Bool.false_eq_true, if_false]; rfl) (hq _)

theorem retires_of_runCrypto {legal : Bool} (he : exec c s = runCrypto l s legal f) (hs : s.ready l) (hl : legal = true)
    (hen : ((s.fetched l).core l.val).pctlEn = true) (hq : ∀ k, (f k).QuietAs k) : Retires c l s f :=
  retires_of_runInstr he hs (by simp only [hl, hen, Bool.not_true, Bool.false_eq_true, if_false]; rfl) (hq _)

theorem fpOff_of_fpen {k : Core} (h : (k.bank k.level.secure).fpen = true) : k.fpOff = false := by simp [Core.fpOff, h]

theorem retires_of_runFp (he : exec c s = runFp l s f) (hs : s.ready l)
    (hen : (((s.fetched l).core l.val).bank ((s.fetched l).core l.val).level.secure).fpen = true) (hq : ∀ k, (f k).QuietAs k) : Retires c l s f :=
  retires_of_runInstr he hs (by simp only [fpOff_of_fpen hen, Bool.false_eq_true, if_false]; rfl) (hq _)

theorem retires_of_runFpRm {rm : BitVec 3} {m : Nat} {f : Nat → Core → Core} (he : exec c s = runFpRm l rm s f) (hs : s.ready l)
    (hm : ((s.fetched l).core l.val).rmOf rm = some m)
    (hen : (((s.fetched l).core l.val).bank ((s.fetched l).core l.val).level.secure).fpen = true) (hq : ∀ k, (f m k).QuietAs k) :
    Retires c l s (f m) :=
  retires_of_runInstr he hs (by simp only [hm, fpOff_of_fpen hen, Bool.false_eq_true, if_false]; rfl) (hq _)

end

end Sys2Proof.Machine
end

section
/-! PROOFS. The integer instructions (07 R224 to R226). -/
namespace Sys2Proof.Machine

/-! ### The values -/

theorem sextFrom_32 (x : Word) : sextFrom 32 x = sx32 x := by simp only [sextFrom, sx32, BitVec.ofNat_toNat]

theorem toNat_zextFrom (n : Nat) (x : Word) : (zextFrom n x).toNat = x.toNat % 2 ^ n := by
  have h : x.toNat % 2 ^ n < 2 ^ 64 := lt_of_le_of_lt (Nat.mod_le ..) x.isLt
  simp only [zextFrom, BitVec.toNat_ofNat, Nat.mod_eq_of_lt h]

theorem wForm_eq (w : Bool) (x : Word) : wForm w x = if w then sx32 x else x := by simp only [wForm, sextFrom_32]

theorem shAmt_eq (w : Bool) (x : Word) : shAmt w x = if w then x.toNat % 32 else x.toNat % 64 := rfl

theorem zextFrom_eq (n : Nat) (x : Word) : zextFrom n x = (x.setWidth n).setWidth 64 := by
  apply BitVec.eq_of_toNat_eq
  rw [zextFrom, BitVec.toNat_ofNat, BitVec.toNat_setWidth, BitVec.toNat_setWidth]

theorem setWidth_zextFrom_shr (x : Word) (n : Nat) : (zextFrom 32 x >>> n).setWidth 32 = (x.setWidth 32) >>> n := by
  refine BitVec.eq_of_getLsbD_eq fun i hi => ?_
  simp only [zextFrom_eq, BitVec.getLsbD_setWidth, BitVec.getLsbD_ushiftRight]
  grind

theorem setWidth_sextFrom_sshr (x : Word) (n : Nat) : ((sextFrom 32 x).sshiftRight n).setWidth 32 = (x.setWidth 32).sshiftRight n := by
  refine BitVec.eq_of_getLsbD_eq fun i hi => ?_
  have hmsb : ((x.setWidth 32).signExtend 64).msb = (x.setWidth 32).msb := by rw [BitVec.msb_signExtend]; rfl
  simp only [sextFrom, BitVec.ofNat_toNat, BitVec.getLsbD_setWidth, BitVec.getLsbD_sshiftRight, BitVec.getLsbD_signExtend, hmsb]
  grind

theorem shrl_eq (w : Bool) (x : Word) (n : Nat) : shrl w x n = if w then ((x.setWidth 32) >>> n).signExtend 64 else x >>> n := by
  rw [shrl, sextFrom, BitVec.ofNat_toNat, setWidth_zextFrom_shr]

theorem shra_eq (w : Bool) (x : Word) (n : Nat) :
    shra w x n = if w then ((x.setWidth 32).sshiftRight n).signExtend 64 else x.sshiftRight n := by
  rw [shra, sextFrom, BitVec.ofNat_toNat, setWidth_sextFrom_sshr]

theorem rotr_eq (w : Bool) (x : Word) (n : Nat) :
    rotr w x n = if w then ((x.setWidth 32).rotateRight n).signExtend 64 else x.rotateRight n := by
  simp only [rotr, BitVec.ofNat_toNat]

theorem shl_eq (w : Bool) (x : Word) (n : Nat) : shl w x n = if w then sx32 (x <<< n) else x <<< n := wForm_eq ..

theorem b2w_decide (p : Prop) [Decidable p] : b2w (decide p) = if p then 1#64 else 0#64 := by simp only [b2w, decide_eq_true_eq]

theorem max_toInt_comm (a b : Word) : (if b.toInt ≤ a.toInt then a else b) = if a.toInt ≤ b.toInt then b else a := by
  rcases lt_trichotomy a.toInt b.toInt with h | h | h
  · rw [if_neg (not_le.2 h), if_pos h.le]
  · rw [BitVec.eq_of_toInt_eq h]
  · rw [if_pos h.le, if_neg (not_le.2 h)]

theorem max_toNat_comm (a b : Word) : (if b.toNat ≤ a.toNat then a else b) = if a.toNat ≤ b.toNat then b else a := by
  rcases lt_trichotomy a.toNat b.toNat with h | h | h
  · rw [if_neg (not_le.2 h), if_pos h.le]
  · rw [BitVec.eq_of_toNat_eq h]
  · rw [if_pos h.le, if_neg (not_le.2 h)]

theorem mulHigh_natCast (a b : Nat) : mulHigh a b = BitVec.ofNat 64 (a * b / 2 ^ 64) := by
  rw [← BitVec.ofInt_natCast]; rfl

theorem sdivW_eq (w : Bool) (a b : Word) :
    sdivW w a b = if (if w then sx32 b else b) = 0#64 then ~~~0#64
      else if w then sx32 (BitVec.ofInt 64 ((if w then sx32 a else a).toInt.tdiv (if w then sx32 b else b).toInt))
        else BitVec.ofInt 64 ((if w then sx32 a else a).toInt.tdiv (if w then sx32 b else b).toInt) := by
  simp only [sdivW, wForm_eq, sextFrom_32]

theorem sremW_eq (w : Bool) (a b : Word) :
    sremW w a b = if (if w then sx32 b else b) = 0#64 then (if w then sx32 a else a)
      else if w then sx32 (BitVec.ofInt 64 ((if w then sx32 a else a).toInt.tmod (if w then sx32 b else b).toInt))
        else BitVec.ofInt 64 ((if w then sx32 a else a).toInt.tmod (if w then sx32 b else b).toInt) := by
  simp only [sremW, wForm_eq, sextFrom_32]

/-- The value that an unsigned W form divides: the low 32 bits. -/
theorem toNat_zext_of_w (w : Bool) (x : Word) : (if w then zextFrom 32 x else x).toNat = if w then x.toNat % 2 ^ 32 else x.toNat := by
  cases w
  · rfl
  · exact toNat_zextFrom 32 x

theorem udivW_eq (w : Bool) (a b : Word) :
    udivW w a b = if (if w then b.toNat % 2 ^ 32 else b.toNat) = 0 then ~~~0#64
      else wForm w (BitVec.ofNat 64 ((if w then a.toNat % 2 ^ 32 else a.toNat) / if w then b.toNat % 2 ^ 32 else b.toNat)) := by
  simp only [udivW, ← BitVec.toNat_inj, toNat_zext_of_w]; rfl

theorem uremW_eq (w : Bool) (a b : Word) :
    uremW w a b = if (if w then b.toNat % 2 ^ 32 else b.toNat) = 0 then wForm w a
      else wForm w (BitVec.ofNat 64 ((if w then a.toNat % 2 ^ 32 else a.toNat) % if w then b.toNat % 2 ^ 32 else b.toNat)) := by
  simp only [uremW, ← BitVec.toNat_inj, toNat_zext_of_w]; rfl

theorem bitsFrom_eq (x : Word) (pos len : Nat) : bitsFrom x pos len = BitVec.ofNat 64 (x.toNat / 2 ^ pos % 2 ^ len) := by
  simp only [bitsFrom, zextFrom, BitVec.toNat_ushiftRight, Nat.shiftRight_eq_div_pow]

theorem sextFrom_bitsFrom (x : Word) (pos : Nat) {len : Nat} (hl : len ≤ 64) :
    sextFrom len (bitsFrom x pos len) = (BitVec.ofNat len (x.toNat / 2 ^ pos)).signExtend 64 := by
  simp only [sextFrom]
  congr 1
  apply BitVec.eq_of_toNat_eq
  simp only [bitsFrom_eq, BitVec.toNat_ofNat, Nat.mod_mod_of_dvd _ (pow_dvd_pow 2 hl), Nat.mod_mod]

theorem getLsbD_insBits (old x : Word) {pos len i : Nat} (hlen : 0 < len) (h : pos + len ≤ 64) :
    (insBits old x pos len).getLsbD i = if pos ≤ i ∧ i < pos + len then x.getLsbD (i - pos) else old.getLsbD i := by
  rw [insBits, getLsbD_putField _ _ _ _ _ (by omega) (by omega)]
  by_cases hi : pos ≤ i ∧ i < pos + len
  · rw [if_pos (by omega), if_pos hi, Nat.testBit_mod_two_pow, decide_eq_true (by omega : i - pos < len), Bool.true_and, BitVec.testBit_toNat]
  · rw [if_neg (by omega), if_neg hi]

/-! ### Counts of zeros -/

theorem clzN_spec (x : Word) (n : Nat) :
    (∀ i, i < clzN x n → x.getLsbD (n - 1 - i) = false) ∧ (clzN x n < n → x.getLsbD (n - 1 - clzN x n) = true) ∧ clzN x n ≤ n := by
  induction n with
  | zero => simp [clzN]
  | succ n ih =>
    obtain ⟨hzero, hone, hle⟩ := ih
    by_cases hn : x.getLsbD n = true
    · simp [clzN, hn]
    · rw [clzN, if_neg hn]
      refine ⟨fun i hi => ?_, fun h => ?_, by omega⟩
      · match i with
        | 0 => simpa using hn
        | i + 1 => rw [show n + 1 - 1 - (i + 1) = n - 1 - i by omega]; exact hzero i (by omega)
      · rw [show n + 1 - 1 - (1 + clzN x n) = n - 1 - clzN x n by omega]; exact hone (by omega)

theorem ctzN_succ (x : Word) (n : Nat) : ctzN x (n + 1) = if ctzN x n = n ∧ x.getLsbD n = false then n + 1 else ctzN x n := by
  unfold ctzN
  rw [List.range_succ, List.takeWhile_append]
  simp only [List.length_range]
  split
  · next h => simp only [h, true_and]; cases hb : x.getLsbD n <;> simp [List.takeWhile, hb]
  · next h => rw [if_neg fun hc => h hc.1]

theorem ctzN_spec (x : Word) (n : Nat) :
    (∀ i, i < ctzN x n → x.getLsbD i = false) ∧ (ctzN x n < n → x.getLsbD (ctzN x n) = true) ∧ ctzN x n ≤ n := by
  induction n with
  | zero => simp [ctzN]
  | succ n ih =>
    obtain ⟨hzero, hone, hle⟩ := ih
    rw [ctzN_succ]
    split
    · next h =>
      obtain ⟨hall, hn⟩ := h
      refine ⟨fun i hi => ?_, fun h => absurd h (lt_irrefl _), le_rfl⟩
      rcases Nat.lt_succ_iff_lt_or_eq.1 hi with hi | rfl
      · exact hzero i (hall.symm ▸ hi)
      · exact hn
    · next h =>
      refine ⟨hzero, fun _ => ?_, by omega⟩
      rcases hle.lt_or_eq with hlt | heq
      · exact hone hlt
      · rw [heq]; simpa [heq] using h

/-- A W form is legal where its amount is below 32. -/
theorem shift_legal {w : Bool} {sh : BitVec 6} (h : ¬(w = true ∧ 32 ≤ sh.toNat)) : (!(w && sh.getLsbD 5)) = true := by
  cases w
  · rfl
  · have hb : sh.getLsbD 5 = sh.toNat.testBit 5 := rfl
    have hs : sh.toNat < 2 ^ 5 := by have := mt (And.intro rfl) h; omega
    rw [hb, Nat.testBit_lt_two_pow hs]; rfl

/-! ### The statements -/

/-- Settles O1: each row's meaning is one write of its destination, whose value is the listing's. -/
theorem registerOpsComplete : Obligations.RegisterOpsComplete := by
  intro l w gd ga gb s hs sh n wr
  have wrote (c : Instr) (u v : Core → Word) (he : exec c s = runReg l s fun k => k.wg gd (u k)) (huv : ∀ k, u k = v k) : wr c v :=
    retires_wg c l s gd u v he hs huv
  have selects (c : Instr) (p : Core → Prop) [DecidablePred p]
      (he : exec c s = runReg l s fun k => if p k then k.wg gd (k.rg ga) else k) : Retires c l s fun k => if p k then k.wg gd (k.rg ga) else k :=
    retires_of_runReg he hs fun k => by split <;> [exact quietAs_wg ..; exact .refl k]
  refine ⟨wrote _ _ _ rfl fun k => wForm_eq .., wrote _ _ _ rfl fun k => wForm_eq .., wrote _ _ _ rfl fun _ => rfl, wrote _ _ _ rfl fun _ => rfl,
    wrote _ _ _ rfl fun _ => rfl, wrote _ _ _ rfl fun _ => rfl, wrote _ _ _ rfl fun _ => rfl, wrote _ _ _ rfl fun _ => rfl,
    wrote _ _ _ rfl fun _ => shl_eq .., wrote _ _ _ rfl fun _ => shrl_eq .., wrote _ _ _ rfl fun _ => shra_eq .., wrote _ _ _ rfl fun _ => rotr_eq ..,
    wrote _ _ _ rfl fun _ => b2w_decide _, wrote _ _ _ rfl fun _ => b2w_decide _, wrote _ _ _ rfl fun _ => rfl,
    wrote _ _ _ rfl fun _ => max_toInt_comm .., wrote _ _ _ rfl fun _ => rfl, wrote _ _ _ rfl fun _ => max_toNat_comm ..,
    wrote _ _ _ rfl fun _ => rfl, wrote _ _ _ rfl fun _ => rfl, wrote _ _ _ rfl fun _ => rfl, wrote _ _ _ rfl fun _ => rfl,
    selects _ _ rfl, selects _ _ rfl⟩

/-- Settles O2: two inductions on the width. -/
theorem leadingAndTrailingZeros : Obligations.LeadingAndTrailingZeros := by
  intro x n _
  obtain ⟨hc, hc', hc''⟩ := clzN_spec x n
  obtain ⟨ht, ht', ht''⟩ := ctzN_spec x n
  exact ⟨hc, hc', hc'', ht, ht', ht''⟩

/-- Settles O3: one write of the destination each; the forms with a fixed amount are legal where they are used. -/
theorem multiplyDivideAndImmediates : Obligations.MultiplyDivideAndImmediates := by
  refine ⟨?products, ?immediates⟩
  case products =>
    intro l w gd ga gb s hs wr a b ua ub out
    have wrote (c : Instr) (u v : Core → Word) (he : exec c s = runReg l s fun k => k.wg gd (u k)) (huv : ∀ k, u k = v k) : wr c v :=
      retires_wg c l s gd u v he hs huv
    exact ⟨wrote _ _ _ rfl fun _ => wForm_eq .., wrote _ _ _ rfl fun _ => rfl, wrote _ _ _ rfl fun _ => mulHigh_natCast ..,
      wrote _ _ _ rfl fun _ => rfl, wrote _ _ _ rfl fun _ => sdivW_eq ..,
      wrote _ _ _ rfl fun _ => (udivW_eq ..).trans (by rw [wForm_eq]), wrote _ _ _ rfl fun _ => sremW_eq ..,
      wrote _ _ _ rfl fun _ => (uremW_eq ..).trans (by rw [wForm_eq, wForm_eq])⟩
  case immediates =>
    intro l w gd ga imm pos len1 s hs wr si zi up n len
    have wrote (c : Instr) (u v : Core → Word) (he : exec c s = runReg l s fun k => k.wg gd (u k)) (huv : ∀ k, u k = v k) : wr c v :=
      retires_wg c l s gd u v he hs huv
    have wroteIf (c : Instr) (legal : Bool) (u v : Core → Word) (he : exec c s = runRegIf l s legal fun k => k.wg gd (u k))
        (hl : legal = true) (huv : ∀ k, u k = v k) : wr c v := by
      rw [← funext huv]; exact retires_of_runRegIf he hs hl fun k => quietAs_wg ..
    refine ⟨wrote _ _ _ rfl fun _ => rfl, wrote _ _ _ rfl fun _ => sextFrom_32 _, wrote _ _ _ rfl fun _ => rfl, wrote _ _ _ rfl fun _ => rfl,
      wrote _ _ _ rfl fun _ => rfl, wrote _ _ _ rfl fun _ => b2w_decide _, wrote _ _ _ rfl fun _ => b2w_decide _, wrote _ _ _ rfl fun _ => rfl,
      wrote _ _ _ rfl fun _ => rfl, wrote _ _ _ rfl fun _ => rfl, fun h => ?shifts, fun h => ?fields⟩
    case shifts =>
      have hl : (!(w && pos.getLsbD 5)) = true := shift_legal h
      exact ⟨wroteIf _ _ _ _ rfl hl fun _ => shl_eq .., wroteIf _ _ _ _ rfl hl fun _ => shrl_eq .., wroteIf _ _ _ _ rfl hl fun _ => shra_eq ..,
        wroteIf _ _ _ _ rfl hl fun _ => rotr_eq ..⟩
    case fields =>
      have hl : decide (pos.toNat + len1.toNat + 1 ≤ 64) = true := decide_eq_true h
      have hlen : len1.toNat + 1 ≤ 64 := by omega
      exact ⟨wroteIf _ _ _ _ rfl hl fun _ => bitsFrom_eq .., wroteIf _ _ _ _ rfl hl fun _ => sextFrom_bitsFrom _ _ hlen, _,
        wroteIf _ _ _ _ rfl hl fun _ => rfl, fun k i _ => getLsbD_insBits _ _ (Nat.succ_pos _) h⟩

end Sys2Proof.Machine
end

section
/-! PROOFS. Ply's groups and elements, and its rounded quotient (05 R154 to R165). -/
namespace Sys2Proof.Machine

/-! ### Elements of a number -/

theorem packEl_lt (w : Nat) (es : List Nat) : packEl w es < 2 ^ (w * es.length) := by
  induction es with
  | nil => simp [packEl]
  | cons e es ih =>
    have he : e % 2 ^ w < 2 ^ w := Nat.mod_lt _ (Nat.two_pow_pos w)
    calc packEl w (e :: es) = e % 2 ^ w + 2 ^ w * packEl w es := rfl
      _ < 2 ^ w + 2 ^ w * packEl w es := Nat.add_lt_add_right he _
      _ = 2 ^ w * (packEl w es + 1) := by ring
      _ ≤ 2 ^ w * 2 ^ (w * es.length) := Nat.mul_le_mul_left _ ih
      _ = 2 ^ (w * (e :: es).length) := by rw [List.length_cons, ← pow_add]; ring_nf

theorem elem_packEl (w : Nat) (es : List Nat) (i : Nat) : elem (packEl w es) w i = es.getD i 0 % 2 ^ w := by
  induction es generalizing i with
  | nil => simp [elem, packEl]
  | cons e es ih =>
    have hpos : 0 < 2 ^ w := Nat.two_pow_pos w
    cases i with
    | zero => simp [elem, packEl]
    | succ i =>
      have hdiv : packEl w (e :: es) / 2 ^ w = packEl w es := by
        rw [packEl, Nat.add_mul_div_left _ _ hpos, Nat.div_eq_of_lt (Nat.mod_lt _ hpos), Nat.zero_add]
      have h := ih i
      simp only [elem, List.getD_cons_succ] at h ⊢
      rw [show w * (i + 1) = w + w * i by ring, pow_add, ← Nat.div_div_eq_div_mul, hdiv, h]

theorem elem_mod {w i n : Nat} (x : Nat) (h : w * i + w ≤ n) : elem (x % 2 ^ n) w i = elem x w i := by
  unfold elem
  apply Nat.eq_of_testBit_eq
  intro j
  simp only [Nat.testBit_mod_two_pow, Nat.testBit_div_two_pow]
  by_cases hj : j < w
  · rw [decide_eq_true (show j + w * i < n by omega), Bool.true_and]
  · simp [hj]

theorem elem_lt (x w i : Nat) : elem x w i < 2 ^ w := Nat.mod_lt _ (Nat.two_pow_pos w)

/-! ### Groups of registers -/

theorem rv_wv {c : Core} {n j : Nat} (hn : n < 32) (hj : j < 32) (x : VWord) : (c.wv n x).rv j = if n = j then x else c.rv j := by
  simp only [Core.rv, Core.wv, mget_mset, Nat.mod_eq_of_lt hn, Nat.mod_eq_of_lt hj]

theorem rv_putGrp {k n j : Nat} (c : Core) (x : Nat) (hn : n + k ≤ 32) (hj : j < 32) :
    (c.putGrp n x k).rv j = if n ≤ j ∧ j < n + k then BitVec.ofNat 256 (x / 2 ^ (256 * (j - n))) else c.rv j := by
  induction k generalizing c n x with
  | zero => rw [if_neg (by omega)]; rfl
  | succ k ih =>
    rw [Core.putGrp, ih _ _ (by omega), rv_wv (by omega) hj]
    by_cases hnj : n = j
    · subst hnj
      rw [if_neg (by omega), if_pos rfl, if_pos (by omega), Nat.sub_self, Nat.mul_zero, pow_zero, Nat.div_one]
    · rw [if_neg hnj]
      by_cases hin : n + 1 ≤ j ∧ j < n + 1 + k
      · rw [if_pos hin, if_pos (by omega), Nat.div_div_eq_div_mul, ← pow_add, show 256 + 256 * (j - (n + 1)) = 256 * (j - n) by omega]
      · rw [if_neg hin, if_neg (by omega)]

/-- A group whose registers hold the digits of `x` to the base of a register is `x`, cut to its size. -/
theorem grp_eq_of_digits {k n x : Nat} (c : Core) (h : ∀ i, i < k → (c.rv (n + i)).toNat = x / 2 ^ (256 * i) % 2 ^ 256) :
    c.grp n k = x % 2 ^ (256 * k) := by
  induction k generalizing n x with
  | zero => simp [Core.grp, Nat.mod_one]
  | succ k ih =>
    have hhead := h 0 (Nat.succ_pos k)
    have htail : c.grp (n + 1) k = x / 2 ^ 256 % 2 ^ (256 * k) := ih fun i hi => by
      rw [Nat.add_right_comm, Nat.add_assoc, h (i + 1) (by omega), Nat.div_div_eq_div_mul, ← pow_add, show 256 + 256 * i = 256 * (i + 1) by ring]
    rw [Nat.mul_zero, pow_zero, Nat.div_one, Nat.add_zero] at hhead
    rw [Core.grp, hhead, htail, show 256 * (k + 1) = 256 + 256 * k by ring, pow_add, Nat.mod_mul]

theorem grp_putGrp {n k : Nat} (c : Core) (x : Nat) (h : n + k ≤ 32) : (c.putGrp n x k).grp n k = x % 2 ^ (256 * k) :=
  grp_eq_of_digits _ fun i hi => by
    rw [rv_putGrp c x h (by omega), if_pos (by omega), BitVec.toNat_ofNat, Nat.add_sub_cancel_left]

theorem psat_putGrp (c : Core) (n x k : Nat) : (c.putGrp n x k).psat = c.psat := by
  induction k generalizing c n x with
  | zero => rfl
  | succ k ih => rw [Core.putGrp, ih]; rfl

theorem grp_orPsat (c : Core) (f : BitVec 8) (n k : Nat) : (c.orPsat f).grp n k = c.grp n k := by
  induction k generalizing n with
  | zero => rfl
  | succ k ih => rw [Core.grp, Core.grp, ih]; rfl

/-- A group that its number suits ends within the 32 registers. -/
theorem group_fits {vd : Nat} {g : BitVec 2} (hg : g ≠ 3#2) (hd : vd % grpSize g = 0) (hv : vd < 32) : vd + grpSize g ≤ 32 := by
  have h3 : g.toNat ≠ 3 := fun h => hg (BitVec.eq_of_toNat_eq h)
  rw [grpSize, if_neg hg] at hd ⊢
  have h2 : g.toNat = 0 ∨ g.toNat = 1 ∨ g.toNat = 2 := by omega
  rcases h2 with h | h | h <;> rw [h] at hd ⊢ <;> omega

theorem getLsbD_foldl_or {α : Type} (f : α → BitVec 8) (xs : List α) (a : BitVec 8) (b : Nat) :
    (xs.foldl (fun a r => a ||| f r) a).getLsbD b = true ↔ a.getLsbD b = true ∨ ∃ x ∈ xs, (f x).getLsbD b = true := by
  induction xs generalizing a with
  | nil => simp
  | cons x xs ih => rw [List.foldl_cons, ih, BitVec.getLsbD_or, Bool.or_eq_true]; simp [or_assoc]

/-- What element `i` of an element-wise result takes, with the flags it raises. -/
def Core.vecEl (c : Core) (vd k s m : Nat) (f : Nat → Nat × BitVec 8) (i : Nat) : Nat × BitVec 8 :=
  if (c.rm m).getLsbD i then f i else (elem (c.grp vd k) (8 * s) i, 0#8)

theorem vecMap_eq (c : Core) (vd k s m : Nat) (f : Nat → Nat × BitVec 8) :
    c.vecMap vd k s m f = (c.putGrp vd (packEl (8 * s) (((List.range (32 * k / s)).map (c.vecEl vd k s m f)).map (·.1))) k).orPsat
      (((List.range (32 * k / s)).map (c.vecEl vd k s m f)).foldl (fun a r => a ||| r.2) 0#8) := rfl

theorem elem_vecMap {vd k s i : Nat} (c : Core) (m : Nat) (f : Nat → Nat × BitVec 8) (h : vd + k ≤ 32) (hi : i < 32 * k / s) :
    elem ((c.vecMap vd k s m f).grp vd k) (8 * s) i = (c.vecEl vd k s m f i).1 % 2 ^ (8 * s) := by
  have hs : s * (32 * k / s) ≤ 32 * k := Nat.mul_div_le ..
  have hbits : 8 * s * i + 8 * s ≤ 256 * k := by nlinarith [Nat.mul_le_mul_left s (Nat.succ_le_of_lt hi)]
  rw [vecMap_eq, grp_orPsat, grp_putGrp c _ h, elem_mod _ hbits, elem_packEl]
  simp [List.getD_eq_getElem?_getD, List.getElem?_range hi]

theorem rv_vecMap {vd k s j : Nat} (c : Core) (m : Nat) (f : Nat → Nat × BitVec 8) (h : vd + k ≤ 32) (hj : j < 32) (hout : j < vd ∨ vd + k ≤ j) :
    (c.vecMap vd k s m f).rv j = c.rv j := by
  rw [vecMap_eq]
  exact (rv_putGrp c _ h hj).trans (if_neg (by omega))

theorem psat_vecMap (c : Core) (vd k s m : Nat) (f : Nat → Nat × BitVec 8) (b : Nat) :
    (c.vecMap vd k s m f).psat.getLsbD b = true ↔
      c.psat.getLsbD b = true ∨ ∃ i, i < 32 * k / s ∧ (c.rm m).getLsbD i = true ∧ (f i).2.getLsbD b = true := by
  have hflags : (c.vecMap vd k s m f).psat =
      c.psat ||| ((List.range (32 * k / s)).map (c.vecEl vd k s m f)).foldl (fun a r => a ||| r.2) 0#8 := by
    rw [vecMap_eq, Core.orPsat, psat_putGrp]
  rw [hflags, BitVec.getLsbD_or, Bool.or_eq_true, getLsbD_foldl_or]
  have hel : ∀ i, (c.vecEl vd k s m f i).2.getLsbD b = true ↔ (c.rm m).getLsbD i = true ∧ (f i).2.getLsbD b = true := fun i => by
    unfold Core.vecEl; split <;> simp [*]
  simp [hel]

/-- Settles O12: an element is read back from the group it was packed into, and the flags are the union of the elements'. -/
theorem elementwiseResult : Obligations.ElementwiseResult := by
  intro k vd m S j g f hg hd hv _ K k2
  have hfit : vd + K ≤ 32 := group_fits hg hd hv
  refine ⟨fun i hi => ?_, fun hj hout => rv_vecMap k m f hfit hj hout, fun b _ => psat_vecMap ..⟩
  rw [elem_vecMap k m f hfit hi, Core.vecEl]
  split
  · rfl
  · exact Nat.mod_eq_of_lt (elem_lt ..)

/-! ### The rounded quotient (05 R164) -/

/-- Whether a quotient `n` of a magnitude with the remainder `k` is moved away from 0, for a value of the given sign (05 R164). -/
def roundsAway (rm v n k : Nat) (neg : Bool) : Bool :=
  match rm with
  | 0 => decide (v < 2 * k) || (decide (2 * k = v) && decide (n % 2 ≠ 0))
  | 1 => decide (v ≤ 2 * k)
  | 2 => decide (v < 2 * k)
  | 3 => false
  | 4 => true
  | 5 => neg
  | _ => !neg

/-- A quotient's magnitude with its sign. -/
def signed (neg : Bool) (n : Nat) : Int := if neg then -(n : Int) else n

/-- One step away from 0. -/
theorem signed_step (neg : Bool) (n : Nat) (up : Bool) :
    (if up = true then signed neg n + (if neg = true then -1 else 1) else signed neg n) = signed neg (n + b2n up) := by
  cases neg <;> cases up <;> simp only [signed, b2n, if_true, Bool.false_eq_true, if_false] <;> omega

/-- round_div works on the magnitude, whose quotient is `n` with the remainder `k`. -/
theorem roundDiv_signed {v k : Nat} (hk : k < v) (n : Nat) (neg : Bool) (hneg : neg = true → 0 < n * v + k)
    {rm : Nat} (hrm : rm ≤ 6) :
    roundDiv (signed neg (n * v + k)) v rm =
      if k = 0 then (signed neg n, false) else (signed neg (n + b2n (roundsAway rm v n k neg)), true) := by
  have hv : 0 < v := by omega
  have hdiv : (n * v + k) / v = n := by
    rw [Nat.add_comm, Nat.add_mul_div_right _ _ hv, Nat.div_eq_of_lt hk, Nat.zero_add]
  have hq : (signed neg (n * v + k)).tdiv v = signed neg n := by
    cases neg
    · exact congrArg Nat.cast hdiv
    · simp only [signed, if_true, Int.neg_tdiv]
      exact congrArg (fun m : Nat => -(m : Int)) hdiv
  have hr : signed neg (n * v + k) - signed neg n * v = signed neg k := by
    cases neg <;> simp only [signed, if_true, Bool.false_eq_true, if_false] <;> push_cast <;> ring
  have hsign : signed neg (n * v + k) < 0 ↔ neg = true := by
    cases neg
    · simp only [signed, Bool.false_eq_true, if_false, iff_false]; omega
    · have := hneg rfl
      simp only [signed, if_true, iff_true]; omega
  have habs : (signed neg k).natAbs = k := by cases neg <;> simp [signed]
  have hzero : signed neg k = 0 ↔ k = 0 := by cases neg <;> simp [signed]
  have hodd : signed neg n % 2 ≠ 0 ↔ n % 2 ≠ 0 := by cases neg <;> simp only [signed, if_true, Bool.false_eq_true, if_false] <;> omega
  simp only [roundDiv, hq, hr, hzero, habs, hsign, hodd]
  split
  · rfl
  · rw [signed_step]
    interval_cases rm <;> cases neg <;> rfl

theorem dvd_signed {v k : Nat} (hk : k < v) (n : Nat) (neg : Bool) : (v : Int) ∣ signed neg (n * v + k) ↔ k = 0 := by
  have h : (v : Int) ∣ ((n * v + k : Nat) : Int) ↔ k = 0 := by
    rw [Int.natCast_dvd_natCast, Nat.dvd_add_right (Nat.dvd_mul_left ..)]
    exact ⟨fun hd => Nat.eq_zero_of_dvd_of_lt hd hk, fun h => h ▸ dvd_zero v⟩
  cases neg
  · exact h
  · exact dvd_neg.trans h

theorem signed_mul (neg : Bool) (n v : Nat) : signed neg n * (v : Int) = signed neg (n * v) := by
  cases neg <;> simp [signed]

theorem natAbs_signed (neg : Bool) (n : Nat) : (signed neg n).natAbs = n := by cases neg <;> simp [signed]

/-- The distance of a rounded multiple from the value: the remainder, or what is left to the next multiple. -/
theorem dist_signed (up : Bool) {v k : Nat} (hk : k < v) (p : Nat) (neg : Bool) :
    (signed neg (p + b2n up * v) - signed neg (p + k)).natAbs = if up = true then v - k else k := by
  cases neg <;> cases up <;> simp only [signed, b2n, if_true, Bool.false_eq_true, if_false, Nat.zero_mul, Nat.one_mul] <;> omega

theorem exists_signed (x : Int) (v : Nat) (hv : 0 < v) :
    ∃ n k neg, k < v ∧ (neg = true → 0 < n * v + k) ∧ x = signed neg (n * v + k) := by
  have hm : x.natAbs / v * v + x.natAbs % v = x.natAbs := Nat.div_add_mod' ..
  refine ⟨x.natAbs / v, x.natAbs % v, decide (x < 0), Nat.mod_lt _ hv, fun h => ?_, ?_⟩
  · have := of_decide_eq_true h; omega
  · rw [hm, signed]; simp only [decide_eq_true_eq]; omega


/-- Settles O13: the value is a signed magnitude, so the sides and the halves of the modes are facts of natural numbers. -/
theorem roundedQuotient : Obligations.RoundedQuotient := by
  intro x v rm hv hrm
  obtain ⟨n, k, neg, hk, hneg, rfl⟩ := exists_signed x v hv
  have hdvd : (v : Int) ∣ signed neg (n * v + k) ↔ k = 0 := dvd_signed hk n neg
  rw [roundDiv_signed hk n neg hneg hrm, hdvd]
  by_cases h0 : k = 0
  · subst h0
    simp only [if_true, signed_mul, natAbs_signed, Nat.add_zero, sub_self]
    refine ⟨by simp, fun _ => trivial, hv, ?_⟩
    omega
  · generalize hu : roundsAway rm v n k neg = up
    simp only [h0, if_false, signed_mul, natAbs_signed, Nat.add_mul, dist_signed up hk, not_false_eq_true, true_and, false_implies]
    refine ⟨?near, fun h => ?half, fun h hd => ?even, fun h hd => ?up, fun h hd => ?down, fun h => ?inward, fun h => ?outward, fun h => ?floor,
      fun h => ?ceiling⟩
    case near => split <;> omega
    case half =>
      have : rm = 0 ∨ rm = 1 ∨ rm = 2 := by omega
      rcases this with rfl | rfl | rfl <;> cases up <;> simp [roundsAway] at hu ⊢ <;> omega
    case even =>
      subst h
      cases up <;> cases neg <;> simp [roundsAway, signed, b2n] at hu hd ⊢ <;> omega
    case up =>
      subst h
      cases up <;> simp [roundsAway, b2n] at hu hd ⊢ <;> omega
    case down =>
      subst h
      cases up <;> simp [roundsAway, b2n] at hu hd ⊢ <;> omega
    case inward => subst h; rw [← hu]; simp [roundsAway, b2n]
    case outward => subst h; rw [← hu]; simp [roundsAway, b2n]; omega
    case floor => subst h; rw [← hu]; cases neg <;> simp [roundsAway, signed, b2n]; omega
    case ceiling => subst h; rw [← hu]; cases neg <;> simp [roundsAway, signed, b2n]; omega

end Sys2Proof.Machine
end

section
/-! PROOFS. The floating-point instructions (07 R232 to R235). -/
namespace Sys2Proof.Machine

/-- An instruction that may need a free choice draws one (log entry 6). -/
theorem retiresBy_of_runFma {c : Instr} {l : Fin 384} {s : State} {rm : BitVec 3} {m : Nat} {f : Nat → Bool → Core → Core}
    (he : exec c s = runFma l rm s f) (hs : s.ready l) (hm : ((s.fetched l).core l.val).rmOf rm = some m)
    (hen : (((s.fetched l).core l.val).bank ((s.fetched l).core l.val).level.secure).fpen = true) (hq : ∀ b k, (f m b k).QuietAs k) :
    RetiresBy c l s fun d => { d with freeCtr := d.freeCtr + 1 }.updCore l.val (f m (Config.freeChoice d.freeCtr)) :=
  retiresBy_of_done c l s _ _ [(0x43, 1)] he hs
    (by simp only [hm, fpOff_of_fpen hen, Bool.false_eq_true, if_false])
    (quiet_updCore_of_quietAs (d := { s.fetched l with freeCtr := (s.fetched l).freeCtr + 1 }) (hq _ _) hs.2.2)

/-! ### The values -/

theorem toInt_sx32 (x : Word) : (sx32 x).toInt = (x.setWidth 32).toInt := BitVec.toInt_signExtend_of_le (by decide)

theorem toNat_zextFrom_32 (x : Word) : (zextFrom 32 x).toNat = (x.setWidth 32).toNat := by
  rw [toNat_zextFrom, BitVec.toNat_setWidth]

theorem signAt_fmtOf (p : Bool) : (fmtOf p).signAt = if p then 63 else 31 := by cases p <;> rfl

theorem withSign_fmtOf (p : Bool) (a : Nat) (neg : Bool) :
    (fmtOf p).withSign a neg = a % 2 ^ (if p then 63 else 31) + if neg then 2 ^ (if p then 63 else 31) else 0 := by
  cases p <;> cases neg <;> rfl

/-- Settles O9: the rounded value and its flags go to the core; the fused operations also draw a choice. -/
theorem roundingFpComplete : Obligations.RoundingFpComplete := by
  intro l p rm fd fa fb fc s m hs k0 hm hen F src toF toG fused
  have rounds (c : Instr) (v : Nat → Core → Nat × FpFlags) (u : Core → Nat × FpFlags)
      (he : exec c s = runFpRm l rm s fun m k => k.putF fd (v m k)) (hv : ∀ k, v m k = u k) : toF c u := by
    rw [← funext hv]; exact retires_of_runFpRm (f := fun m k => k.putF fd (v m k)) he hs hm hen fun k => quietAs_wf_orFp ..
  have converts (c : Instr) (lo hi : Int) (w : Bool)
      (he : exec c s = runFpRm l rm s fun m k => k.putG fd (if w then sextFrom 32 (BitVec.ofInt 64 (fpToInt m lo hi (src k fa)).1)
        else BitVec.ofInt 64 (fpToInt m lo hi (src k fa)).1) (fpToInt m lo hi (src k fa)).2) : toG c lo hi w := by
    refine (retires_of_runFpRm (m := m) he hs hm hen fun k => quietAs_wg_orFp ..).congr ?_
    rw [sextFrom_32]; rfl
  have fuses (c : Instr) (x y z : Core → FpVal) (he : exec c s = runFma l rm s fun m b k => k.putF fd (F.fma m b (x k) (y k) (z k))) :
      fused c fun b k => F.fma m b (x k) (y k) (z k) :=
    retiresBy_of_runFma (f := fun m b k => k.putF fd (F.fma m b (x k) (y k) (z k))) he hs hm hen fun b k => quietAs_wf_orFp ..
  refine ⟨rounds _ _ _ rfl fun _ => rfl, rounds _ _ _ rfl fun _ => rfl, rounds _ _ _ rfl fun _ => rfl, rounds _ _ _ rfl fun _ => rfl,
    rounds _ _ _ rfl fun _ => rfl, rounds _ _ _ rfl fun _ => rfl, rounds _ _ _ rfl fun _ => rfl, rounds _ _ _ rfl fun _ => rfl,
    rounds _ _ _ rfl fun _ => rfl, rounds _ _ _ rfl fun _ => rfl,
    rounds _ _ _ rfl fun k => by rw [sextFrom_32, toInt_sx32],
    rounds _ _ _ rfl fun k => by rw [toNat_zextFrom_32],
    converts _ _ _ false rfl, converts _ _ _ false rfl, converts _ _ _ true rfl, converts _ _ _ true rfl,
    fuses _ _ _ _ rfl, fuses _ _ _ _ rfl, fuses _ _ _ _ rfl, fuses _ _ _ _ rfl⟩

/-- Settles O10: the bits, the comparisons and the classes go to their register; nothing is rounded. -/
theorem exactFpComplete : Obligations.ExactFpComplete := by
  intro l p fd fa fb s hs k0 hen F sgn mag neg bits flagged cmp
  have wrote (c : Instr) (v u : Core → Nat) (he : exec c s = runFp l s fun k => k.wf fd (BitVec.ofNat 64 (v k))) (hv : ∀ k, v k = u k) :
      bits c u := by
    rw [← funext hv]; exact retires_of_runFp he hs hen fun k => quietAs_wf ..
  have picks (c : Instr) (v : Core → Nat × FpFlags) (he : exec c s = runFp l s fun k => k.putF fd (v k)) : flagged c v :=
    retires_of_runFp he hs hen fun k => quietAs_wf_orFp ..
  have compares (c : Instr) (sig : Bool) (t : Ordering → Bool) (he : exec c s = runFp l s fun k =>
      k.putG fd (F.compare sig t (k.fsrc p fa) (k.fsrc p fb)).1 (F.compare sig t (k.fsrc p fa) (k.fsrc p fb)).2) : cmp c sig t :=
    retires_of_runFp he hs hen fun k => quietAs_wg_orFp ..
  have gets (c : Instr) (v : Core → Word) (he : exec c s = runFp l s fun k => k.wg fd (v k)) : Retires c l s fun k => k.wg fd (v k) :=
    retires_of_runFp he hs hen fun k => quietAs_wg ..
  refine ⟨picks _ _ rfl, picks _ _ rfl, picks _ _ rfl, picks _ _ rfl, wrote _ _ _ rfl fun k => withSign_fmtOf .., wrote _ _ _ rfl fun k => ?neg,
    wrote _ _ _ rfl fun k => (withSign_fmtOf ..).trans (by rw [signAt_fmtOf]), wrote _ _ _ rfl fun k => withSign_fmtOf ..,
    compares _ _ _ rfl, compares _ _ _ rfl, compares _ _ _ rfl, compares _ _ _ rfl, compares _ _ _ rfl, ?unordered,
    gets _ _ rfl, gets _ _ rfl, ?moves⟩
  case neg =>
    rw [withSign_fmtOf, signAt_fmtOf]
    simp only [neg, mag, sgn]
    cases (k.fsrc p fa).testBit (if p then 63 else 31) <;> rfl
  case unordered =>
    refine (retires_of_runFp (rfl : exec (.fcun l p fd fa fb) s = execFcun l p fd fa fb s) hs hen fun k => quietAs_wg_orFp ..).congr ?_
    simp only [Core.putG, b2w, Bool.or_eq_true]; rfl
  case moves =>
    refine (retires_of_runFp (rfl : exec (.gbits l p fd fa) s = execGbits l p fd fa s) hs hen fun k => quietAs_wf ..).congr ?_
    rfl

end Sys2Proof.Machine
end

section
/-! PROOFS. The instructions of Ply on vectors (05 R166 to R177, R188). -/
namespace Sys2Proof.Machine

/-! ### The values of elements -/

/-- An element as a two's complement number. -/
theorem asInt_false (w x : Nat) : asInt w false x = if x < 2 ^ (w - 1) then (x : Int) else (x : Int) - 2 ^ w := by
  simp only [asInt, Bool.false_eq_true, false_or]

theorem asInt_true (w x : Nat) : asInt w true x = (x : Int) := by simp only [asInt, true_or, if_true]

theorem satInt_eq {lo hi : Int} (h : lo ≤ hi) (v : Int) : satInt lo hi v = max lo (min hi v) := by
  unfold satInt; split <;> [skip; split] <;> omega

theorem intLo_le_intHi (w : Nat) (u : Bool) : intLo w u ≤ intHi w u := by
  have h1 : (0 : Int) < 2 ^ w := by positivity
  have h2 : (0 : Int) < 2 ^ (w - 1) := by positivity
  cases u <;> simp only [intLo, intHi, Bool.false_eq_true, if_false, if_true] <;> omega

/-- A saturated element is the value clamped to the bounds, with the flag where it lies outside them (05 R165). -/
theorem satEl_eq (w : Nat) (u : Bool) (flag : BitVec 8) (v : Int) :
    satEl w u flag v = ((max (intLo w u) (min (intHi w u) v) % 2 ^ w).toNat, if v < intLo w u ∨ intHi w u < v then flag else 0#8) := by
  simp only [satEl, asNat, satInt_eq (intLo_le_intHi w u)]

theorem min_of_asInt (w a b : Nat) : (if asInt w true a ≤ asInt w true b then a else b) = min a b := by
  simp only [asInt_true, Int.ofNat_le]; rfl

theorem max_of_asInt (w a b : Nat) : (if asInt w true a ≤ asInt w true b then b else a) = max a b := by
  simp only [asInt_true, Int.ofNat_le]; rfl

theorem rmOk_of_ne {k : Core} (h : k.pctlRm ≠ 7#3) : k.rmOk = true := decide_eq_true h

theorem grpOk_cons {K : Nat} {r : BitVec 5} {rs : List (BitVec 5)} (h : grpOk K (r :: rs) = true) : grpOk K [r] = true ∧ grpOk K rs = true := by
  simp only [grpOk, List.all_cons, Bool.and_eq_true] at h ⊢
  exact ⟨⟨h.1, h.2.1, rfl⟩, h.1, h.2.2⟩

theorem grpOk_pair {K : Nat} {a b c : BitVec 5} (h : grpOk K [a, b, c] = true) : grpOk K [a, b] = true := by
  simp only [grpOk, List.all_cons, Bool.and_eq_true] at h ⊢
  exact ⟨h.1, h.2.1, h.2.2.1, rfl⟩

/-! ### The statements -/

/-- Settles O14: each row is the element-wise result of its operation on the two sources. -/
theorem plyArithmeticComplete : Obligations.PlyArithmeticComplete := by
  intro l vd va vb sc m g t wide s hs k0 hen hgrp K sg clip ss su two S w dv
  have els (c : Instr) (legal : Core → Bool) (S : Nat) (f u : Core → Nat → Nat → Nat × BitVec 8)
      (he : exec c s = runPly l s legal fun k => k.vec2 vd.toNat va.toNat vb.toNat m.toNat K S (f k)) (hl : legal k0 = true)
      (hf : ∀ k a b, f k a b = u k a b) : two c S u := by
    have hfu : f = u := funext fun k => funext fun a => funext (hf k a)
    rw [← hfu]
    exact retires_of_runPly he hs hl hen fun k => quietAs_vecMap ..
  have els1 (c : Instr) (legal : Core → Bool) (S : Nat) (f u : Core → Nat → Nat × BitVec 8)
      (he : exec c s = runPly l s legal fun k => k.vec1 vd.toNat va.toNat m.toNat K S (f k)) (hl : legal k0 = true)
      (hf : ∀ k a, f k a = u k a) : two c S fun k a _ => u k a := by
    have hfu : f = u := funext fun k => funext (hf k)
    rw [← hfu]
    exact retires_of_runPly he hs hl hen fun k => quietAs_vecMap ..
  have hss : ∀ w flag x, satEl w false flag x = ss w flag x := fun w flag x => satEl_eq w false flag x
  have hsu : ∀ w flag x, satEl w true flag x = su w flag x := fun w flag x => satEl_eq w true flag x
  have hsg : ∀ w x, asInt w false x = sg w x := asInt_false
  have hdv : ∀ S k x v, decResult (8 * S) (roundDiv x v k.pctlRm.toNat) = dv S k x v := fun S k x v => by
    simp only [decResult, hss]; rfl
  have arith (c : Instr) (f u : Core → Nat → Nat → Nat × BitVec 8)
      (he : exec c s = runPly l s (fun _ => grpOk K [vd, va, vb]) fun k => k.vec2 vd.toNat va.toNat vb.toNat m.toNat K S (f k))
      (hf : ∀ k a b, f k a b = u k a b) : two c S u := els c _ S f u he hgrp hf
  clear_value two
  have hpair : grpOk K [vd, va] = true := grpOk_pair hgrp
  refine ⟨arith _ _ _ rfl fun _ a b => ?padds, arith _ _ _ rfl fun _ a b => ?paddu, arith _ _ _ rfl fun _ a b => ?psubs,
    arith _ _ _ rfl fun _ a b => ?psubu, arith _ _ _ rfl fun _ a b => ?pmin, arith _ _ _ rfl fun _ a b => ?pmax,
    arith _ _ _ rfl fun _ a b => congrArg (·, 0#8) (min_of_asInt w a b), arith _ _ _ rfl fun _ a b => congrArg (·, 0#8) (max_of_asInt w a b),
    arith _ _ _ rfl fun _ _ _ => rfl, arith _ _ _ rfl fun _ _ _ => rfl, arith _ _ _ rfl fun _ _ _ => rfl,
    fun hrm => els _ (fun k => grpOk K [vd, va, vb] && k.rmOk) _ _ _ rfl ?_ fun k a b => ?pmulr,
    fun hsc hrm => els _ (fun k => grpOk K [vd, va, vb] && decide (sc.toNat ≤ 18) && k.rmOk) _ _ _ rfl ?_ fun k a b => ?pmuld,
    fun hsc ht => els1 _ (fun _ => grpOk K [vd, va] && decide (sc.toNat ≤ 18) && decide (2 ≤ t.toNat)) _ _ _ rfl ?_ fun k a => ?up,
    fun hsc ht hrm => els1 _ (fun k => grpOk K [vd, va] && decide (sc.toNat ≤ 18) && decide (2 ≤ t.toNat) && k.rmOk) _ _ _ rfl ?_ fun k a => ?dn⟩
  case padds | psubs | pmin | pmax | pmulr | up => simp only [← hss, ← hsg]; rfl
  case paddu | psubu => simp only [← hsu, ← asInt_true w]; rfl
  case pmuld | dn => simp only [← hdv, ← hsg] <;> rfl
  all_goals simp only [Bool.and_eq_true, decide_eq_true_eq]
  · exact ⟨hgrp, rmOk_of_ne hrm⟩
  · exact ⟨⟨hgrp, hsc⟩, rmOk_of_ne hrm⟩
  · exact ⟨⟨hpair, hsc⟩, ht⟩
  · exact ⟨⟨⟨hpair, hsc⟩, ht⟩, rmOk_of_ne hrm⟩

end Sys2Proof.Machine
end

section
/-! PROOFS. The comparisons, masks, selections and moves of Ply (05 R170 to R172, R188). -/
namespace Sys2Proof.Machine

/-! ### The values -/

theorem b2n_and (p q : Bool) : b2n (p && q) = if p = true ∧ q = true then 1 else 0 := by simp only [b2n, Bool.and_eq_true]

/-- The low half of a mask replaced. -/
theorem putField_low (x : BitVec 128) (y : Word) : putField x 63 0 y.toNat = (x.extractLsb' 64 64 ++ y).setWidth 128 := by
  refine BitVec.eq_of_getLsbD_eq fun i hi => ?_
  rw [getLsbD_putField _ _ _ _ _ (by decide) (by decide), BitVec.getLsbD_setWidth, BitVec.getLsbD_append, BitVec.getLsbD_extractLsb']
  by_cases h : i < 64
  · rw [if_pos (by omega), if_pos h, BitVec.testBit_toNat]; simp [hi]
  · rw [if_neg (by omega), if_neg h, show 64 + (i - 64) = i by omega]; simp only [hi, decide_true, Bool.true_and, show i - 64 < 64 by omega]

/-- The high half of a mask replaced. -/
theorem putField_high (x : BitVec 128) (y : Word) : putField x 127 64 y.toNat = (y ++ x.extractLsb' 0 64).setWidth 128 := by
  refine BitVec.eq_of_getLsbD_eq fun i hi => ?_
  rw [getLsbD_putField _ _ _ _ _ (by decide) (by decide), BitVec.getLsbD_setWidth, BitVec.getLsbD_append, BitVec.getLsbD_extractLsb']
  by_cases h : i < 64
  · rw [if_neg (by omega), if_pos h]; simp [hi, h]
  · rw [if_pos (by omega), if_neg h, BitVec.testBit_toNat]; simp [hi]

theorem ofNat_field_eq_extract {n : Nat} (x : BitVec n) (hi lo w : Nat) (h : hi + 1 - lo = w) : BitVec.ofNat w (field x hi lo) = x.extractLsb' lo w := by
  apply BitVec.eq_of_toNat_eq
  rw [BitVec.extractLsb'_toNat, BitVec.toNat_ofNat, field, bitsN, h, Nat.mod_mod]

/-- Sign extension takes the two's complement value. -/
theorem sextFrom_eq_ofInt {w x : Nat} (hw : 0 < w) (h64 : w ≤ 64) (hx : x < 2 ^ w) :
    sextFrom w (BitVec.ofNat 64 x) = BitVec.ofInt 64 (asInt w false x) := by
  have hx64 : x < 2 ^ 64 := lt_of_lt_of_le hx (Nat.pow_le_pow_right (by decide) h64)
  have hpow : 2 ^ w = 2 * 2 ^ (w - 1) := by rw [← pow_succ']; congr 1; omega
  have hInt : (BitVec.ofNat w x).toInt = asInt w false x := by
    rw [asInt_false, BitVec.toInt_eq_toNat_cond, BitVec.toNat_ofNat, Nat.mod_eq_of_lt hx, hpow]
    simp only [Nat.mul_lt_mul_left (show 0 < 2 by decide)]
    push_cast
    rw [show (2 : Int) ^ w = 2 * 2 ^ (w - 1) by exact_mod_cast hpow]
  rw [sextFrom, BitVec.toNat_ofNat, Nat.mod_eq_of_lt hx64, BitVec.signExtend, hInt]

theorem foldl_add_if (p : Nat → Bool) (g : Nat → Nat) (xs : List Nat) (x : Nat) :
    xs.foldl (fun a i => if p i then a + g i else a) x = x + (xs.map fun i => if p i then g i else 0).sum := by
  induction xs generalizing x with
  | nil => rfl
  | cons i xs ih => rw [List.foldl_cons, ih, List.map_cons, List.sum_cons]; split <;> omega

/-- A sum saturated to an unsigned element (05 R171). -/
theorem satEl_sum (x : Nat) : satEl 64 true satSadBit (x : Int) = (min x (2 ^ 64 - 1), if 2 ^ 64 ≤ x then 16#8 else 0#8) := by
  rw [satEl_eq]
  refine Prod.ext ?_ ?_
  · simp only [intLo, intHi, if_true]; omega
  · simp only [intLo, intHi, if_true, satSadBit]
    by_cases h : 2 ^ 64 ≤ x
    · rw [if_pos h, if_pos (by omega)]
    · rw [if_neg h, if_neg (by omega)]

theorem maskDst_of {r : BitVec 5} (h1 : 1 ≤ r.toNat) (h8 : r.toNat < 8) : maskDst r = true := by simp [maskDst, h1, h8]
theorem maskSrc_of {r : BitVec 5} (h8 : r.toNat < 8) : maskSrc r = true := decide_eq_true h8

theorem quietAs_vecCmp (c : Core) (md va vb m k s : Nat) (f : Nat → Nat → Bool) : (c.vecCmp md va vb m k s f).QuietAs c := quietAs_wm ..

theorem quietAs_accumulate (c : Core) (vd m k : Nat) (f : Nat → Int) : (c.accumulate vd m k f).QuietAs c :=
  (quietAs_orPsat ..).trans (quietAs_putGrp ..)

theorem elem_width_pos (t : BitVec 2) : 0 < 8 * 2 ^ t.toNat := by positivity

theorem elem_width_le (t : BitVec 2) : 8 * 2 ^ t.toNat ≤ 64 :=
  Nat.mul_le_mul_left 8 (Nat.pow_le_pow_right (by decide) (Nat.lt_succ_iff.1 t.isLt) : 2 ^ t.toNat ≤ 2 ^ 3)

/-- The result of a comparison, with its condition as a proposition. -/
theorem vecCmp_eq (c : Core) (md va vb m k s : Nat) (f : Nat → Nat → Bool) :
    c.vecCmp md va vb m k s f = c.wm md (BitVec.ofNat 128 (packEl 1 ((List.range (32 * k / s)).map fun i =>
      if (c.rm m).getLsbD i ∧ f (elem (c.grp va k) (8 * s) i) (elem (c.grp vb k) (8 * s) i) = true then 1 else 0))) := by
  simp only [Core.vecCmp, b2n_and]

/-- Settles O15: each row's meaning, with the values of its elements. -/
theorem plySelectionComplete : Obligations.PlySelectionComplete := by
  intro l vd va vb m g t s hs k0 hen hg K S w sg is cmp acc el
  have hsg : ∀ w x, asInt w false x = sg w x := asInt_false
  have does (c : Instr) (legal : Core → Bool) (f u : Core → Core) (he : exec c s = runPly l s legal f) (hl : legal k0 = true)
      (hq : ∀ k, (f k).QuietAs k) (hf : ∀ k, f k = u k) : is c u := by
    rw [← funext hf]; exact retires_of_runPly he hs hl hen hq
  have masks (c : Instr) (f : Core → BitVec 128) (he : exec c s = runPly l s (fun _ => maskDst vd && maskSrc va) fun k => k.wm vd.toNat (f k))
      (h1 : 1 ≤ vd.toNat) (h8 : vd.toNat < 8) (ha : va.toNat < 8) : is c fun k => k.wm vd.toNat (f k) :=
    does c _ _ _ he (by rw [maskDst_of h1 h8, maskSrc_of ha]; rfl) (fun k => quietAs_wm ..) fun _ => rfl
  have compares (c : Instr) (f u : Nat → Nat → Bool)
      (he : exec c s = runPly l s (fun _ => grpOk K [va, vb] && maskDst vd) fun k => k.vecCmp vd.toNat va.toNat vb.toNat m.toNat K S f)
      (h1 : 1 ≤ vd.toNat) (h8 : vd.toNat < 8) (hgrp : grpOk K [va, vb] = true) (hf : ∀ a b, f a b = u a b) : cmp c u := by
    rw [← funext fun a => funext (hf a)]
    exact does c _ _ _ he (by rw [hgrp, maskDst_of h1 h8]; rfl) (fun k => quietAs_vecCmp ..) fun k => vecCmp_eq ..
  clear_value is cmp
  refine ⟨fun h1 h8 hgrp => ⟨compares _ _ _ rfl h1 h8 hgrp fun _ _ => rfl, compares _ _ _ rfl h1 h8 hgrp fun a b => ?ne,
      compares _ _ _ rfl h1 h8 hgrp fun a b => ?lt, compares _ _ _ rfl h1 h8 hgrp fun a b => ?le,
      compares _ _ _ rfl h1 h8 hgrp fun _ _ => rfl, compares _ _ _ rfl h1 h8 hgrp fun _ _ => rfl⟩,
    fun h1 h8 ha => ⟨masks _ _ rfl h1 h8 ha, masks _ _ rfl h1 h8 ha, masks _ _ rfl h1 h8 ha, masks _ _ rfl h1 h8 ha⟩,
    fun h1 h8 => ⟨does _ (fun _ => maskDst vd) _ _ rfl (maskDst_of h1 h8) (fun _ => quietAs_wm ..) fun k => by rw [putField_low],
      does _ (fun _ => maskDst vd) _ _ rfl (maskDst_of h1 h8) (fun _ => quietAs_wm ..) fun k => by rw [putField_high]⟩,
    fun ha => ⟨does _ (fun _ => maskSrc va) _ _ rfl (maskSrc_of ha) (fun _ => quietAs_wg ..) fun k => by rw [ofNat_field_eq_extract _ 63 0 64 rfl],
      does _ (fun _ => maskSrc va) _ _ rfl (maskSrc_of ha) (fun _ => quietAs_wg ..) fun k => by rw [ofNat_field_eq_extract _ 127 64 64 rfl]⟩,
    fun hgrp => does _ (fun _ => grpOk K [vd]) _ _ rfl hgrp (fun _ => quietAs_vecMap ..) fun _ => rfl,
    fun hb => ⟨does _ (fun _ => decide (vb.toNat < 32 / S)) _ _ rfl (decide_eq_true hb) (fun _ => quietAs_wv ..) fun _ => rfl,
      does _ (fun _ => decide (vb.toNat < 32 / S)) _ _ rfl (decide_eq_true hb) (fun _ => quietAs_wg ..) fun k => ?pext⟩,
    fun hgrp => ⟨does _ (fun _ => grpOk K [vd, va, vb]) _ _ rfl hgrp (fun _ => quietAs_putGrp ..) fun _ => rfl,
      fun ht => does _ (fun _ => grpOk K [vd, va, vb] && t ≠ 3#2) _ _ rfl ?psadLegal (fun _ => (quietAs_orPsat ..).trans (quietAs_putGrp ..)) fun k => ?psad⟩,
    fun ht hd hab => ⟨?pwacc, ?pwmac⟩⟩
  case ne => exact Bool.eq_iff_iff.2 (by simp)
  case lt | le => simp only [← hsg]; rfl
  case pext => exact congrArg (k.wg vd) ((sextFrom_eq_ofInt (elem_width_pos t) (elem_width_le t) (elem_lt ..)).trans (by rw [hsg]))
  case psad =>
    simp only [foldl_add_if, satEl_sum, List.map_map, List.foldl_map]
    rfl
  case pwacc =>
    refine does _ (fun _ => grpOk K [va] && grpOk (2 * K) [vd] && t == 3#2) _ _ rfl ?_ (fun _ => quietAs_accumulate ..) fun k => ?_
    · rw [(grpOk_cons hab).1, hd, ht]; rfl
    · simp only [hsg]; rfl
  case pwmac =>
    refine does _ (fun _ => grpOk K [va, vb] && grpOk (2 * K) [vd] && t == 3#2) _ _ rfl ?_ (fun _ => quietAs_accumulate ..) fun k => ?_
    · rw [hab, hd, ht]; rfl
    · simp only [hsg]; rfl
  case psadLegal => rw [hgrp, Bool.true_and]; exact decide_eq_true ht

end Sys2Proof.Machine
end

section
/-! PROOFS. The crypto instructions, branches, and the entry to a bank (07 R231, R239, 08 R255). -/
namespace Sys2Proof.Machine

/-! ### Crypto -/

theorem grpOk_of_mod {K : Nat} (hK : K ≠ 0) {rs : List (BitVec 5)} (h : ∀ r ∈ rs, r.toNat % K = 0) : grpOk K rs = true := by
  simp only [grpOk, Bool.and_eq_true, List.all_eq_true]
  exact ⟨decide_eq_true hK, fun r hr => beq_iff_eq.2 (h r hr)⟩

/-- Settles O17: each instruction is one write of its destination; only the SHA-512 forms ask for an aligned group. -/
theorem cryptoComplete : Obligations.CryptoComplete := by
  intro l vd va vb ga gb gd sz s hs k0 aes w32
  refine ⟨fun hen => ?_, ?crc⟩
  case crc =>
    exact retires_wg _ l s gd _ _ rfl hs fun k => by rw [BitVec.ofNat_toNat]; rfl
  have crypto (c : Instr) (legal : Bool) (f : Core → VWord) (he : exec c s = runCrypto l s legal fun k => k.wv vd.toNat (f k))
      (hl : legal = true) : Retires c l s fun k => k.wv vd.toNat (f k) :=
    retires_of_runCrypto he hs hl hen fun k => quietAs_wv ..
  have group2 (hd : vd.toNat % 2 = 0) (ha : va.toNat % 2 = 0) : grpOk 2 [vd, va] = true :=
    grpOk_of_mod (by decide) fun r hr => by rcases List.mem_pair.1 hr with rfl | rfl <;> assumption
  have group4 (ha : va.toNat % 4 = 0) : grpOk 4 [va] = true :=
    grpOk_of_mod (by decide) fun r hr => by rw [List.mem_singleton.1 hr]; exact ha
  exact ⟨crypto _ true _ rfl rfl, crypto _ true _ rfl rfl, crypto _ true _ rfl rfl, crypto _ true _ rfl rfl, crypto _ true _ rfl rfl,
    crypto _ true _ rfl rfl, crypto _ true _ rfl rfl,
    fun hd ha => retires_of_runCrypto (legal := grpOk 2 [vd, va]) rfl hs (group2 hd ha) hen fun k => quietAs_putGrp ..,
    fun ha => crypto _ (grpOk 4 [va]) _ rfl (group4 ha)⟩

/-! ### Branches -/

theorem relTarget_eq {n : Nat} (c : Core) (disp : BitVec n) : c.relTarget disp = c.pc + disp.signExtend 64 * 4#64 := by
  rw [Core.relTarget, BitVec.shiftLeft_eq_mul_twoPow]; rfl

theorem quietAs_trainCond (c : Core) (taken : Bool) (target : Word) : (c.trainCond taken target).QuietAs c := by
  unfold Core.trainCond; split <;> exact ⟨rfl, rfl, rfl⟩

/-- The predictor's training keeps the PC and the registers. -/
theorem trainCond_frame (c : Core) (taken : Bool) (target : Word) : (c.trainCond taken target).pc = c.pc ∧ (c.trainCond taken target).g = c.g := by
  unfold Core.trainCond; split <;> exact ⟨rfl, rfl⟩

/-- An instruction that jumps on a ready core has its effect on that core, and the PC at its target. -/
theorem completes_jump {c : Instr} {l : Fin 384} {s : State} {F : Dev → CoreOut} {f : Core → Core} {target : Word} {p : Core → Prop}
    (he : exec c s = runInstr l s F) (hs : s.ready l) (hF : F (s.fetched l) = .jump ((s.fetched l).updCore l.val f) target)
    (hq : (f ((s.fetched l).core l.val)).QuietAs ((s.fetched l).core l.val))
    (hp : p { f ((s.fetched l).core l.val) with pc := target, stepArmed := false, draining := false }) : Completes c s fun t => p (t.core l.val) := by
  refine ⟨_, he, rfl, ?_⟩
  have hquiet := quiet_updCore_of_quietAs hq hs.2.2
  show p ((s.dev.instr l F).core l.val)
  rw [instr_ready s l F hs, hF, Dev.finish]
  rw [core_of_cores (traceRecord_cores ..) l.val,
    countRetired_quiet _ l _ _ ((quiet_updCore _ l.val (fun c => { c with pc := target }) rfl rfl rfl).trans hquiet),
    core_updCore, if_pos rfl, core_updCore, if_pos rfl, core_updCore, if_pos rfl]
  exact hp

/-- An instruction that is done on a ready core has its effect on that core, whose PC moves to the next word. -/
theorem completes_done {c : Instr} {l : Fin 384} {s : State} {F : Dev → CoreOut} {e : Dev} {evs : List (Nat × Nat)} {p : Dev → Prop}
    (he : exec c s = runInstr l s F) (hs : s.ready l) (hF : F (s.fetched l) = .done e evs) (hq : e.quiet l.val = true)
    (hp : p (e.updCore l.val fun k => { k with pc := k.pc + 4#64 })) : Completes c s p :=
  ⟨_, he, rfl, (congrArg p (instr_done s l F hs e evs hF hq)).mpr hp⟩

section
variable {c : Instr} {l : Fin 384} {s : State} {k : Core}

/-- A jump that may link goes to its target, and writes its link register alone. -/
theorem completes_link {F : Dev → CoreOut} {kind : Nat} {link : BitVec 5} {target : Word} {v : Core → Word} (hk : (s.fetched l).core l.val = k)
    (he : exec c s = runInstr l s F) (hs : s.ready l)
    (hF : F (s.fetched l) = .jump ((s.fetched l).updCore l.val fun c => (c.trainJump kind target).wg link (v c)) target) :
    Completes c s fun t => (t.core l.val).pc = target ∧ (t.core l.val).g = (k.wg link (v k)).g := by
  refine completes_jump (p := fun c => c.pc = target ∧ c.g = _) he hs hF ((quietAs_wg ..).trans ⟨rfl, rfl, rfl⟩) ⟨rfl, ?_⟩
  rw [hk]
  show ((k.trainJump kind target).wg link (v k)).g = _
  unfold Core.wg; split <;> rfl

/-- A conditional branch goes to its target where it is taken, and to the next word where it is not. -/
theorem completes_condBranch {F : Dev → CoreOut} {taken : Bool} {target : Word} (hk : (s.fetched l).core l.val = k)
    (he : exec c s = runInstr l s F) (hs : s.ready l) (hF : F (s.fetched l) = (s.fetched l).condBranch l.val taken target) :
    Completes c s fun t => (t.core l.val).pc = (if taken then target else k.pc + 4#64) ∧ (t.core l.val).g = k.g := by
  have hq := quietAs_trainCond ((s.fetched l).core l.val) taken target
  obtain ⟨hpc, hg⟩ := trainCond_frame k taken target
  cases taken with
  | true => exact completes_jump (p := fun c => c.pc = _ ∧ c.g = _) he hs hF hq ⟨rfl, by rw [hk]; exact hg⟩
  | false =>
    refine completes_done he hs hF (quiet_updCore_of_quietAs hq hs.2.2) ?_
    rw [core_updCore, if_pos rfl, core_updCore, if_pos rfl, hk]
    exact ⟨congrArg (· + 4#64) hpc, hg⟩
end

theorem aligned_of_mod {x : Word} (h : x.toNat % 4 = 0) : field x 1 0 = 0 := by simpa [field, bitsN] using h

theorem toInt_eq_zero_iff (a : Word) : a.toInt = 0 ↔ a = 0#64 := by rw [← BitVec.toInt_inj]; rfl

/-- Settles O8: the jumps link and go, the branches go by their condition, whatever the predictor learns. -/
theorem branchesComplete : Obligations.BranchesComplete := by
  intro l d26 d13 d18 imm cond gd ga gb s hs
  dsimp only
  generalize hk : (s.fetched l).core l.val = k
  have six : cond.toNat < 6 → cond.toNat = 0 ∨ cond.toNat = 1 ∨ cond.toNat = 2 ∨ cond.toNat = 3 ∨ cond.toNat = 4 ∨ cond.toNat = 5 := by omega
  refine ⟨?jump, ?jal, fun h => ?jalr, fun h => ?bc, fun h => ?bz⟩
  case jump =>
    rw [← relTarget_eq]
    exact completes_link (link := 0#5) (v := fun _ => 0#64) hk rfl hs (by rw [hk]; rfl)
  case jal =>
    rw [← relTarget_eq]
    exact completes_link (v := fun c => c.pc + 4#64) hk rfl hs (by rw [hk])
  case jalr =>
    refine completes_link (v := fun c => c.pc + 4#64) hk rfl hs ((if_neg ?_).trans (by rw [hk]; rfl))
    rw [hk]
    exact not_not.2 (aligned_of_mod h)
  case bc =>
    rw [← relTarget_eq]
    have taken (b : Bool) (hb : bcCond cond (k.rg ga) (k.rg gb) = some b) : Completes (.bc l cond ga gb d13) s fun t =>
        (t.core l.val).pc = (if b then k.relTarget d13 else k.pc + 4#64) ∧ (t.core l.val).g = k.g :=
      completes_condBranch hk rfl hs (by simp only [hk, hb])
    rcases six h with h | h | h | h | h | h <;> simp only [h] <;> exact taken _ (by simp only [bcCond, h])
  case bz =>
    rw [← relTarget_eq]
    have taken (b : Bool) (hb : bzCond cond (k.rg ga) = some b) : Completes (.bz l cond ga d18) s fun t =>
        (t.core l.val).pc = (if b then k.relTarget d18 else k.pc + 4#64) ∧ (t.core l.val).g = k.g :=
      completes_condBranch hk rfl hs (by simp only [hk, hb])
    rcases six h with h | h | h | h | h | h <;> simp only [h] <;> exact taken _ (by simp only [bzCond, h, toInt_eq_zero_iff, ne_eq])

/-! ### Entry to a bank -/

/-- What orders an entry leaves no undrained store, or a mark behind those that are left. -/
theorem sb_drainMark (d : Dev) (l : Nat) (all : Bool) :
    ((d.drainMark l all).core l).sb = [] ∨ ((d.drainMark l all).core l).sb.getLast? = some (.mark all) := by
  unfold Dev.drainMark
  dsimp only
  split
  case isTrue h => exact .inl (List.isEmpty_iff.1 (Bool.and_eq_true_iff.1 h).1)
  case isFalse h => rw [core_updCore, if_pos rfl]; exact .inr List.getLast?_concat

theorem sb_refetch (d : Dev) (l : Nat) : ((d.refetch l).core l).sb = (d.core l).sb := by
  rw [Dev.refetch, core_updCore, if_pos rfl, core_of_cores (l1iSync_cores d l) l]

theorem sb_take (c : Core) (sec : Bool) (cause : Reg32) (addr saved : Word) (off : Nat) : (c.take sec cause addr saved off).sb = c.sb := by
  unfold Core.take
  dsimp only
  split <;> cases sec <;> rfl

theorem pred_take {c : Core} {sec : Bool} (h : c.level.secure ≠ sec) (cause : Reg32) (addr saved : Word) (off : Nat) :
    (c.take sec cause addr saved off).pred = Predictor.empty := by
  unfold Core.take
  rw [if_neg h]; rfl

/-- Settles O56: the entry is `Core.take` on a core whose buffers alone the ordering before it has changed. -/
theorem entryToABank : Obligations.EntryToABank := by
  intro d l sec cause addr saved offset e
  dsimp only
  have hbuf : BuffersOnly l d ((d.drainMark l true).refetch l) := buffersOnly_ordered d l
  have hsb := sb_drainMark d l true
  rw [← sb_refetch] at hsb
  unfold BuffersOnly at hbuf
  rw [Dev.enter, core_updCore, if_pos rfl, sb_take]
  generalize (d.drainMark l true |>.refetch l).core l = b at hbuf hsb
  obtain ⟨hpc, hlevel, hbank, hother, hg, hv, hm, -⟩ := enters_take (d.core l) b sec saved cause addr offset
  have htake : b.take sec cause addr saved offset = ((d.core l).take sec cause addr saved offset).withBuffersOf b := by
    rw [hbuf]; exact (leavesBuffers_take sec cause addr saved offset).1 _ _
  rw [htake]
  exact ⟨hbank, hother, hlevel, hpc, fun h => pred_take h cause addr saved offset, hg, hv, hm, hsb, rfl⟩

end Sys2Proof.Machine
end

section
/-! PROOFS. What reset leaves (00 R11). -/
namespace Sys2Proof.Machine

/-- The Reset values put together of a register's fields are its fields' Reset values, for each row of the tables. -/
theorem field_regReset_of_mem_regDefs : ∀ r ∈ regDefs, ∀ f ∈ r.fields, field (regReset r.base) f.hi f.lo = f.reset := by decide +kernel

theorem core_reset (l : Nat) : Dev.reset.core l = Core.reset := rfl

/-- A core that is not released is not in service. -/
theorem inService_of_not_released {d : Dev} {l : Nat} (h : (d.core l).released = false) : d.inService l = false := by
  simp only [Dev.inService, h, Bool.false_and]

/-- Settles O54: the lists of reset are empty, and a register that none of them names reads its Reset value. -/
theorem resetLeaves : Obligations.ResetLeaves :=
  ⟨rfl, rfl, rfl, rfl, rfl, fun _ => ⟨rfl, inService_of_not_released rfl⟩, field_regReset_of_mem_regDefs⟩

end Sys2Proof.Machine
end

section
/-! PROOFS. The timers of a core and WAITI (08 R271, 07 R243, 17 R533). -/
namespace Sys2Proof.Machine

/-! ### Pending vectors -/

theorem getLsbD_setBit (x : BitVec 256) (i j : Nat) (b : Bool) (hj : j < 256) : (setBit x i b).getLsbD j = if j = i then b else x.getLsbD j := by
  unfold setBit
  cases b <;> by_cases h : j = i
  · subst h; simp
  · have : ¬ (i ≤ j ∧ j - i = 0) := by omega
    simp [h, hj]; omega
  · subst h; simp [hj]
  · have : ¬ (i ≤ j ∧ j - i = 0) := by omega
    simp [h]; omega

theorem getLsbD_pendNow (d : Dev) (l v : Nat) (hv : v < 256) (hn : v ≠ 0xF7) : (d.pendNow l).getLsbD v = (d.pendBase l).getLsbD v := by
  rw [Dev.pendNow, getLsbD_setBit _ _ _ _ hv, if_neg hn]

/-- The pending bits before the mask of secure vectors. -/
theorem getLsbD_pendBase {d : Dev} {l v : Nat} (hv : v < 256) (hs : d.secureSkein l = true ∨ (d.core l).sec.getLsbD v = false) :
    (d.pendBase l).getLsbD v =
      (setBit (setBit (d.core l).pend 0xFA ((d.core l).timerCond d.now)) 0xF9 ((d.core l).sTimerCond d.now)).getLsbD v := by
  unfold Dev.pendBase
  dsimp only
  split
  · rfl
  · next hn =>
    rw [BitVec.getLsbD_and, BitVec.getLsbD_not, hs.resolve_left hn]
    simp [hv]

theorem pendNow_timer {d : Dev} {l : Nat} (hs : d.secureSkein l = true ∨ (d.core l).sec.getLsbD 0xFA = false)
    (hc : (d.core l).timerCond d.now = true) : (d.pendNow l).getLsbD 0xFA = true := by
  rw [getLsbD_pendNow _ _ _ (by decide) (by decide), getLsbD_pendBase (by decide) hs, getLsbD_setBit _ _ _ _ (by decide), if_neg (by decide),
    getLsbD_setBit _ _ _ _ (by decide), if_pos rfl, hc]

theorem pendNow_sTimer {d : Dev} {l : Nat} (hs : d.secureSkein l = true) (hc : (d.core l).sTimerCond d.now = true) :
    (d.pendNow l).getLsbD 0xF9 = true := by
  rw [getLsbD_pendNow _ _ _ (by decide) (by decide), getLsbD_pendBase (by decide) (.inl hs), getLsbD_setBit _ _ _ _ (by decide), if_pos rfl, hc]

theorem completes_timerExpire {l : Fin 384} {s : State} (he : (s.dev.core l.val).timerEn = true)
    (hs : s.dev.secureSkein l.val = true ∨ (s.dev.core l.val).sec.getLsbD 0xFA = false) :
    Completes (.timerExpire l) s fun t =>
      t = { s.dev with now := max s.dev.now (s.dev.core l.val).timerCmp.toNat } ∧ (t.pendNow l.val).getLsbD 0xFA = true := by
  refine ⟨_, rfl, rfl, ?_⟩
  show (if (s.dev.core l.val).timerEn then s.dev.timeTo _ else s.dev) = _ ∧ (Dev.pendNow (if (s.dev.core l.val).timerEn then s.dev.timeTo _ else s.dev) _).getLsbD _ = _
  rw [if_pos he]
  refine ⟨rfl, pendNow_timer hs ?_⟩
  simp only [Core.timerCond, Bool.and_eq_true, decide_eq_true_eq]
  exact ⟨he, le_max_right ..⟩

theorem completes_sTimerExpire {l : Fin 384} {s : State} (he : (s.dev.core l.val).sTimerEn = true) (hs : s.dev.secureSkein l.val = true) :
    Completes (.sTimerExpire l) s fun t =>
      t = { s.dev with now := max s.dev.now (s.dev.core l.val).sTimerCmp.toNat } ∧ (t.pendNow l.val).getLsbD 0xF9 = true := by
  refine ⟨_, rfl, rfl, ?_⟩
  show (if (s.dev.core l.val).sTimerEn then s.dev.timeTo _ else s.dev) = _ ∧ (Dev.pendNow (if (s.dev.core l.val).sTimerEn then s.dev.timeTo _ else s.dev) _).getLsbD _ = _
  rw [if_pos he]
  refine ⟨rfl, pendNow_sTimer hs ?_⟩
  simp only [Core.sTimerCond, Bool.and_eq_true, decide_eq_true_eq]
  exact ⟨he, le_max_right ..⟩

/-! ### WAITI -/

/-- A core that may run has no vector to take, or drains. -/
theorem not_deliverable_of_ready {s : State} {l : Fin 384} (h : s.ready l) :
    ((s.dev.deliverable l.val).isSome && !(s.dev.core l.val).draining) = false := by
  obtain ⟨hr, -, -⟩ := h
  simp only [Dev.canRun, Bool.and_eq_true, Bool.or_eq_true] at hr
  rcases hr.2 with hd | hv
  · rw [hd]; simp
  · rw [Option.isNone_iff_eq_none.1 hv]; rfl

theorem exec_waiti {s : State} {l : Fin 384} (h : s.ready l) : exec (.waiti l) s = .next (s.withDev (s.dev.waitiGate l)) := by
  show Host.Outcome.next (s.withDev (if (s.dev.deliverable l.val).isSome && !(s.dev.core l.val).draining then _ else _)) = _
  rw [not_deliverable_of_ready h, if_neg (by decide)]

/-- The device whose core WAITI has gated, its request not looked at yet. -/
def Dev.waitiGated (d : Dev) (l : Nat) : Dev := d.updCore l fun k => { k with wait := .waiti, pc := k.pc + 4#64 }

theorem instr_waiti {s : State} {l : Fin 384} (h : s.ready l) (hp : ((s.fetched l).core l.val).level.priv = true) :
    s.dev.instr l (fun d => if !(d.core l.val).level.priv then .exc d .priv else .done (d.updCore l.val fun c => { c with wait := .waiti }) []) =
      (s.fetched l).waitiGated l.val := by
  have hq : ((s.fetched l).updCore l.val fun c => { c with wait := .waiti }).quiet l.val = true := by
    rw [quiet_updCore _ _ (fun c => { c with wait := .waiti }) rfl rfl rfl]; exact h.2.2
  rw [instr_done s l _ h _ [] (by simp [hp]) hq, updCore_updCore]
  rfl

theorem waitiGate_of_ready {s : State} {l : Fin 384} (h : s.ready l) (hp : ((s.fetched l).core l.val).level.priv = true)
    (hw : (s.dev.core l.val).wait = .none) :
    s.dev.waitiGate l = match mget none (s.fetched l).pwr.selfReq l.val with
      | none => (s.fetched l).waitiGated l.val
      | some t =>
        let g := (s.fetched l).waitiGated l.val
        let d := ({ g with pwr := { g.pwr with selfReq := mset none g.pwr.selfReq l.val none } }).setRegF (Reg.PWR_RESULT l.val) 0 0 0
        if (d.domOf l.val).transit ∨ (d.domOf l.val).st ≠ .run then d else d.startEntry l.val t (some l.val) := by
  have hg : ((s.fetched l).waitiGated l.val).core l.val = { (s.fetched l).core l.val with wait := .waiti, pc := ((s.fetched l).core l.val).pc + 4#64 } := by
    rw [Dev.waitiGated, core_updCore, if_pos rfl]
  unfold Dev.waitiGate
  rw [instr_waiti h hp]
  dsimp only
  rw [if_pos ⟨hw, by rw [hg]⟩]
  rfl

theorem retires_waiti {s : State} {l : Fin 384} (h : s.ready l) (hp : ((s.fetched l).core l.val).level.priv = true)
    (hw : (s.dev.core l.val).wait = .none) (hn : mget none (s.fetched l).pwr.selfReq l.val = none) :
    Retires (.waiti l) l s fun k => { k with wait := .waiti } := by
  refine ⟨_, exec_waiti h, rfl, ?_⟩
  show s.dev.waitiGate l = _
  rw [waitiGate_of_ready h hp hw, hn, updCore_updCore]
  rfl

theorem leaves_waiti_of_held {s : State} {l : Fin 384} {t : DomState} (h : s.ready l) (hp : ((s.fetched l).core l.val).level.priv = true)
    (hw : (s.dev.core l.val).wait = .none) (hn : mget none (s.fetched l).pwr.selfReq l.val = some t)
    (hr : ((s.fetched l).domOf l.val).st = .run) (ht : ((s.fetched l).domOf l.val).transit = false) :
    let g := (s.fetched l).waitiGated l.val
    Leaves (.waiti l) s ((({ g with pwr := { g.pwr with selfReq := mset none g.pwr.selfReq l.val none } }).setRegF (Reg.PWR_RESULT l.val) 0 0 0).startEntry
      l.val t (some l.val)) := by
  refine ⟨_, exec_waiti h, rfl, ?_⟩
  show s.dev.waitiGate l = _
  rw [waitiGate_of_ready h hp hw, hn]
  refine if_neg ?_
  rintro (hh | hh)
  · exact absurd (ht.symm.trans hh) (by decide)
  · exact hh hr

@[simp] theorem pwrResult_cores (d : Dev) (q : Option Nat) (st : Status) (code p : Nat) : (d.pwrResult q st code p).cores = d.cores := by
  cases q <;> rfl
@[simp] theorem pwrResult_pwr (d : Dev) (q : Option Nat) (st : Status) (code p : Nat) : (d.pwrResult q st code p).pwr = d.pwr := by
  cases q <;> rfl

@[simp] theorem dropSelf_cores (d : Dev) (l : Nat) : (d.dropSelf l).cores = d.cores := by
  unfold Dev.dropSelf; split <;> simp

theorem selfReq_dropSelf (d : Dev) (l : Nat) : mget none (d.dropSelf l).pwr.selfReq l = none := by
  unfold Dev.dropSelf; split
  · assumption
  · simp

theorem completes_waitiResume {s : State} {l : Fin 384} (hs : s.dev.inService l.val = true) (hw : (s.dev.core l.val).wait = .waiti)
    (hd : (s.dev.deliverable l.val).isSome) :
    Completes (.waitiResume l) s fun t =>
      (t.core l.val).wait = .none ∧ mget none t.pwr.selfReq l.val = none ∧ (t.core l.val).pc = (s.dev.core l.val).pc := by
  refine completes_of (fun d => if d.inService l.val && (d.core l.val).wait == .waiti && (d.deliverable l.val).isSome then
    (d.updCore l.val fun c => { c with wait := .none }).dropSelf l.val else d) rfl ?_
  have hc : ((s.dev.updCore l.val fun c => { c with wait := .none }).dropSelf l.val).core l.val = { s.dev.core l.val with wait := .none } := by
    rw [core_of_cores (dropSelf_cores ..), core_updCore, if_pos rfl]
  rw [if_pos (by rw [hs, hw, hd]; rfl), hc]
  exact ⟨rfl, selfReq_dropSelf .., rfl⟩

/-- Settles O21: the event moves the timebase to the compare value, and a vector that is deliverable gates no core. -/
theorem timersAndWaiti : Obligations.TimersAndWaiti :=
  ⟨fun _ _ => ⟨completes_timerExpire, completes_sTimerExpire⟩,
    fun _ _ _ => ⟨fun h hp hw => ⟨retires_waiti h hp hw, leaves_waiti_of_held h hp hw⟩, completes_waitiResume⟩⟩

end Sys2Proof.Machine
end

section
/-! PROOFS. What a touch of the caches may change: the frame of the context cache and of the home caches. -/
namespace Sys2Proof.Machine

/-! ### What the caches of the hub may change -/

/-- `e` is `d` but for the caches, what they hold beyond DRAM, and the hub's counts. -/
def Dev.CacheMoved (d e : Dev) : Prop := ∃ c n st, e = { d with coh := c, hubCnt := n, mem := { d.mem with stale := st } }

theorem Dev.CacheMoved.refl (d : Dev) : d.CacheMoved d := ⟨d.coh, d.hubCnt, d.mem.stale, rfl⟩

theorem Dev.CacheMoved.trans {d e f : Dev} (h : d.CacheMoved e) (h' : e.CacheMoved f) : d.CacheMoved f := by
  obtain ⟨_, _, _, rfl⟩ := h
  obtain ⟨c, n, st, rfl⟩ := h'
  exact ⟨c, n, st, rfl⟩

theorem cacheMoved_coh (d : Dev) (c : Coh) : d.CacheMoved { d with coh := c } := ⟨c, d.hubCnt, d.mem.stale, rfl⟩
theorem cacheMoved_hubAdd (d : Dev) (s k n : Nat) : d.CacheMoved (d.hubAdd s k n) := ⟨d.coh, _, d.mem.stale, rfl⟩
theorem cacheMoved_stale (d : Dev) (st : List (Nat × Option StaleLine)) : d.CacheMoved { d with mem := { d.mem with stale := st } } :=
  ⟨d.coh, d.hubCnt, st, rfl⟩

theorem cacheMoved_hubAddLine (d : Dev) (line k n : Nat) : d.CacheMoved (d.hubAddLine line k n) := by
  unfold Dev.hubAddLine
  split
  · exact cacheMoved_hubAdd ..
  · exact .refl d

theorem cacheMoved_dramWriteback (d : Dev) (line : Nat) : d.CacheMoved (d.dramWriteback line) :=
  (cacheMoved_stale d _).trans (cacheMoved_hubAddLine ..)

theorem cacheMoved_markStale (d : Dev) (line owner : Nat) (p : Option Nat) : d.CacheMoved (d.markStale line owner p) := by
  unfold Dev.markStale
  split <;> exact cacheMoved_stale ..

theorem cacheMoved_hcEvict (d : Dev) (line : Nat) : d.CacheMoved (d.hcEvict line) := by
  unfold Dev.hcEvict
  refine Dev.CacheMoved.trans ?_ (cacheMoved_coh _ _)
  split
  · split
    · exact cacheMoved_dramWriteback ..
    · exact .refl d
  · exact .refl d

theorem cacheMoved_hcInstall (d : Dev) (line : Nat) (dirty : Bool) : d.CacheMoved (d.hcInstall line dirty) := by
  have hs : ∀ e : Dev, e.CacheMoved (if dirty then e.markStale line 22 none else e) := fun e => by
    split
    · exact cacheMoved_markStale ..
    · exact .refl e
  unfold Dev.hcInstall
  dsimp only
  split
  · exact (hs d).trans (cacheMoved_coh _ _)
  · split
    · split
      · exact cacheMoved_dramWriteback ..
      · exact .refl d
    · refine Dev.CacheMoved.trans (Dev.CacheMoved.trans ?_ (hs _)) (cacheMoved_coh _ _)
      split
      · exact cacheMoved_hcEvict ..
      · exact .refl d

theorem cacheMoved_bookTouch (d : Dev) (line : Nat) (dirty : Bool) : d.CacheMoved (d.bookTouch line dirty) := by
  unfold Dev.bookTouch
  split
  · exact cacheMoved_hcInstall ..
  · exact (cacheMoved_hubAddLine ..).trans (cacheMoved_hcInstall ..)

theorem cacheMoved_ctxLineTouch (d : Dev) (n : Nat) (dirty : Bool) : d.CacheMoved (d.ctxLineTouch n dirty) := by
  unfold Dev.ctxLineTouch
  split
  · exact cacheMoved_bookTouch ..
  · exact .refl d

/-- A use of a context changes nothing but the context cache and the hub's caches. -/
theorem ctxUse_eq (d : Dev) (n : Nat) : ∃ e s, d.CacheMoved e ∧ d.ctxUse n = { e with bq := { d.bq with cache := s } } := by
  unfold Dev.ctxUse
  dsimp only
  split
  · exact ⟨d, _, .refl d, rfl⟩
  · have h : ∀ e, d.CacheMoved e → d.CacheMoved (e.ctxLineTouch n false) := fun e h => h.trans (cacheMoved_ctxLineTouch ..)
    have hb : ∀ e, d.CacheMoved e → e.bq = d.bq := by rintro _ ⟨_, _, _, rfl⟩; rfl
    split
    · exact ⟨_, _, h _ (cacheMoved_ctxLineTouch ..), by rw [hb _ (cacheMoved_ctxLineTouch ..)]⟩
    · exact ⟨_, _, h _ (.refl d), rfl⟩

end Sys2Proof.Machine
end

section
/-! PROOFS. The commands and doorbells of a DMA channel (04 R126 to R128). -/
namespace Sys2Proof.Machine

/-! ### A channel's registers and its state -/

theorem field_lt {w : Nat} (x : BitVec w) (hi lo : Nat) : field x hi lo < 2 ^ (hi + 1 - lo) := Nat.mod_lt _ (Nat.two_pow_pos _)

theorem not_safe_of_chState {d : Dev} {c n : Nat} (h : d.chState c = n) (hn : n ≠ 5) : d.safe = false := by
  cases hs : d.safe
  · rfl
  · rw [Dev.chState, hs, if_pos rfl] at h
    exact absurd h.symm hn

theorem chState_of_not_safe {d : Dev} {c : Nat} (h : d.safe = false) : d.chState c = field (d.chReg c 4) 2 0 := by simp [Dev.chState, h]

/-- The states and the results of a channel are fields of one register. -/
theorem chReg_setBarF (d : Dev) (c off hi lo v : Nat) :
    (d.setBarF (c / 8) (c % 8 * 0x1000 + off) hi lo v).chReg c off = putField (d.chReg c off) hi lo v := bar_setBarF_self ..

theorem chState_congr {d e : Dev} {c : Nat} (hb : d.bars = e.bars) (hs : d.safe = e.safe) : d.chState c = e.chState c := by
  simp only [Dev.chState, Dev.chReg, Dev.bar, hb, hs]

theorem chan_congr {d e : Dev} {c : Nat} (hf : d.fns = e.fns) : d.chan c = e.chan c := by simp only [Dev.chan, Dev.fn, hf]

theorem chState_setChState {d : Dev} {c st : Nat} (hs : d.safe = false) (hst : st < 8) : (d.setChState c st).chState c = st := by
  rw [chState_of_not_safe (by exact hs), Dev.setChState, chReg_setBarF, field_putField _ _ _ _ (by decide) (by decide)]
  exact Nat.mod_eq_of_lt hst

theorem chState_setBarF_high {d : Dev} {c hi lo v : Nat} (hh : hi < 32) (hl : lo ≤ hi) (h : 2 < lo) :
    (d.setBarF (c / 8) (c % 8 * 0x1000 + 4) hi lo v).chState c = d.chState c := by
  unfold Dev.chState
  rw [chReg_setBarF, field_putField_ne _ _ _ _ _ _ hh hl (.inr h)]
  rfl

theorem chState_chResult_ok (d : Dev) (c : Nat) : (d.chResult c .ok).chState c = d.chState c :=
  chState_setBarF_high (by decide) (by decide) (by decide)

/-- RESULT of a channel's command register. -/
def Dev.chDone (d : Dev) (c : Nat) : Nat := field (d.chReg c 4) 31 24

theorem chDone_chResult_ok (d : Dev) (c : Nat) : (d.chResult c .ok).chDone c = 0 := by
  rw [Dev.chDone, Dev.chResult, if_neg (by decide), chReg_setBarF, field_putField _ _ _ _ (by decide) (by decide)]
  rfl

@[simp] theorem chan_chResult_ok (d : Dev) (c c' : Nat) : (d.chResult c .ok).chan c' = d.chan c' := chan_congr rfl
@[simp] theorem chan_setBarF (d : Dev) (c k off hi lo v : Nat) : (d.setBarF k off hi lo v).chan c = d.chan c := chan_congr rfl
@[simp] theorem chan_setChState (d : Dev) (c c' st : Nat) : (d.setChState c st).chan c' = d.chan c' := chan_congr rfl
@[simp] theorem chan_chHeads (d : Dev) (c c' : Nat) : (d.chHeads c).chan c' = d.chan c' := chan_congr (setBar_fns ..)

theorem chState_chHeads (d : Dev) (c : Nat) : (d.chHeads c).chState c = d.chState c := by
  have : (d.chHeads c).chReg c 4 = d.chReg c 4 := bar_setBar_ne _ _ _ _ _ (by omega)
  unfold Dev.chState
  rw [this, show (d.chHeads c).safe = d.safe from setBar_safe ..]

@[simp] theorem chState_updChan (d : Dev) (c c' : Nat) (f : Chan → Chan) : (d.updChan c f).chState c' = d.chState c' := chState_congr rfl rfl

theorem chan_updChan (d : Dev) (c : Nat) (f : Chan → Chan) : (d.updChan c f).chan c = f (d.chan c) := by
  simp [Dev.chan, Dev.updChan, Dev.fn, Dev.updFn, mupd]

/-- A command in a state that its table admits it in. -/
theorem chCommand_of {d : Dev} {c st : Nat} {ok : Nat → Bool} {f : Dev → Dev} (ho : d.chOpen c = true) (hst : d.chState c = st) (h5 : st ≠ 5)
    (hok : ok st = true) : d.chCommand c ok f = f d := by
  simp only [Dev.chCommand, ho, hst, hok, h5, Bool.not_true, Bool.false_eq_true, if_false, if_true]

/-- A doorbell of an ACTIVE channel with an index of its ring. -/
theorem doorbellCh_of_active {d : Dev} {c n v : Nat} {act rec : Dev → Dev} (ho : d.chOpen c = true) (hst : d.chState c = 1) (hv : v % 2 ^ 16 < n) :
    d.doorbellCh c n v act rec = act d := by
  have : ¬ n ≤ v % 2 ^ 16 := by omega
  simp only [Dev.doorbellCh, ho, hst, this, Bool.not_true, Bool.false_eq_true, if_false, if_true]
  rfl

theorem chSqDb_of_active {d : Dev} {c : Nat} {v : Reg32} (ho : d.chOpen c = true) (hst : d.chState c = 1) (hv : v.toNat % 2 ^ 16 < (d.chan c).sqN) :
    d.chSqDb c v = d.sqTail c (v.toNat % 2 ^ 16) := by
  unfold Dev.chSqDb
  rw [doorbellCh_of_active ho hst (by rwa [Nat.mod_mod])]

theorem chRxDb_of_active {d : Dev} {c : Nat} {v : Reg32} (ho : d.chOpen c = true) (hst : d.chState c = 1) (hv : v.toNat % 2 ^ 16 < (d.chan c).rxN) :
    d.chRxDb c v = d.rxHead c (v.toNat % 2 ^ 16) := by
  unfold Dev.chRxDb
  rw [doorbellCh_of_active ho hst (by rwa [Nat.mod_mod])]

/-! ### ENABLE -/

theorem bookLines_congr {a b : QCtx} (h1 : a.ringLog2 = b.ringLog2) (h2 : a.ringBase = b.ringBase) (o : SkeinCfg) (n : Nat) :
    a.bookLines o n = b.bookLines o n := by
  simp only [QCtx.bookLines, QCtx.linkLine, QCtx.cells, h1, h2]

/-- The lines of a queue's context and ring hold no poison. -/
def Dev.SoundLines (d : Dev) (n : Nat) : Prop := ∀ o, d.qOwner n = some o → ((d.q n).bookLines o n).any d.poisoned = false

theorem Dev.SoundLines.congr {d e : Dev} {n : Nat} (h : d.SoundLines n) (hl : (e.q n).ringLog2 = (d.q n).ringLog2) (hb : (e.q n).ringBase = (d.q n).ringBase)
    (hi : e.img = d.img) (hp : e.poisoned = d.poisoned) : e.SoundLines n := by
  intro o ho
  have ho' : d.qOwner n = some o := by rw [← ho, Dev.qOwner, Dev.qOwner, hi]
  rw [hp, bookLines_congr hl hb]
  exact h o ho'

theorem poisoned_of_regs {d e : Dev} (hr : d.regs = e.regs) (hm : d.mem = e.mem) (hd : d.dram = e.dram) : d.poisoned = e.poisoned :=
  funext fun n => poisoned_congr (fun _ _ => ⟨reg_congr hr _, reg_congr hr _, reg_congr hr _⟩) hm hd (fun _ => reg_congr hr _) n

theorem poisoned_ctxUse (d : Dev) (n : Nat) : (d.ctxUse n).poisoned = d.poisoned := by
  obtain ⟨e, s, ⟨c, k, st, rfl⟩, he⟩ := ctxUse_eq d n
  funext x
  rw [he]
  exact poisoned_congr (fun _ _ => ⟨rfl, rfl, rfl⟩) rfl rfl (fun _ => rfl) x

/-- A touch of a queue whose lines are sound is a use of its context. -/
theorem qTouch_of_sound {d : Dev} {n : Nat} (h : d.SoundLines n) : d.qTouch n = d.ctxUse n := by
  have hs : (d.ctxUse n).SoundLines n := by
    obtain ⟨e, s, ⟨c, k, st, rfl⟩, he⟩ := ctxUse_eq d n
    exact h.congr (by rw [he]; rfl) (by rw [he]; rfl) (by rw [he]) (poisoned_ctxUse ..)
  simp only [Dev.qTouch]
  split
  · next o ho => rw [hs o ho, if_neg (by decide)]
  · rfl

theorem bars_ctxUse (d : Dev) (n : Nat) : (d.ctxUse n).bars = d.bars ∧ (d.ctxUse n).safe = d.safe ∧ (d.ctxUse n).fns = d.fns := by
  obtain ⟨e, s, ⟨c, k, st, rfl⟩, he⟩ := ctxUse_eq d n
  rw [he]
  exact ⟨rfl, rfl, rfl⟩

/-- The channel that ENABLE makes from its registers (R128). -/
def Dev.enabledChan (d : Dev) (c : Nat) : Chan :=
  { Chan.reset with sqBase := d.chBase c 0x08, cqBase := d.chBase c 0x10, rxBase := d.chBase c 0x18, rings := d.chReg c 0x20, drainQa := (d.chReg c 0x24).toNat, drainEn := bit (d.chReg c 0) 7, armed := true }

/-- The device after ENABLE has set up the channel, its queue not yet registered with. -/
def Dev.enableChan (d : Dev) (c : Nat) : Dev :=
  (((d.updChan c fun _ => d.enabledChan c).setChState c 1).chHeads c).setBarF (c / 8) (c % 8 * 0x1000 + 4) 15 8 0

/-- The drain registered as a waiter of its queue, which the registration touches. -/
def Dev.registerDrain (d : Dev) (c n : Nat) : Dev := (d.updQ n fun q => { q with waiters := q.waiters ++ [.drain c] }).qTouch n

theorem chEnable_eq {d : Dev} {c : Nat} (h : d.enableFails c = none) :
    d.chEnable c =
      (if bit (d.chReg c 0) 7 then (d.enableChan c).registerDrain c ((d.chReg c 0x24).toNat % 2 ^ 20) else d.enableChan c).chResult c .ok := by
  unfold Dev.chEnable
  rw [h]
  rfl

theorem registerDrain_frame {d : Dev} {c n : Nat} (h : d.SoundLines n) :
    (d.registerDrain c n).bars = d.bars ∧ (d.registerDrain c n).safe = d.safe ∧ (d.registerDrain c n).fns = d.fns := by
  have hs : (d.updQ n fun q => { q with waiters := q.waiters ++ [.drain c] }).SoundLines n :=
    h.congr (by rw [q_updQ, if_pos rfl]) (by rw [q_updQ, if_pos rfl]) rfl (poisoned_of_regs rfl rfl rfl)
  unfold Dev.registerDrain
  rw [qTouch_of_sound hs]
  exact bars_ctxUse ..

theorem soundLines_enableChan {d : Dev} {c n : Nat} (h : d.SoundLines n) : (d.enableChan c).SoundLines n :=
  have hq : (d.enableChan c).bq = d.bq := (setBarF_bq ..).trans ((setBar_bq ..).trans rfl)
  have hr : (d.enableChan c).regs = d.regs := (setBarF_regs ..).trans ((setBar_regs ..).trans rfl)
  have hm : (d.enableChan c).mem = d.mem := (setBarF_mem ..).trans ((setBar_mem ..).trans rfl)
  have hd : (d.enableChan c).dram = d.dram := (setBarF_dram ..).trans ((setBar_dram ..).trans rfl)
  have hi : (d.enableChan c).img = d.img := (setBarF_img ..).trans ((setBar_img ..).trans rfl)
  h.congr (by rw [Dev.q, hq]; rfl) (by rw [Dev.q, hq]; rfl) hi (poisoned_of_regs hr hm hd)

theorem chan_enableChan (d : Dev) (c : Nat) : (d.enableChan c).chan c = d.enabledChan c := by
  simp only [Dev.enableChan, chan_setBarF, chan_chHeads, chan_setChState, chan_updChan]

theorem chState_enableChan {d : Dev} {c : Nat} (h : d.safe = false) : (d.enableChan c).chState c = 1 := by
  rw [Dev.enableChan, chState_setBarF_high (by decide) (by decide) (by decide), chState_chHeads, chState_setChState (by exact h) (by decide)]

theorem chan_chState_chEnable {d : Dev} {c : Nat} (hs : d.safe = false) (hf : d.enableFails c = none)
    (hp : bit (d.chReg c 0) 7 = true → d.SoundLines ((d.chReg c 0x24).toNat % 2 ^ 20)) :
    (d.chEnable c).chan c = d.enabledChan c ∧ (d.chEnable c).chState c = 1 := by
  rw [chEnable_eq hf, chan_chResult_ok, chState_chResult_ok]
  split
  · next hb =>
    obtain ⟨h1, h2, h3⟩ := registerDrain_frame (c := c) (soundLines_enableChan (c := c) (hp hb))
    exact ⟨(chan_congr h3).trans (chan_enableChan ..), (chState_congr h1 h2).trans (chState_enableChan hs)⟩
  · exact ⟨chan_enableChan .., chState_enableChan hs⟩

/-! ### RESUME -/

/-- A channel with nothing to fetch and no descriptor stands still. -/
theorem chPump_of_idle {d : Dev} {c : Nat} (ht : (d.chan c).sqTail ≤ (d.chan c).sqFetch) (hd : (d.chan c).descs = []) : d.chPump c = d := by
  have h1 : d.chFetches c 16 = d := by
    rw [Dev.chFetches]; exact if_neg fun h => absurd h.2.2.1 (by omega)
  have h2 : d.chPayloads c = d := by
    rw [Dev.chPayloads, hd]; exact ite_self _
  have h3 : d.chPosts c 16 = d := by
    rw [Dev.chPosts, hd]; exact ite_self _
  rw [Dev.chPump, h1, h2, h3]

theorem chResume_of_idle {d : Dev} {c : Nat} (ho : d.chOpen c = true) (hst : d.chState c = 3) (h1 : (d.chan c).recSq = none)
    (h2 : (d.chan c).recRx = none) (h3 : (d.chan c).recCq = none) (hd : (d.chan c).descs = []) (ht : (d.chan c).sqTail ≤ (d.chan c).sqFetch) :
    d.chDo c 3 = ((d.updChan c fun x => { x with recSq := none, recRx := none, recCq := none }).setChState c 1).chResult c .ok := by
  rw [Dev.chDo, chCommand_of ho hst (by decide) rfl]
  simp only [h1, h2, h3]
  rw [chPump_of_idle] <;> rw [chan_setChState, chan_updChan]
  · exact ht
  · exact hd

/-- Settles O22: each command is performed in the states of its table; ENABLE's drain touches a queue whose lines are sound. -/
theorem channelCommandsComplete : Obligations.ChannelCommandsComplete := by
  intro bd fn ch v s d c st i n result ho
  have hsafe {k : Nat} (h : st = k) (hk : k ≠ 5) : d.safe = false := not_safe_of_chState h hk
  refine ⟨fun h hf hp => ?_, fun h => ?_, fun h hd => ?_, fun h h1 h2 h3 hd ht => ?_, fun h => ?_, fun h => ⟨fun hi => ?_, fun hi => ?_, fun hi => ?_⟩⟩
  · obtain ⟨hc, hs⟩ := chan_chState_chEnable (hsafe h (by decide)) hf hp
    refine completes_of (fun d => d.chDo c 1) rfl ?_
    rw [Dev.chDo, chCommand_of ho h (by decide) rfl]
    refine ⟨hs, ?_, by rw [hc]; rfl, by rw [hc]; rfl, by rw [hc]; rfl, ?_⟩
    · rw [chEnable_eq hf]; exact chDone_chResult_ok ..
    · rw [hc]; exact Nat.zero_add _
  · refine completes_of (fun d => d.chDo c 2) rfl ?_
    rw [Dev.chDo, chCommand_of ho h (by decide) rfl]
    exact ⟨by rw [chState_chResult_ok, chState_setChState (hsafe h (by decide)) (by decide)], chDone_chResult_ok .., rfl⟩
  · refine completes_of (fun d => if d.chState c = 2 ∧ (d.chan c).descs = [] then d.setChState c 3 else d) rfl ?_
    rw [if_pos ⟨h, hd⟩]
    exact ⟨chState_setChState (hsafe h (by decide)) (by decide), rfl⟩
  · refine completes_of (fun d => d.chDo c 3) rfl ?_
    rw [chResume_of_idle ho h h1 h2 h3 hd ht, chState_chResult_ok]
    exact ⟨chState_setChState (by exact hsafe h (by decide)) (by decide), chDone_chResult_ok ..⟩
  · have hs : d.safe = false := h.elim (fun h => hsafe h (by decide)) fun h => hsafe h (by decide)
    have hcmd : d.chDo c 4 = ((((d.unregister (.drain c)).updChan c fun _ => Chan.reset).setChState c 0).chHeads c).chResult c .ok := by
      rcases h with h | h <;> rw [Dev.chDo, chCommand_of ho h (by decide) rfl]
    refine completes_of (fun d => d.chDo c 4) rfl ?_
    rw [hcmd]
    refine ⟨?_, chDone_chResult_ok .., ?_⟩
    · rw [chState_chResult_ok, chState_chHeads, chState_setChState (by exact hs) (by decide)]
    · rw [chan_chResult_ok, chan_chHeads, chan_setChState, chan_updChan]
  · exact leaves_of (fun d => d.chSqDb c v) rfl (chSqDb_of_active ho h hi)
  · exact leaves_of (fun d => d.chRxDb c v) rfl (chRxDb_of_active ho h hi)
  · exact leaves_of (fun d => d.chCqDb c v) rfl (doorbellCh_of_active ho h hi)

end Sys2Proof.Machine
end

section
/-! PROOFS. What the host and time bring to a DMA channel (04 R131 to R138, R147). -/
namespace Sys2Proof.Machine

/-- What failed of a read that did not complete: a poisoned line, and else it was denied. -/
theorem readFailure_of_bad {c : Completion} (h : ∀ b, c ≠ .ok b) : (readFailure c).getD .denied = if c = .poisoned then .poison else .denied := by
  cases c
  case ok b => exact absurd rfl (h b)
  all_goals rfl

/-- The device that a command about a channel leaves, read off its meaning. -/
theorem leaves_of_eq {c : Instr} {s : State} {d : Dev} (h : exec c s = .next (s.withDev d)) : Leaves c s d := ⟨_, h, rfl, rfl⟩

section
variable {bd : Fin 8} {fn : Fin 1025} {ch : Fin 8} {index : Nat} {s : State} {y : Desc}
  (hst : s.dev.chState (chanKey bd.val fn.val ch.val) = 1 ∨ s.dev.chState (chanKey bd.val fn.val ch.val) = 2)
  (hy : s.dev.descAt (chanKey bd.val fn.val ch.val) index = some y)
include hst hy

theorem leaves_descriptorFetchDone_ok (bs : List Byte) (hf : y.stage = .fetch) :
    Leaves (.descriptorFetchDone bd fn ch index (.ok bs)) s
      ((s.dev.descFetched (chanKey bd.val fn.val ch.val) y bs).chPump (chanKey bd.val fn.val ch.val)) := by
  apply leaves_of_eq
  show execDescriptorFetchDone bd fn ch index (.ok bs) s = _
  unfold execDescriptorFetchDone onDev
  rcases hst with h | h <;> simp [hy, hf, h]

theorem leaves_descriptorFetchDone_bad {bad : Completion} (hbad : ∀ b, bad ≠ .ok b) (hf : y.stage = .fetch) :
    Leaves (.descriptorFetchDone bd fn ch index bad) s
      (s.dev.chError (chanKey bd.val fn.val ch.val) (if bad = .poisoned then .poison else .denied)) := by
  apply leaves_of_eq
  show execDescriptorFetchDone bd fn ch index bad s = _
  unfold execDescriptorFetchDone onDev
  rw [← readFailure_of_bad hbad]
  cases bad
  case ok b => exact absurd rfl (hbad b)
  all_goals rcases hst with h | h <;> simp [hy, hf, h]

theorem leaves_payloadFetchDone_ok (bs : List Byte) (hf : y.stage = .payload) (hi : y.issued = true) :
    Leaves (.payloadFetchDone bd fn ch index (.ok bs)) s
      ((s.dev.updDesc (chanKey bd.val fn.val ch.val) y.pos fun y => { y with payload := bytesAt bs 0 (y.len - 16), stage := .ready }).chPump
        (chanKey bd.val fn.val ch.val)) := by
  apply leaves_of_eq
  show execPayloadFetchDone bd fn ch index (.ok bs) s = _
  unfold execPayloadFetchDone onDev
  rcases hst with h | h <;> simp [hy, hf, hi, h]

theorem leaves_dmaReadTimeout_fetch (ht : (s.dev.bun bd.val).ctoOff = false) (hf : y.stage = .fetch) :
    Leaves (.dmaReadTimeout bd fn ch index) s (s.dev.chError (chanKey bd.val fn.val ch.val) .timeout) := by
  apply leaves_of_eq
  show execDmaReadTimeout bd fn ch index s = _
  unfold execDmaReadTimeout onDev
  rcases hst with h | h <;> simp [hy, hf, ht, h]

theorem leaves_dmaReadTimeout_payload (ht : (s.dev.bun bd.val).ctoOff = false) (hf : y.stage = .payload) (hi : y.issued = true) :
    Leaves (.dmaReadTimeout bd fn ch index) s
      ((s.dev.chDescDone (chanKey bd.val fn.val ch.val) y.pos .timeout).chPump (chanKey bd.val fn.val ch.val)) := by
  apply leaves_of_eq
  show execDmaReadTimeout bd fn ch index s = _
  unfold execDmaReadTimeout onDev
  rcases hst with h | h <;> simp [hy, hf, hi, ht, h]

theorem leaves_dmaPostRetry (hf : y.stage = .full) (hm : (s.dev.chan (chanKey bd.val fn.val ch.val)).mayPost y = true) :
    Leaves (.dmaPostRetry bd fn ch index) s ((s.dev.chPost (chanKey bd.val fn.val ch.val) y).chPump (chanKey bd.val fn.val ch.val)) := by
  apply leaves_of_eq
  show execDmaPostRetry bd fn ch index s = _
  unfold execDmaPostRetry onDev
  simp [hy, hf, hm, hst]

end

theorem leaves_dmaFullLimitExpire {bd : Fin 8} {fn : Fin 1025} {ch : Fin 8} {index : Nat} {s : State} {y : Desc}
    (hy : s.dev.descAt (chanKey bd.val fn.val ch.val) index = some y) (hf : y.stage = .full) :
    Leaves (.dmaFullLimitExpire bd fn ch index) s
      ((({ s.dev with now := max s.dev.now (y.fullSince + field (s.dev.chReg (chanKey bd.val fn.val ch.val) 0x28) 15 0 * 65536) }).chDescDone
        (chanKey bd.val fn.val ch.val) y.pos .full).chPump (chanKey bd.val fn.val ch.val)) := by
  apply leaves_of_eq
  show execDmaFullLimitExpire bd fn ch index s = _
  unfold execDmaFullLimitExpire onDev
  simp [hy, hf]

theorem leaves_drainTake {bd : Fin 8} {fn : Fin 1025} {ch : Fin 8} {s : State} {it : QItem} {c n : Nat} (hc : c = chanKey bd.val fn.val ch.val)
    (hn : n = (s.dev.chan c).drainQa % 2 ^ 20) (hr : s.dev.drainReady c = true) (hw : .drain c ∈ (s.dev.q n).waiters)
    (hsel : (s.dev.qTouch n).select n = some it) (hen : ((s.dev.qTouch n).q n).en = true) :
    Leaves (.drainTake bd fn ch) s ((((s.dev.qTouch n).drainTake c n it).serveGrants n).chPump c) := by
  apply leaves_of_eq
  show execDrainTake bd fn ch s = _
  unfold execDrainTake onDev
  subst hn hc
  simp [-Nat.reducePow, hr, hw, hsel, hen]

/-- Settles O23: each event finds its descriptor in the stage it concerns, and the channel in a state that goes on. -/
theorem channelEventsComplete : Obligations.ChannelEventsComplete :=
  fun _ _ _ _ bs _ _ _ _ hbad hst =>
    ⟨fun hy =>
      ⟨fun hf => ⟨leaves_descriptorFetchDone_ok hst hy bs hf, leaves_descriptorFetchDone_bad hst hy hbad hf,
          fun ht => leaves_dmaReadTimeout_fetch hst hy ht hf⟩,
        fun hf hi => ⟨leaves_payloadFetchDone_ok hst hy bs hf hi, fun ht => leaves_dmaReadTimeout_payload hst hy ht hf hi⟩,
        fun hf => ⟨leaves_dmaPostRetry hst hy hf, leaves_dmaFullLimitExpire hy hf⟩⟩,
      leaves_drainTake rfl rfl⟩

end Sys2Proof.Machine
end

section
/-! PROOFS. Ways, ports and sweeps (11 R361 to R365, 12 R383). -/
namespace Sys2Proof.Machine

/-! ### The registers of a power-down unit -/

theorem pdStatus_ne_pdWays (u : Nat) : pdStatus u ≠ pdWays u := by
  unfold pdStatus pdWays Reg.CCH_L3_PD_STATUS Reg.CCH_L3_WAYS Reg.CCH_HC_PD_STATUS Reg.CCH_HC_WAYS
  split <;> omega

theorem statusCode_lt (st : Status) : st.code < 2 ^ (31 + 1 - 24) := by cases st <;> decide

theorem reg_pdProgress (d : Dev) (u way n st : Nat) : (d.pdProgress u way n st).reg (pdWays u) = d.reg (pdWays u) := by
  unfold Dev.pdProgress
  simp only [reg_setRegF_ne _ _ _ _ _ _ (pdStatus_ne_pdWays u)]

theorem reg_pdResult_ok (d : Dev) (u : Nat) : (d.pdResult u .ok).reg (pdWays u) = d.reg (pdWays u) :=
  reg_setRegF_ne _ _ _ _ _ _ (pdStatus_ne_pdWays u)

@[simp] theorem pdResult_coh (d : Dev) (u : Nat) (st : Status) : (d.pdResult u st).coh = d.coh := by
  unfold Dev.pdResult; dsimp only; split <;> rfl

theorem regF_pdResult (d : Dev) (u : Nat) (st : Status) : (d.pdResult u st).regF (pdStatus u) 31 24 = st.code :=
  (regF_setRegF _ _ _ _ _ (by decide) (by decide)).trans (Nat.mod_eq_of_lt (statusCode_lt st))

/-- A field of one bit, wherever it lies, is 0 once it is cleared. -/
theorem regF_setRegF_bit_zero (d : Dev) (a i : Nat) : (d.setRegF a i i 0).regF a i i = 0 := by
  by_cases h : i < 32
  · rw [regF_setRegF _ _ _ _ _ h le_rfl]; exact Nat.zero_mod _
  · have : field ((d.setRegF a i i 0).reg a) i i = 0 := by
      unfold field bitsN
      rw [Nat.shiftRight_eq_div_pow, Nat.div_eq_of_lt, Nat.zero_mod]
      exact lt_of_lt_of_le (BitVec.isLt _) (Nat.pow_le_pow_right (by decide) (by omega))
    exact this

@[simp] theorem pdProgress_coh (d : Dev) (u way n st : Nat) : (d.pdProgress u way n st).coh = d.coh := rfl
@[simp] theorem pdProgress_safe (d : Dev) (u way n st : Nat) : (d.pdProgress u way n st).safe = d.safe := rfl

/-- The power-down unit `u` in the state `x`. -/
def Dev.setWayUnit (d : Dev) (u : Nat) (x : WayUnit) : Dev :=
  { d with coh := { d.coh with wayUnits := mset WayUnit.idle d.coh.wayUnits u x } }

@[simp] theorem setWayUnit_reg (d : Dev) (u : Nat) (x : WayUnit) (a : Nat) : (d.setWayUnit u x).reg a = d.reg a := rfl
@[simp] theorem setWayUnit_safe (d : Dev) (u : Nat) (x : WayUnit) : (d.setWayUnit u x).safe = d.safe := rfl
@[simp] theorem wayUnit_setWayUnit (d : Dev) (u : Nat) (x : WayUnit) : mget WayUnit.idle (d.setWayUnit u x).coh.wayUnits u = x := by
  simp [Dev.setWayUnit]
theorem linesInWay_congr {d e : Dev} (h3 : e.coh.l3sets = d.coh.l3sets) (hh : e.coh.hcsets = d.coh.hcsets) (hs : e.coh.l3Spare = d.coh.l3Spare)
    (u sl w : Nat) : e.linesInWay u sl w = d.linesInWay u sl w := by
  simp only [Dev.linesInWay, Dev.wayLeaves, h3, hh, hs]

/-! ### DOWN and UP -/

section
variable {d : Dev} {q : Requester} {u way : Nat}

theorem wayCmd_of_fails {down : Bool} {st : Status} (hq : commandsUnit q = true) (h : d.wayCheck q u way down = some st) :
    d.wayCmd q u way down = d.pdResult u st := by
  simp only [Dev.wayCmd, hq, h, Bool.not_true, Bool.false_eq_true, if_false]

theorem wayCmd_down (hq : commandsUnit q = true) (h : d.wayCheck q u way true = none) :
    d.wayCmd q u way true = ((d.pdResult u .ok).pdProgress u way 0 1).setWayUnit u ⟨true, way, 0⟩ := by
  simp only [Dev.wayCmd, hq, h, Bool.not_true, Bool.false_eq_true, if_false, if_true]; rfl

theorem wayCmd_up (hq : commandsUnit q = true) (h : d.wayCheck q u way false = none) :
    d.wayCmd q u way false = ((d.pdResult u .ok).pdProgress u way (pdSlices u) 0).setRegF (pdWays u) way way 1 := by
  simp only [Dev.wayCmd, hq, h, Bool.not_true, Bool.false_eq_true, if_false]

theorem wayUnit_wayCmd_down (hq : commandsUnit q = true) (h : d.wayCheck q u way true = none) :
    mget WayUnit.idle (d.wayCmd q u way true).coh.wayUnits u = ⟨true, way, 0⟩ ∧ (d.wayCmd q u way true).reg (pdWays u) = d.reg (pdWays u) := by
  rw [wayCmd_down hq h]
  exact ⟨wayUnit_setWayUnit .., by rw [setWayUnit_reg, reg_pdProgress, reg_pdResult_ok]⟩

theorem regF_wayCmd_up (hw : way < 32) (hq : commandsUnit q = true) (h : d.wayCheck q u way false = none) :
    (d.wayCmd q u way false).regF (pdWays u) way way = 1 ∧ (d.wayCmd q u way false).coh = d.coh := by
  rw [wayCmd_up hq h]
  refine ⟨?_, by rw [setRegF_coh, pdProgress_coh, pdResult_coh]⟩
  rw [regF_setRegF _ _ _ _ _ hw le_rfl, Nat.add_sub_cancel_left, pow_one]

theorem regF_wayCmd_of_fails {down : Bool} {st : Status} (hq : commandsUnit q = true) (h : d.wayCheck q u way down = some st) :
    (d.wayCmd q u way down).regF (pdStatus u) 31 24 = st.code ∧ (d.wayCmd q u way down).coh = d.coh := by
  rw [wayCmd_of_fails hq h]
  exact ⟨regF_pdResult .., pdResult_coh ..⟩

end

/-- A DOWN of a unit, whichever command it came by. -/
theorem completes_wayDown {c : Instr} {s : State} {q : Requester} {u way : Nat} {st : Status} (hc : exec c s = onDev s fun d => d.wayCmd q u way true)
    (hq : commandsUnit q = true) :
    (s.dev.wayCheck q u way true = none → Completes c s fun t =>
      (true = true → mget WayUnit.idle t.coh.wayUnits u = ⟨true, way, 0⟩ ∧ t.reg (pdWays u) = s.dev.reg (pdWays u)) ∧
      (true = false → t.regF (pdWays u) way way = 1 ∧ t.coh = s.dev.coh)) ∧
    (s.dev.wayCheck q u way true = some st → Completes c s fun t => t.regF (pdStatus u) 31 24 = st.code ∧ t.coh = s.dev.coh) :=
  ⟨fun h => completes_of _ hc ⟨fun _ => wayUnit_wayCmd_down hq h, fun h => absurd h (by decide)⟩,
    fun h => completes_of _ hc (regF_wayCmd_of_fails hq h)⟩

/-- An UP of a unit, whichever command it came by. -/
theorem completes_wayUp {c : Instr} {s : State} {q : Requester} {u way : Nat} {st : Status} (hc : exec c s = onDev s fun d => d.wayCmd q u way false)
    (hw : way < 32) (hq : commandsUnit q = true) :
    (s.dev.wayCheck q u way false = none → Completes c s fun t =>
      (false = true → mget WayUnit.idle t.coh.wayUnits u = ⟨true, way, 0⟩ ∧ t.reg (pdWays u) = s.dev.reg (pdWays u)) ∧
      (false = false → t.regF (pdWays u) way way = 1 ∧ t.coh = s.dev.coh)) ∧
    (s.dev.wayCheck q u way false = some st → Completes c s fun t => t.regF (pdStatus u) 31 24 = st.code ∧ t.coh = s.dev.coh) :=
  ⟨fun h => completes_of _ hc ⟨fun h => absurd h (by decide), fun _ => regF_wayCmd_up hw hq h⟩,
    fun h => completes_of _ hc (regF_wayCmd_of_fails hq h)⟩

/-! ### The cleaning -/

/-- A unit cleans a way that holds no line, from the slice it has come to. -/
structure Dev.CleansEmpty (d : Dev) (u : Nat) (x : WayUnit) : Prop where
  unit : mget WayUnit.idle d.coh.wayUnits u = x
  on : x.cleaning = true
  notSafe : d.safe = false
  empty : ∀ sl, d.linesInWay u sl x.way = []

/-- A unit has ended: it is idle and its way's bit is clear. -/
def Dev.CleanEnded (d : Dev) (u way : Nat) : Prop := mget WayUnit.idle d.coh.wayUnits u = WayUnit.idle ∧ d.regF (pdWays u) way way = 0

/-- The registers after the turn of one slice without lines. -/
def Dev.sliceShown (d : Dev) (u : Nat) (x : WayUnit) (st : Nat) : Dev := (d.setRegF (pdWays u) x.way x.way 0).pdProgress u x.way (x.next + 1) st

theorem regF_sliceShown (d : Dev) (u : Nat) (x : WayUnit) (st : Nat) : (d.sliceShown u x st).regF (pdWays u) x.way x.way = 0 := by
  rw [Dev.regF, Dev.sliceShown, reg_pdProgress]
  exact regF_setRegF_bit_zero ..

theorem cleanNext_of_empty {d : Dev} {u : Nat} {x : WayUnit} (h : d.CleansEmpty u x) :
    d.cleanNext u = if pdSlices u ≤ x.next + 1 then (d.sliceShown u x 0).setWayUnit u WayUnit.idle
      else (d.sliceShown u x 1).setWayUnit u { x with next := x.next + 1 } := by
  obtain ⟨hu, hc, hs, he⟩ := h
  unfold Dev.cleanNext
  simp only [hu, hc, hs, Dev.cleanSlice, he, List.foldl_nil, ne_eq, not_true_eq_false, if_false, Bool.not_true, Bool.or_self, Bool.false_eq_true,
    decide_eq_true_eq]
  split <;> rfl

theorem cleanNext_of_ended {d : Dev} {u way : Nat} (h : d.CleanEnded u way) : d.cleanNext u = d := by
  unfold Dev.cleanNext
  simp only [h.1]
  rfl

theorem cleanEnded_setWayUnit_idle (d : Dev) (u : Nat) (x : WayUnit) : ((d.sliceShown u x 0).setWayUnit u WayUnit.idle).CleanEnded u x.way :=
  ⟨wayUnit_setWayUnit .., by rw [Dev.regF, setWayUnit_reg]; exact regF_sliceShown ..⟩

theorem cleansEmpty_setWayUnit {d : Dev} {u : Nat} {x : WayUnit} (h : d.CleansEmpty u x) :
    ((d.sliceShown u x 1).setWayUnit u { x with next := x.next + 1 }).CleansEmpty u { x with next := x.next + 1 } :=
  ⟨wayUnit_setWayUnit .., h.on, h.notSafe, fun sl => (linesInWay_congr rfl rfl rfl u sl x.way).trans (h.empty sl)⟩

theorem cleanEnded_foldl {α : Type} (ks : List α) : ∀ {d : Dev} {u way : Nat}, d.CleanEnded u way → (ks.foldl (fun d _ => d.cleanNext u) d).CleanEnded u way := by
  induction ks with
  | nil => exact fun h => h
  | cons k ks ih => intro d u way h; rw [List.foldl_cons, cleanNext_of_ended h]; exact ih h

theorem cleanEnded_of_empty {α : Type} (ks : List α) : ∀ {d : Dev} {u : Nat} {x : WayUnit}, d.CleansEmpty u x → ks ≠ [] → pdSlices u ≤ x.next + ks.length →
    (ks.foldl (fun d _ => d.cleanNext u) d).CleanEnded u x.way := by
  induction ks with
  | nil => exact fun _ h => absurd rfl h
  | cons k ks ih =>
    intro d u x h _ hn
    rw [List.foldl_cons, cleanNext_of_empty h]
    rw [List.length_cons] at hn
    by_cases hl : pdSlices u ≤ x.next + 1
    · rw [if_pos hl]; exact cleanEnded_foldl ks (cleanEnded_setWayUnit_idle ..)
    · rw [if_neg hl]
      refine ih (x := { x with next := x.next + 1 }) (cleansEmpty_setWayUnit h) ?_ (by show _ ≤ x.next + 1 + ks.length; omega)
      rintro rfl
      exact hl hn

theorem completes_wayCleanDone {s : State} {unit : Fin 17} (hc : (mget WayUnit.idle s.dev.coh.wayUnits unit.val).cleaning = true)
    (hs : s.dev.safe = false) (he : ∀ sl, s.dev.linesInWay unit.val sl (mget WayUnit.idle s.dev.coh.wayUnits unit.val).way = []) :
    Completes (.wayCleanDone unit) s fun t => t.CleanEnded unit.val (mget WayUnit.idle s.dev.coh.wayUnits unit.val).way := by
  refine completes_of (fun d => (List.range (pdSlices unit.val)).foldl (fun d _ => d.cleanNext unit.val) d) rfl ?_
  refine cleanEnded_of_empty _ ⟨rfl, hc, hs, he⟩ ?_ (by rw [List.length_range]; omega)
  rw [ne_eq, List.range_eq_nil, pdSlices]
  split <;> decide

/-! ### Ports and the sweep -/

theorem completes_portIsolate {p : MeshPort} {s : State} {a i : Nat} (hi : i < 32)
    (h : (s.dev.isolate p).reg a = (s.dev.setRegF a i i 1).reg a) : Completes (.portIsolate p) s fun t => t.regF a i i = 1 := by
  refine completes_of (fun d => d.isolate p) rfl ?_
  show field ((s.dev.isolate p).reg a) i i = 1
  rw [h]
  exact (regF_setRegF _ _ _ _ _ hi le_rfl).trans (by rw [Nat.add_sub_cancel_left, pow_one])

theorem completes_reclaimSweepDone {s : State} (h : s.dev.regF Reg.CCH_SWEEP 31 31 = 1) :
    Completes .reclaimSweepDone s fun t => t.regF Reg.CCH_SWEEP 31 31 = 0 := by
  refine ⟨_, rfl, rfl, ?_⟩
  show (if s.dev.regF Reg.CCH_SWEEP 31 31 = 0 then s.dev else (Dev.setRegF _ Reg.CCH_SWEEP 31 31 0).setRegF Reg.CCH_SWEEP 7 0 _).regF _ _ _ = 0
  rw [h, if_neg (by decide), regF_setRegF_ne _ _ _ _ _ _ _ (by decide) (by decide) (.inl (by decide)), regF_setRegF_bit_zero]

/-- Settles O35: a command's effect is its check's; the cleaning takes one slice after the other, none of which holds a line. -/
theorem waysComplete : Obligations.WaysComplete := by
  intro q die way unit site stop n bd g st s d w cmds
  refine ⟨fun hq => ⟨completes_wayDown rfl hq, completes_wayUp rfl (by omega) hq, completes_wayDown rfl hq, completes_wayUp rfl (by omega) hq⟩,
    completes_wayCleanDone, completes_portIsolate (by omega) rfl, completes_portIsolate (by omega) rfl, completes_portIsolate (by omega) rfl,
    completes_portIsolate (by omega) rfl, completes_reclaimSweepDone⟩

end Sys2Proof.Machine
end

section
/-! PROOFS. The link of a PCIe bundle and its resets (14 R434, R439, R457, R459, 16 R512). -/
namespace Sys2Proof.Machine

/-! ### The state of a bundle's link -/

theorem bun_congr {d e : Dev} (h : d.bundles = e.bundles) (b : Nat) : d.bun b = e.bun b := by rw [Dev.bun, Dev.bun, h]

theorem bundleMode_congr {d e : Dev} (h : d.img = e.img) (b : Nat) : d.bundleMode b = e.bundleMode b := by rw [Dev.bundleMode, Dev.bundleMode, h]

section
variable (d : Dev) (b : Nat)

theorem pceStatus_ne_downCount : Reg.PCE_DOWN_COUNT b ≠ Reg.PCE_STATUS b := by unfold Reg.PCE_DOWN_COUNT Reg.PCE_STATUS; omega
theorem pceStatus_ne_stateReject : Reg.PCE_STATE_REJECT b ≠ Reg.PCE_STATUS b := by unfold Reg.PCE_STATE_REJECT Reg.PCE_STATUS; omega
theorem pceStatus_ne_hubIso : Reg.MESH_HUB_ISO ≠ Reg.PCE_STATUS b := by unfold Reg.MESH_HUB_ISO Reg.PCE_STATUS; omega

theorem pceState_setPceState {st : Nat} (h : st < 8) : (d.setPceState b st).pceState b = st :=
  (regF_setRegF _ _ _ _ _ (by decide) (by decide)).trans (Nat.mod_eq_of_lt h)

theorem pceState_updBun (f : Bundle → Bundle) (b' : Nat) : (d.updBun b' f).pceState b = d.pceState b := rfl

/-- A field of a link's status above its state. -/
theorem pceState_setRegF_status {hi lo v : Nat} (hh : hi < 32) (hl : lo ≤ hi) (h : 2 < lo) :
    (d.setRegF (Reg.PCE_STATUS b) hi lo v).pceState b = d.pceState b := regF_setRegF_ne _ _ _ _ _ _ _ hh hl (.inr h)

theorem pceState_setRegF_other {a hi lo v : Nat} (h : a ≠ Reg.PCE_STATUS b) : (d.setRegF a hi lo v).pceState b = d.pceState b :=
  regF_setRegF_other _ _ _ _ _ _ _ _ h

/-- The device after a link in L0 has gone, the count of its losses not made yet. -/
def Dev.linkOff (d : Dev) (b : Nat) : Dev :=
  ((d.updBun b fun x => { x with l0 := false }).setRegF (Reg.PCE_STATUS b) 19 16 0).setRegF (Reg.PCE_STATUS b) 12 8 0

theorem linkGone_eq (h : (d.bun b).l0 = true) : d.linkGone b = (d.linkOff b).count (Reg.PCE_DOWN_COUNT b) := by
  unfold Dev.linkGone
  rw [h, if_neg (by decide)]
  rfl

theorem pceState_linkGone : (d.linkGone b).pceState b = d.pceState b := by
  cases h : (d.bun b).l0
  · rw [Dev.linkGone, h]; rfl
  · rw [linkGone_eq _ _ h, Dev.pceState, regF_count_other _ _ _ _ _ (pceStatus_ne_downCount b), ← Dev.pceState, Dev.linkOff,
      pceState_setRegF_status _ _ (by decide) (by decide) (by decide), pceState_setRegF_status _ _ (by decide) (by decide) (by decide), pceState_updBun]

theorem pceState_isolate_rootPort (bd : Fin 8) : (d.isolate (.rootPort bd)).pceState b = d.pceState b :=
  (regF_congr (show (d.isolate (.rootPort bd)).regs = (d.setRegF Reg.MESH_HUB_ISO (24 + bd.val) (24 + bd.val) 1).regs from rfl) ..).trans
    (pceState_setRegF_other _ _ (pceStatus_ne_hubIso b))

theorem linkGone_l0 (h : (d.bun b).l0 = true) : ((d.linkGone b).bun b).l0 = false := by
  have hb : (d.linkGone b).bundles = (d.updBun b fun x => { x with l0 := false }).bundles := by
    rw [linkGone_eq _ _ h, Dev.linkOff, count_bundles, setRegF_bundles, setRegF_bundles]
  rw [bun_congr hb, bun_updBun, if_pos rfl]

theorem pceState_pceResult (st : Status) : (d.pceResult b st).pceState b = d.pceState b := by
  unfold Dev.pceResult
  rw [pceState_setRegF_status _ _ (by decide) (by decide) (by decide)]
  split
  · exact regF_count_other _ _ _ _ _ (pceStatus_ne_stateReject b)
  · rfl

theorem result_pceResult (st : Status) : (d.pceResult b st).regF (Reg.PCE_STATUS b) 31 24 = st.code :=
  (regF_setRegF _ _ _ _ _ (by decide) (by decide)).trans (Nat.mod_eq_of_lt (statusCode_lt st))

/-! ### Training and the commands of a root port -/

/-- The device after a link has come up, its state not moved yet. -/
def Dev.linkOn (d : Dev) (b speed width : Nat) : Dev :=
  ((d.updBun b fun x => { x with l0 := true }).setRegF (Reg.PCE_STATUS b) 19 16 speed).setRegF (Reg.PCE_STATUS b) 12 8 width

theorem pceState_linkOn (speed width : Nat) : (d.linkOn b speed width).pceState b = d.pceState b := by
  rw [Dev.linkOn, pceState_setRegF_status _ _ (by decide) (by decide) (by decide), pceState_setRegF_status _ _ (by decide) (by decide) (by decide),
    pceState_updBun]

theorem linkOn_img (speed width : Nat) : (d.linkOn b speed width).img = d.img := by rw [Dev.linkOn, setRegF_img, setRegF_img, updBun_img]

theorem linkOn_l0 (speed width : Nat) : ((d.linkOn b speed width).bun b).l0 = true := by
  have hb : (d.linkOn b speed width).bundles = (d.updBun b fun x => { x with l0 := true }).bundles := by
    rw [Dev.linkOn, setRegF_bundles, setRegF_bundles]
  rw [bun_congr hb, bun_updBun, if_pos rfl]

theorem regF_speed_linkOn {speed : Nat} (width : Nat) (h : speed < 16) : (d.linkOn b speed width).regF (Reg.PCE_STATUS b) 19 16 = speed := by
  rw [Dev.linkOn, regF_setRegF_ne _ _ _ _ _ _ _ (by decide) (by decide) (.inl (by decide)), regF_setRegF _ _ _ _ _ (by decide) (by decide)]
  exact Nat.mod_eq_of_lt h

theorem regF_width_linkOn (speed : Nat) {width : Nat} (h : width < 32) : (d.linkOn b speed width).regF (Reg.PCE_STATUS b) 12 8 = width := by
  rw [Dev.linkOn, regF_setRegF _ _ _ _ _ (by decide) (by decide)]
  exact Nat.mod_eq_of_lt h

end

section
variable {bd : Fin 8} {q : Requester} {s : State}

theorem leaves_pcieLinkUp (speed : Fin 7) (width : Fin 17) (h : s.dev.mayTrain bd.val = true) :
    Leaves (.pcieLinkUp bd speed width) s
      (let d := s.dev.linkOn bd.val speed.val width.val
       if d.bundleMode bd.val = 1 ∧ d.pceState bd.val = 0 then d.setPceState bd.val 1 else d) := by
  apply leaves_of_eq
  show execPcieLinkUp bd speed width s = _
  unfold execPcieLinkUp onDev
  simp only [h, Bool.not_true, Bool.false_eq_true, if_false]
  rfl

theorem completes_pcieLinkUp (speed : Fin 7) (width : Fin 17) (h : s.dev.mayTrain bd.val = true) :
    Completes (.pcieLinkUp bd speed width) s fun t => (t.bun bd.val).l0 = true ∧
      t.regF (Reg.PCE_STATUS bd.val) 19 16 = speed.val ∧ t.regF (Reg.PCE_STATUS bd.val) 12 8 = width.val ∧
      t.pceState bd.val = if s.dev.bundleMode bd.val = 1 ∧ s.dev.pceState bd.val = 0 then 1 else s.dev.pceState bd.val := by
  have hl := linkOn_l0 s.dev bd.val speed.val width.val
  have hs := regF_speed_linkOn s.dev bd.val (speed := speed.val) width.val (by omega)
  have hw := regF_width_linkOn s.dev bd.val speed.val (width := width.val) (by omega)
  have hp := pceState_linkOn s.dev bd.val speed.val width.val
  refine (leaves_pcieLinkUp speed width h).imp ?_
  rintro _ rfl
  dsimp only
  rw [hp, bundleMode_congr (linkOn_img ..)]
  split
  · refine ⟨?_, ?_, ?_, pceState_setPceState _ _ (by decide)⟩
    · rwa [Dev.setPceState, bun_congr (setRegF_bundles ..)]
    · rwa [Dev.setPceState, regF_setRegF_ne _ _ _ _ _ _ _ (by decide) (by decide) (.inl (by decide))]
    · rwa [Dev.setPceState, regF_setRegF_ne _ _ _ _ _ _ _ (by decide) (by decide) (.inl (by decide))]
  · exact ⟨hl, hs, hw, hp⟩

theorem pceDo_of_may {d : Dev} {b cmd : Nat} (h : d.pceWrites q b = true) (h0 : cmd ≠ 0) (h2 : cmd ≤ 2) :
    d.pceDo q b cmd = if d.pceVerdict b cmd = .ok ∧ cmd = 1 then
      ((d.pceResult b (d.pceVerdict b cmd)).setPceState b 1).setRegF Reg.MESH_HUB_ISO (24 + b) (24 + b) 0
      else d.pceResult b (d.pceVerdict b cmd) := by
  have h2' : ¬ 2 < cmd := by omega
  simp only [Dev.pceDo, h, h0, h2', Bool.not_true, Bool.false_eq_true, or_self, if_false]

theorem completes_rearm (h : s.dev.pceWrites q bd.val = true) :
    Completes (.rearm q bd) s fun t => t.regF (Reg.PCE_STATUS bd.val) 31 24 = (s.dev.pceVerdict bd.val 1).code ∧
      (s.dev.pceVerdict bd.val 1 = .ok → t.pceState bd.val = 1 ∧ t.regF Reg.MESH_HUB_ISO (24 + bd.val) (24 + bd.val) = 0) := by
  refine completes_of (fun d => d.pceDo q bd.val 1) rfl ?_
  rw [pceDo_of_may h (by decide) (by decide)]
  split
  · refine ⟨?_, fun _ => ⟨?_, regF_setRegF_bit_zero ..⟩⟩
    · rw [regF_setRegF_other _ _ _ _ _ _ _ _ (pceStatus_ne_hubIso _), Dev.setPceState,
        regF_setRegF_ne _ _ _ _ _ _ _ (by decide) (by decide) (.inl (by decide)), result_pceResult]
    · rw [pceState_setRegF_other _ _ (pceStatus_ne_hubIso _), pceState_setPceState _ _ (by decide)]
  · next hn => exact ⟨result_pceResult .., fun h => absurd ⟨h, rfl⟩ hn⟩

theorem completes_pceRetrain (h : s.dev.pceWrites q bd.val = true) :
    Completes (.pceRetrain q bd) s fun t => t.regF (Reg.PCE_STATUS bd.val) 31 24 = (s.dev.pceVerdict bd.val 2).code ∧
      t.pceState bd.val = s.dev.pceState bd.val := by
  refine completes_of (fun d => d.pceDo q bd.val 2) rfl ?_
  rw [pceDo_of_may h (by decide) (by decide), if_neg fun h => absurd h.2 (by decide)]
  exact ⟨result_pceResult .., pceState_pceResult ..⟩

/-! ### Errors, resets and the loss of a link -/

theorem leaves_rootErrorStatusSet (hm : s.dev.bundleMode bd.val = 1) (hs : s.dev.safe = false) :
    Leaves (.rootErrorStatusSet bd) s (s.dev.pceSignal bd) := by
  refine leaves_of (fun d => if d.bundleMode bd.val = 1 ∧ !d.safe then d.pceSignal bd else d) rfl ?_
  rw [if_pos ⟨hm, by rw [hs]; rfl⟩]

theorem leaves_hotReset (hm : s.dev.bundleMode bd.val = 2) : Leaves (.hotReset bd) s (s.dev.bundleReset bd.val) := by
  refine leaves_of (fun d => if d.bundleMode bd.val = 2 then d.bundleReset bd.val else d) rfl ?_
  rw [if_pos hm]

theorem leaves_pePerstNAssert (hm : s.dev.bundleMode bd.val = 2) (hp : (s.dev.bun bd.val).perst = false) :
    Leaves (.pePerstNAssert bd) s ((s.dev.updBun bd.val fun x => { x with perst := true }).bundleReset bd.val) := by
  refine leaves_of (fun d => if d.bundleMode bd.val = 2 ∧ !(d.bun bd.val).perst then
    (d.updBun bd.val fun x => { x with perst := true }).bundleReset bd.val else d) rfl ?_
  rw [if_pos ⟨hm, by rw [hp]; rfl⟩]

theorem completes_pePerstNDeassert (hm : s.dev.bundleMode bd.val = 2) :
    Completes (.pePerstNDeassert bd) s fun t => (t.bun bd.val).perst = false ∧ (t.bun bd.val).wakeLow = false ∧ t.fns = s.dev.fns := by
  refine completes_of (fun d => if d.bundleMode bd.val = 2 then d.updBun bd.val fun x => { x with perst := false, wakeLow := false } else d) rfl ?_
  rw [if_pos hm, bun_updBun, if_pos rfl]
  exact ⟨rfl, rfl, rfl⟩

/-- What a loss of a link in L0 leaves. -/
theorem leaves_pcieLinkDown (h : (s.dev.bun bd.val).l0 = true) :
    Leaves (.pcieLinkDown bd) s (if s.dev.bundleMode bd.val = 2 then s.dev.bundleReset bd.val
      else if s.dev.pceState bd.val = 1 then (((s.dev.linkGone bd.val).setPceState bd.val 2).isolate (.rootPort bd)).pceSignal bd
      else s.dev.linkGone bd.val) := by
  apply leaves_of_eq
  show execPcieLinkDown bd s = _
  unfold execPcieLinkDown onDev
  simp only [h, Bool.not_true, Bool.false_eq_true, if_false, pceState_linkGone]

/-- The notice of a bundle that is retired (16 R512). -/
def Dev.tellRetired (d : Dev) (b : Nat) : Dev := d.record ⟨0x13, true, .ffAtNotice, 0x10, none, b, 0, 0, d.skeinsOfBundle b⟩

section
variable (h : (s.dev.bun bd.val).retired = false)
include h

theorem leaves_bundleRetire_endpoint (hm : s.dev.bundleMode bd.val = 2) :
    Leaves (.bundleRetire bd) s (((s.dev.updBun bd.val fun x => { x with retired := true }).bundleReset bd.val).tellRetired bd.val) := by
  have hm' : (s.dev.updBun bd.val fun x => { x with retired := true }).bundleMode bd.val = 2 := hm
  apply leaves_of_eq
  show execBundleRetire bd s = _
  unfold execBundleRetire onDev
  simp only [h, hm', Bool.false_eq_true, if_false, Dev.tellRetired]

theorem leaves_bundleRetire_rootPort (hm : s.dev.bundleMode bd.val = 1) (hp : s.dev.pceState bd.val < 2) :
    Leaves (.bundleRetire bd) s ((((((s.dev.updBun bd.val fun x => { x with retired := true }).linkGone bd.val).isolate (.rootPort bd)).setPceState
      bd.val 2).pceSignal bd).tellRetired bd.val) := by
  have hm' : (s.dev.updBun bd.val fun x => { x with retired := true }).bundleMode bd.val = 1 := hm
  have hp' : (s.dev.updBun bd.val fun x => { x with retired := true }).pceState bd.val < 2 := hp
  apply leaves_of_eq
  show execBundleRetire bd s = _
  unfold execBundleRetire onDev
  simp only [h, hm', Bool.false_eq_true, if_false, pceState_isolate_rootPort, pceState_linkGone, if_pos hp', Dev.tellRetired]

end

end

/-- Settles O39: each event of a link in the mode and the state that it concerns. -/
theorem bundleLinksComplete : Obligations.BundleLinksComplete := by
  intro bd speed width q s d b result e1 e2 tell
  refine ⟨completes_pcieLinkUp speed width, fun hq => ⟨completes_rearm hq, completes_pceRetrain hq⟩, leaves_rootErrorStatusSet,
    fun hm => ⟨leaves_hotReset hm, leaves_pePerstNAssert hm, completes_pePerstNDeassert hm, fun hl => ?_,
      fun hr => leaves_bundleRetire_endpoint hr hm⟩,
    fun hm => ⟨fun hl hp => ?_, fun hl hp => ?_, fun hr hp => leaves_bundleRetire_rootPort hr hm hp⟩⟩
  · have h := leaves_pcieLinkDown hl
    rwa [if_pos hm] at h
  · have h := leaves_pcieLinkDown hl
    rwa [if_neg (by rw [show s.dev.bundleMode bd.val = 1 from hm]; decide), if_pos hp] at h
  · refine (leaves_pcieLinkDown hl).imp ?_
    rintro _ rfl
    rw [if_neg (by rw [show s.dev.bundleMode bd.val = 1 from hm]; decide), if_neg hp]
    exact ⟨linkGone_l0 _ _ hl, pceState_linkGone ..⟩

end Sys2Proof.Machine
end

section
/-! PROOFS. Functions: their resets, and the manager's commands (14 R447 to R451, R458). -/
namespace Sys2Proof.Machine

/-! ### The manager's registers -/

section
variable (d : Dev) (b off : Nat)

theorem mgr_setMgrF (hi lo v : Nat) : (d.setMgrF b off hi lo v).mgr b off = putField (d.mgr b off) hi lo v := bar_setBarF_self ..

theorem mgr_setMgrF_ne {off' : Nat} (hi lo v : Nat) (h : off ≠ off') : (d.setMgrF b off hi lo v).mgr b off' = d.mgr b off' :=
  bar_setBarF_ne _ _ _ _ _ _ _ (by omega)

@[simp] theorem fns_setMgrF (hi lo v : Nat) : (d.setMgrF b off hi lo v).fns = d.fns := setBarF_fns ..
@[simp] theorem fn_setMgrF (hi lo v k : Nat) : (d.setMgrF b off hi lo v).fn k = d.fn k := by rw [Dev.fn, Dev.fn, fns_setMgrF]

theorem mgrResult_ok : d.mgrResult b .ok = d.setMgrF b 0x14 31 24 0 := by
  unfold Dev.mgrResult; rw [if_neg (by decide)]; rfl

theorem done_mgrResult_ok : field ((d.mgrResult b .ok).mgr b 0x14) 31 24 = 0 := by
  rw [mgrResult_ok, mgr_setMgrF, field_putField _ _ _ _ (by decide) (by decide)]
  exact Nat.zero_mod _

end

/-- A command of the manager that is neither halted nor busy. -/
theorem mgrCmd_of {d : Dev} {b : Nat} {f : Nat → Dev → Dev} (ho : d.barOpen (fnKey b 0) = true) (hs : d.safe = false) (hb : (d.bun b).busyOp = none) :
    d.mgrCmd b f = f (fnKey b (field (d.mgr b 0) 25 16 + 1)) (d.updBun b fun x => { x with lastVf := some (field (d.mgr b 0) 25 16) }) := by
  simp only [Dev.mgrCmd, ho, hs, hb, Bool.not_true, Bool.false_eq_true, if_false, Option.isSome_none]

/-! ### The commands -/

/-- The VF that the manager names. -/
def Dev.mgrVf (d : Dev) (b : Nat) : Nat := fnKey b (field (d.mgr b 0) 25 16 + 1)

/-- The device that has noted which VF the manager named. -/
def Dev.mgrNoted (d : Dev) (b : Nat) : Dev := d.updBun b fun x => { x with lastVf := some (field (d.mgr b 0) 25 16) }

/-- A VF created with the resources of the manager's arguments. -/
def Dev.createdVf (d : Dev) (b : Nat) (f : Fn) : Fn :=
  { f with vst := .ready, nch := field (d.mgr b 0) 11 8, nvec := field (d.mgr b 0xC) 27 16, qfirst := field (d.mgr b 4) 20 0, qcount := field (d.mgr b 8) 20 0, slots := field (d.mgr b 0xC) 10 0, table := [], pba := [], chans := [] }

section
variable {d : Dev} {b : Nat} (ho : d.barOpen (fnKey b 0) = true) (hs : d.safe = false) (hb : (d.bun b).busyOp = none)
include ho hs hb

theorem vfmDo_create (he : (d.fn (d.mgrVf b)).vst = .empty) (hc : (d.mgrNoted b).createFails (d.mgrVf b) b = none) :
    d.vfmDo b 1 = ((d.mgrNoted b).updFn (d.mgrVf b) (d.createdVf b)).mgrResult b .ok := by
  have he' : ((d.mgrNoted b).fn (d.mgrVf b)).vst = .empty := he
  unfold Dev.mgrNoted at he' hc
  unfold Dev.mgrVf at he' hc
  rw [Dev.vfmDo, mgrCmd_of ho hs hb]
  simp only [he', hc]
  rfl

theorem vfmDo_destroy (he : (d.fn (d.mgrVf b)).vst = .ready) :
    d.vfmDo b 2 = (((d.mgrNoted b).updBun b fun x => { x with busyOp := some (2, d.mgrVf b % 2048 - 1) }).setMgrF b 0x14 8 8 1).vfDestroy (d.mgrVf b) := by
  have he' : ((d.mgrNoted b).fn (d.mgrVf b)).vst = .ready := he
  unfold Dev.mgrNoted at he'
  unfold Dev.mgrVf at he'
  rw [Dev.vfmDo, mgrCmd_of ho hs hb]
  simp only [he']
  rfl

theorem vfmDo_query :
    d.vfmDo b 3 = ((((d.mgrNoted b).setMgrF b 0 11 8 (d.fn (d.mgrVf b)).nch).setMgrF b 4 20 0 (d.fn (d.mgrVf b)).qfirst).setMgrF b 8 20 0
      (d.fn (d.mgrVf b)).qcount).mgrResult b .ok := by
  rw [Dev.vfmDo, mgrCmd_of ho hs hb]
  rfl

theorem vfmQuery_shows : field ((d.vfmDo b 3).mgr b 0) 11 8 = (d.fn (d.mgrVf b)).nch % 16 ∧
    field ((d.vfmDo b 3).mgr b 4) 20 0 = (d.fn (d.mgrVf b)).qfirst % 2 ^ 21 ∧ field ((d.vfmDo b 3).mgr b 8) 20 0 = (d.fn (d.mgrVf b)).qcount % 2 ^ 21 ∧
    field ((d.vfmDo b 3).mgr b 0x14) 31 24 = 0 ∧ (d.vfmDo b 3).fns = d.fns := by
  rw [vfmDo_query ho hs hb]
  refine ⟨?_, ?_, ?_, done_mgrResult_ok .., ?_⟩
  · rw [mgrResult_ok, mgr_setMgrF_ne _ _ _ _ _ _ (by decide), mgr_setMgrF_ne _ _ _ _ _ _ (by decide), mgr_setMgrF_ne _ _ _ _ _ _ (by decide),
      mgr_setMgrF, field_putField _ _ _ _ (by decide) (by decide)]
    rfl
  · rw [mgrResult_ok, mgr_setMgrF_ne _ _ _ _ _ _ (by decide), mgr_setMgrF_ne _ _ _ _ _ _ (by decide), mgr_setMgrF,
      field_putField _ _ _ _ (by decide) (by decide)]
  · rw [mgrResult_ok, mgr_setMgrF_ne _ _ _ _ _ _ (by decide), mgr_setMgrF, field_putField _ _ _ _ (by decide) (by decide)]
  · rw [mgrResult_ok, fns_setMgrF, fns_setMgrF, fns_setMgrF, fns_setMgrF, Dev.mgrNoted, updBun_fns]

theorem vfmCreate_makes (he : (d.fn (d.mgrVf b)).vst = .empty) (hc : (d.mgrNoted b).createFails (d.mgrVf b) b = none) :
    (d.vfmDo b 1).fn (d.mgrVf b) = d.createdVf b (d.fn (d.mgrVf b)) ∧ field ((d.vfmDo b 1).mgr b 0x14) 31 24 = 0 := by
  rw [vfmDo_create ho hs hb he hc]
  refine ⟨?_, done_mgrResult_ok ..⟩
  rw [mgrResult_ok, fn_setMgrF, fn_updFn, if_pos rfl]
  rfl

end

section
variable {bd : Fin 8} {s : State} (ho : s.dev.barOpen (fnKey bd.val 0) = true) (hs : s.dev.safe = false)
  (hb : (s.dev.bun bd.val).busyOp = none)
include ho hs hb

theorem completes_vfmCreate (he : (s.dev.fn (s.dev.mgrVf bd.val)).vst = .empty)
    (hc : (s.dev.mgrNoted bd.val).createFails (s.dev.mgrVf bd.val) bd.val = none) :
    Completes (.vfmCreate bd) s fun t => t.fn (s.dev.mgrVf bd.val) = s.dev.createdVf bd.val (s.dev.fn (s.dev.mgrVf bd.val)) ∧
      field (t.mgr bd.val 0x14) 31 24 = 0 :=
  completes_of (fun d => d.vfmDo bd.val 1) rfl (vfmCreate_makes ho hs hb he hc)

theorem leaves_vfmDestroy (he : (s.dev.fn (s.dev.mgrVf bd.val)).vst = .ready) :
    Leaves (.vfmDestroy bd) s ((((s.dev.mgrNoted bd.val).updBun bd.val fun x =>
      { x with busyOp := some (2, s.dev.mgrVf bd.val % 2048 - 1) }).setMgrF bd.val 0x14 8 8 1).vfDestroy (s.dev.mgrVf bd.val)) :=
  leaves_of (fun d => d.vfmDo bd.val 2) rfl (vfmDo_destroy ho hs hb he)

theorem completes_vfmQuery :
    Completes (.vfmQuery bd) s fun t => field (t.mgr bd.val 0) 11 8 = (s.dev.fn (s.dev.mgrVf bd.val)).nch % 16 ∧
      field (t.mgr bd.val 4) 20 0 = (s.dev.fn (s.dev.mgrVf bd.val)).qfirst % 2 ^ 21 ∧
      field (t.mgr bd.val 8) 20 0 = (s.dev.fn (s.dev.mgrVf bd.val)).qcount % 2 ^ 21 ∧ field (t.mgr bd.val 0x14) 31 24 = 0 ∧ t.fns = s.dev.fns :=
  completes_of (fun d => d.vfmDo bd.val 3) rfl (vfmQuery_shows ho hs hb)

end

/-! ### Resets, and VFs that are enabled -/

theorem leaves_initiateFunctionLevelReset {bd : Fin 8} {fn : Fin 1025} {s : State} (hp : s.dev.fnPresent (fnKey bd.val fn.val) = true)
    (hf : (s.dev.fn (fnKey bd.val fn.val)).flr = false) :
    Leaves (.initiateFunctionLevelReset bd fn) s (if fn.val = 0 then s.dev.pfReset bd.val else s.dev.flrStart (fnKey bd.val fn.val)) := by
  refine leaves_of (fun d => d.flrWrite (fnKey bd.val fn.val)) rfl ?_
  have hm : fnKey bd.val fn.val % 2048 = fn.val := by unfold fnKey; omega
  have hd : fnKey bd.val fn.val / 2048 = bd.val := by unfold fnKey; omega
  simp only [Dev.flrWrite, hp, hf, hm, hd, Bool.not_true, Bool.or_self, Bool.false_eq_true, if_false]

theorem leaves_flrComplete {bd : Fin 8} {fn : Fin 1025} {s : State} (hf : (s.dev.fn (fnKey bd.val fn.val)).flr = true)
    (hw : ∀ e ∈ s.dev.bq.ctx, e.2.flush = true → s.dev.flrCovers (fnKey bd.val fn.val) e.1 e.2 = false) :
    Leaves (.flrComplete bd fn) s (s.dev.flrEnd (fnKey bd.val fn.val)) := by
  apply leaves_of_eq
  show execFlrComplete bd fn s = _
  have hn : (s.dev.bq.ctx.any fun e => e.2.flush && s.dev.flrCovers (fnKey bd.val fn.val) e.1 e.2) = false := by
    rw [List.any_eq_false]
    intro e he h
    obtain ⟨h1, h2⟩ := Bool.and_eq_true_iff.1 h
    rw [hw e he h1] at h2
    exact absurd h2 (by decide)
  unfold execFlrComplete onDev
  simp only [hf, hn, Bool.not_false, Bool.and_self, if_true]

/-- A VF that is enabled is there. -/
theorem vst_enableVfs (b : Nat) (vs : List Nat) (d : Dev) (k : Nat) (h : (∃ v ∈ vs, fnKey b (v + 1) = k) ∨ (d.fn k).vst ≠ .absent) :
    ((vs.foldl (fun d v => d.updFn (fnKey b (v + 1)) fun f => if f.vst = .absent then { f with vst := .empty } else f) d).fn k).vst ≠ .absent := by
  induction vs generalizing d with
  | nil =>
    rcases h with ⟨v, hv, -⟩ | h
    · exact absurd hv (List.not_mem_nil)
    · exact h
  | cons v vs ih =>
    rw [List.foldl_cons]
    apply ih
    have hk : ∀ f : Fn, (if f.vst = .absent then { f with vst := .empty } else f).vst ≠ .absent := by
      intro f
      by_cases hf : f.vst = .absent
      · rw [if_pos hf]; exact VfState.noConfusion
      · rw [if_neg hf]; exact hf
    rw [fn_updFn]
    split
    · next hv => exact .inr (hk _)
    · next hv =>
      rcases h with ⟨w, hw, hwk⟩ | h
      · rcases List.mem_cons.1 hw with rfl | hw
        · exact absurd hwk hv
        · exact .inl ⟨w, hw, hwk⟩
      · exact .inr h

theorem bundles_enableVfs (b : Nat) (vs : List Nat) (d : Dev) :
    (vs.foldl (fun d v => d.updFn (fnKey b (v + 1)) fun f => if f.vst = .absent then { f with vst := .empty } else f) d).bundles = d.bundles := by
  induction vs generalizing d with
  | nil => rfl
  | cons v vs ih => rw [List.foldl_cons, ih, updFn_bundles]

section
variable {bd : Fin 8} {s : State} (hp : s.dev.fnPresent (fnKey bd.val 0) = true) (hf : (s.dev.fn (fnKey bd.val 0)).flr = false)
include hp hf

theorem completes_vfEnableSet {num : BitVec 16} (he : (s.dev.bun bd.val).vfEnable = false) (h0 : num ≠ 0#16)
    (hn : num.toNat ≤ s.dev.totalVfs bd.val) :
    Completes (.vfEnableSet bd num) s fun t => (t.bun bd.val).vfEnable = true ∧ (t.bun bd.val).numVfs = num.toNat ∧
      ∀ i, i < num.toNat → (t.fn (fnKey bd.val (i + 1))).vst ≠ .absent := by
  have h0' : num.toNat ≠ 0 := fun h => h0 (BitVec.eq_of_toNat_eq h)
  have hn' : ¬ s.dev.totalVfs bd.val < num.toNat := by omega
  refine completes_of (fun d => d.vfEnable bd.val num.toNat) rfl ?_
  simp only [Dev.vfEnable, hp, hf, he, h0', hn', Bool.not_true, Bool.false_eq_true, decide_false, Bool.or_self, if_false]
  refine ⟨?_, ?_, fun i hi => vst_enableVfs _ _ _ _ (.inl ⟨i, List.mem_range.2 hi, rfl⟩)⟩
  · rw [bun_congr (bundles_enableVfs ..), bun_updBun, if_pos rfl]
  · rw [bun_congr (bundles_enableVfs ..), bun_updBun, if_pos rfl]

theorem leaves_vfEnableClear (he : (s.dev.bun bd.val).vfEnable = true) : Leaves (.vfEnableClear bd) s (s.dev.vfDisable bd.val) := by
  refine leaves_of (fun d => d.vfEnableOff bd.val) rfl ?_
  simp only [Dev.vfEnableOff, hp, hf, he, Bool.not_false, Bool.and_self, if_true]

end

/-- Settles O40: each reset and each command of the manager where its function is there and nothing else is under way. -/
theorem functionsComplete : Obligations.FunctionsComplete := by
  intro bd fn num s d b k pf v kv d1
  refine ⟨leaves_initiateFunctionLevelReset, leaves_flrComplete, fun hp hf => ⟨completes_vfEnableSet hp hf, leaves_vfEnableClear hp hf⟩,
    fun ho hs hb => ⟨fun he hc => ?_, leaves_vfmDestroy ho hs hb, completes_vfmQuery ho hs hb⟩⟩
  refine (completes_vfmCreate ho hs hb he hc).imp ?_
  rintro t ⟨hf, hr⟩
  have hf : t.fn kv = d.createdVf b (d.fn kv) := hf
  rw [hf]
  exact ⟨rfl, rfl, rfl, rfl, rfl, rfl, hr⟩

end Sys2Proof.Machine
end

section
/-! PROOFS. Reels, dead agents, array errors and checks that end in SAFE (16 R502 to R512, R519, 11 R364). -/
namespace Sys2Proof.Machine

theorem completes_of_eq {c : Instr} {s : State} {p : Dev → Prop} {d : Dev} (h : exec c s = .next (s.withDev d)) (hp : p d) : Completes c s p :=
  ⟨_, h, rfl, hp⟩

/-! ### The reel of an LCN -/

/-- The reel of an LCN that is under way. -/
def Dev.reelOf (d : Dev) (l : Nat) : Option Reel := mget none d.rel.reels l

theorem reelOf_congr {d e : Dev} (h : d.rel = e.rel) (l : Nat) : d.reelOf l = e.reelOf l := by rw [Dev.reelOf, Dev.reelOf, h]

@[simp] theorem showSpares_rel (d : Dev) : d.showSpares.rel = d.rel := by
  suffices h : ∀ (is : List Nat) (d : Dev), (is.foldl (fun d i =>
      d.setRegF (if i < 8 then Reg.RL_DIE_SPARE0 else Reg.RL_DIE_SPARE1) (4 * (i % 8) + 3) (4 * (i % 8)) (min 4 (d.sparesOf i).length)) d).rel = d.rel from
    h _ d
  intro is
  induction is with
  | nil => exact fun _ => rfl
  | cons i is ih => intro d; rw [List.foldl_cons, ih, setRegF_rel]

theorem reelOf_setReel (d : Dev) (l : Nat) (r : Option Reel) : (d.setReel l r).reelOf l = r := by
  have hr : (d.setReel l r).rel = (d.updRel fun x => { x with reels := mset none x.reels l r }).rel := setRegF_rel ..
  rw [reelOf_congr hr, Dev.reelOf, Dev.updRel, mget_mset, if_pos rfl]

section
variable {l : Fin 384} {s : State}

theorem leaves_coreErrorDetect {ply : Bool} (hs : s.dev.inService l.val = true) (hw : (s.dev.core l.val).wait = .none) :
    Leaves (.coreErrorDetect l ply) s
      ((if ply then s.dev.count (Reg.PLY_SK_CHECK ((s.dev.skeinOf l.val).getD 0)) else s.dev).reelDue l.val 1 true) := by
  apply leaves_of_eq
  show execCoreErrorDetect l ply s = _
  unfold execCoreErrorDetect onDev
  simp only [hs, hw, beq_self_eq_true, Bool.and_self, if_true]

/-- A reel starts to the spare chosen where nothing holds it back. -/
theorem completes_reelStart {l0 cause q : Nat} {retire : Bool}
    (hd : (s.dev.rel.due.find? fun (x : Nat × Nat × Bool) => x.1 == l.val) = some (l0, cause, retire)) (hs : s.dev.safe = false)
    (hr : s.dev.rel.reels = []) (hp : (s.dev.port l.val).st ≠ .fencing) (hq : s.dev.chooseSpare l.val = some q) :
    Completes (.reelStart l) s fun t => t.reelOf l.val =
      (let p := s.dev.spindle l.val
       let dead := s.dev.deadAgents.getLsbD (p / 28) || mget false s.dev.coh.deadSpindles p
       some ⟨p, q, cause, retire, if dead then 5 else 3, ⟨0#8, dead⟩⟩) := by
  have hp' : ((s.dev.port l.val).st == .fencing) = false := beq_eq_false_iff_ne.2 hp
  have he : exec (.reelStart l) s = .next (s.withDev (((s.dev.undue l.val).takeSpare q).setReel l.val
      (let p := s.dev.spindle l.val
       let dead := s.dev.deadAgents.getLsbD (p / 28) || mget false s.dev.coh.deadSpindles p
       some ⟨p, q, cause, retire, if dead then 5 else 3, ⟨0#8, dead⟩⟩)).showSpares) := by
    show execReelStart l s = _
    unfold execReelStart onDev
    simp only [hd, hs, hr, hp', hq, List.any_nil, List.length_nil, Bool.or_self, Bool.false_eq_true, if_false,
      show decide (16 ≤ 0) = false from rfl]
  refine completes_of_eq he ?_
  rw [reelOf_congr (showSpares_rel _), reelOf_setReel]

variable {r : Reel} (hr : s.dev.reelOf l.val = some r)
include hr

theorem completes_reelDrainDone (h3 : r.step = 3) (hd : ((s.dev.drain l.val).core l.val).allPerformed = true) :
    Completes (.reelDrainDone l) s fun t => t.reelOf l.val = some { r with step := 5 } := by
  have he : exec (.reelDrainDone l) s = .next (s.withDev (((s.dev.drain l.val).spindleFlush r.old).setReel l.val (some { r with step := 5 }))) := by
    rw [Dev.reelOf] at hr
    show execReelDrainDone l s = _
    unfold execReelDrainDone onDev
    simp only [hr, h3, hd, ne_eq, not_true_eq_false, if_false, if_true]
  exact completes_of_eq he (reelOf_setReel ..)

theorem completes_reelStateMove {lost : ReelLoss} (h5 : r.step = 5) :
    Completes (.reelStateMove l lost) s fun t => t.reelOf l.val = some { r with step := 6, lost := ⟨lost.mask, lost.fatal || r.lost.fatal⟩ } := by
  have he : exec (.reelStateMove l lost) s =
      .next (s.withDev (s.dev.setReel l.val (some { r with step := 6, lost := ⟨lost.mask, lost.fatal || r.lost.fatal⟩ }))) := by
    rw [Dev.reelOf] at hr
    show execReelStateMove l lost s = _
    unfold execReelStateMove onDev
    simp only [hr, h5, ne_eq, not_true_eq_false, if_false]
  exact completes_of_eq he (reelOf_setReel ..)

theorem leaves_reelResume (h6 : r.step = 6) : Leaves (.reelResume l) s (s.dev.reelEnd l.val r) := by
  rw [Dev.reelOf] at hr
  apply leaves_of_eq
  show execReelResume l s = _
  unfold execReelResume onDev
  simp only [hr, h6, ne_eq, not_true_eq_false, if_false]

end

theorem completes_reelStateWrite {s : State} (h : s.dev.rel.dirty = true) :
    Completes .reelStateWrite s fun t => t.dst.flashReel = s.dev.rel.standIn ∧ t.dst.flashRetired = s.dev.rel.retired ∧ t.rel.dirty = false := by
  refine completes_of (fun d => if d.rel.dirty then (d.updDst fun x =>
    { x with flashReel := d.rel.standIn, flashRetired := d.rel.retired }).updRel fun r => { r with dirty := false } else d) rfl ?_
  rw [if_pos h]
  exact ⟨rfl, rfl, rfl⟩

/-! ### Dead agents and array errors -/

theorem leaves_deadAgentDeclare {a : AgentId} {s : State} (h : s.dev.deadAgents.getLsbD a.val = false) :
    Leaves (.deadAgentDeclare a) s (if a.val < 16 then s.dev.dieDead a.val else s.dev.agentDead a.val) := by
  refine leaves_of (fun d => if a.val < 16 then d.dieDead a.val else if d.deadAgents.getLsbD a.val then d else d.agentDead a.val) rfl ?_
  rw [h, if_neg (show ¬ false = true by decide)]

/-- An error that reports no line, or that was corrected, poisons nothing. -/
theorem arrayPoison_of_sound {d : Dev} {e : ArrayError} (site unit : Nat) (h : e.line = none ∨ e.corrected = true) : d.arrayPoison e site unit = d := by
  unfold Dev.arrayPoison
  split
  · next hl hc =>
    rcases h with h | h
    · rw [h] at hl; cases hl
    · rw [h] at hc; cases hc
  · rfl

theorem leaves_arrayEccError {e : ArrayError} {s : State} (hr : mget 0 s.dev.rel.rows (arrayKey e.unit) < (arrayRows e.unit).1)
    (h : e.line = none ∨ e.corrected = true) : Leaves (.arrayEccError e) s (s.dev.retireRow e) := by
  apply leaves_of_eq
  show execArrayEccError e s = _
  unfold execArrayEccError onDev
  simp only [arrayPoison_of_sound _ _ h, hr, if_true]

/-! ### SAFE -/

@[simp] theorem announce_safe (d : Dev) (r : Option AuditRec) : (d.announce r).safe = d.safe := by
  unfold Dev.announce; dsimp only; split <;> split <;> simp
@[simp] theorem announce_boot (d : Dev) (r : Option AuditRec) : (d.announce r).boot = d.boot := by
  unfold Dev.announce; dsimp only; split <;> split <;> simp

@[simp] theorem setDstState_safe (d : Dev) (st : Nat) : (d.setDstState st).safe = d.safe := by unfold Dev.setDstState; split <;> simp
@[simp] theorem setDstState_boot (d : Dev) (st : Nat) : (d.setDstState st).boot = d.boot := by unfold Dev.setDstState; split <;> simp

@[simp] theorem noteSafe_safe (d : Dev) (c : SafeCause) : (d.noteSafe c).safe = d.safe := by unfold Dev.noteSafe; split <;> simp
@[simp] theorem noteSafe_boot (d : Dev) (c : SafeCause) : (d.noteSafe c).boot = d.boot := by unfold Dev.noteSafe; split <;> simp

@[simp] theorem pinsSafe_safe (d : Dev) (c : SafeCause) : (d.pinsSafe c).safe = d.safe := by simp [Dev.pinsSafe]
@[simp] theorem pinsSafe_boot (d : Dev) (c : SafeCause) : (d.pinsSafe c).boot = d.boot := by simp [Dev.pinsSafe]

/-- The device enters SAFE once, with its cause. -/
theorem enterSafe_of_not_safe {d : Dev} (h : d.safe = false) (c : SafeCause) : (d.enterSafe c).safe = true ∧ (d.enterSafe c).boot.safeBy = some c := by
  unfold Dev.enterSafe
  rw [h, if_neg (by decide)]
  simp only [setDstState_safe, setDstState_boot, noteSafe_safe, noteSafe_boot, pinsSafe_safe, pinsSafe_boot, and_self]

theorem completes_hubUnitError {s : State} (hub : HubUnit) (h : s.dev.safe = false) :
    Completes (.hubUnitError hub) s fun t => t.safe = true ∧ t.boot.safeBy = some .spares :=
  completes_of (fun d => d.enterSafe .spares) rfl (enterSafe_of_not_safe h _)

theorem completes_imageHashCheck_bad {s : State} (h : s.dev.safe = false) :
    Completes (.imageHashCheck false) s fun t => t.safe = true ∧ t.boot.safeBy = some .image :=
  completes_of (fun d => if false then d else d.enterSafe .image) rfl (by rw [if_neg (by decide)]; exact enterSafe_of_not_safe h _)

/-- Settles O36: each step of a reel from the step before it, and what ends in SAFE from outside it. -/
theorem reelsComplete : Obligations.ReelsComplete := by
  intro l ply retire q l0 cause lost r a e hub s d p dead at_
  exact ⟨leaves_coreErrorDetect, completes_reelStart,
    fun hr => ⟨completes_reelDrainDone hr, completes_reelStateMove hr, leaves_reelResume hr⟩,
    completes_reelStateWrite, leaves_deadAgentDeclare, leaves_arrayEccError,
    fun h => ⟨completes_hubUnitError hub h, completes_imageHashCheck_bad h⟩, leaves_of (fun d => if true then d else d.enterSafe .image) rfl rfl⟩

end Sys2Proof.Machine
end

section
/-! PROOFS. What the host sets in a function, its mailbox and its dirty log (14 R453 to R464). -/
namespace Sys2Proof.Machine

/-! ### Masks, bus mastering and the power state -/

section
variable {bd : Fin 8} {fn : Fin 1025} {s : State}

theorem leaves_msixUnmask_function (hp : s.dev.fnPresent (fnKey bd.val fn.val) = true) (hf : (s.dev.fn (fnKey bd.val fn.val)).flr = false) :
    Leaves (.msixUnmask bd fn 2048) s ((s.dev.updFn (fnKey bd.val fn.val) fun f => { f with fmask := false }).msixSweep (fnKey bd.val fn.val)) := by
  refine leaves_of (fun d => if 2048 = 2048 then d.fnUnmask (fnKey bd.val fn.val) else d.vecMask (fnKey bd.val fn.val) 2048 false) rfl ?_
  simp only [if_true, Dev.fnUnmask, hp, hf, Bool.not_false, Bool.and_self]

theorem leaves_msixUnmask_vector {vec : Nat} (ho : s.dev.barOpen (fnKey bd.val fn.val) = true) (hs : s.dev.safe = false)
    (hv : vec < (s.dev.fn (fnKey bd.val fn.val)).nvec) (hn : vec ≠ 2048) :
    Leaves (.msixUnmask bd fn vec) s ((s.dev.updFn (fnKey bd.val fn.val) fun f =>
      { f with table := mupd MsixEntry.reset f.table vec fun e => { e with masked := false } }).msixFlush (fnKey bd.val fn.val) vec) := by
  refine leaves_of (fun d => if vec = 2048 then d.fnUnmask (fnKey bd.val fn.val) else d.vecMask (fnKey bd.val fn.val) vec false) rfl ?_
  simp only [if_neg hn, Dev.vecMask, ho, hs, hv, decide_true, Bool.not_false, Bool.and_self, if_true]

theorem busMaster_of {d : Dev} {k : Nat} (on : Bool) (hp : d.fnPresent k = true) (hf : (d.fn k).flr = false) :
    d.busMaster k on = if on then ((d.updFn k fun f => { f with bme := on }).fnRelease k).pumpAll else d.updFn k fun f => { f with bme := on } := by
  simp only [Dev.busMaster, hp, hf, Bool.not_false, Bool.and_self, if_true]

theorem completes_busMasterEnableClear (hp : s.dev.fnPresent (fnKey bd.val fn.val) = true) (hf : (s.dev.fn (fnKey bd.val fn.val)).flr = false) :
    Completes (.busMasterEnableClear bd fn) s fun t => t.fn (fnKey bd.val fn.val) = { s.dev.fn (fnKey bd.val fn.val) with bme := false } := by
  refine completes_of (fun d => d.busMaster (fnKey bd.val fn.val) false) rfl ?_
  rw [busMaster_of _ hp hf, if_neg (by decide), fn_updFn, if_pos rfl]

theorem leaves_busMasterEnableSet (hp : s.dev.fnPresent (fnKey bd.val fn.val) = true) (hf : (s.dev.fn (fnKey bd.val fn.val)).flr = false) :
    Leaves (.busMasterEnableSet bd fn) s
      (((s.dev.updFn (fnKey bd.val fn.val) fun f => { f with bme := true }).fnRelease (fnKey bd.val fn.val)).pumpAll) :=
  leaves_of (fun d => d.busMaster (fnKey bd.val fn.val) true) rfl (busMaster_of _ hp hf)

theorem completes_powerstateD3hot (hp : s.dev.fnPresent (fnKey bd.val 0) = true) (hf : (s.dev.fn (fnKey bd.val 0)).flr = false) :
    Completes (.powerstateD3hot bd) s fun t => t.bun bd.val = { s.dev.bun bd.val with d3hot := true } ∧ t.fns = s.dev.fns := by
  refine completes_of (fun d => d.powerState bd.val 3) rfl ?_
  have h : s.dev.powerState bd.val 3 = s.dev.updBun bd.val fun x => { x with d3hot := true } := by
    simp only [Dev.powerState, hp, hf, Bool.not_true, Bool.or_self, Bool.false_eq_true, if_false, if_true]
  rw [h, bun_updBun, if_pos rfl]
  exact ⟨rfl, rfl⟩

theorem leaves_powerstateD0 (hp : s.dev.fnPresent (fnKey bd.val 0) = true) (hf : (s.dev.fn (fnKey bd.val 0)).flr = false) :
    Leaves (.powerstateD0 bd) s ((((s.dev.fns.map fun (e : Nat × Fn) => e.1).filter fun j => j / 2048 == bd.val).foldl (fun d j => d.fnRelease j)
      (s.dev.updBun bd.val fun x => { x with d3hot := false })).pumpAll) := by
  refine leaves_of (fun d => d.powerState bd.val 0) rfl ?_
  simp only [Dev.powerState, hp, hf, Bool.not_true, Bool.or_self, Bool.false_eq_true, if_false, if_true, show ¬ 0 = 3 by decide, updBun_fns]

theorem completes_pmeWake (hm : s.dev.bundleMode bd.val = 2) (hs : s.dev.safe = false) (he : (s.dev.bun bd.val).pmeEn = true)
    (hd : (s.dev.bun bd.val).d3hot = true ∨ (s.dev.bun bd.val).perst = true) (hw : s.dev.drainWaits bd.val = true) :
    Completes (.pmeWake bd) s fun t =>
      t.bun bd.val = { s.dev.bun bd.val with pmeStatus := true, wakeLow := (s.dev.bun bd.val).wakeLow || (s.dev.bun bd.val).perst } ∧
        t.out = s.dev.out ++ if (s.dev.bun bd.val).d3hot then [.pcieMsg bd.val 0] else [] := by
  have h : exec (.pmeWake bd) s = .next (s.withDev (if (s.dev.bun bd.val).d3hot then (s.dev.updBun bd.val fun x =>
      { x with pmeStatus := true, wakeLow := x.wakeLow || x.perst }).emit (.pcieMsg bd.val 0)
      else s.dev.updBun bd.val fun x => { x with pmeStatus := true, wakeLow := x.wakeLow || x.perst })) := by
    show execPmeWake bd s = _
    unfold execPmeWake onDev
    simp only [hm, hs, he, hd, hw, Bool.not_false, and_self, if_true]
  refine completes_of_eq h ?_
  have hb : ((s.dev.updBun bd.val fun x => { x with pmeStatus := true, wakeLow := x.wakeLow || x.perst }).bun bd.val) =
      { s.dev.bun bd.val with pmeStatus := true, wakeLow := (s.dev.bun bd.val).wakeLow || (s.dev.bun bd.val).perst } := by
    rw [bun_updBun, if_pos rfl]
  split
  · exact ⟨hb, rfl⟩
  · exact ⟨hb, (List.append_nil _).symm⟩

end

/-! ### Mailboxes -/

theorem bar_congr {d e : Dev} (h : d.bars = e.bars) (k off : Nat) : d.bar k off = e.bar k off := by rw [Dev.bar, Dev.bar, h]

theorem mbxCtl_true : mbxCtl true = 0x9480 := rfl
theorem mbxCtl_false : mbxCtl false = 0x8080 := rfl

/-- The sender's side of its mailbox after a message is taken from it. -/
def Dev.mbxTaken (d : Dev) (k : Nat) (pf : Bool) : Dev := (d.setBarF k (mbxCtl pf) 2 2 1).setBarF k (mbxCtl pf) 31 24 0

/-- The acknowledging side of its mailbox once it has acknowledged. -/
def Dev.mbxAcked (d : Dev) (k : Nat) (pf : Bool) : Dev := (d.setBarF k (mbxCtl pf) 3 3 0).setBarF k (mbxCtl pf) 31 24 0

section
variable {d : Dev} {k : Nat} {pf : Bool}

theorem mbxSend_of_free (h : bit (d.bar k (mbxCtl pf)) 2 = false) :
    d.mbxSend k pf = if !pf && bit ((d.words16 k (mbxOut pf)).getD 0 0#32) 7 then
        (d.mbxTaken k pf).updFn k fun f => { f with toDev := d.words16 k (mbxOut pf) }
      else (((d.mbxTaken k pf).putWords k (mbxIn (!pf)) (d.words16 k (mbxOut pf))).setBarF k (mbxCtl (!pf)) 3 3 1).mbxSignal k (!pf) := by
  rw [Dev.mbxSend, h, if_neg (by decide)]
  rfl

theorem mbxAck_of_held (h : bit (d.bar k (mbxCtl pf)) 3 = true) :
    d.mbxAck k pf = if bit (d.bar k (mbxCtl (!pf))) 2 then ((d.mbxAcked k pf).setBarF k (mbxCtl (!pf)) 2 2 0).mbxSignal k (!pf)
      else d.mbxAcked k pf := by
  have hn : mbxCtl pf ≠ mbxCtl (!pf) := by cases pf <;> decide
  have hb : (d.mbxAcked k pf).bar k (mbxCtl (!pf)) = d.bar k (mbxCtl (!pf)) := by
    rw [Dev.mbxAcked, bar_setBarF_ne _ _ _ _ _ _ _ hn, bar_setBarF_ne _ _ _ _ _ _ _ hn]
  rw [Dev.mbxAck, h, if_neg (by decide), ← hb]
  rfl

theorem words16_head (off : Nat) : (d.words16 k off).getD 0 0#32 = d.bar k off := rfl

theorem bar_mbxTaken : bit ((d.mbxTaken k pf).bar k (mbxCtl pf)) 2 = true ∧ field ((d.mbxTaken k pf).bar k (mbxCtl pf)) 31 24 = 0 := by
  rw [Dev.mbxTaken, bar_setBarF_self, bar_setBarF_self, bit_putField_ne _ _ _ _ _ (by decide) (by decide) (.inr (by decide)),
    bit_putField _ _ _ (by decide), field_putField _ _ _ _ (by decide) (by decide)]
  exact ⟨rfl, rfl⟩

theorem bar_mbxAcked : bit ((d.mbxAcked k pf).bar k (mbxCtl pf)) 3 = false ∧ field ((d.mbxAcked k pf).bar k (mbxCtl pf)) 31 24 = 0 := by
  rw [Dev.mbxAcked, bar_setBarF_self, bar_setBarF_self, bit_putField_ne _ _ _ _ _ (by decide) (by decide) (.inr (by decide)),
    bit_putField _ _ _ (by decide), field_putField _ _ _ _ (by decide) (by decide)]
  exact ⟨rfl, rfl⟩

@[simp] theorem mbxAcked_fns : (d.mbxAcked k pf).fns = d.fns := by rw [Dev.mbxAcked, setBarF_fns, setBarF_fns]
@[simp] theorem mbxTaken_fns : (d.mbxTaken k pf).fns = d.fns := by rw [Dev.mbxTaken, setBarF_fns, setBarF_fns]

end

section
variable {bd : Fin 8} {fn : Fin 1025} {s : State}

theorem exec_fnMbxSend (h : s.dev.mbxOpen (fnKey bd.val fn.val) = true) :
    exec (.fnMbxSend bd fn) s = .next (s.withDev (s.dev.mbxSend (fnKey bd.val fn.val) false)) := by
  show Host.Outcome.next (s.withDev (if s.dev.mbxOpen (fnKey bd.val fn.val) then _ else _)) = _
  rw [if_pos h]

theorem exec_fnMbxAck (h : s.dev.mbxOpen (fnKey bd.val fn.val) = true) :
    exec (.fnMbxAck bd fn) s = .next (s.withDev (s.dev.mbxAck (fnKey bd.val fn.val) false)) := by
  show Host.Outcome.next (s.withDev (if s.dev.mbxOpen (fnKey bd.val fn.val) then _ else _)) = _
  rw [if_pos h]

theorem completes_fnMbxSend_device (ho : s.dev.mbxOpen (fnKey bd.val fn.val) = true) (hf : bit (s.dev.bar (fnKey bd.val fn.val) 0x8080) 2 = false)
    (h7 : bit (s.dev.bar (fnKey bd.val fn.val) 0x8000) 7 = true) :
    Completes (.fnMbxSend bd fn) s fun t => (t.fn (fnKey bd.val fn.val)).toDev = s.dev.words16 (fnKey bd.val fn.val) 0x8000 ∧
      bit (t.bar (fnKey bd.val fn.val) 0x8080) 2 = true ∧ field (t.bar (fnKey bd.val fn.val) 0x8080) 31 24 = 0 := by
  have h := exec_fnMbxSend ho
  rw [mbxSend_of_free (pf := false) hf, if_pos (by rw [words16_head]; exact h7)] at h
  obtain ⟨hb, hr⟩ := bar_mbxTaken (d := s.dev) (k := fnKey bd.val fn.val) (pf := false)
  refine completes_of_eq h ⟨?_, ?_, ?_⟩
  · rw [fn_updFn, if_pos rfl]; rfl
  · rwa [bar_congr (updFn_bars ..)]
  · rwa [bar_congr (updFn_bars ..)]

theorem leaves_fnMbxSend_manager (ho : s.dev.mbxOpen (fnKey bd.val fn.val) = true) (hf : bit (s.dev.bar (fnKey bd.val fn.val) 0x8080) 2 = false)
    (h7 : bit (s.dev.bar (fnKey bd.val fn.val) 0x8000) 7 = false) :
    Leaves (.fnMbxSend bd fn) s ((((s.dev.mbxTaken (fnKey bd.val fn.val) false).putWords (fnKey bd.val fn.val) 0x9400
      (s.dev.words16 (fnKey bd.val fn.val) 0x8000)).setBarF (fnKey bd.val fn.val) 0x9480 3 3 1).mbxSignal (fnKey bd.val fn.val) true) := by
  have h := exec_fnMbxSend ho
  rw [mbxSend_of_free (pf := false) hf, if_neg (by rw [words16_head]; exact ne_true_of_eq_false h7)] at h
  exact leaves_of_eq h

theorem completes_fnMbxAck (ho : s.dev.mbxOpen (fnKey bd.val fn.val) = true) (h3 : bit (s.dev.bar (fnKey bd.val fn.val) 0x8080) 3 = true)
    (h2 : bit (s.dev.bar (fnKey bd.val fn.val) 0x9480) 2 = false) :
    Completes (.fnMbxAck bd fn) s fun t => bit (t.bar (fnKey bd.val fn.val) 0x8080) 3 = false ∧
      field (t.bar (fnKey bd.val fn.val) 0x8080) 31 24 = 0 ∧ t.fns = s.dev.fns := by
  have h := exec_fnMbxAck ho
  rw [mbxAck_of_held (pf := false) h3, Bool.not_false, mbxCtl_true, if_neg (ne_true_of_eq_false h2)] at h
  obtain ⟨hb, hr⟩ := bar_mbxAcked (d := s.dev) (k := fnKey bd.val fn.val) (pf := false)
  exact completes_of_eq h ⟨hb, hr, mbxAcked_fns⟩

theorem leaves_fnMbxAck (ho : s.dev.mbxOpen (fnKey bd.val fn.val) = true) (h3 : bit (s.dev.bar (fnKey bd.val fn.val) 0x8080) 3 = true)
    (h2 : bit (s.dev.bar (fnKey bd.val fn.val) 0x9480) 2 = true) :
    Leaves (.fnMbxAck bd fn) s (((s.dev.mbxAcked (fnKey bd.val fn.val) false).setBarF (fnKey bd.val fn.val) 0x9480 2 2 0).mbxSignal
      (fnKey bd.val fn.val) true) := by
  have h := exec_fnMbxAck ho
  rw [mbxAck_of_held (pf := false) h3, Bool.not_false, mbxCtl_true, if_pos h2] at h
  exact leaves_of_eq h

end

/-- The VF whose mailbox the manager's command concerns. -/
def Dev.mgrMbxVf (d : Dev) (b : Nat) : Nat := fnKey b (field (d.mgr b 0x1C) 9 0 + 1)

section
variable {bd : Fin 8} {s : State} (ho : s.dev.barOpen (fnKey bd.val 0) = true) (hs : s.dev.safe = false)
  (hv : (s.dev.fn (s.dev.mgrMbxVf bd.val)).vst = .ready) (hf : (s.dev.fn (s.dev.mgrMbxVf bd.val)).flr = false)
include ho hs hv hf

theorem mgrMbx_of (f : Nat → Dev → Dev) : s.dev.mgrMbx bd.val f = f (s.dev.mgrMbxVf bd.val) s.dev := by
  unfold Dev.mgrMbxVf at hv hf
  simp only [Dev.mgrMbx, ho, hs, hv, hf, Bool.not_true, Bool.or_self, Bool.false_eq_true, if_false, Bool.not_false, and_self, if_true]
  rfl

theorem leaves_vfmMbxSend (h2 : bit (s.dev.bar (s.dev.mgrMbxVf bd.val) 0x9480) 2 = false) :
    Leaves (.vfmMbxSend bd) s ((((s.dev.mbxTaken (s.dev.mgrMbxVf bd.val) true).putWords (s.dev.mgrMbxVf bd.val) 0x8040
      (s.dev.words16 (s.dev.mgrMbxVf bd.val) 0x9440)).setBarF (s.dev.mgrMbxVf bd.val) 0x8080 3 3 1).mbxSignal (s.dev.mgrMbxVf bd.val) false) := by
  refine leaves_of (fun d => d.mgrMbx bd.val fun k d => d.mbxSend k true) rfl ?_
  rw [mgrMbx_of ho hs hv hf, mbxSend_of_free (pf := true) h2]
  rfl

theorem completes_vfmMbxAck (h3 : bit (s.dev.bar (s.dev.mgrMbxVf bd.val) 0x9480) 3 = true)
    (h2 : bit (s.dev.bar (s.dev.mgrMbxVf bd.val) 0x8080) 2 = false) :
    Completes (.vfmMbxAck bd) s fun t => bit (t.bar (s.dev.mgrMbxVf bd.val) 0x9480) 3 = false ∧
      field (t.bar (s.dev.mgrMbxVf bd.val) 0x9480) 31 24 = 0 ∧ t.fns = s.dev.fns := by
  obtain ⟨hb, hr⟩ := bar_mbxAcked (d := s.dev) (k := s.dev.mgrMbxVf bd.val) (pf := true)
  refine completes_of (fun d => d.mgrMbx bd.val fun k d => d.mbxAck k true) rfl ?_
  rw [mgrMbx_of ho hs hv hf, mbxAck_of_held (pf := true) h3, Bool.not_true, mbxCtl_false, if_neg (ne_true_of_eq_false h2)]
  exact ⟨hb, hr, mbxAcked_fns⟩

theorem leaves_vfmMbxAck (h3 : bit (s.dev.bar (s.dev.mgrMbxVf bd.val) 0x9480) 3 = true)
    (h2 : bit (s.dev.bar (s.dev.mgrMbxVf bd.val) 0x8080) 2 = true) :
    Leaves (.vfmMbxAck bd) s (((s.dev.mbxAcked (s.dev.mgrMbxVf bd.val) true).setBarF (s.dev.mgrMbxVf bd.val) 0x8080 2 2 0).mbxSignal
      (s.dev.mgrMbxVf bd.val) false) := by
  refine leaves_of (fun d => d.mgrMbx bd.val fun k d => d.mbxAck k true) rfl ?_
  rw [mgrMbx_of ho hs hv hf, mbxAck_of_held (pf := true) h3, Bool.not_true, mbxCtl_false, if_pos h2]

end

theorem leaves_deviceMailboxAnswer {bd : Fin 8} {fn : Fin 1025} {s : State} {w : Reg32} {rest : List Reg32}
    (ht : (s.dev.fn (fnKey bd.val fn.val)).toDev = w :: rest) (hb : bit (s.dev.bar (fnKey bd.val fn.val) 0x8080) 3 = false) (hs : s.dev.safe = false) :
    Leaves (.deviceMailboxAnswer bd fn) s (s.dev.devReply (fnKey bd.val fn.val) w) := by
  apply leaves_of_eq
  show execDeviceMailboxAnswer bd fn s = _
  unfold execDeviceMailboxAnswer onDev
  simp only [ht, hb, hs, Bool.or_self, Bool.false_eq_true, if_false]

/-! ### The dirty log -/

theorem completes_dlogSwap {bd : Fin 8} {fn : Fin 1025} {s : State} (hf : fn.val ≠ 0) (ho : s.dev.barOpen (fnKey bd.val 0) = true)
    (hs : s.dev.safe = false) (h8 : bit (s.dev.bar (fnKey bd.val fn.val) 0x9520) 8 = false)
    (h31 : bit (s.dev.bar (fnKey bd.val fn.val) 0x951C) 31 = true) :
    Completes (.dlogSwap bd fn) s fun t => bit (t.bar (fnKey bd.val fn.val) 0x9520) 8 = true ∧
      bit (t.bar (fnKey bd.val fn.val) 0x9520) 0 = bit (s.dev.bar (fnKey bd.val fn.val) 0x9520) 0 := by
  have hm : ¬ fnKey bd.val fn.val % 2048 = 0 := by unfold fnKey; omega
  have hd : fnKey bd.val fn.val / 2048 = bd.val := by unfold fnKey; omega
  have h : s.dev.dlogDo (fnKey bd.val fn.val) 1 = s.dev.setBarF (fnKey bd.val fn.val) 0x9520 8 8 1 := by
    simp [Dev.dlogDo, hm, hd, ho, hs, h8, h31]
  refine completes_of (fun d => d.dlogDo (fnKey bd.val fn.val) 1) rfl ?_
  rw [h, bar_setBarF_self, bit_putField _ _ _ (by decide), bit_putField_ne _ _ _ _ _ (by decide) (by decide) (.inr (by decide))]
  exact ⟨rfl, rfl⟩

theorem field_bit (x : Reg32) : field x 0 0 = if bit x 0 then 1 else 0 := by
  have h : (field x 0 0).testBit 0 = bit x 0 := by rw [testBit_field]; rfl
  have hl : field x 0 0 < 2 := Nat.mod_lt _ (by decide)
  rw [← h]
  interval_cases field x 0 0 <;> rfl

theorem completes_dlogSwapDone {bd : Fin 8} {fn : Fin 1025} {s : State} (h8 : bit (s.dev.bar (fnKey bd.val fn.val) 0x9520) 8 = true)
    (ho : s.dev.fnOpen (fnKey bd.val 0) = true) :
    Completes (.dlogSwapDone bd fn) s fun t => bit (t.bar (fnKey bd.val fn.val) 0x9520) 8 = false ∧
      bit (t.bar (fnKey bd.val fn.val) 0x9520) 0 = !bit (s.dev.bar (fnKey bd.val fn.val) 0x9520) 0 ∧
      field (t.bar (fnKey bd.val fn.val) 0x9520) 31 24 = 0 := by
  have h : exec (.dlogSwapDone bd fn) s = .next (s.withDev (((s.dev.setBarF (fnKey bd.val fn.val) 0x9520 8 8 0).setBarF (fnKey bd.val fn.val) 0x9520 31 24
      0).setBarF (fnKey bd.val fn.val) 0x9520 0 0 (1 - field (s.dev.bar (fnKey bd.val fn.val) 0x9520) 0 0))) := by
    show execDlogSwapDone bd fn s = _
    unfold execDlogSwapDone onDev
    simp only [h8, ho, Bool.and_self, if_true]
  refine completes_of_eq h ?_
  rw [bar_setBarF_self, bar_setBarF_self, bar_setBarF_self]
  refine ⟨?_, ?_, ?_⟩
  · rw [bit_putField_ne _ _ _ _ _ (by decide) (by decide) (.inl (by decide)), bit_putField_ne _ _ _ _ _ (by decide) (by decide) (.inr (by decide)),
      bit_putField _ _ _ (by decide)]
    rfl
  · rw [bit_putField _ _ _ (by decide), field_bit]
    cases bit (s.dev.bar (fnKey bd.val fn.val) 0x9520) 0 <;> rfl
  · rw [field_putField_ne _ _ _ _ _ _ (by decide) (by decide) (.inl (by decide)), field_putField _ _ _ _ (by decide) (by decide)]
    rfl

/-- Settles O41: each setting of the host in a function that is there, and each side of a mailbox by its own control register. -/
theorem functionControlAndMailboxes : Obligations.FunctionControlAndMailboxes :=
  ⟨fun _ _ _ _ => ⟨fun hp hf => ⟨leaves_msixUnmask_function hp hf, completes_busMasterEnableClear hp hf, leaves_busMasterEnableSet hp hf⟩,
      leaves_msixUnmask_vector, fun hp hf => ⟨completes_powerstateD3hot hp hf, leaves_powerstateD0 hp hf⟩, completes_pmeWake⟩,
    fun _ _ _ _ _ => ⟨fun ho => ⟨fun hf => ⟨completes_fnMbxSend_device ho hf, leaves_fnMbxSend_manager ho hf⟩, completes_fnMbxAck ho, leaves_fnMbxAck ho⟩,
      fun ho hs hv hf => ⟨leaves_vfmMbxSend ho hs hv hf, completes_vfmMbxAck ho hs hv hf, leaves_vfmMbxAck ho hs hv hf⟩,
      leaves_deviceMailboxAnswer, completes_dlogSwap, completes_dlogSwapDone⟩⟩

end Sys2Proof.Machine
end

section
/-! PROOFS. Die links (12 R391 to R394) and guest ports (12 R396, R397). -/
namespace Sys2Proof.Machine

/-! ### Fields of registers -/

theorem regF_setRegF_of_lt (d : Dev) (a hi lo v : Nat) (hh : hi < 32) (hl : lo ≤ hi) (hv : v < 2 ^ (hi + 1 - lo)) : (d.setRegF a hi lo v).regF a hi lo = v :=
  (regF_setRegF _ _ _ _ _ hh hl).trans (Nat.mod_eq_of_lt hv)

theorem reg64_setReg64 (d : Dev) (a v : Nat) (hv : v < 2 ^ 64) : (d.setReg64 a v).reg64 a = v := by
  have h0 : (d.setReg64 a v).reg a = BitVec.ofNat 32 (v % 0x100000000) := by
    rw [Dev.setReg64, reg_setReg_ne _ _ _ _ (by omega), reg_setReg, if_pos rfl]
  have h4 : (d.setReg64 a v).reg (a + 4) = BitVec.ofNat 32 (v / 0x100000000) := by rw [Dev.setReg64, reg_setReg, if_pos rfl]
  rw [Dev.reg64, h0, h4, BitVec.toNat_ofNat, BitVec.toNat_ofNat]
  omega

theorem deadAgents_setRegF {d : Dev} {a hi lo v : Nat} (h : a ≠ Reg.CCH_DEAD) : (d.setRegF a hi lo v).deadAgents = d.deadAgents := by
  rw [Dev.deadAgents, Dev.deadAgents, regF_setRegF_other _ _ _ _ _ _ _ _ h]

/-! ### The training of die links -/

section
variable {i j : Nat}

theorem linkReg_hub_ne_die (hi : i < 16) (hj : j < 16) : linkReg false j ≠ linkReg true i := by
  simp only [linkReg, Reg.D2D_LINK, Reg.D2D_HUB_LINK, if_true, Bool.false_eq_true, if_false]; omega

theorem linkReg_hub_ne_hub (h : j ≠ i) : linkReg true j ≠ linkReg true i := by
  simp only [linkReg, Reg.D2D_HUB_LINK, if_true]; omega

theorem modulesUp_congr {d e : Dev} (h : d.links = e.links) (i : Nat) : d.modulesUp i = e.modulesUp i := by rw [Dev.modulesUp, Dev.modulesUp, h]

theorem linkReg_ne_dead (hub : Bool) (hi : i < 16) : linkReg hub i ≠ Reg.CCH_DEAD := by
  simp only [linkReg, Reg.D2D_LINK, Reg.D2D_HUB_LINK, Reg.CCH_DEAD]; split <;> omega

variable (d : Dev)

@[simp] theorem setLink_links (hi lo v : Nat) : (d.setLink i hi lo v).links = d.links := by rw [Dev.setLink, setRegF_links, setRegF_links]

theorem deadAgents_setLink (hi lo v : Nat) (h : i < 16) : (d.setLink i hi lo v).deadAgents = d.deadAgents := by
  rw [Dev.setLink, deadAgents_setRegF (linkReg_ne_dead _ h), deadAgents_setRegF (linkReg_ne_dead _ h)]

theorem setLink_other {hi lo v : Nat} (h : j ≠ i) (hi' : i < 16) (hj : j < 16) : (d.setLink j hi lo v).reg (linkReg true i) = d.reg (linkReg true i) := by
  rw [Dev.setLink, reg_setRegF_ne _ _ _ _ _ _ (linkReg_hub_ne_die hi' hj), reg_setRegF_ne _ _ _ _ _ _ (linkReg_hub_ne_hub h)]

theorem setLink_state {v : Nat} (hi : i < 16) (hv : v < 4) : (d.setLink i 1 0 v).regF (linkReg true i) 1 0 = v := by
  rw [Dev.setLink, regF_setRegF_other _ _ _ _ _ _ _ _ (linkReg_hub_ne_die hi hi), regF_setRegF_of_lt _ _ _ _ _ (by decide) (by decide) hv]

/-- The device after the link of one die has been set up (R391). -/
def Dev.linkStart (d : Dev) (i : Nat) : Dev :=
  if d.deadAgents.getLsbD i then d.setLink i 1 0 3
  else ((d.setLink i 17 16 (d.modulesUp i)).setLink i 15 8 0x20).setLink i 1 0 (if d.modulesUp i = 3 then 1 else 2)

/-- The state that a link trains to. -/
def Dev.trainedState (d : Dev) (i : Nat) : Nat := if d.deadAgents.getLsbD i then 3 else if d.modulesUp i = 3 then 1 else 2

theorem trainedState_linkStart (hj : j < 16) : (d.linkStart j).trainedState i = d.trainedState i := by
  have hd : (d.linkStart j).deadAgents = d.deadAgents := by
    unfold Dev.linkStart
    split <;> simp only [deadAgents_setLink _ _ _ _ hj]
  have hl : (d.linkStart j).links = d.links := by
    unfold Dev.linkStart
    split <;> simp only [setLink_links]
  unfold Dev.trainedState
  rw [hd, modulesUp_congr hl]

theorem regF_linkStart_other (h : j ≠ i) (hi : i < 16) (hj : j < 16) : (d.linkStart j).regF (linkReg true i) 1 0 = d.regF (linkReg true i) 1 0 := by
  unfold Dev.linkStart Dev.regF
  split <;> simp only [setLink_other _ h hi hj]

theorem regF_linkStart (hi : i < 16) : (d.linkStart i).regF (linkReg true i) 1 0 = d.trainedState i := by
  unfold Dev.linkStart Dev.trainedState
  split
  · exact setLink_state _ hi (by decide)
  · exact setLink_state _ hi (by split <;> decide)

theorem regF_linksStart (hi : i < 16) (js : List Nat) (hn : js.Nodup) (hj : ∀ j ∈ js, j < 16) :
    ∀ d : Dev, (js.foldl Dev.linkStart d).regF (linkReg true i) 1 0 = if i ∈ js then d.trainedState i else d.regF (linkReg true i) 1 0 := by
  induction js with
  | nil => intro d; rw [if_neg List.not_mem_nil]; rfl
  | cons j js ih =>
    intro d
    obtain ⟨hjn, hn⟩ := List.nodup_cons.1 hn
    rw [List.foldl_cons, ih hn fun j h => hj j (List.mem_cons_of_mem _ h), trainedState_linkStart _ (hj j (List.mem_cons_self ..))]
    by_cases h : j = i
    · subst h
      rw [if_neg hjn, if_pos (List.mem_cons_self ..), regF_linkStart _ hi]
    · rw [regF_linkStart_other _ h hi (hj j (List.mem_cons_self ..))]
      simp only [List.mem_cons, show ¬ i = j from fun he => h he.symm, false_or]

end

section
variable {s : State}

/-- What the training found, taken in (R391). -/
def Dev.linkResults (d : Dev) (results : List LinkTrain) : Dev :=
  results.foldl (fun d r =>
    if d.deadAgents.getLsbD r.die.val then d
    else
      let d := r.lanes.foldl (fun d (x : Bool × Fin 2 × Fin 70) => d.laneRepair x.1 r.die.val x.2.1.val x.2.2.val) d
      r.dead.foldl (fun d m => d.moduleRetire r.die.val m.val) d) d

/-- The training where it is due: the links set up, the results taken in, the links trained. -/
theorem exec_dieLinkTraining (trains : List LinkTrain) (hk : s.dev.boot.kind ≠ 0) (hl : s.dev.boot.links = false) (hs : s.dev.safe = false) :
    exec (.dieLinkTraining trains) s = .next (s.withDev
      (let d := ((List.range 16).foldl Dev.linkStart s.dev).linkResults trains
       { d with boot := { d.boot with links := true } })) := by
  show execDieLinkTraining trains s = _
  unfold execDieLinkTraining onDev
  simp only [hk, hl, hs, decide_false, Bool.or_self, Bool.false_eq_true, if_false]
  rfl

theorem completes_dieLinkTraining (trains : List LinkTrain) (hk : s.dev.boot.kind ≠ 0) (hl : s.dev.boot.links = false) (hs : s.dev.safe = false) :
    Completes (.dieLinkTraining trains) s fun t => t.boot.links = true :=
  completes_of_eq (exec_dieLinkTraining trains hk hl hs) rfl

theorem completes_dieLinkTraining_nil {i : Nat} (hi : i < 16) (hk : s.dev.boot.kind ≠ 0) (hl : s.dev.boot.links = false) (hs : s.dev.safe = false) :
    Completes (.dieLinkTraining []) s fun t => t.regF (linkReg true i) 1 0 = s.dev.trainedState i := by
  refine completes_of_eq (exec_dieLinkTraining [] hk hl hs) ?_
  have h := regF_linksStart hi _ List.nodup_range (fun j h => List.mem_range.1 h) s.dev
  rw [if_pos (List.mem_range.2 hi)] at h
  exact h

/-! ### Flits and lanes -/

section
variable {die : Fin 16} {hub : Bool} {module : Fin 2} {lane : Fin 70}

theorem completes_flitCorrected (hm : (s.dev.regF (linkReg true die.val) 17 16).testBit module.val = true)
    (hn : s.dev.lanesUsed hub die.val module.val < 4) (hd : s.dev.links.laneDue = []) :
    Completes (.flitCorrected die hub module lane) s fun t => t.reg (corrReg hub die.val) = satInc (s.dev.reg (corrReg hub die.val)) ∧
      t.reg (lastReg hub die.val) = BitVec.ofNat 32 (2 ^ 31 + module.val * 256 + lane.val) ∧ t.links.laneDue = [(hub, die.val, module.val, lane.val)] := by
  have hc : lastReg hub die.val ≠ corrReg hub die.val := by
    unfold lastReg corrReg Reg.D2D_HUB_LAST_LANE Reg.D2D_LAST_LANE Reg.D2D_HUB_CORRECTED Reg.D2D_CORRECTED; split <;> omega
  have hl : lastReg hub die.val ≠ repairReg hub die.val := by
    unfold lastReg repairReg Reg.D2D_HUB_LAST_LANE Reg.D2D_LAST_LANE Reg.D2D_HUB_REPAIR Reg.D2D_REPAIR; split <;> omega
  have hr : corrReg hub die.val ≠ repairReg hub die.val := by
    unfold corrReg repairReg Reg.D2D_HUB_CORRECTED Reg.D2D_CORRECTED Reg.D2D_HUB_REPAIR Reg.D2D_REPAIR; split <;> omega
  have hu : ((s.dev.count (corrReg hub die.val)).setReg (lastReg hub die.val) (BitVec.ofNat 32 (2 ^ 31 + module.val * 256 + lane.val))).lanesUsed hub
      die.val module.val = s.dev.lanesUsed hub die.val module.val := by
    unfold Dev.lanesUsed Dev.regF
    rw [reg_setReg_ne _ _ _ _ hl, reg_count_ne _ _ _ hr]
  have he : exec (.flitCorrected die hub module lane) s = .next (s.withDev
      (let d := (s.dev.count (corrReg hub die.val)).setReg (lastReg hub die.val) (BitVec.ofNat 32 (2 ^ 31 + module.val * 256 + lane.val))
       { d with links := { d.links with laneDue := [(hub, die.val, module.val, lane.val)] } })) := by
    show execFlitCorrected die hub module lane s = _
    unfold execFlitCorrected onDev
    simp only [hm, hu, Nat.not_le.2 hn, setReg_links, count_links, hd, Bool.not_true, Bool.false_eq_true, if_false, List.contains_nil, List.nil_append]
  refine completes_of_eq he ⟨?_, ?_, rfl⟩
  · have h : ((s.dev.count (corrReg hub die.val)).setReg (lastReg hub die.val) (BitVec.ofNat 32 (2 ^ 31 + module.val * 256 + lane.val))).reg
        (corrReg hub die.val) = satInc (s.dev.reg (corrReg hub die.val)) := by
      rw [reg_setReg_ne _ _ _ _ hc, Dev.count, reg_setReg, if_pos rfl]
    exact h
  · have h : ((s.dev.count (corrReg hub die.val)).setReg (lastReg hub die.val) (BitVec.ofNat 32 (2 ^ 31 + module.val * 256 + lane.val))).reg
        (lastReg hub die.val) = BitVec.ofNat 32 (2 ^ 31 + module.val * 256 + lane.val) := by rw [reg_setReg, if_pos rfl]
    exact h

theorem leaves_laneRepair {x : Bool × Nat × Nat × Nat}
    (hx : (s.dev.links.laneDue.find? fun (y : Bool × Nat × Nat × Nat) => y.1 == hub && y.2.1 == die.val && y.2.2.1 == module.val) = some x) :
    Leaves (.laneRepair die hub module) s
      (({ s.dev with links := { s.dev.links with laneDue := s.dev.links.laneDue.erase x } }).laneRepair hub die.val module.val x.2.2.2) := by
  apply leaves_of_eq
  show execLaneRepair die hub module s = _
  unfold execLaneRepair onDev
  simp only [hx]

end
end

/-! ### Guest ports -/

section
variable (d : Dev) (g : Nat)

/-- The result of a guest port's command. -/
def Dev.gstResult (d : Dev) (g : Nat) : Nat := d.regF (Reg.D2D_GST_STATUS g) 31 24

theorem gstState_gstSet {st : Nat} (r : Option Status) (h : st < 8) : (d.gstSet g st r).gstState g = st := by
  unfold Dev.gstState
  cases r with
  | none => exact regF_setRegF_of_lt _ _ _ _ _ (by decide) (by decide) h
  | some r =>
    show ((d.setRegF _ 2 0 st).setRegF _ 31 24 _).regF _ 2 0 = st
    rw [regF_setRegF_ne _ _ _ _ _ _ _ (by decide) (by decide) (.inr (by decide)), regF_setRegF_of_lt _ _ _ _ _ (by decide) (by decide) h]

theorem gstResult_gstSet (st : Nat) (r : Status) : (d.gstSet g st (some r)).gstResult g = r.code :=
  regF_setRegF_of_lt _ _ _ _ _ (by decide) (by decide) (statusCode_lt r)

theorem gstRate_gstSet (st : Nat) (r : Option Status) : (d.gstSet g st r).regF (Reg.D2D_GST_STATUS g) 23 16 = d.regF (Reg.D2D_GST_STATUS g) 23 16 := by
  cases r with
  | none => exact regF_setRegF_ne _ _ _ _ _ _ _ (by decide) (by decide) (.inl (by decide))
  | some r =>
    show ((d.setRegF _ 2 0 st).setRegF _ 31 24 _).regF _ 23 16 = _
    rw [regF_setRegF_ne _ _ _ _ _ _ _ (by decide) (by decide) (.inr (by decide)),
      regF_setRegF_ne _ _ _ _ _ _ _ (by decide) (by decide) (.inl (by decide))]

theorem reg_gstSet_ne {a : Nat} (st : Nat) (r : Option Status) (h : Reg.D2D_GST_STATUS g ≠ a) : (d.gstSet g st r).reg a = d.reg a := by
  cases r with
  | none => exact reg_setRegF_ne _ _ _ _ _ _ h
  | some r =>
    show ((d.setRegF _ 2 0 st).setRegF _ 31 24 _).reg _ = _
    rw [reg_setRegF_ne _ _ _ _ _ _ h, reg_setRegF_ne _ _ _ _ _ _ h]

theorem gstRate_gstWidth (rate modules : Nat) (x64 : Bool) : (d.gstWidth g rate modules x64).regF (Reg.D2D_GST_STATUS g) 23 16 = rate % 256 := by
  rw [Dev.gstWidth, regF_setRegF_ne _ _ _ _ _ _ _ (by decide) (by decide) (.inl (by decide)),
    regF_setRegF_ne _ _ _ _ _ _ _ (by decide) (by decide) (.inl (by decide)), regF_setRegF _ _ _ _ _ (by decide) (by decide)]
  rfl

theorem reg64_gstSet_id (st : Nat) (r : Option Status) : (d.gstSet g st r).reg64 (Reg.D2D_GST_ID_LO g) = d.reg64 (Reg.D2D_GST_ID_LO g) := by
  have h1 : Reg.D2D_GST_STATUS g ≠ Reg.D2D_GST_ID_LO g := by unfold Reg.D2D_GST_STATUS Reg.D2D_GST_ID_LO; omega
  have h2 : Reg.D2D_GST_STATUS g ≠ Reg.D2D_GST_ID_LO g + 4 := by unfold Reg.D2D_GST_STATUS Reg.D2D_GST_ID_LO; omega
  rw [Dev.reg64, Dev.reg64, reg_gstSet_ne _ _ _ _ h1, reg_gstSet_ne _ _ _ _ h2]

end

section
variable {d : Dev} {g cmd st : Nat} {f : Dev → Dev} (hs : d.safe = false) (hst : d.gstState g = st) (h6 : st ≠ 6)
include hs hst h6

/-- A command that the table of R396 admits in the port's state. -/
theorem gstCmd_of (ha : gstAdmit cmd st = 0) : d.gstCmd .distaff g cmd f = f d := by
  unfold Dev.gstCmd
  rw [if_neg (by simp), hst, hs, if_neg (by simp [h6]), ha]
  rfl

/-- A command that the table refuses there. -/
theorem gstCmd_of_refused (ha : gstAdmit cmd st = 1) :
    d.gstCmd .distaff g cmd f = (d.gstSet g st (some .state)).count (Reg.D2D_GST_STATE_REJECT g) := by
  unfold Dev.gstCmd
  rw [if_neg (by simp), hst, hs, if_neg (by simp [h6]), ha]
  rfl

end

section
variable {port : Fin 2} {s : State} {rate modules : Nat} {x64 : Bool} {id : BitVec 64}

theorem completes_discover (hs : s.dev.safe = false) (hst : s.dev.gstState port.val = 0 ∨ s.dev.gstState port.val = 5) :
    Completes (.discover .distaff port (.identity id)) s fun t =>
      t.gstState port.val = 2 ∧ t.gstResult port.val = 0 ∧ t.reg64 (Reg.D2D_GST_ID_LO port.val) = id.toNat := by
  refine completes_of (fun d => d.gstDo .distaff port.val 1 (.identity id)) rfl ?_
  have h : s.dev.gstDo .distaff port.val 1 (.identity id) =
      ((s.dev.gstWidth port.val 0 0 false).setReg64 (Reg.D2D_GST_ID_LO port.val) id.toNat).gstSet port.val 2 (some .ok) := by
    rcases hst with h | h <;> rw [Dev.gstDo, gstCmd_of hs h (by decide) (by decide)]
  rw [h]
  exact ⟨gstState_gstSet _ _ _ (by decide), gstResult_gstSet .., (reg64_gstSet_id ..).trans (reg64_setReg64 _ _ _ id.isLt)⟩

theorem completes_discover_active (hs : s.dev.safe = false) (hst : s.dev.gstState port.val = 4) :
    Completes (.discover .distaff port (.identity id)) s fun t => t.gstState port.val = 4 ∧ t.gstResult port.val = Status.state.code ∧
      t.reg (Reg.D2D_GST_STATE_REJECT port.val) = satInc (s.dev.reg (Reg.D2D_GST_STATE_REJECT port.val)) := by
  have hn : Reg.D2D_GST_STATUS port.val ≠ Reg.D2D_GST_STATE_REJECT port.val := by unfold Reg.D2D_GST_STATUS Reg.D2D_GST_STATE_REJECT; omega
  refine completes_of (fun d => d.gstDo .distaff port.val 1 (.identity id)) rfl ?_
  rw [Dev.gstDo, gstCmd_of_refused hs hst (by decide) (by decide)]
  refine ⟨?_, ?_, ?_⟩
  · rw [Dev.gstState, regF_count_other _ _ _ _ _ hn.symm]; exact gstState_gstSet _ _ _ (by decide)
  · rw [Dev.gstResult, regF_count_other _ _ _ _ _ hn.symm]; exact gstResult_gstSet ..
  · rw [Dev.count, reg_setReg, if_pos rfl, reg_gstSet_ne _ _ _ _ hn]

theorem gstTrain_shows (d : Dev) (g rate modules : Nat) (x64 : Bool) : (d.gstTrain g (.trained rate modules x64)).gstState g = 4 ∧
    (d.gstTrain g (.trained rate modules x64)).gstResult g = 0 ∧ (d.gstTrain g (.trained rate modules x64)).regF (Reg.D2D_GST_STATUS g) 23 16 = rate % 256 :=
  ⟨gstState_gstSet _ _ _ (by decide), gstResult_gstSet .., (gstRate_gstSet ..).trans (gstRate_gstWidth ..)⟩

theorem completes_guestAdmit (hs : s.dev.safe = false) (hst : s.dev.gstState port.val = 2) (ha : s.dev.guestAdmitted port.val = true) :
    Completes (.guestAdmit .distaff port (.trained rate modules x64)) s fun t =>
      t.gstState port.val = 4 ∧ t.gstResult port.val = 0 ∧ t.regF (Reg.D2D_GST_STATUS port.val) 23 16 = rate % 256 := by
  refine completes_of (fun d => d.gstDo .distaff port.val 2 (.trained rate modules x64)) rfl ?_
  rw [Dev.gstDo, gstCmd_of hs hst (by decide) (by decide), if_pos ha]
  exact gstTrain_shows ..

theorem completes_gstRetrain (hs : s.dev.safe = false) (hst : s.dev.gstState port.val = 4 ∨ s.dev.gstState port.val = 5) :
    Completes (.gstRetrain .distaff port (.trained rate modules x64)) s fun t => t.gstState port.val = 4 ∧ t.gstResult port.val = 0 := by
  refine completes_of (fun d => d.gstDo .distaff port.val 3 (.trained rate modules x64)) rfl ?_
  obtain ⟨h1, h2, -⟩ := gstTrain_shows s.dev port.val rate modules x64
  rcases hst with h | h <;> rw [Dev.gstDo, gstCmd_of hs h (by decide) (by decide)] <;> exact ⟨h1, h2⟩

theorem completes_gstDisable (hs : s.dev.safe = false) (hst : s.dev.gstState port.val = 2 ∨ s.dev.gstState port.val = 4 ∨ s.dev.gstState port.val = 5) :
    Completes (.gstDisable .distaff port .silent) s fun t =>
      t.gstState port.val = 0 ∧ t.gstResult port.val = 0 ∧ t.regF (Reg.D2D_GST_STATUS port.val) 23 16 = 0 := by
  refine completes_of (fun d => d.gstDo .distaff port.val 4 .silent) rfl ?_
  have h : s.dev.gstDo .distaff port.val 4 .silent = (s.dev.gstWidth port.val 0 0 false).gstSet port.val 0 (some .ok) := by
    rcases hst with h | h | h <;> rw [Dev.gstDo, gstCmd_of hs h (by decide) (by decide)]
  rw [h]
  exact ⟨gstState_gstSet _ _ _ (by decide), gstResult_gstSet .., (gstRate_gstSet ..).trans (gstRate_gstWidth ..)⟩

theorem completes_guestDiscoverTimeout (hs : s.dev.safe = false) (hst : s.dev.gstState port.val = 1) (hk : s.dev.boot.kind = 0) :
    Completes (.guestDiscoverTimeout port) s fun t => t.gstState port.val = 5 ∧ t.gstResult port.val = Status.timeout.code := by
  have he : exec (.guestDiscoverTimeout port) s = .next (s.withDev (s.dev.gstSet port.val 5 (some .timeout))) := by
    show execGuestDiscoverTimeout port s = _
    unfold execGuestDiscoverTimeout onDev
    simp only [hst, hs, Bool.not_false, and_self, if_true, show (s.dev.gstSet port.val 5 (some .timeout)).boot.kind = 0 from hk]
  exact completes_of_eq he ⟨gstState_gstSet _ _ _ (by decide), gstResult_gstSet ..⟩

/-- A link that fails in TRAINING or ACTIVE leaves the port in ERROR, isolated, and its guest dead. -/
theorem leaves_guestLinkFail (hs : s.dev.safe = false) (hst : s.dev.gstState port.val = 3 ∨ s.dev.gstState port.val = 4) :
    Leaves (.guestLinkFail port) s
      (let d := ((s.dev.gstWidth port.val 0 0 false).gstSet port.val 5 none).isolate (.guest port)
       if s.dev.deadAgents.getLsbD (18 + port.val) then d else d.agentDead (18 + port.val)) := by
  apply leaves_of_eq
  show execGuestLinkFail port s = _
  unfold execGuestLinkFail onDev
  have hd : (((s.dev.gstWidth port.val 0 0 false).gstSet port.val 5 none).isolate (.guest port)).deadAgents = s.dev.deadAgents := by
    have h1 : Reg.D2D_GST_STATUS port.val ≠ Reg.CCH_DEAD := by unfold Reg.D2D_GST_STATUS Reg.CCH_DEAD; omega
    simp only [Dev.isolate, Dev.gstSet, Dev.gstWidth, deadAgents_setRegF h1, deadAgents_setRegF (show Reg.MESH_HUB_ISO ≠ Reg.CCH_DEAD by decide)]
  rcases hst with h | h <;> simp only [h, hs, hd] <;> rfl

theorem completes_guestLinkFail_dead (hs : s.dev.safe = false) (hst : s.dev.gstState port.val = 3 ∨ s.dev.gstState port.val = 4)
    (hd : s.dev.deadAgents.getLsbD (18 + port.val) = true) :
    Completes (.guestLinkFail port) s fun t => t.gstState port.val = 5 ∧ t.regF Reg.MESH_HUB_ISO (16 + port.val) (16 + port.val) = 1 := by
  have hn : Reg.MESH_HUB_ISO ≠ Reg.D2D_GST_STATUS port.val := by unfold Reg.MESH_HUB_ISO Reg.D2D_GST_STATUS; omega
  refine (leaves_guestLinkFail hs hst).imp ?_
  rintro _ rfl
  dsimp only
  rw [if_pos hd]
  refine ⟨?_, ?_⟩
  · rw [Dev.gstState, Dev.isolate, regF_setRegF_other _ _ _ _ _ _ _ _ hn]; exact gstState_gstSet _ _ _ (by decide)
  · rw [Dev.isolate, regF_setRegF _ _ _ _ _ (by omega) le_rfl, Nat.add_sub_cancel_left, pow_one]

theorem completes_creditPacket {counts : List Nat} (hst : s.dev.gstState port.val = 4) :
    Completes (.creditPacket port counts) s fun t => ∀ i, i < 4 →
      (mget [] t.links.credit port.val).getD i 0 = (mget [] s.dev.links.credit port.val).getD i 0 + counts.getD i 0 % 256 := by
  have he : exec (.creditPacket port counts) s = .next (s.withDev { s.dev with links := { s.dev.links with credit := mset [] s.dev.links.credit port.val ((List.range 4).map fun i => (mget [] s.dev.links.credit port.val).getD i 0 + counts.getD i 0 % 256) } }) := by
    show execCreditPacket port counts s = _
    unfold execCreditPacket onDev
    simp only [hst, ne_eq, not_true_eq_false, if_false]
  refine completes_of_eq he fun i hi => ?_
  simp only [mget_mset, if_true, List.getD_eq_getElem?_getD, List.getElem?_map, List.getElem?_range hi, Option.map_some, Option.getD_some]

end

/-- Settles O37: links by their training and their lanes, guest ports by the command table of R396. -/
theorem dieLinksAndGuestPorts : Obligations.DieLinksAndGuestPorts := by
  refine ⟨fun die hub module lane x trains s => ⟨fun hk hl hs => ⟨completes_dieLinkTraining trains hk hl hs, completes_dieLinkTraining_nil die.isLt hk hl hs⟩,
      completes_flitCorrected, leaves_laneRepair, leaves_of (fun d => d.dieDead die.val) rfl rfl⟩, fun port id rate modules x64 counts s => ⟨fun hs => ?_, completes_creditPacket⟩⟩
  refine ⟨completes_discover hs, completes_discover_active hs, completes_guestAdmit hs, completes_gstRetrain hs, completes_gstDisable hs,
    completes_guestDiscoverTimeout hs, completes_guestLinkFail_dead hs, fun hst hd => ?_⟩
  have h := leaves_guestLinkFail hs hst
  rwa [if_neg (ne_true_of_eq_false hd)] at h

end Sys2Proof.Machine
end

section
/-! PROOFS. Memory controllers: scrub, repair, refresh, training and drift (13 R412 to R427). -/
namespace Sys2Proof.Machine

/-! ### The registers that an event of no skein changes -/

/-- A register that the audit log and the notices do not use. -/
def notAuditReg (a : Nat) : Prop :=
  Reg.DST_AUDIT_LOST ≠ a ∧ Reg.DST_AUDIT_SEQ_LO ≠ a ∧ Reg.DST_AUDIT_SEQ_LO + 4 ≠ a ∧ Reg.DST_EVENT_LOST ≠ a

section
variable {d : Dev} {a : Nat}

theorem reg_setReg64_ne (b v : Nat) (h : b ≠ a) (h4 : b + 4 ≠ a) : (d.setReg64 b v).reg a = d.reg a := by
  rw [Dev.setReg64, reg_setReg_ne _ _ _ _ h4, reg_setReg_ne _ _ _ _ h]

theorem reg_updDst (f : Distaff → Distaff) : (d.updDst f).reg a = d.reg a := rfl

theorem reg_emit (o : Out) : (d.emit o).reg a = d.reg a := rfl

theorem reg_audit (kind role index transport skein status cmd : Nat) (body : List Byte) (h : notAuditReg a) :
    (d.audit kind role index transport skein status cmd body).reg a = d.reg a := by
  obtain ⟨h1, h2, h3, -⟩ := h
  unfold Dev.audit
  dsimp only
  rw [reg_setReg64_ne _ _ h2 h3, reg_updDst]
  split
  · exact reg_count_ne _ _ _ h1
  · rfl

theorem reg_announce (r : Option AuditRec) (h : notAuditReg a) : (d.announce r).reg a = d.reg a := by
  obtain ⟨-, -, -, h4⟩ := h
  unfold Dev.announce
  dsimp only
  split
  · split
    · rw [reg_emit, reg_updDst, reg_count_ne _ _ _ h4]
    · rw [reg_updDst, reg_count_ne _ _ _ h4]
  · split <;> rfl

/-- An event that concerns no skein goes to the audit log and to the notices alone. -/
theorem record_of_no_skein (e : Event) (h : e.skeins = []) : ∃ body r, d.record e =
    (((d.updDst fun x => { x with rseq := (d.dst.rseq + 1) % 2 ^ 32 }).audit 2 5 0xFF 0 0xFF 0 e.code body).announce r) := by
  unfold Dev.record Dev.recordAs
  simp only [h, List.foldl_nil, List.headD_nil]
  exact ⟨_, _, rfl⟩

theorem reg_record_of_no_skein (e : Event) (h : e.skeins = []) (ha : notAuditReg a) : (d.record e).reg a = d.reg a := by
  obtain ⟨body, r, he⟩ := record_of_no_skein (d := d) e h
  rw [he, reg_announce _ ha, reg_audit _ _ _ _ _ _ _ _ ha]
  rfl

end

@[simp] theorem audit_dram (d : Dev) (kind role index transport skein status cmd : Nat) (body : List Byte) :
    (d.audit kind role index transport skein status cmd body).dram = d.dram := by
  unfold Dev.audit; dsimp only; split <;> simp

@[simp] theorem announce_dram (d : Dev) (r : Option AuditRec) : (d.announce r).dram = d.dram := by
  unfold Dev.announce; dsimp only; split <;> split <;> simp

theorem dram_record_of_no_skein (d : Dev) (e : Event) (h : e.skeins = []) : (d.record e).dram = d.dram := by
  obtain ⟨body, r, he⟩ := record_of_no_skein (d := d) e h
  rw [he, announce_dram, audit_dram]
  rfl

theorem reg_budgetLow {d : Dev} {a : Nat} (site kind pct : Nat) (ha : notAuditReg a) : (d.budgetLow site kind pct).reg a = d.reg a := by
  unfold Dev.budgetLow
  split
  · rfl
  · exact reg_record_of_no_skein _ rfl ha

@[simp] theorem budgetLow_dram (d : Dev) (site kind pct : Nat) : (d.budgetLow site kind pct).dram = d.dram := by
  unfold Dev.budgetLow
  split
  · rfl
  · exact dram_record_of_no_skein _ _ rfl

theorem reg_useBudget {d : Dev} {a : Nat} (k n : Nat) (ha : notAuditReg a) (hk : Reg.RL_BUDGET_USED k ≠ a) : (d.useBudget k n).reg a = d.reg a := by
  have hi : ∀ (c : Prop) [Decidable c] (e : Dev) (x : Nat), (if c then e.budgetLow 0x10 k x else e).reg a = e.reg a := fun c _ e x => by
    split
    · exact reg_budgetLow _ _ _ ha
    · rfl
  unfold Dev.useBudget
  dsimp only
  rw [List.foldl_cons, List.foldl_cons, List.foldl_cons, List.foldl_nil, hi, hi, hi, Dev.countN, reg_setReg_ne _ _ _ _ hk]

@[simp] theorem useBudget_dram (d : Dev) (k n : Nat) : (d.useBudget k n).dram = d.dram := by
  have hi : ∀ (c : Prop) [Decidable c] (e : Dev) (x : Nat), (if c then e.budgetLow 0x10 k x else e).dram = e.dram := fun c _ e x => by
    split
    · exact budgetLow_dram ..
    · rfl
  unfold Dev.useBudget
  dsimp only
  rw [List.foldl_cons, List.foldl_cons, List.foldl_cons, List.foldl_nil, hi, hi, hi, countN_dram]

/-! ### Scrub, refresh and repair in RUN -/

theorem ch_congr {d e : Dev} (h : d.dram = e.dram) (m : Nat) : d.ch m = e.ch m := by rw [Dev.ch, Dev.ch, h]

theorem updCh_updCh (d : Dev) (m : Nat) (f g : DramCh → DramCh) : (d.updCh m f).updCh m g = d.updCh m fun c => g (f c) := by
  simp only [Dev.updCh, mupd, mget_mset, if_true, mset_mset]

/-- What a scrubbed line's code says is acted on (R410, R411). -/
def Dev.scrubbed (d : Dev) (m line : Nat) : EccOutcome → Dev
  | .clean => d
  | .corrected dev => d.eccCorrected m line dev.val
  | .uncorrectable => d.eccUncorrectable m line
  | .poisonCode => d

section
variable {mc : Fin 16} {s : State}

section
variable (hr : s.dev.mcState mc.val = 2)
include hr

theorem completes_scrubRead (decode : EccOutcome) (hl : s.dev.chLines mc.val ≠ 0) :
    Completes (.scrubRead mc decode) s fun t =>
      let next := ((s.dev.ch mc.val).scrub % s.dev.chLines mc.val + 1) % s.dev.chLines mc.val
      (t.ch mc.val).scrub = next ∧ t.regF (Reg.MC_SCRUB mc.val) 7 0 = next * 256 / s.dev.chLines mc.val := by
  have he : exec (.scrubRead mc decode) s = .next (s.withDev
      (let next := ((s.dev.ch mc.val).scrub % s.dev.chLines mc.val + 1) % s.dev.chLines mc.val
       ((s.dev.scrubbed mc.val ((s.dev.ch mc.val).scrub % s.dev.chLines mc.val) decode).updCh mc.val fun c => { c with scrub := next }).setRegF
         (Reg.MC_SCRUB mc.val) 7 0 (next * 256 / s.dev.chLines mc.val))) := by
    show execScrubRead mc decode s = _
    unfold execScrubRead onDev
    simp only [hr, hl, ne_eq, not_true_eq_false, or_self, if_false]
    rfl
  have hn : ((s.dev.ch mc.val).scrub % s.dev.chLines mc.val + 1) % s.dev.chLines mc.val < s.dev.chLines mc.val := Nat.mod_lt _ (Nat.pos_of_ne_zero hl)
  refine completes_of_eq he ⟨?_, regF_setRegF_of_lt _ _ _ _ _ (by decide) (by decide) ?_⟩
  · rw [ch_congr (setRegF_dram ..), ch_updCh, if_pos rfl]
  · rw [Nat.div_lt_iff_lt_mul (Nat.pos_of_ne_zero hl)]
    omega

theorem completes_refreshRank (sub : Fin 2) (rank : Fin 4) :
    Completes (.refreshRank mc sub rank) s fun t => mget 0 (t.ch mc.val).refreshed (sub.val * 4 + rank.val) = s.dev.now := by
  have he : exec (.refreshRank mc sub rank) s =
      .next (s.withDev (s.dev.updCh mc.val fun c => { c with refreshed := mset 0 c.refreshed (sub.val * 4 + rank.val) s.dev.now })) := by
    show execRefreshRank mc sub rank s = _
    unfold execRefreshRank onDev
    simp only [hr, ne_eq, not_true_eq_false, if_false]
  refine completes_of_eq he ?_
  rw [ch_updCh, if_pos rfl, mget_mset, if_pos rfl]

theorem completes_neighbourRefresh (row : RowAddr) :
    Completes (.neighbourRefresh mc row) s fun t => t.reg (Reg.MC_NREF_COUNT mc.val) = satInc (s.dev.reg (Reg.MC_NREF_COUNT mc.val)) := by
  refine completes_of (fun d => if d.mcState mc.val ≠ 2 then d else d.count (Reg.MC_NREF_COUNT mc.val)) rfl ?_
  rw [if_neg (by rw [hr]; decide), Dev.count, reg_setReg, if_pos rfl]

/-- A reported row that is neither repaired nor deferred is one or the other, by what its bank group has left. -/
theorem leaves_spprRepair {row : RowAddr} {e : RowAddr × Nat × Nat}
    (he : (s.dev.ch mc.val).ce.find? (fun (e : RowAddr × Nat × Nat) => e.1 == row) = some e) (hm : s.dev.marked mc.val row ≠ row.dev.val)
    (hs : (s.dev.ch mc.val).soft.contains row = false) (hd : (s.dev.ch mc.val).deferred.contains row = false) :
    Leaves (.spprRepair mc row) s
      (let m := mc.val
       let rest (c : DramCh) := c.ce.filter fun (e : RowAddr × Nat × Nat) => e.1 != row
       let pa := ((s.dev.paOf m e.2.2).getD 0) / 64 * 64
       if ((s.dev.ch m).soft.filter (sameGroup row)).length < (s.dev.ch m).softRes then
         (((s.dev.updCh m fun c => { c with ce := rest c, soft := c.soft ++ [row] }).pprAdd m 24).useBudget 8 1).record
           ⟨0x0A, false, .none, 0x10, none, m, (rowLastLo row 0).toNat, pa, s.dev.skeinsOfMc m⟩
       else ((s.dev.updCh m fun c => { c with ce := rest c, deferred := c.deferred ++ [row] }).pprAdd m 8).record
         ⟨0x0B, false, .fbAtNotice, 0x10, none, m, (rowLastLo row 0).toNat, pa, s.dev.skeinsOfMc m⟩) := by
  apply leaves_of_eq
  show execSpprRepair mc row s = _
  unfold execSpprRepair onDev
  simp only [he, hr, hm, hs, hd, ne_eq, not_true_eq_false, or_self, if_false, Bool.or_self, Bool.false_eq_true, updCh_updCh]

end

theorem completes_spdTemperatureSample (dimm : Fin 2) (temp : Int) :
    Completes (.spdTemperatureSample mc dimm temp) s fun t => mget false (t.ch mc.val).fast dimm.val = decide (85 < temp) := by
  refine completes_of (fun d => d.updCh mc.val fun c => { c with fast := mset false c.fast dimm.val (decide (85 < temp)) }) rfl ?_
  rw [ch_updCh, if_pos rfl, mget_mset, if_pos rfl]

/-! ### Repairs at a start -/

/-- The device at a start whose repairs of the last run are cleared. -/
def Dev.pprCleared (d : Dev) (m : Nat) : Dev :=
  ((d.setRegF (Reg.MC_PPR m) 31 16 0).setRegF (Reg.MC_PPR m) 15 8 0).updCh m fun c => { c with soft := [], deferred := [] }

theorem leaves_hpprRepair (hk : s.dev.boot.kind ≠ 0) (hi : s.dev.boot.image = false) (hs : s.dev.safe = false) :
    Leaves (.hpprRepair mc) s (((s.dev.ch mc.val).soft ++ (s.dev.ch mc.val).deferred).foldl (fun d r => d.hardRepair mc.val r) (s.dev.pprCleared mc.val)) := by
  apply leaves_of_eq
  show execHpprRepair mc s = _
  unfold execHpprRepair onDev
  simp only [hk, hi, hs, decide_false, Bool.or_self, Bool.false_eq_true, if_false]
  rfl

theorem ch_pprCleared (d : Dev) (m : Nat) : (d.pprCleared m).ch m = { d.ch m with soft := [], deferred := [] } := by
  rw [Dev.pprCleared, ch_updCh, if_pos rfl, ch_congr ((setRegF_dram ..).trans (setRegF_dram ..))]

/-- A part of a field that is cleared. -/
theorem field_putField_zero {w : Nat} (x : BitVec w) (hi lo hi' lo' : Nat) (hh : hi < w) (hl : lo ≤ hi) (h1 : lo ≤ lo') (h2 : hi' ≤ hi) :
    field (putField x hi lo 0) hi' lo' = 0 := by
  apply Nat.eq_of_testBit_eq
  intro i
  rw [testBit_field, Nat.zero_testBit]
  by_cases h : i < hi' + 1 - lo'
  · rw [getLsbD_putField _ _ _ _ _ hh hl, if_pos (by omega), Nat.zero_testBit, Bool.and_false]
  · simp [h]

theorem regF_pprCleared (d : Dev) (m : Nat) : (d.pprCleared m).regF (Reg.MC_PPR m) 23 16 = 0 := by
  rw [Dev.pprCleared, regF_congr (updCh_regs ..), regF_setRegF_ne _ _ _ _ _ _ _ (by decide) (by decide) (.inl (by decide)), Dev.regF, Dev.setRegF,
    reg_setReg, if_pos rfl]
  exact field_putField_zero _ _ _ _ _ (by decide) (by decide) (by decide) (by decide)

theorem hardRepair_of_left {d : Dev} {m : Nat} {r : RowAddr} (h : mget 0 (d.ch m).hardUsed (hardKey r) < (d.ch m).hardRes) :
    d.hardRepair m r = ((d.updCh m fun c => { c with hardUsed := mupd 0 c.hardUsed (hardKey r) fun n => n + 1 }).pprAdd m 16).useBudget 9 1 := by
  rw [Dev.hardRepair, if_pos h]

theorem completes_hpprRepair_one {row : RowAddr} (hk : s.dev.boot.kind ≠ 0) (hi : s.dev.boot.image = false) (hs : s.dev.safe = false)
    (hr : (s.dev.ch mc.val).soft ++ (s.dev.ch mc.val).deferred = [row])
    (hu : mget 0 (s.dev.ch mc.val).hardUsed (hardKey row) < (s.dev.ch mc.val).hardRes) :
    Completes (.hpprRepair mc) s fun t => t.regF (Reg.MC_PPR mc.val) 23 16 = 1 ∧ (t.ch mc.val).soft = [] ∧ (t.ch mc.val).deferred = [] ∧
      mget 0 (t.ch mc.val).hardUsed (hardKey row) = mget 0 (s.dev.ch mc.val).hardUsed (hardKey row) + 1 := by
  refine (leaves_hpprRepair hk hi hs).imp ?_
  rintro _ rfl
  have hc := ch_pprCleared s.dev mc.val
  have hn : notAuditReg (Reg.MC_PPR mc.val) := by
    refine ⟨?_, ?_, ?_, ?_⟩ <;> simp only [Reg.DST_AUDIT_LOST, Reg.DST_AUDIT_SEQ_LO, Reg.DST_EVENT_LOST, Reg.MC_PPR] <;> omega
  have hb : Reg.RL_BUDGET_USED 9 ≠ Reg.MC_PPR mc.val := by simp only [Reg.RL_BUDGET_USED, Reg.MC_PPR]; omega
  rw [hr, List.foldl_cons, List.foldl_nil, hardRepair_of_left (by rw [hc]; exact hu)]
  refine ⟨?_, ?_⟩
  · have h0 : ((s.dev.pprCleared mc.val).updCh mc.val fun c => { c with hardUsed := mupd 0 c.hardUsed (hardKey row) fun n => n + 1 }).regF
        (Reg.MC_PPR mc.val) 23 16 = 0 := (regF_congr (updCh_regs ..) ..).trans (regF_pprCleared ..)
    rw [Dev.regF, reg_useBudget _ _ hn hb, ← Dev.regF, Dev.pprAdd, h0]
    exact regF_setRegF_of_lt _ _ _ _ _ (by decide) (by decide) (by decide)
  · rw [ch_congr (useBudget_dram ..), Dev.pprAdd, ch_congr (setRegF_dram ..), ch_updCh, if_pos rfl, hc]
    exact ⟨rfl, rfl, by simp [mupd]⟩

end

end Sys2Proof.Machine
end

section
/-! PROOFS. The delays of memory controllers and the training of DRAM (13 R421 to R427, 17 R546). -/
namespace Sys2Proof.Machine

/-! ### Delays that go live -/

theorem putField_putField {w : Nat} (x : BitVec w) (hi lo v v' : Nat) (hh : hi < w) (hl : lo ≤ hi) :
    putField (putField x hi lo v) hi lo v' = putField x hi lo v' := by
  apply BitVec.eq_of_getLsbD_eq
  intro i hi'
  rw [getLsbD_putField _ _ _ _ _ hh hl, getLsbD_putField _ _ _ _ _ hh hl, getLsbD_putField _ _ _ _ _ hh hl]
  split <;> rfl

/-- NEXT goes live once: a second time changes nothing. -/
theorem delayLive_delayLive (off : Nat) (x : Reg32) : delayLive off (delayLive off x) = delayLive off x := by
  unfold delayLive
  split
  · rw [field_putField_ne _ _ _ _ _ _ (by decide) (by decide) (.inr (by decide)), putField_putField _ _ _ _ _ (by decide) (by decide)]
  · rw [field_putField_ne _ _ _ _ _ _ (by decide) (by decide) (.inr (by decide)), putField_putField _ _ _ _ _ (by decide) (by decide)]

/-- A delay register of the chosen subchannel goes live, another stands. -/
def Dev.goLiveReg (m : Nat) (sub : Option Nat) (d : Dev) (a : Nat) : Dev :=
  if sub = none ∨ sub = some (delaySub (a - Reg.MC_ID m)) then d.setReg a (delayLive (a - Reg.MC_ID m) (d.reg a)) else d

theorem goLive_eq (d : Dev) (m : Nat) (sub : Option Nat) : d.goLive m sub = (d.delayRegs m).foldl (Dev.goLiveReg m sub) d := rfl

section
variable {m sub a : Nat}

theorem reg_goLiveReg (d : Dev) (b : Nat) (h : delaySub (a - Reg.MC_ID m) = sub) :
    (Dev.goLiveReg m (some sub) d b).reg a = if b = a then delayLive (a - Reg.MC_ID m) (d.reg a) else d.reg a := by
  unfold Dev.goLiveReg
  split
  · rw [reg_setReg]
    split
    · next hb => subst hb; rfl
    · rfl
  · next hn =>
    rw [if_neg]
    rintro rfl
    exact hn (.inr (congrArg some h.symm))

theorem reg_goLiveRegs (h : delaySub (a - Reg.MC_ID m) = sub) (bs : List Nat) : ∀ d : Dev,
    (bs.foldl (Dev.goLiveReg m (some sub)) d).reg a = if a ∈ bs then delayLive (a - Reg.MC_ID m) (d.reg a) else d.reg a := by
  induction bs with
  | nil => intro d; rw [if_neg List.not_mem_nil]; rfl
  | cons b bs ih =>
    intro d
    rw [List.foldl_cons, ih, reg_goLiveReg _ _ h]
    by_cases hb : b = a
    · subst hb
      simp only [if_true, List.mem_cons, true_or, delayLive_delayLive, ite_self]
    · simp only [if_neg hb, List.mem_cons, show ¬ a = b from fun he => hb he.symm, false_or]

@[simp] theorem goLiveReg_dram (m : Nat) (sub : Option Nat) (d : Dev) (b : Nat) : (Dev.goLiveReg m sub d b).dram = d.dram := by
  unfold Dev.goLiveReg
  split
  · exact setReg_dram ..
  · rfl

@[simp] theorem goLiveReg_now (m : Nat) (sub : Option Nat) (d : Dev) (b : Nat) : (Dev.goLiveReg m sub d b).now = d.now := by
  unfold Dev.goLiveReg
  split
  · exact setReg_now ..
  · rfl

@[simp] theorem goLive_dram (d : Dev) (m : Nat) (sub : Option Nat) : (d.goLive m sub).dram = d.dram := by
  suffices h : ∀ (bs : List Nat) (d : Dev), (bs.foldl (Dev.goLiveReg m sub) d).dram = d.dram from h _ d
  intro bs
  induction bs with
  | nil => exact fun _ => rfl
  | cons b bs ih => intro d; rw [List.foldl_cons, ih, goLiveReg_dram]

@[simp] theorem goLive_now (d : Dev) (m : Nat) (sub : Option Nat) : (d.goLive m sub).now = d.now := by
  suffices h : ∀ (bs : List Nat) (d : Dev), (bs.foldl (Dev.goLiveReg m sub) d).now = d.now from h _ d
  intro bs
  induction bs with
  | nil => exact fun _ => rfl
  | cons b bs ih => intro d; rw [List.foldl_cons, ih, goLiveReg_now]

end

/-! ### The window of a subchannel -/

/-- A subchannel's ranks refreshed in its window. -/
def DramCh.windowed (sub now : Nat) (c : DramCh) : DramCh :=
  { c with applied := mset false c.applied sub true, refreshed := (List.range 4).foldl (fun r k => mset 0 r (sub * 4 + k) now) c.refreshed }

theorem refreshed_windowed (sub now : Nat) (c : DramCh) {k : Nat} (hk : k < 4) : mget 0 (c.windowed sub now).refreshed (sub * 4 + k) = now := by
  have h : ∀ x : List (Nat × Nat), mget 0 ((List.range 4).foldl (fun r k => mset 0 r (sub * 4 + k) now) x) (sub * 4 + k) = now := by
    intro x
    simp only [List.range, List.range.loop, List.foldl_cons, List.foldl_nil, mget_mset]
    interval_cases k <;> simp
  exact h _

section
variable {mc : Fin 16} {s : State}

/-- The device in whose window a subchannel's delays have gone live. -/
def Dev.windowOf (d : Dev) (m sub : Nat) : Dev := (d.goLive m (some sub)).updCh m (DramCh.windowed sub d.now)

theorem leaves_applyWindow {sub : Fin 2} (hr : s.dev.mcState mc.val = 2) (hp : s.dev.regF (Reg.MC_TRAIN_STATUS mc.val) 0 0 = 1)
    (ha : mget false (s.dev.ch mc.val).applied sub.val = false) :
    Leaves (.applyWindow mc sub) s
      (let d := s.dev.windowOf mc.val sub.val
       if mget false (d.ch mc.val).applied 0 && mget false (d.ch mc.val).applied 1 then
         (d.updCh mc.val fun c => { c with applied := [] }).setRegF (Reg.MC_TRAIN_STATUS mc.val) 0 0 0
       else d) := by
  apply leaves_of_eq
  show execApplyWindow mc sub s = _
  unfold execApplyWindow onDev
  simp only [hr, hp, ha, bne_self_eq_false, Bool.or_self, Bool.false_eq_true, if_false, show decide (1 = 0) = false from rfl]
  rfl

theorem completes_applyWindow {sub : Fin 2} {a : Nat} (hr : s.dev.mcState mc.val = 2) (hp : s.dev.regF (Reg.MC_TRAIN_STATUS mc.val) 0 0 = 1)
    (ha : mget false (s.dev.ch mc.val).applied sub.val = false) :
    Completes (.applyWindow mc sub) s fun t => (∀ k, k < 4 → mget 0 (t.ch mc.val).refreshed (sub.val * 4 + k) = s.dev.now) ∧
      (a ∈ s.dev.delayRegs mc.val → delaySub (a - Reg.MC_ID mc.val) = sub.val → t.reg a = delayLive (a - Reg.MC_ID mc.val) (s.dev.reg a)) := by
  have hc : (s.dev.windowOf mc.val sub.val).ch mc.val = (s.dev.ch mc.val).windowed sub.val s.dev.now := by
    rw [Dev.windowOf, ch_updCh, if_pos rfl, ch_congr (goLive_dram ..)]
  have hf : ∀ k, k < 4 → mget 0 ((s.dev.windowOf mc.val sub.val).ch mc.val).refreshed (sub.val * 4 + k) = s.dev.now := fun k hk => by
    rw [hc, refreshed_windowed _ _ _ hk]
  have hl : a ∈ s.dev.delayRegs mc.val → delaySub (a - Reg.MC_ID mc.val) = sub.val →
      (s.dev.windowOf mc.val sub.val).reg a = delayLive (a - Reg.MC_ID mc.val) (s.dev.reg a) := fun hm hs => by
    rw [Dev.windowOf, reg_congr (updCh_regs ..), goLive_eq, reg_goLiveRegs hs, if_pos hm]
  have hn : a ∈ s.dev.delayRegs mc.val → Reg.MC_TRAIN_STATUS mc.val ≠ a := by
    rintro hm rfl
    have := (List.mem_filter.1 hm).2
    simp [delayOff, Reg.MC_TRAIN_STATUS, Reg.MC_ID] at this
    omega
  refine (leaves_applyWindow hr hp ha).imp ?_
  rintro _ rfl
  dsimp only
  split
  · refine ⟨fun k hk => ?_, fun hm hs => ?_⟩
    · rw [ch_congr (setRegF_dram ..), ch_updCh, if_pos rfl]; exact hf k hk
    · rw [reg_setRegF_ne _ _ _ _ _ _ (hn hm), reg_congr (updCh_regs ..)]; exact hl hm hs
  · exact ⟨hf, hl⟩

end

/-! ### APPLY, CHECK and the drift check -/

section
variable {d : Dev} {m : Nat}

theorem mcRefused_of_run (apply : Bool) (hr : d.mcState m = 2) (hp : d.regF (Reg.MC_TRAIN_STATUS m) 0 0 = 0) (hs : d.safe = false) :
    d.mcRefused m apply = none := by
  simp [Dev.mcRefused, hr, hp, hs]

theorem mcResult_ok (d : Dev) (m : Nat) : d.mcResult m .ok = d.setRegF (Reg.MC_STATUS m) 31 24 0 := by
  unfold Dev.mcResult; rw [if_neg (by decide)]; rfl

theorem trainStatus_ne_status (m : Nat) : Reg.MC_TRAIN_STATUS m ≠ Reg.MC_STATUS m := by unfold Reg.MC_TRAIN_STATUS Reg.MC_STATUS; omega

theorem mcState_mcResult_ok (d : Dev) (m : Nat) : (d.mcResult m .ok).mcState m = d.mcState m := by
  rw [mcResult_ok]; exact regF_setRegF_ne _ _ _ _ _ _ _ (by decide) (by decide) (.inr (by decide))

theorem result_mcResult_ok (d : Dev) (m : Nat) : (d.mcResult m .ok).regF (Reg.MC_STATUS m) 31 24 = 0 := by
  rw [mcResult_ok]; exact regF_setRegF_of_lt _ _ _ _ _ (by decide) (by decide) (by decide)

theorem pending_mcResult_ok (d : Dev) (m : Nat) : (d.mcResult m .ok).regF (Reg.MC_TRAIN_STATUS m) 0 0 = d.regF (Reg.MC_TRAIN_STATUS m) 0 0 := by
  rw [mcResult_ok]; exact regF_setRegF_other _ _ _ _ _ _ _ _ (trainStatus_ne_status m).symm

@[simp] theorem mcResult_dram (d : Dev) (m : Nat) (st : Status) : (d.mcResult m st).dram = d.dram := by
  unfold Dev.mcResult
  dsimp only
  split
  · exact (setRegF_dram ..).trans (count_dram ..)
  · exact setRegF_dram ..

section
variable (hr : d.mcState m = 2) (hp : d.regF (Reg.MC_TRAIN_STATUS m) 0 0 = 0) (hs : d.safe = false)
include hr hp hs

theorem mcCheck_of_run : d.mcCheck m = d.mcResult m .ok := by rw [Dev.mcCheck, mcRefused_of_run _ hr hp hs]

theorem mcApply_of_run :
    d.mcApply m = ((d.mcResult m .ok).updCh m fun c => { c with applied := [] }).setRegF (Reg.MC_TRAIN_STATUS m) 0 0 1 := by
  rw [Dev.mcApply, mcRefused_of_run _ hr hp hs]
  dsimp only
  rw [mcState_mcResult_ok, hr, if_neg (by decide)]

theorem mcApply_shows : (d.mcApply m).regF (Reg.MC_STATUS m) 31 24 = 0 ∧ (d.mcApply m).regF (Reg.MC_TRAIN_STATUS m) 0 0 = 1 ∧
    (d.mcApply m).ch m = { d.ch m with applied := [] } := by
  rw [mcApply_of_run hr hp hs]
  refine ⟨?_, regF_setRegF_of_lt _ _ _ _ _ (by decide) (by decide) (by decide), ?_⟩
  · rw [regF_setRegF_other _ _ _ _ _ _ _ _ (trainStatus_ne_status m), regF_congr (updCh_regs ..), result_mcResult_ok]
  · rw [ch_congr (setRegF_dram ..), ch_updCh, if_pos rfl, ch_congr (mcResult_dram ..)]

theorem mcCheck_shows : (d.mcCheck m).regF (Reg.MC_STATUS m) 31 24 = 0 ∧ (d.mcCheck m).mcState m = 2 ∧ (d.mcCheck m).dram = d.dram := by
  rw [mcCheck_of_run hr hp hs]
  exact ⟨result_mcResult_ok .., (mcState_mcResult_ok ..).trans hr, mcResult_dram ..⟩

end
end

/-- The device before APPLY in a drift check that found no drift to correct. -/
def Dev.driftShown (d : Dev) (m x : Nat) : Dev := ((d.updCh m fun c => { c with shed := false }).mcCheck m).setRegF (Reg.MC_TRAIN_STATUS m) 31 24 x

theorem driftDone_nil (d : Dev) (m : Nat) : ∃ x, d.driftDone m [] = (d.driftShown m x).mcApply m := ⟨_, rfl⟩

section
variable {mc : Fin 16} {s : State}

theorem completes_mcApply (hr : s.dev.mcState mc.val = 2) (hp : s.dev.regF (Reg.MC_TRAIN_STATUS mc.val) 0 0 = 0) (hs : s.dev.safe = false) :
    Completes (.mcApply .distaff mc) s fun t => t.regF (Reg.MC_TRAIN_STATUS mc.val) 0 0 = 1 ∧ (t.ch mc.val).applied = [] ∧
      (t.ch mc.val).ref = (s.dev.ch mc.val).ref := by
  obtain ⟨-, h1, h2⟩ := mcApply_shows hr hp hs
  exact completes_of (fun d => if Requester.distaff = .distaff then d.mcApply mc.val else d) rfl (by rw [if_pos rfl, h2]; exact ⟨h1, rfl, rfl⟩)

theorem completes_mcCheck (hr : s.dev.mcState mc.val = 2) (hp : s.dev.regF (Reg.MC_TRAIN_STATUS mc.val) 0 0 = 0) (hs : s.dev.safe = false) :
    Completes (.mcCheck .distaff mc) s fun t => t.regF (Reg.MC_STATUS mc.val) 31 24 = 0 ∧ t.mcState mc.val = 2 ∧ t.dram = s.dev.dram :=
  completes_of (fun d => if Requester.distaff = .distaff then d.mcCheck mc.val else d) rfl (by rw [if_pos rfl]; exact mcCheck_shows hr hp hs)

theorem completes_driftCheck_shed (drifts : List DriftSample) (h4 : 4 ≤ s.dev.shed) (hs : (s.dev.ch mc.val).shed = false) :
    Completes (.driftCheck mc drifts) s fun t => (t.ch mc.val).shed = true ∧ t.regs = s.dev.regs := by
  have he : exec (.driftCheck mc drifts) s = .next (s.withDev (s.dev.updCh mc.val fun c => { c with shed := true })) := by
    show execDriftCheck mc drifts s = _
    unfold execDriftCheck onDev
    simp only [h4, hs, Bool.not_false, and_self, if_true]
  refine completes_of_eq he ⟨?_, updCh_regs ..⟩
  rw [ch_updCh, if_pos rfl]

section
variable (hd : s.dev.shed < 4 ∨ (s.dev.ch mc.val).shed = true) (hr : s.dev.mcState mc.val = 2)
  (hp : s.dev.regF (Reg.MC_TRAIN_STATUS mc.val) 0 0 = 0) (hs : s.dev.safe = false)
include hd hr hp hs

theorem leaves_driftCheck (drifts : List DriftSample) : Leaves (.driftCheck mc drifts) s (s.dev.driftDone mc.val drifts) := by
  have hn : ¬ (4 ≤ s.dev.shed ∧ (!(s.dev.ch mc.val).shed) = true) := by
    rintro ⟨h4, hsh⟩
    rcases hd with h | h
    · omega
    · rw [h] at hsh; exact absurd hsh (by decide)
  apply leaves_of_eq
  show execDriftCheck mc drifts s = _
  unfold execDriftCheck onDev
  simp only [if_neg hn, mcRefused_of_run false hr hp hs]

theorem completes_driftCheck_nil : Completes (.driftCheck mc []) s fun t =>
    t.regF (Reg.MC_STATUS mc.val) 31 24 = 0 ∧ t.regF (Reg.MC_TRAIN_STATUS mc.val) 0 0 = 1 ∧ (t.ch mc.val).shed = false := by
  refine (leaves_driftCheck hd hr hp hs []).imp ?_
  rintro _ rfl
  obtain ⟨x, hx⟩ := driftDone_nil s.dev mc.val
  have hr0 : (s.dev.updCh mc.val fun c => { c with shed := false }).mcState mc.val = 2 := hr
  have hp0 : (s.dev.updCh mc.val fun c => { c with shed := false }).regF (Reg.MC_TRAIN_STATUS mc.val) 0 0 = 0 := hp
  have hs0 : (s.dev.updCh mc.val fun c => { c with shed := false }).safe = false := hs
  have he : s.dev.driftShown mc.val x =
      ((s.dev.updCh mc.val fun c => { c with shed := false }).mcResult mc.val .ok).setRegF (Reg.MC_TRAIN_STATUS mc.val) 31 24 x := by
    rw [Dev.driftShown, mcCheck_of_run hr0 hp0 hs0]
  have hr1 : (s.dev.driftShown mc.val x).mcState mc.val = 2 := by
    rw [he, Dev.mcState, regF_setRegF_other _ _ _ _ _ _ _ _ (trainStatus_ne_status _), ← Dev.mcState, mcState_mcResult_ok, hr0]
  have hp1 : (s.dev.driftShown mc.val x).regF (Reg.MC_TRAIN_STATUS mc.val) 0 0 = 0 := by
    rw [he, regF_setRegF_ne _ _ _ _ _ _ _ (by decide) (by decide) (.inr (by decide)), pending_mcResult_ok, hp0]
  have hs1 : (s.dev.driftShown mc.val x).safe = false := by
    rw [he, setRegF_safe, mcResult_ok, setRegF_safe, hs0]
  obtain ⟨h1, h2, h3⟩ := mcApply_shows hr1 hp1 hs1
  rw [hx, h3]
  refine ⟨h1, h2, ?_⟩
  rw [he, ch_congr (setRegF_dram ..), ch_congr (mcResult_dram ..), ch_updCh, if_pos rfl]

end
end

end Sys2Proof.Machine
end

section
/-! PROOFS. The training of DRAM (13 R421, 17 R546). -/
namespace Sys2Proof.Machine

/-! ### A channel that goes into service -/

/-- Nothing waits for the ports of the memory channels. -/
structure Dev.PortsFree (d : Dev) : Prop where
  held : ∀ m, m < 16 → (d.port (384 + m)).held = []
  waitHome : d.links.waitHome = []

/-- A channel is in service. -/
def Dev.channelRuns (d : Dev) (m : Nat) : Prop := (d.domOf (384 + m)).st = .run ∧ (d.port (384 + m)).st = .opened

theorem openPort_of_free {d : Dev} {k : Nat} (h : (d.port k).held = []) (hw : d.links.waitHome = []) : d.openPort k = d.setPort k ⟨.opened, []⟩ := by
  have hl : ({ (d.setPort k ⟨.opened, []⟩) with links := { d.links with waitHome := [] } } : Dev) = d.setPort k ⟨.opened, []⟩ := by
    have : ({ d.links with waitHome := [] } : Links) = d.links := by
      rw [← hw]
    rw [this]
    rfl
  unfold Dev.openPort Dev.hubPump
  rw [h]
  show _ = _
  simp only [List.filterMap_nil, List.nil_append, List.foldl_nil, setPort_links, hw]
  exact hl

/-- The registers and the domain of a channel in service. -/
def Dev.mcShown (d : Dev) (m : Nat) : Dev := (d.setRegF (Reg.MC_STATUS m) 2 0 2).setDom (384 + m) ⟨.run, false, .run, d.now, false, none⟩

theorem mcShown_ports (d : Dev) (m : Nat) : (d.mcShown m).ports = d.ports := by rw [Dev.mcShown, setDom_ports, setRegF_ports]
theorem mcShown_links (d : Dev) (m : Nat) : (d.mcShown m).links = d.links := by rw [Dev.mcShown, setDom_links, setRegF_links]

theorem port_congr {d e : Dev} (h : d.ports = e.ports) (k : Nat) : d.port k = e.port k := by rw [Dev.port, Dev.port, h]
theorem domOf_congr {d e : Dev} (h : d.dom = e.dom) (k : Nat) : d.domOf k = e.domOf k := by rw [Dev.domOf, Dev.domOf, h]

theorem mcRun_of_free {d : Dev} {m : Nat} (hm : m < 16) (h : d.PortsFree) : d.mcRun m = (d.mcShown m).setPort (384 + m) ⟨.opened, []⟩ := by
  have hp : ((d.mcShown m).port (384 + m)).held = [] := by rw [port_congr (mcShown_ports ..), h.held m hm]
  have hw : (d.mcShown m).links.waitHome = [] := by rw [mcShown_links, h.waitHome]
  exact openPort_of_free hp hw

theorem portsFree_mcRun {d : Dev} {m : Nat} (hm : m < 16) (h : d.PortsFree) : (d.mcRun m).PortsFree := by
  rw [mcRun_of_free hm h]
  refine ⟨fun k hk => ?_, ?_⟩
  · rw [port_setPort]
    split
    · rfl
    · rw [port_congr (mcShown_ports ..), h.held k hk]
  · rw [setPort_links, mcShown_links, h.waitHome]

theorem channelRuns_mcRun {d : Dev} {m k : Nat} (hm : m < 16) (h : d.PortsFree) (hk : k = m ∨ d.channelRuns k) : (d.mcRun m).channelRuns k := by
  have hd : ((d.mcShown m).setPort (384 + m) ⟨.opened, []⟩).domOf (384 + k) =
      if 384 + m = 384 + k then ⟨.run, false, .run, d.now, false, none⟩ else d.domOf (384 + k) := by
    rw [domOf_congr (setPort_dom ..), Dev.mcShown, domOf_setDom, domOf_congr (setRegF_dom ..)]
  rw [mcRun_of_free hm h]
  unfold Dev.channelRuns
  rw [hd, port_setPort, port_congr (mcShown_ports ..)]
  by_cases he : 384 + m = 384 + k
  · simp only [if_pos he, and_self]
  · rw [if_neg he, if_neg he]
    rcases hk with rfl | hk
    · exact absurd rfl he
    · exact hk

/-- What one channel's training leaves to the ports and domains of them all: nothing but its own going into service. -/
def KeepsPorts (f : Dev → Nat → Dev) : Prop := ∀ d m, (f d m).ports = d.ports ∧ (f d m).dom = d.dom ∧ (f d m).links = d.links

theorem portsFree_congr {d e : Dev} (hp : e.ports = d.ports) (hl : e.links = d.links) (h : d.PortsFree) : e.PortsFree :=
  ⟨fun m hm => by rw [port_congr hp, h.held m hm], by rw [hl, h.waitHome]⟩

theorem channelRuns_congr {d e : Dev} {m : Nat} (hp : e.ports = d.ports) (hd : e.dom = d.dom) (h : d.channelRuns m) : e.channelRuns m := by
  unfold Dev.channelRuns
  rw [port_congr hp, domOf_congr hd]
  exact h

theorem channelRuns_foldl {f : Dev → Nat → Dev} (hf : KeepsPorts f) (k : Nat) (ms : List Nat) (hm : ∀ m ∈ ms, m < 16) :
    ∀ d : Dev, d.PortsFree → k ∈ ms ∨ d.channelRuns k → (ms.foldl (fun d m => (f d m).mcRun m) d).channelRuns k := by
  induction ms with
  | nil => exact fun d _ hk => hk.resolve_left List.not_mem_nil
  | cons m ms ih =>
    intro d hd hk
    obtain ⟨hp, hdom, hl⟩ := hf d m
    have hfree := portsFree_congr hp hl hd
    have hm16 := hm m (List.mem_cons_self ..)
    refine ih (fun m h => hm m (List.mem_cons_of_mem _ h)) _ (portsFree_mcRun hm16 hfree) ?_
    by_cases hkm : k = m
    · exact .inr (channelRuns_mcRun hm16 hfree (.inl hkm))
    · refine hk.imp (fun h => (List.mem_cons.1 h).resolve_left hkm) fun h => ?_
      exact channelRuns_mcRun hm16 hfree (.inr (channelRuns_congr hp hdom h))

/-! ### A Thaw, and trainings that found every channel -/

theorem keepsPorts_fillOff : KeepsPorts Dev.fillOff := fun _ _ => ⟨rfl, rfl, rfl⟩

theorem keepsPorts_foldl {α : Type} {g : Dev → α → Dev} (hg : ∀ d x, (g d x).ports = d.ports ∧ (g d x).dom = d.dom ∧ (g d x).links = d.links)
    (xs : List α) : ∀ d, (xs.foldl g d).ports = d.ports ∧ (xs.foldl g d).dom = d.dom ∧ (xs.foldl g d).links = d.links := by
  induction xs with
  | nil => exact fun _ => ⟨rfl, rfl, rfl⟩
  | cons x xs ih =>
    intro d
    obtain ⟨h1, h2, h3⟩ := hg d x
    rw [List.foldl_cons, (ih _).1, (ih _).2.1, (ih _).2.2, h1, h2, h3]
    exact ⟨rfl, rfl, rfl⟩

theorem keepsPorts_setReg (d : Dev) (a : Nat) (v : Reg32) : (d.setReg a v).ports = d.ports ∧ (d.setReg a v).dom = d.dom ∧ (d.setReg a v).links = d.links :=
  ⟨setReg_ports .., setReg_dom .., setReg_links ..⟩

/-- One delay a training found. -/
def Dev.delayFound (m : Nat) (d : Dev) (x : BitVec 16 × BitVec 32) : Dev :=
  if (delayOff m (Reg.MC_ID m + x.1.toNat)).isSome then d.setReg (Reg.MC_ID m + x.1.toNat) (delayLive x.1.toNat x.2) else d

/-- The delays a training found. -/
def Dev.delaysFound (d : Dev) (m : Nat) (r : DramTrain) : Dev := r.delays.foldl (Dev.delayFound m) d

/-- The delays in force as the reference for drift. -/
def Dev.refKept (d : Dev) (m : Nat) : Dev :=
  d.updCh m fun c => { c with ref := (d.delayRegs m).foldl (fun t a => mset 0#32 t (a - Reg.MC_ID m) (d.reg a)) [] }

/-- The marks a training found. -/
def Dev.marksFound (d : Dev) (m : Nat) (r : DramTrain) : Dev :=
  r.marks.foldl (fun d (x : Fin 8 × Fin 10) => d.setRegF (Reg.MC_MARK m) (4 * x.1.val + 3) (4 * x.1.val) x.2.val) d

theorem trained_eq (d : Dev) (m : Nat) (r : DramTrain) : d.trained m r = ((d.delaysFound m r).refKept m).marksFound m r := rfl

theorem keepsPorts_delayFound (m : Nat) (d : Dev) (x : BitVec 16 × BitVec 32) :
    (Dev.delayFound m d x).ports = d.ports ∧ (Dev.delayFound m d x).dom = d.dom ∧ (Dev.delayFound m d x).links = d.links := by
  unfold Dev.delayFound
  split
  · exact keepsPorts_setReg ..
  · exact ⟨rfl, rfl, rfl⟩

theorem keepsPorts_delaysFound (d : Dev) (m : Nat) (r : DramTrain) :
    (d.delaysFound m r).ports = d.ports ∧ (d.delaysFound m r).dom = d.dom ∧ (d.delaysFound m r).links = d.links :=
  keepsPorts_foldl (keepsPorts_delayFound m) r.delays d

theorem keepsPorts_marksFound (d : Dev) (m : Nat) (r : DramTrain) :
    (d.marksFound m r).ports = d.ports ∧ (d.marksFound m r).dom = d.dom ∧ (d.marksFound m r).links = d.links :=
  keepsPorts_foldl (fun _ _ => ⟨setRegF_ports .., setRegF_dom .., setRegF_links ..⟩) r.marks d

theorem keepsPorts_refKept (d : Dev) (m : Nat) : (d.refKept m).ports = d.ports ∧ (d.refKept m).dom = d.dom ∧ (d.refKept m).links = d.links :=
  ⟨updCh_ports .., updCh_dom .., updCh_links ..⟩

theorem keepsPorts_trained (d : Dev) (m : Nat) (r : DramTrain) :
    (d.trained m r).ports = d.ports ∧ (d.trained m r).dom = d.dom ∧ (d.trained m r).links = d.links := by
  obtain ⟨h1, h2, h3⟩ := keepsPorts_delaysFound d m r
  obtain ⟨h4, h5, h6⟩ := keepsPorts_refKept (d.delaysFound m r) m
  obtain ⟨h7, h8, h9⟩ := keepsPorts_marksFound ((d.delaysFound m r).refKept m) m r
  rw [trained_eq]
  exact ⟨h7.trans (h4.trans h1), h8.trans (h5.trans h2), h9.trans (h6.trans h3)⟩

/-- The training of a channel from the results, nothing where they do not name it. -/
def Dev.trainFrom (results : List DramTrain) (d : Dev) (m : Nat) : Dev :=
  match results.find? fun r => r.mc.val == m && r.ok with
  | some r => d.trained m r
  | none => d

theorem keepsPorts_trainFrom (results : List DramTrain) : KeepsPorts (Dev.trainFrom results) := fun d m => by
  unfold Dev.trainFrom
  split
  · exact keepsPorts_trained ..
  · exact ⟨rfl, rfl, rfl⟩

/-- The device whose DRAM is ready. -/
def Dev.dramReady (d : Dev) : Dev := { d with boot := { d.boot with dram := true } }

theorem dramReady_ports (d : Dev) : d.dramReady.ports = d.ports := rfl
theorem dramReady_dom (d : Dev) : d.dramReady.dom = d.dom := rfl
theorem dramReady_dram (d : Dev) : d.dramReady.boot.dram = true := rfl

section
variable {results : List DramTrain} {s : State} (hb : s.dev.boot.dram = false) (hs : s.dev.safe = false)
include hb hs

theorem leaves_dramTraining_thaw (hk : s.dev.boot.kind = 3) (hi : s.dev.boot.image = true) :
    Leaves (.dramTraining results) s ((List.range 16).foldl (fun d m => (d.fillOff m).mcRun m)
      (s.dev.pwr.keepStore.foldl (fun d (e : Nat × Reg32) => d.setReg e.1 e.2) s.dev)).dramReady := by
  apply leaves_of_eq
  show execDramTraining results s = _
  unfold execDramTraining onDev
  simp only [hb, hs, hk, hi, Bool.or_self, Bool.not_true, Bool.and_false, Bool.false_eq_true, if_false, if_true, show decide (3 = 0) = false from rfl]
  rfl

theorem leaves_dramTraining_all (hk : s.dev.boot.kind = 1 ∨ s.dev.boot.kind = 2)
    (ho : ∀ m, m < 16 → (results.find? fun r => r.mc.val == m && r.ok).isSome) :
    Leaves (.dramTraining results) s ((List.range 16).foldl (fun d m => (d.trainFrom results m).mcRun m) s.dev).dramReady := by
  have hn : ((List.range 16).filter fun m => (results.find? fun r => r.mc.val == m && r.ok).isNone) = [] := by
    refine List.filter_eq_nil_iff.2 fun m hm => ?_
    rw [← Option.not_isSome, ho m (List.mem_range.1 hm)]
    decide
  have hf : ∀ (d : Dev) (m : Nat), m ∈ List.range 16 → (match results.find? fun r => r.mc.val == m && r.ok with
      | some r => (d.trained m r).mcRun m
      | none => d) = (d.trainFrom results m).mcRun m := fun d m hm => by
    obtain ⟨r, hr⟩ := Option.isSome_iff_exists.1 (ho m (List.mem_range.1 hm))
    unfold Dev.trainFrom
    rw [hr]
  apply leaves_of_eq
  show execDramTraining results s = _
  rw [← List.foldl_ext _ _ s.dev hf]
  unfold execDramTraining onDev
  rcases hk with hk | hk <;>
    simp only [hb, hs, hk, hn, Bool.or_self, Bool.false_and, Bool.false_eq_true, if_false, show decide (1 = 0) = false from rfl,
      show decide (2 = 0) = false from rfl, show (1 == 3) = false from rfl, show (2 == 3) = false from rfl, show ¬ 1 = 3 by decide, show ¬ 2 = 3 by decide,
      ne_eq, not_true_eq_false] <;> rfl

theorem leaves_dramTraining_none (hk : s.dev.boot.kind = 1 ∨ s.dev.boot.kind = 2) (ho : ∀ r ∈ results, r.ok = false) :
    Leaves (.dramTraining results) s (((List.range 16).foldl (fun d m => d.audit 2 5 0xFF 0 0xFF 0 0 (leBytes 1 m)) s.dev).enterSafe .boot) := by
  have hn : ((List.range 16).filter fun m => (results.find? fun r => r.mc.val == m && r.ok).isNone) = List.range 16 := by
    refine List.filter_eq_self.2 fun m _ => ?_
    rw [Option.isNone_iff_eq_none, List.find?_eq_none]
    intro r hr
    rw [ho r hr, Bool.and_false]
    decide
  apply leaves_of_eq
  show execDramTraining results s = _
  unfold execDramTraining onDev
  rcases hk with hk | hk <;>
    simp only [hb, hs, hk, hn, Bool.or_self, Bool.false_and, Bool.false_eq_true, if_false, show decide (1 = 0) = false from rfl,
      show decide (2 = 0) = false from rfl, show (1 == 3) = false from rfl, show (2 == 3) = false from rfl, show ¬ 1 = 3 by decide, show ¬ 2 = 3 by decide,
      if_pos (show List.range 16 ≠ [] by decide)]

theorem completes_dramTraining_thaw (hk : s.dev.boot.kind = 3) (hi : s.dev.boot.image = true) :
    Completes (.dramTraining results) s fun t => t.boot.dram = true :=
  (leaves_dramTraining_thaw hb hs hk hi).imp (by rintro _ rfl; exact dramReady_dram _)

theorem completes_dramTraining_all (hk : s.dev.boot.kind = 1 ∨ s.dev.boot.kind = 2)
    (ho : ∀ m, m < 16 → (results.find? fun r => r.mc.val == m && r.ok).isSome) : Completes (.dramTraining results) s fun t => t.boot.dram = true :=
  (leaves_dramTraining_all hb hs hk ho).imp (by rintro _ rfl; exact dramReady_dram _)

/-- Where nothing waits for the ports, the channels run after the training. -/
theorem channels_run_thaw (hk : s.dev.boot.kind = 3) (hi : s.dev.boot.image = true) (hf : s.dev.PortsFree) :
    Completes (.dramTraining results) s fun t => ∀ m, m < 16 → t.channelRuns m := by
  refine (leaves_dramTraining_thaw hb hs hk hi).imp ?_
  rintro _ rfl m hm
  obtain ⟨h1, -, h3⟩ := keepsPorts_foldl (g := fun d (e : Nat × Reg32) => d.setReg e.1 e.2) (fun d e => keepsPorts_setReg d e.1 e.2) s.dev.pwr.keepStore s.dev
  exact channelRuns_congr (dramReady_ports _) (dramReady_dom _) (channelRuns_foldl keepsPorts_fillOff m _ (fun k hk => List.mem_range.1 hk) _ (portsFree_congr h1 h3 hf)
    (.inl (List.mem_range.2 hm)))

theorem channels_run_all (hk : s.dev.boot.kind = 1 ∨ s.dev.boot.kind = 2)
    (ho : ∀ m, m < 16 → (results.find? fun r => r.mc.val == m && r.ok).isSome) (hf : s.dev.PortsFree) :
    Completes (.dramTraining results) s fun t => ∀ m, m < 16 → t.channelRuns m := by
  refine (leaves_dramTraining_all hb hs hk ho).imp ?_
  rintro _ rfl m hm
  exact channelRuns_congr (dramReady_ports _) (dramReady_dom _) (channelRuns_foldl (keepsPorts_trainFrom results) m _ (fun k hk => List.mem_range.1 hk) _ hf (.inl (List.mem_range.2 hm)))

end

/-- Settles O38: each command of a controller in the state that admits it, and the training by what it found. -/
theorem memoryControllersAndTraining : Obligations.MemoryControllersAndTraining := by
  refine ⟨fun mc row sub rank dimm temp e decode at_ drifts s => ⟨fun hr => ⟨completes_scrubRead hr decode, fun he hm hs hd => ⟨fun hl => ?_, fun hl => ?_⟩,
      completes_refreshRank hr sub rank, completes_neighbourRefresh hr row, completes_applyWindow hr,
      fun hp hs => ⟨completes_mcApply hr hp hs, completes_mcCheck hr hp hs⟩⟩,
    completes_spdTemperatureSample dimm temp, fun hk hi hs => ⟨leaves_hpprRepair hk hi hs, completes_hpprRepair_one hk hi hs⟩,
    completes_driftCheck_shed drifts, fun hd hr hp hs => ⟨leaves_driftCheck hd hr hp hs drifts, completes_driftCheck_nil hd hr hp hs⟩⟩,
    fun results s hb hs => ⟨fun hk hi => ⟨completes_dramTraining_thaw hb hs hk hi, fun hh hw => channels_run_thaw hb hs hk hi ⟨hh, hw⟩⟩,
      fun hk => ⟨fun ho => ⟨completes_dramTraining_all hb hs hk ho, fun hh hw => channels_run_all hb hs hk ho ⟨hh, hw⟩⟩,
        leaves_dramTraining_none hb hs hk⟩⟩⟩
  · have h := leaves_spprRepair hr he hm hs hd
    dsimp only at h
    rwa [if_pos hl] at h
  · have h := leaves_spprRepair hr he hm hs hd
    dsimp only at h
    rwa [if_neg (Nat.not_lt.2 hl)] at h

end Sys2Proof.Machine
end

section
/-! PROOFS. Distaff's answers to the commands that read (18 R574, R582, 16 R524, 18 R584). -/
namespace Sys2Proof.Machine

/-- What a command that passes its checks leaves: what its act leaves, answered OK. -/
theorem leaves_serveAs {i : Instr} {s : State} {who : Caller} {c : Cmd} {kind : Nat} {as_ : Option (Nat × Nat)} {sound : Bool} {may : Option Session → Bool}
    {arg : List Byte} (act : Dev → Done) {e : Dev} {data : List Byte}
    (he : exec i s = .next (s.withDev (s.dev.serveAs who c kind as_ sound may arg act))) (h1 : s.dev.takes who c.code = true)
    (h2 : s.dev.cmdFails who c sound may = none) (h3 : s.dev.shed < 4) (ha : act (s.dev.sessionUsed who) = ⟨e, some .ok, data⟩) :
    Leaves i s (e.answerTo who kind c.code .ok as_ arg data) := by
  rw [serveAs_ok _ _ _ _ _ _ _ _ _ h1 h2 h3 (by rw [ha]), ha] at he
  exact leaves_of_eq he

section
variable (d : Dev) (who : Caller)

theorem sessionUsed_now : (d.sessionUsed who).now = d.now := rfl
theorem sessionUsed_reg (a : Nat) : (d.sessionUsed who).reg a = d.reg a := rfl
theorem sessionUsed_core (l : Nat) : (d.sessionUsed who).core l = d.core l := rfl
theorem sessionUsed_spindle (l : Nat) : (d.sessionUsed who).spindle l = d.spindle l := rfl
theorem sessionUsed_serial : (d.sessionUsed who).dst.serial = d.dst.serial := rfl
theorem sessionUsed_dieSerial : (d.sessionUsed who).dst.dieSerial = d.dst.dieSerial := rfl
theorem sessionUsed_log : (d.sessionUsed who).dst.flash ++ (d.sessionUsed who).dst.ring = d.dst.flash ++ d.dst.ring := rfl

end

/-- The records of the log at and after a number, at most 16 of them, and those before it. -/
def Dev.logBefore (d : Dev) (n : Nat) : List AuditRec := (d.dst.flash ++ d.dst.ring).takeWhile fun r => decide (r.aseq < n)
def Dev.logFrom (d : Dev) (n : Nat) : List AuditRec := ((d.dst.flash ++ d.dst.ring).drop (d.logBefore n).length).take 16

/-- Whether the records read are chained to the one before them (18 R584). -/
def Dev.logGood (d : Dev) (n : Nat) : Bool :=
  match (d.logBefore n).getLast?, d.logFrom n with
  | some p, _ => chained p.bytes (d.logFrom n)
  | none, r :: t => chained r.bytes t
  | none, [] => true

/-- What LOG_READ answers. -/
def Dev.logAct (d : Dev) (n : Nat) : Done := ⟨d, some (if d.logGood n then .ok else .integrity), (d.logFrom n).flatMap AuditRec.bytes⟩

theorem logGood_of_chained {d : Dev} {n : Nat} (h1 : ∀ r t, d.logFrom n = r :: t → d.logBefore n = [] → chained r.bytes t = true)
    (h2 : ∀ p, (d.logBefore n).getLast? = some p → chained p.bytes (d.logFrom n) = true) : d.logGood n = true := by
  unfold Dev.logGood
  split
  · next p hp => exact h2 _ hp
  · next r t hp hr => exact h1 _ _ hr (List.getLast?_eq_none_iff.1 hp)
  · rfl

section
variable {who : Caller} {s : State}

theorem exec_logRead (who : Caller) (aseq : BitVec 64) (s : State) : exec (.logRead who aseq) s =
    .next (s.withDev (s.dev.serveAs who ⟨0x10, false, false, false, false, true⟩ 1 none true (right 2) (leBytes 8 aseq.toNat) fun d => d.logAct aseq.toNat)) := rfl

/-- What a sample of an LCN shows. -/
def Dev.sampled (d : Dev) (l : Nat) : Done :=
  ⟨d, some .ok, leBytes 8 (d.core l).pc.toNat ++ leBytes 8 (d.core l).pmu.fix0.toNat ++ leBytes 8 (d.core l).pmu.fix1.toNat ++
    (List.range 6).flatMap fun i => leBytes 8 (mget 0#64 (d.core l).pmu.cnt i).toNat⟩

theorem exec_dbgSample (who : Caller) (l : Fin 384) (s : State) : exec (.dbgSample who l) s =
    .next (s.withDev (s.dev.serveAs who ⟨0x65, false, false, false, false, false⟩ 1 none true
      (fun x => installer x && s.dev.nonInvasive l.val (s.dev.core l.val).level) (leBytes 2 l.val ++ [])
      fun d => if d.dbgThere l.val then d.sampled l.val else d.ends .state)) := rfl

theorem leaves_logRead {aseq : BitVec 64} (h1 : ∀ r t, s.dev.logFrom aseq.toNat = r :: t → s.dev.logBefore aseq.toNat = [] → chained r.bytes t = true)
    (h2 : ∀ p, (s.dev.logBefore aseq.toNat).getLast? = some p → chained p.bytes (s.dev.logFrom aseq.toNat) = true)
    (ht : s.dev.takes who 0x10 = true) (hf : s.dev.cmdFails who ⟨0x10, false, false, false, false, true⟩ true (right 2) = none) (hs : s.dev.shed < 4) :
    Leaves (.logRead who aseq) s ((s.dev.sessionUsed who).answerTo who 1 0x10 .ok none (leBytes 8 aseq.toNat)
      ((s.dev.logFrom aseq.toNat).flatMap AuditRec.bytes)) :=
  have hg : (s.dev.sessionUsed who).logGood aseq.toNat = true := logGood_of_chained h1 h2
  have h := leaves_serveAs (fun d => d.logAct aseq.toNat) (exec_logRead ..) ht hf hs (by rw [Dev.logAct, hg, if_pos rfl]; rfl)
  h

theorem leaves_dbgSample {l : Fin 384} (hd : (s.dev.sessionUsed who).dbgThere l.val = true) (ht : s.dev.takes who 0x65 = true)
    (hf : s.dev.cmdFails who ⟨0x65, false, false, false, false, false⟩ true
      (fun x => installer x && s.dev.nonInvasive l.val (s.dev.core l.val).level) = none) (hs : s.dev.shed < 4) :
    Leaves (.dbgSample who l) s ((s.dev.sessionUsed who).answerTo who 1 0x65 .ok none (leBytes 2 l.val ++ [])
      (leBytes 8 (s.dev.core l.val).pc.toNat ++ leBytes 8 (s.dev.core l.val).pmu.fix0.toNat ++ leBytes 8 (s.dev.core l.val).pmu.fix1.toNat ++
        (List.range 6).flatMap fun i => leBytes 8 (mget 0#64 (s.dev.core l.val).pmu.cnt i).toNat)) :=
  have h := leaves_serveAs (fun d => if d.dbgThere l.val then d.sampled l.val else d.ends .state) (exec_dbgSample ..) ht hf hs (if_pos hd)
  h

end

/-- Settles O42: each command's act is done where its checks pass. -/
theorem distaffReadsComplete : Obligations.DistaffReadsComplete := by
  intro who l aseq s d u ok
  refine ⟨fun ht hf hs => leaves_serveAs _ rfl ht hf hs rfl, fun ht hf hs => leaves_serveAs _ rfl ht hf hs rfl,
    fun ht hf hs => leaves_serveAs _ rfl ht hf hs rfl, fun h1 h2 ht hf hs => leaves_logRead h1 h2 ht hf hs,
    fun ht hf hs => leaves_serveAs _ rfl ht hf hs rfl, fun hd ht hf hs => leaves_dbgSample hd ht hf hs⟩

end Sys2Proof.Machine
end

section
/-! PROOFS. Sessions, transports and shedding (18 R569 to R583). -/
namespace Sys2Proof.Machine

section
variable {who : Caller} {s : State}

/-! ### Authentication -/

/-- What AUTH_BEGIN does for a credential that is there and not locked. -/
def Dev.challenged (d : Dev) (c : Challenge) : Dev :=
  (d.freeBytes 4).1.updDst fun x => { x with challenges := x.challenges.filter (fun y => y.line != c.line) ++ [c] }

theorem leaves_authBegin {role : Fin 8} {index : Nat} {e : RoleEntry} (ht : s.dev.takes who 4 = true)
    (hf : s.dev.cmdFails who (openCmd 4) true anyRole = none) (hs : s.dev.shed < 4) (hc : s.dev.credential role.val index = some e)
    (hl : (s.dev.cred (s.dev.credKey role.val index)).lockedUntil ≤ s.dev.now) :
    Leaves (.authBegin who role index) s (((s.dev.sessionUsed who).challenged ⟨callerLine who, role.val, index, s.dev.now⟩).answerTo who 6 4 .ok
      (some (role.val, index)) (leBytes 1 role.val ++ leBytes 1 index) ((s.dev.sessionUsed who).freeBytes 4).2) := by
  have hc' : (s.dev.sessionUsed who).credential role.val index = some e := hc
  have hl' : ¬ (s.dev.sessionUsed who).now < ((s.dev.sessionUsed who).cred ((s.dev.sessionUsed who).credKey role.val index)).lockedUntil := Nat.not_lt.2 hl
  have h := leaves_serveAs (i := .authBegin who role index) (c := openCmd 4) (fun d =>
    if (d.credential role.val index).isNone || decide (d.now < (d.cred (d.credKey role.val index)).lockedUntil) then d.ends .denied
    else ⟨d.challenged ⟨callerLine who, role.val, index, d.now⟩, some .ok, (d.freeBytes 4).2⟩) rfl ht hf hs
    (by rw [hc', decide_eq_false hl', Option.isNone_some, Bool.or_false, if_neg Bool.false_ne_true])
  exact h

/-- The session that a right answer to a challenge opens. -/
def Dev.newSession (d : Dev) (line : Nat) (c : Challenge) (e : RoleEntry) : Session :=
  ⟨d.dst.nextSession, line, c.role, c.index, e.rights, d.img.img.isNone, 0, d.now⟩

/-- The device whose caller's challenge is answered and whose earlier sessions of the credential and the line are ended. -/
def Dev.authEnded (d : Dev) (line : Nat) (c : Challenge) : Dev :=
  (d.updDst fun x => { x with challenges := x.challenges.filter fun c => c.line != line }).endSession
    fun s => (s.role == c.role && s.index == c.index && s.recovery == d.img.img.isNone) || s.line == line

/-- The device in which the new session is open. -/
def Dev.authOpened (d : Dev) (line : Nat) (c : Challenge) (e : RoleEntry) : Dev :=
  (d.authEnded line c).updDst fun x =>
    { x with nextSession := x.nextSession + 1, sessions := x.sessions ++ [d.newSession line c e], creds := mset ⟨0, 0⟩ x.creds (d.credKey c.role c.index) ⟨0, 0⟩ }

/-- What AUTH_FINISH does with a challenge (R570). -/
def Dev.authAct (line : Nat) (ch : Option Challenge) (tagOk : Bool) (d0 : Dev) : Done :=
  let d := d0.updDst fun x => { x with challenges := x.challenges.filter fun c => c.line != line }
  match ch with
  | none => d.ends .denied
  | some c =>
    match d.credential c.role c.index with
    | none => d.ends .denied
    | some e =>
      if !tagOk then (d.authFailed (d.credKey c.role c.index)).ends .integrity
      else if c.since + 30000000000 < d.now then (d.authFailed (d.credKey c.role c.index)).ends .denied
      else if 1 ≤ line ∧ line ≤ 256 ∧ 7 ≤ ((d0.authEnded line c).dst.sessions.filter fun s => decide (1 ≤ s.line) && decide (s.line ≤ 256)).length then
        (d0.authEnded line c).ends .full
      else ⟨((d0.authOpened line c e).freeBytes 4).1, some .ok, ((d0.authOpened line c e).freeBytes 4).2⟩

theorem authAct_of_right {d : Dev} {line : Nat} {c : Challenge} {e : RoleEntry} (hc : d.credential c.role c.index = some e)
    (hn : d.now ≤ c.since + 30000000000)
    (h7 : ((d.authEnded line c).dst.sessions.filter fun s => decide (1 ≤ s.line) && decide (s.line ≤ 256)).length < 7) :
    Dev.authAct line (some c) true d = ⟨((d.authOpened line c e).freeBytes 4).1, some .ok, ((d.authOpened line c e).freeBytes 4).2⟩ := by
  have hc' : (d.updDst fun x => { x with challenges := x.challenges.filter fun c => c.line != line }).credential c.role c.index = some e := hc
  have hn' : ¬ c.since + 30000000000 < (d.updDst fun x => { x with challenges := x.challenges.filter fun c => c.line != line }).now := Nat.not_lt.2 hn
  unfold Dev.authAct
  simp only [hc', hn', Nat.not_le.2 h7, Bool.not_true, Bool.false_eq_true, if_false, and_false]

theorem exec_authFinish {ch : Challenge} (hch : (s.dev.dst.challenges.find? fun c => c.line == callerLine who) = some ch) (tagOk : Bool) :
    exec (.authFinish who tagOk) s = .next (s.withDev (s.dev.serveAs who (openCmd 5) 6 (some (ch.role, ch.index)) true anyRole
      (leBytes 1 ch.role ++ leBytes 1 ch.index) (Dev.authAct (callerLine who) (some ch) tagOk))) := by
  show execAuthFinish who tagOk s = _
  unfold execAuthFinish onDev
  simp only [hch]
  rfl

theorem leaves_authFinish {ch : Challenge} {e : RoleEntry} (ht : s.dev.takes who 5 = true) (hf : s.dev.cmdFails who (openCmd 5) true anyRole = none)
    (hs : s.dev.shed < 4) (hch : (s.dev.dst.challenges.find? fun c => c.line == callerLine who) = some ch)
    (hc : s.dev.credential ch.role ch.index = some e) (hn : s.dev.now ≤ ch.since + 30000000000)
    (h7 : (((s.dev.sessionUsed who).authEnded (callerLine who) ch).dst.sessions.filter fun s => decide (1 ≤ s.line) && decide (s.line ≤ 256)).length < 7) :
    Leaves (.authFinish who true) s ((((s.dev.sessionUsed who).authOpened (callerLine who) ch e).freeBytes 4).1.answerTo who 6 5 .ok
      (some (ch.role, ch.index)) (leBytes 1 ch.role ++ leBytes 1 ch.index) (((s.dev.sessionUsed who).authOpened (callerLine who) ch e).freeBytes 4).2) := by
  have h := leaves_serveAs (c := openCmd 5) _ (exec_authFinish hch true) ht hf hs (authAct_of_right (d := s.dev.sessionUsed who) hc hn h7)
  exact h

theorem leaves_logout (ht : s.dev.takes who 6 = true) (hf : s.dev.cmdFails who ⟨6, false, false, true, true, true⟩ true anyRole = none)
    (hs : s.dev.shed < 4) :
    Leaves (.logout who) s (((s.dev.sessionUsed who).endSession fun s => s.line == callerLine who).answerTo who 1 6 .ok
      ((s.dev.sessionOf who).map fun s => (s.role, s.index)) [] []) := by
  have h := leaves_serveAs (i := .logout who) (c := ⟨6, false, false, true, true, true⟩)
    (fun d => (d.endSession fun s => s.line == callerLine who).ends .ok) rfl ht hf hs rfl
  exact h

/-! ### Sessions, locks and lines that end -/

theorem sessions_endSession (d : Dev) (p : Session → Bool) : (d.endSession p).dst.sessions = d.dst.sessions.filter fun s => !p s := rfl

theorem completes_sessionIdleTimeout {id : Nat} {x : Session} (hx : (s.dev.dst.sessions.find? fun s => s.id == id) = some x) :
    Completes (.sessionIdleTimeout id) s fun t => (∀ y ∈ t.dst.sessions, y.id ≠ id) ∧ x.lastUse + 900000000000 ≤ t.now := by
  have he : exec (.sessionIdleTimeout id) s = .next (s.withDev ((s.dev.timeTo (x.lastUse + 900000000000)).endSession fun s => s.id == id)) := by
    show execSessionIdleTimeout id s = _
    unfold execSessionIdleTimeout onDev
    simp only [hx]
  refine completes_of_eq he ⟨fun y hy => ?_, le_max_right ..⟩
  rw [sessions_endSession] at hy
  simpa using (List.mem_filter.1 hy).2

theorem completes_credentialUnlock {cred : Nat} (hl : (s.dev.cred cred).lockedUntil ≠ 0) :
    Completes (.credentialUnlock cred) s fun t => (t.cred cred).lockedUntil = 0 ∧ (s.dev.cred cred).lockedUntil ≤ t.now := by
  have he : exec (.credentialUnlock cred) s = .next (s.withDev ((s.dev.timeTo (s.dev.cred cred).lockedUntil).updDst fun x =>
      { x with creds := mset ⟨0, 0⟩ x.creds cred ⟨(s.dev.cred cred).fails, 0⟩ })) := by
    show execCredentialUnlock cred s = _
    unfold execCredentialUnlock onDev
    simp only [hl, if_false]
  refine completes_of_eq he ⟨?_, le_max_right ..⟩
  simp [Dev.cred, Dev.updDst]

theorem completes_almanacBreak : Completes .almanacBreak s fun t => t.dst.baud = 115200 ∧ ∀ y ∈ t.dst.sessions, y.line ≠ 0 := by
  refine completes_of (fun d => (d.updDst fun x => { x with baud := 115200 }).endSession fun s => s.line == 0) rfl ⟨rfl, fun y hy => ?_⟩
  rw [sessions_endSession] at hy
  simpa using (List.mem_filter.1 hy).2

theorem leaves_baudSet {rate : Nat} (ht : s.dev.takes who 0x70 = true) (hf : s.dev.cmdFails who (openCmd 0x70) true anyRole = none)
    (hs : s.dev.shed < 4) (hl : callerLine who = 0) (hb : baudOk rate = true) :
    Leaves (.baudSet who rate) s (((s.dev.sessionUsed who).updDst fun x => { x with baud := rate }).answerTo who 1 0x70 .ok none (leBytes 4 rate) []) := by
  have h := leaves_serveAs (i := .baudSet who rate) (c := openCmd 0x70) (fun d =>
    if callerLine who ≠ 0 then d.ends .unsupported else if !baudOk rate then d.ends .range else (d.updDst fun x => { x with baud := rate }).ends .ok)
    rfl ht hf hs (by rw [hl, hb, if_neg (by decide), if_neg (by decide)]; rfl)
  exact h

theorem completes_entdaa (addr : BitVec 7) (hu : s.dev.distaffUp = true) :
    Completes (.entdaa addr) s fun t => t.dst = { s.dev.dst with i3c := some addr.toNat } := by
  refine completes_of (fun d => if d.distaffUp then d.updDst fun x => { x with i3c := some addr.toNat } else d) rfl ?_
  rw [if_pos hu]
  rfl

/-! ### Mailbox doorbells -/

section
variable {q : Requester} {sk : Fin 16} {v : BitVec 32}
  (hq : q = .distaff ∨ ∃ l, q = .core l ∧ (s.dev.core l.val).level.priv = true ∧ s.dev.skeinOf l.val = some sk.val)
  (hb : s.dev.regF (Reg.DST_MBX_CTL sk.val) 17 16 ≠ 1)
include hq hb

theorem mbxDoorbell_of_may : s.dev.mbxDoorbell q sk.val v = if field v 8 0 < 8 ∨ 256 < field v 8 0 then
    s.dev.setRegF (Reg.DST_MBX_CTL sk.val) 31 24 Status.range.code else s.dev.setRegF (Reg.DST_MBX_CTL sk.val) 17 16 1 := by
  rcases hq with rfl | ⟨l, rfl, hp, hk⟩
  · simp only [Dev.mbxDoorbell, hb, Bool.not_true, Bool.false_eq_true, if_false]
  · simp only [Dev.mbxDoorbell, hb, hp, hk, beq_self_eq_true, Bool.and_self, Bool.not_true, Bool.false_eq_true, if_false]

theorem completes_dstMbxDoorbell (h8 : 8 ≤ field v 8 0) (h256 : field v 8 0 ≤ 256) :
    Completes (.dstMbxDoorbell q sk v) s fun t => t.regF (Reg.DST_MBX_CTL sk.val) 17 16 = 1 := by
  refine completes_of (fun d => d.mbxDoorbell q sk.val v) rfl ?_
  rw [mbxDoorbell_of_may hq hb, if_neg (by omega)]
  exact regF_setRegF_of_lt _ _ _ _ _ (by decide) (by decide) (by decide)

theorem completes_dstMbxDoorbell_range (h : field v 8 0 < 8 ∨ 256 < field v 8 0) :
    Completes (.dstMbxDoorbell q sk v) s fun t => t.regF (Reg.DST_MBX_CTL sk.val) 31 24 = Status.range.code ∧
      t.regF (Reg.DST_MBX_CTL sk.val) 17 16 = s.dev.regF (Reg.DST_MBX_CTL sk.val) 17 16 := by
  refine completes_of (fun d => d.mbxDoorbell q sk.val v) rfl ?_
  rw [mbxDoorbell_of_may hq hb, if_pos h]
  exact ⟨regF_setRegF_of_lt _ _ _ _ _ (by decide) (by decide) (by decide), regF_setRegF_ne _ _ _ _ _ _ _ (by decide) (by decide) (.inr (by decide))⟩

end

/-! ### Shedding -/

/-- The device at the next measure of load. -/
def Dev.measured (d : Dev) : Dev := { d with now := d.now + 100000000 }

section
variable {used : Nat}

theorem leaves_shedMeasure_calm {t0 : Nat} (hu : used < 50) (hc : s.dev.dst.calmSince = some t0) (ht : t0 + 1000000000 ≤ s.dev.now + 100000000) :
    Leaves (.shedMeasure used) s
      ((s.dev.measured.updDst fun x => { x with calmSince := some (s.dev.now + 100000000) }).setShed (s.dev.shed - 1)) := by
  apply leaves_of_eq
  show execShedMeasure used s = _
  unfold execShedMeasure onDev
  simp only [show ¬ 70 < used by omega, show ¬ 50 ≤ used by omega, if_false, hc, if_pos ht]
  rfl

theorem completes_shedMeasure_first (hu : used < 50) (hc : s.dev.dst.calmSince = none) :
    Completes (.shedMeasure used) s fun t => t.dst.calmSince = some (s.dev.now + 100000000) ∧ t.shed = s.dev.shed := by
  have he : exec (.shedMeasure used) s = .next (s.withDev (s.dev.measured.updDst fun x => { x with calmSince := some (s.dev.now + 100000000) })) := by
    show execShedMeasure used s = _
    unfold execShedMeasure onDev
    simp only [show ¬ 70 < used by omega, show ¬ 50 ≤ used by omega, if_false, hc]
    rfl
  exact completes_of_eq he ⟨rfl, rfl⟩

theorem completes_shedMeasure_busy (h1 : 50 ≤ used) (h2 : used ≤ 70) :
    Completes (.shedMeasure used) s fun t => t.dst.calmSince = none ∧ t.shed = s.dev.shed ∧ t.now = s.dev.now + 100000000 := by
  have he : exec (.shedMeasure used) s = .next (s.withDev (s.dev.measured.updDst fun x => { x with calmSince := none })) := by
    show execShedMeasure used s = _
    unfold execShedMeasure onDev
    simp only [show ¬ 70 < used by omega, h1, if_false, if_true]
    rfl
  exact completes_of_eq he ⟨rfl, rfl, rfl⟩

theorem leaves_shedMeasure_over (h : 70 < used) :
    Leaves (.shedMeasure used) s ((s.dev.measured.updDst fun x => { x with calmSince := none }).setShed (min 4 (s.dev.shed + 1))) := by
  apply leaves_of_eq
  show execShedMeasure used s = _
  unfold execShedMeasure onDev
  simp only [h, if_true]
  rfl

end
end

/-- Settles O43: each command where its checks pass, each event of a session, a line or a measure. -/
theorem sessionsComplete : Obligations.SessionsComplete := by
  intro who role index id cred rate used ch e x addr q sk v s d u line admits
  exact ⟨fun ⟨ht, hf, hs⟩ hc hl => leaves_authBegin ht hf hs hc hl, fun ⟨ht, hf, hs⟩ hch hc hn h7 => leaves_authFinish ht hf hs hch hc hn h7,
    fun ⟨ht, hf, hs⟩ => leaves_logout ht hf hs, completes_sessionIdleTimeout, completes_credentialUnlock,
    fun ⟨ht, hf, hs⟩ hl hb => leaves_baudSet ht hf hs hl hb, completes_almanacBreak,
    completes_of (fun d => d.updDst fun x => { x with baud := 115200 }) rfl rfl, completes_entdaa addr,
    fun hq hb => ⟨completes_dstMbxDoorbell hq hb, completes_dstMbxDoorbell_range hq hb⟩, fun t0 => leaves_shedMeasure_calm,
    completes_shedMeasure_first, completes_shedMeasure_busy, leaves_shedMeasure_over⟩

end Sys2Proof.Machine
end

section
/-! PROOFS. Transfers, fuses, firmware, the log, reels and debug (18 R573, R574, R584, 16 R524). -/
namespace Sys2Proof.Machine

/-- What a command that passes its checks leaves when its answer comes later. -/
theorem leaves_serveAs_later {i : Instr} {s : State} {who : Caller} {c : Cmd} {kind : Nat} {as_ : Option (Nat × Nat)} {sound : Bool}
    {may : Option Session → Bool} {arg : List Byte} (act : Dev → Done) {e : Dev}
    (he : exec i s = .next (s.withDev (s.dev.serveAs who c kind as_ sound may arg act))) (h1 : s.dev.takes who c.code = true)
    (h2 : s.dev.cmdFails who c sound may = none) (h3 : s.dev.shed < 4) (ha : act (s.dev.sessionUsed who) = ⟨e, none, []⟩) : Leaves i s e := by
  have h5 : (s.dev.sessionUsed who).shed = s.dev.shed := rfl
  have h6 : ¬ (4 ≤ s.dev.shed) := Nat.not_le.2 h3
  refine leaves_of_eq (he.trans ?_)
  simp only [Dev.serveAs, h1, h2, ha, h5, h6, Bool.not_true, Bool.false_eq_true, if_false, decide_false, Bool.false_and]

section
variable {who : Caller} {s : State}

/-! ### Transfers and firmware -/

/-- The device whose caller's transfer is open. -/
def Dev.xferOpened (d : Dev) (who : Caller) (kind length : Nat) : Dev :=
  d.updDst fun x => { x with transfers := x.transfers.filter (fun y => y.line != callerLine who) ++ [⟨callerLine who, kind, length, []⟩] }

/-- The device whose older firmware copy is ready for the bytes of a transfer. -/
def Dev.fwCleared (d : Dev) (length : Nat) : Dev :=
  d.updDst fun x => { x with fw := mset FwCopy.blank x.fw d.olderFw ⟨false, 0, length, []⟩ }

theorem exec_xferOpen (who : Caller) (kind length : Nat) (s : State) : exec (.xferOpen who kind length) s =
    .next (s.withDev (s.dev.serveAs who ⟨7, false, false, true, false, true⟩ 1 none true anyRole (leBytes 1 kind ++ leBytes 4 length) fun d =>
      if 2 < kind ∨ (if kind = 2 then 0x400000 else 0x10000) < length then d.ends .range
      else (if kind = 2 then (d.xferOpened who kind length).fwCleared length else d.xferOpened who kind length).ends .ok)) := rfl

theorem leaves_xferOpen {kind length : Nat} (hk : kind < 2) (hl : length ≤ 0x10000) (ht : s.dev.takes who 7 = true)
    (hf : s.dev.cmdFails who ⟨7, false, false, true, false, true⟩ true anyRole = none) (hs : s.dev.shed < 4) :
    Leaves (.xferOpen who kind length) s (((s.dev.sessionUsed who).xferOpened who kind length).answerTo who 1 7 .ok none
      (leBytes 1 kind ++ leBytes 4 length) []) := by
  have h2 : ¬ kind = 2 := by omega
  have hr : ¬ (2 < kind ∨ 0x10000 < length) := by omega
  have h := leaves_serveAs _ (exec_xferOpen who kind length s) ht hf hs (by simp only [h2, hr, if_false]; rfl)
  exact h

theorem leaves_xferOpen_fw {length : Nat} (hl : length ≤ 0x400000) (ht : s.dev.takes who 7 = true)
    (hf : s.dev.cmdFails who ⟨7, false, false, true, false, true⟩ true anyRole = none) (hs : s.dev.shed < 4) :
    Leaves (.xferOpen who 2 length) s ((((s.dev.sessionUsed who).xferOpened who 2 length).fwCleared length).answerTo who 1 7 .ok none
      (leBytes 1 2 ++ leBytes 4 length) []) := by
  have hr : ¬ (2 < 2 ∨ 0x400000 < length) := by omega
  have h := leaves_serveAs _ (exec_xferOpen who 2 length s) ht hf hs (by simp only [hr, if_true, if_false]; rfl)
  exact h

/-- The device that holds the bytes of a transfer which go to its store or to the older firmware copy. -/
def Dev.xferPut (d : Dev) (line offset : Nat) (bytes : List Byte) : Dev :=
  d.updDst fun x => { x with transfers := x.transfers.map fun y => if y.line = line then { y with bytes := Machine.putBytes y.bytes offset bytes } else y }
def Dev.fwPut (d : Dev) (offset : Nat) (bytes : List Byte) : Dev :=
  d.updDst fun x => { x with fw := mupd FwCopy.blank x.fw d.olderFw fun f => { f with bytes := Machine.putBytes f.bytes offset bytes } }

/-- What XFER_DATA does to the caller's transfer. -/
def Dev.xferAct (d : Dev) (t : Option Transfer) (offset : Nat) (bytes : List Byte) : Done :=
  match t with
  | none => d.ends .state
  | some t =>
    if 1024 < bytes.length ∨ t.length < offset + bytes.length then d.ends .range
    else if t.kind = 2 then (d.fwPut offset bytes).ends .ok
    else (d.xferPut t.line offset bytes).ends .ok

theorem exec_xferData (who : Caller) (offset : Nat) (bytes : List (BitVec 8)) (s : State) : exec (.xferData who offset bytes true) s =
    .next (s.withDev (s.dev.serveAs who ⟨7, false, false, true, false, true⟩ 1 none true anyRole (leBytes 4 offset ++ bytes.take 28) fun d =>
      d.xferAct (d.transferOf who) offset bytes)) := by
  show execXferData who offset bytes true s = _
  unfold execXferData onDev
  rw [Bool.or_true]
  rfl

section
variable {t : Transfer} {offset : Nat} {bytes : List (BitVec 8)} (hx : (s.dev.sessionUsed who).transferOf who = some t)
include hx

section
variable (hb : bytes.length ≤ 1024) (hl : offset + bytes.length ≤ t.length) (ht : s.dev.takes who 7 = true)
  (hf : s.dev.cmdFails who ⟨7, false, false, true, false, true⟩ true anyRole = none) (hs : s.dev.shed < 4)
include hb hl ht hf hs

theorem leaves_xferData (hk : t.kind ≠ 2) : Leaves (.xferData who offset bytes true) s
    (((s.dev.sessionUsed who).xferPut t.line offset bytes).answerTo who 1 7 .ok none (leBytes 4 offset ++ bytes.take 28) []) := by
  have hr : ¬ (1024 < bytes.length ∨ t.length < offset + bytes.length) := by omega
  have h := leaves_serveAs _ (exec_xferData who offset bytes s) ht hf hs (by rw [hx]; simp only [Dev.xferAct, hr, hk, if_false]; rfl)
  exact h

theorem leaves_xferData_fw (hk : t.kind = 2) : Leaves (.xferData who offset bytes true) s
    (((s.dev.sessionUsed who).fwPut offset bytes).answerTo who 1 7 .ok none (leBytes 4 offset ++ bytes.take 28) []) := by
  have hr : ¬ (1024 < bytes.length ∨ t.length < offset + bytes.length) := by omega
  have h := leaves_serveAs _ (exec_xferData who offset bytes s) ht hf hs (by rw [hx]; simp only [Dev.xferAct, hr, hk, if_true, if_false]; rfl)
  exact h

end

/-- The device whose older firmware copy is staged as a version. -/
def Dev.fwStaged (d : Dev) (line version : Nat) (raise : Bool) : Dev :=
  d.updDst fun x => { x with fw := mupd FwCopy.blank x.fw d.olderFw fun f => { f with valid := true, version := version }, fwFloor := if raise then max x.fwFloor (min 64 version) else x.fwFloor, transfers := x.transfers.filter fun y => y.line != line }

theorem leaves_fwStage {version : Nat} {raise : Bool} (hk : t.kind = 2) (hv : s.dev.dst.fwFloor ≤ version) (ht : s.dev.takes who 0x50 = true)
    (hf : s.dev.cmdFails who ⟨0x50, false, false, true, false, true⟩ true installer = none) (hs : s.dev.shed < 4) :
    Leaves (.fwStage who true version raise) s (((s.dev.sessionUsed who).fwStaged t.line version raise).answerTo who 1 0x50 .ok none (leBytes 4 version) []) := by
  have hv' : ¬ (version < (s.dev.sessionUsed who).dst.fwFloor) := Nat.not_lt.2 hv
  refine leaves_serveAs (c := ⟨0x50, false, false, true, false, true⟩) _ rfl ht hf hs ?_
  simp only [hx, hk, hv', ne_eq, not_true_eq_false, if_false, Bool.not_true, Bool.false_eq_true, or_false]
  rfl

end

/-! ### Fuses, the floor and the log -/

section
variable {slot : Nat} {bytes : List (BitVec 8)}

theorem leaves_enroll (h3 : slot ≤ 3) (hb : leAt bytes 0 8 = s.dev.dst.serial) (hw : (mget FuseSlot.blank s.dev.dst.slots slot).written = false)
    (hr : (mget FuseSlot.blank s.dev.dst.slots slot).revoked = false) (ht : s.dev.takes who 8 = true)
    (hf : s.dev.cmdFails who ⟨8, true, false, false, false, false⟩ true anyRole = none) (hs : s.dev.shed < 4) :
    Leaves (.enroll who slot bytes true) s
      (((s.dev.sessionUsed who).updDst fun x => { x with slots := mset FuseSlot.blank x.slots slot ⟨true, bytesAt bytes 8 48, bytesAt bytes 56 32, false⟩ }).answerTo
        who 1 8 .ok (some (3, slot)) (bytesAt bytes 0 8 ++ leBytes 1 slot) []) := by
  have hw' : ¬ ((mget FuseSlot.blank (s.dev.sessionUsed who).dst.slots slot).written = true ∨
      (mget FuseSlot.blank (s.dev.sessionUsed who).dst.slots slot).revoked = true) := by
    change ¬ ((mget FuseSlot.blank s.dev.dst.slots slot).written = true ∨ (mget FuseSlot.blank s.dev.dst.slots slot).revoked = true)
    simp [hw, hr]
  have hsound : (true && leAt bytes 0 8 == s.dev.dst.serial) = true := by simp [hb]
  refine leaves_serveAs (c := ⟨8, true, false, false, false, false⟩) (sound := true && leAt bytes 0 8 == s.dev.dst.serial) _ rfl ht
    (by rw [hsound]; exact hf) hs ?_
  simp only [hw', Nat.not_lt.2 h3, if_false]
  rfl

theorem leaves_revokeSlot (h3 : slot ≤ 3) (ht : s.dev.takes who 9 = true)
    (hf : s.dev.cmdFails who ⟨9, true, false, false, false, false⟩ true anyRole = none) (hs : s.dev.shed < 4) :
    Leaves (.revokeSlot who slot true) s
      (((s.dev.sessionUsed who).updDst fun x => { x with slots := mupd FuseSlot.blank x.slots slot fun k => { k with revoked := true } }).answerTo
        who 1 9 .ok (some (3, slot)) (leBytes 1 slot) []) := by
  refine leaves_serveAs (c := ⟨9, true, false, false, false, false⟩) _ rfl ht hf hs ?_
  simp only [Nat.not_lt.2 h3, if_false]
  rfl

end

theorem leaves_floorCmd {i : Image} (hi : s.dev.img.img = some i) (ht : s.dev.takes who 0x24 = true)
    (hf : s.dev.cmdFails who (runCmd 0x24) true installer = none) (hs : s.dev.shed < 4) :
    Leaves (.floorCmd who) s
      (((s.dev.sessionUsed who).updDst fun x => { x with imgFloor := max x.imgFloor (floorFor i.imgVer) }).answerTo who 1 0x24 .ok none [] []) := by
  have hi' : (s.dev.sessionUsed who).img.img = some i := hi
  refine leaves_serveAs (c := runCmd 0x24) _ rfl ht hf hs ?_
  simp only [hi']
  rfl

/-- The records that flash holds of a log: its last ones, the oldest 64 dropped at a time. -/
def flashOf (all : List AuditRec) : List AuditRec := if all.length ≤ 524288 then all else all.drop ((all.length - 524288 + 63) / 64 * 64)

theorem completes_auditFlush :
    Completes .auditFlush s fun t => t.dst = { s.dev.dst with ring := [], flash := flashOf (s.dev.dst.flash ++ s.dev.dst.ring) } :=
  completes_of (fun d => d.updDst fun x => { x with ring := [], flash := flashOf (x.flash ++ x.ring) }) rfl rfl

/-! ### Reels -/

/-- What a reel command does. -/
def Dev.rlAct (d : Dev) (who : Caller) (code l : Nat) (retire : Bool) : Done :=
  if d.safe then d.ends .halted
  else if d.img.img.isNone then d.rlState
  else if (d.skeinOf l).isNone then d.ends .range
  else if mget false d.lost l || !(d.core l).released || (d.domOf l).st != .run || (d.domOf l).transit then d.rlState
  else if mget false d.reeling l then d.ends .busy
  else if (d.chooseSpare l).isNone then d.ends .full
  else ⟨(d.reelDue l 4 retire).updRel fun r => { r with asked := r.asked ++ [(l, who, code)] }, none, []⟩

/-- A reel may be asked for an LCN: it is in service and in RUN, no reel of it is under way, and a spare can take its place. -/
structure Dev.Reelable (d : Dev) (l : Nat) : Prop where
  safe : d.safe = false
  image : d.img.img.isNone = false
  skein : (d.skeinOf l).isSome = true
  there : mget false d.lost l = false
  released : (d.core l).released = true
  run : (d.domOf l).st = .run
  settled : (d.domOf l).transit = false
  idle : mget false d.reeling l = false
  spare : (d.chooseSpare l).isSome = true

theorem rlAct_of_reelable {d : Dev} {l : Nat} (h : d.Reelable l) (who : Caller) (code : Nat) (retire : Bool) :
    d.rlAct who code l retire = ⟨(d.reelDue l 4 retire).updRel fun r => { r with asked := r.asked ++ [(l, who, code)] }, none, []⟩ := by
  have h1 : (d.skeinOf l).isNone = false := by simpa using h.skein
  have h2 : (d.chooseSpare l).isNone = false := by simpa using h.spare
  unfold Dev.rlAct
  rw [h.safe, h.image, h1, h.there, h.released, h.run, h.settled, h.idle, h2]
  rfl

section
variable {l : Fin 384} (h : (s.dev.sessionUsed who).Reelable l.val) (hs : s.dev.shed < 4)
include h hs

theorem leaves_rlReel (ht : s.dev.takes who 0x31 = true) (hf : s.dev.cmdFails who ⟨0x31, false, false, false, false, true⟩ true (right 3) = none) :
    Leaves (.rlReel who l) s (((s.dev.sessionUsed who).reelDue l.val 4 false).updRel fun r => { r with asked := r.asked ++ [(l.val, who, 0x31)] }) :=
  leaves_serveAs_later (c := ⟨0x31, false, false, false, false, true⟩) (fun d => d.rlAct who 0x31 l.val false) rfl ht hf hs (rlAct_of_reelable h who 0x31 false)

theorem leaves_rlRetire (ht : s.dev.takes who 0x32 = true) (hf : s.dev.cmdFails who ⟨0x32, false, false, false, false, true⟩ true (right 3) = none) :
    Leaves (.rlRetire who l) s (((s.dev.sessionUsed who).reelDue l.val 4 true).updRel fun r => { r with asked := r.asked ++ [(l.val, who, 0x32)] }) :=
  leaves_serveAs_later (c := ⟨0x32, false, false, false, false, true⟩) (fun d => d.rlAct who 0x32 l.val true) rfl ht hf hs (rlAct_of_reelable h who 0x32 true)

end

theorem leaves_rlSafe {i : Image} (hd : s.dev.safe = false) (hi : s.dev.img.img = some i) (ht : s.dev.takes who 0x33 = true)
    (hf : s.dev.cmdFails who ⟨0x33, false, false, false, false, true⟩ true installer = none) (hs : s.dev.shed < 4) :
    Leaves (.rlSafe who) s (((s.dev.sessionUsed who).enterSafe .command).answerTo who 1 0x33 .ok none [] []) := by
  have hd' : (s.dev.sessionUsed who).safe = false := hd
  have hi' : (s.dev.sessionUsed who).img.img = some i := hi
  refine leaves_serveAs (c := ⟨0x33, false, false, false, false, true⟩) _ rfl ht hf hs ?_
  simp only [hd', hi', Bool.false_eq_true, if_false, Option.isNone_some]
  rfl

/-! ### Debug -/

/-- The device in which a core that waits for a queue or a remote answer waits no more. -/
def Dev.waitLeft (d : Dev) (l : Nat) : Dev :=
  if ((d.core l).wait.leaves && (d.core l).wait != .none && (d.core l).wait != .waiti) = true then d.unwait l else d

section
variable {l : Fin 384} (hd : (s.dev.sessionUsed who).dbgThere l.val = true) (hs : s.dev.shed < 4)
include hd hs

/-- A debug command of an LCN that is there, from what its act does there. -/
theorem leaves_dbg {i : Instr} {code : Nat} {safe : Bool} {arg data : List Byte} (act : Dev → Done) {e : Dev}
    (he : exec i s = .next (s.withDev (s.dev.dbg who code l.val safe false arg act))) (ht : s.dev.takes who code = true)
    (hf : s.dev.cmdFails who ⟨code, false, false, false, false, safe⟩ true
      (fun x => installer x && s.dev.invasive l.val (s.dev.core l.val).level.secure) = none)
    (ha : act (s.dev.sessionUsed who) = ⟨e, some .ok, data⟩) :
    Leaves i s (e.answerTo who 1 code .ok none (leBytes 2 l.val ++ arg) data) :=
  leaves_serveAs (c := ⟨code, false, false, false, false, safe⟩) (fun d => if d.dbgThere l.val then act d else d.ends .state) he ht hf hs
    ((if_pos hd).trans ha)

theorem leaves_dbgHalt (ht : s.dev.takes who 0x60 = true) (hf : s.dev.cmdFails who ⟨0x60, false, false, false, false, false⟩ true
      (fun x => installer x && s.dev.invasive l.val (s.dev.core l.val).level.secure) = none) :
    Leaves (.dbgHalt who l) s ((((s.dev.sessionUsed who).waitLeft l.val).updCore l.val fun c => { c with halted := true, stepArmed := false }).answerTo
      who 1 0x60 .ok none (leBytes 2 l.val ++ []) []) := by
  refine leaves_dbg hd hs _ rfl ht hf ?_
  unfold Dev.waitLeft
  cases ((s.dev.sessionUsed who).core l.val).wait <;> rfl

section
variable (hh : (s.dev.core l.val).halted = true)
include hh

theorem leaves_dbgStep (ht : s.dev.takes who 0x61 = true) (hf : s.dev.cmdFails who ⟨0x61, false, false, false, false, false⟩ true
      (fun x => installer x && s.dev.invasive l.val (s.dev.core l.val).level.secure) = none) :
    Leaves (.dbgStep who l) s (((s.dev.sessionUsed who).updCore l.val fun c => { c with stepArmed := true }).answerTo who 1 0x61 .ok none (leBytes 2 l.val ++ []) []) :=
  have hh' : ((s.dev.sessionUsed who).core l.val).halted = true := hh
  leaves_dbg hd hs _ rfl ht hf (if_pos hh')

theorem leaves_dbgResume (ht : s.dev.takes who 0x62 = true) (hf : s.dev.cmdFails who ⟨0x62, false, false, false, false, false⟩ true
      (fun x => installer x && s.dev.invasive l.val (s.dev.core l.val).level.secure) = none) :
    Leaves (.dbgResume who l) s (((s.dev.sessionUsed who).updCore l.val fun c => { c with halted := false, stepArmed := false }).answerTo
      who 1 0x62 .ok none (leBytes 2 l.val ++ []) []) :=
  have hh' : ((s.dev.sessionUsed who).core l.val).halted = true := hh
  leaves_dbg hd hs _ rfl ht hf (if_pos hh')

end

section
variable {reg : Nat} {bytes : List (BitVec 8)} (ht : s.dev.takes who 0x63 = true)
  (hf : s.dev.cmdFails who ⟨0x63, false, false, false, false, true⟩ true
    (fun x => installer x && s.dev.invasive l.val (s.dev.core l.val).level.secure) = none)
include ht hf

theorem leaves_dbgReg_write {c : Core} (hd' : s.dev.safe = false) (hc : (s.dev.core l.val).dbgPut reg bytes = some c) :
    Leaves (.dbgReg who l true reg bytes) s (((s.dev.sessionUsed who).setCore l.val c).answerTo who 1 0x63 .ok none
      (leBytes 2 l.val ++ (leBytes 2 reg ++ bytes.take 28)) []) := by
  have hsafe : (s.dev.sessionUsed who).safe = false := hd'
  have hput : ((s.dev.sessionUsed who).core l.val).dbgPut reg bytes = some c := hc
  refine leaves_dbg hd hs _ rfl ht hf ?_
  simp only [hsafe, hput, if_true, Bool.false_eq_true, if_false]
  rfl

theorem leaves_dbgReg_read {bs : List Byte} (hr : (s.dev.sessionUsed who).dbgRead l.val reg = some bs) :
    Leaves (.dbgReg who l false reg bytes) s ((s.dev.sessionUsed who).answerTo who 1 0x63 .ok none
      (leBytes 2 l.val ++ (leBytes 2 reg ++ bytes.take 28)) bs) := by
  refine leaves_dbg hd hs _ rfl ht hf ?_
  simp only [hr, Bool.false_eq_true, if_false]

end
end
end

/-- Settles O44: each command where its checks pass. -/
theorem distaffWritesComplete : Obligations.DistaffWritesComplete := by
  intro who l kind length offset slot version reg bytes raise t0 i0 c0 s d u admits can key invasive open_
  refine ⟨fun hk hl ⟨ht, hf, hs⟩ => leaves_xferOpen hk hl ht hf hs, ?_, fun hx hb hl => ⟨fun hk ⟨ht, hf, hs⟩ => leaves_xferData hx hb hl ht hf hs hk,
      fun hk ⟨ht, hf, hs⟩ => leaves_xferData_fw hx hb hl ht hf hs hk, fun hk hv ⟨ht, hf, hs⟩ => leaves_fwStage hx hk hv ht hf hs⟩,
    fun h3 hb hw hr ⟨ht, hf, hs⟩ => leaves_enroll h3 hb hw hr ht hf hs, fun h3 ⟨ht, hf, hs⟩ => leaves_revokeSlot h3 ht hf hs,
    fun hi ⟨ht, hf, hs⟩ => leaves_floorCmd hi ht hf hs, completes_auditFlush, fun hd hi => ⟨fun h1 h2 h3 h4 h5 h6 h7 => ?_,
      fun ⟨ht, hf, hs⟩ => leaves_rlSafe hd hi ht hf hs⟩, fun hd => ⟨fun ⟨ht, hf, hs⟩ => leaves_dbgHalt hd hs ht hf,
      fun hh => ⟨fun ⟨ht, hf, hs⟩ => leaves_dbgStep hd hs hh ht hf, fun ⟨ht, hf, hs⟩ => leaves_dbgResume hd hs hh ht hf⟩,
      fun hsafe hc ⟨ht, hf, hs⟩ => leaves_dbgReg_write hd hs ht hf hsafe hc, fun bs hr ⟨ht, hf, hs⟩ => leaves_dbgReg_read hd hs ht hf hr⟩⟩
  · rintro rfl hl ⟨ht, hf, hs⟩
    exact leaves_xferOpen_fw hl ht hf hs
  · have h : u.Reelable l.val := ⟨hd, Option.isNone_eq_false_iff.2 (Option.isSome_iff_exists.2 ⟨i0, hi⟩), h1, h2, h3, h4, h5, h6, h7⟩
    exact ⟨fun ⟨ht, hf, hs⟩ => leaves_rlReel h hs ht hf, fun ⟨ht, hf, hs⟩ => leaves_rlRetire h hs ht hf⟩

end Sys2Proof.Machine
end

section
/-! PROOFS. Power of the package: starts, package OFF, Thaw and the reference clocks (17 R544 to R550, 20 R601). -/
namespace Sys2Proof.Machine

/-! ### What a restart writes back -/

/-- `e` is `d` but for the registers and what the image unit keeps. -/
def Dev.RegsMoved (d e : Dev) : Prop := ∃ r i, e = { d with regs := r, img := i }

theorem Dev.RegsMoved.refl (d : Dev) : d.RegsMoved d := ⟨d.regs, d.img, rfl⟩

theorem Dev.RegsMoved.trans {d e f : Dev} (h : d.RegsMoved e) (h' : e.RegsMoved f) : d.RegsMoved f := by
  obtain ⟨_, _, rfl⟩ := h
  obtain ⟨r, i, rfl⟩ := h'
  exact ⟨r, i, rfl⟩

theorem regsMoved_setReg (d : Dev) (a : Nat) (v : Reg32) : d.RegsMoved (d.setReg a v) := ⟨_, d.img, rfl⟩
theorem regsMoved_setRegF (d : Dev) (a hi lo v : Nat) : d.RegsMoved (d.setRegF a hi lo v) := ⟨_, d.img, rfl⟩
theorem regsMoved_setReg64 (d : Dev) (a v : Nat) : d.RegsMoved (d.setReg64 a v) := (regsMoved_setReg ..).trans (regsMoved_setReg ..)
theorem regsMoved_setCopy (d : Dev) (b : Bool) (c : ImgCopy) : d.RegsMoved (d.setCopy b c) := ⟨_, _, rfl⟩

theorem regsMoved_foldl {α : Type} (f : Dev → α → Dev) (hf : ∀ (d : Dev) (a : α), d.RegsMoved (f d a)) (as_ : List α) (d : Dev) : d.RegsMoved (as_.foldl f d) := by
  induction as_ generalizing d with
  | nil => exact .refl d
  | cons a as_ ih => exact (hf d a).trans (ih _)

theorem regsMoved_copyRegs (d old : Dev) (as_ : List Nat) : d.RegsMoved (d.copyRegs old as_) := regsMoved_foldl _ (fun _ _ => regsMoved_setReg ..) as_ d

theorem regsMoved_fixedFields (d old : Dev) : d.RegsMoved (d.fixedFields old) := by
  unfold Dev.fixedFields Dev.showSpares Dev.copyField
  refine Dev.RegsMoved.trans ?_ (regsMoved_foldl _ (fun _ _ => regsMoved_setRegF ..) _ _)
  refine Dev.RegsMoved.trans ?_ ((regsMoved_setCopy ..).trans (regsMoved_setCopy ..))
  refine Dev.RegsMoved.trans ?_ (regsMoved_setReg64 ..)
  refine Dev.RegsMoved.trans ?_ ((regsMoved_setRegF ..).trans (regsMoved_setRegF ..))
  refine Dev.RegsMoved.trans ?_ ((regsMoved_setRegF ..).trans (regsMoved_setRegF ..))
  exact (regsMoved_foldl _ (fun _ _ => regsMoved_setReg ..) _ _).trans (regsMoved_setRegF ..)

/-- What a restart leaves of memory, the power unit and the cores. -/
theorem restart_lost (d : Dev) (ring : Bool) :
    (d.restart ring).mem = Mem.reset ∧ (d.restart ring).pwr = { Pwr.reset with ref25Lost := d.pwr.ref25Lost } ∧ (d.restart ring).cores = [] := by
  unfold Dev.restart
  obtain ⟨r, i, h⟩ := (regsMoved_copyRegs _ d keptRegs).trans (regsMoved_fixedFields _ d)
  rw [h]
  exact ⟨rfl, rfl, rfl⟩

section
variable {who : Caller} {s : State}

/-! ### PWROK and package OFF -/

theorem leaves_pwrokRise (b : BootInputs) (h : s.dev.pwr.pwrok = false) :
    Leaves (.pwrokRise b) s (if s.dev.pwr.thaw then s.dev.thawStart b else s.dev.coldStart b) := by
  refine leaves_of (fun d => if d.pwr.pwrok then d else if d.pwr.thaw then d.thawStart b else d.coldStart b) rfl ?_
  rw [if_neg (by rw [h]; decide)]

/-- What the fall of PWROK leaves. -/
def Dev.pwrokFallen (d : Dev) : Dev :=
  if !d.pwr.pwrok then d else if d.pwr.railOff || d.pwr.thaw then { d with pwr := { d.pwr with pwrok := false } } else d.restart false

theorem completes_pwrokFall_off (h : s.dev.pwr.pwrok = true) (ho : s.dev.pwr.railOff = true ∨ s.dev.pwr.thaw = true) :
    Completes .pwrokFall s fun t => t = { s.dev with pwr := { s.dev.pwr with pwrok := false } } := by
  refine completes_of Dev.pwrokFallen rfl ?_
  unfold Dev.pwrokFallen
  rw [if_neg (by rw [h]; decide), if_pos (by rw [Bool.or_eq_true]; exact ho)]

theorem completes_pwrokFall_lost (h : s.dev.pwr.pwrok = true) (ho : s.dev.pwr.railOff = false) (ht : s.dev.pwr.thaw = false) :
    Completes .pwrokFall s fun t => t.mem = Mem.reset ∧ t.pwr.pwrok = false ∧ t.cores = [] := by
  refine completes_of Dev.pwrokFallen rfl ?_
  unfold Dev.pwrokFallen
  rw [if_neg (by rw [h]; decide), if_neg (by rw [ho, ht]; decide)]
  obtain ⟨hm, hp, hc⟩ := restart_lost s.dev false
  exact ⟨hm, (congrArg Pwr.pwrok hp).trans rfl, hc⟩

/-- A package OFF that every check admits. -/
theorem pwrPackage_admitted {d : Dev} (hm : d.mayRequest .dst 4 0 = true) (hs : d.safe = false) (ha : d.allOff = true) (hb : d.offBusy = false)
    (hp : d.powerAllows 0xFF .off = true) : d.pwrPackage .dst 0 4 = (d.packageOff, some .ok) := by
  unfold Dev.pwrPackage
  dsimp only
  rw [hm, hs, ha, hb, hp]
  rfl

theorem leaves_pwrReqPackage (hm : s.dev.mayRequest .dst 4 0 = true) (hs : s.dev.safe = false) (ha : s.dev.allOff = true) (hb : s.dev.offBusy = false)
    (hp : s.dev.powerAllows 0xFF .off = true) : Leaves (.pwrReqPackage .distaff 4#3) s s.dev.packageOff := by
  apply leaves_of_eq
  show execPwrReqPackage .distaff 4#3 s = _
  unfold execPwrReqPackage onDev pwrFrom
  dsimp only
  rw [show (4#3 : BitVec 3).toNat = 4 from rfl, pwrPackage_admitted hm hs ha hb hp]

/-! ### PWR_REQUEST -/

/-- What PWR_REQUEST does before its answer. -/
def Dev.pwrAct (d : Dev) (kind index target : Nat) : Done :=
  if kind = 0 then d.ends .ok
  else if kind = 4 then
    if (d.pwrPackage .dst index target).2 = some .ok then ⟨{ d with pwr := { d.pwr with railOff := true } }, some .ok, []⟩
    else ⟨(d.pwrPackage .dst index target).1, (d.pwrPackage .dst index target).2, []⟩
  else ⟨(d.pwrReq .dst kind index target).1, (d.pwrReq .dst kind index target).2, []⟩

/-- The package goes OFF once the answer that admits it is out. -/
def Dev.offAfterAnswer (old d : Dev) : Dev :=
  if d.pwr.railOff && !old.pwr.railOff then { d with pwr := { d.pwr with railOff := false } }.packageOff else d

theorem exec_pwrRequest (who : Caller) (kind index : Nat) (tgt : BitVec 3) (s : State) : exec (.pwrRequest who kind index tgt) s =
    .next (s.withDev (s.dev.offAfterAnswer (s.dev.serve who (runCmd 0x40) (right 0) (leBytes 1 kind ++ leBytes 2 index ++ leBytes 1 tgt.toNat)
      fun d => d.pwrAct kind index tgt.toNat))) := rfl

section
variable (ht : s.dev.takes who 0x40 = true) (hf : s.dev.cmdFails who (runCmd 0x40) true (right 0) = none) (hs : s.dev.shed < 4)
include ht hf hs

theorem serve_pwrAct {e : Dev} {kind index target : Nat} {arg : List Byte} (ha : (s.dev.sessionUsed who).pwrAct kind index target = ⟨e, some .ok, []⟩) :
    (s.dev.serve who (runCmd 0x40) (right 0) arg fun d => d.pwrAct kind index target) = e.answerTo who 1 0x40 .ok none arg [] := by
  unfold Dev.serve
  rw [serveAs_ok _ _ _ _ _ _ _ _ _ ht hf hs (by rw [ha]), ha]
  rfl

theorem leaves_pwrRequest {kind index : Nat} {tgt : BitVec 3} (hk : kind = 1 ∨ kind = 2 ∨ kind = 3)
    (hr : ((s.dev.sessionUsed who).pwrReq .dst kind index tgt.toNat).2 = some .ok)
    (ho : (((s.dev.sessionUsed who).pwrReq .dst kind index tgt.toNat).1.answerTo who 1 0x40 .ok none
      (leBytes 1 kind ++ leBytes 2 index ++ leBytes 1 tgt.toNat) []).pwr.railOff = false) :
    Leaves (.pwrRequest who kind index tgt) s (((s.dev.sessionUsed who).pwrReq .dst kind index tgt.toNat).1.answerTo who 1 0x40 .ok none
      (leBytes 1 kind ++ leBytes 2 index ++ leBytes 1 tgt.toNat) []) := by
  have ha : (s.dev.sessionUsed who).pwrAct kind index tgt.toNat = ⟨((s.dev.sessionUsed who).pwrReq .dst kind index tgt.toNat).1, some .ok, []⟩ := by
    unfold Dev.pwrAct
    rw [if_neg (by omega), if_neg (by omega), hr]
  refine leaves_of_eq ((exec_pwrRequest ..).trans ?_)
  rw [serve_pwrAct ht hf hs ha]
  unfold Dev.offAfterAnswer
  rw [ho]
  rfl

theorem leaves_pwrRequest_off {index : Nat} {tgt : BitVec 3} (hr : ((s.dev.sessionUsed who).pwrPackage .dst index tgt.toNat).2 = some .ok)
    (h0 : s.dev.pwr.railOff = false) {e : Dev}
    (he : e = ({ s.dev.sessionUsed who with pwr := { (s.dev.sessionUsed who).pwr with railOff := true } } : Dev).answerTo who 1 0x40 .ok none
      (leBytes 1 4 ++ leBytes 2 index ++ leBytes 1 tgt.toNat) []) (ho : e.pwr.railOff = true) :
    Leaves (.pwrRequest who 4 index tgt) s ({ e with pwr := { e.pwr with railOff := false } }.packageOff) := by
  have ha : (s.dev.sessionUsed who).pwrAct 4 index tgt.toNat =
      ⟨{ s.dev.sessionUsed who with pwr := { (s.dev.sessionUsed who).pwr with railOff := true } }, some .ok, []⟩ := by
    unfold Dev.pwrAct
    rw [if_neg (by decide), if_pos rfl, hr, if_pos rfl]
  refine leaves_of_eq ((exec_pwrRequest ..).trans ?_)
  rw [serve_pwrAct ht hf hs ha, ← he]
  unfold Dev.offAfterAnswer
  rw [ho, h0, if_pos (by decide)]

end

/-! ### Wake, the always-on island and the reference clocks -/

theorem completes_tkwakeN (h : s.dev.pwr.railOff = true) :
    Completes .tkwakeN s fun t => t.pwr.railOff = false ∧ t.pwr.thaw = true ∧ t.now = s.dev.now + 10000 := by
  have he : exec .tkwakeN s =
      .next (s.withDev { s.dev with now := s.dev.now + 10000, pwr := { s.dev.pwr with railOff := false, thaw := true } }) := by
    show execTkwakeN s = _
    unfold execTkwakeN onDev
    dsimp only
    rw [if_pos h]
  exact completes_of_eq he ⟨rfl, rfl, rfl⟩

theorem completes_vaonLoss (h : s.dev.pwr.railOff = true ∨ s.dev.pwr.thaw = true) :
    Completes .vaonLoss s fun t => t.pwr.railOff = false ∧ t.pwr.thaw = false ∧ t.pwr.pwrok = false ∧ t.pwr.keepStore = [] := by
  refine completes_of (fun d => if d.pwr.railOff || d.pwr.thaw then
    { d with pwr := { d.pwr with railOff := false, thaw := false, keepStore := [], pwrok := false } } else d) rfl ?_
  rw [if_pos (by rw [Bool.or_eq_true]; exact h)]
  exact ⟨rfl, rfl, rfl, rfl⟩

/-- The device whose 25 MHz reference clock is lost, which TB_STATUS shows. -/
def Dev.ref25Gone (d : Dev) : Dev := { d with pwr := { d.pwr with ref25Lost := true } }.setRegF Reg.TB_STATUS 0 0 0

theorem leaves_refclk25Loss (h : s.dev.pwr.ref25Lost = false) :
    Leaves .refclk25Loss s (if s.dev.distaffUp then s.dev.ref25Gone.audit 2 5 0xFF 0 0xFF 0 0 [] else s.dev.ref25Gone) := by
  refine leaves_of (fun d => if d.pwr.ref25Lost then d else
    if d.ref25Gone.distaffUp then d.ref25Gone.audit 2 5 0xFF 0 0xFF 0 0 [] else d.ref25Gone) rfl ?_
  rw [if_neg (by rw [h]; decide)]
  rfl

theorem completes_refclk25Restore (h : s.dev.pwr.pwrok = true ∨ s.dev.pwr.railOff = true ∨ s.dev.pwr.thaw = true) :
    Completes .refclk25Restore s fun t => t.pwr.ref25Lost = false ∧ t.regF Reg.TB_STATUS 0 0 = 1 := by
  have hp : (s.dev.pwr.pwrok || s.dev.pwr.railOff || s.dev.pwr.thaw) = true := by
    rw [Bool.or_eq_true, Bool.or_eq_true, or_assoc]
    exact h
  have he : exec .refclk25Restore s =
      .next (s.withDev ({ s.dev with pwr := { s.dev.pwr with ref25Lost := false } }.setRegF Reg.TB_STATUS 0 0 1)) := by
    show execRefclk25Restore s = _
    unfold execRefclk25Restore onDev
    dsimp only
    rw [if_pos hp]
  exact completes_of_eq he ⟨rfl, regF_setRegF_of_lt _ _ 0 0 1 (by decide) le_rfl (by decide)⟩

theorem completes_refclk100Loss (hu : s.dev.distaffUp = true) (hs : s.dev.safe = false) :
    Completes .refclk100Loss s fun t => t.safe = true ∧ t.boot.safeBy = some .spares := by
  refine completes_of (fun d => if d.distaffUp then d.enterSafe .spares else d) rfl ?_
  rw [if_pos hu]
  exact enterSafe_of_not_safe hs _

end

/-- Settles O46: each event of the package's power, from what its checks let it do. -/
theorem packagePowerComplete : Obligations.PackagePowerComplete := by
  intro b who kind index tgt s d u arg admits
  exact ⟨leaves_pwrokRise b, fun h => ⟨completes_pwrokFall_off h, completes_pwrokFall_lost h⟩, leaves_pwrReqPackage,
    fun ⟨ht, hf, hs⟩ hk hr ho => leaves_pwrRequest ht hf hs hk hr ho, fun ⟨ht, hf, hs⟩ hr h0 ho => leaves_pwrRequest_off ht hf hs hr h0 rfl ho,
    completes_tkwakeN, completes_vaonLoss, leaves_refclk25Loss, completes_refclk25Restore, completes_refclk100Loss⟩

end Sys2Proof.Machine
end

section
/-! PROOFS. Release, reset and watchdogs (08 R272, R273, 18 R559 to R565). -/
namespace Sys2Proof.Machine

section
variable {who : Caller} {s : State}

/-! ### Release -/

/-- The time that an image gives a secure watchdog, in ns. -/
def Dev.swdogTime (d : Dev) : Nat := (match d.img.img with | some i => i.swdogMs | none => 0) * 1000000

/-- The device whose released skein has its secure countdown running, where it is secure and has a loader. -/
def Dev.swdogArmed (d : Dev) (c : SkeinCfg) (sk : Nat) : Dev :=
  if c.secure = true ∧ (d.loaderOf sk).isSome = true then d.updWd sk fun w => { w with sDeadline := some (d.now + d.swdogTime) } else d

/-- The device whose skein waits no longer for its release. -/
def Dev.releaseDone (d : Dev) (sk : Nat) : Dev := { d with boot := { d.boot with toRelease := d.boot.toRelease.filter fun x => x != sk } }

theorem leaves_skeinRelease {sk : Fin 16} {c : SkeinCfg} (hc : s.dev.skeinCfg sk.val = some c) (hk : s.dev.boot.kind ≠ 0) (hs : s.dev.safe = false)
    (hl : s.dev.boot.links = true) (hd : s.dev.boot.dram = true) (hi : s.dev.boot.image = true) (hm : sk.val ∈ s.dev.boot.toRelease) :
    Leaves (.skeinRelease sk) s
      (if (((s.dev.release c).swdogArmed c sk.val).releaseDone sk.val).boot.toRelease = [] then
        (((s.dev.release c).swdogArmed c sk.val).releaseDone sk.val).started
      else ((s.dev.release c).swdogArmed c sk.val).releaseDone sk.val) := by
  have hg : ¬ ((decide (s.dev.boot.kind = 0) || s.dev.safe || !(s.dev.boot.links && s.dev.boot.dram && s.dev.boot.image) ||
      !s.dev.boot.toRelease.contains sk.val) = true) := by
    rw [decide_eq_false hk, hs, hl, hd, hi, List.contains_iff_mem.2 hm]
    decide
  apply leaves_of_eq
  show execSkeinRelease sk s = _
  unfold execSkeinRelease onDev
  simp only [hc, if_neg hg]
  rfl

/-! ### Resets that are due -/

section
variable {scope k : Nat} (h : (scope, k) ∈ s.dev.boot.resets)
include h

theorem contains_resets : s.dev.boot.resets.contains (scope, k) = true := List.contains_iff_mem.2 h

end

theorem leaves_skeinReset {sk : Fin 16} {c : SkeinCfg} (hc : s.dev.skeinCfg sk.val = some c) (hm : (1, sk.val) ∈ s.dev.boot.resets)
    (hr : s.dev.reelsDone c = true) (hs : s.dev.safe = false) : Leaves (.skeinReset sk) s ((s.dev.skeinReset c).resetDone 1 sk.val) := by
  apply leaves_of_eq
  show execSkeinReset sk s = _
  unfold execSkeinReset onDev
  simp only [hc, contains_resets hm, hr, hs]
  rfl

theorem leaves_packageReset (b : BootInputs) (hm : (0, 0) ∈ s.dev.boot.resets) : Leaves (.packageReset b) s (s.dev.packageReset b) := by
  apply leaves_of_eq
  show execPackageReset b s = _
  unfold execPackageReset onDev
  simp only [contains_resets hm, if_true]

/-- The device after the reset of an LCN that is due. -/
def Dev.coreResetDue (d : Dev) (l : Nat) : Dev :=
  (if (d.core l).released then d.dropDelta.coreReset l else d.dropDelta).resetDone 2 l

theorem leaves_coreReset {l : Fin 384} {c : SkeinCfg} (hc : s.dev.cfgOf l.val = some c) (hm : (2, l.val) ∈ s.dev.boot.resets)
    (hr : s.dev.reelsDone c = true) (hs : s.dev.safe = false) :
    Leaves (.coreReset l) s (if (((s.dev.coreResetDue l.val).domOf l.val).st = .run ∧ ((s.dev.coreResetDue l.val).domOf l.val).transit = false) ∨
        mget false (s.dev.coreResetDue l.val).lost l.val = true then s.dev.coreResetDue l.val
      else ((s.dev.coreResetDue l.val).setDom l.val ⟨.run, false, .run, (s.dev.coreResetDue l.val).now, false, none⟩).openPort l.val) := by
  apply leaves_of_eq
  show execCoreReset l s = _
  unfold execCoreReset onDev
  simp only [hc, contains_resets hm, hr, hs, Bool.not_false, Bool.and_self, if_true]
  rw [← Dev.coreResetDue]
  simp only [Bool.not_eq_true']

/-! ### The RESET command -/

/-- What a RESET command does. -/
def Dev.resetAct (d : Dev) (who : Caller) (kind index : Nat) (sk : Option SkeinCfg) : Done :=
  if kind = 0 then
    if d.safe ∧ (257 ≤ callerLine who ∨ d.boot.safeBy = some .thermal ∨ d.boot.swdogDue.isSome) then d.ends .halted
    else if d.boot.resets.contains (0, 0) then d.ends .busy
    else (d.orderReset 0 0).ends .ok
  else if d.safe then d.ends .halted
  else if 2 < kind then d.ends .range
  else match sk with
    | none => d.ends .range
    | some c =>
      if kind = 2 ∧ mget false d.lost index then d.ends .state
      else if d.boot.resets.any fun (x : Nat × Nat) => (x.1 == 1 && x.2 == c.skein) || (x.1 == 2 && c.lcnMask.testBit x.2) then d.ends .busy
      else (d.orderReset kind index).ends .ok

theorem exec_resetCmd_package (who : Caller) (s : State) : exec (.resetCmd who 0 0) s =
    .next (s.withDev (s.dev.serveAs who ⟨0x41, false, false, true, false, true⟩ 1 none true (right 0) (leBytes 1 0 ++ leBytes 2 0)
      fun d => d.resetAct who 0 0 none)) := rfl

theorem exec_resetCmd {kind index : Nat} {c : SkeinCfg} (hk : kind = 1 ∨ kind = 2) (hc : s.dev.resetSkein kind index = some c) :
    exec (.resetCmd who kind index) s =
      .next (s.withDev (s.dev.serveAs who ⟨0x41, mayReset who c none, mayReset who c none, false, false, true⟩ 1 none true (mayReset who c)
        (leBytes 1 kind ++ leBytes 2 index) fun d => d.resetAct who kind index (some c))) := by
  show execResetCmd who kind index s = _
  unfold execResetCmd onDev
  dsimp only
  rw [hc]
  obtain rfl | rfl := hk <;> rfl

theorem leaves_resetCmd_package (ht : s.dev.takes who 0x41 = true)
    (hf : s.dev.cmdFails who ⟨0x41, false, false, true, false, true⟩ true (right 0) = none) (hs : s.dev.shed < 4) (hn : (0, 0) ∉ s.dev.boot.resets)
    (hsafe : s.dev.safe = true → callerLine who < 257 ∧ s.dev.boot.safeBy ≠ some .thermal ∧ s.dev.boot.swdogDue = none) :
    Leaves (.resetCmd who 0 0) s (((s.dev.sessionUsed who).orderReset 0 0).answerTo who 1 0x41 .ok none (leBytes 1 0 ++ leBytes 2 0) []) := by
  have h1 : ¬ (s.dev.safe = true ∧ (257 ≤ callerLine who ∨ s.dev.boot.safeBy = some .thermal ∨ s.dev.boot.swdogDue.isSome = true)) := by
    rintro ⟨h, ho⟩
    obtain ⟨hl, hb, hw⟩ := hsafe h
    obtain ho | ho | ho := ho
    · omega
    · exact hb ho
    · rw [hw] at ho
      exact absurd ho (by decide)
  have h2 : s.dev.boot.resets.contains (0, 0) = false := by simpa using hn
  have h3 : (s.dev.sessionUsed who).resetAct who 0 0 none = ((s.dev.sessionUsed who).orderReset 0 0).ends .ok := by
    unfold Dev.resetAct
    rw [if_pos rfl]
    exact (if_neg h1).trans (if_neg (by rw [show (s.dev.sessionUsed who).boot = s.dev.boot from rfl, h2]; decide))
  exact leaves_serveAs (c := ⟨0x41, false, false, true, false, true⟩) _ (exec_resetCmd_package who s) ht hf hs h3

theorem leaves_resetCmd {kind index : Nat} {c : SkeinCfg} (hk : kind = 1 ∨ kind = 2) (hc : s.dev.resetSkein kind index = some c)
    (ht : s.dev.takes who 0x41 = true)
    (hf : s.dev.cmdFails who ⟨0x41, mayReset who c none, mayReset who c none, false, false, true⟩ true (mayReset who c) = none)
    (hs : s.dev.shed < 4) (hsafe : s.dev.safe = false) (hl : kind = 2 → mget false s.dev.lost index = false)
    (hn : ∀ x ∈ s.dev.boot.resets, ¬ (x.1 = 1 ∧ x.2 = c.skein) ∧ ¬ (x.1 = 2 ∧ c.lcnMask.testBit x.2 = true)) :
    Leaves (.resetCmd who kind index) s
      (((s.dev.sessionUsed who).orderReset kind index).answerTo who 1 0x41 .ok none (leBytes 1 kind ++ leBytes 2 index) []) := by
  have h1 : (s.dev.boot.resets.any fun (x : Nat × Nat) => (x.1 == 1 && x.2 == c.skein) || (x.1 == 2 && c.lcnMask.testBit x.2)) = false := by
    refine List.any_eq_false.2 fun x hx => ?_
    obtain ⟨ha, hb⟩ := hn x hx
    simp only [Bool.or_eq_true, Bool.and_eq_true, beq_iff_eq]
    exact not_or.2 ⟨ha, hb⟩
  have h2 : ¬ (kind = 2 ∧ mget false s.dev.lost index = true) := by
    rintro ⟨h, ho⟩
    rw [hl h] at ho
    exact absurd ho (by decide)
  have hu : (s.dev.sessionUsed who).safe = false := hsafe
  have h3 : (s.dev.sessionUsed who).resetAct who kind index (some c) = ((s.dev.sessionUsed who).orderReset kind index).ends .ok := by
    unfold Dev.resetAct
    rw [if_neg (by omega), hu, if_neg (by decide), if_neg (by omega)]
    exact (if_neg h2).trans (if_neg (by rw [show (s.dev.sessionUsed who).boot = s.dev.boot from rfl, h1]; decide))
  exact leaves_serveAs (c := ⟨0x41, mayReset who c none, mayReset who c none, false, false, true⟩) _ (exec_resetCmd hk hc) ht hf hs h3

/-! ### Watchdogs -/

/-- The device whose SEC_SWDOG_LAST shows one more expiry, of a skein. -/
def Dev.swdogShown (d : Dev) (sk : Nat) : Dev :=
  (d.setRegF Reg.SEC_SWDOG_LAST 23 16 sk).setRegF Reg.SEC_SWDOG_LAST 15 0 (min 0xFFFF (d.regF Reg.SEC_SWDOG_LAST 15 0 + 1))

theorem leaves_swdogExpire {sk : Fin 16} {t0 : Nat} (h : (s.dev.wd sk.val).sDeadline = some t0) :
    Leaves (.swdogExpire sk) s (((((s.dev.timeTo t0).updWd sk.val fun w => { w with sDeadline := none }).swdogShown sk.val).enterSafe (.swdog sk)).audit
      2 5 0xFF 0 sk.val 0 0 (leBytes 1 sk.val)) := by
  apply leaves_of_eq
  show execSwdogExpire sk s = _
  unfold execSwdogExpire onDev
  simp only [h]
  rfl

theorem mem_orderReset (d : Dev) (scope k : Nat) : (scope, k) ∈ (d.orderReset scope k).boot.resets := by
  unfold Dev.orderReset
  split
  · next h => exact List.contains_iff_mem.1 h
  · exact List.mem_append_right _ (List.mem_singleton_self _)

theorem orderReset_now (d : Dev) (scope k : Nat) : (d.orderReset scope k).now = d.now := by unfold Dev.orderReset; split <;> rfl

theorem completes_swdogPackageReset (sk : Fin 16) {t0 : Nat} (h : s.dev.boot.swdogDue = some t0) :
    Completes (.swdogPackageReset sk) s fun t => (0, 0) ∈ t.boot.resets ∧ t0 ≤ t.now := by
  have he : exec (.swdogPackageReset sk) s = .next (s.withDev ((s.dev.timeTo t0).orderReset 0 0)) := by
    show execSwdogPackageReset sk s = _
    unfold execSwdogPackageReset onDev
    simp only [h]
  refine completes_of_eq he ⟨mem_orderReset .., ?_⟩
  rw [orderReset_now]
  exact le_max_right ..

section
variable {sk : Fin 16} (hh : s.dev.hasNdog sk.val = true) (he : (s.dev.wd sk.val).en = true) (hs : s.dev.safe = false)
include hh he hs

theorem leaves_ndogWarn (hw : (s.dev.wd sk.val).warned = false) : Leaves (.ndogWarn sk) s
    (((s.dev.timeTo (s.dev.wd sk.val).nDeadline).updWd sk.val fun w =>
      { w with warned := true, nDeadline := (s.dev.timeTo (s.dev.wd sk.val).nDeadline).now + w.inForce * 1000000 }).raiseLocal
        (s.dev.wd sk.val).target.toNat 0xF8) := by
  apply leaves_of_eq
  show execNdogWarn sk s = _
  unfold execNdogWarn onDev
  simp only [hh, he, hs, hw, Bool.not_true, Bool.or_false, Bool.false_eq_true, if_false]

theorem leaves_ndogExpire (hw : (s.dev.wd sk.val).warned = true) (hn : (1, sk.val) ∉ s.dev.boot.resets) : Leaves (.ndogExpire sk) s
    (((s.dev.timeTo (s.dev.wd sk.val).nDeadline).orderReset 1 sk.val).audit 2 5 0xFF 0 sk.val 0 0 (leBytes 1 sk.val)) := by
  have hc : s.dev.boot.resets.contains (1, sk.val) = false := by simpa using hn
  apply leaves_of_eq
  show execNdogExpire sk s = _
  unfold execNdogExpire onDev
  simp only [hh, he, hs, hw, hc, Bool.not_true, Bool.or_false, Bool.false_eq_true, if_false]

end
end

/-- Settles O47: each event where what it asks for holds. -/
theorem resetsComplete : Obligations.ResetsComplete := by
  intro b who sk l c t0 kind index s d u due w
  exact ⟨fun hc => ⟨fun hk hs hl hd hi hm => leaves_skeinRelease hc hk hs hl hd hi hm, leaves_skeinReset hc⟩, leaves_packageReset b, leaves_coreReset,
    leaves_resetCmd_package, fun hk hc => leaves_resetCmd hk hc, leaves_swdogExpire, completes_swdogPackageReset sk,
    fun hh he hs => ⟨leaves_ndogWarn hh he hs, leaves_ndogExpire hh he hs⟩⟩

end Sys2Proof.Machine
end

section
/-! PROOFS. Inbound requests and the invalidations of the IOTU (09 R304 to R309, 14 R437). -/
namespace Sys2Proof.Machine

section
variable {s : State}

/-! ### Inbound requests -/

/-- An inbound request of a function that is not translated yet. -/
def inboundAccess (b : Nat) (req : DmaReq) : HubAccess :=
  { agent := 17, bd := b, rid := req.rid.toNat, pa := 0, write := req.kind.val == 1
    len := if req.kind.val == 1 then req.data.length else req.len
    data := req.data, ep := req.poisoned, relaxed := req.relaxed, mt := .wb, bus := none, leaf := 0, inv := false }

/-- An access that was translated by an entry. -/
def HubAccess.through (x : HubAccess) (pa : Nat) (y : TlbEntry) : HubAccess := { x with pa := pa, mt := leafType y.leaf, leaf := y.leafAt }

/-- The answer to an inbound request that is refused: none to a write. -/
def Dev.refuseInbound (d : Dev) (x : HubAccess) : Dev := if x.write then d else d.emit (.rpAnswer x.bd x.rid 1 [])

/-- A root port takes requests: it is in UP and its link is in L0. -/
def Dev.rootUp (d : Dev) (b : Nat) : Prop := d.bundleMode b = 1 ∧ d.safe = false ∧ (d.bun b).l0 = true ∧ d.pceState b = 1

theorem hubAnswer_dead {x : HubAccess} (hx : x.agent = 17) (d : Dev) : d.hubAnswer x .dead [] = d.refuseInbound x := by
  unfold Dev.hubAnswer Dev.refuseInbound
  rw [if_pos hx]
  rfl

section
variable {d e : Dev} {x : HubAccess} {addr : Word}

theorem ioStart_off (hx : x.agent = 17) (h : d.ioOn x.bd = false) : d.ioStart x addr = d.refuseInbound x := by
  unfold Dev.ioStart
  rw [if_pos (by rw [h]; decide), hubAnswer_dead hx]

section
variable (h : d.ioOn x.bd = true)
include h

theorem ioStart_translated {pa : Nat} {y : TlbEntry} (ht : d.ioTranslate x.bd x.rid addr x.write x.len = (e, .ok (pa, y))) (hb : x.bus = none) :
    d.ioStart x addr = e.hubGo (x.through pa y) := by
  unfold Dev.ioStart HubAccess.through
  rw [if_neg (by rw [h]; decide), ht, hb]

theorem ioStart_fault (hx : x.agent = 17) {code sub : Nat} (ht : d.ioTranslate x.bd x.rid addr x.write x.len = (e, .error (.fault code sub))) :
    d.ioStart x addr = (e.ioFault x.bd x.rid addr x.write code sub).refuseInbound x := by
  unfold Dev.ioStart
  rw [if_neg (by rw [h]; decide), ht]
  exact hubAnswer_dead hx _

theorem ioStart_wait (ht : d.ioTranslate x.bd x.rid addr x.write x.len = (e, .error .wait)) :
    d.ioStart x addr = e.hubQueue { x with bus := some addr } := by
  unfold Dev.ioStart
  rw [if_neg (by rw [h]; decide), ht]

end

theorem hubGo_done {f : Dev} {st : Status} {bs : List Byte} (hb : d.hubBlocked x = false) (ht : d.hubTry x = (f, .done st bs)) :
    d.hubGo x = f.hubAnswer x st bs := by
  unfold Dev.hubGo
  rw [if_neg (by rw [hb]; decide), ht]

end

section
variable {bd : Fin 8} {req : DmaReq}

theorem exec_inbound (bd : Fin 8) (req : DmaReq) (s : State) : exec (.inboundDmaRequest bd req) s =
    .next (s.withDev (if s.dev.bundleMode bd.val ≠ 1 || s.dev.safe || !(s.dev.bun bd.val).l0 || s.dev.pceState bd.val != 1 then s.dev
      else if req.ats || decide (1 < req.kind.val) then s.dev.emit (.rpAnswer bd.val req.rid.toNat 1 [])
      else s.dev.ioStart (inboundAccess bd.val req) req.addr)) := rfl

theorem leaves_inbound_down (h : ¬ s.dev.rootUp bd.val) : Leaves (.inboundDmaRequest bd req) s s.dev := by
  refine leaves_of_eq ((exec_inbound ..).trans ?_)
  rw [if_pos]
  unfold Dev.rootUp at h
  simp only [Bool.or_eq_true, decide_eq_true_eq, Bool.not_eq_true', bne_iff_ne]
  rw [← Bool.not_eq_false s.dev.safe, ← Bool.not_eq_true (s.dev.bun bd.val).l0]
  tauto

section
variable (h : s.dev.rootUp bd.val)
include h

theorem exec_inbound_up : exec (.inboundDmaRequest bd req) s =
    .next (s.withDev (if req.ats || decide (1 < req.kind.val) then s.dev.emit (.rpAnswer bd.val req.rid.toNat 1 [])
      else s.dev.ioStart (inboundAccess bd.val req) req.addr)) := by
  obtain ⟨hm, hs, hl, hp⟩ := h
  rw [exec_inbound, if_neg (by rw [hm, hs, hl, hp]; decide)]

theorem leaves_inbound_unsupported (hr : req.ats = true ∨ 1 < req.kind.val) :
    Leaves (.inboundDmaRequest bd req) s (s.dev.emit (.rpAnswer bd.val req.rid.toNat 1 [])) := by
  refine leaves_of_eq ((exec_inbound_up h).trans ?_)
  rw [if_pos (by rw [Bool.or_eq_true, decide_eq_true_eq]; exact hr)]

/-- A request that the root port implements goes to the IOTU. -/
theorem leaves_inbound (ha : req.ats = false) (hk : req.kind.val ≤ 1) {d : Dev} (hd : s.dev.ioStart (inboundAccess bd.val req) req.addr = d) :
    Leaves (.inboundDmaRequest bd req) s d := by
  refine leaves_of_eq ((exec_inbound_up h).trans ?_)
  rw [ha, decide_eq_false (Nat.not_lt.2 hk), if_neg (by decide), hd]

end
end

/-! ### Invalidations -/

/-- The device whose invalidation ended with a status. -/
def Dev.ioInvResult (d : Dev) (b : Nat) (st : Status) : Dev :=
  (if st = .state then d.count (Reg.MMU_IO_STATE_REJECT b) else d).setRegF (Reg.MMU_IO_INV_STATUS b) 31 24 st.code

theorem ioInvResult_iotu (d : Dev) (b : Nat) (st : Status) : (d.ioInvResult b st).iotu = d.iotu := by unfold Dev.ioInvResult; split <;> rfl

theorem ioInvResult_shown (d : Dev) (b : Nat) (st : Status) : (d.ioInvResult b st).regF (Reg.MMU_IO_INV_STATUS b) 31 24 = st.code :=
  regF_setRegF_of_lt _ _ _ _ _ (by decide) (by decide) (statusCode_lt st)

theorem invCmd_ne_status (b : Nat) : Reg.MMU_IO_INV_CMD b ≠ Reg.MMU_IO_INV_STATUS b := by unfold Reg.MMU_IO_INV_CMD Reg.MMU_IO_INV_STATUS; omega
theorem invCmd_ne_cfg (b : Nat) : Reg.MMU_IO_INV_CMD b ≠ Reg.MMU_IO_CFG b := by unfold Reg.MMU_IO_INV_CMD Reg.MMU_IO_CFG; omega

/-- The device whose invalidation command shows what it names. -/
def Dev.ioInvNamed (d : Dev) (b id : Nat) : Dev := d.setRegF (Reg.MMU_IO_INV_CMD b) 31 16 id

section
variable (d : Dev) (b id : Nat)

theorem ioInvNamed_on : (d.ioInvNamed b id).ioOn b = d.ioOn b := by
  unfold Dev.ioOn
  rw [Dev.ioInvNamed, regF_setRegF_other _ _ _ _ _ _ _ _ (invCmd_ne_cfg b)]

theorem ioInvNamed_busy : (d.ioInvNamed b id).regF (Reg.MMU_IO_INV_STATUS b) 8 8 = d.regF (Reg.MMU_IO_INV_STATUS b) 8 8 :=
  regF_setRegF_other _ _ _ _ _ _ _ _ (invCmd_ne_status b)

end

/-- The requests that translated through an entry which a drop removes wait for its end. -/
def Dev.ioDropped (d : Dev) (b : Nat) (new : Iotu) : Dev :=
  d.hubMap fun x => if x.agent == 17 && x.bd == b && x.bus.isNone &&
      ((d.iotu.streams.any fun (e : Nat × IoStream) => e.1 == ioKey b x.rid && !new.streams.contains e) ||
       (d.iotu.tlb.any fun (e : Nat × TlbEntry) => e.1 == ioKey b x.rid && e.2.leafAt == x.leaf && !new.tlb.contains e)) then { x with inv := true } else x

/-- The device whose invalidation is under way. -/
def Dev.ioInvBegun (d : Dev) (b : Nat) (new : Iotu) : Dev :=
  (((d.ioDropped b new).ioInvResult b .ok).updIotu fun _ => new).setRegF (Reg.MMU_IO_INV_STATUS b) 8 8 1

theorem ioInvBegun_iotu (d : Dev) (b : Nat) (new : Iotu) : (d.ioInvBegun b new).iotu = new := rfl

theorem ioInvBegun_result (d : Dev) (b : Nat) (new : Iotu) : (d.ioInvBegun b new).regF (Reg.MMU_IO_INV_STATUS b) 31 24 = 0 := by
  rw [Dev.ioInvBegun, regF_setRegF_ne _ _ _ _ _ _ _ (by decide) le_rfl (.inl (by decide)), regF_congr (updIotu_regs _ _), ioInvResult_shown]
  rfl

/-- What an invalidation does, its checks in order. -/
theorem ioInv_eq (d : Dev) (q : Requester) (b id kind : Nat) (f : Iotu → Iotu) : d.ioInv q b id kind f =
    if !d.ioWrites q b then d
    else if kind = 0 then d.ioInvNamed b id
    else if d.safe then (d.ioInvNamed b id).ioInvResult b .halted
    else if !d.ioOn b then (d.ioInvNamed b id).ioInvResult b .state
    else if 4 < kind then (d.ioInvNamed b id).ioInvResult b .range
    else if d.regF (Reg.MMU_IO_INV_STATUS b) 8 8 = 1 then (d.ioInvNamed b id).ioInvResult b .busy
    else (d.ioInvNamed b id).ioInvBegun b (f d.iotu) := by
  rw [← ioInvNamed_on d b id, ← ioInvNamed_busy d b id]
  rfl

section
variable {q : Requester} {b id kind : Nat} {f : Iotu → Iotu} {c : Instr}
  (he : exec c s = .next (s.withDev (s.dev.ioInv q b id kind f)))
include he

theorem leaves_ioInv_denied (hw : s.dev.ioWrites q b = false) : Leaves c s s.dev := by
  refine leaves_of_eq (he.trans ?_)
  rw [ioInv_eq, if_pos (by rw [hw]; decide)]

variable (hk : 1 ≤ kind ∧ kind ≤ 4) (hw : s.dev.ioWrites q b = true)
include hk hw

theorem completes_ioInv_done (hs : s.dev.safe = false) (ho : s.dev.ioOn b = true) (hb : s.dev.regF (Reg.MMU_IO_INV_STATUS b) 8 8 = 0) :
    Completes c s fun t => t.iotu = f s.dev.iotu ∧ t.regF (Reg.MMU_IO_INV_STATUS b) 8 8 = 1 ∧ t.regF (Reg.MMU_IO_INV_STATUS b) 31 24 = 0 := by
  rw [ioInv_eq, if_neg (by rw [hw]; decide), if_neg (by omega), if_neg (by rw [hs]; decide), if_neg (by rw [ho]; decide), if_neg (by omega),
    if_neg (by rw [hb]; decide)] at he
  refine completes_of_eq he ⟨ioInvBegun_iotu .., regF_setRegF_of_lt _ _ _ _ _ (by decide) le_rfl (by decide), ioInvBegun_result ..⟩

theorem completes_ioInv_refused (h : s.dev.safe = true ∨ s.dev.ioOn b = false ∨ s.dev.regF (Reg.MMU_IO_INV_STATUS b) 8 8 = 1) :
    Completes c s fun t => t.iotu = s.dev.iotu ∧
      t.regF (Reg.MMU_IO_INV_STATUS b) 31 24 = (if s.dev.safe then Status.halted else if s.dev.ioOn b then Status.busy else Status.state).code := by
  suffices hr : s.dev.ioInv q b id kind f =
      (s.dev.ioInvNamed b id).ioInvResult b (if s.dev.safe then Status.halted else if s.dev.ioOn b then Status.busy else Status.state) by
    rw [hr] at he
    exact completes_of_eq he ⟨ioInvResult_iotu .., ioInvResult_shown ..⟩
  have h4 : ¬ 4 < kind := by omega
  rw [ioInv_eq, if_neg (by rw [hw]; decide), if_neg (by omega)]
  cases hs : s.dev.safe with
  | true => simp only [if_true]
  | false =>
    cases ho : s.dev.ioOn b with
    | false => simp only [Bool.not_false, Bool.false_eq_true, if_true, if_false]
    | true =>
      have hb : s.dev.regF (Reg.MMU_IO_INV_STATUS b) 8 8 = 1 := by simpa [hs, ho] using h
      simp only [Bool.not_true, Bool.false_eq_true, if_true, if_false, h4, hb]

end

theorem leaves_iotuInvDone (bd : Fin 8) : Leaves (.iotuInvDone bd) s
    (if s.dev.hubWaiting.any fun x => x.inv && x.bd == bd.val then s.dev else s.dev.setRegF (Reg.MMU_IO_INV_STATUS bd.val) 8 8 0) :=
  leaves_of_eq rfl

end

/-- Settles O48: an inbound request by the port's state and its translation; the four invalidations are one, with another drop. -/
theorem iotuComplete : Obligations.IotuComplete := by
  intro bd req q id pa code sub y e f st bs c s
  dsimp only
  refine ⟨fun h => ⟨leaves_inbound_unsupported h, fun ha hk => ⟨fun ho => leaves_inbound h ha hk (ioStart_off (x := inboundAccess bd.val req) rfl ho),
      fun ho => ⟨fun ht => ?_, fun ht => leaves_inbound h ha hk (ioStart_fault (x := inboundAccess bd.val req) ho rfl ht),
        fun ht => leaves_inbound h ha hk (ioStart_wait (x := inboundAccess bd.val req) ho ht)⟩⟩⟩,
    leaves_inbound_down, fun hw hs ho hb => ⟨completes_ioInv_done (id := id.toNat) (kind := 1) (f := Iotu.dropStream bd.val id.toNat) rfl (by decide) hw hs ho hb,
      completes_ioInv_done (id := id.toNat) (kind := 2) (f := Iotu.dropAsid bd.val id) rfl (by decide) hw hs ho hb,
      completes_ioInv_done (kind := 3) (f := Iotu.dropVa bd.val (s.dev.reg64 (Reg.MMU_IO_INV_VA_LO bd.val) % 2 ^ 48)
        (BitVec.ofNat 16 (s.dev.regF (Reg.MMU_IO_INV_CMD bd.val) 31 16))) rfl (by decide) hw hs ho hb,
      completes_ioInv_done (kind := 4) (f := Iotu.dropAll bd.val) rfl (by decide) hw hs ho hb⟩, fun hc => ?_, fun h => ?_, fun h => ?_⟩
  · have hg := ioStart_translated (x := inboundAccess bd.val req) ho ht rfl
    exact ⟨leaves_inbound h ha hk hg, fun hb hd => leaves_inbound h ha hk (hg.trans (hubGo_done hb hd))⟩
  · have hx : ∃ i k g, (1 ≤ k ∧ k ≤ 4) ∧ exec c s = .next (s.withDev (s.dev.ioInv q bd.val i k g)) := by
      simp only [List.mem_cons, List.not_mem_nil, or_false] at hc
      obtain rfl | rfl | rfl | rfl := hc
      · exact ⟨_, 1, _, by decide, rfl⟩
      · exact ⟨_, 2, _, by decide, rfl⟩
      · exact ⟨_, 3, _, by decide, rfl⟩
      · exact ⟨_, 4, _, by decide, rfl⟩
    obtain ⟨i, k, g, hk, he⟩ := hx
    exact ⟨completes_ioInv_refused he hk, leaves_ioInv_denied he⟩
  · have hl := leaves_iotuInvDone (s := s) bd
    rwa [if_neg (by rw [h]; decide)] at hl
  · have hl := leaves_iotuInvDone (s := s) bd
    rwa [if_pos h] at hl

end Sys2Proof.Machine
end

section
/-! PROOFS. DEVICE requests, delivered vectors and window accesses (10 R318 to R321, 12 R372, R379, 18 R555, R574). -/
namespace Sys2Proof.Machine

section
variable {s : State}

/-! ### A DEVICE request and its end -/

/-- A DEVICE request at its target, as the level of its instruction. -/
def Dev.devTried (d : Dev) (l : Fin 384) (r : DevReq) : Dev × Reply := (d.updCore l.val fun c => { c with level := r.lvl }).devAccess l r

/-- The device after a target took a request, the level of the core back. -/
def Dev.devBack (d : Dev) (l : Fin 384) (r : DevReq) : Dev :=
  (d.devTried l r).1.updCore l.val fun c => { c with level := (d.core l.val).level }

theorem exec_devArrives (l : Fin 384) (tid : Nat) (r : DevReq) (s : State) :
    exec (if r.write then .wrdev l tid else .rddev l tid) s = .next (s.withDev (s.dev.devArrive l tid r.write)) := by
  cases r.write <;> rfl

section
variable {l : Fin 384} {tid : Nat} {r : DevReq} (h : (s.dev.core l.val).devReq tid = some r)
include h

section
variable (hn : r.answer = none) (hs : r.sent = false) (he : (s.dev.core l.val).earlier r (fun z => z.answer.isNone && !z.sent) = false)
include hn hs he

theorem leaves_devArrives_done {st : Status} {v : Nat} (ha : (s.dev.devTried l r).2 = .done st v) : Leaves (if r.write then .wrdev l tid else .rddev l tid) s
    ((s.dev.devBack l r).updCore l.val fun c => c.updReq tid fun x => { x with answer := some (st, v) }) := by
  refine leaves_of_eq ((exec_devArrives ..).trans ?_)
  unfold Dev.devArrive
  unfold Dev.devTried at ha
  simp only [h, hn, hs, he, ha, bne_self_eq_false, Option.isSome_none, Bool.or_self, Bool.false_eq_true, if_false]
  rfl

theorem leaves_devArrives_sent (ha : (s.dev.devTried l r).2 = .sent) : Leaves (if r.write then .wrdev l tid else .rddev l tid) s
    ((s.dev.devBack l r).updCore l.val fun c => c.updReq tid fun x => { x with sent := true }) := by
  refine leaves_of_eq ((exec_devArrives ..).trans ?_)
  unfold Dev.devArrive
  unfold Dev.devTried at ha
  simp only [h, hn, hs, he, ha, bne_self_eq_false, Option.isSome_none, Bool.or_self, Bool.false_eq_true, if_false]
  rfl

theorem leaves_devArrives_waits (ha : (s.dev.devTried l r).2 = .waits) : Leaves (if r.write then .wrdev l tid else .rddev l tid) s (s.dev.devBack l r) := by
  refine leaves_of_eq ((exec_devArrives ..).trans ?_)
  unfold Dev.devArrive
  unfold Dev.devTried at ha
  simp only [h, hn, hs, he, ha, bne_self_eq_false, Option.isSome_none, Bool.or_self, Bool.false_eq_true, if_false]
  rfl

end

section
variable {outside : Completion} (he : (s.dev.core l.val).earlier r (fun _ => true) = false)
include he

theorem leaves_cmpl {st : Status} {v : Nat} (ha : r.answer = some (st, v)) : Leaves (.cmpl l tid outside) s (s.dev.devEnd l r st v) := by
  apply leaves_of_eq
  show execCmpl l tid outside s = _
  unfold execCmpl onDev
  simp only [h, he, ha, Bool.false_eq_true, if_false]

theorem leaves_cmpl_stored {v : Nat} (ha : r.answer = some (.ok, v)) (hq : r.quiet = false) (hw : r.write = true) :
    Leaves (.cmpl l tid outside) s ((s.dev.updCore l.val fun c => c.endReq r.tid).drain l.val) := by
  have hd : s.dev.devEnd l r .ok v = (s.dev.updCore l.val fun c => c.endReq r.tid).drain l.val := by
    unfold Dev.devEnd
    rw [hq, hw, if_neg Bool.false_ne_true, if_pos rfl, if_pos rfl]
  have hl := leaves_cmpl h (outside := outside) he ha
  rwa [hd] at hl

theorem leaves_cmpl_outside (hn : r.answer = none) (hs : r.sent = true) :
    Leaves (.cmpl l tid outside) s (s.dev.devEnd l r (s.dev.rpReply r outside).1 (s.dev.rpReply r outside).2) := by
  apply leaves_of_eq
  show execCmpl l tid outside s = _
  unfold execCmpl onDev
  simp only [h, he, hn, hs, Bool.not_true, Bool.false_eq_true, if_false]

end

theorem leaves_deviceTimeout (hn : r.answer = none) : Leaves (.deviceTimeout l tid) s ((s.dev.timeTo (r.since + 100000)).devEnd l r .timeout 0) := by
  apply leaves_of_eq
  show execDeviceTimeout l tid s = _
  unfold execDeviceTimeout onDev
  simp only [h, hn, Option.isSome_none, Bool.false_eq_true, if_false]

theorem leaves_deviceTimeout_answered (hn : r.answer ≠ none) : Leaves (.deviceTimeout l tid) s s.dev := by
  apply leaves_of_eq
  show execDeviceTimeout l tid s = _
  unfold execDeviceTimeout onDev
  simp only [h, Option.isSome_iff_ne_none.2 hn, if_true]

end

/-! ### Vectors -/

section
variable {m : VecMsg}

theorem msgVec_taken {d : Dev} (h : d.skeinOf m.lcn = some m.skein ∧ (m.secure = true → d.secureSkein m.lcn = true)) : d.msgVec m = d.deliverVec m := by
  obtain ⟨hs, hsec⟩ := h
  unfold Dev.msgVec
  rw [hs]
  cases hm : m.secure with
  | true => rw [hsec hm]; simp
  | false => simp

theorem msgVec_dropped {d : Dev} (h : ¬ (d.skeinOf m.lcn = some m.skein ∧ (m.secure = true → d.secureSkein m.lcn = true))) :
    d.msgVec m = d.dropVec m.skein := by
  unfold Dev.msgVec
  simp
  tauto

end

/-! ### Window accesses -/

section
variable {write : Bool} {pa : BitVec 52} {data : List (BitVec 8)}

theorem exec_window (write : Bool) (pa : BitVec 52) (data : List (BitVec 8)) (s : State) : exec (.distaffWindowAccess write pa data) s =
    .next (s.withDev (if s.dev.hubBlocked (winAccess write pa.toNat data) then s.dev
      else match s.dev.winTry (winAccess write pa.toNat data) with
        | (d, .done st bs) => d.hubAnswer (winAccess write pa.toNat data) st bs
        | (d, _) => d.hubQueue (winAccess write pa.toNat data))) := rfl

theorem hubAnswer_window (d : Dev) (st : Status) (bs : List Byte) : d.hubAnswer (winAccess write pa.toNat data) st bs =
    d.emit (.window pa.toNat st (if st = .ok ∧ write = false then bs else [])) := by
  unfold Dev.hubAnswer winAccess
  simp only [Bool.not_eq_true', if_true]
  rfl

section
variable {e : Dev} (hb : s.dev.hubBlocked (winAccess write pa.toNat data) = false)
include hb

theorem leaves_window_done {st : Status} {bs : List Byte} (ht : s.dev.winTry (winAccess write pa.toNat data) = (e, .done st bs)) :
    Leaves (.distaffWindowAccess write pa data) s (e.emit (.window pa.toNat st (if st = .ok ∧ write = false then bs else []))) := by
  refine leaves_of_eq ((exec_window ..).trans ?_)
  rw [if_neg (by rw [hb]; decide), ht]
  exact congrArg (fun x => Host.Outcome.next (s.withDev x)) (hubAnswer_window ..)

theorem leaves_window_waits (ht : s.dev.winTry (winAccess write pa.toNat data) = (e, .waits)) :
    Leaves (.distaffWindowAccess write pa data) s (e.hubQueue (winAccess write pa.toNat data)) := by
  refine leaves_of_eq ((exec_window ..).trans ?_)
  rw [if_neg (by rw [hb]; decide), ht]

end

theorem leaves_window_blocked (hb : s.dev.hubBlocked (winAccess write pa.toNat data) = true) : Leaves (.distaffWindowAccess write pa data) s s.dev := by
  refine leaves_of_eq ((exec_window ..).trans ?_)
  rw [if_pos hb]

/-- What DBG_MEM does. -/
def Dev.dbgMemAct (d : Dev) (write : Bool) (a : Nat) (data : List Byte) (length : Nat) : Done :=
  if write && d.safe then d.ends .halted
  else if 1032 < length ∨ 1032 < data.length then d.ends .range
  else if d.hubBlocked (winAccess write a (d.winBytes write a data length).2) then d.ends .busy
  else match (d.winBytes write a data length).1.winTry (winAccess write a (d.winBytes write a data length).2) with
    | (d', .done st r) => ⟨d', some st, r⟩
    | (d', _) => d'.ends .busy

theorem dbgMemAct_done {d e : Dev} {a length : Nat} {bs : List Byte} (hs : write = true → d.safe = false) (hl : length ≤ 1032)
    (hn : data.length ≤ 1032) (hb : d.hubBlocked (winAccess write a (d.winBytes write a data length).2) = false)
    (ht : (d.winBytes write a data length).1.winTry (winAccess write a (d.winBytes write a data length).2) = (e, .done .ok bs)) :
    d.dbgMemAct write a data length = ⟨e, some .ok, bs⟩ := by
  have hw : ¬ ((write && d.safe) = true) := by
    rw [Bool.and_eq_true]
    rintro ⟨h1, h2⟩
    rw [hs h1] at h2
    exact absurd h2 (by decide)
  unfold Dev.dbgMemAct
  rw [if_neg hw, if_neg (by omega), if_neg (by rw [hb]; decide), ht]

theorem leaves_dbgMem {who : Caller} {length : Nat} {e : Dev} {bs : List Byte} (ht : s.dev.takes who 0x64 = true)
    (hf : s.dev.cmdFails who ⟨0x64, false, false, false, false, true⟩ true (fun z => installer z && s.dev.memInvasive pa.toNat) = none)
    (hs : s.dev.shed < 4) (ha : (s.dev.sessionUsed who).dbgMemAct write pa.toNat data length = ⟨e, some .ok, bs⟩) :
    Leaves (.dbgMem who write pa data length) s (e.answerTo who 1 0x64 .ok none
      (leBytes 1 (b2n write) ++ leBytes 8 pa.toNat ++ leBytes 2 length ++ data.take 16) bs) :=
  leaves_serveAs (c := ⟨0x64, false, false, false, false, true⟩) (fun d => d.dbgMemAct write pa.toNat data length) rfl ht hf hs ha

end
end

/-- Settles O50: a request on its way, at its end and past its limit, a vector's target, and what a window access meets. -/
theorem deviceRequestsComplete : Obligations.DeviceRequestsComplete := by
  intro l l2 tid outside r st v vec sec write sk pa data bs length who e s
  dsimp only
  exact ⟨fun h => ⟨fun hn hs he => ⟨leaves_devArrives_done h hn hs he, leaves_devArrives_sent h hn hs he, leaves_devArrives_waits h hn hs he⟩,
      fun he => ⟨leaves_cmpl h he, leaves_cmpl_stored h he, leaves_cmpl_outside h he⟩, leaves_deviceTimeout h, leaves_deviceTimeout_answered h⟩,
    fun h => ⟨leaves_of_eq (congrArg (fun d => Host.Outcome.next (s.withDev d)) (msgVec_taken (m := ⟨l2.val, vec.toNat, sec, sk.val⟩) h)),
      leaves_of_eq (congrArg (fun d => Host.Outcome.next (s.withDev d)) (msgVec_taken (m := ⟨l2.val, vec.toNat, sec, sk.val⟩) h))⟩,
    fun h => ⟨leaves_of_eq (congrArg (fun d => Host.Outcome.next (s.withDev d)) (msgVec_dropped (m := ⟨l2.val, vec.toNat, sec, sk.val⟩) h)),
      leaves_of_eq (congrArg (fun d => Host.Outcome.next (s.withDev d)) (msgVec_dropped (m := ⟨l2.val, vec.toNat, sec, sk.val⟩) h))⟩,
    fun hb => ⟨leaves_window_done hb, leaves_window_waits hb⟩, leaves_window_blocked,
    fun ht hf hs hw hl hn hb hd => leaves_dbgMem ht hf hs (dbgMemAct_done hw hl hn hb hd)⟩

end Sys2Proof.Machine
end

section
/-! PROOFS. Registers, read and written through any requester (00 R8 to R13, 08 R253, R267, R268, 14 R442, 19 R594, 20 R607). -/
namespace Sys2Proof.Machine

section
variable {s : State}

/-! ### Accesses of control space -/

theorem findReg_of_ctlPlace {pa size : Nat} {r : RegDef} {i : List Nat} (h : ctlPlace pa size = .reg r i) : findReg pa = some (r, i) := by
  unfold ctlPlace at h
  split at h
  · cases h
  · split at h
    · cases h
    · split at h
      · cases h
      · split at h
        · next hf => cases h; exact hf
        · cases h

section
variable {d e : Dev} {q : Requester} {l : Fin 384} {pa : BitVec 52} (hq : q = .distaff ∨ q = .core l)
include hq

theorem readReg_ok {v : Nat} (h : d.ctlAccess q (d.dieOf q) pa.toNat 4 false 0 = (e, .done .ok v)) :
    d.readReg q (.ctl pa) = e.emit (.readValue q (.ctl pa) .ok (BitVec.ofNat 32 v)) := by
  unfold Dev.readReg
  obtain rfl | rfl := hq <;> simp only [h]

theorem readReg_dead (h : d.ctlAccess q (d.dieOf q) pa.toNat 4 false 0 = (e, .done .dead 0)) :
    d.readReg q (.ctl pa) = (e.emit (.readValue q (.ctl pa) .dead 0#32)).loadDead q pa.toNat := by
  unfold Dev.readReg
  obtain rfl | rfl := hq <;> simp only [h]

theorem writeReg_ok {v : Reg32} {x : Nat} (h : d.ctlAccess q (d.dieOf q) pa.toNat 4 true v.toNat = (e, .done .ok x)) :
    d.writeReg q (.ctl pa) v = e := by
  unfold Dev.writeReg
  obtain rfl | rfl := hq <;> simp only [h]

theorem writeReg_dead {v : Reg32} (h : d.ctlAccess q (d.dieOf q) pa.toNat 4 true v.toNat = (e, .done .dead 0)) :
    d.writeReg q (.ctl pa) v = e.storeDead q pa.toNat := by
  unfold Dev.writeReg
  obtain rfl | rfl := hq <;> simp only [h]

end

section
variable {d : Dev} {q : Requester} {from_ : Option Nat} {a : Nat} (hi : d.siteIsolated from_ (bitsN a 39 32) = false)
include hi

theorem ctlAccess_refused (write : Bool) (data : Nat) (h : d.secRefused q a = true ∨ ctlPlace a 4 = .dead ∨ ctlPlace a 4 = .badAccess) :
    d.ctlAccess q from_ a 4 write data = (d, .done .dead 0) := by
  unfold Dev.ctlAccess
  rw [if_neg (by rw [hi]; decide)]
  obtain h | h | h := h
  · rw [if_pos h]
  · simp only [h, ite_self]
  · simp only [h, ite_self]

variable (hr : d.secRefused q a = false)
include hr

theorem ctlAccess_res0 (write : Bool) (data : Nat) (h : ctlPlace a 4 = .res0) : d.ctlAccess q from_ a 4 write data = (d, .done .ok 0) := by
  unfold Dev.ctlAccess
  rw [if_neg (by rw [hi]; decide), if_neg (by rw [hr]; decide), h]

variable {r : RegDef} {i : List Nat} (h : ctlPlace a 4 = .reg r i)
include h

theorem ctlAccess_read : d.ctlAccess q from_ a 4 false 0 = ((d.ctlRead q a).1, .done .ok (d.ctlRead q a).2.toNat) := by
  unfold Dev.ctlAccess
  rw [if_neg (by rw [hi]; decide), if_neg (by rw [hr]; decide), h]
  rfl

theorem ctlAccess_write (v : Reg32) : d.ctlAccess q from_ a 4 true v.toNat = (d.ctlWrite q a v, .done .ok 0) := by
  unfold Dev.ctlAccess
  rw [if_neg (by rw [hi]; decide), if_neg (by rw [hr]; decide), h, BitVec.ofNat_toNat, BitVec.setWidth_eq]
  rfl

end

/-! ### Reads and writes by the half of the register -/

section
variable {d : Dev} {q : Requester} {a : Nat} {r : RegDef} {i : List Nat} (hf : findReg a = some (r, i))
include hf

theorem ctlRead_hidden (h : d.mayRead q r.vis i = false) : d.ctlRead q a = (d, 0#32) := by
  unfold Dev.ctlRead
  rw [hf]
  exact if_pos (by rw [h]; decide)

section
variable (h : d.mayRead q r.vis i = true)
include h

theorem ctlRead_whole (hh : r.half = .whole) (hw : meshWait r = false) :
    d.ctlRead q a = (d.setReg a (afterReadVal r.fields (d.reg a)), readRegVal r.fields (d.shown q r (i.headD 0) a)) := by
  unfold Dev.ctlRead
  simp only [hf, h, hh, hw, Bool.not_true, Bool.false_eq_true, if_false]

theorem ctlRead_lo (hh : r.half = .lo) {r' : RegDef} {i' : List Nat} (hn : findReg (a + 4) = some (r', i')) :
    d.ctlRead q a = ({ d with latch := mset 0#32 d.latch a (readRegVal r'.fields (d.shown q r' (i.headD 0) (a + 4))) },
      readRegVal r.fields (d.shown q r (i.headD 0) a)) := by
  unfold Dev.ctlRead
  simp only [hf, h, hh, hn, Bool.not_true, Bool.false_eq_true, if_false]

theorem ctlRead_hi (hh : r.half = .hi) : d.ctlRead q a = (d, mget 0#32 d.latch (a - 4)) := by
  unfold Dev.ctlRead
  simp only [hf, h, hh, Bool.not_true, Bool.false_eq_true, if_false]

end

theorem ctlWrite_whole (hh : r.half = .whole) (v : Reg32) : d.ctlWrite q a v = d.wholeWrite q r i a v := by
  unfold Dev.ctlWrite
  simp only [hf, hh]

theorem ctlWrite_lo_denied (hh : r.half = .lo) (h : d.mayWrite q r i = false) (v : Reg32) : d.ctlWrite q a v = d := by
  unfold Dev.ctlWrite
  simp only [hf, hh, h, Bool.not_false, Bool.true_or, if_true]

theorem ctlWrite_hi_denied (hh : r.half = .hi) (h : d.mayWrite q r i = false) (v : Reg32) : d.ctlWrite q a v = d := by
  unfold Dev.ctlWrite
  simp only [hf, hh, h, Bool.not_false, Bool.true_or, if_true]

section
variable (h : d.mayWrite q r i = true) (hs : r.vis ≠ .iotu ∨ d.ioOn (i.headD 0) = false)
include h hs

omit hf in
/-- The base of the stream table of an IOTU that is ON is not written; no other register is held back so. -/
theorem stb_open (x : Bool) : (!d.mayWrite q r i || (r.vis == .iotu && x && d.ioOn (i.headD 0))) = false := by
  rw [h]
  obtain hv | ho := hs
  · rw [beq_eq_false_iff_ne.2 hv]; rfl
  · rw [ho]; simp

theorem ctlWrite_lo (hh : r.half = .lo) (v : Reg32) : d.ctlWrite q a v = { d with heldLo := mset none d.heldLo a (some v) } := by
  unfold Dev.ctlWrite
  simp only [hf, hh, stb_open h hs, Bool.false_eq_true, if_false]

theorem ctlWrite_hi_alone (hh : r.half = .hi) (v : Reg32) (hn : mget none d.heldLo (a - 4) = none) : d.ctlWrite q a v = d.plainWrite r a v := by
  unfold Dev.ctlWrite
  simp only [hf, hh, hn, stb_open h hs, Bool.false_eq_true, if_false]

theorem ctlWrite_hi (hh : r.half = .hi) (v : Reg32) {lo : Reg32} (hn : mget none d.heldLo (a - 4) = some lo) {r' : RegDef} {i' : List Nat}
    (hl : findReg (a - 4) = some (r', i')) :
    d.ctlWrite q a v = (({ d with heldLo := mset none d.heldLo (a - 4) none } : Dev).plainWrite r' (a - 4) lo).plainWrite r a v := by
  unfold Dev.ctlWrite
  simp only [hf, hh, hn, hl, stb_open h hs, Bool.false_eq_true, if_false]

end
end

/-- The writes of both halves of a pair, the low one first. -/
theorem plainWrite_pair (d : Dev) (r r' : RegDef) {a : Nat} (ha : 4 ≤ a) (v lo : Reg32) :
    (((d.plainWrite r' (a - 4) lo).plainWrite r a v).reg a = writeRegVal r.fields d.img.lock (d.reg a) v) ∧
      ((d.plainWrite r' (a - 4) lo).plainWrite r a v).reg (a - 4) = writeRegVal r'.fields d.img.lock (d.reg (a - 4)) lo := by
  unfold Dev.plainWrite
  refine ⟨?_, ?_⟩
  · rw [reg_setReg, if_pos rfl, reg_setReg_ne _ _ _ _ (by omega)]
    rfl
  · rw [reg_setReg_ne _ _ _ _ (by omega), reg_setReg, if_pos rfl]

/-- The write of a pair takes the half that was held. -/
theorem heldLo_taken (d : Dev) (r r' : RegDef) (a b : Nat) (v lo : Reg32) :
    mget none ((({ d with heldLo := mset none d.heldLo b none } : Dev).plainWrite r' b lo).plainWrite r a v).heldLo b = none := by
  show mget none (mset none d.heldLo b none) b = none
  rw [mget_mset, if_pos rfl]

/-! ### Writes of a whole register -/

/-- The registers whose write acts, and those whose write has a rule of its own. -/
def actingRegs : List Nat := [Reg.IRQ_DOORBELL, Reg.IRQ_ROUTE 0, Reg.TRC_CTL, Reg.PMU_SK_SNAP 0, Reg.CCH_L3_PD_CMD 0, Reg.CCH_HC_PD_CMD, Reg.D2D_GST_CMD 0,
  Reg.MC_CMD 0, Reg.PCE_CMD 0, Reg.HNK_PORT_CMD 0, Reg.PWR_REQ, Reg.DST_MBX_CTL 0, Reg.MMU_IO_INV_CMD 0]
def ruledRegs : List Nat := [Reg.MMU_IO_CFG 0, Reg.MMU_IO_FAULT_INFO 0, Reg.PCE_RP_ROUTE 0, Reg.RL_SK_NOTICE 0]

section
variable {d : Dev} {q : Requester} {a : Nat} {r : RegDef} {i : List Nat} {v : Reg32} (ha : r.base ∉ actingRegs)
include ha

theorem wholeWrite_denied (h : d.mayWrite q r i = false) : d.wholeWrite q r i a v = d := by
  unfold actingRegs at ha
  simp only [List.mem_cons, List.not_mem_nil, or_false, not_or] at ha
  obtain ⟨h1, h2, h3, h4, h5, h6, h7, h8, h9, h10, h11, h12, h13⟩ := ha
  unfold Dev.wholeWrite
  dsimp only
  rw [if_neg h1, if_neg h2, if_neg h3, if_neg h4, if_neg h5, if_neg h6, if_neg h7, if_neg h8, if_neg h9, if_neg h10, if_neg h11, if_neg h12,
    if_neg h13, if_pos (by rw [h]; decide)]

theorem wholeWrite_plain (h : d.mayWrite q r i = true) (hr : r.base ∉ ruledRegs) (hm : mcInRange r.base v = true) :
    d.wholeWrite q r i a v = d.plainWrite r a v := by
  unfold actingRegs at ha
  unfold ruledRegs at hr
  simp only [List.mem_cons, List.not_mem_nil, or_false, not_or] at ha hr
  obtain ⟨h1, h2, h3, h4, h5, h6, h7, h8, h9, h10, h11, h12, h13⟩ := ha
  obtain ⟨h14, h15, h16, h17⟩ := hr
  have hn : (r.base == Reg.RL_SK_NOTICE 0) = false := beq_eq_false_iff_ne.2 h17
  unfold Dev.wholeWrite
  dsimp only
  rw [if_neg h1, if_neg h2, if_neg h3, if_neg h4, if_neg h5, if_neg h6, if_neg h7, if_neg h8, if_neg h9, if_neg h10, if_neg h11, if_neg h12,
    if_neg h13, if_neg (by rw [h]; decide), if_neg h14, if_neg h15, if_neg (fun hx => h16 hx.1), hn, Bool.false_and, if_neg (by decide),
    if_neg (by rw [hm]; decide)]

end

/-! ### The commands -/

section
variable {q : Requester} {l : Fin 384} {pa : BitVec 52} (hq : q = .distaff ∨ q = .core l)
  (hi : s.dev.siteIsolated (s.dev.dieOf q) (bitsN pa.toNat 39 32) = false)
include hq hi

section
variable (hr : s.dev.secRefused q pa.toNat = false)
include hr

theorem readReg_res0 (h : ctlPlace pa.toNat 4 = .res0) : s.dev.readReg q (.ctl pa) = s.dev.emit (.readValue q (.ctl pa) .ok 0#32) :=
  readReg_ok hq (ctlAccess_res0 hi hr false 0 h)

theorem writeReg_res0 (h : ctlPlace pa.toNat 4 = .res0) (v : Reg32) : s.dev.writeReg q (.ctl pa) v = s.dev :=
  writeReg_ok hq (ctlAccess_res0 hi hr true v.toNat h)

variable {r : RegDef} {i : List Nat} (h : ctlPlace pa.toNat 4 = .reg r i)
include h

theorem readReg_reg {e : Dev} {x : Reg32} (hc : s.dev.ctlRead q pa.toNat = (e, x)) :
    s.dev.readReg q (.ctl pa) = e.emit (.readValue q (.ctl pa) .ok x) := by
  have ha := ctlAccess_read hi hr h
  rw [hc] at ha
  rw [readReg_ok hq ha, BitVec.ofNat_toNat, BitVec.setWidth_eq]

theorem writeReg_reg (v : Reg32) : s.dev.writeReg q (.ctl pa) v = s.dev.ctlWrite q pa.toNat v := writeReg_ok hq (ctlAccess_write hi hr h v)

end

section
variable (h : s.dev.secRefused q pa.toNat = true ∨ ctlPlace pa.toNat 4 = .dead ∨ ctlPlace pa.toNat 4 = .badAccess)
include h

theorem readReg_refused : s.dev.readReg q (.ctl pa) = (s.dev.emit (.readValue q (.ctl pa) .dead 0#32)).loadDead q pa.toNat :=
  readReg_dead hq (ctlAccess_refused hi false 0 h)

theorem writeReg_refused (v : Reg32) : s.dev.writeReg q (.ctl pa) v = s.dev.storeDead q pa.toNat :=
  writeReg_dead hq (ctlAccess_refused hi true v.toNat h)

end
end

section
variable {q : Requester} {ra : RegAddr} {v : Reg32} {d : Dev}

theorem leaves_read (h : s.dev.readReg q ra = d) : Leaves (.rcRegisterRead q ra) s d := by subst h; exact leaves_of_eq rfl
theorem leaves_pairLoRead (h : s.dev.readReg q ra = d) : Leaves (.pairLoRead q ra) s d := by subst h; exact leaves_of_eq rfl
theorem leaves_write (h : s.dev.writeReg q ra v = d) : Leaves (.registerWrite q ra v) s d := by subst h; exact leaves_of_eq rfl
theorem leaves_pairLoWrite (h : s.dev.writeReg q ra v = d) : Leaves (.pairLoWrite q ra v) s d := by subst h; exact leaves_of_eq rfl
theorem leaves_pairHiWrite (h : s.dev.writeReg q ra v = d) : Leaves (.pairHiWrite q ra v) s d := by subst h; exact leaves_of_eq rfl

end

/-! ### A function's own registers, the doorbell and the snapshot -/

section
variable {bd : Fin 8} {fn : Fin 1025} {off : BitVec 17} {o : BitVec 12} {v : Reg32}

section
variable (hs : s.dev.safe = false) (hb : s.dev.barOpen (fnKey bd.val fn.val) = true) (ho : off.toNat % 4 = 0)
include hs hb ho

theorem readReg_bar : s.dev.readReg (.func bd fn) (.bar bd fn off) =
    (s.dev.barRead (fnKey bd.val fn.val) off.toNat).1.emit
      (.readValue (.func bd fn) (.bar bd fn off) .ok (s.dev.barRead (fnKey bd.val fn.val) off.toNat).2) := by
  unfold Dev.readReg
  simp only [ne_eq, not_true_eq_false, if_false, hs, hb, ho, Bool.not_true, Bool.false_eq_true, or_self]

theorem writeReg_bar : s.dev.writeReg (.func bd fn) (.bar bd fn off) v = s.dev.barWrite (fnKey bd.val fn.val) off.toNat v := by
  unfold Dev.writeReg
  simp only [ne_eq, not_true_eq_false, if_false, hs, hb, ho, Bool.not_true, Bool.false_eq_true, or_self]

end

theorem readReg_cfg (hp : s.dev.fnPresent (fnKey bd.val fn.val) = true) : s.dev.readReg (.func bd fn) (.cfg bd fn o) =
    s.dev.emit (.readValue (.func bd fn) (.cfg bd fn o) .ok (s.dev.cfgRead (fnKey bd.val fn.val) o.toNat)) := by
  unfold Dev.readReg
  simp only [ne_eq, not_true_eq_false, if_false, hp, Bool.not_true, Bool.false_eq_true]

theorem writeReg_cfg : s.dev.writeReg (.func bd fn) (.cfg bd fn o) v = s.dev.cfgWrite (fnKey bd.val fn.val) o.toNat v := by
  unfold Dev.writeReg
  simp only [ne_eq, not_true_eq_false, if_false]

end

theorem findReg_doorbell : (findReg Reg.IRQ_DOORBELL).map (fun x => (x.1.half, x.1.base)) = some (.whole, Reg.IRQ_DOORBELL) := by decide +kernel

theorem ctlWrite_doorbell (d : Dev) (q : Requester) (v : Reg32) : d.ctlWrite q Reg.IRQ_DOORBELL v = d.doorbell q (field v 11 0) := by
  obtain ⟨⟨r, i⟩, hf, hx⟩ := Option.map_eq_some_iff.1 findReg_doorbell
  obtain ⟨hh, hb⟩ := Prod.mk.inj hx
  rw [ctlWrite_whole hf hh]
  unfold Dev.wholeWrite
  exact if_pos hb

theorem leaves_rootPortDoorbell {bd : Fin 8} {pa : BitVec 52} {v : Reg32} (h : pa.toNat = Reg.IRQ_DOORBELL) :
    Leaves (.registerWrite (.rootPort bd) (.ctl pa) v) s (s.dev.doorbell (.rootPort bd) (field v 11 0)) := by
  refine leaves_write ?_
  unfold Dev.writeReg
  simp only [h, if_true, ctlWrite_doorbell]

/-- A write to a register that is not refused to the requester has its effect. -/
theorem leaves_orRefused {c : Instr} {q : Requester} {a : Nat} (f : Dev → Dev) (he : exec c s = .next (s.withDev (s.dev.orRefused q a f)))
    (h : s.dev.secRefused q a = false) : Leaves c s (f s.dev) := by
  unfold Dev.orRefused at he
  rw [if_neg (by rw [h]; decide)] at he
  exact leaves_of_eq he

/-- The device in which the first counts of a skein are copied. -/
def Dev.snapped (d : Dev) (sk n : Nat) : Dev :=
  (List.range n).foldl (fun d k => d.setReg64 (Reg.PMU_SK_BQ_POST_LO sk + 8 * k) (mget 0 d.hubCnt (sk * 8 + k))) d

theorem snapped_succ (d : Dev) (sk n : Nat) : d.snapped sk (n + 1) =
    (d.snapped sk n).setReg64 (Reg.PMU_SK_BQ_POST_LO sk + 8 * n) (mget 0 (d.snapped sk n).hubCnt (sk * 8 + n)) := by
  unfold Dev.snapped
  rw [List.range_succ, List.foldl_append, List.foldl_cons, List.foldl_nil]

theorem snapped_hubCnt (d : Dev) (sk n : Nat) : (d.snapped sk n).hubCnt = d.hubCnt := by
  induction n with
  | zero => rfl
  | succ n ih => rw [snapped_succ, setReg64_hubCnt, ih]

theorem reg64_setReg64_mod (d : Dev) (a v : Nat) : (d.setReg64 a v).reg64 a = v % 2 ^ 64 := by
  rw [← reg64_setReg64 d a (v % 2 ^ 64) (Nat.mod_lt _ (by decide))]
  have h0 : BitVec.ofNat 32 (v % 0x100000000) = BitVec.ofNat 32 (v % 2 ^ 64 % 0x100000000) := by
    rw [Nat.mod_mod_of_dvd _ (by decide)]
  have h4 : BitVec.ofNat 32 (v / 0x100000000) = BitVec.ofNat 32 (v % 2 ^ 64 / 0x100000000) := by
    apply BitVec.eq_of_toNat_eq
    rw [BitVec.toNat_ofNat, BitVec.toNat_ofNat]
    omega
  unfold Dev.setReg64
  rw [h0, h4]

theorem reg64_setReg64_ne (d : Dev) {a b : Nat} (v : Nat) (h : a + 8 ≤ b ∨ b + 8 ≤ a) : (d.setReg64 a v).reg64 b = d.reg64 b := by
  unfold Dev.reg64 Dev.setReg64
  rw [reg_setReg_ne _ _ _ _ (by omega), reg_setReg_ne _ _ _ _ (by omega), reg_setReg_ne _ _ _ _ (by omega), reg_setReg_ne _ _ _ _ (by omega)]

theorem reg64_snapped (d : Dev) (sk : Nat) {n k : Nat} (hk : k < n) :
    (d.snapped sk n).reg64 (Reg.PMU_SK_BQ_POST_LO sk + 8 * k) = mget 0 d.hubCnt (sk * 8 + k) % 2 ^ 64 := by
  induction n with
  | zero => omega
  | succ n ih =>
    rw [snapped_succ, snapped_hubCnt]
    rcases Nat.lt_succ_iff_lt_or_eq.1 hk with h | rfl
    · rw [reg64_setReg64_ne _ _ (.inr (by omega)), ih h]
    · exact reg64_setReg64_mod ..

theorem completes_pmuSkSnap {q : Requester} {l : Fin 384} {sk : Fin 16} (hr : s.dev.secRefused q (Reg.PMU_SK_SNAP sk.val) = false)
    (hq : q = .distaff ∨ q = .core l ∧ (s.dev.core l.val).level.priv = true ∧ s.dev.skeinOf l.val = some sk.val) :
    Completes (.pmuSkSnap q sk) s fun t => ∀ k : Fin 7, t.reg64 (Reg.PMU_SK_BQ_POST_LO sk.val + 8 * k.val) = mget 0 s.dev.hubCnt (sk.val * 8 + k.val) % 2 ^ 64 := by
  have hs : s.dev.hubSnap q sk.val = s.dev.snapped sk.val 7 := by
    unfold Dev.hubSnap
    obtain rfl | ⟨rfl, hp, hk⟩ := hq
    · rfl
    · simp only [hp, hk, beq_self_eq_true, Bool.and_self, Bool.not_true, Bool.false_eq_true, if_false]
      rfl
  refine (leaves_orRefused (fun d => d.hubSnap q sk.val) rfl hr).imp ?_
  rintro _ rfl k
  rw [hs]
  exact reg64_snapped _ _ k.isLt

end

/-- Settles O49: an access by its place, the register's half and what the requester may do; then the registers with an effect of their own. -/
theorem registersComplete : Obligations.RegistersComplete := by
  intro q pa v lo n sk l bd fn off o r r' i i' s
  dsimp only
  refine ⟨fun hq hi => ⟨fun hr => ⟨fun h => ⟨leaves_read (readReg_res0 hq hi hr h), leaves_write (writeReg_res0 hq hi hr h v)⟩, fun h => ?_⟩, fun h => ?_⟩,
    ?_, ?_, leaves_orRefused (fun d => d.doorbell q (field v 11 0)) rfl, leaves_orRefused (fun d => d.routeWrite q n.val v) rfl,
    leaves_orRefused (fun d => d.traceWrite q v) rfl, completes_pmuSkSnap⟩
  · have hf := findReg_of_ctlPlace h
    have hrd {e : Dev} {x : Reg32} (hc : s.dev.ctlRead q pa.toNat = (e, x)) := readReg_reg hq hi hr h hc
    have hwr {e : Dev} (hc : s.dev.ctlWrite q pa.toNat v = e) := (writeReg_reg hq hi hr h v).trans hc
    refine ⟨fun hm => ?_, fun hm => ⟨fun hh hw => leaves_read (hrd (ctlRead_whole hf hm hh hw)), fun hh hn => leaves_pairLoRead (hrd (ctlRead_lo hf hm hh hn)),
      fun hh => leaves_read (hrd (ctlRead_hi hf hm hh))⟩, fun hh => ⟨leaves_write (hwr (ctlWrite_whole hf hh v)), fun ha hm => ?_, fun ha hm hb hc => ?_⟩,
      fun hm => ⟨fun hh => leaves_pairLoWrite (hwr (ctlWrite_lo_denied hf hh hm v)), fun hh => leaves_pairHiWrite (hwr (ctlWrite_hi_denied hf hh hm v))⟩,
      fun hm hs => ⟨fun hh => leaves_pairLoWrite (hwr (ctlWrite_lo hf hm hs hh v)), fun hh ha hn hl => ?_,
        fun hh hn => leaves_pairHiWrite (hwr (ctlWrite_hi_alone hf hm hs hh v hn))⟩⟩
    · have hx := hrd (ctlRead_hidden hf hm)
      exact ⟨leaves_read hx, leaves_pairLoRead hx⟩
    · exact leaves_write (hwr ((ctlWrite_whole hf hh v).trans (wholeWrite_denied ha hm)))
    · refine (leaves_write (hwr ((ctlWrite_whole hf hh v).trans (wholeWrite_plain ha hm hb hc)))).imp ?_
      rintro _ rfl
      exact ⟨rfl, (reg_setReg ..).trans (if_pos rfl)⟩
    · refine (leaves_pairHiWrite (hwr (ctlWrite_hi hf hm hs hh v hn hl))).imp ?_
      rintro _ rfl
      obtain ⟨h1, h2⟩ := plainWrite_pair ({ s.dev with heldLo := mset none s.dev.heldLo (pa.toNat - 4) none } : Dev) r r' ha v lo
      exact ⟨h1, h2, heldLo_taken ..⟩
  · have hd := readReg_refused hq hi h
    have hw := writeReg_refused hq hi h v
    refine ⟨?_, ?_⟩
    · rintro rfl
      exact ⟨leaves_read hd, leaves_write hw⟩
    · rintro rfl hrel
      exact ⟨leaves_read (hd.trans (if_pos hrel)), leaves_write (hw.trans (if_pos hrel))⟩
  · rintro rfl
    exact ⟨fun hs hb ho => ⟨leaves_read (readReg_bar hs hb ho), leaves_write (writeReg_bar hs hb ho)⟩,
      fun hp => ⟨leaves_read (readReg_cfg hp), leaves_write writeReg_cfg⟩⟩
  · rintro rfl h
    exact leaves_rootPortDoorbell h

end Sys2Proof.Machine
end

section
/-! PROOFS. System registers, read and written by MFS, MTS and the rows that name one (07 R240, 08 R264 to R273). -/
namespace Sys2Proof.Machine

/-! ### What a vector and a counted cycle change of a core -/

/-- Of every core, `e` differs from `d` in the pending vectors and their world only. -/
def Dev.VecsOnly (d e : Dev) : Prop := ∀ l, e.core l = { d.core l with pend := (e.core l).pend, sec := (e.core l).sec }

theorem Dev.VecsOnly.of_cores {d e : Dev} (h : e.cores = d.cores) : d.VecsOnly e := fun l => by rw [core_of_cores h]

theorem vecsOnly_inboxPut (d : Dev) (m : VecMsg) : d.VecsOnly (d.inboxPut m) := by
  intro l
  unfold Dev.inboxPut
  rw [core_updCore]
  split
  · next h => subst h; rfl
  · rfl

theorem countDoff_cores (d : Dev) (l : Nat) : (d.countDoff l).cores = d.cores := by
  unfold Dev.countDoff
  split
  · exact count_cores ..
  · rfl

theorem vecsOnly_deliverVec (d : Dev) (m : VecMsg) : d.VecsOnly (d.deliverVec m) := by
  unfold Dev.deliverVec
  split
  · exact .of_cores (count_cores ..)
  · split
    · exact .of_cores rfl
    · dsimp only
      split
      · exact vecsOnly_inboxPut d m
      · exact .of_cores ((countDoff_cores ..).trans (count_cores ..))
      · exact .of_cores (setPort_cores ..)

theorem vecsOnly_doorbell (d : Dev) (q : Requester) (n : Nat) : d.VecsOnly (d.doorbell q n) := by
  unfold Dev.doorbell
  dsimp only
  split
  · exact vecsOnly_deliverVec d _
  · exact .of_cores (count_cores ..)

theorem pmuProg_ctl (p : Pmu) (lvl : Level) (val : Nat → Nat) (n : Nat) : (pmuProg p lvl val n).1.ctl = p.ctl := by
  induction n with
  | zero => rfl
  | succ n ih =>
    unfold pmuProg
    dsimp only
    split
    · exact ih
    · exact ih

/-- Counting leaves the control word of the counters, but for the bit that a wrap may freeze them by (19 R589). -/
def CtlCounted (a b : Reg32) : Prop := b ||| 4#32 = a ||| 4#32 ∧ (bit a 0 = false ∨ bit a 3 = false → b = a)

theorem CtlCounted.refl (a : Reg32) : CtlCounted a a := ⟨rfl, fun _ => rfl⟩

theorem CtlCounted.trans {a b c : Reg32} (h : CtlCounted a b) (h' : CtlCounted b c) : CtlCounted a c :=
  ⟨h'.1.trans h.1, fun hx => (h'.2 (by rw [h.2 hx]; exact hx)).trans (h.2 hx)⟩

theorem ctlCounted_ite {c : Prop} [Decidable c] {x : Reg32} {a b : Pmu × Bool} (ha : c → CtlCounted x a.1.ctl) (hb : ¬ c → CtlCounted x b.1.ctl) :
    CtlCounted x (if c then a else b).1.ctl := by
  split
  · next h => exact ha h
  · next h => exact hb h

theorem ctlCounted_freeze (p q : Pmu) (h : q.ctl = p.ctl) (h0 : bit p.ctl 0 = true) :
    CtlCounted p.ctl (if bit p.ctl 3 then { q with ctl := q.ctl ||| 4#32 } else q).ctl := by
  split
  · next h3 =>
    dsimp only
    rw [h]
    refine ⟨by rw [BitVec.or_assoc, BitVec.or_self], fun hx => ?_⟩
    rw [h0, h3] at hx
    simp at hx
  · rw [h]
    exact .refl _

theorem ctlCounted_pmuCycle (p : Pmu) (lvl : Level) (val : Nat → Nat) : CtlCounted p.ctl (pmuCycle p lvl val).1.ctl := by
  unfold pmuCycle
  refine ctlCounted_ite (fun _ => .refl _) fun h => ?_
  have h0 : bit p.ctl 0 = true := by
    rw [Bool.or_eq_true, not_or] at h
    simpa using h.1
  refine ctlCounted_ite (fun _ => ?_) fun _ => ctlCounted_freeze p _ (pmuProg_ctl ..) h0
  change CtlCounted _ (pmuProg p lvl val 6).1.ctl
  rw [pmuProg_ctl]
  exact .refl _

/-- What counting leaves of a core: its PC, and the control word as `CtlCounted` says. -/
def Core.Counted (a b : Core) : Prop := b.pc = a.pc ∧ CtlCounted a.pmu.ctl b.pmu.ctl

theorem Core.Counted.refl (a : Core) : a.Counted a := ⟨rfl, .refl _⟩
theorem Core.Counted.trans {a b c : Core} (h : a.Counted b) (h' : b.Counted c) : a.Counted c := ⟨h'.1.trans h.1, h.2.trans h'.2⟩

section
variable {l : Fin 384} (lvl : Level)

theorem counted_pmuOne (evs : List (Nat × Nat)) (d : Dev) : (d.core l.val).Counted ((d.pmuOne l lvl evs).core l.val) := by
  have h1 : (({ d.setCore l.val { d.core l.val with pmu := (pmuCycle (d.core l.val).pmu lvl (eventValue d.freeCtr evs)).1 } with
      freeCtr := d.freeCtr + 1 } : Dev).core l.val) =
      { d.core l.val with pmu := (pmuCycle (d.core l.val).pmu lvl (eventValue d.freeCtr evs)).1 } :=
    (core_of_cores rfl _).trans ((core_setCore ..).trans (if_pos rfl))
  unfold Dev.pmuOne
  dsimp only
  split
  · rw [vecsOnly_doorbell _ _ _ l.val, h1]
    exact ⟨rfl, ctlCounted_pmuCycle ..⟩
  · rw [h1]
    exact ⟨rfl, ctlCounted_pmuCycle ..⟩

theorem counted_pmuIdle (n : Nat) (d : Dev) : (d.core l.val).Counted ((d.pmuIdle l lvl n).core l.val) := by
  induction n generalizing d with
  | zero => exact .refl _
  | succ n ih => exact (counted_pmuOne lvl [] d).trans (ih _)

theorem counted_pmuCount (evs : List (Nat × Nat)) (d : Dev) : (d.core l.val).Counted ((d.pmuCount l lvl evs).core l.val) := by
  unfold Dev.pmuCount
  dsimp only
  split
  · exact .refl _
  · split
    · exact .refl _
    · exact (counted_pmuIdle lvl _ d).trans (counted_pmuOne lvl evs _)

end

/-! ### The retirement of an instruction that is done -/

/-- A core past an instruction that is done: its PC moves on. -/
def Core.next (c : Core) : Core := { c with pc := c.pc + 4#64 }.past

theorem core_countRetired_idle {d : Dev} {l : Fin 384} (h : (d.core l.val).pmu.idle = true) (lvl : Level) (evs : List (Nat × Nat)) (j : Nat) :
    (d.countRetired l lvl evs).core j = (d.updCore l.val Core.past).core j := by
  unfold Dev.countRetired
  rw [pmuCount_of_idle h, core_updCore, core_updCore, core_of_cores (traceRetire_cores ..), core_of_cores (traceRetire_cores ..)]

theorem core_finish_done {e : Dev} {l : Fin 384} (h : (e.core l.val).pmu.idle = true) (d : Dev) (evs : List (Nat × Nat)) (j : Nat) :
    (d.finish l (.done e evs)).core j = (e.updCore l.val Core.next).core j := by
  have hi : ((e.updCore l.val fun c => { c with pc := c.pc + 4#64 }).core l.val).pmu.idle = true := by rw [core_updCore, if_pos rfl]; exact h
  show ((e.updCore l.val fun c => { c with pc := c.pc + 4#64 }).countRetired l (d.core l.val).level evs).core j = _
  rw [core_countRetired_idle hi, updCore_updCore]
  rfl

/-- What an instruction that is done leaves of its core, whatever counts: the PC has moved on. -/
theorem counted_finish_done (d e : Dev) (l : Fin 384) (evs : List (Nat × Nat)) :
    Core.Counted { e.core l.val with pc := (e.core l.val).pc + 4#64 } ((d.finish l (.done e evs)).core l.val) := by
  have h1 := counted_pmuCount (l := l) (d.core l.val).level ((2, 1) :: evs) (e.updCore l.val fun c => { c with pc := c.pc + 4#64 })
  rw [core_updCore, if_pos rfl] at h1
  refine h1.trans ?_
  change Core.Counted _ (((((e.updCore l.val fun c => { c with pc := c.pc + 4#64 }).pmuCount l (d.core l.val).level ((2, 1) :: evs)).traceRetire l.val).updCore
    l.val Core.past).core l.val)
  rw [core_updCore, if_pos rfl, core_of_cores (traceRetire_cores ..)]
  exact .refl _

section
variable {c : Instr} {l : Fin 384} {s : State} {f : Dev → CoreOut} {e : Dev} {evs : List (Nat × Nat)} (he : exec c s = runInstr l s f) (hs : s.ready l)
  (hf : f (s.fetched l) = .done e evs)
include he hs hf

theorem completes_done_counted : Completes c s fun t => Core.Counted { e.core l.val with pc := (e.core l.val).pc + 4#64 } (t.core l.val) := by
  refine ⟨_, he, rfl, ?_⟩
  change Core.Counted _ ((s.dev.instr l f).core l.val)
  rw [instr_ready s l f hs, hf]
  exact counted_finish_done ..

theorem completes_done_core (hi : (e.core l.val).pmu.idle = true) : Completes c s fun t => ∀ j, t.core j = (e.updCore l.val Core.next).core j := by
  refine ⟨_, he, rfl, fun j => ?_⟩
  change (s.dev.instr l f).core j = _
  rw [instr_ready s l f hs, hf]
  exact core_finish_done hi ..

end

/-! ### Writes of a system register -/

/-- What the retirement of a core's next instruction depends on. -/
def Core.runCtl (c : Core) : Reg32 × Bool × Bool := (c.pmu.ctl, c.stepArmed, c.draining)

theorem quiet_updCore_runCtl (d : Dev) (l : Nat) (f : Core → Core) (h : (f (d.core l)).runCtl = (d.core l).runCtl) : (d.updCore l f).quiet l = d.quiet l := by
  obtain ⟨hc, hr⟩ := Prod.mk.inj h
  obtain ⟨ha, hd⟩ := Prod.mk.inj hr
  have h1 : (d.updCore l f).core l = f (d.core l) := (core_updCore ..).trans (if_pos rfl)
  unfold Dev.quiet
  rw [h1, hc, ha, hd]
  rfl

theorem pmuPut_ctl (p : Pmu) {n : Nat} (h : n ≠ 0x300) (x : Word) : (p.put n x).ctl = p.ctl := by
  unfold Pmu.put
  dsimp only
  rw [if_neg h]
  split
  · rfl
  · split <;> rfl

theorem eoi_runCtl (c : Core) : c.eoi.runCtl = c.runCtl := by
  unfold Core.eoi
  dsimp only
  split
  · rfl
  · split <;> rfl

theorem ite_eq_of {α : Type} {c : Prop} [Decidable c] {a b k : α} (ha : c → a = k) (hb : ¬ c → b = k) : (if c then a else b) = k := by
  split
  · next h => exact ha h
  · next h => exact hb h

theorem srWrite_runCtl (c : Core) {n : Nat} (h : n ≠ 0x300) (x : Word) : (c.srWrite n x).runCtl = c.runCtl := by
  have hp : ({ c with pmu := c.pmu.put n x } : Core).runCtl = c.runCtl := by
    unfold Core.runCtl
    rw [pmuPut_ctl _ h]
  unfold Core.srWrite
  simp only [apply_ite Core.runCtl, hp, eoi_runCtl]
  repeat' refine ite_eq_of (fun _ => ?_) (fun _ => ?_)
  all_goals rfl

/-! ### MFS and MTS -/

section
variable {l : Fin 384} {s : State} (hs : s.ready l)
include hs

theorem retiresBy_mfs {gd : BitVec 5} {sr : BitVec 12} (hf : ((s.fetched l).core l.val).srFault sr.toNat true = none) (hn : sr.toNat ≠ 0x210) :
    RetiresBy (.mfs l gd sr) l s fun d => d.updCore l.val fun c => c.wg gd (d.srRead l.val sr.toNat) := by
  refine retiresBy_of_done _ l s (fun d => d.mfs l.val gd sr.toNat) _ [] rfl hs ?_
    ((quiet_updCore _ _ _ (wg_pmu ..) (wg_stepArmed ..) (wg_draining ..)).trans hs.2.2)
  unfold Dev.mfs
  simp only [hf, hn, if_false]

/-- A write that changes only the core, once its checks have passed. -/
theorem retires_srWrite {c : Instr} {n : Nat} {ga : BitVec 5} (he : exec c s = runInstr l s fun d => d.mts l.val n ((d.core l.val).rg ga))
    (hn : n ∉ [0x213, 0x30, 0x31, 0x32, 0x300]) (hc : srIsCounter n = false) (hf : ((s.fetched l).core l.val).srFault n false = none) :
    Retires c l s fun k => k.srWrite n (((s.fetched l).core l.val).rg ga) := by
  simp only [List.mem_cons, List.not_mem_nil, or_false, not_or] at hn
  obtain ⟨h1, h2, h3, h4, h5⟩ := hn
  refine retiresBy_of_done c l s _ _ [] he hs ?_ ((quiet_updCore_runCtl _ _ _ (srWrite_runCtl _ h5 _)).trans hs.2.2)
  unfold Dev.mts
  simp only [hf, h1, h2, h3, h4, hc, Bool.false_eq_true, if_false]

/-- A write of the device's own registers of the skein, which leaves the cores. -/
theorem retiresBy_mts {c : Instr} {n : Nat} {ga : BitVec 5} (he : exec c s = runInstr l s fun d => d.mts l.val n ((d.core l.val).rg ga))
    (g : Dev → Dev) (hf : (s.fetched l).mts l.val n (((s.fetched l).core l.val).rg ga) = .done (g (s.fetched l)) [])
    (hq : (g (s.fetched l)).quiet l.val = (s.fetched l).quiet l.val) : RetiresBy c l s g :=
  retiresBy_of_done c l s _ g [] he hs hf (hq.trans hs.2.2)

theorem retires_counter {sr : BitVec 12} {ga : BitVec 5} (hc : srIsCounter sr.toNat = true) (hf : ((s.fetched l).core l.val).srFault sr.toNat false = none) :
    Retires (.mts l sr ga) l s fun k => { k with pmu := k.pmu.putCounter sr.toNat (((s.fetched l).core l.val).rg ga) } := by
  have hx : ∀ m, srIsCounter m = false → sr.toNat ≠ m := fun m hm h => by rw [h, hm] at hc; exact absurd hc (by decide)
  have hq := hs.2.2
  obtain ⟨⟨-, ha⟩, hd⟩ : (_ ∧ ((s.fetched l).core l.val).stepArmed = false) ∧ ((s.fetched l).core l.val).draining = false := by
    simpa only [Dev.quiet, Bool.and_eq_true, Bool.not_eq_true'] using hq
  refine ⟨_, rfl, rfl, ?_⟩
  change s.dev.instr l (fun d => d.mts l.val sr.toNat ((d.core l.val).rg ga)) = _
  rw [instr_ready s l _ hs]
  unfold Dev.mts
  simp only [hf, hx 0x213 (by decide), hx 0x30 (by decide), hx 0x31 (by decide), hx 0x32 (by decide), hc, if_false, if_true]
  simp only [Dev.finish]
  rw [countRetired_quiet _ l _ [] ((quiet_updCore _ _ _ rfl rfl rfl).trans hq), updCore_updCore, updCore_updCore, updCore_updCore]
  refine updCore_congr _ _ _ _ ?_
  unfold Core.past
  rw [ha, hd]

/-- PMU_CTL, which the counters may freeze at the retirement itself (19 R586, R589). -/
theorem completes_pmuCtl {sr : BitVec 12} {ga : BitVec 5} (hn : sr.toNat = 0x300) (hf : ((s.fetched l).core l.val).srFault 0x300 false = none) :
    Completes (.mts l sr ga) s fun t => Core.Counted
      { ((s.fetched l).core l.val).srWrite 0x300 (((s.fetched l).core l.val).rg ga) with pc := ((s.fetched l).core l.val).pc + 4#64 } (t.core l.val) := by
  have hm : (s.fetched l).mts l.val sr.toNat (((s.fetched l).core l.val).rg ga) =
      .done ((s.fetched l).updCore l.val fun k => k.srWrite 0x300 (((s.fetched l).core l.val).rg ga)) [] := by
    unfold Dev.mts
    rw [hn]
    simp only [hf]
    rfl
  refine (completes_done_counted (f := fun d => d.mts l.val sr.toNat ((d.core l.val).rg ga)) rfl hs hm).imp fun t ht => ?_
  rw [core_updCore, if_pos rfl] at ht
  exact ht

end

theorem srWrite_pmuCtl (c : Core) (x : Word) : (c.srWrite 0x300 x).pmu.ctl = x.setWidth 32 &&& 0xF0F#32 := by
  have h : c.srWrite 0x300 x = { c with pmu := c.pmu.put 0x300 x } := rfl
  rw [h]
  show BitVec.ofNat 32 x.toNat &&& 0xF0F#32 = _
  rw [BitVec.ofNat_toNat]

theorem bit_pmuCtl (x : Word) {i : Nat} (h : i = 0 ∨ i = 3) : bit (x.setWidth 32 &&& 0xF0F#32) i = bit x i := by
  unfold bit
  rw [BitVec.getLsbD_and, BitVec.getLsbD_setWidth]
  obtain rfl | rfl := h
  · simp
  · simp

theorem counted_pmuCtl {c t : Core} {x pc : Word} (h : Core.Counted { c.srWrite 0x300 x with pc := pc } t) :
    t.pc = pc ∧ t.pmu.ctl ||| 4#32 = (x.setWidth 32 &&& 0xF0F#32) ||| 4#32 ∧
      (bit x 0 = false ∨ bit x 3 = false → t.pmu.ctl = x.setWidth 32 &&& 0xF0F#32) := by
  obtain ⟨hp, ho, hx⟩ := h
  dsimp only at hp ho hx
  rw [srWrite_pmuCtl] at ho hx
  rw [bit_pmuCtl x (.inl rfl), bit_pmuCtl x (.inr rfl)] at hx
  exact ⟨hp, ho, hx⟩

/-! ### Claims and sends -/

theorem rg_wg (c : Core) (r : BitVec 5) (x : Word) : (c.wg r x).rg r = if r = 0#5 then 0#64 else x := by
  unfold Core.rg Core.wg
  split
  · rfl
  · dsimp only
    rw [mget_mset, if_pos rfl]

theorem rg_next (c : Core) (r : BitVec 5) : c.next.rg r = c.rg r := rfl

theorem getLsbD_setBit_self (x : BitVec 256) {i : Nat} (h : i < 256) : (setBit x i true).getLsbD i = true := by
  unfold setBit
  simp [h]

/-- The world's active levels with one more. -/
def Core.activate (c : Core) (v : Nat) : Core :=
  if c.level.secure then { c with actS := c.actS ||| 1#16 <<< (v / 16) } else { c with actN := c.actN ||| 1#16 <<< (v / 16) }

theorem activate_pend (c : Core) (v : Nat) : (c.activate v).pend = c.pend := by unfold Core.activate; split <;> rfl
theorem activate_pc (c : Core) (v : Nat) : (c.activate v).pc = c.pc := by unfold Core.activate; split <;> rfl
theorem activate_pmu (c : Core) (v : Nat) : (c.activate v).pmu = c.pmu := by unfold Core.activate; split <;> rfl
theorem wg_pend (c : Core) (r : BitVec 5) (x : Word) : (c.wg r x).pend = c.pend := by unfold Core.wg; split <;> rfl

theorem claim_some {d : Dev} {l v : Nat} (h : d.claimable l = some v) :
    d.claim l = d.updCore l fun c => { c with pend := setBit c.pend v false }.activate v := by
  unfold Dev.claim
  rw [h]
  rfl

theorem claim_none {d : Dev} {l : Nat} (h : d.claimable l = none) : d.claim l = d := by
  unfold Dev.claim
  rw [h]

/-- What a claim returns: the vector, or 0x100 where there is none. -/
def claimWord (v : Option Nat) : Word := match v with | some v => BitVec.ofNat 64 v | none => 0x100#64

theorem mfs_claim {d : Dev} {l : Nat} {gd : BitVec 5} (h : (d.core l).srFault 0x210 true = none) :
    d.mfs l gd 0x210 = .done ((d.claim l).updCore l fun c => c.wg gd (claimWord (d.claimable l))) [] := by
  unfold Dev.mfs
  simp only [h, if_true]
  rfl

theorem core_wg_next (d : Dev) (l : Nat) (gd : BitVec 5) (x : Word) :
    ((d.updCore l fun c => c.wg gd x).updCore l Core.next).core l = ((d.core l).wg gd x).next := by
  rw [core_updCore, if_pos rfl, core_updCore, if_pos rfl]

theorem completes_claim {c : Instr} {l : Fin 384} {s : State} {gd : BitVec 5} (he : exec c s = runInstr l s fun d => d.mfs l.val gd 0x210)
    (hs : s.ready l) (hf : ((s.fetched l).core l.val).srFault 0x210 true = none) :
    Completes c s fun t => (t.core l.val).rg gd = (if gd = 0#5 then 0#64 else claimWord ((s.fetched l).claimable l.val)) ∧
      (∀ v, (s.fetched l).claimable l.val = some v → (t.core l.val).pend = setBit ((s.fetched l).core l.val).pend v false) ∧
      (t.core l.val).pc = ((s.fetched l).core l.val).pc + 4#64 := by
  have hk : (((s.fetched l).claim l.val).core l.val).pmu = ((s.fetched l).core l.val).pmu ∧
      (((s.fetched l).claim l.val).core l.val).pc = ((s.fetched l).core l.val).pc ∧
      ∀ v, (s.fetched l).claimable l.val = some v → (((s.fetched l).claim l.val).core l.val).pend = setBit ((s.fetched l).core l.val).pend v false := by
    cases hv : (s.fetched l).claimable l.val with
    | none =>
      rw [claim_none hv]
      exact ⟨rfl, rfl, fun _ h => by cases h⟩
    | some v =>
      rw [claim_some hv, core_updCore, if_pos rfl]
      refine ⟨activate_pmu .., activate_pc .., ?_⟩
      rintro _ ⟨⟩
      exact activate_pend ..
  obtain ⟨hpmu, hpc, hpend⟩ := hk
  refine (completes_done_core he hs (mfs_claim hf) ?_).imp fun t ht => ?_
  · rw [core_updCore, if_pos rfl, wg_pmu, hpmu]
    exact pmu_idle_of_quiet hs.2.2
  · rw [ht l.val, core_wg_next]
    exact ⟨(rg_next ..).trans (rg_wg ..), fun v hv => (wg_pend ..).trans (hpend v hv), congrArg (· + 4#64) ((wg_pc ..).trans hpc)⟩

/-- A send in its own skein to a core that takes vectors. -/
structure Dev.Sends (e : Dev) (l : Nat) (x : Word) : Prop where
  skein : e.skeinOf (field x 8 0) = e.skeinOf l
  vector : field x 23 16 < 0xF0
  normal : bit x 24 = false
  there : mget false e.lost (field x 8 0) = false
  released : (e.core (field x 8 0)).released = true
  free : e.heldReset (field x 8 0) = false
  settled : mget false e.reeling (field x 8 0) = false
  opened : (e.port (field x 8 0)).st = .opened

theorem inboxSend_of_sends {e : Dev} {l : Nat} {x : Word} (h : e.Sends l x) :
    ∃ sk, e.inboxSend l x = e.inboxPut ⟨field x 8 0, field x 23 16, false, sk⟩ := by
  refine ⟨(e.skeinOf l).getD 0, ?_⟩
  have hv := h.vector
  unfold Dev.inboxSend
  dsimp only
  rw [if_neg (by rw [h.skein, h.normal]; simp; omega), h.normal]
  unfold Dev.deliverVec
  dsimp only
  rw [h.there, h.released, h.free, decide_eq_false (by omega), if_neg (by decide), h.settled, if_neg (by decide), h.opened]

theorem buffersOnly_drain (d : Dev) (l : Nat) : BuffersOnly l d (d.drain l) :=
  (buffersOnly_drainItems d l (d.core l).sb).trans (buffersOnly_updCore (fun _ => rfl) l _)

theorem pend_updCore_next (d : Dev) (l j : Nat) : ((d.updCore l Core.next).core j).pend = (d.core j).pend := by
  rw [core_updCore]
  split
  · next h => subst h; rfl
  · rfl

theorem pend_inboxPut (d : Dev) {m : VecMsg} (h : m.vector < 256) : ((d.inboxPut m).core m.lcn).pend.getLsbD m.vector = true := by
  unfold Dev.inboxPut
  rw [core_updCore, if_pos rfl]
  exact getLsbD_setBit_self _ h

theorem completes_send {c : Instr} {l : Fin 384} {s : State} {ga : BitVec 5}
    (he : exec c s = runInstr l s fun d => d.mts l.val 0x213 ((d.core l.val).rg ga)) (hs : s.ready l)
    (hf : ((s.fetched l).core l.val).srFault 0x213 false = none) (hd : ((s.fetched l).drained l.val).2 = true)
    (h : ((s.fetched l).drained l.val).1.Sends l.val (((s.fetched l).core l.val).rg ga)) :
    Completes c s fun t =>
      (t.core (field (((s.fetched l).core l.val).rg ga) 8 0)).pend.getLsbD (field (((s.fetched l).core l.val).rg ga) 23 16) = true ∧
      (t.core l.val).pc = ((s.fetched l).core l.val).pc + 4#64 := by
  obtain ⟨sk, hp⟩ := inboxSend_of_sends h
  have hv := h.vector
  have hm : (s.fetched l).mts l.val 0x213 (((s.fetched l).core l.val).rg ga) =
      .done (((s.fetched l).drained l.val).1.inboxPut ⟨field (((s.fetched l).core l.val).rg ga) 8 0, field (((s.fetched l).core l.val).rg ga) 23 16, false, sk⟩) [] := by
    unfold Dev.mts
    simp only [hf, hd, if_true, hp]
  have hb := buffersOnly_drain (s.fetched l) l.val
  have hc := vecsOnly_inboxPut ((s.fetched l).drained l.val).1 ⟨field (((s.fetched l).core l.val).rg ga) 8 0, field (((s.fetched l).core l.val).rg ga) 23 16, false, sk⟩ l.val
  have hb' : (((s.fetched l).drained l.val).1.core l.val) = ((s.fetched l).core l.val).withBuffersOf (((s.fetched l).drained l.val).1.core l.val) := hb
  refine (completes_done_core he hs hm ?_).imp fun t ht => ⟨?_, ?_⟩
  · rw [hc]
    show (((s.fetched l).drained l.val).1.core l.val).pmu.idle = true
    rw [hb', pmu_withBuffersOf]
    exact pmu_idle_of_quiet hs.2.2
  · rw [ht, pend_updCore_next]
    exact pend_inboxPut _ (m := ⟨_, _, false, sk⟩) (by dsimp only; omega)
  · rw [ht, core_updCore, if_pos rfl, hc, hb']
    rfl

/-! ### Watchdogs -/

theorem quiet_updWd (d : Dev) (sk : Nat) (f : Wdog → Wdog) (l : Nat) : (d.updWd sk f).quiet l = d.quiet l := rfl

theorem quiet_swdogWrite (d : Dev) (l : Nat) (x : Word) (j : Nat) : (d.swdogWrite l x).quiet j = d.quiet j := by
  unfold Dev.swdogWrite
  split
  · rfl
  · split
    · split
      · exact quiet_updWd ..
      · rfl
    · rfl

theorem quiet_ndogCtlWrite (d : Dev) (l : Nat) (x : Word) (j : Nat) : (d.ndogCtlWrite l x).quiet j = d.quiet j := by
  unfold Dev.ndogCtlWrite
  dsimp only
  split
  · rfl
  · split
    · rfl
    · exact quiet_updWd ..

theorem quiet_ndogSvc (d : Dev) (l j : Nat) : (d.ndogSvc l).quiet j = d.quiet j := by
  unfold Dev.ndogSvc
  dsimp only
  split
  · rfl
  · exact quiet_updWd ..

section
variable {c : Instr} {l : Fin 384} {s : State} {ga : BitVec 5} (hs : s.ready l)
include hs

theorem retiresBy_swdogWrite (he : exec c s = runInstr l s fun d => d.mts l.val 0x30 ((d.core l.val).rg ga))
    (hf : ((s.fetched l).core l.val).srFault 0x30 false = none) :
    RetiresBy c l s fun d => d.swdogWrite l.val (((s.fetched l).core l.val).rg ga) :=
  retiresBy_mts hs he (fun d => d.swdogWrite l.val (((s.fetched l).core l.val).rg ga)) (by unfold Dev.mts; rw [hf]; rfl) (quiet_swdogWrite ..)

theorem retiresBy_ndogCtlWrite (he : exec c s = runInstr l s fun d => d.mts l.val 0x31 ((d.core l.val).rg ga))
    (hf : ((s.fetched l).core l.val).srFault 0x31 false = none) :
    RetiresBy c l s fun d => d.ndogCtlWrite l.val (((s.fetched l).core l.val).rg ga) :=
  retiresBy_mts hs he (fun d => d.ndogCtlWrite l.val (((s.fetched l).core l.val).rg ga)) (by unfold Dev.mts; rw [hf]; rfl) (quiet_ndogCtlWrite ..)

theorem retiresBy_ndogSvc (he : exec c s = runInstr l s fun d => d.mts l.val 0x32 ((d.core l.val).rg ga))
    (hf : ((s.fetched l).core l.val).srFault 0x32 false = none) : RetiresBy c l s fun d => d.ndogSvc l.val :=
  retiresBy_mts hs he (fun d => d.ndogSvc l.val) (by unfold Dev.mts; rw [hf]; rfl) (quiet_ndogSvc ..)

theorem completes_mmuSegtbWrite (hf : ((s.fetched l).core l.val).srFault 0x101 false = none) : Completes (.mmuSegtbWrite l ga) s fun t =>
    (t.core l.val).segtb = (((s.fetched l).core l.val).rg ga &&& 0x000FFFFFFFFFFF00#64) ∧ (t.core l.val).sla = [] ∧
      (t.core l.val).pc = ((s.fetched l).core l.val).pc + 4#64 := by
  have h := retires_srWrite (c := .mmuSegtbWrite l ga) (n := 0x101) (ga := ga) hs rfl (by decide) (by decide) hf
  unfold Retires RetiresBy at h
  refine h.imp ?_
  rintro _ rfl
  rw [core_updCore, if_pos rfl, core_updCore, if_pos rfl]
  exact ⟨rfl, rfl, rfl⟩

end

theorem exec_mfs {l : Fin 384} {gd : BitVec 5} {sr : BitVec 12} {n : Nat} (h : sr.toNat = n) (s : State) :
    exec (.mfs l gd sr) s = runInstr l s fun d => d.mfs l.val gd n := by subst h; rfl

theorem exec_mts {l : Fin 384} {ga : BitVec 5} {sr : BitVec 12} {n : Nat} (h : sr.toNat = n) (s : State) :
    exec (.mts l sr ga) s = runInstr l s fun d => d.mts l.val n ((d.core l.val).rg ga) := by subst h; rfl

/-- Settles O18: MFS, then MTS by what its register is; the rows that name a register are the same accesses. -/
theorem systemRegistersComplete : Obligations.SystemRegistersComplete := by
  intro l gd ga sr s hs
  dsimp only
  refine ⟨fun hf hn => retiresBy_mfs hs hf hn, fun hn hc hf => retires_srWrite hs rfl hn hc hf, fun hn hf => (completes_pmuCtl hs hn (hn ▸ hf)).imp fun t ht => counted_pmuCtl ht,
    retires_counter hs, ?_, retires_srWrite (n := 0x211) hs rfl (by decide) (by decide), ?_, ?_, ?_, ?_, completes_mmuSegtbWrite hs⟩
  · have hx {c : Instr} (he : exec c s = runInstr l s fun d => d.mfs l.val gd 0x210) := completes_claim he hs
    intro c hc hf
    simp only [List.mem_cons, List.not_mem_nil, or_false] at hc
    obtain rfl | rfl := hc
    · exact hx (exec_mfs (by decide) s) hf
    · exact hx rfl hf
  · intro c hc hf hd h1 h2 h3 h4 h5 h6 h7 h8
    have h : ((s.fetched l).drained l.val).1.Sends l.val (((s.fetched l).core l.val).rg ga) := ⟨h1, h2, h3, h4, h5, h6, h7, h8⟩
    simp only [List.mem_cons, List.not_mem_nil, or_false] at hc
    obtain rfl | rfl := hc
    · exact completes_send (exec_mts (by decide) s) hs hf hd h
    · exact completes_send rfl hs hf hd h
  · intro c hc hf
    simp only [List.mem_cons, List.not_mem_nil, or_false] at hc
    obtain rfl | rfl := hc
    · exact retiresBy_swdogWrite hs (exec_mts (by decide) s) hf
    · exact retiresBy_swdogWrite hs rfl hf
  · intro c hc hf
    simp only [List.mem_cons, List.not_mem_nil, or_false] at hc
    obtain rfl | rfl := hc
    · exact retiresBy_ndogCtlWrite hs (exec_mts (by decide) s) hf
    · exact retiresBy_ndogCtlWrite hs rfl hf
  · intro c hc hf
    simp only [List.mem_cons, List.not_mem_nil, or_false] at hc
    obtain rfl | rfl := hc
    · exact retiresBy_ndogSvc hs (exec_mts (by decide) s) hf
    · exact retiresBy_ndogSvc hs rfl hf

end Sys2Proof.Machine
end

section
/-! PROOFS. Invalidations, the secure look-aside, barriers and the predictor (07 R238, R241, 09 R295, R296, 10 R326 to R330). -/
namespace Sys2Proof.Machine

/-! ### What draining a core's stores changes of the other cores -/

/-- No core but `l` differs in `e`. -/
structure OnlyCore (l : Nat) (d e : Dev) : Prop where
  same : ∀ j, j ≠ l → e.core j = d.core j

theorem OnlyCore.of_cores {l : Nat} {d e : Dev} (h : e.cores = d.cores) : OnlyCore l d e := ⟨fun j _ => core_of_cores h j⟩
theorem OnlyCore.refl (l : Nat) (d : Dev) : OnlyCore l d d := ⟨fun _ _ => rfl⟩
theorem OnlyCore.trans {l : Nat} {d e f : Dev} (h : OnlyCore l d e) (h' : OnlyCore l e f) : OnlyCore l d f :=
  ⟨fun j hj => (h'.same j hj).trans (h.same j hj)⟩

theorem onlyCore_updCore {f : Core → Core} (l : Nat) (d : Dev) : OnlyCore l d (d.updCore l f) :=
  ⟨fun j hj => by rw [core_updCore, if_neg hj.symm]⟩

theorem onlyCore_raiseLocal (d : Dev) (l v : Nat) : OnlyCore l d (d.raiseLocal l v) := by
  unfold Dev.raiseLocal
  split
  · exact .refl l d
  · exact onlyCore_updCore l d

theorem onlyCore_storeError (d : Dev) (l : Nat) (secure device : Bool) (st : Status) (pa : Nat) : OnlyCore l d (d.storeError l secure device st pa) :=
  .trans (onlyCore_updCore l d) (onlyCore_raiseLocal _ l _)

theorem onlyCore_notePending (d : Dev) (l p line : Nat) : OnlyCore l d (d.notePending l p line) := by
  unfold Dev.notePending
  split
  · split
    · exact onlyCore_updCore l d
    · exact .refl l d
  · exact .refl l d

theorem onlyCore_coreWrite (d : Dev) (l : Nat) (into : Fill) (cells : List Host.Cell) : OnlyCore l d (d.coreWrite l into cells) := by
  unfold Dev.coreWrite
  split
  · exact .refl l d
  next c cs =>
  dsimp only
  split
  · exact .of_cores (homeStore_cores ..)
  refine .trans (.of_cores (coreLine_cores d l (c.1 / 64) true into (coversLine (c.1 / 64) (c :: cs)))) ?_
  generalize (d.coreLine l (c.1 / 64) true into (coversLine (c.1 / 64) (c :: cs))).1 = e
  have hput (f : Dev) (hf : OnlyCore l e f) : OnlyCore l e (if coversLine (c.1 / 64) (c :: cs) then
      (f.putBytes (c :: cs)).setPoison (c.1 / 64) false else f.putBytes (c :: cs)) :=
    hf.trans (.of_cores (by split <;> rfl))
  refine hput _ ?_
  split
  · exact .trans (.of_cores (by simp)) (onlyCore_notePending ..)
  · exact .of_cores (by simp)

theorem onlyCore_memStore (d : Dev) (l : Nat) (cells : List Host.Cell) (mt : MemType) (vi : Nat) : OnlyCore l d (d.memStore l cells mt vi) := by
  unfold Dev.memStore
  split
  · exact .of_cores (ncWrite_cores ..)
  · exact onlyCore_coreWrite ..

theorem onlyCore_issueStore (d : Dev) (l : Nat) (it : SbItem) : OnlyCore l d (d.issueStore l it).1 := by
  unfold Dev.issueStore
  split
  case h_1 | h_2 => exact .refl l d
  case h_3 c cs mt lvl vi =>
    dsimp only
    split
    · exact onlyCore_storeError ..
    · dsimp only
      exact onlyCore_updCore l d
    · split
      · dsimp only
        exact onlyCore_updCore l d
      · exact .refl l d
    · have hreach : OnlyCore l d _ := .of_cores (reach_cores d l (c.1 / 64) mt true)
      split
      case h_1 e he => rw [he] at hreach; exact hreach.trans (onlyCore_memStore ..)
      case h_2 e he => rwa [he] at hreach
      case h_3 e he => rwa [he] at hreach
      case h_4 e st he => rw [he] at hreach; exact hreach.trans (onlyCore_storeError ..)

theorem onlyCore_drainItems (d : Dev) (l : Nat) (its : List SbItem) : OnlyCore l d (d.drainItems l its).1 := by
  induction its generalizing d with
  | nil => exact .refl l d
  | cons it rest ih =>
    have hit := onlyCore_issueStore d l it
    unfold Dev.drainItems
    split
    case h_1 e he => rw [he] at hit; exact hit.trans (ih e)
    case h_2 e he => rwa [he] at hit

theorem onlyCore_drain (d : Dev) (l : Nat) : OnlyCore l d (d.drain l) := by
  refine (onlyCore_drainItems d l (d.core l).sb).trans ?_
  unfold Dev.drain
  exact onlyCore_updCore l _

/-- Draining any cores changes only buffers of any core. -/
theorem buffersOnly_foldl_drain (ls : List Nat) (d : Dev) (j : Nat) : BuffersOnly j d (ls.foldl Dev.drain d) := by
  induction ls generalizing d with
  | nil => exact .refl j d
  | cons l ls ih =>
    refine BuffersOnly.trans ?_ (ih (d.drain l))
    by_cases h : j = l
    · subst h
      exact buffersOnly_drain d j
    · unfold BuffersOnly
      rw [(onlyCore_drain d l).same j h]
      rfl

/-! ### Invalidations -/

theorem core_foldl_updCore (f : Core → Core) (ls : List Nat) (hn : ls.Nodup) (d : Dev) (j : Nat) :
    (ls.foldl (fun d k => d.updCore k f) d).core j = if j ∈ ls then f (d.core j) else d.core j := by
  induction ls generalizing d with
  | nil => rfl
  | cons k ls ih =>
    obtain ⟨hk, hn⟩ := List.nodup_cons.1 hn
    rw [List.foldl_cons, ih hn, core_updCore]
    by_cases h : k = j
    · subst h
      rw [if_neg hk, if_pos rfl, if_pos (List.mem_cons_self ..)]
    · rw [if_neg h]
      exact if_congr (List.mem_cons.trans (or_iff_right fun e => h e.symm)).symm rfl rfl

theorem invalAt_one (d : Dev) (l : Nat) : d.invalAt l false = [l] := rfl

theorem invalAt_all {d : Dev} {l : Nat} {c : SkeinCfg} (h : d.cfgOf l = some c) : d.invalAt l true = setBits 384 c.lcnMask := by
  unfold Dev.invalAt
  rw [h]

theorem mem_setBits {n mask j : Nat} : j ∈ setBits n mask ↔ j < n ∧ mask.testBit j = true := by
  unfold setBits
  rw [List.mem_filter, List.mem_range]

theorem nodup_setBits (n mask : Nat) : (setBits n mask).Nodup := List.nodup_range.filter _

theorem nodup_invalAt (d : Dev) (l : Nat) (all : Bool) : (d.invalAt l all).Nodup := by
  unfold Dev.invalAt
  split
  · exact nodup_setBits ..
  · exact List.nodup_singleton _

/-- The same translations. -/
def Core.SameTlbs (a b : Core) : Prop := a.itlb = b.itlb ∧ a.dtlb = b.dtlb ∧ a.l2tlb = b.l2tlb ∧ a.walk = b.walk ∧ a.sla = b.sla

theorem sameTlbs_next (c : Core) : c.next.SameTlbs c := ⟨rfl, rfl, rfl, rfl, rfl⟩

theorem sameTlbs_updCore_next (d : Dev) (l j : Nat) : ((d.updCore l Core.next).core j).SameTlbs (d.core j) := by
  rw [core_updCore]
  split
  · next h => subst h; exact sameTlbs_next _
  · exact ⟨rfl, rfl, rfl, rfl, rfl⟩

theorem mget_mem_or {α : Type} (d : α) (m : List (Nat × α)) (k : Nat) : mget d m k = d ∨ (k, mget d m k) ∈ m := by
  induction m with
  | nil => exact .inl rfl
  | cons x m ih =>
    obtain ⟨k', v⟩ := x
    unfold mget
    split
    · next h => subst h; exact .inr (List.mem_cons_self ..)
    · exact ih.imp_right (List.mem_cons_of_mem _)

theorem stlbWrite_same (c : Core) (idx : Nat) (w0 w1 : Word) : mget (0#64, 0#64) (c.stlbWrite idx w0 w1).stlb idx = (w0, w1) :=
  (mget_mset ..).trans (if_pos rfl)

/-- A write to the look-aside leaves no other entry that it overlaps (09 R296). -/
theorem stlbWrite_other (c : Core) {idx i : Nat} (w0 w1 : Word) (h : i ≠ idx) :
    stlbOverlap (mget (0#64, 0#64) (c.stlbWrite idx w0 w1).stlb i).1 w0 = false := by
  unfold Core.stlbWrite
  dsimp only
  rw [mget_mset, if_neg h.symm]
  obtain hd | hm := mget_mem_or (0#64, 0#64) (c.stlb.filter fun e => !(e.1 != idx && stlbOverlap e.2.1 w0)) i
  · rw [hd]
    rfl
  · have hp := (List.mem_filter.1 hm).2
    simpa [h] using hp

section
variable {l : Fin 384} {s : State} (hs : s.ready l)
include hs

/-- What a change of a core that keeps PC and counters leaves of the one that asks for it: the same translations, one word on. -/
theorem completes_inval {c : Instr} {all : Bool} (g : Dev → Core → Core) {f : Core → Core} (hg : g (s.fetched l) = f)
    (he : exec c s = runInstr l s fun d => d.inval l.val all (g d)) (hf : ∀ k, (f k).pc = k.pc ∧ (f k).pmu = k.pmu) (hp : ((s.fetched l).core l.val).level.priv = true)
    (hset : ∀ j ∈ l.val :: (s.fetched l).invalAt l.val all, (((l.val :: (s.fetched l).invalAt l.val all).foldl Dev.drain (s.fetched l)).core j).settled = true) :
    Completes c s fun t => (t.core l.val).pc = ((s.fetched l).core l.val).pc + 4#64 ∧ ∀ j,
      (j ∈ (s.fetched l).invalAt l.val all → (t.core j).SameTlbs (f (((l.val :: (s.fetched l).invalAt l.val all).foldl Dev.drain (s.fetched l)).core j))) ∧
      (j ∉ (s.fetched l).invalAt l.val all → (t.core j).SameTlbs (((l.val :: (s.fetched l).invalAt l.val all).foldl Dev.drain (s.fetched l)).core j)) := by
  have hm : (s.fetched l).inval l.val all f = .done (((s.fetched l).invalAt l.val all).foldl (fun d k => d.updCore k f)
      ((l.val :: (s.fetched l).invalAt l.val all).foldl Dev.drain (s.fetched l))) [] := by
    unfold Dev.inval
    dsimp only
    rw [if_neg (by rw [hp]; decide), if_pos (List.all_eq_true.2 hset)]
  have hb := buffersOnly_foldl_drain (l.val :: (s.fetched l).invalAt l.val all) (s.fetched l) l.val
  generalize (l.val :: (s.fetched l).invalAt l.val all).foldl Dev.drain (s.fetched l) = d1 at hm hb ⊢
  have hc := core_foldl_updCore f _ (nodup_invalAt (s.fetched l) l.val all) d1
  have hkeep : ∀ k : Core, (if l.val ∈ (s.fetched l).invalAt l.val all then f k else k).pc = k.pc ∧
      (if l.val ∈ (s.fetched l).invalAt l.val all then f k else k).pmu = k.pmu := fun k => by
    split
    · exact hf k
    · exact ⟨rfl, rfl⟩
  have hl : (d1.core l.val) = ((s.fetched l).core l.val).withBuffersOf (d1.core l.val) := hb
  have hx : (if l.val ∈ (s.fetched l).invalAt l.val all then f (d1.core l.val) else d1.core l.val).pc = ((s.fetched l).core l.val).pc := by
    rw [(hkeep _).1, hl]
    rfl
  refine (completes_done_core he hs (by rw [hg]; exact hm) ?_).imp fun t ht => ⟨?_, fun j => ⟨fun hj => ?_, fun hj => ?_⟩⟩
  · rw [hc]
    split
    · rw [(hf _).2, hl]
      exact pmu_idle_of_quiet hs.2.2
    · rw [hl]
      exact pmu_idle_of_quiet hs.2.2
  · rw [ht, core_updCore, if_pos rfl, hc]
    exact congrArg (· + 4#64) hx
  · rw [ht]
    have hn := sameTlbs_updCore_next (((s.fetched l).invalAt l.val all).foldl (fun d k => d.updCore k f) d1) l.val j
    rwa [hc, if_pos hj] at hn
  · rw [ht]
    have hn := sameTlbs_updCore_next (((s.fetched l).invalAt l.val all).foldl (fun d k => d.updCore k f) d1) l.val j
    rwa [hc, if_neg hj] at hn

/-! ### The secure look-aside -/

theorem completes_stlbw {ga gb : BitVec 5} {idx : BitVec 6} (hk : ((s.fetched l).core l.val).level = .sk)
    (hg : stlbLegal (((s.fetched l).core l.val).rg ga) (((s.fetched l).core l.val).rg gb) = true) :
    Completes (.stlbw l ga gb idx) s fun t =>
      mget (0#64, 0#64) (t.core l.val).stlb idx.toNat = (((s.fetched l).core l.val).rg ga, ((s.fetched l).core l.val).rg gb) ∧
      (∀ i, i ≠ idx.toNat → stlbOverlap (mget (0#64, 0#64) (t.core l.val).stlb i).1 (((s.fetched l).core l.val).rg ga) = false) ∧
      (t.core l.val).pc = ((s.fetched l).core l.val).pc + 4#64 := by
  have h : Retires (.stlbw l ga gb idx) l s fun c =>
      c.stlbWrite idx.toNat (((s.fetched l).core l.val).rg ga) (((s.fetched l).core l.val).rg gb) := by
    refine retires_of_done _ l s _ _ [] rfl hs ?_ (fun _ => rfl) (fun _ => rfl) (fun _ => rfl)
    dsimp only
    rw [if_neg (by rw [hg]; decide), if_neg (by rw [hk]; decide)]
  unfold Retires RetiresBy at h
  refine h.imp ?_
  rintro _ rfl
  rw [core_updCore, if_pos rfl, core_updCore, if_pos rfl]
  exact ⟨stlbWrite_same .., fun i hi => stlbWrite_other _ _ _ hi, rfl⟩

theorem retires_stlbr {gd : BitVec 5} {idx : BitVec 6} {hi : Bool} (hk : ((s.fetched l).core l.val).level = .sk) : Retires (.stlbr l gd idx hi) l s
    (fun c => c.wg gd (if hi then (mget (0#64, 0#64) c.stlb idx.toNat).2 else (mget (0#64, 0#64) c.stlb idx.toNat).1)) := by
  refine retires_of_done _ l s _ _ [] rfl hs ?_ (fun _ => wg_pmu ..) (fun _ => wg_stepArmed ..) (fun _ => wg_draining ..)
  dsimp only
  rw [if_neg (by rw [hk]; decide)]

theorem retires_stlbi {ga : BitVec 5} {all : Bool} (hk : ((s.fetched l).core l.val).level = .sk) : Retires (.stlbi l all ga) l s
    (fun c => { c with stlb := if all then [] else c.stlb.filter fun e => !stlbHit e.2 ((((s.fetched l).core l.val).rg ga).toNat % 2 ^ 48) }) := by
  refine retires_of_done _ l s _ _ [] rfl hs ?_ (fun _ => rfl) (fun _ => rfl) (fun _ => rfl)
  rw [if_neg (by rw [hk]; decide)]
  exact congrArg (fun e => CoreOut.done e []) (updCore_congr _ _ _ _ rfl)

/-! ### Barriers and the predictor -/

/-- What an instruction that only orders leaves: the PC moves on, and the core is as its drain left it. -/
theorem completes_ordered {c : Instr} {f : Dev → CoreOut} {e : Dev} (he : exec c s = runInstr l s f) (hf : f (s.fetched l) = .done e [])
    (hb : BuffersOnly l.val (s.fetched l) e) :
    Completes c s fun t => (t.core l.val).pc = ((s.fetched l).core l.val).pc + 4#64 ∧ (t.core l.val).g = ((s.fetched l).core l.val).g ∧
      t.core l.val = (e.core l.val).next := by
  have hl : e.core l.val = ((s.fetched l).core l.val).withBuffersOf (e.core l.val) := hb
  refine (completes_done_core he hs hf ?_).imp fun t ht => ?_
  · rw [hl]
    exact pmu_idle_of_quiet hs.2.2
  · rw [ht, core_updCore, if_pos rfl]
    refine ⟨?_, ?_, rfl⟩
    · rw [hl]; rfl
    · rw [hl]; rfl

end

theorem allPerformed_iff (c : Core) : c.allPerformed = true ↔ c.sb = [] ∧ c.pendSt = [] := by
  unfold Core.allPerformed
  rw [Bool.and_eq_true, List.isEmpty_iff, List.isEmpty_iff]

theorem drainMark_sb (d : Dev) (l : Nat) (all : Bool) :
    ((d.drainMark l all).core l).sb = [] ∨ ((d.drainMark l all).core l).sb.getLast? = some (.mark all) := by
  unfold Dev.drainMark
  dsimp only
  split
  · next h => exact .inl ((allPerformed_iff _).1 h).1
  · right
    rw [core_updCore, if_pos rfl, List.getLast?_append]
    rfl

theorem refetch_core (d : Dev) (l : Nat) : (d.refetch l).core l = { d.core l with stlbF := (d.core l).stlb } := by
  unfold Dev.refetch
  rw [core_updCore, if_pos rfl, core_of_cores (l1iSync_cores d l)]

theorem completes_pbar {l : Fin 384} {s : State} (hs : s.ready l) {ga gb : BitVec 5}
    (hl : pbarLegal (((s.fetched l).core l.val).rg ga) (((s.fetched l).core l.val).rg gb) = true)
    (hm : ((s.fetched l).core l.val).pbarMay (((s.fetched l).core l.val).rg ga) (((s.fetched l).core l.val).rg gb) = true) :
    Completes (.pbar l ga gb) s fun t =>
      (∀ i, i < 4 → mget 0#64 (t.core l.val).pbar i =
        if i = (((s.fetched l).core l.val).rg gb).toNat % 4 then ((s.fetched l).core l.val).rg ga else mget 0#64 ((s.fetched l).core l.val).pbar i) ∧
      (t.core l.val).pc = ((s.fetched l).core l.val).pc + 4#64 := by
  have h : Retires (.pbar l ga gb) l s fun k =>
      { k with pbar := mset 0#64 k.pbar (field (((s.fetched l).core l.val).rg gb) 1 0) (((s.fetched l).core l.val).rg ga) } := by
    refine retires_of_done _ l s _ _ [] rfl hs ?_ (fun _ => rfl) (fun _ => rfl) (fun _ => rfl)
    dsimp only
    rw [if_neg (by rw [hl]; decide), if_neg (by rw [hm]; decide)]
  unfold Retires RetiresBy at h
  refine h.imp ?_
  rintro _ rfl
  rw [core_updCore, if_pos rfl, core_updCore, if_pos rfl]
  refine ⟨fun i _ => ?_, rfl⟩
  dsimp only
  rw [mget_mset]
  exact if_congr ⟨fun h => h.symm, fun h => h.symm⟩ rfl rfl

/-- The core with an empty predictor. -/
def Core.unpredicted (c : Core) : Core := { c with pred := Predictor.empty }

theorem unpredicted_pmu (c : Core) : c.unpredicted.pmu = c.pmu := rfl
theorem unpredicted_stepArmed (c : Core) : c.unpredicted.stepArmed = c.stepArmed := rfl
theorem unpredicted_draining (c : Core) : c.unpredicted.draining = c.draining := rfl

theorem retires_pflush {l : Fin 384} {s : State} (hs : s.ready l) (hp : ((s.fetched l).core l.val).level.priv = true) :
    Retires (.pflush l) l s Core.unpredicted := by
  have he : exec (.pflush l) s = runInstr l s fun d => if !(d.core l.val).level.priv then .exc d .priv else .done (d.updCore l.val Core.unpredicted) [] := rfl
  refine retires_of_done _ l s _ Core.unpredicted [] he hs ?_ unpredicted_pmu unpredicted_stepArmed unpredicted_draining
  rw [if_neg (by rw [hp]; decide)]

/-- The core after an instruction that only orders, as seen by what it orders. -/
def Dev.Ordered (d e : Dev) (l : Nat) (p : Core → Prop) : Prop := (e.core l).pc = (d.core l).pc + 4#64 ∧ (e.core l).g = (d.core l).g ∧ p (e.core l)

theorem next_sb (c : Core) : c.next.sb = c.sb := rfl
theorem next_pendSt (c : Core) : c.next.pendSt = c.pendSt := rfl
theorem next_stlbF (c : Core) : c.next.stlbF = c.stlbF := rfl
theorem next_stlb (c : Core) : c.next.stlb = c.stlb := rfl
theorem next_devStores (c : Core) : c.next.devStores = c.devStores := rfl

section
variable {l : Fin 384} {s : State} (hs : s.ready l)
include hs

theorem completes_barSs : Completes (.barSs l) s fun t => (s.fetched l).Ordered t l.val fun c => c.sb = [] ∨ c.sb.getLast? = some (.mark false) := by
  refine (completes_ordered (f := fun d => .done (d.drainMark l.val false) []) hs rfl rfl (buffersOnly_drainMark (s.fetched l) l.val false)).imp
    fun t ⟨hp, hg, ht⟩ => ⟨hp, hg, ?_⟩
  rw [ht]
  dsimp only
  rw [next_sb]
  exact drainMark_sb (s.fetched l) l.val false

variable (hr : ((s.fetched l).drained l.val).2 = true)
include hr

omit hs in
theorem performed_of_drained : (((s.fetched l).drained l.val).1.core l.val).sb = [] ∧ (((s.fetched l).drained l.val).1.core l.val).pendSt = [] :=
  (allPerformed_iff (((s.fetched l).drained l.val).1.core l.val)).1 hr

theorem completes_barFull : Completes (.barFull l) s fun t => (s.fetched l).Ordered t l.val fun c => c.sb = [] ∧ c.pendSt = [] := by
  refine (completes_ordered (f := fun d => if (d.drained l.val).2 then .done (d.drained l.val).1 [] else .drains (d.drained l.val).1) hs rfl (if_pos hr)
    (buffersOnly_drain (s.fetched l) l.val)).imp fun t ⟨hp, hg, ht⟩ => ⟨hp, hg, ?_⟩
  rw [ht]
  dsimp only
  rw [next_sb, next_pendSt]
  exact performed_of_drained hr

theorem completes_isync : Completes (.isync l) s fun t => (s.fetched l).Ordered t l.val fun c => c.sb = [] ∧ c.stlbF = c.stlb := by
  refine (completes_ordered (f := fun d => if (d.drained l.val).2 then .done ((d.drained l.val).1.refetch l.val) [] else .drains (d.drained l.val).1) hs rfl
    (if_pos hr) ((buffersOnly_drain (s.fetched l) l.val).trans (buffersOnly_refetch _ l.val))).imp fun t ⟨hp, hg, ht⟩ => ⟨hp, hg, ?_⟩
  rw [ht]
  dsimp only
  rw [next_sb, next_stlbF, next_stlb, refetch_core]
  exact ⟨(performed_of_drained hr).1, rfl⟩

theorem completes_barDev (hz : (((s.fetched l).drained l.val).1.core l.val).devStores = 0) :
    Completes (.barDev l) s fun t => (s.fetched l).Ordered t l.val fun c => c.sb = [] ∧ c.devStores = 0 := by
  have hc : (((s.fetched l).drained l.val).2 && (((s.fetched l).drained l.val).1.core l.val).devStores == 0) = true := by rw [hr, hz]; rfl
  refine (completes_ordered (f := fun d => if (d.drained l.val).2 && ((d.drained l.val).1.core l.val).devStores == 0 then .done (d.drained l.val).1 []
    else .drains (d.drained l.val).1) hs rfl (if_pos hc) (buffersOnly_drain (s.fetched l) l.val)).imp fun t ⟨hp, hg, ht⟩ => ⟨hp, hg, ?_⟩
  rw [ht]
  dsimp only
  rw [next_sb, next_devStores]
  exact ⟨(performed_of_drained hr).1, hz⟩

end

/-- Settles O19: an invalidation at the cores it names, the look-aside's rows, and each barrier by what its drain leaves. -/
theorem barriersAndInvalidations : Obligations.BarriersAndInvalidations := by
  refine ⟨fun l all ga gb gd idx hi s hs => ?_, fun l ga gb s hs => ?_⟩
  · dsimp only
    refine ⟨invalAt_one .., fun c hc j => by rw [invalAt_all hc]; exact mem_setBits,
      completes_inval hs (fun d k => k.tlbiVa (field ((d.core l.val).rg ga) 47 0) (BitVec.ofNat 16 ((d.core l.val).rg gb).toNat)) rfl rfl (fun _ => ⟨rfl, rfl⟩),
      completes_inval hs (fun d k => k.tlbiAsid (BitVec.ofNat 16 ((d.core l.val).rg gb).toNat)) rfl rfl (fun _ => ⟨rfl, rfl⟩),
      completes_inval hs (fun _ => Core.tlbiAll) rfl rfl (fun _ => ⟨rfl, rfl⟩), completes_inval hs (fun _ => Core.slbi) rfl rfl (fun _ => ⟨rfl, rfl⟩),
      fun hk => ⟨completes_stlbw hs hk, retires_stlbr hs hk, retires_stlbi hs hk⟩⟩
  · dsimp only
    exact ⟨retiresBy_of_done _ l s (fun d => .done d []) _ [] rfl hs rfl hs.2.2, completes_barSs hs,
      fun hr => ⟨completes_barFull hs hr, completes_isync hs hr, completes_barDev hs hr⟩, retires_pflush hs, completes_pbar hs⟩

end Sys2Proof.Machine
end

section
/-! PROOFS. Coherence requests at their home (11 R353 to R358, 10 R316, 12 R397). -/
namespace Sys2Proof.Machine

/-! ### The directory, packets and the work on a line -/

theorem dirOf_setDir (d : Dev) (line : Nat) (e : DirEntry) : (d.setDir line e).dirOf line = e := by
  unfold Dev.setDir
  by_cases hc : d.dirCached line = true
  · rw [if_pos hc]
    show (mget none (mset none d.coh.dirNew line (if e = d.dirBack line then none else some e)) line).getD (d.dirBack line) = e
    rw [mget_mset, if_pos rfl]
    split
    · next h => exact h.symm
    · rfl
  · rw [if_neg hc]
    show (mget none (merase d.coh.dirNew line) line).getD (mget (d.dirDefault line) (mset (d.dirDefault line) d.coh.dir line e) line) = e
    rw [mget_merase, if_pos rfl, mget_mset, if_pos rfl]
    rfl

theorem dirOf_send (d : Dev) (k : CohKind) (a line : Nat) (bs : List Byte) (n : Nat) : (d.send k a line bs).dirOf n = d.dirOf n := rfl
theorem dirOf_noteFar (d : Dev) (who line n : Nat) : (d.noteFar who line).dirOf n = d.dirOf n := rfl
theorem dirOf_setTxn (d : Dev) (line : Nat) (t : Option HomeTxn) (n : Nat) : (d.setTxn line t).dirOf n = d.dirOf n := rfl
theorem inFlight_setTxn (d : Dev) (line : Nat) (t : Option HomeTxn) (k : CohKind) (a n : Nat) : (d.setTxn line t).inFlight k a n = d.inFlight k a n := rfl

theorem inFlight_send (d : Dev) (k : CohKind) (a line : Nat) (bs : List Byte) : ((d.send k a line bs).inFlight k a line).isSome = true := by
  unfold Dev.inFlight
  rw [List.find?_isSome]
  exact ⟨_, List.mem_append_right _ (List.mem_singleton_self _), by simp⟩

/-- The home of one request: what the request's start leaves, its own work on the line set again. -/
theorem homeServe_one (d : Dev) (line a : Nat) (r : HomeReq) :
    d.homeServe line [(a, r)] = d.homeStart line a r ∨ d.homeServe line [(a, r)] = (d.homeStart line a r).setTxn line ((d.homeStart line a r).txnOf line) := by
  unfold Dev.homeServe
  dsimp only
  split
  · next t ht =>
    rw [ht, List.append_nil]
    exact .inr rfl
  · exact .inl rfl

section
variable (d : Dev) (line a : Nat) (r : HomeReq)

theorem dirOf_homeServe_one (n : Nat) : (d.homeServe line [(a, r)]).dirOf n = (d.homeStart line a r).dirOf n := by
  obtain h | h := homeServe_one d line a r
  · rw [h]
  · rw [h, dirOf_setTxn]

theorem inFlight_homeServe_one (k : CohKind) (b n : Nat) : (d.homeServe line [(a, r)]).inFlight k b n = (d.homeStart line a r).inFlight k b n := by
  obtain h | h := homeServe_one d line a r
  · rw [h]
  · rw [h, inFlight_setTxn]

theorem txnOf_homeServe_one : (d.homeServe line [(a, r)]).txnOf line = (d.homeStart line a r).txnOf line := by
  obtain h | h := homeServe_one d line a r
  · rw [h]
  · rw [h, txnOf_setTxn, if_pos rfl]

end

/-! ### Requests -/

/-- A request of agent `a` reaches its home. -/
structure Dev.Asks (d : Dev) (a : Nat) : Prop where
  alive : d.deadAgents.getLsbD a = false
  reachable : d.agentIsolated a = false
  running : d.safe = false

/-- A home that is free to answer a request for memory the agent may reach. -/
structure Dev.HomeFree (d : Dev) (a line : Nat) : Prop where
  notGuest : a ≠ 18 ∧ a ≠ 19
  populated : d.populated (line * 64) = true
  reach : d.queueMem (line * 64) = true → a = 16
  idle : d.txnOf line = none
  answers : d.lineAnswer line = .ok
  built : ((d.dirTouch line).dirCorrect line).mustRebuild line = false

section
variable {d : Dev} {a line : Nat} {r : HomeReq} (h : d.Asks a)
include h

theorem homeRequest_guest (hg : a = 18 ∨ a = 19) : d.homeRequest line a r = { d with out := d.out ++ [.refused a line .dead] } := by
  unfold Dev.homeRequest
  rw [h.alive, h.reachable, h.running, if_neg (by decide), if_pos (by rw [← or_assoc]; exact .inl hg)]

theorem homeRequest_free (hf : d.HomeFree a line) : d.homeRequest line a r = d.homeServe line [(a, r)] := by
  obtain ⟨h18, h19⟩ := hf.notGuest
  have hq : ¬ (d.queueMem (line * 64) = true ∧ a ≠ 16) := fun hx => hx.2 (hf.reach hx.1)
  unfold Dev.homeRequest
  rw [h.alive, h.reachable, h.running, if_neg (by decide), hf.populated, if_neg (by simp [h18, h19, hq]), hf.idle]

end

section
variable {d : Dev} {a line : Nat} (hf : d.HomeFree a line)
include hf

/-- The home's start of a request for a line that another agent owns: it recalls the line. -/
theorem homeStart_recall {r : HomeReq} {k : CohKind} (hm : (((d.dirTouch line).dirCorrect line).dirOf line).st = .m)
    (ho : (((d.dirTouch line).dirCorrect line).dirOf line).holders ≠ agentBit a)
    (hk : (r = .getS ∧ k = .recallS) ∨ (r = .getM ∧ k = .recallI) ∨ ((∃ x, r = .full x) ∧ k = .recallD) ∨ (r = .rdnc ∧ k = .recallS) ∨
      ((∃ x, r = .atom x) ∧ k = .recallI) ∨ ((∃ m x, r = .wrnc m x) ∧ k = .recallI)) :
    d.homeStart line a r = ((d.dirTouch line).dirCorrect line).homeRecall line a (((d.dirTouch line).dirCorrect line).dirOf line).owner r k := by
  unfold Dev.homeStart
  rw [hf.answers]
  dsimp only
  rw [if_neg (by rw [hf.built]; decide)]
  obtain ⟨rfl, rfl⟩ | ⟨rfl, rfl⟩ | ⟨⟨x, rfl⟩, rfl⟩ | ⟨rfl, rfl⟩ | ⟨⟨x, rfl⟩, rfl⟩ | ⟨⟨m, x, rfl⟩, rfl⟩ := hk <;>
    dsimp only <;> simp only [hm, ho, if_true, if_false]

/-- The home's start of a request that no other copy stands in the way of. -/
theorem homeStart_finish {r : HomeReq} (hm : (((d.dirTouch line).dirCorrect line).dirOf line).st ≠ .m)
    (hk : r = .getS ∨ r = .rdnc ∨ ((r = .getM ∨ ∃ x, r = .full x) ∧ (((d.dirTouch line).dirCorrect line).dirOf line).holders &&& ~~~agentBit a = 0#22) ∨
      (((∃ x, r = .atom x) ∨ ∃ m x, r = .wrnc m x) ∧ (((d.dirTouch line).dirCorrect line).dirOf line).holders = 0#22)) :
    d.homeStart line a r = ((d.dirTouch line).dirCorrect line).homeFinish line a r := by
  unfold Dev.homeStart
  rw [hf.answers]
  dsimp only
  rw [if_neg (by rw [hf.built]; decide)]
  obtain rfl | rfl | ⟨rfl | ⟨x, rfl⟩, ho⟩ | ⟨⟨x, rfl⟩ | ⟨m, x, rfl⟩, ho⟩ := hk <;> dsimp only
  · rw [if_neg hm]
  · rw [if_neg hm]
  · rw [if_neg hm, if_pos ho]
  · rw [if_neg hm, if_pos ho]
  · rw [if_neg hm, if_pos ho]
  · rw [if_neg hm, if_pos ho]

end

/-! ### What the home's answer leaves -/

section
variable (d : Dev) (line a : Nat)

theorem getLsbD_agentBit {a : Nat} (ha : a < 22) (h : BitVec 22) : (h ||| agentBit a).getLsbD a = true := by
  unfold agentBit
  rw [BitVec.getLsbD_or, BitVec.getLsbD_shiftLeft]
  simp [ha]

theorem finish_getS (ha : a < 22) : ((d.homeFinish line a .getS).dirOf line).st = .s ∧ ((d.homeFinish line a .getS).dirOf line).holders.getLsbD a = true ∧
    ((d.homeFinish line a .getS).inFlight .data a line).isSome = true := by
  unfold Dev.homeFinish
  dsimp only
  rw [dirOf_send, dirOf_setDir]
  exact ⟨rfl, getLsbD_agentBit ha _, inFlight_send ..⟩

theorem finish_getM : (d.homeFinish line a .getM).dirOf line = ⟨.m, agentBit a⟩ ∧ ((d.homeFinish line a .getM).inFlight .grantDone a line).isSome = true := by
  unfold Dev.homeFinish
  dsimp only
  rw [dirOf_send, dirOf_setDir]
  exact ⟨rfl, inFlight_send ..⟩

theorem finish_full (data : List Byte) :
    (d.homeFinish line a (.full data)).dirOf line = ⟨.m, agentBit a⟩ ∧ ((d.homeFinish line a (.full data)).inFlight .grantDone a line).isSome = true := by
  unfold Dev.homeFinish
  dsimp only
  rw [dirOf_send, dirOf_setDir]
  exact ⟨rfl, inFlight_send ..⟩

theorem finish_rdnc : ((d.homeFinish line a .rdnc).inFlight .data a line).isSome = true := inFlight_send ..
theorem finish_atom (op : AtomOp) : ((d.homeFinish line a (.atom op)).inFlight .data a line).isSome = true := inFlight_send ..

theorem finish_wrnc (mask : BitVec 64) (data : List Byte) : (d.homeFinish line a (.wrnc mask data)).dirOf line = DirEntry.idle := by
  unfold Dev.homeFinish
  rw [dirOf_noteFar, dirOf_setDir]

end

/-- A recall is in flight to the owner, and the home waits for it. -/
theorem homeRecall_waits (d : Dev) (line a o : Nat) (r : HomeReq) (k : CohKind) :
    ((d.homeRecall line a o r k).inFlight k o line).isSome = true ∧ (d.homeRecall line a o r k).txnOf line = some ⟨a, r, some o, 0#22, false, true, []⟩ := by
  unfold Dev.homeRecall
  rw [inFlight_setTxn, txnOf_setTxn, if_pos rfl]
  exact ⟨inFlight_send .., rfl⟩

/-! ### The commands -/

section
variable {s : State} {a : AgentId} {line : Nat} (h : s.dev.Asks a.val)
include h

theorem leaves_guest {c : Instr} {r : HomeReq} (he : exec c s = .next (s.withDev (s.dev.homeRequest line a.val r))) (hg : a.val = 18 ∨ a.val = 19) :
    Leaves c s { s.dev with out := s.dev.out ++ [.refused a.val line .dead] } :=
  leaves_of_eq (he.trans (by rw [homeRequest_guest h hg]))

variable (hf : s.dev.HomeFree a.val line)
include hf

/-- A request that its home takes up: the directory, the packets and the work on the line are as its start leaves them. -/
theorem completes_home {c : Instr} {r : HomeReq} {e : Dev} (he : exec c s = .next (s.withDev (s.dev.homeRequest line a.val r)))
    (hs : s.dev.homeStart line a.val r = e) :
    Completes c s fun t => t.dirOf line = e.dirOf line ∧ (∀ k b, t.inFlight k b line = e.inFlight k b line) ∧ t.txnOf line = e.txnOf line := by
  subst hs
  rw [homeRequest_free h hf] at he
  exact completes_of_eq he ⟨dirOf_homeServe_one .., fun _ _ => inFlight_homeServe_one .., txnOf_homeServe_one ..⟩

/-- A request for a line that another agent owns. -/
theorem completes_recall {c : Instr} {r : HomeReq} {k : CohKind} {o : Nat} (he : exec c s = .next (s.withDev (s.dev.homeRequest line a.val r)))
    (hm : (((s.dev.dirTouch line).dirCorrect line).dirOf line).st = .m)
    (ho : (((s.dev.dirTouch line).dirCorrect line).dirOf line).holders ≠ agentBit a.val)
    (hw : (((s.dev.dirTouch line).dirCorrect line).dirOf line).owner = o)
    (hk : (r = .getS ∧ k = .recallS) ∨ (r = .getM ∧ k = .recallI) ∨ ((∃ x, r = .full x) ∧ k = .recallD) ∨ (r = .rdnc ∧ k = .recallS) ∨
      ((∃ x, r = .atom x) ∧ k = .recallI) ∨ ((∃ m x, r = .wrnc m x) ∧ k = .recallI)) :
    Completes c s fun t => (t.inFlight k o line).isSome = true ∧ t.txnOf line = some ⟨a.val, r, some o, 0#22, false, true, []⟩ := by
  subst hw
  refine (completes_home h hf he (homeStart_recall hf hm ho hk)).imp fun t ⟨_, hi, ht⟩ => ?_
  rw [hi, ht]
  exact homeRecall_waits ..

section
variable (hm : (((s.dev.dirTouch line).dirCorrect line).dirOf line).st ≠ .m)
include hm

theorem completes_gets : Completes (.gets a line) s fun t =>
    (t.dirOf line).st = .s ∧ (t.dirOf line).holders.getLsbD a.val = true ∧ (t.inFlight .data a.val line).isSome = true := by
  refine (completes_home h hf rfl (homeStart_finish hf hm (.inl rfl))).imp fun t ⟨hd, hi, _⟩ => ?_
  rw [hd, hi]
  exact finish_getS _ _ _ a.isLt

theorem completes_rdnc : Completes (.rdnc a line) s fun t => (t.inFlight .data a.val line).isSome = true := by
  refine (completes_home h hf rfl (homeStart_finish hf hm (.inr (.inl rfl)))).imp fun t ⟨_, hi, _⟩ => ?_
  rw [hi]
  exact finish_rdnc ..

section
variable (ho : (((s.dev.dirTouch line).dirCorrect line).dirOf line).holders &&& ~~~agentBit a.val = 0#22)
include ho

theorem completes_getm : Completes (.getm a line) s fun t => t.dirOf line = ⟨.m, agentBit a.val⟩ ∧ (t.inFlight .grantDone a.val line).isSome = true := by
  refine (completes_home h hf rfl (homeStart_finish hf hm (.inr (.inr (.inl ⟨.inl rfl, ho⟩))))).imp fun t ⟨hd, hi, _⟩ => ?_
  rw [hd, hi]
  exact finish_getM ..

theorem completes_wfull (data : List (BitVec 8)) :
    Completes (.wfull a line data) s fun t => t.dirOf line = ⟨.m, agentBit a.val⟩ ∧ (t.inFlight .grantDone a.val line).isSome = true := by
  refine (completes_home h hf rfl (homeStart_finish hf hm (.inr (.inr (.inl ⟨.inr ⟨data, rfl⟩, ho⟩))))).imp fun t ⟨hd, hi, _⟩ => ?_
  rw [hd, hi]
  exact finish_full ..

end

section
variable (ho : (((s.dev.dirTouch line).dirCorrect line).dirOf line).holders = 0#22)
include ho

theorem completes_atom (op : AtomOp) : Completes (.atom a line op) s fun t => (t.inFlight .data a.val line).isSome = true := by
  refine (completes_home h hf rfl (homeStart_finish hf hm (.inr (.inr (.inr ⟨.inl ⟨op, rfl⟩, ho⟩))))).imp fun t ⟨_, hi, _⟩ => ?_
  rw [hi]
  exact finish_atom ..

theorem completes_wrnc (mask : BitVec 64) (data : List (BitVec 8)) : Completes (.wrnc a line mask data) s fun t => t.dirOf line = DirEntry.idle := by
  refine (completes_home h hf rfl (homeStart_finish hf hm (.inr (.inr (.inr ⟨.inr ⟨mask, data, rfl⟩, ho⟩))))).imp fun t ⟨hd, _, _⟩ => ?_
  rw [hd]
  exact finish_wrnc ..

end
end
end

/-- Settles O33: a guest's request, a request that the home finishes, and one for which it recalls the line. -/
theorem homeRequestsComplete : Obligations.HomeRequestsComplete := by
  intro a line o data mask op s
  dsimp only
  intro h1 h2 h3
  have h : s.dev.Asks a.val := ⟨h1, h2, h3⟩
  refine ⟨fun hg => ⟨leaves_guest h rfl hg, leaves_guest h rfl hg, leaves_guest h rfl hg, leaves_guest h rfl hg, leaves_guest h rfl hg, leaves_guest h rfl hg⟩,
    fun h18 h19 hp hq hi ha hb => ?_⟩
  have hf : s.dev.HomeFree a.val line := ⟨⟨h18, h19⟩, hp, hq, hi, ha, hb⟩
  refine ⟨fun hm => ⟨completes_gets h hf hm, completes_rdnc h hf hm, fun ho => ⟨completes_getm h hf hm ho, completes_wfull h hf hm ho data⟩,
    fun ho => ⟨completes_atom h hf hm ho op, completes_wrnc h hf hm ho mask data⟩⟩, fun hm ho hw => ?_⟩
  exact ⟨completes_recall h hf rfl hm ho hw (.inl ⟨rfl, rfl⟩), completes_recall h hf rfl hm ho hw (.inr (.inl ⟨rfl, rfl⟩)),
    completes_recall h hf rfl hm ho hw (.inr (.inr (.inl ⟨⟨data, rfl⟩, rfl⟩))), completes_recall h hf rfl hm ho hw (.inr (.inr (.inr (.inl ⟨rfl, rfl⟩)))),
    completes_recall h hf rfl hm ho hw (.inr (.inr (.inr (.inr (.inl ⟨⟨op, rfl⟩, rfl⟩))))),
    completes_recall h hf rfl hm ho hw (.inr (.inr (.inr (.inr (.inr ⟨⟨mask, data, rfl⟩, rfl⟩)))))⟩

end Sys2Proof.Machine
end

section
/-! PROOFS. Power requests and the steps of entering and leaving a power state (17 R526 to R534, 12 R386 to R388). -/
namespace Sys2Proof.Machine

section
variable {s : State}

/-! ### Results, exits and entries of a domain -/

theorem pwrResult_dom (d : Dev) (q : Option Nat) (st : Status) (code pending : Nat) : (d.pwrResult q st code pending).dom = d.dom := by
  unfold Dev.pwrResult
  split
  · rfl
  · rw [setRegF_dom, setRegF_dom, setRegF_dom]

/-- A domain that runs again. -/
def Domain.running (x : Domain) : Domain := { x with st := .run, transit := false }

/-- A domain whose exit has begun. -/
def Domain.leaving (x : Domain) (now : Nat) : Domain := { x with transit := true, target := .run, since := now, wake := false }

theorem domOf_startExit (d : Dev) (k : Nat) : (d.startExit k).domOf k = (d.domOf k).leaving d.now := by
  have hs : (d.setDom k ((d.domOf k).leaving d.now)).domOf k = (d.domOf k).leaving d.now := by rw [domOf_setDom, if_pos rfl]
  unfold Dev.startExit
  dsimp only
  split
  · exact hs
  · split
    · rw [domOf_congr (setRegF_dom ..), domOf_congr (setPort_dom ..)]
      exact hs
    · rw [domOf_congr (setPort_dom ..)]
      exact hs

/-! ### Requests of an LCN -/

section
variable {c : Instr} {l : Fin 384} {kind index k target : Nat} {t : DomState}
  (he : exec c s = .next (s.withDev (s.dev.pwrReq (.core l.val) kind index target).1))
  (ha : s.dev.pwrAdmit (.core l.val) kind index target = .admitted k t)
include he ha

theorem completes_pwrReq_run (ht : t = .run) : Completes c s fun u =>
    (u.domOf k).transit = true ∧ (u.domOf k).target = .run ∧ (u.domOf k).st = (s.dev.domOf k).st := by
  have hr : (s.dev.pwrReq (.core l.val) kind index target).1 = (s.dev.startExit k).pwrResult (some l.val) .ok 0 (s.dev.selfHeld l.val) := by
    unfold Dev.pwrReq
    simp only [ha, ht, if_true]
    rfl
  rw [hr] at he
  refine completes_of_eq he ?_
  rw [domOf_congr (pwrResult_dom ..), domOf_startExit]
  exact ⟨rfl, rfl, rfl⟩

theorem leaves_pwrReq_entry (ht : t ≠ .run) (hk : l.val ≠ k) :
    Leaves c s ((s.dev.startEntry k t (some l.val)).pwrResult (some l.val) .ok 0 (s.dev.selfHeld l.val)) := by
  have hk' : PwrFrom.core l.val ≠ .core k := fun h => hk (PwrFrom.core.inj h)
  refine leaves_of_eq (he.trans ?_)
  unfold Dev.pwrReq
  simp only [ha, ht, hk', if_false]
  rfl

theorem completes_pwrReq_self (ht : t ≠ .run) (hk : l.val = k) :
    Completes c s fun u => mget none u.pwr.selfReq k = some t ∧ u.domOf k = s.dev.domOf k := by
  subst hk
  have hr : (s.dev.pwrReq (.core l.val) kind index target).1 =
      { s.dev with pwr := { s.dev.pwr with selfReq := mset none s.dev.pwr.selfReq l.val (some t) } }.pwrResult (some l.val) .ok 0 1 := by
    unfold Dev.pwrReq
    simp only [ha, ht, if_true, if_false]
  rw [hr] at he
  refine completes_of_eq he ⟨?_, ?_⟩
  · rw [pwrResult_pwr, mget_mset, if_pos rfl]
  · exact domOf_congr (pwrResult_dom ..) _

end

/-! ### Sleep -/

/-- The device in which a spindle's island sleeps. -/
def Dev.asleep (d : Dev) (l : Nat) : Dev := (d.l1dFlush (d.spindle l)).setDom l { d.domOf l with st := .sleep, transit := false, wake := false }

theorem domOf_asleep (d : Dev) (l : Nat) : (d.asleep l).domOf l = { d.domOf l with st := .sleep, transit := false, wake := false } := by
  unfold Dev.asleep
  rw [domOf_setDom, if_pos rfl]

theorem completes_sleepEntryDone {l : Fin 384} (ht : ((s.dev.drain l.val).domOf l.val).transit = true) (hr : ((s.dev.drain l.val).domOf l.val).st = .run)
    (hs : ((s.dev.drain l.val).domOf l.val).target = .sleep) (hp : ((s.dev.drain l.val).core l.val).allPerformed = true) :
    Completes (.sleepEntryDone l) s fun u => (u.domOf l.val).st = .sleep ∧ (u.domOf l.val).transit = ((s.dev.drain l.val).domOf l.val).wake ∧
      (((s.dev.drain l.val).domOf l.val).wake = true → (u.domOf l.val).target = .run) := by
  have he : exec (.sleepEntryDone l) s = .next (s.withDev (if ((s.dev.drain l.val).domOf l.val).wake = true then (s.dev.drain l.val).asleep l.val |>.startExit l.val
      else (s.dev.drain l.val).asleep l.val)) := by
    show execSleepEntryDone l s = _
    unfold execSleepEntryDone onDev
    dsimp only
    rw [if_pos ⟨ht, hr, hs, hp⟩]
    rfl
  refine completes_of_eq he ?_
  split
  · next hw =>
    rw [domOf_startExit, domOf_asleep, hw]
    exact ⟨rfl, rfl, fun _ => rfl⟩
  · next hw =>
    rw [domOf_asleep, Bool.eq_false_iff.2 hw]
    exact ⟨rfl, rfl, fun h => by cases h⟩

theorem completes_sleepExitDone {l : Fin 384} (ht : (s.dev.domOf l.val).transit = true) (hs : (s.dev.domOf l.val).st = .sleep)
    (hr : (s.dev.domOf l.val).target = .run) :
    Completes (.sleepExitDone l) s fun u => (u.domOf l.val).st = .run ∧ (u.domOf l.val).transit = false := by
  have he : exec (.sleepExitDone l) s = .next (s.withDev (s.dev.setDom l.val (s.dev.domOf l.val).running)) := by
    show execSleepExitDone l s = _
    unfold execSleepExitDone onDev
    dsimp only
    rw [if_pos ⟨ht, hs, hr⟩]
    rfl
  refine completes_of_eq he ?_
  rw [domOf_setDom, if_pos rfl]
  exact ⟨rfl, rfl⟩

/-! ### Fences -/

section
variable {dom : Fin 409}

/-- The device in which a core's port is fenced and its caches are flushed. -/
def Dev.fencedAt (d : Dev) (k : Nat) : Dev := (d.spindleFlush (d.spindle k)).setPort k { d.port k with st := .fenced }

theorem completes_fenceAck_core (hk : dom.val < 384) (hf : ((s.dev.tryFence dom.val).port dom.val).st = .fencing)
    (hs : (((s.dev.tryFence dom.val).drain dom.val).core dom.val).settled = true) :
    Completes (.fenceAck dom) s fun u => (u.port dom.val).st = .fenced := by
  have he : exec (.fenceAck dom) s = .next (s.withDev (((s.dev.tryFence dom.val).drain dom.val).fencedAt dom.val)) := by
    show execFenceAck dom s = _
    unfold execFenceAck onDev
    simp only [hk, hf, hs, if_true, ne_eq, not_true_eq_false, if_false]
    rfl
  refine completes_of_eq he ?_
  unfold Dev.fencedAt
  rw [port_setPort, if_pos rfl]

theorem completes_fenceAck_hub (hk : 384 ≤ dom.val) (hf : (s.dev.port dom.val).st = .fencing) (hb : 400 ≤ dom.val → s.dev.bundleBusy (dom.val - 400) = false) :
    Completes (.fenceAck dom) s fun u => (u.port dom.val).st = .fenced ∧ (u.port dom.val).held = (s.dev.port dom.val).held := by
  have hk' : ¬ dom.val < 384 := Nat.not_lt.2 hk
  have hb' : ¬ (400 ≤ dom.val ∧ s.dev.bundleBusy (dom.val - 400) = true) := fun h => by
    rw [hb h.1] at h
    exact absurd h.2 (by decide)
  have he : exec (.fenceAck dom) s = .next (s.withDev (s.dev.setPort dom.val { s.dev.port dom.val with st := .fenced })) := by
    show execFenceAck dom s = _
    unfold execFenceAck onDev
    simp only [hk', hf, hb', ne_eq, not_true_eq_false, if_false]
  refine completes_of_eq he ?_
  rw [port_setPort, if_pos rfl]
  exact ⟨rfl, rfl⟩

theorem leaves_fenceLimitExpire (hf : (s.dev.port dom.val).st = .fencing) : Leaves (.fenceLimitExpire dom) s
    ((s.dev.timeTo ((s.dev.domOf dom.val).since + s.dev.regF (if dom.val < 384 then Reg.MESH_FENCE_CFG (s.dev.spindle dom.val / 28)
      else Reg.MESH_HUB_FENCE_CFG) 31 16 * 1000)).abortEntry dom.val .timeout 8) := by
  apply leaves_of_eq
  show execFenceLimitExpire dom s = _
  unfold execFenceLimitExpire onDev
  simp only [hf, ne_eq, not_true_eq_false, if_false]

theorem leaves_fenceHoldExpire (ho : (s.dev.port dom.val).st ≠ .opened) (hf : (s.dev.port dom.val).st ≠ .off) {t : Nat} {h : HeldReq} {rest : List (Nat × HeldReq)}
    (hh : (s.dev.port dom.val).held = (t, h) :: rest) : Leaves (.fenceHoldExpire dom) s
    (((s.dev.timeTo (t + s.dev.regF (if dom.val < 384 then Reg.MESH_FENCE_CFG (s.dev.spindle dom.val / 28) else Reg.MESH_HUB_FENCE_CFG) 15 0 * 1000)).setPort
      dom.val { s.dev.port dom.val with held := rest }).holdFail dom.val h) := by
  apply leaves_of_eq
  show execFenceHoldExpire dom s = _
  unfold execFenceHoldExpire onDev
  simp only [ho, hf, or_self, if_false, hh]

/-! ### Power removed -/

/-- A domain that has reached the state it was entering. -/
def Domain.reached (x : Domain) : Domain := { x with st := x.target, transit := false }

/-- The device whose channel or bundle has no power. -/
def Dev.unpoweredAt (d : Dev) (k : Nat) : Dev :=
  if k < 400 then ((d.failHeld k).setPort k ⟨.off, []⟩).channelDown (k - 384) else ((d.failHeld k).setPort k ⟨.off, []⟩).bundleDown (k - 400)

section
variable (ht : (s.dev.domOf dom.val).transit = true) (hf : (s.dev.port dom.val).st = .fenced) (hr : (s.dev.domOf dom.val).st = .run)
include ht hf hr

theorem completes_domainPowerRemove_retain (hk : dom.val < 384) (hx : (s.dev.domOf dom.val).target = .retain) :
    Completes (.domainPowerRemove dom) s fun u => (u.domOf dom.val).st = .retain ∧ (u.domOf dom.val).transit = false ∧ (u.port dom.val).st = .fenced := by
  have he : exec (.domainPowerRemove dom) s = .next (s.withDev (s.dev.setDom dom.val (s.dev.domOf dom.val).reached)) := by
    show execDomainPowerRemove dom s = _
    unfold execDomainPowerRemove onDev
    simp only [ht, hf, hr, hk, hx, beq_self_eq_true, Bool.and_self, Bool.not_true, Bool.false_eq_true, if_true, if_false]
    unfold Domain.reached
    rw [hx]
  refine completes_of_eq he ?_
  rw [domOf_setDom, if_pos rfl, port_congr (setDom_ports ..)]
  exact ⟨hx, rfl, hf⟩

theorem completes_domainPowerRemove_hub (hk : 384 ≤ dom.val) : Completes (.domainPowerRemove dom) s fun u =>
    (u.domOf dom.val).st = (s.dev.domOf dom.val).target ∧ (u.domOf dom.val).transit = false := by
  have he : exec (.domainPowerRemove dom) s = .next (s.withDev ((s.dev.unpoweredAt dom.val).setDom dom.val (s.dev.domOf dom.val).reached)) := by
    show execDomainPowerRemove dom s = _
    unfold execDomainPowerRemove onDev
    simp only [ht, hf, hr, Nat.not_lt.2 hk, beq_self_eq_true, Bool.and_self, Bool.not_true, Bool.false_eq_true, if_false]
    rfl
  refine completes_of_eq he ?_
  rw [domOf_setDom, if_pos rfl]
  exact ⟨rfl, rfl⟩

end

/-! ### Wakes -/

theorem completes_wakeEvent (hk : dom.val < 384) (hs : s.dev.safe = false) (ht : (s.dev.domOf dom.val).transit = false)
    (hp : (mget none s.dev.spindleOf dom.val).isSome = true) (hr : (s.dev.core dom.val).released = true)
    (hw : s.dev.wakeHolds dom.val (s.dev.domOf dom.val).st = true) : Completes (.wakeEvent dom) s fun u =>
      (u.domOf dom.val).transit = true ∧ (u.domOf dom.val).target = .run ∧ (u.domOf dom.val).st = (s.dev.domOf dom.val).st := by
  have he : exec (.wakeEvent dom) s = .next (s.withDev (s.dev.startExit dom.val)) := by
    show execWakeEvent dom s = _
    unfold execWakeEvent onDev
    simp only [Nat.not_le.2 hk, hs, ht, hp, hr, hw, Bool.false_eq_true, or_self, if_false, Bool.and_self, if_true]
  refine completes_of_eq he ?_
  rw [domOf_startExit]
  exact ⟨rfl, rfl, rfl⟩

/-- The domain runs and its port is open once nothing is held at the port or waits at the homes. -/
theorem runs_openPort {d : Dev} {k : Nat} {x : Domain} (hd : d.domOf k = x.running) (hh : (d.port k).held = []) (hw : d.links.waitHome = []) :
    ((d.openPort k).domOf k).st = .run ∧ ((d.openPort k).domOf k).transit = false ∧ ((d.openPort k).port k).st = .opened := by
  rw [openPort_of_free hh hw, domOf_congr (setPort_dom ..), port_setPort, if_pos rfl, hd]
  exact ⟨rfl, rfl, rfl⟩

section
variable (ht : (s.dev.domOf dom.val).transit = true) (hp : (s.dev.port dom.val).st = .waking)
include ht hp

theorem completes_wakeReady {lost : ReelLoss} (hh : (s.dev.port dom.val).held = []) (hw : s.dev.links.waitHome = [])
    (hx : dom.val < 384 → (s.dev.domOf dom.val).st ≠ .off) (ho : 384 ≤ dom.val → dom.val < 400 → (mget DramCh.reset s.dev.dram (dom.val - 384)).off = [])
    (hk : dom.val < 400) : Completes (.wakeReady dom lost) s fun u =>
      (u.domOf dom.val).st = .run ∧ (u.domOf dom.val).transit = false ∧ (u.port dom.val).st = .opened := by
  have hset : (s.dev.setDom dom.val (s.dev.domOf dom.val).running).domOf dom.val = (s.dev.domOf dom.val).running := by rw [domOf_setDom, if_pos rfl]
  by_cases h : dom.val < 384
  · have he : exec (.wakeReady dom lost) s = .next (s.withDev ((s.dev.setDom dom.val (s.dev.domOf dom.val).running).openPort dom.val)) := by
      show execWakeReady dom lost s = _
      unfold execWakeReady onDev
      simp only [ht, hp, h, hx h, beq_self_eq_true, Bool.and_self, Bool.not_true, Bool.false_eq_true, if_true, if_false]
      rfl
    refine completes_of_eq he (runs_openPort hset ?_ ?_)
    · rw [port_congr (setDom_ports ..), hh]
    · rw [setDom_links, hw]
  · have he : exec (.wakeReady dom lost) s =
        .next (s.withDev (((s.dev.setDom dom.val (s.dev.domOf dom.val).running).setRegF (Reg.MC_STATUS (dom.val - 384)) 2 0 2).openPort dom.val)) := by
      show execWakeReady dom lost s = _
      unfold execWakeReady onDev
      simp only [ht, hp, h, hk, ho (Nat.not_lt.1 h) hk, beq_self_eq_true, Bool.and_self, Bool.not_true, Bool.false_eq_true, if_true, if_false]
      rfl
    refine completes_of_eq he (runs_openPort ((domOf_congr (setRegF_dom ..) _).trans hset) ?_ ?_)
    · rw [port_congr (setRegF_ports ..), port_congr (setDom_ports ..), hh]
    · rw [setRegF_links, setDom_links, hw]

theorem leaves_wakeReady_off {lost : ReelLoss} (hk : dom.val < 384) (hx : (s.dev.domOf dom.val).st = .off) : Leaves (.wakeReady dom lost) s
    (((s.dev.setDom dom.val { s.dev.domOf dom.val with st := .run, transit := false }).applyLoss dom.val (s.dev.spindle dom.val) lost).openPort dom.val) := by
  apply leaves_of_eq
  show execWakeReady dom lost s = _
  unfold execWakeReady onDev
  simp only [ht, hp, hk, hx, beq_self_eq_true, Bool.and_self, Bool.not_true, Bool.false_eq_true, if_true, if_false]
  rfl

end
end

theorem completes_lpExitFillDone {mc : Fin 16} (ht : (s.dev.domOf (384 + mc.val)).transit = true) (hp : (s.dev.port (384 + mc.val)).st = .waking)
    (hh : (s.dev.port (384 + mc.val)).held = []) (hw : s.dev.links.waitHome = []) (ho : (mget DramCh.reset s.dev.dram mc.val).off ≠ []) :
    Completes (.lpExitFillDone mc) s fun u =>
      (u.domOf (384 + mc.val)).st = .run ∧ (u.domOf (384 + mc.val)).transit = false ∧ (u.port (384 + mc.val)).st = .opened := by
  have he : exec (.lpExitFillDone mc) s = .next (s.withDev
      ((((s.dev.fillOff mc.val).setDom (384 + mc.val) (s.dev.domOf (384 + mc.val)).running).setRegF (Reg.MC_STATUS mc.val) 2 0 2).openPort (384 + mc.val))) := by
    show execLpExitFillDone mc s = _
    unfold execLpExitFillDone onDev
    have ho' : ((mget DramCh.reset s.dev.dram mc.val).off != []) = true := bne_iff_ne.2 ho
    simp only [ht, hp, ho', beq_self_eq_true, Bool.and_self, if_true]
    rfl
  obtain ⟨h1, _, h3⟩ := keepsPorts_fillOff s.dev mc.val
  refine completes_of_eq he (runs_openPort (x := s.dev.domOf (384 + mc.val)) ?_ ?_ ?_)
  · rw [domOf_congr (setRegF_dom ..), domOf_setDom, if_pos rfl]
  · rw [port_congr (setRegF_ports ..), port_congr (setDom_ports ..), port_congr h1, hh]
  · rw [setRegF_links, setDom_links, h3, hw]

/-! ### Entries saved and entries that take too long -/

section
variable {l : Fin 384}

theorem completes_keepArraySaveDone (ht : (s.dev.domOf l.val).transit = true) (hf : (s.dev.port l.val).st = .fenced) (hr : (s.dev.domOf l.val).st = .run)
    (hx : (s.dev.domOf l.val).target = .off) : Completes (.keepArraySaveDone l) s fun u => (u.domOf l.val).st = .off ∧ (u.domOf l.val).transit = false := by
  have he : exec (.keepArraySaveDone l) s = .next (s.withDev ((((s.dev.failHeld l.val).setPort l.val ⟨.off, []⟩).updCore l.val Core.unpowered).setDom l.val
      { s.dev.domOf l.val with st := .off, transit := false })) := by
    show execKeepArraySaveDone l s = _
    unfold execKeepArraySaveDone onDev
    simp only [ht, hf, hr, hx, beq_self_eq_true, Bool.and_self, if_true]
  refine completes_of_eq he ?_
  rw [domOf_setDom, if_pos rfl]
  exact ⟨rfl, rfl⟩

section
variable (ht : (s.dev.domOf l.val).transit = true) (hr : (s.dev.domOf l.val).st = .run)
  (hp : (s.dev.port l.val).st = .opened ∨ (s.dev.port l.val).st = .fencing)
include ht hr hp

theorem entry_under_way : ¬ ((!((s.dev.domOf l.val).transit && (s.dev.domOf l.val).st == .run &&
    ((s.dev.port l.val).st == .opened || (s.dev.port l.val).st == .fencing))) = true) := by
  rw [ht, hr]
  obtain h | h := hp <;> rw [h] <;> decide

theorem leaves_powerEntryTimeout_buffer (hb : ((s.dev.drain l.val).core l.val).sb ≠ []) :
    Leaves (.powerEntryTimeout l) s (((s.dev.drain l.val).timeTo ((s.dev.domOf l.val).since + 10000)).abortEntry l.val .busy 2) := by
  apply leaves_of_eq
  show execPowerEntryTimeout l s = _
  unfold execPowerEntryTimeout onDev
  dsimp only
  rw [if_neg (entry_under_way ht hr hp), if_pos hb]

theorem leaves_powerEntryTimeout_pending (hb : ((s.dev.drain l.val).core l.val).sb = []) (hn : ((s.dev.drain l.val).core l.val).pendSt ≠ []) :
    Leaves (.powerEntryTimeout l) s (((s.dev.drain l.val).timeTo ((s.dev.domOf l.val).since + 10000)).abortEntry l.val .busy 3) := by
  apply leaves_of_eq
  show execPowerEntryTimeout l s = _
  unfold execPowerEntryTimeout onDev
  dsimp only
  rw [if_neg (entry_under_way ht hr hp), if_neg (not_not.2 hb), if_pos (.inl hn)]

end
end
end

/-- Settles O31: a request by the state it asks for, then each step of an entry and an exit. -/
theorem powerRequestsAndDomainSteps : Obligations.PowerRequestsAndDomainSteps := by
  refine ⟨fun l index k tgt t s => ?_, fun l dom mc lost s => ?_⟩
  · have hx {c : Instr} {kind : Nat} (he : exec c s = .next (s.withDev (s.dev.pwrReq (.core l.val) kind index tgt.toNat).1))
        (ha : s.dev.pwrAdmit (.core l.val) kind index tgt.toNat = .admitted k t) :=
      And.intro (completes_pwrReq_run he ha) (And.intro (leaves_pwrReq_entry he ha) (completes_pwrReq_self he ha))
    exact ⟨hx rfl, hx rfl, hx rfl⟩
  · dsimp only
    exact ⟨completes_sleepEntryDone, completes_sleepExitDone, completes_fenceAck_core, completes_fenceAck_hub, leaves_fenceLimitExpire,
      fun ho hf t h rest hh => leaves_fenceHoldExpire ho hf hh,
      fun ht hf hr => ⟨completes_domainPowerRemove_retain ht hf hr, completes_domainPowerRemove_hub ht hf hr⟩, completes_keepArraySaveDone,
      fun ht hr hp => ⟨leaves_powerEntryTimeout_buffer ht hr hp, leaves_powerEntryTimeout_pending ht hr hp⟩, completes_wakeEvent,
      fun ht hp hh hw hx ho hk => completes_wakeReady ht hp hh hw hx ho hk, fun ht hp hk hx => leaves_wakeReady_off ht hp hk hx, completes_lpExitFillDone⟩

end Sys2Proof.Machine
end

section
/-! PROOFS. Coherence packets: what an agent answers and what the home makes of the answers (11 R353 to R357). -/
namespace Sys2Proof.Machine

/-! ### Packets -/

section
variable {d : Dev} {k : CohKind} {a line : Nat} {m : CohMsg}

/-- A packet that is in flight is the one of its kind, agent and line. -/
theorem inFlight_names (h : d.inFlight k a line = some m) : m.kind = k ∧ m.agent = a ∧ m.line = line := by
  have hm := List.find?_some h
  simp only [Bool.and_eq_true, beq_iff_eq] at hm
  obtain ⟨⟨hk, ha⟩, hl⟩ := hm
  exact ⟨hk, ha, hl⟩

theorem onMsg_comes {f : Dev → CohMsg → Dev} (h : d.inFlight k a line = some m) (ht : d.canTravel m = true) : d.onMsg k a line f = f (d.arrived m) m := by
  unfold Dev.onMsg
  rw [h]
  exact if_pos ht

/-- A packet that comes, as a command brings it. -/
theorem leaves_comes {c : Instr} {s : State} {f : Dev → CohMsg → Dev} (he : exec c s = .next (s.withDev (s.dev.onMsg k a line f)))
    (h : s.dev.inFlight k a line = some m ∧ s.dev.canTravel m = true) : Leaves c s (f (s.dev.arrived m) m) :=
  leaves_of_eq (he.trans (by rw [onMsg_comes h.1 h.2]))

theorem completes_comes {c : Instr} {s : State} {f : Dev → CohMsg → Dev} {p : Dev → Prop} (he : exec c s = .next (s.withDev (s.dev.onMsg k a line f)))
    (h : s.dev.inFlight k a line = some m ∧ s.dev.canTravel m = true) (hp : p (f (s.dev.arrived m) m)) : Completes c s p := by
  rw [← onMsg_comes (f := f) h.1 h.2] at hp
  exact completes_of_eq he hp

end

theorem ownedBy_iff {d : Dev} {a line : Nat} : d.ownedBy a line = true ↔ (d.dirOf line).st = .m ∧ (d.dirOf line).holders = agentBit a := by
  simp [Dev.ownedBy]

/-- An agent acknowledges an invalidation, whether its port is isolated or not. -/
theorem inFlight_takeInv (d : Dev) (a line : Nat) : ((d.takeInv a line).inFlight .ack a line).isSome = true := by
  unfold Dev.takeInv
  split
  · exact inFlight_send ..
  · exact inFlight_send ..

/-! ### What of a line's directory the home cache leaves -/

/-- `e` has the directory of `d`. -/
structure Dev.SameDir (d e : Dev) : Prop where
  dir : e.coh.dir = d.coh.dir
  dirNew : e.coh.dirNew = d.coh.dirNew
  inRanks : ∀ rs n, e.inRanks rs n = d.inRanks rs n
  never : e.coh.never = d.coh.never

theorem Dev.SameDir.trans {d e f : Dev} (h : d.SameDir e) (h' : e.SameDir f) : d.SameDir f :=
  ⟨h'.dir.trans h.dir, h'.dirNew.trans h.dirNew, fun rs n => (h'.inRanks rs n).trans (h.inRanks rs n), h'.never.trans h.never⟩

theorem Dev.SameDir.refl (d : Dev) : d.SameDir d := ⟨rfl, rfl, fun _ _ => rfl, rfl⟩

theorem Dev.SameDir.dirOf_eq {d e : Dev} (h : d.SameDir e) (n : Nat) : e.dirOf n = d.dirOf n := by
  unfold Dev.dirOf Dev.dirBack Dev.dirDefault
  rw [h.dir, h.dirNew, h.never, h.inRanks]

/-- Another home cache and its sets. -/
theorem sameDir_hc (d : Dev) (hc : List (Nat × Option HcLine)) (sets : List (Nat × CSet)) : d.SameDir { d with coh := { d.coh with hc := hc, hcsets := sets } } :=
  ⟨rfl, rfl, fun _ _ => rfl, rfl⟩

theorem sameDir_hubAddLine (d : Dev) (line k n : Nat) : d.SameDir (d.hubAddLine line k n) := by
  unfold Dev.hubAddLine
  split
  · exact ⟨rfl, rfl, fun _ _ => rfl, rfl⟩
  · exact .refl d

theorem sameDir_dramWriteback (d : Dev) (line : Nat) : d.SameDir (d.dramWriteback line) :=
  Dev.SameDir.trans (e := { d with mem := { d.mem with stale := merase d.mem.stale line } }) ⟨rfl, rfl, fun _ _ => rfl, rfl⟩ (sameDir_hubAddLine ..)

theorem sameDir_markStale (d : Dev) (line owner : Nat) (p : Option Nat) : d.SameDir (d.markStale line owner p) := by
  unfold Dev.markStale
  split <;> exact ⟨rfl, rfl, fun _ _ => rfl, rfl⟩

theorem sameDir_hcEvict (d : Dev) (line : Nat) : d.SameDir (d.hcEvict line) := by
  unfold Dev.hcEvict
  refine Dev.SameDir.trans ?_ (sameDir_hc ..)
  split
  · split
    · exact sameDir_dramWriteback ..
    · exact .refl d
  · exact .refl d

theorem sameDir_hcInstall (d : Dev) (line : Nat) (dirty : Bool) : d.SameDir (d.hcInstall line dirty) := by
  have hs : ∀ e : Dev, e.SameDir (if dirty then e.markStale line 22 none else e) := fun e => by
    split
    · exact sameDir_markStale ..
    · exact .refl e
  unfold Dev.hcInstall
  dsimp only
  split
  · exact (hs d).trans (sameDir_hc ..)
  · split
    · split
      · exact sameDir_dramWriteback ..
      · exact .refl d
    · refine Dev.SameDir.trans (Dev.SameDir.trans ?_ (hs _)) (sameDir_hc ..)
      split
      · exact sameDir_hcEvict ..
      · exact .refl d

theorem byte_hcInstall (d : Dev) (line : Nat) (dirty : Bool) (pa : Nat) : (d.hcInstall line dirty).byte pa = d.byte pa := by
  obtain ⟨_, _, _, h⟩ := cacheMoved_hcInstall d line dirty
  rw [h]
  rfl

theorem byte_ownerData (d : Dev) {a line : Nat} {data : List Byte} (ha : 16 ≤ a) (hl : data.length = 64) {i : Nat} (hi : i < 64) :
    (d.ownerData a line data).byte (line * 64 + i) = data.getD i 0#8 := by
  unfold Dev.ownerData
  rw [if_pos ⟨ha, hl⟩, byte_putBytes_cellsAt, dif_pos (by omega), List.getD_eq_getElem _ _ (by omega)]
  simp

/-! ### Lines that are given back -/

section
variable {d : Dev} {a line : Nat} (ht : (d.dirTouch line).txnOf line = none)
include ht

theorem dirOf_putSHome (hs : ((d.dirTouch line).dirOf line).st = .s) (hb : ((d.dirTouch line).dirOf line).holders.getLsbD a = true) :
    (d.putSHome a line).dirOf line = ((d.dirTouch line).dirOf line).putS a := by
  unfold Dev.putSHome
  dsimp only
  rw [ht]
  dsimp only
  rw [if_pos ⟨hs, hb⟩, dirOf_setDir]

theorem putMHome_owned (ho : (d.dirTouch line).ownedBy a line = true) (data : List Byte) :
    d.putMHome a line data = (((d.dirTouch line).ownerData a line data).setDir line DirEntry.idle).hcInstall line true := by
  obtain ⟨hm, hb⟩ := ownedBy_iff.1 ho
  unfold Dev.putMHome
  dsimp only
  rw [ht, if_neg (by simp [hm, hb])]

end

section
variable {a : AgentId} {line : Nat} {s : State}

theorem completes_puts (hi : s.dev.agentIsolated a.val = false) (hm : s.dev.agentState a.val line ≠ .m)
    (ht : ((s.dev.agentDrop a.val line).dirTouch line).txnOf line = none)
    (hs : (((s.dev.agentDrop a.val line).dirTouch line).dirOf line).st = .s)
    (hb : (((s.dev.agentDrop a.val line).dirTouch line).dirOf line).holders.getLsbD a.val = true) :
    Completes (.puts a line) s fun t => t.dirOf line = (((s.dev.agentDrop a.val line).dirTouch line).dirOf line).putS a.val := by
  have he : exec (.puts a line) s = .next (s.withDev ((s.dev.agentDrop a.val line).putSHome a.val line)) := by
    show execPuts a line s = _
    unfold execPuts onDev
    dsimp only
    rw [if_neg (by simp [hi, hm])]
  exact completes_of_eq he (dirOf_putSHome ht hs hb)

theorem completes_putm (data : List (BitVec 8)) (hi : s.dev.agentIsolated a.val = false) (ho : s.dev.ownedBy a.val line = true)
    (ht : ((s.dev.agentDrop a.val line).dirTouch line).txnOf line = none) (ho2 : ((s.dev.agentDrop a.val line).dirTouch line).ownedBy a.val line = true) :
    Completes (.putm a ⟨line, data⟩) s fun t => t.dirOf line = DirEntry.idle ∧
      (16 ≤ a.val → data.length = 64 → ∀ i, i < 64 → t.byte (line * 64 + i) = data.getD i 0#8) := by
  obtain ⟨hm, hb⟩ := ownedBy_iff.1 ho
  have he : exec (.putm a ⟨line, data⟩) s = .next (s.withDev ((s.dev.agentDrop a.val line).putMHome a.val line data)) := by
    show execPutm a ⟨line, data⟩ s = _
    unfold execPutm onDev
    dsimp only
    rw [if_neg (by simp [hi, hm, hb])]
  refine completes_of_eq he ?_
  rw [putMHome_owned ht ho2]
  refine ⟨?_, fun ha hl i h64 => ?_⟩
  · rw [(sameDir_hcInstall ..).dirOf_eq, dirOf_setDir]
  · rw [byte_hcInstall]
    exact byte_ownerData _ ha hl h64

end

/-! ### Recalls -/

section
variable {d : Dev} {a line : Nat} (hi : d.agentIsolated a = false)
include hi

theorem inFlight_takeRecall (k : CohKind) (ho : d.ownedBy a line = true) : ((d.takeRecall k a line).inFlight .rdata a line).isSome = true := by
  unfold Dev.takeRecall
  rw [hi, ho, if_neg (by decide), if_neg (by decide)]
  split
  · exact inFlight_send ..
  · exact inFlight_send ..

theorem inFlight_takeRecall_gone (k : CohKind) (ho : d.ownedBy a line = false) : ((d.takeRecall k a line).inFlight .already a line).isSome = true := by
  unfold Dev.takeRecall
  rw [hi, ho, if_neg (by decide), if_pos (by decide)]
  exact inFlight_send ..

/-- Data that reach an agent: the tag or the hub agent holds the line in S. -/
theorem takeData_held {m : CohMsg} (ha : m.agent = a) (hl : m.line = line) (h64 : m.data.length = 64) (hs : (d.dirOf line).st = .s)
    (hb : (d.dirOf line).holders.getLsbD a = true) :
    d.takeData m = if a < 16 then d.tagArrives m.skein a line false false else d.setHubHeld a line .s := by
  subst ha hl
  unfold Dev.takeData
  rw [if_neg (by simp only [hi, h64, hs, hb]; decide)]

/-- A grant that reaches an agent: it holds the line in M. -/
theorem takeGrant_owned {m : CohMsg} (ha : m.agent = a) (hl : m.line = line) (ho : d.ownedBy a line = true) :
    d.takeGrant m = if a < 16 then d.tagArrives m.skein a line true (m.kind == .grantPending) else d.setHubHeld a line .m := by
  subst ha hl
  unfold Dev.takeGrant
  rw [hi, ho, if_neg (by decide)]

end

/-! ### What reaches the home or ends a grant -/

theorem takeAck_due {d : Dev} {a line : Nat} {t : HomeTxn} (ht : d.txnOf line = some t) (hb : t.acks.getLsbD a = true) : d.takeAck a line = d.ackCounted line a t := by
  unfold Dev.takeAck
  rw [ht]
  exact if_pos hb

theorem takeRdata_recalled {d : Dev} {a line : Nat} {t : HomeTxn} (ht : d.txnOf line = some t) (hr : t.recallOf = some a) (data : List Byte) :
    d.takeRdata a line data = (if t.req.discards then d else d.ownerData a line data).recallDone line t t.req.keepsS := by
  unfold Dev.takeRdata
  rw [ht]
  exact if_pos hr

/-- What each step of a fold leaves as it is, the fold does. -/
theorem foldl_same {α β γ : Type} (g : α → γ) (f : α → β → α) (h : ∀ x y, g (f x y) = g x) (ys : List β) (x : α) : g (ys.foldl f x) = g x := by
  induction ys generalizing x with
  | nil => rfl
  | cons y ys ih => exact (ih _).trans (h x y)

theorem takeDone_coh {d : Dev} {a line : Nat} (ha : a < 16) {tag : L3Tag} (ht : mget none d.coh.l3 (lineKey a line) = some tag) :
    mget none (d.takeDone a line).coh.l3 (lineKey a line) = some { tag with pend := false } ∧ (d.takeDone a line).coh.dir = d.coh.dir := by
  have hf : ∀ (e : Dev), ((List.range 384).foldl (fun d l =>
      if (d.core l).pendSt.contains line ∧ ((mget none d.spindleOf l).map fun p => p / 28) = some a then
        d.updCore l fun c => { c with pendSt := c.pendSt.filter fun x => x != line }
      else d) e).coh = e.coh := foldl_same Dev.coh _ (fun x y => by split <;> rfl) _
  unfold Dev.takeDone
  rw [if_neg (by omega)]
  dsimp only
  rw [hf]
  refine ⟨?_, rfl⟩
  show mget none (mupd none d.coh.l3 (lineKey a line) fun x => x.map fun t => { t with pend := false }) (lineKey a line) = _
  unfold mupd
  rw [mget_mset, if_pos rfl, ht]
  rfl

theorem rebuildDone_of_mem {d : Dev} {line : Nat} (h : line / 21 ∈ d.coh.rebuild) :
    d.rebuildDone line = (List.range 21).foldl (fun d i => d.homeRetry (line / 21 * 21 + i))
      { d.dirRebuild line with coh := { (d.dirRebuild line).coh with rebuild := (d.dirRebuild line).coh.rebuild.erase (line / 21) } } := by
  unfold Dev.rebuildDone
  rw [if_neg (by simpa using h)]

/-! ### The commands -/

section
variable {a : AgentId} {line : Nat} {m : CohMsg} {s : State} (hi : s.dev.agentIsolated a.val = false)
include hi

theorem completes_recall_owned {c : Instr} {k : CohKind} (ho : (s.dev.arrived m).ownedBy a.val line = true)
    (he : exec c s = .next (s.withDev (s.dev.onMsg k a.val line fun d _ => d.takeRecall k a.val line)))
    (h : s.dev.inFlight k a.val line = some m ∧ s.dev.canTravel m = true) : Completes c s fun t => (t.inFlight .rdata a.val line).isSome :=
  completes_comes he h (inFlight_takeRecall (d := s.dev.arrived m) hi k ho)

theorem completes_recall_gone {c : Instr} {k : CohKind} (ho : (s.dev.arrived m).ownedBy a.val line = false)
    (he : exec c s = .next (s.withDev (s.dev.onMsg k a.val line fun d _ => d.takeRecall k a.val line)))
    (h : s.dev.inFlight k a.val line = some m ∧ s.dev.canTravel m = true) : Completes c s fun t => (t.inFlight .already a.val line).isSome :=
  completes_comes he h (inFlight_takeRecall_gone (d := s.dev.arrived m) hi k ho)

theorem leaves_dataMsg (h : s.dev.inFlight .data a.val line = some m ∧ s.dev.canTravel m = true) (h64 : m.data.length = 64)
    (hs : (s.dev.dirOf line).st = .s) (hb : (s.dev.dirOf line).holders.getLsbD a.val = true) :
    Leaves (.dataMsg a line) s
      (if a.val < 16 then (s.dev.arrived m).tagArrives m.skein a.val line false false else (s.dev.arrived m).setHubHeld a.val line .s) := by
  obtain ⟨_, ha, hl⟩ := inFlight_names h.1
  rw [← takeData_held (d := s.dev.arrived m) hi ha hl h64 hs hb]
  exact leaves_comes rfl h

section
variable (ho : (s.dev.arrived m).ownedBy a.val line = true)
include ho

theorem leaves_grantPending (h : s.dev.inFlight .grantPending a.val line = some m ∧ s.dev.canTravel m = true) :
    Leaves (.grantMsg a line) s
      (if a.val < 16 then (s.dev.arrived m).tagArrives m.skein a.val line true true else (s.dev.arrived m).setHubHeld a.val line .m) := by
  obtain ⟨hk, ha, hl⟩ := inFlight_names h.1
  have hg := takeGrant_owned (d := s.dev.arrived m) hi ha hl ho
  rw [hk] at hg
  refine leaves_of_eq ?_
  show execGrantMsg a line s = _
  unfold execGrantMsg onDev
  dsimp only
  rw [h.1]
  dsimp only
  rw [onMsg_comes h.1 h.2, hg]
  rfl

theorem leaves_grantDone (hn : s.dev.inFlight .grantPending a.val line = none)
    (h : s.dev.inFlight .grantDone a.val line = some m ∧ s.dev.canTravel m = true) :
    Leaves (.grantMsg a line) s
      (if a.val < 16 then (s.dev.arrived m).tagArrives m.skein a.val line true false else (s.dev.arrived m).setHubHeld a.val line .m) := by
  obtain ⟨hk, ha, hl⟩ := inFlight_names h.1
  have hg := takeGrant_owned (d := s.dev.arrived m) hi ha hl ho
  rw [hk] at hg
  refine leaves_of_eq ?_
  show execGrantMsg a line s = _
  unfold execGrantMsg onDev
  dsimp only
  rw [hn]
  dsimp only
  rw [onMsg_comes h.1 h.2, hg]
  rfl

end
end

/-- Settles O34: packets at an agent, answers at the home, and lines given back, granted or rebuilt. -/
theorem coherencePacketsComplete : Obligations.CoherencePacketsComplete := by
  intro a line data m t0 tag s
  dsimp only
  refine ⟨fun h => ?_, fun h => leaves_comes (f := fun d _ => d) rfl h, fun ht => ⟨fun h hb => ?_, fun h hr => ?_⟩, fun ha h ht => ?_, fun hr => ?_, fun hi => ⟨fun ht => ?_, ?_⟩⟩
  · exact completes_comes (f := fun d _ => d.takeInv a.val line) rfl h (inFlight_takeInv ..)
  · rw [← takeAck_due (d := s.dev.arrived m) ht hb]
    exact leaves_comes (f := fun d _ => d.takeAck a.val line) rfl h
  · rw [← takeRdata_recalled (d := s.dev.arrived m) ht hr]
    exact leaves_comes (f := fun d _ => d.takeRdata a.val line data) rfl h
  · exact completes_comes (f := fun d _ => d.takeDone a.val line) rfl h (takeDone_coh (d := s.dev.arrived m) ha ht)
  · rw [← rebuildDone_of_mem hr]
    exact leaves_of (fun d => d.rebuildDone line) rfl rfl
  · exact ⟨fun hm hs hb => completes_puts hi hm ht hs hb, fun ho ho2 => completes_putm data hi ho ht ho2⟩
  · exact ⟨fun ho => ⟨completes_recall_owned hi ho rfl, completes_recall_owned hi ho rfl, completes_recall_owned hi ho rfl⟩,
      fun ho => ⟨completes_recall_gone hi ho rfl, completes_recall_gone hi ho rfl, completes_recall_gone hi ho rfl⟩,
      fun h h64 hs hb => leaves_dataMsg hi h h64 hs hb,
      fun ho => ⟨fun h => leaves_grantPending hi ho h, fun hn h => leaves_grantDone hi ho hn h⟩⟩

end Sys2Proof.Machine
end

section
/-! PROOFS. What a data access of a core changes of it: its look-asides and its buffers; and what the retirement of an instruction
leaves in memory (09 R284 to R291, 19 R586, 20 R605). -/
namespace Sys2Proof.Machine

/-! ### What a translation changes of its core -/

/-- The core, with what translations and the performing of its buffered stores change of it as in `b`. -/
def Core.withXlatOf (c b : Core) : Core :=
  { c.withBuffersOf b with itlb := b.itlb, dtlb := b.dtlb, l2tlb := b.l2tlb, walk := b.walk, sla := b.sla }

/-- Core `l` of `e` is that of `d` but for its look-asides and buffers. -/
def XlatOnly (l : Nat) (d e : Dev) : Prop := e.core l = (d.core l).withXlatOf (e.core l)

section
variable {l : Nat} {d e f : Dev}

theorem BuffersOnly.xlatOnly (h : BuffersOnly l d e) : XlatOnly l d e := by
  unfold XlatOnly
  unfold BuffersOnly at h
  rw [h]
  rfl

theorem XlatOnly.refl (l : Nat) (d : Dev) : XlatOnly l d d := (BuffersOnly.refl l d).xlatOnly

theorem XlatOnly.trans (h : XlatOnly l d e) (h' : XlatOnly l e f) : XlatOnly l d f := by
  unfold XlatOnly at *
  rw [h', h]
  rfl

theorem xlatOnly_of_cores (h : e.cores = d.cores) : XlatOnly l d e := (buffersOnly_of_cores h l).xlatOnly

theorem xlatOnly_updCore {g : Core → Core} (h : ∀ c, g c = c.withXlatOf (g c)) (l : Nat) (d : Dev) : XlatOnly l d (d.updCore l g) := by
  unfold XlatOnly
  rw [core_updCore, if_pos rfl]
  exact h _

theorem XlatOnly.rg_eq (h : XlatOnly l d e) : (e.core l).rg = (d.core l).rg := by unfold XlatOnly at h; rw [h]; rfl
theorem XlatOnly.g_eq (h : XlatOnly l d e) : (e.core l).g = (d.core l).g := by unfold XlatOnly at h; rw [h]; rfl
theorem XlatOnly.v_eq (h : XlatOnly l d e) : (e.core l).v = (d.core l).v := by unfold XlatOnly at h; rw [h]; rfl
theorem XlatOnly.m_eq (h : XlatOnly l d e) : (e.core l).m = (d.core l).m := by unfold XlatOnly at h; rw [h]; rfl
theorem XlatOnly.pc_eq (h : XlatOnly l d e) : (e.core l).pc = (d.core l).pc := by unfold XlatOnly at h; rw [h]; rfl
theorem XlatOnly.level_eq (h : XlatOnly l d e) : (e.core l).level = (d.core l).level := by unfold XlatOnly at h; rw [h]; rfl
theorem XlatOnly.wait_eq (h : XlatOnly l d e) : (e.core l).wait = (d.core l).wait := by unfold XlatOnly at h; rw [h]; rfl
theorem XlatOnly.runCtl_eq (h : XlatOnly l d e) : (e.core l).runCtl = (d.core l).runCtl := by unfold XlatOnly at h; rw [h]; rfl
theorem XlatOnly.pmu_eq (h : XlatOnly l d e) : (e.core l).pmu = (d.core l).pmu := by unfold XlatOnly at h; rw [h]; rfl

end

section
variable (d : Dev) (l : Nat)

theorem xlatOnly_drain : XlatOnly l d (d.drain l) := (buffersOnly_drain d l).xlatOnly

theorem xlatOnly_walkRead (pa : Nat) (full : Word) : XlatOnly l d (d.walkRead l pa full).1 := by
  refine xlatOnly_of_cores ?_
  have h := coreReach_cores d l (pa / 64) false
  unfold Dev.walkRead
  split
  · rfl
  · split
    case h_1 e he | h_2 e he | h_3 e st he => rwa [he] at h
    case h_4 e he =>
      rw [he] at h
      dsimp only
      split
      · exact (coreLine_cores ..).trans h
      · exact (coreLine_cores ..).trans h

theorem xlatOnly_readPte (asid : BitVec 16) (va lvl tbl : Nat) (full : Word) : XlatOnly l d (d.readPte l asid va lvl tbl full).1 := by
  have h := xlatOnly_walkRead d l (tbl + vaIndex va lvl * 8) full
  unfold Dev.readPte
  dsimp only
  split
  · exact .refl l d
  · split
    case h_1 e x he | h_2 e he => rwa [he] at h

theorem withXlatOf_walkFill (c : Core) (w : WalkEntry) : (if c.walk.contains w then c else { c with walk := (w :: c.walk).take 64 }) =
    c.withXlatOf (if c.walk.contains w then c else { c with walk := (w :: c.walk).take 64 }) := by
  by_cases h : c.walk.contains w
  · rw [if_pos h]; rfl
  · rw [if_neg h]; rfl

theorem xlatOnly_walk (asid : BitVec 16) (g : Bool) (va : Nat) (full : Word) (k : AccessKind) (lvl tbl : Nat) :
    XlatOnly l d (d.walk l asid g va full k lvl tbl).1 := by
  induction lvl generalizing d tbl with
  | zero =>
    have h := xlatOnly_readPte d l asid va 0 tbl full
    unfold Dev.walk
    split
    case h_1 e x he => rwa [he] at h
    case h_2 e p at_ he =>
      rw [he] at h
      split
      · exact h
      · split
        · exact h
        · split
          · exact h
          · exact h
  | succ lvl ih =>
    have h := xlatOnly_readPte d l asid va (lvl + 1) tbl full
    unfold Dev.walk
    split
    case h_1 e x he => rwa [he] at h
    case h_2 e p at_ he =>
      rw [he] at h
      split
      · exact h
      · split
        · exact h
        · split
          · exact h
          · exact h.trans (.trans (xlatOnly_updCore (fun c => withXlatOf_walkFill c _) l e) (ih ..))

theorem xlatOnly_descriptor (seg : Nat) (full : Word) : XlatOnly l d (d.descriptor l seg full).1 := by
  have h := xlatOnly_walkRead d l (field (d.core l).segtb 51 8 * 256 + seg * 16) full
  unfold Dev.descriptor
  split
  · exact .refl l d
  · dsimp only
    split
    case h_1 e x he => rwa [he] at h
    case h_2 e he =>
      rw [he] at h
      split
      · exact h
      · split
        · exact h
        · exact h.trans (xlatOnly_updCore (fun _ => rfl) l e)

theorem withXlatOf_l1tlbFill (c : Core) (isFetch : Bool) (e : TlbEntry) : c.l1tlbFill isFetch e = c.withXlatOf (c.l1tlbFill isFetch e) := by
  cases isFetch <;> rfl

theorem withXlatOf_tlbFind (c : Core) (isFetch : Bool) (asid : BitVec 16) (va : Nat) :
    (c.tlbFind isFetch asid va).1 = c.withXlatOf (c.tlbFind isFetch asid va).1 := by
  unfold Core.tlbFind
  split
  · rfl
  · split
    · exact withXlatOf_l1tlbFill ..
    · rfl

theorem xlatOnly_findEntry (va : Word) (k : AccessKind) : XlatOnly l d (d.findEntry l va k).1 := by
  have h := xlatOnly_descriptor d l (field va 63 60) va
  unfold Dev.findEntry
  split
  · exact .refl l d
  · dsimp only
    split
    case h_1 e x he => rwa [he] at h
    case h_2 e w0 w1 he =>
      rw [he] at h
      refine h.trans ?_
      split
      · exact .refl l e
      · split
        next c x ht =>
          have hc := withXlatOf_tlbFind (e.core l) (k == .fetch) (BitVec.ofNat 16 (field w1 63 48)) (field va 47 0)
          rw [ht] at hc
          unfold XlatOnly
          rw [core_setCore, if_pos rfl]
          exact hc
        next ht =>
          have hw := xlatOnly_walk e l (BitVec.ofNat 16 (field w1 63 48)) (bit w0 5) (field va 47 0) va k 3 (field w0 51 12 * 4096)
          split
          case h_1 e2 x he2 => rwa [he2] at hw
          case h_2 e2 f he2 =>
            rw [he2] at hw
            refine hw.trans (xlatOnly_updCore (fun c => ?_) l e2)
            cases k <;> rfl

theorem xlatOnly_casReady (u : AdUpdate) : XlatOnly l d (d.casReady l u).1 := by
  refine (xlatOnly_drain d l).trans ?_
  unfold Dev.casReady
  generalize d.drain l = e
  dsimp only
  have h := coreReach_cores e l (u.at_ / 64) true
  split
  · exact .refl l e
  · split
    case h_1 f hf | h_2 f hf | h_3 f hf | h_4 f st hf => rw [hf] at h; exact xlatOnly_of_cores h

theorem xlatOnly_xlatePages (lvl : Level) (va : Word) (k : AccessKind) (ply : Bool) : XlatOnly l d (d.xlatePages l lvl va k ply).1 := by
  have h := xlatOnly_findEntry d l va k
  unfold Dev.xlatePages
  split
  case h_1 e x he => rwa [he] at h
  case h_2 e x w0 he =>
    rw [he] at h
    refine h.trans ?_
    split
    · exact .refl l e
    · split
      · exact .refl l e
      next u hu =>
        have h2 := xlatOnly_casReady e l u
        split
        case h_1 e2 y he2 | h_2 e2 y hy he2 | h_3 e2 he2 => rwa [he2] at h2
        case h_4 e2 he2 =>
          rw [he2] at h2
          refine (h2.trans (xlatOnly_updCore (g := fun c => c.dropEntry x) (fun _ => rfl) l e2)).trans ?_
          have h3 := xlatOnly_findEntry (e2.updCore l fun c => c.dropEntry x) l va k
          split
          case h_1 e3 y he3 => rwa [he3] at h3
          case h_2 e3 y w1 he3 =>
            rw [he3] at h3
            split
            · exact h3
            · exact h3

theorem xlatOnly_translate (va : Word) (k : AccessKind) (ply : Bool) : XlatOnly l d (d.translate l va k ply).1 := by
  unfold Dev.translate
  dsimp only
  split
  · split
    · exact xlatOnly_xlatePages ..
    · exact .refl l d
  · split
    · exact xlatOnly_xlatePages ..
    · exact .refl l d
  · exact .refl l d
  · exact .refl l d

theorem xlatOnly_scalarCheck (va : Word) (n : Nat) (k : AccessKind) : XlatOnly l d (d.scalarCheck l va n k).1 := by
  have h := xlatOnly_translate d l va k false
  unfold Dev.scalarCheck
  split
  · exact .refl l d
  · split
    case h_1 e x he => rwa [he] at h
    case h_2 e x he =>
      rw [he] at h
      split
      · exact h
      · exact h

theorem xlatOnly_applyAd (u : Option AdUpdate) : XlatOnly l d (d.applyAd l u) := by
  unfold Dev.applyAd
  split
  · exact .refl l d
  · split
    · exact ((buffersOnly_coreWrite ..).xlatOnly).trans (xlatOnly_updCore (fun _ => rfl) l _)
    · exact .refl l d

end

/-- The core keeps its store buffer through an A and D update, which it writes to memory at once. -/
theorem sb_coreWrite (d : Dev) (l : Nat) (into : Fill) (cells : List Host.Cell) : ((d.coreWrite l into cells).core l).sb = (d.core l).sb := by
  have hn : ∀ (e : Dev) (p line : Nat), ((e.notePending l p line).core l).sb = (e.core l).sb := fun e p line => by
    unfold Dev.notePending
    split
    · split
      · rw [core_updCore, if_pos rfl]
      · rfl
    · rfl
  unfold Dev.coreWrite
  split
  · rfl
  next c cs =>
  dsimp only
  split
  · rw [core_of_cores (homeStore_cores ..)]
  · rw [← core_of_cores (coreLine_cores d l (c.1 / 64) true into (coversLine (c.1 / 64) (c :: cs))) l]
    generalize (d.coreLine l (c.1 / 64) true into (coversLine (c.1 / 64) (c :: cs))).1 = e
    have hput : ∀ f : Dev, ((if coversLine (c.1 / 64) (c :: cs) then (f.putBytes (c :: cs)).setPoison (c.1 / 64) false else f.putBytes (c :: cs)).core l).sb =
        (f.core l).sb := fun f => by split <;> rfl
    rw [hput]
    split
    · rw [hn, core_of_cores ((noteL1i_cores ..).trans (markStale_cores ..))]
    · rw [core_of_cores (markStale_cores ..)]

theorem sb_applyAd (d : Dev) (l : Nat) (u : Option AdUpdate) : ((d.applyAd l u).core l).sb = (d.core l).sb := by
  unfold Dev.applyAd
  split
  · rfl
  · split
    · rw [core_updCore, if_pos rfl]
      exact sb_coreWrite ..
    · rfl

/-! ### What a retirement leaves in memory -/

section
variable (d : Dev)

@[simp] theorem traceStatus_mem : d.traceStatus.mem = d.mem := rfl

@[simp] theorem tracePush_mem (bs : List Byte) : (d.tracePush bs).mem = d.mem := by
  unfold Dev.tracePush
  dsimp only
  split
  · rfl
  · split <;> rfl

@[simp] theorem traceResume_mem (l : Nat) : (d.traceResume l).mem = d.mem := by
  unfold Dev.traceResume
  dsimp only
  split
  · split <;> rfl
  · rfl

@[simp] theorem traceRetire_mem (l : Nat) : (d.traceRetire l).mem = d.mem := by
  unfold Dev.traceRetire
  dsimp only
  split
  · rfl
  · split
    · rfl
    · split
      · rw [tracePush_mem]
        exact traceResume_mem d l
      · rfl

end

theorem mem_finish_done {e : Dev} {l : Fin 384} (h : (e.core l.val).pmu.idle = true) (d : Dev) (evs : List (Nat × Nat)) :
    (d.finish l (.done e evs)).mem = e.mem := by
  have hi : ((e.updCore l.val fun c => { c with pc := c.pc + 4#64 }).core l.val).pmu.idle = true := by rw [core_updCore, if_pos rfl]; exact h
  show (((e.updCore l.val fun c => { c with pc := c.pc + 4#64 }).pmuCount l (d.core l.val).level ((2, 1) :: evs)).traceRetire l.val).mem = _
  rw [pmuCount_of_idle hi, traceRetire_mem]
  rfl

/-- A core to whose retirement nothing else acts is past it with its PC alone moved on. -/
theorem next_of_runCtl {c k : Core} (h : k.runCtl = c.runCtl) (hs : c.stepArmed = false) (hd : c.draining = false) : k.next = { k with pc := k.pc + 4#64 } := by
  have h1 : k.stepArmed = false := (congrArg (fun x => x.2.1) h).trans hs
  have h2 : k.draining = false := (congrArg (fun x => x.2.2) h).trans hd
  obtain ⟨⟩ := k
  dsimp only at h1 h2
  subst h1 h2
  rfl

section
variable {c : Instr} {l : Fin 384} {s : State} {f : Dev → CoreOut} {e : Dev} {evs : List (Nat × Nat)} (he : exec c s = runInstr l s f) (hs : s.ready l)
  (hf : f (s.fetched l) = .done e evs)
include he hs hf

/-- An instruction that has changed of its core only look-asides and buffers beside its result: the PC moves on, and memory is as it
left it. -/
theorem completes_access (hx : (e.core l.val).runCtl = ((s.fetched l).core l.val).runCtl) (hp : (e.core l.val).pmu = ((s.fetched l).core l.val).pmu) :
    Completes c s fun t => t.core l.val = { e.core l.val with pc := (e.core l.val).pc + 4#64 } ∧ t.mem = e.mem := by
  have hq := hs.2.2
  have hi : (e.core l.val).pmu.idle = true := by rw [hp]; exact pmu_idle_of_quiet hq
  refine ⟨_, he, rfl, ?_⟩
  change (s.dev.instr l f).core l.val = _ ∧ (s.dev.instr l f).mem = _
  rw [instr_ready s l f hs, hf]
  refine ⟨?_, mem_finish_done hi ..⟩
  unfold Dev.quiet at hq
  simp only [Bool.and_eq_true, Bool.not_eq_true'] at hq
  obtain ⟨⟨_, hst⟩, hdr⟩ := hq
  rw [core_finish_done hi, core_updCore, if_pos rfl, next_of_runCtl hx hst hdr]

end

end Sys2Proof.Machine
end

section
/-! PROOFS. Stores retire into the store buffer (07 R227, 06 R208, R209). -/
namespace Sys2Proof.Machine

/-! ### What the store buffer answers -/

/-- A byte of consecutive ones is found at its address. -/
theorem find?_cellsAt_leBytes (n i v pa : Nat) (h : i < n) :
    (cellsAt pa (leBytes n v)).find? (fun c => c.1 == pa + i) = some (pa + i, BitVec.ofNat 8 (v / 256 ^ i)) := by
  induction n generalizing i v pa with
  | zero => omega
  | succ n ih =>
    unfold leBytes cellsAt
    cases i with
    | zero =>
      rw [List.find?_cons_of_pos (by simp)]
      congr 2
      apply BitVec.eq_of_toNat_eq
      simp
    | succ i =>
      rw [List.find?_cons_of_neg (by simp), ← Nat.add_assoc, Nat.add_right_comm, ih i (v / 256) (pa + 1) (by omega), Nat.div_div_eq_div_mul, Nat.pow_succ']

/-- The youngest store answers first. -/
theorem sbByte_append {pa : Nat} {b : Byte} (sb its : List SbItem) (h : sbByte pa its = some b) : sbByte pa (sb ++ its) = some b := by
  induction sb with
  | nil => exact h
  | cons x xs ih => cases x <;> simp only [List.cons_append, sbByte, ih]

theorem coreByte_of_sb {d : Dev} {l pa : Nat} {b : Byte} (h : sbByte pa (d.core l).sb = some b) : d.coreByte l pa = b := by
  unfold Dev.coreByte
  rw [h]
  rfl

theorem sbByte_store {cells : List Host.Cell} {mt : MemType} (hm : mt ≠ .device) (lvl : Level) (vi pa : Nat) :
    sbByte pa [.store cells mt lvl vi] = (cells.find? fun c => c.1 == pa).map (·.2) := by
  simp only [sbByte, if_neg hm]

theorem coreByte_of_stored {d : Dev} {l n v pa vi : Nat} {sb : List SbItem} {mt : MemType} {lvl : Level}
    (h : (d.core l).sb = sb ++ [.store (cellsAt pa (leBytes n v)) mt lvl vi]) (hm : mt ≠ .device) {i : Nat} (hi : i < n) :
    d.coreByte l (pa + i) = BitVec.ofNat 8 (v / 256 ^ i) := by
  refine coreByte_of_sb ?_
  rw [h]
  refine sbByte_append _ _ ?_
  rw [sbByte_store hm, find?_cellsAt_leBytes n i v pa hi]
  rfl

/-! ### A store -/

theorem pushStore_fits {d : Dev} {l : Nat} {its : List SbItem} (h : sbStores (d.core l).sb + its.length ≤ 64) :
    d.pushStore l its = (d.updCore l fun c => { c with sb := c.sb ++ its }, true) := by
  unfold Dev.pushStore
  rw [if_pos h]
  dsimp only
  rw [if_pos h]

section
variable {d0 d : Dev} {l n : Nat} {va : Word} {x : Xlat} (h : d0.scalarCheck l va n .store = (d, .ok x)) (hb : (d.core l).barred = false)
  (hs : sbStores (d.core l).sb < 64)
include h hb hs

/-- A store whose checks pass, with a free entry. -/
theorem store_done (v : Nat) (evs : List (Nat × Nat)) : d0.store l va n v evs =
    .done ((d.updCore l fun k => { k with sb := k.sb ++ [.store (cellsAt x.pa (leBytes n v)) x.mt (d.core l).level (vaIdx va)] }).applyAd l x.ad)
      ((if x.mt = .device then [(0x33, 1)] else []) ++ evs) := by
  unfold Dev.store
  rw [h]
  dsimp only
  rw [if_neg (by rw [hb]; decide), pushStore_fits (by simpa using hs)]

end

section
variable {c : Instr} {l : Fin 384} {s : State} {f : Dev → CoreOut} (he : exec c s = runInstr l s f) (hs : s.ready l)
include he hs

/-- An instruction that is a store. -/
theorem storesTo_of_store {va : Word} {n v : Nat} (hf : f (s.fetched l) = (s.fetched l).store l.val va n v []) : StoresTo c l s va n v := by
  intro d x h hb h64
  dsimp only
  rw [store_done h hb h64] at hf
  have h1 := xlatOnly_scalarCheck (s.fetched l) l.val va n .store
  rw [h] at h1
  have h2 : XlatOnly l.val d ((d.updCore l.val fun k => { k with sb := k.sb ++ [.store (cellsAt x.pa (leBytes n v)) x.mt (d.core l.val).level (vaIdx va)] }).applyAd l.val x.ad) :=
    (xlatOnly_updCore (fun _ => rfl) l.val d).trans (xlatOnly_applyAd ..)
  refine (completes_access he hs hf (h1.trans h2).runCtl_eq (h1.trans h2).pmu_eq).imp fun t ⟨hc, hm⟩ => ?_
  have hsb : (t.core l.val).sb = (d.core l.val).sb ++ [.store (cellsAt x.pa (leBytes n v)) x.mt (d.core l.val).level (vaIdx va)] := by
    rw [hc]
    dsimp only
    rw [sb_applyAd, core_updCore, if_pos rfl]
  refine ⟨hc, hsb, byte_congr (congrArg Mem.bytes hm), fun hn => byte_congr ?_, fun hd i hi => coreByte_of_stored hsb hd hi⟩
  rw [hm, hn]
  rfl

end

/-- Settles O5: the three forms are one store. -/
theorem storesComplete : Obligations.StoresComplete := by
  intro l sz sc gs ga gb off s hs
  dsimp only
  refine ⟨storesTo_of_store rfl hs rfl, storesTo_of_store rfl hs rfl, fun hsz hfp => storesTo_of_store rfl hs ?_⟩
  rw [if_neg (by omega), if_neg (by unfold Core.fpOff; rw [hfp]; decide)]
  rfl

end Sys2Proof.Machine
end

section
/-! PROOFS. What the functions of the uncore, and those of a core that only compute, keep: every byte of DRAM, and the cores where
they do not act on one. Each is its definition with what the functions it is made of keep. -/
namespace Sys2Proof.Machine

theorem updCore_bytes (d : Dev) (l : Nat) (f : Core → Core) : (d.updCore l f).mem.bytes = d.mem.bytes := by rw [updCore_mem]
theorem setCore_bytes (d : Dev) (l : Nat) (c : Core) : (d.setCore l c).mem.bytes = d.mem.bytes := by rw [setCore_mem]

theorem foldl_bytes {α : Type} (f : Dev → α → Dev) (h : ∀ d x, (f d x).mem.bytes = d.mem.bytes) (xs : List α) (d : Dev) :
    (xs.foldl f d).mem.bytes = d.mem.bytes := by
  induction xs generalizing d with
  | nil => rfl
  | cons x xs ih => rw [List.foldl_cons, ih, h]

theorem foldl_kept {α : Type} (f : Dev → α → Dev) (h : ∀ d x, (f d x).mem.bytes = d.mem.bytes ∧ (f d x).cores = d.cores) (xs : List α) (d : Dev) :
    (xs.foldl f d).mem.bytes = d.mem.bytes ∧ (xs.foldl f d).cores = d.cores :=
  ⟨foldl_bytes f (fun d x => (h d x).1) xs d, foldl_cores f (fun d x => (h d x).2) xs d⟩

theorem forPres_bytes (d : Dev) (die : Nat) (pres : BitVec 28) (but : Option Nat) {f : Dev → Nat → Dev} (hf : ∀ d p, (f d p).mem.bytes = d.mem.bytes) :
    (d.forPres die pres but f).mem.bytes = d.mem.bytes := by
  refine foldl_bytes _ (fun d n => ?_) _ _
  split
  · exact hf ..
  · rfl

theorem ite_kept {c : Prop} [Decidable c] {a b d : Dev} (ha : a.mem.bytes = d.mem.bytes ∧ a.cores = d.cores)
    (hb : b.mem.bytes = d.mem.bytes ∧ b.cores = d.cores) : (if c then a else b).mem.bytes = d.mem.bytes ∧ (if c then a else b).cores = d.cores := by
  split
  · exact ha
  · exact hb

theorem ite_bytes {c : Prop} [Decidable c] {a b d : Dev} (ha : a.mem.bytes = d.mem.bytes) (hb : b.mem.bytes = d.mem.bytes) :
    (if c then a else b).mem.bytes = d.mem.bytes := by
  split
  · exact ha
  · exact hb

theorem ite_fst_kept {α : Type} {c : Prop} [Decidable c] {a b : Dev × α} {d : Dev} (ha : a.1.mem.bytes = d.mem.bytes ∧ a.1.cores = d.cores)
    (hb : b.1.mem.bytes = d.mem.bytes ∧ b.1.cores = d.cores) :
    (if c then a else b).1.mem.bytes = d.mem.bytes ∧ (if c then a else b).1.cores = d.cores := by
  split
  · exact ha
  · exact hb


/-- `e` has the bytes of `d`. A name of its own, so that the kernel compares two such facts by their devices and does not evaluate them. -/
def Dev.SameBytes (e d : Dev) : Prop := e.mem.bytes = d.mem.bytes

/-- `e` has the bytes and the cores of `d`, a name of its own for the same reason. -/
def Dev.Kept (e d : Dev) : Prop := e.mem.bytes = d.mem.bytes ∧ e.cores = d.cores

theorem Dev.Kept.trans {a b c : Dev} (h : a.Kept b) (k : b.Kept c) : a.Kept c := ⟨h.1.trans k.1, h.2.trans k.2⟩

theorem kept_ite {c : Prop} [Decidable c] {a b d : Dev} (ha : a.Kept d) (hb : b.Kept d) : (if c then a else b).Kept d := ite_kept ha hb

/-- A function of the device keeps its bytes and its cores: said of the function, so that it is compared with its definition as a function. -/
def KeepAll (f : Dev → Dev) : Prop := ∀ d, (f d).Kept d

theorem keepAll_of {f : Dev → Dev} (h : ∀ d, (f d).Kept d) : KeepAll f := h

/-- The same of the bytes alone, for a function with two more arguments. -/
def KeepBytes (f : Dev → Nat → Nat → Dev) : Prop := ∀ d m n, (f d m n).SameBytes d

theorem keepBytes_of {f : Dev → Nat → Nat → Dev} (h : ∀ d m n, (f d m n).SameBytes d) : KeepBytes f := h


/-! ### Regs -/

@[simp] theorem setReg_kept (d : Dev) (a : Nat) (v : Reg32) : (d.setReg a v).mem.bytes = d.mem.bytes ∧ (d.setReg a v).cores = d.cores := by simp only [Dev.setReg, and_self]
@[simp] theorem setRegF_kept (d : Dev) (a hi lo v : Nat) : (d.setRegF a hi lo v).mem.bytes = d.mem.bytes ∧ (d.setRegF a hi lo v).cores = d.cores := by simp only [Dev.setRegF, setReg_kept, and_self]
@[simp] theorem count_kept (d : Dev) (a : Nat) : (d.count a).mem.bytes = d.mem.bytes ∧ (d.count a).cores = d.cores := by simp only [Dev.count, setReg_kept, and_self]
@[simp] theorem countN_kept (d : Dev) (a n : Nat) : (d.countN a n).mem.bytes = d.mem.bytes ∧ (d.countN a n).cores = d.cores := by simp only [Dev.countN, setReg_kept, and_self]
@[simp] theorem setReg64_kept (d : Dev) (a v : Nat) : (d.setReg64 a v).mem.bytes = d.mem.bytes ∧ (d.setReg64 a v).cores = d.cores := by simp only [Dev.setReg64, setReg_kept, and_self]

/-! ### Memory -/

@[simp] theorem setPort_kept (d : Dev) (k : Nat) (p : BPort) : (d.setPort k p).mem.bytes = d.mem.bytes ∧ (d.setPort k p).cores = d.cores := by simp only [Dev.setPort, and_self]
@[simp] theorem emit_kept (d : Dev) (o : Out) : (d.emit o).mem.bytes = d.mem.bytes ∧ (d.emit o).cores = d.cores := by simp only [Dev.emit, and_self]
@[simp] theorem hubAdd_kept (d : Dev) (s k n : Nat) : (d.hubAdd s k n).mem.bytes = d.mem.bytes ∧ (d.hubAdd s k n).cores = d.cores := by simp only [Dev.hubAdd, and_self]
@[simp] theorem hubAddLine_bytes (d : Dev) (line k n : Nat) : (d.hubAddLine line k n).mem.bytes = d.mem.bytes := by
  unfold Dev.hubAddLine; repeat' split
  all_goals simp only [hubAdd_kept]

@[simp] theorem setPoison_bytes (d : Dev) (line : Nat) (p : Bool) : (d.setPoison line p).mem.bytes = d.mem.bytes := rfl

/-! ### Net -/

@[simp] theorem hopAll_kept (d : Dev) : d.hopAll.mem.bytes = d.mem.bytes ∧ d.hopAll.cores = d.cores := foldl_kept _ (fun d i => by split <;> exact ⟨rfl, rfl⟩) _ d

/-! ### Cache -/

@[simp] theorem dramWriteback_bytes (d : Dev) (line : Nat) : (d.dramWriteback line).mem.bytes = d.mem.bytes := by simp only [Dev.dramWriteback, hubAddLine_bytes]
@[simp] theorem markStale_bytes (d : Dev) (line owner : Nat) (spindle : Option Nat) : (d.markStale line owner spindle).mem.bytes = d.mem.bytes := by
  unfold Dev.markStale; dsimp only; split
  all_goals rfl

@[simp] theorem hcEvict_bytes (d : Dev) (line : Nat) : (d.hcEvict line).mem.bytes = d.mem.bytes := by
  unfold Dev.hcEvict; dsimp only; repeat' split
  all_goals simp only [dramWriteback_bytes]

@[simp] theorem hcInstall_bytes (d : Dev) (line : Nat) (dirty : Bool) : (d.hcInstall line dirty).mem.bytes = d.mem.bytes := by
  unfold Dev.hcInstall; dsimp only; repeat' split
  all_goals simp only [dramWriteback_bytes, markStale_bytes, hcEvict_bytes]

@[simp] theorem homeRead_bytes (d : Dev) (line : Nat) : (d.homeRead line).1.mem.bytes = d.mem.bytes := by
  unfold Dev.homeRead; dsimp only; repeat' split
  all_goals simp only [hubAddLine_bytes, hcInstall_bytes]

@[simp] theorem homeReadNc_bytes (d : Dev) (line : Nat) : (d.homeReadNc line).1.mem.bytes = d.mem.bytes := by
  unfold Dev.homeReadNc; repeat' split
  all_goals simp only [hubAddLine_bytes, hcInstall_bytes]

@[simp] theorem l1Drop_kept (d : Dev) (p line : Nat) : (d.l1Drop p line).mem.bytes = d.mem.bytes ∧ (d.l1Drop p line).cores = d.cores := by simp only [Dev.l1Drop, and_self]
@[simp] theorem l2Drop_bytes (d : Dev) (p line : Nat) : (d.l2Drop p line).mem.bytes = d.mem.bytes := by simp only [Dev.l2Drop, l1Drop_kept]
@[simp] theorem l2Downgrade_bytes (d : Dev) (p line : Nat) : (d.l2Downgrade p line).mem.bytes = d.mem.bytes := rfl
@[simp] theorem presClear_bytes (d : Dev) (p line : Nat) : (d.presClear p line).mem.bytes = d.mem.bytes := rfl
@[simp] theorem l1Fill_bytes (d : Dev) (p line : Nat) (z : Fill) : (d.l1Fill p line z).mem.bytes = d.mem.bytes := by
  unfold Dev.l1Fill; dsimp only; split
  all_goals rfl

@[simp] theorem l2Place_bytes (d : Dev) (p line : Nat) : (d.l2Place p line).mem.bytes = d.mem.bytes := by
  unfold Dev.l2Place; dsimp only; repeat' split
  all_goals simp only [l2Drop_bytes, presClear_bytes]

@[simp] theorem l2Fill_bytes (d : Dev) (p line : Nat) (excl : Bool) (into : Fill) : (d.l2Fill p line excl into).mem.bytes = d.mem.bytes := by simp only [Dev.l2Fill, l1Fill_bytes, l2Place_bytes]
@[simp] theorem dieDrop_bytes (d : Dev) (die line : Nat) : (d.dieDrop die line).mem.bytes = d.mem.bytes := by
  unfold Dev.dieDrop
  split
  · rfl
  · exact forPres_bytes d _ _ _ fun d p => l2Drop_bytes d p line

@[simp] theorem dieDowngrade_bytes (d : Dev) (die line : Nat) : (d.dieDowngrade die line).mem.bytes = d.mem.bytes := by
  unfold Dev.dieDowngrade
  split
  · rfl
  · exact forPres_bytes d _ _ _ fun d p => l2Downgrade_bytes d p line

@[simp] theorem setDirBack_kept (d : Dev) (line : Nat) (e : DirEntry) :
    (d.setDirBack line e).mem.bytes = d.mem.bytes ∧ (d.setDirBack line e).cores = d.cores := by simp only [Dev.setDirBack, and_self]
@[simp] theorem dirWriteBack_bytes (d : Dev) (slice sector : Nat) : (d.dirWriteBack slice sector).mem.bytes = d.mem.bytes := foldl_bytes _ (fun d e => by dsimp only; split <;> rfl) _ d
@[simp] theorem dirTouch_bytes (d : Dev) (line : Nat) : (d.dirTouch line).mem.bytes = d.mem.bytes := by
  unfold Dev.dirTouch; dsimp only; repeat' split
  all_goals simp only [hubAddLine_bytes, dirWriteBack_bytes]

@[simp] theorem setDir_kept (d : Dev) (line : Nat) (e : DirEntry) : (d.setDir line e).mem.bytes = d.mem.bytes ∧ (d.setDir line e).cores = d.cores := by simp only [Dev.setDir, and_self]
@[simp] theorem reclaimPoison_bytes (d : Dev) (line : Nat) : (d.reclaimPoison line).mem.bytes = d.mem.bytes := by
  unfold Dev.reclaimPoison; dsimp only; split
  all_goals simp only [count_kept, setPoison_bytes]

@[simp] theorem dirCorrect_bytes (d : Dev) (line : Nat) : (d.dirCorrect line).mem.bytes = d.mem.bytes := by
  unfold Dev.dirCorrect
  dsimp only
  split
  · rfl
  · split
    · simp only [reclaimPoison_bytes, setDir_kept]
    · simp only [setDir_kept]

@[simp] theorem setHubHeld_bytes (d : Dev) (a line : Nat) (st : DirState) : (d.setHubHeld a line st).mem.bytes = d.mem.bytes := rfl
@[simp] theorem dirRebuild_kept (d : Dev) (line : Nat) : (d.dirRebuild line).mem.bytes = d.mem.bytes ∧ (d.dirRebuild line).cores = d.cores := by
  unfold Dev.dirRebuild
  simp only [count_kept]
  refine foldl_kept _ (fun d i => ?_) _ d
  simp only [setDir_kept]
  refine foldl_kept _ (fun d die => ?_) _ d
  split
  · simp only [hcInstall_bytes, hcInstall_cores, dieDowngrade_bytes, dieDowngrade_cores, and_self]
  · exact ⟨rfl, rfl⟩

@[simp] theorem startRebuild_bytes (d : Dev) (line : Nat) : (d.startRebuild line).mem.bytes = d.mem.bytes := by
  unfold Dev.startRebuild; dsimp only; split
  all_goals rfl


/-! ### Home -/

@[simp] theorem noteFar_bytes (d : Dev) (who line : Nat) : (d.noteFar who line).mem.bytes = d.mem.bytes := rfl
@[simp] theorem send_kept (d : Dev) (k : CohKind) (agent line : Nat) (data : List Byte) :
    (d.send k agent line data).mem.bytes = d.mem.bytes ∧ (d.send k agent line data).cores = d.cores := by simp only [Dev.send, hubAdd_kept, and_self]
@[simp] theorem arrived_kept (d : Dev) (m : CohMsg) : (d.arrived m).mem.bytes = d.mem.bytes ∧ (d.arrived m).cores = d.cores := by simp only [Dev.arrived, and_self]
@[simp] theorem setTxn_kept (d : Dev) (line : Nat) (t : Option HomeTxn) :
    (d.setTxn line t).mem.bytes = d.mem.bytes ∧ (d.setTxn line t).cores = d.cores := by simp only [Dev.setTxn, and_self]
@[simp] theorem homeRecall_bytes (d : Dev) (line agent o : Nat) (req : HomeReq) (k : CohKind) :
    (d.homeRecall line agent o req k).mem.bytes = d.mem.bytes := by simp only [Dev.homeRecall, send_kept, setTxn_kept]
@[simp] theorem dropOthers_bytes (d : Dev) (a line : Nat) (e : DirEntry) (discard : Bool) :
    (d.dropOthers a line e discard).mem.bytes = d.mem.bytes := foldl_bytes _ (fun d h => by
    dsimp only
    split
    · rfl
    · split
      · rw [hcInstall_bytes]
        split
        · exact dieDrop_bytes ..
        · rfl
      · split
        · exact dieDrop_bytes ..
        · rfl) _ d

theorem foldl_dieDowngrade_bytes (d : Dev) (line : Nat) (hs : List Nat) :
    (hs.foldl (fun d h => if h < 16 then d.dieDowngrade h line else d) d).mem.bytes = d.mem.bytes := by
  refine foldl_bytes _ (fun d h => ?_) _ _
  split
  · exact dieDowngrade_bytes ..
  · rfl

@[simp] theorem dirAcquire_bytes (d : Dev) (a line : Nat) (excl full : Bool) : (d.dirAcquire a line excl full).1.mem.bytes = d.mem.bytes := by
  unfold Dev.dirAcquire
  dsimp only
  split
  · rw [(setDir_kept ..).1]
    split
    · exact dropOthers_bytes ..
    · rw [homeRead_bytes, dropOthers_bytes]
  · split
    · split
      · rfl
      · simp only [setDir_kept, homeRead_bytes, hcInstall_bytes, foldl_dieDowngrade_bytes]
    · simp only [setDir_kept, homeRead_bytes]

@[simp] theorem dirClear_bytes (d : Dev) (line : Nat) : (d.dirClear line).mem.bytes = d.mem.bytes := by simp only [Dev.dirClear, setDir_kept, dropOthers_bytes]
@[simp] theorem hubRead_kept (d : Dev) (a line : Nat) : (d.hubRead a line).mem.bytes = d.mem.bytes ∧ (d.hubRead a line).cores = d.cores := by
  unfold Dev.hubRead; dsimp only; split
  all_goals simp only [dirTouch_bytes, dirTouch_cores, setDir_kept, dirAcquire_bytes, dirAcquire_cores, and_self]

theorem readHome_bytes (d : Dev) (line : Nat) {read : Dev → Nat → Dev × Bool} (hr : ∀ d n, (read d n).1.mem.bytes = d.mem.bytes) :
    (d.readHome line read).1.mem.bytes = d.mem.bytes := by
  unfold Dev.readHome
  dsimp only
  split
  · simp only [hr, setDir_kept, hcInstall_bytes, foldl_dieDowngrade_bytes, dirTouch_bytes]
  · simp only [hr, dirTouch_bytes]

@[simp] theorem ncRead_kept (d : Dev) (line : Nat) : (d.ncRead line).1.mem.bytes = d.mem.bytes ∧ (d.ncRead line).1.cores = d.cores := ⟨readHome_bytes d line homeReadNc_bytes, readHome_cores d line homeReadNc_cores⟩

/-! ### CoreCache -/

@[simp] theorem noteL1i_bytes (d : Dev) (p line : Nat) : (d.noteL1i p line).mem.bytes = d.mem.bytes := by
  unfold Dev.noteL1i; dsimp only; repeat' split
  all_goals rfl

@[simp] theorem notePending_bytes (d : Dev) (l p line : Nat) : (d.notePending l p line).mem.bytes = d.mem.bytes := by
  unfold Dev.notePending; repeat' split
  all_goals simp only [updCore_bytes]

@[simp] theorem l1iSync_bytes (d : Dev) (l : Nat) : (d.l1iSync l).mem.bytes = d.mem.bytes := by
  unfold Dev.l1iSync; dsimp only; split
  all_goals rfl


/-! ### Irq -/

@[simp] theorem raiseLocal_bytes (d : Dev) (l v : Nat) : (d.raiseLocal l v).mem.bytes = d.mem.bytes := by
  unfold Dev.raiseLocal; repeat' split
  all_goals simp only [updCore_bytes]

@[simp] theorem dropVec_kept (d : Dev) (sk : Nat) : (d.dropVec sk).mem.bytes = d.mem.bytes ∧ (d.dropVec sk).cores = d.cores := by simp only [Dev.dropVec, count_kept, and_self]
@[simp] theorem countDoff_kept (d : Dev) (l : Nat) : (d.countDoff l).mem.bytes = d.mem.bytes ∧ (d.countDoff l).cores = d.cores := by
  unfold Dev.countDoff; repeat' split
  all_goals simp only [count_kept, and_self]

@[simp] theorem inboxPut_bytes (d : Dev) (m : VecMsg) : (d.inboxPut m).mem.bytes = d.mem.bytes := by simp only [Dev.inboxPut, updCore_bytes]
@[simp] theorem deliverVec_bytes (d : Dev) (m : VecMsg) : (d.deliverVec m).mem.bytes = d.mem.bytes := by
  unfold Dev.deliverVec; dsimp only; repeat' split
  all_goals simp only [setPort_kept, dropVec_kept, countDoff_kept, inboxPut_bytes]

@[simp] theorem doorbell_bytes (d : Dev) (q : Requester) (n : Nat) : (d.doorbell q n).mem.bytes = d.mem.bytes := by
  unfold Dev.doorbell; dsimp only; split
  all_goals simp only [dropVec_kept, deliverVec_bytes]

@[simp] theorem signalRoute_bytes (d : Dev) (n : Nat) : (d.signalRoute n).mem.bytes = d.mem.bytes := by simp only [Dev.signalRoute, doorbell_bytes]

/-! ### Trace -/

@[simp] theorem traceStatus_kept (d : Dev) : d.traceStatus.mem.bytes = d.mem.bytes ∧ d.traceStatus.cores = d.cores := by simp only [Dev.traceStatus, setRegF_kept, and_self]
@[simp] theorem traceResume_bytes (d : Dev) (l : Nat) : (d.traceResume l).mem.bytes = d.mem.bytes := by
  unfold Dev.traceResume; dsimp only; repeat' split
  all_goals simp only [traceStatus_kept]

@[simp] theorem tracePush_bytes (d : Dev) (bs : List Byte) : (d.tracePush bs).mem.bytes = d.mem.bytes := by
  unfold Dev.tracePush; dsimp only; repeat' split
  all_goals simp only [count_kept, traceStatus_kept]

@[simp] theorem traceRecord_bytes (d : Dev) (l : Nat) (lvl : Level) (kind : Nat) (pre : List Byte) (addr : Nat) :
    (d.traceRecord l lvl kind pre addr).mem.bytes = d.mem.bytes := by
  unfold Dev.traceRecord; dsimp only; repeat' split
  all_goals simp only [traceResume_bytes, tracePush_bytes]

@[simp] theorem traceRetire_bytes (d : Dev) (l : Nat) : (d.traceRetire l).mem.bytes = d.mem.bytes := by
  unfold Dev.traceRetire; dsimp only; repeat' split
  all_goals simp only [traceResume_bytes, tracePush_bytes]

@[simp] theorem pmuOne_bytes (d : Dev) (l : Fin 384) (lvl : Level) (evs : List (Nat × Nat)) : (d.pmuOne l lvl evs).mem.bytes = d.mem.bytes := by
  unfold Dev.pmuOne; dsimp only; split
  all_goals simp only [setCore_bytes, doorbell_bytes]

@[simp] theorem pmuIdle_bytes (d : Dev) (l : Fin 384) (lvl : Level) (z : Nat) : (d.pmuIdle l lvl z).mem.bytes = d.mem.bytes := by
  induction z generalizing d with
  | zero => rfl
  | succ n ih =>
    unfold Dev.pmuIdle
    rw [ih, pmuOne_bytes]

@[simp] theorem pmuCount_bytes (d : Dev) (l : Fin 384) (lvl : Level) (evs : List (Nat × Nat)) : (d.pmuCount l lvl evs).mem.bytes = d.mem.bytes := by
  unfold Dev.pmuCount; dsimp only; repeat' split
  all_goals simp only [pmuOne_bytes, pmuIdle_bytes]

@[simp] theorem traceSync_kept (d : Dev) (l : Nat) : (d.traceSync l).mem.bytes = d.mem.bytes ∧ (d.traceSync l).cores = d.cores := by
  unfold Dev.traceSync; dsimp only; split
  all_goals simp only [traceResume_bytes, traceResume_cores, tracePush_bytes, tracePush_cores, and_self]


/-! ### StoreBuf -/

@[simp] theorem holdCore_kept (d : Dev) (l pa : Nat) : (d.holdCore l pa).mem.bytes = d.mem.bytes ∧ (d.holdCore l pa).cores = d.cores := by
  unfold Dev.holdCore; dsimp only; repeat' split
  all_goals simp only [setPort_kept, and_self]

@[simp] theorem storeError_bytes (d : Dev) (l : Nat) (secure device : Bool) (st : Status) (pa : Nat) :
    (d.storeError l secure device st pa).mem.bytes = d.mem.bytes := by simp only [Dev.storeError, updCore_bytes, raiseLocal_bytes]

/-! ### Ops -/

@[simp] theorem refetch_bytes (d : Dev) (l : Nat) : (d.refetch l).mem.bytes = d.mem.bytes := by simp only [Dev.refetch, updCore_bytes, l1iSync_bytes]
@[simp] theorem countRetired_bytes (d : Dev) (l : Fin 384) (lvl : Level) (evs : List (Nat × Nat)) :
    (d.countRetired l lvl evs).mem.bytes = d.mem.bytes := by simp only [Dev.countRetired, updCore_bytes, traceRetire_bytes, pmuCount_bytes]
@[simp] theorem traceExcept_bytes (d : Dev) (l : Nat) (intr : Bool) (code : Nat) : (d.traceExcept l intr code).mem.bytes = d.mem.bytes := by simp only [Dev.traceExcept, traceRecord_bytes]
@[simp] theorem traceReturn_bytes (d : Dev) (l : Nat) (world : Bool) : (d.traceReturn l world).mem.bytes = d.mem.bytes := by simp only [Dev.traceReturn, traceRecord_bytes]

/-! ### Coherence -/

@[simp] theorem agentDrop_kept (d : Dev) (agent line : Nat) :
    (d.agentDrop agent line).mem.bytes = d.mem.bytes ∧ (d.agentDrop agent line).cores = d.cores := by
  unfold Dev.agentDrop; repeat' split
  all_goals simp only [dieDrop_bytes, dieDrop_cores, setHubHeld_bytes, setHubHeld_cores, and_self]

@[simp] theorem portAnswers_kept (d : Dev) (k : CohKind) (agent line : Nat) :
    (d.portAnswers k agent line).mem.bytes = d.mem.bytes ∧ (d.portAnswers k agent line).cores = d.cores := by
  unfold Dev.portAnswers
  split
  · simp only [send_kept, and_self]
  · simp only [send_kept, reclaimPoison_bytes, reclaimPoison_cores, and_self]

@[simp] theorem takeInv_kept (d : Dev) (agent line : Nat) :
    (d.takeInv agent line).mem.bytes = d.mem.bytes ∧ (d.takeInv agent line).cores = d.cores := by
  unfold Dev.takeInv; repeat' split
  all_goals simp only [send_kept, agentDrop_kept, portAnswers_kept, and_self]

@[simp] theorem takeRecall_kept (d : Dev) (k : CohKind) (agent line : Nat) :
    (d.takeRecall k agent line).mem.bytes = d.mem.bytes ∧ (d.takeRecall k agent line).cores = d.cores := by
  unfold Dev.takeRecall; repeat' split
  all_goals simp only [dieDowngrade_bytes, dieDowngrade_cores, setHubHeld_bytes, setHubHeld_cores, send_kept, agentDrop_kept, portAnswers_kept, and_self]

@[simp] theorem takeDone_bytes (d : Dev) (agent line : Nat) : (d.takeDone agent line).mem.bytes = d.mem.bytes := by
  unfold Dev.takeDone
  split
  · rfl
  · dsimp only
    rw [foldl_bytes]
    intro d l
    split
    · exact updCore_bytes ..
    · rfl


/-! ### LoadStore -/

@[simp] theorem cleanLine_kept (d : Dev) (line : Nat) : (d.cleanLine line).mem.bytes = d.mem.bytes ∧ (d.cleanLine line).cores = d.cores := by
  unfold Dev.cleanLine
  dsimp only
  split
  · simp only [setDir_kept, hcInstall_bytes, hcInstall_cores, foldl_dieDowngrade_bytes, foldl_dieDowngrade_cores, and_self]
  · exact ⟨rfl, rfl⟩

@[simp] theorem cleanInvalLine_kept (d : Dev) (line : Nat) :
    (d.cleanInvalLine line).mem.bytes = d.mem.bytes ∧ (d.cleanInvalLine line).cores = d.cores := by simp only [Dev.cleanInvalLine, dirClear_bytes, dirClear_cores, and_self]

/-! ### SysRegs -/

@[simp] theorem updWd_kept (d : Dev) (sk : Nat) (f : Wdog → Wdog) : (d.updWd sk f).mem.bytes = d.mem.bytes ∧ (d.updWd sk f).cores = d.cores := by simp only [Dev.updWd, and_self]
@[simp] theorem claim_bytes (d : Dev) (l : Nat) : (d.claim l).mem.bytes = d.mem.bytes := by
  unfold Dev.claim; dsimp only; split
  all_goals simp only [updCore_bytes]

@[simp] theorem inboxSend_bytes (d : Dev) (l : Nat) (x : Word) : (d.inboxSend l x).mem.bytes = d.mem.bytes := by
  unfold Dev.inboxSend; dsimp only; split
  all_goals simp only [dropVec_kept, deliverVec_bytes]

@[simp] theorem swdogWrite_kept (d : Dev) (l : Nat) (x : Word) : (d.swdogWrite l x).mem.bytes = d.mem.bytes ∧ (d.swdogWrite l x).cores = d.cores := by
  unfold Dev.swdogWrite; repeat' split
  all_goals simp only [updWd_kept, and_self]

@[simp] theorem ndogCtlWrite_kept (d : Dev) (l : Nat) (x : Word) :
    (d.ndogCtlWrite l x).mem.bytes = d.mem.bytes ∧ (d.ndogCtlWrite l x).cores = d.cores := by
  unfold Dev.ndogCtlWrite; dsimp only; repeat' split
  all_goals simp only [updWd_kept, and_self]

@[simp] theorem ndogSvc_kept (d : Dev) (l : Nat) : (d.ndogSvc l).mem.bytes = d.mem.bytes ∧ (d.ndogSvc l).cores = d.cores := by
  unfold Dev.ndogSvc; dsimp only; split
  all_goals simp only [updWd_kept, and_self]


/-! ### System -/

@[simp] theorem timeTo_kept (d : Dev) (t : Nat) : (d.timeTo t).mem.bytes = d.mem.bytes ∧ (d.timeTo t).cores = d.cores := by simp only [Dev.timeTo, and_self]

/-! ### Bobbin -/

@[simp] theorem setQ_kept (d : Dev) (n : Nat) (c : QCtx) : (d.setQ n c).mem.bytes = d.mem.bytes ∧ (d.setQ n c).cores = d.cores := by simp only [Dev.setQ, and_self]
@[simp] theorem updQ_kept (d : Dev) (n : Nat) (f : QCtx → QCtx) : (d.updQ n f).mem.bytes = d.mem.bytes ∧ (d.updQ n f).cores = d.cores := by simp only [Dev.updQ, setQ_kept, and_self]
@[simp] theorem bookTouch_kept (d : Dev) (line : Nat) (dirty : Bool) :
    (d.bookTouch line dirty).mem.bytes = d.mem.bytes ∧ (d.bookTouch line dirty).cores = d.cores := by
  unfold Dev.bookTouch; repeat' split
  all_goals simp only [hubAddLine_bytes, hubAddLine_cores, hcInstall_bytes, hcInstall_cores, and_self]

@[simp] theorem linkTouch_kept (d : Dev) (n cell k : Nat) (dirty : Bool) :
    (d.linkTouch n cell k dirty).mem.bytes = d.mem.bytes ∧ (d.linkTouch n cell k dirty).cores = d.cores := by
  unfold Dev.linkTouch
  split
  · exact foldl_kept _ (fun d x => bookTouch_kept d x dirty) _ d
  · exact ⟨rfl, rfl⟩

@[simp] theorem hcForget_kept (d : Dev) (line : Nat) : (d.hcForget line).mem.bytes = d.mem.bytes ∧ (d.hcForget line).cores = d.cores := by simp only [Dev.hcForget, and_self]
@[simp] theorem freeCells_kept (d : Dev) (n own : Nat) (lines : List Nat) :
    (d.freeCells n own lines).mem.bytes = d.mem.bytes ∧ (d.freeCells n own lines).cores = d.cores := by
  unfold Dev.freeCells
  simp only [updQ_kept]
  exact foldl_kept _ hcForget_kept _ d

@[simp] theorem ctxLineTouch_kept (d : Dev) (n : Nat) (dirty : Bool) :
    (d.ctxLineTouch n dirty).mem.bytes = d.mem.bytes ∧ (d.ctxLineTouch n dirty).cores = d.cores := by
  unfold Dev.ctxLineTouch; repeat' split
  all_goals simp only [bookTouch_kept, and_self]

@[simp] theorem ctxUse_kept (d : Dev) (n : Nat) : (d.ctxUse n).mem.bytes = d.mem.bytes ∧ (d.ctxUse n).cores = d.cores := by
  unfold Dev.ctxUse; dsimp only; repeat' split
  all_goals simp only [ctxLineTouch_kept, and_self]

@[simp] theorem charge_kept (d : Dev) (sk slots : Nat) : (d.charge sk slots).mem.bytes = d.mem.bytes ∧ (d.charge sk slots).cores = d.cores := by simp only [Dev.charge, setRegF_kept, hubAdd_kept, and_self]
@[simp] theorem queueFault_kept (d : Dev) (l sub member qnum : Nat) (addr : Word) :
    (d.queueFault l sub member qnum addr).1.mem.bytes = d.mem.bytes ∧ (d.queueFault l sub member qnum addr).1.cores = d.cores := by simp only [Dev.queueFault, setReg_kept, count_kept, and_self]
@[simp] theorem countStatus_kept (d : Dev) (sk : Nat) (st : Status) :
    (d.countStatus sk st).mem.bytes = d.mem.bytes ∧ (d.countStatus sk st).cores = d.cores := by
  unfold Dev.countStatus; repeat' split
  all_goals simp only [count_kept, and_self]

@[simp] theorem unregister_kept (d : Dev) (w : QWaiter) : (d.unregister w).mem.bytes = d.mem.bytes ∧ (d.unregister w).cores = d.cores := by simp only [Dev.unregister, and_self]
@[simp] theorem unwait_bytes (d : Dev) (l : Nat) : (d.unwait l).mem.bytes = d.mem.bytes := by simp only [Dev.unwait, updCore_bytes, unregister_kept]
@[simp] theorem takeItem_kept (d : Dev) (n sk : Nat) (it : QItem) :
    (d.takeItem n sk it).mem.bytes = d.mem.bytes ∧ (d.takeItem n sk it).cores = d.cores := by simp only [Dev.takeItem, hubAdd_kept, updQ_kept, linkTouch_kept, freeCells_kept, charge_kept, and_self]
@[simp] theorem updStream_kept (d : Dev) (k : Nat) (f : Stream → Stream) :
    (d.updStream k f).mem.bytes = d.mem.bytes ∧ (d.updStream k f).cores = d.cores := by simp only [Dev.updStream, and_self]
@[simp] theorem hankSayBy_kept (d : Dev) (dir sk sys tag : Nat) (m : HankMsg) :
    (d.hankSayBy dir sk sys tag m).mem.bytes = d.mem.bytes ∧ (d.hankSayBy dir sk sys tag m).cores = d.cores := by simp only [Dev.hankSayBy, updStream_kept, and_self]
@[simp] theorem hankSay_kept (d : Dev) (dir sk sys : Nat) (m : HankMsg) :
    (d.hankSay dir sk sys m).mem.bytes = d.mem.bytes ∧ (d.hankSay dir sk sys m).cores = d.cores := by simp only [Dev.hankSay, hankSayBy_kept, and_self]
@[simp] theorem refuse_kept (d : Dev) (sk sys n qa grant off seq : Nat) (st : Status) :
    (d.refuse sk sys n qa grant off seq st).mem.bytes = d.mem.bytes ∧ (d.refuse sk sys n qa grant off seq st).cores = d.cores := by
  unfold Dev.refuse; dsimp only; split
  all_goals simp only [count_kept, hankSayBy_kept, and_self]

@[simp] theorem revokeGrant_kept (d : Dev) (i : Nat) : (d.revokeGrant i).mem.bytes = d.mem.bytes ∧ (d.revokeGrant i).cores = d.cores := by
  unfold Dev.revokeGrant; dsimp only; split
  all_goals simp only [hankSay_kept, and_self]

@[simp] theorem revokeAll_kept (d : Dev) (n : Nat) (st : CellSt) : (d.revokeAll n st).mem.bytes = d.mem.bytes ∧ (d.revokeAll n st).cores = d.cores := foldl_kept _ (fun d e => by simp only [updQ_kept, revokeGrant_kept, and_self]) _ d

/-! ### Endpoint -/

@[simp] theorem updFn_kept (d : Dev) (k : Nat) (f : Fn → Fn) : (d.updFn k f).mem.bytes = d.mem.bytes ∧ (d.updFn k f).cores = d.cores := by simp only [Dev.updFn, and_self]
@[simp] theorem updBun_kept (d : Dev) (b : Nat) (f : Bundle → Bundle) : (d.updBun b f).mem.bytes = d.mem.bytes ∧ (d.updBun b f).cores = d.cores := by simp only [Dev.updBun, and_self]
@[simp] theorem setBar_kept (d : Dev) (k off : Nat) (v : Reg32) : (d.setBar k off v).mem.bytes = d.mem.bytes ∧ (d.setBar k off v).cores = d.cores := by simp only [Dev.setBar, and_self]
@[simp] theorem setBarF_kept (d : Dev) (k off hi lo v : Nat) :
    (d.setBarF k off hi lo v).mem.bytes = d.mem.bytes ∧ (d.setBarF k off hi lo v).cores = d.cores := by simp only [Dev.setBarF, setBar_kept, and_self]
@[simp] theorem fnIssue_kept (d : Dev) (k : Nat) (w : HostWrite) : (d.fnIssue k w).mem.bytes = d.mem.bytes ∧ (d.fnIssue k w).cores = d.cores := by
  unfold Dev.fnIssue; repeat' split
  all_goals simp only [emit_kept, updFn_kept, and_self]

/-- What the dirty log of function `k` notes of page `p` of a write: its bit among those of `len` pages from `first`, or that it is none of them. -/
def Dev.dlogMark (k base first len : Nat) (d : Dev) (p : Nat) : Dev :=
  if first ≤ p ∧ p < first + len then
    let i := p - first
    d.fnIssue (k / 2048 * 2048) ⟨base + i / 64 * 8, leBytes 8 (2 ^ (i % 64)), false, true, true⟩
  else d.setBarF k 0x9520 1 1 1

theorem dlogMark_kept (k base first len : Nat) (d : Dev) (p : Nat) :
    (Dev.dlogMark k base first len d p).mem.bytes = d.mem.bytes ∧ (Dev.dlogMark k base first len d p).cores = d.cores :=
  ite_kept (fnIssue_kept ..) (setBarF_kept ..)

theorem dlogWrite_eq (d : Dev) (k addr n : Nat) : d.dlogWrite k addr n = if !bit (d.bar k 0x951C) 31 then d else
    (pagesOf addr n).foldl (Dev.dlogMark k
      (if bit (d.bar k 0x9520) 0 then (d.bar k (0x9500 + 0x08)).toNat + (d.bar k (0x9500 + 0x0C)).toNat * 2 ^ 32
        else (d.bar k (0x9500 + 0x00)).toNat + (d.bar k (0x9500 + 0x04)).toNat * 2 ^ 32)
      (((d.bar k (0x9500 + 0x10)).toNat + (d.bar k (0x9500 + 0x14)).toNat * 2 ^ 32) / 4096) (d.bar k (0x9500 + 0x18)).toNat) d := rfl

@[simp] theorem dlogWrite_kept (d : Dev) (k addr n : Nat) :
    (d.dlogWrite k addr n).mem.bytes = d.mem.bytes ∧ (d.dlogWrite k addr n).cores = d.cores := by
  rw [dlogWrite_eq]
  exact ite_kept ⟨rfl, rfl⟩ (foldl_kept _ (dlogMark_kept _ _ _ _) _ d)

@[simp] theorem fnWrite_kept (d : Dev) (k : Nat) (w : HostWrite) : (d.fnWrite k w).mem.bytes = d.mem.bytes ∧ (d.fnWrite k w).cores = d.cores := by
  unfold Dev.fnWrite
  split
  · exact ⟨rfl, rfl⟩
  · split
    · exact fnIssue_kept ..
    · simp only [dlogWrite_kept, fnIssue_kept, and_self]

@[simp] theorem fnRelease_kept (d : Dev) (k : Nat) : (d.fnRelease k).mem.bytes = d.mem.bytes ∧ (d.fnRelease k).cores = d.cores := by
  unfold Dev.fnRelease
  dsimp only
  split
  · have h := foldl_kept (fun (d : Dev) w => d.emit (.hostWrite (k / 2048) (k % 2048) w)) (fun d w => emit_kept ..) (d.fn k).held
    simp only [h, updFn_kept, and_self]
  · exact ⟨rfl, rfl⟩

@[simp] theorem msix_kept (d : Dev) (k v : Nat) : (d.msix k v).mem.bytes = d.mem.bytes ∧ (d.msix k v).cores = d.cores := by
  unfold Dev.msix; dsimp only; repeat' split
  all_goals simp only [updFn_kept, fnIssue_kept, and_self]

@[simp] theorem msixFlush_kept (d : Dev) (k v : Nat) : (d.msixFlush k v).mem.bytes = d.mem.bytes ∧ (d.msixFlush k v).cores = d.cores := by
  unfold Dev.msixFlush; dsimp only; split
  all_goals simp only [updFn_kept, msix_kept, and_self]

@[simp] theorem updChan_kept (d : Dev) (c : Nat) (f : Chan → Chan) : (d.updChan c f).mem.bytes = d.mem.bytes ∧ (d.updChan c f).cores = d.cores := by simp only [Dev.updChan, updFn_kept, and_self]
@[simp] theorem setChState_kept (d : Dev) (c st : Nat) : (d.setChState c st).mem.bytes = d.mem.bytes ∧ (d.setChState c st).cores = d.cores := by simp only [Dev.setChState, setBarF_kept, and_self]
@[simp] theorem chHeads_kept (d : Dev) (c : Nat) : (d.chHeads c).mem.bytes = d.mem.bytes ∧ (d.chHeads c).cores = d.cores := by simp only [Dev.chHeads, setBar_kept, and_self]
@[simp] theorem chRecord_kept (d : Dev) (c kind : Nat) (st : Status) (aged : Bool) (index len data : Nat) :
    (d.chRecord c kind st aged index len data).mem.bytes = d.mem.bytes ∧ (d.chRecord c kind st aged index len data).cores = d.cores := by
  unfold Dev.chRecord; dsimp only; split
  all_goals simp only [fnWrite_kept, msix_kept, updChan_kept, and_self]

@[simp] theorem chOwed_kept (d : Dev) (c : Nat) : (d.chOwed c).mem.bytes = d.mem.bytes ∧ (d.chOwed c).cores = d.cores := by
  unfold Dev.chOwed; repeat' split
  all_goals simp only [updChan_kept, chRecord_kept, and_self]

@[simp] theorem chRetire_kept (d : Dev) (c z : Nat) : (d.chRetire c z).mem.bytes = d.mem.bytes ∧ (d.chRetire c z).cores = d.cores := by
  induction z generalizing d with
  | zero => exact ⟨rfl, rfl⟩
  | succ n ih =>
    unfold Dev.chRetire
    split
    · exact ⟨rfl, rfl⟩
    · split
      · simp only [ih, chHeads_kept]
        split
        · exact updChan_kept ..
        · simp only [chRecord_kept, updChan_kept, and_self]
      · exact ⟨rfl, rfl⟩

@[simp] theorem chDescDone_kept (d : Dev) (c pos : Nat) (st : Status) :
    (d.chDescDone c pos st).mem.bytes = d.mem.bytes ∧ (d.chDescDone c pos st).cores = d.cores := by simp only [Dev.chDescDone, updChan_kept, chOwed_kept, chRetire_kept, and_self]
@[simp] theorem chError_kept (d : Dev) (c : Nat) (st : Status) : (d.chError c st).mem.bytes = d.mem.bytes ∧ (d.chError c st).cores = d.cores := by
  unfold Dev.chError; dsimp only; split
  all_goals simp only [unregister_kept, setBarF_kept, updChan_kept, setChState_kept, chOwed_kept, chRetire_kept, and_self]

@[simp] theorem drainTake_kept (d : Dev) (c n : Nat) (it : QItem) :
    (d.drainTake c n it).mem.bytes = d.mem.bytes ∧ (d.drainTake c n it).cores = d.cores := by
  unfold Dev.drainTake; dsimp only; repeat' split
  all_goals simp only [count_kept, updQ_kept, countStatus_kept, takeItem_kept, fnWrite_kept, updChan_kept, chHeads_kept, chRecord_kept, and_self]


/-! ### Queue -/

@[simp] theorem ackSoon_kept (d : Dev) (sk sys : Nat) : (d.ackSoon sk sys).mem.bytes = d.mem.bytes ∧ (d.ackSoon sk sys).cores = d.cores := by simp only [Dev.ackSoon, updStream_kept, and_self]
@[simp] theorem errorDrains_kept (d : Dev) (n : Nat) (st : Status) :
    (d.errorDrains n st).mem.bytes = d.mem.bytes ∧ (d.errorDrains n st).cores = d.cores := foldl_kept _ (fun d w => by
    split
    · exact chError_kept ..
    · exact ⟨rfl, rfl⟩) _ d

@[simp] theorem endGrantReqs_kept (d : Dev) (n : Nat) (st : Status) :
    (d.endGrantReqs n st).mem.bytes = d.mem.bytes ∧ (d.endGrantReqs n st).cores = d.cores := by
  unfold Dev.endGrantReqs
  dsimp only
  refine foldl_kept _ (fun d r => ?_) _ { d with bq := { d.bq with grantReqs := d.bq.grantReqs.filter fun r => r.q != n } }
  simp only [hankSay_kept]
  split
  · exact count_kept ..
  · exact ⟨rfl, rfl⟩

@[simp] theorem grantNow_kept (d : Dev) (r : GrantReq) : (d.grantNow r).mem.bytes = d.mem.bytes ∧ (d.grantNow r).cores = d.cores := by
  unfold Dev.grantNow; dsimp only; split
  all_goals simp only [updQ_kept, hankSay_kept, and_self]

@[simp] theorem serveGrants_kept (d : Dev) (n : Nat) : (d.serveGrants n).mem.bytes = d.mem.bytes ∧ (d.serveGrants n).cores = d.cores := foldl_kept _ (fun d r => by
    split
    · simp only [grantNow_kept, and_self]
    · exact ⟨rfl, rfl⟩) _ d

@[simp] theorem startPost_kept (d : Dev) (n len prio tag : Nat) (p : Poster) (payload : List Byte) :
    (d.startPost n len prio tag p payload).mem.bytes = d.mem.bytes ∧ (d.startPost n len prio tag p payload).cores = d.cores := by simp only [Dev.startPost, setQ_kept, charge_kept, and_self]
@[simp] theorem flushSet_kept (d : Dev) (n : Nat) : (d.flushSet n).mem.bytes = d.mem.bytes ∧ (d.flushSet n).cores = d.cores := by simp only [Dev.flushSet, updQ_kept, and_self]
@[simp] theorem askCredit_kept (d : Dev) (sk qa n : Nat) : (d.askCredit sk qa n).mem.bytes = d.mem.bytes ∧ (d.askCredit sk qa n).cores = d.cores := by
  unfold Dev.askCredit; dsimp only; split
  all_goals simp only [hankSay_kept, and_self]

@[simp] theorem releaseBlock_kept (d : Dev) (b : CreditBlock) : (d.releaseBlock b).mem.bytes = d.mem.bytes ∧ (d.releaseBlock b).cores = d.cores := by
  unfold Dev.releaseBlock; dsimp only; split
  all_goals simp only [hankSay_kept, and_self]

@[simp] theorem dropShort_kept (d : Dev) (n : Nat) (z : List CreditBlock) :
    (d.dropShort n z).mem.bytes = d.mem.bytes ∧ (d.dropShort n z).cores = d.cores := by
  induction z generalizing d with
  | nil => exact ⟨rfl, rfl⟩
  | cons b t ih =>
    unfold Dev.dropShort
    split
    · exact ⟨rfl, rfl⟩
    · simp only [ih, releaseBlock_kept, and_self]

@[simp] theorem placeRemote_kept (d : Dev) (r : RemotePost) : (d.placeRemote r).1.mem.bytes = d.mem.bytes ∧ (d.placeRemote r).1.cores = d.cores := by
  unfold Dev.placeRemote; dsimp only; repeat' split
  all_goals simp only [hankSayBy_kept, askCredit_kept, dropShort_kept, and_self]


/-! ### Channels -/

@[simp] theorem updDesc_kept (d : Dev) (c pos : Nat) (f : Desc → Desc) :
    (d.updDesc c pos f).mem.bytes = d.mem.bytes ∧ (d.updDesc c pos f).cores = d.cores := by simp only [Dev.updDesc, updChan_kept, and_self]
@[simp] theorem chFetches_kept (d : Dev) (c z : Nat) : (d.chFetches c z).mem.bytes = d.mem.bytes ∧ (d.chFetches c z).cores = d.cores := by
  induction z generalizing d with
  | zero => exact ⟨rfl, rfl⟩
  | succ n ih =>
    unfold Dev.chFetches
    dsimp only
    split
    · simp only [ih, emit_kept, updChan_kept, and_self]
    · exact ⟨rfl, rfl⟩

@[simp] theorem chPayloads_kept (d : Dev) (c : Nat) : (d.chPayloads c).mem.bytes = d.mem.bytes ∧ (d.chPayloads c).cores = d.cores := by
  unfold Dev.chPayloads
  dsimp only
  split
  · exact ⟨rfl, rfl⟩
  · refine foldl_kept _ (fun d y => ?_) _ d
    split
    · simp only [emit_kept, updDesc_kept, and_self]
    · exact ⟨rfl, rfl⟩

@[simp] theorem chResult_kept (d : Dev) (c : Nat) (st : Status) : (d.chResult c st).mem.bytes = d.mem.bytes ∧ (d.chResult c st).cores = d.cores := by
  unfold Dev.chResult; repeat' split
  all_goals simp only [count_kept, setBarF_kept, and_self]

@[simp] theorem rxHead_kept (d : Dev) (c v : Nat) : (d.rxHead c v).mem.bytes = d.mem.bytes ∧ (d.rxHead c v).cores = d.cores := by simp only [Dev.rxHead, updChan_kept, and_self]
@[simp] theorem chArm_kept (d : Dev) (c v : Nat) : (d.chArm c v).mem.bytes = d.mem.bytes ∧ (d.chArm c v).cores = d.cores := by
  unfold Dev.chArm; dsimp only; repeat' split
  all_goals simp only [msix_kept, updChan_kept, and_self]

theorem doorbellCh_kept {d : Dev} {c n v : Nat} {act rec : Dev → Dev} (ha : (act d).mem.bytes = d.mem.bytes ∧ (act d).cores = d.cores)
    (hr : (rec d).mem.bytes = d.mem.bytes ∧ (rec d).cores = d.cores) :
    (d.doorbellCh c n v act rec).mem.bytes = d.mem.bytes ∧ (d.doorbellCh c n v act rec).cores = d.cores := by
  unfold Dev.doorbellCh
  exact ite_kept ⟨rfl, rfl⟩ (ite_kept ⟨rfl, rfl⟩ (ite_kept (chError_kept ..) (ite_kept ha hr)))

@[simp] theorem chRxDb_kept (d : Dev) (c : Nat) (v : Reg32) : (d.chRxDb c v).mem.bytes = d.mem.bytes ∧ (d.chRxDb c v).cores = d.cores := doorbellCh_kept (rxHead_kept d c _) (updChan_kept ..)

/-! ### QueueInstr -/

@[simp] theorem bufRead_kept (d : Dev) (lines : List Nat) : (d.bufRead lines).mem.bytes = d.mem.bytes ∧ (d.bufRead lines).cores = d.cores := foldl_kept _ (hubRead_kept · 16 ·) _ d
@[simp] theorem groupTouch_kept (d : Dev) (o : SkeinCfg) (i : Nat) (dirty : Bool) :
    (d.groupTouch o i dirty).mem.bytes = d.mem.bytes ∧ (d.groupTouch o i dirty).cores = d.cores := foldl_kept _ (fun d j => by
    dsimp only
    split
    · simp only [bookTouch_kept, setPoison_bytes, setPoison_cores, and_self]
    · simp only [bookTouch_kept, and_self]) _ d

@[simp] theorem forgetRing_kept (d : Dev) (n : Nat) : (d.forgetRing n).mem.bytes = d.mem.bytes ∧ (d.forgetRing n).cores = d.cores := by
  unfold Dev.forgetRing
  split
  · exact foldl_kept _ hcForget_kept _ d
  · exact ⟨rfl, rfl⟩


/-! ### Record -/

@[simp] theorem updDst_kept (d : Dev) (f : Distaff → Distaff) : (d.updDst f).mem.bytes = d.mem.bytes ∧ (d.updDst f).cores = d.cores := by simp only [Dev.updDst, and_self]
@[simp] theorem audit_kept (d : Dev) (kind role index transport skein status cmd : Nat) (body : List Byte) :
    (d.audit kind role index transport skein status cmd body).mem.bytes = d.mem.bytes ∧ (d.audit kind role index transport skein status cmd body).cores = d.cores := by
  unfold Dev.audit; dsimp only; split
  all_goals simp only [count_kept, setReg64_kept, updDst_kept, and_self]

@[simp] theorem announce_kept (d : Dev) (r : Option AuditRec) : (d.announce r).mem.bytes = d.mem.bytes ∧ (d.announce r).cores = d.cores := by
  unfold Dev.announce; dsimp only; repeat' split
  all_goals simp only [count_kept, emit_kept, updDst_kept, and_self]

@[simp] theorem setDstState_kept (d : Dev) (st : Nat) : (d.setDstState st).mem.bytes = d.mem.bytes ∧ (d.setDstState st).cores = d.cores := by
  unfold Dev.setDstState; repeat' split
  all_goals simp only [setRegF_kept, announce_kept, and_self]

@[simp] theorem auditCmd_kept (d : Dev) (who : Caller) (kind code : Nat) (st : Status) (as_ : Option (Nat × Nat)) (arg : List Byte) :
    (d.auditCmd who kind code st as_ arg).mem.bytes = d.mem.bytes ∧ (d.auditCmd who kind code st as_ arg).cores = d.cores := by simp only [Dev.auditCmd, audit_kept, and_self]
@[simp] theorem mbxReply_bytes (d : Dev) (sk code : Nat) (st : Status) (data : List Byte) : (d.mbxReply sk code st data).mem.bytes = d.mem.bytes := by
  have h := fun (bs : List Byte) (d : Dev) => foldl_bytes (fun (d : Dev) k => d.setReg (Reg.DST_MBX_RSP sk k) (BitVec.ofNat 32 (leAt bs (4 * k) 4)))
    (fun d k => (setReg_kept ..).1) (List.range 64) d
  unfold Dev.mbxReply
  refine ite_bytes ?_ (ite_bytes ?_ ?_)
  all_goals simp only [signalRoute_bytes, dropVec_kept, setRegF_kept, h]

@[simp] theorem answerTo_bytes (d : Dev) (who : Caller) (kind code : Nat) (st : Status) (as_ : Option (Nat × Nat)) (arg data : List Byte) :
    (d.answerTo who kind code st as_ arg data).mem.bytes = d.mem.bytes := by
  unfold Dev.answerTo; dsimp only; split
  all_goals simp only [emit_kept, auditCmd_kept, mbxReply_bytes]

@[simp] theorem reelAnswer_bytes (d : Dev) (l : Nat) (st : Status) (data : List Byte) : (d.reelAnswer l st data).mem.bytes = d.mem.bytes := by
  unfold Dev.reelAnswer; dsimp only; split
  all_goals simp only [answerTo_bytes]

@[simp] theorem deltaAnswer_bytes (d : Dev) (st : Status) : (d.deltaAnswer st).mem.bytes = d.mem.bytes := by
  unfold Dev.deltaAnswer; dsimp only; repeat' split
  all_goals simp only [setRegF_kept, answerTo_bytes]

@[simp] theorem jobAnswer_bytes (d : Dev) (st : Status) : (d.jobAnswer st).mem.bytes = d.mem.bytes := by
  unfold Dev.jobAnswer; dsimp only; repeat' split
  all_goals simp only [setRegF_kept, count_kept, answerTo_bytes]

@[simp] theorem answerAll_bytes (d : Dev) (st : Status) : (d.answerAll st).mem.bytes = d.mem.bytes := by
  unfold Dev.answerAll
  rw [foldl_bytes]
  · simp only [jobAnswer_bytes, deltaAnswer_bytes]
  · intro d l
    simp only [reelAnswer_bytes]

@[simp] theorem dropDelta_bytes (d : Dev) : d.dropDelta.mem.bytes = d.mem.bytes := by
  unfold Dev.dropDelta; dsimp only; repeat' split
  all_goals simp only [setRegF_kept, deltaAnswer_bytes]

@[simp] theorem noticeLcn_kept (d : Dev) (sk : Nat) : (d.noticeLcn sk).1.mem.bytes = d.mem.bytes ∧ (d.noticeLcn sk).1.cores = d.cores := by
  unfold Dev.noticeLcn; dsimp only; repeat' split
  all_goals simp only [setRegF_kept, and_self]

@[simp] theorem ringPut_kept (d : Dev) (sk : Nat) (bs : List Byte) : (d.ringPut sk bs).mem.bytes = d.mem.bytes ∧ (d.ringPut sk bs).cores = d.cores := by
  unfold Dev.ringPut
  dsimp only
  refine ite_kept (count_kept ..) ?_
  simp only [setRegF_kept]
  exact foldl_kept _ (fun d k => setReg_kept ..) _ d

@[simp] theorem recordAs_bytes (d : Dev) (sec : Bool) (e : Event) : (d.recordAs sec e).mem.bytes = d.mem.bytes := by
  unfold Dev.recordAs
  dsimp only
  rw [foldl_bytes]
  · simp only [announce_kept, audit_kept, updDst_kept]
  · intro d sk
    split
    · simp only [raiseLocal_bytes, ringPut_kept]
    · simp only [raiseLocal_bytes, ringPut_kept]
    · split
      · simp only [raiseLocal_bytes, noticeLcn_kept, ringPut_kept]
      · simp only [noticeLcn_kept, ringPut_kept]
    · split
      · simp only [raiseLocal_bytes, noticeLcn_kept, ringPut_kept]
      · simp only [noticeLcn_kept, ringPut_kept]
    · simp only [ringPut_kept]

@[simp] theorem record_bytes (d : Dev) (e : Event) : (d.record e).mem.bytes = d.mem.bytes := by simp only [Dev.record, recordAs_bytes]
@[simp] theorem recordLcn_bytes (d : Dev) (code : Nat) (uncorr : Bool) (vec : Raise) (l unit detail addr : Nat) :
    (d.recordLcn code uncorr vec l unit detail addr).mem.bytes = d.mem.bytes := by simp only [Dev.recordLcn, record_bytes]
@[simp] theorem linePoisoned_bytes (d : Dev) (line site unit : Nat) : (d.linePoisoned line site unit).mem.bytes = d.mem.bytes := by simp only [Dev.linePoisoned, setPoison_bytes, record_bytes]
@[simp] theorem budgetLow_bytes (d : Dev) (site kind pct : Nat) : (d.budgetLow site kind pct).mem.bytes = d.mem.bytes := by
  unfold Dev.budgetLow; repeat' split
  all_goals simp only [emit_kept, updDst_kept, record_bytes]

@[simp] theorem useBudget_bytes (d : Dev) (k n : Nat) : (d.useBudget k n).mem.bytes = d.mem.bytes := by
  unfold Dev.useBudget
  dsimp only
  rw [foldl_bytes]
  · simp only [countN_kept]
  · intro d' t
    beta_reduce
    exact ite_bytes (budgetLow_bytes ..) rfl


/-! ### Hank -/

@[simp] theorem updPeer_kept (d : Dev) (sys : Nat) (f : Peer → Peer) :
    (d.updPeer sys f).mem.bytes = d.mem.bytes ∧ (d.updPeer sys f).cores = d.cores := by simp only [Dev.updPeer, and_self]
@[simp] theorem sendFrame_kept (d : Dev) (dir sk sys p : Nat) (dst : BitVec 48) (epoch seq : Nat) (resync : Bool) (msgs left : List (HankMsg × Nat)) :
    (d.sendFrame dir sk sys p dst epoch seq resync msgs left).mem.bytes = d.mem.bytes ∧ (d.sendFrame dir sk sys p dst epoch seq resync msgs left).cores = d.cores := by simp only [Dev.sendFrame, emit_kept, and_self]
@[simp] theorem retransmit_kept (d : Dev) (dir sk sys : Nat) :
    (d.retransmit dir sk sys).mem.bytes = d.mem.bytes ∧ (d.retransmit dir sk sys).cores = d.cores := by
  unfold Dev.retransmit
  dsimp only
  split
  · exact ⟨rfl, rfl⟩
  next p hp =>
    have h := fun f hf xs => foldl_kept (α := TxFrame) f hf xs (d.updStream (streamKey dir sk sys) fun s => { s with port := some p, onAlt := (d.streamPort dir sk sys).2 })
    simp only [updStream_kept] at h
    exact h _ (fun d f => by simp only [count_kept, sendFrame_kept, and_self]) _

@[simp] theorem moveStreams_kept (d : Dev) (p : Nat) : (d.moveStreams p).mem.bytes = d.mem.bytes ∧ (d.moveStreams p).cores = d.cores := foldl_kept _ (fun d e => by
    split
    · exact retransmit_kept ..
    · exact ⟨rfl, rfl⟩) _ d

@[simp] theorem holdStreams_kept (d : Dev) (sys : Nat) (down : Bool) :
    (d.holdStreams sys down).mem.bytes = d.mem.bytes ∧ (d.holdStreams sys down).cores = d.cores := foldl_kept _ (fun d e => updStream_kept ..) _ d
@[simp] theorem setPeerState_kept (d : Dev) (sys st : Nat) :
    (d.setPeerState sys st).mem.bytes = d.mem.bytes ∧ (d.setPeerState sys st).cores = d.cores := by
  unfold Dev.setPeerState; dsimp only; repeat' split
  all_goals simp only [setRegF_kept, audit_kept, updPeer_kept, holdStreams_kept, and_self]

@[simp] theorem rxCrel_kept (d : Dev) (sk sys : Nat) (m : HankMsg) :
    (d.rxCrel sk sys m).mem.bytes = d.mem.bytes ∧ (d.rxCrel sk sys m).cores = d.cores := by
  unfold Dev.rxCrel; dsimp only; repeat' split
  all_goals simp only [updQ_kept, serveGrants_kept, and_self]

@[simp] theorem rxRevoke_kept (d : Dev) (sk : Nat) (m : HankMsg) : (d.rxRevoke sk m).mem.bytes = d.mem.bytes ∧ (d.rxRevoke sk m).cores = d.cores := by simp only [Dev.rxRevoke, and_self]
@[simp] theorem hankDrop_kept (d : Dev) (p reason : Nat) : (d.hankDrop p reason).mem.bytes = d.mem.bytes ∧ (d.hankDrop p reason).cores = d.cores := by simp only [Dev.hankDrop, setRegF_kept, count_kept, and_self]
@[simp] theorem rxAck_kept (d : Dev) (k ack : Nat) : (d.rxAck k ack).mem.bytes = d.mem.bytes ∧ (d.rxAck k ack).cores = d.cores := by
  unfold Dev.rxAck; dsimp only; split
  all_goals simp only [updStream_kept, and_self]

@[simp] theorem setPortState_kept (d : Dev) (p st : Nat) : (d.setPortState p st).mem.bytes = d.mem.bytes ∧ (d.setPortState p st).cores = d.cores := by simp only [Dev.setPortState, setRegF_kept, and_self]
@[simp] theorem hnkDo_kept (d : Dev) (q : Requester) (p cmd : Nat) : (d.hnkDo q p cmd).mem.bytes = d.mem.bytes ∧ (d.hnkDo q p cmd).cores = d.cores := by
  unfold Dev.hnkDo
  refine ite_kept ⟨rfl, rfl⟩ (ite_kept (setRegF_kept ..) ?_)
  split
  all_goals simp only [setRegF_kept, moveStreams_kept, setPortState_kept, count_kept, and_self]


/-! ### Safe -/

@[simp] theorem haltWait_bytes (d : Dev) (l : Nat) : (d.haltWait l).mem.bytes = d.mem.bytes := by
  unfold Dev.haltWait; repeat' split
  all_goals simp only [updCore_bytes]

@[simp] theorem bobbinSafe_bytes (d : Dev) : d.bobbinSafe.mem.bytes = d.mem.bytes := by
  unfold Dev.bobbinSafe
  simp only [setRegF_kept]
  exact foldl_bytes _ haltWait_bytes _ d

@[simp] theorem hankSafe_kept (d : Dev) : d.hankSafe.mem.bytes = d.mem.bytes ∧ d.hankSafe.cores = d.cores := by
  unfold Dev.hankSafe
  have h := foldl_kept (fun (d : Dev) p => (d.setRegF (Reg.HNK_PORT_STATUS p) 2 0 5).emit (.localFault p)) (fun d p => by
    simp only [emit_kept, setRegF_kept, and_self]) (List.range 8) (d.setRegF Reg.HNK_STATUS 1 0 2)
  simp only [setRegF_kept] at h
  exact h

@[simp] theorem dramSafe_kept (d : Dev) : d.dramSafe.mem.bytes = d.mem.bytes ∧ d.dramSafe.cores = d.cores := foldl_kept _ (fun d m => setRegF_kept ..) _ d
@[simp] theorem pceSafe_kept (d : Dev) : d.pceSafe.mem.bytes = d.mem.bytes ∧ d.pceSafe.cores = d.cores := foldl_kept _ (fun d b => by
    dsimp only
    refine ite_kept ?_ ?_
    · simp only [setRegF_kept, and_self]
    · simp only [updBun_kept, setRegF_kept, and_self]) _ d

@[simp] theorem cohSafe_kept (d : Dev) : d.cohSafe.mem.bytes = d.mem.bytes ∧ d.cohSafe.cores = d.cores := by
  unfold Dev.cohSafe
  have h1 := foldl_kept (fun (d : Dev) i => d.setRegF (Reg.CCH_L3_PD_STATUS i) 1 0 2) (fun d i => setRegF_kept ..) (List.range 16) d
  have h2 := fun e => foldl_kept (fun (d : Dev) g => d.setRegF (Reg.D2D_GST_STATUS g) 2 0 6) (fun d g => setRegF_kept ..) (List.range 2) e
  dsimp only
  simp only [h2, setRegF_kept, h1, and_self]

@[simp] theorem imgSafe_bytes (d : Dev) : d.imgSafe.mem.bytes = d.mem.bytes := by simp only [Dev.imgSafe, setRegF_kept, deltaAnswer_bytes]
@[simp] theorem reelSafe_bytes (d : Dev) : d.reelSafe.mem.bytes = d.mem.bytes := by
  unfold Dev.reelSafe
  simp only [setRegF_kept]
  exact foldl_bytes _ (fun d l => reelAnswer_bytes ..) _ d

@[simp] theorem pinsSafe_kept (d : Dev) (c : SafeCause) : (d.pinsSafe c).mem.bytes = d.mem.bytes ∧ (d.pinsSafe c).cores = d.cores := by simp only [Dev.pinsSafe, setRegF_kept, and_self]
@[simp] theorem noteSafe_kept (d : Dev) (c : SafeCause) : (d.noteSafe c).mem.bytes = d.mem.bytes ∧ (d.noteSafe c).cores = d.cores := by
  unfold Dev.noteSafe; repeat' split
  all_goals simp only [setRegF_kept, setReg64_kept, and_self]


/-! ### Release -/

@[simp] theorem leaveEngine_bytes (d : Dev) (l : Nat) : (d.leaveEngine l).mem.bytes = d.mem.bytes := by simp only [Dev.leaveEngine, unwait_bytes]
@[simp] theorem traceReset_kept (d : Dev) (l : Nat) : (d.traceReset l).mem.bytes = d.mem.bytes ∧ (d.traceReset l).cores = d.cores := by
  unfold Dev.traceReset; repeat' split
  all_goals simp only [setRegF_kept, and_self]

@[simp] theorem resetCore_bytes (d : Dev) (l : Nat) (c0 : Core) : (d.resetCore l c0).mem.bytes = d.mem.bytes := by simp only [Dev.resetCore, updCore_bytes, leaveEngine_bytes]
@[simp] theorem oweCheck_kept (d : Dev) (l : Nat) (sec : Bool) : (d.oweCheck l sec).mem.bytes = d.mem.bytes ∧ (d.oweCheck l sec).cores = d.cores := by simp only [Dev.oweCheck, and_self]
@[simp] theorem payOwed_bytes (d : Dev) (l : Nat) : (d.payOwed l).mem.bytes = d.mem.bytes := by
  unfold Dev.payOwed
  dsimp only
  rw [foldl_bytes]
  intro d x
  exact raiseLocal_bytes ..

@[simp] theorem discardStores_bytes (d : Dev) (l : Nat) : (d.discardStores l).mem.bytes = d.mem.bytes := by
  unfold Dev.discardStores; repeat' split
  all_goals simp only [updCore_bytes, recordAs_bytes, oweCheck_kept]

@[simp] theorem tablesWritten_kept (d : Dev) (c : SkeinCfg) : (d.tablesWritten c).mem.bytes = d.mem.bytes ∧ (d.tablesWritten c).cores = d.cores := by
  unfold Dev.tablesWritten
  exact ite_kept ⟨rfl, rfl⟩ (foldl_kept _ (fun d i => ⟨setPoison_bytes .., setPoison_cores ..⟩) _ d)


/-! ### HubPort -/

@[simp] theorem doffAt_kept (d : Dev) (k : Nat) : (d.doffAt k).mem.bytes = d.mem.bytes ∧ (d.doffAt k).cores = d.cores := by
  unfold Dev.doffAt; repeat' split
  all_goals simp only [count_kept, countDoff_kept, and_self]

@[simp] theorem rpWrite_kept (d : Dev) (b off : Nat) (v : Reg32) :
    (d.rpWrite b off v).mem.bytes = d.mem.bytes ∧ (d.rpWrite b off v).cores = d.cores := by simp only [Dev.rpWrite, updBun_kept, and_self]
@[simp] theorem busAccess_kept (d : Dev) (vc3 : Bool) (b pa size : Nat) (write : Bool) (data : Nat) :
    (d.busAccess vc3 b pa size write data).1.mem.bytes = d.mem.bytes ∧ (d.busAccess vc3 b pa size write data).1.cores = d.cores := by
  unfold Dev.busAccess
  refine ite_fst_kept (count_kept ..) (ite_fst_kept ⟨rfl, rfl⟩ (ite_fst_kept (count_kept ..) (ite_fst_kept ⟨rfl, rfl⟩ ?_)))
  split
  · exact ⟨rfl, rfl⟩
  · dsimp only
    split
    · exact rpWrite_kept ..
    · exact ⟨rfl, rfl⟩
  · exact emit_kept ..

@[simp] theorem hubAnswer_kept (d : Dev) (x : HubAccess) (st : Status) (bs : List Byte) :
    (d.hubAnswer x st bs).mem.bytes = d.mem.bytes ∧ (d.hubAnswer x st bs).cores = d.cores := by
  unfold Dev.hubAnswer; repeat' split
  all_goals simp only [emit_kept, and_self]

@[simp] theorem hubMap_kept (d : Dev) (f : HubAccess → HubAccess) : (d.hubMap f).mem.bytes = d.mem.bytes ∧ (d.hubMap f).cores = d.cores := by simp only [Dev.hubMap, and_self]
@[simp] theorem hubDiscard_kept (d : Dev) (p : HubAccess → Bool) : (d.hubDiscard p).mem.bytes = d.mem.bytes ∧ (d.hubDiscard p).cores = d.cores := by simp only [Dev.hubDiscard, and_self]
@[simp] theorem hubQueue_kept (d : Dev) (x : HubAccess) : (d.hubQueue x).mem.bytes = d.mem.bytes ∧ (d.hubQueue x).cores = d.cores := by simp only [Dev.hubQueue, and_self]

/-! ### Power -/

@[simp] theorem setDom_kept (d : Dev) (k : Nat) (x : Domain) : (d.setDom k x).mem.bytes = d.mem.bytes ∧ (d.setDom k x).cores = d.cores := by simp only [Dev.setDom, and_self]
@[simp] theorem pwrResult_kept (d : Dev) (q : Option Nat) (st : Status) (code pending : Nat) :
    (d.pwrResult q st code pending).mem.bytes = d.mem.bytes ∧ (d.pwrResult q st code pending).cores = d.cores := by
  unfold Dev.pwrResult; repeat' split
  all_goals simp only [setRegF_kept, and_self]

@[simp] theorem pwrLast_kept (d : Dev) (k : Nat) (st : Status) (code : Nat) (t : DomState) :
    (d.pwrLast k st code t).mem.bytes = d.mem.bytes ∧ (d.pwrLast k st code t).cores = d.cores := by simp only [Dev.pwrLast, setReg_kept, and_self]
@[simp] theorem startExit_kept (d : Dev) (k : Nat) : (d.startExit k).mem.bytes = d.mem.bytes ∧ (d.startExit k).cores = d.cores := by
  unfold Dev.startExit; dsimp only; repeat' split
  all_goals simp only [setRegF_kept, setPort_kept, setDom_kept, and_self]

@[simp] theorem dropSelf_kept (d : Dev) (l : Nat) : (d.dropSelf l).mem.bytes = d.mem.bytes ∧ (d.dropSelf l).cores = d.cores := by
  unfold Dev.dropSelf; dsimp only; split
  all_goals simp only [pwrResult_kept, and_self]

@[simp] theorem l1dFlush_kept (d : Dev) (p : Nat) : (d.l1dFlush p).mem.bytes = d.mem.bytes ∧ (d.l1dFlush p).cores = d.cores := by simp only [Dev.l1dFlush, and_self]
@[simp] theorem spindleFlush_kept (d : Dev) (p : Nat) : (d.spindleFlush p).mem.bytes = d.mem.bytes ∧ (d.spindleFlush p).cores = d.cores := by
  unfold Dev.spindleFlush
  exact foldl_kept _ (fun d line => by simp only [presClear_bytes, presClear_cores, l2Drop_bytes, l2Drop_cores, and_self]) _ d

@[simp] theorem auditChannel_kept (d : Dev) (m : Nat) : (d.auditChannel m).mem.bytes = d.mem.bytes ∧ (d.auditChannel m).cores = d.cores := by simp only [Dev.auditChannel, audit_kept, and_self]
@[simp] theorem channelDown_kept (d : Dev) (m : Nat) : (d.channelDown m).mem.bytes = d.mem.bytes ∧ (d.channelDown m).cores = d.cores := by simp only [Dev.channelDown, setRegF_kept, auditChannel_kept, and_self]
@[simp] theorem bundleDown_kept (d : Dev) (b : Nat) : (d.bundleDown b).mem.bytes = d.mem.bytes ∧ (d.bundleDown b).cores = d.cores := by simp only [Dev.bundleDown, setRegF_kept, updBun_kept, and_self]
@[simp] theorem bundleUp_kept (d : Dev) (b : Nat) : (d.bundleUp b).mem.bytes = d.mem.bytes ∧ (d.bundleUp b).cores = d.cores := by simp only [Dev.bundleUp, setRegF_kept, updBun_kept, and_self]
@[simp] theorem auditSteps_kept (d : Dev) (old : Nat → Nat) : (d.auditSteps old).mem.bytes = d.mem.bytes ∧ (d.auditSteps old).cores = d.cores := foldl_kept _ (fun d k => audit_kept ..) _ d
@[simp] theorem setTherm_kept (d : Dev) (die n : Nat) : (d.setTherm die n).mem.bytes = d.mem.bytes ∧ (d.setTherm die n).cores = d.cores := by simp only [Dev.setTherm, setRegF_kept, auditSteps_kept, and_self]
@[simp] theorem dieSample_kept (d : Dev) (die : Nat) (temp : ℤ) :
    (d.dieSample die temp).mem.bytes = d.mem.bytes ∧ (d.dieSample die temp).cores = d.cores := by
  unfold Dev.dieSample; dsimp only; repeat' split
  all_goals simp only [setTherm_kept, and_self]

@[simp] theorem hcStep_kept (d : Dev) (n : Nat) : (d.hcStep n).mem.bytes = d.mem.bytes ∧ (d.hcStep n).cores = d.cores := by
  have h := fun lines (d : Dev) => foldl_kept Dev.hcEvict (fun d line => ⟨hcEvict_bytes d line, hcEvict_cores d line⟩) lines d
  unfold Dev.hcStep
  dsimp only
  refine ite_kept ?_ (ite_kept ?_ ?_)
  · simp only [setRegF_kept, h, and_self]
  · simp only [setRegF_kept, and_self]
  · simp only [setRegF_kept, and_self]

@[simp] theorem limitStep_kept (d : Dev) (k lim watts : Nat) :
    (d.limitStep k lim watts).mem.bytes = d.mem.bytes ∧ (d.limitStep k lim watts).cores = d.cores := by
  unfold Dev.limitStep; dsimp only; repeat' split
  all_goals simp only [setRegF_kept, auditSteps_kept, and_self]


/-! ### Ways -/

@[simp] theorem takeFree_kept (d : Dev) : d.takeFree.1.mem.bytes = d.mem.bytes ∧ d.takeFree.1.cores = d.cores := by simp only [Dev.takeFree, and_self]
@[simp] theorem pdResult_kept (d : Dev) (u : Nat) (st : Status) : (d.pdResult u st).mem.bytes = d.mem.bytes ∧ (d.pdResult u st).cores = d.cores := by
  unfold Dev.pdResult; dsimp only; split
  all_goals simp only [setRegF_kept, count_kept, and_self]

@[simp] theorem pdProgress_kept (d : Dev) (u way done st : Nat) :
    (d.pdProgress u way done st).mem.bytes = d.mem.bytes ∧ (d.pdProgress u way done st).cores = d.cores := by simp only [Dev.pdProgress, setRegF_kept, and_self]
@[simp] theorem wayCmd_kept (d : Dev) (q : Requester) (u way : Nat) (down : Bool) :
    (d.wayCmd q u way down).mem.bytes = d.mem.bytes ∧ (d.wayCmd q u way down).cores = d.cores := by
  unfold Dev.wayCmd; dsimp only; repeat' split
  all_goals simp only [setRegF_kept, pdResult_kept, pdProgress_kept, and_self]

@[simp] theorem pdWrite_kept (d : Dev) (q : Requester) (u way op : Nat) :
    (d.pdWrite q u way op).mem.bytes = d.mem.bytes ∧ (d.pdWrite q u way op).cores = d.cores := by
  unfold Dev.pdWrite; repeat' split
  all_goals simp only [pdResult_kept, wayCmd_kept, and_self]

@[simp] theorem isolate_kept (d : Dev) (p : MeshPort) : (d.isolate p).mem.bytes = d.mem.bytes ∧ (d.isolate p).cores = d.cores := by
  unfold Dev.isolate; repeat' split
  all_goals simp only [setRegF_kept, hubDiscard_kept, and_self]

@[simp] theorem recordReclaim_bytes (d : Dev) (agent site : Nat) (lines : List Nat) : (d.recordReclaim agent site lines).mem.bytes = d.mem.bytes := by simp only [Dev.recordReclaim, record_bytes]

/-! ### Reel -/

@[simp] theorem updRel_kept (d : Dev) (f : Rel → Rel) : (d.updRel f).mem.bytes = d.mem.bytes ∧ (d.updRel f).cores = d.cores := by simp only [Dev.updRel, and_self]
@[simp] theorem takeSpare_kept (d : Dev) (p : Nat) : (d.takeSpare p).mem.bytes = d.mem.bytes ∧ (d.takeSpare p).cores = d.cores := by simp only [Dev.takeSpare, updRel_kept, and_self]
@[simp] theorem showSpares_kept (d : Dev) : d.showSpares.mem.bytes = d.mem.bytes ∧ d.showSpares.cores = d.cores := foldl_kept _ (fun d i => setRegF_kept ..) _ d
@[simp] theorem stopForReel_bytes (d : Dev) (l : Nat) : (d.stopForReel l).mem.bytes = d.mem.bytes := by
  unfold Dev.stopForReel; dsimp only; repeat' split
  all_goals simp only [unwait_bytes]

@[simp] theorem reelDue_bytes (d : Dev) (l cause : Nat) (retire : Bool) : (d.reelDue l cause retire).mem.bytes = d.mem.bytes := by
  unfold Dev.reelDue; repeat' split
  all_goals simp only [updRel_kept, stopForReel_bytes]

@[simp] theorem showReels_kept (d : Dev) : d.showReels.mem.bytes = d.mem.bytes ∧ d.showReels.cores = d.cores := by simp only [Dev.showReels, setRegF_kept, and_self]
@[simp] theorem undue_kept (d : Dev) (l : Nat) : (d.undue l).mem.bytes = d.mem.bytes ∧ (d.undue l).cores = d.cores := by simp only [Dev.undue, updRel_kept, and_self]
@[simp] theorem setReel_kept (d : Dev) (l : Nat) (r : Option Reel) : (d.setReel l r).mem.bytes = d.mem.bytes ∧ (d.setReel l r).cores = d.cores := by simp only [Dev.setReel, updRel_kept, showReels_kept, and_self]
@[simp] theorem notifySpares_bytes (d : Dev) (die : Nat) : (d.notifySpares die).mem.bytes = d.mem.bytes := by
  unfold Dev.notifySpares; dsimp only; repeat' split
  all_goals simp only [budgetLow_bytes]

@[simp] theorem releaseHeld_bytes (d : Dev) (l : Nat) : (d.releaseHeld l).mem.bytes = d.mem.bytes := by
  unfold Dev.releaseHeld
  dsimp only
  rw [foldl_bytes]
  exact deliverVec_bytes

@[simp] theorem retireIdle_bytes (d : Dev) (p : Nat) : (d.retireIdle p).mem.bytes = d.mem.bytes := by
  unfold Dev.retireIdle; dsimp only; split
  all_goals simp only [useBudget_bytes, updRel_kept, showSpares_kept, notifySpares_bytes]

@[simp] theorem dieCachesGone_kept (d : Dev) (die : Nat) : (d.dieCachesGone die).mem.bytes = d.mem.bytes ∧ (d.dieCachesGone die).cores = d.cores := by simp only [Dev.dieCachesGone, and_self]
@[simp] theorem tellExhausted_bytes (d : Dev) (key kind site : Nat) : (d.tellExhausted key kind site).mem.bytes = d.mem.bytes := by
  unfold Dev.tellExhausted; repeat' split
  all_goals simp only [budgetLow_bytes, updRel_kept]

@[simp] theorem retireRow_bytes (d : Dev) (e : ArrayError) : (d.retireRow e).mem.bytes = d.mem.bytes := by
  unfold Dev.retireRow; dsimp only; split
  all_goals simp only [record_bytes, useBudget_bytes, takeFree_kept, updRel_kept, tellExhausted_bytes]

@[simp] theorem retireDirWay_bytes (d : Dev) (sl way : Nat) : (d.retireDirWay sl way).mem.bytes = d.mem.bytes := by
  unfold Dev.retireDirWay
  simp only [record_bytes]
  refine foldl_bytes _ (fun d e => ?_) _ d
  split
  · simp only [dirWriteBack_bytes]
  · rfl

@[simp] theorem retireCtxWay_bytes (d : Dev) (way : Nat) : (d.retireCtxWay way).mem.bytes = d.mem.bytes := by
  unfold Dev.retireCtxWay
  simp only [record_bytes]
  rw [foldl_bytes]
  intro d w
  split
  · simp only [ctxUse_kept, ctxLineTouch_kept]
  · simp only [ctxLineTouch_kept]

@[simp] theorem arrayPoison_bytes (d : Dev) (e : ArrayError) (site unit : Nat) : (d.arrayPoison e site unit).mem.bytes = d.mem.bytes := by
  unfold Dev.arrayPoison; dsimp only; repeat' split
  all_goals simp only [linePoisoned_bytes]


/-! ### Pins -/

@[simp] theorem orderStep_kept (d : Dev) (r step : Nat) : (d.orderStep r step).mem.bytes = d.mem.bytes ∧ (d.orderStep r step).cores = d.cores := by simp only [Dev.orderStep, emit_kept, and_self]
@[simp] theorem applyStep_bytes (d : Dev) (r step : Nat) : (d.applyStep r step).mem.bytes = d.mem.bytes := by
  unfold Dev.applyStep; dsimp only; split
  all_goals simp only [setRegF_kept, record_bytes, useBudget_bytes, tellExhausted_bytes]

@[simp] theorem missStep_kept (d : Dev) (r step : Nat) : (d.missStep r step).mem.bytes = d.mem.bytes ∧ (d.missStep r step).cores = d.cores := by simp only [Dev.missStep, audit_kept, and_self]
@[simp] theorem raiseTo_bytes (d : Dev) (r goal : Nat) (acked : Bool) (z : Nat) : (d.raiseTo r goal acked z).mem.bytes = d.mem.bytes := by
  induction z generalizing d with
  | zero => rfl
  | succ n ih =>
    unfold Dev.raiseTo
    refine ite_bytes rfl (ite_bytes ?_ ?_)
    · simp only [ih, applyStep_bytes, orderStep_kept]
    · simp only [missStep_kept, orderStep_kept]

@[simp] theorem earlyReel_bytes (d : Dev) (p : Nat) : (d.earlyReel p).mem.bytes = d.mem.bytes := by
  unfold Dev.earlyReel; repeat' split
  all_goals simp only [reelDue_bytes]

@[simp] theorem setPulse_kept (d : Dev) (k : Nat) (b : Bool) : (d.setPulse k b).mem.bytes = d.mem.bytes ∧ (d.setPulse k b).cores = d.cores := by simp only [Dev.setPulse, emit_kept, and_self]
@[simp] theorem traceOut_kept (d : Dev) (bs : List Byte) : (d.traceOut bs).mem.bytes = d.mem.bytes ∧ (d.traceOut bs).cores = d.cores := by simp only [Dev.traceOut, emit_kept, and_self]

/-! ### DstCmd -/

@[simp] theorem ends_kept (d : Dev) (st : Status) : (d.ends st).dev.mem.bytes = d.mem.bytes ∧ (d.ends st).dev.cores = d.cores := by simp only [Dev.ends, and_self]
@[simp] theorem sessionUsed_kept (d : Dev) (who : Caller) : (d.sessionUsed who).mem.bytes = d.mem.bytes ∧ (d.sessionUsed who).cores = d.cores := by simp only [Dev.sessionUsed, updDst_kept, and_self]
@[simp] theorem countState_kept (d : Dev) (code : Nat) : (d.countState code).mem.bytes = d.mem.bytes ∧ (d.countState code).cores = d.cores := by
  unfold Dev.countState; dsimp only; repeat' split
  all_goals simp only [count_kept, and_self]

@[simp] theorem noteImg_kept (d : Dev) (code : Nat) (st : Status) :
    (d.noteImg code st).mem.bytes = d.mem.bytes ∧ (d.noteImg code st).cores = d.cores := by
  unfold Dev.noteImg; repeat' split
  all_goals simp only [setRegF_kept, and_self]

@[simp] theorem freeBytes_kept (d : Dev) (z : Nat) : (d.freeBytes z).1.mem.bytes = d.mem.bytes ∧ (d.freeBytes z).1.cores = d.cores := by
  induction z generalizing d with
  | zero => exact ⟨rfl, rfl⟩
  | succ n ih =>
    unfold Dev.freeBytes
    simp only [ih, takeFree_kept, and_self]

@[simp] theorem endSession_kept (d : Dev) (p : Session → Bool) : (d.endSession p).mem.bytes = d.mem.bytes ∧ (d.endSession p).cores = d.cores := by simp only [Dev.endSession, updDst_kept, and_self]
@[simp] theorem authFailed_kept (d : Dev) (k : Nat) : (d.authFailed k).mem.bytes = d.mem.bytes ∧ (d.authFailed k).cores = d.cores := by simp only [Dev.authFailed, updDst_kept, and_self]
@[simp] theorem rlState_kept (d : Dev) : d.rlState.dev.mem.bytes = d.mem.bytes ∧ d.rlState.dev.cores = d.cores := by simp only [Dev.rlState, count_kept, ends_kept, and_self]
theorem serveAs_bytes {d : Dev} {who : Caller} {c : Cmd} {kind : Nat} {as_ : Option (Nat × Nat)} {sound : Bool} {may : Option Session → Bool}
    {arg : List Byte} {act : Dev → Done} (h : ∀ d, (act d).dev.mem.bytes = d.mem.bytes) :
    (d.serveAs who c kind as_ sound may arg act).mem.bytes = d.mem.bytes := by
  unfold Dev.serveAs
  dsimp only
  repeat' split
  all_goals simp only [answerTo_bytes, sessionUsed_kept, noteImg_kept, countState_kept, count_kept, h]

theorem serve_bytes {d : Dev} {who : Caller} {c : Cmd} {may : Option Session → Bool} {arg : List Byte} {act : Dev → Done}
    (h : ∀ d, (act d).dev.mem.bytes = d.mem.bytes) : (d.serve who c may arg act).mem.bytes = d.mem.bytes := serveAs_bytes h

@[simp] theorem rlReel_bytes (d : Dev) (caller : Caller) (code l : Nat) (retire : Bool) : (d.rlReel caller code l retire).mem.bytes = d.mem.bytes := by
  unfold Dev.rlReel
  refine serve_bytes fun d => ?_
  dsimp only
  repeat' split
  all_goals simp only [ends_kept, rlState_kept, updRel_kept, reelDue_bytes]

@[simp] theorem mbxDoorbell_kept (d : Dev) (q : Requester) (sk : Nat) (v : Reg32) :
    (d.mbxDoorbell q sk v).mem.bytes = d.mem.bytes ∧ (d.mbxDoorbell q sk v).cores = d.cores := by
  unfold Dev.mbxDoorbell; dsimp only; repeat' split
  all_goals simp only [setRegF_kept, count_kept, and_self]

@[simp] theorem setShed_bytes (d : Dev) (n : Nat) : (d.setShed n).mem.bytes = d.mem.bytes := by
  have h := fun ns (d : Dev) => foldl_bytes (fun (d : Dev) (x : Nat × Nat × Nat) => d.budgetLow x.1 x.2.1 x.2.2) (fun d x => budgetLow_bytes ..) ns d
  unfold Dev.setShed
  dsimp only
  split
  · rfl
  · split
    · simp only [h, updDst_kept, audit_kept, setRegF_kept]
    · simp only [audit_kept, setRegF_kept]


/-! ### Mesh -/

@[simp] theorem setLink_kept (d : Dev) (die hi lo v : Nat) :
    (d.setLink die hi lo v).mem.bytes = d.mem.bytes ∧ (d.setLink die hi lo v).cores = d.cores := by simp only [Dev.setLink, setRegF_kept, and_self]
@[simp] theorem gstSet_kept (d : Dev) (g st : Nat) (r : Option Status) :
    (d.gstSet g st r).mem.bytes = d.mem.bytes ∧ (d.gstSet g st r).cores = d.cores := by
  unfold Dev.gstSet; dsimp only; split
  all_goals simp only [setRegF_kept, and_self]

@[simp] theorem gstWidth_kept (d : Dev) (g rate modules : Nat) (x64 : Bool) :
    (d.gstWidth g rate modules x64).mem.bytes = d.mem.bytes ∧ (d.gstWidth g rate modules x64).cores = d.cores := by simp only [Dev.gstWidth, setRegF_kept, and_self]
@[simp] theorem gstTrain_kept (d : Dev) (g : Nat) (r : GuestResult) : (d.gstTrain g r).mem.bytes = d.mem.bytes ∧ (d.gstTrain g r).cores = d.cores := by
  unfold Dev.gstTrain; repeat' split
  all_goals simp only [gstSet_kept, gstWidth_kept, and_self]

theorem gstCmd_kept {d : Dev} {q : Requester} {g cmd : Nat} {f : Dev → Dev} (h : (f d).mem.bytes = d.mem.bytes ∧ (f d).cores = d.cores) :
    (d.gstCmd q g cmd f).mem.bytes = d.mem.bytes ∧ (d.gstCmd q g cmd f).cores = d.cores := by
  unfold Dev.gstCmd
  refine ite_kept ⟨rfl, rfl⟩ (ite_kept (gstSet_kept ..) ?_)
  split
  · exact h
  · simp only [count_kept, gstSet_kept, and_self]
  · exact gstSet_kept ..

@[simp] theorem gstDo_kept (d : Dev) (q : Requester) (g cmd : Nat) (result : GuestResult) :
    (d.gstDo q g cmd result).mem.bytes = d.mem.bytes ∧ (d.gstDo q g cmd result).cores = d.cores := by
  unfold Dev.gstDo
  split
  · exact ⟨rfl, rfl⟩
  · refine gstCmd_kept ?_
    dsimp only
    split
    all_goals simp only [gstSet_kept, setReg64_kept, gstWidth_kept, and_self]
  · refine gstCmd_kept (ite_kept ?_ ?_)
    all_goals simp only [gstSet_kept, gstTrain_kept, and_self]
  · exact gstCmd_kept (gstTrain_kept ..)
  · refine gstCmd_kept ?_
    simp only [gstSet_kept, gstWidth_kept, and_self]
  · refine ite_kept ⟨rfl, rfl⟩ ?_
    simp only [gstSet_kept, and_self]


/-! ### Dram -/

@[simp] theorem updCh_kept (d : Dev) (m : Nat) (f : DramCh → DramCh) : (d.updCh m f).mem.bytes = d.mem.bytes ∧ (d.updCh m f).cores = d.cores := by simp only [Dev.updCh, and_self]
@[simp] theorem eccLast_kept (d : Dev) (m line dev : Nat) (ue : Bool) :
    (d.eccLast m line dev ue).mem.bytes = d.mem.bytes ∧ (d.eccLast m line dev ue).cores = d.cores := by simp only [Dev.eccLast, setReg_kept, and_self]
@[simp] theorem eccCorrected_bytes (d : Dev) (m line dev : Nat) : (d.eccCorrected m line dev).mem.bytes = d.mem.bytes := by
  unfold Dev.eccCorrected
  refine ite_bytes ?_ (ite_bytes ?_ ?_)
  · simp only [eccLast_kept, count_kept]
  · simp only [record_bytes, takeFree_kept, setRegF_kept, updCh_kept, eccLast_kept, count_kept]
  · simp only [updCh_kept, eccLast_kept, count_kept]

theorem sameBytes_stale {e d : Dev} (h : e.SameBytes d) (x : List (Nat × Option StaleLine)) : ({ e with mem := { e.mem with stale := x } }).SameBytes d := h

theorem keepBytes_eccUncorrectable : KeepBytes Dev.eccUncorrectable := by
  delta Dev.eccUncorrectable
  refine keepBytes_of fun d m line => ?_
  have h : ((d.count (Reg.MC_ECC_UE m)).eccLast m line 0xF true).SameBytes d := (eccLast_kept ..).1.trans (count_kept ..).1
  conv => arg 1; whnf
  split
  · exact h
  · split
    · exact sameBytes_stale h _
    · exact (linePoisoned_bytes ..).trans h

@[simp] theorem eccUncorrectable_bytes (d : Dev) (m line : Nat) : (d.eccUncorrectable m line).mem.bytes = d.mem.bytes := keepBytes_eccUncorrectable d m line
@[simp] theorem pprAdd_kept (d : Dev) (m lo : Nat) : (d.pprAdd m lo).mem.bytes = d.mem.bytes ∧ (d.pprAdd m lo).cores = d.cores := by simp only [Dev.pprAdd, setRegF_kept, and_self]
@[simp] theorem hardRepair_bytes (d : Dev) (m : Nat) (r : RowAddr) : (d.hardRepair m r).mem.bytes = d.mem.bytes := by
  unfold Dev.hardRepair; repeat' split
  all_goals simp only [record_bytes, useBudget_bytes, updCh_kept, pprAdd_kept]

@[simp] theorem goLive_kept (d : Dev) (m : Nat) (sub : Option Nat) : (d.goLive m sub).mem.bytes = d.mem.bytes ∧ (d.goLive m sub).cores = d.cores := foldl_kept _ (fun d a => by
    dsimp only
    exact ite_kept (setReg_kept ..) ⟨rfl, rfl⟩) _ d

@[simp] theorem mcResult_kept (d : Dev) (m : Nat) (st : Status) : (d.mcResult m st).mem.bytes = d.mem.bytes ∧ (d.mcResult m st).cores = d.cores := by
  unfold Dev.mcResult; dsimp only; split
  all_goals simp only [setRegF_kept, count_kept, and_self]

@[simp] theorem mcApply_kept (d : Dev) (m : Nat) : (d.mcApply m).mem.bytes = d.mem.bytes ∧ (d.mcApply m).cores = d.cores := by
  unfold Dev.mcApply; dsimp only; repeat' split
  all_goals simp only [setRegF_kept, updCh_kept, goLive_kept, mcResult_kept, and_self]

@[simp] theorem mcCheck_kept (d : Dev) (m : Nat) : (d.mcCheck m).mem.bytes = d.mem.bytes ∧ (d.mcCheck m).cores = d.cores := by
  unfold Dev.mcCheck; repeat' split
  all_goals simp only [mcResult_kept, and_self]

@[simp] theorem mcDo_kept (d : Dev) (m op : Nat) : (d.mcDo m op).mem.bytes = d.mem.bytes ∧ (d.mcDo m op).cores = d.cores := by
  unfold Dev.mcDo; repeat' split
  all_goals simp only [mcResult_kept, mcApply_kept, mcCheck_kept, and_self]

@[simp] theorem recordDrift_bytes (d : Dev) (m off steps : Nat) : (d.recordDrift m off steps).mem.bytes = d.mem.bytes := by simp only [Dev.recordDrift, record_bytes, takeFree_kept]
theorem sameBytes_foldl {α : Type} {f : Dev → α → Dev} (h : ∀ d x, (f d x).SameBytes d) (xs : List α) (d : Dev) : (xs.foldl f d).SameBytes d :=
  foldl_bytes f h xs d

theorem Dev.SameBytes.trans {a b c : Dev} (h : a.SameBytes b) (k : b.SameBytes c) : a.SameBytes c := Eq.trans h k

theorem sameBytes_driftDone (d : Dev) (m : Nat) (drifts : List DriftSample) : (d.driftDone m drifts).SameBytes d := by
  unfold Dev.driftDone
  extract_lets d1 ds d2 far offs d3 d4
  have h1 : d1.SameBytes d := (mcCheck_kept ..).1.trans (updCh_kept ..).1
  have h2 : d2.SameBytes d1 := by
    refine sameBytes_foldl (fun d x => ?_) _ _
    dsimp only
    split
    · exact (setReg_kept ..).1
    · exact rfl
  have h3 : d3.SameBytes d2 := (setRegF_kept ..).1
  have h4 : d4.SameBytes d3 := by
    refine sameBytes_foldl (fun d x => ?_) _ _
    split
    · exact recordDrift_bytes ..
    · exact rfl
  exact .trans (mcApply_kept ..).1 (h4.trans (h3.trans (h2.trans h1)))

@[simp] theorem driftDone_bytes (d : Dev) (m : Nat) (drifts : List DriftSample) : (d.driftDone m drifts).mem.bytes = d.mem.bytes := sameBytes_driftDone d m drifts
/-- A delay register of memory controller `m` after training: what the training found, where the register is a delay. -/
def Dev.delayTrained (m : Nat) (d : Dev) (x : BitVec 16 × BitVec 32) : Dev :=
  if (delayOff m (Reg.MC_ID m + x.1.toNat)).isSome then d.setReg (Reg.MC_ID m + x.1.toNat) (delayLive x.1.toNat x.2) else d

/-- The mark of a lane of memory controller `m` after training. -/
def Dev.markTrained (m : Nat) (d : Dev) (x : Fin 8 × Fin 10) : Dev := d.setRegF (Reg.MC_MARK m) (4 * x.1.val + 3) (4 * x.1.val) x.2.val

/-- The channel of controller `m` with its delay registers as the reference that drift is measured from. -/
def Dev.refTrained (d : Dev) (m : Nat) (c : DramCh) : DramCh :=
  { c with ref := (d.delayRegs m).foldl (fun t a => mset 0#32 t (a - Reg.MC_ID m) (d.reg a)) [] }

theorem trained_steps (d : Dev) (m : Nat) (r : DramTrain) : d.trained m r =
    r.marks.foldl (Dev.markTrained m) ((r.delays.foldl (Dev.delayTrained m) d).updCh m ((r.delays.foldl (Dev.delayTrained m) d).refTrained m)) := rfl

@[simp] theorem trained_kept (d : Dev) (m : Nat) (r : DramTrain) : (d.trained m r).mem.bytes = d.mem.bytes ∧ (d.trained m r).cores = d.cores := by
  have h1 := foldl_kept (Dev.delayTrained m) (fun d x => ite_kept (setReg_kept ..) ⟨rfl, rfl⟩) r.delays d
  have h2 := fun d => foldl_kept (Dev.markTrained m) (fun d x => setRegF_kept ..) r.marks d
  rw [trained_steps, (h2 _).1, (h2 _).2, (updCh_kept ..).1, (updCh_kept ..).2]
  exact h1


/-! ### Pcie -/

@[simp] theorem setPceState_kept (d : Dev) (b st : Nat) : (d.setPceState b st).mem.bytes = d.mem.bytes ∧ (d.setPceState b st).cores = d.cores := by simp only [Dev.setPceState, setRegF_kept, and_self]
@[simp] theorem pceResult_kept (d : Dev) (b : Nat) (st : Status) : (d.pceResult b st).mem.bytes = d.mem.bytes ∧ (d.pceResult b st).cores = d.cores := by
  unfold Dev.pceResult; repeat' split
  all_goals simp only [setRegF_kept, count_kept, and_self]

@[simp] theorem pceSignal_bytes (d : Dev) (b : Fin 8) : (d.pceSignal b).mem.bytes = d.mem.bytes := by
  unfold Dev.pceSignal; dsimp only; split
  all_goals simp only [doorbell_bytes]

@[simp] theorem linkGone_kept (d : Dev) (b : Nat) : (d.linkGone b).mem.bytes = d.mem.bytes ∧ (d.linkGone b).cores = d.cores := by
  unfold Dev.linkGone; repeat' split
  all_goals simp only [setRegF_kept, count_kept, updBun_kept, and_self]

@[simp] theorem pceDo_kept (d : Dev) (q : Requester) (b cmd : Nat) : (d.pceDo q b cmd).mem.bytes = d.mem.bytes ∧ (d.pceDo q b cmd).cores = d.cores := by
  unfold Dev.pceDo; dsimp only; repeat' split
  all_goals simp only [setRegF_kept, setPceState_kept, pceResult_kept, and_self]

@[simp] theorem setMgrF_kept (d : Dev) (b off hi lo v : Nat) :
    (d.setMgrF b off hi lo v).mem.bytes = d.mem.bytes ∧ (d.setMgrF b off hi lo v).cores = d.cores := by simp only [Dev.setMgrF, setBarF_kept, and_self]
@[simp] theorem mgrSignal_kept (d : Dev) (b : Nat) : (d.mgrSignal b).mem.bytes = d.mem.bytes ∧ (d.mgrSignal b).cores = d.cores := by
  unfold Dev.mgrSignal; dsimp only; split
  all_goals simp only [msix_kept, and_self]

@[simp] theorem mgrPend_kept (d : Dev) (b base v : Nat) : (d.mgrPend b base v).mem.bytes = d.mem.bytes ∧ (d.mgrPend b base v).cores = d.cores := by simp only [Dev.mgrPend, setMgrF_kept, mgrSignal_kept, and_self]
@[simp] theorem dropChanPosts_kept (d : Dev) (k : Nat) : (d.dropChanPosts k).mem.bytes = d.mem.bytes ∧ (d.dropChanPosts k).cores = d.cores := by
  unfold Dev.dropChanPosts
  dsimp only
  exact foldl_kept _ (fun d p => by simp only [serveGrants_kept, count_kept, updQ_kept, and_self]) _
    { d with bq := { d.bq with posts := d.bq.posts.filter fun p => !(match p.poster with | .chan c _ => c / 8 == k | _ => false) } }

@[simp] theorem resetChans_kept (d : Dev) (k : Nat) : (d.resetChans k).mem.bytes = d.mem.bytes ∧ (d.resetChans k).cores = d.cores := by
  have h := fun (d : Dev) => foldl_kept (fun (d : Dev) c => d.unregister (.drain (k * 8 + c))) (fun d c => unregister_kept ..) (List.range 8) d
  unfold Dev.resetChans
  simp only [updFn_kept, dropChanPosts_kept, h, countN_kept, and_self]

@[simp] theorem flrStart_bytes (d : Dev) (k : Nat) : (d.flrStart k).mem.bytes = d.mem.bytes := by
  have h := fun ns (d : Dev) => foldl_bytes (fun (d : Dev) n => d.flushSet n) (fun d n => (flushSet_kept ..).1) ns d
  unfold Dev.flrStart
  dsimp only
  split
  · rfl
  · simp only [count_kept, h, resetChans_kept, updFn_kept, dropDelta_bytes]

@[simp] theorem vfDestroy_bytes (d : Dev) (k : Nat) : (d.vfDestroy k).mem.bytes = d.mem.bytes := by
  unfold Dev.vfDestroy; repeat' split
  all_goals simp only [updFn_kept, flrStart_bytes]

@[simp] theorem vfDisable_bytes (d : Dev) (b : Nat) : (d.vfDisable b).mem.bytes = d.mem.bytes := by
  unfold Dev.vfDisable
  rw [foldl_bytes]
  · simp only [updBun_kept]
  · exact vfDestroy_bytes

@[simp] theorem mgrReset_kept (d : Dev) (b : Nat) : (d.mgrReset b).mem.bytes = d.mem.bytes ∧ (d.mgrReset b).cores = d.cores := by
  unfold Dev.mgrReset; dsimp only; split
  all_goals simp only [updBun_kept, setMgrF_kept, and_self]

@[simp] theorem pfReset_bytes (d : Dev) (b : Nat) : (d.pfReset b).mem.bytes = d.mem.bytes := by simp only [Dev.pfReset, flrStart_bytes, vfDisable_bytes, mgrReset_kept]
@[simp] theorem bundleReset_bytes (d : Dev) (b : Nat) : (d.bundleReset b).mem.bytes = d.mem.bytes := by simp only [Dev.bundleReset, updBun_kept, linkGone_kept, pfReset_bytes]
@[simp] theorem vfFree_kept (d : Dev) (k : Nat) : (d.vfFree k).mem.bytes = d.mem.bytes ∧ (d.vfFree k).cores = d.cores := by
  have h := fun (f : Nat → QCtx → QCtx) ns (d : Dev) => foldl_kept (fun (d : Dev) n => d.updQ n (f n)) (fun d n => updQ_kept ..) ns d
  unfold Dev.vfFree
  dsimp only
  split
  · split
    · simp only [setMgrF_kept, updBun_kept, updFn_kept]
      exact foldl_kept _ (fun d n => updQ_kept ..) _ d
    · simp only [updFn_kept]
      exact foldl_kept _ (fun d n => updQ_kept ..) _ d
  · simp only [updFn_kept]
    exact foldl_kept _ (fun d n => updQ_kept ..) _ d

@[simp] theorem cfgReset_kept (d : Dev) (k : Nat) : (d.cfgReset k).mem.bytes = d.mem.bytes ∧ (d.cfgReset k).cores = d.cores := by simp only [Dev.cfgReset, updBun_kept, and_self]
@[simp] theorem mbxClear_kept (d : Dev) (k : Nat) : (d.mbxClear k).mem.bytes = d.mem.bytes ∧ (d.mbxClear k).cores = d.cores := by simp only [Dev.mbxClear, updFn_kept, and_self]
@[simp] theorem flrEnd_kept (d : Dev) (k : Nat) : (d.flrEnd k).mem.bytes = d.mem.bytes ∧ (d.flrEnd k).cores = d.cores := by
  unfold Dev.flrEnd; dsimp only; repeat' split
  all_goals simp only [updFn_kept, mgrPend_kept, vfFree_kept, cfgReset_kept, mbxClear_kept, and_self]

@[simp] theorem flrWrite_bytes (d : Dev) (k : Nat) : (d.flrWrite k).mem.bytes = d.mem.bytes := by
  unfold Dev.flrWrite; repeat' split
  all_goals simp only [flrStart_bytes, pfReset_bytes]

@[simp] theorem vfEnable_kept (d : Dev) (b n : Nat) : (d.vfEnable b n).mem.bytes = d.mem.bytes ∧ (d.vfEnable b n).cores = d.cores := by
  have h := fun ns (d : Dev) => foldl_kept (fun (d : Dev) v => d.updFn (fnKey b (v + 1)) fun f => if f.vst = .absent then { f with vst := .empty } else f)
    (fun d v => updFn_kept ..) ns d
  unfold Dev.vfEnable
  refine ite_kept ⟨rfl, rfl⟩ ?_
  simp only [h, updBun_kept, and_self]

@[simp] theorem vfEnableOff_bytes (d : Dev) (b : Nat) : (d.vfEnableOff b).mem.bytes = d.mem.bytes := by
  unfold Dev.vfEnableOff; repeat' split
  all_goals simp only [vfDisable_bytes]

@[simp] theorem mgrResult_kept (d : Dev) (b : Nat) (st : Status) : (d.mgrResult b st).mem.bytes = d.mem.bytes ∧ (d.mgrResult b st).cores = d.cores := by
  unfold Dev.mgrResult; dsimp only; split
  all_goals simp only [setMgrF_kept, and_self]

theorem mgrCmd_bytes {d : Dev} {b : Nat} {f : Nat → Dev → Dev} (h : ∀ k d, (f k d).mem.bytes = d.mem.bytes) :
    (d.mgrCmd b f).mem.bytes = d.mem.bytes := by
  unfold Dev.mgrCmd
  dsimp only
  repeat' split
  all_goals simp only [mgrResult_kept, h, updBun_kept]

@[simp] theorem vfmDo_bytes (d : Dev) (b cmd : Nat) : (d.vfmDo b cmd).mem.bytes = d.mem.bytes := by
  unfold Dev.vfmDo
  split
  · rfl
  · refine mgrCmd_bytes fun k d => ?_
    repeat' split
    all_goals simp only [mgrResult_kept, updFn_kept]
  · refine mgrCmd_bytes fun k d => ?_
    split
    all_goals simp only [mgrResult_kept, vfDestroy_bytes, setMgrF_kept, updBun_kept]
  · refine mgrCmd_bytes fun k d => ?_
    simp only [mgrResult_kept, setMgrF_kept]
  · split
    · rfl
    · simp only [mgrResult_kept]

@[simp] theorem msixSweep_kept (d : Dev) (k : Nat) : (d.msixSweep k).mem.bytes = d.mem.bytes ∧ (d.msixSweep k).cores = d.cores := foldl_kept _ (fun d v => msixFlush_kept ..) _ d
@[simp] theorem fnUnmask_kept (d : Dev) (k : Nat) : (d.fnUnmask k).mem.bytes = d.mem.bytes ∧ (d.fnUnmask k).cores = d.cores := by
  unfold Dev.fnUnmask; repeat' split
  all_goals simp only [updFn_kept, msixSweep_kept, and_self]

@[simp] theorem vecMask_kept (d : Dev) (k vec : Nat) (m : Bool) :
    (d.vecMask k vec m).mem.bytes = d.mem.bytes ∧ (d.vecMask k vec m).cores = d.cores := by
  unfold Dev.vecMask; repeat' split
  all_goals simp only [updFn_kept, msixFlush_kept, and_self]

@[simp] theorem putWords_kept (d : Dev) (k off : Nat) (ws : List Reg32) :
    (d.putWords k off ws).mem.bytes = d.mem.bytes ∧ (d.putWords k off ws).cores = d.cores := foldl_kept _ (fun d i => setBar_kept ..) _ d
@[simp] theorem vfSignal_kept (d : Dev) (k : Nat) : (d.vfSignal k).mem.bytes = d.mem.bytes ∧ (d.vfSignal k).cores = d.cores := by simp only [Dev.vfSignal, msix_kept, and_self]
@[simp] theorem mbxSignal_kept (d : Dev) (k : Nat) (pf : Bool) : (d.mbxSignal k pf).mem.bytes = d.mem.bytes ∧ (d.mbxSignal k pf).cores = d.cores := by
  unfold Dev.mbxSignal; repeat' split
  all_goals simp only [mgrPend_kept, vfSignal_kept, and_self]

@[simp] theorem mbxResult_kept (d : Dev) (k : Nat) (pf : Bool) (st : Status) :
    (d.mbxResult k pf st).mem.bytes = d.mem.bytes ∧ (d.mbxResult k pf st).cores = d.cores := by
  unfold Dev.mbxResult; repeat' split
  all_goals simp only [count_kept, setBarF_kept, and_self]

@[simp] theorem mbxSend_kept (d : Dev) (k : Nat) (pf : Bool) : (d.mbxSend k pf).mem.bytes = d.mem.bytes ∧ (d.mbxSend k pf).cores = d.cores := by
  unfold Dev.mbxSend; dsimp only; repeat' split
  all_goals simp only [updFn_kept, setBarF_kept, putWords_kept, mbxSignal_kept, mbxResult_kept, and_self]

@[simp] theorem mbxAck_kept (d : Dev) (k : Nat) (pf : Bool) : (d.mbxAck k pf).mem.bytes = d.mem.bytes ∧ (d.mbxAck k pf).cores = d.cores := by
  unfold Dev.mbxAck; dsimp only; repeat' split
  all_goals simp only [setBarF_kept, mbxSignal_kept, mbxResult_kept, and_self]

@[simp] theorem devReply_kept (d : Dev) (k : Nat) (w : Reg32) : (d.devReply k w).mem.bytes = d.mem.bytes ∧ (d.devReply k w).cores = d.cores := by simp only [Dev.devReply, updFn_kept, setBarF_kept, putWords_kept, vfSignal_kept, and_self]
@[simp] theorem dlogDo_kept (d : Dev) (k cmd : Nat) : (d.dlogDo k cmd).mem.bytes = d.mem.bytes ∧ (d.dlogDo k cmd).cores = d.cores := by
  unfold Dev.dlogDo; dsimp only; repeat' split
  all_goals simp only [count_kept, setBarF_kept, and_self]


/-! ### ImgUnit -/

@[simp] theorem setCopy_kept (d : Dev) (b : Bool) (c : ImgCopy) : (d.setCopy b c).mem.bytes = d.mem.bytes ∧ (d.setCopy b c).cores = d.cores := by simp only [Dev.setCopy, setReg_kept, and_self]
@[simp] theorem setImgUnit_kept (d : Dev) (u : ImgUnitState) : (d.setImgUnit u).mem.bytes = d.mem.bytes ∧ (d.setImgUnit u).cores = d.cores := by simp only [Dev.setImgUnit, setRegF_kept, and_self]
@[simp] theorem setDeltaSeq_kept (d : Dev) (n : Nat) : (d.setDeltaSeq n).mem.bytes = d.mem.bytes ∧ (d.setDeltaSeq n).cores = d.cores := by simp only [Dev.setDeltaSeq, setReg_kept, and_self]
@[simp] theorem imgEnds_kept (d : Dev) (st : Status) (data : List Byte) :
    (d.imgEnds st data).dev.mem.bytes = d.mem.bytes ∧ (d.imgEnds st data).dev.cores = d.cores := by
  unfold Dev.imgEnds; dsimp only; repeat' split
  all_goals simp only [setRegF_kept, count_kept, and_self]

@[simp] theorem imgBegin_kept (d : Dev) (j : ImgJob) : (d.imgBegin j).dev.mem.bytes = d.mem.bytes ∧ (d.imgBegin j).dev.cores = d.cores := by
  unfold Dev.imgBegin; dsimp only; repeat' split
  all_goals simp only [setCopy_kept, setImgUnit_kept, and_self]

@[simp] theorem imgTick_bytes (d : Dev) : d.imgTick.mem.bytes = d.mem.bytes := by
  unfold Dev.imgTick; dsimp only; repeat' split
  all_goals simp only [jobAnswer_bytes, setCopy_kept, setImgUnit_kept]

@[simp] theorem auditStraps_kept (d : Dev) (i : Image) : (d.auditStraps i).mem.bytes = d.mem.bytes ∧ (d.auditStraps i).cores = d.cores := foldl_kept _ (fun d e => audit_kept ..) _ d
@[simp] theorem checkObject_kept (d : Dev) (v : ImgVerdict) (r : List Byte) :
    (d.checkObject v r).1.mem.bytes = d.mem.bytes ∧ (d.checkObject v r).1.cores = d.cores := by
  unfold Dev.checkObject; repeat' split
  all_goals simp only [auditStraps_kept, and_self]

@[simp] theorem programTune_kept (d : Dev) (c : SkeinCfg) : (d.programTune c).mem.bytes = d.mem.bytes ∧ (d.programTune c).cores = d.cores := by
  have h := fun (a b : Reg32) (d : Dev) => foldl_kept (fun (d : Dev) i => (d.setReg (Reg.MESH_SK_SHARE_A i c.skein) a).setReg (Reg.MESH_SK_SHARE_B i c.skein) b)
    (fun d i => by simp only [setReg_kept, and_self]) (List.range 16) d
  unfold Dev.programTune
  simp only [h, setReg_kept, and_self]

@[simp] theorem tunables_kept (d : Dev) (i : Image) : (d.tunables i).mem.bytes = d.mem.bytes ∧ (d.tunables i).cores = d.cores := foldl_kept _ programTune_kept _ d
@[simp] theorem runImage_kept (d : Dev) (r : List Byte) : (d.runImage r).mem.bytes = d.mem.bytes ∧ (d.runImage r).cores = d.cores := by simp only [Dev.runImage, tunables_kept, and_self]
@[simp] theorem programMap_kept (d : Dev) (i : Image) : (d.programMap i).mem.bytes = d.mem.bytes ∧ (d.programMap i).cores = d.cores := by
  refine foldl_kept _ (fun d n => ?_) _ d
  split
  · exact ⟨rfl, rfl⟩
  · simp only [setReg_kept, and_self]

@[simp] theorem programIsolation_kept (d : Dev) (i : Image) :
    (d.programIsolation i).mem.bytes = d.mem.bytes ∧ (d.programIsolation i).cores = d.cores := foldl_kept _ (fun d m => setRegF_kept ..) _ d
@[simp] theorem programWays_kept (d : Dev) (i : Image) : (d.programWays i).mem.bytes = d.mem.bytes ∧ (d.programWays i).cores = d.cores := by
  unfold Dev.programWays
  simp only [setReg_kept]
  exact foldl_kept _ (fun d u => setReg_kept ..) _ d

@[simp] theorem programQueues_kept (d : Dev) (c : SkeinCfg) : (d.programQueues c).mem.bytes = d.mem.bytes ∧ (d.programQueues c).cores = d.cores := by simp only [Dev.programQueues, setReg_kept, and_self]
@[simp] theorem programBundle_kept (d : Dev) (i : Image) (b : Nat) :
    (d.programBundle i b).mem.bytes = d.mem.bytes ∧ (d.programBundle i b).cores = d.cores := by
  unfold Dev.programBundle; dsimp only; split
  all_goals simp only [setRegF_kept, updFn_kept, updBun_kept, setDom_kept, setPceState_kept, and_self]

@[simp] theorem programPort_kept (d : Dev) (i : Image) (p : Nat) :
    (d.programPort i p).mem.bytes = d.mem.bytes ∧ (d.programPort i p).cores = d.cores := by simp only [Dev.programPort, setRegF_kept, setReg64_kept, setPortState_kept, and_self]
/-- What the image makes of LCN `l`: its Spindle, where one serves it, and its domain and port in or out of service. -/
def Dev.programCore (i : Image) (d : Dev) (l : Nat) : Dev :=
  let p := i.coreMap.getD l 0xFFFF
  let mine := i.skeins.any fun c => c.lcnMask.testBit l
  let q := if p = 0xFFFF then none else d.settle 449 p
  let on := mine && q.isSome
  let d := { d with
    spindleOf := mset none d.spindleOf l (if p = 0xFFFF then none else some (q.getD p)), lost := mset false d.lost l (mine && q.isNone)
    dom := mset Domain.reset d.dom l (if on then ⟨.run, false, .run, d.now, false, none⟩ else Domain.reset) }
  d.setPort l ⟨if on then .opened else .off, []⟩

theorem programCore_kept (i : Image) (d : Dev) (l : Nat) :
    (Dev.programCore i d l).mem.bytes = d.mem.bytes ∧ (Dev.programCore i d l).cores = d.cores := by
  simp only [Dev.programCore, setPort_kept, and_self]

@[simp] theorem programCores_kept (d : Dev) (i : Image) : (d.programCores i).mem.bytes = d.mem.bytes ∧ (d.programCores i).cores = d.cores := by
  unfold Dev.programCores
  extract_lets d1 named
  have h1 : d1.mem.bytes = d.mem.bytes ∧ d1.cores = d.cores := foldl_kept (Dev.programCore i) (programCore_kept i) _ _
  simp only [showSpares_kept, h1, and_self]

@[simp] theorem commitImage_kept (d : Dev) (r : List Byte) : (d.commitImage r).mem.bytes = d.mem.bytes ∧ (d.commitImage r).cores = d.cores := by
  have hq := fun i (d : Dev) => foldl_kept Dev.programQueues (fun d c => programQueues_kept ..) (Image.skeins i) d
  have hb := fun i (d : Dev) => foldl_kept (fun (d : Dev) b => (d.programBundle i b).programPort i b)
    (fun d b => by simp only [programPort_kept, programBundle_kept, and_self]) (List.range 8) d
  unfold Dev.commitImage
  simp only [setRegF_kept, setDeltaSeq_kept, setReg64_kept, setReg_kept, setDom_kept, programCores_kept, hb, hq, tunables_kept, programWays_kept,
    programIsolation_kept, programMap_kept, and_self]

@[simp] theorem replay_kept (d : Dev) (z : List JournalEntry) : (d.replay z).mem.bytes = d.mem.bytes ∧ (d.replay z).cores = d.cores := by
  induction z generalizing d with
  | nil => exact ⟨rfl, rfl⟩
  | cons e t ih =>
    have h := fun (c : Nat) (d : Dev) => foldl_kept (fun (d : Dev) (x : JournalEntry) => d.audit 3 5 0xFF 0 0xFF c 0x23 (leBytes 4 x.seq)) (fun d x => audit_kept ..) (e :: t) d
    unfold Dev.replay
    split
    · exact ih d
    · split
      · simp only [ih, setDeltaSeq_kept, runImage_kept, and_self]
      · simp only [h, setCopy_kept, and_self]

@[simp] theorem copyFails_kept (d : Dev) (b : Bool) (stage : Nat) (st : Status) :
    (d.copyFails b stage st).mem.bytes = d.mem.bytes ∧ (d.copyFails b stage st).cores = d.cores := by simp only [Dev.copyFails, setRegF_kept, audit_kept, setCopy_kept, and_self]
@[simp] theorem launchCheck_kept (d : Dev) (b : Bool) : (d.launchCheck b).mem.bytes = d.mem.bytes ∧ (d.launchCheck b).cores = d.cores := by
  unfold Dev.launchCheck; repeat' split
  all_goals simp only [copyFails_kept, and_self]

@[simp] theorem takeover_bytes (d : Dev) : d.takeover.mem.bytes = d.mem.bytes := by
  have h := fun (d : Dev) => foldl_bytes (fun (d : Dev) s => if d.regF (Reg.DST_MBX_CTL s) 17 16 = 1 then d.mbxReply s (d.regF (Reg.DST_MBX_REQ s 0) 15 0) .flushed [] else d)
    (fun d s => ite_bytes (mbxReply_bytes ..) rfl) (List.range 16) d
  unfold Dev.takeover
  dsimp only
  split
  all_goals simp only [dropDelta_bytes, updDst_kept, setImgUnit_kept, h, answerAll_bytes]


/-! ### Boot -/

@[simp] theorem copyRegs_kept (d old : Dev) (as_ : List Nat) : (d.copyRegs old as_).mem.bytes = d.mem.bytes ∧ (d.copyRegs old as_).cores = d.cores := foldl_kept _ (fun d a => setReg_kept ..) _ d
@[simp] theorem copyField_kept (d old : Dev) (a hi lo : Nat) :
    (d.copyField old a hi lo).mem.bytes = d.mem.bytes ∧ (d.copyField old a hi lo).cores = d.cores := by simp only [Dev.copyField, setRegF_kept, and_self]
@[simp] theorem fixedFields_kept (d old : Dev) : (d.fixedFields old).mem.bytes = d.mem.bytes ∧ (d.fixedFields old).cores = d.cores := by
  have h := fun (d : Dev) => foldl_kept (fun (d : Dev) i => d.setReg (Reg.MESH_ORIENT i) (BitVec.ofNat 32 (orientOf i))) (fun d i => setReg_kept ..) (List.range 16) d
  unfold Dev.fixedFields
  simp only [showSpares_kept, setCopy_kept, setReg64_kept, setRegF_kept, copyField_kept, h, and_self]

@[simp] theorem setBudgets_kept (d : Dev) (b : BootInputs) : (d.setBudgets b).mem.bytes = d.mem.bytes ∧ (d.setBudgets b).cores = d.cores := by
  have h := fun ts (d : Dev) => foldl_kept (fun (d : Dev) k => d.setReg (Reg.RL_BUDGET_TOTAL k) (BitVec.ofNat 32 (List.getD ts k 0))) (fun d k => setReg_kept ..) (List.range 13) d
  unfold Dev.setBudgets
  simp only [setReg_kept, h, and_self]

@[simp] theorem guestsDiscover_kept (d : Dev) : d.guestsDiscover.mem.bytes = d.mem.bytes ∧ d.guestsDiscover.cores = d.cores := foldl_kept _ (fun d g => gstSet_kept ..) _ d
@[simp] theorem packageOff_bytes (d : Dev) : d.packageOff.mem.bytes = d.mem.bytes := by
  have h := fun (d : Dev) => foldl_bytes (fun (d : Dev) m => if d.mcState m = 2 then d.channelDown m else d)
    (fun d m => ite_bytes (channelDown_kept ..).1 rfl) (List.range 16) d
  unfold Dev.packageOff
  simp only [updDst_kept, audit_kept, h, hankSafe_kept, answerAll_bytes]

@[simp] theorem pwrPackage_bytes (d : Dev) (q : PwrFrom) (index target : Nat) : (d.pwrPackage q index target).1.mem.bytes = d.mem.bytes := by
  unfold Dev.pwrPackage; dsimp only; repeat' split
  all_goals simp only [count_kept, pwrResult_kept, pwrLast_kept, packageOff_bytes]

theorem kept_boot {e d : Dev} (h : e.Kept d) (b : Boot) : ({ e with boot := b } : Dev).Kept d := h

theorem kept_setRegF (d : Dev) (a hi lo v : Nat) : (d.setRegF a hi lo v).Kept d := setRegF_kept ..

theorem kept_audit (d : Dev) (kind role index transport skein status cmd : Nat) (body : List Byte) :
    (d.audit kind role index transport skein status cmd body).Kept d := audit_kept ..

theorem kept_startCopy (d : Dev) (b : Bool) (c : ImgCopy) (u : ImgUnitState) (s : Nat) : (((d.setCopy b c).setImgUnit u).setDstState s).Kept d := by
  simp only [Dev.Kept, setDstState_kept, setImgUnit_kept, setCopy_kept, and_self]

theorem keepAll_started : KeepAll Dev.started := by
  delta Dev.started
  refine keepAll_of fun d => ?_
  extract_lets c d1 d2 d3 ver ms d4
  have h2 : d2.Kept d := kept_startCopy ..
  have h3 : d3.Kept d2 := kept_ite (kept_setRegF ..) ⟨rfl, rfl⟩
  exact kept_boot ((kept_audit ..).trans (h3.trans h2)) _

@[simp] theorem started_kept (d : Dev) : d.started.mem.bytes = d.mem.bytes ∧ d.started.cores = d.cores := keepAll_started d
@[simp] theorem orderReset_kept (d : Dev) (scope target : Nat) :
    (d.orderReset scope target).mem.bytes = d.mem.bytes ∧ (d.orderReset scope target).cores = d.cores := by
  unfold Dev.orderReset; dsimp only; split
  all_goals simp only [and_self]

@[simp] theorem mbxGroupReset_kept (d : Dev) (sk : Nat) : (d.mbxGroupReset sk).mem.bytes = d.mem.bytes ∧ (d.mbxGroupReset sk).cores = d.cores := by simp only [Dev.mbxGroupReset, endSession_kept, and_self]
@[simp] theorem rootHotReset_kept (d : Dev) (b : Nat) : (d.rootHotReset b).mem.bytes = d.mem.bytes ∧ (d.rootHotReset b).cores = d.cores := by simp only [Dev.rootHotReset, setPceState_kept, linkGone_kept, and_self]
@[simp] theorem functionsReset_bytes (d : Dev) (sk : Nat) : (d.functionsReset sk).mem.bytes = d.mem.bytes := by
  unfold Dev.functionsReset
  refine foldl_bytes _ (fun d b => ?_) _ d
  exact ite_bytes rfl (ite_bytes (pfReset_bytes ..) (foldl_bytes _ flrStart_bytes _ d))

@[simp] theorem resetDone_kept (d : Dev) (scope target : Nat) :
    (d.resetDone scope target).mem.bytes = d.mem.bytes ∧ (d.resetDone scope target).cores = d.cores := by simp only [Dev.resetDone, and_self]

/-! ### Iotu -/

@[simp] theorem updIotu_kept (d : Dev) (f : Iotu → Iotu) : (d.updIotu f).mem.bytes = d.mem.bytes ∧ (d.updIotu f).cores = d.cores := by simp only [Dev.updIotu, and_self]
@[simp] theorem ioFault_bytes (d : Dev) (b rid : Nat) (addr : Word) (write : Bool) (code sub : Nat) :
    (d.ioFault b rid addr write code sub).mem.bytes = d.mem.bytes := by
  unfold Dev.ioFault; dsimp only; repeat' split
  all_goals simp only [setReg_kept, setRegF_kept, setReg64_kept, doorbell_bytes]

@[simp] theorem ioInv_kept (d : Dev) (q : Requester) (b id kind : Nat) (f : Iotu → Iotu) :
    (d.ioInv q b id kind f).mem.bytes = d.mem.bytes ∧ (d.ioInv q b id kind f).cores = d.cores := by
  unfold Dev.ioInv
  dsimp only
  refine ite_kept ⟨rfl, rfl⟩ (ite_kept ?_ (ite_kept ?_ (ite_kept ?_ (ite_kept ?_ (ite_kept ?_ ?_)))))
  all_goals simp only [setRegF_kept, updIotu_kept, hubMap_kept, count_kept, reduceCtorEq, if_true, if_false, and_self]

@[simp] theorem ioInvWrite_kept (d : Dev) (q : Requester) (b : Nat) (id : BitVec 16) (kind : Nat) :
    (d.ioInvWrite q b id kind).mem.bytes = d.mem.bytes ∧ (d.ioInvWrite q b id kind).cores = d.cores := by simp only [Dev.ioInvWrite, ioInv_kept, and_self]

/-! ### BarRegs -/

@[simp] theorem barRead_kept (d : Dev) (k off : Nat) : (d.barRead k off).1.mem.bytes = d.mem.bytes ∧ (d.barRead k off).1.cores = d.cores := by
  unfold Dev.barRead; dsimp only; repeat' split
  all_goals simp only [setBar_kept, and_self]

@[simp] theorem mbxWrite_kept (d : Dev) (k : Nat) (pf : Bool) (v : Reg32) :
    (d.mbxWrite k pf v).mem.bytes = d.mem.bytes ∧ (d.mbxWrite k pf v).cores = d.cores := by
  unfold Dev.mbxWrite; dsimp only; repeat' split
  all_goals simp only [setBarF_kept, mbxResult_kept, mbxSend_kept, mbxAck_kept, and_self]

@[simp] theorem mgrWrite_bytes (d : Dev) (b off : Nat) (v : Reg32) : (d.mgrWrite b off v).mem.bytes = d.mem.bytes := by
  unfold Dev.mgrWrite; dsimp only; repeat' split
  all_goals simp only [setBar_kept, setBarF_kept, vfmDo_bytes, dlogDo_kept, mbxWrite_kept]

@[simp] theorem msixWrite_kept (d : Dev) (k i w : Nat) (v : Reg32) :
    (d.msixWrite k i w v).mem.bytes = d.mem.bytes ∧ (d.msixWrite k i w v).cores = d.cores := by
  unfold Dev.msixWrite; dsimp only; split
  all_goals simp only [updFn_kept, msixFlush_kept, vecMask_kept, and_self]

@[simp] theorem cfgPut_kept (d : Dev) (k off : Nat) (v : Reg32) : (d.cfgPut k off v).mem.bytes = d.mem.bytes ∧ (d.cfgPut k off v).cores = d.cores := by simp only [Dev.cfgPut, updBun_kept, and_self]

/-! ### Ctl -/

@[simp] theorem ctlRead_kept (d : Dev) (q : Requester) (a : Nat) : (d.ctlRead q a).1.mem.bytes = d.mem.bytes ∧ (d.ctlRead q a).1.cores = d.cores := by
  unfold Dev.ctlRead; dsimp only; repeat' split
  all_goals simp only [setReg_kept, takeFree_kept, and_self]

@[simp] theorem routeWrite_kept (d : Dev) (q : Requester) (n : Nat) (v : Reg32) :
    (d.routeWrite q n v).mem.bytes = d.mem.bytes ∧ (d.routeWrite q n v).cores = d.cores := by
  unfold Dev.routeWrite; dsimp only; repeat' split
  all_goals simp only [setReg_kept, dropVec_kept, and_self]

@[simp] theorem claimConflict_kept (d : Dev) (q : Requester) (a : Nat) :
    (d.claimConflict q a).mem.bytes = d.mem.bytes ∧ (d.claimConflict q a).cores = d.cores := by
  unfold Dev.claimConflict; dsimp only; split
  all_goals simp only [setReg_kept, count_kept, and_self]

@[simp] theorem traceStart_kept (d : Dev) (l : Nat) : (d.traceStart l).mem.bytes = d.mem.bytes ∧ (d.traceStart l).cores = d.cores := by
  unfold Dev.traceStart; dsimp only; split
  all_goals simp only [tracePush_bytes, tracePush_cores, and_self]

@[simp] theorem traceWrite_kept (d : Dev) (q : Requester) (v : Reg32) :
    (d.traceWrite q v).mem.bytes = d.mem.bytes ∧ (d.traceWrite q v).cores = d.cores := by
  unfold Dev.traceWrite; dsimp only; repeat' split
  all_goals simp only [setReg_kept, count_kept, claimConflict_kept, traceStart_kept, and_self]

@[simp] theorem hubSnap_kept (d : Dev) (q : Requester) (sk : Nat) : (d.hubSnap q sk).mem.bytes = d.mem.bytes ∧ (d.hubSnap q sk).cores = d.cores := by
  unfold Dev.hubSnap
  dsimp only
  exact ite_kept ⟨rfl, rfl⟩ (foldl_kept _ (fun d k => setReg64_kept ..) _ d)

@[simp] theorem ioCfgWrite_kept (d : Dev) (b : Nat) (v : Reg32) : (d.ioCfgWrite b v).mem.bytes = d.mem.bytes ∧ (d.ioCfgWrite b v).cores = d.cores := by
  unfold Dev.ioCfgWrite; dsimp only; split
  all_goals simp only [setReg_kept, and_self]

@[simp] theorem ioFaultWrite_kept (d : Dev) (b : Nat) (v : Reg32) :
    (d.ioFaultWrite b v).mem.bytes = d.mem.bytes ∧ (d.ioFaultWrite b v).cores = d.cores := by
  unfold Dev.ioFaultWrite; dsimp only; repeat' split
  all_goals simp only [setReg_kept, setRegF_kept, setReg64_kept, and_self]

@[simp] theorem plainWrite_kept (d : Dev) (r : RegDef) (a : Nat) (v : Reg32) :
    (d.plainWrite r a v).mem.bytes = d.mem.bytes ∧ (d.plainWrite r a v).cores = d.cores := by simp only [Dev.plainWrite, setReg_kept, and_self]
@[simp] theorem storeDead_bytes (d : Dev) (q : Requester) (pa : Nat) : (d.storeDead q pa).mem.bytes = d.mem.bytes := by
  unfold Dev.storeDead; repeat' split
  all_goals simp only [storeError_bytes]


/-! ### Window -/

@[simp] theorem msgVec_bytes (d : Dev) (m : VecMsg) : (d.msgVec m).mem.bytes = d.mem.bytes := by
  unfold Dev.msgVec; repeat' split
  all_goals simp only [dropVec_kept, deliverVec_bytes]

@[simp] theorem winBytes_kept (d : Dev) (write : Bool) (pa : Nat) (data : List Byte) (n : Nat) :
    (d.winBytes write pa data n).1.mem.bytes = d.mem.bytes ∧ (d.winBytes write pa data n).1.cores = d.cores := by
  unfold Dev.winBytes; dsimp only; repeat' split
  all_goals simp only [freeBytes_kept, and_self]


/-! ### Tka -/

@[simp] theorem tkaWinReg_kept (d : Dev) (off : Nat) (write : Option Nat) :
    (d.tkaWinReg off write).1.mem.bytes = d.mem.bytes ∧ (d.tkaWinReg off write).1.cores = d.cores := by
  unfold Dev.tkaWinReg; dsimp only; repeat' split
  all_goals simp only [updDst_kept, and_self]

@[simp] theorem setTka_kept (d : Dev) (t : Tka) : (d.setTka t).mem.bytes = d.mem.bytes ∧ (d.setTka t).cores = d.cores := by simp only [Dev.setTka, updDst_kept, and_self]

/-! ### Tick -/

@[simp] theorem eventRead_kept (d : Dev) : d.eventRead.mem.bytes = d.mem.bytes ∧ d.eventRead.cores = d.cores := by
  unfold Dev.eventRead; repeat' split
  all_goals simp only [updDst_kept, and_self]


end Sys2Proof.Machine
end

section
/-! PROOFS. What programs see of a core, and the functions of the uncore that leave it as it is although they act on a core or on memory: they make
vectors pending, end waits, drain stores, serve lines. -/
namespace Sys2Proof.Machine

/-- What programs see of a core: its registers, PC and level, its banks, its FP and Ply state, its translations and debug comparators, and its
active interrupt levels and thresholds. -/
def Core.shown (c : Core) : Core :=
  { Core.reset with
    g := c.g, v := c.v, m := c.m, pc := c.pc, level := c.level, kb := c.kb, sbank := c.sbank, fpFlags := c.fpFlags, fpRm := c.fpRm, psat := c.psat
    pctlRm := c.pctlRm, pctlEn := c.pctlEn, pctlVd := c.pctlVd, segtb := c.segtb, stlb := c.stlb, bp := c.bp, wp := c.wp, actN := c.actN
    actS := c.actS, threshN := c.threshN, threshS := c.threshS }

/-- What programs see of every core. -/
def coresShown (cs : List (Nat × Core)) (l : Nat) : Core := (mget Core.reset cs l).shown

theorem setCore_shown (d : Dev) (l : Nat) (c : Core) (h : c.shown = (d.core l).shown) : coresShown (d.setCore l c).cores = coresShown d.cores := by
  funext k
  by_cases hk : l = k
  · subst hk
    simp only [coresShown, Dev.setCore, mget_mset, if_true]
    exact h
  · simp only [coresShown, Dev.setCore, mget_mset, if_neg hk]

theorem updCore_shown (d : Dev) (l : Nat) (f : Core → Core) (h : ∀ c, (f c).shown = c.shown) : coresShown (d.updCore l f).cores = coresShown d.cores :=
  setCore_shown _ _ _ (h _)

theorem foldl_shown {α : Type} (f : Dev → α → Dev) (h : ∀ d x, coresShown (f d x).cores = coresShown d.cores) (xs : List α) (d : Dev) :
    coresShown (xs.foldl f d).cores = coresShown d.cores := by
  induction xs generalizing d with
  | nil => rfl
  | cons x xs ih => rw [List.foldl_cons, ih, h]

theorem ite_shown {c : Prop} [Decidable c] {a b d : Dev} (ha : coresShown a.cores = coresShown d.cores) (hb : coresShown b.cores = coresShown d.cores) :
    coresShown (if c then a else b).cores = coresShown d.cores := by
  split
  · exact ha
  · exact hb

theorem shown_aberr (c : Core) (w : Word) : ({ c with aberr := w }).shown = c.shown := rfl


/-! ### Home -/

@[simp] theorem homeRequest_shown (d : Dev) (line agent : Nat) (req : HomeReq) :
    coresShown (d.homeRequest line agent req).cores = coresShown d.cores := by
  unfold Dev.homeRequest; repeat' split
  all_goals simp only [setTxn_kept, homeServe_cores]

@[simp] theorem endTxn_shown (d : Dev) (line : Nat) (waiting : List (Nat × HomeReq)) :
    coresShown (d.endTxn line waiting).cores = coresShown d.cores := by simp only [Dev.endTxn, setTxn_kept, homeServe_cores]
@[simp] theorem hubWrite_shown (d : Dev) (a : Nat) (cells : List Host.Cell) : coresShown (d.hubWrite a cells).cores = coresShown d.cores := by simp only [Dev.hubWrite, homeStore_cores]
@[simp] theorem hubWriteAll_shown (d : Dev) (a pa : Nat) (bs : List Byte) : coresShown (d.hubWriteAll a pa bs).cores = coresShown d.cores := foldl_shown _ (fun d g => hubWrite_shown ..) _ d

/-! ### CoreCache -/

@[simp] theorem notePending_shown (d : Dev) (l p line : Nat) : coresShown (d.notePending l p line).cores = coresShown d.cores := by
  unfold Dev.notePending
  split
  · exact ite_shown (updCore_shown _ _ _ fun c => rfl) rfl
  · rfl

@[simp] theorem coreWrite_shown (d : Dev) (l : Nat) (into : Fill) (cells : List Host.Cell) :
    coresShown (d.coreWrite l into cells).cores = coresShown d.cores := by
  unfold Dev.coreWrite; dsimp only; repeat' split
  all_goals simp only [putBytes_cores, setPoison_cores, markStale_cores, homeStore_cores, coreLine_cores, noteL1i_cores, notePending_shown]

@[simp] theorem tagArrives_shown (d : Dev) (sk die line : Nat) (m pend : Bool) :
    coresShown (d.tagArrives sk die line m pend).cores = coresShown d.cores := by
  unfold Dev.tagArrives; dsimp only; repeat' split
  all_goals simp only [putMHome_cores, putSHome_cores, l3Fill_cores]


/-! ### Irq -/

@[simp] theorem raiseLocal_shown (d : Dev) (l v : Nat) : coresShown (d.raiseLocal l v).cores = coresShown d.cores := by
  unfold Dev.raiseLocal
  exact ite_shown rfl (updCore_shown _ _ _ fun c => rfl)

@[simp] theorem inboxPut_shown (d : Dev) (m : VecMsg) : coresShown (d.inboxPut m).cores = coresShown d.cores := updCore_shown _ _ _ fun c => rfl
@[simp] theorem deliverVec_shown (d : Dev) (m : VecMsg) : coresShown (d.deliverVec m).cores = coresShown d.cores := by
  unfold Dev.deliverVec; dsimp only; repeat' split
  all_goals simp only [setPort_kept, dropVec_kept, countDoff_kept, inboxPut_shown]

@[simp] theorem doorbell_shown (d : Dev) (q : Requester) (n : Nat) : coresShown (d.doorbell q n).cores = coresShown d.cores := by
  unfold Dev.doorbell; dsimp only; split
  all_goals simp only [dropVec_kept, deliverVec_shown]

@[simp] theorem signalRoute_shown (d : Dev) (n : Nat) : coresShown (d.signalRoute n).cores = coresShown d.cores := by simp only [Dev.signalRoute, doorbell_shown]

/-! ### StoreBuf -/

@[simp] theorem storeError_shown (d : Dev) (l : Nat) (secure device : Bool) (st : Status) (pa : Nat) :
    coresShown (d.storeError l secure device st pa).cores = coresShown d.cores := by
  simp only [Dev.storeError, raiseLocal_shown]
  refine updCore_shown _ _ _ fun c => ?_
  split
  · exact shown_aberr ..
  · exact shown_aberr ..

@[simp] theorem memStore_shown (d : Dev) (l : Nat) (cells : List Host.Cell) (mt : MemType) (vi : Nat) :
    coresShown (d.memStore l cells mt vi).cores = coresShown d.cores := by
  unfold Dev.memStore; repeat' split
  all_goals simp only [ncWrite_cores, coreWrite_shown]

theorem reach_of_eq {d : Dev} {l line : Nat} {mt : MemType} {r : Dev × Answer} (h : (if mt = .nc then d.ncReach l line else d.coreReach l line true) = r) :
    r.1.cores = d.cores := by
  subst h
  split
  · exact ncReach_cores ..
  · exact coreReach_cores ..

@[simp] theorem issueStore_shown (d : Dev) (l : Nat) (z : SbItem) : coresShown (d.issueStore l z).1.cores = coresShown d.cores := by
  unfold Dev.issueStore
  split
  · rfl
  · rfl
  · dsimp only
    split
    · exact storeError_shown ..
    · exact updCore_shown _ _ _ fun c => rfl
    · split
      · exact updCore_shown _ _ _ fun c => rfl
      · rfl
    · split
      all_goals
        next h =>
          have hr := reach_of_eq h
          dsimp only at hr
          simp only [memStore_shown, storeError_shown, hr]

@[simp] theorem drainItems_shown (d : Dev) (l : Nat) (z : List SbItem) : coresShown (d.drainItems l z).1.cores = coresShown d.cores := by
  induction z generalizing d with
  | nil => rfl
  | cons it rest ih =>
    unfold Dev.drainItems
    have h := issueStore_shown d l it
    split
    all_goals
      rename_i he
      rw [he] at h
      simp only [ih, h]

@[simp] theorem drain_shown (d : Dev) (l : Nat) : coresShown (d.drain l).cores = coresShown d.cores := by
  simp only [Dev.drain]
  rw [updCore_shown, drainItems_shown]
  exact fun c => rfl


/-! ### Coherence -/

@[simp] theorem takeAck_shown (d : Dev) (agent line : Nat) : coresShown (d.takeAck agent line).cores = coresShown d.cores := by
  unfold Dev.takeAck; repeat' split
  all_goals simp only [ackCounted_cores]

@[simp] theorem takeRdata_shown (d : Dev) (agent line : Nat) (data : List Byte) :
    coresShown (d.takeRdata agent line data).cores = coresShown d.cores := by
  unfold Dev.takeRdata; repeat' split
  all_goals simp only [ownerData_cores, recallDone_cores]

@[simp] theorem takeData_shown (d : Dev) (m : CohMsg) : coresShown (d.takeData m).cores = coresShown d.cores := by
  unfold Dev.takeData; repeat' split
  all_goals simp only [setHubHeld_cores, tagArrives_shown]

@[simp] theorem takeGrant_shown (d : Dev) (m : CohMsg) : coresShown (d.takeGrant m).cores = coresShown d.cores := by
  unfold Dev.takeGrant; repeat' split
  all_goals simp only [setHubHeld_cores, tagArrives_shown]

@[simp] theorem takeDone_shown (d : Dev) (agent line : Nat) : coresShown (d.takeDone agent line).cores = coresShown d.cores := by
  unfold Dev.takeDone
  split
  · rfl
  · dsimp only
    rw [foldl_shown]
    exact fun d l => ite_shown (updCore_shown _ _ _ fun c => rfl) rfl

@[simp] theorem homeRetry_shown (d : Dev) (line : Nat) : coresShown (d.homeRetry line).cores = coresShown d.cores := by
  unfold Dev.homeRetry; repeat' split
  all_goals simp only [setTxn_kept, homeServe_cores]

@[simp] theorem rebuildDone_shown (d : Dev) (line : Nat) : coresShown (d.rebuildDone line).cores = coresShown d.cores := by
  unfold Dev.rebuildDone
  dsimp only
  split
  · rfl
  · rw [foldl_shown]
    · simp only [dirRebuild_kept]
    · exact fun d i => homeRetry_shown ..


/-! ### Bobbin -/

@[simp] theorem unwait_shown (d : Dev) (l : Nat) : coresShown (d.unwait l).cores = coresShown d.cores := by
  simp only [Dev.unwait]
  rw [updCore_shown]
  · simp only [unregister_kept]
  · exact fun c => rfl


/-! ### Record -/

@[simp] theorem mbxReply_shown (d : Dev) (sk code : Nat) (st : Status) (data : List Byte) :
    coresShown (d.mbxReply sk code st data).cores = coresShown d.cores := by
  have h := fun (bs : List Byte) (d : Dev) => foldl_cores (fun (d : Dev) k => d.setReg (Reg.DST_MBX_RSP sk k) (BitVec.ofNat 32 (leAt bs (4 * k) 4)))
    (fun d k => (setReg_kept ..).2) (List.range 64) d
  unfold Dev.mbxReply
  refine ite_shown ?_ (ite_shown ?_ ?_)
  all_goals simp only [signalRoute_shown, dropVec_kept, setRegF_kept, h]

@[simp] theorem answerTo_shown (d : Dev) (who : Caller) (kind code : Nat) (st : Status) (as_ : Option (Nat × Nat)) (arg data : List Byte) :
    coresShown (d.answerTo who kind code st as_ arg data).cores = coresShown d.cores := by
  unfold Dev.answerTo; dsimp only; split
  all_goals simp only [emit_kept, auditCmd_kept, mbxReply_shown]

@[simp] theorem reelAnswer_shown (d : Dev) (l : Nat) (st : Status) (data : List Byte) :
    coresShown (d.reelAnswer l st data).cores = coresShown d.cores := by
  unfold Dev.reelAnswer; dsimp only; split
  all_goals simp only [answerTo_shown]

@[simp] theorem deltaAnswer_shown (d : Dev) (st : Status) : coresShown (d.deltaAnswer st).cores = coresShown d.cores := by
  unfold Dev.deltaAnswer; dsimp only; repeat' split
  all_goals simp only [setRegF_kept, answerTo_shown]

@[simp] theorem jobAnswer_shown (d : Dev) (st : Status) : coresShown (d.jobAnswer st).cores = coresShown d.cores := by
  unfold Dev.jobAnswer; dsimp only; repeat' split
  all_goals simp only [setRegF_kept, count_kept, answerTo_shown]

@[simp] theorem answerAll_shown (d : Dev) (st : Status) : coresShown (d.answerAll st).cores = coresShown d.cores := by
  unfold Dev.answerAll
  rw [foldl_shown _ fun d l => reelAnswer_shown ..]
  simp only [jobAnswer_shown, deltaAnswer_shown]

@[simp] theorem dropDelta_shown (d : Dev) : coresShown d.dropDelta.cores = coresShown d.cores := by
  unfold Dev.dropDelta; dsimp only; repeat' split
  all_goals simp only [setRegF_kept, deltaAnswer_shown]

@[simp] theorem recordAs_shown (d : Dev) (sec : Bool) (e : Event) : coresShown (d.recordAs sec e).cores = coresShown d.cores := by
  unfold Dev.recordAs
  dsimp only
  rw [foldl_shown]
  · simp only [announce_kept, audit_kept, updDst_kept]
  · intro d sk
    split
    · simp only [raiseLocal_shown, ringPut_kept]
    · simp only [raiseLocal_shown, ringPut_kept]
    · split
      · simp only [raiseLocal_shown, noticeLcn_kept, ringPut_kept]
      · simp only [noticeLcn_kept, ringPut_kept]
    · split
      · simp only [raiseLocal_shown, noticeLcn_kept, ringPut_kept]
      · simp only [noticeLcn_kept, ringPut_kept]
    · simp only [ringPut_kept]

@[simp] theorem record_shown (d : Dev) (e : Event) : coresShown (d.record e).cores = coresShown d.cores := by simp only [Dev.record, recordAs_shown]
@[simp] theorem linePoisoned_shown (d : Dev) (line site unit : Nat) : coresShown (d.linePoisoned line site unit).cores = coresShown d.cores := by simp only [Dev.linePoisoned, setPoison_cores, record_shown]
@[simp] theorem budgetLow_shown (d : Dev) (site kind pct : Nat) : coresShown (d.budgetLow site kind pct).cores = coresShown d.cores := by
  unfold Dev.budgetLow; repeat' split
  all_goals simp only [emit_kept, updDst_kept, record_shown]

@[simp] theorem useBudget_shown (d : Dev) (k n : Nat) : coresShown (d.useBudget k n).cores = coresShown d.cores := by
  unfold Dev.useBudget
  dsimp only
  rw [foldl_shown]
  · simp only [countN_kept]
  · intro d' t
    beta_reduce
    exact ite_shown (budgetLow_shown ..) rfl


/-! ### Safe -/

@[simp] theorem coreSafe_shown (d : Dev) (l : Nat) : coresShown (d.coreSafe l).cores = coresShown d.cores := by
  simp only [Dev.coreSafe]
  rw [updCore_shown, drain_shown]
  exact fun c => rfl

@[simp] theorem haltWait_shown (d : Dev) (l : Nat) : coresShown (d.haltWait l).cores = coresShown d.cores := by
  unfold Dev.haltWait
  split
  · exact updCore_shown _ _ _ fun c => rfl
  · rfl

@[simp] theorem bobbinSafe_shown (d : Dev) : coresShown d.bobbinSafe.cores = coresShown d.cores := by
  unfold Dev.bobbinSafe
  simp only [setRegF_kept]
  exact foldl_shown _ haltWait_shown _ d

@[simp] theorem imgSafe_shown (d : Dev) : coresShown d.imgSafe.cores = coresShown d.cores := by simp only [Dev.imgSafe, setRegF_kept, deltaAnswer_shown]
@[simp] theorem reelSafe_shown (d : Dev) : coresShown d.reelSafe.cores = coresShown d.cores := by
  unfold Dev.reelSafe
  simp only [setRegF_kept]
  exact foldl_shown _ (fun d l => reelAnswer_shown ..) _ d

@[simp] theorem enterSafe_shown (d : Dev) (c : SafeCause) : coresShown (d.enterSafe c).cores = coresShown d.cores := by
  unfold Dev.enterSafe
  refine ite_shown (by simp only [setRegF_kept]) ?_
  simp only [setDstState_kept, noteSafe_kept, pinsSafe_kept, reelSafe_shown, imgSafe_shown, cohSafe_kept, pceSafe_kept, dramSafe_kept, hankSafe_kept,
    bobbinSafe_shown]
  exact foldl_shown _ coreSafe_shown _ d


/-! ### HubPort -/

@[simp] theorem reachAll_shown (d : Dev) (a : Nat) (z : List Nat) : coresShown (d.reachAll a z).1.cores = coresShown d.cores := by
  induction z generalizing d with
  | nil => rfl
  | cons n t ih =>
    unfold Dev.reachAll
    have h := hubReach_cores d a n .rdnc
    split
    all_goals
      rename_i he
      rw [he] at h
      dsimp only at h
    · rw [ih, h]
    · split
      · rw [ih, h]
      · rw [h]
    · rw [h]

@[simp] theorem hubPerform_shown (d : Dev) (x : HubAccess) : coresShown (d.hubPerform x).1.cores = coresShown d.cores := by
  have h1 := fun (ns : List Nat) (d : Dev) => foldl_shown (fun (d : Dev) n => d.setPoison n true) (fun d n => by simp only [setPoison_cores]) ns d
  have h2 := fun (ns : List Nat) (d : Dev) => foldl_shown (fun (d : Dev) n => d.hubRead x.agent n) (fun d n => by simp only [hubRead_kept]) ns d
  unfold Dev.hubPerform
  dsimp only
  split
  · split
    · simp only [h1, hubWriteAll_shown]
    · simp only [hubWriteAll_shown]
  · simp only [h2]

@[simp] theorem hubDram_shown (d : Dev) (x : HubAccess) : coresShown (d.hubDram x).1.cores = coresShown d.cores := by
  unfold Dev.hubDram
  split
  · rfl
  split
  · rfl
  have h := reachAll_shown d x.agent (linesOf x.pa x.len)
  split
  all_goals
    rename_i he
    rw [he] at h
    dsimp only at h
  · simp only [hubPerform_shown, h]
  · exact h
  · exact h
  · split
    · exact h
    · exact h

@[simp] theorem hubTry_shown (d : Dev) (x : HubAccess) : coresShown (d.hubTry x).1.cores = coresShown d.cores := by
  unfold Dev.hubTry
  split
  · exact hubDram_shown ..
  · split
    · split
      · exact ite_shown (doorbell_shown ..) rfl
      · rfl
    · rfl
  · split
    · rfl
    · next b _ _ =>
        have h := (busAccess_kept d true b x.pa x.len x.write (ofLe x.data)).2
        split
        all_goals
          rename_i he
          rw [he] at h
          dsimp only at h
          simp only [h]
  · rfl

@[simp] theorem hubGo_shown (d : Dev) (x : HubAccess) : coresShown (d.hubGo x).cores = coresShown d.cores := by
  unfold Dev.hubGo
  split
  · simp only [hubQueue_kept]
  · have h := hubTry_shown d x
    split
    all_goals
      rename_i he
      rw [he] at h
      simp only [hubAnswer_kept, hubQueue_kept, setPort_kept, h]

@[simp] theorem hubPump_shown (d : Dev) : coresShown d.hubPump.cores = coresShown d.cores := by
  unfold Dev.hubPump
  rw [foldl_shown]
  exact fun d x => ite_shown (by simp only [hubQueue_kept]) (hubGo_shown ..)


/-! ### Power -/

@[simp] theorem openPort_shown (d : Dev) (k : Nat) : coresShown (d.openPort k).cores = coresShown d.cores := by
  unfold Dev.openPort
  dsimp only
  rw [foldl_shown, hubPump_shown]
  · simp only [setPort_kept]
  · intro d h
    split
    · exact deliverVec_shown ..
    · rfl

@[simp] theorem tryFence_shown (d : Dev) (l : Nat) : coresShown (d.tryFence l).cores = coresShown d.cores := by
  unfold Dev.tryFence; dsimp only; repeat' split
  all_goals simp only [setPort_kept, drain_shown, setDom_kept]

@[simp] theorem startEntry_shown (d : Dev) (k : Nat) (t : DomState) (by_ : Option Nat) :
    coresShown (d.startEntry k t by_).cores = coresShown d.cores := by
  unfold Dev.startEntry; dsimp only; split
  all_goals simp only [setPort_kept, drain_shown, setDom_kept, tryFence_shown]

@[simp] theorem abortEntry_shown (d : Dev) (k : Nat) (st : Status) (code : Nat) : coresShown (d.abortEntry k st code).cores = coresShown d.cores := by
  unfold Dev.abortEntry; dsimp only; repeat' split
  all_goals simp only [count_kept, setDom_kept, pwrResult_kept, pwrLast_kept, openPort_shown]

@[simp] theorem pwrReq_shown (d : Dev) (q : PwrFrom) (kind index target : Nat) :
    coresShown (d.pwrReq q kind index target).1.cores = coresShown d.cores := by
  unfold Dev.pwrReq; dsimp only; repeat' split
  all_goals simp only [count_kept, pwrResult_kept, pwrLast_kept, startEntry_shown, startExit_kept]

@[simp] theorem pwrWrite_shown (d : Dev) (q : Requester) (kind index target : Nat) :
    coresShown (d.pwrWrite q kind index target).cores = coresShown d.cores := by
  unfold Dev.pwrWrite; repeat' split
  all_goals simp only [pwrReq_shown]

@[simp] theorem fillRanks_shown (d : Dev) (m : Nat) (rs : List Nat) : coresShown (d.fillRanks m rs).cores = coresShown d.cores := by simp only [Dev.fillRanks]
@[simp] theorem fillOff_shown (d : Dev) (m : Nat) : coresShown (d.fillOff m).cores = coresShown d.cores := by simp only [Dev.fillOff, fillRanks_shown]

/-! ### Ways -/

@[simp] theorem cleanSlice_shown (d : Dev) (u slice way : Nat) : coresShown (d.cleanSlice u slice way).cores = coresShown d.cores := by
  unfold Dev.cleanSlice
  rw [foldl_shown]
  refine fun d x => ite_shown (by simp only [l3Evict_cores]) (ite_shown rfl (by simp only [hcEvict_cores]))

@[simp] theorem cleanNext_shown (d : Dev) (u : Nat) : coresShown (d.cleanNext u).cores = coresShown d.cores := by
  unfold Dev.cleanNext; dsimp only; repeat' split
  all_goals simp only [setRegF_kept, pdProgress_kept, cleanSlice_shown]


/-! ### Reel -/

@[simp] theorem stopForReel_shown (d : Dev) (l : Nat) : coresShown (d.stopForReel l).cores = coresShown d.cores := by
  unfold Dev.stopForReel; dsimp only; repeat' split
  all_goals simp only [unwait_shown]

@[simp] theorem reelDue_shown (d : Dev) (l cause : Nat) (retire : Bool) : coresShown (d.reelDue l cause retire).cores = coresShown d.cores := by
  unfold Dev.reelDue; repeat' split
  all_goals simp only [updRel_kept, stopForReel_shown]

@[simp] theorem tellExhausted_shown (d : Dev) (key kind site : Nat) : coresShown (d.tellExhausted key kind site).cores = coresShown d.cores := by
  unfold Dev.tellExhausted; repeat' split
  all_goals simp only [budgetLow_shown, updRel_kept]


/-! ### Pins -/

@[simp] theorem applyStep_shown (d : Dev) (r step : Nat) : coresShown (d.applyStep r step).cores = coresShown d.cores := by
  unfold Dev.applyStep; dsimp only; split
  all_goals simp only [setRegF_kept, record_shown, useBudget_shown, tellExhausted_shown]

@[simp] theorem raiseTo_shown (d : Dev) (r goal : Nat) (acked : Bool) (z : Nat) : coresShown (d.raiseTo r goal acked z).cores = coresShown d.cores := by
  induction z generalizing d with
  | zero => rfl
  | succ n ih =>
    unfold Dev.raiseTo
    refine ite_shown rfl (ite_shown ?_ ?_)
    · simp only [ih, applyStep_shown, orderStep_kept]
    · simp only [missStep_kept, orderStep_kept]

@[simp] theorem earlyReel_shown (d : Dev) (p : Nat) : coresShown (d.earlyReel p).cores = coresShown d.cores := by
  unfold Dev.earlyReel; repeat' split
  all_goals simp only [reelDue_shown]


/-! ### DstCmd -/

theorem serveAs_shown {d : Dev} {who : Caller} {c : Cmd} {kind : Nat} {as_ : Option (Nat × Nat)} {sound : Bool} {may : Option Session → Bool}
    {arg : List Byte} {act : Dev → Done} (h : ∀ d, coresShown (act d).dev.cores = coresShown d.cores) :
    coresShown (d.serveAs who c kind as_ sound may arg act).cores = coresShown d.cores := by
  unfold Dev.serveAs
  dsimp only
  repeat' split
  all_goals simp only [answerTo_shown, sessionUsed_kept, noteImg_kept, countState_kept, count_kept, h]

theorem serve_shown {d : Dev} {who : Caller} {c : Cmd} {may : Option Session → Bool} {arg : List Byte} {act : Dev → Done}
    (h : ∀ d, coresShown (act d).dev.cores = coresShown d.cores) : coresShown (d.serve who c may arg act).cores = coresShown d.cores := serveAs_shown h

@[simp] theorem rlReel_shown (d : Dev) (caller : Caller) (code l : Nat) (retire : Bool) :
    coresShown (d.rlReel caller code l retire).cores = coresShown d.cores := by
  unfold Dev.rlReel
  refine serve_shown fun d => ?_
  dsimp only
  repeat' split
  all_goals simp only [ends_kept, rlState_kept, updRel_kept, reelDue_shown]

@[simp] theorem setShed_shown (d : Dev) (n : Nat) : coresShown (d.setShed n).cores = coresShown d.cores := by
  have h := fun ns (d : Dev) => foldl_shown (fun (d : Dev) (x : Nat × Nat × Nat) => d.budgetLow x.1 x.2.1 x.2.2) (fun d x => budgetLow_shown ..) ns d
  unfold Dev.setShed
  dsimp only
  split
  · rfl
  · split
    · simp only [h, updDst_kept, audit_kept, setRegF_kept]
    · simp only [audit_kept, setRegF_kept]


/-! ### Dram -/

@[simp] theorem eccCorrected_shown (d : Dev) (m line dev : Nat) : coresShown (d.eccCorrected m line dev).cores = coresShown d.cores := by
  unfold Dev.eccCorrected
  refine ite_shown ?_ (ite_shown ?_ ?_)
  · simp only [eccLast_kept, count_kept]
  · simp only [record_shown, takeFree_kept, setRegF_kept, updCh_kept, eccLast_kept, count_kept]
  · simp only [updCh_kept, eccLast_kept, count_kept]

/-- What programs see of the cores of `e` is what they see of those of `d`. -/
def Dev.SameShown (e d : Dev) : Prop := coresShown e.cores = coresShown d.cores

def KeepShown (f : Dev → Nat → Nat → Dev) : Prop := ∀ d m n, (f d m n).SameShown d

theorem keepShown_of {f : Dev → Nat → Nat → Dev} (h : ∀ d m n, (f d m n).SameShown d) : KeepShown f := h

theorem sameShown_stale {e d : Dev} (h : e.SameShown d) (x : List (Nat × Option StaleLine)) :
    ({ e with mem := { e.mem with stale := x } }).SameShown d := h

theorem keepShown_eccUncorrectable : KeepShown Dev.eccUncorrectable := by
  delta Dev.eccUncorrectable
  refine keepShown_of fun d m line => ?_
  have h : ((d.count (Reg.MC_ECC_UE m)).eccLast m line 0xF true).SameShown d := congrArg _ ((eccLast_kept ..).2.trans (count_kept ..).2)
  conv => arg 1; whnf
  split
  · exact h
  · split
    · exact sameShown_stale h _
    · exact (linePoisoned_shown ..).trans h

@[simp] theorem eccUncorrectable_shown (d : Dev) (m line : Nat) : coresShown (d.eccUncorrectable m line).cores = coresShown d.cores := keepShown_eccUncorrectable d m line
@[simp] theorem hardRepair_shown (d : Dev) (m : Nat) (r : RowAddr) : coresShown (d.hardRepair m r).cores = coresShown d.cores := by
  unfold Dev.hardRepair; repeat' split
  all_goals simp only [record_shown, useBudget_shown, updCh_kept, pprAdd_kept]

@[simp] theorem recordDrift_shown (d : Dev) (m off steps : Nat) : coresShown (d.recordDrift m off steps).cores = coresShown d.cores := by simp only [Dev.recordDrift, record_shown, takeFree_kept]
theorem sameShown_foldl {α : Type} {f : Dev → α → Dev} (h : ∀ d x, (f d x).SameShown d) (xs : List α) (d : Dev) : (xs.foldl f d).SameShown d :=
  foldl_shown f h xs d

theorem Dev.SameShown.trans {a b c : Dev} (h : a.SameShown b) (k : b.SameShown c) : a.SameShown c := Eq.trans h k

theorem sameShown_driftDone (d : Dev) (m : Nat) (drifts : List DriftSample) : (d.driftDone m drifts).SameShown d := by
  unfold Dev.driftDone
  extract_lets d1 ds d2 far offs d3 d4
  have h1 : d1.SameShown d := congrArg coresShown ((mcCheck_kept ..).2.trans (updCh_kept ..).2)
  have h2 : d2.SameShown d1 := by
    refine sameShown_foldl (fun d x => ?_) _ _
    dsimp only
    split
    · exact congrArg coresShown (setReg_kept ..).2
    · exact rfl
  have h3 : d3.SameShown d2 := congrArg coresShown (setRegF_kept ..).2
  have h4 : d4.SameShown d3 := by
    refine sameShown_foldl (fun d x => ?_) _ _
    split
    · exact recordDrift_shown ..
    · exact rfl
  exact .trans (congrArg coresShown (mcApply_kept ..).2) (h4.trans (h3.trans (h2.trans h1)))

@[simp] theorem driftDone_shown (d : Dev) (m : Nat) (drifts : List DriftSample) : coresShown (d.driftDone m drifts).cores = coresShown d.cores := sameShown_driftDone d m drifts
@[simp] theorem mcRun_shown (d : Dev) (m : Nat) : coresShown (d.mcRun m).cores = coresShown d.cores := by simp only [Dev.mcRun, setRegF_kept, setDom_kept, openPort_shown]

/-! ### Pcie -/

@[simp] theorem pceSignal_shown (d : Dev) (b : Fin 8) : coresShown (d.pceSignal b).cores = coresShown d.cores := by
  unfold Dev.pceSignal; dsimp only; split
  all_goals simp only [doorbell_shown]

@[simp] theorem flrStart_shown (d : Dev) (k : Nat) : coresShown (d.flrStart k).cores = coresShown d.cores := by
  have h := fun ns (d : Dev) => foldl_cores (fun (d : Dev) n => d.flushSet n) (fun d n => (flushSet_kept ..).2) ns d
  unfold Dev.flrStart
  dsimp only
  split
  · rfl
  · simp only [count_kept, h, resetChans_kept, updFn_kept, dropDelta_shown]

@[simp] theorem vfDestroy_shown (d : Dev) (k : Nat) : coresShown (d.vfDestroy k).cores = coresShown d.cores := by
  unfold Dev.vfDestroy; repeat' split
  all_goals simp only [updFn_kept, flrStart_shown]

@[simp] theorem vfDisable_shown (d : Dev) (b : Nat) : coresShown (d.vfDisable b).cores = coresShown d.cores := by
  unfold Dev.vfDisable
  rw [foldl_shown _ vfDestroy_shown]
  simp only [updBun_kept]

@[simp] theorem pfReset_shown (d : Dev) (b : Nat) : coresShown (d.pfReset b).cores = coresShown d.cores := by simp only [Dev.pfReset, flrStart_shown, vfDisable_shown, mgrReset_kept]
@[simp] theorem bundleReset_shown (d : Dev) (b : Nat) : coresShown (d.bundleReset b).cores = coresShown d.cores := by simp only [Dev.bundleReset, updBun_kept, linkGone_kept, pfReset_shown]
@[simp] theorem flrWrite_shown (d : Dev) (k : Nat) : coresShown (d.flrWrite k).cores = coresShown d.cores := by
  unfold Dev.flrWrite; repeat' split
  all_goals simp only [flrStart_shown, pfReset_shown]

@[simp] theorem vfEnableOff_shown (d : Dev) (b : Nat) : coresShown (d.vfEnableOff b).cores = coresShown d.cores := by
  unfold Dev.vfEnableOff; repeat' split
  all_goals simp only [vfDisable_shown]

theorem mgrCmd_shown {d : Dev} {b : Nat} {f : Nat → Dev → Dev} (h : ∀ k d, coresShown (f k d).cores = coresShown d.cores) :
    coresShown (d.mgrCmd b f).cores = coresShown d.cores := by
  unfold Dev.mgrCmd
  dsimp only
  repeat' split
  all_goals simp only [mgrResult_kept, h, updBun_kept]

@[simp] theorem vfmDo_shown (d : Dev) (b cmd : Nat) : coresShown (d.vfmDo b cmd).cores = coresShown d.cores := by
  unfold Dev.vfmDo
  split
  · rfl
  · refine mgrCmd_shown fun k d => ?_
    repeat' split
    all_goals simp only [mgrResult_kept, updFn_kept]
  · refine mgrCmd_shown fun k d => ?_
    split
    all_goals simp only [mgrResult_kept, vfDestroy_shown, setMgrF_kept, updBun_kept]
  · refine mgrCmd_shown fun k d => ?_
    simp only [mgrResult_kept, setMgrF_kept]
  · split
    · rfl
    · simp only [mgrResult_kept]


/-! ### ImgUnit -/

/-- The device with copy `b` of the image, `c`, launched: its regs and cores programmed, its journal replayed, the recovery sessions ended. -/
def Dev.launched (d : Dev) (b : Bool) (c : ImgCopy) : Dev :=
  let d := { d.setCopy b { c with launch := true } with img := { (d.setCopy b { c with launch := true }).img with active := b } }
  let d := (d.setRegF Reg.IMG_STATUS 1 1 (b2n b)).commitImage c.bytes
  let d := d.replay c.journal
  let i := decodeImage c.bytes
  let d := d.endSession fun s => s.recovery
  { d with boot := { d.boot with image := true, toRelease := (List.range 16).filter fun s => i.skeins.any fun c => c.skein == s } }

/-- The boot's try of copy `b` of the image, and what it does (`next`) where this copy does not boot. -/
def Dev.tryCopy (d : Dev) (va vb : ImgVerdict) (b : Bool) (next : Dev → Dev) : Dev :=
  if !(d.copy b).usable then next d
  else match d.imageFails (if b then vb else va) (d.copy b).bytes with
    | some (stage, st) => next ((if stage = 2 then d.auditStraps (decodeImage (d.copy b).bytes) else d).copyFails b stage st)
    | none => d.launched b (d.copy b)

theorem tryCopies_cons (d : Dev) (va vb : ImgVerdict) (b : Bool) (t : List Bool) :
    d.tryCopies va vb (b :: t) = d.tryCopy va vb b fun d => d.tryCopies va vb t := by
  delta Dev.tryCopies
  exact rfl

theorem kept_commit (d : Dev) (b : Bool) (r : List Byte) : ((d.setRegF Reg.IMG_STATUS 1 1 (b2n b)).commitImage r).Kept d := by
  simp only [Dev.Kept, commitImage_kept, setRegF_kept, and_self]

theorem kept_img {e d : Dev} (h : e.Kept d) (x : ImgState) : ({ e with img := x } : Dev).Kept d := h
theorem kept_setCopy (d : Dev) (b : Bool) (c : ImgCopy) : (d.setCopy b c).Kept d := setCopy_kept ..
theorem kept_replay (d : Dev) (js : List JournalEntry) : (d.replay js).Kept d := replay_kept ..
theorem kept_endSession (d : Dev) (p : Session → Bool) : (d.endSession p).Kept d := endSession_kept ..

theorem launched_kept (d : Dev) (b : Bool) (c : ImgCopy) : (d.launched b c).Kept d := by
  unfold Dev.launched
  exact kept_boot ((kept_endSession ..).trans ((kept_replay ..).trans ((kept_commit ..).trans (kept_img (kept_setCopy ..) _)))) _

theorem tryCopy_shown {d : Dev} {va vb : ImgVerdict} {b : Bool} {next : Dev → Dev} (h : ∀ d, coresShown (next d).cores = coresShown d.cores) :
    coresShown (d.tryCopy va vb b next).cores = coresShown d.cores := by
  unfold Dev.tryCopy
  split
  · exact h d
  split
  · rw [h, (copyFails_kept ..).2]
    split
    · simp only [auditStraps_kept]
    · rfl
  · exact congrArg coresShown (launched_kept ..).2

@[simp] theorem tryCopies_shown (d : Dev) (va vb : ImgVerdict) (z : List Bool) : coresShown (d.tryCopies va vb z).cores = coresShown d.cores := by
  induction z generalizing d with
  | nil => exact enterSafe_shown ..
  | cons b t ih =>
    rw [tryCopies_cons]
    exact tryCopy_shown fun d => ih d

@[simp] theorem takeover_shown (d : Dev) : coresShown d.takeover.cores = coresShown d.cores := by
  have h := fun (d : Dev) => foldl_shown (fun (d : Dev) s => if d.regF (Reg.DST_MBX_CTL s) 17 16 = 1 then d.mbxReply s (d.regF (Reg.DST_MBX_REQ s 0) 15 0) .flushed [] else d)
    (fun d s => ite_shown (mbxReply_shown ..) rfl) (List.range 16) d
  unfold Dev.takeover
  dsimp only
  split
  all_goals simp only [dropDelta_shown, updDst_kept, setImgUnit_kept, h, answerAll_shown]


/-! ### Iotu -/

@[simp] theorem ioReach_shown (d : Dev) (at_ : Nat) : coresShown (d.ioReach at_).1.cores = coresShown d.cores := by
  have h := hubReach_cores d 17 (at_ / 64) .rdnc
  unfold Dev.ioReach
  split
  all_goals
    rename_i he
    rw [he] at h
    dsimp only at h
    simp only [h]

@[simp] theorem ioWalkRead_shown (d : Dev) (b at_ : Nat) : coresShown (d.ioWalkRead b at_).1.cores = coresShown d.cores := by
  have h := ioReach_shown d at_
  unfold Dev.ioWalkRead
  split
  · rfl
  · split
    all_goals
      rename_i he
      rw [he] at h
      dsimp only at h
    · exact h
    · dsimp only
      split
      all_goals simp only [hubRead_kept, h]

@[simp] theorem ioStream_shown (d : Dev) (b rid : Nat) : coresShown (d.ioStream b rid).1.cores = coresShown d.cores := by
  have h := ioWalkRead_shown d b (d.reg64 (Reg.MMU_IO_STB_LO b) + rid * 8)
  unfold Dev.ioStream
  split
  · rfl
  split
  · rfl
  split
  all_goals
    rename_i he
    rw [he] at h
    dsimp only at h
  · exact h
  · dsimp only
    repeat' split
    all_goals simp only [updIotu_kept, h]

@[simp] theorem ioDescriptor_shown (d : Dev) (b rid seg : Nat) (x : IoStream) :
    coresShown (d.ioDescriptor b rid seg x).1.cores = coresShown d.cores := by
  have h := ioWalkRead_shown d b (field x.entry 51 8 * 256 + seg * 16)
  unfold Dev.ioDescriptor
  split
  · rfl
  dsimp only
  split
  all_goals
    rename_i he
    rw [he] at h
    dsimp only at h
  · exact h
  · repeat' split
    all_goals simp only [updIotu_kept, h]

/-- The read of a table entry in a walk: the entry remembered, or the one in memory. -/
theorem walkHit_shown {d : Dev} {b at_ : Nat} {o : Option (Nat × WalkEntry)} {r : Dev × Except IoStop Word}
    (h : (match o with | some e => (d, .ok e.2.pte) | none => d.ioWalkRead b at_) = r) : coresShown r.1.cores = coresShown d.cores := by
  subst h
  split
  · rfl
  · exact ioWalkRead_shown ..

@[simp] theorem ioWalk_shown (d : Dev) (b rid : Nat) (asid : BitVec 16) (g : Bool) (va code z z2 : Nat) :
    coresShown (d.ioWalk b rid asid g va code z z2).1.cores = coresShown d.cores := by
  induction z generalizing d z2 with
  | zero =>
    unfold Dev.ioWalk
    dsimp only
    split
    all_goals
      rename_i he
      have h := walkHit_shown he
      dsimp only at h
    · exact h
    · repeat' split
      all_goals exact h
  | succ n ih =>
    unfold Dev.ioWalk
    dsimp only
    split
    all_goals
      rename_i he
      have h := walkHit_shown he
      dsimp only at h
    · exact h
    · split
      · exact h
      split
      · exact h
      split
      · exact h
      refine (ih ..).trans ?_
      split
      · exact h
      · simp only [updIotu_kept, h]

@[simp] theorem ioFind_shown (d : Dev) (b rid : Nat) (addr : Word) (write : Bool) :
    coresShown (d.ioFind b rid addr write).1.cores = coresShown d.cores := by
  unfold Dev.ioFind
  split
  · rfl
  dsimp only
  have h := ioStream_shown d b rid
  split
  all_goals
    rename_i he
    rw [he] at h
    dsimp only at h
  · exact h
  next e x =>
  have h1 := ioDescriptor_shown e b rid (field addr 63 60) x
  split
  all_goals
    rename_i he
    rw [he] at h1
    dsimp only at h1
  · rw [h1, h]
  next e1 w0 w1 =>
  split
  · rw [h1, h]
  split
  · rw [h1, h]
  have h2 := ioWalk_shown e1 b rid (BitVec.ofNat 16 (field w1 63 48)) (bit w0 5) (field addr 47 0) (if write then 0x06 else 0x05) 3 (field w0 51 12 * 4096)
  split
  all_goals
    rename_i he
    rw [he] at h2
    dsimp only at h2
    simp only [updIotu_kept, h2, h1, h]

@[simp] theorem ioMark_shown (d : Dev) (e : TlbEntry) (write : Bool) : coresShown (d.ioMark e write).1.cores = coresShown d.cores := by
  unfold Dev.ioMark
  dsimp only
  split
  · rfl
  have h := ioReach_shown d e.leafAt
  split
  all_goals
    rename_i he
    rw [he] at h
    dsimp only at h
  · exact h
  · split
    all_goals simp only [updIotu_kept, hubWriteAll_shown, h]

@[simp] theorem ioOnce_shown (d : Dev) (b rid : Nat) (addr : Word) (write : Bool) (len : Nat) :
    coresShown (d.ioOnce b rid addr write len).1.cores = coresShown d.cores := by
  have h := ioFind_shown d b rid addr write
  unfold Dev.ioOnce
  split
  all_goals
    rename_i he
    rw [he] at h
    dsimp only at h
  · exact h
  next e x w0 =>
  dsimp only
  split
  · exact h
  have h1 := ioMark_shown e x write
  split
  all_goals
    rename_i he
    rw [he] at h1
    exact h1.trans h

@[simp] theorem ioTranslate_shown (d : Dev) (b rid : Nat) (addr : Word) (write : Bool) (len : Nat) :
    coresShown (d.ioTranslate b rid addr write len).1.cores = coresShown d.cores := by
  have h := ioOnce_shown d b rid addr write len
  unfold Dev.ioTranslate
  split
  all_goals
    rename_i he
    rw [he] at h
    dsimp only at h
  · exact h
  · exact h
  next e =>
  have h1 := ioOnce_shown e b rid addr write len
  split
  all_goals
    rename_i he
    rw [he] at h1
    exact h1.trans h

@[simp] theorem ioFault_shown (d : Dev) (b rid : Nat) (addr : Word) (write : Bool) (code sub : Nat) :
    coresShown (d.ioFault b rid addr write code sub).cores = coresShown d.cores := by
  unfold Dev.ioFault; dsimp only; repeat' split
  all_goals simp only [setReg_kept, setRegF_kept, setReg64_kept, doorbell_shown]

@[simp] theorem ioStart_shown (d : Dev) (x : HubAccess) (addr : Word) : coresShown (d.ioStart x addr).cores = coresShown d.cores := by
  unfold Dev.ioStart
  refine ite_shown (by simp only [hubAnswer_kept]) ?_
  have h := ioTranslate_shown d x.bd x.rid addr x.write x.len
  split
  all_goals
    rename_i he
    rw [he] at h
    simp only [hubAnswer_kept, ioFault_shown, hubQueue_kept, hubGo_shown, h]


/-! ### Ctl -/

@[simp] theorem storeDead_shown (d : Dev) (q : Requester) (pa : Nat) : coresShown (d.storeDead q pa).cores = coresShown d.cores := by
  unfold Dev.storeDead; repeat' split
  all_goals simp only [storeError_shown]


/-! ### Window -/

@[simp] theorem msgVec_shown (d : Dev) (m : VecMsg) : coresShown (d.msgVec m).cores = coresShown d.cores := by
  unfold Dev.msgVec; repeat' split
  all_goals simp only [dropVec_kept, deliverVec_shown]


end Sys2Proof.Machine
end

section
/-! PROOFS. The commands that store nothing and those that leave the cores, one by one: each is a function of the device that is made of functions
which keep the bytes of memory and what programs see of a core. -/
namespace Sys2Proof.Machine

/-- Every state that the outcome leads to has the bytes of `s`. -/
def BytesStay (s : State) (o : Host.Outcome State Fault Refusal) : Prop := ∀ t, o = .next t → t.dev.mem.bytes = s.dev.mem.bytes

/-- Every state that the outcome leads to has the cores of `s`, as programs see them. -/
def ShownStays (s : State) (o : Host.Outcome State Fault Refusal) : Prop := ∀ t, o = .next t → coresShown t.dev.cores = coresShown s.dev.cores

/-- `e` has the bytes of `d`, and its cores as programs see them. -/
def Dev.Quiet (e d : Dev) : Prop := e.mem.bytes = d.mem.bytes ∧ coresShown e.cores = coresShown d.cores

theorem onDev_next {s t : State} {f : Dev → Dev} (h : onDev s f = .next t) : t.dev = f s.dev := by
  simp only [onDev, Host.Outcome.next.injEq] at h
  rw [← h, State.withDev]

theorem onDev_bytes {s : State} {f : Dev → Dev} (h : ∀ d, (f d).mem.bytes = d.mem.bytes) : BytesStay s (onDev s f) := fun t ht => by
  rw [onDev_next ht, h]

theorem onDev_shown {s : State} {f : Dev → Dev} (h : ∀ d, coresShown (f d).cores = coresShown d.cores) : ShownStays s (onDev s f) := fun t ht => by
  rw [onDev_next ht, h]

theorem onDev_quiet {s : State} {f : Dev → Dev} (h : ∀ d, (f d).mem.bytes = d.mem.bytes ∧ coresShown (f d).cores = coresShown d.cores) :
    BytesStay s (onDev s f) ∧ ShownStays s (onDev s f) := ⟨onDev_bytes fun d => (h d).1, onDev_shown fun d => (h d).2⟩

/-- The same with the relation by its name, where the kernel must not evaluate what `f` gives. -/
theorem onDev_quiet_of {s : State} {f : Dev → Dev} (h : ∀ d, (f d).Quiet d) : BytesStay s (onDev s f) ∧ ShownStays s (onDev s f) :=
  onDev_quiet fun d => h d

theorem onDev_shown_of {s : State} {f : Dev → Dev} (h : ∀ d, (f d).SameShown d) : ShownStays s (onDev s f) := onDev_shown fun d => h d

theorem sameShown_boot {e d : Dev} (h : e.SameShown d) (b : Boot) : ({ e with boot := b } : Dev).SameShown d := h

theorem quiet_of_kept {e d : Dev} (h : e.mem.bytes = d.mem.bytes ∧ e.cores = d.cores) :
    e.mem.bytes = d.mem.bytes ∧ coresShown e.cores = coresShown d.cores := ⟨h.1, congrArg coresShown h.2⟩

theorem ite_quiet {c : Prop} [Decidable c] {a b d : Dev} (ha : a.mem.bytes = d.mem.bytes ∧ coresShown a.cores = coresShown d.cores)
    (hb : b.mem.bytes = d.mem.bytes ∧ coresShown b.cores = coresShown d.cores) :
    (if c then a else b).mem.bytes = d.mem.bytes ∧ coresShown (if c then a else b).cores = coresShown d.cores := by
  split
  · exact ha
  · exact hb

theorem foldl_quiet {α : Type} (f : Dev → α → Dev) (h : ∀ d x, (f d x).mem.bytes = d.mem.bytes ∧ coresShown (f d x).cores = coresShown d.cores)
    (xs : List α) (d : Dev) : (xs.foldl f d).mem.bytes = d.mem.bytes ∧ coresShown (xs.foldl f d).cores = coresShown d.cores :=
  ⟨foldl_bytes f (fun d x => (h d x).1) xs d, foldl_shown f (fun d x => (h d x).2) xs d⟩

theorem updCore_quiet (d : Dev) (l : Nat) (f : Core → Core) (h : ∀ c, (f c).shown = c.shown) :
    (d.updCore l f).mem.bytes = d.mem.bytes ∧ coresShown (d.updCore l f).cores = coresShown d.cores := ⟨updCore_bytes .., updCore_shown _ _ _ h⟩

/-! ### The functions that take a function -/

section
variable {d : Dev} {who : Caller} {arg : List Byte} {may : Option Session → Bool} {act : Dev → Done}

theorem serveAs_quiet {c : Cmd} {kind : Nat} {as_ : Option (Nat × Nat)} {sound : Bool}
    (h : ∀ d, (act d).dev.mem.bytes = d.mem.bytes ∧ coresShown (act d).dev.cores = coresShown d.cores) :
    (d.serveAs who c kind as_ sound may arg act).mem.bytes = d.mem.bytes ∧
      coresShown (d.serveAs who c kind as_ sound may arg act).cores = coresShown d.cores := ⟨serveAs_bytes fun d => (h d).1, serveAs_shown fun d => (h d).2⟩

theorem serve_quiet {c : Cmd} (h : ∀ d, (act d).dev.mem.bytes = d.mem.bytes ∧ coresShown (act d).dev.cores = coresShown d.cores) :
    (d.serve who c may arg act).mem.bytes = d.mem.bytes ∧ coresShown (d.serve who c may arg act).cores = coresShown d.cores := serveAs_quiet h

theorem dbg_bytes {code l : Nat} {safe sample : Bool} (h : ∀ d, (act d).dev.mem.bytes = d.mem.bytes) :
    (d.dbg who code l safe sample arg act).mem.bytes = d.mem.bytes := by
  refine serve_bytes fun d => ?_
  split
  · exact h d
  · rfl

theorem dbg_quiet {code l : Nat} {safe sample : Bool}
    (h : ∀ d, (act d).dev.mem.bytes = d.mem.bytes ∧ coresShown (act d).dev.cores = coresShown d.cores) :
    (d.dbg who code l safe sample arg act).mem.bytes = d.mem.bytes ∧
      coresShown (d.dbg who code l safe sample arg act).cores = coresShown d.cores := by
  refine serve_quiet fun d => ?_
  split
  · exact h d
  · exact ⟨rfl, rfl⟩

theorem imgServe_quiet {code : Nat} {recovery safe read : Bool}
    (h : ∀ d, (act d).dev.mem.bytes = d.mem.bytes ∧ coresShown (act d).dev.cores = coresShown d.cores) :
    (d.imgServe who code recovery safe read may act).mem.bytes = d.mem.bytes ∧
      coresShown (d.imgServe who code recovery safe read may act).cores = coresShown d.cores := by
  refine serve_quiet fun d => ?_
  split
  · simp only [imgEnds_kept, and_self]
  · split
    · simp only [imgEnds_kept, and_self]
    · exact h d

theorem mgrMbx_quiet {b : Nat} {f : Nat → Dev → Dev} (h : ∀ k d, (f k d).mem.bytes = d.mem.bytes ∧ coresShown (f k d).cores = coresShown d.cores) :
    (d.mgrMbx b f).mem.bytes = d.mem.bytes ∧ coresShown (d.mgrMbx b f).cores = coresShown d.cores := by
  unfold Dev.mgrMbx
  exact ite_quiet ⟨rfl, rfl⟩ (ite_quiet (h ..) (quiet_of_kept (mbxResult_kept ..)))

theorem orRefused_quiet {q : Requester} {a : Nat} {f : Dev → Dev} (h : ∀ d, (f d).mem.bytes = d.mem.bytes ∧ coresShown (f d).cores = coresShown d.cores) :
    (d.orRefused q a f).mem.bytes = d.mem.bytes ∧ coresShown (d.orRefused q a f).cores = coresShown d.cores := by
  unfold Dev.orRefused
  exact ite_quiet ⟨storeDead_bytes .., storeDead_shown ..⟩ (h d)

theorem onMsg_bytes {k : CohKind} {agent line : Nat} {f : Dev → CohMsg → Dev} (h : ∀ d m, (f d m).mem.bytes = d.mem.bytes) :
    (d.onMsg k agent line f).mem.bytes = d.mem.bytes := by
  unfold Dev.onMsg
  split
  · exact ite_bytes (by simp only [h, arrived_kept]) rfl
  · rfl

theorem onMsg_shown {k : CohKind} {agent line : Nat} {f : Dev → CohMsg → Dev} (h : ∀ d m, coresShown (f d m).cores = coresShown d.cores) :
    coresShown (d.onMsg k agent line f).cores = coresShown d.cores := by
  unfold Dev.onMsg
  split
  · exact ite_shown (by simp only [h, arrived_kept]) rfl
  · rfl

theorem onMsg_quiet {k : CohKind} {agent line : Nat} {f : Dev → CohMsg → Dev}
    (h : ∀ d m, (f d m).mem.bytes = d.mem.bytes ∧ coresShown (f d m).cores = coresShown d.cores) :
    (d.onMsg k agent line f).mem.bytes = d.mem.bytes ∧ coresShown (d.onMsg k agent line f).cores = coresShown d.cores :=
  ⟨onMsg_bytes fun d m => (h d m).1, onMsg_shown fun d m => (h d m).2⟩
end


/-! ### The commands -/

theorem hpprRepair_quiet (mc : Fin 16) (s : State) : BytesStay s (execHpprRepair mc s) ∧ ShownStays s (execHpprRepair mc s) := onDev_quiet fun d => by
  refine ite_quiet ⟨rfl, rfl⟩ ?_
  refine ((foldl_quiet _ (fun d r => ⟨hardRepair_bytes .., hardRepair_shown ..⟩) _ _).imp (·.trans ?_) (·.trans ?_))
  all_goals simp only [updCh_kept, setRegF_kept]

theorem imgRead_quiet (caller : Caller) (s : State) : BytesStay s (execImgRead caller s) ∧ ShownStays s (execImgRead caller s) := onDev_quiet fun d => imgServe_quiet fun d => by
  simp only [imgEnds_kept, and_self]

theorem imgCheck_quiet (caller : Caller) (verdict : ImgVerdict) (s : State) :
    BytesStay s (execImgCheck caller verdict s) ∧ ShownStays s (execImgCheck caller verdict s) := onDev_quiet fun d => imgServe_quiet fun d => by
  dsimp only; repeat' split
  all_goals simp only [imgEnds_kept, imgBegin_kept, checkObject_kept, and_self]

theorem imgStage_quiet (caller : Caller) (verdict : ImgVerdict) (s : State) :
    BytesStay s (execImgStage caller verdict s) ∧ ShownStays s (execImgStage caller verdict s) := onDev_quiet fun d => imgServe_quiet fun d => by
  dsimp only; repeat' split
  all_goals simp only [imgEnds_kept, imgBegin_kept, checkObject_kept, and_self]

theorem imgDelta_quiet (caller : Caller) (verdict : DeltaVerdict) (s : State) :
    BytesStay s (execImgDelta caller verdict s) ∧ ShownStays s (execImgDelta caller verdict s) := onDev_quiet fun d => imgServe_quiet fun d => by
  dsimp only; repeat' split
  all_goals simp only [setImgUnit_kept, imgEnds_kept, and_self]

theorem deltaJournalWriteDone_quiet (s : State) : BytesStay s (execDeltaJournalWriteDone s) ∧ ShownStays s (execDeltaJournalWriteDone s) := onDev_quiet fun d => by
  dsimp only; repeat' split
  all_goals simp only [setCopy_kept, setDeltaSeq_kept, and_self]

theorem deltaSwitch_quiet (s : State) : BytesStay s (execDeltaSwitch s) ∧ ShownStays s (execDeltaSwitch s) := onDev_quiet fun d => by
  dsimp only; repeat' split
  all_goals simp only [audit_kept, deltaAnswer_bytes, deltaAnswer_shown, setImgUnit_kept, setDeltaSeq_kept, runImage_kept, and_self]

theorem waitCancel_quiet (l : Fin 384) (s : State) : BytesStay s (execWaitCancel l s) ∧ ShownStays s (execWaitCancel l s) := onDev_quiet fun d => by
  repeat' split
  all_goals simp only [unwait_bytes, unwait_shown, and_self]

theorem chStopped_quiet (bd : Fin 8) (fn : Fin 1025) (ch : Fin 8) (s : State) :
    BytesStay s (execChStopped bd fn ch s) ∧ ShownStays s (execChStopped bd fn ch s) := onDev_quiet fun d => by
  dsimp only; split
  all_goals simp only [setChState_kept, and_self]

theorem bqChRxDb_quiet (bd : Fin 8) (fn : Fin 1025) (ch : Fin 8) (v : BitVec 32) (s : State) :
    BytesStay s (execBqChRxDb bd fn ch v s) ∧ ShownStays s (execBqChRxDb bd fn ch v s) := onDev_quiet fun d => by simp only [chRxDb_kept, and_self]
theorem creqRetry_quiet (qa : BitVec 32) (s : State) : BytesStay s (execCreqRetry qa s) ∧ ShownStays s (execCreqRetry qa s) := onDev_quiet fun d => foldl_quiet _ (fun d r => quiet_of_kept (hankSay_kept ..)) _ _
theorem creditBlockIdleRelease_quiet (qa : BitVec 32) (s : State) :
    BytesStay s (execCreditBlockIdleRelease qa s) ∧ ShownStays s (execCreditBlockIdleRelease qa s) := onDev_quiet fun d => by
  dsimp only; split
  all_goals simp only [timeTo_kept, releaseBlock_kept, and_self]

theorem waitiResume_quiet (l : Fin 384) (s : State) : BytesStay s (execWaitiResume l s) ∧ ShownStays s (execWaitiResume l s) := onDev_quiet fun d => ite_quiet (by
  rw [(dropSelf_kept ..).1, (dropSelf_kept ..).2]
  exact updCore_quiet _ _ _ fun c => rfl) ⟨rfl, rfl⟩

theorem timerExpire_quiet (l : Fin 384) (s : State) : BytesStay s (execTimerExpire l s) ∧ ShownStays s (execTimerExpire l s) := onDev_quiet fun d => by
  split
  all_goals simp only [timeTo_kept, and_self]

theorem sTimerExpire_quiet (l : Fin 384) (s : State) : BytesStay s (execSTimerExpire l s) ∧ ShownStays s (execSTimerExpire l s) := onDev_quiet fun d => by
  split
  all_goals simp only [timeTo_kept, and_self]

theorem swdogPackageReset_quiet (_sk : Fin 16) (s : State) : BytesStay s (execSwdogPackageReset _sk s) ∧ ShownStays s (execSwdogPackageReset _sk s) := onDev_quiet fun d => by
  split
  all_goals simp only [timeTo_kept, orderReset_kept, and_self]

theorem ndogWarn_quiet (sk : Fin 16) (s : State) : BytesStay s (execNdogWarn sk s) ∧ ShownStays s (execNdogWarn sk s) := onDev_quiet fun d => by
  dsimp only; split
  all_goals simp only [raiseLocal_bytes, raiseLocal_shown, updWd_kept, timeTo_kept, and_self]

theorem ndogExpire_quiet (sk : Fin 16) (s : State) : BytesStay s (execNdogExpire sk s) ∧ ShownStays s (execNdogExpire sk s) := onDev_quiet fun d => by
  dsimp only; split
  all_goals simp only [timeTo_kept, audit_kept, orderReset_kept, and_self]

theorem refclk25Loss_quiet (s : State) : BytesStay s (execRefclk25Loss s) ∧ ShownStays s (execRefclk25Loss s) := onDev_quiet fun d => by
  dsimp only; repeat' split
  all_goals simp only [setRegF_kept, audit_kept, and_self]

theorem iotuInvStream_quiet (q : Requester) (bd : Fin 8) (id : BitVec 16) (s : State) :
    BytesStay s (execIotuInvStream q bd id s) ∧ ShownStays s (execIotuInvStream q bd id s) := onDev_quiet fun d => by simp only [ioInvWrite_kept, and_self]
theorem iotuInvAsid_quiet (q : Requester) (bd : Fin 8) (id : BitVec 16) (s : State) :
    BytesStay s (execIotuInvAsid q bd id s) ∧ ShownStays s (execIotuInvAsid q bd id s) := onDev_quiet fun d => by simp only [ioInvWrite_kept, and_self]
theorem iotuInvVa_quiet (q : Requester) (bd : Fin 8) (s : State) : BytesStay s (execIotuInvVa q bd s) ∧ ShownStays s (execIotuInvVa q bd s) := onDev_quiet fun d => by simp only [ioInvWrite_kept, and_self]
theorem iotuInvAll_quiet (q : Requester) (bd : Fin 8) (s : State) : BytesStay s (execIotuInvAll q bd s) ∧ ShownStays s (execIotuInvAll q bd s) := onDev_quiet fun d => by simp only [ioInvWrite_kept, and_self]
theorem iotuInvDone_quiet (bd : Fin 8) (s : State) : BytesStay s (execIotuInvDone bd s) ∧ ShownStays s (execIotuInvDone bd s) := onDev_quiet fun d => by
  split
  all_goals simp only [setRegF_kept, and_self]

theorem msgDeliver_quiet (m : MsgKind) (s : State) : BytesStay s (execMsgDeliver m s) ∧ ShownStays s (execMsgDeliver m s) := onDev_quiet fun d => by
  split
  all_goals simp only [msgVec_bytes, msgVec_shown, and_self]

theorem doneMsg_quiet (agent : AgentId) (line : Nat) (s : State) : BytesStay s (execDoneMsg agent line s) ∧ ShownStays s (execDoneMsg agent line s) := onDev_quiet fun d => onMsg_quiet fun d m => ⟨takeDone_bytes .., takeDone_shown ..⟩
theorem already_quiet (agent : AgentId) (line : Nat) (s : State) : BytesStay s (execAlready agent line s) ∧ ShownStays s (execAlready agent line s) := onDev_quiet fun d => onMsg_quiet fun d m => ⟨rfl, rfl⟩
theorem invMsg_quiet (agent : AgentId) (line : Nat) (s : State) : BytesStay s (execInvMsg agent line s) ∧ ShownStays s (execInvMsg agent line s) := onDev_quiet fun d => onMsg_quiet fun d m => quiet_of_kept (takeInv_kept ..)
theorem recallS_quiet (agent : AgentId) (line : Nat) (s : State) : BytesStay s (execRecallS agent line s) ∧ ShownStays s (execRecallS agent line s) := onDev_quiet fun d => onMsg_quiet fun d m => quiet_of_kept (takeRecall_kept ..)
theorem recallI_quiet (agent : AgentId) (line : Nat) (s : State) : BytesStay s (execRecallI agent line s) ∧ ShownStays s (execRecallI agent line s) := onDev_quiet fun d => onMsg_quiet fun d m => quiet_of_kept (takeRecall_kept ..)
theorem recallD_quiet (agent : AgentId) (line : Nat) (s : State) : BytesStay s (execRecallD agent line s) ∧ ShownStays s (execRecallD agent line s) := onDev_quiet fun d => onMsg_quiet fun d m => quiet_of_kept (takeRecall_kept ..)
theorem creditPacket_quiet (port : Fin 2) (counts : List Nat) (s : State) :
    BytesStay s (execCreditPacket port counts s) ∧ ShownStays s (execCreditPacket port counts s) := onDev_quiet fun d => by
  dsimp only; split
  all_goals simp only [and_self]

theorem l3WayDown_quiet (q : Requester) (die way : Fin 16) (s : State) :
    BytesStay s (execL3WayDown q die way s) ∧ ShownStays s (execL3WayDown q die way s) := onDev_quiet fun d => by simp only [wayCmd_kept, and_self]
theorem l3WayUp_quiet (q : Requester) (die way : Fin 16) (s : State) :
    BytesStay s (execL3WayUp q die way s) ∧ ShownStays s (execL3WayUp q die way s) := onDev_quiet fun d => by simp only [wayCmd_kept, and_self]
theorem hcWayDown_quiet (q : Requester) (way : Fin 16) (s : State) : BytesStay s (execHcWayDown q way s) ∧ ShownStays s (execHcWayDown q way s) := onDev_quiet fun d => by simp only [wayCmd_kept, and_self]
theorem hcWayUp_quiet (q : Requester) (way : Fin 16) (s : State) : BytesStay s (execHcWayUp q way s) ∧ ShownStays s (execHcWayUp q way s) := onDev_quiet fun d => by simp only [wayCmd_kept, and_self]
theorem portIsolate_quiet (p : MeshPort) (s : State) : BytesStay s (execPortIsolate p s) ∧ ShownStays s (execPortIsolate p s) := onDev_quiet fun d => by simp only [isolate_kept, and_self]
theorem discover_quiet (q : Requester) (port : Fin 2) (result : GuestResult) (s : State) :
    BytesStay s (execDiscover q port result s) ∧ ShownStays s (execDiscover q port result s) := onDev_quiet fun d => by simp only [gstDo_kept, and_self]
theorem guestDiscoverTimeout_quiet (port : Fin 2) (s : State) :
    BytesStay s (execGuestDiscoverTimeout port s) ∧ ShownStays s (execGuestDiscoverTimeout port s) := onDev_quiet fun d => by
  dsimp only; repeat' split
  all_goals simp only [audit_kept, gstSet_kept, and_self]

theorem guestAdmit_quiet (q : Requester) (port : Fin 2) (result : GuestResult) (s : State) :
    BytesStay s (execGuestAdmit q port result s) ∧ ShownStays s (execGuestAdmit q port result s) := onDev_quiet fun d => by simp only [gstDo_kept, and_self]
theorem gstRetrain_quiet (q : Requester) (port : Fin 2) (result : GuestResult) (s : State) :
    BytesStay s (execGstRetrain q port result s) ∧ ShownStays s (execGstRetrain q port result s) := onDev_quiet fun d => by simp only [gstDo_kept, and_self]
theorem gstDisable_quiet (q : Requester) (port : Fin 2) (result : GuestResult) (s : State) :
    BytesStay s (execGstDisable q port result s) ∧ ShownStays s (execGstDisable q port result s) := onDev_quiet fun d => by simp only [gstDo_kept, and_self]
theorem scrubRead_quiet (mc : Fin 16) (decode : EccOutcome) (s : State) :
    BytesStay s (execScrubRead mc decode s) ∧ ShownStays s (execScrubRead mc decode s) := onDev_quiet fun d => by
  dsimp only; repeat' split
  all_goals simp only [setRegF_kept, updCh_kept, eccCorrected_bytes, eccCorrected_shown, eccUncorrectable_bytes, eccUncorrectable_shown, and_self]

theorem spprRepair_quiet (mc : Fin 16) (row : RowAddr) (s : State) : BytesStay s (execSpprRepair mc row s) ∧ ShownStays s (execSpprRepair mc row s) := onDev_quiet fun d => by
  dsimp only; repeat' split
  all_goals simp only [record_bytes, record_shown, useBudget_bytes, useBudget_shown, updCh_kept, pprAdd_kept, and_self]

theorem refreshRank_quiet (mc : Fin 16) (sub : Fin 2) (rank : Fin 4) (s : State) :
    BytesStay s (execRefreshRank mc sub rank s) ∧ ShownStays s (execRefreshRank mc sub rank s) := onDev_quiet fun d => by
  split
  all_goals simp only [updCh_kept, and_self]

theorem neighbourRefresh_quiet (mc : Fin 16) (_row : RowAddr) (s : State) :
    BytesStay s (execNeighbourRefresh mc _row s) ∧ ShownStays s (execNeighbourRefresh mc _row s) := onDev_quiet fun d => by
  split
  all_goals simp only [count_kept, and_self]

theorem driftCheck_quiet (mc : Fin 16) (drifts : List DriftSample) (s : State) :
    BytesStay s (execDriftCheck mc drifts s) ∧ ShownStays s (execDriftCheck mc drifts s) := onDev_quiet fun d => by
  dsimp only; repeat' split
  all_goals simp only [updCh_kept, mcCheck_kept, driftDone_bytes, driftDone_shown, and_self]

theorem mcApply_quiet (q : Requester) (mc : Fin 16) (s : State) : BytesStay s (execMcApply q mc s) ∧ ShownStays s (execMcApply q mc s) := onDev_quiet fun d => by
  split
  all_goals simp only [mcApply_kept, and_self]

theorem mcCheck_quiet (q : Requester) (mc : Fin 16) (s : State) : BytesStay s (execMcCheck q mc s) ∧ ShownStays s (execMcCheck q mc s) := onDev_quiet fun d => by
  split
  all_goals simp only [mcCheck_kept, and_self]

theorem applyWindow_quiet (mc : Fin 16) (sub : Fin 2) (s : State) :
    BytesStay s (execApplyWindow mc sub s) ∧ ShownStays s (execApplyWindow mc sub s) := onDev_quiet fun d => by
  dsimp only; repeat' split
  all_goals simp only [setRegF_kept, updCh_kept, goLive_kept, and_self]

theorem pcieLinkUp_quiet (bd : Fin 8) (speed : Fin 7) (width : Fin 17) (s : State) :
    BytesStay s (execPcieLinkUp bd speed width s) ∧ ShownStays s (execPcieLinkUp bd speed width s) := onDev_quiet fun d => by
  dsimp only; repeat' split
  all_goals simp only [setRegF_kept, updBun_kept, setPceState_kept, and_self]

theorem pcieLinkDown_quiet (bd : Fin 8) (s : State) : BytesStay s (execPcieLinkDown bd s) ∧ ShownStays s (execPcieLinkDown bd s) := onDev_quiet fun d => by
  dsimp only; repeat' split
  all_goals simp only [isolate_kept, setPceState_kept, pceSignal_bytes, pceSignal_shown, linkGone_kept, bundleReset_bytes, bundleReset_shown, and_self]

theorem rearm_quiet (q : Requester) (bd : Fin 8) (s : State) : BytesStay s (execRearm q bd s) ∧ ShownStays s (execRearm q bd s) := onDev_quiet fun d => by simp only [pceDo_kept, and_self]
theorem pceRetrain_quiet (q : Requester) (bd : Fin 8) (s : State) : BytesStay s (execPceRetrain q bd s) ∧ ShownStays s (execPceRetrain q bd s) := onDev_quiet fun d => by simp only [pceDo_kept, and_self]
theorem vfEnableSet_quiet (bd : Fin 8) (num : BitVec 16) (s : State) :
    BytesStay s (execVfEnableSet bd num s) ∧ ShownStays s (execVfEnableSet bd num s) := onDev_quiet fun d => by simp only [vfEnable_kept, and_self]
theorem vfEnableClear_quiet (bd : Fin 8) (s : State) : BytesStay s (execVfEnableClear bd s) ∧ ShownStays s (execVfEnableClear bd s) := onDev_quiet fun d => by simp only [vfEnableOff_bytes, vfEnableOff_shown, and_self]
theorem vfmCreate_quiet (bd : Fin 8) (s : State) : BytesStay s (execVfmCreate bd s) ∧ ShownStays s (execVfmCreate bd s) := onDev_quiet fun d => by simp only [vfmDo_bytes, vfmDo_shown, and_self]
theorem vfmDestroy_quiet (bd : Fin 8) (s : State) : BytesStay s (execVfmDestroy bd s) ∧ ShownStays s (execVfmDestroy bd s) := onDev_quiet fun d => by simp only [vfmDo_bytes, vfmDo_shown, and_self]
theorem vfmQuery_quiet (bd : Fin 8) (s : State) : BytesStay s (execVfmQuery bd s) ∧ ShownStays s (execVfmQuery bd s) := onDev_quiet fun d => by simp only [vfmDo_bytes, vfmDo_shown, and_self]
theorem msixUnmask_quiet (bd : Fin 8) (fn : Fin 1025) (vec : Nat) (s : State) :
    BytesStay s (execMsixUnmask bd fn vec s) ∧ ShownStays s (execMsixUnmask bd fn vec s) := onDev_quiet fun d => by
  split
  all_goals simp only [fnUnmask_kept, vecMask_kept, and_self]

theorem pmeWake_quiet (bd : Fin 8) (s : State) : BytesStay s (execPmeWake bd s) ∧ ShownStays s (execPmeWake bd s) := onDev_quiet fun d => by
  dsimp only; repeat' split
  all_goals simp only [emit_kept, updBun_kept, and_self]

theorem pePerstNAssert_quiet (bd : Fin 8) (s : State) : BytesStay s (execPePerstNAssert bd s) ∧ ShownStays s (execPePerstNAssert bd s) := onDev_quiet fun d => by
  split
  all_goals simp only [updBun_kept, bundleReset_bytes, bundleReset_shown, and_self]

theorem pePerstNDeassert_quiet (bd : Fin 8) (s : State) : BytesStay s (execPePerstNDeassert bd s) ∧ ShownStays s (execPePerstNDeassert bd s) := onDev_quiet fun d => by
  split
  all_goals simp only [updBun_kept, and_self]

theorem hotReset_quiet (bd : Fin 8) (s : State) : BytesStay s (execHotReset bd s) ∧ ShownStays s (execHotReset bd s) := onDev_quiet fun d => by
  split
  all_goals simp only [bundleReset_bytes, bundleReset_shown, and_self]

theorem initiateFunctionLevelReset_quiet (bd : Fin 8) (fn : Fin 1025) (s : State) :
    BytesStay s (execInitiateFunctionLevelReset bd fn s) ∧ ShownStays s (execInitiateFunctionLevelReset bd fn s) := onDev_quiet fun d => by simp only [flrWrite_bytes, flrWrite_shown, and_self]
theorem flrComplete_quiet (bd : Fin 8) (fn : Fin 1025) (s : State) : BytesStay s (execFlrComplete bd fn s) ∧ ShownStays s (execFlrComplete bd fn s) := onDev_quiet fun d => by
  dsimp only; split
  all_goals simp only [flrEnd_kept, and_self]

theorem fnMbxSend_quiet (bd : Fin 8) (fn : Fin 1025) (s : State) : BytesStay s (execFnMbxSend bd fn s) ∧ ShownStays s (execFnMbxSend bd fn s) := onDev_quiet fun d => by
  dsimp only; split
  all_goals simp only [mbxSend_kept, and_self]

theorem fnMbxAck_quiet (bd : Fin 8) (fn : Fin 1025) (s : State) : BytesStay s (execFnMbxAck bd fn s) ∧ ShownStays s (execFnMbxAck bd fn s) := onDev_quiet fun d => by
  dsimp only; split
  all_goals simp only [mbxAck_kept, and_self]

theorem vfmMbxSend_quiet (bd : Fin 8) (s : State) : BytesStay s (execVfmMbxSend bd s) ∧ ShownStays s (execVfmMbxSend bd s) := onDev_quiet fun d => mgrMbx_quiet fun k d => quiet_of_kept (mbxSend_kept ..)
theorem vfmMbxAck_quiet (bd : Fin 8) (s : State) : BytesStay s (execVfmMbxAck bd s) ∧ ShownStays s (execVfmMbxAck bd s) := onDev_quiet fun d => mgrMbx_quiet fun k d => quiet_of_kept (mbxAck_kept ..)
theorem deviceMailboxAnswer_quiet (bd : Fin 8) (fn : Fin 1025) (s : State) :
    BytesStay s (execDeviceMailboxAnswer bd fn s) ∧ ShownStays s (execDeviceMailboxAnswer bd fn s) := onDev_quiet fun d => by
  dsimp only; repeat' split
  all_goals simp only [devReply_kept, and_self]

theorem dlogSwap_quiet (bd : Fin 8) (fn : Fin 1025) (s : State) : BytesStay s (execDlogSwap bd fn s) ∧ ShownStays s (execDlogSwap bd fn s) := onDev_quiet fun d => by simp only [dlogDo_kept, and_self]
theorem dlogSwapDone_quiet (bd : Fin 8) (fn : Fin 1025) (s : State) :
    BytesStay s (execDlogSwapDone bd fn s) ∧ ShownStays s (execDlogSwapDone bd fn s) := onDev_quiet fun d => by
  dsimp only; split
  all_goals simp only [setBarF_kept, and_self]

theorem hankPortUp_quiet (port : Fin 8) (s : State) : BytesStay s (execHankPortUp port s) ∧ ShownStays s (execHankPortUp port s) := onDev_quiet fun d => by
  split
  all_goals simp only [setPortState_kept, and_self]

theorem hankPortDown_quiet (port : Fin 8) (s : State) : BytesStay s (execHankPortDown port s) ∧ ShownStays s (execHankPortDown port s) := onDev_quiet fun d => by
  split
  all_goals simp only [moveStreams_kept, setPortState_kept, and_self]

theorem helloSend_quiet (port : Fin 8) (s : State) : BytesStay s (execHelloSend port s) ∧ ShownStays s (execHelloSend port s) := onDev_quiet fun d => by
  split
  all_goals simp only [emit_kept, and_self]

theorem peerReachLapse_quiet (port : Fin 8) (sys : Fin 2048) (s : State) :
    BytesStay s (execPeerReachLapse port sys s) ∧ ShownStays s (execPeerReachLapse port sys s) := onDev_quiet fun d => by
  dsimp only; repeat' split
  all_goals simp only [setReg_kept, timeTo_kept, setPeerState_kept, and_self]

theorem peerConflictClear_quiet (sys : Fin 2048) (s : State) :
    BytesStay s (execPeerConflictClear sys s) ∧ ShownStays s (execPeerConflictClear sys s) := onDev_quiet fun d => by
  dsimp only; split
  all_goals simp only [timeTo_kept, setPeerState_kept, and_self]

theorem hankFrameSend_quiet (sk : Fin 16) (sys : Fin 2048) (dir : Bool) (s : State) :
    BytesStay s (execHankFrameSend sk sys dir s) ∧ ShownStays s (execHankFrameSend sk sys dir s) := onDev_quiet fun d => by
  dsimp only; repeat' split
  all_goals simp only [updStream_kept, sendFrame_kept, and_self]

theorem hankRtoExpire_quiet (sk : Fin 16) (sys : Fin 2048) (dir : Bool) (s : State) :
    BytesStay s (execHankRtoExpire sk sys dir s) ∧ ShownStays s (execHankRtoExpire sk sys dir s) := onDev_quiet fun d => by
  dsimp only; split
  all_goals simp only [updStream_kept, retransmit_kept, and_self]

theorem hnkRetrain_quiet (q : Requester) (port : Fin 8) (s : State) :
    BytesStay s (execHnkRetrain q port s) ∧ ShownStays s (execHnkRetrain q port s) := onDev_quiet_of fun d => show (d.hnkDo q port.val 1).Quiet d from quiet_of_kept (hnkDo_kept ..)
theorem hankPortRetire_quiet (port : Fin 8) (s : State) : BytesStay s (execHankPortRetire port s) ∧ ShownStays s (execHankPortRetire port s) := onDev_quiet fun d => by
  dsimp only; repeat' split
  all_goals simp only [record_bytes, record_shown, moveStreams_kept, setPortState_kept, and_self]

theorem hankSpareSubstitute_quiet (port : Fin 8) (s : State) :
    BytesStay s (execHankSpareSubstitute port s) ∧ ShownStays s (execHankSpareSubstitute port s) := onDev_quiet fun d => by
  dsimp only; repeat' split
  all_goals simp only [setRegF_kept, setReg64_kept, record_bytes, record_shown, useBudget_bytes, useBudget_shown, and_self]

theorem coreErrorDetect_quiet (l : Fin 384) (ply : Bool) (s : State) :
    BytesStay s (execCoreErrorDetect l ply s) ∧ ShownStays s (execCoreErrorDetect l ply s) := onDev_quiet fun d => by
  dsimp only; repeat' split
  all_goals simp only [count_kept, reelDue_bytes, reelDue_shown, and_self]

theorem bundleRetire_quiet (bd : Fin 8) (s : State) : BytesStay s (execBundleRetire bd s) ∧ ShownStays s (execBundleRetire bd s) := onDev_quiet fun d => by
  dsimp only; repeat' split
  all_goals simp only [updBun_kept, record_bytes, record_shown, isolate_kept, setPceState_kept, pceSignal_bytes, pceSignal_shown, linkGone_kept, bundleReset_bytes, bundleReset_shown, and_self]

theorem reelStateMove_quiet (l : Fin 384) (lost : ReelLoss) (s : State) :
    BytesStay s (execReelStateMove l lost s) ∧ ShownStays s (execReelStateMove l lost s) := onDev_quiet fun d => by
  repeat' split
  all_goals simp only [setReel_kept, and_self]

theorem reelStateWrite_quiet (s : State) : BytesStay s (execReelStateWrite s) ∧ ShownStays s (execReelStateWrite s) := onDev_quiet fun d => by
  split
  all_goals simp only [updDst_kept, updRel_kept, and_self]

theorem wearMeasure_quiet (slow unacked : List Nat) (warm : Bool) (s : State) :
    BytesStay s (execWearMeasure slow unacked warm s) ∧ ShownStays s (execWearMeasure slow unacked warm s) := onDev_quiet fun d => by
  dsimp only
  split
  · simp only [budgetLow_bytes, budgetLow_shown, takeFree_kept]
    exact (foldl_quiet _ (fun d p => ⟨earlyReel_bytes .., earlyReel_shown ..⟩) _ _).imp
      (·.trans (foldl_bytes _ (fun d r => raiseTo_bytes ..) _ _)) (·.trans (foldl_shown _ (fun d r => raiseTo_shown ..) _ _))
  · exact (foldl_quiet _ (fun d p => ⟨earlyReel_bytes .., earlyReel_shown ..⟩) _ _).imp
      (·.trans (foldl_bytes _ (fun d r => raiseTo_bytes ..) _ _)) (·.trans (foldl_shown _ (fun d r => raiseTo_shown ..) _ _))

theorem emRead_quiet (counts : List Nat) (s : State) : BytesStay s (execEmRead counts s) ∧ ShownStays s (execEmRead counts s) := onDev_quiet fun d => foldl_quiet _ (fun d p => ⟨earlyReel_bytes .., earlyReel_shown ..⟩) _ _
theorem rlQuery_quiet (caller : Caller) (s : State) : BytesStay s (execRlQuery caller s) ∧ ShownStays s (execRlQuery caller s) := onDev_quiet fun d => serve_quiet fun d => by
  simp only [and_self]

theorem rlReel_quiet (caller : Caller) (l : Fin 384) (s : State) : BytesStay s (execRlReel caller l s) ∧ ShownStays s (execRlReel caller l s) := onDev_quiet fun d => by simp only [rlReel_bytes, rlReel_shown, and_self]
theorem rlRetire_quiet (caller : Caller) (l : Fin 384) (s : State) : BytesStay s (execRlRetire caller l s) ∧ ShownStays s (execRlRetire caller l s) := onDev_quiet fun d => by simp only [rlReel_bytes, rlReel_shown, and_self]
theorem wakeEvent_quiet (dom : Fin 409) (s : State) : BytesStay s (execWakeEvent dom s) ∧ ShownStays s (execWakeEvent dom s) := onDev_quiet fun d => by
  dsimp only; repeat' split
  all_goals simp only [setDom_kept, startExit_kept, and_self]

theorem powerStepUpdate_quiet (entry : BitVec 8) (watts : Nat) (s : State) :
    BytesStay s (execPowerStepUpdate entry watts s) ∧ ShownStays s (execPowerStepUpdate entry watts s) := onDev_quiet fun d => by
  dsimp only; repeat' split
  all_goals simp only [setTherm_kept, limitStep_kept, and_self]

theorem tkwakeN_quiet (s : State) : BytesStay s (execTkwakeN s) ∧ ShownStays s (execTkwakeN s) := onDev_quiet fun d => by
  dsimp only; split
  all_goals simp only [and_self]

theorem pmbAlert_quiet (words : List (Nat × BitVec 16)) (s : State) : BytesStay s (execPmbAlert words s) ∧ ShownStays s (execPmbAlert words s) := onDev_quiet fun d => quiet_of_kept ((foldl_kept _ (fun d w => audit_kept ..) _ _).imp
  (·.trans (foldl_bytes _ (fun d i => (emit_kept ..).1) _ _)) (·.trans (foldl_cores _ (fun d i => (emit_kept ..).2) _ _)))
theorem guardStepRetry_quiet (dom : Fin 18) (ack : Bool) (s : State) :
    BytesStay s (execGuardStepRetry dom ack s) ∧ ShownStays s (execGuardStepRetry dom ack s) := onDev_quiet fun d => by
  dsimp only; repeat' split
  all_goals simp only [orderStep_kept, applyStep_bytes, applyStep_shown, missStep_kept, and_self]

theorem captureEdge_quiet (unit : Fin 4) (s : State) : BytesStay s (execCaptureEdge unit s) ∧ ShownStays s (execCaptureEdge unit s) := onDev_quiet fun d => by
  dsimp only; repeat' split
  all_goals simp only [setReg_kept, setReg64_kept, takeFree_kept, and_self]

theorem pulseStart_quiet (unit : Fin 2) (s : State) : BytesStay s (execPulseStart unit s) ∧ ShownStays s (execPulseStart unit s) := onDev_quiet fun d => by
  split
  all_goals simp only [timeTo_kept, setPulse_kept, and_self]

theorem pulseEnd_quiet (unit : Fin 2) (s : State) : BytesStay s (execPulseEnd unit s) ∧ ShownStays s (execPulseEnd unit s) := onDev_quiet fun d => by
  split
  all_goals simp only [timeTo_kept, setPulse_kept, and_self]

theorem trcCtlWrite_quiet (q : Requester) (v : BitVec 32) (s : State) : BytesStay s (execTrcCtlWrite q v s) ∧ ShownStays s (execTrcCtlWrite q v s) := onDev_quiet fun d => orRefused_quiet fun d => by
  simp only [traceWrite_kept, and_self]

theorem irqDoorbell_quiet (q : Requester) (v : BitVec 32) (s : State) : BytesStay s (execIrqDoorbell q v s) ∧ ShownStays s (execIrqDoorbell q v s) := onDev_quiet fun d => orRefused_quiet fun d => by
  simp only [doorbell_bytes, doorbell_shown, and_self]

theorem irqRouteWrite_quiet (q : Requester) (n : Fin 4096) (v : BitVec 32) (s : State) :
    BytesStay s (execIrqRouteWrite q n v s) ∧ ShownStays s (execIrqRouteWrite q n v s) := onDev_quiet fun d => orRefused_quiet fun d => by
  simp only [routeWrite_kept, and_self]

theorem pmuSkSnap_quiet (q : Requester) (sk : Fin 16) (s : State) : BytesStay s (execPmuSkSnap q sk s) ∧ ShownStays s (execPmuSkSnap q sk s) := onDev_quiet fun d => orRefused_quiet fun d => by
  simp only [hubSnap_kept, and_self]

theorem statusCmd_quiet (caller : Caller) (s : State) : BytesStay s (execStatusCmd caller s) ∧ ShownStays s (execStatusCmd caller s) := onDev_quiet fun d => serve_quiet fun d => by
  simp only [freeBytes_kept, and_self]

theorem timeCmd_quiet (caller : Caller) (s : State) : BytesStay s (execTimeCmd caller s) ∧ ShownStays s (execTimeCmd caller s) := onDev_quiet fun d => serve_quiet fun d => by
  simp only [and_self]

theorem identityCmd_quiet (caller : Caller) (s : State) : BytesStay s (execIdentityCmd caller s) ∧ ShownStays s (execIdentityCmd caller s) := onDev_quiet fun d => serve_quiet fun d => by
  simp only [freeBytes_kept, and_self]

theorem authBegin_quiet (caller : Caller) (role : Fin 8) (index : Nat) (s : State) :
    BytesStay s (execAuthBegin caller role index s) ∧ ShownStays s (execAuthBegin caller role index s) := onDev_quiet fun d => serveAs_quiet fun d => by
  dsimp only; repeat' split
  all_goals simp only [updDst_kept, ends_kept, freeBytes_kept, and_self]

theorem authFinish_quiet (caller : Caller) (tagOk : Bool) (s : State) :
    BytesStay s (execAuthFinish caller tagOk s) ∧ ShownStays s (execAuthFinish caller tagOk s) := onDev_quiet fun d => serveAs_quiet fun d => by
  dsimp only; repeat' split
  all_goals simp only [updDst_kept, ends_kept, freeBytes_kept, endSession_kept, authFailed_kept, and_self]

theorem logout_quiet (caller : Caller) (s : State) : BytesStay s (execLogout caller s) ∧ ShownStays s (execLogout caller s) := onDev_quiet fun d => serveAs_quiet fun d => by
  simp only [ends_kept, endSession_kept, and_self]

theorem sessionIdleTimeout_quiet (id : Nat) (s : State) : BytesStay s (execSessionIdleTimeout id s) ∧ ShownStays s (execSessionIdleTimeout id s) := onDev_quiet fun d => by
  split
  all_goals simp only [timeTo_kept, endSession_kept, and_self]

theorem credentialUnlock_quiet (cred : Nat) (s : State) : BytesStay s (execCredentialUnlock cred s) ∧ ShownStays s (execCredentialUnlock cred s) := onDev_quiet fun d => by
  dsimp only; split
  all_goals simp only [timeTo_kept, updDst_kept, and_self]

theorem xferOpen_quiet (caller : Caller) (kind length : Nat) (s : State) :
    BytesStay s (execXferOpen caller kind length s) ∧ ShownStays s (execXferOpen caller kind length s) := onDev_quiet fun d => serve_quiet fun d => by
  dsimp only; repeat' split
  all_goals simp only [updDst_kept, ends_kept, and_self]

theorem xferData_quiet (caller : Caller) (offset : Nat) (data : List (BitVec 8)) (crcOk : Bool) (s : State) :
    BytesStay s (execXferData caller offset data crcOk s) ∧ ShownStays s (execXferData caller offset data crcOk s) := onDev_quiet fun d => serveAs_quiet fun d => by
  repeat' split
  all_goals simp only [updDst_kept, ends_kept, and_self]

theorem enroll_quiet (caller : Caller) (slot : Nat) (body : List (BitVec 8)) (sigOk : Bool) (s : State) :
    BytesStay s (execEnroll caller slot body sigOk s) ∧ ShownStays s (execEnroll caller slot body sigOk s) := onDev_quiet fun d => serveAs_quiet fun d => by
  dsimp only; repeat' split
  all_goals simp only [updDst_kept, ends_kept, and_self]

theorem revokeSlot_quiet (caller : Caller) (slot : Nat) (sigOk : Bool) (s : State) :
    BytesStay s (execRevokeSlot caller slot sigOk s) ∧ ShownStays s (execRevokeSlot caller slot sigOk s) := onDev_quiet fun d => serveAs_quiet fun d => by
  repeat' split
  all_goals simp only [updDst_kept, ends_kept, and_self]

theorem logRead_quiet (caller : Caller) (aseq : BitVec 64) (s : State) :
    BytesStay s (execLogRead caller aseq s) ∧ ShownStays s (execLogRead caller aseq s) := onDev_quiet fun d => serve_quiet fun d => by
  simp only [and_self]

theorem floorCmd_quiet (caller : Caller) (s : State) : BytesStay s (execFloorCmd caller s) ∧ ShownStays s (execFloorCmd caller s) := onDev_quiet fun d => serve_quiet fun d => by
  repeat' split
  all_goals simp only [updDst_kept, ends_kept, and_self]

theorem resetCmd_quiet (caller : Caller) (kind index : Nat) (s : State) :
    BytesStay s (execResetCmd caller kind index s) ∧ ShownStays s (execResetCmd caller kind index s) := onDev_quiet fun d => serve_quiet fun d => by
  dsimp only; repeat' split
  all_goals simp only [ends_kept, orderReset_kept, and_self]

theorem fwStage_quiet (caller : Caller) (sigOk : Bool) (version : Nat) (raise : Bool) (s : State) :
    BytesStay s (execFwStage caller sigOk version raise s) ∧ ShownStays s (execFwStage caller sigOk version raise s) := onDev_quiet fun d => serve_quiet fun d => by
  dsimp only; repeat' split
  all_goals simp only [updDst_kept, ends_kept, and_self]

theorem halted_quiet {e d : Dev} {l : Nat} (h : e.mem.bytes = d.mem.bytes ∧ coresShown e.cores = coresShown d.cores) :
    ((e.updCore l fun c => { c with halted := true, stepArmed := false }).ends .ok).dev.mem.bytes = d.mem.bytes ∧
      coresShown ((e.updCore l fun c => { c with halted := true, stepArmed := false }).ends .ok).dev.cores = coresShown d.cores :=
  ⟨(updCore_bytes ..).trans h.1, (updCore_shown _ _ _ (by intro c; rfl)).trans h.2⟩

theorem dbgHalt_quiet (caller : Caller) (l : Fin 384) (s : State) : BytesStay s (execDbgHalt caller l s) ∧ ShownStays s (execDbgHalt caller l s) := onDev_quiet fun d => dbg_quiet fun d => by
  split
  · exact halted_quiet ⟨unwait_bytes .., unwait_shown ..⟩
  · exact halted_quiet ⟨unwait_bytes .., unwait_shown ..⟩
  · exact halted_quiet ⟨rfl, rfl⟩

theorem dbgStep_quiet (caller : Caller) (l : Fin 384) (s : State) : BytesStay s (execDbgStep caller l s) ∧ ShownStays s (execDbgStep caller l s) := onDev_quiet fun d => dbg_quiet fun d => by
  split
  · exact updCore_quiet _ _ _ fun c => rfl
  · exact ⟨rfl, rfl⟩

theorem dbgResume_quiet (caller : Caller) (l : Fin 384) (s : State) :
    BytesStay s (execDbgResume caller l s) ∧ ShownStays s (execDbgResume caller l s) := onDev_quiet fun d => dbg_quiet fun d => by
  split
  · exact updCore_quiet _ _ _ fun c => rfl
  · exact ⟨rfl, rfl⟩

theorem dbgReg_bytes (caller : Caller) (l : Fin 384) (write : Bool) (reg : Nat) (v : List (BitVec 8)) (s : State) :
    BytesStay s (execDbgReg caller l write reg v s) := onDev_bytes fun d => dbg_bytes fun d => by
  repeat' split
  all_goals simp only [setCore_bytes, ends_kept]

theorem dbgSample_quiet (caller : Caller) (l : Fin 384) (s : State) :
    BytesStay s (execDbgSample caller l s) ∧ ShownStays s (execDbgSample caller l s) := onDev_quiet fun d => dbg_quiet fun d => by
  simp only [and_self]

theorem baudSet_quiet (caller : Caller) (rate : Nat) (s : State) :
    BytesStay s (execBaudSet caller rate s) ∧ ShownStays s (execBaudSet caller rate s) := onDev_quiet fun d => serve_quiet fun d => by
  repeat' split
  all_goals simp only [updDst_kept, ends_kept, and_self]

theorem almanacBreak_quiet (s : State) : BytesStay s (execAlmanacBreak s) ∧ ShownStays s (execAlmanacBreak s) := onDev_quiet fun d => by simp only [updDst_kept, endSession_kept, and_self]
theorem baudRevert_quiet (s : State) : BytesStay s (execBaudRevert s) ∧ ShownStays s (execBaudRevert s) := onDev_quiet fun d => by simp only [updDst_kept, and_self]
theorem entdaa_quiet (addr : BitVec 7) (s : State) : BytesStay s (execEntdaa addr s) ∧ ShownStays s (execEntdaa addr s) := onDev_quiet fun d => by
  split
  all_goals simp only [updDst_kept, and_self]

theorem dstMbxDoorbell_quiet (q : Requester) (sk : Fin 16) (v : BitVec 32) (s : State) :
    BytesStay s (execDstMbxDoorbell q sk v s) ∧ ShownStays s (execDstMbxDoorbell q sk v s) := onDev_quiet fun d => by simp only [mbxDoorbell_kept, and_self]
theorem auditFlush_quiet (s : State) : BytesStay s (execAuditFlush s) ∧ ShownStays s (execAuditFlush s) := onDev_quiet fun d => by simp only [updDst_kept, and_self]
theorem shedMeasure_quiet (used : Nat) (s : State) : BytesStay s (execShedMeasure used s) ∧ ShownStays s (execShedMeasure used s) := onDev_quiet fun d => by
  dsimp only; repeat' split
  all_goals simp only [updDst_kept, setShed_bytes, setShed_shown, and_self]

theorem refclk25Restore_quiet (s : State) : BytesStay s (execRefclk25Restore s) ∧ ShownStays s (execRefclk25Restore s) := onDev_quiet fun d => by
  dsimp only; split
  all_goals simp only [setRegF_kept, and_self]

theorem vaonLoss_quiet (s : State) : BytesStay s (execVaonLoss s) ∧ ShownStays s (execVaonLoss s) := onDev_quiet fun d => by
  dsimp only; split
  all_goals simp only [and_self]

theorem spdTemperatureSample_quiet (mc : Fin 16) (dimm : Fin 2) (temp : Int) (s : State) :
    BytesStay s (execSpdTemperatureSample mc dimm temp s) ∧ ShownStays s (execSpdTemperatureSample mc dimm temp s) := onDev_quiet fun d => by simp only [updCh_kept, and_self]
theorem tracePacketSend_quiet (s : State) : BytesStay s (execTracePacketSend s) ∧ ShownStays s (execTracePacketSend s) := onDev_quiet fun d => by
  dsimp only; repeat' split
  all_goals simp only [traceStatus_kept, traceOut_kept, and_self]

theorem rootErrorStatusSet_quiet (bd : Fin 8) (s : State) : BytesStay s (execRootErrorStatusSet bd s) ∧ ShownStays s (execRootErrorStatusSet bd s) := onDev_quiet fun d => by
  split
  all_goals simp only [pceSignal_bytes, pceSignal_shown, and_self]

theorem sleepExitDone_quiet (l : Fin 384) (s : State) : BytesStay s (execSleepExitDone l s) ∧ ShownStays s (execSleepExitDone l s) := onDev_quiet fun d => by
  dsimp only; split
  all_goals simp only [setDom_kept, and_self]

theorem localFaultEnd_quiet (port : Fin 8) (s : State) : BytesStay s (execLocalFaultEnd port s) ∧ ShownStays s (execLocalFaultEnd port s) := onDev_quiet fun d => by
  split
  all_goals simp only [emit_kept, and_self]

theorem dramTraining_shown (results : List DramTrain) (s : State) : ShownStays s (execDramTraining results s) := onDev_shown_of fun d => by
  split
  · exact rfl
  split
  · exact sameShown_boot ((foldl_shown _ (fun d m => by simp only [mcRun_shown, fillOff_shown]) _ _).trans
      (foldl_shown _ (fun d e => congrArg coresShown (setReg_kept ..).2) _ _)) _
  extract_lets ok bad d1
  split
  · exact (enterSafe_shown ..).trans (congrArg coresShown (foldl_cores _ (fun d m => (audit_kept ..).2) _ _))
  · refine sameShown_boot (foldl_shown _ (fun d m => ?_) _ _) _
    split
    · simp only [mcRun_shown, trained_kept]
    · rfl

theorem imageApply_shown (va vb : ImgVerdict) (s : State) : ShownStays s (execImageApply va vb s) := onDev_shown fun d => by
  dsimp only; split
  all_goals simp only [setImgUnit_kept, launchCheck_kept, tryCopies_shown]

theorem swdogExpire_shown (sk : Fin 16) (s : State) : ShownStays s (execSwdogExpire sk s) := onDev_shown fun d => by
  dsimp only; split
  all_goals simp only [setRegF_kept, updWd_kept, timeTo_kept, audit_kept, enterSafe_shown]

theorem refclk100Loss_shown (s : State) : ShownStays s (execRefclk100Loss s) := onDev_shown fun d => by
  split
  all_goals simp only [enterSafe_shown]

theorem inboundDmaRequest_shown (bd : Fin 8) (req : DmaReq) (s : State) : ShownStays s (execInboundDmaRequest bd req s) := onDev_shown fun d => by
  dsimp only; repeat' split
  all_goals simp only [emit_kept, ioStart_shown]

theorem gets_shown (agent : AgentId) (line : Nat) (s : State) : ShownStays s (execGets agent line s) := onDev_shown fun d => by simp only [homeRequest_shown]
theorem getm_shown (agent : AgentId) (line : Nat) (s : State) : ShownStays s (execGetm agent line s) := onDev_shown fun d => by simp only [homeRequest_shown]
theorem wfull_shown (agent : AgentId) (line : Nat) (data : List (BitVec 8)) (s : State) : ShownStays s (execWfull agent line data s) := onDev_shown fun d => by simp only [homeRequest_shown]
theorem puts_shown (agent : AgentId) (line : Nat) (s : State) : ShownStays s (execPuts agent line s) := onDev_shown fun d => by
  dsimp only; split
  all_goals simp only [putSHome_cores, agentDrop_kept]

theorem putm_shown (agent : AgentId) (line : LineData) (s : State) : ShownStays s (execPutm agent line s) := onDev_shown fun d => by
  dsimp only; split
  all_goals simp only [putMHome_cores, agentDrop_kept]

theorem rdnc_shown (agent : AgentId) (line : Nat) (s : State) : ShownStays s (execRdnc agent line s) := onDev_shown fun d => by simp only [homeRequest_shown]
theorem wrnc_shown (agent : AgentId) (line : Nat) (mask : BitVec 64) (data : List (BitVec 8)) (s : State) :
    ShownStays s (execWrnc agent line mask data s) := onDev_shown fun d => by simp only [homeRequest_shown]
theorem atom_shown (agent : AgentId) (line : Nat) (op : AtomOp) (s : State) : ShownStays s (execAtom agent line op s) := onDev_shown fun d => by simp only [homeRequest_shown]
theorem dataMsg_shown (agent : AgentId) (line : Nat) (s : State) : ShownStays s (execDataMsg agent line s) := onDev_shown fun d => onMsg_shown fun d m => takeData_shown ..
theorem grantMsg_shown (agent : AgentId) (line : Nat) (s : State) : ShownStays s (execGrantMsg agent line s) := onDev_shown fun d => by
  split
  all_goals exact onMsg_shown fun d m => takeGrant_shown ..

theorem ackMsg_shown (agent : AgentId) (line : Nat) (s : State) : ShownStays s (execAckMsg agent line s) := onDev_shown fun d => onMsg_shown fun d m => takeAck_shown ..
theorem rdata_shown (agent : AgentId) (line : LineData) (s : State) : ShownStays s (execRdata agent line s) := onDev_shown fun d => onMsg_shown fun d m => takeRdata_shown ..
theorem dirRebuildDone_shown (line : Nat) (s : State) : ShownStays s (execDirRebuildDone line s) := onDev_shown fun d => by simp only [rebuildDone_shown]
theorem wayCleanDone_shown (unit : Fin 17) (s : State) : ShownStays s (execWayCleanDone unit s) := onDev_shown fun d => foldl_shown _ (fun d i => cleanNext_shown ..) _ _
theorem fenceAck_shown (dom : Fin 409) (s : State) : ShownStays s (execFenceAck dom s) := onDev_shown fun d => by
  dsimp only; repeat' split
  all_goals simp only [setPort_kept, drain_shown, tryFence_shown, spindleFlush_kept]

theorem fenceLimitExpire_shown (dom : Fin 409) (s : State) : ShownStays s (execFenceLimitExpire dom s) := onDev_shown fun d => by
  dsimp only; split
  all_goals simp only [timeTo_kept, abortEntry_shown]

theorem lpExitFillDone_shown (mc : Fin 16) (s : State) : ShownStays s (execLpExitFillDone mc s) := onDev_shown fun d => by
  dsimp only; split
  all_goals simp only [setRegF_kept, setDom_kept, openPort_shown, fillOff_shown]

theorem reelDrainDone_shown (l : Fin 384) (s : State) : ShownStays s (execReelDrainDone l s) := onDev_shown fun d => by
  dsimp only; repeat' split
  all_goals simp only [drain_shown, spindleFlush_kept, setReel_kept]

theorem safeEntry_shown (cause : SafeCause) (s : State) : ShownStays s (execSafeEntry cause s) := onDev_shown fun d => by simp only [enterSafe_shown]
theorem imageHashCheck_shown (good : Bool) (s : State) : ShownStays s (execImageHashCheck good s) := onDev_shown fun d => by
  split
  all_goals simp only [enterSafe_shown]

theorem lockstepMismatch_shown (s : State) : ShownStays s (execLockstepMismatch s) := onDev_shown fun d => by
  dsimp only; split
  all_goals simp only [setRegF_kept, useBudget_shown, enterSafe_shown, updRel_kept, takeover_shown]

theorem rlSafe_shown (caller : Caller) (s : State) : ShownStays s (execRlSafe caller s) := onDev_shown fun d => serve_shown fun d => by
  repeat' split
  all_goals simp only [enterSafe_shown, ends_kept, rlState_kept]

theorem pwrReqSpindle_shown (q : Requester) (index : Nat) (target : BitVec 3) (s : State) : ShownStays s (execPwrReqSpindle q index target s) := onDev_shown fun d => by simp only [pwrWrite_shown]
theorem pwrReqChannel_shown (q : Requester) (index : Nat) (target : BitVec 3) (s : State) : ShownStays s (execPwrReqChannel q index target s) := onDev_shown fun d => by simp only [pwrWrite_shown]
theorem pwrReqBundle_shown (q : Requester) (index : Nat) (target : BitVec 3) (s : State) : ShownStays s (execPwrReqBundle q index target s) := onDev_shown fun d => by simp only [pwrWrite_shown]
theorem powerEntryTimeout_shown (l : Fin 384) (s : State) : ShownStays s (execPowerEntryTimeout l s) := onDev_shown fun d => by
  dsimp only; repeat' split
  all_goals simp only [drain_shown, timeTo_kept, abortEntry_shown]

theorem thermalSample_shown (site : Fin 18) (temp under : Int) (s : State) : ShownStays s (execThermalSample site temp under s) := onDev_shown fun d => by
  dsimp only; repeat' split
  all_goals simp only [setReg_kept, enterSafe_shown, dieSample_kept, hcStep_kept]

theorem hubUnitError_shown (_unit : HubUnit) (s : State) : ShownStays s (execHubUnitError _unit s) := onDev_shown fun d => by simp only [enterSafe_shown]
theorem sleepEntryDone_shown (l : Fin 384) (s : State) : ShownStays s (execSleepEntryDone l s) := onDev_shown fun d => by
  dsimp only; repeat' split
  all_goals simp only [drain_shown, setDom_kept, startExit_kept, l1dFlush_kept]

/-! ### The statements -/

theorem storesNothing_bytes {c : Instr} {s : State} (h : storesNothing c = true) : BytesStay s (exec c s) := by
  cases c
  case hpprRepair mc => exact (hpprRepair_quiet mc s).1
  case imgRead caller => exact (imgRead_quiet caller s).1
  case imgCheck caller verdict => exact (imgCheck_quiet caller verdict s).1
  case imgStage caller verdict => exact (imgStage_quiet caller verdict s).1
  case imgDelta caller verdict => exact (imgDelta_quiet caller verdict s).1
  case deltaJournalWriteDone => exact (deltaJournalWriteDone_quiet s).1
  case deltaSwitch => exact (deltaSwitch_quiet s).1
  case waitCancel l => exact (waitCancel_quiet l s).1
  case chStopped bd fn ch => exact (chStopped_quiet bd fn ch s).1
  case bqChRxDb bd fn ch v => exact (bqChRxDb_quiet bd fn ch v s).1
  case creqRetry qa => exact (creqRetry_quiet qa s).1
  case creditBlockIdleRelease qa => exact (creditBlockIdleRelease_quiet qa s).1
  case waitiResume l => exact (waitiResume_quiet l s).1
  case timerExpire l => exact (timerExpire_quiet l s).1
  case sTimerExpire l => exact (sTimerExpire_quiet l s).1
  case swdogPackageReset _sk => exact (swdogPackageReset_quiet _sk s).1
  case ndogWarn sk => exact (ndogWarn_quiet sk s).1
  case ndogExpire sk => exact (ndogExpire_quiet sk s).1
  case refclk25Loss => exact (refclk25Loss_quiet s).1
  case iotuInvStream q bd id => exact (iotuInvStream_quiet q bd id s).1
  case iotuInvAsid q bd id => exact (iotuInvAsid_quiet q bd id s).1
  case iotuInvVa q bd => exact (iotuInvVa_quiet q bd s).1
  case iotuInvAll q bd => exact (iotuInvAll_quiet q bd s).1
  case iotuInvDone bd => exact (iotuInvDone_quiet bd s).1
  case msgDeliver m => exact (msgDeliver_quiet m s).1
  case doneMsg agent line => exact (doneMsg_quiet agent line s).1
  case already agent line => exact (already_quiet agent line s).1
  case invMsg agent line => exact (invMsg_quiet agent line s).1
  case recallS agent line => exact (recallS_quiet agent line s).1
  case recallI agent line => exact (recallI_quiet agent line s).1
  case recallD agent line => exact (recallD_quiet agent line s).1
  case creditPacket port counts => exact (creditPacket_quiet port counts s).1
  case l3WayDown q die way => exact (l3WayDown_quiet q die way s).1
  case l3WayUp q die way => exact (l3WayUp_quiet q die way s).1
  case hcWayDown q way => exact (hcWayDown_quiet q way s).1
  case hcWayUp q way => exact (hcWayUp_quiet q way s).1
  case portIsolate p => exact (portIsolate_quiet p s).1
  case discover q port result => exact (discover_quiet q port result s).1
  case guestDiscoverTimeout port => exact (guestDiscoverTimeout_quiet port s).1
  case guestAdmit q port result => exact (guestAdmit_quiet q port result s).1
  case gstRetrain q port result => exact (gstRetrain_quiet q port result s).1
  case gstDisable q port result => exact (gstDisable_quiet q port result s).1
  case scrubRead mc decode => exact (scrubRead_quiet mc decode s).1
  case spprRepair mc row => exact (spprRepair_quiet mc row s).1
  case refreshRank mc sub rank => exact (refreshRank_quiet mc sub rank s).1
  case neighbourRefresh mc _row => exact (neighbourRefresh_quiet mc _row s).1
  case driftCheck mc drifts => exact (driftCheck_quiet mc drifts s).1
  case mcApply q mc => exact (mcApply_quiet q mc s).1
  case mcCheck q mc => exact (mcCheck_quiet q mc s).1
  case applyWindow mc sub => exact (applyWindow_quiet mc sub s).1
  case pcieLinkUp bd speed width => exact (pcieLinkUp_quiet bd speed width s).1
  case pcieLinkDown bd => exact (pcieLinkDown_quiet bd s).1
  case rearm q bd => exact (rearm_quiet q bd s).1
  case pceRetrain q bd => exact (pceRetrain_quiet q bd s).1
  case vfEnableSet bd num => exact (vfEnableSet_quiet bd num s).1
  case vfEnableClear bd => exact (vfEnableClear_quiet bd s).1
  case vfmCreate bd => exact (vfmCreate_quiet bd s).1
  case vfmDestroy bd => exact (vfmDestroy_quiet bd s).1
  case vfmQuery bd => exact (vfmQuery_quiet bd s).1
  case msixUnmask bd fn vec => exact (msixUnmask_quiet bd fn vec s).1
  case pmeWake bd => exact (pmeWake_quiet bd s).1
  case pePerstNAssert bd => exact (pePerstNAssert_quiet bd s).1
  case pePerstNDeassert bd => exact (pePerstNDeassert_quiet bd s).1
  case hotReset bd => exact (hotReset_quiet bd s).1
  case initiateFunctionLevelReset bd fn => exact (initiateFunctionLevelReset_quiet bd fn s).1
  case flrComplete bd fn => exact (flrComplete_quiet bd fn s).1
  case fnMbxSend bd fn => exact (fnMbxSend_quiet bd fn s).1
  case fnMbxAck bd fn => exact (fnMbxAck_quiet bd fn s).1
  case vfmMbxSend bd => exact (vfmMbxSend_quiet bd s).1
  case vfmMbxAck bd => exact (vfmMbxAck_quiet bd s).1
  case deviceMailboxAnswer bd fn => exact (deviceMailboxAnswer_quiet bd fn s).1
  case dlogSwap bd fn => exact (dlogSwap_quiet bd fn s).1
  case dlogSwapDone bd fn => exact (dlogSwapDone_quiet bd fn s).1
  case hankPortUp port => exact (hankPortUp_quiet port s).1
  case hankPortDown port => exact (hankPortDown_quiet port s).1
  case helloSend port => exact (helloSend_quiet port s).1
  case peerReachLapse port sys => exact (peerReachLapse_quiet port sys s).1
  case peerConflictClear sys => exact (peerConflictClear_quiet sys s).1
  case hankFrameSend sk sys dir => exact (hankFrameSend_quiet sk sys dir s).1
  case hankRtoExpire sk sys dir => exact (hankRtoExpire_quiet sk sys dir s).1
  case hnkRetrain q port => exact (hnkRetrain_quiet q port s).1
  case hankPortRetire port => exact (hankPortRetire_quiet port s).1
  case hankSpareSubstitute port => exact (hankSpareSubstitute_quiet port s).1
  case coreErrorDetect l ply => exact (coreErrorDetect_quiet l ply s).1
  case bundleRetire bd => exact (bundleRetire_quiet bd s).1
  case reelStateMove l lost => exact (reelStateMove_quiet l lost s).1
  case reelStateWrite => exact (reelStateWrite_quiet s).1
  case wearMeasure slow unacked warm => exact (wearMeasure_quiet slow unacked warm s).1
  case emRead counts => exact (emRead_quiet counts s).1
  case rlQuery caller => exact (rlQuery_quiet caller s).1
  case rlReel caller l => exact (rlReel_quiet caller l s).1
  case rlRetire caller l => exact (rlRetire_quiet caller l s).1
  case wakeEvent dom => exact (wakeEvent_quiet dom s).1
  case powerStepUpdate entry watts => exact (powerStepUpdate_quiet entry watts s).1
  case tkwakeN => exact (tkwakeN_quiet s).1
  case pmbAlert words => exact (pmbAlert_quiet words s).1
  case guardStepRetry dom ack => exact (guardStepRetry_quiet dom ack s).1
  case captureEdge unit => exact (captureEdge_quiet unit s).1
  case pulseStart unit => exact (pulseStart_quiet unit s).1
  case pulseEnd unit => exact (pulseEnd_quiet unit s).1
  case trcCtlWrite q v => exact (trcCtlWrite_quiet q v s).1
  case irqDoorbell q v => exact (irqDoorbell_quiet q v s).1
  case irqRouteWrite q n v => exact (irqRouteWrite_quiet q n v s).1
  case pmuSkSnap q sk => exact (pmuSkSnap_quiet q sk s).1
  case statusCmd caller => exact (statusCmd_quiet caller s).1
  case timeCmd caller => exact (timeCmd_quiet caller s).1
  case identityCmd caller => exact (identityCmd_quiet caller s).1
  case authBegin caller role index => exact (authBegin_quiet caller role index s).1
  case authFinish caller tagOk => exact (authFinish_quiet caller tagOk s).1
  case logout caller => exact (logout_quiet caller s).1
  case sessionIdleTimeout id => exact (sessionIdleTimeout_quiet id s).1
  case credentialUnlock cred => exact (credentialUnlock_quiet cred s).1
  case xferOpen caller kind length => exact (xferOpen_quiet caller kind length s).1
  case xferData caller offset data crcOk => exact (xferData_quiet caller offset data crcOk s).1
  case enroll caller slot body sigOk => exact (enroll_quiet caller slot body sigOk s).1
  case revokeSlot caller slot sigOk => exact (revokeSlot_quiet caller slot sigOk s).1
  case logRead caller aseq => exact (logRead_quiet caller aseq s).1
  case floorCmd caller => exact (floorCmd_quiet caller s).1
  case resetCmd caller kind index => exact (resetCmd_quiet caller kind index s).1
  case fwStage caller sigOk version raise => exact (fwStage_quiet caller sigOk version raise s).1
  case dbgHalt caller l => exact (dbgHalt_quiet caller l s).1
  case dbgStep caller l => exact (dbgStep_quiet caller l s).1
  case dbgResume caller l => exact (dbgResume_quiet caller l s).1
  case dbgReg caller l write reg v => exact dbgReg_bytes caller l write reg v s
  case dbgSample caller l => exact (dbgSample_quiet caller l s).1
  case baudSet caller rate => exact (baudSet_quiet caller rate s).1
  case almanacBreak => exact (almanacBreak_quiet s).1
  case baudRevert => exact (baudRevert_quiet s).1
  case entdaa addr => exact (entdaa_quiet addr s).1
  case dstMbxDoorbell q sk v => exact (dstMbxDoorbell_quiet q sk v s).1
  case auditFlush => exact (auditFlush_quiet s).1
  case shedMeasure used => exact (shedMeasure_quiet used s).1
  case refclk25Restore => exact (refclk25Restore_quiet s).1
  case vaonLoss => exact (vaonLoss_quiet s).1
  case spdTemperatureSample mc dimm temp => exact (spdTemperatureSample_quiet mc dimm temp s).1
  case tracePacketSend => exact (tracePacketSend_quiet s).1
  case rootErrorStatusSet bd => exact (rootErrorStatusSet_quiet bd s).1
  case sleepExitDone l => exact (sleepExitDone_quiet l s).1
  case localFaultEnd port => exact (localFaultEnd_quiet port s).1
  all_goals exact nomatch h

theorem leavesCores_shown {c : Instr} {s : State} (h : leavesCores c = true) : ShownStays s (exec c s) := by
  cases c
  case hpprRepair mc => exact (hpprRepair_quiet mc s).2
  case imgRead caller => exact (imgRead_quiet caller s).2
  case imgCheck caller verdict => exact (imgCheck_quiet caller verdict s).2
  case imgStage caller verdict => exact (imgStage_quiet caller verdict s).2
  case imgDelta caller verdict => exact (imgDelta_quiet caller verdict s).2
  case deltaJournalWriteDone => exact (deltaJournalWriteDone_quiet s).2
  case deltaSwitch => exact (deltaSwitch_quiet s).2
  case waitCancel l => exact (waitCancel_quiet l s).2
  case chStopped bd fn ch => exact (chStopped_quiet bd fn ch s).2
  case bqChRxDb bd fn ch v => exact (bqChRxDb_quiet bd fn ch v s).2
  case creqRetry qa => exact (creqRetry_quiet qa s).2
  case creditBlockIdleRelease qa => exact (creditBlockIdleRelease_quiet qa s).2
  case waitiResume l => exact (waitiResume_quiet l s).2
  case timerExpire l => exact (timerExpire_quiet l s).2
  case sTimerExpire l => exact (sTimerExpire_quiet l s).2
  case swdogPackageReset _sk => exact (swdogPackageReset_quiet _sk s).2
  case ndogWarn sk => exact (ndogWarn_quiet sk s).2
  case ndogExpire sk => exact (ndogExpire_quiet sk s).2
  case refclk25Loss => exact (refclk25Loss_quiet s).2
  case iotuInvStream q bd id => exact (iotuInvStream_quiet q bd id s).2
  case iotuInvAsid q bd id => exact (iotuInvAsid_quiet q bd id s).2
  case iotuInvVa q bd => exact (iotuInvVa_quiet q bd s).2
  case iotuInvAll q bd => exact (iotuInvAll_quiet q bd s).2
  case iotuInvDone bd => exact (iotuInvDone_quiet bd s).2
  case msgDeliver m => exact (msgDeliver_quiet m s).2
  case doneMsg agent line => exact (doneMsg_quiet agent line s).2
  case already agent line => exact (already_quiet agent line s).2
  case invMsg agent line => exact (invMsg_quiet agent line s).2
  case recallS agent line => exact (recallS_quiet agent line s).2
  case recallI agent line => exact (recallI_quiet agent line s).2
  case recallD agent line => exact (recallD_quiet agent line s).2
  case creditPacket port counts => exact (creditPacket_quiet port counts s).2
  case l3WayDown q die way => exact (l3WayDown_quiet q die way s).2
  case l3WayUp q die way => exact (l3WayUp_quiet q die way s).2
  case hcWayDown q way => exact (hcWayDown_quiet q way s).2
  case hcWayUp q way => exact (hcWayUp_quiet q way s).2
  case portIsolate p => exact (portIsolate_quiet p s).2
  case discover q port result => exact (discover_quiet q port result s).2
  case guestDiscoverTimeout port => exact (guestDiscoverTimeout_quiet port s).2
  case guestAdmit q port result => exact (guestAdmit_quiet q port result s).2
  case gstRetrain q port result => exact (gstRetrain_quiet q port result s).2
  case gstDisable q port result => exact (gstDisable_quiet q port result s).2
  case scrubRead mc decode => exact (scrubRead_quiet mc decode s).2
  case spprRepair mc row => exact (spprRepair_quiet mc row s).2
  case refreshRank mc sub rank => exact (refreshRank_quiet mc sub rank s).2
  case neighbourRefresh mc _row => exact (neighbourRefresh_quiet mc _row s).2
  case driftCheck mc drifts => exact (driftCheck_quiet mc drifts s).2
  case mcApply q mc => exact (mcApply_quiet q mc s).2
  case mcCheck q mc => exact (mcCheck_quiet q mc s).2
  case applyWindow mc sub => exact (applyWindow_quiet mc sub s).2
  case pcieLinkUp bd speed width => exact (pcieLinkUp_quiet bd speed width s).2
  case pcieLinkDown bd => exact (pcieLinkDown_quiet bd s).2
  case rearm q bd => exact (rearm_quiet q bd s).2
  case pceRetrain q bd => exact (pceRetrain_quiet q bd s).2
  case vfEnableSet bd num => exact (vfEnableSet_quiet bd num s).2
  case vfEnableClear bd => exact (vfEnableClear_quiet bd s).2
  case vfmCreate bd => exact (vfmCreate_quiet bd s).2
  case vfmDestroy bd => exact (vfmDestroy_quiet bd s).2
  case vfmQuery bd => exact (vfmQuery_quiet bd s).2
  case msixUnmask bd fn vec => exact (msixUnmask_quiet bd fn vec s).2
  case pmeWake bd => exact (pmeWake_quiet bd s).2
  case pePerstNAssert bd => exact (pePerstNAssert_quiet bd s).2
  case pePerstNDeassert bd => exact (pePerstNDeassert_quiet bd s).2
  case hotReset bd => exact (hotReset_quiet bd s).2
  case initiateFunctionLevelReset bd fn => exact (initiateFunctionLevelReset_quiet bd fn s).2
  case flrComplete bd fn => exact (flrComplete_quiet bd fn s).2
  case fnMbxSend bd fn => exact (fnMbxSend_quiet bd fn s).2
  case fnMbxAck bd fn => exact (fnMbxAck_quiet bd fn s).2
  case vfmMbxSend bd => exact (vfmMbxSend_quiet bd s).2
  case vfmMbxAck bd => exact (vfmMbxAck_quiet bd s).2
  case deviceMailboxAnswer bd fn => exact (deviceMailboxAnswer_quiet bd fn s).2
  case dlogSwap bd fn => exact (dlogSwap_quiet bd fn s).2
  case dlogSwapDone bd fn => exact (dlogSwapDone_quiet bd fn s).2
  case hankPortUp port => exact (hankPortUp_quiet port s).2
  case hankPortDown port => exact (hankPortDown_quiet port s).2
  case helloSend port => exact (helloSend_quiet port s).2
  case peerReachLapse port sys => exact (peerReachLapse_quiet port sys s).2
  case peerConflictClear sys => exact (peerConflictClear_quiet sys s).2
  case hankFrameSend sk sys dir => exact (hankFrameSend_quiet sk sys dir s).2
  case hankRtoExpire sk sys dir => exact (hankRtoExpire_quiet sk sys dir s).2
  case hnkRetrain q port => exact (hnkRetrain_quiet q port s).2
  case hankPortRetire port => exact (hankPortRetire_quiet port s).2
  case hankSpareSubstitute port => exact (hankSpareSubstitute_quiet port s).2
  case coreErrorDetect l ply => exact (coreErrorDetect_quiet l ply s).2
  case bundleRetire bd => exact (bundleRetire_quiet bd s).2
  case reelStateMove l lost => exact (reelStateMove_quiet l lost s).2
  case reelStateWrite => exact (reelStateWrite_quiet s).2
  case wearMeasure slow unacked warm => exact (wearMeasure_quiet slow unacked warm s).2
  case emRead counts => exact (emRead_quiet counts s).2
  case rlQuery caller => exact (rlQuery_quiet caller s).2
  case rlReel caller l => exact (rlReel_quiet caller l s).2
  case rlRetire caller l => exact (rlRetire_quiet caller l s).2
  case wakeEvent dom => exact (wakeEvent_quiet dom s).2
  case powerStepUpdate entry watts => exact (powerStepUpdate_quiet entry watts s).2
  case tkwakeN => exact (tkwakeN_quiet s).2
  case pmbAlert words => exact (pmbAlert_quiet words s).2
  case guardStepRetry dom ack => exact (guardStepRetry_quiet dom ack s).2
  case captureEdge unit => exact (captureEdge_quiet unit s).2
  case pulseStart unit => exact (pulseStart_quiet unit s).2
  case pulseEnd unit => exact (pulseEnd_quiet unit s).2
  case trcCtlWrite q v => exact (trcCtlWrite_quiet q v s).2
  case irqDoorbell q v => exact (irqDoorbell_quiet q v s).2
  case irqRouteWrite q n v => exact (irqRouteWrite_quiet q n v s).2
  case pmuSkSnap q sk => exact (pmuSkSnap_quiet q sk s).2
  case statusCmd caller => exact (statusCmd_quiet caller s).2
  case timeCmd caller => exact (timeCmd_quiet caller s).2
  case identityCmd caller => exact (identityCmd_quiet caller s).2
  case authBegin caller role index => exact (authBegin_quiet caller role index s).2
  case authFinish caller tagOk => exact (authFinish_quiet caller tagOk s).2
  case logout caller => exact (logout_quiet caller s).2
  case sessionIdleTimeout id => exact (sessionIdleTimeout_quiet id s).2
  case credentialUnlock cred => exact (credentialUnlock_quiet cred s).2
  case xferOpen caller kind length => exact (xferOpen_quiet caller kind length s).2
  case xferData caller offset data crcOk => exact (xferData_quiet caller offset data crcOk s).2
  case enroll caller slot body sigOk => exact (enroll_quiet caller slot body sigOk s).2
  case revokeSlot caller slot sigOk => exact (revokeSlot_quiet caller slot sigOk s).2
  case logRead caller aseq => exact (logRead_quiet caller aseq s).2
  case floorCmd caller => exact (floorCmd_quiet caller s).2
  case resetCmd caller kind index => exact (resetCmd_quiet caller kind index s).2
  case fwStage caller sigOk version raise => exact (fwStage_quiet caller sigOk version raise s).2
  case dbgHalt caller l => exact (dbgHalt_quiet caller l s).2
  case dbgStep caller l => exact (dbgStep_quiet caller l s).2
  case dbgResume caller l => exact (dbgResume_quiet caller l s).2
  case dbgSample caller l => exact (dbgSample_quiet caller l s).2
  case baudSet caller rate => exact (baudSet_quiet caller rate s).2
  case almanacBreak => exact (almanacBreak_quiet s).2
  case baudRevert => exact (baudRevert_quiet s).2
  case entdaa addr => exact (entdaa_quiet addr s).2
  case dstMbxDoorbell q sk v => exact (dstMbxDoorbell_quiet q sk v s).2
  case auditFlush => exact (auditFlush_quiet s).2
  case shedMeasure used => exact (shedMeasure_quiet used s).2
  case refclk25Restore => exact (refclk25Restore_quiet s).2
  case vaonLoss => exact (vaonLoss_quiet s).2
  case spdTemperatureSample mc dimm temp => exact (spdTemperatureSample_quiet mc dimm temp s).2
  case tracePacketSend => exact (tracePacketSend_quiet s).2
  case rootErrorStatusSet bd => exact (rootErrorStatusSet_quiet bd s).2
  case sleepExitDone l => exact (sleepExitDone_quiet l s).2
  case localFaultEnd port => exact (localFaultEnd_quiet port s).2
  case dramTraining results => exact dramTraining_shown results s
  case imageApply va vb => exact imageApply_shown va vb s
  case swdogExpire sk => exact swdogExpire_shown sk s
  case refclk100Loss => exact refclk100Loss_shown s
  case inboundDmaRequest bd req => exact inboundDmaRequest_shown bd req s
  case gets agent line => exact gets_shown agent line s
  case getm agent line => exact getm_shown agent line s
  case wfull agent line data => exact wfull_shown agent line data s
  case puts agent line => exact puts_shown agent line s
  case putm agent line => exact putm_shown agent line s
  case rdnc agent line => exact rdnc_shown agent line s
  case wrnc agent line mask data => exact wrnc_shown agent line mask data s
  case atom agent line op => exact atom_shown agent line op s
  case dataMsg agent line => exact dataMsg_shown agent line s
  case grantMsg agent line => exact grantMsg_shown agent line s
  case ackMsg agent line => exact ackMsg_shown agent line s
  case rdata agent line => exact rdata_shown agent line s
  case dirRebuildDone line => exact dirRebuildDone_shown line s
  case wayCleanDone unit => exact wayCleanDone_shown unit s
  case fenceAck dom => exact fenceAck_shown dom s
  case fenceLimitExpire dom => exact fenceLimitExpire_shown dom s
  case lpExitFillDone mc => exact lpExitFillDone_shown mc s
  case reelDrainDone l => exact reelDrainDone_shown l s
  case safeEntry cause => exact safeEntry_shown cause s
  case imageHashCheck good => exact imageHashCheck_shown good s
  case lockstepMismatch => exact lockstepMismatch_shown s
  case rlSafe caller => exact rlSafe_shown caller s
  case pwrReqSpindle q index target => exact pwrReqSpindle_shown q index target s
  case pwrReqChannel q index target => exact pwrReqChannel_shown q index target s
  case pwrReqBundle q index target => exact pwrReqBundle_shown q index target s
  case powerEntryTimeout l => exact powerEntryTimeout_shown l s
  case thermalSample site temp under => exact thermalSample_shown site temp under s
  case hubUnitError _unit => exact hubUnitError_shown _unit s
  case sleepEntryDone l => exact sleepEntryDone_shown l s
  all_goals exact nomatch h

/-- Settles O59: what a byte of DRAM reads as is a matter of the list of bytes alone. -/
theorem commandsThatStoreNothing : Obligations.CommandsThatStoreNothing := by
  intro c s t hc ht
  have h := storesNothing_bytes hc t ht
  exact ⟨h, fun a => by rw [Dev.byte, Dev.byte, h]⟩

/-- Settles O60: a core as programs see it is the record of the fields that the statement names. -/
theorem commandsThatLeaveCores : Obligations.CommandsThatLeaveCores := by
  intro c s t l hc ht
  have h : (t.dev.core l).shown = (s.dev.core l).shown := congrFun (leavesCores_shown hc t ht) l
  exact ⟨(congrArg Core.g h :), (congrArg Core.v h :), (congrArg Core.m h :), (congrArg Core.pc h :), (congrArg Core.level h :), (congrArg Core.kb h :),
    (congrArg Core.sbank h :), (congrArg Core.fpFlags h :), (congrArg Core.fpRm h :), (congrArg Core.psat h :), (congrArg Core.pctlRm h :), (congrArg Core.pctlEn h :),
    (congrArg Core.pctlVd h :), (congrArg Core.segtb h :), (congrArg Core.stlb h :), (congrArg Core.bp h :), (congrArg Core.wp h :), (congrArg Core.actN h :),
    (congrArg Core.actS h :), (congrArg Core.threshN h :), (congrArg Core.threshS h :)⟩

end Sys2Proof.Machine
end

section
/-! PROOFS. The canonical form of DRAM through the functions that write it: each of them leaves the listed bytes in their canonical form where it
found them so. -/
namespace Sys2Proof.Machine

/-- The device that an instruction leaves. -/
def CoreOut.dev : CoreOut → Dev
  | .done d _ => d
  | .doneThen d _ => d
  | .jump d _ => d
  | .moved d _ => d
  | .exc d _ => d
  | .stay d => d
  | .drains d => d

theorem foldl_mwf {α : Type} (f : Dev → α → Dev) (hf : ∀ d x, mwf unlistedByte d.mem.bytes = true → mwf unlistedByte (f d x).mem.bytes = true)
    (xs : List α) (d : Dev) (h : mwf unlistedByte d.mem.bytes = true) : mwf unlistedByte (xs.foldl f d).mem.bytes = true := by
  induction xs generalizing d with
  | nil => exact h
  | cons x xs ih => exact ih _ (hf _ _ h)

theorem ite_mwf {c : Prop} [Decidable c] {a b : Dev} (ha : mwf unlistedByte a.mem.bytes = true) (hb : mwf unlistedByte b.mem.bytes = true) :
    mwf unlistedByte (if c then a else b).mem.bytes = true := by
  split
  · exact ha
  · exact hb

theorem ite_out {c : Prop} [Decidable c] {a b : CoreOut} (ha : mwf unlistedByte a.dev.mem.bytes = true)
    (hb : mwf unlistedByte b.dev.mem.bytes = true) :
    mwf unlistedByte (if c then a else b).dev.mem.bytes = true := by
  split
  · exact ha
  · exact hb

/-! ### The instructions' ends that store nothing -/

theorem stop_out (d : Dev) (l : Nat) (s : Stop) : (d.stop l s).dev.mem.bytes = d.mem.bytes := by
  cases s with
  | exc e => rfl
  | hold pa => exact (holdCore_kept ..).1
  | wait => rfl

theorem mfs_out (d : Dev) (l : Nat) (gd : BitVec 5) (n : Nat) : (d.mfs l gd n).dev.mem.bytes = d.mem.bytes := by
  unfold Dev.mfs
  dsimp only
  split
  · rfl
  · simp only [CoreOut.dev, updCore_bytes]
    exact ite_bytes (claim_bytes ..) rfl

theorem qEnd_out (d : Dev) (l : Nat) (gd : BitVec 5) (x : Word) : (d.qEnd l gd x).dev.mem.bytes = d.mem.bytes := by
  simp only [Dev.qEnd, CoreOut.dev, updCore_bytes]

theorem qFail_out (d : Dev) (l : Nat) (gd : BitVec 5) (st : Status) : (d.qFail l gd st).dev.mem.bytes = d.mem.bytes :=
  (qEnd_out ..).trans (countStatus_kept ..).1

theorem qFault_out (d : Dev) (l sub qa : Nat) : (d.qFault l sub qa).dev.mem.bytes = d.mem.bytes := by
  simp only [Dev.qFault, CoreOut.dev, queueFault_kept]

theorem qwaitFault_out (d : Dev) (l sub m n : Nat) : (d.qwaitFault l sub m n).dev.mem.bytes = d.mem.bytes := by
  simp only [Dev.qwaitFault, CoreOut.dev, queueFault_kept]

theorem block_out (d : Dev) (l : Nat) (w : QWait) : (d.block l w).dev.mem.bytes = d.mem.bytes := by
  simp only [Dev.block, CoreOut.dev, updCore_bytes]
  exact foldl_bytes _ (fun d n => (updQ_kept ..).1) _ _

theorem condBranch_out (d : Dev) (l : Nat) (taken : Bool) (target : Word) : (d.condBranch l taken target).dev.mem.bytes = d.mem.bytes := by
  unfold Dev.condBranch
  grind [CoreOut.dev, updCore_bytes]

/-- The device that a delivery leaves. -/
def Delivery.dev : Delivery → Dev
  | .done d _ => d
  | .left d _ => d
  | .wait d => d


/-! ### Memory -/

theorem putBytes_mwf (d : Dev) (cells : List Host.Cell) (h : mwf unlistedByte d.mem.bytes = true) :
    mwf unlistedByte (d.putBytes cells).mem.bytes = true :=
  putBytes_wf _ _ h


/-! ### Cache -/

theorem homeWriteNc_mwf (d : Dev) (line : Nat) (cells : List Host.Cell) (h : mwf unlistedByte d.mem.bytes = true) :
    mwf unlistedByte (d.homeWriteNc line cells).mem.bytes = true := by
  unfold Dev.homeWriteNc
  dsimp only
  repeat' split
  all_goals simp only [putBytes_mwf, setPoison_bytes, dramWriteback_bytes, markStale_bytes, hcInstall_bytes, h]


/-! ### Home -/

theorem fullWrite_mwf (d : Dev) (agent line : Nat) (data : List Byte) (h : mwf unlistedByte d.mem.bytes = true) :
    mwf unlistedByte (d.fullWrite agent line data).mem.bytes = true := by
  simp only [Dev.fullWrite, putBytes_mwf, setPoison_bytes, markStale_bytes, h]

theorem homeWrite_mwf (d : Dev) (line : Nat) (cells : List Host.Cell) (h : mwf unlistedByte d.mem.bytes = true) :
    mwf unlistedByte (d.homeWrite line cells).mem.bytes = true := by
  unfold Dev.homeWrite
  dsimp only
  split
  all_goals simp only [putBytes_mwf, setPoison_bytes, markStale_bytes, hcInstall_bytes, setDir_kept, h]

theorem homeAtom_mwf (d : Dev) (agent line : Nat) (op : AtomOp) (h : mwf unlistedByte d.mem.bytes = true) :
    mwf unlistedByte (d.homeAtom agent line op).mem.bytes = true := by
  unfold Dev.homeAtom
  dsimp only
  split
  all_goals simp only [count_kept, homeRead_bytes, setDir_kept, noteFar_bytes, send_kept, homeWrite_mwf, h]

theorem homeFinish_mwf (d : Dev) (line agent : Nat) (z : HomeReq) (h : mwf unlistedByte d.mem.bytes = true) :
    mwf unlistedByte (d.homeFinish line agent z).mem.bytes = true := by
  unfold Dev.homeFinish
  dsimp only
  repeat' split
  all_goals simp only [homeRead_bytes, homeReadNc_bytes, homeWriteNc_mwf, setDir_kept, noteFar_bytes, send_kept, fullWrite_mwf, homeAtom_mwf, h]

theorem homeInval_mwf (d : Dev) (line agent : Nat) (hs : BitVec 22) (req : HomeReq) (grant : Bool) (h : mwf unlistedByte d.mem.bytes = true) :
    mwf unlistedByte (d.homeInval line agent hs req grant).mem.bytes = true := by
  unfold Dev.homeInval
  simp only [setTxn_kept]
  have h1 : mwf unlistedByte (((List.range 22).filter fun a => hs.getLsbD a).foldl (fun d a => d.send .inv a line []) d).mem.bytes = true := by
    rw [foldl_bytes _ fun d a => (send_kept ..).1]
    exact h
  split
  · split
    · simp only [send_kept, setDir_kept]
      exact fullWrite_mwf _ _ _ _ h1
    · split
      all_goals simp only [send_kept, setDir_kept, homeRead_bytes, h1]
  · exact h1

theorem homeStart_mwf (d : Dev) (line agent : Nat) (req : HomeReq) (h : mwf unlistedByte d.mem.bytes = true) :
    mwf unlistedByte (d.homeStart line agent req).mem.bytes = true := by
  unfold Dev.homeStart
  dsimp only
  repeat' split
  all_goals simp only [count_kept, dirTouch_bytes, dirCorrect_bytes, startRebuild_bytes, setTxn_kept, homeFinish_mwf, homeRecall_bytes,
      homeInval_mwf, h]

theorem homeServe_mwf (d : Dev) (line : Nat) (z : List (Nat × HomeReq)) (h : mwf unlistedByte d.mem.bytes = true) :
    mwf unlistedByte (d.homeServe line z).mem.bytes = true := by
  induction z generalizing d with
  | nil => exact h
  | cons a rest ih =>
    unfold Dev.homeServe
    dsimp only
    split
    · simp only [setTxn_kept]
      exact homeStart_mwf _ _ _ _ h
    · exact ih _ (homeStart_mwf _ _ _ _ h)

theorem homeRequest_mwf (d : Dev) (line agent : Nat) (req : HomeReq) (h : mwf unlistedByte d.mem.bytes = true) :
    mwf unlistedByte (d.homeRequest line agent req).mem.bytes = true := by
  unfold Dev.homeRequest
  repeat' split
  all_goals simp only [setTxn_kept, homeServe_mwf, h]

theorem endTxn_mwf (d : Dev) (line : Nat) (waiting : List (Nat × HomeReq)) (h : mwf unlistedByte d.mem.bytes = true) :
    mwf unlistedByte (d.endTxn line waiting).mem.bytes = true := by
  simp only [Dev.endTxn, setTxn_kept, homeServe_mwf, h]

theorem ownerData_mwf (d : Dev) (agent line : Nat) (data : List Byte) (h : mwf unlistedByte d.mem.bytes = true) :
    mwf unlistedByte (d.ownerData agent line data).mem.bytes = true := by
  unfold Dev.ownerData
  repeat' split
  all_goals simp only [putBytes_mwf, markStale_bytes, h]

theorem recallDone_mwf (d : Dev) (line : Nat) (t : HomeTxn) (kept : Bool) (h : mwf unlistedByte d.mem.bytes = true) :
    mwf unlistedByte (d.recallDone line t kept).mem.bytes = true := by
  unfold Dev.recallDone
  dsimp only
  split
  all_goals simp only [hcInstall_bytes, setDir_kept, homeFinish_mwf, endTxn_mwf, h]

theorem ackCounted_mwf (d : Dev) (line agent : Nat) (t : HomeTxn) (h : mwf unlistedByte d.mem.bytes = true) :
    mwf unlistedByte (d.ackCounted line agent t).mem.bytes = true := by
  unfold Dev.ackCounted
  dsimp only
  repeat' split
  all_goals simp only [setDir_kept, send_kept, setTxn_kept, homeFinish_mwf, endTxn_mwf, h]

theorem putMHome_mwf (d : Dev) (agent line : Nat) (data : List Byte) (h : mwf unlistedByte d.mem.bytes = true) :
    mwf unlistedByte (d.putMHome agent line data).mem.bytes = true := by
  unfold Dev.putMHome
  dsimp only
  repeat' split
  all_goals simp only [hcInstall_bytes, dirTouch_bytes, setDir_kept, ownerData_mwf, recallDone_mwf, h]

theorem putSHome_mwf (d : Dev) (agent line : Nat) (h : mwf unlistedByte d.mem.bytes = true) :
    mwf unlistedByte (d.putSHome agent line).mem.bytes = true := by
  unfold Dev.putSHome
  dsimp only
  repeat' split
  all_goals simp only [dirTouch_bytes, setDir_kept, ackCounted_mwf, h]

theorem hubReach_mwf (d : Dev) (agent line : Nat) (req : HomeReq) (h : mwf unlistedByte d.mem.bytes = true) :
    mwf unlistedByte (d.hubReach agent line req).1.mem.bytes = true := by
  unfold Dev.hubReach
  dsimp only
  repeat' split
  all_goals simp only [count_kept, dirTouch_bytes, dirCorrect_bytes, startRebuild_bytes, homeServe_mwf, h]

theorem homeStore_mwf (d : Dev) (who : Nat) (cells : List Host.Cell) (h : mwf unlistedByte d.mem.bytes = true) :
    mwf unlistedByte (d.homeStore who cells).mem.bytes = true := by
  unfold Dev.homeStore
  dsimp only
  repeat' split
  all_goals simp only [homeRead_bytes, dirTouch_bytes, noteFar_bytes, homeWrite_mwf, dropOthers_bytes, h]

theorem hubWrite_mwf (d : Dev) (a : Nat) (cells : List Host.Cell) (h : mwf unlistedByte d.mem.bytes = true) :
    mwf unlistedByte (d.hubWrite a cells).mem.bytes = true := by
  simp only [Dev.hubWrite, homeStore_mwf, h]

theorem hubWriteAll_mwf (d : Dev) (a pa : Nat) (bs : List Byte) (h : mwf unlistedByte d.mem.bytes = true) :
    mwf unlistedByte (d.hubWriteAll a pa bs).mem.bytes = true :=
  foldl_mwf _ (fun d g h => hubWrite_mwf _ _ _ h) _ _ h

theorem ncWrite_mwf (d : Dev) (who : Nat) (cells : List Host.Cell) (h : mwf unlistedByte d.mem.bytes = true) :
    mwf unlistedByte (d.ncWrite who cells).mem.bytes = true := by
  unfold Dev.ncWrite
  dsimp only
  split
  all_goals simp only [homeWriteNc_mwf, dirTouch_bytes, noteFar_bytes, dirClear_bytes, h]


/-! ### CoreCache -/

theorem l3Evict_mwf (d : Dev) (die line : Nat)
    (h : mwf unlistedByte d.mem.bytes = true) : mwf unlistedByte (d.l3Evict die line).mem.bytes = true := by
  unfold Dev.l3Evict
  dsimp only
  repeat' split
  all_goals simp only [hcInstall_bytes, dieDrop_bytes, putMHome_mwf, putSHome_mwf, h]

theorem l3Fill_mwf (d : Dev) (sk die line : Nat) (t : L3Tag) (h : mwf unlistedByte d.mem.bytes = true) :
    mwf unlistedByte (d.l3Fill sk die line t).mem.bytes = true := by
  unfold Dev.l3Fill
  dsimp only
  repeat' split
  all_goals simp only [l3Evict_mwf, h]

theorem coreReach_mwf (d : Dev) (l line : Nat) (excl : Bool) (h : mwf unlistedByte d.mem.bytes = true) :
    mwf unlistedByte (d.coreReach l line excl).1.mem.bytes = true := by
  unfold Dev.coreReach
  repeat' split
  all_goals simp only [hubReach_mwf, h]

theorem l3Serve_mwf (d : Dev) (l p line : Nat) (excl full : Bool) (h : mwf unlistedByte d.mem.bytes = true) :
    mwf unlistedByte (d.l3Serve l p line excl full).1.mem.bytes = true := by
  have ha : mwf unlistedByte (if (mget none d.coh.l3 (lineKey (p / 28) line)).isSome && (((mget none d.coh.l3 (lineKey (p / 28) line)).getD L3Tag.blank).dieM || !excl)
      then (d, Src.l3) else ((d.dirAcquire (p / 28) line excl full).1, if (d.dirAcquire (p / 28) line excl full).2 then .hc
          else .dram)).1.mem.bytes = true := by
    split
    · exact h
    · simp only [dirAcquire_bytes, h]
  unfold Dev.l3Serve
  refine l3Fill_mwf _ _ _ _ _ ?_
  split
  · rw [forPres_bytes _ _ _ _ fun d q => l2Drop_bytes d q line]
    exact ha
  · split
    · rw [forPres_bytes _ _ _ _ fun d q => l2Downgrade_bytes d q line]
      exact ha
    · exact ha

theorem coreLine_mwf (d : Dev) (l line : Nat) (excl : Bool) (into : Fill) (full : Bool) (h : mwf unlistedByte d.mem.bytes = true) :
    mwf unlistedByte (d.coreLine l line excl into full).1.mem.bytes = true := by
  unfold Dev.coreLine
  split
  · exact h
  split
  · extract_lets r
    dsimp only [r]
    split
    · simp only [homeRead_bytes, dirClear_bytes, dirTouch_bytes, h]
    · rw [readHome_bytes _ _ fun d n => homeRead_bytes ..]
      exact h
  · extract_lets have2 r
    split
    · split
      · simp only [l1Fill_bytes, h]
      · simp only [l2Fill_bytes, h]
    · simp only [l2Fill_bytes]
      exact l3Serve_mwf _ _ _ _ _ _ h

theorem coreWrite_mwf (d : Dev) (l : Nat) (into : Fill) (cells : List Host.Cell) (h : mwf unlistedByte d.mem.bytes = true) :
    mwf unlistedByte (d.coreWrite l into cells).mem.bytes = true := by
  unfold Dev.coreWrite
  dsimp only
  repeat' split
  all_goals simp only [putBytes_mwf, setPoison_bytes, markStale_bytes, homeStore_mwf, coreLine_mwf, noteL1i_bytes, notePending_bytes, h]

theorem tagArrives_mwf (d : Dev) (sk die line : Nat) (m pend : Bool) (h : mwf unlistedByte d.mem.bytes = true) :
    mwf unlistedByte (d.tagArrives sk die line m pend).mem.bytes = true := by
  unfold Dev.tagArrives
  dsimp only
  repeat' split
  all_goals simp only [putMHome_mwf, putSHome_mwf, l3Fill_mwf, h]


/-! ### StoreBuf -/

theorem ncReach_mwf (d : Dev) (l line : Nat) (h : mwf unlistedByte d.mem.bytes = true) : mwf unlistedByte (d.ncReach l line).1.mem.bytes = true := by
  simp only [Dev.ncReach, hubReach_mwf, h]
theorem memStore_mwf (d : Dev) (l : Nat) (cells : List Host.Cell) (mt : MemType) (vi : Nat) (h : mwf unlistedByte d.mem.bytes = true) :
    mwf unlistedByte (d.memStore l cells mt vi).mem.bytes = true := by
  unfold Dev.memStore
  repeat' split
  all_goals simp only [ncWrite_mwf, coreWrite_mwf, h]

theorem issueStore_mwf (d : Dev) (l : Nat) (z : SbItem) (h : mwf unlistedByte d.mem.bytes = true) :
    mwf unlistedByte (d.issueStore l z).1.mem.bytes = true := by
  unfold Dev.issueStore
  grind [updCore_bytes, coreReach_mwf, storeError_bytes, ncReach_mwf, memStore_mwf]

theorem drainItems_mwf (d : Dev) (l : Nat) (z : List SbItem) (h : mwf unlistedByte d.mem.bytes = true) :
    mwf unlistedByte (d.drainItems l z).1.mem.bytes = true := by
  induction z generalizing d with
  | nil => exact h
  | cons it rest ih =>
    unfold Dev.drainItems
    have h1 := issueStore_mwf d l it h
    split
    all_goals
      rename_i he
      rw [he] at h1
    · exact ih _ h1
    · exact h1

theorem drain_mwf (d : Dev) (l : Nat) (h : mwf unlistedByte d.mem.bytes = true) : mwf unlistedByte (d.drain l).mem.bytes = true := by
  simp only [Dev.drain, updCore_bytes, drainItems_mwf, h]
theorem drainMark_mwf (d : Dev) (l : Nat) (all : Bool) (h : mwf unlistedByte d.mem.bytes = true) :
    mwf unlistedByte (d.drainMark l all).mem.bytes = true := by
  unfold Dev.drainMark
  dsimp only
  split
  all_goals simp only [updCore_bytes, drain_mwf, h]

theorem drained_mwf (d : Dev) (l : Nat) (h : mwf unlistedByte d.mem.bytes = true) : mwf unlistedByte (d.drained l).1.mem.bytes = true := by
  simp only [Dev.drained, drain_mwf, h]
theorem beforeLoad_mwf (d : Dev) (l : Nat) (pas : List Nat) (h : mwf unlistedByte d.mem.bytes = true) :
    mwf unlistedByte (d.beforeLoad l pas).1.mem.bytes = true := by
  unfold Dev.beforeLoad
  dsimp only
  split
  all_goals simp only [drain_mwf, h]

theorem pushStore_mwf (d : Dev) (l : Nat) (items : List SbItem) (h : mwf unlistedByte d.mem.bytes = true) :
    mwf unlistedByte (d.pushStore l items).1.mem.bytes = true := by
  unfold Dev.pushStore
  dsimp only
  repeat' split
  all_goals simp only [updCore_bytes, drain_mwf, h]


/-! ### Translate -/

theorem walkRead_mwf (d : Dev) (l pa : Nat) (full : Word) (h : mwf unlistedByte d.mem.bytes = true) :
    mwf unlistedByte (d.walkRead l pa full).1.mem.bytes = true := by
  unfold Dev.walkRead
  grind [coreReach_mwf, coreLine_mwf]

theorem readPte_mwf (d : Dev) (l : Nat) (asid : BitVec 16) (va lvl tbl : Nat) (full : Word) (h : mwf unlistedByte d.mem.bytes = true) :
    mwf unlistedByte (d.readPte l asid va lvl tbl full).1.mem.bytes = true := by
  unfold Dev.readPte
  grind [walkRead_mwf]

theorem walk_mwf (d : Dev) (l : Nat) (asid : BitVec 16) (g : Bool) (va : Nat) (full : Word) (k : AccessKind) (z z2 : Nat)
    (h : mwf unlistedByte d.mem.bytes = true) :
    mwf unlistedByte (d.walk l asid g va full k z z2).1.mem.bytes = true := by
  induction z generalizing d z2 with
  | zero =>
    unfold Dev.walk
    have h1 := readPte_mwf d l asid va 0 z2 full h
    grind
  | succ n ih =>
    unfold Dev.walk
    have h1 := readPte_mwf d l asid va (n + 1) z2 full h
    split
    all_goals
      rename_i he
      rw [he] at h1
      dsimp only at h1
    · exact h1
    · split
      · exact h1
      split
      · exact h1
      split
      · exact h1
      refine ih _ _ ?_
      simp only [updCore_bytes, h1]

theorem descriptor_mwf (d : Dev) (l seg : Nat) (full : Word) (h : mwf unlistedByte d.mem.bytes = true) :
    mwf unlistedByte (d.descriptor l seg full).1.mem.bytes = true := by
  unfold Dev.descriptor
  grind [updCore_bytes, walkRead_mwf]

theorem findEntry_mwf (d : Dev) (l : Nat) (va : Word) (k : AccessKind) (h : mwf unlistedByte d.mem.bytes = true) :
    mwf unlistedByte (d.findEntry l va k).1.mem.bytes = true := by
  unfold Dev.findEntry
  grind [setCore_bytes, updCore_bytes, walk_mwf, descriptor_mwf]

theorem casReady_mwf (d : Dev) (l : Nat) (u : AdUpdate) (h : mwf unlistedByte d.mem.bytes = true) :
    mwf unlistedByte (d.casReady l u).1.mem.bytes = true := by
  unfold Dev.casReady
  grind [coreReach_mwf, drain_mwf]

theorem xlatePages_mwf (d : Dev) (l : Nat) (lvl : Level) (va : Word) (k : AccessKind) (ply : Bool) (h : mwf unlistedByte d.mem.bytes = true) :
    mwf unlistedByte (d.xlatePages l lvl va k ply).1.mem.bytes = true := by
  unfold Dev.xlatePages
  have h1 := findEntry_mwf d l va k h
  split
  all_goals
    rename_i he
    rw [he] at h1
    dsimp only at h1
  · exact h1
  next e x w0 =>
  split
  · exact h1
  split
  · exact h1
  next u hu =>
  have h2 := casReady_mwf e l u h1
  split
  all_goals
    rename_i he
    rw [he] at h2
    dsimp only at h2
  · exact h2
  · exact h2
  · exact h2
  next e2 =>
  have h3 := findEntry_mwf (e2.updCore l fun c => c.dropEntry x) l va k (by simp only [updCore_bytes, h2])
  split
  all_goals
    rename_i he
    rw [he] at h3
    dsimp only at h3
  · exact h3
  · split
    · exact h3
    · exact h3

theorem translate_mwf (d : Dev) (l : Nat) (va : Word) (k : AccessKind) (ply : Bool) (h : mwf unlistedByte d.mem.bytes = true) :
    mwf unlistedByte (d.translate l va k ply).1.mem.bytes = true := by
  unfold Dev.translate
  dsimp only
  repeat' split
  all_goals simp only [xlatePages_mwf, h]

theorem applyAd_mwf (d : Dev) (l : Nat) (z : Option AdUpdate) (h : mwf unlistedByte d.mem.bytes = true) :
    mwf unlistedByte (d.applyAd l z).mem.bytes = true := by
  unfold Dev.applyAd
  repeat' split
  all_goals simp only [updCore_bytes, coreWrite_mwf, h]


/-! ### Ops -/

theorem fetch_mwf (d : Dev) (l : Nat) (h : mwf unlistedByte d.mem.bytes = true) : mwf unlistedByte (d.fetch l).1.mem.bytes = true := by
  unfold Dev.fetch
  grind [ncRead_kept, coreReach_mwf, coreLine_mwf, ncReach_mwf, translate_mwf]

theorem enter_mwf (d : Dev) (l : Nat) (secure : Bool) (cause : Reg32) (addr savedPc : Word) (offset : Nat) (h : mwf unlistedByte d.mem.bytes = true) :
    mwf unlistedByte (d.enter l secure cause addr savedPc offset).mem.bytes = true := by
  simp only [Dev.enter, updCore_bytes, drainMark_mwf, refetch_bytes, h]

theorem takeExc_mwf (d : Dev) (l : Nat) (e : Exc) (h : mwf unlistedByte d.mem.bytes = true) : mwf unlistedByte (d.takeExc l e).mem.bytes = true := by
  simp only [Dev.takeExc, enter_mwf, h]
theorem scalarCheck_mwf (d : Dev) (l : Nat) (va : Word) (n : Nat) (k : AccessKind) (h : mwf unlistedByte d.mem.bytes = true) :
    mwf unlistedByte (d.scalarCheck l va n k).1.mem.bytes = true := by
  unfold Dev.scalarCheck
  grind [translate_mwf]

theorem memLoad_mwf (d : Dev) (l pa : Nat) (mt : MemType) (va : Word) (h : mwf unlistedByte d.mem.bytes = true) :
    mwf unlistedByte (d.memLoad l pa mt va).1.mem.bytes = true := by
  unfold Dev.memLoad
  dsimp only
  split
  all_goals simp only [ncRead_kept, coreLine_mwf, h]

theorem mwf_reach {d : Dev} {l line : Nat} {mt : MemType} {excl : Bool} {r : Dev × Answer} (h : mwf unlistedByte d.mem.bytes = true)
    (he : (if mt = .nc then d.ncReach l line else d.coreReach l line excl) = r) : mwf unlistedByte r.1.mem.bytes = true := by
  subst he
  split
  · exact ncReach_mwf _ _ _ h
  · exact coreReach_mwf _ _ _ _ h

theorem finish_mwf (d0 : Dev) (l : Fin 384) (o : CoreOut) (h : mwf unlistedByte o.dev.mem.bytes = true) :
    mwf unlistedByte (d0.finish l o).mem.bytes = true := by
  unfold Dev.finish
  split
  · simp only [countRetired_bytes, updCore_bytes]
    exact h
  · simp only [countRetired_bytes, updCore_bytes]
    exact h
  · simp only [traceRecord_bytes, countRetired_bytes, updCore_bytes]
    exact h
  · simp only [countRetired_bytes]
    exact h
  · simp only [traceExcept_bytes, updCore_bytes, pmuCount_bytes]
    exact takeExc_mwf _ _ _ h
  · exact h
  · simp only [updCore_bytes]
    exact h

theorem instr_mwf {d : Dev} {l : Fin 384} {f : Dev → CoreOut}
    (hf : ∀ d, mwf unlistedByte d.mem.bytes = true → mwf unlistedByte (f d).dev.mem.bytes = true) (h : mwf unlistedByte d.mem.bytes = true) :
    mwf unlistedByte (d.instr l f).mem.bytes = true := by
  unfold Dev.instr
  split
  · exact h
  have h1 := fetch_mwf d l.val h
  split
  all_goals
    rename_i he
    rw [he] at h1
    dsimp only at h1
  · exact finish_mwf _ _ _ (hf _ h1)
  · refine finish_mwf _ _ _ ?_
    split
    · exact hf _ (applyAd_mwf _ _ _ h1)
    · exact hf _ h1
  · exact finish_mwf _ _ _ (by simp only [stop_out, h1])

theorem load_mwf (d : Dev) (l : Nat) (va : Word) (n : Nat) (dst : LoadDst) (evs : List (Nat × Nat)) (h : mwf unlistedByte d.mem.bytes = true) :
    mwf unlistedByte (d.load l va n dst evs).dev.mem.bytes = true := by
  unfold Dev.load
  have h1 := scalarCheck_mwf d l va n .load h
  split
  all_goals
    rename_i he
    rw [he] at h1
    dsimp only at h1
  · rw [stop_out]
    exact h1
  next e x =>
  dsimp only
  split
  · exact h1
  · split
    · simp only [CoreOut.dev, updCore_bytes]
      exact applyAd_mwf _ _ _ (drained_mwf _ _ h1)
    · exact drained_mwf _ _ h1
  · split
    · simp only [CoreOut.dev, updCore_bytes]
      exact applyAd_mwf _ _ _ (drained_mwf _ _ h1)
    · exact drained_mwf _ _ h1
  split
  · exact drain_mwf _ _ h1
  have h2 := beforeLoad_mwf e l ((List.range n).map fun i => x.pa + i) h1
  split
  · exact h2
  split
  · simp only [CoreOut.dev, updCore_bytes]
    exact applyAd_mwf _ _ _ h2
  split
  all_goals
    rename_i he
    have h3 := mwf_reach h2 he
    dsimp only at h3
  · rw [stop_out]
    exact h3
  · rw [stop_out]
    exact h3
  · exact h3
  · split
    · exact h3
    · simp only [CoreOut.dev, updCore_bytes]
      exact memLoad_mwf _ _ _ _ _ (applyAd_mwf _ _ _ h3)

theorem store_mwf (d : Dev) (l : Nat) (va : Word) (n v : Nat) (evs : List (Nat × Nat)) (h : mwf unlistedByte d.mem.bytes = true) :
    mwf unlistedByte (d.store l va n v evs).dev.mem.bytes = true := by
  unfold Dev.store
  have h1 := scalarCheck_mwf d l va n .store h
  split
  all_goals
    rename_i he
    rw [he] at h1
    dsimp only at h1
  · rw [stop_out]
    exact h1
  next e x =>
  split
  · exact drain_mwf _ _ h1
  · have h2 := pushStore_mwf e l [.store (cellsAt x.pa (leBytes n v)) x.mt (e.core l).level (vaIdx va)] h1
    split
    all_goals
      rename_i he
      rw [he] at h2
      dsimp only at h2
    · exact applyAd_mwf _ _ _ h2
    · exact h2


/-! ### Atomics -/

theorem atomNear_mwf (d : Dev) (l pa n vi : Nat) (new : Option Nat) (h : mwf unlistedByte d.mem.bytes = true) :
    mwf unlistedByte (d.atomNear l pa n vi new).mem.bytes = true := by
  unfold Dev.atomNear
  dsimp only
  split
  all_goals simp only [markStale_bytes, coreLine_mwf, coreWrite_mwf, h]

theorem atomL3_mwf (d : Dev) (l die pa n : Nat) (t : L3Tag) (new : Option Nat) (h : mwf unlistedByte d.mem.bytes = true) :
    mwf unlistedByte (d.atomL3 l die pa n t new).mem.bytes = true := by
  have h1 : mwf unlistedByte (d.forPres die t.pres none fun d p => d.l2Drop p (pa / 64)).mem.bytes = true := by
    rw [forPres_bytes _ _ _ _ fun d q => l2Drop_bytes d q (pa / 64)]
    exact h
  unfold Dev.atomL3
  extract_lets line d1 d2 d3
  have h2 : mwf unlistedByte d2.mem.bytes = true := by
    dsimp only [d2]
    split
    · exact putBytes_mwf _ _ (by simp only [markStale_bytes]; exact h1)
    · exact h1
  have h3 : mwf unlistedByte d3.mem.bytes = true := l3Fill_mwf _ _ _ _ _ h2
  split
  · split
    · simp only [notePending_bytes, h3]
    · exact h3
  · exact h3

theorem atomHub_mwf (d : Dev) (pa n : Nat) (new : Option Nat) (h : mwf unlistedByte d.mem.bytes = true) :
    mwf unlistedByte (d.atomHub pa n new).mem.bytes = true := by
  unfold Dev.atomHub
  dsimp only
  split
  all_goals simp only [homeRead_bytes, dirTouch_bytes, homeWrite_mwf, dirClear_bytes, h]

theorem atomFar_mwf (d : Dev) (l p pa n : Nat) (new : Option Nat) (h : mwf unlistedByte d.mem.bytes = true) :
    mwf unlistedByte (d.atomFar l p pa n new).mem.bytes = true := by
  unfold Dev.atomFar
  repeat' split
  all_goals simp only [noteFar_bytes, atomL3_mwf, atomHub_mwf, h]

theorem atomic_mwf (d : Dev) (l : Nat) (gd ga : BitVec 5) (n : Nat) (release : Bool) (f : Nat → Option Nat)
    (h : mwf unlistedByte d.mem.bytes = true) :
    mwf unlistedByte (d.atomic l gd ga n release f).dev.mem.bytes = true := by
  unfold Dev.atomic
  grind [CoreOut.dev, count_kept, updCore_bytes, coreReach_mwf, drain_mwf, applyAd_mwf, stop_out, scalarCheck_mwf, atomNear_mwf, atomFar_mwf]


/-! ### Coherence -/

theorem takeAck_mwf (d : Dev) (agent line : Nat) (h : mwf unlistedByte d.mem.bytes = true) :
    mwf unlistedByte (d.takeAck agent line).mem.bytes = true := by
  unfold Dev.takeAck
  repeat' split
  all_goals simp only [ackCounted_mwf, h]

theorem takeRdata_mwf (d : Dev) (agent line : Nat) (data : List Byte) (h : mwf unlistedByte d.mem.bytes = true) :
    mwf unlistedByte (d.takeRdata agent line data).mem.bytes = true := by
  unfold Dev.takeRdata
  repeat' split
  all_goals simp only [ownerData_mwf, recallDone_mwf, h]

theorem takeData_mwf (d : Dev) (m : CohMsg) (h : mwf unlistedByte d.mem.bytes = true) : mwf unlistedByte (d.takeData m).mem.bytes = true := by
  unfold Dev.takeData
  repeat' split
  all_goals simp only [setHubHeld_bytes, tagArrives_mwf, h]

theorem takeGrant_mwf (d : Dev) (m : CohMsg) (h : mwf unlistedByte d.mem.bytes = true) : mwf unlistedByte (d.takeGrant m).mem.bytes = true := by
  unfold Dev.takeGrant
  repeat' split
  all_goals simp only [setHubHeld_bytes, tagArrives_mwf, h]

theorem takeMsg_mwf (d : Dev) (m : CohMsg) (h : mwf unlistedByte d.mem.bytes = true) : mwf unlistedByte (d.takeMsg m).mem.bytes = true := by
  unfold Dev.takeMsg
  dsimp only
  split
  all_goals simp only [arrived_kept, takeInv_kept, takeRecall_kept, takeAck_mwf, takeRdata_mwf, takeData_mwf, takeGrant_mwf, takeDone_bytes, h]

theorem netTick_mwf (d : Dev) (h : mwf unlistedByte d.mem.bytes = true) : mwf unlistedByte d.netTick.mem.bytes = true := by
  unfold Dev.netTick
  simp only [hopAll_kept]
  refine foldl_mwf _ (fun d m h => ?_) _ _ h
  split
  · exact takeMsg_mwf _ _ h
  · exact h

theorem homeRetry_mwf (d : Dev) (line : Nat) (h : mwf unlistedByte d.mem.bytes = true) : mwf unlistedByte (d.homeRetry line).mem.bytes = true := by
  unfold Dev.homeRetry
  repeat' split
  all_goals simp only [setTxn_kept, homeServe_mwf, h]

theorem cohPump_mwf (d : Dev) (h : mwf unlistedByte d.mem.bytes = true) : mwf unlistedByte d.cohPump.mem.bytes = true :=
  foldl_mwf _ (fun d x h => homeRetry_mwf _ _ h) _ _ h
theorem rebuildDone_mwf (d : Dev) (line : Nat)
    (h : mwf unlistedByte d.mem.bytes = true) : mwf unlistedByte (d.rebuildDone line).mem.bytes = true := by
  have hf := fun (d : Dev) => foldl_mwf (fun (d : Dev) i => d.homeRetry (line / 21 * 21 + i)) (fun d i h => homeRetry_mwf _ _ h) (List.range 21) d
  unfold Dev.rebuildDone
  dsimp only
  split
  · exact h
  · exact hf _ (by simp only [dirRebuild_kept, h])

theorem txnsOfDead_mwf (d : Dev) (agent : Nat)
    (h : mwf unlistedByte d.mem.bytes = true) : mwf unlistedByte (d.txnsOfDead agent).mem.bytes = true := by
  unfold Dev.txnsOfDead
  refine foldl_mwf _ (fun d line h => ?_) _ _ h
  split
  · exact h
  · dsimp only
    split
    · exact recallDone_mwf _ _ _ _ (by simp only [reclaimPoison_bytes, h])
    · split
      · exact ackCounted_mwf _ _ _ _ h
      · simp only [setTxn_kept, h]


/-! ### Ply -/

theorem plyCheck_mwf (d : Dev) (l : Nat) (ea : Word) (k : AccessKind) (z : List Nat) (h : mwf unlistedByte d.mem.bytes = true) :
    mwf unlistedByte (d.plyCheck l ea k z).1.mem.bytes = true := by
  induction z generalizing d with
  | nil => exact h
  | cons j js ih =>
    unfold Dev.plyCheck
    have h1 := translate_mwf d l (ea + BitVec.ofNat 64 j) k true h
    dsimp only
    split
    all_goals
      rename_i he
      rw [he] at h1
      dsimp only at h1
    · exact h1
    next e x =>
    split
    · exact h1
    · have h2 := ih e h1
      split
      all_goals
        rename_i he
        rw [he] at h2
        exact h2

theorem applyAds_mwf (d : Dev) (l : Nat) (bs : List PlyByte) (h : mwf unlistedByte d.mem.bytes = true) :
    mwf unlistedByte (d.applyAds l bs).mem.bytes = true :=
  foldl_mwf _ (fun d a h => applyAd_mwf _ _ _ h) _ _ h

theorem plyStop_mwf (d : Dev) (l : Nat) (sec : Bool) (z : List PlyByte) (h : mwf unlistedByte d.mem.bytes = true) :
    mwf unlistedByte (d.plyStop l sec z).1.mem.bytes = true := by
  induction z generalizing d with
  | nil => exact h
  | cons b bs ih =>
    unfold Dev.plyStop
    split
    · exact ih _ h
    · dsimp only
      split
      all_goals
        rename_i he
        have h1 := mwf_reach h he
        dsimp only at h1
      · exact h1
      · exact h1
      · exact h1
      · split
        · exact h1
        · exact ih _ h1
    · exact h

theorem plyLines_mwf (d : Dev) (l : Nat) (z : List (Nat × MemType × Word)) (h : mwf unlistedByte d.mem.bytes = true) :
    mwf unlistedByte (d.plyLines l z).1.mem.bytes = true := by
  induction z generalizing d with
  | nil => exact h
  | cons x t ih => exact ih _ (memLoad_mwf _ _ _ _ _ h)


/-! ### LoadStore -/

theorem prefLine_mwf (d : Dev) (l line vi hint : Nat) (h : mwf unlistedByte d.mem.bytes = true) :
    mwf unlistedByte (d.prefLine l line vi hint).mem.bytes = true := by
  unfold Dev.prefLine
  repeat' split
  all_goals simp only [markStale_bytes, dirAcquire_bytes, l3Fill_mwf, coreLine_mwf, h]


/-! ### SysRegs -/

theorem mts_mwf (d : Dev) (l n : Nat) (x : Word) (h : mwf unlistedByte d.mem.bytes = true) : mwf unlistedByte (d.mts l n x).dev.mem.bytes = true := by
  unfold Dev.mts
  dsimp only
  repeat' split
  all_goals simp only [CoreOut.dev, updCore_bytes, drained_mwf, inboxSend_bytes, swdogWrite_kept, ndogCtlWrite_kept, ndogSvc_kept, h]


/-! ### System -/

theorem inval_mwf (d : Dev) (l : Nat) (all : Bool) (f : Core → Core) (h : mwf unlistedByte d.mem.bytes = true) :
    mwf unlistedByte (d.inval l all f).dev.mem.bytes = true := by
  unfold Dev.inval
  split
  · exact h
  · dsimp only
    have h1 := foldl_mwf Dev.drain (fun d k h => drain_mwf _ _ h) (l :: d.invalAt l all) d h
    split
    · rw [CoreOut.dev, foldl_bytes _ fun d k => updCore_bytes ..]
      exact h1
    · exact h1


/-! ### Bobbin -/

theorem cellsWritten_mwf (d : Dev) (lines : List Nat) (bs : List Byte) (h : mwf unlistedByte d.mem.bytes = true) :
    mwf unlistedByte (d.cellsWritten lines bs).mem.bytes = true := by
  unfold Dev.cellsWritten
  refine foldl_mwf _ (fun d i h => ?_) _ _ h
  simp only [hcInstall_bytes, setPoison_bytes]
  exact putBytes_mwf _ _ (by simp only [markStale_bytes, h])

theorem coreDone_mwf (d : Dev) (l : Nat) (gd : BitVec 5) (x : Word) (h : mwf unlistedByte d.mem.bytes = true) :
    mwf unlistedByte (d.coreDone l gd x).mem.bytes = true := by
  unfold Dev.coreDone
  refine finish_mwf _ _ _ ?_
  simp only [CoreOut.dev, updCore_bytes, h]

theorem endWait_mwf (d : Dev) (l : Nat) (gd : BitVec 5) (x : Word) (h : mwf unlistedByte d.mem.bytes = true) :
    mwf unlistedByte (d.endWait l gd x).mem.bytes = true := by
  simp only [Dev.endWait, coreDone_mwf, unregister_kept, h]

theorem bufReach_mwf (d : Dev) (z : List Nat) (h : mwf unlistedByte d.mem.bytes = true) : mwf unlistedByte (d.bufReach z).1.mem.bytes = true := by
  induction z generalizing d with
  | nil => exact h
  | cons x t ih =>
    unfold Dev.bufReach
    have h1 := hubReach_mwf d 16 x .rdnc h
    split
    all_goals
      rename_i he
      rw [he] at h1
    · exact ih _ h1
    · exact h1


/-! ### Queue -/

theorem failPoster_mwf (d : Dev) (n : Nat) (p : Poster) (st : Status) (h : mwf unlistedByte d.mem.bytes = true) :
    mwf unlistedByte (d.failPoster n p st).mem.bytes = true := by
  unfold Dev.failPoster
  repeat' split
  all_goals simp only [count_kept, countStatus_kept, coreDone_mwf, refuse_kept, chDescDone_kept, ackSoon_kept, h]

theorem discardPosts_mwf (d : Dev) (n : Nat) (st : Status) (cs : CellSt) (h : mwf unlistedByte d.mem.bytes = true) :
    mwf unlistedByte (d.discardPosts n st cs).mem.bytes = true := by
  unfold Dev.discardPosts
  refine foldl_mwf _ (fun d p h => failPoster_mwf _ _ _ _ ?_) _ _ h
  split
  all_goals simp only [count_kept, updQ_kept, h]

theorem endWaiters_mwf (d : Dev) (n : Nat) (st : Status) (readOnly : Bool) (h : mwf unlistedByte d.mem.bytes = true) :
    mwf unlistedByte (d.endWaiters n st readOnly).mem.bytes = true := by
  unfold Dev.endWaiters
  refine foldl_mwf _ (fun d w h => ?_) _ _ h
  split
  · exact h
  · split
    · split
      · exact h
      · exact endWait_mwf _ _ _ _ (by simp only [countStatus_kept, h])
    · exact h

theorem endFlushers_mwf (d : Dev) (n : Nat) (st : Status) (h : mwf unlistedByte d.mem.bytes = true) :
    mwf unlistedByte (d.endFlushers n st).mem.bytes = true := by
  unfold Dev.endFlushers
  refine foldl_mwf _ (fun d e h => ?_) _ _ h
  split
  · split
    · exact coreDone_mwf _ _ _ _ (by simp only [countStatus_kept, h])
    · exact h
  · exact h

theorem qDie_mwf (d : Dev) (n : Nat) (h : mwf unlistedByte d.mem.bytes = true) : mwf unlistedByte (d.qDie n).mem.bytes = true := by
  unfold Dev.qDie
  grind [updQ_kept, revokeAll_kept, discardPosts_mwf, endWaiters_mwf, errorDrains_kept, endGrantReqs_kept, endFlushers_mwf]

theorem qTouch_mwf (d : Dev) (n : Nat) (h : mwf unlistedByte d.mem.bytes = true) : mwf unlistedByte (d.qTouch n).mem.bytes = true := by
  unfold Dev.qTouch
  dsimp only
  repeat' split
  all_goals simp only [ctxUse_kept, qDie_mwf, h]

theorem qDieLines_mwf (d : Dev) (lines : List Nat) (h : mwf unlistedByte d.mem.bytes = true) :
    mwf unlistedByte (d.qDieLines lines).mem.bytes = true := by
  unfold Dev.qDieLines
  refine foldl_mwf _ (fun d x h => ?_) _ _ h
  split
  · exact h
  · dsimp only
    split
    · exact qDie_mwf _ _ h
    · exact foldl_mwf _ (fun d e h => qDie_mwf _ _ h) _ _ h

theorem deliver_mwf (d : Dev) (l n member slot : Nat) (spill : List Nat) (it : QItem) (h : mwf unlistedByte d.mem.bytes = true) :
    mwf unlistedByte (d.deliver l n member slot spill it).dev.mem.bytes = true := by
  unfold Dev.deliver
  dsimp only
  split
  · exact h
  split
  · exact h
  split
  · simp only [Delivery.dev, countStatus_kept, takeItem_kept, h]
  have h1 := bufReach_mwf d (if it.len ≤ 256 then [] else spill.take ((it.len - 256 + 63) / 64)) h
  split
  all_goals
    rename_i he
    rw [he] at h1
    dsimp only at h1
  · exact h1
  · refine foldl_mwf _ (fun d i h => hubWrite_mwf _ _ _ h) _ _ ?_
    simp only [updCore_bytes, takeItem_kept, h1]

theorem offer_mwf (d : Dev) (n : Nat) (z : List QWaiter) (h : mwf unlistedByte d.mem.bytes = true) :
    mwf unlistedByte (d.offer n z).mem.bytes = true := by
  induction z generalizing d with
  | nil => exact h
  | cons w ws ih =>
    unfold Dev.offer
    split
    · exact h
    next it _ =>
    split
    · split
      · simp only [drainTake_kept, h]
      · exact ih _ h
    · split
      · next l _ q _ =>
        dsimp only
        have h1 := deliver_mwf d l n (if q.isWait then q.memberOf n else 0) q.slot q.spill it h
        split
        all_goals
          rename_i he
          rw [he] at h1
          dsimp only [Delivery.dev] at h1
        · exact h1
        · exact ih _ (endWait_mwf _ _ _ _ h1)
        · simp only [serveGrants_kept]
          refine endWait_mwf _ _ _ _ ?_
          split
          · exact h1
          · exact h1
      · exact ih _ h

theorem offerAll_mwf (d : Dev) (h : mwf unlistedByte d.mem.bytes = true) : mwf unlistedByte d.offerAll.mem.bytes = true :=
  foldl_mwf _ (fun d e h => offer_mwf _ _ _ h) _ _ h
theorem commitPost_mwf (d : Dev) (own : Nat) (h : mwf unlistedByte d.mem.bytes = true) : mwf unlistedByte (d.commitPost own).mem.bytes = true := by
  unfold Dev.commitPost
  grind [count_kept, hubAdd_kept, updQ_kept, cellsWritten_mwf, linkTouch_kept, coreDone_mwf, chDescDone_kept, ackSoon_kept, qTouch_mwf, offer_mwf]

theorem flushPoint_mwf (d : Dev) (n : Nat) (h : mwf unlistedByte d.mem.bytes = true) : mwf unlistedByte (d.flushPoint n).mem.bytes = true := by
  unfold Dev.flushPoint
  dsimp only
  split
  all_goals simp only [count_kept, updQ_kept, revokeAll_kept, discardPosts_mwf, h]

theorem flushDone_mwf (d : Dev) (n : Nat) (h : mwf unlistedByte d.mem.bytes = true) : mwf unlistedByte (d.flushDone n).mem.bytes = true := by
  unfold Dev.flushDone
  dsimp only
  split
  · exact h
  · simp only [serveGrants_kept]
    refine endFlushers_mwf _ _ _ ?_
    rw [(setQ_kept ..).1, foldl_bytes _ fun d x => (hcForget_kept ..).1]
    exact h


/-! ### Channels -/

theorem chPost_mwf (d : Dev) (c : Nat) (x : Desc) (h : mwf unlistedByte d.mem.bytes = true) : mwf unlistedByte (d.chPost c x).mem.bytes = true := by
  unfold Dev.chPost
  dsimp only
  repeat' split
  all_goals simp only [count_kept, countStatus_kept, chDescDone_kept, qTouch_mwf, startPost_kept, updDesc_kept, h]

theorem chPosts_mwf (d : Dev) (c z : Nat) (h : mwf unlistedByte d.mem.bytes = true) : mwf unlistedByte (d.chPosts c z).mem.bytes = true := by
  induction z generalizing d with
  | zero => exact h
  | succ n ih =>
    unfold Dev.chPosts
    dsimp only
    split
    · exact h
    · split
      · exact h
      · exact ih _ (chPost_mwf _ _ _ h)

theorem chPump_mwf (d : Dev) (c : Nat) (h : mwf unlistedByte d.mem.bytes = true) : mwf unlistedByte (d.chPump c).mem.bytes = true := by
  simp only [Dev.chPump, chPosts_mwf, chFetches_kept, chPayloads_kept, h]
theorem pumpAll_mwf (d : Dev) (h : mwf unlistedByte d.mem.bytes = true) : mwf unlistedByte d.pumpAll.mem.bytes = true :=
  foldl_mwf _ (fun d c h => chPump_mwf _ _ h) _ _ h
theorem chEnable_mwf (d : Dev) (c : Nat) (h : mwf unlistedByte d.mem.bytes = true) : mwf unlistedByte (d.chEnable c).mem.bytes = true := by
  unfold Dev.chEnable
  dsimp only
  repeat' split
  all_goals simp only [updQ_kept, setBarF_kept, updChan_kept, setChState_kept, chHeads_kept, qTouch_mwf, chResult_kept, h]

theorem sqTail_mwf (d : Dev) (c v : Nat) (h : mwf unlistedByte d.mem.bytes = true) : mwf unlistedByte (d.sqTail c v).mem.bytes = true := by
  simp only [Dev.sqTail, updChan_kept, chPump_mwf, h]
theorem cqHead_mwf (d : Dev) (c v : Nat) (h : mwf unlistedByte d.mem.bytes = true) : mwf unlistedByte (d.cqHead c v).mem.bytes = true := by
  simp only [Dev.cqHead, updChan_kept, chOwed_kept, chPump_mwf, chArm_kept, h]
theorem doorbellCh_mwf {d : Dev} {c n v : Nat} {act rec : Dev → Dev} (ha : mwf unlistedByte (act d).mem.bytes = true)
    (hr : mwf unlistedByte (rec d).mem.bytes = true) (h : mwf unlistedByte d.mem.bytes = true) :
    mwf unlistedByte (d.doorbellCh c n v act rec).mem.bytes = true := by
  unfold Dev.doorbellCh
  dsimp only
  repeat' split
  all_goals simp only [chError_kept, ha, hr, h]

theorem chSqDb_mwf (d : Dev) (c : Nat) (v : Reg32) (h : mwf unlistedByte d.mem.bytes = true) : mwf unlistedByte (d.chSqDb c v).mem.bytes = true :=
  doorbellCh_mwf (sqTail_mwf _ _ _ h) (by simp only [updChan_kept, h]) h
theorem chCqDb_mwf (d : Dev) (c : Nat) (v : Reg32) (h : mwf unlistedByte d.mem.bytes = true) : mwf unlistedByte (d.chCqDb c v).mem.bytes = true :=
  doorbellCh_mwf (cqHead_mwf _ _ _ h) (by simp only [chArm_kept, updChan_kept, h]) h
theorem chCommand_mwf {d : Dev} {c : Nat} {ok : Nat → Bool} {f : Dev → Dev} (hf : mwf unlistedByte (f d).mem.bytes = true)
    (h : mwf unlistedByte d.mem.bytes = true) :
    mwf unlistedByte (d.chCommand c ok f).mem.bytes = true := by
  unfold Dev.chCommand
  dsimp only
  repeat' split
  all_goals simp only [chResult_kept, count_kept, hf, h]

theorem chDo_mwf (d : Dev) (c cmd : Nat) (h : mwf unlistedByte d.mem.bytes = true) : mwf unlistedByte (d.chDo c cmd).mem.bytes = true := by
  unfold Dev.chDo
  split
  · exact h
  · exact chCommand_mwf (chEnable_mwf _ _ h) h
  · exact chCommand_mwf (by simp only [chResult_kept, setChState_kept, h]) h
  · refine chCommand_mwf ?_ h
    simp only [chResult_kept]
    refine chPump_mwf _ _ ?_
    have h1 : mwf unlistedByte ((d.updChan c fun x => { x with recSq := none, recRx := none, recCq := none }).setChState c 1).mem.bytes = true := by
      simp only [setChState_kept, updChan_kept, h]
    have hr : ∀ (o : Option Nat) (e : Dev), mwf unlistedByte e.mem.bytes = true →
        mwf unlistedByte (match o with | some v => e.rxHead c v | none => e).mem.bytes = true := fun o e he => by
      split
      · simp only [rxHead_kept, he]
      · exact he
    have hc : ∀ (o : Option Nat) (e : Dev), mwf unlistedByte e.mem.bytes = true →
        mwf unlistedByte (match o with | some v => e.cqHead c v | none => e).mem.bytes = true := fun o e he => by
      split
      · exact cqHead_mwf _ _ _ he
      · exact he
    split
    · exact sqTail_mwf _ _ _ (hc _ _ (hr _ _ h1))
    · exact hc _ _ (hr _ _ h1)
  · refine chCommand_mwf ?_ h
    simp only [chResult_kept, chHeads_kept, setChState_kept, updChan_kept, unregister_kept, h]
  · split
    · exact h
    · simp only [chResult_kept, h]

theorem descFetched_mwf (d : Dev) (c : Nat) (y : Desc) (bs : List Byte) (h : mwf unlistedByte d.mem.bytes = true) :
    mwf unlistedByte (d.descFetched c y bs).mem.bytes = true := by
  unfold Dev.descFetched
  dsimp only
  repeat' split
  all_goals simp only [countStatus_kept, chDescDone_kept, qTouch_mwf, updDesc_kept, h]


/-! ### QueueInstr -/

theorem xlPages_mwf (d : Dev) (l : Nat) (k : AccessKind) (z : List Word) (h : mwf unlistedByte d.mem.bytes = true) :
    mwf unlistedByte (d.xlPages l k z).1.mem.bytes = true := by
  induction z generalizing d with
  | nil => exact h
  | cons va t ih =>
    unfold Dev.xlPages
    have h1 := translate_mwf d l va k false h
    split
    all_goals
      rename_i he
      rw [he] at h1
      dsimp only at h1
    · exact h1
    next e x =>
    have h2 := ih e h1
    split
    all_goals
      rename_i he
      rw [he] at h2
      exact h2

theorem bufTake_mwf {d : Dev} {l : Nat} {gd : BitVec 5} {lines : List Nat} {k : Dev → CoreOut}
    (hk : ∀ d, mwf unlistedByte d.mem.bytes = true → mwf unlistedByte (k d).dev.mem.bytes = true) (h : mwf unlistedByte d.mem.bytes = true) :
    mwf unlistedByte (d.bufTake l gd lines k).dev.mem.bytes = true := by
  unfold Dev.bufTake
  split
  · simp only [qFail_out, h]
  have h1 := bufReach_mwf d lines h
  split
  all_goals
    rename_i he
    rw [he] at h1
    dsimp only at h1
  · exact h1
  · exact hk _ (by simp only [bufRead_kept, h1])

theorem qpostRemote_mwf (d : Dev) (l : Nat) (gd : BitVec 5) (qa len prio : Nat) (payload : List Byte) (lines : List Nat)
    (h : mwf unlistedByte d.mem.bytes = true) :
    mwf unlistedByte (d.qpostRemote l gd qa len prio payload lines).dev.mem.bytes = true := by
  unfold Dev.qpostRemote
  grind [CoreOut.dev, updCore_bytes, askCredit_kept, dropShort_kept, qFail_out, bufTake_mwf]

theorem qpost_mwf (d : Dev) (l : Nat) (gd : BitVec 5) (qa maxLen : Nat) (lines : List Nat) (hdr : Option (Nat × Nat × List Byte))
    (h : mwf unlistedByte d.mem.bytes = true) :
    mwf unlistedByte (d.qpost l gd qa maxLen lines hdr).dev.mem.bytes = true := by
  unfold Dev.qpost
  dsimp only
  split
  · simp only [qFail_out, h]
  split
  · simp only [qFault_out, h]
  split
  · refine ite_out (by simp only [qFault_out, h]) (ite_out (by simp only [qFail_out, h]) (ite_out (by simp only [qFail_out, count_kept, h]) ?_))
    exact qpostRemote_mwf _ _ _ _ _ _ _ _ h
  split
  · simp only [qFault_out, h]
  split
  · simp only [qFault_out, h]
  split
  · exact h
  have h1 := qTouch_mwf d (qa % 2 ^ 20) h
  split
  · simp only [qFail_out, h1]
  · refine bufTake_mwf (fun d h => ?_) h1
    simp only [CoreOut.dev, updCore_bytes, startPost_kept, h]

theorem spillPages_mwf (d : Dev) (l : Nat) (va : Word) (h : mwf unlistedByte d.mem.bytes = true) :
    mwf unlistedByte (d.spillPages l va).1.mem.bytes = true := by
  unfold Dev.spillPages
  repeat' split
  all_goals simp only [xlPages_mwf, h]

theorem qreadAt_mwf (d : Dev) (l : Nat) (gd : BitVec 5) (qa slot : Nat) (spill : List Nat) (blocking : Bool)
    (h : mwf unlistedByte d.mem.bytes = true) :
    mwf unlistedByte (d.qreadAt l gd qa slot spill blocking).dev.mem.bytes = true := by
  unfold Dev.qreadAt
  dsimp only
  split
  · simp only [qFail_out, h]
  split
  · simp only [qFault_out, h]
  split
  · simp only [qFault_out, h]
  split
  · simp only [qFault_out, h]
  split
  · simp only [qFault_out, h]
  split
  · exact h
  have h1 := qTouch_mwf d (qa % 2 ^ 20) h
  split
  · simp only [qFail_out, h1]
  split
  · simp only [qFail_out, h1]
  split
  · simp only [qFail_out, h1]
  split
  · split
    · simp only [block_out, h1]
    · simp only [qFail_out, h1]
  · next it _ =>
    have h2 := deliver_mwf (d.qTouch (qa % 2 ^ 20)) l (qa % 2 ^ 20) 0 slot spill it h1
    split
    all_goals
      rename_i he
      rw [he] at h2
      dsimp only [Delivery.dev] at h2
    · exact h2
    · simp only [qEnd_out, h2]
    · simp only [qEnd_out, serveGrants_kept, h2]

theorem withAds_mwf {d : Dev} {l : Nat} {xs : List Xlat} {f : Dev → CoreOut}
    (hf : ∀ d, mwf unlistedByte d.mem.bytes = true → mwf unlistedByte (f d).dev.mem.bytes = true) (h : mwf unlistedByte d.mem.bytes = true) :
    mwf unlistedByte (d.withAds l xs f).dev.mem.bytes = true := by
  unfold Dev.withAds
  split
  · exact hf _ h
  · split
    · exact hf _ (foldl_mwf _ (fun d x h => applyAd_mwf _ _ _ h) _ _ h)
    · exact hf _ h

theorem qread_mwf (d : Dev) (l : Nat) (gd ga gb : BitVec 5) (slot : Nat) (blocking : Bool) (h : mwf unlistedByte d.mem.bytes = true) :
    mwf unlistedByte (d.qread l gd ga gb slot blocking).dev.mem.bytes = true := by
  unfold Dev.qread
  grind [CoreOut.dev, drained_mwf, stop_out, withAds_mwf, qFault_out, spillPages_mwf, qreadAt_mwf]

theorem qwaitAt_mwf (d : Dev) (l : Nat) (gd : BitVec 5) (gi : Nat) (mask : Word) (slot : Nat) (spill : List Nat)
    (h : mwf unlistedByte d.mem.bytes = true) :
    mwf unlistedByte (d.qwaitAt l gd gi mask slot spill).dev.mem.bytes = true := by
  unfold Dev.qwaitAt
  extract_lets sk d1 g ms d2
  have h1 : mwf unlistedByte d1.mem.bytes = true := by
    dsimp only [d1]
    split
    · simp only [groupTouch_kept, h]
    · exact h
  have h2 : mwf unlistedByte d2.mem.bytes = true := foldl_mwf _ (fun d x h => qTouch_mwf _ _ h) _ _ h1
  split
  · simp only [qFail_out, h]
  split
  · simp only [qwaitFault_out, h1]
  split
  · simp only [qFail_out, h2]
  split
  · simp only [qEnd_out, countStatus_kept, h2]
  split
  · simp only [qFail_out, h2]
  split
  · simp only [block_out, h2]
  · next i n it _ =>
    have h3 := deliver_mwf d2 l n i slot spill it h2
    split
    all_goals
      rename_i he
      rw [he] at h3
      dsimp only [Delivery.dev] at h3
    · exact h3
    · simp only [qEnd_out, h3]
    · simp only [qEnd_out, serveGrants_kept, h3]

theorem dropRights_mwf (d : Dev) (n : Nat) (h : mwf unlistedByte d.mem.bytes = true) : mwf unlistedByte (d.dropRights n).mem.bytes = true := by
  unfold Dev.dropRights
  refine foldl_mwf _ (fun d w h => ?_) _ _ h
  split
  · split
    · exact h
    · simp only [chError_kept, h]
  · split
    · split
      · exact h
      · exact finish_mwf _ _ _ (by simp only [CoreOut.dev, queueFault_kept, unwait_bytes, h])
    · exact h

theorem retirePipe_mwf (d : Dev) (pipe left : Nat) (h : mwf unlistedByte d.mem.bytes = true) :
    mwf unlistedByte (d.retirePipe pipe left).mem.bytes = true := by
  unfold Dev.retirePipe
  dsimp only
  rw [foldl_bytes _ fun d k => by
    split
    · exact (setRegF_kept ..).1
    · rfl]
  simp only [setRegF_kept]
  refine foldl_mwf _ (fun d q h => endFlushers_mwf _ _ _ (by simp only [updQ_kept, h])) _ _ ?_
  exact foldl_mwf _ (fun d p h => failPoster_mwf _ _ _ _ (by simp only [updQ_kept, h])) _ _ h


/-! ### Hank -/

theorem refusalRecord_mwf (d : Dev) (sk : Nat) (m : HankMsg) (tag seq : Nat) (st : Status) (h : mwf unlistedByte d.mem.bytes = true) :
    mwf unlistedByte (d.refusalRecord sk m tag seq st).mem.bytes = true := by
  unfold Dev.refusalRecord
  dsimp only
  split
  all_goals simp only [count_kept, qTouch_mwf, startPost_kept, h]

theorem reportFrames_mwf (d : Dev) (sk : Nat) (fs : List TxFrame) (h : mwf unlistedByte d.mem.bytes = true) :
    mwf unlistedByte (d.reportFrames sk fs).mem.bytes = true := by
  unfold Dev.reportFrames
  refine foldl_mwf _ (fun d f h => foldl_mwf _ (fun d m h => ?_) _ _ h) _ _ h
  split
  · exact refusalRecord_mwf _ _ _ _ _ _ h
  · exact h

theorem endStream_mwf (d : Dev) (dir sk sys : Nat) (unsync : Bool) (h : mwf unlistedByte d.mem.bytes = true) :
    mwf unlistedByte (d.endStream dir sk sys unsync).mem.bytes = true := by
  unfold Dev.endStream
  dsimp only
  split
  all_goals simp only [updStream_kept, reportFrames_mwf, h]

theorem peerRestart_mwf (d : Dev) (sys : Nat) (unsync : Bool) (h : mwf unlistedByte d.mem.bytes = true) :
    mwf unlistedByte (d.peerRestart sys unsync).mem.bytes = true := by
  unfold Dev.peerRestart
  dsimp only
  rw [foldl_bytes _ fun d e => by simp only [serveGrants_kept, updQ_kept]]
  exact foldl_mwf _ (fun d e h => endStream_mwf _ _ _ _ _ h) _ _ h

theorem hello_mwf (d : Dev) (p sys srcPort : Nat) (mac : BitVec 48) (incarn : BitVec 32) (h : mwf unlistedByte d.mem.bytes = true) :
    mwf unlistedByte (d.hello p sys srcPort mac incarn).mem.bytes = true := by
  unfold Dev.hello
  dsimp only
  repeat' split
  all_goals simp only [setReg_kept, updPeer_kept, peerRestart_mwf, setPeerState_kept, h]

theorem rxCreq_mwf (d : Dev) (sk sys : Nat) (m : HankMsg) (h : mwf unlistedByte d.mem.bytes = true) :
    mwf unlistedByte (d.rxCreq sk sys m).mem.bytes = true := by
  unfold Dev.rxCreq
  dsimp only
  repeat' split
  all_goals simp only [count_kept, hankSay_kept, qTouch_mwf, grantNow_kept, h]

theorem rxItem_mwf (d : Dev) (sk sys : Nat) (m : HankMsg) (h : mwf unlistedByte d.mem.bytes = true) :
    mwf unlistedByte (d.rxItem sk sys m).mem.bytes = true := by
  unfold Dev.rxItem
  dsimp only
  repeat' split
  all_goals simp only [count_kept, setQ_kept, charge_kept, refuse_kept, qTouch_mwf, h]

theorem rxGrant_mwf (d : Dev) (sk : Nat) (m : HankMsg) (h : mwf unlistedByte d.mem.bytes = true) :
    mwf unlistedByte (d.rxGrant sk m).mem.bytes = true := by
  unfold Dev.rxGrant
  dsimp only
  split
  · split
    · simp only [releaseBlock_kept, h]
    · exact h
  · split
    · exact h
    · exact foldl_mwf _ (fun d r h => coreDone_mwf _ _ _ _ (by simp only [countStatus_kept, h])) _ _ h

theorem rxRefuse_mwf (d : Dev) (sk sys : Nat) (m : HankMsg) (h : mwf unlistedByte d.mem.bytes = true) :
    mwf unlistedByte (d.rxRefuse sk sys m).mem.bytes = true := by
  unfold Dev.rxRefuse
  dsimp only
  repeat' split
  all_goals simp only [updStream_kept, refusalRecord_mwf, h]

theorem rxMsg_mwf (d : Dev) (dir sk sys : Nat) (m : HankMsg) (h : mwf unlistedByte d.mem.bytes = true) :
    mwf unlistedByte (d.rxMsg dir sk sys m).mem.bytes = true := by
  unfold Dev.rxMsg
  repeat' split
  all_goals simp only [rxCreq_mwf, rxItem_mwf, rxCrel_kept, rxGrant_mwf, rxRefuse_mwf, rxRevoke_kept, h]

theorem rxAlone_mwf (d : Dev) (dir : Nat) (t : HankType) (sk sys : Nat) (m : HankMsg) (h : mwf unlistedByte d.mem.bytes = true) :
    mwf unlistedByte (d.rxAlone dir t sk sys m).mem.bytes = true := by
  unfold Dev.rxAlone
  repeat' split
  all_goals simp only [rxMsg_mwf, h]

theorem rxStream_mwf (d : Dev) (p : Nat) (f : HankFrame) (ms : List HankMsg) (h : mwf unlistedByte d.mem.bytes = true) :
    mwf unlistedByte (d.rxStream p f ms).mem.bytes = true := by
  have hrun := fun (dir sk sys : Nat) (ms : List HankMsg) => foldl_mwf (fun
      (d : Dev) m => d.rxMsg dir sk sys m) (fun d m h => rxMsg_mwf _ _ _ _ _ h) ms
  unfold Dev.rxStream
  extract_lets b dir resync sys sk k epoch seq d1 d2
  have h1 : mwf unlistedByte d1.mem.bytes = true := by
    dsimp only [d1]
    split
    · simp only [rxAck_kept, h]
    · exact h
  have h2 : mwf unlistedByte d2.mem.bytes = true := by simp only [d2, updStream_kept, h1]
  have h3 : ∀ f, mwf unlistedByte (ms.foldl (fun d m => d.rxMsg dir sk sys m) (d2.updStream k f)).mem.bytes = true := fun f =>
    hrun dir sk sys ms _ (by simp only [updStream_kept, h2])
  repeat' split
  · exact h2
  · exact h3 _
  · exact h2
  · exact h3 _
  · simp only [updStream_kept, count_kept, h2]
  · exact h2
  · exact h3 _
  · exact h2


/-! ### Safe -/

theorem coreSafe_mwf (d : Dev) (l : Nat) (h : mwf unlistedByte d.mem.bytes = true) : mwf unlistedByte (d.coreSafe l).mem.bytes = true := by
  simp only [Dev.coreSafe, updCore_bytes, drain_mwf, h]
theorem enterSafe_mwf (d : Dev) (c : SafeCause) (h : mwf unlistedByte d.mem.bytes = true) : mwf unlistedByte (d.enterSafe c).mem.bytes = true := by
  unfold Dev.enterSafe
  split
  · simp only [setRegF_kept, h]
  · simp only [setDstState_kept, noteSafe_kept, pinsSafe_kept, reelSafe_bytes, imgSafe_bytes, cohSafe_kept, pceSafe_kept, dramSafe_kept,
      hankSafe_kept, bobbinSafe_bytes]
    exact foldl_mwf _ (fun d l h => coreSafe_mwf _ _ h) _ _ h


/-! ### Release -/

theorem coreClear_mwf (d : Dev) (l : Nat) (cfg : SkeinCfg) (h : mwf unlistedByte d.mem.bytes = true) :
    mwf unlistedByte (d.coreClear l cfg).mem.bytes = true := by
  simp only [Dev.coreClear, drain_mwf, traceReset_kept, resetCore_bytes, discardStores_bytes, h]

theorem coreReset_mwf (d : Dev) (l : Nat) (h : mwf unlistedByte d.mem.bytes = true) : mwf unlistedByte (d.coreReset l).mem.bytes = true := by
  unfold Dev.coreReset
  repeat' split
  all_goals simp only [payOwed_bytes, coreClear_mwf, h]

theorem applyLoss_mwf (d : Dev) (l new : Nat) (x : ReelLoss) (h : mwf unlistedByte d.mem.bytes = true) :
    mwf unlistedByte (d.applyLoss l new x).mem.bytes = true := by
  unfold Dev.applyLoss
  dsimp only
  repeat' split
  all_goals simp only [updCore_bytes, takeExc_mwf, traceExcept_bytes, recordLcn_bytes, leaveEngine_bytes, resetCore_bytes, payOwed_bytes, h]

theorem queuesReset_mwf (d : Dev) (c : SkeinCfg) (h : mwf unlistedByte d.mem.bytes = true) : mwf unlistedByte (d.queuesReset c).mem.bytes = true := by
  unfold Dev.queuesReset
  simp only [tablesWritten_kept]
  refine foldl_mwf _ (fun d n h => ?_) _ _ h
  refine endWaiters_mwf _ _ _ _ (endFlushers_mwf _ _ _ ?_)
  simp only [errorDrains_kept, endGrantReqs_kept, revokeAll_kept]
  exact discardPosts_mwf _ _ _ _ h


/-! ### HubPort -/

theorem reachAll_mwf (d : Dev) (a : Nat) (z : List Nat) (h : mwf unlistedByte d.mem.bytes = true) :
    mwf unlistedByte (d.reachAll a z).1.mem.bytes = true := by
  induction z generalizing d with
  | nil => exact h
  | cons n t ih =>
    unfold Dev.reachAll
    have h1 := hubReach_mwf d a n .rdnc h
    split
    all_goals
      rename_i he
      rw [he] at h1
      dsimp only at h1
    · exact ih _ h1
    · split
      · exact ih _ h1
      · exact h1
    · exact h1

theorem hubPerform_mwf (d : Dev) (x : HubAccess)
    (h : mwf unlistedByte d.mem.bytes = true) : mwf unlistedByte (d.hubPerform x).1.mem.bytes = true := by
  unfold Dev.hubPerform
  dsimp only
  split
  · split
    · rw [foldl_bytes _ fun d n => setPoison_bytes ..]
      exact hubWriteAll_mwf _ _ _ _ h
    · exact hubWriteAll_mwf _ _ _ _ h
  · rw [foldl_bytes _ fun d n => (hubRead_kept ..).1]
    exact h

theorem hubDram_mwf (d : Dev) (x : HubAccess) (h : mwf unlistedByte d.mem.bytes = true) : mwf unlistedByte (d.hubDram x).1.mem.bytes = true := by
  unfold Dev.hubDram
  split
  · exact h
  split
  · exact h
  have h1 := reachAll_mwf d x.agent (linesOf x.pa x.len) h
  split
  all_goals
    rename_i he
    rw [he] at h1
    dsimp only at h1
  · exact hubPerform_mwf _ _ h1
  · exact h1
  · exact h1
  · split
    · exact h1
    · exact h1

theorem hubTry_mwf (d : Dev) (x : HubAccess) (h : mwf unlistedByte d.mem.bytes = true) : mwf unlistedByte (d.hubTry x).1.mem.bytes = true := by
  unfold Dev.hubTry
  grind [doorbell_bytes, busAccess_kept, hubDram_mwf]

theorem hubGo_mwf (d : Dev) (x : HubAccess) (h : mwf unlistedByte d.mem.bytes = true) : mwf unlistedByte (d.hubGo x).mem.bytes = true := by
  unfold Dev.hubGo
  grind [setPort_kept, hubTry_mwf, hubAnswer_kept, hubQueue_kept]

theorem hubPump_mwf (d : Dev) (h : mwf unlistedByte d.mem.bytes = true) : mwf unlistedByte d.hubPump.mem.bytes = true := by
  unfold Dev.hubPump
  refine foldl_mwf _ (fun d x h => ?_) _ _ h
  split
  · simp only [hubQueue_kept, h]
  · exact hubGo_mwf _ _ h


/-! ### Power -/

theorem holdFail_mwf (d : Dev) (k : Nat) (h : HeldReq) (hm : mwf unlistedByte d.mem.bytes = true) :
    mwf unlistedByte (d.holdFail k h).mem.bytes = true := by
  unfold Dev.holdFail
  dsimp only
  split
  · simp only [dropVec_kept, doffAt_kept, hm]
  · exact hubPump_mwf _ (by simp only [hubAnswer_kept, doffAt_kept, hm])
  · simp only [updCore_bytes, doffAt_kept, hm]
  · split
    · split
      · exact finish_mwf _ _ _ (by simp only [CoreOut.dev, doffAt_kept, hm])
      · simp only [doffAt_kept, hm]
    · simp only [doffAt_kept, hm]

theorem failHeld_mwf (d : Dev) (k : Nat) (h : mwf unlistedByte d.mem.bytes = true) : mwf unlistedByte (d.failHeld k).mem.bytes = true := by
  unfold Dev.failHeld
  exact foldl_mwf _ (fun d x h => holdFail_mwf _ _ _ h) _ _ (by simp only [setPort_kept, h])

theorem openPort_mwf (d : Dev) (k : Nat) (h : mwf unlistedByte d.mem.bytes = true) : mwf unlistedByte (d.openPort k).mem.bytes = true := by
  unfold Dev.openPort
  dsimp only
  rw [foldl_bytes _ fun d h => by
    split
    · exact deliverVec_bytes ..
    · rfl]
  exact hubPump_mwf _ (by simp only [setPort_kept, h])

theorem tryFence_mwf (d : Dev) (l : Nat) (h : mwf unlistedByte d.mem.bytes = true) : mwf unlistedByte (d.tryFence l).mem.bytes = true := by
  unfold Dev.tryFence
  dsimp only
  repeat' split
  all_goals simp only [setPort_kept, drain_mwf, setDom_kept, h]

theorem startEntry_mwf (d : Dev) (k : Nat) (t : DomState) (by_ : Option Nat) (h : mwf unlistedByte d.mem.bytes = true) :
    mwf unlistedByte (d.startEntry k t by_).mem.bytes = true := by
  unfold Dev.startEntry
  dsimp only
  split
  all_goals simp only [setPort_kept, drain_mwf, setDom_kept, tryFence_mwf, h]

theorem abortEntry_mwf (d : Dev) (k : Nat) (st : Status) (code : Nat) (h : mwf unlistedByte d.mem.bytes = true) :
    mwf unlistedByte (d.abortEntry k st code).mem.bytes = true := by
  unfold Dev.abortEntry
  dsimp only
  repeat' split
  all_goals simp only [count_kept, setDom_kept, pwrResult_kept, pwrLast_kept, openPort_mwf, h]

theorem pwrReq_mwf (d : Dev) (q : PwrFrom) (kind index target : Nat) (h : mwf unlistedByte d.mem.bytes = true) :
    mwf unlistedByte (d.pwrReq q kind index target).1.mem.bytes = true := by
  unfold Dev.pwrReq
  dsimp only
  repeat' split
  all_goals simp only [count_kept, pwrResult_kept, pwrLast_kept, startEntry_mwf, startExit_kept, h]

theorem pwrWrite_mwf (d : Dev) (q : Requester) (kind index target : Nat) (h : mwf unlistedByte d.mem.bytes = true) :
    mwf unlistedByte (d.pwrWrite q kind index target).mem.bytes = true := by
  unfold Dev.pwrWrite
  repeat' split
  all_goals simp only [pwrReq_mwf, h]

theorem pwrReelDone_mwf (d : Dev) (l : Nat) (h : mwf unlistedByte d.mem.bytes = true) : mwf unlistedByte (d.pwrReelDone l).mem.bytes = true := by
  unfold Dev.pwrReelDone
  exact foldl_mwf _ (fun d x h => pwrReq_mwf _ _ _ _ _ h) _ _ h

theorem waitiGate_mwf (d0 : Dev) (l : Fin 384) (h : mwf unlistedByte d0.mem.bytes = true) : mwf unlistedByte (d0.waitiGate l).mem.bytes = true := by
  have h1 := instr_mwf (d := d0) (l := l) (f := fun d => if !(d.core l.val).level.priv then .exc d .priv
      else .done (d.updCore l.val fun c => { c with wait := .waiti }) []) (fun d h => by
    split
    · exact h
    · simp only [CoreOut.dev, updCore_bytes, h]) h
  unfold Dev.waitiGate
  dsimp only
  split
  · split
    · exact h1
    · split
      · simp only [setRegF_kept]
        exact h1
      · exact startEntry_mwf _ _ _ _ (by simp only [setRegF_kept]; exact h1)
  · exact h1

theorem waitiPass_mwf (d0 : Dev) (l : Fin 384) (h : mwf unlistedByte d0.mem.bytes = true) : mwf unlistedByte (d0.waitiPass l).mem.bytes = true := by
  have h1 := instr_mwf (d := d0.updCore l.val fun c => { c with draining := true }) (l := l)
    (f := fun d => if !(d.core l.val).level.priv then .stay d else .done (d.dropSelf l.val) []) (fun d h => by
    split
    · exact h
    · simp only [CoreOut.dev, dropSelf_kept, h]) (by simp only [updCore_bytes, h])
  unfold Dev.waitiPass
  dsimp only
  split
  · exact h
  · exact h1

theorem fillRanks_mwf (d : Dev) (m : Nat) (rs : List Nat) (h : mwf unlistedByte d.mem.bytes = true) :
    mwf unlistedByte (d.fillRanks m rs).mem.bytes = true :=
  fillRanks_wf d m rs h

theorem fillOff_mwf (d : Dev) (m : Nat) (h : mwf unlistedByte d.mem.bytes = true) : mwf unlistedByte (d.fillOff m).mem.bytes = true := fillOff_wf d m h

/-! ### Ways -/

theorem cleanSlice_mwf (d : Dev) (u slice way : Nat) (h : mwf unlistedByte d.mem.bytes = true) :
    mwf unlistedByte (d.cleanSlice u slice way).mem.bytes = true := by
  unfold Dev.cleanSlice
  refine foldl_mwf _ (fun d x h => ?_) _ _ h
  split
  · exact l3Evict_mwf _ _ _ h
  · split
    · exact h
    · simp only [hcEvict_bytes, h]

theorem cleanNext_mwf (d : Dev) (u : Nat) (h : mwf unlistedByte d.mem.bytes = true) : mwf unlistedByte (d.cleanNext u).mem.bytes = true := by
  unfold Dev.cleanNext
  dsimp only
  repeat' split
  all_goals simp only [setRegF_kept, pdProgress_kept, cleanSlice_mwf, h]

theorem cleanTick_mwf (d : Dev) (h : mwf unlistedByte d.mem.bytes = true) : mwf unlistedByte d.cleanTick.mem.bytes = true :=
  foldl_mwf _ (fun d x h => cleanNext_mwf _ _ h) _ _ h
theorem agentDead_mwf (d : Dev) (agent : Nat) (h : mwf unlistedByte d.mem.bytes = true) : mwf unlistedByte (d.agentDead agent).mem.bytes = true := by
  unfold Dev.agentDead
  simp only [recordReclaim_bytes, setRegF_kept]
  refine qDieLines_mwf _ _ ?_
  rw [foldl_bytes _ fun d x => dirCorrect_bytes ..]
  exact txnsOfDead_mwf _ _ (by simp only [setRegF_kept, h])


/-! ### Reel -/

theorem loseLcn_mwf (d : Dev) (l : Nat) (h : mwf unlistedByte d.mem.bytes = true) : mwf unlistedByte (d.loseLcn l).mem.bytes = true := by
  unfold Dev.loseLcn
  simp only [reelAnswer_bytes, recordLcn_bytes, setDom_kept, setPort_kept]
  refine failHeld_mwf _ _ ?_
  simp only [updRel_kept]
  rw [foldl_bytes _ fun d m => (dropVec_kept ..).1]
  simp only [resetCore_bytes, traceReset_kept, discardStores_bytes]
  exact drain_mwf _ _ h

theorem reelEnd_mwf (d : Dev) (l : Nat) (r : Reel) (h : mwf unlistedByte d.mem.bytes = true) : mwf unlistedByte (d.reelEnd l r).mem.bytes = true := by
  unfold Dev.reelEnd
  dsimp only
  split
  all_goals simp only [count_kept, updCore_bytes, traceSync_kept, reelAnswer_bytes, recordLcn_bytes, useBudget_bytes, applyLoss_mwf, pwrReelDone_mwf,
      updRel_kept, showSpares_kept, setReel_kept, notifySpares_bytes, releaseHeld_bytes, h]

theorem spareFails_mwf (d : Dev) (l : Nat) (r : Reel) (h : mwf unlistedByte d.mem.bytes = true) :
    mwf unlistedByte (d.spareFails l r).mem.bytes = true := by
  unfold Dev.spareFails
  dsimp only
  split
  all_goals simp only [takeSpare_kept, showSpares_kept, loseLcn_mwf, setReel_kept, retireIdle_bytes, h]

theorem reelOnDeadDie_mwf (d : Dev) (die l : Nat) (r : Reel) (h : mwf unlistedByte d.mem.bytes = true) :
    mwf unlistedByte (d.reelOnDeadDie die l r).mem.bytes = true := by
  unfold Dev.reelOnDeadDie
  dsimp only
  split
  all_goals simp only [setReel_kept, spareFails_mwf, h]

theorem dieDead_mwf (d : Dev) (die : Nat) (h : mwf unlistedByte d.mem.bytes = true) : mwf unlistedByte (d.dieDead die).mem.bytes = true := by
  unfold Dev.dieDead
  split
  · exact h
  · simp only [showSpares_kept]
    rw [foldl_bytes _ fun d l => by simp only [reelDue_bytes, discardStores_bytes]]
    refine foldl_mwf _ (fun d e h => ?_) _ _ ?_
    · split
      · exact reelOnDeadDie_mwf _ _ _ _ h
      · exact h
    · simp only [record_bytes, dieCachesGone_kept]
      exact agentDead_mwf _ _ (by simp only [setRegF_kept, h])

theorem rowsOut_mwf (d : Dev) (p : Nat) (h : mwf unlistedByte d.mem.bytes = true) : mwf unlistedByte (d.rowsOut p).mem.bytes = true := by
  unfold Dev.rowsOut
  repeat' split
  all_goals simp only [reelDue_bytes, retireIdle_bytes, spareFails_mwf, h]

theorem emptyWay_mwf (d : Dev) (u slice way : Nat) (h : mwf unlistedByte d.mem.bytes = true) :
    mwf unlistedByte (d.emptyWay u slice way).mem.bytes = true := by
  simp only [Dev.emptyWay, cleanSlice_mwf, h]

theorem retireL3Way_mwf (d : Dev) (die sl way : Nat) (h : mwf unlistedByte d.mem.bytes = true) :
    mwf unlistedByte (d.retireL3Way die sl way).mem.bytes = true := by
  unfold Dev.retireL3Way
  dsimp only
  repeat' split
  all_goals simp only [setRegF_kept, record_bytes, useBudget_bytes, tellExhausted_bytes, emptyWay_mwf, h]

theorem retireHcWay_mwf (d : Dev) (sl way : Nat) (h : mwf unlistedByte d.mem.bytes = true) :
    mwf unlistedByte (d.retireHcWay sl way).mem.bytes = true := by
  simp only [Dev.retireHcWay, record_bytes, emptyWay_mwf, h]

theorem distaffRow_mwf (d : Dev) (h : mwf unlistedByte d.mem.bytes = true) : mwf unlistedByte d.distaffRow.mem.bytes = true := by
  unfold Dev.distaffRow
  dsimp only
  split
  all_goals simp only [enterSafe_mwf, updRel_kept, h]


/-! ### Mesh -/

theorem moduleRetire_mwf (d : Dev) (die m : Nat) (h : mwf unlistedByte d.mem.bytes = true) :
    mwf unlistedByte (d.moduleRetire die m).mem.bytes = true := by
  unfold Dev.moduleRetire
  dsimp only
  repeat' split
  all_goals simp only [record_bytes, dieDead_mwf, setLink_kept, h]

theorem laneRepair_mwf (d : Dev) (hub : Bool) (die m lane : Nat) (h : mwf unlistedByte d.mem.bytes = true) :
    mwf unlistedByte (d.laneRepair hub die m lane).mem.bytes = true := by
  unfold Dev.laneRepair
  dsimp only
  split
  all_goals simp only [setRegF_kept, record_bytes, useBudget_bytes, moduleRetire_mwf, h]


/-! ### Dram -/

theorem mcRun_mwf (d : Dev) (m : Nat) (h : mwf unlistedByte d.mem.bytes = true) : mwf unlistedByte (d.mcRun m).mem.bytes = true := by
  simp only [Dev.mcRun, setRegF_kept, setDom_kept, openPort_mwf, h]

/-! ### Pcie -/

theorem busMaster_mwf (d : Dev) (k : Nat) (on : Bool) (h : mwf unlistedByte d.mem.bytes = true) :
    mwf unlistedByte (d.busMaster k on).mem.bytes = true := by
  unfold Dev.busMaster
  dsimp only
  repeat' split
  all_goals simp only [updFn_kept, fnRelease_kept, pumpAll_mwf, h]

theorem powerState_mwf (d : Dev) (b n : Nat) (h : mwf unlistedByte d.mem.bytes = true) : mwf unlistedByte (d.powerState b n).mem.bytes = true := by
  unfold Dev.powerState
  dsimp only
  split
  · exact h
  split
  · simp only [updBun_kept, h]
  split
  · refine pumpAll_mwf _ ?_
    rw [foldl_bytes _ fun d j => (fnRelease_kept ..).1]
    simp only [updBun_kept, h]
  · exact h


/-! ### ImgUnit -/

theorem tryCopy_mwf {d : Dev} {va vb : ImgVerdict} {b : Bool} {next : Dev → Dev}
    (hn : ∀ d, mwf unlistedByte d.mem.bytes = true → mwf unlistedByte (next d).mem.bytes = true) (h : mwf unlistedByte d.mem.bytes = true) :
    mwf unlistedByte (d.tryCopy va vb b next).mem.bytes = true := by
  unfold Dev.tryCopy
  split
  · exact hn d h
  split
  · refine hn _ ?_
    rw [(copyFails_kept ..).1]
    split
    · simp only [auditStraps_kept, h]
    · exact h
  · rw [(launched_kept ..).1]
    exact h

theorem tryCopies_mwf (d : Dev) (va vb : ImgVerdict) (z : List Bool) (h : mwf unlistedByte d.mem.bytes = true) :
    mwf unlistedByte (d.tryCopies va vb z).mem.bytes = true := by
  induction z generalizing d with
  | nil => exact enterSafe_mwf _ _ h
  | cons b t ih =>
    rw [tryCopies_cons]
    exact tryCopy_mwf (fun d h => ih d h) h


/-! ### Boot -/

/-- The step of a warm restart at one controller: the bytes of the ranks that are off get their fill. -/
def Dev.fillIfOff (d : Dev) (m : Nat) : Dev := if (d.ch m).off = [] then d else d.fillOff m

theorem fillIfOff_mwf (d : Dev) (m : Nat) (h : mwf unlistedByte d.mem.bytes = true) : mwf unlistedByte (d.fillIfOff m).mem.bytes = true := by
  unfold Dev.fillIfOff
  split
  · exact h
  · exact fillOff_mwf _ _ h

theorem restartWarm_mwf (d : Dev) (ring : Bool)
    (h : mwf unlistedByte d.mem.bytes = true) : mwf unlistedByte (d.restartWarm ring).mem.bytes = true := by
  have h1 := foldl_mwf Dev.fillIfOff fillIfOff_mwf (List.range 16) d h
  have h2 := uncached_wf (((List.range 16).foldl Dev.fillIfOff d).mem) ((List.range 16).foldl Dev.fillIfOff d).rankLost h1
  exact h2

theorem startFw_mwf (d : Dev) (b : BootInputs) (h : mwf unlistedByte d.mem.bytes = true) : mwf unlistedByte (d.startFw b).mem.bytes = true := by
  unfold Dev.startFw
  dsimp only
  split
  all_goals simp only [setReg_kept, setRegF_kept, updDst_kept, enterSafe_mwf, h]

theorem readSpd_mwf (d : Dev) (b : BootInputs) (h : mwf unlistedByte d.mem.bytes = true) : mwf unlistedByte (d.readSpd b).mem.bytes = true := by
  unfold Dev.readSpd
  dsimp only
  split
  · refine enterSafe_mwf _ _ ?_
    rw [foldl_bytes _ fun d x => (audit_kept ..).1]
    exact h
  · refine foldl_mwf _ (fun d m h => ?_) _ _ h
    split
    · exact h
    · simp only [setRegF_kept, setReg_kept, h]

theorem begin_mwf (d : Dev) (kind : Nat) (pick : Bool) (b : BootInputs) (h : mwf unlistedByte d.mem.bytes = true) :
    mwf unlistedByte (d.begin_ kind pick b).mem.bytes = true := by
  simp only [Dev.begin_, setReg_kept, startFw_mwf, h]

theorem beginSteps_mwf (d : Dev) (b : BootInputs) (h : mwf unlistedByte d.mem.bytes = true) : mwf unlistedByte (d.beginSteps b).mem.bytes = true := by
  unfold Dev.beginSteps
  repeat' split
  all_goals simp only [readSpd_mwf, guestsDiscover_kept, h]

theorem coldStart_mwf (d : Dev) (b : BootInputs) (h : mwf unlistedByte d.mem.bytes = true) : mwf unlistedByte (d.coldStart b).mem.bytes = true := by
  unfold Dev.coldStart
  refine beginSteps_mwf _ _ (begin_mwf _ _ _ _ ?_)
  simp only [setBudgets_kept, setRegF_kept]
  rfl

theorem thawStart_mwf (d : Dev) (b : BootInputs) (h : mwf unlistedByte d.mem.bytes = true) : mwf unlistedByte (d.thawStart b).mem.bytes = true := by
  unfold Dev.thawStart
  refine begin_mwf _ _ _ _ ?_
  rw [foldl_bytes _ fun d m => (setRegF_kept ..).1]
  exact h

theorem release_mwf (d : Dev) (c : SkeinCfg) (h : mwf unlistedByte d.mem.bytes = true) : mwf unlistedByte (d.release c).mem.bytes = true := by
  unfold Dev.release
  split
  · simp only [audit_kept, h]
  · refine foldl_mwf _ (fun d l h => ?_) _ _ ?_
    · simp only [payOwed_bytes]
      have h1 : ∀ e : Dev, mwf unlistedByte e.mem.bytes = true →
          mwf unlistedByte (if (e.port l).st = .opened then e else e.openPort l).mem.bytes = true := fun e he => by
        split
        · exact he
        · exact openPort_mwf _ _ he
      refine h1 _ ?_
      split
      all_goals simp only [setDom_kept, updCore_bytes, h]
    · simp only [setRegF_kept]
      exact hubWriteAll_mwf _ _ _ _ h

theorem landIssued_mwf (d : Dev) (l : Nat) (h : mwf unlistedByte d.mem.bytes = true) : mwf unlistedByte (d.landIssued l).mem.bytes = true := by
  unfold Dev.landIssued
  refine foldl_mwf _ (fun d r h => ?_) _ _ h
  split
  · exact ncWrite_mwf _ _ _ h
  · exact h

theorem packageReset_mwf (d : Dev) (b : BootInputs) (h : mwf unlistedByte d.mem.bytes = true) :
    mwf unlistedByte (d.packageReset b).mem.bytes = true := by
  unfold Dev.packageReset
  refine beginSteps_mwf _ _ ?_
  rw [foldl_bytes _ fun d x => by simp only [oweCheck_kept, recordAs_bytes]]
  refine begin_mwf _ _ _ _ (restartWarm_mwf _ _ ?_)
  refine foldl_mwf _ (fun d l h => landIssued_mwf _ _ h) _ _ (foldl_mwf _ (fun d l h => drain_mwf _ _ h) _ _ ?_)
  simp only [answerAll_bytes, h]

theorem skeinReset_mwf (d : Dev) (c : SkeinCfg) (h : mwf unlistedByte d.mem.bytes = true) : mwf unlistedByte (d.skeinReset c).mem.bytes = true := by
  unfold Dev.skeinReset
  refine release_mwf _ _ ?_
  simp only [updWd_kept, mbxGroupReset_kept]
  rw [foldl_bytes _ fun d b => ite_bytes (rootHotReset_kept ..).1 rfl]
  refine queuesReset_mwf _ _ ?_
  simp only [functionsReset_bytes]
  refine foldl_mwf _ (fun d l h => ?_) _ _ (by simp only [dropDelta_bytes, h])
  split
  · simp only [updCore_bytes]
    exact coreClear_mwf _ _ _ h
  · exact h


/-! ### Iotu -/

theorem ioReach_mwf (d : Dev) (at_ : Nat) (h : mwf unlistedByte d.mem.bytes = true) : mwf unlistedByte (d.ioReach at_).1.mem.bytes = true := by
  unfold Dev.ioReach
  grind [hubReach_mwf]

theorem ioWalkRead_mwf (d : Dev) (b at_ : Nat) (h : mwf unlistedByte d.mem.bytes = true) :
    mwf unlistedByte (d.ioWalkRead b at_).1.mem.bytes = true := by
  unfold Dev.ioWalkRead
  grind [hubRead_kept, ioReach_mwf]

theorem ioStream_mwf (d : Dev) (b rid : Nat) (h : mwf unlistedByte d.mem.bytes = true) : mwf unlistedByte (d.ioStream b rid).1.mem.bytes = true := by
  have h1 := ioWalkRead_mwf d b (d.reg64 (Reg.MMU_IO_STB_LO b) + rid * 8) h
  unfold Dev.ioStream
  split
  · exact h
  split
  · exact h
  split
  all_goals
    rename_i he
    rw [he] at h1
    dsimp only at h1
  · exact h1
  · dsimp only
    repeat' split
    all_goals simp only [updIotu_kept, h1]

theorem ioDescriptor_mwf (d : Dev) (b rid seg : Nat) (x : IoStream) (h : mwf unlistedByte d.mem.bytes = true) :
    mwf unlistedByte (d.ioDescriptor b rid seg x).1.mem.bytes = true := by
  unfold Dev.ioDescriptor
  grind [updIotu_kept, ioWalkRead_mwf]

theorem walkHit_mwf {d : Dev} {b at_ : Nat} {o : Option (Nat × WalkEntry)} {r : Dev × Except IoStop Word} (h : mwf unlistedByte d.mem.bytes = true)
    (he : (match o with | some e => (d, .ok e.2.pte) | none => d.ioWalkRead b at_) = r) : mwf unlistedByte r.1.mem.bytes = true := by
  subst he
  split
  · exact h
  · exact ioWalkRead_mwf _ _ _ h

theorem ioWalk_mwf (d : Dev) (b rid : Nat) (asid : BitVec 16) (g : Bool) (va code z z2 : Nat) (h : mwf unlistedByte d.mem.bytes = true) :
    mwf unlistedByte (d.ioWalk b rid asid g va code z z2).1.mem.bytes = true := by
  induction z generalizing d z2 with
  | zero =>
    unfold Dev.ioWalk
    dsimp only
    split
    all_goals
      rename_i he
      have h1 := walkHit_mwf h he
      dsimp only at h1
    · exact h1
    · repeat' split
      all_goals exact h1
  | succ n ih =>
    unfold Dev.ioWalk
    dsimp only
    split
    all_goals
      rename_i he
      have h1 := walkHit_mwf h he
      dsimp only at h1
    · exact h1
    · split
      · exact h1
      split
      · exact h1
      split
      · exact h1
      refine ih _ _ ?_
      split
      · exact h1
      · simp only [updIotu_kept, h1]

theorem ioFind_mwf (d : Dev) (b rid : Nat) (addr : Word) (write : Bool) (h : mwf unlistedByte d.mem.bytes = true) :
    mwf unlistedByte (d.ioFind b rid addr write).1.mem.bytes = true := by
  unfold Dev.ioFind
  grind [updIotu_kept, ioStream_mwf, ioDescriptor_mwf, ioWalk_mwf]

theorem ioMark_mwf (d : Dev) (e : TlbEntry) (write : Bool) (h : mwf unlistedByte d.mem.bytes = true) :
    mwf unlistedByte (d.ioMark e write).1.mem.bytes = true := by
  unfold Dev.ioMark
  grind [hubWriteAll_mwf, updIotu_kept, ioReach_mwf]

theorem ioOnce_mwf (d : Dev) (b rid : Nat) (addr : Word) (write : Bool) (len : Nat) (h : mwf unlistedByte d.mem.bytes = true) :
    mwf unlistedByte (d.ioOnce b rid addr write len).1.mem.bytes = true := by
  unfold Dev.ioOnce
  grind [ioFind_mwf, ioMark_mwf]

theorem ioTranslate_mwf (d : Dev) (b rid : Nat) (addr : Word) (write : Bool) (len : Nat) (h : mwf unlistedByte d.mem.bytes = true) :
    mwf unlistedByte (d.ioTranslate b rid addr write len).1.mem.bytes = true := by
  unfold Dev.ioTranslate
  grind [ioOnce_mwf]

theorem ioStart_mwf (d : Dev) (x : HubAccess) (addr : Word) (h : mwf unlistedByte d.mem.bytes = true) :
    mwf unlistedByte (d.ioStart x addr).mem.bytes = true := by
  unfold Dev.ioStart
  grind [hubAnswer_kept, hubQueue_kept, hubGo_mwf, ioTranslate_mwf, ioFault_bytes]

theorem ioPump_mwf (d : Dev) (h : mwf unlistedByte d.mem.bytes = true) : mwf unlistedByte d.ioPump.mem.bytes = true := by
  unfold Dev.ioPump
  refine foldl_mwf _ (fun d x h => ?_) _ _ h
  split
  · exact ioStart_mwf _ _ _ h
  · exact hubGo_mwf _ _ h


/-! ### BarRegs -/

theorem chanWrite_mwf (d : Dev) (c off : Nat) (v : Reg32) (h : mwf unlistedByte d.mem.bytes = true) :
    mwf unlistedByte (d.chanWrite c off v).mem.bytes = true := by
  unfold Dev.chanWrite
  dsimp only
  split
  all_goals simp only [setBar_kept, chSqDb_mwf, chRxDb_kept, chCqDb_mwf, chDo_mwf, h]

theorem barPut_mwf (d : Dev) (k off : Nat) (v : Reg32) (h : mwf unlistedByte d.mem.bytes = true) :
    mwf unlistedByte (d.barPut k off v).mem.bytes = true := by
  unfold Dev.barPut
  dsimp only
  repeat' split
  all_goals simp only [setBar_kept, mbxWrite_kept, mgrWrite_bytes, chanWrite_mwf, msixWrite_kept, h]

theorem barWrite_mwf (d : Dev) (k off : Nat) (v : Reg32) (h : mwf unlistedByte d.mem.bytes = true) :
    mwf unlistedByte (d.barWrite k off v).mem.bytes = true := by
  unfold Dev.barWrite
  dsimp only
  repeat' split
  all_goals simp only [barPut_mwf, h]

theorem cfgWrite_mwf (d : Dev) (k off : Nat) (v : Reg32) (h : mwf unlistedByte d.mem.bytes = true) :
    mwf unlistedByte (d.cfgWrite k off v).mem.bytes = true := by
  unfold Dev.cfgWrite
  dsimp only
  repeat' split
  all_goals simp only [updFn_kept, updBun_kept, flrWrite_bytes, vfEnable_kept, vfEnableOff_bytes, msixSweep_kept, busMaster_mwf, powerState_mwf,
      cfgPut_kept, h]


/-! ### Ctl -/

theorem wholeWrite_mwf (d : Dev) (q : Requester) (r : RegDef) (idx : List Nat) (a : Nat) (v : Reg32) (h : mwf unlistedByte d.mem.bytes = true) :
    mwf unlistedByte (d.wholeWrite q r idx a v).mem.bytes = true := by
  have hp : mwf unlistedByte (match pwrFrom q with | some f => (d.pwrPackage f (field v 19 8) (field v 2 0)).1 | none => d).mem.bytes = true := by
    split
    · simp only [pwrPackage_bytes, h]
    · exact h
  unfold Dev.wholeWrite
  dsimp only
  refine ite_mwf (by simp only [doorbell_bytes, h]) ?_
  refine ite_mwf (by simp only [routeWrite_kept, h]) ?_
  refine ite_mwf (by simp only [traceWrite_kept, h]) ?_
  refine ite_mwf (by simp only [hubSnap_kept, h]) ?_
  refine ite_mwf (by simp only [pdWrite_kept, h]) ?_
  refine ite_mwf (by simp only [pdWrite_kept, h]) ?_
  refine ite_mwf (by simp only [gstDo_kept, h]) ?_
  refine ite_mwf (ite_mwf (by simp only [mcDo_kept, h]) h) ?_
  refine ite_mwf (by simp only [pceDo_kept, h]) ?_
  refine ite_mwf (by simp only [hnkDo_kept, h]) ?_
  refine ite_mwf (ite_mwf hp (pwrWrite_mwf _ _ _ _ _ h)) ?_
  refine ite_mwf (by simp only [mbxDoorbell_kept, h]) ?_
  refine ite_mwf (by simp only [ioInvWrite_kept, h]) ?_
  refine ite_mwf h ?_
  refine ite_mwf (by simp only [ioCfgWrite_kept, h]) ?_
  refine ite_mwf (by simp only [ioFaultWrite_kept, h]) ?_
  refine ite_mwf h (ite_mwf h (ite_mwf h ?_))
  simp only [plainWrite_kept, h]

theorem ctlWrite_mwf (d : Dev) (q : Requester) (a : Nat) (v : Reg32) (h : mwf unlistedByte d.mem.bytes = true) :
    mwf unlistedByte (d.ctlWrite q a v).mem.bytes = true := by
  unfold Dev.ctlWrite
  dsimp only
  repeat' split
  all_goals simp only [plainWrite_kept, wholeWrite_mwf, h]

theorem ctlAccess_mwf (d : Dev) (q : Requester) (from_ : Option Nat) (pa size : Nat) (write : Bool) (data : Nat)
    (h : mwf unlistedByte d.mem.bytes = true) :
    mwf unlistedByte (d.ctlAccess q from_ pa size write data).1.mem.bytes = true := by
  unfold Dev.ctlAccess
  dsimp only
  repeat' split
  all_goals simp only [count_kept, ctlRead_kept, ctlWrite_mwf, h]

theorem loadDead_mwf (d : Dev) (q : Requester) (pa : Nat) (h : mwf unlistedByte d.mem.bytes = true) :
    mwf unlistedByte (d.loadDead q pa).mem.bytes = true := by
  unfold Dev.loadDead
  repeat' split
  all_goals simp only [takeExc_mwf, h]

theorem readReg_mwf (d : Dev) (q : Requester) (ra : RegAddr) (h : mwf unlistedByte d.mem.bytes = true) :
    mwf unlistedByte (d.readReg q ra).mem.bytes = true := by
  unfold Dev.readReg
  grind [emit_kept, barRead_kept, ctlAccess_mwf, loadDead_mwf]

theorem writeReg_mwf (d : Dev) (q : Requester) (ra : RegAddr) (v : Reg32) (h : mwf unlistedByte d.mem.bytes = true) :
    mwf unlistedByte (d.writeReg q ra v).mem.bytes = true := by
  unfold Dev.writeReg
  grind [barWrite_mwf, cfgWrite_mwf, ctlWrite_mwf, ctlAccess_mwf, storeDead_bytes]


/-! ### Window -/

theorem dramAccess_mwf (d : Dev) (l pa size : Nat) (write : Bool) (data : Nat) (h : mwf unlistedByte d.mem.bytes = true) :
    mwf unlistedByte (d.dramAccess l pa size write data).1.mem.bytes = true := by
  unfold Dev.dramAccess
  grind [ncWrite_mwf, ncRead_kept, ncReach_mwf]

theorem devAccess_mwf (d : Dev) (l : Fin 384) (r : DevReq) (h : mwf unlistedByte d.mem.bytes = true) :
    mwf unlistedByte (d.devAccess l r).1.mem.bytes = true := by
  unfold Dev.devAccess
  dsimp only
  split
  all_goals simp only [busAccess_kept, ctlAccess_mwf, dramAccess_mwf, h]

theorem devArrive_mwf (d : Dev) (l : Fin 384) (tid : Nat) (write : Bool) (h : mwf unlistedByte d.mem.bytes = true) :
    mwf unlistedByte (d.devArrive l tid write).mem.bytes = true := by
  unfold Dev.devArrive
  dsimp only
  repeat' split
  all_goals simp only [updCore_bytes, setPort_kept, devAccess_mwf, h]

theorem devEnd_mwf (d : Dev) (l : Fin 384) (r : DevReq) (st : Status) (v : Nat) (h : mwf unlistedByte d.mem.bytes = true) :
    mwf unlistedByte (d.devEnd l r st v).mem.bytes = true := by
  unfold Dev.devEnd
  dsimp only
  split
  · simp only [updCore_bytes, h]
  split
  · refine drain_mwf _ _ (ite_mwf ?_ ?_)
    all_goals simp only [storeError_bytes, updCore_bytes, h]
  split
  · split
    · simp only [updCore_bytes, h]
    split
    all_goals
      refine finish_mwf _ _ _ ?_
      simp only [CoreOut.dev, updCore_bytes, h]
  · simp only [updCore_bytes, h]

theorem winTry_mwf (d : Dev) (x : HubAccess) (h : mwf unlistedByte d.mem.bytes = true) : mwf unlistedByte (d.winTry x).1.mem.bytes = true := by
  unfold Dev.winTry
  grind [hubTry_mwf, ctlAccess_mwf]


/-! ### Tka -/

theorem tkaAccess_mwf (d : Dev) (a n : Nat) (write : Option Nat) (h : mwf unlistedByte d.mem.bytes = true) :
    mwf unlistedByte (d.tkaAccess a n write).1.mem.bytes = true := by
  unfold Dev.tkaAccess
  split
  · split
    · exact h
    · simp only [updDst_kept, h]
  split
  · split
    · simp only [takeFree_kept, h]
    · exact h
  split
  · split
    · simp only [tkaWinReg_kept, h]
    · exact h
  split
  · dsimp only
    split
    · exact h
    · have h1 := winTry_mwf (d.winBytes write.isSome (d.tkaWindow a) (leBytes n (write.getD 0)) n).1
        (winAccess write.isSome (d.tkaWindow a) (d.winBytes write.isSome (d.tkaWindow a) (leBytes n (write.getD 0)) n).2) (by simp only [winBytes_kept, h])
      split
      all_goals
        rename_i he
        rw [he] at h1
        exact h1
  · exact h

theorem tkaMem_mwf (d : Dev) (t : Tka) (va : BitVec 32) (n : Nat) (write : Option Nat) (put : Nat → Tka) (h : mwf unlistedByte d.mem.bytes = true) :
    mwf unlistedByte (d.tkaMem t va n write put).1.mem.bytes = true := by
  unfold Dev.tkaMem
  grind [tkaAccess_mwf]

theorem tkaAtomic_mwf (d : Dev) (t : Tka) (gd ga : BitVec 5) (new : Nat → Option Nat) (h : mwf unlistedByte d.mem.bytes = true) :
    mwf unlistedByte (d.tkaAtomic t gd ga new).1.mem.bytes = true := by
  unfold Dev.tkaAtomic
  extract_lets a dram
  split
  · exact h
  split
  · exact h
  have h1 := tkaAccess_mwf d a 4 none h
  split
  all_goals
    rename_i he
    rw [he] at h1
    dsimp only at h1
  · split
    · exact h1
    next e old _ v _ =>
    have h2 := tkaAccess_mwf e a 4 (some v) h1
    split
    all_goals
      rename_i he
      rw [he] at h2
      exact h2
  · exact h1
  · exact h1

theorem tkaExec_mwf (d : Dev) (t : Tka) (i : Instr) (h : mwf unlistedByte d.mem.bytes = true) :
    mwf unlistedByte (d.tkaExec t i).1.mem.bytes = true := by
  unfold Dev.tkaExec
  dsimp only
  repeat' split
  all_goals simp only [tkaMem_mwf, tkaAtomic_mwf, h]

theorem tkaRun_mwf (d : Dev) (h : mwf unlistedByte d.mem.bytes = true) : mwf unlistedByte d.tkaRun.mem.bytes = true := by
  unfold Dev.tkaRun
  grind [tkaAccess_mwf, tkaExec_mwf, setTka_kept]

theorem tkaTick_mwf (d : Dev) (h : mwf unlistedByte d.mem.bytes = true) : mwf unlistedByte d.tkaTick.mem.bytes = true := by
  unfold Dev.tkaTick
  repeat' split
  all_goals simp only [tkaRun_mwf, h]


/-! ### Tick -/

theorem drainAll_mwf (d : Dev) (h : mwf unlistedByte d.mem.bytes = true) : mwf unlistedByte d.drainAll.mem.bytes = true := by
  unfold Dev.drainAll
  refine foldl_mwf _ (fun d l h => ?_) _ _ h
  split
  · exact tryFence_mwf _ _ (drain_mwf _ _ h)
  · exact h

theorem idleTick_mwf (d : Dev) (h : mwf unlistedByte d.mem.bytes = true) : mwf unlistedByte d.idleTick.mem.bytes = true := by
  unfold Dev.idleTick
  grind [netTick_mwf, cohPump_mwf, offerAll_mwf, pumpAll_mwf, cleanTick_mwf, imgTick_bytes, ioPump_mwf, tkaTick_mwf, drainAll_mwf, eventRead_kept]


end Sys2Proof.Machine
end

section
/-! PROOFS. The canonical form of DRAM through every command, and so through every step. -/
namespace Sys2Proof.Machine

/-- Every state that the outcome leads to has memory in its canonical form, if `s` has. -/
def WfStays (s : State) (o : Host.Outcome State Fault Refusal) : Prop :=
  ∀ t, mwf unlistedByte s.dev.mem.bytes = true → o = .next t → mwf unlistedByte t.dev.mem.bytes = true

theorem wfStays_of_bytes {s : State} {o : Host.Outcome State Fault Refusal} (h : BytesStay s o) : WfStays s o := fun t hs ht => by
  rw [h t ht]
  exact hs

theorem onDev_wf {s : State} {f : Dev → Dev} (h : ∀ d, mwf unlistedByte d.mem.bytes = true → mwf unlistedByte (f d).mem.bytes = true) :
    WfStays s (onDev s f) := fun t hs ht => by
  rw [onDev_next ht]
  exact h _ hs

/-- The device has memory in its canonical form. -/
def Dev.MemWf (d : Dev) : Prop := mwf unlistedByte d.mem.bytes = true

/-- The same with the property by its name, where the kernel must not evaluate what `f` gives. -/
theorem onDev_wf_of {s : State} {f : Dev → Dev} (h : ∀ d, d.MemWf → (f d).MemWf) : WfStays s (onDev s f) := onDev_wf h

/-! ### Instructions by their common forms -/

section
variable {l : Fin 384} {s : State}

theorem runInstr_wf {f : Dev → CoreOut} (h : ∀ d, mwf unlistedByte d.mem.bytes = true → mwf unlistedByte (f d).dev.mem.bytes = true) :
    WfStays s (runInstr l s f) := onDev_wf fun d hd => instr_mwf h hd

theorem runReg_wf {f : Core → Core} : WfStays s (runReg l s f) := runInstr_wf fun d hd => by
  simp only [CoreOut.dev, updCore_bytes, hd]

theorem runRegIf_wf {legal : Bool} {f : Core → Core} : WfStays s (runRegIf l s legal f) := runInstr_wf fun d hd => by
  split
  all_goals simp only [CoreOut.dev, updCore_bytes, hd]

theorem runPly_wf {legal : Core → Bool} {f : Core → Core} : WfStays s (runPly l s legal f) := runInstr_wf fun d hd => by
  dsimp only
  repeat' split
  all_goals simp only [CoreOut.dev, updCore_bytes, hd]

theorem runCrypto_wf {legal : Bool} {f : Core → Core} : WfStays s (runCrypto l s legal f) := runInstr_wf fun d hd => by
  repeat' split
  all_goals simp only [CoreOut.dev, updCore_bytes, hd]

theorem runFp_wf {f : Core → Core} : WfStays s (runFp l s f) := runInstr_wf fun d hd => by
  split
  all_goals simp only [CoreOut.dev, updCore_bytes, hd]

theorem runFpRm_wf {rm : BitVec 3} {f : Nat → Core → Core} : WfStays s (runFpRm l rm s f) := runInstr_wf fun d hd => by
  repeat' split
  all_goals simp only [CoreOut.dev, updCore_bytes, hd]

theorem runFma_wf {rm : BitVec 3} {f : Nat → Bool → Core → Core} : WfStays s (runFma l rm s f) := runInstr_wf fun d hd => by
  dsimp only
  repeat' split
  all_goals simp only [CoreOut.dev, updCore_bytes, hd]

theorem runAtomic_wf {k : AtomKind} {dw u : Bool} {ord : BitVec 2} {gd ga gb : BitVec 5} : WfStays s (runAtomic k l dw u ord gd ga gb s) :=
  runInstr_wf fun d hd => atomic_mwf _ _ _ _ _ _ _ hd

theorem illegalWord_wf : WfStays s (illegalWord l s) := runInstr_wf fun _ hd => hd

end

/-! ### The functions that take a function -/

theorem onMsg_mwf {d : Dev} {k : CohKind} {agent line : Nat} {f : Dev → CohMsg → Dev}
    (hf : ∀ d m, mwf unlistedByte d.mem.bytes = true → mwf unlistedByte (f d m).mem.bytes = true) (h : mwf unlistedByte d.mem.bytes = true) :
    mwf unlistedByte (d.onMsg k agent line f).mem.bytes = true := by
  unfold Dev.onMsg
  split
  · split
    · exact hf _ _ (by simp only [arrived_kept, h])
    · exact h
  · exact h

theorem serve_mwf {d : Dev} {who : Caller} {c : Cmd} {may : Option Session → Bool} {arg : List Byte} {act : Dev → Done}
    (ha : ∀ d, mwf unlistedByte d.mem.bytes = true → mwf unlistedByte (act d).dev.mem.bytes = true) (h : mwf unlistedByte d.mem.bytes = true) :
    mwf unlistedByte (d.serve who c may arg act).mem.bytes = true := by
  have h1 := ha (d.sessionUsed who) (by simp only [sessionUsed_kept, h])
  unfold Dev.serve Dev.serveAs
  split
  · exact h
  split
  · extract_lets e
    have he : mwf unlistedByte e.mem.bytes = true := by
      dsimp only [e]
      rw [(noteImg_kept ..).1]
      exact ite_mwf (by simp only [countState_kept, h]) h
    simp only [answerTo_bytes]
    exact ite_mwf he (by simp only [sessionUsed_kept, he])
  · dsimp only
    split
    · simp only [answerTo_bytes, noteImg_kept, sessionUsed_kept, h]
    split
    · simp only [answerTo_bytes]
      exact ite_mwf (by simp only [count_kept, h1]) h1
    · exact h1

theorem lineOp_mwf {d : Dev} {l : Nat} {va : Word} {f : Dev → Nat → Dev}
    (hf : ∀ d n, mwf unlistedByte d.mem.bytes = true → mwf unlistedByte (f d n).mem.bytes = true) (h : mwf unlistedByte d.mem.bytes = true) :
    mwf unlistedByte (d.lineOp l va f).dev.mem.bytes = true := by
  unfold Dev.lineOp
  have h1 := translate_mwf d l va .dcc false h
  split
  all_goals
    rename_i he
    rw [he] at h1
    dsimp only at h1
  · simp only [stop_out, h1]
  next e x =>
  split
  · dsimp only
    have h2 := drain_mwf e l h1
    split
    · exact h2
    have h3 := ncReach_mwf (e.drain l) l (x.pa / 64) h2
    split
    all_goals
      rename_i he
      rw [he] at h3
      dsimp only at h3
    · simp only [stop_out, h3]
    · simp only [stop_out, h3]
    · exact h3
    · exact hf _ _ (applyAd_mwf _ _ _ h3)
  · exact h1

section
variable {d : Dev} {l : Nat} {gd : BitVec 5}

theorem qctlQueue_mwf {qa : Nat} {deadOk : Bool} {k : Dev → Nat → SkeinCfg → CoreOut}
    (hk : ∀ d n o, mwf unlistedByte d.mem.bytes = true → mwf unlistedByte (k d n o).dev.mem.bytes = true) (h : mwf unlistedByte d.mem.bytes = true) :
    mwf unlistedByte (d.qctlQueue l gd qa deadOk k).dev.mem.bytes = true := by
  unfold Dev.qctlQueue
  dsimp only
  split
  · simp only [qFail_out, h]
  split
  · simp only [qFault_out, h]
  split
  · simp only [qFault_out, h]
  split
  · simp only [qFault_out, h]
  next o _ =>
  split
  · simp only [qFault_out, h]
  split
  · exact h
  have h1 : mwf unlistedByte ((d.qTouch (qa % 2 ^ 20)).charge o.skein 1).mem.bytes = true := by
    rw [(charge_kept ..).1]
    exact qTouch_mwf _ _ h
  split
  · simp only [qFail_out, h1]
  split
  · simp only [qFail_out, h1]
  · exact hk _ _ _ h1

theorem qctl_mwf {ga zero : BitVec 5} {deadOk : Bool} {k : Dev → Nat → SkeinCfg → CoreOut}
    (hk : ∀ d n o, mwf unlistedByte d.mem.bytes = true → mwf unlistedByte (k d n o).dev.mem.bytes = true) (h : mwf unlistedByte d.mem.bytes = true) :
    mwf unlistedByte (d.qctl l gd ga zero deadOk k).dev.mem.bytes = true := by
  unfold Dev.qctl
  exact ite_out h (ite_out h (qctlQueue_mwf hk h))

theorem qctlBuf_mwf {va : Word} {n : Nat} {onType : Dev → CoreOut} {k : Dev → List Nat → List Byte → CoreOut}
    (ht : ∀ d, mwf unlistedByte d.mem.bytes = true → mwf unlistedByte (onType d).dev.mem.bytes = true)
    (hk : ∀ d ls bs, mwf unlistedByte d.mem.bytes = true → mwf unlistedByte (k d ls bs).dev.mem.bytes = true)
        (h : mwf unlistedByte d.mem.bytes = true) :
    mwf unlistedByte (d.qctlBuf l va n onType k).dev.mem.bytes = true := by
  unfold Dev.qctlBuf
  split
  · exact h
  split
  · exact h
  have h1 := xlPages_mwf d l .load (pageVas va n) h
  split
  all_goals
    rename_i he
    rw [he] at h1
    dsimp only at h1
  · simp only [stop_out, h1]
  split
  · exact ht _ h1
  dsimp only
  have h2 := drained_mwf _ l h1
  split
  · exact h2
  · exact withAds_mwf (fun d hd => hk _ _ _ hd) h2

end

/-! ### The commands -/

theorem registerWrite_wf (q : Requester) (ra : RegAddr) (v : BitVec 32) (s : State) : WfStays s (execRegisterWrite q ra v s) :=
  onDev_wf fun d hd => writeReg_mwf _ _ _ _ hd
theorem rcRegisterRead_wf (q : Requester) (ra : RegAddr) (s : State) : WfStays s (execRcRegisterRead q ra s) :=
  onDev_wf fun d hd => readReg_mwf _ _ _ hd
theorem pairLoRead_wf (q : Requester) (ra : RegAddr) (s : State) : WfStays s (execPairLoRead q ra s) := onDev_wf fun d hd => readReg_mwf _ _ _ hd
theorem pairLoWrite_wf (q : Requester) (ra : RegAddr) (v : BitVec 32) (s : State) : WfStays s (execPairLoWrite q ra v s) :=
  onDev_wf fun d hd => writeReg_mwf _ _ _ _ hd
theorem pairHiWrite_wf (q : Requester) (ra : RegAddr) (v : BitVec 32) (s : State) : WfStays s (execPairHiWrite q ra v s) :=
  onDev_wf fun d hd => writeReg_mwf _ _ _ _ hd
theorem pwrokRise_wf (boot : BootInputs) (s : State) : WfStays s (execPwrokRise boot s) := onDev_wf fun d hd => by
  repeat' split
  all_goals simp only [coldStart_mwf, thawStart_mwf, hd]

theorem dieLinkTraining_wf (results : List LinkTrain) (s : State) : WfStays s (execDieLinkTraining results s) := onDev_wf fun d hd => by
  split
  · exact hd
  extract_lets d1 d2
  have h1 : mwf unlistedByte d1.mem.bytes = true := foldl_mwf _ (fun d i hd => ite_mwf (by simp only [setLink_kept, hd]) (by simp only [setLink_kept,
      hd])) _ _ hd
  have h2 : mwf unlistedByte d2.mem.bytes = true := foldl_mwf _ (fun d r hd => ite_mwf hd
    (foldl_mwf _ (fun d m hd => moduleRetire_mwf _ _ _ hd) _ _ (foldl_mwf _ (fun d x hd => laneRepair_mwf _ _ _ _ _ hd) _ _ hd))) _ _ h1
  exact h2

theorem wf_boot {d : Dev} (h : d.MemWf) (b : Boot) : ({ d with boot := b } : Dev).MemWf := h

/-- A channel's step of a Thaw: what its ranks lost gets its fill, and it runs. -/
theorem refilled_all (ms : List Nat) (d : Dev) (h : d.MemWf) : (ms.foldl (fun d m => (d.fillOff m).mcRun m) d).MemWf := by
  induction ms generalizing d with
  | nil => exact h
  | cons m ms ih => exact ih _ (mcRun_mwf _ _ (fillOff_mwf _ _ h))

theorem dramTraining_wf (results : List DramTrain) (s : State) : WfStays s (execDramTraining results s) := onDev_wf_of fun d hd => by
  split
  · exact hd
  split
  · exact wf_boot (refilled_all _ _ (foldl_mwf _ (fun d e hd => by simp only [setReg_kept, hd]) _ _ hd)) _
  extract_lets ok bad d1
  split
  · show mwf unlistedByte _ = true
    refine enterSafe_mwf _ _ ?_
    rw [foldl_bytes _ fun d x => (audit_kept ..).1]
    exact hd
  · refine wf_boot (foldl_mwf _ (fun d m hd => ?_) _ _ hd) _
    split
    · exact mcRun_mwf _ _ (by simp only [trained_kept, hd])
    · exact hd

theorem imageApply_wf (va vb : ImgVerdict) (s : State) : WfStays s (execImageApply va vb s) := onDev_wf fun d hd => by
  dsimp only
  split
  all_goals simp only [setImgUnit_kept, launchCheck_kept, tryCopies_mwf, hd]

theorem skeinRelease_wf (sk : Fin 16) (s : State) : WfStays s (execSkeinRelease sk s) := onDev_wf fun d hd => by
  dsimp only
  repeat' split
  all_goals simp only [updWd_kept, release_mwf, started_kept, hd]

theorem packageReset_wf (boot : BootInputs) (s : State) : WfStays s (execPackageReset boot s) := onDev_wf fun d hd => by
  split
  all_goals simp only [packageReset_mwf, hd]

theorem skeinReset_wf (sk : Fin 16) (s : State) : WfStays s (execSkeinReset sk s) := onDev_wf fun d hd => by
  repeat' split
  all_goals simp only [skeinReset_mwf, resetDone_kept, hd]

theorem coreReset_wf (l : Fin 384) (s : State) : WfStays s (execCoreReset l s) := onDev_wf fun d hd => by
  dsimp only
  repeat' split
  all_goals simp only [dropDelta_bytes, coreReset_mwf, setDom_kept, openPort_mwf, resetDone_kept, hd]

theorem itemCommit_wf (id : Nat) (s : State) : WfStays s (execItemCommit id s) := onDev_wf fun d hd => by simp only [commitPost_mwf, pumpAll_mwf, hd]
theorem waitLimitExpire_wf (l : Fin 384) (s : State) : WfStays s (execWaitLimitExpire l s) := onDev_wf fun d hd => by
  repeat' split
  all_goals simp only [timeTo_kept, endWait_mwf, hd]

theorem flushPoint_wf (qn : Fin 1048576) (s : State) : WfStays s (execFlushPoint qn s) :=
  onDev_wf fun d hd => by simp only [flushPoint_mwf, pumpAll_mwf, hd]
theorem flushComplete_wf (qn : Fin 1048576) (s : State) : WfStays s (execFlushComplete qn s) := onDev_wf fun d hd => flushDone_mwf _ _ hd
theorem pipeRetire_wf (pipe : Fin 4) (s : State) : WfStays s (execPipeRetire pipe s) := onDev_wf fun d hd => by
  dsimp only
  repeat' split
  all_goals simp only [pumpAll_mwf, retirePipe_mwf, record_bytes, useBudget_bytes, enterSafe_mwf, hd]

theorem chEnable_wf (bd : Fin 8) (fn : Fin 1025) (ch : Fin 8) (s : State) : WfStays s (execChEnable bd fn ch s) :=
  onDev_wf fun d hd => chDo_mwf _ _ _ hd
theorem chStop_wf (bd : Fin 8) (fn : Fin 1025) (ch : Fin 8) (s : State) : WfStays s (execChStop bd fn ch s) := onDev_wf fun d hd => chDo_mwf _ _ _ hd
theorem chResume_wf (bd : Fin 8) (fn : Fin 1025) (ch : Fin 8) (s : State) : WfStays s (execChResume bd fn ch s) :=
  onDev_wf fun d hd => chDo_mwf _ _ _ hd
theorem chDisable_wf (bd : Fin 8) (fn : Fin 1025) (ch : Fin 8) (s : State) : WfStays s (execChDisable bd fn ch s) :=
  onDev_wf fun d hd => chDo_mwf _ _ _ hd
theorem bqChSqDb_wf (bd : Fin 8) (fn : Fin 1025) (ch : Fin 8) (v : BitVec 32) (s : State) : WfStays s (execBqChSqDb bd fn ch v s) :=
  onDev_wf fun d hd => chSqDb_mwf _ _ _ hd
theorem bqChCqDb_wf (bd : Fin 8) (fn : Fin 1025) (ch : Fin 8) (v : BitVec 32) (s : State) : WfStays s (execBqChCqDb bd fn ch v s) :=
  onDev_wf fun d hd => chCqDb_mwf _ _ _ hd
theorem descriptorFetchDone_wf (bd : Fin 8) (fn : Fin 1025) (ch : Fin 8) (index : Nat) (done : Completion) (s : State) :
    WfStays s (execDescriptorFetchDone bd fn ch index done s) :=
  onDev_wf fun d hd => by
    dsimp only
    repeat' split
    all_goals simp only [chError_kept, chPump_mwf, descFetched_mwf, hd]

theorem payloadFetchDone_wf (bd : Fin 8) (fn : Fin 1025) (ch : Fin 8) (index : Nat) (done : Completion) (s : State) :
    WfStays s (execPayloadFetchDone bd fn ch index done s) :=
  onDev_wf fun d hd => by
    dsimp only
    repeat' split
    all_goals simp only [countStatus_kept, chDescDone_kept, updDesc_kept, chPump_mwf, hd]

theorem dmaReadTimeout_wf (bd : Fin 8) (fn : Fin 1025) (ch : Fin 8) (index : Nat) (s : State) : WfStays s (execDmaReadTimeout bd fn ch index s) :=
  onDev_wf fun d hd => by
    dsimp only
    repeat' split
    all_goals simp only [chDescDone_kept, chError_kept, chPump_mwf, hd]

theorem dmaPostRetry_wf (bd : Fin 8) (fn : Fin 1025) (ch : Fin 8) (index : Nat) (s : State) : WfStays s (execDmaPostRetry bd fn ch index s) :=
  onDev_wf fun d hd => by
    dsimp only
    repeat' split
    all_goals simp only [chPost_mwf, chPump_mwf, hd]

theorem dmaFullLimitExpire_wf (bd : Fin 8) (fn : Fin 1025) (ch : Fin 8) (index : Nat) (s : State) :
    WfStays s (execDmaFullLimitExpire bd fn ch index s) :=
  onDev_wf fun d hd => by
    dsimp only
    repeat' split
    all_goals simp only [chDescDone_kept, chPump_mwf, hd]

theorem drainTake_wf (bd : Fin 8) (fn : Fin 1025) (ch : Fin 8) (s : State) : WfStays s (execDrainTake bd fn ch s) := onDev_wf fun d hd => by
  dsimp only
  repeat' split
  all_goals simp only [drainTake_kept, qTouch_mwf, serveGrants_kept, chPump_mwf, hd]

theorem waiti_wf (l : Fin 384) (s : State) : WfStays s (execWaiti l s) := onDev_wf fun d hd => by
  split
  all_goals simp only [waitiGate_mwf, waitiPass_mwf, hd]

theorem interruptTake_wf (l : Fin 384) (s : State) : WfStays s (execInterruptTake l s) := onDev_wf fun d hd => by
  dsimp only
  repeat' split
  all_goals simp only [pmuCount_bytes, enter_mwf, traceExcept_bytes, unwait_bytes, hd]

theorem swdogExpire_wf (sk : Fin 16) (s : State) : WfStays s (execSwdogExpire sk s) := onDev_wf fun d hd => by
  dsimp only
  split
  all_goals simp only [setRegF_kept, updWd_kept, timeTo_kept, audit_kept, enterSafe_mwf, hd]

theorem refclk100Loss_wf (s : State) : WfStays s (execRefclk100Loss s) := onDev_wf fun d hd => by
  split
  all_goals simp only [enterSafe_mwf, hd]

theorem inboundDmaRequest_wf (bd : Fin 8) (req : DmaReq) (s : State) : WfStays s (execInboundDmaRequest bd req s) := onDev_wf fun d hd => by
  dsimp only
  repeat' split
  all_goals simp only [emit_kept, ioStart_mwf, hd]

theorem deviceTimeout_wf (l : Fin 384) (tid : Nat) (s : State) : WfStays s (execDeviceTimeout l tid s) := onDev_wf fun d hd => by
  repeat' split
  all_goals simp only [timeTo_kept, devEnd_mwf, hd]

theorem gets_wf (agent : AgentId) (line : Nat) (s : State) : WfStays s (execGets agent line s) := onDev_wf fun d hd => homeRequest_mwf _ _ _ _ hd
theorem getm_wf (agent : AgentId) (line : Nat) (s : State) : WfStays s (execGetm agent line s) := onDev_wf fun d hd => homeRequest_mwf _ _ _ _ hd
theorem wfull_wf (agent : AgentId) (line : Nat) (data : List (BitVec 8)) (s : State) : WfStays s (execWfull agent line data s) :=
  onDev_wf fun d hd => homeRequest_mwf _ _ _ _ hd
theorem puts_wf (agent : AgentId) (line : Nat) (s : State) : WfStays s (execPuts agent line s) := onDev_wf fun d hd => by
  dsimp only
  split
  all_goals simp only [putSHome_mwf, agentDrop_kept, hd]

theorem putm_wf (agent : AgentId) (line : LineData) (s : State) : WfStays s (execPutm agent line s) := onDev_wf fun d hd => by
  dsimp only
  split
  all_goals simp only [putMHome_mwf, agentDrop_kept, hd]

theorem rdnc_wf (agent : AgentId) (line : Nat) (s : State) : WfStays s (execRdnc agent line s) := onDev_wf fun d hd => homeRequest_mwf _ _ _ _ hd
theorem wrnc_wf (agent : AgentId) (line : Nat) (mask : BitVec 64) (data : List (BitVec 8)) (s : State) :
    WfStays s (execWrnc agent line mask data s) :=
  onDev_wf fun d hd => homeRequest_mwf _ _ _ _ hd
theorem rddev_wf (l : Fin 384) (tid : Nat) (s : State) : WfStays s (execRddev l tid s) := onDev_wf fun d hd => devArrive_mwf _ _ _ _ hd
theorem wrdev_wf (l : Fin 384) (tid : Nat) (s : State) : WfStays s (execWrdev l tid s) := onDev_wf fun d hd => devArrive_mwf _ _ _ _ hd
theorem atom_wf (agent : AgentId) (line : Nat) (op : AtomOp) (s : State) : WfStays s (execAtom agent line op s) :=
  onDev_wf fun d hd => homeRequest_mwf _ _ _ _ hd
theorem dataMsg_wf (agent : AgentId) (line : Nat) (s : State) : WfStays s (execDataMsg agent line s) := onDev_wf fun d hd => by
  refine onMsg_mwf (fun d m hd => ?_) hd
  simp only [takeData_mwf, hd]

theorem grantMsg_wf (agent : AgentId) (line : Nat) (s : State) : WfStays s (execGrantMsg agent line s) := onDev_wf fun d hd => by
  split
  all_goals exact onMsg_mwf (fun d m hd => takeGrant_mwf d m hd) hd

theorem ackMsg_wf (agent : AgentId) (line : Nat) (s : State) : WfStays s (execAckMsg agent line s) := onDev_wf fun d hd => by
  refine onMsg_mwf (fun d m hd => ?_) hd
  simp only [takeAck_mwf, hd]

theorem cmpl_wf (l : Fin 384) (tid : Nat) (outside : Completion) (s : State) : WfStays s (execCmpl l tid outside s) := onDev_wf fun d hd => by
  dsimp only
  repeat' split
  all_goals simp only [devEnd_mwf, hd]

theorem rdata_wf (agent : AgentId) (line : LineData) (s : State) : WfStays s (execRdata agent line s) := onDev_wf fun d hd => by
  refine onMsg_mwf (fun d m hd => ?_) hd
  simp only [takeRdata_mwf, hd]

theorem distaffWindowAccess_wf (write : Bool) (pa : BitVec 52) (data : List (BitVec 8)) (s : State) :
    WfStays s (execDistaffWindowAccess write pa data s) :=
  onDev_wf fun d hd => by
    grind [hubAnswer_kept, hubQueue_kept, winTry_mwf]

theorem dirRebuildDone_wf (line : Nat) (s : State) : WfStays s (execDirRebuildDone line s) := onDev_wf fun d hd => rebuildDone_mwf _ _ hd
theorem wayCleanDone_wf (unit : Fin 17) (s : State) : WfStays s (execWayCleanDone unit s) :=
  onDev_wf fun d hd => foldl_mwf _ (fun d _ hd => cleanNext_mwf _ _ hd) _ _ hd
theorem deadAgentDeclare_wf (agent : AgentId) (s : State) : WfStays s (execDeadAgentDeclare agent s) := onDev_wf fun d hd => by
  repeat' split
  all_goals simp only [agentDead_mwf, dieDead_mwf, hd]

theorem reclaimSweepDone_wf (s : State) : WfStays s (execReclaimSweepDone s) := onDev_wf fun d hd => by
  dsimp only
  split
  · exact hd
  · simp only [setRegF_kept, takeFree_kept]
    refine qDieLines_mwf _ _ ?_
    rw [foldl_bytes _ fun d x => dirCorrect_bytes ..]
    exact hd

theorem fenceAck_wf (dom : Fin 409) (s : State) : WfStays s (execFenceAck dom s) := onDev_wf fun d hd => by
  dsimp only
  repeat' split
  all_goals simp only [setPort_kept, drain_mwf, tryFence_mwf, spindleFlush_kept, hd]

theorem fenceLimitExpire_wf (dom : Fin 409) (s : State) : WfStays s (execFenceLimitExpire dom s) := onDev_wf fun d hd => by
  dsimp only
  split
  all_goals simp only [timeTo_kept, abortEntry_mwf, hd]

theorem fenceHoldExpire_wf (dom : Fin 409) (s : State) : WfStays s (execFenceHoldExpire dom s) := onDev_wf fun d hd => by
  dsimp only
  split
  · exact hd
  split
  · exact holdFail_mwf _ _ _ (by simp only [setPort_kept, timeTo_kept, hd])
  · refine foldl_mwf _ (fun d l hd => ?_) _ _ hd
    split
    all_goals simp only [doffAt_kept, storeError_bytes, updCore_bytes, hd]

theorem domainPowerRemove_wf (dom : Fin 409) (s : State) : WfStays s (execDomainPowerRemove dom s) := onDev_wf fun d hd => by
  dsimp only
  repeat' split
  all_goals simp only [setPort_kept, setDom_kept, failHeld_mwf, channelDown_kept, bundleDown_kept, hd]

theorem keepArraySaveDone_wf (l : Fin 384) (s : State) : WfStays s (execKeepArraySaveDone l s) := onDev_wf fun d hd => by
  dsimp only
  split
  all_goals simp only [updCore_bytes, setPort_kept, setDom_kept, failHeld_mwf, hd]

theorem wakeReady_wf (dom : Fin 409) (lost : ReelLoss) (s : State) : WfStays s (execWakeReady dom lost s) := onDev_wf fun d hd => by
  dsimp only
  repeat' split
  all_goals simp only [setRegF_kept, applyLoss_mwf, setDom_kept, openPort_mwf, bundleUp_kept, hd]

theorem flitCorrected_wf (die : Fin 16) (hub : Bool) (module : Fin 2) (lane : Fin 70) (s : State) :
    WfStays s (execFlitCorrected die hub module lane s) :=
  onDev_wf fun d hd => by
    dsimp only
    repeat' split
    all_goals simp only [setReg_kept, count_kept, moduleRetire_mwf, hd]

theorem laneRepair_wf (die : Fin 16) (hub : Bool) (module : Fin 2) (s : State) :
    WfStays s (execLaneRepair die hub module s) := onDev_wf fun d hd => by
  dsimp only
  split
  all_goals simp only [laneRepair_mwf, hd]

theorem flitUncorrectable_wf (die : Fin 16) (s : State) : WfStays s (execFlitUncorrectable die s) := onDev_wf fun d hd => dieDead_mwf _ _ hd
theorem guestLinkFail_wf (port : Fin 2) (s : State) : WfStays s (execGuestLinkFail port s) := onDev_wf fun d hd => by
  dsimp only
  repeat' split
  all_goals simp only [isolate_kept, agentDead_mwf, gstSet_kept, gstWidth_kept, hd]

theorem lpExitFillDone_wf (mc : Fin 16) (s : State) : WfStays s (execLpExitFillDone mc s) := onDev_wf fun d hd => by
  dsimp only
  split
  all_goals simp only [setRegF_kept, setDom_kept, openPort_mwf, fillOff_mwf, hd]

theorem busMasterEnableClear_wf (bd : Fin 8) (fn : Fin 1025) (s : State) : WfStays s (execBusMasterEnableClear bd fn s) :=
  onDev_wf fun d hd => busMaster_mwf _ _ _ hd
theorem busMasterEnableSet_wf (bd : Fin 8) (fn : Fin 1025) (s : State) : WfStays s (execBusMasterEnableSet bd fn s) :=
  onDev_wf fun d hd => busMaster_mwf _ _ _ hd
theorem powerstateD3hot_wf (bd : Fin 8) (s : State) : WfStays s (execPowerstateD3hot bd s) := onDev_wf fun d hd => powerState_mwf _ _ _ hd
theorem powerstateD0_wf (bd : Fin 8) (s : State) : WfStays s (execPowerstateD0 bd s) := onDev_wf fun d hd => powerState_mwf _ _ _ hd
theorem hello_wf (port : Fin 8) (h : HelloFrame) (s : State) : WfStays s (execHello port h s) := onDev_wf fun d hd => hello_mwf _ _ _ _ _ _ hd
theorem hankFrameReceive_wf (port : Fin 8) (f : HankFrame) (s : State) : WfStays s (execHankFrameReceive port f s) := onDev_wf fun d hd => by
  dsimp only
  repeat' split
  all_goals simp only [hello_mwf, hankDrop_kept, rxStream_mwf, hd]

theorem hankItem_wf (sk : Fin 16) (sys : Fin 2048) (m : HankMsg) (s : State) : WfStays s (execHankItem sk sys m s) :=
  onDev_wf fun d hd => rxAlone_mwf _ _ _ _ _ _ hd
theorem hankCreq_wf (sk : Fin 16) (sys : Fin 2048) (m : HankMsg) (s : State) : WfStays s (execHankCreq sk sys m s) :=
  onDev_wf fun d hd => rxAlone_mwf _ _ _ _ _ _ hd
theorem hankCrel_wf (sk : Fin 16) (sys : Fin 2048) (m : HankMsg) (s : State) : WfStays s (execHankCrel sk sys m s) :=
  onDev_wf fun d hd => rxAlone_mwf _ _ _ _ _ _ hd
theorem hankGrant_wf (sk : Fin 16) (sys : Fin 2048) (m : HankMsg) (s : State) : WfStays s (execHankGrant sk sys m s) :=
  onDev_wf fun d hd => rxAlone_mwf _ _ _ _ _ _ hd
theorem hankRefuse_wf (sk : Fin 16) (sys : Fin 2048) (m : HankMsg) (s : State) : WfStays s (execHankRefuse sk sys m s) :=
  onDev_wf fun d hd => rxAlone_mwf _ _ _ _ _ _ hd
theorem hankRevoke_wf (sk : Fin 16) (sys : Fin 2048) (m : HankMsg) (s : State) : WfStays s (execHankRevoke sk sys m s) :=
  onDev_wf fun d hd => rxAlone_mwf _ _ _ _ _ _ hd
theorem hankItemAccept_wf (l : Fin 384) (s : State) : WfStays s (execHankItemAccept l s) := onDev_wf fun d hd => by
  grind [coreDone_mwf, placeRemote_kept]
theorem creditWaitExpire_wf (l : Fin 384) (s : State) : WfStays s (execCreditWaitExpire l s) := onDev_wf fun d hd => by
  dsimp only
  split
  all_goals simp only [timeTo_kept, coreDone_mwf, hd]

theorem streamEnd_wf (sk : Fin 16) (sys : Fin 2048) (dir : Bool) (s : State) : WfStays s (execStreamEnd sk sys dir s) := onDev_wf fun d hd => by
  split
  all_goals simp only [timeTo_kept, endStream_mwf, hd]

theorem arrayEccError_wf (e : ArrayError) (s : State) : WfStays s (execArrayEccError e s) := onDev_wf fun d hd => by
  dsimp only
  repeat' split
  all_goals simp only [retireRow_bytes, rowsOut_mwf, retireL3Way_mwf, retireHcWay_mwf, retireDirWay_bytes, retireCtxWay_bytes, arrayPoison_bytes,
      distaffRow_mwf, hd]

theorem reelStart_wf (l : Fin 384) (s : State) : WfStays s (execReelStart l s) := onDev_wf fun d hd => by
  dsimp only
  repeat' split
  all_goals simp only [reelAnswer_bytes, takeSpare_kept, showSpares_kept, loseLcn_mwf, undue_kept, setReel_kept, hd]

theorem reelDrainDone_wf (l : Fin 384) (s : State) : WfStays s (execReelDrainDone l s) := onDev_wf fun d hd => by
  dsimp only
  repeat' split
  all_goals simp only [drain_mwf, spindleFlush_kept, setReel_kept, hd]

theorem reelResume_wf (l : Fin 384) (s : State) : WfStays s (execReelResume l s) := onDev_wf fun d hd => by
  repeat' split
  all_goals simp only [reelEnd_mwf, hd]

theorem safeEntry_wf (cause : SafeCause) (s : State) : WfStays s (execSafeEntry cause s) := onDev_wf fun d hd => enterSafe_mwf _ _ hd
theorem imageHashCheck_wf (good : Bool) (s : State) : WfStays s (execImageHashCheck good s) := onDev_wf fun d hd => by
  split
  all_goals simp only [enterSafe_mwf, hd]

theorem lockstepMismatch_wf (s : State) : WfStays s (execLockstepMismatch s) := onDev_wf fun d hd => by
  dsimp only
  split
  all_goals simp only [setRegF_kept, useBudget_bytes, enterSafe_mwf, updRel_kept, takeover_bytes, hd]

theorem rlSafe_wf (caller : Caller) (s : State) : WfStays s (execRlSafe caller s) := onDev_wf fun d hd => serve_mwf (fun d hd => by
  split
  · simp only [ends_kept, hd]
  split
  · simp only [rlState_kept, hd]
  · simp only [ends_kept, enterSafe_mwf, hd]) hd

theorem pwrReqSpindle_wf (q : Requester) (index : Nat) (target : BitVec 3) (s : State) : WfStays s (execPwrReqSpindle q index target s) :=
  onDev_wf fun d hd => pwrWrite_mwf _ _ _ _ _ hd
theorem pwrReqChannel_wf (q : Requester) (index : Nat) (target : BitVec 3) (s : State) : WfStays s (execPwrReqChannel q index target s) :=
  onDev_wf fun d hd => pwrWrite_mwf _ _ _ _ _ hd
theorem pwrReqBundle_wf (q : Requester) (index : Nat) (target : BitVec 3) (s : State) : WfStays s (execPwrReqBundle q index target s) :=
  onDev_wf fun d hd => pwrWrite_mwf _ _ _ _ _ hd
theorem powerEntryTimeout_wf (l : Fin 384) (s : State) : WfStays s (execPowerEntryTimeout l s) := onDev_wf fun d hd => by
  dsimp only
  repeat' split
  all_goals simp only [drain_mwf, timeTo_kept, abortEntry_mwf, hd]

theorem thermalSample_wf (site : Fin 18) (temp under : Int) (s : State) : WfStays s (execThermalSample site temp under s) := onDev_wf fun d hd => by
  dsimp only
  repeat' split
  all_goals simp only [setReg_kept, enterSafe_mwf, dieSample_kept, hcStep_kept, hd]

theorem pwrRequest_wf (caller : Caller) (kind index : Nat) (target : BitVec 3) (s : State) : WfStays s (execPwrRequest caller kind index target s) :=
  onDev_wf fun d hd => by
    extract_lets t arg d1
    have h1 : mwf unlistedByte d1.mem.bytes = true := serve_mwf (fun d hd => by
      split
      · simp only [ends_kept, hd]
      split
      · dsimp only
        split
        all_goals simp only [pwrPackage_bytes, hd]
      · exact pwrReq_mwf _ _ _ _ _ hd) hd
    refine ite_mwf ?_ h1
    simp only [packageOff_bytes, h1]

theorem dbgMem_wf (caller : Caller) (write : Bool) (pa : BitVec 52) (data : List (BitVec 8)) (length : Nat) (s : State) :
    WfStays s (execDbgMem caller write pa data length s) :=
  onDev_wf fun d hd => serve_mwf (fun d hd => by
    split
    · simp only [ends_kept, hd]
    split
    · simp only [ends_kept, hd]
    dsimp only
    split
    · simp only [ends_kept, hd]
    have h1 := winTry_mwf (d.winBytes write pa.toNat data length).1 (winAccess write pa.toNat (d.winBytes write pa.toNat data length).2)
      (by simp only [winBytes_kept, hd])
    split
    all_goals
      rename_i he
      rw [he] at h1
    · exact h1
    · simp only [ends_kept, h1]) hd

theorem hubUnitError_wf (_unit : HubUnit) (s : State) : WfStays s (execHubUnitError _unit s) := onDev_wf fun d hd => enterSafe_mwf _ _ hd
theorem peerDownHoldExpire_wf (sys : Fin 2048) (s : State) : WfStays s (execPeerDownHoldExpire sys s) := onDev_wf fun d hd => by
  split
  all_goals simp only [timeTo_kept, peerRestart_mwf, hd]

theorem sleepEntryDone_wf (l : Fin 384) (s : State) : WfStays s (execSleepEntryDone l s) := onDev_wf fun d hd => by
  dsimp only
  repeat' split
  all_goals simp only [drain_mwf, setDom_kept, startExit_kept, l1dFlush_kept, hd]

theorem qpost_wf (l : Fin 384) (gd ga gb : BitVec 5) (s : State) : WfStays s (execQpost l gd ga gb s) := runInstr_wf fun d hd => by
  grind [CoreOut.dev, drained_mwf, stop_out, xlPages_mwf, withAds_mwf, qFault_out, qpost_mwf]
theorem qpostl_wf (l : Fin 384) (gd ga : BitVec 5) (slot : BitVec 3) (s : State) : WfStays s (execQpostl l gd ga slot s) := runInstr_wf fun d hd => by
  grind [CoreOut.dev, drained_mwf, qpost_mwf]
theorem qread_wf (l : Fin 384) (gd ga gb : BitVec 5) (slot : BitVec 3) (s : State) : WfStays s (execQread l gd ga gb slot s) :=
  runInstr_wf fun d hd => qread_mwf _ _ _ _ _ _ _ hd
theorem qtry_wf (l : Fin 384) (gd ga gb : BitVec 5) (slot : BitVec 3) (s : State) : WfStays s (execQtry l gd ga gb slot s) :=
  runInstr_wf fun d hd => qread_mwf _ _ _ _ _ _ _ hd
theorem qwait_wf (l : Fin 384) (gd ga gb : BitVec 5) (slot : BitVec 3) (s : State) : WfStays s (execQwait l gd ga gb slot s) :=
  runInstr_wf fun d hd => by
    grind [CoreOut.dev, drained_mwf, stop_out, withAds_mwf, spillPages_mwf, qwaitFault_out, qwaitAt_mwf]

theorem qctlQuery_wf (l : Fin 384) (gd ga gb : BitVec 5) (s : State) : WfStays s (execQctlQuery l gd ga gb s) := runInstr_wf fun d hd => by
  grind [CoreOut.dev, qEnd_out, qctl_mwf]
theorem qctlSetup_wf (l : Fin 384) (gd ga gb : BitVec 5) (s : State) : WfStays s (execQctlSetup l gd ga gb s) := runInstr_wf fun d hd => by
  grind [CoreOut.dev, updQ_kept, qEnd_out, qFail_out, bufTake_mwf, qFault_out, qctlBuf_mwf, qctlQueue_mwf, dropRights_mwf, forgetRing_kept]
theorem qctlEnable_wf (l : Fin 384) (gd ga gb : BitVec 5) (s : State) : WfStays s (execQctlEnable l gd ga gb s) := runInstr_wf fun d hd => by
  grind [CoreOut.dev, updQ_kept, qEnd_out, qFail_out, qctl_mwf]
theorem qctlDisable_wf (l : Fin 384) (gd ga gb : BitVec 5) (s : State) : WfStays s (execQctlDisable l gd ga gb s) := runInstr_wf fun d hd => by
  grind [CoreOut.dev, updQ_kept, revokeAll_kept, endWaiters_mwf, errorDrains_kept, endGrantReqs_kept, qEnd_out, qFail_out, qctl_mwf]
theorem qctlFlush_wf (l : Fin 384) (gd ga gb : BitVec 5) (s : State) : WfStays s (execQctlFlush l gd ga gb s) := runInstr_wf fun d hd => by
  grind [CoreOut.dev, updCore_bytes, flushSet_kept, qFail_out, qctl_mwf]
theorem qctlLimits_wf (l : Fin 384) (gd ga gb : BitVec 5) (s : State) : WfStays s (execQctlLimits l gd ga gb s) := runInstr_wf fun d hd => by
  grind [CoreOut.dev, updQ_kept, qEnd_out, qFail_out, qctl_mwf]
theorem qctlRights_wf (l : Fin 384) (gd ga gb : BitVec 5) (s : State) : WfStays s (execQctlRights l gd ga gb s) := runInstr_wf fun d hd => by
  grind [CoreOut.dev, updQ_kept, qEnd_out, qFail_out, bufTake_mwf, qFault_out, qctlBuf_mwf, qctlQueue_mwf, dropRights_mwf]
theorem qctlRevive_wf (l : Fin 384) (gd ga gb : BitVec 5) (s : State) : WfStays s (execQctlRevive l gd ga gb s) :=
  runInstr_wf fun d hd => qctl_mwf (fun d n o hd => by
    dsimp only
    split
    · simp only [qFail_out, hd]
    split
    · simp only [qFail_out, hd]
    · simp only [qEnd_out, setQ_kept]
      rw [foldl_bytes _ fun d x => by simp only [bookTouch_kept, setPoison_bytes]]
      simp only [forgetRing_kept, hd]) hd

theorem qctlGset_wf (l : Fin 384) (gd ga gb : BitVec 5) (s : State) : WfStays s (execQctlGset l gd ga gb s) := runInstr_wf fun d hd => by
  grind [CoreOut.dev, charge_kept, qEnd_out, qFail_out, bufTake_mwf, qwaitFault_out, groupTouch_kept, qctlBuf_mwf]
theorem pld_wf (l : Fin 384) (vd ga : BitVec 5) (imm7 : BitVec 7) (m : BitVec 3) (g t : BitVec 2) (s : State) :
    WfStays s (execPld l vd ga imm7 m g t s) :=
  runInstr_wf fun d hd => by
    grind [CoreOut.dev, updCore_bytes, drain_mwf, beforeLoad_mwf, stop_out, plyCheck_mwf, applyAds_mwf, plyStop_mwf, plyLines_mwf]

theorem pst_wf (l : Fin 384) (vs ga : BitVec 5) (imm7 : BitVec 7) (m : BitVec 3) (g t : BitVec 2) (s : State) :
    WfStays s (execPst l vs ga imm7 m g t s) :=
  runInstr_wf fun d hd => by
    grind [CoreOut.dev, drain_mwf, pushStore_mwf, stop_out, plyCheck_mwf, applyAds_mwf]

theorem pflush_wf (l : Fin 384) (s : State) : WfStays s (execPflush l s) := runInstr_wf fun d hd => by
  split
  all_goals simp only [CoreOut.dev, updCore_bytes, hd]

theorem pbar_wf (l : Fin 384) (ga gb : BitVec 5) (s : State) : WfStays s (execPbar l ga gb s) := runInstr_wf fun d hd => by
  dsimp only
  repeat' split
  all_goals simp only [CoreOut.dev, updCore_bytes, hd]

theorem isync_wf (l : Fin 384) (s : State) : WfStays s (execIsync l s) := runInstr_wf fun d hd => by
  dsimp only
  split
  all_goals simp only [CoreOut.dev, drained_mwf, refetch_bytes, hd]

theorem scalarLoad_wf (l : Fin 384) (sz : BitVec 2) (u : Bool) (gd ga : BitVec 5) (off : BitVec 13) (s : State) :
    WfStays s (execScalarLoad l sz u gd ga off s) :=
  runInstr_wf fun d hd => by
    grind [CoreOut.dev, load_mwf]

theorem scalarStore_wf (l : Fin 384) (sz : BitVec 2) (gs ga : BitVec 5) (off : BitVec 13) (s : State) :
    WfStays s (execScalarStore l sz gs ga off s) :=
  runInstr_wf fun d hd => store_mwf _ _ _ _ _ _ hd
theorem flwFld_wf (l : Fin 384) (sz : BitVec 2) (fd ga : BitVec 5) (off : BitVec 13) (s : State) : WfStays s (execFlwFld l sz fd ga off s) :=
  runInstr_wf fun d hd => by
    grind [CoreOut.dev, load_mwf]

theorem fswFsd_wf (l : Fin 384) (sz : BitVec 2) (fs ga : BitVec 5) (off : BitVec 13) (s : State) : WfStays s (execFswFsd l sz fs ga off s) :=
  runInstr_wf fun d hd => by
    grind [CoreOut.dev, store_mwf]

theorem indexedLoad_wf (l : Fin 384) (sz : BitVec 2) (u sc : Bool) (gd ga gb : BitVec 5) (s : State) :
    WfStays s (execIndexedLoad l sz u sc gd ga gb s) :=
  runInstr_wf fun d hd => by
    grind [CoreOut.dev, load_mwf]

theorem indexedStore_wf (l : Fin 384) (sz : BitVec 2) (sc : Bool) (gs ga gb : BitVec 5) (s : State) :
    WfStays s (execIndexedStore l sz sc gs ga gb s) :=
  runInstr_wf fun d hd => store_mwf _ _ _ _ _ _ hd
theorem pref_wf (l : Fin 384) (hint ga : BitVec 5) (off : BitVec 13) (s : State) : WfStays s (execPref l hint ga off s) := runInstr_wf fun d hd => by
  grind [CoreOut.dev, coreReach_mwf, translate_mwf, prefLine_mwf]
theorem jump_wf (l : Fin 384) (disp : BitVec 26) (s : State) : WfStays s (execJump l disp s) :=
  runInstr_wf fun d hd => by simp only [CoreOut.dev, updCore_bytes, hd]
theorem jal_wf (l : Fin 384) (disp : BitVec 26) (s : State) : WfStays s (execJal l disp s) :=
  runInstr_wf fun d hd => by simp only [CoreOut.dev, updCore_bytes, hd]
theorem jalr_wf (l : Fin 384) (gd ga : BitVec 5) (imm : BitVec 16) (s : State) : WfStays s (execJalr l gd ga imm s) := runInstr_wf fun d hd => by
  dsimp only
  split
  all_goals simp only [CoreOut.dev, updCore_bytes, hd]

theorem bc_wf (l : Fin 384) (cond : BitVec 3) (ga gb : BitVec 5) (disp : BitVec 13) (s : State) : WfStays s (execBc l cond ga gb disp s) :=
  runInstr_wf fun d hd => by
    grind [CoreOut.dev, condBranch_out]

theorem bz_wf (l : Fin 384) (cond : BitVec 3) (ga : BitVec 5) (disp : BitVec 18) (s : State) : WfStays s (execBz l cond ga disp s) :=
  runInstr_wf fun d hd => by
    grind [CoreOut.dev, condBranch_out]

theorem barLl_wf (l : Fin 384) (s : State) : WfStays s (execBarLl l s) := runInstr_wf fun d hd => by simp only [CoreOut.dev, hd]
theorem barSs_wf (l : Fin 384) (s : State) : WfStays s (execBarSs l s) := runInstr_wf fun d hd => drainMark_mwf _ _ _ hd
theorem barFull_wf (l : Fin 384) (s : State) : WfStays s (execBarFull l s) := runInstr_wf fun d hd => by
  dsimp only
  split
  all_goals simp only [CoreOut.dev, drained_mwf, hd]

theorem barDev_wf (l : Fin 384) (s : State) : WfStays s (execBarDev l s) := runInstr_wf fun d hd => by
  dsimp only
  split
  all_goals simp only [CoreOut.dev, drained_mwf, hd]

theorem mfs_wf (l : Fin 384) (gd : BitVec 5) (sr : BitVec 12) (s : State) : WfStays s (execMfs l gd sr s) := runInstr_wf fun d hd => by
  grind [CoreOut.dev, mfs_out]
theorem mts_wf (l : Fin 384) (sr : BitVec 12) (ga : BitVec 5) (s : State) :
    WfStays s (execMts l sr ga s) := runInstr_wf fun d hd => mts_mwf _ _ _ _ hd
theorem tlbiVa_wf (l : Fin 384) (all : Bool) (ga gb : BitVec 5) (s : State) : WfStays s (execTlbiVa l all ga gb s) :=
  runInstr_wf fun d hd => inval_mwf _ _ _ _ hd
theorem tlbiAsid_wf (l : Fin 384) (all : Bool) (_ga gb : BitVec 5) (s : State) : WfStays s (execTlbiAsid l all _ga gb s) :=
  runInstr_wf fun d hd => inval_mwf _ _ _ _ hd
theorem tlbiAll_wf (l : Fin 384) (all : Bool) (_ga _gb : BitVec 5) (s : State) : WfStays s (execTlbiAll l all _ga _gb s) :=
  runInstr_wf fun d hd => inval_mwf _ _ _ _ hd
theorem slbi_wf (l : Fin 384) (all : Bool) (_ga _gb : BitVec 5) (s : State) : WfStays s (execSlbi l all _ga _gb s) :=
  runInstr_wf fun d hd => inval_mwf _ _ _ _ hd
theorem dcz_wf (l : Fin 384) (ga : BitVec 5) (s : State) : WfStays s (execDcz l ga s) := runInstr_wf fun d hd => by
  grind [CoreOut.dev, drain_mwf, pushStore_mwf, translate_mwf, applyAd_mwf, stop_out]
theorem dcc_wf (l : Fin 384) (ga : BitVec 5) (s : State) : WfStays s (execDcc l ga s) := runInstr_wf fun d hd => by
  refine lineOp_mwf (fun d n hd => ?_) hd
  simp only [CoreOut.dev, cleanLine_kept, lineOp_mwf, hd]

theorem dcci_wf (l : Fin 384) (ga : BitVec 5) (s : State) : WfStays s (execDcci l ga s) := runInstr_wf fun d hd => by
  refine lineOp_mwf (fun d n hd => ?_) hd
  simp only [CoreOut.dev, cleanInvalLine_kept, lineOp_mwf, hd]

theorem sys_wf (l : Fin 384) (code : BitVec 12) (s : State) : WfStays s (execSys l code s) := runInstr_wf fun d hd => by simp only [CoreOut.dev, hd]
theorem brk_wf (l : Fin 384) (code : BitVec 12) (s : State) : WfStays s (execBrk l code s) := runInstr_wf fun d hd => by simp only [CoreOut.dev, hd]
theorem wcall_wf (l : Fin 384) (s : State) : WfStays s (execWcall l s) := runInstr_wf fun d hd => by
  split
  all_goals simp only [CoreOut.dev, takeExc_mwf, traceReturn_bytes, hd]

theorem wret_wf (l : Fin 384) (s : State) : WfStays s (execWret l s) := runInstr_wf fun d hd => by
  split
  all_goals simp only [CoreOut.dev, updCore_bytes, drainMark_mwf, refetch_bytes, traceReturn_bytes, hd]

theorem eret_wf (l : Fin 384) (s : State) : WfStays s (execEret l s) := runInstr_wf fun d hd => by
  split
  all_goals simp only [CoreOut.dev, updCore_bytes, drainMark_mwf, refetch_bytes, traceReturn_bytes, hd]

theorem stlbw_wf (l : Fin 384) (ga gb : BitVec 5) (idx : BitVec 6) (s : State) : WfStays s (execStlbw l ga gb idx s) := runInstr_wf fun d hd => by
  dsimp only
  repeat' split
  all_goals simp only [CoreOut.dev, updCore_bytes, hd]

theorem stlbr_wf (l : Fin 384) (gd : BitVec 5) (idx : BitVec 6) (h : Bool) (s : State) : WfStays s (execStlbr l gd idx h s) :=
  runInstr_wf fun d hd => by
    dsimp only
    split
    all_goals simp only [CoreOut.dev, updCore_bytes, hd]

theorem stlbi_wf (l : Fin 384) (all : Bool) (ga : BitVec 5) (s : State) : WfStays s (execStlbi l all ga s) := runInstr_wf fun d hd => by
  split
  all_goals simp only [CoreOut.dev, updCore_bytes, hd]

theorem inboxClaim_wf (l : Fin 384) (gd : BitVec 5) (s : State) : WfStays s (execInboxClaim l gd s) := runInstr_wf fun d hd => by
  grind [CoreOut.dev, mfs_out]
theorem inboxEoi_wf (l : Fin 384) (ga : BitVec 5) (s : State) : WfStays s (execInboxEoi l ga s) := runInstr_wf fun d hd => mts_mwf _ _ _ _ hd
theorem inboxSend_wf (l : Fin 384) (ga : BitVec 5) (s : State) : WfStays s (execInboxSend l ga s) := runInstr_wf fun d hd => mts_mwf _ _ _ _ hd
theorem swdog_wf (l : Fin 384) (ga : BitVec 5) (s : State) : WfStays s (execSwdog l ga s) := runInstr_wf fun d hd => mts_mwf _ _ _ _ hd
theorem ndogCtlWrite_wf (l : Fin 384) (ga : BitVec 5) (s : State) : WfStays s (execNdogCtlWrite l ga s) := runInstr_wf fun d hd => mts_mwf _ _ _ _ hd
theorem ndogSvc_wf (l : Fin 384) (ga : BitVec 5) (s : State) : WfStays s (execNdogSvc l ga s) := runInstr_wf fun d hd => mts_mwf _ _ _ _ hd
theorem mmuSegtbWrite_wf (l : Fin 384) (ga : BitVec 5) (s : State) :
    WfStays s (execMmuSegtbWrite l ga s) := runInstr_wf fun d hd => mts_mwf _ _ _ _ hd
theorem pwrokFall_wf (s : State) : WfStays s (execPwrokFall s) := onDev_wf fun d hd => by
  split
  · exact hd
  split
  · exact hd
  · rw [(restart_lost d false).1]
    exact reset_mem_wf

theorem pwrReqPackage_wf (q : Requester) (target : BitVec 3) (s : State) : WfStays s (execPwrReqPackage q target s) := onDev_wf fun d hd => by
  split
  all_goals simp only [pwrPackage_bytes, hd]

/-! ### Every command -/

theorem exec_wf_of_ne {c : Instr} (hc : ∀ l w, c ≠ .unassignedMajor l w) (s : State) : WfStays s (exec c s) := by
  cases hq : storesNothing c
  case true => exact wfStays_of_bytes (storesNothing_bytes hq)
  cases c
  case add | sub | and | or | xor | andn | orn | xnor | sll | srl | sra | ror | slt | sltu | min | max | minu | maxu | clz | ctz | popc | rev8 |
      cselz | cselnz | mul | mulh | mulhu | mulhsu | div | divu | rem | remu | addi | addiw | andi | ori | xori | slti | sltiu | lui | shi | auipc
      | crc32c =>
    delta exec
    exact runReg_wf
  case slli | srli | srai | rori | extu | ext | ins =>
    delta exec
    exact runRegIf_wf
  case padds | paddu | psubs | psubu | pmulr | pmin | pmax | pminu | pmaxu | psad | psel | pand | por | pxor | pwacc | pwmac | pmuld | pbcast |
      pmand | pmor | pmxor | pmandn | pgtomL | pgtomH | pmtogL | pmtogH | pscaleUp | pscaleDn | pcmpEq | pcmpNe | pcmpLt | pcmpLe | pcmpLtu |
      pcmpLeu | pa2b | pb2a | pbcd2b | pb2bcd | pluhn | pins | pext =>
    delta exec
    exact runPly_wf
  case aese | aesel | aesd | aesdl | aesimc | sha256r | sha256m | sha512r | sha512m =>
    delta exec
    exact runCrypto_wf
  case fminnum | fmaxnum | fmin | fmax | fabs | fneg | fcopys | fnabs | fceq | fclt | fcle | fcun | fcltq | fcleq | fkind | fbits | gbits =>
    delta exec
    exact runFp_wf
  case fadd | fsub | fmul | fdiv | fsqrt | fcvt | ftoi64 | ftou64 | ftoi32 | ftou32 | i64tof | u64tof | i32tof | u32tof | frint | frintx =>
    delta exec
    exact runFpRm_wf
  case fma | fms | frms | fnma =>
    delta exec
    exact runFma_wf
  case atomicSwap | atomicAdd | atomicAnd | atomicOr | atomicXor | atomicMin | atomicMax | atomicSadd | cas =>
    delta exec
    exact runAtomic_wf
  case registerWrite q ra v => exact registerWrite_wf q ra v s
  case rcRegisterRead q ra => exact rcRegisterRead_wf q ra s
  case pairLoRead q ra => exact pairLoRead_wf q ra s
  case pairLoWrite q ra v => exact pairLoWrite_wf q ra v s
  case pairHiWrite q ra v => exact pairHiWrite_wf q ra v s
  case pwrokRise boot => exact pwrokRise_wf boot s
  case dieLinkTraining results => exact dieLinkTraining_wf results s
  case dramTraining results => exact dramTraining_wf results s
  case imageApply va vb => exact imageApply_wf va vb s
  case skeinRelease sk => exact skeinRelease_wf sk s
  case packageReset boot => exact packageReset_wf boot s
  case skeinReset sk => exact skeinReset_wf sk s
  case coreReset l => exact coreReset_wf l s
  case itemCommit id => exact itemCommit_wf id s
  case waitLimitExpire l => exact waitLimitExpire_wf l s
  case flushPoint qn => exact flushPoint_wf qn s
  case flushComplete qn => exact flushComplete_wf qn s
  case pipeRetire pipe => exact pipeRetire_wf pipe s
  case chEnable bd fn ch => exact chEnable_wf bd fn ch s
  case chStop bd fn ch => exact chStop_wf bd fn ch s
  case chResume bd fn ch => exact chResume_wf bd fn ch s
  case chDisable bd fn ch => exact chDisable_wf bd fn ch s
  case bqChSqDb bd fn ch v => exact bqChSqDb_wf bd fn ch v s
  case bqChCqDb bd fn ch v => exact bqChCqDb_wf bd fn ch v s
  case descriptorFetchDone bd fn ch index done => exact descriptorFetchDone_wf bd fn ch index done s
  case payloadFetchDone bd fn ch index done => exact payloadFetchDone_wf bd fn ch index done s
  case dmaReadTimeout bd fn ch index => exact dmaReadTimeout_wf bd fn ch index s
  case dmaPostRetry bd fn ch index => exact dmaPostRetry_wf bd fn ch index s
  case dmaFullLimitExpire bd fn ch index => exact dmaFullLimitExpire_wf bd fn ch index s
  case drainTake bd fn ch => exact drainTake_wf bd fn ch s
  case waiti l => exact waiti_wf l s
  case interruptTake l => exact interruptTake_wf l s
  case swdogExpire sk => exact swdogExpire_wf sk s
  case refclk100Loss => exact refclk100Loss_wf s
  case inboundDmaRequest bd req => exact inboundDmaRequest_wf bd req s
  case deviceTimeout l tid => exact deviceTimeout_wf l tid s
  case gets agent line => exact gets_wf agent line s
  case getm agent line => exact getm_wf agent line s
  case wfull agent line data => exact wfull_wf agent line data s
  case puts agent line => exact puts_wf agent line s
  case putm agent line => exact putm_wf agent line s
  case rdnc agent line => exact rdnc_wf agent line s
  case wrnc agent line mask data => exact wrnc_wf agent line mask data s
  case rddev l tid => exact rddev_wf l tid s
  case wrdev l tid => exact wrdev_wf l tid s
  case atom agent line op => exact atom_wf agent line op s
  case dataMsg agent line => exact dataMsg_wf agent line s
  case grantMsg agent line => exact grantMsg_wf agent line s
  case ackMsg agent line => exact ackMsg_wf agent line s
  case cmpl l tid outside => exact cmpl_wf l tid outside s
  case rdata agent line => exact rdata_wf agent line s
  case distaffWindowAccess write pa data => exact distaffWindowAccess_wf write pa data s
  case dirRebuildDone line => exact dirRebuildDone_wf line s
  case wayCleanDone unit => exact wayCleanDone_wf unit s
  case deadAgentDeclare agent => exact deadAgentDeclare_wf agent s
  case reclaimSweepDone => exact reclaimSweepDone_wf s
  case fenceAck dom => exact fenceAck_wf dom s
  case fenceLimitExpire dom => exact fenceLimitExpire_wf dom s
  case fenceHoldExpire dom => exact fenceHoldExpire_wf dom s
  case domainPowerRemove dom => exact domainPowerRemove_wf dom s
  case keepArraySaveDone l => exact keepArraySaveDone_wf l s
  case wakeReady dom lost => exact wakeReady_wf dom lost s
  case flitCorrected die hub module lane => exact flitCorrected_wf die hub module lane s
  case laneRepair die hub module => exact laneRepair_wf die hub module s
  case flitUncorrectable die => exact flitUncorrectable_wf die s
  case guestLinkFail port => exact guestLinkFail_wf port s
  case lpExitFillDone mc => exact lpExitFillDone_wf mc s
  case busMasterEnableClear bd fn => exact busMasterEnableClear_wf bd fn s
  case busMasterEnableSet bd fn => exact busMasterEnableSet_wf bd fn s
  case powerstateD3hot bd => exact powerstateD3hot_wf bd s
  case powerstateD0 bd => exact powerstateD0_wf bd s
  case hello port h => exact hello_wf port h s
  case hankFrameReceive port f => exact hankFrameReceive_wf port f s
  case hankItem sk sys m => exact hankItem_wf sk sys m s
  case hankCreq sk sys m => exact hankCreq_wf sk sys m s
  case hankCrel sk sys m => exact hankCrel_wf sk sys m s
  case hankGrant sk sys m => exact hankGrant_wf sk sys m s
  case hankRefuse sk sys m => exact hankRefuse_wf sk sys m s
  case hankRevoke sk sys m => exact hankRevoke_wf sk sys m s
  case hankItemAccept l => exact hankItemAccept_wf l s
  case creditWaitExpire l => exact creditWaitExpire_wf l s
  case streamEnd sk sys dir => exact streamEnd_wf sk sys dir s
  case arrayEccError e => exact arrayEccError_wf e s
  case reelStart l => exact reelStart_wf l s
  case reelDrainDone l => exact reelDrainDone_wf l s
  case reelResume l => exact reelResume_wf l s
  case safeEntry cause => exact safeEntry_wf cause s
  case imageHashCheck good => exact imageHashCheck_wf good s
  case lockstepMismatch => exact lockstepMismatch_wf s
  case rlSafe caller => exact rlSafe_wf caller s
  case pwrReqSpindle q index target => exact pwrReqSpindle_wf q index target s
  case pwrReqChannel q index target => exact pwrReqChannel_wf q index target s
  case pwrReqBundle q index target => exact pwrReqBundle_wf q index target s
  case powerEntryTimeout l => exact powerEntryTimeout_wf l s
  case thermalSample site temp under => exact thermalSample_wf site temp under s
  case pwrRequest caller kind index target => exact pwrRequest_wf caller kind index target s
  case dbgMem caller write pa data length => exact dbgMem_wf caller write pa data length s
  case hubUnitError _unit => exact hubUnitError_wf _unit s
  case peerDownHoldExpire sys => exact peerDownHoldExpire_wf sys s
  case sleepEntryDone l => exact sleepEntryDone_wf l s
  case qpost l gd ga gb => exact qpost_wf l gd ga gb s
  case qpostl l gd ga slot => exact qpostl_wf l gd ga slot s
  case qread l gd ga gb slot => exact qread_wf l gd ga gb slot s
  case qtry l gd ga gb slot => exact qtry_wf l gd ga gb slot s
  case qwait l gd ga gb slot => exact qwait_wf l gd ga gb slot s
  case qctlQuery l gd ga gb => exact qctlQuery_wf l gd ga gb s
  case qctlSetup l gd ga gb => exact qctlSetup_wf l gd ga gb s
  case qctlEnable l gd ga gb => exact qctlEnable_wf l gd ga gb s
  case qctlDisable l gd ga gb => exact qctlDisable_wf l gd ga gb s
  case qctlFlush l gd ga gb => exact qctlFlush_wf l gd ga gb s
  case qctlLimits l gd ga gb => exact qctlLimits_wf l gd ga gb s
  case qctlRights l gd ga gb => exact qctlRights_wf l gd ga gb s
  case qctlRevive l gd ga gb => exact qctlRevive_wf l gd ga gb s
  case qctlGset l gd ga gb => exact qctlGset_wf l gd ga gb s
  case pld l vd ga imm7 m g t => exact pld_wf l vd ga imm7 m g t s
  case pst l vs ga imm7 m g t => exact pst_wf l vs ga imm7 m g t s
  case pflush l => exact pflush_wf l s
  case pbar l ga gb => exact pbar_wf l ga gb s
  case isync l => exact isync_wf l s
  case scalarLoad l sz u gd ga off => exact scalarLoad_wf l sz u gd ga off s
  case scalarStore l sz gs ga off => exact scalarStore_wf l sz gs ga off s
  case flwFld l sz fd ga off => exact flwFld_wf l sz fd ga off s
  case fswFsd l sz fs ga off => exact fswFsd_wf l sz fs ga off s
  case indexedLoad l sz u sc gd ga gb => exact indexedLoad_wf l sz u sc gd ga gb s
  case indexedStore l sz sc gs ga gb => exact indexedStore_wf l sz sc gs ga gb s
  case pref l hint ga off => exact pref_wf l hint ga off s
  case jump l disp => exact jump_wf l disp s
  case jal l disp => exact jal_wf l disp s
  case jalr l gd ga imm => exact jalr_wf l gd ga imm s
  case bc l cond ga gb disp => exact bc_wf l cond ga gb disp s
  case bz l cond ga disp => exact bz_wf l cond ga disp s
  case barLl l => exact barLl_wf l s
  case barSs l => exact barSs_wf l s
  case barFull l => exact barFull_wf l s
  case barDev l => exact barDev_wf l s
  case mfs l gd sr => exact mfs_wf l gd sr s
  case mts l sr ga => exact mts_wf l sr ga s
  case tlbiVa l all ga gb => exact tlbiVa_wf l all ga gb s
  case tlbiAsid l all _ga gb => exact tlbiAsid_wf l all _ga gb s
  case tlbiAll l all _ga _gb => exact tlbiAll_wf l all _ga _gb s
  case slbi l all _ga _gb => exact slbi_wf l all _ga _gb s
  case dcz l ga => exact dcz_wf l ga s
  case dcc l ga => exact dcc_wf l ga s
  case dcci l ga => exact dcci_wf l ga s
  case sys l code => exact sys_wf l code s
  case brk l code => exact brk_wf l code s
  case wcall l => exact wcall_wf l s
  case wret l => exact wret_wf l s
  case eret l => exact eret_wf l s
  case stlbw l ga gb idx => exact stlbw_wf l ga gb idx s
  case stlbr l gd idx h => exact stlbr_wf l gd idx h s
  case stlbi l all ga => exact stlbi_wf l all ga s
  case inboxClaim l gd => exact inboxClaim_wf l gd s
  case inboxEoi l ga => exact inboxEoi_wf l ga s
  case inboxSend l ga => exact inboxSend_wf l ga s
  case swdog l ga => exact swdog_wf l ga s
  case ndogCtlWrite l ga => exact ndogCtlWrite_wf l ga s
  case ndogSvc l ga => exact ndogSvc_wf l ga s
  case mmuSegtbWrite l ga => exact mmuSegtbWrite_wf l ga s
  case pwrokFall => exact pwrokFall_wf s
  case pwrReqPackage q target => exact pwrReqPackage_wf q target s
  case unassignedMajor l w => exact absurd rfl (hc l w)
  all_goals exact nomatch hq

theorem wordMeaning_wf {l : Fin 384} {w : BitVec 32} {i : Instr} (hi : decodeWord l w = some i) (s : State) : WfStays s (wordMeaning l i s) := by
  by_cases h : ∃ l' w', i = .unassignedMajor l' w'
  · obtain ⟨l', w', rfl⟩ := h
    exact illegalWord_wf
  · rw [wordMeaning_eq_exec hi]
    exact exec_wf_of_ne (fun l' w' he => h ⟨l', w', he⟩) s

/-- A word that spells an instruction has its meaning, and any other is an illegal instruction. -/
theorem unassignedMajor_wf (l : Fin 384) (w : BitVec 32) (s : State) : WfStays s (execUnassignedMajor l w s) := by
  unfold execUnassignedMajor
  split
  · next i hi => exact wordMeaning_wf hi s
  · exact illegalWord_wf

theorem exec_wf (c : Instr) (s : State) : WfStays s (exec c s) := by
  by_cases h : ∃ l w, c = .unassignedMajor l w
  · obtain ⟨l, w, rfl⟩ := h
    exact unassignedMajor_wf l w s
  · exact exec_wf_of_ne (fun l w he => h ⟨l, w, he⟩) s

theorem wfStays_with {s : State} {e : Dev} (h : s.dev.MemWf → e.MemWf) : WfStays s (.next { s with dev := e }) := fun t hs ht => by
  cases ht
  exact h hs

theorem idleTick_wf (s : State) : WfStays s (.next { s with dev := s.dev.idleTick }) := wfStays_with fun hs => idleTick_mwf s.dev hs

theorem step_wf (s : State) : WfStays s (step s) := by
  cases hp : s.pending with
  | nil =>
    rw [step_of_pending_nil hp]
    exact idleTick_wf s
  | cons c rest =>
    rw [step_of_pending_cons hp]
    exact exec_wf c { s with pending := rest }

/-- Settles O53: a step is a command's `exec`, or an idle tick, and each keeps the canonical form. -/
theorem memoryStaysCanonical : Obligations.MemoryStaysCanonical := fun s t hs ht => step_wf s t hs ht

end Sys2Proof.Machine
end

section
/-! PROOFS. What starts and ends no work of a home: the accesses that find no home at work leave the bytes of memory, and no home at work. -/
namespace Sys2Proof.Machine

theorem foldl_txn {α : Type} (f : Dev → α → Dev) (h : ∀ d x, (f d x).coh.txn = d.coh.txn) (xs : List α) (d : Dev) :
    (xs.foldl f d).coh.txn = d.coh.txn := by
  induction xs generalizing d with
  | nil => rfl
  | cons x xs ih => rw [List.foldl_cons, ih, h]

/-! ### DRAM and the home cache -/

section
variable (d : Dev)

@[simp] theorem updCore_txn (l : Nat) (f : Core → Core) : (d.updCore l f).coh.txn = d.coh.txn := rfl
@[simp] theorem setCore_txn (l : Nat) (c : Core) : (d.setCore l c).coh.txn = d.coh.txn := rfl
@[simp] theorem putBytes_txn (cells : List Host.Cell) : (d.putBytes cells).coh.txn = d.coh.txn := rfl
@[simp] theorem setPoison_txn (line : Nat) (b : Bool) : (d.setPoison line b).coh.txn = d.coh.txn := rfl
@[simp] theorem count_txn (a : Nat) : (d.count a).coh.txn = d.coh.txn := rfl

@[simp] theorem hubAddLine_txn (line k n : Nat) : (d.hubAddLine line k n).coh.txn = d.coh.txn := by
  unfold Dev.hubAddLine
  split
  all_goals rfl

@[simp] theorem dramWriteback_txn (line : Nat) : (d.dramWriteback line).coh.txn = d.coh.txn := by
  unfold Dev.dramWriteback
  exact hubAddLine_txn ..

@[simp] theorem markStale_txn (line owner : Nat) (p : Option Nat) : (d.markStale line owner p).coh.txn = d.coh.txn := by
  unfold Dev.markStale
  split
  all_goals rfl

@[simp] theorem hcEvict_txn (line : Nat) : (d.hcEvict line).coh.txn = d.coh.txn := by
  unfold Dev.hcEvict
  dsimp only
  split
  · split
    · exact dramWriteback_txn ..
    · rfl
  · rfl

@[simp] theorem hcInstall_txn (line : Nat) (dirty : Bool) : (d.hcInstall line dirty).coh.txn = d.coh.txn := by
  unfold Dev.hcInstall
  dsimp only
  repeat' split
  all_goals simp only [markStale_txn, dramWriteback_txn, hcEvict_txn]

@[simp] theorem homeRead_txn (line : Nat) : (d.homeRead line).1.coh.txn = d.coh.txn := by
  unfold Dev.homeRead
  split
  · exact hcInstall_txn ..
  · dsimp only
    split
    all_goals simp only [hcInstall_txn, hubAddLine_txn]

/-! ### The caches of a die -/

@[simp] theorem l2Drop_txn (p line : Nat) : (d.l2Drop p line).coh.txn = d.coh.txn := rfl
@[simp] theorem l2Downgrade_txn (p line : Nat) : (d.l2Downgrade p line).coh.txn = d.coh.txn := rfl
@[simp] theorem presClear_txn (p line : Nat) : (d.presClear p line).coh.txn = d.coh.txn := rfl
@[simp] theorem l1Fill_txn (p line : Nat) (into : Fill) : (d.l1Fill p line into).coh.txn = d.coh.txn := by cases into <;> rfl

@[simp] theorem l2Place_txn (p line : Nat) : (d.l2Place p line).coh.txn = d.coh.txn := by
  unfold Dev.l2Place
  dsimp only
  repeat' split
  all_goals rfl

@[simp] theorem l2Fill_txn (p line : Nat) (excl : Bool) (into : Fill) : (d.l2Fill p line excl into).coh.txn = d.coh.txn := by
  simp only [Dev.l2Fill, l1Fill_txn, l2Place_txn]

theorem forPres_txn (die : Nat) (pres : BitVec 28) (but : Option Nat) {f : Dev → Nat → Dev} (hf : ∀ d p, (f d p).coh.txn = d.coh.txn) :
    (d.forPres die pres but f).coh.txn = d.coh.txn := by
  refine foldl_txn _ (fun d n => ?_) _ _
  split
  · exact hf ..
  · rfl

@[simp] theorem dieDrop_txn (die line : Nat) : (d.dieDrop die line).coh.txn = d.coh.txn := by
  unfold Dev.dieDrop
  split
  · rfl
  · exact forPres_txn d _ _ _ fun d p => l2Drop_txn d p line

@[simp] theorem dieDowngrade_txn (die line : Nat) : (d.dieDowngrade die line).coh.txn = d.coh.txn := by
  unfold Dev.dieDowngrade
  split
  · rfl
  · exact forPres_txn d _ _ _ fun d p => l2Downgrade_txn d p line

/-! ### The directory -/

@[simp] theorem setDir_txn (line : Nat) (e : DirEntry) : (d.setDir line e).coh.txn = d.coh.txn := by
  unfold Dev.setDir
  dsimp only
  split
  all_goals rfl

@[simp] theorem dirWriteBack_txn (slice sector : Nat) : (d.dirWriteBack slice sector).coh.txn = d.coh.txn := by
  refine foldl_txn _ (fun d e => ?_) _ _
  dsimp only
  split
  all_goals rfl

@[simp] theorem dirTouch_txn (line : Nat) : (d.dirTouch line).coh.txn = d.coh.txn := by
  unfold Dev.dirTouch
  dsimp only
  repeat' split
  all_goals simp only [hubAddLine_txn, dirWriteBack_txn]

@[simp] theorem reclaimPoison_txn (line : Nat) : (d.reclaimPoison line).coh.txn = d.coh.txn := by
  unfold Dev.reclaimPoison
  dsimp only
  split
  all_goals rfl

@[simp] theorem dirCorrect_txn (line : Nat) : (d.dirCorrect line).coh.txn = d.coh.txn := by
  unfold Dev.dirCorrect
  dsimp only
  split
  · rfl
  split
  all_goals simp only [reclaimPoison_txn, setDir_txn]

@[simp] theorem setHubHeld_txn (a line : Nat) (st : DirState) : (d.setHubHeld a line st).coh.txn = d.coh.txn := rfl
@[simp] theorem noteFar_txn (who line : Nat) : (d.noteFar who line).coh.txn = d.coh.txn := rfl

theorem foldl_dieDowngrade_txn (line : Nat) (hs : List Nat) :
    (hs.foldl (fun d h => if h < 16 then d.dieDowngrade h line else d) d).coh.txn = d.coh.txn := by
  refine foldl_txn _ (fun d h => ?_) _ _
  split
  · exact dieDowngrade_txn ..
  · rfl

@[simp] theorem dropOthers_txn (a line : Nat) (e : DirEntry) (discard : Bool) : (d.dropOthers a line e discard).coh.txn = d.coh.txn := by
  refine foldl_txn _ (fun d h => ?_) _ _
  dsimp only
  repeat' split
  all_goals simp only [dieDrop_txn, hcInstall_txn, setHubHeld_txn]

@[simp] theorem dirAcquire_txn (a line : Nat) (excl full : Bool) : (d.dirAcquire a line excl full).1.coh.txn = d.coh.txn := by
  unfold Dev.dirAcquire
  dsimp only
  repeat' split
  all_goals simp only [setDir_txn, homeRead_txn, hcInstall_txn, dropOthers_txn, foldl_dieDowngrade_txn]

@[simp] theorem dirClear_txn (line : Nat) : (d.dirClear line).coh.txn = d.coh.txn := by simp only [Dev.dirClear, setDir_txn, dropOthers_txn]

@[simp] theorem homeWrite_txn (line : Nat) (cells : List Host.Cell) : (d.homeWrite line cells).coh.txn = d.coh.txn := by
  unfold Dev.homeWrite
  dsimp only
  split
  all_goals simp only [hcInstall_txn, setDir_txn, setPoison_txn, putBytes_txn, markStale_txn]

theorem readHome_txn (line : Nat) {read : Dev → Nat → Dev × Bool} (hr : ∀ d n, (read d n).1.coh.txn = d.coh.txn) :
    (d.readHome line read).1.coh.txn = d.coh.txn := by
  unfold Dev.readHome
  dsimp only
  split
  all_goals simp only [hr, setDir_txn, hcInstall_txn, foldl_dieDowngrade_txn, dirTouch_txn]

/-! ### What a core notes of a line -/

@[simp] theorem noteL1i_txn (p line : Nat) : (d.noteL1i p line).coh.txn = d.coh.txn := by
  unfold Dev.noteL1i
  dsimp only
  repeat' split
  all_goals rfl

@[simp] theorem notePending_txn (l p line : Nat) : (d.notePending l p line).coh.txn = d.coh.txn := by
  unfold Dev.notePending
  repeat' split
  all_goals rfl

end

/-! ### Where no home is at work -/

theorem ownerData_nil (d : Dev) (agent line : Nat) : d.ownerData agent line [] = d := if_neg fun h => absurd h.2 (by decide)

/-- `e` has the bytes of `d`, and no home at work. -/
structure Dev.Calm (e d : Dev) : Prop where
  bytes : e.mem.bytes = d.mem.bytes
  idle : e.coh.txn = []

section
variable {d : Dev} (h : d.coh.txn = [])
include h

theorem calm_of (e : Dev) (hb : e.mem.bytes = d.mem.bytes) (ht : e.coh.txn = d.coh.txn) : e.Calm d := ⟨hb, ht.trans h⟩

theorem txnOf_none (line : Nat) : d.txnOf line = none := by
  unfold Dev.txnOf
  rw [h]
  rfl

theorem putMHome_calm (agent line : Nat) : (d.putMHome agent line []).Calm d := by
  unfold Dev.putMHome
  dsimp only
  rw [txnOf_none (by rw [dirTouch_txn, h])]
  dsimp only
  rw [ownerData_nil]
  split
  · exact calm_of h _ (dirTouch_bytes ..) (dirTouch_txn ..)
  · exact calm_of h _ (by simp only [hcInstall_bytes, setDir_kept, dirTouch_bytes]) (by simp only [hcInstall_txn, setDir_txn, dirTouch_txn])

theorem putSHome_calm (agent line : Nat) : (d.putSHome agent line).Calm d := by
  unfold Dev.putSHome
  dsimp only
  rw [txnOf_none (by rw [dirTouch_txn, h])]
  dsimp only
  split
  · exact calm_of h _ (by simp only [setDir_kept, dirTouch_bytes]) (by simp only [setDir_txn, dirTouch_txn])
  · exact calm_of h _ (dirTouch_bytes ..) (dirTouch_txn ..)

end

theorem Dev.Calm.trans {d e f : Dev} (h : e.Calm d) (hf : f.Calm e) : f.Calm d := ⟨hf.bytes.trans h.bytes, hf.idle⟩

/-- What follows and keeps bytes and work. -/
theorem Dev.Calm.keep {d e f : Dev} (h : e.Calm d) (hb : f.mem.bytes = e.mem.bytes) (ht : f.coh.txn = e.coh.txn) : f.Calm d :=
  ⟨hb.trans h.bytes, ht.trans h.idle⟩

section
variable {d : Dev} (h : d.coh.txn = [])
include h

theorem calm_refl : d.Calm d := ⟨rfl, h⟩

theorem l3Evict_calm (die line : Nat) : (d.l3Evict die line).Calm d := by
  unfold Dev.l3Evict
  split
  · exact calm_refl h
  next t _ =>
  dsimp only
  have h1 : (d.dieDrop die line).Calm d := calm_of h _ (dieDrop_bytes ..) (dieDrop_txn ..)
  split
  · exact h1.trans (putMHome_calm h1.idle die line)
  · have h2 := h1.trans (putSHome_calm h1.idle die line)
    split
    · exact h2.keep (hcInstall_bytes ..) (hcInstall_txn ..)
    · exact h2

theorem l3Fill_calm (sk die line : Nat) (t : L3Tag) : (d.l3Fill sk die line t).Calm d := by
  unfold Dev.l3Fill
  dsimp only
  split
  · exact calm_of h _ rfl rfl
  split
  · exact calm_of h _ rfl rfl
  split
  · exact (l3Evict_calm h _ _).keep rfl rfl
  · exact calm_of h _ rfl rfl

theorem l3Serve_calm (l p line : Nat) (excl full : Bool) : (d.l3Serve l p line excl full).1.Calm d := by
  unfold Dev.l3Serve
  extract_lets die me tag t a r d1 t'
  have hr : r.1.Calm d := by
    dsimp only [r]
    split
    · exact calm_refl h
    · exact calm_of h _ (dirAcquire_bytes ..) (dirAcquire_txn ..)
  have h1 : d1.Calm d := by
    dsimp only [d1]
    split
    · exact hr.keep (forPres_bytes _ _ _ _ fun d q => l2Drop_bytes d q line) (forPres_txn _ _ _ _ fun d q => l2Drop_txn d q line)
    split
    · exact hr.keep (forPres_bytes _ _ _ _ fun d q => l2Downgrade_bytes d q line) (forPres_txn _ _ _ _ fun d q => l2Downgrade_txn d q line)
    · exact hr
  exact h1.trans (l3Fill_calm h1.idle ..)

/-- A core's access to a line, which it may make. -/
theorem coreLine_calm (l line : Nat) (excl : Bool) (into : Fill) (full : Bool) : (d.coreLine l line excl into full).1.Calm d := by
  unfold Dev.coreLine
  split
  · exact calm_refl h
  split
  · extract_lets r
    dsimp only [r]
    split
    · exact calm_of h _ (by simp only [homeRead_bytes, dirClear_bytes, dirTouch_bytes]) (by simp only [homeRead_txn, dirClear_txn, dirTouch_txn])
    · exact calm_of h _ (readHome_bytes _ _ fun d n => homeRead_bytes ..) (readHome_txn _ _ fun d n => homeRead_txn ..)
  extract_lets have2 r
  split
  · split
    · exact calm_of h _ (l1Fill_bytes ..) (l1Fill_txn ..)
    · exact calm_of h _ (l2Fill_bytes ..) (l2Fill_txn ..)
  · exact (l3Serve_calm h ..).keep (l2Fill_bytes ..) (l2Fill_txn ..)

end

end Sys2Proof.Machine
end

section
/-! PROOFS. Atomics (07 R236, R237, 11 R358, R359): near and far write the new bytes and no others. -/
namespace Sys2Proof.Machine

/-! ### Values of bytes -/

theorem length_leBytes (n v : Nat) : (leBytes n v).length = n := by
  induction n generalizing v with
  | zero => rfl
  | succ n ih => rw [leBytes, List.length_cons, ih]

theorem ofLe_lt (bs : List Byte) : ofLe bs < 256 ^ bs.length := by
  induction bs with
  | nil => exact Nat.one_pos
  | cons b bs ih =>
    rw [ofLe, List.length_cons, Nat.pow_succ]
    have := b.isLt
    omega

theorem ofLe_leBytes (n v : Nat) : ofLe (leBytes n v) = v % 256 ^ n := by
  induction n generalizing v with
  | zero => simp only [leBytes, ofLe, Nat.pow_zero, Nat.mod_one]
  | succ n ih =>
    rw [leBytes, ofLe, ih, BitVec.toNat_ofNat, Nat.mod_mod, Nat.pow_succ', Nat.mod_mul]

theorem readLe_lt (d : Dev) (pa n : Nat) : d.readLe pa n < 256 ^ n := by
  have h := ofLe_lt (d.bytes pa n)
  rwa [Dev.bytes, List.length_map, List.length_range] at h

theorem bytes_congr {d e : Dev} (h : d.mem.bytes = e.mem.bytes) (pa n : Nat) : d.bytes pa n = e.bytes pa n := by
  unfold Dev.bytes
  simp only [byte_congr h]

theorem bytes_of_written {d : Dev} {m : List Host.Cell} {pa n v : Nat} (h : d.mem.bytes = putCells m (cellsAt pa (leBytes n v))) :
    d.bytes pa n = leBytes n v := by
  refine List.ext_getElem (by rw [Dev.bytes, List.length_map, List.length_range, length_leBytes]) fun i hi hj => ?_
  rw [length_leBytes] at hj
  simp only [Dev.bytes, List.getElem_map, List.getElem_range, Dev.byte, h]
  rw [mget_putCells_cellsAt, dif_pos (by rw [length_leBytes]; omega)]
  simp only [Nat.add_sub_cancel_left]

/-! ### What an atomic writes -/

/-- The bytes that an atomic writes: none where a CAS fails. -/
def newCells (pa n : Nat) : Option Nat → List Host.Cell
  | some v => cellsAt pa (leBytes n v)
  | none => []

section
variable {d e : Dev} {pa n : Nat} {new : Option Nat} (h : e.mem.bytes = putCells d.mem.bytes (newCells pa n new))
include h

theorem readLe_of_newCells {v : Nat} (hv : new.getD (d.readLe pa n) = v) (hlt : v < 256 ^ n) : e.readLe pa n = v := by
  cases new with
  | none => rw [← hv]; exact congrArg ofLe (bytes_congr h pa n)
  | some w =>
    simp only [Option.getD_some] at hv
    subst hv
    rw [Dev.readLe, bytes_of_written h, ofLe_leBytes, Nat.mod_eq_of_lt hlt]

theorem byte_of_newCells {a : Nat} (ha : a < pa ∨ pa + n ≤ a) : e.byte a = d.byte a := by
  unfold Dev.byte
  rw [h]
  cases new with
  | none => rfl
  | some w => exact (mget_putCells_cellsAt ..).trans (dif_neg (by rw [length_leBytes]; omega))

end

/-! ### A core's store -/

theorem homeWrite_written (d : Dev) (line : Nat) (cells : List Host.Cell) : (d.homeWrite line cells).mem.bytes = putCells d.mem.bytes cells := by
  have h : ((d.markStale line 22 none).putBytes cells).mem.bytes = putCells d.mem.bytes cells := congrArg (putCells · cells) (markStale_bytes ..)
  unfold Dev.homeWrite
  rw [hcInstall_bytes, (setDir_kept ..).1]
  split
  · exact (setPoison_bytes ..).trans h
  · exact h

theorem homeStore_written (d : Dev) (who : Nat) (c : Host.Cell) (cs : List Host.Cell) :
    (d.homeStore who (c :: cs)).mem.bytes = putCells d.mem.bytes (c :: cs) := by
  unfold Dev.homeStore
  dsimp only
  rw [noteFar_bytes, homeWrite_written]
  refine congrArg (putCells · _) ?_
  split
  all_goals simp only [homeRead_bytes, dropOthers_bytes, dirTouch_bytes]

theorem homeStore_txn (d : Dev) (who : Nat) (c : Host.Cell) (cs : List Host.Cell) : (d.homeStore who (c :: cs)).coh.txn = d.coh.txn := by
  unfold Dev.homeStore
  dsimp only
  rw [noteFar_txn, homeWrite_txn]
  split
  all_goals simp only [homeRead_txn, dropOthers_txn, dirTouch_txn]

/-- What a core does with a line it has just got, before the bytes are written. -/
def Dev.lineWritable (d : Dev) (l line : Nat) : Dev :=
  match mget none d.spindleOf l with
  | some p => ((d.markStale line (p / 28) (some p)).noteL1i p line).notePending l p line
  | none => d.markStale line 0 none

theorem coreWrite_cached {d : Dev} {l : Nat} {into : Fill} {c : Host.Cell} {cs : List Host.Cell} (h : d.uncached l (c.1 / 64) = false) :
    d.coreWrite l into (c :: cs) =
      let e := (((d.coreLine l (c.1 / 64) true into (coversLine (c.1 / 64) (c :: cs))).1).lineWritable l (c.1 / 64)).putBytes (c :: cs)
      if coversLine (c.1 / 64) (c :: cs) then e.setPoison (c.1 / 64) false else e := by
  unfold Dev.coreWrite
  dsimp only
  rw [if_neg (by rw [h]; decide)]
  rfl

theorem lineWritable_keeps (d : Dev) (l line : Nat) : (d.lineWritable l line).mem.bytes = d.mem.bytes ∧ (d.lineWritable l line).coh.txn = d.coh.txn := by
  unfold Dev.lineWritable
  split
  · simp only [notePending_bytes, noteL1i_bytes, markStale_bytes, notePending_txn, noteL1i_txn, markStale_txn, and_self]
  · simp only [markStale_bytes, markStale_txn, and_self]

section
variable {d : Dev} (h : d.coh.txn = [])
include h

theorem coreWrite_written (l : Nat) (into : Fill) (cells : List Host.Cell) :
    (d.coreWrite l into cells).mem.bytes = putCells d.mem.bytes cells ∧ (d.coreWrite l into cells).coh.txn = [] := by
  cases cells with
  | nil => exact ⟨rfl, h⟩
  | cons c cs =>
    cases hu : d.uncached l (c.1 / 64) with
    | true =>
      have he : d.coreWrite l into (c :: cs) = d.homeStore l (c :: cs) := by
        unfold Dev.coreWrite
        exact if_pos hu
      rw [he]
      exact ⟨homeStore_written .., (homeStore_txn ..).trans h⟩
    | false =>
      obtain ⟨hb, ht⟩ := coreLine_calm h l (c.1 / 64) true into (coversLine (c.1 / 64) (c :: cs))
      obtain ⟨h1, h2⟩ := lineWritable_keeps (d.coreLine l (c.1 / 64) true into (coversLine (c.1 / 64) (c :: cs))).1 l (c.1 / 64)
      rw [coreWrite_cached hu]
      dsimp only
      split
      all_goals exact ⟨congrArg (putCells · _) (h1.trans hb), h2.trans ht⟩

theorem applyAd_idle (l : Nat) (u : Option AdUpdate) : (d.applyAd l u).coh.txn = [] := by
  unfold Dev.applyAd
  split
  · exact h
  · split
    · exact (coreWrite_written h ..).2
    · exact h

/-! ### Near and far -/

theorem atomNear_written (l pa n vi : Nat) (new : Option Nat) : (d.atomNear l pa n vi new).mem.bytes = putCells d.mem.bytes (newCells pa n new) := by
  cases new with
  | some v => exact (coreWrite_written h ..).1
  | none => exact (markStale_bytes ..).trans (coreLine_calm h ..).bytes

omit h in
theorem atomHub_written (d : Dev) (pa n : Nat) (new : Option Nat) : (d.atomHub pa n new).mem.bytes = putCells d.mem.bytes (newCells pa n new) := by
  have h1 : (((d.dirTouch (pa / 64)).dirClear (pa / 64)).homeRead (pa / 64)).1.mem.bytes = d.mem.bytes := by
    simp only [homeRead_bytes, dirClear_bytes, dirTouch_bytes]
  cases new with
  | some v => exact (homeWrite_written ..).trans (congrArg (putCells · _) h1)
  | none => exact h1

theorem atomL3_written (l die pa n : Nat) (t : L3Tag) (new : Option Nat) :
    (d.atomL3 l die pa n t new).mem.bytes = putCells d.mem.bytes (newCells pa n new) := by
  have hb : (d.forPres die t.pres none fun d p => d.l2Drop p (pa / 64)).mem.bytes = d.mem.bytes := forPres_bytes _ _ _ _ fun d q => l2Drop_bytes d q _
  have ht : (d.forPres die t.pres none fun d p => d.l2Drop p (pa / 64)).coh.txn = [] := (forPres_txn _ _ _ _ fun d q => l2Drop_txn d q _).trans h
  unfold Dev.atomL3
  extract_lets line d1 d2 d3
  have h2 : d2.mem.bytes = putCells d.mem.bytes (newCells pa n new) ∧ d2.coh.txn = [] := by
    cases new with
    | some v => exact ⟨congrArg (putCells · _) ((markStale_bytes ..).trans hb), (markStale_txn ..).trans ht⟩
    | none => exact ⟨hb, ht⟩
  have h3 : d3.mem.bytes = putCells d.mem.bytes (newCells pa n new) := (l3Fill_calm h2.2 ..).bytes.trans h2.1
  split
  · split
    · exact (notePending_bytes ..).trans h3
    · exact h3
  · exact h3

theorem atomFar_written (l p pa n : Nat) (new : Option Nat) : (d.atomFar l p pa n new).mem.bytes = putCells d.mem.bytes (newCells pa n new) := by
  unfold Dev.atomFar
  rw [noteFar_bytes]
  split
  · split
    · exact atomL3_written h ..
    · exact atomHub_written ..
  · exact atomHub_written ..

end

/-! ### What an atomic changes of its core -/

section
variable (d : Dev) (l : Nat)

theorem xlatOnly_coreWrite (into : Fill) (cells : List Host.Cell) : XlatOnly l d (d.coreWrite l into cells) := (buffersOnly_coreWrite ..).xlatOnly

theorem xlatOnly_atomNear (pa n vi : Nat) (new : Option Nat) : XlatOnly l d (d.atomNear l pa n vi new) := by
  cases new with
  | some v => exact xlatOnly_coreWrite ..
  | none => exact xlatOnly_of_cores ((markStale_cores ..).trans (coreLine_cores ..))

theorem cores_atomHub (pa n : Nat) (new : Option Nat) : (d.atomHub pa n new).cores = d.cores := by
  have h1 : (((d.dirTouch (pa / 64)).dirClear (pa / 64)).homeRead (pa / 64)).1.cores = d.cores := by
    simp only [homeRead_cores, dirClear_cores, dirTouch_cores]
  cases new with
  | some v => exact (homeWrite_cores ..).trans h1
  | none => exact h1

theorem xlatOnly_atomL3 (die pa n : Nat) (t : L3Tag) (new : Option Nat) : XlatOnly l d (d.atomL3 l die pa n t new) := by
  have hb : (d.forPres die t.pres none fun d p => d.l2Drop p (pa / 64)).cores = d.cores := forPres_cores _ _ _ _ fun d q => l2Drop_cores d q _
  unfold Dev.atomL3
  extract_lets line d1 d2 d3
  have h2 : d2.cores = d.cores := by
    cases new with
    | some v => exact (markStale_cores ..).trans hb
    | none => exact hb
  have h3 : XlatOnly l d d3 := xlatOnly_of_cores ((l3Fill_cores ..).trans h2)
  split
  · split
    · exact h3.trans (buffersOnly_notePending ..).xlatOnly
    · exact h3
  · exact h3

theorem xlatOnly_atomFar (p pa n : Nat) (new : Option Nat) : XlatOnly l d (d.atomFar l p pa n new) := by
  unfold Dev.atomFar
  refine XlatOnly.trans ?_ (xlatOnly_of_cores (noteFar_cores ..))
  split
  · split
    · exact xlatOnly_atomL3 ..
    · exact xlatOnly_of_cores (cores_atomHub ..)
  · exact xlatOnly_of_cores (cores_atomHub ..)

end

/-! ### An atomic -/

/-- The core's end of an atomic: the old value in gd, and the predictor trained. -/
def Core.atomEnd (c : Core) (gd : BitVec 5) (old : Nat) (cont : List (Nat × Nat)) : Core := { c with contention := cont }.wg gd (BitVec.ofNat 64 old)

section
variable (c : Core) (gd : BitVec 5) (old : Nat) (cont : List (Nat × Nat))

theorem atomEnd_pmu : (c.atomEnd gd old cont).pmu = c.pmu := wg_pmu ..
theorem atomEnd_pc : (c.atomEnd gd old cont).pc = c.pc := wg_pc ..

theorem atomEnd_runCtl : (c.atomEnd gd old cont).runCtl = c.runCtl := by
  unfold Core.runCtl Core.atomEnd
  rw [wg_pmu, wg_stepArmed, wg_draining]

end

theorem rg_wg_of_ne (c : Core) {r gd : BitVec 5} (x : Word) (h : r ≠ gd) : (c.wg gd x).rg r = c.rg r := by
  unfold Core.rg Core.wg
  have hn : gd.toNat ≠ r.toNat := fun he => h (BitVec.eq_of_toNat_eq he.symm)
  split
  · rfl
  · split
    · rfl
    · exact (mget_mset ..).trans (if_neg hn)

theorem atomEnd_near (c : Core) (gd : BitVec 5) (old i : Nat) (hit recalled : Bool) :
    (if hit then c.trainCont i false else if recalled then c.trainCont i true else c).wg gd (BitVec.ofNat 64 old) =
      c.atomEnd gd old (if hit then c.trainCont i false else if recalled then c.trainCont i true else c).contention := by
  split
  · rfl
  · split
    all_goals rfl

section
variable {d0 d d1 : Dev} {l n : Nat} {gd ga : BitVec 5} {x : Xlat} (hc : d0.scalarCheck l ((d0.core l).rg ga) n .atomic = (d, .ok x))
  (ht : d.target l (d.core l).level.secure x.pa n x.mt = .mem) (hd : (d.drained l).2 = true)
  (hr : (d.drained l).1.coreReach l (x.pa / 64) true = (d1, .ok)) (hp : d1.poisoned (x.pa / 64) = false) (hi : d1.coh.txn = [])
include hc ht hd hr hp hi

/-- An atomic whose checks pass, near or far. -/
theorem atomic_done (release : Bool) (f : Nat → Option Nat) : ∃ (e : Dev) (cont : List (Nat × Nat)) (evs : List (Nat × Nat)),
    d0.atomic l gd ga n release f = .done (e.setCore l ((e.core l).atomEnd gd ((d1.applyAd l x.ad).readLe x.pa n) cont)) evs ∧
    XlatOnly l (d1.applyAd l x.ad) e ∧
    e.mem.bytes = putCells (d1.applyAd l x.ad).mem.bytes (newCells x.pa n (f ((d1.applyAd l x.ad).readLe x.pa n))) := by
  have hsb : ((d.drain l).core l).sb.isEmpty = true ∧ ((d.drain l).core l).pendSt.isEmpty = true := by
    unfold Dev.drained Core.allPerformed at hd
    exact Bool.and_eq_true_iff.1 hd
  change (d.drain l).coreReach l (x.pa / 64) true = _ at hr
  have hi2 := applyAd_idle hi l x.ad
  unfold Dev.atomic
  rw [hc]
  dsimp only
  rw [ht]
  dsimp only
  rw [if_neg (by simp [hsb]), hr]
  dsimp only
  rw [if_neg (by rw [hp]; decide)]
  generalize d1.applyAd l x.ad = d2 at hi2
  split
  · generalize d2.hot l (x.pa / 64) = hot
    have hw := atomFar_written hi2 l ((mget none d2.spindleOf l).getD 0) x.pa n (f (d2.readLe x.pa n))
    have hx := xlatOnly_atomFar d2 l ((mget none d2.spindleOf l).getD 0) x.pa n (f (d2.readLe x.pa n))
    generalize d2.atomFar l ((mget none d2.spindleOf l).getD 0) x.pa n (f (d2.readLe x.pa n)) = e at hw hx
    split
    · next sk _ =>
      exact ⟨e.count (Reg.CCH_SK_FAR sk), _, _, rfl, hx.trans (xlatOnly_of_cores (count_cores ..)), (count_kept ..).1.trans hw⟩
    · exact ⟨e, _, _, rfl, hx, hw⟩
  · have hw := atomNear_written hi2 l x.pa n (vaIdx ((d.core l).rg ga)) (f (d2.readLe x.pa n))
    have hx := xlatOnly_atomNear d2 l x.pa n (vaIdx ((d.core l).rg ga)) (f (d2.readLe x.pa n))
    generalize d2.atomNear l x.pa n (vaIdx ((d.core l).rg ga)) (f (d2.readLe x.pa n)) = e at hw hx
    exact ⟨e, _, _, congrArg (CoreOut.done · _) (congrArg (e.setCore l) (atomEnd_near ..)), hx, hw⟩

end

/-! ### The operations -/

theorem pow_256 (n : Nat) : 256 ^ n = 2 ^ (8 * n) := (Nat.pow_mul 2 8 n).symm

section
variable {w : Nat} (hw : 0 < w)
include hw

/-- The signed reading of a value of `w` bits. -/
theorem asInt_eq (u : Bool) (x : Nat) : asInt w u x = if u = false ∧ 2 ^ w / 2 ≤ x then (x : Int) - (2 ^ w : Nat) else x := by
  have h2 : 2 ^ w / 2 = 2 ^ (w - 1) := by rw [← Nat.pow_div hw (by decide), Nat.pow_one]
  unfold asInt
  rw [h2]
  by_cases hu : u = true
  · rw [if_pos (.inl hu), if_neg fun h => by simp [hu] at h]
  · by_cases hx : x < 2 ^ (w - 1)
    · rw [if_pos (.inr hx), if_neg fun h => by omega]
    · rw [if_neg fun h => h.elim hu hx, if_pos ⟨by simpa using hu, by omega⟩]
      push_cast
      rfl

theorem intLo_eq (u : Bool) : intLo w u = if u = true then 0 else -((2 ^ w / 2 : Nat) : Int) := by
  have h2 : 2 ^ w / 2 = 2 ^ (w - 1) := by rw [← Nat.pow_div hw (by decide), Nat.pow_one]
  unfold intLo
  rw [h2]
  push_cast
  rfl

theorem intHi_eq (u : Bool) : intHi w u = if u = true then ((2 ^ w : Nat) : Int) - 1 else ((2 ^ w / 2 : Nat) : Int) - 1 := by
  have h2 : 2 ^ w / 2 = 2 ^ (w - 1) := by rw [← Nat.pow_div hw (by decide), Nat.pow_one]
  unfold intHi
  rw [h2]
  push_cast
  rfl

end

theorem asNat_lt (w : Nat) (v : Int) : asNat w v < 2 ^ w := by
  have h : (0 : Int) < 2 ^ w := by positivity
  have h1 := Int.emod_lt_of_pos v h
  have h2 := Int.emod_nonneg v h.ne'
  unfold asNat
  zify
  omega

/-- The saturating sum of two values of `w` bits. -/
def saddNew (w : Nat) (u : Bool) (b old : Nat) : Nat :=
  (max (intLo w u) (min (intHi w u) (asInt w u old + asInt w u (b % 2 ^ w))) % ((2 ^ w : Nat) : Int)).toNat

/-- What an operation makes of the old value, which stays where a CAS fails. -/
def newOf (k : AtomKind) (w : Nat) (u : Bool) (b e old : Nat) : Nat := (atomNew k w u old b e).getD old

section
variable {w : Nat} {u : Bool} {old b e : Nat}

theorem newOf_cas : newOf .cas w u b e old = if old = e % 2 ^ w then b % 2 ^ w else old := by
  unfold newOf atomNew
  dsimp only
  split
  all_goals rfl

theorem newOf_min : newOf .min w u b e old = if asInt w u old ≤ asInt w u (b % 2 ^ w) then old else b % 2 ^ w := rfl
theorem newOf_max : newOf .max w u b e old = if asInt w u old ≤ asInt w u (b % 2 ^ w) then b % 2 ^ w else old := rfl

theorem newOf_sadd : newOf .sadd w u b e old = saddNew w u b old := by
  show asNat _ (satInt _ _ _) = _
  rw [satInt_eq (intLo_le_intHi w u), asNat, saddNew]
  push_cast
  rfl

theorem newOf_lt_two_pow (k : AtomKind) (ho : old < 2 ^ w) : newOf k w u b e old < 2 ^ w := by
  have hb : b % 2 ^ w < 2 ^ w := Nat.mod_lt _ (Nat.two_pow_pos _)
  have hp (p : Prop) [Decidable p] : (if p then old else b % 2 ^ w) < 2 ^ w := by split <;> assumption
  have hq (p : Prop) [Decidable p] : (if p then b % 2 ^ w else old) < 2 ^ w := by split <;> assumption
  cases k with
  | swap => exact hb
  | add => exact Nat.mod_lt _ (Nat.two_pow_pos _)
  | and => exact lt_of_le_of_lt Nat.and_le_left ho
  | or => exact Nat.or_lt_two_pow ho hb
  | xor => exact Nat.xor_lt_two_pow ho hb
  | min => exact hp _
  | max => exact hq _
  | sadd => exact asNat_lt ..
  | cas => rw [newOf_cas]; exact hq _

theorem newOf_lt {n : Nat} {k : AtomKind} (ho : old < 256 ^ n) : newOf k (8 * n) u b e old < 256 ^ n := by
  rw [pow_256] at ho ⊢
  exact newOf_lt_two_pow k ho

end

/-! ### An atomic instruction -/

section
variable {c : Instr} {l : Fin 384} {dw u : Bool} {ord : BitVec 2} {gd ga gb : BitVec 5} {s : State} {k : AtomKind} {n : Nat}
  (he : exec c s = runAtomic k l dw u ord gd ga gb s) (hs : s.ready l) (hn : n = if dw then 8 else 4)
include he hs hn

/-- An atomic instruction. -/
theorem completes_atomic {d d1 : Dev} {x : Xlat} (hc : (s.fetched l).scalarCheck l.val (((s.fetched l).core l.val).rg ga) n .atomic = (d, .ok x))
    (ht : d.target l.val (d.core l.val).level.secure x.pa n x.mt = .mem) (hd : (d.drained l.val).2 = true)
    (hr : (d.drained l.val).1.coreReach l.val (x.pa / 64) true = (d1, .ok)) (hp : d1.poisoned (x.pa / 64) = false) (hi : d1.coh.txn = []) :
    Completes c s fun t =>
      (t.core l.val).rg gd = (if gd = 0#5 then 0#64 else BitVec.ofNat 64 ((d1.applyAd l.val x.ad).readLe x.pa n)) ∧
      (∀ r, r ≠ gd → (t.core l.val).rg r = ((s.fetched l).core l.val).rg r) ∧ (t.core l.val).pc = ((s.fetched l).core l.val).pc + 4#64 ∧
      t.readLe x.pa n = newOf k (8 * n) u (((s.fetched l).core l.val).rg gb).toNat (((s.fetched l).core l.val).rg gd).toNat ((d1.applyAd l.val x.ad).readLe x.pa n) ∧
      ∀ a, (a < x.pa ∨ x.pa + n ≤ a) → t.byte a = (d1.applyAd l.val x.ad).byte a := by
  obtain ⟨e, cont, evs, hf, hx, hb⟩ := atomic_done (gd := gd) hc ht hd hr hp hi (bit ord 1) fun old =>
    atomNew k (8 * n) u old (((s.fetched l).core l.val).rg gb).toNat (((s.fetched l).core l.val).rg gd).toNat
  have h1 := xlatOnly_scalarCheck (s.fetched l) l.val (((s.fetched l).core l.val).rg ga) n .atomic
  rw [hc] at h1
  have h2 : XlatOnly l.val d (d.drained l.val).1 := xlatOnly_drain d l.val
  have h3 := xlatOnly_of_cores (l := l.val) (coreReach_cores (d.drained l.val).1 l.val (x.pa / 64) true)
  rw [hr] at h3
  have hk := (((h1.trans h2).trans h3).trans (xlatOnly_applyAd d1 l.val x.ad)).trans hx
  subst hn
  refine (completes_access he hs hf ?_ ?_).imp fun t ⟨hcore, hmem⟩ => ?_
  · rw [core_setCore, if_pos rfl]
    exact (atomEnd_runCtl ..).trans hk.runCtl_eq
  · rw [core_setCore, if_pos rfl]
    exact (atomEnd_pmu ..).trans hk.pmu_eq
  rw [core_setCore, if_pos rfl] at hcore
  have hbytes : t.mem.bytes = _ := (congrArg Mem.bytes hmem).trans hb
  refine ⟨?_, fun r hne => ?_, ?_, readLe_of_newCells hbytes rfl (newOf_lt (readLe_lt ..)), fun a ha => byte_of_newCells hbytes ha⟩
  · rw [hcore]
    exact rg_wg ..
  · rw [hcore]
    exact (rg_wg_of_ne _ _ hne).trans (congrFun hk.rg_eq r)
  · rw [hcore]
    dsimp only
    rw [atomEnd_pc, hk.pc_eq]

end

/-- Settles O7: each atomic is one access with its operation. -/
theorem atomicsComplete : Obligations.AtomicsComplete := by
  intro l dw u ord gd ga gb s hs
  dsimp only
  have hw : 0 < 8 * if dw then 8 else 4 := by split <;> decide
  refine ⟨?_, ?_, ?_, ?_, ?_, ?_, ?_, ?_, ?_⟩
  all_goals intro d x hc ht hd d1 hr hp hi
  · exact completes_atomic (k := .swap) (u := false) rfl hs rfl hc ht hd hr hp hi
  · exact completes_atomic (k := .add) (u := false) rfl hs rfl hc ht hd hr hp hi
  · exact completes_atomic (k := .and) (u := false) rfl hs rfl hc ht hd hr hp hi
  · exact completes_atomic (k := .or) (u := false) rfl hs rfl hc ht hd hr hp hi
  · exact completes_atomic (k := .xor) (u := false) rfl hs rfl hc ht hd hr hp hi
  · have h := completes_atomic (c := .cas l dw ord gd ga gb) rfl hs rfl hc ht hd hr hp hi
    simpa only [newOf_cas] using h
  · have h := completes_atomic (c := .atomicMin l dw u ord gd ga gb) rfl hs rfl hc ht hd hr hp hi
    simpa only [newOf_min, asInt_eq hw] using h
  · have h := completes_atomic (c := .atomicMax l dw u ord gd ga gb) rfl hs rfl hc ht hd hr hp hi
    simpa only [newOf_max, asInt_eq hw] using h
  · have h := completes_atomic (c := .atomicSadd l dw u ord gd ga gb) rfl hs rfl hc ht hd hr hp hi
    simpa only [newOf_sadd, saddNew, intLo_eq hw, intHi_eq hw, asInt_eq hw] using h

end Sys2Proof.Machine
end

section
/-! PROOFS. Line operations and prefetches (07 R227, R230, 11 R350). -/
namespace Sys2Proof.Machine

/-! ### What the retirement of an instruction leaves of the directory -/

section
variable (d : Dev) {a : Nat} (h : 0xF00100A000000 ≤ a) (v : Reg32)
include h

/-- The registers of the memory map stand below. -/
theorem reg_map_setReg {i : Nat} (hi : i < 64) : (d.setReg a v).reg (Reg.MC_MAP_RANGE i) = d.reg (Reg.MC_MAP_RANGE i) ∧
    (d.setReg a v).reg (Reg.MC_MAP_SET i) = d.reg (Reg.MC_MAP_SET i) ∧ (d.setReg a v).reg (Reg.MC_MAP_BASE i) = d.reg (Reg.MC_MAP_BASE i) := by
  refine ⟨reg_setReg_ne _ _ _ _ ?_, reg_setReg_ne _ _ _ _ ?_, reg_setReg_ne _ _ _ _ ?_⟩
  · unfold Reg.MC_MAP_RANGE; omega
  · unfold Reg.MC_MAP_SET; omega
  · unfold Reg.MC_MAP_BASE; omega

theorem reg_cfg_setReg {i : Nat} (hi : i < 16) : (d.setReg a v).reg (Reg.MC_CFG i) = d.reg (Reg.MC_CFG i) :=
  reg_setReg_ne _ _ _ _ (by unfold Reg.MC_CFG; omega)

theorem regionOf_setReg (pa : Nat) : (d.setReg a v).regionOf pa = d.regionOf pa := by
  unfold Dev.regionOf
  refine List.find?_congr fun i hi => ?_
  rw [(reg_map_setReg d h v (List.mem_range.1 hi)).1]

theorem channelOf_setReg (pa : Nat) : (d.setReg a v).channelOf pa = d.channelOf pa := by
  unfold Dev.channelOf
  rw [regionOf_setReg d h v pa]
  split
  · rfl
  · next i hi =>
    obtain ⟨h1, h2, h3⟩ := reg_map_setReg d h v (List.mem_range.1 (List.mem_of_find?_eq_some hi))
    simp only [Dev.regF, h1, h2, h3]
    rfl

omit h in
theorem channelOf_lt {d : Dev} {pa ch loc : Nat} (hc : d.channelOf pa = some (ch, loc)) : ch < 16 := by
  unfold Dev.channelOf at hc
  split at hc
  · exact nomatch hc
  · dsimp only at hc
    split at hc
    · exact nomatch hc
    · next i _ h0 =>
      simp only [Option.some.injEq, Prod.mk.injEq] at hc
      rw [← hc.1, List.getD_eq_getElem _ _ (Nat.mod_lt _ (Nat.pos_of_ne_zero h0))]
      exact List.mem_range.1 (List.mem_filter.1 (List.getElem_mem (Nat.mod_lt _ (Nat.pos_of_ne_zero h0)))).1

theorem sameDir_setReg : d.SameDir (d.setReg a v) := by
  refine ⟨rfl, rfl, fun rs n => ?_, rfl⟩
  unfold Dev.inRanks
  rw [channelOf_setReg d h v]
  split
  · rfl
  split
  · next hc =>
    unfold Dev.rankOf Dev.regF
    rw [reg_cfg_setReg d h v (channelOf_lt hc)]
    rfl
  · rfl

theorem sameDir_count : d.SameDir (d.count a) := sameDir_setReg d h _
theorem sameDir_setRegF (hi lo x : Nat) : d.SameDir (d.setRegF a hi lo x) := sameDir_setReg d h _

end

section
variable (d : Dev)

theorem sameDir_trace (t : Trace) : d.SameDir { d with trace := t } := ⟨rfl, rfl, fun _ _ => rfl, rfl⟩

theorem sameDir_updCore (l : Nat) (f : Core → Core) : d.SameDir (d.updCore l f) := ⟨rfl, rfl, fun _ _ => rfl, rfl⟩

theorem sameDir_traceStatus : d.SameDir d.traceStatus := (sameDir_setRegF d (by decide) ..).trans (sameDir_setRegF _ (by decide) ..)

theorem sameDir_tracePush (bs : List Byte) : d.SameDir (d.tracePush bs) := by
  unfold Dev.tracePush
  dsimp only
  split
  · exact (sameDir_trace d _).trans (sameDir_count _ (by decide))
  · split
    · exact (sameDir_trace d _).trans (sameDir_count _ (by decide))
    · exact (sameDir_trace d _).trans (sameDir_traceStatus _)

theorem sameDir_traceResume (l : Nat) : d.SameDir (d.traceResume l) := by
  unfold Dev.traceResume
  dsimp only
  split
  · split
    · exact (sameDir_trace d _).trans (sameDir_traceStatus _)
    · exact .refl d
  · exact .refl d

theorem sameDir_traceRetire (l : Nat) : d.SameDir (d.traceRetire l) := by
  unfold Dev.traceRetire
  split
  · exact .refl d
  split
  · exact sameDir_trace ..
  split
  · exact ((sameDir_traceResume d l).trans (sameDir_trace ..)).trans (sameDir_tracePush ..)
  · exact sameDir_trace ..

theorem dirOf_finish_done {e : Dev} {l : Fin 384} (h : (e.core l.val).pmu.idle = true) (evs : List (Nat × Nat)) (n : Nat) :
    (d.finish l (.done e evs)).dirOf n = e.dirOf n := by
  have hi : ((e.updCore l.val fun c => { c with pc := c.pc + 4#64 }).core l.val).pmu.idle = true := by rw [core_updCore, if_pos rfl]; exact h
  show (((e.updCore l.val fun c => { c with pc := c.pc + 4#64 }).pmuCount l (d.core l.val).level ((2, 1) :: evs)).traceRetire l.val).dirOf n = _
  rw [pmuCount_of_idle hi]
  exact ((sameDir_updCore e l.val _).trans (sameDir_traceRetire ..)).dirOf_eq n

end

section
variable {c : Instr} {l : Fin 384} {s : State} {f : Dev → CoreOut} {e : Dev} {evs : List (Nat × Nat)} (he : exec c s = runInstr l s f)
    (hs : s.ready l)
  (hf : f (s.fetched l) = .done e evs) (hx : XlatOnly l.val (s.fetched l) e)
include he hs hf hx

/-- An instruction that has changed of its core only look-asides and buffers. -/
theorem completes_xlatOnly : Completes c s fun t => t.core l.val = { e.core l.val with pc := (e.core l.val).pc + 4#64 } ∧
    (t.core l.val).pc = ((s.fetched l).core l.val).pc + 4#64 ∧ (∀ r, (t.core l.val).rg r = ((s.fetched l).core l.val).rg r) ∧
    (∀ n, t.dirOf n = e.dirOf n) ∧ ∀ a, t.byte a = e.byte a := by
  have hi : (e.core l.val).pmu.idle = true := by rw [hx.pmu_eq]; exact pmu_idle_of_quiet hs.2.2
  obtain ⟨t, ht, hp, hc, hm⟩ := completes_access he hs hf hx.runCtl_eq hx.pmu_eq
  have hd : t.dev = s.dev.finish l (.done e evs) := by
    have h1 : t.dev = s.dev.instr l f := onDev_next (he.symm.trans ht)
    rw [h1, instr_ready s l f hs, hf]
  refine ⟨t, ht, hp, hc, ?_, fun r => ?_, fun n => ?_, byte_congr (congrArg Mem.bytes hm)⟩
  · rw [hc]
    dsimp only
    rw [hx.pc_eq]
  · rw [hc]
    exact congrFun hx.rg_eq r
  · rw [hd]
    exact dirOf_finish_done _ hi evs n

end

/-! ### A translation of a core that has nothing buffered, where no home is at work -/

/-- No home is at work, and core `l` has nothing in its store buffer. -/
structure Dev.Still (l : Nat) (d : Dev) : Prop where
  idle : d.coh.txn = []
  sb : (d.core l).sb = []

/-- The result has the bytes of `d`; and where the step succeeds, nothing has begun. -/
structure StillIf (l : Nat) (d e : Dev) (ok : Prop) : Prop where
  bytes : e.mem.bytes = d.mem.bytes
  still : ok → e.Still l

section
variable {l : Nat} {d e f : Dev} {ok : Prop}

theorem Dev.Still.stillIf (h : d.Still l) (ok : Prop) : StillIf l d d ok := ⟨rfl, fun _ => h⟩

theorem StillIf.trans {p : Prop} (h : StillIf l d e p) (hp : p) (h' : e.Still l → StillIf l e f ok) : StillIf l d f ok :=
  ⟨(h' (h.still hp)).bytes.trans h.bytes, (h' (h.still hp)).still⟩

theorem StillIf.imp {p : Prop} (h : StillIf l d e p) (hp : ok → p) : StillIf l d e ok := ⟨h.bytes, fun ho => h.still (hp ho)⟩

theorem stillIf_updCore (h : d.Still l) {g : Core → Core} (hg : ∀ c, (g c).sb = c.sb) (ok : Prop) : StillIf l d (d.updCore l g) ok :=
  ⟨rfl, fun _ => ⟨h.idle, by rw [core_updCore, if_pos rfl, hg, h.sb]⟩⟩

theorem stillIf_of_calm (h : d.Still l) (hc : e.Calm d) (hk : e.cores = d.cores) (ok : Prop) : StillIf l d e ok :=
  ⟨hc.bytes, fun _ => ⟨hc.idle, by rw [core_of_cores hk]; exact h.sb⟩⟩

end

/-- A request of an agent that reads, or asks for write permission, moves no byte. -/
theorem homeFinish_read_bytes (d : Dev) (line agent : Nat) {req : HomeReq} (h : req = .getS ∨ req = .getM ∨ req = .rdnc) :
    (d.homeFinish line agent req).mem.bytes = d.mem.bytes := by
  obtain rfl | rfl | rfl := h
  · simp only [Dev.homeFinish, send_kept, setDir_kept, homeRead_bytes]
  · simp only [Dev.homeFinish, send_kept, setDir_kept]
    split
    · rfl
    · exact homeRead_bytes ..
  · simp only [Dev.homeFinish, send_kept, homeReadNc_bytes]

theorem homeInval_read_bytes (d : Dev) (line agent : Nat) (hs : BitVec 22) {req : HomeReq} (grant : Bool)
    (h : req = .getS ∨ req = .getM ∨ req = .rdnc) :
    (d.homeInval line agent hs req grant).mem.bytes = d.mem.bytes := by
  have h1 : (((List.range 22).filter fun a => hs.getLsbD a).foldl (fun d a => d.send .inv a line []) d).mem.bytes = d.mem.bytes :=
    foldl_bytes _ (fun d a => (send_kept ..).1) _ _
  unfold Dev.homeInval
  simp only [setTxn_kept]
  split
  · obtain rfl | rfl | rfl := h
    all_goals
      simp only [send_kept, setDir_kept]
      split
      all_goals simp only [homeRead_bytes, h1]
  · exact h1

theorem homeStart_read_bytes (d : Dev) (line agent : Nat) {req : HomeReq} (h : req = .getS ∨ req = .getM ∨ req = .rdnc) :
    (d.homeStart line agent req).mem.bytes = d.mem.bytes := by
  unfold Dev.homeStart
  dsimp only
  split
  · split
    · exact (count_kept ..).1
    · rfl
  · exact (setTxn_kept ..).1
  · exact (setTxn_kept ..).1
  split
  · simp only [setTxn_kept, startRebuild_bytes, dirCorrect_bytes, dirTouch_bytes]
  obtain rfl | rfl | rfl := h
  all_goals
    dsimp only
    repeat' split
    all_goals simp only [homeRecall_bytes, homeFinish_read_bytes, homeInval_read_bytes, true_or, or_true, dirCorrect_bytes, dirTouch_bytes]

theorem homeServe_one_bytes (d : Dev) (line a : Nat) {r : HomeReq} (h : r = .getS ∨ r = .getM ∨ r = .rdnc) :
    (d.homeServe line [(a, r)]).mem.bytes = d.mem.bytes := by
  rcases homeServe_one d line a r with h1 | h1
  · rw [h1]
    exact homeStart_read_bytes _ _ _ h
  · rw [h1]
    exact (setTxn_kept ..).1.trans (homeStart_read_bytes _ _ _ h)

theorem hubReach_calm {d : Dev} (h : d.coh.txn = []) (agent line : Nat) {req : HomeReq} (hr : req = .getS ∨ req = .getM ∨ req = .rdnc) :
    (d.hubReach agent line req).1.mem.bytes = d.mem.bytes ∧ ((d.hubReach agent line req).2 = .ok → (d.hubReach agent line req).1.coh.txn = []) := by
  unfold Dev.hubReach
  dsimp only
  split
  · split
    · exact ⟨by simp only [startRebuild_bytes, dirCorrect_bytes, dirTouch_bytes], fun h => nomatch h⟩
    · split
      · exact ⟨(homeServe_one_bytes _ _ _ hr).trans (by simp only [dirCorrect_bytes, dirTouch_bytes]), fun h => nomatch h⟩
      · exact ⟨by simp only [dirCorrect_bytes, dirTouch_bytes], fun _ => by simp only [dirCorrect_txn, dirTouch_txn, h]⟩
  · refine ⟨?_, fun h => nomatch h⟩
    split
    · exact (count_kept ..).1
    · rfl
  · exact ⟨rfl, fun _ => h⟩

theorem sb_walkFill (c : Core) (w : WalkEntry) : (if c.walk.contains w then c else { c with walk := (w :: c.walk).take 64 }).sb = c.sb := by
  split
  all_goals rfl

theorem sb_l1tlbFill (c : Core) (isFetch : Bool) (e : TlbEntry) : (c.l1tlbFill isFetch e).sb = c.sb := by cases isFetch <;> rfl

theorem sb_tlbFind (c : Core) (isFetch : Bool) (asid : BitVec 16) (va : Nat) : (c.tlbFind isFetch asid va).1.sb = c.sb := by
  unfold Core.tlbFind
  split
  · rfl
  · split
    · exact sb_l1tlbFill ..
    · rfl

section
variable {l : Nat} {d : Dev} (h : d.Still l)
include h

theorem coreReach_still (line : Nat) (excl : Bool) : StillIf l d (d.coreReach l line excl).1 ((d.coreReach l line excl).2 = .ok) := by
  have hc := coreReach_cores d l line excl
  suffices hs : (d.coreReach l line excl).1.mem.bytes = d.mem.bytes ∧ ((d.coreReach l line excl).2 = .ok → (d.coreReach l line excl).1.coh.txn = []) from
    ⟨hs.1, fun ho => ⟨hs.2 ho, by rw [core_of_cores hc]; exact h.sb⟩⟩
  unfold Dev.coreReach
  split
  · exact ⟨rfl, fun _ => h.idle⟩
  split
  · exact ⟨rfl, fun _ => h.idle⟩
  · refine hubReach_calm h.idle _ _ ?_
    split
    · exact .inr (.inr rfl)
    · split
      · exact .inr (.inl rfl)
      · exact .inl rfl

theorem walkRead_still (pa : Nat) (full : Word) : StillIf l d (d.walkRead l pa full).1 ((d.walkRead l pa full).2.toOption.isSome = true) := by
  unfold Dev.walkRead
  split
  · exact h.stillIf _
  have h1 := coreReach_still h (pa / 64) false
  split
  all_goals
    rename_i e he
    rw [he] at h1
  case h_4 =>
    have h2 : StillIf l d (e.coreLine l (pa / 64) false .l2 false).1 True :=
      h1.trans rfl fun hs => stillIf_of_calm hs (coreLine_calm hs.idle ..) (coreLine_cores ..) _
    dsimp only
    split
    · exact h2.imp fun _ => trivial
    · exact h2.imp fun _ => trivial
  all_goals exact h1.imp fun hx => nomatch hx

theorem descriptor_still (seg : Nat) (full : Word) : StillIf l d (d.descriptor l seg full).1 ((d.descriptor l seg full).2.toOption.isSome = true) := by
  unfold Dev.descriptor
  split
  · exact h.stillIf _
  dsimp only
  have h1 := walkRead_still h (field (d.core l).segtb 51 8 * 256 + seg * 16) full
  split
  case h_1 e x he => rw [he] at h1; exact h1.imp fun hx => nomatch hx
  case h_2 e he =>
    rw [he] at h1
    repeat' split
    · exact h1.imp fun _ => rfl
    · exact h1.imp fun _ => rfl
    · exact h1.trans rfl fun hs => stillIf_updCore (g := fun c => { c with sla := mset none c.sla seg _ }) hs (fun _ => rfl) _

theorem readPte_still (asid : BitVec 16) (va lvl tbl : Nat) (full : Word) :
    StillIf l d (d.readPte l asid va lvl tbl full).1 ((d.readPte l asid va lvl tbl full).2.toOption.isSome = true) := by
  have h1 := walkRead_still h (tbl + vaIndex va lvl * 8) full
  unfold Dev.readPte
  dsimp only
  split
  · exact h.stillIf _
  split
  case h_1 e x he => rw [he] at h1; exact h1.imp fun hx => nomatch hx
  case h_2 e he => rw [he] at h1; exact h1.imp fun _ => rfl

theorem walk_still (asid : BitVec 16) (g : Bool) (va : Nat) (full : Word) (k : AccessKind) (lvl tbl : Nat) :
    StillIf l d (d.walk l asid g va full k lvl tbl).1 ((d.walk l asid g va full k lvl tbl).2.toOption.isSome = true) := by
  induction lvl generalizing d tbl with
  | zero =>
    unfold Dev.walk
    have h1 := readPte_still h asid va 0 tbl full
    split
    all_goals
      rename_i he
      rw [he] at h1
    · exact h1.imp fun hx => nomatch hx
    · split
      · exact h1.imp fun _ => rfl
      split
      · exact h1.imp fun _ => rfl
      split
      · exact h1.imp fun _ => rfl
      · exact h1.imp fun _ => rfl
  | succ n ih =>
    unfold Dev.walk
    have h1 := readPte_still h asid va (n + 1) tbl full
    split
    all_goals
      rename_i he
      rw [he] at h1
    · exact h1.imp fun hx => nomatch hx
    · split
      · exact h1.imp fun _ => rfl
      split
      · exact h1.imp fun _ => rfl
      split
      · exact h1.imp fun _ => rfl
      · refine h1.trans rfl fun hs => (stillIf_updCore hs (fun c => ?_) True).trans trivial fun hs => ih hs _
        exact sb_walkFill ..

theorem findEntry_still (va : Word) (k : AccessKind) : StillIf l d (d.findEntry l va k).1 ((d.findEntry l va k).2.toOption.isSome = true) := by
  have h1 := descriptor_still h (field va 63 60) va
  unfold Dev.findEntry
  split
  · exact h.stillIf _
  dsimp only
  split
  case h_1 e x he => rw [he] at h1; exact h1.imp fun hx => nomatch hx
  case h_2 e w0 w1 he =>
    rw [he] at h1
    refine h1.trans rfl fun hs => ?_
    split
    · exact hs.stillIf _
    split
    next c x ht =>
      have hc := sb_tlbFind (e.core l) (k == .fetch) (BitVec.ofNat 16 (field w1 63 48)) (field va 47 0)
      rw [ht] at hc
      exact ⟨rfl, fun _ => ⟨hs.idle, by rw [core_setCore, if_pos rfl]; exact hc.trans hs.sb⟩⟩
    next ht =>
      have hw := walk_still hs (BitVec.ofNat 16 (field w1 63 48)) (bit w0 5) (field va 47 0) va k 3 (field w0 51 12 * 4096)
      split
      case h_1 e2 x he2 => rw [he2] at hw; exact hw.imp fun hx => nomatch hx
      case h_2 e2 f he2 =>
        rw [he2] at hw
        exact hw.trans rfl fun hs => stillIf_updCore (g := fun c => (c.l1tlbFill _ _).l2tlbFill _) hs (fun c => sb_l1tlbFill ..) _

/-- Nothing buffered: nothing to perform. -/
theorem drain_still : StillIf l d (d.drain l) True := by
  have he : d.drain l = d.updCore l fun c => { c with sb := [] } := by
    unfold Dev.drain
    rw [h.sb]
    rfl
  rw [he]
  exact ⟨rfl, fun _ => ⟨h.idle, by rw [core_updCore, if_pos rfl]⟩⟩

theorem casReady_still (u : AdUpdate) : StillIf l d (d.casReady l u).1 ((d.casReady l u).2.toOption.isSome = true) := by
  refine (drain_still h).trans trivial fun hs => ?_
  unfold Dev.casReady
  generalize d.drain l = e at hs
  dsimp only
  have h1 := coreReach_still hs (u.at_ / 64) true
  split
  · exact hs.stillIf _
  · split
    all_goals
      rename_i hf
      rw [hf] at h1
    · exact h1.imp fun _ => rfl
    all_goals exact h1.imp fun hx => nomatch hx

theorem xlatePages_still (lvl : Level) (va : Word) (k : AccessKind) (ply : Bool) :
    StillIf l d (d.xlatePages l lvl va k ply).1 ((d.xlatePages l lvl va k ply).2.toOption.isSome = true) := by
  have h1 := findEntry_still h va k
  unfold Dev.xlatePages
  split
  case h_1 e x he => rw [he] at h1; exact h1.imp fun hx => nomatch hx
  case h_2 e x w0 he =>
    rw [he] at h1
    refine h1.trans rfl fun hs => ?_
    split
    · exact hs.stillIf _
    split
    · exact hs.stillIf _
    next u hu =>
      have h2 := casReady_still hs u
      split
      case h_1 e2 y he2 | h_2 e2 y hy he2 => rw [he2] at h2; exact h2.imp fun hx => nomatch hx
      case h_3 e2 he2 => rw [he2] at h2; exact h2.imp fun _ => rfl
      case h_4 e2 he2 =>
        rw [he2] at h2
        refine h2.trans rfl fun hs2 => (stillIf_updCore (g := fun c => c.dropEntry x) hs2 (fun _ => rfl) True).trans trivial fun hs3 => ?_
        have h3 := findEntry_still hs3 va k
        split
        case h_1 e3 y he3 => rw [he3] at h3; exact h3.imp fun hx => nomatch hx
        case h_2 e3 y w1 he3 =>
          rw [he3] at h3
          split
          all_goals exact h3.imp fun _ => rfl

theorem translate_still (va : Word) (k : AccessKind) (ply : Bool) :
    StillIf l d (d.translate l va k ply).1 ((d.translate l va k ply).2.toOption.isSome = true) := by
  unfold Dev.translate
  dsimp only
  split
  · split
    · exact xlatePages_still h ..
    · exact h.stillIf _
  · split
    · exact xlatePages_still h ..
    · exact h.stillIf _
  · exact h.stillIf _
  · exact h.stillIf _

theorem prefLine_bytes_of_still (line vi hint : Nat) : (d.prefLine l line vi hint).mem.bytes = d.mem.bytes := by
  unfold Dev.prefLine
  split
  · rfl
  split
  · rfl
  split
  · exact (coreLine_calm h.idle ..).bytes
  split
  · exact (markStale_bytes ..).trans (coreLine_calm h.idle ..).bytes
  split
  · exact (coreLine_calm h.idle ..).bytes
  split
  · rfl
  · exact (l3Fill_calm ((dirAcquire_txn ..).trans h.idle) ..).bytes.trans (dirAcquire_bytes ..)

end

/-! ### The instructions -/

theorem dirOf_cleanLine (d : Dev) (line : Nat) : ((d.cleanLine line).dirOf line).st ≠ .m := by
  unfold Dev.cleanLine
  dsimp only
  split
  · rw [dirOf_setDir]
    exact fun h => nomatch h
  · assumption

theorem dirOf_dirClear (d : Dev) (line : Nat) : (d.dirClear line).dirOf line = DirEntry.idle := dirOf_setDir ..

theorem prefLine_cores (d : Dev) (l line vi hint : Nat) : (d.prefLine l line vi hint).cores = d.cores := by
  unfold Dev.prefLine
  split
  · rfl
  split
  · rfl
  split
  · exact coreLine_cores ..
  split
  · exact (markStale_cores ..).trans (coreLine_cores ..)
  split
  · exact coreLine_cores ..
  split
  · rfl
  · exact (l3Fill_cores ..).trans (dirAcquire_cores ..)

/-- A prefetch's end: it is done, and has changed of its core only look-asides and buffers, and no byte where nothing else was to be done. -/
def PrefEnds (l : Nat) (d : Dev) (o : CoreOut) : Prop := ∃ e, o = .done e [] ∧ XlatOnly l d e ∧ (d.Still l → e.mem.bytes = d.mem.bytes)

section
variable {l : Fin 384} {s : State} (hs : s.ready l)
include hs

theorem completes_of_prefEnds {c : Instr} {f : Dev → CoreOut} (he : exec c s = runInstr l s f) (hf : PrefEnds l.val (s.fetched l) (f (s.fetched l))) :
    Completes c s fun t =>
      (∀ r, (t.core l.val).rg r = ((s.fetched l).core l.val).rg r) ∧ (t.core l.val).pc = ((s.fetched l).core l.val).pc + 4#64 ∧
      (((s.fetched l).core l.val).sb = [] → (s.fetched l).coh.txn = [] → ∀ a, t.byte a = (s.fetched l).byte a) := by
  obtain ⟨e, ho, hx, hb⟩ := hf
  exact (completes_xlatOnly he hs ho hx).imp fun t ⟨_, hpc, hrg, _, hby⟩ => ⟨hrg, hpc, fun h1 h2 a => (hby a).trans (byte_congr (hb ⟨h2, h1⟩) a)⟩

theorem completes_pref {hint ga : BitVec 5} {off : BitVec 13} (hh : hint.toNat < 4) : Completes (.pref l hint ga off) s fun t =>
    (∀ r, (t.core l.val).rg r = ((s.fetched l).core l.val).rg r) ∧ (t.core l.val).pc = ((s.fetched l).core l.val).pc + 4#64 ∧
    (((s.fetched l).core l.val).sb = [] → (s.fetched l).coh.txn = [] → ∀ a, t.byte a = (s.fetched l).byte a) := by
  refine completes_of_prefEnds hs rfl ?_
  generalize s.fetched l = d
  have h1 := xlatOnly_translate d l.val ((d.core l.val).eaM ga off) .load false
  have hs := fun h => translate_still (l := l.val) (d := d) h ((d.core l.val).eaM ga off) .load false
  rw [if_neg (by omega)]
  split
  case h_1 e x he =>
    rw [he] at h1 hs
    exact ⟨e, rfl, h1, fun h => (hs h).bytes⟩
  case h_2 e x he =>
    rw [he] at h1 hs
    split
    · split
      · have h2 := coreReach_cores e l.val (x.pa / 64) (hint == 1#5)
        have hs2 := fun h => coreReach_still (l := l.val) (d := e) h (x.pa / 64) (hint == 1#5)
        split
        case h_1 e2 he2 =>
          rw [he2] at h2 hs2
          refine ⟨_, rfl, h1.trans (xlatOnly_of_cores ((prefLine_cores ..).trans h2)), fun h => ?_⟩
          have h3 := (hs h).trans rfl hs2
          exact (prefLine_bytes_of_still (h3.still rfl) ..).trans h3.bytes
        case h_2 e2 a _ he2 =>
          rw [he2] at h2 hs2
          exact ⟨_, rfl, h1.trans (xlatOnly_of_cores h2), fun h => ((hs h).trans rfl hs2).bytes⟩
      · exact ⟨_, rfl, h1, fun h => (hs h).bytes⟩
    · exact ⟨_, rfl, h1, fun h => (hs h).bytes⟩

theorem completes_dcz {ga : BitVec 5} {d : Dev} {x : Xlat}
    (ht : (s.fetched l).translate l.val (((s.fetched l).core l.val).rg ga) .dcz false = (d, .ok x))
    (hw : d.wpHit l.val (lineAddrs (((s.fetched l).core l.val).rg ga)) false true = none) (hb : (d.core l.val).barred = false)
    (h64 : sbStores (d.core l.val).sb < 64) : Completes (.dcz l ga) s fun t =>
      (t.core l.val).sb = (d.core l.val).sb ++
        [.store (cellsAt (x.pa / 64 * 64) (List.replicate 64 0#8)) x.mt (d.core l.val).level (vaIdx (((s.fetched l).core l.val).rg ga))] ∧
      (t.core l.val).pc = ((s.fetched l).core l.val).pc + 4#64 ∧ (x.ad = none → ∀ a, t.byte a = d.byte a) := by
  have h1 := xlatOnly_translate (s.fetched l) l.val (((s.fetched l).core l.val).rg ga) .dcz false
  rw [ht] at h1
  let it : SbItem := .store (cellsAt (x.pa / 64 * 64) (leBytes 64 0)) x.mt (d.core l.val).level (vaIdx (((s.fetched l).core l.val).rg ga))
  have hx : XlatOnly l.val d ((d.updCore l.val fun c => { c with sb := c.sb ++ [it] }).applyAd l.val x.ad) :=
    (xlatOnly_updCore (fun _ => rfl) l.val d).trans (xlatOnly_applyAd ..)
  refine (completes_xlatOnly (evs := []) rfl hs ?_ (h1.trans hx)).imp fun t ⟨hc, hpc, _, _, hby⟩ => ⟨?_, hpc, fun hn a => ?_⟩
  · dsimp only
    rw [ht]
    dsimp only
    rw [hw]
    dsimp only
    rw [if_neg (by rw [hb]; decide), pushStore_fits (by simpa using h64)]
  · rw [hc]
    dsimp only
    rw [sb_applyAd, core_updCore, if_pos rfl]
    rfl
  · rw [hby, hn]
    rfl

section
variable {ga : BitVec 5} {d d2 : Dev} {x : Xlat} (ht : (s.fetched l).translate l.val (((s.fetched l).core l.val).rg ga) .dcc false = (d, .ok x))
  (hm : d.target l.val (d.core l.val).level.secure x.pa 1 x.mt = .mem) (he : ((d.drain l.val).core l.val).sb = [])
  (hr : (d.drain l.val).ncReach l.val (x.pa / 64) = (d2, .ok))
include ht hm he hr

/-- A line operation that reaches its line. -/
theorem completes_lineOp {c : Instr} {f : Dev → Nat → Dev} (hc : exec c s = runInstr l s fun d => d.lineOp l.val ((d.core l.val).rg ga) f)
    (hf : ∀ d n, (f d n).cores = d.cores) : Completes c s fun t => (t.core l.val).pc = ((s.fetched l).core l.val).pc + 4#64 ∧
      (∀ n, t.dirOf n = (f (d2.applyAd l.val x.ad) (x.pa / 64)).dirOf n) ∧ ∀ a, t.byte a = (f (d2.applyAd l.val x.ad) (x.pa / 64)).byte a := by
  have h1 := xlatOnly_translate (s.fetched l) l.val (((s.fetched l).core l.val).rg ga) .dcc false
  rw [ht] at h1
  have h2 := ncReach_cores (d.drain l.val) l.val (x.pa / 64)
  rw [hr] at h2
  have hx : XlatOnly l.val (s.fetched l) (f (d2.applyAd l.val x.ad) (x.pa / 64)) :=
    (((h1.trans (xlatOnly_drain ..)).trans (xlatOnly_of_cores h2)).trans (xlatOnly_applyAd ..)).trans (xlatOnly_of_cores (hf ..))
  refine (completes_xlatOnly (evs := []) hc hs ?_ hx).imp fun t ⟨_, hpc, _, hd, hby⟩ => ⟨hpc, hd, hby⟩
  unfold Dev.lineOp
  rw [ht]
  dsimp only
  rw [hm]
  dsimp only
  rw [if_neg (by rw [he]; decide), hr]

theorem completes_dcc : Completes (.dcc l ga) s fun t => (t.core l.val).pc = ((s.fetched l).core l.val).pc + 4#64 ∧ (t.dirOf (x.pa / 64)).st ≠ .m ∧
    ∀ a, t.byte a = (d2.applyAd l.val x.ad).byte a :=
  (completes_lineOp hs ht hm he hr rfl fun d n => (cleanLine_kept d n).2).imp fun t ⟨hpc, hd, hby⟩ =>
    ⟨hpc, by rw [hd]; exact dirOf_cleanLine _ _, fun a => (hby a).trans (byte_congr (cleanLine_kept ..).1 a)⟩

theorem completes_dcci : Completes (.dcci l ga) s fun t => (t.core l.val).pc = ((s.fetched l).core l.val).pc + 4#64 ∧
    t.dirOf (x.pa / 64) = DirEntry.idle ∧ ∀ a, t.byte a = (d2.applyAd l.val x.ad).byte a :=
  (completes_lineOp hs ht hm he hr rfl fun d n => (cleanInvalLine_kept d n).2).imp fun t ⟨hpc, hd, hby⟩ =>
    ⟨hpc, by rw [hd]; exact dirOf_dirClear .., fun a => (hby a).trans (byte_congr (cleanInvalLine_kept ..).1 a)⟩

end

end

/-- Settles O6: a prefetch, a line of zeros buffered, and the two operations on a line that the home gives. -/
theorem lineOperationsComplete : Obligations.LineOperationsComplete := by
  intro l hint ga off s hs
  dsimp only
  exact ⟨completes_pref hs, fun d x ht hw hb h64 => completes_dcz hs ht hw hb h64,
    fun d x d2 ht hm he hr => ⟨completes_dcc hs ht hm he hr, completes_dcci hs ht hm he hr⟩⟩

end Sys2Proof.Machine
end

section
/-! PROOFS. A Ply store behind an entry's mark (05 R163, 10 R334). PST asks whether its core holds a mark before its translations, and these may
perform the mark themselves, where one of them has a D bit to set (09 R289): then nothing holds the store any more, and it does not retire all the same. -/
namespace Sys2Proof.Machine

/-- A part whose one skein has LCN 0 and 4 GiB of memory. -/
def markImage : Image where
  partId := 0
  fmtVer := 0
  imgVer := 1
  flags := 0
  minFw := 0
  sites := []
  spareFlags := 0
  spareNotify := 0
  sparePriority := []
  coreMap := []
  bundleMode := []
  skeins := [{
    skein := 0, secure := true, ndog := true, ranges := 1, lcnMask := 1, mem := [(0, 4)], l3Ways := [], hcWays := 0, hcQways := 0, ddrOwn := 1
    ddrPool := 0, qFirst := 0, qCount := 0, qmemBase := 0, qmemLen := 0, msix := 0, bundles := 0, hankPorts := 0, vfCount := []
    tune := ⟨0, 0, 0, 0, 0, 0, 0, 0⟩ }]
  pins := []
  power := []
  secMark := 0
  swdogMs := 10
  dbgBytes := []
  secBlk := []
  roles := []
  sysnum := 0
  ethertype := 0
  macBase := 0
  hankPorts := []

/-- A core at U with its code at 0x1000, a mark in its store buffer, mask register 1 with element 0, and a page at 0x2000 whose table entry,
at 0x3000, has A and D clear. -/
def markCore : Core :=
  { Core.reset with
    released := true
    level := .u
    tctl := true
    pctlEn := true
    pc := 0x1000#64
    g := [(2, 0x2000#64)]
    m := [(1, 1#128)]
    sb := [.mark true]
    sla := [(0, some (0x1F#64, 0xFF000#64))]
    itlb := [⟨none, 0x1000, 12, 0x10B5#64, 0⟩]
    dtlb := [⟨none, 0x2000, 12, 0x203D#64, 0x3000⟩] }

/-- That core as LCN 0 on 8 GiB of DRAM, with the table entry. -/
def markState : State where
  pending := []
  dev := { Dev.reset with
    cores := [(0, markCore)]
    dom := [(0, ⟨.run, false, .run, 0, false, none⟩)]
    regs := [(Reg.MC_MAP_RANGE 0, 0x80070000#32), (Reg.MC_MAP_SET 0, 1#32)]
    mem := { Mem.reset with capGiB := 8, bytes := [(0x3000, 0x3D#8), (0x3001, 0x20#8)] }
    spindleOf := [(0, some 0)]
    img := { ImgState.reset with img := some markImage, unit := .committed } }

/-- The command: byte 0 of v0 to 0x2000. -/
def markPst : Instr := .pst 0 0#5 2#5 0#7 1#3 0#2 0#2

/-- The check of that store's byte. -/
def markCheck : Dev × Except Stop (List PlyByte) :=
  (markState.fetched 0).plyCheck 0 (((markState.fetched 0).core 0).rg 2#5 + (0#7).signExtend 64 * 32#64) .store
    (((markState.fetched 0).core 0).activeBytes 1 (grpSize 0#2) (2 ^ (0#2).toNat))

/-- Whether a check succeeds and leaves what `p` says. -/
def passesWith (r : Dev × Except Stop (List PlyByte)) (p : Dev → List PlyByte → Bool) : Bool :=
  match r with
  | (d, .ok bs) => p d bs
  | _ => false

theorem exists_of_passesWith {r : Dev × Except Stop (List PlyByte)} {p : Dev → List PlyByte → Bool} (h : passesWith r p = true) :
    ∃ d bs, r = (d, .ok bs) ∧ p d bs = true := by
  obtain ⟨d, x⟩ := r
  cases x with
  | error e => exact nomatch h
  | ok bs => exact ⟨d, bs, rfl, h⟩

/-- The PC of LCN 0 after a command. -/
def pcAfter (o : Host.Outcome State Fault Refusal) : Option Word :=
  match o with
  | .next t => some (t.dev.core 0).pc
  | _ => none

theorem markState_ready : markState.ready 0 :=
  ⟨by decide +kernel, by decide +kernel, by decide +kernel⟩

/-- The store's check passes; the translation has performed the mark. -/
theorem markCheck_passes : passesWith markCheck (fun d bs => decide ((bs.map fun b => b.x.pa).Nodup ∧ (∀ b ∈ bs, b.x.mt ≠ .device) ∧
    (d.core 0).barred = false ∧ (d.core 0).sb = [] ∧ bs.length = 1)) = true := by decide +kernel

theorem pcAfter_markPst : pcAfter (exec markPst markState) = some 0x1000#64 := by decide +kernel

theorem pc_markState : ((markState.fetched 0).core 0).pc = 0x1000#64 := by decide +kernel

theorem pctlEn_markState : ((markState.fetched 0).core 0).pctlEn = true := by decide +kernel

/-- Refutes O16: a PST whose own translation performs the mark that its core held passes every check of the statement, and does not retire: the
core's PC stays. -/
theorem not_plyConversionAndMemoryComplete : ¬ Obligations.PlyConversionAndMemoryComplete := by
  intro h
  obtain ⟨-, hmem⟩ := h 0 0#5 2#5 0#5 0#7 1#3 0#2 0#2 markState markState_ready pctlEn_markState
  obtain ⟨-, hpst⟩ := hmem (by decide)
  obtain ⟨d, bs, hc, hp⟩ := exists_of_passesWith markCheck_passes
  simp only [decide_eq_true_eq] at hp
  obtain ⟨hn, hm, hb, hsb, hl⟩ := hp
  obtain ⟨x, rfl⟩ := List.length_eq_one_iff.1 hl
  obtain ⟨t, ht, -, -, hpc⟩ := hpst d [x] hc hn hm hb (by rw [show (d.core ((0 : Fin 384)).val).sb = [] from hsb]; exact (by decide : 1 ≤ 64))
  have h1 := pcAfter_markPst
  rw [show exec markPst markState = .next t from ht] at h1
  have h2 : (t.dev.core 0).pc = 0x1000#64 := Option.some.inj h1
  have h3 := hpc.symm.trans h2
  rw [show ((markState.fetched 0).core ((0 : Fin 384)).val).pc = 0x1000#64 from pc_markState] at h3
  exact absurd h3 (by decide)

end Sys2Proof.Machine
end

section
/-! PROOFS. A QCTL that finds its own core's post (03 R103, R109). The statement's core is ready, but a post may still name it as its poster:
where QUERY finds the queue's context poisoned, the queue dies, its posts are discarded, and the core's PC moves once for its post and once for its
QUERY. -/
namespace Sys2Proof.Machine

/-- The one skein of that part: 256 queues with their contexts at 4 GiB. -/
def pollSkein : SkeinCfg where
  skein := 0
  secure := true
  ndog := true
  ranges := 1
  lcnMask := 1
  mem := [(0, 4)]
  l3Ways := []
  hcWays := 0
  hcQways := 0
  ddrOwn := 1
  ddrPool := 0
  qFirst := 0
  qCount := 256
  qmemBase := 0x100000000
  qmemLen := 0x10000000
  msix := 0
  bundles := 0
  hankPorts := 0
  vfCount := []
  tune := ⟨0, 0, 0, 0, 0, 0, 0, 0⟩

/-- A core at K on the kernel's start page, that names queue 0. -/
def pollCore : Core :=
  { Core.reset with
    released := true
    pc := 0xE000000000000#64
    pctlEn := true
    kb := { Bank.reset with fpen := true }
    g := [(1, 0#64)] }

/-- That core as LCN 0; the context line of queue 0 is poisoned, and a post of LCN 0 to it is not committed. -/
def pollState : State where
  pending := []
  dev := { Dev.reset with
    cores := [(0, pollCore)]
    dom := [(0, ⟨.run, false, .run, 0, false, none⟩)]
    regs := [(Reg.MC_MAP_RANGE 0, 0x80070000#32), (Reg.MC_MAP_SET 0, 1#32)]
    mem := { Mem.reset with capGiB := 8, poison := [(pollSkein.ctxLine 0, true)] }
    spindleOf := [(0, some 0)]
    img := { ImgState.reset with img := some { markImage with skeins := [pollSkein] }, unit := .committed }
    bq := { Dev.reset.bq with posts := [⟨0, 0, 0, 1, 16, 0, 0, .core 0 0#5, []⟩] } }

/-- The command: QCTL QUERY of queue 0. -/
def pollQuery : Instr := .qctlQuery 0 0#5 1#5 0#5

theorem pollState_ready : pollState.ready 0 :=
  ⟨by decide +kernel, by decide +kernel, by decide +kernel⟩

theorem rg_pollState : ((pollState.fetched 0).core 0).rg 1#5 = 0#64 := by decide +kernel

theorem priv_pollState : ((pollState.fetched 0).core 0).level.priv = true := by decide +kernel

theorem pc_pollState : ((pollState.fetched 0).core 0).pc = 0xE000000000000#64 := by decide +kernel

theorem owner_pollState : (pollState.fetched 0).bqSafe = false ∧ (pollState.fetched 0).qaLocal 0 = true ∧
    (pollState.fetched 0).qOwner 0 = some pollSkein ∧ some pollSkein.skein = (pollState.fetched 0).skeinOf 0 := by decide +kernel

theorem qmemWaits_pollState : (pollState.fetched 0).qmemWaits pollSkein 0 = false := by decide +kernel

/-- The touch of the queue moves the PC for the post, and finds the queue's memory on. -/
theorem qTouch_pollState : ((pollState.fetched 0).qTouch 0).qmemOn pollSkein 0 = true ∧
    (((pollState.fetched 0).qTouch 0).core 0).pc = 0xE000000000004#64 := by decide +kernel

section
variable {l : Fin 384} {qa : Nat} {gd ga : BitVec 5} {o : SkeinCfg}

/-- A QCTL of a privileged core that may name the queue goes on after its touch and its slot. -/
theorem qctl_reached {d : Dev} (k : Dev → Nat → SkeinCfg → CoreOut)
    (hp : (d.core l.val).level.priv = true) (hqa : ((d.core l.val).rg ga).toNat % 2 ^ 32 = qa) (hs : d.bqSafe = false) (h31 : qa.testBit 31 = false)
    (hl : d.qaLocal qa = true) (ho : d.qOwner (qa % 2 ^ 20) = some o) (hsk : some o.skein = d.skeinOf l.val)
    (hw : d.qmemWaits o (qa % 2 ^ 20) = false) (hon : ((d.qTouch (qa % 2 ^ 20)).charge o.skein 1).qmemOn o (qa % 2 ^ 20) = true) :
    d.qctl l.val gd ga 0#5 true k = k ((d.qTouch (qa % 2 ^ 20)).charge o.skein 1) (qa % 2 ^ 20) o := by
  unfold Dev.qctl
  rw [if_neg (by simp), hp, hqa, if_neg (by simp)]
  unfold Dev.qctlQueue
  simp only [hs, h31, hl, ho, hsk, hw, hon, Bool.not_true, Bool.and_false, Bool.false_eq_true, if_false, ne_eq, not_true_eq_false]

/-- QUERY moves the PC on from where the touch of its queue left it. -/
theorem pc_qctlQuery {s t : State} (hr : s.ready l) (ht : exec (.qctlQuery l gd ga 0#5) s = .next t)
    (hp : ((s.fetched l).core l.val).level.priv = true) (hqa : (((s.fetched l).core l.val).rg ga).toNat % 2 ^ 32 = qa)
    (hs : (s.fetched l).bqSafe = false) (h31 : qa.testBit 31 = false) (hl : (s.fetched l).qaLocal qa = true)
    (ho : (s.fetched l).qOwner (qa % 2 ^ 20) = some o) (hsk : some o.skein = (s.fetched l).skeinOf l.val)
    (hw : (s.fetched l).qmemWaits o (qa % 2 ^ 20) = false)
    (hon : (((s.fetched l).qTouch (qa % 2 ^ 20)).charge o.skein 1).qmemOn o (qa % 2 ^ 20) = true) :
    (t.dev.core l.val).pc = (((s.fetched l).qTouch (qa % 2 ^ 20)).core l.val).pc + 4#64 := by
  change execQctlQuery l gd ga 0#5 s = .next t at ht
  unfold execQctlQuery runInstr at ht
  rw [onDev_next ht, instr_ready s l _ hr]
  dsimp only
  rw [qctl_reached _ hp hqa hs h31 hl ho hsk hw hon]
  refine (counted_finish_done _ _ l _).1.trans ?_
  rw [core_updCore, if_pos rfl, wg_pc, core_of_cores (charge_cores ..)]

end

/-- The PC moves twice. -/
theorem pc_pollQuery {t : State} (ht : exec pollQuery pollState = .next t) : (t.dev.core 0).pc = 0xE000000000008#64 := by
  obtain ⟨hsafe, hloc, how, hsk⟩ := owner_pollState
  obtain ⟨hon, hpc⟩ := qTouch_pollState
  refine (pc_qctlQuery (l := 0) pollState_ready ht priv_pollState (congrArg (fun x => x.toNat % 2 ^ 32) rg_pollState) hsafe rfl hloc how hsk
    qmemWaits_pollState ((qmemOn_charge _ _ _ _ _ (by decide)).trans hon)).trans ?_
  exact (congrArg (· + 4#64) hpc).trans (by decide)

/-- Refutes O27: where QUERY's own touch of the queue discards a post whose poster is the core that runs it, the core's PC does not end at the
next word. -/
theorem not_queueControlComplete : ¬ Obligations.QueueControlComplete := by
  intro h
  obtain ⟨hsafe, hloc, how, hsk⟩ := owner_pollState
  obtain ⟨hq, -⟩ := h 0 0#5 1#5 0#5 pollState pollSkein pollState_ready priv_pollState
  rw [show (((pollState.fetched 0).core ((0 : Fin 384)).val).rg 1#5).toNat % 2 ^ 32 = 0 from by
    rw [show ((pollState.fetched 0).core ((0 : Fin 384)).val).rg 1#5 = 0#64 from rg_pollState]; rfl] at hq
  obtain ⟨⟨t, ht, -, -, -, hpc⟩, -⟩ := hq ⟨hsafe, rfl, hloc, how, hsk, fun _ => qmemWaits_pollState⟩
    ((qmemOn_charge _ _ _ _ _ (by decide)).trans qTouch_pollState.1)
  rw [show ((pollState.fetched 0).core ((0 : Fin 384)).val).pc = 0xE000000000000#64 from pc_pollState,
    show (t.dev.core ((0 : Fin 384)).val).pc = 0xE000000000008#64 from pc_pollQuery ht] at hpc
  exact absurd hpc (by decide)

end Sys2Proof.Machine
end

section
/-! PROOFS. What leaves the queue engine as it is, and what leaves a dead queue dead (03 R109): every function that a touch of a queue may call. -/
namespace Sys2Proof.Machine

/-- The state of the queue engine and of the functions it serves. -/
def Dev.engine (d : Dev) : Bq × List (Nat × Fn) := (d.bq, d.fns)

theorem bq_of_engine {e d : Dev} (h : e.engine = d.engine) : e.bq = d.bq := congrArg Prod.fst h

theorem fns_of_engine {e d : Dev} (h : e.engine = d.engine) : e.fns = d.fns := congrArg Prod.snd h

/-- What each step of a fold leaves, the fold leaves. -/
theorem foldl_keeps {α β : Type} (p : Dev → β) (f : Dev → α → Dev) (h : ∀ d x, p (f d x) = p d) (xs : List α) (d : Dev) : p (xs.foldl f d) = p d := by
  induction xs generalizing d with
  | nil => rfl
  | cons x xs ih => rw [List.foldl_cons, ih, h]

/-! ### Home cache -/

section
variable (d : Dev)

@[simp] theorem setReg_engine (a : Nat) (v : Reg32) : (d.setReg a v).engine = d.engine := rfl
@[simp] theorem count_engine (a : Nat) : (d.count a).engine = d.engine := rfl
@[simp] theorem setRegF_engine (a hi lo v : Nat) : (d.setRegF a hi lo v).engine = d.engine := rfl
@[simp] theorem updCore_engine (l : Nat) (f : Core → Core) : (d.updCore l f).engine = d.engine := rfl
@[simp] theorem setPort_engine (k : Nat) (p : BPort) : (d.setPort k p).engine = d.engine := rfl
@[simp] theorem putBytes_engine (cs : List Host.Cell) : (d.putBytes cs).engine = d.engine := rfl
@[simp] theorem setPoison_engine (n : Nat) (p : Bool) : (d.setPoison n p).engine = d.engine := rfl
@[simp] theorem hubAdd_engine (s k n : Nat) : (d.hubAdd s k n).engine = d.engine := rfl

@[simp] theorem hubAddLine_engine (line k n : Nat) : (d.hubAddLine line k n).engine = d.engine := by
  unfold Dev.hubAddLine
  split
  · exact hubAdd_engine ..
  · rfl

@[simp] theorem dramWriteback_engine (line : Nat) : (d.dramWriteback line).engine = d.engine := by
  unfold Dev.dramWriteback
  exact hubAddLine_engine ..

@[simp] theorem markStale_engine (line owner : Nat) (p : Option Nat) : (d.markStale line owner p).engine = d.engine := by
  unfold Dev.markStale
  split
  · rfl
  · rfl

@[simp] theorem hcEvict_engine (line : Nat) : (d.hcEvict line).engine = d.engine := by
  unfold Dev.hcEvict
  dsimp only
  split
  · split
    · exact dramWriteback_engine ..
    · rfl
  · rfl

@[simp] theorem hcInstall_engine (line : Nat) (dirty : Bool) : (d.hcInstall line dirty).engine = d.engine := by
  have hm (e : Dev) : (if dirty then e.markStale line 22 none else e).engine = e.engine := by
    split
    · exact markStale_engine ..
    · rfl
  unfold Dev.hcInstall
  dsimp only
  split
  · exact hm d
  · split
    · split
      · exact dramWriteback_engine ..
      · rfl
    · refine (hm _).trans ?_
      split
      · exact hcEvict_engine ..
      · rfl

@[simp] theorem bookTouch_engine (line : Nat) (dirty : Bool) : (d.bookTouch line dirty).engine = d.engine := by
  unfold Dev.bookTouch
  rw [hcInstall_engine]
  split
  · rfl
  · exact hubAddLine_engine ..

@[simp] theorem linkTouch_engine (n cell k : Nat) (dirty : Bool) : (d.linkTouch n cell k dirty).engine = d.engine := by
  unfold Dev.linkTouch
  split
  · exact foldl_keeps _ _ (fun d x => bookTouch_engine d x dirty) _ d
  · rfl

@[simp] theorem ctxLineTouch_engine (n : Nat) (dirty : Bool) : (d.ctxLineTouch n dirty).engine = d.engine := by
  unfold Dev.ctxLineTouch
  split
  · exact bookTouch_engine ..
  · rfl

@[simp] theorem cellsWritten_engine (lines : List Nat) (bs : List Byte) : (d.cellsWritten lines bs).engine = d.engine :=
  foldl_keeps _ _ (fun d i => by simp only [hcInstall_engine, setPoison_engine, putBytes_engine, markStale_engine]) _ d

/-! ### The retirement of an instruction -/

@[simp] theorem dropVec_engine (sk : Nat) : (d.dropVec sk).engine = d.engine := rfl

@[simp] theorem countDoff_engine (l : Nat) : (d.countDoff l).engine = d.engine := by
  unfold Dev.countDoff
  split
  · exact count_engine ..
  · rfl

@[simp] theorem deliverVec_engine (m : VecMsg) : (d.deliverVec m).engine = d.engine := by
  unfold Dev.deliverVec
  split
  · rfl
  split
  · rfl
  dsimp only
  split
  · rfl
  · rw [countDoff_engine, dropVec_engine]
  · rfl

@[simp] theorem doorbell_engine (q : Requester) (n : Nat) : (d.doorbell q n).engine = d.engine := by
  unfold Dev.doorbell
  dsimp only
  split
  · exact deliverVec_engine ..
  · rfl

@[simp] theorem pmuOne_engine (l : Fin 384) (lvl : Level) (evs : List (Nat × Nat)) : (d.pmuOne l lvl evs).engine = d.engine := by
  unfold Dev.pmuOne
  dsimp only
  split
  · exact doorbell_engine ..
  · rfl

@[simp] theorem pmuIdle_engine (l : Fin 384) (lvl : Level) (n : Nat) : (d.pmuIdle l lvl n).engine = d.engine := by
  induction n generalizing d with
  | zero => rfl
  | succ n ih => rw [Dev.pmuIdle, ih, pmuOne_engine]

@[simp] theorem pmuCount_engine (l : Fin 384) (lvl : Level) (evs : List (Nat × Nat)) : (d.pmuCount l lvl evs).engine = d.engine := by
  unfold Dev.pmuCount
  dsimp only
  split
  · rfl
  split
  · rfl
  · rw [pmuOne_engine, pmuIdle_engine]

@[simp] theorem traceStatus_engine : d.traceStatus.engine = d.engine := rfl

@[simp] theorem traceResume_engine (l : Nat) : (d.traceResume l).engine = d.engine := by
  unfold Dev.traceResume
  dsimp only
  split
  · split
    · rfl
    · rfl
  · rfl

@[simp] theorem tracePush_engine (bs : List Byte) : (d.tracePush bs).engine = d.engine := by
  unfold Dev.tracePush
  dsimp only
  split
  · rfl
  · split
    · rfl
    · rfl

@[simp] theorem traceRetire_engine (l : Nat) : (d.traceRetire l).engine = d.engine := by
  unfold Dev.traceRetire
  split
  · rfl
  split
  · rfl
  split
  · rw [tracePush_engine]
    exact traceResume_engine ..
  · rfl

@[simp] theorem countRetired_engine (l : Fin 384) (lvl : Level) (evs : List (Nat × Nat)) : (d.countRetired l lvl evs).engine = d.engine := by
  rw [Dev.countRetired, updCore_engine, traceRetire_engine, pmuCount_engine]

@[simp] theorem coreDone_engine (l : Nat) (gd : BitVec 5) (x : Word) : (d.coreDone l gd x).engine = d.engine :=
  (countRetired_engine ..).trans rfl

end
end Sys2Proof.Machine
end

section
/-! PROOFS. A touch of a queue that leaves it alive does nothing else (03 R109): what a death may call keeps a dead queue dead, so that a queue that
is not dead after its touch did not die in it. -/
namespace Sys2Proof.Machine

/-! ### Channels leave the engine -/

section
variable (d : Dev)

@[simp] theorem fnIssue_bq (k : Nat) (w : HostWrite) : (d.fnIssue k w).bq = d.bq := by
  unfold Dev.fnIssue
  split
  · rfl
  split
  · rfl
  · rfl

omit d in
theorem dlogMark_bq (k base first len : Nat) (d : Dev) (p : Nat) : (Dev.dlogMark k base first len d p).bq = d.bq := by
  unfold Dev.dlogMark
  split
  · exact fnIssue_bq ..
  · rfl

@[simp] theorem dlogWrite_bq (k addr n : Nat) : (d.dlogWrite k addr n).bq = d.bq := by
  rw [dlogWrite_eq]
  split
  · rfl
  · exact foldl_keeps Dev.bq _ (dlogMark_bq _ _ _ _) _ d

@[simp] theorem fnWrite_bq (k : Nat) (w : HostWrite) : (d.fnWrite k w).bq = d.bq := by
  unfold Dev.fnWrite
  split
  · rfl
  split
  · exact fnIssue_bq ..
  · rw [dlogWrite_bq, fnIssue_bq]

@[simp] theorem msix_bq (k v : Nat) : (d.msix k v).bq = d.bq := by
  unfold Dev.msix
  dsimp only
  split
  · rfl
  split
  · rfl
  · exact fnIssue_bq ..

@[simp] theorem chHeads_bq (c : Nat) : (d.chHeads c).bq = d.bq := rfl

@[simp] theorem chRecord_bq (c kind : Nat) (st : Status)
    (aged : Bool) (index len data : Nat) : (d.chRecord c kind st aged index len data).bq = d.bq := by
  unfold Dev.chRecord
  dsimp only
  split
  · rw [updChan_bq, msix_bq, updChan_bq, fnWrite_bq]
  · rw [updChan_bq, fnWrite_bq]

@[simp] theorem chOwed_bq (c : Nat) : (d.chOwed c).bq = d.bq := by
  unfold Dev.chOwed
  split
  · rfl
  split
  · rfl
  · rw [chRecord_bq, updChan_bq]

@[simp] theorem chRetire_bq (c n : Nat) : (d.chRetire c n).bq = d.bq := by
  induction n generalizing d with
  | zero => rfl
  | succ n ih =>
    unfold Dev.chRetire
    split
    · rfl
    split
    · rw [ih, chHeads_bq]
      split
      · rfl
      · rw [chRecord_bq, updChan_bq]
    · rfl

@[simp] theorem chDescDone_bq (c pos : Nat) (st : Status) : (d.chDescDone c pos st).bq = d.bq := by
  rw [Dev.chDescDone, chOwed_bq, chRetire_bq, updChan_bq]

/-! ### Messages and ends leave it -/

@[simp] theorem countStatus_bq (sk : Nat) (st : Status) : (d.countStatus sk st).bq = d.bq := by cases st <;> rfl

@[simp] theorem hankSay_bq (dir sk sys : Nat) (m : HankMsg) : (d.hankSay dir sk sys m).bq = d.bq := rfl

@[simp] theorem refuse_bq (sk sys n qa grant off seq : Nat) (st : Status) : (d.refuse sk sys n qa grant off seq st).bq = d.bq := by
  unfold Dev.refuse
  dsimp only
  split
  · rfl
  · rfl

@[simp] theorem coreDone_bq (l : Nat) (gd : BitVec 5) (x : Word) : (d.coreDone l gd x).bq = d.bq := bq_of_engine (coreDone_engine ..)

@[simp] theorem failPoster_bq (n : Nat) (p : Poster) (st : Status) : (d.failPoster n p st).bq = d.bq := by
  cases p with
  | core l gd => exact (coreDone_bq ..).trans (countStatus_bq ..)
  | chan c pos => exact (chDescDone_bq ..).trans (countStatus_bq ..)
  | hank sk sys grant off seq =>
    show ((if st = .state then d.count Reg.BQ_STATE_REJECT else d).refuse sk sys n (d.qaOf n) grant off seq st).bq = d.bq
    rw [refuse_bq]
    split
    · rfl
    · rfl
  | engine sk => rfl
  | gone sk => rfl

@[simp] theorem endFlushers_bq (n : Nat) (st : Status) : (d.endFlushers n st).bq = d.bq := by
  refine foldl_keeps _ _ (fun d e => ?_) _ d
  split
  · split
    · exact (coreDone_bq ..).trans (countStatus_bq ..)
    · rfl
  · rfl

end

/-! ### A dead queue stays dead -/

/-- Each queue that is dead in `d` is dead in `e`. -/
def Dev.DeadIn (d e : Dev) : Prop := ∀ n, (d.q n).dead = true → (e.q n).dead = true

theorem Dev.DeadIn.trans {a b c : Dev} (h : a.DeadIn b) (k : b.DeadIn c) : a.DeadIn c := fun n hn => k n (h n hn)

theorem deadIn_of_ctx {d e : Dev} (h : e.bq.ctx = d.bq.ctx) : d.DeadIn e := fun n hn => by
  unfold Dev.q at hn ⊢
  rw [h, hn]

theorem deadIn_of_bq {d e : Dev} (h : e.bq = d.bq) : d.DeadIn e := deadIn_of_ctx (congrArg Bq.ctx h)

theorem deadIn_refl (d : Dev) : d.DeadIn d := fun _ h => h

theorem deadIn_count (d : Dev) (b : Bool) (a : Nat) : d.DeadIn (if b then d.count a else d) := deadIn_of_bq (by cases b <;> rfl)

theorem deadIn_foldl {α : Type} (f : Dev → α → Dev) (h : ∀ (d : Dev) x, d.DeadIn (f d x)) (xs : List α) (d : Dev) : d.DeadIn (xs.foldl f d) := by
  induction xs generalizing d with
  | nil => exact deadIn_refl d
  | cons x xs ih => exact (h d x).trans (ih _)

theorem deadIn_updQ (d : Dev) (n : Nat) (f : QCtx → QCtx) (h : ∀ c, c.dead = true → (f c).dead = true) : d.DeadIn (d.updQ n f) := fun m hm => by
  rw [q_updQ]
  split
  · next he => exact h _ (by rw [he]; exact hm)
  · exact hm

theorem reclaim_dead (c : QCtx) : c.reclaim.dead = c.dead := rfl
theorem mark_dead (c : QCtx) (own : Nat) (st : CellSt) : (c.mark own st).dead = c.dead := rfl

theorem deadIn_markReclaim (d : Dev) (n own : Nat) (st : CellSt) : d.DeadIn (d.updQ n fun c => (c.mark own st).reclaim) :=
  deadIn_updQ _ _ _ fun c h => by rw [reclaim_dead, mark_dead, h]

/-- A context that is dead in a sparse map still is once the map's other fields change and what is at reset is dropped. -/
theorem mget_dead_map (g : QCtx → QCtx) (hg : ∀ c, (g c).dead = c.dead) (m : List (Nat × QCtx)) (n : Nat) (h : (mget QCtx.reset m n).dead = true) :
    (mget QCtx.reset ((m.map fun e => (e.1, g e.2)).filter fun e => e.2 != QCtx.reset) n).dead = true := by
  induction m with
  | nil => exact h
  | cons e m ih =>
    obtain ⟨k, c⟩ := e
    rw [List.map_cons, List.filter_cons]
    by_cases hk : k = n
    · rw [mget, if_pos hk] at h
      have hne : (g c != QCtx.reset) = true := by
        rw [bne_iff_ne]
        intro he
        have hd := (hg c).trans h
        rw [he] at hd
        exact nomatch hd
      rw [if_pos hne, mget, if_pos hk, hg, h]
    · rw [mget, if_neg hk] at h
      split
      · rw [mget, if_neg hk, ih h]
      · exact ih h

theorem deadIn_unregister (d : Dev) (w : QWaiter) : d.DeadIn (d.unregister w) := fun n hn =>
  mget_dead_map (fun c => { c with waiters := c.waiters.filter (fun x => x != w) }) (fun _ => rfl) _ n hn

theorem deadIn_discardPosts (d : Dev) (n : Nat) (st : Status) (cs : CellSt) : d.DeadIn (d.discardPosts n st cs) := by
  unfold Dev.discardPosts
  refine Dev.DeadIn.trans (b := { d with bq := { d.bq with posts := d.bq.posts.filter fun p => p.q != n } }) (deadIn_of_ctx rfl)
    (deadIn_foldl _ (fun d p => (deadIn_markReclaim d n p.own cs).trans (deadIn_of_bq ?_)) _ _)
  rw [failPoster_bq]
  split
  · rfl
  · rfl

theorem revokeGrant_ctx (d : Dev) (i : Nat) : (d.revokeGrant i).bq.ctx = d.bq.ctx := by
  unfold Dev.revokeGrant
  split
  · rfl
  · rfl

theorem deadIn_revokeAll (d : Dev) (n : Nat) (st : CellSt) : d.DeadIn (d.revokeAll n st) :=
  deadIn_foldl _ (fun d (e : Nat × Grant) => (deadIn_of_ctx (revokeGrant_ctx d e.1)).trans (deadIn_markReclaim _ n e.2.own st)) _ d

theorem deadIn_endGrantReqs (d : Dev) (n : Nat) (st : Status) : d.DeadIn (d.endGrantReqs n st) := by
  refine Dev.DeadIn.trans (b := { d with bq := { d.bq with grantReqs := d.bq.grantReqs.filter fun r => r.q != n } }) (deadIn_of_ctx rfl)
    (deadIn_foldl _ (fun d r => deadIn_of_bq ?_) _ _)
  rw [hankSay_bq]
  split
  · rfl
  · rfl

theorem deadIn_chError (d : Dev) (c : Nat) (st : Status) : d.DeadIn (d.chError c st) := by
  unfold Dev.chError
  dsimp only
  split
  · exact deadIn_refl d
  · refine Dev.DeadIn.trans (deadIn_unregister d (.drain c)) (deadIn_of_bq ?_)
    rw [chOwed_bq, chRetire_bq, chOwed_bq, updChan_bq]
    rfl

theorem deadIn_errorDrains (d : Dev) (n : Nat) (st : Status) : d.DeadIn (d.errorDrains n st) :=
  deadIn_foldl _ (fun d w => by
    cases w with
    | drain c => exact deadIn_chError d c st
    | core l => exact deadIn_refl d) _ d

theorem deadIn_endWait (d : Dev) (l : Nat) (gd : BitVec 5) (x : Word) : d.DeadIn (d.endWait l gd x) :=
  (deadIn_unregister d (.core l)).trans (deadIn_of_bq (coreDone_bq ..))

theorem deadIn_endWaiters (d : Dev) (n : Nat) (st : Status) (readOnly : Bool) : d.DeadIn (d.endWaiters n st readOnly) := by
  refine deadIn_foldl _ (fun d w => ?_) _ d
  split
  · exact deadIn_refl d
  split
  · split
    · exact deadIn_refl d
    · exact (deadIn_of_bq (countStatus_bq ..)).trans (deadIn_endWait _ _ _ _)
  · exact deadIn_refl d

/-- A queue that dies is dead. -/
theorem qDie_dead (d : Dev) (n : Nat) : ((d.qDie n).q n).dead = true := by
  unfold Dev.qDie
  split
  · next h => exact h
  · refine (((((deadIn_discardPosts _ n .poison .free).trans (deadIn_revokeAll _ n .free)).trans (deadIn_endGrantReqs _ n .poison)).trans
      (deadIn_errorDrains _ n .poison)).trans ((deadIn_of_bq (endFlushers_bq ..)).trans (deadIn_endWaiters _ n .poison false))) n ?_
    rw [q_updQ, if_pos rfl]

theorem deadIn_qDie (d : Dev) (n : Nat) : d.DeadIn (d.qDie n) := by
  unfold Dev.qDie
  split
  · exact deadIn_refl d
  · exact ((((((deadIn_updQ d n _ fun c _ => rfl).trans (deadIn_discardPosts _ n .poison .free)).trans (deadIn_revokeAll _ n .free)).trans
      (deadIn_endGrantReqs _ n .poison)).trans (deadIn_errorDrains _ n .poison)).trans
      ((deadIn_of_bq (endFlushers_bq ..)).trans (deadIn_endWaiters _ n .poison false)))

theorem ctxUse_ctx (d : Dev) (n : Nat) : (d.ctxUse n).bq.ctx = d.bq.ctx := by
  unfold Dev.ctxUse
  dsimp only
  split
  · rfl
  · split
    · next x _ =>
      have h := congrArg Bq.ctx (bq_of_engine (ctxLineTouch_engine d x true))
      exact h
    · rfl

/-- A touch uses the queue's context, and the queue may die of what is found. -/
theorem qTouch_cases (d : Dev) (n : Nat) : d.qTouch n = d.ctxUse n ∨ d.qTouch n = (d.ctxUse n).qDie n := by
  unfold Dev.qTouch
  dsimp only
  cases (d.ctxUse n).qOwner n with
  | none => exact .inl rfl
  | some o =>
    dsimp only
    split
    · exact .inr rfl
    · exact .inl rfl

theorem deadIn_qTouch (d : Dev) (n : Nat) : d.DeadIn (d.qTouch n) := by
  have hu : d.DeadIn (d.ctxUse n) := deadIn_of_ctx (ctxUse_ctx d n)
  obtain h | h := qTouch_cases d n
  · rw [h]
    exact hu
  · rw [h]
    exact hu.trans (deadIn_qDie _ n)

/-- A queue that its touch leaves alive: nothing but its context's place in the cache changed. -/
theorem qTouch_alive {d : Dev} {n : Nat} (h : ((d.qTouch n).q n).dead = false) : d.qTouch n = d.ctxUse n := by
  obtain hq | hq := qTouch_cases d n
  · exact hq
  · rw [hq, qDie_dead] at h
    exact nomatch h

theorem qTouch_alive_cores {d : Dev} {n : Nat} (h : ((d.qTouch n).q n).dead = false) : (d.qTouch n).cores = d.cores := by
  rw [qTouch_alive h]
  exact (ctxUse_kept d n).2

/-- The same of all the queues of a group. -/
theorem foldl_qTouch_alive_cores (ms : List (Nat × Nat)) (d : Dev)
    (h : ∀ x ∈ ms, ((ms.foldl (fun d x => d.qTouch x.2) d).q x.2).dead = false) : (ms.foldl (fun d x => d.qTouch x.2) d).cores = d.cores := by
  induction ms generalizing d with
  | nil => rfl
  | cons x xs ih =>
    rw [List.foldl_cons] at h ⊢
    have hx : ((d.qTouch x.2).q x.2).dead = false := by
      by_contra hne
      have hd := deadIn_foldl _ (fun d (x : Nat × Nat) => deadIn_qTouch d x.2) xs (d.qTouch x.2) x.2 (by simpa using hne)
      rw [h x List.mem_cons_self] at hd
      exact nomatch hd
    rw [ih _ fun y hy => h y (List.mem_cons_of_mem _ hy), qTouch_alive_cores hx]

end Sys2Proof.Machine
end

section
/-! PROOFS. Queue reads, tries and waits, and the ends of waits (03 R89 to R99). -/
namespace Sys2Proof.Machine

/-! ### What an instruction's way to the engine leaves of its core -/

/-- What a queue instruction keeps of its core up to its end: the PC, the wait, and what its retirement depends on. -/
def Core.control (c : Core) : Word × Wait × (Reg32 × Bool × Bool) × Pmu := (c.pc, c.wait, c.runCtl, c.pmu)

theorem XlatOnly.control_eq {l : Nat} {d e : Dev} (h : XlatOnly l d e) : (e.core l).control = (d.core l).control := by
  unfold Core.control
  rw [h.pc_eq, h.wait_eq, h.runCtl_eq, h.pmu_eq]

theorem control_of_cores {d e : Dev} (h : e.cores = d.cores) (l : Nat) : (e.core l).control = (d.core l).control := by rw [core_of_cores h]

theorem wg_control (c : Core) (r : BitVec 5) (x : Word) : (c.wg r x).control = c.control := by
  unfold Core.control Core.wg
  split
  · rfl
  · rfl

theorem xlatOnly_fetch (d : Dev) (l : Nat) : XlatOnly l d (d.fetch l).1 := by
  have ht := xlatOnly_translate d l (d.core l).pc .fetch false
  unfold Dev.fetch
  dsimp only
  split
  · next e h => rw [h] at ht; exact ht
  · next d1 x h =>
    rw [h] at ht
    split
    · exact ht
    split
    · exact ht
    · exact ht
    · exact ht
    · have hr : (if x.mt = .nc then d1.ncReach l (x.pa / 64) else d1.coreReach l (x.pa / 64) false).1.cores = d1.cores := by
        split
        · exact ncReach_cores ..
        · exact coreReach_cores ..
      split
      all_goals
        rename_i he
        rw [he] at hr
        have hx := ht.trans (xlatOnly_of_cores hr)
      · exact hx
      · exact hx
      · exact hx
      · split
        · exact hx
        · refine hx.trans (xlatOnly_of_cores ?_)
          dsimp only
          split
          · exact (ncRead_kept ..).2
          · exact coreLine_cores ..

theorem control_fetched (s : State) (l : Fin 384) : ((s.fetched l).core l.val).control = (s.dev.core l.val).control := (xlatOnly_fetch ..).control_eq

/-- A core that is ready waits for nothing. -/
theorem wait_fetched {s : State} {l : Fin 384} (hs : s.ready l) : ((s.fetched l).core l.val).wait = .none := by
  have h := hs.1
  unfold Dev.canRun at h
  simp only [Bool.and_eq_true, decide_eq_true_eq] at h
  exact (congrArg (fun x => x.2.1) (control_fetched s l)).trans h.1.2

theorem xlatOnly_xlPages (d : Dev) (l : Nat) (k : AccessKind) (vas : List Word) : XlatOnly l d (d.xlPages l k vas).1 := by
  induction vas generalizing d with
  | nil => exact .refl l d
  | cons va vas ih =>
    have ht := xlatOnly_translate d l va k false
    unfold Dev.xlPages
    split
    · next h => rw [h] at ht; exact ht
    · next d1 x h =>
      rw [h] at ht
      have hi := ht.trans (ih d1)
      split
      · next h2 => rw [h2] at hi; exact hi
      · next h2 => rw [h2] at hi; exact hi

theorem xlatOnly_spillPages (d : Dev) (l : Nat) (va : Word) : XlatOnly l d (d.spillPages l va).1 := by
  unfold Dev.spillPages
  split
  · exact .refl l d
  split
  · exact .refl l d
  · exact xlatOnly_xlPages ..

theorem xlatOnly_drained (d : Dev) (l : Nat) : XlatOnly l d (d.drained l).1 := xlatOnly_drain d l

theorem bufReach_cores (d : Dev) (lines : List Nat) : (d.bufReach lines).1.cores = d.cores := by
  induction lines generalizing d with
  | nil => rfl
  | cons x xs ih =>
    have h := hubReach_cores d 16 x .rdnc
    unfold Dev.bufReach
    split
    · next he =>
      rw [he] at h
      exact (ih _).trans h
    · next he =>
      rw [he] at h
      exact h

/-- Pages whose A and D bits are set need no setting. -/
theorem withAds_none (d : Dev) (l : Nat) {xs : List Xlat} (h : ∀ x ∈ xs, x.ad = none) (f : Dev → CoreOut) : d.withAds l xs f = f d := by
  unfold Dev.withAds
  rw [if_pos]
  rw [List.all_eq_true]
  intro x hx
  rw [h x hx]
  rfl

/-! ### An instruction that ends at the engine -/

/-- A queue instruction that ends at once: gd holds the result, the PC moves on, and the core waits for nothing. -/
theorem completes_qEnd {c : Instr} {l : Fin 384} {s : State} {f : Dev → CoreOut} {e : Dev} {gd : BitVec 5} {x : Word} (he : exec c s = runInstr l s f)
    (hs : s.ready l) (hf : f (s.fetched l) = e.qEnd l.val gd x) (hc : (e.core l.val).control = ((s.fetched l).core l.val).control) :
    Completes c s fun t => (t.core l.val).rg gd = (if gd = 0#5 then 0#64 else x) ∧ (t.core l.val).pc = ((s.fetched l).core l.val).pc + 4#64 ∧
      (t.core l.val).wait = .none := by
  have hcore : ((e.updCore l.val fun c => c.wg gd x).core l.val) = (e.core l.val).wg gd x := by rw [core_updCore, if_pos rfl]
  have hctl : ((e.updCore l.val fun c => c.wg gd x).core l.val).control = ((s.fetched l).core l.val).control := by rw [hcore, wg_control, hc]
  obtain ⟨hpc, hw, hr, hp⟩ : _ ∧ _ ∧ _ ∧ _ := by
    simp only [Core.control, Prod.mk.injEq] at hctl
    exact hctl
  refine (completes_access he hs hf hr hp).imp fun t ht => ?_
  rw [ht.1]
  refine ⟨?_, congrArg (· + 4#64) hpc, hw.trans (wait_fetched hs)⟩
  show ((e.updCore l.val fun c => c.wg gd x).core l.val).rg gd = _
  rw [hcore, rg_wg]

/-! ### Delivery -/

section
variable {d : Dev} {l n m slot : Nat} {spill : List Nat} {it : QItem}

/-- The lines of a spill buffer that an item reaches. -/
def QItem.spillOf (it : QItem) (spill : List Nat) : List Nat := if it.len ≤ 256 then [] else spill.take ((it.len - 256 + 63) / 64)

/-- What stands in the way of an item's delivery: nothing. -/
def Dev.mayDeliver (d : Dev) (l : Nat) (spill : List Nat) (it : QItem) (n : Nat) : Prop :=
  (it.len ≤ 256 ∨ spill ≠ []) ∧ d.spillFails l (it.spillOf spill) = none ∧ d.itemPoisoned n it = false ∧ (d.bufReach (it.spillOf spill)).2 = true

theorem deliver_done (h : d.mayDeliver l spill it n) : ∃ e, d.deliver l n m slot spill it = .done e (qword it.seq it.prio it.len m .ok) ∧
    (e.core l).control = (d.core l).control := by
  obtain ⟨hl, hf, hp, hr⟩ := h
  have hc := bufReach_cores d (it.spillOf spill)
  unfold Dev.deliver
  dsimp only
  rw [if_neg (by rintro ⟨h1, h2⟩; exact hl.elim (fun h => by omega) fun h => h h2)]
  unfold QItem.spillOf at hf hr hc
  rw [hf, hp]
  dsimp only
  rw [if_neg (by decide)]
  generalize d.bufReach (if it.len ≤ 256 then [] else spill.take ((it.len - 256 + 63) / 64)) = r at hr hc ⊢
  obtain ⟨d1, b⟩ := r
  dsimp only at hr hc
  subst hr
  refine ⟨_, rfl, ?_⟩
  refine (control_of_cores (foldl_keeps Dev.cores _ (fun d i => homeStore_cores ..) _ _) l).trans ?_
  rw [core_updCore, if_pos rfl, core_of_cores (takeItem_kept ..).2]
  exact control_of_cores hc l

end

/-! ### QREAD and QTRY -/

section
variable {d d1 : Dev} {l slot : Nat} {gd ga gb : BitVec 5} {xs : List Xlat} {b : Bool}

/-- A read whose spill buffer passes its checks reaches the engine. -/
theorem qread_reached (h : d.spillPages l ((d.core l).rg gb) = (d1, .ok xs)) (hn : xs.any Xlat.notBuffer = false) (ha : ∀ x ∈ xs, x.ad = none)
    (hd : (d1.drained l).2 = true) :
    d.qread l gd ga gb slot b = (d1.drained l).1.qreadAt l gd (((d.core l).rg ga).toNat % 2 ^ 32) slot (spillLines ((d.core l).rg gb) xs) b := by
  unfold Dev.qread
  dsimp only
  rw [h]
  dsimp only
  rw [hn, hd, withAds_none _ _ ha]
  rfl

variable {qa n : Nat} {spill : List Nat} {o : SkeinCfg}

/-- What a read of a local queue passes at the engine before it selects. -/
structure Dev.Readable (d : Dev) (l qa : Nat) (o : SkeinCfg) : Prop where
  safe : d.bqSafe = false
  plain : qa.testBit 31 = false
  here : d.qaLocal qa = true
  owner : d.qOwner (qa % 2 ^ 20) = some o
  right : d.mayQread l ((d.skeinOf l).getD 0) (qa % 2 ^ 20) = true
  waits : d.qmemOn o (qa % 2 ^ 20) = true → d.qmemWaits o (qa % 2 ^ 20) = false
  on : (d.qTouch (qa % 2 ^ 20)).qmemOn o (qa % 2 ^ 20) = true
  alive : ((d.qTouch (qa % 2 ^ 20)).q (qa % 2 ^ 20)).dead = false
  enabled : ((d.qTouch (qa % 2 ^ 20)).q (qa % 2 ^ 20)).en = true

/-- What a read does with the item that it selects. -/
def Dev.readItem (d : Dev) (l : Nat) (gd : BitVec 5) (n slot : Nat) (spill : List Nat) (it : QItem) : CoreOut :=
  match d.deliver l n 0 slot spill it with
  | .wait d => .stay d
  | .left d x => d.qEnd l gd x
  | .done d x => (d.serveGrants n).qEnd l gd x

theorem qreadAt_of_item (h : d.Readable l qa o) {it : QItem} (hi : (d.qTouch (qa % 2 ^ 20)).select (qa % 2 ^ 20) = some it) :
    d.qreadAt l gd qa slot spill b = (d.qTouch (qa % 2 ^ 20)).readItem l gd (qa % 2 ^ 20) slot spill it := by
  have hw := Bool.and_eq_false_imp.2 h.waits
  unfold Dev.qreadAt
  simp only [h.safe, h.plain, h.here, h.owner, h.right, hw, h.on, h.alive, h.enabled, hi, Bool.not_true, Bool.false_eq_true, if_false]
  rfl

theorem qreadAt_of_none (h : d.Readable l qa o) (hi : (d.qTouch (qa % 2 ^ 20)).select (qa % 2 ^ 20) = none) :
    d.qreadAt l gd qa slot spill false = (d.qTouch (qa % 2 ^ 20)).qFail l gd .empty := by
  have hw := Bool.and_eq_false_imp.2 h.waits
  unfold Dev.qreadAt
  simp only [h.safe, h.plain, h.here, h.owner, h.right, hw, h.on, h.alive, h.enabled, hi, Bool.not_true, Bool.false_eq_true, if_false]

/-- An item that nothing holds back: the read ends with its result word. -/
theorem readItem_done {it : QItem} (h : d.mayDeliver l spill it n) : ∃ e : Dev,
    d.readItem l gd n slot spill it = e.qEnd l gd (qword it.seq it.prio it.len 0 .ok) ∧
    (e.core l).control = (d.core l).control := by
  obtain ⟨e, he, hc⟩ := deliver_done (m := 0) (slot := slot) h
  refine ⟨e.serveGrants n, ?_, (control_of_cores (serveGrants_kept e n).2 l).trans hc⟩
  unfold Dev.readItem
  rw [he]

/-- The core of a read keeps its control up to the touch of a queue that stays alive. -/
theorem control_reached (h : d.spillPages l va = (d1, .ok xs)) {n : Nat} (ha : (((d1.drained l).1.qTouch n).q n).dead = false) :
    (((d1.drained l).1.qTouch n).core l).control = (d.core l).control := by
  have hx := xlatOnly_spillPages d l va
  rw [h] at hx
  exact (control_of_cores (qTouch_alive_cores ha) l).trans (hx.trans (xlatOnly_drained d1 l)).control_eq

end

/-! ### QWAIT -/

/-- A wait of a core on a group whose members it may read and whose memory is on: the member picked gives its item. -/
theorem qwaitAt_of_item {d : Dev} {l gi slot i n : Nat} {gd : BitVec 5} {mask : Word} {spill : List Nat} {o : SkeinCfg} {it : QItem}
    (hs : d.bqSafe = false) (ho : d.cfgOf l = some o) {e d3 : Dev} (he : d.groupTouch o gi false = e) {g : QGroup}
    (hg : (mget none e.bq.groups ((d.skeinOf l).getD 0 * 4096 + gi)).getD ⟨[], 0, 0⟩ = g)
    (hd : (g.chosen mask).foldl (fun d x => d.qTouch x.2) e = d3) (hr : ∀ x ∈ g.chosen mask, e.mayQread l ((d.skeinOf l).getD 0) x.2 = true)
    (hon : ∀ x ∈ g.chosen mask, ∀ o, d3.qOwner x.2 = some o → d3.qmemOn o x.2 = true) (ha : ∀ x ∈ g.chosen mask, (d3.q x.2).dead = false)
    (hp : d3.pickMember g.rot (g.chosen mask) = some (i, n, it)) (ht : d3.mayDeliver l spill it n) :
    ∃ e' : Dev, d.qwaitAt l gd gi mask slot spill = e'.qEnd l gd (qword it.seq it.prio it.len i .ok) ∧ (e'.core l).control = (d3.core l).control := by
  obtain ⟨d4, hdel, hc⟩ := deliver_done (m := i) (slot := slot) ht
  have hfind : ((g.chosen mask).find? fun x => !e.mayQread l ((d.skeinOf l).getD 0) x.2) = none := by
    rw [List.find?_eq_none]
    intro x hx
    rw [hr x hx]
    decide
  have hany : ((g.chosen mask).any fun x => match d3.qOwner x.2 with | some o => !d3.qmemOn o x.2 | none => false) = false := by
    rw [List.any_eq_false]
    intro x hx
    split
    · next o hq => rw [hon x hx o hq]; decide
    · decide
  have hdead : ((g.chosen mask).find? fun x => (d3.q x.2).dead) = none := by
    rw [List.find?_eq_none]
    intro x hx
    rw [ha x hx]
    decide
  have hne : g.chosen mask ≠ [] := by
    intro h0
    rw [h0] at hp
    exact nomatch hp
  refine ⟨(({ d4 with bq := { d4.bq with groups := mset none d4.bq.groups ((d.skeinOf l).getD 0 * 4096 + gi) (some { g with rot := (i + 1) % 64 }) } }
    : Dev).serveGrants n), ?_, (control_of_cores (serveGrants_kept _ n).2 l).trans hc⟩
  unfold Dev.qwaitAt
  simp only [hs, ho, he, hg, hfind, hd, Bool.false_eq_true, if_false, hdead, hp, hdel]
  rw [if_neg (by rw [Bool.not_eq_true]; exact hany), if_neg hne]

/-! ### The ends of waits -/

section
variable {l : Fin 384} {s : State} {q : QWait}

theorem lcn_val (l : Fin 384) : lcn l.val = l := Fin.ext (Nat.mod_eq_of_lt l.isLt)

/-- A core at whose retirement nothing else acts: its counters do not count, and neither a step nor a drain is due. -/
def Core.plain (c : Core) : Prop := c.pmu.idle = true ∧ c.stepArmed = false ∧ c.draining = false

theorem plain_of_quiet {d : Dev} {l : Nat} (hq : d.quiet l = true) : (d.core l).plain := by
  refine ⟨pmu_idle_of_quiet hq, ?_⟩
  unfold Dev.quiet at hq
  simp only [Bool.and_eq_true, Bool.not_eq_true'] at hq
  exact ⟨hq.1.2, hq.2⟩

/-- A core whose queue instruction completes: gd holds the result, the PC moves on, and the core waits for nothing. -/
theorem core_coreDone {d : Dev} (h : (d.core l.val).plain) (gd : BitVec 5) (x : Word) : (d.coreDone l.val gd x).core l.val =
    { (d.core l.val).wg gd x with wait := .none, pc := (d.core l.val).pc + 4#64 } := by
  obtain ⟨hi, hst, hdr⟩ := h
  unfold Dev.coreDone
  dsimp only
  rw [lcn_val, core_finish_done (by rw [core_updCore, if_pos rfl]; exact (congrArg Pmu.idle (wg_pmu ..)).trans hi), core_updCore, if_pos rfl,
    core_updCore, if_pos rfl]
  refine (next_of_runCtl (c := d.core l.val) ?_ hst hdr).trans (by rw [wg_pc])
  show ((d.core l.val).wg gd x).runCtl = _
  unfold Core.runCtl
  rw [wg_pmu, wg_stepArmed, wg_draining]

/-- The limit of a read's wait: the read ends with EMPTY. -/
theorem completes_waitLimitExpire {t : Nat} (hw : (s.dev.core l.val).wait = .queue q) (ht : q.limit = some t) (hq : s.dev.quiet l.val = true) :
    Completes (.waitLimitExpire l) s fun d => (d.core l.val).rg q.gd = (if q.gd = 0#5 then 0#64 else 10#64) ∧
      (d.core l.val).pc = (s.dev.core l.val).pc + 4#64 ∧ (d.core l.val).wait = .none := by
  have he : exec (.waitLimitExpire l) s = .next (s.withDev ((s.dev.timeTo (q.since + t)).endWait l.val q.gd (qstat .empty))) := by
    show execWaitLimitExpire l s = _
    unfold execWaitLimitExpire onDev
    dsimp only
    rw [hw]
    dsimp only
    rw [ht]
  have hc := core_coreDone (d := (s.dev.timeTo (q.since + t)).unregister (.core l.val)) (plain_of_quiet hq) q.gd (qstat .empty)
  refine completes_of_eq he ?_
  show ((((s.dev.timeTo (q.since + t)).unregister (.core l.val)).coreDone l.val q.gd (qstat .empty)).core l.val).rg q.gd = _ ∧ _
  rw [Dev.endWait, hc]
  exact ⟨rg_wg .., rfl, rfl⟩

/-- What a filter of waiters leaves does not list the waiter taken out, in whichever entry of a sparse map stands for a queue. -/
theorem waiters_mget_map (w : QWaiter) (m : List (Nat × QCtx)) (n : Nat) : w ∉ (mget QCtx.reset ((m.map fun e =>
    (e.1, ({ e.2 with waiters := e.2.waiters.filter (fun x => x != w) } : QCtx))).filter fun e => e.2 != QCtx.reset) n).waiters := by
  induction m with
  | nil => exact List.not_mem_nil
  | cons e m ih =>
    rw [List.map_cons, List.filter_cons]
    split
    · rw [mget]
      split
      · simp
      · exact ih
    · exact ih

/-- No context lists a waiter that was taken out. -/
theorem waiters_unregister (d : Dev) (w : QWaiter) (n : Nat) : w ∉ ((d.unregister w).q n).waiters := waiters_mget_map w d.bq.ctx n

theorem core_unwait (d : Dev) (l : Nat) : (d.unwait l).core l = { d.core l with wait := .none } := by
  unfold Dev.unwait
  dsimp only
  rw [core_updCore, if_pos rfl]
  rfl

/-- A wait that is left for a vector or a reel. -/
theorem completes_waitCancel (hw : (s.dev.core l.val).wait = .queue q ∨ (s.dev.core l.val).wait = .remote)
    (h : (s.dev.deliverable l.val).isSome ∨ mget false s.dev.reeling l.val = true) :
    Completes (.waitCancel l) s fun t => t.core l.val = { s.dev.core l.val with wait := .none } ∧ ∀ n, .core l.val ∉ (t.q n).waiters := by
  have hg : (!((s.dev.deliverable l.val).isSome || mget false s.dev.reeling l.val)) = false := by
    cases h with
    | inl h => rw [h]; rfl
    | inr h => rw [h, Bool.or_true]; rfl
  have he : exec (.waitCancel l) s = .next (s.withDev (s.dev.unwait l.val)) := by
    show execWaitCancel l s = _
    unfold execWaitCancel onDev
    dsimp only
    obtain hw | hw := hw
    · rw [hg, hw]
      rfl
    · rw [hg, hw]
      rfl
  exact completes_of_eq he ⟨core_unwait .., fun n => waiters_unregister s.dev (.core l.val) n⟩

end

/-- Settles O25: a read, a try and a wait follow their checks to the delivery, which leaves the core's control; a touch that leaves the queues alive
does nothing else. -/
theorem readsComplete : Obligations.ReadsComplete := by
  intro l gd ga gb slot s
  dsimp only
  refine ⟨?_, ?_, ?_, ?_⟩
  · intro hs d1 xs hsp o hsafe h31 hloc how hr hw hon hdead hen
    obtain ⟨hp, hn, ha, hd⟩ := hsp
    have hx := control_reached hp hdead
    have hR : Dev.Readable _ _ _ _ := ⟨hsafe, h31, hloc, how, hr, hw, hon, hdead, hen⟩
    have hread (b : Bool) := qread_reached (gd := gd) (ga := ga) (slot := slot.toNat) (b := b) hp hn ha hd
    refine ⟨fun it hi ht => ?_, fun hi => ?_⟩
    · obtain ⟨e, he, hc⟩ := readItem_done (gd := gd) (slot := slot.toNat) (show Dev.mayDeliver _ _ _ _ _ from ht)
      exact ⟨completes_qEnd rfl hs (((hread true).trans (qreadAt_of_item hR hi)).trans he) (hc.trans hx),
        completes_qEnd rfl hs (((hread false).trans (qreadAt_of_item hR hi)).trans he) (hc.trans hx)⟩
    · exact completes_qEnd rfl hs ((hread false).trans (qreadAt_of_none hR hi)) hx
  · intro hs d1 xs hsp o i n it hsafe hcfg hr hon ha hp ht
    obtain ⟨hpg, hn, had, hd⟩ := hsp
    obtain ⟨e, he, hc⟩ := qwaitAt_of_item (gd := gd) (slot := slot.toNat) hsafe hcfg rfl rfl rfl hr hon ha hp ht
    have hx := xlatOnly_spillPages (s.fetched l) l.val (((s.fetched l).core l.val).rg ga &&& ~~~0xFFF#64)
    rw [hpg] at hx
    refine completes_qEnd rfl hs (e := e) ?_ (hc.trans ((control_of_cores ((foldl_qTouch_alive_cores _ _ ha).trans (groupTouch_kept ..).2) l.val).trans
      (hx.trans (xlatOnly_drained d1 l.val)).control_eq))
    dsimp only
    rw [hpg]
    dsimp only
    rw [hn, hd, withAds_none _ _ had]
    exact he
  · intro q t hw hgd ht hq
    subst hgd
    exact completes_waitLimitExpire hw ht hq
  · intro q hw h
    exact completes_waitCancel hw h

end Sys2Proof.Machine
end

section
/-! PROOFS. Posts and their ends (03 R85 to R88, 15 R490). -/
namespace Sys2Proof.Machine

/-! ### A post that is accepted -/

/-- What a post of a core to a local queue passes before it is accepted: the checks of R112, with the item's lines at the engine in `d5`. -/
structure Dev.Accepts (d : Dev) (l qa maxLen len prio : Nat) (lines : List Nat) (o : SkeinCfg) (d5 : Dev) : Prop where
  safe : d.bqSafe = false
  plain : qa.testBit 31 = false
  here : d.qaLocal qa = true
  owner : d.qOwner (qa % 2 ^ 20) = some o
  right : d.mayPost ((d.skeinOf l).getD 0) (qa % 2 ^ 20) = true
  waits : d.qmemOn o (qa % 2 ^ 20) = true → d.qmemWaits o (qa % 2 ^ 20) = false
  fits : len ≤ maxLen
  passes : (d.qTouch (qa % 2 ^ 20)).postFails (qa % 2 ^ 20) len prio = none
  readable : (d.qTouch (qa % 2 ^ 20)).bufFails l lines = none
  reached : (d.qTouch (qa % 2 ^ 20)).bufReach lines = (d5, true)

/-- The device in which a core's post is accepted and the core waits for its commit. -/
def Dev.posted (d : Dev) (l : Nat) (gd : BitVec 5) (sk n len prio : Nat) (payload : List Byte) : Dev :=
  (d.startPost n len prio (sk * 2 ^ 26 + l) (.core l gd) payload).updCore l fun c => { c with wait := .post gd d.bq.nextOwn }

section
variable {d d5 : Dev} {l qa maxLen len prio : Nat} {lines : List Nat} {o : SkeinCfg}

/-- A post that passes finds its queue alive and its length within an item's. -/
theorem postFails_none {n : Nat} (h : d.postFails n len prio = none) : (d.q n).dead = false ∧ len ≤ 4096 := by
  unfold Dev.postFails at h
  dsimp only at h
  split at h
  · exact nomatch h
  split at h
  · exact nomatch h
  split at h
  · exact nomatch h
  · next hd =>
    split at h
    · exact nomatch h
    split at h
    · exact nomatch h
    · next hb =>
      refine ⟨by simpa using hd, ?_⟩
      unfold badItem at hb
      simp only [Bool.or_eq_true, decide_eq_true_eq, not_or] at hb
      omega

theorem qpost_accepted (gd : BitVec 5) (payload : List Byte) (h : d.Accepts l qa maxLen len prio lines o d5) :
    d.qpost l gd qa maxLen lines (some (len, prio, payload)) =
      .stay ((d5.bufRead lines).posted l gd ((d.skeinOf l).getD 0) (qa % 2 ^ 20) len prio payload) := by
  have hw := Bool.and_eq_false_imp.2 h.waits
  have hlen : decide (maxLen < len) = false := decide_eq_false (Nat.not_lt.2 h.fits)
  unfold Dev.qpost Dev.bufTake
  simp only [Option.getD_some, h.safe, h.plain, h.here, h.owner, h.right, hw, Bool.not_true, Bool.false_eq_true, if_false, hlen, h.passes,
    h.readable, h.reached]
  cases (d.qTouch (qa % 2 ^ 20)).postFails (qa % 2 ^ 20) 64 0 with
  | none => rfl
  | some st => cases st <;> rfl

theorem posted_bq (gd : BitVec 5) (sk n : Nat) (payload : List Byte) : (d.posted l gd sk n len prio payload).bq.posts =
    d.bq.posts ++ [⟨d.bq.nextOwn, n, (d.q n).wr, (len + 63) / 64, len, prio, sk * 2 ^ 26 + l, .core l gd, payload⟩] ∧
    (d.posted l gd sk n len prio payload).q n = (d.q n).alloc d.bq.nextOwn ((len + 63) / 64) := by
  exact ⟨rfl, (q_setQ d n n _).trans (if_pos rfl)⟩

/-- The core of an accepted post waits at its instruction for the commit. -/
theorem posted_core (h : d.Accepts l qa maxLen len prio lines o d5) (gd : BitVec 5) (sk n : Nat) (payload : List Byte) :
    (((d5.bufRead lines).posted l gd sk n len prio payload).core l).wait = .post gd (d5.bufRead lines).bq.nextOwn ∧
    (((d5.bufRead lines).posted l gd sk n len prio payload).core l).pc = (d.core l).pc := by
  have hc := bufReach_cores (d.qTouch (qa % 2 ^ 20)) lines
  rw [h.reached] at hc
  have hcores : ((d5.bufRead lines).startPost n len prio (sk * 2 ^ 26 + l) (.core l gd) payload).cores = d.cores := by
    rw [(startPost_kept ..).2, (bufRead_kept ..).2]
    exact hc.trans (qTouch_alive_cores (postFails_none h.passes).1)
  have hk : ((d5.bufRead lines).posted l gd sk n len prio payload).core l = { d.core l with wait := .post gd (d5.bufRead lines).bq.nextOwn } := by
    unfold Dev.posted
    rw [core_updCore, if_pos rfl, core_of_cores hcores]
  rw [hk]
  exact ⟨rfl, rfl⟩

end

/-- An instruction that stays at its place answers the device it leaves. -/
theorem completes_stay {c : Instr} {l : Fin 384} {s : State} {f : Dev → CoreOut} {e : Dev} (he : exec c s = runInstr l s f) (hs : s.ready l)
    (hf : f (s.fetched l) = .stay e) : Completes c s fun t => t = e := by
  refine ⟨_, he, rfl, ?_⟩
  show s.dev.instr l f = e
  rw [instr_ready s l f hs, hf]
  rfl

/-! ### A commit -/

theorem cellsWritten_cores (d : Dev) (lines : List Nat) (bs : List Byte) : (d.cellsWritten lines bs).cores = d.cores :=
  foldl_keeps Dev.cores _ (fun d i => by simp only [hcInstall_cores, setPoison_cores, putBytes_cores, markStale_cores]) _ d

/-- An item's cells written and linked, and its poster's skein charged. -/
def Dev.linked (d : Dev) (p : QPost) (ls : SkeinCfg → List Nat) (bs : List Byte) : Dev :=
  let d := match d.qOwner p.q with
    | some o => d.cellsWritten (ls o) bs
    | none => d
  let d := d.linkTouch p.q p.cell p.n true
  d.hubAdd (d.posterSkein p.q p.poster) 0 1

theorem linked_engine (d : Dev) (p : QPost) (ls : SkeinCfg → List Nat) (bs : List Byte) : (d.linked p ls bs).engine = d.engine := by
  unfold Dev.linked
  dsimp only
  rw [hubAdd_engine, linkTouch_engine]
  split
  · exact cellsWritten_engine ..
  · rfl

theorem linked_cores (d : Dev) (p : QPost) (ls : SkeinCfg → List Nat) (bs : List Byte) : (d.linked p ls bs).cores = d.cores := by
  unfold Dev.linked
  dsimp only
  rw [(hubAdd_kept ..).2, (linkTouch_kept ..).2]
  split
  · exact cellsWritten_cores ..
  · rfl

/-- The device without a post. -/
def Dev.unposted (d : Dev) (id : Nat) : Dev := { d with bq := { d.bq with posts := d.bq.posts.filter fun x => x.own != id } }

/-- The device with an item appended to its queue. -/
def Dev.appended (d : Dev) (n : Nat) (it : QItem) : Dev := d.updQ n fun c => { c with items := c.items ++ [it], seq := (c.seq + 1) % 2 ^ 32 }

/-- The item that a core's post becomes. -/
def Dev.itemOf (d : Dev) (p : QPost) (id : Nat) : QItem := ⟨id, p.cell, p.n, p.len, p.prio, false, false, p.tag, (d.q p.q).seq, d.tick⟩

theorem appended_q (d : Dev) (n : Nat) (it : QItem) :
    (d.appended n it).q n = { d.q n with items := (d.q n).items ++ [it], seq := ((d.q n).seq + 1) % 2 ^ 32 } := by
  unfold Dev.appended
  rw [q_updQ, if_pos rfl]

/-- What a core's post leaves once it is committed to a queue without waiters; `u` is the device without the post. -/
def Dev.committed (u : Dev) (p : QPost) (id l : Nat) (gd : BitVec 5) : Dev :=
  ((u.appended p.q (u.itemOf p id)).linked p (fun o => (u.q p.q).itemLines o (u.itemOf p id))
    ((u.itemOf p id).header (2 * b2n false + 4 * b2n false) ++ p.payload)).coreDone l gd (qword (u.q p.q).seq p.prio p.len 0 .ok)

theorem committed_engine (u : Dev) (p : QPost) (id l : Nat) (gd : BitVec 5) :
    (u.committed p id l gd).engine = (u.appended p.q (u.itemOf p id)).engine := by
  unfold Dev.committed
  rw [coreDone_engine, linked_engine]

theorem committed_q (u : Dev) (p : QPost) (id l : Nat) (gd : BitVec 5) : (u.committed p id l gd).q p.q =
    { u.q p.q with items := (u.q p.q).items ++ [u.itemOf p id], seq := ((u.q p.q).seq + 1) % 2 ^ 32 } := by
  have hb := bq_of_engine (committed_engine u p id l gd)
  rw [← appended_q]
  unfold Dev.q
  rw [hb]

theorem committed_core {u : Dev} {l : Fin 384} (hp : (u.core l.val).plain) (p : QPost) (id : Nat) (gd : BitVec 5) :
    (u.committed p id l.val gd).core l.val =
      { (u.core l.val).wg gd (qword (u.q p.q).seq p.prio p.len 0 .ok) with wait := .none, pc := (u.core l.val).pc + 4#64 } := by
  have hc : ((u.appended p.q (u.itemOf p id)).linked p (fun o => (u.q p.q).itemLines o (u.itemOf p id))
      ((u.itemOf p id).header (2 * b2n false + 4 * b2n false) ++ p.payload)).core l.val = u.core l.val :=
    core_of_cores (linked_cores ..) l.val
  rw [← hc] at hp
  unfold Dev.committed
  rw [core_coreDone hp, hc]

/-- The commit of a core's post to a queue without waiters. -/
theorem commitPost_core {d : Dev} {id : Nat} {p : QPost} {l : Nat} {gd : BitVec 5} (h1 : d.bq.posts.find? (fun x => x.own == id) = some p)
    (h2 : (d.qTouch p.q).bq.posts.find? (fun x => x.own == id) = some p) (hp : p.poster = .core l gd) (hw : ((d.qTouch p.q).q p.q).waiters = []) :
    d.commitPost id = ((d.qTouch p.q).unposted id).committed p id l gd := by
  have hc : (d.qTouch p.q).commitsNow p = true := by
    unfold Dev.commitsNow
    rw [hp]
  have hx : ((((d.qTouch p.q).unposted id).committed p id l gd).q p.q).waiters = [] := by
    rw [committed_q]
    exact hw
  unfold Dev.commitPost
  rw [h1]
  dsimp only
  rw [h2]
  dsimp only
  rw [hc, if_neg (by decide), hp]
  have ho (e : Dev) (he : (e.q p.q).waiters = []) : e.offer p.q (e.q p.q).waiters = e := by rw [he]; rfl
  refine Eq.trans ?_ (ho _ hx)
  unfold Dev.committed Dev.linked Dev.appended Dev.itemOf Dev.unposted
  rw [hp] <;> rfl

theorem pumpAll_of_no_fns {d : Dev} (h : d.fns = []) : d.pumpAll = d := by
  unfold Dev.pumpAll Dev.chanKeys
  rw [h]
  rfl

theorem completes_itemCommit {l : Fin 384} {id : Nat} {gd : BitVec 5} {p : QPost} {s : State}
    (h1 : s.dev.bq.posts.find? (fun x => x.own == id) = some p) (h2 : (s.dev.qTouch p.q).bq.posts.find? (fun x => x.own == id) = some p)
    (hp : p.poster = .core l.val gd) (hw : ((s.dev.qTouch p.q).q p.q).waiters = [])
        (hf : (s.dev.qTouch p.q).fns = []) : Completes (.itemCommit id) s fun t => t = ((s.dev.qTouch p.q).unposted id).committed p id l.val gd := by
  refine completes_of_eq (d := (s.dev.commitPost id).pumpAll) rfl ?_
  rw [commitPost_core h1 h2 hp hw, pumpAll_of_no_fns]
  exact (fns_of_engine (committed_engine ..)).trans hf

/-! ### Remote posts -/

section
variable {l : Fin 384} {r : RemotePost} {s : State}

theorem coreDone_ends {e d : Dev} (h : e.core l.val = d.core l.val) (hq : d.quiet l.val = true) (gd : BitVec 5) (x : Word) :
    ((e.coreDone l.val gd x).core l.val).rg gd = (if gd = 0#5 then 0#64 else x) ∧ ((e.coreDone l.val gd x).core l.val).wait = .none ∧
      ((e.coreDone l.val gd x).core l.val).pc = (d.core l.val).pc + 4#64 := by
  rw [core_coreDone (by rw [h]; exact plain_of_quiet hq), h]
  exact ⟨rg_wg .., rfl, rfl⟩

theorem completes_hankItemAccept {d2 : Dev} (hq : s.dev.quiet l.val = true) (hr : s.dev.bq.remote.find? (fun x => x.l == l.val) = some r)
    (hp : s.dev.placeRemote r = (d2, true)) : Completes (.hankItemAccept l) s fun t =>
      (t.core l.val).rg r.gd = 0#64 ∧ (t.core l.val).wait = .none ∧ (t.core l.val).pc = (s.dev.core l.val).pc + 4#64 := by
  have hc : d2.core l.val = s.dev.core l.val := by
    have h := (placeRemote_kept s.dev r).2
    rw [hp] at h
    exact core_of_cores h l.val
  have he : exec (.hankItemAccept l) s = .next (s.withDev
      (({ d2 with bq := { d2.bq with remote := d2.bq.remote.filter fun x => x.l != l.val } } : Dev).coreDone l.val r.gd (qstat .ok))) := by
    show execHankItemAccept l s = _
    unfold execHankItemAccept onDev
    dsimp only
    rw [hr]
    dsimp only
    rw [hp]
  obtain ⟨hg, hw, hpc⟩ := coreDone_ends (e := { d2 with bq := { d2.bq with remote := d2.bq.remote.filter fun x => x.l != l.val } }) hc hq r.gd (qstat .ok)
  exact completes_of_eq he ⟨hg.trans (ite_self _), hw, hpc⟩

theorem completes_creditWaitExpire (hq : s.dev.quiet l.val = true) (hr : s.dev.bq.remote.find? (fun x => x.l == l.val) = some r) :
    Completes (.creditWaitExpire l) s fun t => (t.core l.val).rg r.gd = (if r.gd = 0#5 then 0#64 else 11#64) ∧
      (t.core l.val).wait = .none ∧ (t.core l.val).pc = (s.dev.core l.val).pc + 4#64 := by
  refine completes_of_eq (d := _) (c := .creditWaitExpire l) rfl ?_
  dsimp only
  rw [hr]
  refine coreDone_ends (d := s.dev) ?_ hq r.gd (qstat .full)
  rfl

end

/-! ### QPOST and QPOSTL -/

section
variable {l : Fin 384} {s : State} {c : Instr} {f : Dev → CoreOut} {d d5 : Dev} {gd : BitVec 5} {qa maxLen len prio : Nat} {lines : List Nat}
  {payload : List Byte} {o : SkeinCfg}

/-- A post that reaches the engine in `d`, nothing of its core's control changed, and is accepted there. -/
theorem completes_post (he : exec c s = runInstr l s f) (hs : s.ready l)
    (hf : f (s.fetched l) = d.qpost l.val gd qa maxLen lines (some (len, prio, payload))) (hpc : (d.core l.val).pc = ((s.fetched l).core l.val).pc)
    (h : d.Accepts l.val qa maxLen len prio lines o d5) : Completes c s fun t =>
      (t.core l.val).wait = .post gd (d5.bufRead lines).bq.nextOwn ∧ (t.core l.val).pc = ((s.fetched l).core l.val).pc ∧
      t.bq.posts = (d5.bufRead lines).bq.posts ++ [⟨(d5.bufRead lines).bq.nextOwn, qa % 2 ^ 20, ((d5.bufRead lines).q (qa % 2 ^ 20)).wr,
          (len + 63) / 64,
        len, prio, (d.skeinOf l.val).getD 0 * 2 ^ 26 + l.val, .core l.val gd, payload⟩] ∧
      t.q (qa % 2 ^ 20) = ((d5.bufRead lines).q (qa % 2 ^ 20)).alloc (d5.bufRead lines).bq.nextOwn ((len + 63) / 64) := by
  refine (completes_stay he hs (hf.trans (qpost_accepted gd payload h))).imp fun t ht => ?_
  subst ht
  obtain ⟨hw, hp⟩ := posted_core h gd ((d.skeinOf l.val).getD 0) (qa % 2 ^ 20) payload
  obtain ⟨hb, hq⟩ := posted_bq (d := d5.bufRead lines) (l := l.val) (len := len) (prio := prio) gd ((d.skeinOf l.val).getD 0) (qa % 2 ^ 20) payload
  exact ⟨hw, hp.trans hpc, hb, hq⟩

end

/-- Settles O24: a post passes its checks and waits, or commits, with its core's registers and the engine's lists stated by the functions that hand it
over. -/
theorem postsAndTheirEnds : Obligations.PostsAndTheirEnds := by
  refine ⟨?_, ?_⟩
  · intro l gd ga gb slot s hs
    dsimp only
    refine ⟨?_, ?_⟩
    · intro d1 x1 d3 xs hal hx1 hn1 hd hline hx2 hn2 ha o d5 hsafe h31 hloc how hr hw hpass hread hreach
      have h1 := xlatOnly_xlPages (s.fetched l) l.val .load [((s.fetched l).core l.val).rg gb]
      rw [hx1] at h1
      have h2 := xlatOnly_xlPages (d1.drained l.val).1 l.val .load (pageVas (((s.fetched l).core l.val).rg gb) (max 16
        (leAt ((d1.drained l.val).1.bufBytes (((s.fetched l).core l.val).rg gb) x1 16) 0 2)))
      rw [hx2] at h2
      refine completes_post rfl hs ?_ ((h1.trans (xlatOnly_drained d1 l.val)).trans h2).pc_eq
        ⟨hsafe, h31, hloc, how, hr, hw, (postFails_none hpass).2, hpass, hread, hreach⟩
      have hrd : (d1.drained l.val).1.headReadable l.val (bufPa (((s.fetched l).core l.val).rg gb) x1 0 / 64) = true := by
        unfold Dev.headReadable
        rw [hline]
        rfl
      dsimp only
      rw [if_neg (by simpa using hal), hx1]
      dsimp only
      rw [hn1, hd, hrd]
      simp only [Bool.not_true, Bool.false_eq_true, if_false, if_true]
      rw [hx2]
      dsimp only
      rw [hn2, withAds_none _ _ ha]
      rfl
    · intro hd hlen o d5 hsafe h31 hloc how hr hw hpass hread hreach
      have hx := xlatOnly_drained (s.fetched l) l.val
      refine completes_post rfl hs ?_ hx.pc_eq ⟨hsafe, h31, hloc, how, hr, hw, hlen, hpass, hread, hreach⟩
      dsimp only
      rw [hd, hx.rg_eq]
      rfl
  · intro l id gd p r d2 s
    dsimp only
    refine ⟨fun h1 h2 hp hw hf hq => ?_, fun hq hr => ⟨fun hp => completes_hankItemAccept hq hr hp, completes_creditWaitExpire hq hr⟩⟩
    refine (completes_itemCommit h1 h2 hp hw hf).imp fun t ht => ?_
    subst ht
    have hk := committed_core (u := (s.dev.qTouch p.q).unposted id) (plain_of_quiet hq) p id gd
    refine ⟨?_, ?_, ?_, ?_, ?_, ?_⟩
    · rw [committed_q]
      rfl
    · rw [committed_q]
      rfl
    · rw [bq_of_engine (committed_engine ..)]
      rfl
    · rw [hk]
      exact rg_wg ..
    · rw [hk]
    · rw [hk]
      rfl

end Sys2Proof.Machine
end
